-- ==== Sys2Proof/Word.lean ====
section
/-! DEFINITION. The word types of the engine and their plainest arithmetic: 32-bit little-endian register words (R4), bytes,
and named bit fields of a word. -/

namespace Sys2Proof

/-- A 32-bit register word (R4). -/
abbrev Word := BitVec 32

/-- A byte. -/
abbrev Byte := BitVec 8

/-- A field of a word: its lowest bit and its width. -/
structure Fld where
  lo : Nat
  width : Nat
  deriving DecidableEq, Repr

/-- The bits of a field. -/
def Fld.mask (f : Fld) : Word := BitVec.ofNat 32 ((2 ^ f.width - 1) * 2 ^ f.lo)

end Sys2Proof

namespace BitVec

/-- The value of a field. -/
def getF (w : BitVec 32) (f : Sys2Proof.Fld) : Nat := w.toNat / 2 ^ f.lo % 2 ^ f.width

/-- The word with a field set; bits of `v` beyond the field's width are dropped. -/
def setF (w : BitVec 32) (f : Sys2Proof.Fld) (v : Nat) : BitVec 32 :=
  (w &&& ~~~ f.mask) ||| BitVec.ofNat 32 (v % 2 ^ f.width * 2 ^ f.lo)

end BitVec
end

