-- ==== Sys2Proof/Machine/FMap.lean ====
section
/-! DEFINITION. Sparse maps: sorted lists of (key, value) pairs in one canonical form. A key that is not listed holds
the default value of that key, and no listed value equals its default, so equal maps are equal data. -/

namespace Sys2Proof.Machine

/-- A sparse map from numbers to values. -/
abbrev FMap (α : Type) := List (Nat × α)

/-- The listed value of a key. -/
def FMap.find {α : Type} (k : Nat) : FMap α → Option α
  | [] => none
  | (j, v) :: m => if k = j then some v else FMap.find k m

/-- The value of a key: the listed one, or the default of the key. -/
def FMap.get {α : Type} (d : Nat → α) (m : FMap α) (k : Nat) : α :=
  match FMap.find k m with
  | some v => v
  | none => d k

/-- The map with the key not listed. -/
def FMap.erase {α : Type} (k : Nat) : FMap α → FMap α
  | [] => []
  | (j, v) :: m => if j = k then FMap.erase k m else (j, v) :: FMap.erase k m

/-- The map with the key listed at its place in ascending order. -/
def FMap.insert {α : Type} (k : Nat) (v : α) : FMap α → FMap α
  | [] => [(k, v)]
  | (j, w) :: m =>
    if k < j then (k, v) :: (j, w) :: m
    else if k = j then (k, v) :: m
    else (j, w) :: FMap.insert k v m

/-- The map with a key's value set; a value equal to the default removes the entry. -/
def FMap.set {α : Type} [DecidableEq α] (d : Nat → α) (m : FMap α) (k : Nat) (v : α) : FMap α :=
  if v = d k then FMap.erase k m else FMap.insert k v m

/-- The map with a key's value changed by a function. -/
def FMap.modify {α : Type} [DecidableEq α] (d : Nat → α) (m : FMap α) (k : Nat) (f : α → α) : FMap α :=
  FMap.set d m k (f (FMap.get d m k))

/-- Every key of the list is above `k`, and the keys rise strictly. -/
def FMap.above {α : Type} (k : Nat) : FMap α → Bool
  | [] => true
  | (j, _) :: m => decide (k < j) && FMap.above j m

/-- The keys rise strictly. -/
def FMap.sorted {α : Type} : FMap α → Bool
  | [] => true
  | (j, _) :: m => FMap.above j m

/-- No listed value equals its default. -/
def FMap.lean {α : Type} [DecidableEq α] (d : Nat → α) : FMap α → Bool
  | [] => true
  | (j, v) :: m => decide (v ≠ d j) && FMap.lean d m

/-- The canonical form. -/
def FMap.wf {α : Type} [DecidableEq α] (d : Nat → α) (m : FMap α) : Bool :=
  FMap.sorted m && FMap.lean d m

/-- The keys listed. -/
def FMap.keys {α : Type} (m : FMap α) : List Nat := m.map (·.1)

end Sys2Proof.Machine
end

