-- ==== Sys2Proof/Machine/TypesCan.lean ====
section
/-! DEFINITION. The internal state of the Canary as plain data: decoders, runs and wake events (R446 to R457). -/

namespace Sys2Proof.Machine

/-- One edge decoder (R446, R447): what stands beside its registers. -/
structure CanDec where
  counted : Bool
  clean : Bool
  ovr : Bool
  net : Int
  /-- Levels of A and B after INV, as last accepted. -/
  lvA : Bool
  lvB : Bool
  /-- INCR: raw count, direction and position of the hysteresis (R208, R210). -/
  raw : Int
  pos : Int
  /-- TOOTH: the place of the last tooth (R42, R60). -/
  hp : Nat
  turn : Nat
  cycleBase : Int
  rev : Bool
  deriving DecidableEq, Repr

/-- A decoder that counts nothing. -/
def CanDec.init : CanDec :=
  { counted := false, clean := false, ovr := false, net := 0, lvA := false, lvB := false, raw := 0, pos := 0, hp := 0,
    turn := 0, cycleBase := 0, rev := false }

/-- The run in progress. -/
inductive CanRun where
  | idle
  /-- A run in Watch (R450). -/
  | watch
  /-- A test run (R457). -/
  | test
  deriving DecidableEq, Repr

/-- One instruction of the Canary program (R453): the fields of its word; OP is the command's row. -/
structure CanWord where
  d : BitVec 3
  s : BitVec 3
  m : BitVec 4
  imm : BitVec 16
  deriving DecidableEq, Repr

/-- The outside readings that a snapshot takes (R451): pin levels of event lines 0-15 and their changes, the supply and the permit of
bank 0, junction temperatures in 1/16 °C and the input power in mW. -/
structure CanInputs where
  pins : BitVec 16
  /-- Lines that have changed level since the previous snapshot, each level held for 1 µs. -/
  moved : BitVec 16
  bsOk : Bool
  bankEn : Bool
  tj0 : Int
  tj1 : Int
  tj2 : Int
  tj3 : Int
  tj4 : Int
  tj5 : Int
  pin : Nat
  deriving DecidableEq, Repr

/-- The Canary. -/
structure Canary where
  /-- The program; a word never loaded is 0, which no legal word is (R453, R456). -/
  prog : FMap Word
  v : FMap Word
  z : Bool
  n : Bool
  run : CanRun
  pc : Nat
  /-- Instructions executed in the run. -/
  steps : Nat
  /-- The sampled sources (R451). -/
  sample : FMap Word
  /-- Levels of lines 0-15 in the last snapshot (R451). -/
  levels : Nat
  /-- AON cycle of the last run. -/
  lastRun : Nat
  dec : FMap CanDec
  /-- Raises latched in AON: source, value and count (R454). -/
  raises : List (Nat × Word × Nat)
  deriving DecidableEq, Repr

/-- The Canary after a cold reset. -/
def Canary.init : Canary :=
  { prog := [], v := [], z := false, n := false, run := .idle, pc := 0, steps := 0, sample := [], levels := 0,
    lastRun := 0, dec := [], raises := [] }

end Sys2Proof.Machine
end

