-- ==== Sys2Proof/Machine/TypesBlu.lean ====
section
/-! DEFINITION. The internal state of the Blulet microengines as plain data: threads, their waits, queued edges (R91 to
R117, R133). -/

namespace Sys2Proof.Machine

/-- The seven flags of a thread (R117). -/
structure BluFlags where
  z : Bool
  n : Bool
  c : Bool
  v : Bool
  /-- TO: a timed wait ended on its time limit. -/
  tmo : Bool
  /-- F: a request was not carried out. -/
  f : Bool
  /-- L: an EDGE has been placed late; sticky. -/
  l : Bool
  deriving DecidableEq, Repr

/-- All flags clear. -/
def BluFlags.init : BluFlags := { z := false, n := false, c := false, v := false, tmo := false, f := false, l := false }

/-- STATE of a thread (R96). -/
inductive ThState where
  | stopped | ready | running | waiting | held | faulted
  deriving DecidableEq, Repr

/-- The code of a thread's STATE. -/
def ThState.code : ThState → Nat
  | .stopped => 0
  | .ready => 1
  | .running => 2
  | .waiting => 3
  | .held => 4
  | .faulted => 5

/-- An edge queued on a precision output (R133): its time in 1/64 ticks, the thread and the level. -/
structure QEdge where
  at_ : Nat
  thread : Nat
  level : Bool
  deriving DecidableEq, Repr

/-- What a wait of kind BUS brings back (R126, R131). -/
inductive Ret where
  /-- A register read for gD. -/
  | word (d : Nat) (w : Word)
  /-- Two registers for wide register `d`. -/
  | wide (d : Nat) (w : BitVec 64)
  /-- A read that completed with a status other than OK; the address of the instruction. -/
  | bad (fpc : Nat)
  /-- The status of a request: F, and what gD receives. -/
  | request (f : Bool) (d : Option Nat) (w : Word)
  /-- A snapshot: gD receives the number of cells, the bytes go to data memory. -/
  | snap (d n addr : Nat) (bytes : List (BitVec 8))
  /-- A posted write or a capture that waits for room in a full crossing; the address of the instruction. -/
  | write (a : Nat) (v : Word)
  | capture (cell : Nat)
  /-- An EDGE that waits for room in the queue of an output. -/
  | edge (d out : Nat) (e : QEdge)
  deriving DecidableEq, Repr

/-- What a thread waits for (R98). The a and t registers named are numbered 0 and 1. -/
inductive WaitOn where
  | none_
  | angle (shaft reg : Nat) (timed : Bool)
  | time (reg : Nat)
  | signals (mask : Nat) (dest : Option Nat) (timed : Bool)
  | bus (r : Ret)
  | fence
  deriving DecidableEq, Repr

/-- The code of a wait (R98). -/
def WaitOn.code : WaitOn → Nat
  | .none_ => 0
  | .angle _ _ timed => if timed then 4 else 1
  | .time _ => 2
  | .signals _ _ timed => if timed then 5 else 3
  | .bus _ => 6
  | .fence => 7

/-- One thread (R92, R117): what stands beside its registers of the BLU block. -/
structure Thread where
  st : ThState
  g : FMap Word
  a0 : BitVec 64
  a1 : BitVec 64
  t0 : BitVec 64
  t1 : BitVec 64
  flags : BluFlags
  pc : Nat
  /-- The return stack, newest first. -/
  stack : List Nat
  wait : WaitOn
  /-- The meet-tick register of the wait: t0 or t1 (R128). -/
  meet : Option Nat
  /-- Tick of the latest setting of each signal bit (R128). -/
  stamps : FMap Nat
  /-- Instructions issued in the present slice (R101). -/
  issued : Nat
  /-- Order in which it became READY, and the tick (R102, R106). -/
  seq : Nat
  readyTick : Nat
  /-- Promoted by its deadline for one slice (R106). -/
  promoted : Bool
  stopPend : Bool
  /-- Posted accesses whose status returned other than OK: the addresses of their instructions (R114). -/
  errs : List Nat
  /-- A BUS_ERR that waits for the next yield point. -/
  errPend : Option Nat
  deriving DecidableEq, Repr

/-- A thread after reset (R96). -/
def Thread.init : Thread :=
  { st := .stopped, g := [], a0 := 0, a1 := 0, t0 := 0, t1 := 0, flags := BluFlags.init, pc := 0, stack := [],
    wait := .none_, meet := none, stamps := [], issued := 0, seq := 0, readyTick := 0, promoted := false,
    stopPend := false, errs := [], errPend := none }

/-- What protection finds on a fetch or on a data access (R94). -/
inductive MemErr where
  | none_
  /-- A single-bit error, corrected in the access. -/
  | corrected
  /-- A double-bit error. -/
  | uncorrectable
  deriving DecidableEq, Repr

/-- The worse of two findings. -/
def MemErr.worse : MemErr → MemErr → MemErr
  | .uncorrectable, _ => .uncorrectable
  | _, .uncorrectable => .uncorrectable
  | .corrected, _ => .corrected
  | .none_, m => m

/-- One issue of an instruction by a thread: the fields of its word (R118), and what protection newly finds on its fetch
and on its data access (R94). OP is the command's row. -/
structure Issue where
  thread : Fin 256
  d : BitVec 4
  s : BitVec 4
  t : BitVec 4
  m : BitVec 4
  x : BitVec 8
  imm : BitVec 32
  fetch : MemErr
  data : MemErr
  deriving DecidableEq, Repr

end Sys2Proof.Machine
end

