-- ==== Sys2Proof/Machine/TypesHost.lean ====
section
/-! DEFINITION. The internal state of the command path as plain data: status values, command and reply records,
sessions, transactions, notifications, faults, tallies and the journal, and the fabric. -/

namespace Sys2Proof.Machine

/-- The status values (R329). -/
inductive Status where
  | ok | addr | access | busy | nospace | quota | state | txn | late | range | chain | budget | crc | opcode | locked
  | timeout
  deriving DecidableEq, Repr

/-- The number of a status value (R329). -/
def Status.code : Status → Nat
  | .ok => 0x00
  | .addr => 0x01
  | .access => 0x02
  | .busy => 0x03
  | .nospace => 0x04
  | .quota => 0x05
  | .state => 0x06
  | .txn => 0x07
  | .late => 0x08
  | .range => 0x09
  | .chain => 0x0A
  | .budget => 0x0B
  | .crc => 0x0C
  | .opcode => 0x0D
  | .locked => 0x0E
  | .timeout => 0x0F

/-- How the last operation or command completed: its status, RESULT and reply body (R319). -/
structure Completion where
  status : Status
  result : Nat
  body : List Byte
  deriving DecidableEq, Repr

/-- A completion with nothing returned. -/
def Completion.init : Completion := { status := .ok, result := 0, body := [] }

/-- A command record (R318). Bits [7:4] of FLAGS stand in `resv`; `whole` tells that its body does not run past the end
of the frame body (R321). -/
structure CmdRec where
  opcode : Nat
  ordered : Bool
  txnFlag : Bool
  noreply : Bool
  urgent : Bool
  resv : Nat
  tag : Nat
  txn : Nat
  arg : Nat
  body : List Byte
  whole : Bool
  deriving DecidableEq, Repr

/-- A reply record that waits for its frame (R319, R327). -/
structure Reply where
  tag : Nat
  bytes : List Byte
  /-- 1 where sending it returns a credit (R324). -/
  credit : Nat
  dest : Nat
  tc : Nat
  tick : Nat
  /-- Address the frame carries as SRC (R31). -/
  src : Nat
  /-- Sending it frees the session (R323, R328). -/
  release : Bool
  /-- The RESULT it carries should the safe state be entered in its tick, where its command has permitted outputs (R29). -/
  permit : Option Nat
  deriving DecidableEq, Repr

/-- Why a command in flight has not completed. -/
inductive Hold where
  /-- Waits for its chain (R330). -/
  | chain
  /-- A FENCE (R331); the tick of the last effect it waits out. -/
  | fence (since : Nat)
  /-- A TXN_COMMIT that waits for its point (R351). -/
  | commit (txn : Nat)
  /-- A TXN_PREPARE that waits for locks (R357). -/
  | prepare (txn : Nat)
  /-- A CODE_JOB with WAIT (R185). -/
  | job (id : Nat)
  /-- A POWER_STATE to Watch or Off (R341). -/
  | power
  /-- A BLULET_STOP that waits for threads to reach a yield point (R112): the state found, the events cancelled so far,
  the threads found RUNNING. -/
  | stop (found count : Nat) (running : List Nat)
  deriving DecidableEq, Repr

/-- A command in flight. -/
structure Flight where
  id : Nat
  session : Nat
  dest : Nat
  cmd : CmdRec
  hold : Hold
  /-- The session has been released or reset: no reply is sent (R323). -/
  mute : Bool
  deriving DecidableEq, Repr

/-- A command session (R323 to R327). -/
structure Session where
  owner : Option Nat
  credits : Nat
  broken : Bool
  replies : List Reply
  /-- A NOP RELEASE has completed and frees the session once its reply is sent (R328). -/
  releasing : Bool
  deriving DecidableEq, Repr

/-- A free session with all its credits. -/
def Session.init : Session := { owner := none, credits := 128, broken := false, replies := [], releasing := false }

/-- A commit point (R348). -/
structure Point where
  kind : Nat
  param : Nat
  limit : Nat
  value : Int
  deriving DecidableEq, Repr

/-- The phase of a transaction. -/
inductive TxnPhase where
  | opened
  | pending
  /-- Prepared, with the decision recorded or not (R358). -/
  | prepared (decided : Bool)
  deriving DecidableEq, Repr

/-- A unit that a transaction locks (R346). -/
inductive LockUnit where
  | regs (range : Nat)
  | event (i : Nat)
  | product (i : Nat)
  | lane (n : Nat)
  | block (b : Nat)
  | claim (c : Nat)
  | engine (e : Nat)
  deriving DecidableEq, Repr

/-- A transaction (R342 to R358). -/
structure Txn where
  id : Nat
  session : Nat
  phase : TxnPhase
  staged : List CmdRec
  lastTick : Nat
  point : Point
  /-- Decision deadline in fabric ns (R356). -/
  deadline : Nat
  /-- Address of the session owner (R357). -/
  coord : Nat
  /-- Tick from which LIMIT counts. -/
  since : Nat
  locks : List LockUnit
  demand : Nat
  /-- The point has been reached in the tick given (R348 ANGLE, PRODUCT). -/
  reached : Option Nat
  deriving DecidableEq, Repr

/-- Delivery states of a notification source. -/
inductive NtfState where
  | idle | delivering | active
  deriving DecidableEq, Repr

/-- The contents of a notification record (R374). -/
structure NtfRec where
  sw : Bool
  wake : Bool
  count : Nat
  value : Word
  tick : Nat
  deriving DecidableEq, Repr

/-- The empty record. -/
def NtfRec.init : NtfRec := { sw := false, wake := false, count := 0, value := 0, tick := 0 }

/-- A register whose RC or W1C fields the hardware has set in the present tick (R8): the word as it stood before, and in
`plus` what the fields would hold had they been read at the start of the tick. -/
structure Fresh where
  base : Word
  plus : Word
  deriving DecidableEq, Repr

/-- Nothing set in the present tick. -/
def Fresh.none : Fresh := { base := 0, plus := 0 }

/-- One notification source (R364 to R373): MASK and TARGET stand in its register. -/
structure NtfSrc where
  st : NtfState
  pend : Bool
  cur : NtfRec
  /-- The record being delivered. -/
  out : NtfRec
  selTick : Nat
  actTick : Nat
  deriving DecidableEq, Repr

/-- A source after reset. -/
def NtfSrc.init : NtfSrc :=
  { st := .idle, pend := false, cur := NtfRec.init, out := NtfRec.init, selTick := 0, actTick := 0 }

/-- A notification target: the tick of its last completion (R369) and of its last selection block (R372). -/
structure NtfTgt where
  lastDone : Option Nat
  deriving DecidableEq, Repr

/-- A target after reset. -/
def NtfTgt.init : NtfTgt := { lastDone := none }

/-- What an entry of the fault log records (R502, R505). -/
inductive FaultKind where
  | raised | ended | event
  deriving DecidableEq, Repr

/-- A fault that is active (R502). -/
structure ActiveFault where
  code : Nat
  inst : Nat
  cls : Nat
  deriving DecidableEq, Repr

/-- One entry of the fault log (R505). -/
structure FaultEntry where
  seq : Nat
  time : Nat
  cal : Nat
  calValid : Bool
  kind : FaultKind
  cls : Nat
  code : Nat
  inst : Nat
  repeats : Nat
  detail : Nat
  boot : Nat
  deriving DecidableEq, Repr

/-- One gap record of the journal (R472). -/
structure GapRec where
  seq : Nat
  cause : Nat
  gen : Nat
  first : Nat
  last : Nat
  cal : Nat
  calValid : Bool
  deriving DecidableEq, Repr

/-- A stored configuration slot (R473): its records and its seal. -/
structure Slot where
  opened : Bool
  sealCrc : Option Nat
  recs : List Byte
  deriving DecidableEq, Repr

/-- An erased slot. -/
def Slot.init : Slot := { opened := false, sealCrc := none, recs := [] }

/-- A frame handed to a link port, or received from one, with its header fields (R379). -/
structure Frame where
  /-- 0 = L0, 1 = L1, 2 = T. -/
  port : Nat
  kind : Nat
  hops : Nat
  dest : Nat
  src : Nat
  tc : Nat
  dateline : Bool
  retry : Bool
  session : Nat
  seq : Nat
  body : List Byte
  deriving DecidableEq, Repr

/-- A learned route (R384): the port and HOPS of the latest arrivals on L0 and L1. -/
structure Route where
  l0 : Option Nat
  l1 : Option Nat
  last : Nat
  deriving DecidableEq, Repr

/-- A source from which nothing has been learned. -/
def Route.init : Route := { l0 := none, l1 := none, last := 0 }

/-- A frame that waits at a port for room at the receiver, with the port whose input buffer holds it (R388, R389). -/
structure Queued where
  frame : Frame
  from_ : Option Nat
  deriving DecidableEq, Repr

/-- The reply frame of an accepted write of GLB_ADDR.ADDR: the address before, and what tells the frame (R31). -/
structure Moving where
  old : Nat
  dest : Nat
  tc : Nat
  seq : Nat
  deriving DecidableEq, Repr

/-- What stands beside the registers of a link port (R388, R389, R393, R384). Counts of units of 64 bytes are kept per
class and set: number class × 2 + set, set 1 being the escape set. -/
structure LinkPort where
  queue : List Queued
  /-- Units sent and units the partner has freed, modulo 65 536. -/
  sent : FMap Nat
  peerFreed : FMap Nat
  /-- Units this engine has freed, and whether any since its last CREDIT. -/
  freed : FMap Nat
  dirty : Bool
  /-- Time of the last PDELAY_REQ sent, in 1/64 ticks, while its answer is awaited. -/
  reqAt : Option Nat
  /-- Only kinds 5 and 8 leave before this tick (R384). -/
  holdUntil : Nat
  /-- Bytes of link time of the TC0 frames sent in the present ms (R404). -/
  tc0Bytes : Nat
  deriving DecidableEq, Repr

/-- A port after reset. -/
def LinkPort.init : LinkPort :=
  { queue := [], sent := [], peerFreed := [], freed := [], dirty := false, reqAt := none, holdUntil := 0, tc0Bytes := 0 }

/-- The fabric unit (R382 to R398). -/
structure Fab where
  routes : FMap Route
  ports : FMap LinkPort
  /-- Next SEQ by destination × 4 + class, last SEQ by source × 4 + class plus 1 (R392). -/
  seqOut : FMap Nat
  seqIn : FMap Nat
  /-- Tick of the last SYNC of each host, plus 1 (R394). -/
  syncs : FMap Nat
  lastSync : Option Nat
  /-- Consecutive SYNCs whose servo error is below 100 ns (R395). -/
  goodRun : Nat
  nextPdelay : Nat
  nextCredit : Nat
  /-- Number of the last LINESHAFT sample instant used (R397). -/
  sampled : Int
  /-- Relays of LINK_CTL RESET: UID and tick (R498). -/
  relays : List (Nat × Nat)
  /-- A reply to an accepted write of the address that has not left its port yet (R31). -/
  moving : Option Moving
  deriving DecidableEq, Repr

/-- The fabric unit after reset. -/
def Fab.init : Fab :=
  { routes := [], ports := [], seqOut := [], seqIn := [], syncs := [], lastSync := none, goodRun := 0, nextPdelay := 0,
    nextCredit := 0, sampled := 0, relays := [], moving := none }

/-- The twin unit (R405 to R422): what stands beside its registers. -/
structure Twin where
  /-- Sequence number of the last MIRROR frame with SUB 1 to 5 sent, and of the last one applied (R411). -/
  seqOut : Nat
  seqIn : Option Nat
  /-- Tick of the last heartbeat sent; none before the first (R413). -/
  sentAt : Option Nat
  nextBeat : Nat
  /-- A heartbeat of the partner has been received since SEARCH began or since the last loss. -/
  heard : Bool
  peerRole : Nat
  peerInSync : Bool
  /-- Tick from which the wait of SEARCH runs (R406). -/
  searchFrom : Nat
  /-- Tick in which the loss was detected, and the probes sent since (R414). -/
  lossAt : Option Nat
  probes : Nat
  /-- A TWIN_ALIVE has arrived since the last probe sent first. -/
  alive : Bool
  /-- The mirror has delivered a write of TWN_CMD.SWITCH (R414). -/
  switch : Bool
  /-- Number of the last epoch boundary passed, by fabric time (R410). -/
  boundary : Int
  /-- Tick of the last boundary, while its EPOCH record is awaited (R412). -/
  awaited : Option Nat
  /-- Digests of the standby's own boundary tick: shafts 0-15, then lanes 0-15. -/
  digests : List Nat
  /-- Shafts and lanes whose digests differed in the last epoch: bit n shaft n, bit 16 + n lane n. -/
  differ : Nat
  /-- Shafts and lanes that await a resynchronisation since STALE began. -/
  wanted : Nat
  /-- Number of the next COPY part sent (R411). -/
  part : Nat
  /-- The joining transfer is complete, and an epoch has been applied since (R412, R421). -/
  joined : Bool
  epochDone : Bool
  /-- Reservations that await the partner's journal: generator and sequence number of the item (R177). -/
  reservations : List (Nat × Nat)
  /-- Owners of the pair's sessions as the mirror has told them (R417). -/
  owners : List (Nat × Nat)
  deriving DecidableEq, Repr

/-- The twin unit after reset. -/
def Twin.init : Twin :=
  { seqOut := 0, seqIn := none, sentAt := none, nextBeat := 0, heard := false, peerRole := 0, peerInSync := false,
    searchFrom := 0, lossAt := none, probes := 0, alive := false, switch := false, boundary := 0, awaited := none,
    digests := [], differ := 0, wanted := 0, part := 0, joined := false, epochDone := false, reservations := [], owners := [] }

/-- Units freed by class and set as a CREDIT frame tells them (R389). -/
structure Credits where
  n1 : BitVec 16
  e1 : BitVec 16
  n2 : BitVec 16
  e2 : BitVec 16
  n3 : BitVec 16
  e3 : BitVec 16
  deriving DecidableEq, Repr

/-- One entry of a LINESHAFT broadcast (R397). -/
structure LineEntry where
  shaft : Fin 16
  angValid : Bool
  dir : Bool
  spdValid : Bool
  still : Bool
  speed : BitVec 32
  angle : BitVec 64
  deriving DecidableEq, Repr

/-- The map from engine ticks to fabric time (R394): fabric time in 2^-16 ns at a tick, and the rate in 2^-32 ns per
tick. -/
structure TimeMap where
  tick : Nat
  ns16 : Int
  rate : Int
  deriving DecidableEq, Repr

/-- The boot ROM's view of the images in flash, and start-up's progress (R492 to R494, R500). -/
structure Boot where
  /-- The signature of image A, of image B, holds; release sequences; marked failed. -/
  validA : Bool
  validB : Bool
  seqA : Nat
  seqB : Nat
  failedA : Bool
  failedB : Bool
  /-- Ticks of the running image's own progress towards READY (R493). -/
  progress : Nat
  /-- Consecutive starts of the running image that have not reached READY (R493). -/
  starts : Nat
  /-- ENUMERATE or ASSIGN has given an address since the start (R494). -/
  addressed : Bool
  /-- Tick in which the orderly shutdown began. -/
  downAt : Nat
  /-- The input has returned during the shutdown, with its grant in mW (R500). -/
  back : Option Nat
  deriving DecidableEq, Repr

/-- A start with both images valid, the sequence of A not below that of B. -/
def Boot.init : Boot :=
  { validA := true, validB := true, seqA := 0, seqB := 0, failedA := false, failedB := false, progress := 0, starts := 0,
    addressed := false, downAt := 0, back := none }

/-- Six junction readings in 1/16 °C. -/
structure Junctions where
  t0 : Int
  t1 : Int
  t2 : Int
  t3 : Int
  t4 : Int
  t5 : Int
  deriving DecidableEq, Repr

/-- What a command record says beside its opcode, ARG and body (R318), and the frame that carries it: its source and its
session. -/
structure CmdHead where
  src : BitVec 16
  session : Fin 8
  ordered : Bool
  txnFlag : Bool
  noreply : Bool
  urgent : Bool
  resv : BitVec 4
  tag : BitVec 16
  txn : BitVec 16
  deriving DecidableEq, Repr

/-- The record of an opcode with this head, its body wholly in its frame. -/
def CmdHead.record (h : CmdHead) (opcode arg : Nat) (body : List Byte) : CmdRec :=
  { opcode := opcode, ordered := h.ordered, txnFlag := h.txnFlag, noreply := h.noreply, urgent := h.urgent,
    resv := h.resv.toNat, tag := h.tag.toNat, txn := h.txn.toNat, arg := arg, body := body, whole := true }

end Sys2Proof.Machine
end

