-- ==== Sys2Proof/Machine/TypesMotion.lean ====
section
/-! DEFINITION. The internal state of the motion units as plain data: shafts (chapters "Shafts: wheels, synchronisation
and angle" and "Shafts: speed, direction, phase and virtual shafts"), feedback ports and timer cells. What a register
field holds by itself stays in the register file; what stands here is what the rules keep beside it. Angles are
integers in 2^-16 ang (R36, R49). -/

namespace Sys2Proof.Machine

/-- SHFn_STATE.STATE (R45). -/
inductive SyncState where
  | unsync | seeking | gapFound | synced | limp | lost
  deriving DecidableEq, Repr

/-- The code of a synchronisation state (SHFn_STATE.STATE). -/
def SyncState.code : SyncState → Nat
  | .unsync => 0
  | .seeking => 1
  | .gapFound => 2
  | .synced => 3
  | .limp => 4
  | .lost => 5

/-- One measured interval of the history (R53, R54, R56). -/
structure Interval where
  /-- The interval normalised to one position, in whole ticks. -/
  norm : Nat
  /-- Its span in 2^-16 ang. -/
  span : Nat
  /-- Its duration in ticks as measured. -/
  ticks : Nat
  deriving DecidableEq, Repr

/-- A remembered second-wheel edge (R39, R44, R508, R509). -/
structure IdxEdge where
  tick : Nat
  rising : Bool
  /-- Main-wheel positions counted from the previous second-wheel edge to this one (R43, R509). -/
  teeth : Nat
  /-- The pattern edge it matched, if it matched one (R38). -/
  seg : Option Nat
  /-- The pattern edge whose time test it passed (R44). -/
  timed : Option Nat
  deriving DecidableEq, Repr

/-- The newest accepted line-shaft broadcast of a VIRT_FABRIC shaft (R65, R397). -/
structure Broadcast where
  /-- Unwrapped angle in ang. -/
  angle : Int
  speed : Int
  dir : Bool
  spdValid : Bool
  still : Bool
  /-- Fabric time of the sample in ns. -/
  sample : Int
  /-- Engine tick of its arrival. -/
  tick : Nat
  deriving DecidableEq, Repr

/-- The values an edge is judged on: those left by the tick before (R49). -/
structure Interp where
  tick : Nat
  mu : Nat
  tru : Int
  disp : Int
  fine : Int
  catching : Bool
  /-- The advance of φ in that tick, and the angle at which mu was held (R73). -/
  delta : Int
  limit : Int
  deriving DecidableEq, Repr

/-- One shaft. -/
structure Shaft where
  st : SyncState
  cause : Nat
  rel : Bool
  limpOk : Bool
  errCnt : Nat
  /-- Position within the turn in half positions: an odd number is the extra tooth after a position. -/
  hp : Nat
  turn : Nat
  turnFixed : Bool
  /-- The position is known while the angle is held: a first mark of unambiguous size, or a mark that matched (R43). -/
  posKnown : Bool
  /-- Unwrapped angle of position 0 of turn 0 of the present machine cycle. -/
  cycleBase : Int
  base : Int
  tru : Int
  disp : Int
  /-- The firing angle φ: the reported angle with the 16 fraction bits of mu (R73). -/
  fine : Int
  span : Nat
  rate : Nat
  mu : Nat
  catching : Bool
  /-- The advance of the every-tick step in this tick (delta of R73). -/
  delta : Int
  pre : Interp
  hist : List Interval
  /-- Span of the interval now running, for SPEED (R56). -/
  runSpan : Nat
  lastEdge : Option Nat
  /-- Tick of the last accepted edge or broadcast arrival that moved the angle (R73). -/
  movedAt : Option Nat
  /-- That edge or broadcast moved the angle by a JUMP (R50, R199). -/
  jumped : Bool
  speed : Int
  dir : Bool
  still : Bool
  /-- Intervals needed before SPD_VALID (R57). -/
  need : Nat
  /-- The last accepted edge was a reversal: the interval that the next edge ends is not entered (R54, R60). -/
  skipNext : Bool
  /-- Sign of the last broadcast speed that was not 0 (R65). -/
  vSign : Bool
  stillRef : Nat
  lastTpred : Nat
  /-- Tick of the last main-wheel edge, and T_pred as it stood then (R38, R44). -/
  lastMain : Option Nat
  mainTp : Nat
  /-- First half of an extra-tooth pair: its r, and the T_pred both halves are measured against (R40). -/
  half : Option (Nat × Nat)
  rho : Nat
  horizon : Int
  /-- Consecutive intervals in the tooth window (R45, relative synchronisation). -/
  relRun : Nat
  /-- The last gap seen while seeking: its size and the edges since it (R35). -/
  lastGap : Option (Nat × Nat)
  /-- Edges accepted since the last second-wheel edge, in positions (R43, R509). -/
  teeth : Nat
  idx : List IdxEdge
  /-- Pattern edge of the last second-wheel edge acting as a tooth in LIMP (R48). -/
  limpSeg : Nat
  /-- Main-wheel positions counted in LIMP, and that count at the tooth of the last matched second-wheel edge, with its
  pattern edge (R509). -/
  limpCum : Nat
  limpPrev : Option (Nat × Nat)
  /-- A second-wheel edge in LIMP that awaits its main tooth: its tick, its pattern edge, the count at the last tooth
  before it and the tick of that tooth (R509). -/
  limpWait : Option (Nat × Nat × Nat × Nat)
  /-- Greatest whole turn reached since EN was set (R460). -/
  maxTurn : Option Int
  vb : Option Broadcast
  /-- Broadcast periods counted as missed since the newest broadcast (R65). -/
  vMissed : Nat
  vHold : Bool
  /-- Carried fraction of the profile speed in 1/400 000 units (R67). -/
  profSpeed : Int
  /-- Unwrapped profile angle with 32 more fraction bits (R67). -/
  profAngle : Int
  phWin : List Int
  phSeen : Bool
  /-- Ticks of the last phase sample and of the last recomputation of a virtual shaft (R62, R70). -/
  phAt : Option Nat
  recompAt : Option Nat
  /-- Consecutive valid and bad frames of an ABS shaft (R45). -/
  absGood : Nat
  absBad : Nat
  deriving DecidableEq, Repr

/-- A shaft after reset (R46, R58: no motion, angle 0, standstill). -/
def Shaft.init : Shaft :=
  { st := .unsync, cause := 0, rel := false, limpOk := false, errCnt := 0, hp := 0, turn := 0, turnFixed := false, posKnown := false,
    cycleBase := 0, base := 0, tru := 0, disp := 0, fine := 0, span := 0, rate := 0, mu := 0, catching := false, delta := 0,
    pre := { tick := 0, mu := 0, tru := 0, disp := 0, fine := 0, catching := false, delta := 0, limit := 0 },
    hist := [], runSpan := 0, lastEdge := none, movedAt := none, jumped := false, speed := 0, dir := false, still := true,
    need := 2, skipNext := false, vSign := false, stillRef := 0,
    lastTpred := 0, lastMain := none, mainTp := 0, half := none, rho := 0, horizon := 0, relRun := 0, lastGap := none, teeth := 0,
    idx := [], limpSeg := 0, limpCum := 0, limpPrev := none, limpWait := none, maxTurn := none, vb := none, vMissed := 0, vHold := false,
    profSpeed := 0, profAngle := 0, phWin := [], phSeen := false, phAt := none, recompAt := none, absGood := 0, absBad := 0 }

/-- One feedback port (R204 to R233): what stands beside its registers. -/
structure Port where
  lvA : Bool
  lvB : Bool
  lvZ : Bool
  lvX : Bool
  /-- Ticks in which the filters of A, B, Z and AUX last accepted a level, each plus 1; 0 for none (R206). -/
  atA : Nat
  atB : Nat
  atZ : Nat
  atX : Nat
  /-- 32-bit counts, signed (R210). -/
  raw : Int
  pos : Int
  /-- Raw count of the last index event (R212). -/
  idxRef : Int
  /-- The last accepted change was a double change (R209). -/
  dbl : Bool
  /-- The last accepted change was a Hall error (R215). -/
  hallErr : Bool
  hallRef : Nat
  /-- Tick at which the next serial frame starts (R216). -/
  nextFrame : Option Nat
  /-- Sample tick of the frame in progress, and whether its result is delivered (R216, R232). -/
  frame : Option (Nat × Bool)
  lastSer : Option Nat
  serCount : Int
  settleEnd : Option Nat
  emuAcc : Int
  backlog : Int
  /-- State of the emulation outputs: quadrature state, direction, tick of the next count, index pulse pending. -/
  emuState : Nat
  emuDir : Bool
  emuNext : Nat
  emuIdx : Bool
  /-- The index pulse is on (R224). -/
  emuZ : Bool
  deriving DecidableEq, Repr

/-- A feedback port after reset. -/
def Port.init : Port :=
  { lvA := false, lvB := false, lvZ := false, lvX := false, atA := 0, atB := 0, atZ := 0, atX := 0, raw := 0, pos := 0, idxRef := 0, dbl := false,
    hallErr := false, hallRef := 0, nextFrame := none, frame := none, lastSer := none, serCount := 0,
    settleEnd := none, emuAcc := 0, backlog := 0, emuState := 0, emuDir := false, emuNext := 0, emuIdx := false,
    emuZ := false }

/-- One timer cell (R235 to R249): what stands beside its registers. -/
structure Cell where
  /-- Tick of the next step under CLK = TICK (R235). -/
  next : Nat
  capQ : List Word
  stagedPeriod : Option Word
  stagedCompare : Option Word
  /-- Values staged in the present tick: they wait for a boundary of a later one (R237, R246). -/
  newPeriod : Option Word
  newCompare : Option Word
  /-- Tick in which a restart of R238 is due, and tick of the last one: a step of that tick is part of it. -/
  cutAt : Option Nat
  cutTick : Option Nat
  /-- Tick in which a match of a passed COMPARE is due, and tick of the last match: a tick has one (R239). -/
  matchAt : Option Nat
  matchTick : Option Nat
  /-- A capture has been requested in the present tick: it is made as the tick ends (R240, R246). -/
  capReq : Bool
  /-- EN has been cleared in the present tick (R247). -/
  stop : Bool
  deriving DecidableEq, Repr

/-- A timer cell after reset. -/
def Cell.init : Cell :=
  { next := 0, capQ := [], stagedPeriod := none, stagedCompare := none, newPeriod := none, newCompare := none,
    cutAt := none, cutTick := none, matchAt := none, matchTick := none, capReq := false, stop := false }

/-- What the port samples on its data line in a frame (R217, R218). -/
structure SerSample where
  /-- The encoder was ready: data 1 at the start of an SSI frame, SLO pulled low in a BiSS frame. -/
  ready : Bool
  /-- The start bit came within 16 clock periods (BISS). -/
  started : Bool
  value : Nat
  /-- Data at the clock's final rising edge (SSI). -/
  zero : Bool
  nE : Bool
  nW : Bool
  crc : Nat
  delay : Nat
  deriving DecidableEq, Repr

end Sys2Proof.Machine
end

