-- ==== Sys2Proof/Machine/TypesOut.lean ====
section
/-! DEFINITION. The internal state of the output and measuring units as plain data: Almanac events, outputs, expander
chains, PWM generators, converters and raster lanes. -/

namespace Sys2Proof.Machine

/-- The power states (R430); Idle is Run with islands gated, which changes nothing that can be read (R18). -/
inductive Power where
  | run | doze | watch | off
  deriving DecidableEq, Repr

/-- The state of an Almanac event (R69). -/
inductive EvState where
  | free | armed | committed | active | done | cancelled | skipped
  deriving DecidableEq, Repr

/-- The code of an event state (R69). -/
def EvState.code : EvState → Nat
  | .free => 0
  | .armed => 1
  | .committed => 2
  | .active => 3
  | .done => 4
  | .cancelled => 5
  | .skipped => 6

/-- An event descriptor with its fields read out (R68). -/
structure EventDesc where
  kind : Nat
  index : Nat
  shaft : Nat
  window : Bool
  late : Nat
  revCancel : Bool
  stallCancel : Bool
  rep : Nat
  endact : Bool
  /-- END in ang. -/
  fin : Int
  duration : Nat
  span : Nat
  lateMax : Nat
  count : Nat
  period : Nat
  owner : Option Nat
  prodValid : Bool
  product : Nat
  deriving DecidableEq, Repr

/-- One Almanac event: its descriptor and what the Almanac keeps with it (R69 to R89). -/
structure AlmEvent where
  desc : EventDesc
  st : EvState
  /-- COUNT was 0 at arm: the repeat has no end (R80). -/
  endless : Bool
  /-- START in 2^-16 ang (R71). -/
  start : Int
  /-- Judged late at its next commitment: armed while ANG_VALID was 0, or its commitment was deferred (R72, R75). -/
  fresh : Bool
  /-- First tick in which the COMMITTED event may start: the next one for a commit at arm, which follows the starts of its
  tick (R86). -/
  notBefore : Nat
  /-- A repeat stopped by EVENT_CANCEL while ACTIVE (R88). -/
  stopRep : Bool
  startTick : Nat
  endTick : Nat
  /-- Tick and vernier step of the last start edge as EVENT_QUERY shows them (R89). -/
  edgeTick : Nat
  edgeStep : Nat
  lambda : Nat
  deriving DecidableEq, Repr

/-- The empty descriptor. -/
def EventDesc.init : EventDesc :=
  { kind := 0, index := 0, shaft := 0, window := false, late := 0, revCancel := false, stallCancel := false, rep := 0,
    endact := false, fin := 0, duration := 0, span := 0, lateMax := 0, count := 0, period := 0, owner := none,
    prodValid := false, product := 0 }

/-- An event never armed since reset. -/
def AlmEvent.init : AlmEvent :=
  { desc := EventDesc.init, st := .free, endless := false, start := 0, fresh := false, notBefore := 0, stopRep := false,
    startTick := 0, endTick := 0, edgeTick := 0, edgeStep := 0, lambda := 0 }

/-- One level output: event lines 0-127, precision outputs 128-143 and expander outputs 144-2191, numbered as the
tally catalogue numbers them (R459). -/
structure Output where
  /-- Logic state before polarity (R82, R276, R278, R280). -/
  on : Bool
  /-- High impedance until the logic next goes inactive (R28). -/
  hold : Bool
  /-- Active events that target it (R82). -/
  events : Nat
  /-- Level placed by EDGE of a thread (R133): the threads driving it active. -/
  edges : List Nat
  /-- Level of the encoder emulation output it follows where its SRC selects one (R278). -/
  emu : Bool
  /-- Pin times, in 1/64 ticks, of the last start edge and, on a precision output, of an end edge with which a start may
  yet merge: until that is past the output stays asserted (R82). -/
  lastStart : Nat
  lastEnd : Option Nat
  deriving DecidableEq, Repr

/-- An output after reset. -/
def Output.init : Output := { on := false, hold := false, events := 0, edges := [], emu := false, lastStart := 0, lastEnd := none }

/-- One expander chain (R279 to R283). -/
structure Chain where
  running : Bool
  stopping : Bool
  /-- The frame in progress is driven (R283). -/
  live : Bool
  /-- A frame has started in the present tick: its snapshot is taken when the tick ends (R280, R284). -/
  snapDue : Bool
  nextFrame : Nat
  lastFrame : Nat
  /-- Frames started since EN was set. -/
  count : Nat
  /-- Bits sent in the frame in progress. -/
  sent : Nat
  /-- Bits latched at the modules. -/
  latched : Nat
  /-- Positions asserted at some time since the previous snapshot (R280). -/
  pulsed : Nat
  /-- Captured input words, newest first (R281). -/
  caps : List Nat
  bad : Nat
  good : Nat
  deriving DecidableEq, Repr

/-- A chain after reset. -/
def Chain.init : Chain :=
  { running := false, stopping := false, live := false, snapDue := false, nextFrame := 0, lastFrame := 0, count := 0, sent := 0, latched := 0,
    pulsed := 0, caps := [], bad := 0, good := 0 }

/-- One of the two outputs of a PWM generator (R256 to R258). -/
structure PwmOut where
  active : Bool
  /-- Tick in which its start falls due, if a start waits on its delay. -/
  startAt : Option Nat
  startTick : Nat
  lastEnd : Nat
  /-- Tick in which a pulse held to MINPULSE ends. -/
  holdEnd : Option Nat
  /-- The pulse, or the start that waits, is stretched (R257). -/
  stretched : Bool
  /-- A stretched pulse of the other output delays the start that waits (R257). -/
  delayed : Bool
  deriving DecidableEq, Repr

/-- An inactive PWM output. -/
def PwmOut.init : PwmOut :=
  { active := false, startAt := none, startTick := 0, lastEnd := 0, holdEnd := none, stretched := false,
    delayed := false }

/-- One PWM generator (R251 to R268): what stands beside its registers. -/
structure Pwm where
  count : Nat
  down : Bool
  /-- The count has reached PERIOD in this CENTRE period (R251). -/
  turned : Bool
  ref : Bool
  /-- The reference has already risen, and has already fallen, in this period (R255). -/
  rose : Bool
  fell : Bool
  /-- The tick in which a DUTY written under IMMEDIATE last came into force (R253, R255). -/
  judgeFrom : Nat
  h : PwmOut
  l : PwmOut
  stagedPeriod : Option Word
  stagedDuty : Option Word
  stagedDt : Option Word
  stagedMinp : Option Word
  /-- A boundary, a mid-period point, is due in this tick. -/
  bndDue : Bool
  midDue : Bool
  /-- Tick in which a cut of R254 is due. -/
  cutAt : Option Nat
  blankEnd : Nat
  blanking : Bool
  adcAt : Option Nat
  /-- Waits for its next period boundary before it drives (R28). -/
  driveWait : Bool
  /-- Last lattice number reached (R259). -/
  lockK : Option Int
  resyncTick : Option Nat
  /-- Tick of the last boundary: a resynchronisation in the tick of a boundary raises no second one (R259). -/
  bndTick : Option Nat
  deriving DecidableEq, Repr

/-- A generator after reset. -/
def Pwm.init : Pwm :=
  { count := 0, down := false, turned := false, ref := false, rose := false, fell := false, judgeFrom := 0, h := PwmOut.init, l := PwmOut.init,
    stagedPeriod := none, stagedDuty := none, stagedDt := none, stagedMinp := none, bndDue := false, midDue := false,
    cutAt := none, blankEnd := 0, blanking := false, adcAt := none, driveWait := false, lockK := none,
    resyncTick := none, bndTick := none }

/-- A trip input: its filtered active level and the tick it last changed (R261, R265). -/
structure TripIn where
  active : Bool
  since : Nat
  deriving DecidableEq, Repr

/-- A trip input after reset. -/
def TripIn.init : TripIn := { active := false, since := 0 }

/-- What one sequence of a converter is doing (R287 to R291). -/
inductive AdcPhase where
  | idle
  /-- The delay runs until the tick. -/
  | delayed (until_ : Nat)
  /-- The delay has expired; the sequence waits for the other sequence's step to end. -/
  | waiting
  /-- The regular sequence is held by the governor. -/
  | held
  /-- A step acquires; its hold edge falls in the tick. -/
  | acquiring (holdAt : Nat)
  /-- A step converts; its conversion ends in the tick. -/
  | converting (endAt : Nat)
  deriving DecidableEq, Repr

/-- One result entry (R292). -/
structure AdcEntry where
  inj : Bool
  ovr : Bool
  angInv : Bool
  restarted : Bool
  step : Nat
  input : Nat
  code : Word
  tick : Nat
  /-- Words 2 and 3. -/
  tagLo : Word
  tagHi : Word
  /-- The result of the last step of its sequence (R289). -/
  last : Bool
  deriving DecidableEq, Repr

/-- The entry of no sample. -/
def AdcEntry.init : AdcEntry :=
  { inj := false, ovr := false, angInv := false, restarted := false, step := 0, input := 0, code := 0, tick := 0,
    tagLo := 0, tagHi := 0, last := false }

/-- One sequence of a converter. -/
structure AdcSeq where
  phase : AdcPhase
  step : Nat
  trigTick : Nat
  /-- Tick in which the last trigger came: several in one tick count as one (R288). -/
  trigAt : Option Nat
  restarted : Bool
  /-- The sample the step in conversion holds. -/
  sample : AdcEntry
  /-- The last step has ended; the sequence completes when its result has entered the queue (R289). -/
  closing : Bool
  /-- Tick in which the sequence last completed: it accepts triggers from the next tick (R289). -/
  doneAt : Option Nat
  /-- REG_TRIG or INJ_TRIG has been written in the present tick: the trigger comes in the next (R298). -/
  asked : Bool
  deriving DecidableEq, Repr

/-- An idle sequence. -/
def AdcSeq.init : AdcSeq :=
  { phase := .idle, step := 0, trigTick := 0, trigAt := none, restarted := false, sample := AdcEntry.init, closing := false,
    doneAt := none, asked := false }

/-- One converter (R286 to R298). -/
structure Adc where
  reg : AdcSeq
  inj : AdcSeq
  /-- Results converted and not yet in the queue, oldest first (R287). -/
  wait : List AdcEntry
  queue : List AdcEntry
  /-- A step that was in conversion when the converter was disabled: the tick of its end, and its sample (R296). -/
  tail : Option (Nat × AdcEntry)
  deriving DecidableEq, Repr

/-- A converter after reset. -/
def Adc.init : Adc := { reg := AdcSeq.init, inj := AdcSeq.init, wait := [], queue := [], tail := none }

end Sys2Proof.Machine
end

