-- ==== Sys2Proof/Machine/TypesTrack.lean ====
section
/-! DEFINITION. The internal state of the tracking and coding units as plain data: product records, Ephemeris lanes,
composer jobs, raster lanes, claims and DMA channels. -/

namespace Sys2Proof.Machine

/-- STATE of a product record (R139). -/
inductive ProdState where
  | free | onLane | inHandoff | retired
  deriving DecidableEq, Repr

/-- The code of a record's STATE (R139). -/
def ProdState.code : ProdState → Nat
  | .free => 0
  | .onLane => 1
  | .inHandoff => 2
  | .retired => 3

/-- A product record (R139) with its fields read out, and the set of stations that have fired for it (R146). -/
structure Product where
  st : ProdState
  lane : Nat
  /-- [7:0] FLAGS, [15:8] UFLAGS (R140, R141). -/
  flags : Nat
  pid : Nat
  anchor : Int
  entryTick : Nat
  entryLane : Nat
  hops : Nat
  slot : Nat
  attr : Word
  inspect : Word
  verdictStn : Nat
  verdict : Nat
  serial : Nat
  rlane : Nat
  template : Nat
  lastValid : Bool
  lastStn : Nat
  failed : Nat
  user0 : Word
  user1 : Word
  /-- Bit s: station s has fired for the product (R146). -/
  fired : Nat
  /-- Bit s: station s, as last enabled, passes the product over: its firing angle lay at or below φ at the enable, or at
  the product's insertion (R146, R147). -/
  passed : Nat
  deriving DecidableEq, Repr

/-- A record never used since reset. -/
def Product.init : Product :=
  { st := .free, lane := 0, flags := 0, pid := 0, anchor := 0, entryTick := 0, entryLane := 0, hops := 0, slot := 0,
    attr := 0, inspect := 0, verdictStn := 0, verdict := 0, serial := 0, rlane := 0, template := 0, lastValid := false,
    lastStn := 0, failed := 0, user0 := 0, user1 := 0, fired := 0, passed := 0 }

/-- One Ephemeris lane (R142 to R145): its products in ascending anchor order and its own entries. -/
structure EphLane where
  prods : List Nat
  /-- Anchor in ang from which the next slot to enter is sought (R144); none until the first slot is fixed. -/
  next : Option Int
  /-- Anchors of slots whose presence line has been active in their window (R143). -/
  seen : List Int
  /-- φ of the last accepted sensor edge (R143). -/
  lastSensor : Option Int
  /-- ANG_VALID has been 0 since the last judgement: slots passed meanwhile are not entered (R144). -/
  gap : Bool
  deriving DecidableEq, Repr

/-- A lane after reset. -/
def EphLane.init : EphLane := { prods := [], next := none, seen := [], lastSensor := none, gap := false }

/-- A handoff in progress at its source (R155, R157). -/
structure Handoff where
  product : Nat
  pid : Nat
  dest : Nat
  lane : Nat
  /-- t_h, the fabric time of the firing tick. -/
  time : Int
  /-- Tick from which ACK_TO runs. -/
  since : Nat
  resent : Bool
  seqs : List Nat
  deriving DecidableEq, Repr

/-- Why a job failed (R167, R185). -/
inductive JobFail where
  | digits | symbol | date | glyph | quota | skip | ring | noProduct | disabled | poison
  deriving DecidableEq, Repr

/-- Where a job stands. -/
inductive JobPhase where
  | queued
  /-- Being composed: the record as read at the start, the generators whose number it still waits for, and the numbers it
  has taken, by generator. -/
  | active (rec_ : Option Product) (need : List Nat) (serials : List (Nat × Nat))
  /-- Composed; the image is held until every earlier entry of the lane is ready (R166). -/
  | ended
  deriving DecidableEq, Repr

/-- A local time (R172): whole seconds since 2000-01-01T00:00:00 local time, and whether the second reads 60 (R466). -/
structure LocalTime where
  sec : Int
  sixty : Bool
  deriving DecidableEq, Repr

/-- A composer job with everything captured in its trigger tick (R164). -/
structure Job where
  id : Nat
  trigger : Nat
  /-- The template composed, after a substitution of R176, and its first block. -/
  template : Nat
  block : Nat
  glyphs : List Word
  /-- Captured local time: that of the trigger, or the held one under NO_DATE = HOLD (R176). -/
  now : LocalTime
  /-- NO_DATE = SKIP applies (R176). -/
  skip : Bool
  shifts : List Word
  batches : List Word
  rlane : Nat
  /-- Lane queue entry number (R185). -/
  entry : Nat
  /-- Record index and PID. -/
  product : Option (Nat × Nat)
  classB : Bool
  deadline : Nat
  promoted : Bool
  phase : JobPhase
  epoch : Nat
  /-- A CODE_JOB with WAIT in flight (R185). -/
  flight : Option Nat
  late : Bool
  /-- Posted by a command: after the jobs of stations of its trigger tick (R165). -/
  byCommand : Bool
  /-- Ticks that the return from Doze may add to its bound (R186). -/
  grace : Nat
  deriving DecidableEq, Repr

/-- A serial number that the mirror has delivered for a job of the shadow (R408): generator, trigger tick, raster lane,
lane entry and number. -/
structure MirrorSerial where
  gen : Nat
  trigger : Nat
  rlane : Nat
  entry : Nat
  number : Nat
  deriving DecidableEq, Repr

/-- A finished image in its lane's ring (R183, R184). -/
structure Image where
  /-- First block within the ring, and blocks used. -/
  at_ : Nat
  blocks : Nat
  cols : Nat
  rows : Nat
  depth : Nat
  deriving DecidableEq, Repr

/-- Where a raster lane's queue entry stands (R166). -/
inductive EntrySt where
  | waiting
  /-- Finished, and held until every earlier entry of the lane is ready. -/
  | finished (im : Image)
  | failed
  deriving DecidableEq, Repr

/-- One entry of a raster lane's queue (R166). -/
structure RasEntry where
  job : Nat
  product : Option (Nat × Nat)
  st : EntrySt
  deriving DecidableEq, Repr

/-- A code being printed (R194 to R199). -/
structure Code where
  im : Image
  base : Nat
  product : Option (Nat × Nat)
  tag : Nat
  slots : Nat
  /-- A0 in 2^-16 ang (R194). -/
  a0 : Int
  /-- Next slot to strike. -/
  slot : Nat
  /-- End of the frame of that slot, none while it has not been sent. -/
  frameEnd : Option Nat
  /-- Tick from which the frame of that slot may be sent. -/
  frameFrom : Nat
  /-- The last strobe edge, in 1/64 ticks. -/
  lastStrobe : Option Nat
  /-- Angle times of the slots from `slot` on whose angles have been reached, each with the time at which its strobe edge can
  first leave the pin, in 1/64 ticks (R195, R199). -/
  angles : List (Nat × Nat)
  /-- Tick in which the code began; a slot's strobe has come late; the code runs undriven (R27, R196). -/
  start : Nat
  overspeed : Bool
  undriven : Bool
  /-- ANG_VALID has fallen to 0 in the present tick: the code is truncated when its frames have been judged (R199). -/
  angLost : Bool
  deriving DecidableEq, Repr

/-- One raster lane (R188 to R201) with its queue and its ring. -/
structure RasLane where
  code : Option Code
  draining : Bool
  tag : Nat
  /-- Valid level at the RDY pin (R189). -/
  rdyPin : Bool
  rdySince : Nat
  /-- Tick in which RDY last became valid at a level, plus 1; 0 for none (R189). -/
  rdyAt : Nat
  /-- The lane drives its pairs while OUT_LIVE and EN, or a code that drains, let it: from EN, or from the first column of the
  first code after a rise of OUT_LIVE (R28, R189). -/
  live : Bool
  faulted : Bool
  queue : List RasEntry
  /-- Entries taken since reset, modulo 64 (R185). -/
  nextEntry : Nat
  /-- Ring extents in use: first block within the ring and blocks. -/
  ring : List (Nat × Nat)
  ringHead : Nat
  /-- The last strobe edge emitted: tick and vernier step (R195). -/
  strobe : Option (Nat × Nat)
  /-- The nibbles of the last frame sent (R190). -/
  frame : List Nat
  deriving DecidableEq, Repr

/-- A raster lane after reset. -/
def RasLane.init : RasLane :=
  { code := none, draining := false, tag := 0, rdyPin := false, rdySince := 0, rdyAt := 0, live := false, faulted := false, queue := [],
    nextEntry := 0, ring := [], ringHead := 0, strobe := none, frame := [] }

/-- A serial generator's journal and its present block (R177 to R179). -/
structure SerialGen where
  /-- Highest number ever reserved (HWM). -/
  hwm : Nat
  /-- The block being issued from: next number and its last number. -/
  cur : Option (Nat × Nat)
  /-- A block reserved ahead: first and last number. -/
  ahead : Option (Nat × Nat)
  /-- A reservation in progress: first and last number. -/
  reserving : Option (Nat × Nat)
  deriving DecidableEq, Repr

/-- A generator that has reserved nothing. -/
def SerialGen.init : SerialGen := { hwm := 0, cur := none, ahead := none, reserving := none }

/-- A run of pool blocks held by a claim. -/
structure Extent where
  first : Nat
  count : Nat
  claim : Nat
  deriving DecidableEq, Repr

/-- A DMA descriptor with its fields read out (R310). -/
structure DmaDesc where
  src : Nat
  dst : Nat
  len : Nat
  srcMode : Nat
  dstMode : Nat
  burst : Nat
  ntf : Bool
  req : Bool
  next : Nat
  deriving DecidableEq, Repr

/-- A DMA channel (R310 to R315): what stands beside its registers. -/
structure Dma where
  desc : Option DmaDesc
  /-- Bytes of the descriptor already moved. -/
  moved : Nat
  /-- Place of the last burst granted, for round robin. -/
  turn : Nat
  deriving DecidableEq, Repr

/-- A channel after reset. -/
def Dma.init : Dma := { desc := none, moved := 0, turn := 0 }

/-- What is saved on entry to Watch (R433): the values of the retention list with their addresses, in entry order; the
records of each lane in lane order with their indexes; the tick of entry. -/
structure Saved where
  retained : List (Nat × Word)
  records : List (Nat × List (Nat × Product))
  since : Nat
  deriving DecidableEq, Repr

/-- Nothing saved. -/
def Saved.init : Saved := { retained := [], records := [], since := 0 }

/-- What an access or the scrubber finds in a word. -/
inductive EccFind where
  | corrected (word : Nat)
  | uncorrectable (word : Nat)
  deriving DecidableEq, Repr

end Sys2Proof.Machine
end

