-- ==== Sys2Proof/Machine/TypesTwin.lean ====
section
/-! DEFINITION. What a twin member receives from its partner, as plain data (R409 to R411): heartbeats, mirror items and
copy parts. The spec names what items and parts carry and gives no layout for them: they stand here as their contents. -/

namespace Sys2Proof.Machine

/-- A HEARTBEAT as received (R411): DEST of its frame, MEMBER, ROLE, YIELD, IN_SYNC, time of sending, sequence. -/
structure HeartBeat where
  dest : BitVec 16
  member : Bool
  role : BitVec 2
  yield_ : Bool
  inSync : Bool
  time : BitVec 64
  seq : BitVec 32
  deriving DecidableEq, Repr

/-- A request of a thread that the mirror carries (R409). -/
inductive ThreadReq where
  | arm (index : Option (Fin 16384)) (body : List Byte)
  | cancel (arg : BitVec 32)
  | edge (out : Fin 16) (place : BitVec 70) (level : Bool)
  | capt (cell : Fin 1024)
  | sig (bit : Fin 2048)
  | prod (op : BitVec 4) (index : BitVec 16) (word : BitVec 8) (value : BitVec 32)
  | bwr (addr : BitVec 32) (value : BitVec 32)
  deriving DecidableEq, Repr

/-- A mirror item (R409). -/
inductive MirrorItem where
  /-- A state-changing command accepted on PAIR_ADDR from the owner of a session, with its status. -/
  | command (session : Fin 8) (owner : BitVec 16) (cmd : CmdRec) (st : Status)
  /-- An applied transaction. -/
  | txn (session : Fin 8) (owner : BitVec 16) (cmds : List CmdRec)
  | request (thread : Fin 256) (r : ThreadReq)
  | serial (n : MirrorSerial)
  | reservation (gen : Fin 8) (first last : Nat)
  /-- A handoff of the active member has ended: acknowledged, or failed. -/
  | departure (pid : BitVec 32) (failed : Bool)
  /-- A product received from a handoff: its record and the source of its frame. -/
  | arrival (src : BitVec 16) (seq : BitVec 16) (lane : Fin 16) (time : Int) (record : Product)
  /-- The state of a thread, and words of data memory written since the last epoch: engine × 8 192 + word, contents. -/
  | thread (n : Fin 256) (x : Thread) (signals : BitVec 8) (words : List (Nat × BitVec 64))
  /-- Digests of R410; the EPOCH record carries them again. -/
  | digests (d : List (BitVec 32))
  deriving DecidableEq, Repr

/-- What a LINK_CTL frame other than RESET tells (R384, R389, R393): the spec gives no layout for it. -/
inductive LinkCtl where
  | pdelayReq
  /-- The partner's residence in 2^-16 ns. -/
  | pdelayResp (residence : BitVec 32)
  | credit (c : Credits)
  | ringBreak
  | ringClose
  deriving DecidableEq, Repr

/-- What one COPY part carries (R410, R421). -/
inductive CopyPart where
  /-- Descriptors of a shaft, by index: the shaft's others are dropped. -/
  | events (shaft : Fin 16) (es : List (Fin 16384 × AlmEvent))
  /-- Records of a lane in anchor order, by index. -/
  | records (lane : Fin 16) (ps : List (Fin 65536 × Product))
  | registers (ws : List (BitVec 24 × Word))
  | imem (words : List (Fin 131072 × BitVec 64))
  | dmem (bytes : List (Fin 1048576 × Byte))
  | thread (n : Fin 256) (x : Thread)
  | pool (first : Fin 536870912) (bytes : List Byte)
  /-- The end of the joining transfer. -/
  | done
  deriving DecidableEq, Repr

/-- What the body of a received frame tells where the spec gives no layout for it. -/
inductive Spelled where
  | nothing
  | link (c : LinkCtl)
  | item (i : MirrorItem)
  | copy (p : CopyPart)
  deriving DecidableEq, Repr

/-- A frame as it arrives (R378 to R381): its port, whether its FCS holds, whether it is VLAN-tagged, whether its input
buffer has room, its bytes from VERSION on with any padding, what its body tells where no layout is given, the vernier
step of its arrival stamp, and the residence in 2^-16 ns with which it is answered or forwarded. -/
structure FrameIn where
  port : Fin 3
  fcsOk : Bool
  tagged : Bool
  room : Bool
  bytes : List Byte
  spelled : Spelled
  step : BitVec 6
  residence : BitVec 32
  deriving DecidableEq, Repr

end Sys2Proof.Machine
end

