-- ==== Sys2Proof/Syntax.lean ====
section
/-! DEFINITION. The commands of the engine: one constructor for each row of the table of commands. Each docstring names
its row and cites its rule. -/

namespace Sys2Proof

open Machine in
/-- The commands: host commands, register accesses, instructions of the threads and of the Canary, and what happens on
pins, links and clocks. -/
inductive Instr where
  /-- IDX_LOSS (R45). -/
  | idxLoss (n : Fin 16)
  /-- STILL_TIMEOUT (R58). -/
  | stillTimeout (n : Fin 16)
  /-- PHASE_SAMPLE (R62). -/
  | phaseSample (n : Fin 16)
  /-- LINESHAFT_PUBLISH (R397). -/
  | lineshaftPublish
  /-- VIRT_TIMEOUT (R65). -/
  | virtTimeout (n : Fin 16)
  /-- VIRT_RECOMPUTE (R70). -/
  | virtRecompute (n : Fin 16)
  /-- EVENT_START (R73). -/
  | eventStart (i : Fin 16384)
  /-- EVENT_END (R74). -/
  | eventEnd (i : Fin 16384)
  /-- WAIT_MET (R98). -/
  | waitMet (g : Fin 256)
  /-- FORCED_YIELD (R101). -/
  | forcedYield (g : Fin 256)
  /-- DEADLINE_PROMOTION (R106). -/
  | deadlinePromotion (g : Fin 256)
  /-- BUS_ERR_RETURN (R114). -/
  | busErrReturn (g : Fin 256)
  /-- EDGE_PLACE (R133). -/
  | edgePlace (j : Fin 16)
  /-- ADD (R122). -/
  | bluAdd (i : Issue)
  /-- SUB (R122). -/
  | bluSub (i : Issue)
  /-- CMP (R122). -/
  | bluCmp (i : Issue)
  /-- AND (R122). -/
  | bluAnd (i : Issue)
  /-- OR (R122). -/
  | bluOr (i : Issue)
  /-- XOR (R122). -/
  | bluXor (i : Issue)
  /-- SHL (R122). -/
  | bluShl (i : Issue)
  /-- SHR (R122). -/
  | bluShr (i : Issue)
  /-- SAR (R122). -/
  | bluSar (i : Issue)
  /-- MUL (R122). -/
  | bluMul (i : Issue)
  /-- MULH (R122). -/
  | bluMulh (i : Issue)
  /-- MIN (R122). -/
  | bluMin (i : Issue)
  /-- MAX (R122). -/
  | bluMax (i : Issue)
  /-- MOV (R120). -/
  | bluMov (i : Issue)
  /-- CLF (R117). -/
  | bluClf (i : Issue)
  /-- WADD (R122). -/
  | bluWadd (i : Issue)
  /-- WMOV (R120). -/
  | bluWmov (i : Issue)
  /-- WGET (R120). -/
  | bluWget (i : Issue)
  /-- WPUT (R120). -/
  | bluWput (i : Issue)
  /-- WCMP (R122). -/
  | bluWcmp (i : Issue)
  /-- WSUB (R122). -/
  | bluWsub (i : Issue)
  /-- NOW (R123). -/
  | bluNow (i : Issue)
  /-- ANG (R123). -/
  | bluAng (i : Issue)
  /-- LD (R124). -/
  | bluLd (i : Issue)
  /-- ST (R124). -/
  | bluSt (i : Issue)
  /-- LDW (R124). -/
  | bluLdw (i : Issue)
  /-- STW (R124). -/
  | bluStw (i : Issue)
  /-- XADD (R125). -/
  | bluXadd (i : Issue)
  /-- BRD (R126). -/
  | bluBrd (i : Issue)
  /-- BWR (R127). -/
  | bluBwr (i : Issue)
  /-- BRDW (R126). -/
  | bluBrdw (i : Issue)
  /-- FNC (R127). -/
  | bluFnc (i : Issue)
  /-- WAITA (R128). -/
  | bluWaita (i : Issue)
  /-- WAITT (R128). -/
  | bluWaitt (i : Issue)
  /-- WAITS (R128). -/
  | bluWaits (i : Issue)
  /-- YIELD (R130). -/
  | bluYield (i : Issue)
  /-- HALT (R130). -/
  | bluHalt (i : Issue)
  /-- SIG (R129). -/
  | bluSig (i : Issue)
  /-- ARM (R132). -/
  | bluArm (i : Issue)
  /-- CANCEL (R132). -/
  | bluCancel (i : Issue)
  /-- EDGE (R133). -/
  | bluEdge (i : Issue)
  /-- CAPT (R134). -/
  | bluCapt (i : Issue)
  /-- SNAP (R134). -/
  | bluSnap (i : Issue)
  /-- POST (R135). -/
  | bluPost (i : Issue)
  /-- PROD (R136). -/
  | bluProd (i : Issue)
  /-- BR (R121). -/
  | bluBr (i : Issue)
  /-- DBNZ (R137). -/
  | bluDbnz (i : Issue)
  /-- CALL (R137). -/
  | bluCall (i : Issue)
  /-- RET (R137). -/
  | bluRet (i : Issue)
  /-- JR (R137). -/
  | bluJr (i : Issue)
  /-- SLOT_ENTRY (R143). -/
  | slotEntry (n : Fin 16)
  /-- STATION_FIRE (R146). -/
  | stationFire (k : Fin 64)
  /-- PRODUCT_EXIT (R158). -/
  | productExit (n : Fin 16)
  /-- HANDOFF_ACK_TIMEOUT (R157). -/
  | handoffAckTimeout (i : Fin 65536)
  /-- JOB_START (R165). -/
  | jobStart
  /-- JOB_COMPLETE (R167). -/
  | jobComplete (k : Nat)
  /-- JOB_DEADLINE (R165). -/
  | jobDeadline (k : Nat)
  /-- JOB_LATE (R186). -/
  | jobLate (k : Nat)
  /-- SERIAL_RESERVATION (R177). -/
  | serialReservation (g : Fin 8)
  /-- COLUMN_STROBE (R195). -/
  | columnStrobe (n : Fin 8)
  /-- COLUMN_FRAME (R190). -/
  | columnFrame (n : Fin 8)
  /-- STROBE_STALL (R199). -/
  | strobeStall (n : Fin 8)
  /-- RDY_TIMEOUT (R189). -/
  | rdyTimeout (n : Fin 8)
  /-- SERIAL_FRAME_START (R216). -/
  | serialFrameStart (p : Fin 16)
  /-- EMU_OUTPUT_COUNT (R224). -/
  | emuOutputCount (p : Fin 16)
  /-- CELL_STEP (R235). -/
  | cellStep (n : Fin 1024)
  /-- PERIOD_RESTART (R238). -/
  | periodRestart (n : Fin 1024)
  /-- PASSED_COMPARE_MATCH (R239). -/
  | passedCompareMatch (n : Fin 1024)
  /-- PWM_BOUNDARY (R251). -/
  | pwmBoundary (n : Fin 24)
  /-- MID_PERIOD_POINT (R251). -/
  | midPeriodPoint (n : Fin 24)
  /-- REFERENCE_EDGE (R252). -/
  | referenceEdge (n : Fin 24)
  /-- DEAD_TIME_EXPIRY (R256). -/
  | deadTimeExpiry (n : Fin 24) (high : Bool)
  /-- MINPULSE_HOLD_END (R258). -/
  | minpulseHoldEnd (n : Fin 24) (high : Bool)
  /-- PWM_PERIOD_CUT (R254). -/
  | pwmPeriodCut (n : Fin 24)
  /-- ANGLE_LOCK (R259). -/
  | angleLock (n : Fin 24)
  /-- ADC_TRIGGER_OFFER (R260). -/
  | adcTriggerOffer (n : Fin 24)
  /-- BLANKING_END (R262). -/
  | blankingEnd (n : Fin 24)
  /-- SEQUENCE_DELAY_EXPIRY (R289). -/
  | sequenceDelayExpiry (c : Fin 4) (injected : Bool)
  /-- CONVERSION_END (R287). -/
  | conversionEnd (c : Fin 4) (injected : Bool)
  /-- RESULT_ENTRY (R292). -/
  | resultEntry (c : Fin 4)
  /-- ADC_DEADLINE (R291). -/
  | adcDeadline (c : Fin 4)
  /-- DMA_BURST (R312). -/
  | dmaBurst (n : Fin 32)
  /-- FENCE_COMPLETE (R331). -/
  | fenceComplete (n : Fin 8)
  /-- ORDERED_START (R330). -/
  | orderedStart (n : Fin 8)
  /-- REPLY_FRAME_SEND (R327). -/
  | replyFrameSend (n : Fin 8)
  /-- COMMIT_TICK (R350). -/
  | commitTick (id : BitVec 16)
  /-- COMMIT_LIMIT_EXPIRY (R349). -/
  | commitLimitExpiry (id : BitVec 16)
  /-- TXN_IDLE_TIMEOUT (R355). -/
  | txnIdleTimeout (id : BitVec 16)
  /-- DECISION_DEADLINE (R358). -/
  | decisionDeadline (id : BitVec 16)
  /-- POINT_WITHOUT_DECISION (R358). -/
  | pointWithoutDecision (id : BitVec 16)
  /-- PREPARE_RETRY (R357). -/
  | prepareRetry (id : BitVec 16)
  /-- DELIVERY_SELECTION (R366). -/
  | deliverySelection (t : Fin 12)
  /-- DELIVERY_ACTIVE (R367). -/
  | deliveryActive (t : Fin 12)
  /-- REDELIVER (R373). -/
  | redeliver (t : Fin 12)
  /-- CLOSE_HOLD_END (R384). -/
  | closeHoldEnd (p : Fin 3)
  /-- CREDIT_ADVERTISE (R389). -/
  | creditAdvertise
  /-- SYNC_TIMEOUT (R395). -/
  | syncTimeout
  /-- PDELAY_MEASURE (R393). -/
  | pdelayMeasure
  /-- SEARCH_TIMEOUT (R406). -/
  | searchTimeout
  /-- HEARTBEAT_SEND (R410). -/
  | heartbeatSend
  /-- LEASE_LAPSE (R413). -/
  | leaseLapse
  /-- HEARTBEAT_LOSS (R414). -/
  | heartbeatLoss
  /-- TWIN_PROBE_REPEAT (R414). -/
  | twinProbeRepeat
  /-- LOSS_CONFIRMED (R414). -/
  | lossConfirmed
  /-- EPOCH_BOUNDARY (R410). -/
  | epochBoundary
  /-- EPOCH_TIMEOUT (R412). -/
  | epochTimeout
  /-- JOINING_END (R421). -/
  | joiningEnd
  /-- LEVEL_CHANGE_END (R428). -/
  | levelChangeEnd
  /-- WATCH_ENTRY (R433). -/
  | watchEntry
  /-- WATCH_EXIT (R436). -/
  | watchExit
  /-- ALARM (R437). -/
  | alarm
  /-- CANARY_LDI (R453). -/
  | canLdi (w : CanWord)
  /-- CANARY_LDH (R453). -/
  | canLdh (w : CanWord)
  /-- CANARY_IN (R453). -/
  | canIn (w : CanWord)
  /-- CANARY_ADD (R453). -/
  | canAdd (w : CanWord)
  /-- CANARY_SUB (R453). -/
  | canSub (w : CanWord)
  /-- CANARY_AND (R453). -/
  | canAnd (w : CanWord)
  /-- CANARY_OR (R453). -/
  | canOr (w : CanWord)
  /-- CANARY_XOR (R453). -/
  | canXor (w : CanWord)
  /-- CANARY_SHR (R453). -/
  | canShr (w : CanWord)
  /-- CANARY_ABS (R453). -/
  | canAbs (w : CanWord)
  /-- CANARY_CMP (R453). -/
  | canCmp (w : CanWord)
  /-- CANARY_TST (R453). -/
  | canTst (w : CanWord)
  /-- CANARY_FILT (R453). -/
  | canFilt (w : CanWord)
  /-- CANARY_BR (R453). -/
  | canBr (w : CanWord)
  /-- CANARY_WAKE (R453). -/
  | canWake (w : CanWord)
  /-- CANARY_RAISE (R454). -/
  | canRaise (w : CanWord)
  /-- CANARY_END (R453). -/
  | canEnd (w : CanWord)
  /-- TALLY_FLUSH (R461). -/
  | tallyFlush
  /-- CALENDAR_ADJUSTMENT (R467). -/
  | calendarAdjustment
  /-- CALENDAR_VALIDITY_CHANGE (R469). -/
  | calendarValidityChange
  /-- BOOT_TIMEOUT (R493). -/
  | bootTimeout
  /-- READY (R495). -/
  | ready
  /-- FAULT_LOG_FLUSH (R505). -/
  | faultLogFlush
  /-- FAULT_LOG_LOADED (R506). -/
  | faultLogLoaded (good : Bool)
  /-- PROFILE_REVERSAL (R67). -/
  | profileReversal (n : Fin 16)
  /-- CORE_POWER_REMOVED (R500). -/
  | corePowerRemoved
  /-- REGISTER_WRITE (R9). -/
  | registerWrite (bus : Bool) (a : BitVec 32) (v : Word)
  /-- ADDR_WRITE (R31). -/
  | addrWrite (v : Word)
  /-- OUTPUT_ENABLE (R339). -/
  | outputEnable (h : CmdHead) (arg : BitVec 32) (body : List Byte)
  /-- SHAFT_ENABLE (R34). -/
  | shaftEnable (n : Fin 16) (v : Word)
  /-- SHAFT_DISABLE (R45). -/
  | shaftDisable (n : Fin 16)
  /-- TOOTH_EDGE (R42). -/
  | toothEdge (n : Fin 16)
  /-- SECOND_WHEEL_EDGE (R38). -/
  | secondWheelEdge (n : Fin 16) (rising : Bool)
  /-- HALTED (R50). -/
  | halted (n : Fin 16)
  /-- PH_CLR (R63). -/
  | phClr (n : Fin 16)
  /-- LINESHAFT_RECEIVE (R65). -/
  | lineshaftReceive (src : BitVec 16) (valid : Bool) (sample : BitVec 64) (entries : List LineEntry)
  /-- EVENT_ARM (R87). -/
  | eventArm (h : CmdHead) (arg : BitVec 32) (body : List Byte)
  /-- EVENT_CANCEL (R88). -/
  | eventCancel (h : CmdHead) (arg : BitVec 32) (body : List Byte)
  /-- EVENT_QUERY (R89). -/
  | eventQuery (h : CmdHead) (arg : BitVec 32) (body : List Byte)
  /-- BLULET_LOAD (R110). -/
  | bluletLoad (h : CmdHead) (arg : BitVec 32) (body : List Byte)
  /-- BLULET_START (R111). -/
  | bluletStart (h : CmdHead) (arg : BitVec 32) (body : List Byte)
  /-- BLULET_STOP (R112). -/
  | bluletStop (h : CmdHead) (arg : BitVec 32) (body : List Byte)
  /-- SIGNAL_WRITE (R100). -/
  | signalWrite (g : Fin 256) (v : Word)
  /-- LANE_ENABLE (R144). -/
  | laneEnable (n : Fin 16) (v : Word)
  /-- LANE_DISABLE (R158). -/
  | laneDisable (n : Fin 16)
  /-- SENSOR_ENTRY (R143). -/
  | sensorEntry (n : Fin 16)
  /-- HANDOFF_RECORD_RECEIVE (R156). -/
  | handoffRecordReceive (src : BitVec 16) (seq : BitVec 16) (lane : Fin 16) (th : BitVec 64) (body : List Byte)
  /-- HANDOFF_ACK_RECEIVE (R157). -/
  | handoffAckReceive (negative : Bool) (pid : BitVec 32) (seq : BitVec 16)
  /-- PRODUCT_ENTER (R159). -/
  | productEnter (h : CmdHead) (arg : BitVec 32) (body : List Byte)
  /-- PRODUCT_UPDATE (R160). -/
  | productUpdate (h : CmdHead) (arg : BitVec 32) (body : List Byte)
  /-- PRODUCT_QUERY (R161). -/
  | productQuery (h : CmdHead) (arg : BitVec 32) (body : List Byte)
  /-- PRODUCT_RETIRE (R162). -/
  | productRetire (h : CmdHead) (arg : BitVec 32) (body : List Byte)
  /-- CODE_JOB (R185). -/
  | codeJob (h : CmdHead) (arg : BitVec 32) (body : List Byte)
  /-- GENERATOR_ENABLE (R179). -/
  | generatorEnable (n : Fin 8) (v : Word)
  /-- GENERATOR_DISABLE (R178). -/
  | generatorDisable (n : Fin 8)
  /-- TEMPLATE_BIND (R170). -/
  | templateBind (n : Fin 64) (v : Word)
  /-- RING_ENABLE (R183). -/
  | ringEnable (n : Fin 8) (v : Word)
  /-- COMPOSER_DISABLE (R187). -/
  | composerDisable
  /-- RDY_CHANGE (R189). -/
  | rdyChange (n : Fin 8) (pin : Bool)
  /-- RASTER_ENABLE (R202). -/
  | rasterEnable (n : Fin 8) (v : Word)
  /-- RASTER_DISABLE (R201). -/
  | rasterDisable (n : Fin 8) (force : Bool)
  /-- FILTER_ACCEPTANCE (R206). -/
  | filterAcceptance (p : Fin 16) (a : Bool) (b : Bool) (z : Bool) (x : Bool)
  /-- SERIAL_FRAME_END (R219). -/
  | serialFrameEnd (p : Fin 16) (r : SerSample)
  /-- POS_WRITE (R211). -/
  | posWrite (n : Fin 16) (v : Word)
  /-- PFAULT_CLEAR (R229). -/
  | pfaultClear (n : Fin 16)
  /-- PORT_ENABLE (R231). -/
  | portEnable (n : Fin 16) (v : Word)
  /-- PORT_DISABLE (R232). -/
  | portDisable (n : Fin 16)
  /-- SUPPLY_ON (R226). -/
  | supplyOn (n : Fin 16) (v : Word)
  /-- SUPPLY_OFF (R225). -/
  | supplyOff (n : Fin 16)
  /-- SETTLING_END (R225). -/
  | settlingEnd (p : Fin 16) (a : Bool) (b : Bool) (z : Bool) (x : Bool)
  /-- OVERCURRENT (R227). -/
  | overcurrent (p : Fin 16) (ma : BitVec 16)
  /-- LINE_BREAK (R228). -/
  | lineBreak (p : Fin 16) (i : Fin 4)
  /-- LINE_BREAK_END (R228). -/
  | lineBreakEnd (p : Fin 16) (i : Fin 4)
  /-- EMU_ENABLE (R223). -/
  | emuEnable (n : Fin 16) (v : Word)
  /-- CELL_ENABLE (R235). -/
  | cellEnable (n : Fin 1024) (v : Word)
  /-- CELL_DISABLE (R247). -/
  | cellDisable (n : Fin 1024)
  /-- CELL_COUNT_WRITE (R238). -/
  | cellCountWrite (n : Fin 1024) (v : Word)
  /-- CELL_PERIOD_WRITE (R237). -/
  | cellPeriodWrite (n : Fin 1024) (v : Word)
  /-- CELL_COMPARE_WRITE (R239). -/
  | cellCompareWrite (n : Fin 1024) (v : Word)
  /-- CAPTURE (R240). -/
  | capture (n : Fin 1024)
  /-- CAP_READ (R241). -/
  | capRead (n : Fin 1024)
  /-- SNAPSHOT (R337). -/
  | snapshot (h : CmdHead) (arg : BitVec 32) (body : List Byte)
  /-- RESYNC (R259). -/
  | resync (n : Fin 24)
  /-- TRIP_INPUT_ACCEPT (R261). -/
  | tripInputAccept (i : Fin 8) (pin : Bool)
  /-- TRIP_FORCE (R262). -/
  | tripForce (n : Fin 24)
  /-- TRIP_CLR (R265). -/
  | tripClr (n : Fin 24)
  /-- PWM_ENABLE (R266). -/
  | pwmEnable (n : Fin 24) (v : Word)
  /-- PWM_DISABLE (R266). -/
  | pwmDisable (n : Fin 24)
  /-- EVENT_LINE_ACCEPT (R274). -/
  | eventLineAccept (i : Fin 128) (pin : Bool)
  /-- BS_OK_FALL (R271). -/
  | bsOkFall (b : Fin 8)
  /-- BS_OK_RISE (R271). -/
  | bsOkRise (b : Fin 8) (levels : BitVec 16)
  /-- BANK_EN_FALL (R272). -/
  | bankEnFall (b : Fin 8)
  /-- BANK_EN_PRESENT (R272). -/
  | bankEnPresent (b : Fin 8)
  /-- OUTPUT_FAULT (R277). -/
  | outputFault (i : Fin 128)
  /-- OUT_FAULT_CLEAR (R277). -/
  | outFaultClear (b : Fin 8) (bits : BitVec 16)
  /-- CHAIN_FRAME (R279). -/
  | chainFrame (c : Fin 4) (inputs : BitVec 512)
  /-- CHAIN_ENABLE (R283). -/
  | chainEnable (n : Fin 4) (v : Word)
  /-- CHAIN_DISABLE (R283). -/
  | chainDisable (n : Fin 4)
  /-- REG_TRIG (R288). -/
  | regTrig (n : Fin 4)
  /-- INJ_TRIG (R288). -/
  | injTrig (n : Fin 4)
  /-- FLUSH (R293). -/
  | flush (n : Fin 4)
  /-- HOLD_EDGE (R287). -/
  | holdEdge (c : Fin 4) (injected : Bool) (value : Int)
  /-- FIFO_READ (R293). -/
  | fifoRead (c : Fin 4)
  /-- ADC_ENABLE (R296). -/
  | adcEnable (n : Fin 4) (v : Word)
  /-- ADC_DISABLE (R296). -/
  | adcDisable (n : Fin 4)
  /-- CLAIM_CONFIGURE (R307). -/
  | claimConfigure (h : CmdHead) (claim : BitVec 6) (reserve : Word) (quota : Word)
  /-- CLAIM_ALLOC (R306). -/
  | claimAlloc (h : CmdHead) (claim : BitVec 6) (blocks : Word)
  /-- CLAIM_FREE (R306). -/
  | claimFree (h : CmdHead) (claim : BitVec 6) (first : Word) (blocks : Word)
  /-- POOL_WRITE (R309). -/
  | poolWrite (h : CmdHead) (arg : BitVec 32) (body : List Byte)
  /-- POOL_READ (R309). -/
  | poolRead (h : CmdHead) (arg : BitVec 32) (body : List Byte)
  /-- SCRUB (R301). -/
  | scrub (finds : List EccFind)
  /-- SELF_REFRESH_ENTRY (R302). -/
  | selfRefreshEntry
  /-- DMA_START (R315). -/
  | dmaStart (n : Fin 32) (v : Word)
  /-- DMA_ABORT (R314). -/
  | dmaAbort (n : Fin 32)
  /-- COMMAND_FRAME (R321). -/
  | commandFrame (src : BitVec 16) (session : BitVec 8) (body : List Byte)
  /-- NOP (R328). -/
  | nop (h : CmdHead) (arg : BitVec 32) (body : List Byte)
  /-- NOP_RELEASE (R323). -/
  | nopRelease (h : CmdHead) (chainReset : Bool)
  /-- NOP_CHAIN_RESET (R330). -/
  | nopChainReset (h : CmdHead)
  /-- READ (R334). -/
  | read (h : CmdHead) (arg : BitVec 32) (body : List Byte)
  /-- WRITE (R335). -/
  | write (h : CmdHead) (arg : BitVec 32) (body : List Byte)
  /-- MODIFY (R336). -/
  | modify (h : CmdHead) (arg : BitVec 32) (body : List Byte)
  /-- FENCE (R331). -/
  | fence (h : CmdHead) (arg : BitVec 32) (body : List Byte)
  /-- RESET (R340). -/
  | resetCmd (h : CmdHead) (arg : BitVec 32) (body : List Byte)
  /-- COLD_RESET (R497). -/
  | coldReset (cause : BitVec 8)
  /-- WARM_RESET (R497). -/
  | warmReset (cause : BitVec 8)
  /-- POWER_STATE_RUN (R341). -/
  | powerStateRun (h : CmdHead)
  /-- POWER_STATE_DOZE (R431). -/
  | powerStateDoze (h : CmdHead)
  /-- POWER_STATE_WATCH (R432). -/
  | powerStateWatch (h : CmdHead)
  /-- POWER_STATE_OFF (R341). -/
  | powerStateOff (h : CmdHead)
  /-- TXN_BEGIN (R342). -/
  | txnBegin (h : CmdHead) (arg : BitVec 32) (body : List Byte)
  /-- TXN_COMMIT (R349). -/
  | txnCommit (h : CmdHead) (arg : BitVec 32) (body : List Byte)
  /-- TXN_ROLLBACK (R354). -/
  | txnRollback (h : CmdHead) (arg : BitVec 32) (body : List Byte)
  /-- TXN_PREPARE (R356). -/
  | txnPrepare (h : CmdHead) (arg : BitVec 32) (body : List Byte)
  /-- SOURCE_RAISE (R364). -/
  | sourceRaise (i : Fin 2048) (value : Word)
  /-- NTF_RAISE (R365). -/
  | ntfRaise (i : BitVec 11)
  /-- NTF_CLEAR (R365). -/
  | ntfClear (i : BitVec 11)
  /-- NOTIFY_COMPLETE (R370). -/
  | notifyComplete (h : CmdHead) (arg : BitVec 32) (body : List Byte)
  /-- FRAME_RECEIVE (R383). -/
  | frameReceive (f : FrameIn)
  /-- LINK_UP (R377). -/
  | linkUp (p : Fin 3) (rate : BitVec 2) (host : Bool)
  /-- LINK_DOWN (R377). -/
  | linkDown (p : Fin 3)
  /-- BREAK (R384). -/
  | ringBreak
  /-- CLOSE (R384). -/
  | ringClose
  /-- CREDIT (R389). -/
  | credit (p : Fin 2) (c : Credits)
  /-- ENUMERATE (R385). -/
  | enumerate (src : BitVec 16) (next : BitVec 16) (pos : BitVec 16)
  /-- DISCOVER (R387). -/
  | discover (src : BitVec 16)
  /-- ASSIGN (R387). -/
  | assign (src : BitVec 16) (a : BitVec 16) (uid : BitVec 64)
  /-- SYNC (R394). -/
  | sync (p : Fin 2) (hops : BitVec 8) (src : BitVec 16) (seq : BitVec 16) (origin : BitVec 64) (frac : BitVec 16) (corr : BitVec 64) (step : BitVec 6) (residence : BitVec 32)
  /-- PDELAY_REQ (R393). -/
  | pdelayReq (p : Fin 3) (residence : BitVec 32)
  /-- PDELAY_RESP (R393). -/
  | pdelayResp (p : Fin 3) (step : BitVec 6) (residence : BitVec 32)
  /-- WAKE_TOKEN (R401). -/
  | wakeToken (p : Fin 2) (a : BitVec 16) (reason : BitVec 8)
  /-- WAKE_CTL (R402). -/
  | wakeCtl (src : BitVec 16) (a : BitVec 16) (reason : BitVec 8)
  /-- RETRAIN (R377). -/
  | retrain (p : Fin 3)
  /-- LINK_CTL_RESET (R498). -/
  | linkCtlReset (p : Fin 2) (key : BitVec 16) (uid : BitVec 64)
  /-- TWIN_ENABLE (R406). -/
  | twinEnable (v : Word)
  /-- HEARTBEAT (R411). -/
  | heartbeat (b : HeartBeat)
  /-- TWIN_PROBE (R414). -/
  | twinProbe (pair : BitVec 16)
  /-- TWIN_ALIVE (R414). -/
  | twinAlive (pair : BitVec 16)
  /-- TAKEOVER_FRAME (R418). -/
  | takeoverFrame (pair : BitVec 16)
  /-- EPOCH (R410). -/
  | epoch (seq : BitVec 16) (number : BitVec 32) (digests : List (BitVec 32))
  /-- EPOCH_ACK (R410). -/
  | epochAck (seq : BitVec 16) (shafts : BitVec 16) (lanes : BitVec 16)
  /-- RESYNC_REQ (R410). -/
  | resyncReq (i : Fin 16) (lane : Bool)
  /-- COPY (R411). -/
  | copy (seq : BitVec 16) (part : CopyPart)
  /-- ITEM (R409). -/
  | item (seq : BitVec 16) (item : MirrorItem)
  /-- SWITCH (R414). -/
  | switch
  /-- GOVERNOR_PERIOD (R439). -/
  | governorPeriod (power : Nat) (j : Junctions)
  /-- GRANT_RECLASSIFICATION (R424). -/
  | grantReclassification (mw : Nat)
  /-- THERMAL_TRIP (R441). -/
  | thermalTrip (i : Fin 6) (t : Int)
  /-- CANARY_EDGE (R447). -/
  | canaryEdge (n : Fin 4) (a : Bool) (b : Bool) (dirX : Bool) (dirA : Bool) (fast : Bool)
  /-- CANARY_RUN (R450). -/
  | canaryRun (i : CanInputs)
  /-- CANARY_TEST (R457). -/
  | canaryTest
  /-- CANARY_LOAD (R456). -/
  | canaryLoad (h : CmdHead) (arg : BitVec 32) (body : List Byte)
  /-- TALLY_SET (R464). -/
  | tallySet (i : BitVec 14)
  /-- TALLY_FLUSH_CMD (R461). -/
  | tallyFlushCmd
  /-- CALENDAR_SET (R468). -/
  | calendarSet
  /-- BATT_LOW (R470). -/
  | battLow
  /-- GAP_RECORD_READ (R472). -/
  | gapRecordRead
  /-- STORE_OPEN (R473). -/
  | storeOpen (h : CmdHead) (slot : BitVec 4)
  /-- STORE_APPEND (R473). -/
  | storeAppend (h : CmdHead) (slot : BitVec 4) (records : List Byte)
  /-- STORE_CLOSE (R473). -/
  | storeClose (h : CmdHead) (slot : BitVec 4)
  /-- STORE_ERASE (R473). -/
  | storeErase (h : CmdHead) (slot : BitVec 4)
  /-- STORE_LOCK (R473). -/
  | storeLock (h : CmdHead) (slot : BitVec 4)
  /-- STORE_UNLOCK (R473). -/
  | storeUnlock (h : CmdHead) (slot : BitVec 4)
  /-- RECALL_CONFIG (R474). -/
  | recallConfig (h : CmdHead) (arg : BitVec 32) (body : List Byte)
  /-- POWER_UP (R492). -/
  | powerUp (mw : Nat)
  /-- HOLD_OK_RISE (R482). -/
  | holdOkRise
  /-- HOLD_OK_FALL (R25). -/
  | holdOkFall
  /-- POWER_LOSS (R500). -/
  | powerLoss
  /-- INPUT_HIGH (R481). -/
  | inputHigh
  /-- WATCHDOG (R501). -/
  | watchdog
  /-- FAULT_LOG_SELECT (R506). -/
  | faultLogSelect (age : BitVec 12)
  /-- CATCHUP_LAG_CLOSED (R49). -/
  | catchupLagClosed (n : Fin 16)
  /-- VIRT_HOLD_END (R65). -/
  | virtHoldEnd (n : Fin 16)
  /-- INPUT_HIGH_CLEAR (R481). -/
  | inputHighClear
  deriving DecidableEq, Repr

end Sys2Proof
end

