-- ==== Sys2Proof/Decode.lean ====
section
/-! DEFINITION. The command that a word spells by the bits of the table of commands. -/

namespace Sys2Proof

/-- No row of the table gives a command bits: the words of programs have formats of their own (Machine/Words.lean). -/
def decodeTableWord (_nbits _w : Nat) : Option Instr := none

end Sys2Proof
end

