-- ==== Sys2Proof/Config.lean ====
section
/-! DEFINITION. What the spec leaves open: opaque constants with no body, so that no proof can see their values. Each is
named by a row of the assumption log. -/

namespace Sys2Proof

/-- Values that the spec gives no number for, one fresh number for each draw: State counts the draws in its field
`free`. Marked DESIGN CHOICE: the spec states no value. -/
opaque Config.freeValue : Nat → BitVec 64

/-- What the converters of the encoder supplies measure at a tick (R234): the current of the supply of a port below 16, in mA,
and the total as 16, in mW. Marked DESIGN CHOICE: what is measured comes from outside the engine. -/
opaque Config.measured : Nat → Nat → Nat

/-- The bytes of a MIRROR item (R409, R411) of a kind, from the numbers it carries. Marked DESIGN CHOICE: the spec names
what an item carries and gives no layout for it. -/
opaque Config.itemBytes : Nat → List Nat → List (BitVec 8)

end Sys2Proof
end

