-- ==== Sys2Proof/Machine/Operands.lean ====
section
/-! DEFINITION. The operand forms shared by the commands: little-endian numbers in byte lists (R4, R318, R378), two's
complement numbers, rounding, ranges of bits, and the check codes (R313, R400). -/

namespace Sys2Proof.Machine

/-- The low `n` bytes of a number, least significant first. -/
def leBytes : Nat → Nat → List Byte
  | 0, _ => []
  | n + 1, v => BitVec.ofNat 8 v :: leBytes n (v / 256)

/-- The number whose bytes are listed least significant first. -/
def ofLe : List Byte → Nat
  | [] => 0
  | b :: bs => b.toNat + 256 * ofLe bs

/-- `n` bytes from position `i`; missing bytes read 0. -/
def bytesAt (bs : List Byte) (i n : Nat) : List Byte :=
  let t := (bs.drop i).take n
  t ++ List.replicate (n - t.length) 0

/-- The little-endian number of `n` bytes at position `i`. -/
def leAt (bs : List Byte) (i n : Nat) : Nat := ofLe (bytesAt bs i n)

/-- The 32-bit words of a byte list, low byte first. -/
def wordsOf (bs : List Byte) : Nat → List Word
  | 0 => []
  | n + 1 => BitVec.ofNat 32 (leAt bs 0 4) :: wordsOf (bs.drop 4) n

/-- The bytes of a list of words. -/
def bytesOfWords (ws : List Word) : List Byte := ws.flatMap fun w => leBytes 4 w.toNat

/-- The smallest multiple of `m` at or above `n`. -/
def roundUp (n m : Nat) : Nat := (n + m - 1) / m * m

/-- A byte list filled with zero bytes up to a multiple of 4 (R320). -/
def pad4 (bs : List Byte) : List Byte := bs ++ List.replicate (roundUp bs.length 4 - bs.length) 0

/-- The two's complement number of the low `w` bits of `n`. -/
def signed (w n : Nat) : Int :=
  let m := n % 2 ^ w
  if m < 2 ^ (w - 1) then (m : Int) else (m : Int) - (2 ^ w : Nat)

/-- The `w`-bit two's complement pattern of an integer. -/
def unsigned (w : Nat) (i : Int) : Nat := (i % ((2 ^ w : Nat) : Int)).toNat

/-- The integer held between two bounds. -/
def clampI (lo hi i : Int) : Int := if i < lo then lo else if hi < i then hi else i

/-- Bit `i` of a number. -/
def bitOf (n i : Nat) : Bool := n / 2 ^ i % 2 = 1

/-- 1 for true, 0 for false. -/
def b2n (b : Bool) : Nat := if b then 1 else 0

/-- Bits `hi` to `lo` of a number. -/
def bitsOf (n hi lo : Nat) : Nat := n / 2 ^ lo % 2 ^ (hi + 1 - lo)

/-- The number of 1 bits among the low `w` bits. -/
def popCount : Nat → Nat → Nat
  | 0, _ => 0
  | w + 1, n => n % 2 + popCount w (n / 2)

/-- The positions of the 1 bits among the low `w` bits, ascending. -/
def bitsSet (w n : Nat) : List Nat := (List.range w).filter fun i => bitOf n i

/-- A number held at `hi` at most: a saturating count. -/
def satTo (hi n : Nat) : Nat := if hi < n then hi else n

/-- Quotient rounded to the nearest integer, halves up. -/
def divNear (a b : Nat) : Nat := (a + b / 2) / b

/-- Division rounding toward zero (`div` of the manual's pseudocode). -/
def divT (a b : Int) : Int := Int.tdiv a b

/-- Remainder with the sign of the divisor (`mod` of the manual's pseudocode). -/
def modS (a b : Int) : Int := Int.fmod a b

/-- Integer square root by bits. -/
def isqrtAux : Nat → Nat → Nat → Nat
  | 0, r, _ => r
  | k + 1, r, n => if (r + 2 ^ k) * (r + 2 ^ k) ≤ n then isqrtAux k (r + 2 ^ k) n else isqrtAux k r n

/-- The greatest integer whose square is at most `n`, for n below 2^128. -/
def isqrt (n : Nat) : Nat := isqrtAux 64 0 n

/-- One byte through a most-significant-bit-first CRC of the given width and polynomial. -/
def crcMsbBits (width poly : Nat) : Nat → Nat → Nat
  | 0, c => c
  | k + 1, c =>
    let d := c * 2
    crcMsbBits width poly k (if bitOf d width then Nat.xor (d % 2 ^ width) poly else d)

/-- A most-significant-bit-first CRC over bytes. -/
def crcMsb (width poly init : Nat) (bs : List Byte) : Nat :=
  bs.foldl (fun c b => crcMsbBits width poly 8 (Nat.xor c (b.toNat * 2 ^ (width - 8)))) init

/-- One byte through a least-significant-bit-first CRC. -/
def crcLsbBits (poly : Nat) : Nat → Nat → Nat
  | 0, c => c
  | k + 1, c => crcLsbBits poly k (if c % 2 = 1 then Nat.xor (c / 2) poly else c / 2)

/-- CRC-32C (R313): reflected, polynomial 0x1EDC6F41, initial and final value all ones. -/
def crc32c (bs : List Byte) : Nat :=
  Nat.xor 0xFFFFFFFF (bs.foldl (fun c b => crcLsbBits 0x82F63B78 8 (Nat.xor c b.toNat)) 0xFFFFFFFF)

/-- CRC-16/CCITT-FALSE (R313). -/
def crc16 (bs : List Byte) : Nat := crcMsb 16 0x1021 0xFFFF bs

/-- CRC-8 of a wake token (R400): polynomial 0x07, initial 0. -/
def crc8 (bs : List Byte) : Nat := crcMsb 8 0x07 0 bs

/-- Exclusive or of the bytes. -/
def xorBytes (bs : List Byte) : Byte := bs.foldl (fun a b => a ^^^ b) 0

end Sys2Proof.Machine
end

