-- ==== Sys2Proof/Machine/RegMap.lean ====
section
/-! DEFINITION. The register map: every register the spec's chapters define, with its address, the bits, access code and
reset value of each field (R4, R7, R10, R11, R21 and the register tables of each chapter). Address functions and
named fields for the rest of the model. A field whose reset column holds a dash takes the value the log names. -/

namespace Sys2Proof.Machine

/-- The access codes of R7. -/
inductive Access where
  | rw | ro | wo | w1c | w1s | rc | sc
  deriving DecidableEq, Repr

/-- One field of a register: its bits, its access code (R7) and its value after a cold reset (R10). -/
structure FieldDesc where
  fld : Fld
  acc : Access
  reset : Nat
  deriving DecidableEq, Repr

/-- One register or one array of registers: the address of its first instance and up to two strides (R11). -/
structure RegDesc where
  name : String
  base : Nat
  n1 : Nat
  s1 : Nat
  n2 : Nat
  s2 : Nat
  fields : List FieldDesc
  deriving DecidableEq, Repr

/-- The blocks of R21, in address order. -/
inductive Block where
  | glb | pwr | ntf | fab | shf | fbp | tmc | alm | blu | eph | cmp | ras | pwm | fio | adc | dma | pol | tal | can | twn
  deriving DecidableEq, Repr

/-! ## GLB (00_scope.md/01_architecture.md) -/

/-- GLB_ID (R1). -/
def GLB_ID : Nat := 0x0
def GLB_ID_PART : Fld := ⟨16, 16⟩
def GLB_ID_HW_REV : Fld := ⟨8, 8⟩
def GLB_ID_FW_MAJOR : Fld := ⟨0, 8⟩

/-- GLB_CTL (R23). -/
def GLB_CTL : Nat := 0x4
def GLB_CTL_OUT_EN : Fld := ⟨0, 1⟩

/-- GLB_STATUS (R24). -/
def GLB_STATUS : Nat := 0x8
def GLB_STATUS_FAULT_MAX : Fld := ⟨12, 2⟩
def GLB_STATUS_IMAGE : Fld := ⟨10, 1⟩
def GLB_STATUS_PLEVEL : Fld := ⟨8, 2⟩
def GLB_STATUS_TWIN_ROLE : Fld := ⟨5, 2⟩
def GLB_STATUS_SAFE : Fld := ⟨4, 1⟩
def GLB_STATUS_OUT_LIVE : Fld := ⟨3, 1⟩
def GLB_STATUS_OUT_PERMIT : Fld := ⟨2, 1⟩
def GLB_STATUS_HOLD_OK : Fld := ⟨1, 1⟩
def GLB_STATUS_READY : Fld := ⟨0, 1⟩

/-- GLB_ADDR (R30). -/
def GLB_ADDR : Nat := 0xC
def GLB_ADDR_QUAR : Fld := ⟨17, 1⟩
def GLB_ADDR_LOCKED : Fld := ⟨16, 1⟩
def GLB_ADDR_ADDR : Fld := ⟨0, 16⟩

/-- GLB_TIME_LO (R32). -/
def GLB_TIME_LO : Nat := 0x10
def GLB_TIME_LO_TIME_LO : Fld := ⟨0, 32⟩

/-- GLB_TIME_HI (R32). -/
def GLB_TIME_HI : Nat := 0x14
def GLB_TIME_HI_TIME_HI : Fld := ⟨0, 32⟩

/-- GLB_TXN (R360). -/
def GLB_TXN : Nat := 0x20
def GLB_TXN_PREPARED : Fld := ⟨23, 3⟩
def GLB_TXN_PENDING : Fld := ⟨20, 3⟩
def GLB_TXN_OPEN : Fld := ⟨17, 3⟩
def GLB_TXN_STAGED : Fld := ⟨0, 17⟩

/-- GLB_TXN_CNT (R360). -/
def GLB_TXN_CNT : Nat := 0x24
def GLB_TXN_CNT_COMMITTED : Fld := ⟨24, 8⟩
def GLB_TXN_CNT_FAILED : Fld := ⟨16, 8⟩
def GLB_TXN_CNT_TIMEOUT : Fld := ⟨8, 8⟩
def GLB_TXN_CNT_MISSED : Fld := ⟨0, 8⟩

/-- GLB_BOOT (R507). -/
def GLB_BOOT : Nat := 0x40
def GLB_BOOT_CAUSE : Fld := ⟨16, 8⟩
def GLB_BOOT_FALLBACK : Fld := ⟨8, 1⟩
def GLB_BOOT_ATTEMPTS : Fld := ⟨0, 2⟩

/-- GLB_FLT_CNT (R507). -/
def GLB_FLT_CNT : Nat := 0x44
def GLB_FLT_CNT_F3 : Fld := ⟨24, 8⟩
def GLB_FLT_CNT_F2 : Fld := ⟨16, 8⟩
def GLB_FLT_CNT_F1 : Fld := ⟨8, 8⟩
def GLB_FLT_CNT_F0 : Fld := ⟨0, 8⟩

/-- GLB_FLOG_SEQ (R507). -/
def GLB_FLOG_SEQ : Nat := 0x48
def GLB_FLOG_SEQ_SEQ : Fld := ⟨0, 32⟩

/-- GLB_FLOG_STAT (R507). -/
def GLB_FLOG_STAT : Nat := 0x4C
def GLB_FLOG_STAT_BUSY : Fld := ⟨31, 1⟩
def GLB_FLOG_STAT_STAGED : Fld := ⟨16, 7⟩
def GLB_FLOG_STAT_LOG_LOST : Fld := ⟨0, 16⟩

/-- GLB_FLOG_SEL (R507). -/
def GLB_FLOG_SEL : Nat := 0x50
def GLB_FLOG_SEL_AGE : Fld := ⟨0, 12⟩

/-- GLB_FLOG_E (R507). -/
def GLB_FLOG_E (n : Nat) : Nat := 0x60 + n * 0x4
def GLB_FLOG_E_ENTRY : Fld := ⟨0, 32⟩

/-! ## PWR (21_power.md) -/

/-- PWR_CFG (R445). -/
def PWR_CFG : Nat := 0x10000
def PWR_CFG_PMIN : Fld := ⟨0, 2⟩

/-- PWR_STAT (R445). -/
def PWR_STAT : Nat := 0x10004
def PWR_STAT_CRITICAL : Fld := ⟨31, 1⟩
def PWR_STAT_BOOST_OK : Fld := ⟨30, 1⟩
def PWR_STAT_FLOOR : Fld := ⟨16, 2⟩
def PWR_STAT_RUNG : Fld := ⟨8, 3⟩
def PWR_STAT_SHED : Fld := ⟨4, 2⟩
def PWR_STAT_LEVEL : Fld := ⟨0, 2⟩

/-- PWR_GRANT_PD (R445). -/
def PWR_GRANT_PD : Nat := 0x10008
def PWR_GRANT_PD_PD : Fld := ⟨0, 16⟩

/-- PWR_GRANT_CAP (R445). -/
def PWR_GRANT_CAP : Nat := 0x1000C
def PWR_GRANT_CAP_CAP : Fld := ⟨0, 16⟩

/-- PWR_GRANT (R445). -/
def PWR_GRANT : Nat := 0x10010
def PWR_GRANT_G : Fld := ⟨0, 16⟩

/-- PWR_BUDGET (R445). -/
def PWR_BUDGET : Nat := 0x10014
def PWR_BUDGET_PEAK : Fld := ⟨16, 16⟩
def PWR_BUDGET_USE : Fld := ⟨0, 16⟩

/-- PWR_DEMAND (R445). -/
def PWR_DEMAND : Nat := 0x10018
def PWR_DEMAND_PENDING : Fld := ⟨16, 16⟩
def PWR_DEMAND_ADMITTED : Fld := ⟨0, 16⟩

/-- PWR_PIN (R445). -/
def PWR_PIN : Nat := 0x1001C
def PWR_PIN_PIN_MAX : Fld := ⟨16, 16⟩
def PWR_PIN_PIN : Fld := ⟨0, 16⟩

/-- PWR_CREDIT (R445). -/
def PWR_CREDIT : Nat := 0x10020
def PWR_CREDIT_CREDIT : Fld := ⟨0, 15⟩

/-- PWR_TJ (R445). -/
def PWR_TJ (n : Nat) : Nat := 0x10030 + n * 0x4
def PWR_TJ_TMAX : Fld := ⟨16, 16⟩
def PWR_TJ_T : Fld := ⟨0, 16⟩

/-- PWR_CNT (R445). -/
def PWR_CNT : Nat := 0x10048
def PWR_CNT_REFUSED : Fld := ⟨24, 8⟩
def PWR_CNT_CRIT : Fld := ⟨16, 8⟩
def PWR_CNT_RUNGS : Fld := ⟨8, 8⟩
def PWR_CNT_LEVELS : Fld := ⟨0, 8⟩

/-- PWR_WATCH_CFG (R445). -/
def PWR_WATCH_CFG : Nat := 0x10050
def PWR_WATCH_CFG_ALARM : Fld := ⟨16, 16⟩
def PWR_WATCH_CFG_SLOT : Fld := ⟨4, 4⟩
def PWR_WATCH_CFG_RECALL : Fld := ⟨0, 1⟩

/-- PWR_WAKE (R445). -/
def PWR_WAKE : Nat := 0x10054
def PWR_WAKE_DURING_ENTRY : Fld := ⟨31, 1⟩
def PWR_WAKE_MASK : Fld := ⟨24, 4⟩
def PWR_WAKE_TOKEN : Fld := ⟨16, 8⟩
def PWR_WAKE_REASON : Fld := ⟨0, 4⟩

/-- PWR_WATCH_DUR (R445). -/
def PWR_WATCH_DUR : Nat := 0x10058
def PWR_WATCH_DUR_DUR : Fld := ⟨0, 32⟩

/-- PWR_RL_LEN (R445). -/
def PWR_RL_LEN : Nat := 0x10060
def PWR_RL_LEN_LEN : Fld := ⟨0, 14⟩

/-- PWR_RL_STAT (R445). -/
def PWR_RL_STAT : Nat := 0x10064
def PWR_RL_STAT_FAIL : Fld := ⟨16, 16⟩
def PWR_RL_STAT_FIRST : Fld := ⟨0, 14⟩

/-- PWR_RL (R445). -/
def PWR_RL (n : Nat) : Nat := 0x18000 + n * 0x4
def PWR_RL_ADDR : Fld := ⟨2, 22⟩

/-! ## NTF (18_notifications.md) -/

/-- NTF_STRAY (R375). -/
def NTF_STRAY : Nat := 0x20000
def NTF_STRAY_STRAY : Fld := ⟨0, 16⟩

/-- NTF_STAT (R375). -/
def NTF_STAT : Nat := 0x20004
def NTF_STAT_PENDING : Fld := ⟨0, 12⟩

/-- NTF_RAISE (R375). -/
def NTF_RAISE : Nat := 0x20008
def NTF_RAISE_SOURCE : Fld := ⟨0, 11⟩

/-- NTF_CLEAR (R375). -/
def NTF_CLEAR : Nat := 0x2000C
def NTF_CLEAR_SOURCE : Fld := ⟨0, 11⟩

/-- NTF_T_CFG (R375). -/
def NTF_T_CFG (n : Nat) : Nat := 0x20100 + n * 0x10
def NTF_T_CFG_REDELIVER : Fld := ⟨24, 8⟩
def NTF_T_CFG_BATCH : Fld := ⟨16, 4⟩
def NTF_T_CFG_MOD_US : Fld := ⟨0, 10⟩

/-- NTF_T_STAT (R375). -/
def NTF_T_STAT (n : Nat) : Nat := 0x20104 + n * 0x10
def NTF_T_STAT_BUSY : Fld := ⟨31, 1⟩
def NTF_T_STAT_ACTIVE : Fld := ⟨16, 5⟩
def NTF_T_STAT_PENDING : Fld := ⟨0, 12⟩

/-- NTF_T_CNT (R375). -/
def NTF_T_CNT (n : Nat) : Nat := 0x20108 + n * 0x10
def NTF_T_CNT_DELIVERIES : Fld := ⟨16, 16⟩
def NTF_T_CNT_RESENT : Fld := ⟨0, 16⟩

/-- NTF_SRC (R375). -/
def NTF_SRC (n : Nat) : Nat := 0x21000 + n * 0x4
def NTF_SRC_STATE : Fld := ⟨30, 2⟩
def NTF_SRC_PEND : Fld := ⟨29, 1⟩
def NTF_SRC_MASK : Fld := ⟨16, 1⟩
def NTF_SRC_TARGET : Fld := ⟨0, 4⟩

/-! ## FAB (19_fabric.md) -/

/-- FAB_STAT (R404). -/
def FAB_STAT : Nat := 0x30000
def FAB_STAT_TIME_VALID : Fld := ⟨31, 1⟩
def FAB_STAT_BROKEN : Fld := ⟨30, 1⟩
def FAB_STAT_DLHOST : Fld := ⟨0, 16⟩

/-- FAB_TIME_LO (R404). -/
def FAB_TIME_LO : Nat := 0x30008
def FAB_TIME_LO_TIME_LO : Fld := ⟨0, 32⟩

/-- FAB_TIME_HI (R404). -/
def FAB_TIME_HI : Nat := 0x3000C
def FAB_TIME_HI_TIME_HI : Fld := ⟨0, 32⟩

/-- FAB_SYNC (R404). -/
def FAB_SYNC : Nat := 0x30010
def FAB_SYNC_ERR : Fld := ⟨0, 32⟩

/-- FAB_MASTER (R404). -/
def FAB_MASTER : Nat := 0x30014
def FAB_MASTER_MASTER : Fld := ⟨0, 16⟩

/-- FAB_UID_LO (R404). -/
def FAB_UID_LO : Nat := 0x30018
def FAB_UID_LO_UID_LO : Fld := ⟨0, 32⟩

/-- FAB_UID_HI (R404). -/
def FAB_UID_HI : Nat := 0x3001C
def FAB_UID_HI_UID_HI : Fld := ⟨0, 32⟩

/-- FAB_CNT0 (R404). -/
def FAB_CNT0 : Nat := 0x30020
def FAB_CNT0_CRC_ERR : Fld := ⟨16, 16⟩
def FAB_CNT0_FORMAT : Fld := ⟨0, 16⟩

/-- FAB_CNT1 (R404). -/
def FAB_CNT1 : Nat := 0x30024
def FAB_CNT1_CONFLICT : Fld := ⟨24, 8⟩
def FAB_CNT1_HOP_DROP : Fld := ⟨16, 8⟩
def FAB_CNT1_SEQ_GAP : Fld := ⟨0, 16⟩

/-- FAB_WAKE (R404). -/
def FAB_WAKE : Nat := 0x30028
def FAB_WAKE_REGEN : Fld := ⟨16, 16⟩
def FAB_WAKE_COUNT : Fld := ⟨8, 8⟩
def FAB_WAKE_REASON : Fld := ⟨0, 8⟩

/-- FAB_P_CFG (R404). -/
def FAB_P_CFG (n : Nat) : Nat := 0x30100 + n * 0x20
def FAB_P_CFG_RETRAIN : Fld := ⟨8, 1⟩
def FAB_P_CFG_MAX_RATE : Fld := ⟨0, 2⟩

/-- FAB_P_STAT (R404). -/
def FAB_P_STAT (n : Nat) : Nat := 0x30104 + n * 0x20
def FAB_P_STAT_UP : Fld := ⟨31, 1⟩
def FAB_P_STAT_HOST_PEER : Fld := ⟨30, 1⟩
def FAB_P_STAT_RATE : Fld := ⟨16, 2⟩

/-- FAB_P_DELAY (R404). -/
def FAB_P_DELAY (n : Nat) : Nat := 0x30108 + n * 0x20
def FAB_P_DELAY_DELAY : Fld := ⟨0, 32⟩

/-- FAB_P_CNT (R404). -/
def FAB_P_CNT (n : Nat) : Nat := 0x3010C + n * 0x20
def FAB_P_CNT_DISCARD : Fld := ⟨16, 16⟩
def FAB_P_CNT_TC0_DROP : Fld := ⟨0, 16⟩

/-- FAB_P_TC0 (R404). -/
def FAB_P_TC0 (n : Nat) : Nat := 0x30110 + n * 0x20
def FAB_P_TC0_LOAD : Fld := ⟨0, 8⟩

/-! ## SHF (02_shafts_sync.md/03_shafts_motion.md) -/

/-- SHF_CFG (R33). -/
def SHF_CFG (n : Nat) : Nat := 0x40000 + n * 0x400
def SHF_CFG_DIR_PORT : Fld := ⟨20, 4⟩
def SHF_CFG_DIR_SRC : Fld := ⟨18, 2⟩
def SHF_CFG_REL_OK : Fld := ⟨17, 1⟩
def SHF_CFG_LOST_CANCEL : Fld := ⟨16, 1⟩
def SHF_CFG_PRED : Fld := ⟨15, 1⟩
def SHF_CFG_INTERP : Fld := ⟨14, 1⟩
def SHF_CFG_LIMP_EN : Fld := ⟨13, 1⟩
def SHF_CFG_IDX_EN : Fld := ⟨12, 1⟩
def SHF_CFG_IDX_PORT : Fld := ⟨8, 4⟩
def SHF_CFG_PORT : Fld := ⟨4, 4⟩
def SHF_CFG_SRC : Fld := ⟨1, 3⟩
def SHF_CFG_EN : Fld := ⟨0, 1⟩

/-- SHF_WHEEL (R34). -/
def SHF_WHEEL (n : Nat) : Nat := 0x40004 + n * 0x400
def SHF_WHEEL_NSEG : Fld := ⟨20, 5⟩
def SHF_WHEEL_NGAP : Fld := ⟨16, 3⟩
def SHF_WHEEL_TURNS : Fld := ⟨12, 3⟩
def SHF_WHEEL_POSITIONS : Fld := ⟨0, 11⟩

/-- SHF_WIN (R40). -/
def SHF_WIN (n : Nat) : Nat := 0x40008 + n * 0x400
def SHF_WIN_ERR_MAX : Fld := ⟨24, 4⟩
def SHF_WIN_GT : Fld := ⟨16, 6⟩
def SHF_WIN_TW_HI : Fld := ⟨8, 7⟩
def SHF_WIN_TW_LO : Fld := ⟨0, 7⟩

/-- SHF_OFFSET (R51). -/
def SHF_OFFSET (n : Nat) : Nat := 0x4000C + n * 0x400
def SHF_OFFSET_OFFSET : Fld := ⟨0, 32⟩

/-- SHF_GAP (R35). -/
def SHF_GAP (n : Nat) (k : Nat) : Nat := 0x40010 + n * 0x400 + k * 0x4
def SHF_GAP_KIND : Fld := ⟨12, 1⟩
def SHF_GAP_MISSING : Fld := ⟨10, 2⟩
def SHF_GAP_END_POS : Fld := ⟨0, 10⟩

/-- SHF_STATE (R45). -/
def SHF_STATE (n : Nat) : Nat := 0x40020 + n * 0x400
def SHF_STATE_CAUSE : Fld := ⟨16, 8⟩
def SHF_STATE_CATCHING : Fld := ⟨7, 1⟩
def SHF_STATE_HALTED : Fld := ⟨6, 1⟩
def SHF_STATE_LIMP_OK : Fld := ⟨5, 1⟩
def SHF_STATE_REL : Fld := ⟨4, 1⟩
def SHF_STATE_ANG_VALID : Fld := ⟨3, 1⟩
def SHF_STATE_STATE : Fld := ⟨0, 3⟩

/-- SHF_TOOTH (R50). -/
def SHF_TOOTH (n : Nat) : Nat := 0x40024 + n * 0x400
def SHF_TOOTH_MICRO : Fld := ⟨16, 16⟩
def SHF_TOOTH_TURN : Fld := ⟨10, 3⟩
def SHF_TOOTH_POS : Fld := ⟨0, 10⟩

/-- SHF_ERR (R42). -/
def SHF_ERR (n : Nat) : Nat := 0x40028 + n * 0x400
def SHF_ERR_ERR_CNT : Fld := ⟨24, 5⟩
def SHF_ERR_LIMP_CNT : Fld := ⟨16, 8⟩
def SHF_ERR_SYNC_LOSS : Fld := ⟨8, 8⟩
def SHF_ERR_TOOTH_ERR : Fld := ⟨0, 8⟩

/-- SHF_DISCARD (R45). -/
def SHF_DISCARD (n : Nat) : Nat := 0x4002C + n * 0x400
def SHF_DISCARD_COUNT : Fld := ⟨0, 16⟩

/-- SHF_ANGLE_LO (R51). -/
def SHF_ANGLE_LO (n : Nat) : Nat := 0x40030 + n * 0x400
def SHF_ANGLE_LO_ANGLE_LO : Fld := ⟨0, 32⟩

/-- SHF_ANGLE_HI (R51). -/
def SHF_ANGLE_HI (n : Nat) : Nat := 0x40034 + n * 0x400
def SHF_ANGLE_HI_ANGLE_HI : Fld := ⟨0, 32⟩

/-- SHF_CYCLE (R51). -/
def SHF_CYCLE (n : Nat) : Nat := 0x40038 + n * 0x400
def SHF_CYCLE_CYCLE : Fld := ⟨0, 32⟩

/-- SHF_SEG (R37). -/
def SHF_SEG (n : Nat) (k : Nat) : Nat := 0x40040 + n * 0x400 + k * 0x4
def SHF_SEG_LEVEL : Fld := ⟨15, 1⟩
def SHF_SEG_LENGTH : Fld := ⟨0, 13⟩

/-- SHF_SPEED_LO (R56). -/
def SHF_SPEED_LO (n : Nat) : Nat := 0x40100 + n * 0x400
def SHF_SPEED_LO_SPEED : Fld := ⟨0, 32⟩

/-- SHF_SPEED_HI (R57). -/
def SHF_SPEED_HI (n : Nat) : Nat := 0x40104 + n * 0x400
def SHF_SPEED_HI_STEP : Fld := ⟨3, 1⟩
def SHF_SPEED_HI_DIR : Fld := ⟨2, 1⟩
def SHF_SPEED_HI_STILL : Fld := ⟨1, 1⟩
def SHF_SPEED_HI_SPD_VALID : Fld := ⟨0, 1⟩

/-- SHF_MOTION (R59). -/
def SHF_MOTION (n : Nat) : Nat := 0x40108 + n * 0x400
def SHF_MOTION_DIR_INV : Fld := ⟨20, 1⟩
def SHF_MOTION_SPD_AVG : Fld := ⟨16, 2⟩
def SHF_MOTION_STILL_TO : Fld := ⟨0, 14⟩

/-- SHF_TPRED (R54). -/
def SHF_TPRED (n : Nat) : Nat := 0x4010C + n * 0x400
def SHF_TPRED_TPRED : Fld := ⟨0, 32⟩

/-- SHF_MCNT (R60). -/
def SHF_MCNT (n : Nat) : Nat := 0x40110 + n * 0x400
def SHF_MCNT_STILLS : Fld := ⟨16, 16⟩
def SHF_MCNT_REVERSALS : Fld := ⟨0, 16⟩

/-- SHF_PH_CFG (R63). -/
def SHF_PH_CFG (n : Nat) : Nat := 0x40120 + n * 0x400
def SHF_PH_CFG_SAMPLE : Fld := ⟨12, 2⟩
def SHF_PH_CFG_WIN : Fld := ⟨8, 4⟩
def SHF_PH_CFG_REF : Fld := ⟨4, 4⟩
def SHF_PH_CFG_PH_CLR : Fld := ⟨1, 1⟩
def SHF_PH_CFG_PH_EN : Fld := ⟨0, 1⟩

/-- SHF_PH_RATIO (R62). -/
def SHF_PH_RATIO (n : Nat) : Nat := 0x40124 + n * 0x400
def SHF_PH_RATIO_NUM : Fld := ⟨16, 16⟩
def SHF_PH_RATIO_DEN : Fld := ⟨0, 16⟩

/-- SHF_PH_BIAS (R62). -/
def SHF_PH_BIAS (n : Nat) : Nat := 0x40128 + n * 0x400
def SHF_PH_BIAS_BIAS : Fld := ⟨0, 32⟩

/-- SHF_PHASE (R62). -/
def SHF_PHASE (n : Nat) : Nat := 0x4012C + n * 0x400
def SHF_PHASE_PHASE : Fld := ⟨0, 32⟩

/-- SHF_PH_MIN (R63). -/
def SHF_PH_MIN (n : Nat) : Nat := 0x40130 + n * 0x400
def SHF_PH_MIN_PH_MIN : Fld := ⟨0, 32⟩

/-- SHF_PH_MAX (R63). -/
def SHF_PH_MAX (n : Nat) : Nat := 0x40134 + n * 0x400
def SHF_PH_MAX_PH_MAX : Fld := ⟨0, 32⟩

/-- SHF_PH_MEAN (R63). -/
def SHF_PH_MEAN (n : Nat) : Nat := 0x40138 + n * 0x400
def SHF_PH_MEAN_PH_MEAN : Fld := ⟨0, 32⟩

/-- SHF_PH_STAT (R63). -/
def SHF_PH_STAT (n : Nat) : Nat := 0x4013C + n * 0x400
def SHF_PH_STAT_PH_VALID : Fld := ⟨31, 1⟩
def SHF_PH_STAT_COUNT : Fld := ⟨0, 16⟩

/-- SHF_VSRC (R65). -/
def SHF_VSRC (n : Nat) : Nat := 0x40140 + n * 0x400
def SHF_VSRC_TIMEOUT : Fld := ⟨24, 4⟩
def SHF_VSRC_SRC_SHAFT : Fld := ⟨16, 4⟩
def SHF_VSRC_SRC_ADDR : Fld := ⟨0, 16⟩

/-- SHF_PUB (R64). -/
def SHF_PUB (n : Nat) : Nat := 0x40144 + n * 0x400
def SHF_PUB_PUB_EN : Fld := ⟨0, 1⟩

/-- SHF_PROF_SPEED (R67). -/
def SHF_PROF_SPEED (n : Nat) : Nat := 0x40148 + n * 0x400
def SHF_PROF_SPEED_PROF_SPEED : Fld := ⟨0, 32⟩

/-- SHF_PROF_ACCEL (R67). -/
def SHF_PROF_ACCEL (n : Nat) : Nat := 0x4014C + n * 0x400
def SHF_PROF_ACCEL_PROF_ACCEL : Fld := ⟨0, 32⟩

/-- SHF_VSTAT (R65). -/
def SHF_VSTAT (n : Nat) : Nat := 0x40150 + n * 0x400
def SHF_VSTAT_MISSED : Fld := ⟨16, 8⟩
def SHF_VSTAT_AGE : Fld := ⟨0, 16⟩

/-! ## FBP (10_feedback_ports.md) -/

/-- FBP_CFG (R234). -/
def FBP_CFG (n : Nat) : Nat := 0x60000 + n * 0x200
def FBP_CFG_FILT : Fld := ⟨24, 6⟩
def FBP_CFG_INV : Fld := ⟨20, 4⟩
def FBP_CFG_EDGE : Fld := ⟨16, 2⟩
def FBP_CFG_LC_FAULT : Fld := ⟨15, 1⟩
def FBP_CFG_IDX_RST : Fld := ⟨14, 1⟩
def FBP_CFG_IDX_GATE : Fld := ⟨13, 1⟩
def FBP_CFG_IDX_EN : Fld := ⟨12, 1⟩
def FBP_CFG_LBCHK : Fld := ⟨4, 4⟩
def FBP_CFG_MODE : Fld := ⟨1, 3⟩
def FBP_CFG_EN : Fld := ⟨0, 1⟩

/-- FBP_WRAP (R234). -/
def FBP_WRAP (n : Nat) : Nat := 0x60004 + n * 0x200
def FBP_WRAP_WRAP : Fld := ⟨0, 25⟩

/-- FBP_POS (R234). -/
def FBP_POS (n : Nat) : Nat := 0x60008 + n * 0x200
def FBP_POS_POS : Fld := ⟨0, 24⟩

/-- FBP_STAT (R234). -/
def FBP_STAT (n : Nat) : Nat := 0x6000C + n * 0x200
def FBP_STAT_PFAULT : Fld := ⟨31, 1⟩
def FBP_STAT_DOUBTFUL : Fld := ⟨30, 1⟩
def FBP_STAT_REFD : Fld := ⟨29, 1⟩
def FBP_STAT_SETTLING : Fld := ⟨28, 1⟩
def FBP_STAT_LBRK : Fld := ⟨24, 4⟩
def FBP_STAT_LEVEL : Fld := ⟨20, 4⟩
def FBP_STAT_DIR : Fld := ⟨19, 1⟩
def FBP_STAT_WARN : Fld := ⟨18, 1⟩
def FBP_STAT_HALL : Fld := ⟨15, 3⟩
def FBP_STAT_CAUSE : Fld := ⟨0, 8⟩

/-- FBP_ERR (R234). -/
def FBP_ERR (n : Nat) : Nat := 0x60010 + n * 0x200
def FBP_ERR_FRAME_ERR : Fld := ⟨24, 8⟩
def FBP_ERR_HERR : Fld := ⟨16, 8⟩
def FBP_ERR_LCERR : Fld := ⟨8, 8⟩
def FBP_ERR_QERR : Fld := ⟨0, 8⟩

/-- FBP_IDX (R234). -/
def FBP_IDX (n : Nat) : Nat := 0x60014 + n * 0x200
def FBP_IDX_TOL : Fld := ⟨28, 2⟩
def FBP_IDX_IDX_POS : Fld := ⟨0, 24⟩

/-- FBP_LC (R234). -/
def FBP_LC (n : Nat) : Nat := 0x60018 + n * 0x200
def FBP_LC_LC_NET : Fld := ⟨0, 32⟩

/-- FBP_SER_CFG (R234). -/
def FBP_SER_CFG (n : Nat) : Nat := 0x60020 + n * 0x200
def FBP_SER_CFG_ZCHK : Fld := ⟨14, 1⟩
def FBP_SER_CFG_GRAY : Fld := ⟨13, 1⟩
def FBP_SER_CFG_MT_BITS : Fld := ⟨8, 5⟩
def FBP_SER_CFG_BITS : Fld := ⟨0, 6⟩

/-- FBP_SER_CLK (R234). -/
def FBP_SER_CLK (n : Nat) : Nat := 0x60024 + n * 0x200
def FBP_SER_CLK_MONO : Fld := ⟨16, 8⟩
def FBP_SER_CLK_HALF : Fld := ⟨0, 11⟩

/-- FBP_SER_PER (R234). -/
def FBP_SER_PER (n : Nat) : Nat := 0x60028 + n * 0x200
def FBP_SER_PER_FPER : Fld := ⟨0, 22⟩

/-- FBP_SER_JMAX (R234). -/
def FBP_SER_JMAX (n : Nat) : Nat := 0x6002C + n * 0x200
def FBP_SER_JMAX_JMAX : Fld := ⟨0, 32⟩

/-- FBP_SER_POS (R234). -/
def FBP_SER_POS (n : Nat) : Nat := 0x60030 + n * 0x200
def FBP_SER_POS_SER_POS : Fld := ⟨0, 32⟩

/-- FBP_SER_STAT (R234). -/
def FBP_SER_STAT (n : Nat) : Nat := 0x60034 + n * 0x200
def FBP_SER_STAT_LDLY : Fld := ⟨16, 16⟩
def FBP_SER_STAT_BAD_RUN : Fld := ⟨8, 8⟩

/-- FBP_PRB_CFG (R234). -/
def FBP_PRB_CFG (n : Nat) : Nat := 0x60040 + n * 0x200
def FBP_PRB_CFG_SHAFT : Fld := ⟨8, 4⟩
def FBP_PRB_CFG_EDGE : Fld := ⟨4, 2⟩
def FBP_PRB_CFG_SRC : Fld := ⟨2, 1⟩
def FBP_PRB_CFG_MODE : Fld := ⟨0, 2⟩

/-- FBP_PRB_STAT (R234). -/
def FBP_PRB_STAT (n : Nat) : Nat := 0x60044 + n * 0x200
def FBP_PRB_STAT_ANG_INV : Fld := ⟨2, 1⟩
def FBP_PRB_STAT_OVR : Fld := ⟨1, 1⟩
def FBP_PRB_STAT_VALID : Fld := ⟨0, 1⟩

/-- FBP_PRB_POS (R234). -/
def FBP_PRB_POS (n : Nat) : Nat := 0x60048 + n * 0x200
def FBP_PRB_POS_PRB_POS : Fld := ⟨0, 24⟩

/-- FBP_PRB_CNT (R234). -/
def FBP_PRB_CNT (n : Nat) : Nat := 0x6004C + n * 0x200
def FBP_PRB_CNT_PRB_CNT : Fld := ⟨0, 16⟩

/-- FBP_PRB_TIME_LO (R234). -/
def FBP_PRB_TIME_LO (n : Nat) : Nat := 0x60050 + n * 0x200
def FBP_PRB_TIME_LO_TIME_LO : Fld := ⟨0, 32⟩

/-- FBP_PRB_TIME_HI (R234). -/
def FBP_PRB_TIME_HI (n : Nat) : Nat := 0x60054 + n * 0x200
def FBP_PRB_TIME_HI_TIME_HI : Fld := ⟨0, 32⟩

/-- FBP_PRB_ANG_LO (R234). -/
def FBP_PRB_ANG_LO (n : Nat) : Nat := 0x60058 + n * 0x200
def FBP_PRB_ANG_LO_ANG_LO : Fld := ⟨0, 32⟩

/-- FBP_PRB_ANG_HI (R234). -/
def FBP_PRB_ANG_HI (n : Nat) : Nat := 0x6005C + n * 0x200
def FBP_PRB_ANG_HI_ANG_HI : Fld := ⟨0, 32⟩

/-- FBP_EMU_CFG (R234). -/
def FBP_EMU_CFG (n : Nat) : Nat := 0x60060 + n * 0x200
def FBP_EMU_CFG_MINP : Fld := ⟨8, 8⟩
def FBP_EMU_CFG_Z_EN : Fld := ⟨2, 1⟩
def FBP_EMU_CFG_FORM : Fld := ⟨1, 1⟩
def FBP_EMU_CFG_EMU_EN : Fld := ⟨0, 1⟩

/-- FBP_EMU_RATIO (R234). -/
def FBP_EMU_RATIO (n : Nat) : Nat := 0x60064 + n * 0x200
def FBP_EMU_RATIO_MUL : Fld := ⟨16, 16⟩
def FBP_EMU_RATIO_DIV : Fld := ⟨0, 16⟩

/-- FBP_EMU_STAT (R234). -/
def FBP_EMU_STAT (n : Nat) : Nat := 0x60068 + n * 0x200
def FBP_EMU_STAT_OVF : Fld := ⟨31, 1⟩
def FBP_EMU_STAT_BACKLOG : Fld := ⟨0, 17⟩

/-- FBP_SUP (R234). -/
def FBP_SUP (n : Nat) : Nat := 0x60070 + n * 0x200
def FBP_SUP_WATCH : Fld := ⟨24, 1⟩
def FBP_SUP_DELAY : Fld := ⟨16, 8⟩
def FBP_SUP_ILOAD : Fld := ⟨8, 8⟩
def FBP_SUP_VSEL : Fld := ⟨1, 1⟩
def FBP_SUP_EN : Fld := ⟨0, 1⟩

/-- FBP_SUP_STAT (R234). -/
def FBP_SUP_STAT (n : Nat) : Nat := 0x60074 + n * 0x200
def FBP_SUP_STAT_OC : Fld := ⟨31, 1⟩
def FBP_SUP_STAT_ON : Fld := ⟨8, 1⟩
def FBP_SUP_STAT_IMEAS : Fld := ⟨0, 8⟩

/-- FBP_SUP_BUDGET (R234). -/
def FBP_SUP_BUDGET : Nat := 0x62000
def FBP_SUP_BUDGET_SUP_OVER : Fld := ⟨31, 1⟩
def FBP_SUP_BUDGET_ALLOW : Fld := ⟨16, 15⟩
def FBP_SUP_BUDGET_DECL : Fld := ⟨0, 16⟩

/-- FBP_SUP_MEAS (R234). -/
def FBP_SUP_MEAS : Nat := 0x62004
def FBP_SUP_MEAS_MEAS : Fld := ⟨0, 16⟩

/-! ## TMC (11_timer_cells.md) -/

/-- TMC_CFG (R250). -/
def TMC_CFG (n : Nat) : Nat := 0x80000 + n * 0x20
def TMC_CFG_PRESC : Fld := ⟨24, 8⟩
def TMC_CFG_LINE : Fld := ⟨17, 7⟩
def TMC_CFG_CAP_EDGE : Fld := ⟨15, 2⟩
def TMC_CFG_CAP_OVW : Fld := ⟨14, 1⟩
def TMC_CFG_NTF_OVF : Fld := ⟨13, 1⟩
def TMC_CFG_NTF_BND : Fld := ⟨12, 1⟩
def TMC_CFG_NTF_MATCH : Fld := ⟨11, 1⟩
def TMC_CFG_UPD : Fld := ⟨10, 1⟩
def TMC_CFG_CMP_EN : Fld := ⟨9, 1⟩
def TMC_CFG_DIR : Fld := ⟨8, 1⟩
def TMC_CFG_CLK : Fld := ⟨6, 2⟩
def TMC_CFG_MODE : Fld := ⟨4, 2⟩
def TMC_CFG_EN : Fld := ⟨0, 1⟩

/-- TMC_COUNT (R250). -/
def TMC_COUNT (n : Nat) : Nat := 0x80004 + n * 0x20
def TMC_COUNT_COUNT : Fld := ⟨0, 32⟩

/-- TMC_PERIOD (R250). -/
def TMC_PERIOD (n : Nat) : Nat := 0x80008 + n * 0x20
def TMC_PERIOD_PERIOD : Fld := ⟨0, 32⟩

/-- TMC_COMPARE (R250). -/
def TMC_COMPARE (n : Nat) : Nat := 0x8000C + n * 0x20
def TMC_COMPARE_COMPARE : Fld := ⟨0, 32⟩

/-- TMC_STAT (R250). -/
def TMC_STAT (n : Nat) : Nat := 0x80010 + n * 0x20
def TMC_STAT_CAP_N : Fld := ⟨29, 3⟩
def TMC_STAT_CAP_OVF : Fld := ⟨28, 1⟩
def TMC_STAT_PERIOD_CUT : Fld := ⟨27, 1⟩
def TMC_STAT_BND : Fld := ⟨26, 1⟩
def TMC_STAT_MATCH : Fld := ⟨25, 1⟩
def TMC_STAT_STAGED : Fld := ⟨24, 1⟩

/-- TMC_CAP (R250). -/
def TMC_CAP (n : Nat) : Nat := 0x80014 + n * 0x20
def TMC_CAP_CAP : Fld := ⟨0, 32⟩

/-- TMC_CNT (R250). -/
def TMC_CNT (n : Nat) : Nat := 0x80018 + n * 0x20
def TMC_CNT_CAP_LOST : Fld := ⟨16, 16⟩
def TMC_CNT_DISCARD : Fld := ⟨8, 8⟩

/-- TMC_CMD (R250). -/
def TMC_CMD (n : Nat) : Nat := 0x8001C + n * 0x20
def TMC_CMD_CAPTURE : Fld := ⟨0, 1⟩

/-! ## ALM (04_almanac.md) -/

/-- ALM_STAT (R90). -/
def ALM_STAT : Nat := 0xA0000
def ALM_STAT_COMMITTED : Fld := ⟨16, 11⟩
def ALM_STAT_IN_USE : Fld := ⟨0, 15⟩

/-- ALM_LATE (R90). -/
def ALM_LATE : Nat := 0xA0004
def ALM_LATE_SKIPPED : Fld := ⟨16, 16⟩
def ALM_LATE_LATE_FIRED : Fld := ⟨0, 16⟩

/-- ALM_OVF (R90). -/
def ALM_OVF : Nat := 0xA0008
def ALM_OVF_QUEUE_WAIT : Fld := ⟨16, 16⟩
def ALM_OVF_COMMIT_DEFER : Fld := ⟨0, 16⟩

/-- ALM_CANCEL (R90). -/
def ALM_CANCEL : Nat := 0xA000C
def ALM_CANCEL_MERGED : Fld := ⟨16, 16⟩
def ALM_CANCEL_CANCELLED : Fld := ⟨0, 16⟩

/-- ALM_LEAD_EL (R90). -/
def ALM_LEAD_EL : Nat := 0xA0010
def ALM_LEAD_EL_TICKS : Fld := ⟨6, 8⟩
def ALM_LEAD_EL_STEPS : Fld := ⟨0, 6⟩

/-- ALM_LEAD_PO (R90). -/
def ALM_LEAD_PO : Nat := 0xA0014
def ALM_LEAD_PO_TICKS : Fld := ⟨6, 8⟩
def ALM_LEAD_PO_STEPS : Fld := ⟨0, 6⟩

/-! ## BLU (05_blulet_threads.md) -/

/-- BLU_CFG (R116). -/
def BLU_CFG (n : Nat) : Nat := 0xC0000 + n * 0x1000
def BLU_CFG_A_FLOOR : Fld := ⟨0, 2⟩

/-- BLU_STAT (R116). -/
def BLU_STAT (n : Nat) : Nat := 0xC0004 + n * 0x1000
def BLU_STAT_RUN_VALID : Fld := ⟨20, 1⟩
def BLU_STAT_RUN_K : Fld := ⟨16, 4⟩
def BLU_STAT_READY : Fld := ⟨8, 5⟩
def BLU_STAT_WAITING : Fld := ⟨0, 5⟩

/-- BLU_HOLD (R116). -/
def BLU_HOLD (n : Nat) : Nat := 0xC0008 + n * 0x1000
def BLU_HOLD_HOLD : Fld := ⟨0, 16⟩

/-- BLU_CNT (R116). -/
def BLU_CNT (n : Nat) : Nat := 0xC000C + n * 0x1000
def BLU_CNT_FORCED : Fld := ⟨16, 16⟩
def BLU_CNT_PROMOTED : Fld := ⟨8, 8⟩
def BLU_CNT_ECC_FIX : Fld := ⟨0, 8⟩

/-- BLU_T_CFG (R116). -/
def BLU_T_CFG (n : Nat) (k : Nat) : Nat := 0xC0100 + n * 0x1000 + k * 0x20
def BLU_T_CFG_DEADLINE : Fld := ⟨16, 16⟩
def BLU_T_CFG_CLASS : Fld := ⟨0, 2⟩

/-- BLU_T_STAT (R116). -/
def BLU_T_STAT (n : Nat) (k : Nat) : Nat := 0xC0104 + n * 0x1000 + k * 0x20
def BLU_T_STAT_STATE : Fld := ⟨29, 3⟩
def BLU_T_STAT_STOP_PEND : Fld := ⟨28, 1⟩
def BLU_T_STAT_WAIT : Fld := ⟨24, 4⟩
def BLU_T_STAT_PC : Fld := ⟨0, 13⟩

/-- BLU_T_SIG (R116). -/
def BLU_T_SIG (n : Nat) (k : Nat) : Nat := 0xC0108 + n * 0x1000 + k * 0x20
def BLU_T_SIG_SIG : Fld := ⟨0, 8⟩

/-- BLU_T_FAULT (R116). -/
def BLU_T_FAULT (n : Nat) (k : Nat) : Nat := 0xC010C + n * 0x1000 + k * 0x20
def BLU_T_FAULT_CAUSE : Fld := ⟨24, 8⟩
def BLU_T_FAULT_FPC : Fld := ⟨0, 13⟩

/-- BLU_T_EVT (R116). -/
def BLU_T_EVT (n : Nat) (k : Nat) : Nat := 0xC0110 + n * 0x1000 + k * 0x20
def BLU_T_EVT_DISCARD : Fld := ⟨16, 16⟩
def BLU_T_EVT_OWNED : Fld := ⟨0, 15⟩

/-! ## EPH (07_ephemeris.md) -/

/-- EPH_STAT (R163). -/
def EPH_STAT : Nat := 0x100000
def EPH_STAT_IN_USE : Fld := ⟨0, 17⟩

/-- EPH_CNT (R163). -/
def EPH_CNT : Nat := 0x100004
def EPH_CNT_STORE_FULL : Fld := ⟨16, 16⟩
def EPH_CNT_HO_DUP : Fld := ⟨0, 16⟩

/-- EPH_HO_CFG (R163). -/
def EPH_HO_CFG : Nat := 0x100008
def EPH_HO_CFG_ACK_TO : Fld := ⟨0, 16⟩

/-- EPH_HO_CNT (R163). -/
def EPH_HO_CNT : Nat := 0x10000C
def EPH_HO_CNT_SENT : Fld := ⟨16, 16⟩
def EPH_HO_CNT_LATE : Fld := ⟨8, 8⟩
def EPH_HO_CNT_FAIL : Fld := ⟨0, 8⟩

/-- EPH_L_CFG (R163). -/
def EPH_L_CFG (n : Nat) : Nat := 0x101000 + n * 0x40
def EPH_L_CFG_SHAFT : Fld := ⟨8, 4⟩
def EPH_L_CFG_RET_NTF : Fld := ⟨5, 1⟩
def EPH_L_CFG_ORPHAN : Fld := ⟨4, 1⟩
def EPH_L_CFG_SNAP : Fld := ⟨3, 1⟩
def EPH_L_CFG_ENTRY : Fld := ⟨1, 2⟩
def EPH_L_CFG_EN : Fld := ⟨0, 1⟩

/-- EPH_L_SLOTS (R163). -/
def EPH_L_SLOTS (n : Nat) : Nat := 0x101004 + n * 0x40
def EPH_L_SLOTS_SLOTS : Fld := ⟨0, 13⟩

/-- EPH_L_SLOT0 (R163). -/
def EPH_L_SLOT0 (n : Nat) : Nat := 0x101008 + n * 0x40
def EPH_L_SLOT0_SLOT0 : Fld := ⟨0, 32⟩

/-- EPH_L_IO (R163). -/
def EPH_L_IO (n : Nat) : Nat := 0x10100C + n * 0x40
def EPH_L_IO_PRES_POL : Fld := ⟨15, 1⟩
def EPH_L_IO_PRES_LINE : Fld := ⟨8, 7⟩
def EPH_L_IO_SENS_POL : Fld := ⟨7, 1⟩
def EPH_L_IO_SENS_LINE : Fld := ⟨0, 7⟩

/-- EPH_L_PWIN (R163). -/
def EPH_L_PWIN (n : Nat) : Nat := 0x101010 + n * 0x40
def EPH_L_PWIN_PWIN : Fld := ⟨0, 32⟩

/-- EPH_L_MIN_GAP (R163). -/
def EPH_L_MIN_GAP (n : Nat) : Nat := 0x101014 + n * 0x40
def EPH_L_MIN_GAP_MIN_GAP : Fld := ⟨0, 32⟩

/-- EPH_L_EXIT_LO (R163). -/
def EPH_L_EXIT_LO (n : Nat) : Nat := 0x101018 + n * 0x40
def EPH_L_EXIT_LO_EXIT_LO : Fld := ⟨0, 32⟩

/-- EPH_L_EXIT_HI (R163). -/
def EPH_L_EXIT_HI (n : Nat) : Nat := 0x10101C + n * 0x40
def EPH_L_EXIT_HI_EXIT_HI : Fld := ⟨0, 32⟩

/-- EPH_L_HO (R163). -/
def EPH_L_HO (n : Nat) : Nat := 0x101020 + n * 0x40
def EPH_L_HO_HO_DEADLINE : Fld := ⟨16, 16⟩
def EPH_L_HO_HO_TOL : Fld := ⟨0, 16⟩

/-- EPH_L_HO_OFS (R163). -/
def EPH_L_HO_OFS (n : Nat) : Nat := 0x101024 + n * 0x40
def EPH_L_HO_OFS_HO_OFS : Fld := ⟨0, 32⟩

/-- EPH_L_COUNT (R163). -/
def EPH_L_COUNT (n : Nat) : Nat := 0x10102C + n * 0x40
def EPH_L_COUNT_COUNT : Fld := ⟨0, 17⟩

/-- EPH_L_CNT_IO (R163). -/
def EPH_L_CNT_IO (n : Nat) : Nat := 0x101030 + n * 0x40
def EPH_L_CNT_IO_ENTERED : Fld := ⟨16, 16⟩
def EPH_L_CNT_IO_RETIRED : Fld := ⟨0, 16⟩

/-- EPH_L_CNT_ERR (R163). -/
def EPH_L_CNT_ERR (n : Nat) : Nat := 0x101034 + n * 0x40
def EPH_L_CNT_ERR_REFUSED : Fld := ⟨24, 8⟩
def EPH_L_CNT_ERR_GAP_SHORT : Fld := ⟨16, 8⟩
def EPH_L_CNT_ERR_CLASH : Fld := ⟨8, 8⟩
def EPH_L_CNT_ERR_DISCARD : Fld := ⟨0, 8⟩

/-- EPH_L_CNT_REJ (R163). -/
def EPH_L_CNT_REJ (n : Nat) : Nat := 0x101038 + n * 0x40
def EPH_L_CNT_REJ_REJECTED : Fld := ⟨16, 16⟩
def EPH_L_CNT_REJ_MISSED : Fld := ⟨0, 16⟩

/-- EPH_ST_CFG (R163). -/
def EPH_ST_CFG (n : Nat) : Nat := 0x102000 + n * 0x40
def EPH_ST_CFG_LANE : Fld := ⟨4, 4⟩
def EPH_ST_CFG_LATE : Fld := ⟨1, 1⟩
def EPH_ST_CFG_EN : Fld := ⟨0, 1⟩

/-- EPH_ST_CNT (R163). -/
def EPH_ST_CNT (n : Nat) : Nat := 0x102004 + n * 0x40
def EPH_ST_CNT_FIRED : Fld := ⟨16, 16⟩
def EPH_ST_CNT_SKIPPED : Fld := ⟨8, 8⟩
def EPH_ST_CNT_ACT_FAIL : Fld := ⟨0, 8⟩

/-- EPH_ST_OFS_LO (R163). -/
def EPH_ST_OFS_LO (n : Nat) : Nat := 0x102008 + n * 0x40
def EPH_ST_OFS_LO_OFS_LO : Fld := ⟨0, 32⟩

/-- EPH_ST_OFS_HI (R163). -/
def EPH_ST_OFS_HI (n : Nat) : Nat := 0x10200C + n * 0x40
def EPH_ST_OFS_HI_OFS_HI : Fld := ⟨0, 32⟩

/-- EPH_ST_ACT (R163). -/
def EPH_ST_ACT (n : Nat) (k : Nat) : Nat := 0x102020 + n * 0x40 + k * 0x4
def EPH_ST_ACT_OP : Fld := ⟨28, 4⟩
def EPH_ST_ACT_COND : Fld := ⟨24, 4⟩
def EPH_ST_ACT_ARG2 : Fld := ⟨16, 8⟩
def EPH_ST_ACT_ARG : Fld := ⟨0, 16⟩

/-- EPH_TM_CFG (R163). -/
def EPH_TM_CFG (n : Nat) : Nat := 0x103000 + n * 0x20
def EPH_TM_CFG_PH_CHK : Fld := ⟨9, 1⟩
def EPH_TM_CFG_SNAP : Fld := ⟨8, 1⟩
def EPH_TM_CFG_TO : Fld := ⟨4, 4⟩
def EPH_TM_CFG_FROM : Fld := ⟨0, 4⟩

/-- EPH_TM_TO_OFS (R163). -/
def EPH_TM_TO_OFS (n : Nat) : Nat := 0x103004 + n * 0x20
def EPH_TM_TO_OFS_TO_OFS : Fld := ⟨0, 32⟩

/-- EPH_TM_TOL (R163). -/
def EPH_TM_TOL (n : Nat) : Nat := 0x103008 + n * 0x20
def EPH_TM_TOL_TOL : Fld := ⟨0, 16⟩

/-- EPH_TM_CNT (R163). -/
def EPH_TM_CNT (n : Nat) : Nat := 0x10300C + n * 0x20
def EPH_TM_CNT_MOVED : Fld := ⟨16, 16⟩
def EPH_TM_CNT_SUSPECT : Fld := ⟨8, 8⟩
def EPH_TM_CNT_FAILED : Fld := ⟨0, 8⟩

/-- EPH_RJ_SEL (R163). -/
def EPH_RJ_SEL (n : Nat) (k : Nat) : Nat := 0x103800 + n * 0x200 + k * 0x4
def EPH_RJ_SEL_SEL3 : Fld := ⟨24, 6⟩
def EPH_RJ_SEL_SEL2 : Fld := ⟨16, 6⟩
def EPH_RJ_SEL_SEL1 : Fld := ⟨8, 6⟩
def EPH_RJ_SEL_SEL0 : Fld := ⟨0, 6⟩

/-- EPH_RJ_LUT (R163). -/
def EPH_RJ_LUT (n : Nat) (k : Nat) : Nat := 0x103900 + n * 0x200 + k * 0x4
def EPH_RJ_LUT_LUT : Fld := ⟨0, 32⟩

/-- EPH_ET (R163). -/
def EPH_ET (n : Nat) (k : Nat) : Nat := 0x104000 + n * 0x20 + k * 0x4
def EPH_ET_W : Fld := ⟨0, 32⟩

/-! ## CMP (08_composer.md) -/

/-- CMP_CFG (R187). -/
def CMP_CFG : Nat := 0x120000
def CMP_CFG_DAY_START : Fld := ⟨16, 11⟩
def CMP_CFG_CLAIM : Fld := ⟨8, 6⟩
def CMP_CFG_EN : Fld := ⟨0, 1⟩

/-- CMP_STAT (R187). -/
def CMP_STAT : Nat := 0x120004
def CMP_STAT_CAL_OK : Fld := ⟨31, 1⟩
def CMP_STAT_ACTIVE : Fld := ⟨16, 3⟩
def CMP_STAT_QUEUED : Fld := ⟨0, 9⟩

/-- CMP_CNT (R187). -/
def CMP_CNT : Nat := 0x120008
def CMP_CNT_DONE : Fld := ⟨16, 16⟩
def CMP_CNT_FAILED : Fld := ⟨0, 16⟩

/-- CMP_CNT2 (R187). -/
def CMP_CNT2 : Nat := 0x12000C
def CMP_CNT2_NODATE : Fld := ⟨24, 8⟩
def CMP_CNT2_SUBST : Fld := ⟨16, 8⟩
def CMP_CNT2_CLIPPED : Fld := ⟨8, 8⟩
def CMP_CNT2_LATE : Fld := ⟨0, 8⟩

/-- CMP_LAT (R187). -/
def CMP_LAT : Nat := 0x120010
def CMP_LAT_LAT_MAX : Fld := ⟨0, 16⟩

/-- CMP_EPOCH (R187). -/
def CMP_EPOCH : Nat := 0x120014
def CMP_EPOCH_EPOCH : Fld := ⟨16, 16⟩
def CMP_EPOCH_DRAIN : Fld := ⟨0, 16⟩

/-- CMP_TPL (R187). -/
def CMP_TPL (n : Nat) : Nat := 0x120100 + n * 0x4
def CMP_TPL_VALID : Fld := ⟨31, 1⟩
def CMP_TPL_BLOCK : Fld := ⟨0, 17⟩

/-- CMP_GLY (R187). -/
def CMP_GLY (n : Nat) : Nat := 0x120200 + n * 0x4
def CMP_GLY_VALID : Fld := ⟨31, 1⟩
def CMP_GLY_NBLK : Fld := ⟨20, 4⟩
def CMP_GLY_BLOCK : Fld := ⟨0, 17⟩

/-- CMP_SHIFT (R187). -/
def CMP_SHIFT (n : Nat) : Nat := 0x120280 + n * 0x4
def CMP_SHIFT_EN : Fld := ⟨31, 1⟩
def CMP_SHIFT_START : Fld := ⟨16, 11⟩
def CMP_SHIFT_CODE : Fld := ⟨0, 16⟩

/-- CMP_BATCH (R187). -/
def CMP_BATCH (n : Nat) (k : Nat) : Nat := 0x1202C0 + n * 0x10 + k * 0x4
def CMP_BATCH_TEXT : Fld := ⟨0, 32⟩

/-- CMP_RQ_BASE (R187). -/
def CMP_RQ_BASE (n : Nat) : Nat := 0x120300 + n * 0x10
def CMP_RQ_BASE_BASE : Fld := ⟨0, 17⟩

/-- CMP_RQ_SIZE (R187). -/
def CMP_RQ_SIZE (n : Nat) : Nat := 0x120304 + n * 0x10
def CMP_RQ_SIZE_EN : Fld := ⟨31, 1⟩
def CMP_RQ_SIZE_SIZE : Fld := ⟨0, 13⟩

/-- CMP_RQ_STAT (R187). -/
def CMP_RQ_STAT (n : Nat) : Nat := 0x120308 + n * 0x10
def CMP_RQ_STAT_ENTRIES : Fld := ⟨16, 7⟩
def CMP_RQ_STAT_FREE : Fld := ⟨0, 13⟩

/-- CMP_SG_CFG (R187). -/
def CMP_SG_CFG (n : Nat) : Nat := 0x120400 + n * 0x40
def CMP_SG_CFG_LOW : Fld := ⟨16, 16⟩
def CMP_SG_CFG_EN : Fld := ⟨0, 1⟩

/-- CMP_SG_START_LO (R187). -/
def CMP_SG_START_LO (n : Nat) : Nat := 0x120408 + n * 0x40
def CMP_SG_START_LO_START_LO : Fld := ⟨0, 32⟩

/-- CMP_SG_START_HI (R187). -/
def CMP_SG_START_HI (n : Nat) : Nat := 0x12040C + n * 0x40
def CMP_SG_START_HI_START_HI : Fld := ⟨0, 32⟩

/-- CMP_SG_END_LO (R187). -/
def CMP_SG_END_LO (n : Nat) : Nat := 0x120410 + n * 0x40
def CMP_SG_END_LO_END_LO : Fld := ⟨0, 32⟩

/-- CMP_SG_END_HI (R187). -/
def CMP_SG_END_HI (n : Nat) : Nat := 0x120414 + n * 0x40
def CMP_SG_END_HI_END_HI : Fld := ⟨0, 32⟩

/-- CMP_SG_NEXT_LO (R187). -/
def CMP_SG_NEXT_LO (n : Nat) : Nat := 0x120418 + n * 0x40
def CMP_SG_NEXT_LO_NEXT_LO : Fld := ⟨0, 32⟩

/-- CMP_SG_NEXT_HI (R187). -/
def CMP_SG_NEXT_HI (n : Nat) : Nat := 0x12041C + n * 0x40
def CMP_SG_NEXT_HI_NEXT_HI : Fld := ⟨0, 32⟩

/-- CMP_SG_HWM_LO (R187). -/
def CMP_SG_HWM_LO (n : Nat) : Nat := 0x120420 + n * 0x40
def CMP_SG_HWM_LO_HWM_LO : Fld := ⟨0, 32⟩

/-- CMP_SG_HWM_HI (R187). -/
def CMP_SG_HWM_HI (n : Nat) : Nat := 0x120424 + n * 0x40
def CMP_SG_HWM_HI_HWM_HI : Fld := ⟨0, 32⟩

/-! ## RAS (09_raster_lanes.md) -/

/-- RAS_CTL (R203). -/
def RAS_CTL (n : Nat) : Nat := 0x130000 + n * 0x400
def RAS_CTL_REVERSE : Fld := ⟨8, 1⟩
def RAS_CTL_SHAFT : Fld := ⟨4, 4⟩
def RAS_CTL_FORCE : Fld := ⟨1, 1⟩
def RAS_CTL_EN : Fld := ⟨0, 1⟩

/-- RAS_PROF0 (R203). -/
def RAS_PROF0 (n : Nat) : Nat := 0x130004 + n * 0x400
def RAS_PROF0_STB_POL : Fld := ⟨25, 1⟩
def RAS_PROF0_RDY_POL : Fld := ⟨24, 1⟩
def RAS_PROF0_STAGGER : Fld := ⟨16, 8⟩
def RAS_PROF0_MAP : Fld := ⟨14, 2⟩
def RAS_PROF0_BITORD : Fld := ⟨13, 1⟩
def RAS_PROF0_BPN : Fld := ⟨12, 1⟩
def RAS_PROF0_NOZZLES : Fld := ⟨0, 11⟩

/-- RAS_PROF1 (R203). -/
def RAS_PROF1 (n : Nat) : Nat := 0x130008 + n * 0x400
def RAS_PROF1_SETUP : Fld := ⟨24, 8⟩
def RAS_PROF1_STB_W : Fld := ⟨16, 8⟩
def RAS_PROF1_MIN_PER : Fld := ⟨0, 16⟩

/-- RAS_PROF2 (R203). -/
def RAS_PROF2 (n : Nat) : Nat := 0x13000C + n * 0x400
def RAS_PROF2_STALL_TO : Fld := ⟨16, 16⟩
def RAS_PROF2_RDY_TO : Fld := ⟨8, 8⟩
def RAS_PROF2_HOLD : Fld := ⟨0, 8⟩

/-- RAS_PITCH_LO (R203). -/
def RAS_PITCH_LO (n : Nat) : Nat := 0x130010 + n * 0x400
def RAS_PITCH_LO_PITCH_LO : Fld := ⟨0, 32⟩

/-- RAS_PITCH_HI (R203). -/
def RAS_PITCH_HI (n : Nat) : Nat := 0x130014 + n * 0x400
def RAS_PITCH_HI_PITCH_HI : Fld := ⟨0, 16⟩

/-- RAS_OFS (R203). -/
def RAS_OFS (n : Nat) : Nat := 0x130018 + n * 0x400
def RAS_OFS_OFS : Fld := ⟨0, 32⟩

/-- RAS_LEAD (R203). -/
def RAS_LEAD (n : Nat) : Nat := 0x13001C + n * 0x400
def RAS_LEAD_TICKS : Fld := ⟨6, 8⟩
def RAS_LEAD_STEPS : Fld := ⟨0, 6⟩

/-- RAS_MCP (R203). -/
def RAS_MCP (n : Nat) : Nat := 0x130020 + n * 0x400
def RAS_MCP_MCP : Fld := ⟨0, 16⟩

/-- RAS_STAT (R203). -/
def RAS_STAT (n : Nat) : Nat := 0x130024 + n * 0x400
def RAS_STAT_SLOT : Fld := ⟨16, 13⟩
def RAS_STAT_TAG : Fld := ⟨12, 4⟩
def RAS_STAT_RDY_IN : Fld := ⟨4, 1⟩
def RAS_STAT_STATE : Fld := ⟨0, 2⟩

/-- RAS_CNT0 (R203). -/
def RAS_CNT0 (n : Nat) : Nat := 0x130028 + n * 0x400
def RAS_CNT0_CODES : Fld := ⟨16, 16⟩
def RAS_CNT0_MISSED : Fld := ⟨0, 16⟩

/-- RAS_CNT1 (R203). -/
def RAS_CNT1 (n : Nat) : Nat := 0x13002C + n * 0x400
def RAS_CNT1_OVERSPEED : Fld := ⟨24, 8⟩
def RAS_CNT1_TRUNC : Fld := ⟨16, 8⟩
def RAS_CNT1_OVERLAP : Fld := ⟨8, 8⟩
def RAS_CNT1_NREADY : Fld := ⟨0, 8⟩

/-- RAS_CNT2 (R203). -/
def RAS_CNT2 (n : Nat) : Nat := 0x130030 + n * 0x400
def RAS_CNT2_START_OFF : Fld := ⟨24, 8⟩
def RAS_CNT2_FORMAT : Fld := ⟨16, 8⟩
def RAS_CNT2_EMPTY : Fld := ⟨8, 8⟩
def RAS_CNT2_DISCARD : Fld := ⟨0, 8⟩

/-- RAS_LAG (R203). -/
def RAS_LAG (n : Nat) : Nat := 0x130034 + n * 0x400
def RAS_LAG_MAX_LAG : Fld := ⟨0, 16⟩

/-! ## PWM (12_pwm.md) -/

/-- PWM_CFG (R270). -/
def PWM_CFG (n : Nat) : Nat := 0x140000 + n * 0x100
def PWM_CFG_L_TRIP : Fld := ⟨26, 2⟩
def PWM_CFG_H_TRIP : Fld := ⟨24, 2⟩
def PWM_CFG_TRIP_MASK : Fld := ⟨16, 8⟩
def PWM_CFG_ADC_CONV : Fld := ⟨14, 2⟩
def PWM_CFG_ADC_SRC : Fld := ⟨12, 2⟩
def PWM_CFG_NTF_TRIP : Fld := ⟨10, 1⟩
def PWM_CFG_NTF_BND : Fld := ⟨9, 1⟩
def PWM_CFG_TRIP_MODE : Fld := ⟨8, 1⟩
def PWM_CFG_L_EN : Fld := ⟨7, 1⟩
def PWM_CFG_L_POL : Fld := ⟨6, 1⟩
def PWM_CFG_H_POL : Fld := ⟨5, 1⟩
def PWM_CFG_SHORT : Fld := ⟨4, 1⟩
def PWM_CFG_UPD : Fld := ⟨2, 2⟩
def PWM_CFG_ALIGN : Fld := ⟨1, 1⟩
def PWM_CFG_EN : Fld := ⟨0, 1⟩

/-- PWM_PERIOD (R270). -/
def PWM_PERIOD (n : Nat) : Nat := 0x140004 + n * 0x100
def PWM_PERIOD_PERIOD : Fld := ⟨0, 32⟩

/-- PWM_DUTY (R270). -/
def PWM_DUTY (n : Nat) : Nat := 0x140008 + n * 0x100
def PWM_DUTY_DUTY : Fld := ⟨0, 32⟩

/-- PWM_DT (R270). -/
def PWM_DT (n : Nat) : Nat := 0x14000C + n * 0x100
def PWM_DT_DT_F : Fld := ⟨16, 12⟩
def PWM_DT_DT_R : Fld := ⟨0, 12⟩

/-- PWM_MINP (R270). -/
def PWM_MINP (n : Nat) : Nat := 0x140010 + n * 0x100
def PWM_MINP_BLANK : Fld := ⟨16, 12⟩
def PWM_MINP_MINPULSE : Fld := ⟨0, 12⟩

/-- PWM_ADC (R270). -/
def PWM_ADC (n : Nat) : Nat := 0x140014 + n * 0x100
def PWM_ADC_ADC_DLY : Fld := ⟨0, 16⟩

/-- PWM_LOCK (R270). -/
def PWM_LOCK (n : Nat) : Nat := 0x140018 + n * 0x100
def PWM_LOCK_LOCK_SHAFT : Fld := ⟨4, 4⟩
def PWM_LOCK_LOCK_EN : Fld := ⟨0, 1⟩

/-- PWM_LOCK_PITCH (R270). -/
def PWM_LOCK_PITCH (n : Nat) : Nat := 0x14001C + n * 0x100
def PWM_LOCK_PITCH_LOCK_PITCH : Fld := ⟨0, 32⟩

/-- PWM_LOCK_OFS (R270). -/
def PWM_LOCK_OFS (n : Nat) : Nat := 0x140020 + n * 0x100
def PWM_LOCK_OFS_LOCK_OFS : Fld := ⟨0, 32⟩

/-- PWM_COUNT (R270). -/
def PWM_COUNT (n : Nat) : Nat := 0x140024 + n * 0x100
def PWM_COUNT_COUNT : Fld := ⟨0, 32⟩

/-- PWM_STAT (R270). -/
def PWM_STAT (n : Nat) : Nat := 0x140028 + n * 0x100
def PWM_STAT_TRIP_STICKY : Fld := ⟨31, 1⟩
def PWM_STAT_CLR_PEND : Fld := ⟨30, 1⟩
def PWM_STAT_PERIOD_CUT : Fld := ⟨29, 1⟩
def PWM_STAT_STAGED : Fld := ⟨28, 1⟩
def PWM_STAT_DOWN : Fld := ⟨27, 1⟩
def PWM_STAT_H : Fld := ⟨26, 1⟩
def PWM_STAT_L : Fld := ⟨25, 1⟩
def PWM_STAT_TRIP_SRC : Fld := ⟨0, 8⟩

/-- PWM_CMD (R270). -/
def PWM_CMD (n : Nat) : Nat := 0x14002C + n * 0x100
def PWM_CMD_RESYNC : Fld := ⟨2, 1⟩
def PWM_CMD_TRIP_FORCE : Fld := ⟨1, 1⟩
def PWM_CMD_TRIP_CLR : Fld := ⟨0, 1⟩

/-- PWM_CNT0 (R270). -/
def PWM_CNT0 (n : Nat) : Nat := 0x140030 + n * 0x100
def PWM_CNT0_DROPPED : Fld := ⟨16, 16⟩
def PWM_CNT0_STRETCHED : Fld := ⟨0, 16⟩

/-- PWM_CNT1 (R270). -/
def PWM_CNT1 (n : Nat) : Nat := 0x140034 + n * 0x100
def PWM_CNT1_TRIP_CLEAR_REFUSED : Fld := ⟨24, 8⟩
def PWM_CNT1_TRIPS : Fld := ⟨16, 8⟩
def PWM_CNT1_CUT_SHORT : Fld := ⟨8, 8⟩
def PWM_CNT1_ADC_LOST : Fld := ⟨0, 8⟩

/-- PWM_CNT2 (R270). -/
def PWM_CNT2 (n : Nat) : Nat := 0x140038 + n * 0x100
def PWM_CNT2_RESYNCS : Fld := ⟨16, 16⟩
def PWM_CNT2_DISCARD : Fld := ⟨0, 8⟩

/-- PWM_TRIP_CFG (R270). -/
def PWM_TRIP_CFG (n : Nat) : Nat := 0x142000 + n * 0x4
def PWM_TRIP_CFG_POL : Fld := ⟨8, 1⟩
def PWM_TRIP_CFG_FILT : Fld := ⟨0, 6⟩

/-- PWM_TRIP_STAT (R270). -/
def PWM_TRIP_STAT : Nat := 0x142020
def PWM_TRIP_STAT_LEVEL : Fld := ⟨0, 8⟩

/-- PWM_TRIP_CNT (R270). -/
def PWM_TRIP_CNT (n : Nat) : Nat := 0x142024 + n * 0x4
def PWM_TRIP_CNT_ACCEPT : Fld := ⟨24, 8⟩

/-! ## FIO (13_field_io.md) -/

/-- FIO_BANK_CFG (R285). -/
def FIO_BANK_CFG (n : Nat) : Nat := 0x150000 + n * 0x10
def FIO_BANK_CFG_THR : Fld := ⟨0, 1⟩

/-- FIO_BANK_STAT (R285). -/
def FIO_BANK_STAT (n : Nat) : Nat := 0x150004 + n * 0x10
def FIO_BANK_STAT_BS_OK : Fld := ⟨31, 1⟩
def FIO_BANK_STAT_BANK_EN : Fld := ⟨30, 1⟩
def FIO_BANK_STAT_DRIVEN : Fld := ⟨29, 1⟩
def FIO_BANK_STAT_OUT_FAULT : Fld := ⟨0, 16⟩

/-- FIO_BANK_LEVEL (R285). -/
def FIO_BANK_LEVEL (n : Nat) : Nat := 0x150008 + n * 0x10
def FIO_BANK_LEVEL_LEVEL : Fld := ⟨0, 16⟩

/-- FIO_BANK_SW (R285). -/
def FIO_BANK_SW (n : Nat) : Nat := 0x15000C + n * 0x10
def FIO_BANK_SW_SW : Fld := ⟨0, 16⟩

/-- FIO_EL_CFG (R285). -/
def FIO_EL_CFG (n : Nat) : Nat := 0x150100 + n * 0x4
def FIO_EL_CFG_FILT : Fld := ⟨16, 10⟩
def FIO_EL_CFG_UNIT : Fld := ⟨12, 2⟩
def FIO_EL_CFG_NTF : Fld := ⟨2, 2⟩
def FIO_EL_CFG_POL : Fld := ⟨1, 1⟩
def FIO_EL_CFG_DIR : Fld := ⟨0, 1⟩

/-- FIO_PO_CFG (R285). -/
def FIO_PO_CFG (n : Nat) : Nat := 0x150300 + n * 0x4
def FIO_PO_CFG_EMU_PORT : Fld := ⟨8, 4⟩
def FIO_PO_CFG_SRC : Fld := ⟨4, 2⟩
def FIO_PO_CFG_POL : Fld := ⟨2, 1⟩
def FIO_PO_CFG_PHY : Fld := ⟨1, 1⟩
def FIO_PO_CFG_EN : Fld := ⟨0, 1⟩

/-- FIO_PO_STAT (R285). -/
def FIO_PO_STAT : Nat := 0x150340
def FIO_PO_STAT_ASSERTED : Fld := ⟨0, 16⟩

/-- FIO_CH_CFG (R285). -/
def FIO_CH_CFG (n : Nat) : Nat := 0x150400 + n * 0x100
def FIO_CH_CFG_LEN : Fld := ⟨8, 10⟩
def FIO_CH_CFG_SDLY : Fld := ⟨4, 3⟩
def FIO_CH_CFG_CHK_EN : Fld := ⟨1, 1⟩
def FIO_CH_CFG_EN : Fld := ⟨0, 1⟩

/-- FIO_CH_PER (R285). -/
def FIO_CH_PER (n : Nat) : Nat := 0x150404 + n * 0x100
def FIO_CH_PER_PER : Fld := ⟨0, 16⟩

/-- FIO_CH_STAT (R285). -/
def FIO_CH_STAT (n : Nat) : Nat := 0x150408 + n * 0x100
def FIO_CH_STAT_FAULT : Fld := ⟨31, 1⟩
def FIO_CH_STAT_STALE : Fld := ⟨30, 1⟩
def FIO_CH_STAT_RUN : Fld := ⟨29, 1⟩

/-- FIO_CH_FILT (R285). -/
def FIO_CH_FILT (n : Nat) : Nat := 0x15040C + n * 0x100
def FIO_CH_FILT_CHK_PAT : Fld := ⟨16, 8⟩
def FIO_CH_FILT_IFILT : Fld := ⟨0, 4⟩

/-- FIO_CH_CNT (R285). -/
def FIO_CH_CNT (n : Nat) : Nat := 0x150418 + n * 0x100
def FIO_CH_CNT_CHK_ERR : Fld := ⟨0, 8⟩

/-- FIO_CH_CAP_LO (R285). -/
def FIO_CH_CAP_LO (n : Nat) : Nat := 0x150438 + n * 0x100
def FIO_CH_CAP_LO_CAP_LO : Fld := ⟨0, 32⟩

/-- FIO_CH_CAP_HI (R285). -/
def FIO_CH_CAP_HI (n : Nat) : Nat := 0x15043C + n * 0x100
def FIO_CH_CAP_HI_CAP_HI : Fld := ⟨0, 32⟩

/-- FIO_CH_IN (R285). -/
def FIO_CH_IN (n : Nat) (k : Nat) : Nat := 0x150440 + n * 0x100 + k * 0x4
def FIO_CH_IN_IN : Fld := ⟨0, 32⟩

/-- FIO_CH_SW (R285). -/
def FIO_CH_SW (n : Nat) (k : Nat) : Nat := 0x150480 + n * 0x100 + k * 0x4
def FIO_CH_SW_SW : Fld := ⟨0, 32⟩

/-- FIO_CH_OUT (R285). -/
def FIO_CH_OUT (n : Nat) (k : Nat) : Nat := 0x1504C0 + n * 0x100 + k * 0x4
def FIO_CH_OUT_OUT : Fld := ⟨0, 32⟩

/-! ## ADC (14_adc.md) -/

/-- ADC_C_CFG (R299). -/
def ADC_C_CFG (n : Nat) : Nat := 0x160000 + n * 0x200
def ADC_C_CFG_DMA_CH : Fld := ⟨24, 5⟩
def ADC_C_CFG_DMA_THR : Fld := ⟨16, 7⟩
def ADC_C_CFG_DMA_EN : Fld := ⟨11, 1⟩
def ADC_C_CFG_NTF_THR : Fld := ⟨10, 1⟩
def ADC_C_CFG_NTF_INJ : Fld := ⟨9, 1⟩
def ADC_C_CFG_NTF_REG : Fld := ⟨8, 1⟩
def ADC_C_CFG_TAG_SHAFT : Fld := ⟨4, 4⟩
def ADC_C_CFG_TAG_ANG : Fld := ⟨2, 1⟩
def ADC_C_CFG_INJ_ABORT : Fld := ⟨1, 1⟩
def ADC_C_CFG_EN : Fld := ⟨0, 1⟩

/-- ADC_C_REG (R299). -/
def ADC_C_REG (n : Nat) : Nat := 0x160004 + n * 0x200
def ADC_C_REG_CLASS : Fld := ⟨18, 2⟩
def ADC_C_REG_SRC_IDX : Fld := ⟨8, 10⟩
def ADC_C_REG_SRC : Fld := ⟨4, 3⟩
def ADC_C_REG_LEN : Fld := ⟨0, 4⟩

/-- ADC_C_REG_DLY (R299). -/
def ADC_C_REG_DLY (n : Nat) : Nat := 0x160008 + n * 0x200
def ADC_C_REG_DLY_DEADLINE : Fld := ⟨16, 16⟩
def ADC_C_REG_DLY_DLY : Fld := ⟨0, 16⟩

/-- ADC_C_INJ (R299). -/
def ADC_C_INJ (n : Nat) : Nat := 0x16000C + n * 0x200
def ADC_C_INJ_SRC_IDX : Fld := ⟨8, 10⟩
def ADC_C_INJ_SRC : Fld := ⟨4, 3⟩
def ADC_C_INJ_LEN : Fld := ⟨0, 2⟩

/-- ADC_C_INJ_DLY (R299). -/
def ADC_C_INJ_DLY (n : Nat) : Nat := 0x160010 + n * 0x200
def ADC_C_INJ_DLY_DLY : Fld := ⟨0, 16⟩

/-- ADC_C_STAT (R299). -/
def ADC_C_STAT (n : Nat) : Nat := 0x160014 + n * 0x200
def ADC_C_STAT_REG_BUSY : Fld := ⟨31, 1⟩
def ADC_C_STAT_INJ_BUSY : Fld := ⟨30, 1⟩
def ADC_C_STAT_HELD : Fld := ⟨29, 1⟩
def ADC_C_STAT_OVF : Fld := ⟨28, 1⟩
def ADC_C_STAT_LEVEL : Fld := ⟨0, 7⟩

/-- ADC_C_CMD (R299). -/
def ADC_C_CMD (n : Nat) : Nat := 0x160018 + n * 0x200
def ADC_C_CMD_FLUSH : Fld := ⟨2, 1⟩
def ADC_C_CMD_INJ_TRIG : Fld := ⟨1, 1⟩
def ADC_C_CMD_REG_TRIG : Fld := ⟨0, 1⟩

/-- ADC_C_CNT0 (R299). -/
def ADC_C_CNT0 (n : Nat) : Nat := 0x16001C + n * 0x200
def ADC_C_CNT0_REG_LOST : Fld := ⟨24, 8⟩
def ADC_C_CNT0_INJ_LOST : Fld := ⟨16, 8⟩
def ADC_C_CNT0_RESTARTS : Fld := ⟨8, 8⟩
def ADC_C_CNT0_DISCARD : Fld := ⟨0, 8⟩

/-- ADC_C_CNT1 (R299). -/
def ADC_C_CNT1 (n : Nat) : Nat := 0x160020 + n * 0x200
def ADC_C_CNT1_FIFO_LOST : Fld := ⟨16, 16⟩
def ADC_C_CNT1_DEFERRED : Fld := ⟨0, 16⟩

/-- ADC_C_FIFO (R299). -/
def ADC_C_FIFO (n : Nat) (k : Nat) : Nat := 0x160030 + n * 0x200 + k * 0x4
def ADC_C_FIFO_ENTRY : Fld := ⟨0, 32⟩

/-- ADC_C_INJR (R299). -/
def ADC_C_INJR (n : Nat) (k : Nat) : Nat := 0x160040 + n * 0x200 + k * 0x4
def ADC_C_INJR_INJR : Fld := ⟨0, 32⟩

/-- ADC_C_RSTEP (R299). -/
def ADC_C_RSTEP (n : Nat) (k : Nat) : Nat := 0x160080 + n * 0x200 + k * 0x4
def ADC_C_RSTEP_ACQ : Fld := ⟨16, 10⟩
def ADC_C_RSTEP_INPUT : Fld := ⟨0, 4⟩

/-- ADC_C_ISTEP (R299). -/
def ADC_C_ISTEP (n : Nat) (k : Nat) : Nat := 0x1600C0 + n * 0x200 + k * 0x4
def ADC_C_ISTEP_ACQ : Fld := ⟨16, 10⟩
def ADC_C_ISTEP_INPUT : Fld := ⟨0, 4⟩

/-- ADC_IN_CFG (R299). -/
def ADC_IN_CFG (n : Nat) : Nat := 0x161000 + n * 0x4
def ADC_IN_CFG_MODE : Fld := ⟨0, 1⟩

/-- ADC_HOLD (R299). -/
def ADC_HOLD : Nat := 0x161040
def ADC_HOLD_HOLD : Fld := ⟨0, 4⟩

/-! ## DMA (15_pool_dma.md) -/

/-- DMA_CTL (R317). -/
def DMA_CTL (n : Nat) : Nat := 0x170000 + n * 0x40
def DMA_CTL_NTF_ERR : Fld := ⟨17, 1⟩
def DMA_CTL_NTF_DONE : Fld := ⟨16, 1⟩
def DMA_CTL_CLAIM : Fld := ⟨8, 6⟩
def DMA_CTL_PRIO : Fld := ⟨4, 2⟩
def DMA_CTL_CRC_SEL : Fld := ⟨1, 2⟩
def DMA_CTL_EN : Fld := ⟨0, 1⟩

/-- DMA_DESC (R317). -/
def DMA_DESC (n : Nat) : Nat := 0x170004 + n * 0x40
def DMA_DESC_DESC : Fld := ⟨0, 29⟩

/-- DMA_STAT (R317). -/
def DMA_STAT (n : Nat) : Nat := 0x170008 + n * 0x40
def DMA_STAT_CAUSE : Fld := ⟨8, 4⟩
def DMA_STAT_STATUS : Fld := ⟨0, 3⟩

/-- DMA_COUNT (R317). -/
def DMA_COUNT (n : Nat) : Nat := 0x17000C + n * 0x40
def DMA_COUNT_COUNT : Fld := ⟨0, 32⟩

/-- DMA_CUR (R317). -/
def DMA_CUR (n : Nat) : Nat := 0x170010 + n * 0x40
def DMA_CUR_CUR : Fld := ⟨0, 29⟩

/-- DMA_CRC (R317). -/
def DMA_CRC (n : Nat) : Nat := 0x170014 + n * 0x40
def DMA_CRC_CRC : Fld := ⟨0, 32⟩

/-! ## POL (15_pool_dma.md) -/

/-- POL_STAT (R317). -/
def POL_STAT : Nat := 0x180000
def POL_STAT_FREE : Fld := ⟨0, 18⟩

/-- POL_UNRES (R317). -/
def POL_UNRES : Nat := 0x180004
def POL_UNRES_UNRES : Fld := ⟨0, 18⟩

/-- POL_RSUM (R317). -/
def POL_RSUM : Nat := 0x180008
def POL_RSUM_RSUM : Fld := ⟨0, 18⟩

/-- POL_ECC (R317). -/
def POL_ECC : Nat := 0x18000C
def POL_ECC_UE : Fld := ⟨16, 16⟩
def POL_ECC_CE : Fld := ⟨0, 16⟩

/-- POL_SCRUB (R317). -/
def POL_SCRUB : Nat := 0x180010
def POL_SCRUB_PASSES : Fld := ⟨16, 16⟩
def POL_SCRUB_RATE : Fld := ⟨0, 4⟩

/-- POL_UE_BLK (R317). -/
def POL_UE_BLK : Nat := 0x180014
def POL_UE_BLK_VALID : Fld := ⟨31, 1⟩
def POL_UE_BLK_BLOCK : Fld := ⟨0, 17⟩

/-- POL_CL_RES (R317). -/
def POL_CL_RES (n : Nat) : Nat := 0x180100 + n * 0x10
def POL_CL_RES_RESERVE : Fld := ⟨0, 18⟩

/-- POL_CL_QUOTA (R317). -/
def POL_CL_QUOTA (n : Nat) : Nat := 0x180104 + n * 0x10
def POL_CL_QUOTA_QUOTA : Fld := ⟨0, 18⟩

/-- POL_CL_HELD (R317). -/
def POL_CL_HELD (n : Nat) : Nat := 0x180108 + n * 0x10
def POL_CL_HELD_QUOTA_OVER : Fld := ⟨31, 1⟩
def POL_CL_HELD_HELD : Fld := ⟨0, 18⟩

/-- POL_CL_CNT (R317). -/
def POL_CL_CNT (n : Nat) : Nat := 0x18010C + n * 0x10
def POL_CL_CNT_REFUSED : Fld := ⟨0, 16⟩

/-! ## TAL (23_tallies_calendar.md) -/

/-- TAL_CFG (R476). -/
def TAL_CFG : Nat := 0x190000
def TAL_CFG_AUTO_EN : Fld := ⟨31, 1⟩
def TAL_CFG_AUTO_SLOT : Fld := ⟨16, 4⟩

/-- TAL_STAT (R476). -/
def TAL_STAT : Nat := 0x190004
def TAL_STAT_FLUSHING : Fld := ⟨31, 1⟩
def TAL_STAT_AGE : Fld := ⟨0, 16⟩

/-- TAL_CMD (R476). -/
def TAL_CMD : Nat := 0x190008
def TAL_CMD_FLUSH : Fld := ⟨0, 1⟩

/-- TAL_SET_LO (R476). -/
def TAL_SET_LO : Nat := 0x190010
def TAL_SET_LO_SET_LO : Fld := ⟨0, 32⟩

/-- TAL_SET_HI (R476). -/
def TAL_SET_HI : Nat := 0x190014
def TAL_SET_HI_SET_HI : Fld := ⟨0, 32⟩

/-- TAL_SET_CMD (R476). -/
def TAL_SET_CMD : Nat := 0x190018
def TAL_SET_CMD_GO : Fld := ⟨31, 1⟩
def TAL_SET_CMD_IDX : Fld := ⟨0, 14⟩

/-- TAL_W_SEL (R476). -/
def TAL_W_SEL (n : Nat) : Nat := 0x190100 + n * 0x10
def TAL_W_SEL_SEL : Fld := ⟨0, 14⟩

/-- TAL_W_LO (R476). -/
def TAL_W_LO (n : Nat) : Nat := 0x190104 + n * 0x10
def TAL_W_LO_LO : Fld := ⟨0, 32⟩

/-- TAL_W_HI (R476). -/
def TAL_W_HI (n : Nat) : Nat := 0x190108 + n * 0x10
def TAL_W_HI_HI : Fld := ⟨0, 32⟩

/-- TAL_LIM_CFG (R476). -/
def TAL_LIM_CFG (n : Nat) : Nat := 0x190200 + n * 0x10
def TAL_LIM_CFG_EN : Fld := ⟨31, 1⟩
def TAL_LIM_CFG_HIT : Fld := ⟨30, 1⟩
def TAL_LIM_CFG_IDX : Fld := ⟨0, 14⟩

/-- TAL_LIM_LO (R476). -/
def TAL_LIM_LO (n : Nat) : Nat := 0x190204 + n * 0x10
def TAL_LIM_LO_THRESHOLD_LO : Fld := ⟨0, 32⟩

/-- TAL_LIM_HI (R476). -/
def TAL_LIM_HI (n : Nat) : Nat := 0x190208 + n * 0x10
def TAL_LIM_HI_THRESHOLD_HI : Fld := ⟨0, 32⟩

/-- CAL_STAT (R476). -/
def CAL_STAT : Nat := 0x190400
def CAL_STAT_VALID : Fld := ⟨31, 1⟩
def CAL_STAT_DISC : Fld := ⟨30, 1⟩
def CAL_STAT_STEPPED : Fld := ⟨29, 1⟩
def CAL_STAT_BATT_LOW : Fld := ⟨28, 1⟩
def CAL_STAT_LOST : Fld := ⟨27, 1⟩
def CAL_STAT_ERR_EST : Fld := ⟨0, 16⟩

/-- CAL_SEC_LO (R476). -/
def CAL_SEC_LO : Nat := 0x190404
def CAL_SEC_LO_SEC_LO : Fld := ⟨0, 32⟩

/-- CAL_SEC_HI (R476). -/
def CAL_SEC_HI : Nat := 0x190408
def CAL_SEC_HI_SEC_HI : Fld := ⟨0, 8⟩

/-- CAL_FRAC (R476). -/
def CAL_FRAC : Nat := 0x19040C
def CAL_FRAC_FRAC : Fld := ⟨0, 32⟩

/-- CAL_UTC_DATE (R476). -/
def CAL_UTC_DATE : Nat := 0x190410
def CAL_UTC_DATE_YEAR : Fld := ⟨16, 16⟩
def CAL_UTC_DATE_MONTH : Fld := ⟨8, 8⟩
def CAL_UTC_DATE_DAY : Fld := ⟨0, 8⟩

/-- CAL_UTC_TIME (R476). -/
def CAL_UTC_TIME : Nat := 0x190414
def CAL_UTC_TIME_HOUR : Fld := ⟨16, 8⟩
def CAL_UTC_TIME_MINUTE : Fld := ⟨8, 8⟩
def CAL_UTC_TIME_SECOND : Fld := ⟨0, 8⟩

/-- CAL_LOC_DATE (R476). -/
def CAL_LOC_DATE : Nat := 0x190418
def CAL_LOC_DATE_YEAR : Fld := ⟨16, 16⟩
def CAL_LOC_DATE_MONTH : Fld := ⟨8, 8⟩
def CAL_LOC_DATE_DAY : Fld := ⟨0, 8⟩

/-- CAL_LOC_TIME (R476). -/
def CAL_LOC_TIME : Nat := 0x19041C
def CAL_LOC_TIME_HOUR : Fld := ⟨16, 8⟩
def CAL_LOC_TIME_MINUTE : Fld := ⟨8, 8⟩
def CAL_LOC_TIME_SECOND : Fld := ⟨0, 8⟩

/-- CAL_OFS (R476). -/
def CAL_OFS : Nat := 0x190420
def CAL_OFS_OFS_NOW : Fld := ⟨0, 16⟩

/-- CAL_SET_LO (R476). -/
def CAL_SET_LO : Nat := 0x190430
def CAL_SET_LO_SET_LO : Fld := ⟨0, 32⟩

/-- CAL_SET_HI (R476). -/
def CAL_SET_HI : Nat := 0x190434
def CAL_SET_HI_SET_HI : Fld := ⟨0, 8⟩

/-- CAL_CMD (R476). -/
def CAL_CMD : Nat := 0x190438
def CAL_CMD_SET : Fld := ⟨0, 1⟩

/-- CAL_FREF_LO (R476). -/
def CAL_FREF_LO : Nat := 0x190440
def CAL_FREF_LO_FREF_LO : Fld := ⟨0, 32⟩

/-- CAL_FREF_HI (R476). -/
def CAL_FREF_HI : Nat := 0x190444
def CAL_FREF_HI_FREF_HI : Fld := ⟨0, 32⟩

/-- CAL_SREF_LO (R476). -/
def CAL_SREF_LO : Nat := 0x190448
def CAL_SREF_LO_SREF_LO : Fld := ⟨0, 32⟩

/-- CAL_SREF_HI (R476). -/
def CAL_SREF_HI : Nat := 0x19044C
def CAL_SREF_HI_SREF_HI : Fld := ⟨0, 32⟩

/-- CAL_REF_CTL (R476). -/
def CAL_REF_CTL : Nat := 0x190450
def CAL_REF_CTL_ERR_MAX : Fld := ⟨16, 16⟩
def CAL_REF_CTL_DISC_EN : Fld := ⟨0, 1⟩

/-- CAL_LEAP_LO (R476). -/
def CAL_LEAP_LO (n : Nat) : Nat := 0x190500 + n * 0x8
def CAL_LEAP_LO_S_LO : Fld := ⟨0, 32⟩

/-- CAL_LEAP_HI (R476). -/
def CAL_LEAP_HI (n : Nat) : Nat := 0x190504 + n * 0x8
def CAL_LEAP_HI_EN : Fld := ⟨31, 1⟩
def CAL_LEAP_HI_DEL : Fld := ⟨30, 1⟩
def CAL_LEAP_HI_S_HI : Fld := ⟨0, 8⟩

/-- CAL_OFS_LO (R476). -/
def CAL_OFS_LO (n : Nat) : Nat := 0x190600 + n * 0x8
def CAL_OFS_LO_EFF_LO : Fld := ⟨0, 32⟩

/-- CAL_OFS_HI (R476). -/
def CAL_OFS_HI (n : Nat) : Nat := 0x190604 + n * 0x8
def CAL_OFS_HI_EN : Fld := ⟨31, 1⟩
def CAL_OFS_HI_OFFSET : Fld := ⟨16, 12⟩
def CAL_OFS_HI_EFF_HI : Fld := ⟨0, 8⟩

/-- JNL_GAP_STAT (R476). -/
def JNL_GAP_STAT : Nat := 0x190800
def JNL_GAP_STAT_OVF : Fld := ⟨31, 1⟩
def JNL_GAP_STAT_UNREAD : Fld := ⟨16, 11⟩

/-- JNL_GAP_LOST (R476). -/
def JNL_GAP_LOST : Nat := 0x190804
def JNL_GAP_LOST_LOST : Fld := ⟨0, 16⟩

/-- JNL_GAP (R476). -/
def JNL_GAP (n : Nat) : Nat := 0x190810 + n * 0x4
def JNL_GAP_RECORD : Fld := ⟨0, 32⟩

/-- JNL_HWM_BAD (R476). -/
def JNL_HWM_BAD : Nat := 0x190830
def JNL_HWM_BAD_BAD : Fld := ⟨0, 8⟩

/-- JNL_SLOT (R476). -/
def JNL_SLOT (n : Nat) : Nat := 0x190900 + n * 0x4
def JNL_SLOT_SEALED : Fld := ⟨31, 1⟩
def JNL_SLOT_OPEN : Fld := ⟨30, 1⟩
def JNL_SLOT_USED : Fld := ⟨0, 13⟩

/-! ## CAN (22_canary.md) -/

/-- CAN_CFG (R458). -/
def CAN_CFG : Nat := 0x1A0000
def CAN_CFG_PERIOD : Fld := ⟨16, 16⟩
def CAN_CFG_EN : Fld := ⟨0, 1⟩

/-- CAN_STAT (R458). -/
def CAN_STAT : Nat := 0x1A0004
def CAN_STAT_PROG_OK : Fld := ⟨31, 1⟩
def CAN_STAT_FAULT : Fld := ⟨16, 2⟩
def CAN_STAT_FPC : Fld := ⟨0, 8⟩

/-- CAN_WAKE (R458). -/
def CAN_WAKE : Nat := 0x1A0008
def CAN_WAKE_SOURCE : Fld := ⟨24, 3⟩
def CAN_WAKE_SHAFT : Fld := ⟨16, 2⟩
def CAN_WAKE_CODE : Fld := ⟨0, 8⟩

/-- CAN_RUNS (R458). -/
def CAN_RUNS : Nat := 0x1A000C
def CAN_RUNS_RUNS : Fld := ⟨0, 32⟩

/-- CAN_TEST (R458). -/
def CAN_TEST : Nat := 0x1A0010
def CAN_TEST_STEP : Fld := ⟨31, 1⟩
def CAN_TEST_WOKE : Fld := ⟨30, 1⟩
def CAN_TEST_CODE : Fld := ⟨0, 8⟩

/-- CAN_SH_CFG (R458). -/
def CAN_SH_CFG (n : Nat) : Nat := 0x1A0020 + n * 0x4
def CAN_SH_CFG_MOT : Fld := ⟨16, 16⟩
def CAN_SH_CFG_DWAKE : Fld := ⟨1, 1⟩
def CAN_SH_CFG_MOT_WAKE : Fld := ⟨0, 1⟩

/-- CAN_SH_STAT (R458). -/
def CAN_SH_STAT (n : Nat) : Nat := 0x1A0030 + n * 0x4
def CAN_SH_STAT_COUNTED : Fld := ⟨31, 1⟩
def CAN_SH_STAT_CLEAN : Fld := ⟨30, 1⟩
def CAN_SH_STAT_OVR : Fld := ⟨29, 1⟩
def CAN_SH_STAT_QERR : Fld := ⟨0, 8⟩

/-- CAN_SH_NET (R458). -/
def CAN_SH_NET (n : Nat) : Nat := 0x1A0040 + n * 0x4
def CAN_SH_NET_NET : Fld := ⟨0, 32⟩

/-- CAN_V (R458). -/
def CAN_V (n : Nat) : Nat := 0x1A0080 + n * 0x4
def CAN_V_V : Fld := ⟨0, 32⟩

/-! ## TWN (20_twin.md) -/

/-- TWN_CFG (R423). -/
def TWN_CFG : Nat := 0x1B0000
def TWN_CFG_PAIR_ADDR : Fld := ⟨16, 16⟩
def TWN_CFG_UNCERT : Fld := ⟨9, 1⟩
def TWN_CFG_MEMBER : Fld := ⟨8, 1⟩
def TWN_CFG_EN : Fld := ⟨0, 1⟩

/-- TWN_STAT (R423). -/
def TWN_STAT : Nat := 0x1B0004
def TWN_STAT_PARTNER : Fld := ⟨8, 1⟩
def TWN_STAT_MIRROR : Fld := ⟨0, 3⟩

/-- TWN_EPOCH (R423). -/
def TWN_EPOCH : Nat := 0x1B0008
def TWN_EPOCH_EPOCH : Fld := ⟨0, 32⟩

/-- TWN_HB_LO (R423). -/
def TWN_HB_LO : Nat := 0x1B0010
def TWN_HB_LO_HB_LO : Fld := ⟨0, 32⟩

/-- TWN_HB_HI (R423). -/
def TWN_HB_HI : Nat := 0x1B0014
def TWN_HB_HI_HB_HI : Fld := ⟨0, 32⟩

/-- TWN_CNT0 (R423). -/
def TWN_CNT0 : Nat := 0x1B0018
def TWN_CNT0_TAKEOVERS : Fld := ⟨24, 8⟩
def TWN_CNT0_DIVERGE : Fld := ⟨16, 8⟩
def TWN_CNT0_STALES : Fld := ⟨8, 8⟩
def TWN_CNT0_UNCERTAIN : Fld := ⟨0, 8⟩

/-- TWN_CNT1 (R423). -/
def TWN_CNT1 : Nat := 0x1B001C
def TWN_CNT1_HB_LATE : Fld := ⟨16, 16⟩
def TWN_CNT1_PROBES : Fld := ⟨0, 16⟩

/-- TWN_CMD (R423). -/
def TWN_CMD : Nat := 0x1B0020
def TWN_CMD_SWITCH : Fld := ⟨0, 1⟩

/-- TWN_GAP (R423). -/
def TWN_GAP : Nat := 0x1B0024
def TWN_GAP_GAP : Fld := ⟨0, 16⟩

/-! ## The tables of R21 and of the chapters -/

def regsGlb : List RegDesc := [
  ⟨"GLB_ID", 0x0, 1, 0x0, 1, 0x0, [⟨⟨16, 16⟩, .ro, 0x9640⟩, ⟨⟨8, 8⟩, .ro, 0xB⟩, ⟨⟨0, 8⟩, .ro, 4⟩]⟩,
  ⟨"GLB_CTL", 0x4, 1, 0x0, 1, 0x0, [⟨⟨0, 1⟩, .rw, 0⟩]⟩,
  ⟨"GLB_STATUS", 0x8, 1, 0x0, 1, 0x0, [⟨⟨12, 2⟩, .ro, 0⟩, ⟨⟨10, 1⟩, .ro, 0⟩, ⟨⟨8, 2⟩, .ro, 1⟩, ⟨⟨5, 2⟩, .ro, 0⟩, ⟨⟨4, 1⟩, .ro, 0⟩, ⟨⟨3, 1⟩, .ro, 0⟩, ⟨⟨2, 1⟩, .ro, 0⟩, ⟨⟨1, 1⟩, .ro, 0⟩, ⟨⟨0, 1⟩, .ro, 0⟩]⟩,
  ⟨"GLB_ADDR", 0xC, 1, 0x0, 1, 0x0, [⟨⟨17, 1⟩, .ro, 0⟩, ⟨⟨16, 1⟩, .ro, 0⟩, ⟨⟨0, 16⟩, .rw, 0⟩]⟩,
  ⟨"GLB_TIME_LO", 0x10, 1, 0x0, 1, 0x0, [⟨⟨0, 32⟩, .ro, 0⟩]⟩,
  ⟨"GLB_TIME_HI", 0x14, 1, 0x0, 1, 0x0, [⟨⟨0, 32⟩, .ro, 0⟩]⟩,
  ⟨"GLB_TXN", 0x20, 1, 0x0, 1, 0x0, [⟨⟨23, 3⟩, .ro, 0⟩, ⟨⟨20, 3⟩, .ro, 0⟩, ⟨⟨17, 3⟩, .ro, 0⟩, ⟨⟨0, 17⟩, .ro, 0⟩]⟩,
  ⟨"GLB_TXN_CNT", 0x24, 1, 0x0, 1, 0x0, [⟨⟨24, 8⟩, .rc, 0⟩, ⟨⟨16, 8⟩, .rc, 0⟩, ⟨⟨8, 8⟩, .rc, 0⟩, ⟨⟨0, 8⟩, .rc, 0⟩]⟩,
  ⟨"GLB_BOOT", 0x40, 1, 0x0, 1, 0x0, [⟨⟨16, 8⟩, .ro, 0⟩, ⟨⟨8, 1⟩, .ro, 0⟩, ⟨⟨0, 2⟩, .ro, 0⟩]⟩,
  ⟨"GLB_FLT_CNT", 0x44, 1, 0x0, 1, 0x0, [⟨⟨24, 8⟩, .rc, 0⟩, ⟨⟨16, 8⟩, .rc, 0⟩, ⟨⟨8, 8⟩, .rc, 0⟩, ⟨⟨0, 8⟩, .rc, 0⟩]⟩,
  ⟨"GLB_FLOG_SEQ", 0x48, 1, 0x0, 1, 0x0, [⟨⟨0, 32⟩, .ro, 0⟩]⟩,
  ⟨"GLB_FLOG_STAT", 0x4C, 1, 0x0, 1, 0x0, [⟨⟨31, 1⟩, .ro, 0⟩, ⟨⟨16, 7⟩, .ro, 0⟩, ⟨⟨0, 16⟩, .rc, 0⟩]⟩,
  ⟨"GLB_FLOG_SEL", 0x50, 1, 0x0, 1, 0x0, [⟨⟨0, 12⟩, .rw, 0⟩]⟩,
  ⟨"GLB_FLOG_E", 0x60, 8, 0x4, 1, 0x0, [⟨⟨0, 32⟩, .ro, 0⟩]⟩]

def regsPwr : List RegDesc := [
  ⟨"PWR_CFG", 0x10000, 1, 0x0, 1, 0x0, [⟨⟨0, 2⟩, .rw, 0⟩]⟩,
  ⟨"PWR_STAT", 0x10004, 1, 0x0, 1, 0x0, [⟨⟨31, 1⟩, .ro, 0⟩, ⟨⟨30, 1⟩, .ro, 0⟩, ⟨⟨16, 2⟩, .ro, 3⟩, ⟨⟨8, 3⟩, .ro, 0⟩, ⟨⟨4, 2⟩, .ro, 0⟩, ⟨⟨0, 2⟩, .ro, 1⟩]⟩,
  ⟨"PWR_GRANT_PD", 0x10008, 1, 0x0, 1, 0x0, [⟨⟨0, 16⟩, .ro, 0xC350⟩]⟩,
  ⟨"PWR_GRANT_CAP", 0x1000C, 1, 0x0, 1, 0x0, [⟨⟨0, 16⟩, .rw, 0⟩]⟩,
  ⟨"PWR_GRANT", 0x10010, 1, 0x0, 1, 0x0, [⟨⟨0, 16⟩, .ro, 0xC350⟩]⟩,
  ⟨"PWR_BUDGET", 0x10014, 1, 0x0, 1, 0x0, [⟨⟨16, 16⟩, .ro, 0xB3B0⟩, ⟨⟨0, 16⟩, .ro, 0x8CA0⟩]⟩,
  ⟨"PWR_DEMAND", 0x10018, 1, 0x0, 1, 0x0, [⟨⟨16, 16⟩, .ro, 0⟩, ⟨⟨0, 16⟩, .ro, 0⟩]⟩,
  ⟨"PWR_PIN", 0x1001C, 1, 0x0, 1, 0x0, [⟨⟨16, 16⟩, .rc, 0⟩, ⟨⟨0, 16⟩, .ro, 0⟩]⟩,
  ⟨"PWR_CREDIT", 0x10020, 1, 0x0, 1, 0x0, [⟨⟨0, 15⟩, .ro, 0x4E20⟩]⟩,
  ⟨"PWR_TJ", 0x10030, 6, 0x4, 1, 0x0, [⟨⟨16, 16⟩, .rc, 0⟩, ⟨⟨0, 16⟩, .ro, 0⟩]⟩,
  ⟨"PWR_CNT", 0x10048, 1, 0x0, 1, 0x0, [⟨⟨24, 8⟩, .rc, 0⟩, ⟨⟨16, 8⟩, .rc, 0⟩, ⟨⟨8, 8⟩, .rc, 0⟩, ⟨⟨0, 8⟩, .rc, 0⟩]⟩,
  ⟨"PWR_WATCH_CFG", 0x10050, 1, 0x0, 1, 0x0, [⟨⟨16, 16⟩, .rw, 0⟩, ⟨⟨4, 4⟩, .rw, 0⟩, ⟨⟨0, 1⟩, .rw, 0⟩]⟩,
  ⟨"PWR_WAKE", 0x10054, 1, 0x0, 1, 0x0, [⟨⟨31, 1⟩, .ro, 0⟩, ⟨⟨24, 4⟩, .ro, 0⟩, ⟨⟨16, 8⟩, .ro, 0⟩, ⟨⟨0, 4⟩, .ro, 0⟩]⟩,
  ⟨"PWR_WATCH_DUR", 0x10058, 1, 0x0, 1, 0x0, [⟨⟨0, 32⟩, .ro, 0⟩]⟩,
  ⟨"PWR_RL_LEN", 0x10060, 1, 0x0, 1, 0x0, [⟨⟨0, 14⟩, .rw, 0⟩]⟩,
  ⟨"PWR_RL_STAT", 0x10064, 1, 0x0, 1, 0x0, [⟨⟨16, 16⟩, .rc, 0⟩, ⟨⟨0, 14⟩, .ro, 0⟩]⟩,
  ⟨"PWR_RL", 0x18000, 8192, 0x4, 1, 0x0, [⟨⟨2, 22⟩, .rw, 0⟩]⟩]

def regsNtf : List RegDesc := [
  ⟨"NTF_STRAY", 0x20000, 1, 0x0, 1, 0x0, [⟨⟨0, 16⟩, .rc, 0⟩]⟩,
  ⟨"NTF_STAT", 0x20004, 1, 0x0, 1, 0x0, [⟨⟨0, 12⟩, .ro, 0⟩]⟩,
  ⟨"NTF_RAISE", 0x20008, 1, 0x0, 1, 0x0, [⟨⟨0, 11⟩, .wo, 0⟩]⟩,
  ⟨"NTF_CLEAR", 0x2000C, 1, 0x0, 1, 0x0, [⟨⟨0, 11⟩, .wo, 0⟩]⟩,
  ⟨"NTF_T_CFG", 0x20100, 12, 0x10, 1, 0x0, [⟨⟨24, 8⟩, .rw, 0⟩, ⟨⟨16, 4⟩, .rw, 0⟩, ⟨⟨0, 10⟩, .rw, 0⟩]⟩,
  ⟨"NTF_T_STAT", 0x20104, 12, 0x10, 1, 0x0, [⟨⟨31, 1⟩, .ro, 0⟩, ⟨⟨16, 5⟩, .ro, 0⟩, ⟨⟨0, 12⟩, .ro, 0⟩]⟩,
  ⟨"NTF_T_CNT", 0x20108, 12, 0x10, 1, 0x0, [⟨⟨16, 16⟩, .rc, 0⟩, ⟨⟨0, 16⟩, .rc, 0⟩]⟩,
  ⟨"NTF_SRC", 0x21000, 2048, 0x4, 1, 0x0, [⟨⟨30, 2⟩, .ro, 0⟩, ⟨⟨29, 1⟩, .ro, 0⟩, ⟨⟨16, 1⟩, .rw, 0⟩, ⟨⟨0, 4⟩, .rw, 0xF⟩]⟩]

def regsFab : List RegDesc := [
  ⟨"FAB_STAT", 0x30000, 1, 0x0, 1, 0x0, [⟨⟨31, 1⟩, .ro, 0⟩, ⟨⟨30, 1⟩, .ro, 0⟩, ⟨⟨0, 16⟩, .ro, 0⟩]⟩,
  ⟨"FAB_TIME_LO", 0x30008, 1, 0x0, 1, 0x0, [⟨⟨0, 32⟩, .ro, 0⟩]⟩,
  ⟨"FAB_TIME_HI", 0x3000C, 1, 0x0, 1, 0x0, [⟨⟨0, 32⟩, .ro, 0⟩]⟩,
  ⟨"FAB_SYNC", 0x30010, 1, 0x0, 1, 0x0, [⟨⟨0, 32⟩, .ro, 0⟩]⟩,
  ⟨"FAB_MASTER", 0x30014, 1, 0x0, 1, 0x0, [⟨⟨0, 16⟩, .ro, 0⟩]⟩,
  ⟨"FAB_UID_LO", 0x30018, 1, 0x0, 1, 0x0, [⟨⟨0, 32⟩, .ro, 0⟩]⟩,
  ⟨"FAB_UID_HI", 0x3001C, 1, 0x0, 1, 0x0, [⟨⟨0, 32⟩, .ro, 0⟩]⟩,
  ⟨"FAB_CNT0", 0x30020, 1, 0x0, 1, 0x0, [⟨⟨16, 16⟩, .rc, 0⟩, ⟨⟨0, 16⟩, .rc, 0⟩]⟩,
  ⟨"FAB_CNT1", 0x30024, 1, 0x0, 1, 0x0, [⟨⟨24, 8⟩, .rc, 0⟩, ⟨⟨16, 8⟩, .rc, 0⟩, ⟨⟨0, 16⟩, .rc, 0⟩]⟩,
  ⟨"FAB_WAKE", 0x30028, 1, 0x0, 1, 0x0, [⟨⟨16, 16⟩, .rc, 0⟩, ⟨⟨8, 8⟩, .rc, 0⟩, ⟨⟨0, 8⟩, .ro, 0⟩]⟩,
  ⟨"FAB_P_CFG", 0x30100, 3, 0x20, 1, 0x0, [⟨⟨8, 1⟩, .sc, 0⟩, ⟨⟨0, 2⟩, .rw, 0⟩]⟩,
  ⟨"FAB_P_STAT", 0x30104, 3, 0x20, 1, 0x0, [⟨⟨31, 1⟩, .ro, 0⟩, ⟨⟨30, 1⟩, .ro, 0⟩, ⟨⟨16, 2⟩, .ro, 0⟩]⟩,
  ⟨"FAB_P_DELAY", 0x30108, 3, 0x20, 1, 0x0, [⟨⟨0, 32⟩, .ro, 0⟩]⟩,
  ⟨"FAB_P_CNT", 0x3010C, 3, 0x20, 1, 0x0, [⟨⟨16, 16⟩, .rc, 0⟩, ⟨⟨0, 16⟩, .rc, 0⟩]⟩,
  ⟨"FAB_P_TC0", 0x30110, 3, 0x20, 1, 0x0, [⟨⟨0, 8⟩, .ro, 0⟩]⟩]

def regsShf1 : List RegDesc := [
  ⟨"SHF_CFG", 0x40000, 16, 0x400, 1, 0x0, [⟨⟨20, 4⟩, .rw, 0⟩, ⟨⟨18, 2⟩, .rw, 0⟩, ⟨⟨17, 1⟩, .rw, 0⟩, ⟨⟨16, 1⟩, .rw, 0⟩, ⟨⟨15, 1⟩, .rw, 0⟩, ⟨⟨14, 1⟩, .rw, 0⟩, ⟨⟨13, 1⟩, .rw, 0⟩, ⟨⟨12, 1⟩, .rw, 0⟩, ⟨⟨8, 4⟩, .rw, 0⟩, ⟨⟨4, 4⟩, .rw, 0⟩, ⟨⟨1, 3⟩, .rw, 0⟩, ⟨⟨0, 1⟩, .rw, 0⟩]⟩,
  ⟨"SHF_WHEEL", 0x40004, 16, 0x400, 1, 0x0, [⟨⟨20, 5⟩, .rw, 0⟩, ⟨⟨16, 3⟩, .rw, 0⟩, ⟨⟨12, 3⟩, .rw, 0⟩, ⟨⟨0, 11⟩, .rw, 0⟩]⟩,
  ⟨"SHF_WIN", 0x40008, 16, 0x400, 1, 0x0, [⟨⟨24, 4⟩, .rw, 2⟩, ⟨⟨16, 6⟩, .rw, 0xD⟩, ⟨⟨8, 7⟩, .rw, 0x60⟩, ⟨⟨0, 7⟩, .rw, 0x10⟩]⟩,
  ⟨"SHF_OFFSET", 0x4000C, 16, 0x400, 1, 0x0, [⟨⟨0, 32⟩, .rw, 0⟩]⟩,
  ⟨"SHF_GAP", 0x40010, 16, 0x400, 4, 0x4, [⟨⟨12, 1⟩, .rw, 0⟩, ⟨⟨10, 2⟩, .rw, 0⟩, ⟨⟨0, 10⟩, .rw, 0⟩]⟩,
  ⟨"SHF_STATE", 0x40020, 16, 0x400, 1, 0x0, [⟨⟨16, 8⟩, .ro, 0⟩, ⟨⟨7, 1⟩, .ro, 0⟩, ⟨⟨6, 1⟩, .ro, 0⟩, ⟨⟨5, 1⟩, .ro, 0⟩, ⟨⟨4, 1⟩, .ro, 0⟩, ⟨⟨3, 1⟩, .ro, 0⟩, ⟨⟨0, 3⟩, .ro, 0⟩]⟩,
  ⟨"SHF_TOOTH", 0x40024, 16, 0x400, 1, 0x0, [⟨⟨16, 16⟩, .ro, 0⟩, ⟨⟨10, 3⟩, .ro, 0⟩, ⟨⟨0, 10⟩, .ro, 0⟩]⟩,
  ⟨"SHF_ERR", 0x40028, 16, 0x400, 1, 0x0, [⟨⟨24, 5⟩, .ro, 0⟩, ⟨⟨16, 8⟩, .rc, 0⟩, ⟨⟨8, 8⟩, .rc, 0⟩, ⟨⟨0, 8⟩, .rc, 0⟩]⟩,
  ⟨"SHF_DISCARD", 0x4002C, 16, 0x400, 1, 0x0, [⟨⟨0, 16⟩, .rc, 0⟩]⟩,
  ⟨"SHF_ANGLE_LO", 0x40030, 16, 0x400, 1, 0x0, [⟨⟨0, 32⟩, .ro, 0⟩]⟩,
  ⟨"SHF_ANGLE_HI", 0x40034, 16, 0x400, 1, 0x0, [⟨⟨0, 32⟩, .ro, 0⟩]⟩,
  ⟨"SHF_CYCLE", 0x40038, 16, 0x400, 1, 0x0, [⟨⟨0, 32⟩, .ro, 0⟩]⟩,
  ⟨"SHF_SEG", 0x40040, 16, 0x400, 16, 0x4, [⟨⟨15, 1⟩, .rw, 0⟩, ⟨⟨0, 13⟩, .rw, 0⟩]⟩,
  ⟨"SHF_SPEED_LO", 0x40100, 16, 0x400, 1, 0x0, [⟨⟨0, 32⟩, .ro, 0⟩]⟩,
  ⟨"SHF_SPEED_HI", 0x40104, 16, 0x400, 1, 0x0, [⟨⟨3, 1⟩, .ro, 1⟩, ⟨⟨2, 1⟩, .ro, 0⟩, ⟨⟨1, 1⟩, .ro, 1⟩, ⟨⟨0, 1⟩, .ro, 0⟩]⟩,
  ⟨"SHF_MOTION", 0x40108, 16, 0x400, 1, 0x0, [⟨⟨20, 1⟩, .rw, 0⟩, ⟨⟨16, 2⟩, .rw, 0⟩, ⟨⟨0, 14⟩, .rw, 0x64⟩]⟩,
  ⟨"SHF_TPRED", 0x4010C, 16, 0x400, 1, 0x0, [⟨⟨0, 32⟩, .ro, 0⟩]⟩,
  ⟨"SHF_MCNT", 0x40110, 16, 0x400, 1, 0x0, [⟨⟨16, 16⟩, .rc, 0⟩, ⟨⟨0, 16⟩, .rc, 0⟩]⟩,
  ⟨"SHF_PH_CFG", 0x40120, 16, 0x400, 1, 0x0, [⟨⟨12, 2⟩, .rw, 0⟩, ⟨⟨8, 4⟩, .rw, 4⟩, ⟨⟨4, 4⟩, .rw, 0⟩, ⟨⟨1, 1⟩, .sc, 0⟩, ⟨⟨0, 1⟩, .rw, 0⟩]⟩,
  ⟨"SHF_PH_RATIO", 0x40124, 16, 0x400, 1, 0x0, [⟨⟨16, 16⟩, .rw, 1⟩, ⟨⟨0, 16⟩, .rw, 1⟩]⟩,
  ⟨"SHF_PH_BIAS", 0x40128, 16, 0x400, 1, 0x0, [⟨⟨0, 32⟩, .rw, 0⟩]⟩,
  ⟨"SHF_PHASE", 0x4012C, 16, 0x400, 1, 0x0, [⟨⟨0, 32⟩, .ro, 0⟩]⟩,
  ⟨"SHF_PH_MIN", 0x40130, 16, 0x400, 1, 0x0, [⟨⟨0, 32⟩, .ro, 0⟩]⟩,
  ⟨"SHF_PH_MAX", 0x40134, 16, 0x400, 1, 0x0, [⟨⟨0, 32⟩, .ro, 0⟩]⟩,
  ⟨"SHF_PH_MEAN", 0x40138, 16, 0x400, 1, 0x0, [⟨⟨0, 32⟩, .ro, 0⟩]⟩,
  ⟨"SHF_PH_STAT", 0x4013C, 16, 0x400, 1, 0x0, [⟨⟨31, 1⟩, .ro, 0⟩, ⟨⟨0, 16⟩, .ro, 0⟩]⟩,
  ⟨"SHF_VSRC", 0x40140, 16, 0x400, 1, 0x0, [⟨⟨24, 4⟩, .rw, 3⟩, ⟨⟨16, 4⟩, .rw, 0⟩, ⟨⟨0, 16⟩, .rw, 0⟩]⟩,
  ⟨"SHF_PUB", 0x40144, 16, 0x400, 1, 0x0, [⟨⟨0, 1⟩, .rw, 0⟩]⟩,
  ⟨"SHF_PROF_SPEED", 0x40148, 16, 0x400, 1, 0x0, [⟨⟨0, 32⟩, .rw, 0⟩]⟩,
  ⟨"SHF_PROF_ACCEL", 0x4014C, 16, 0x400, 1, 0x0, [⟨⟨0, 32⟩, .rw, 0⟩]⟩]

def regsShf2 : List RegDesc := [
  ⟨"SHF_VSTAT", 0x40150, 16, 0x400, 1, 0x0, [⟨⟨16, 8⟩, .rc, 0⟩, ⟨⟨0, 16⟩, .ro, 0xFFFF⟩]⟩]

def regsShf : List RegDesc := regsShf1 ++ regsShf2

def regsFbp : List RegDesc := [
  ⟨"FBP_CFG", 0x60000, 16, 0x200, 1, 0x0, [⟨⟨24, 6⟩, .rw, 0⟩, ⟨⟨20, 4⟩, .rw, 0⟩, ⟨⟨16, 2⟩, .rw, 0⟩, ⟨⟨15, 1⟩, .rw, 0⟩, ⟨⟨14, 1⟩, .rw, 0⟩, ⟨⟨13, 1⟩, .rw, 0⟩, ⟨⟨12, 1⟩, .rw, 0⟩, ⟨⟨4, 4⟩, .rw, 0⟩, ⟨⟨1, 3⟩, .rw, 0⟩, ⟨⟨0, 1⟩, .rw, 0⟩]⟩,
  ⟨"FBP_WRAP", 0x60004, 16, 0x200, 1, 0x0, [⟨⟨0, 25⟩, .rw, 0x1000⟩]⟩,
  ⟨"FBP_POS", 0x60008, 16, 0x200, 1, 0x0, [⟨⟨0, 24⟩, .rw, 0⟩]⟩,
  ⟨"FBP_STAT", 0x6000C, 16, 0x200, 1, 0x0, [⟨⟨31, 1⟩, .w1c, 0⟩, ⟨⟨30, 1⟩, .w1c, 0⟩, ⟨⟨29, 1⟩, .ro, 0⟩, ⟨⟨28, 1⟩, .ro, 0⟩, ⟨⟨24, 4⟩, .ro, 0⟩, ⟨⟨20, 4⟩, .ro, 0⟩, ⟨⟨19, 1⟩, .ro, 0⟩, ⟨⟨18, 1⟩, .ro, 0⟩, ⟨⟨15, 3⟩, .ro, 0⟩, ⟨⟨0, 8⟩, .ro, 0⟩]⟩,
  ⟨"FBP_ERR", 0x60010, 16, 0x200, 1, 0x0, [⟨⟨24, 8⟩, .rc, 0⟩, ⟨⟨16, 8⟩, .rc, 0⟩, ⟨⟨8, 8⟩, .rc, 0⟩, ⟨⟨0, 8⟩, .rc, 0⟩]⟩,
  ⟨"FBP_IDX", 0x60014, 16, 0x200, 1, 0x0, [⟨⟨28, 2⟩, .rw, 0⟩, ⟨⟨0, 24⟩, .rw, 0⟩]⟩,
  ⟨"FBP_LC", 0x60018, 16, 0x200, 1, 0x0, [⟨⟨0, 32⟩, .ro, 0⟩]⟩,
  ⟨"FBP_SER_CFG", 0x60020, 16, 0x200, 1, 0x0, [⟨⟨14, 1⟩, .rw, 0⟩, ⟨⟨13, 1⟩, .rw, 0⟩, ⟨⟨8, 5⟩, .rw, 0⟩, ⟨⟨0, 6⟩, .rw, 8⟩]⟩,
  ⟨"FBP_SER_CLK", 0x60024, 16, 0x200, 1, 0x0, [⟨⟨16, 8⟩, .rw, 0x50⟩, ⟨⟨0, 11⟩, .rw, 0xC8⟩]⟩,
  ⟨"FBP_SER_PER", 0x60028, 16, 0x200, 1, 0x0, [⟨⟨0, 22⟩, .rw, 0x9C40⟩]⟩,
  ⟨"FBP_SER_JMAX", 0x6002C, 16, 0x200, 1, 0x0, [⟨⟨0, 32⟩, .rw, 0⟩]⟩,
  ⟨"FBP_SER_POS", 0x60030, 16, 0x200, 1, 0x0, [⟨⟨0, 32⟩, .ro, 0⟩]⟩,
  ⟨"FBP_SER_STAT", 0x60034, 16, 0x200, 1, 0x0, [⟨⟨16, 16⟩, .ro, 0⟩, ⟨⟨8, 8⟩, .ro, 0⟩]⟩,
  ⟨"FBP_PRB_CFG", 0x60040, 16, 0x200, 1, 0x0, [⟨⟨8, 4⟩, .rw, 0⟩, ⟨⟨4, 2⟩, .rw, 0⟩, ⟨⟨2, 1⟩, .rw, 0⟩, ⟨⟨0, 2⟩, .rw, 0⟩]⟩,
  ⟨"FBP_PRB_STAT", 0x60044, 16, 0x200, 1, 0x0, [⟨⟨2, 1⟩, .ro, 0⟩, ⟨⟨1, 1⟩, .rc, 0⟩, ⟨⟨0, 1⟩, .rc, 0⟩]⟩,
  ⟨"FBP_PRB_POS", 0x60048, 16, 0x200, 1, 0x0, [⟨⟨0, 24⟩, .ro, 0⟩]⟩,
  ⟨"FBP_PRB_CNT", 0x6004C, 16, 0x200, 1, 0x0, [⟨⟨0, 16⟩, .ro, 0⟩]⟩,
  ⟨"FBP_PRB_TIME_LO", 0x60050, 16, 0x200, 1, 0x0, [⟨⟨0, 32⟩, .ro, 0⟩]⟩,
  ⟨"FBP_PRB_TIME_HI", 0x60054, 16, 0x200, 1, 0x0, [⟨⟨0, 32⟩, .ro, 0⟩]⟩,
  ⟨"FBP_PRB_ANG_LO", 0x60058, 16, 0x200, 1, 0x0, [⟨⟨0, 32⟩, .ro, 0⟩]⟩,
  ⟨"FBP_PRB_ANG_HI", 0x6005C, 16, 0x200, 1, 0x0, [⟨⟨0, 32⟩, .ro, 0⟩]⟩,
  ⟨"FBP_EMU_CFG", 0x60060, 16, 0x200, 1, 0x0, [⟨⟨8, 8⟩, .rw, 0x10⟩, ⟨⟨2, 1⟩, .rw, 0⟩, ⟨⟨1, 1⟩, .rw, 0⟩, ⟨⟨0, 1⟩, .rw, 0⟩]⟩,
  ⟨"FBP_EMU_RATIO", 0x60064, 16, 0x200, 1, 0x0, [⟨⟨16, 16⟩, .rw, 1⟩, ⟨⟨0, 16⟩, .rw, 1⟩]⟩,
  ⟨"FBP_EMU_STAT", 0x60068, 16, 0x200, 1, 0x0, [⟨⟨31, 1⟩, .w1c, 0⟩, ⟨⟨0, 17⟩, .ro, 0⟩]⟩,
  ⟨"FBP_SUP", 0x60070, 16, 0x200, 1, 0x0, [⟨⟨24, 1⟩, .rw, 0⟩, ⟨⟨16, 8⟩, .rw, 0x32⟩, ⟨⟨8, 8⟩, .rw, 0⟩, ⟨⟨1, 1⟩, .rw, 0⟩, ⟨⟨0, 1⟩, .rw, 0⟩]⟩,
  ⟨"FBP_SUP_STAT", 0x60074, 16, 0x200, 1, 0x0, [⟨⟨31, 1⟩, .ro, 0⟩, ⟨⟨8, 1⟩, .ro, 0⟩, ⟨⟨0, 8⟩, .ro, 0⟩]⟩,
  ⟨"FBP_SUP_BUDGET", 0x62000, 1, 0x0, 1, 0x0, [⟨⟨31, 1⟩, .ro, 0⟩, ⟨⟨16, 15⟩, .ro, 0x1770⟩, ⟨⟨0, 16⟩, .ro, 0⟩]⟩,
  ⟨"FBP_SUP_MEAS", 0x62004, 1, 0x0, 1, 0x0, [⟨⟨0, 16⟩, .ro, 0⟩]⟩]

def regsTmc : List RegDesc := [
  ⟨"TMC_CFG", 0x80000, 1024, 0x20, 1, 0x0, [⟨⟨24, 8⟩, .rw, 0⟩, ⟨⟨17, 7⟩, .rw, 0⟩, ⟨⟨15, 2⟩, .rw, 0⟩, ⟨⟨14, 1⟩, .rw, 0⟩, ⟨⟨13, 1⟩, .rw, 0⟩, ⟨⟨12, 1⟩, .rw, 0⟩, ⟨⟨11, 1⟩, .rw, 0⟩, ⟨⟨10, 1⟩, .rw, 0⟩, ⟨⟨9, 1⟩, .rw, 0⟩, ⟨⟨8, 1⟩, .rw, 0⟩, ⟨⟨6, 2⟩, .rw, 0⟩, ⟨⟨4, 2⟩, .rw, 0⟩, ⟨⟨0, 1⟩, .rw, 0⟩]⟩,
  ⟨"TMC_COUNT", 0x80004, 1024, 0x20, 1, 0x0, [⟨⟨0, 32⟩, .rw, 0⟩]⟩,
  ⟨"TMC_PERIOD", 0x80008, 1024, 0x20, 1, 0x0, [⟨⟨0, 32⟩, .rw, 0xFFFFFFFF⟩]⟩,
  ⟨"TMC_COMPARE", 0x8000C, 1024, 0x20, 1, 0x0, [⟨⟨0, 32⟩, .rw, 0⟩]⟩,
  ⟨"TMC_STAT", 0x80010, 1024, 0x20, 1, 0x0, [⟨⟨29, 3⟩, .ro, 0⟩, ⟨⟨28, 1⟩, .w1c, 0⟩, ⟨⟨27, 1⟩, .w1c, 0⟩, ⟨⟨26, 1⟩, .w1c, 0⟩, ⟨⟨25, 1⟩, .w1c, 0⟩, ⟨⟨24, 1⟩, .ro, 0⟩]⟩,
  ⟨"TMC_CAP", 0x80014, 1024, 0x20, 1, 0x0, [⟨⟨0, 32⟩, .rc, 0⟩]⟩,
  ⟨"TMC_CNT", 0x80018, 1024, 0x20, 1, 0x0, [⟨⟨16, 16⟩, .rc, 0⟩, ⟨⟨8, 8⟩, .rc, 0⟩]⟩,
  ⟨"TMC_CMD", 0x8001C, 1024, 0x20, 1, 0x0, [⟨⟨0, 1⟩, .wo, 0⟩]⟩]

def regsAlm : List RegDesc := [
  ⟨"ALM_STAT", 0xA0000, 1, 0x0, 1, 0x0, [⟨⟨16, 11⟩, .ro, 0⟩, ⟨⟨0, 15⟩, .ro, 0⟩]⟩,
  ⟨"ALM_LATE", 0xA0004, 1, 0x0, 1, 0x0, [⟨⟨16, 16⟩, .rc, 0⟩, ⟨⟨0, 16⟩, .rc, 0⟩]⟩,
  ⟨"ALM_OVF", 0xA0008, 1, 0x0, 1, 0x0, [⟨⟨16, 16⟩, .rc, 0⟩, ⟨⟨0, 16⟩, .rc, 0⟩]⟩,
  ⟨"ALM_CANCEL", 0xA000C, 1, 0x0, 1, 0x0, [⟨⟨16, 16⟩, .rc, 0⟩, ⟨⟨0, 16⟩, .rc, 0⟩]⟩,
  ⟨"ALM_LEAD_EL", 0xA0010, 1, 0x0, 1, 0x0, [⟨⟨6, 8⟩, .rw, 8⟩, ⟨⟨0, 6⟩, .rw, 0⟩]⟩,
  ⟨"ALM_LEAD_PO", 0xA0014, 1, 0x0, 1, 0x0, [⟨⟨6, 8⟩, .rw, 0xC⟩, ⟨⟨0, 6⟩, .rw, 0⟩]⟩]

def regsBlu : List RegDesc := [
  ⟨"BLU_CFG", 0xC0000, 16, 0x1000, 1, 0x0, [⟨⟨0, 2⟩, .rw, 3⟩]⟩,
  ⟨"BLU_STAT", 0xC0004, 16, 0x1000, 1, 0x0, [⟨⟨20, 1⟩, .ro, 0⟩, ⟨⟨16, 4⟩, .ro, 0⟩, ⟨⟨8, 5⟩, .ro, 0⟩, ⟨⟨0, 5⟩, .ro, 0⟩]⟩,
  ⟨"BLU_HOLD", 0xC0008, 16, 0x1000, 1, 0x0, [⟨⟨0, 16⟩, .ro, 0⟩]⟩,
  ⟨"BLU_CNT", 0xC000C, 16, 0x1000, 1, 0x0, [⟨⟨16, 16⟩, .rc, 0⟩, ⟨⟨8, 8⟩, .rc, 0⟩, ⟨⟨0, 8⟩, .rc, 0⟩]⟩,
  ⟨"BLU_T_CFG", 0xC0100, 16, 0x1000, 16, 0x20, [⟨⟨16, 16⟩, .rw, 0x3E8⟩, ⟨⟨0, 2⟩, .rw, 1⟩]⟩,
  ⟨"BLU_T_STAT", 0xC0104, 16, 0x1000, 16, 0x20, [⟨⟨29, 3⟩, .ro, 0⟩, ⟨⟨28, 1⟩, .ro, 0⟩, ⟨⟨24, 4⟩, .ro, 0⟩, ⟨⟨0, 13⟩, .ro, 0⟩]⟩,
  ⟨"BLU_T_SIG", 0xC0108, 16, 0x1000, 16, 0x20, [⟨⟨0, 8⟩, .w1s, 0⟩]⟩,
  ⟨"BLU_T_FAULT", 0xC010C, 16, 0x1000, 16, 0x20, [⟨⟨24, 8⟩, .ro, 0⟩, ⟨⟨0, 13⟩, .ro, 0⟩]⟩,
  ⟨"BLU_T_EVT", 0xC0110, 16, 0x1000, 16, 0x20, [⟨⟨16, 16⟩, .rc, 0⟩, ⟨⟨0, 15⟩, .ro, 0⟩]⟩]

def regsEph : List RegDesc := [
  ⟨"EPH_STAT", 0x100000, 1, 0x0, 1, 0x0, [⟨⟨0, 17⟩, .ro, 0⟩]⟩,
  ⟨"EPH_CNT", 0x100004, 1, 0x0, 1, 0x0, [⟨⟨16, 16⟩, .rc, 0⟩, ⟨⟨0, 16⟩, .rc, 0⟩]⟩,
  ⟨"EPH_HO_CFG", 0x100008, 1, 0x0, 1, 0x0, [⟨⟨0, 16⟩, .rw, 0x1F4⟩]⟩,
  ⟨"EPH_HO_CNT", 0x10000C, 1, 0x0, 1, 0x0, [⟨⟨16, 16⟩, .rc, 0⟩, ⟨⟨8, 8⟩, .rc, 0⟩, ⟨⟨0, 8⟩, .rc, 0⟩]⟩,
  ⟨"EPH_L_CFG", 0x101000, 16, 0x40, 1, 0x0, [⟨⟨8, 4⟩, .rw, 0⟩, ⟨⟨5, 1⟩, .rw, 0⟩, ⟨⟨4, 1⟩, .rw, 0⟩, ⟨⟨3, 1⟩, .rw, 0⟩, ⟨⟨1, 2⟩, .rw, 0⟩, ⟨⟨0, 1⟩, .rw, 0⟩]⟩,
  ⟨"EPH_L_SLOTS", 0x101004, 16, 0x40, 1, 0x0, [⟨⟨0, 13⟩, .rw, 0⟩]⟩,
  ⟨"EPH_L_SLOT0", 0x101008, 16, 0x40, 1, 0x0, [⟨⟨0, 32⟩, .rw, 0⟩]⟩,
  ⟨"EPH_L_IO", 0x10100C, 16, 0x40, 1, 0x0, [⟨⟨15, 1⟩, .rw, 0⟩, ⟨⟨8, 7⟩, .rw, 0⟩, ⟨⟨7, 1⟩, .rw, 0⟩, ⟨⟨0, 7⟩, .rw, 0⟩]⟩,
  ⟨"EPH_L_PWIN", 0x101010, 16, 0x40, 1, 0x0, [⟨⟨0, 32⟩, .rw, 0⟩]⟩,
  ⟨"EPH_L_MIN_GAP", 0x101014, 16, 0x40, 1, 0x0, [⟨⟨0, 32⟩, .rw, 0⟩]⟩,
  ⟨"EPH_L_EXIT_LO", 0x101018, 16, 0x40, 1, 0x0, [⟨⟨0, 32⟩, .rw, 0⟩]⟩,
  ⟨"EPH_L_EXIT_HI", 0x10101C, 16, 0x40, 1, 0x0, [⟨⟨0, 32⟩, .rw, 0⟩]⟩,
  ⟨"EPH_L_HO", 0x101020, 16, 0x40, 1, 0x0, [⟨⟨16, 16⟩, .rw, 0x3E8⟩, ⟨⟨0, 16⟩, .rw, 0⟩]⟩,
  ⟨"EPH_L_HO_OFS", 0x101024, 16, 0x40, 1, 0x0, [⟨⟨0, 32⟩, .rw, 0⟩]⟩,
  ⟨"EPH_L_COUNT", 0x10102C, 16, 0x40, 1, 0x0, [⟨⟨0, 17⟩, .ro, 0⟩]⟩,
  ⟨"EPH_L_CNT_IO", 0x101030, 16, 0x40, 1, 0x0, [⟨⟨16, 16⟩, .rc, 0⟩, ⟨⟨0, 16⟩, .rc, 0⟩]⟩,
  ⟨"EPH_L_CNT_ERR", 0x101034, 16, 0x40, 1, 0x0, [⟨⟨24, 8⟩, .rc, 0⟩, ⟨⟨16, 8⟩, .rc, 0⟩, ⟨⟨8, 8⟩, .rc, 0⟩, ⟨⟨0, 8⟩, .rc, 0⟩]⟩,
  ⟨"EPH_L_CNT_REJ", 0x101038, 16, 0x40, 1, 0x0, [⟨⟨16, 16⟩, .rc, 0⟩, ⟨⟨0, 16⟩, .rc, 0⟩]⟩,
  ⟨"EPH_ST_CFG", 0x102000, 64, 0x40, 1, 0x0, [⟨⟨4, 4⟩, .rw, 0⟩, ⟨⟨1, 1⟩, .rw, 0⟩, ⟨⟨0, 1⟩, .rw, 0⟩]⟩,
  ⟨"EPH_ST_CNT", 0x102004, 64, 0x40, 1, 0x0, [⟨⟨16, 16⟩, .rc, 0⟩, ⟨⟨8, 8⟩, .rc, 0⟩, ⟨⟨0, 8⟩, .rc, 0⟩]⟩,
  ⟨"EPH_ST_OFS_LO", 0x102008, 64, 0x40, 1, 0x0, [⟨⟨0, 32⟩, .rw, 0⟩]⟩,
  ⟨"EPH_ST_OFS_HI", 0x10200C, 64, 0x40, 1, 0x0, [⟨⟨0, 32⟩, .rw, 0⟩]⟩,
  ⟨"EPH_ST_ACT", 0x102020, 64, 0x40, 8, 0x4, [⟨⟨28, 4⟩, .rw, 0⟩, ⟨⟨24, 4⟩, .rw, 0⟩, ⟨⟨16, 8⟩, .rw, 0⟩, ⟨⟨0, 16⟩, .rw, 0⟩]⟩,
  ⟨"EPH_TM_CFG", 0x103000, 16, 0x20, 1, 0x0, [⟨⟨9, 1⟩, .rw, 0⟩, ⟨⟨8, 1⟩, .rw, 0⟩, ⟨⟨4, 4⟩, .rw, 0⟩, ⟨⟨0, 4⟩, .rw, 0⟩]⟩,
  ⟨"EPH_TM_TO_OFS", 0x103004, 16, 0x20, 1, 0x0, [⟨⟨0, 32⟩, .rw, 0⟩]⟩,
  ⟨"EPH_TM_TOL", 0x103008, 16, 0x20, 1, 0x0, [⟨⟨0, 16⟩, .rw, 0⟩]⟩,
  ⟨"EPH_TM_CNT", 0x10300C, 16, 0x20, 1, 0x0, [⟨⟨16, 16⟩, .rc, 0⟩, ⟨⟨8, 8⟩, .rc, 0⟩, ⟨⟨0, 8⟩, .rc, 0⟩]⟩,
  ⟨"EPH_RJ_SEL", 0x103800, 4, 0x200, 2, 0x4, [⟨⟨24, 6⟩, .rw, 0x3F⟩, ⟨⟨16, 6⟩, .rw, 0x3F⟩, ⟨⟨8, 6⟩, .rw, 0x3F⟩, ⟨⟨0, 6⟩, .rw, 0x3F⟩]⟩,
  ⟨"EPH_RJ_LUT", 0x103900, 4, 0x200, 64, 0x4, [⟨⟨0, 32⟩, .rw, 0⟩]⟩,
  ⟨"EPH_ET", 0x104000, 64, 0x20, 8, 0x4, [⟨⟨0, 32⟩, .rw, 0⟩]⟩]

def regsCmp : List RegDesc := [
  ⟨"CMP_CFG", 0x120000, 1, 0x0, 1, 0x0, [⟨⟨16, 11⟩, .rw, 0⟩, ⟨⟨8, 6⟩, .rw, 0⟩, ⟨⟨0, 1⟩, .rw, 0⟩]⟩,
  ⟨"CMP_STAT", 0x120004, 1, 0x0, 1, 0x0, [⟨⟨31, 1⟩, .ro, 0⟩, ⟨⟨16, 3⟩, .ro, 0⟩, ⟨⟨0, 9⟩, .ro, 0⟩]⟩,
  ⟨"CMP_CNT", 0x120008, 1, 0x0, 1, 0x0, [⟨⟨16, 16⟩, .rc, 0⟩, ⟨⟨0, 16⟩, .rc, 0⟩]⟩,
  ⟨"CMP_CNT2", 0x12000C, 1, 0x0, 1, 0x0, [⟨⟨24, 8⟩, .rc, 0⟩, ⟨⟨16, 8⟩, .rc, 0⟩, ⟨⟨8, 8⟩, .rc, 0⟩, ⟨⟨0, 8⟩, .rc, 0⟩]⟩,
  ⟨"CMP_LAT", 0x120010, 1, 0x0, 1, 0x0, [⟨⟨0, 16⟩, .rc, 0⟩]⟩,
  ⟨"CMP_EPOCH", 0x120014, 1, 0x0, 1, 0x0, [⟨⟨16, 16⟩, .ro, 0⟩, ⟨⟨0, 16⟩, .ro, 0⟩]⟩,
  ⟨"CMP_TPL", 0x120100, 64, 0x4, 1, 0x0, [⟨⟨31, 1⟩, .rw, 0⟩, ⟨⟨0, 17⟩, .rw, 0⟩]⟩,
  ⟨"CMP_GLY", 0x120200, 16, 0x4, 1, 0x0, [⟨⟨31, 1⟩, .rw, 0⟩, ⟨⟨20, 4⟩, .rw, 0⟩, ⟨⟨0, 17⟩, .rw, 0⟩]⟩,
  ⟨"CMP_SHIFT", 0x120280, 16, 0x4, 1, 0x0, [⟨⟨31, 1⟩, .rw, 0⟩, ⟨⟨16, 11⟩, .rw, 0⟩, ⟨⟨0, 16⟩, .rw, 0⟩]⟩,
  ⟨"CMP_BATCH", 0x1202C0, 4, 0x10, 4, 0x4, [⟨⟨0, 32⟩, .rw, 0⟩]⟩,
  ⟨"CMP_RQ_BASE", 0x120300, 8, 0x10, 1, 0x0, [⟨⟨0, 17⟩, .rw, 0⟩]⟩,
  ⟨"CMP_RQ_SIZE", 0x120304, 8, 0x10, 1, 0x0, [⟨⟨31, 1⟩, .rw, 0⟩, ⟨⟨0, 13⟩, .rw, 0⟩]⟩,
  ⟨"CMP_RQ_STAT", 0x120308, 8, 0x10, 1, 0x0, [⟨⟨16, 7⟩, .ro, 0⟩, ⟨⟨0, 13⟩, .ro, 0⟩]⟩,
  ⟨"CMP_SG_CFG", 0x120400, 8, 0x40, 1, 0x0, [⟨⟨16, 16⟩, .rw, 0x400⟩, ⟨⟨0, 1⟩, .rw, 0⟩]⟩,
  ⟨"CMP_SG_START_LO", 0x120408, 8, 0x40, 1, 0x0, [⟨⟨0, 32⟩, .rw, 0⟩]⟩,
  ⟨"CMP_SG_START_HI", 0x12040C, 8, 0x40, 1, 0x0, [⟨⟨0, 32⟩, .rw, 0⟩]⟩,
  ⟨"CMP_SG_END_LO", 0x120410, 8, 0x40, 1, 0x0, [⟨⟨0, 32⟩, .rw, 0⟩]⟩,
  ⟨"CMP_SG_END_HI", 0x120414, 8, 0x40, 1, 0x0, [⟨⟨0, 32⟩, .rw, 0⟩]⟩,
  ⟨"CMP_SG_NEXT_LO", 0x120418, 8, 0x40, 1, 0x0, [⟨⟨0, 32⟩, .ro, 0⟩]⟩,
  ⟨"CMP_SG_NEXT_HI", 0x12041C, 8, 0x40, 1, 0x0, [⟨⟨0, 32⟩, .ro, 0⟩]⟩,
  ⟨"CMP_SG_HWM_LO", 0x120420, 8, 0x40, 1, 0x0, [⟨⟨0, 32⟩, .ro, 0⟩]⟩,
  ⟨"CMP_SG_HWM_HI", 0x120424, 8, 0x40, 1, 0x0, [⟨⟨0, 32⟩, .ro, 0⟩]⟩]

def regsRas : List RegDesc := [
  ⟨"RAS_CTL", 0x130000, 8, 0x400, 1, 0x0, [⟨⟨8, 1⟩, .rw, 0⟩, ⟨⟨4, 4⟩, .rw, 0⟩, ⟨⟨1, 1⟩, .wo, 0⟩, ⟨⟨0, 1⟩, .rw, 0⟩]⟩,
  ⟨"RAS_PROF0", 0x130004, 8, 0x400, 1, 0x0, [⟨⟨25, 1⟩, .rw, 0⟩, ⟨⟨24, 1⟩, .rw, 0⟩, ⟨⟨16, 8⟩, .rw, 0⟩, ⟨⟨14, 2⟩, .rw, 0⟩, ⟨⟨13, 1⟩, .rw, 0⟩, ⟨⟨12, 1⟩, .rw, 0⟩, ⟨⟨0, 11⟩, .rw, 0⟩]⟩,
  ⟨"RAS_PROF1", 0x130008, 8, 0x400, 1, 0x0, [⟨⟨24, 8⟩, .rw, 0x10⟩, ⟨⟨16, 8⟩, .rw, 8⟩, ⟨⟨0, 16⟩, .rw, 0x190⟩]⟩,
  ⟨"RAS_PROF2", 0x13000C, 8, 0x400, 1, 0x0, [⟨⟨16, 16⟩, .rw, 0x3E8⟩, ⟨⟨8, 8⟩, .rw, 0xA⟩, ⟨⟨0, 8⟩, .rw, 8⟩]⟩,
  ⟨"RAS_PITCH_LO", 0x130010, 8, 0x400, 1, 0x0, [⟨⟨0, 32⟩, .rw, 0⟩]⟩,
  ⟨"RAS_PITCH_HI", 0x130014, 8, 0x400, 1, 0x0, [⟨⟨0, 16⟩, .rw, 0⟩]⟩,
  ⟨"RAS_OFS", 0x130018, 8, 0x400, 1, 0x0, [⟨⟨0, 32⟩, .rw, 0⟩]⟩,
  ⟨"RAS_LEAD", 0x13001C, 8, 0x400, 1, 0x0, [⟨⟨6, 8⟩, .rw, 0xA⟩, ⟨⟨0, 6⟩, .rw, 0⟩]⟩,
  ⟨"RAS_MCP", 0x130020, 8, 0x400, 1, 0x0, [⟨⟨0, 16⟩, .ro, 0x190⟩]⟩,
  ⟨"RAS_STAT", 0x130024, 8, 0x400, 1, 0x0, [⟨⟨16, 13⟩, .ro, 0⟩, ⟨⟨12, 4⟩, .ro, 0⟩, ⟨⟨4, 1⟩, .ro, 0⟩, ⟨⟨0, 2⟩, .ro, 0⟩]⟩,
  ⟨"RAS_CNT0", 0x130028, 8, 0x400, 1, 0x0, [⟨⟨16, 16⟩, .rc, 0⟩, ⟨⟨0, 16⟩, .rc, 0⟩]⟩,
  ⟨"RAS_CNT1", 0x13002C, 8, 0x400, 1, 0x0, [⟨⟨24, 8⟩, .rc, 0⟩, ⟨⟨16, 8⟩, .rc, 0⟩, ⟨⟨8, 8⟩, .rc, 0⟩, ⟨⟨0, 8⟩, .rc, 0⟩]⟩,
  ⟨"RAS_CNT2", 0x130030, 8, 0x400, 1, 0x0, [⟨⟨24, 8⟩, .rc, 0⟩, ⟨⟨16, 8⟩, .rc, 0⟩, ⟨⟨8, 8⟩, .rc, 0⟩, ⟨⟨0, 8⟩, .rc, 0⟩]⟩,
  ⟨"RAS_LAG", 0x130034, 8, 0x400, 1, 0x0, [⟨⟨0, 16⟩, .rc, 0⟩]⟩]

def regsPwm : List RegDesc := [
  ⟨"PWM_CFG", 0x140000, 24, 0x100, 1, 0x0, [⟨⟨26, 2⟩, .rw, 0⟩, ⟨⟨24, 2⟩, .rw, 0⟩, ⟨⟨16, 8⟩, .rw, 0⟩, ⟨⟨14, 2⟩, .rw, 0⟩, ⟨⟨12, 2⟩, .rw, 0⟩, ⟨⟨10, 1⟩, .rw, 0⟩, ⟨⟨9, 1⟩, .rw, 0⟩, ⟨⟨8, 1⟩, .rw, 0⟩, ⟨⟨7, 1⟩, .rw, 1⟩, ⟨⟨6, 1⟩, .rw, 0⟩, ⟨⟨5, 1⟩, .rw, 0⟩, ⟨⟨4, 1⟩, .rw, 0⟩, ⟨⟨2, 2⟩, .rw, 0⟩, ⟨⟨1, 1⟩, .rw, 0⟩, ⟨⟨0, 1⟩, .rw, 0⟩]⟩,
  ⟨"PWM_PERIOD", 0x140004, 24, 0x100, 1, 0x0, [⟨⟨0, 32⟩, .rw, 0⟩]⟩,
  ⟨"PWM_DUTY", 0x140008, 24, 0x100, 1, 0x0, [⟨⟨0, 32⟩, .rw, 0⟩]⟩,
  ⟨"PWM_DT", 0x14000C, 24, 0x100, 1, 0x0, [⟨⟨16, 12⟩, .rw, 0⟩, ⟨⟨0, 12⟩, .rw, 0⟩]⟩,
  ⟨"PWM_MINP", 0x140010, 24, 0x100, 1, 0x0, [⟨⟨16, 12⟩, .rw, 0⟩, ⟨⟨0, 12⟩, .rw, 0⟩]⟩,
  ⟨"PWM_ADC", 0x140014, 24, 0x100, 1, 0x0, [⟨⟨0, 16⟩, .rw, 0⟩]⟩,
  ⟨"PWM_LOCK", 0x140018, 24, 0x100, 1, 0x0, [⟨⟨4, 4⟩, .rw, 0⟩, ⟨⟨0, 1⟩, .rw, 0⟩]⟩,
  ⟨"PWM_LOCK_PITCH", 0x14001C, 24, 0x100, 1, 0x0, [⟨⟨0, 32⟩, .rw, 0⟩]⟩,
  ⟨"PWM_LOCK_OFS", 0x140020, 24, 0x100, 1, 0x0, [⟨⟨0, 32⟩, .rw, 0⟩]⟩,
  ⟨"PWM_COUNT", 0x140024, 24, 0x100, 1, 0x0, [⟨⟨0, 32⟩, .ro, 0⟩]⟩,
  ⟨"PWM_STAT", 0x140028, 24, 0x100, 1, 0x0, [⟨⟨31, 1⟩, .ro, 0⟩, ⟨⟨30, 1⟩, .ro, 0⟩, ⟨⟨29, 1⟩, .w1c, 0⟩, ⟨⟨28, 1⟩, .ro, 0⟩, ⟨⟨27, 1⟩, .ro, 0⟩, ⟨⟨26, 1⟩, .ro, 0⟩, ⟨⟨25, 1⟩, .ro, 0⟩, ⟨⟨0, 8⟩, .ro, 0⟩]⟩,
  ⟨"PWM_CMD", 0x14002C, 24, 0x100, 1, 0x0, [⟨⟨2, 1⟩, .wo, 0⟩, ⟨⟨1, 1⟩, .wo, 0⟩, ⟨⟨0, 1⟩, .wo, 0⟩]⟩,
  ⟨"PWM_CNT0", 0x140030, 24, 0x100, 1, 0x0, [⟨⟨16, 16⟩, .rc, 0⟩, ⟨⟨0, 16⟩, .rc, 0⟩]⟩,
  ⟨"PWM_CNT1", 0x140034, 24, 0x100, 1, 0x0, [⟨⟨24, 8⟩, .rc, 0⟩, ⟨⟨16, 8⟩, .rc, 0⟩, ⟨⟨8, 8⟩, .rc, 0⟩, ⟨⟨0, 8⟩, .rc, 0⟩]⟩,
  ⟨"PWM_CNT2", 0x140038, 24, 0x100, 1, 0x0, [⟨⟨16, 16⟩, .rc, 0⟩, ⟨⟨0, 8⟩, .rc, 0⟩]⟩,
  ⟨"PWM_TRIP_CFG", 0x142000, 8, 0x4, 1, 0x0, [⟨⟨8, 1⟩, .rw, 0⟩, ⟨⟨0, 6⟩, .rw, 0⟩]⟩,
  ⟨"PWM_TRIP_STAT", 0x142020, 1, 0x0, 1, 0x0, [⟨⟨0, 8⟩, .ro, 0⟩]⟩,
  ⟨"PWM_TRIP_CNT", 0x142024, 8, 0x4, 1, 0x0, [⟨⟨24, 8⟩, .rc, 0⟩]⟩]

def regsFio : List RegDesc := [
  ⟨"FIO_BANK_CFG", 0x150000, 8, 0x10, 1, 0x0, [⟨⟨0, 1⟩, .rw, 0⟩]⟩,
  ⟨"FIO_BANK_STAT", 0x150004, 8, 0x10, 1, 0x0, [⟨⟨31, 1⟩, .ro, 0⟩, ⟨⟨30, 1⟩, .ro, 0⟩, ⟨⟨29, 1⟩, .ro, 0⟩, ⟨⟨0, 16⟩, .w1c, 0⟩]⟩,
  ⟨"FIO_BANK_LEVEL", 0x150008, 8, 0x10, 1, 0x0, [⟨⟨0, 16⟩, .ro, 0⟩]⟩,
  ⟨"FIO_BANK_SW", 0x15000C, 8, 0x10, 1, 0x0, [⟨⟨0, 16⟩, .rw, 0⟩]⟩,
  ⟨"FIO_EL_CFG", 0x150100, 128, 0x4, 1, 0x0, [⟨⟨16, 10⟩, .rw, 0⟩, ⟨⟨12, 2⟩, .rw, 0⟩, ⟨⟨2, 2⟩, .rw, 0⟩, ⟨⟨1, 1⟩, .rw, 0⟩, ⟨⟨0, 1⟩, .rw, 0⟩]⟩,
  ⟨"FIO_PO_CFG", 0x150300, 16, 0x4, 1, 0x0, [⟨⟨8, 4⟩, .rw, 0⟩, ⟨⟨4, 2⟩, .rw, 0⟩, ⟨⟨2, 1⟩, .rw, 0⟩, ⟨⟨1, 1⟩, .rw, 0⟩, ⟨⟨0, 1⟩, .rw, 0⟩]⟩,
  ⟨"FIO_PO_STAT", 0x150340, 1, 0x0, 1, 0x0, [⟨⟨0, 16⟩, .ro, 0⟩]⟩,
  ⟨"FIO_CH_CFG", 0x150400, 4, 0x100, 1, 0x0, [⟨⟨8, 10⟩, .rw, 0x200⟩, ⟨⟨4, 3⟩, .rw, 0⟩, ⟨⟨1, 1⟩, .rw, 0⟩, ⟨⟨0, 1⟩, .rw, 0⟩]⟩,
  ⟨"FIO_CH_PER", 0x150404, 4, 0x100, 1, 0x0, [⟨⟨0, 16⟩, .rw, 0x200⟩]⟩,
  ⟨"FIO_CH_STAT", 0x150408, 4, 0x100, 1, 0x0, [⟨⟨31, 1⟩, .w1c, 0⟩, ⟨⟨30, 1⟩, .ro, 0⟩, ⟨⟨29, 1⟩, .ro, 0⟩]⟩,
  ⟨"FIO_CH_FILT", 0x15040C, 4, 0x100, 1, 0x0, [⟨⟨16, 8⟩, .rw, 0⟩, ⟨⟨0, 4⟩, .rw, 0⟩]⟩,
  ⟨"FIO_CH_CNT", 0x150418, 4, 0x100, 1, 0x0, [⟨⟨0, 8⟩, .rc, 0⟩]⟩,
  ⟨"FIO_CH_CAP_LO", 0x150438, 4, 0x100, 1, 0x0, [⟨⟨0, 32⟩, .ro, 0⟩]⟩,
  ⟨"FIO_CH_CAP_HI", 0x15043C, 4, 0x100, 1, 0x0, [⟨⟨0, 32⟩, .ro, 0⟩]⟩,
  ⟨"FIO_CH_IN", 0x150440, 4, 0x100, 16, 0x4, [⟨⟨0, 32⟩, .ro, 0⟩]⟩,
  ⟨"FIO_CH_SW", 0x150480, 4, 0x100, 16, 0x4, [⟨⟨0, 32⟩, .rw, 0⟩]⟩,
  ⟨"FIO_CH_OUT", 0x1504C0, 4, 0x100, 16, 0x4, [⟨⟨0, 32⟩, .ro, 0⟩]⟩]

def regsAdc : List RegDesc := [
  ⟨"ADC_C_CFG", 0x160000, 4, 0x200, 1, 0x0, [⟨⟨24, 5⟩, .rw, 0⟩, ⟨⟨16, 7⟩, .rw, 1⟩, ⟨⟨11, 1⟩, .rw, 0⟩, ⟨⟨10, 1⟩, .rw, 0⟩, ⟨⟨9, 1⟩, .rw, 0⟩, ⟨⟨8, 1⟩, .rw, 0⟩, ⟨⟨4, 4⟩, .rw, 0⟩, ⟨⟨2, 1⟩, .rw, 0⟩, ⟨⟨1, 1⟩, .rw, 1⟩, ⟨⟨0, 1⟩, .rw, 0⟩]⟩,
  ⟨"ADC_C_REG", 0x160004, 4, 0x200, 1, 0x0, [⟨⟨18, 2⟩, .rw, 1⟩, ⟨⟨8, 10⟩, .rw, 0⟩, ⟨⟨4, 3⟩, .rw, 0⟩, ⟨⟨0, 4⟩, .rw, 0⟩]⟩,
  ⟨"ADC_C_REG_DLY", 0x160008, 4, 0x200, 1, 0x0, [⟨⟨16, 16⟩, .rw, 0x3E8⟩, ⟨⟨0, 16⟩, .rw, 0⟩]⟩,
  ⟨"ADC_C_INJ", 0x16000C, 4, 0x200, 1, 0x0, [⟨⟨8, 10⟩, .rw, 0⟩, ⟨⟨4, 3⟩, .rw, 0⟩, ⟨⟨0, 2⟩, .rw, 0⟩]⟩,
  ⟨"ADC_C_INJ_DLY", 0x160010, 4, 0x200, 1, 0x0, [⟨⟨0, 16⟩, .rw, 0⟩]⟩,
  ⟨"ADC_C_STAT", 0x160014, 4, 0x200, 1, 0x0, [⟨⟨31, 1⟩, .ro, 0⟩, ⟨⟨30, 1⟩, .ro, 0⟩, ⟨⟨29, 1⟩, .ro, 0⟩, ⟨⟨28, 1⟩, .w1c, 0⟩, ⟨⟨0, 7⟩, .ro, 0⟩]⟩,
  ⟨"ADC_C_CMD", 0x160018, 4, 0x200, 1, 0x0, [⟨⟨2, 1⟩, .wo, 0⟩, ⟨⟨1, 1⟩, .wo, 0⟩, ⟨⟨0, 1⟩, .wo, 0⟩]⟩,
  ⟨"ADC_C_CNT0", 0x16001C, 4, 0x200, 1, 0x0, [⟨⟨24, 8⟩, .rc, 0⟩, ⟨⟨16, 8⟩, .rc, 0⟩, ⟨⟨8, 8⟩, .rc, 0⟩, ⟨⟨0, 8⟩, .rc, 0⟩]⟩,
  ⟨"ADC_C_CNT1", 0x160020, 4, 0x200, 1, 0x0, [⟨⟨16, 16⟩, .rc, 0⟩, ⟨⟨0, 16⟩, .rc, 0⟩]⟩,
  ⟨"ADC_C_FIFO", 0x160030, 4, 0x200, 4, 0x4, [⟨⟨0, 32⟩, .ro, 0⟩]⟩,
  ⟨"ADC_C_INJR", 0x160040, 4, 0x200, 4, 0x4, [⟨⟨0, 32⟩, .ro, 0⟩]⟩,
  ⟨"ADC_C_RSTEP", 0x160080, 4, 0x200, 16, 0x4, [⟨⟨16, 10⟩, .rw, 0x32⟩, ⟨⟨0, 4⟩, .rw, 0⟩]⟩,
  ⟨"ADC_C_ISTEP", 0x1600C0, 4, 0x200, 4, 0x4, [⟨⟨16, 10⟩, .rw, 0x32⟩, ⟨⟨0, 4⟩, .rw, 0⟩]⟩,
  ⟨"ADC_IN_CFG", 0x161000, 16, 0x4, 1, 0x0, [⟨⟨0, 1⟩, .rw, 0⟩]⟩,
  ⟨"ADC_HOLD", 0x161040, 1, 0x0, 1, 0x0, [⟨⟨0, 4⟩, .ro, 0⟩]⟩]

def regsDma : List RegDesc := [
  ⟨"DMA_CTL", 0x170000, 32, 0x40, 1, 0x0, [⟨⟨17, 1⟩, .rw, 0⟩, ⟨⟨16, 1⟩, .rw, 0⟩, ⟨⟨8, 6⟩, .rw, 0⟩, ⟨⟨4, 2⟩, .rw, 3⟩, ⟨⟨1, 2⟩, .rw, 0⟩, ⟨⟨0, 1⟩, .rw, 0⟩]⟩,
  ⟨"DMA_DESC", 0x170004, 32, 0x40, 1, 0x0, [⟨⟨0, 29⟩, .rw, 0⟩]⟩,
  ⟨"DMA_STAT", 0x170008, 32, 0x40, 1, 0x0, [⟨⟨8, 4⟩, .ro, 0⟩, ⟨⟨0, 3⟩, .ro, 0⟩]⟩,
  ⟨"DMA_COUNT", 0x17000C, 32, 0x40, 1, 0x0, [⟨⟨0, 32⟩, .ro, 0⟩]⟩,
  ⟨"DMA_CUR", 0x170010, 32, 0x40, 1, 0x0, [⟨⟨0, 29⟩, .ro, 0⟩]⟩,
  ⟨"DMA_CRC", 0x170014, 32, 0x40, 1, 0x0, [⟨⟨0, 32⟩, .ro, 0⟩]⟩]

def regsPol : List RegDesc := [
  ⟨"POL_STAT", 0x180000, 1, 0x0, 1, 0x0, [⟨⟨0, 18⟩, .ro, 0x20000⟩]⟩,
  ⟨"POL_UNRES", 0x180004, 1, 0x0, 1, 0x0, [⟨⟨0, 18⟩, .ro, 0x20000⟩]⟩,
  ⟨"POL_RSUM", 0x180008, 1, 0x0, 1, 0x0, [⟨⟨0, 18⟩, .ro, 0⟩]⟩,
  ⟨"POL_ECC", 0x18000C, 1, 0x0, 1, 0x0, [⟨⟨16, 16⟩, .rc, 0⟩, ⟨⟨0, 16⟩, .rc, 0⟩]⟩,
  ⟨"POL_SCRUB", 0x180010, 1, 0x0, 1, 0x0, [⟨⟨16, 16⟩, .rc, 0⟩, ⟨⟨0, 4⟩, .ro, 0⟩]⟩,
  ⟨"POL_UE_BLK", 0x180014, 1, 0x0, 1, 0x0, [⟨⟨31, 1⟩, .rc, 0⟩, ⟨⟨0, 17⟩, .ro, 0⟩]⟩,
  ⟨"POL_CL_RES", 0x180100, 64, 0x10, 1, 0x0, [⟨⟨0, 18⟩, .ro, 0⟩]⟩,
  ⟨"POL_CL_QUOTA", 0x180104, 64, 0x10, 1, 0x0, [⟨⟨0, 18⟩, .ro, 0x20000⟩]⟩,
  ⟨"POL_CL_HELD", 0x180108, 64, 0x10, 1, 0x0, [⟨⟨31, 1⟩, .ro, 0⟩, ⟨⟨0, 18⟩, .ro, 0⟩]⟩,
  ⟨"POL_CL_CNT", 0x18010C, 64, 0x10, 1, 0x0, [⟨⟨0, 16⟩, .rc, 0⟩]⟩]

def regsTal1 : List RegDesc := [
  ⟨"TAL_CFG", 0x190000, 1, 0x0, 1, 0x0, [⟨⟨31, 1⟩, .rw, 0⟩, ⟨⟨16, 4⟩, .rw, 0⟩]⟩,
  ⟨"TAL_STAT", 0x190004, 1, 0x0, 1, 0x0, [⟨⟨31, 1⟩, .ro, 0⟩, ⟨⟨0, 16⟩, .ro, 0⟩]⟩,
  ⟨"TAL_CMD", 0x190008, 1, 0x0, 1, 0x0, [⟨⟨0, 1⟩, .sc, 0⟩]⟩,
  ⟨"TAL_SET_LO", 0x190010, 1, 0x0, 1, 0x0, [⟨⟨0, 32⟩, .rw, 0⟩]⟩,
  ⟨"TAL_SET_HI", 0x190014, 1, 0x0, 1, 0x0, [⟨⟨0, 32⟩, .rw, 0⟩]⟩,
  ⟨"TAL_SET_CMD", 0x190018, 1, 0x0, 1, 0x0, [⟨⟨31, 1⟩, .wo, 0⟩, ⟨⟨0, 14⟩, .wo, 0⟩]⟩,
  ⟨"TAL_W_SEL", 0x190100, 8, 0x10, 1, 0x0, [⟨⟨0, 14⟩, .rw, 0⟩]⟩,
  ⟨"TAL_W_LO", 0x190104, 8, 0x10, 1, 0x0, [⟨⟨0, 32⟩, .ro, 0⟩]⟩,
  ⟨"TAL_W_HI", 0x190108, 8, 0x10, 1, 0x0, [⟨⟨0, 32⟩, .ro, 0⟩]⟩,
  ⟨"TAL_LIM_CFG", 0x190200, 24, 0x10, 1, 0x0, [⟨⟨31, 1⟩, .rw, 0⟩, ⟨⟨30, 1⟩, .w1c, 0⟩, ⟨⟨0, 14⟩, .rw, 0⟩]⟩,
  ⟨"TAL_LIM_LO", 0x190204, 24, 0x10, 1, 0x0, [⟨⟨0, 32⟩, .rw, 0⟩]⟩,
  ⟨"TAL_LIM_HI", 0x190208, 24, 0x10, 1, 0x0, [⟨⟨0, 32⟩, .rw, 0⟩]⟩,
  ⟨"CAL_STAT", 0x190400, 1, 0x0, 1, 0x0, [⟨⟨31, 1⟩, .ro, 0⟩, ⟨⟨30, 1⟩, .ro, 0⟩, ⟨⟨29, 1⟩, .w1c, 0⟩, ⟨⟨28, 1⟩, .ro, 0⟩, ⟨⟨27, 1⟩, .w1c, 0⟩, ⟨⟨0, 16⟩, .ro, 0⟩]⟩,
  ⟨"CAL_SEC_LO", 0x190404, 1, 0x0, 1, 0x0, [⟨⟨0, 32⟩, .ro, 0⟩]⟩,
  ⟨"CAL_SEC_HI", 0x190408, 1, 0x0, 1, 0x0, [⟨⟨0, 8⟩, .ro, 0⟩]⟩,
  ⟨"CAL_FRAC", 0x19040C, 1, 0x0, 1, 0x0, [⟨⟨0, 32⟩, .ro, 0⟩]⟩,
  ⟨"CAL_UTC_DATE", 0x190410, 1, 0x0, 1, 0x0, [⟨⟨16, 16⟩, .ro, 0x7D0⟩, ⟨⟨8, 8⟩, .ro, 1⟩, ⟨⟨0, 8⟩, .ro, 1⟩]⟩,
  ⟨"CAL_UTC_TIME", 0x190414, 1, 0x0, 1, 0x0, [⟨⟨16, 8⟩, .ro, 0⟩, ⟨⟨8, 8⟩, .ro, 0⟩, ⟨⟨0, 8⟩, .ro, 0⟩]⟩,
  ⟨"CAL_LOC_DATE", 0x190418, 1, 0x0, 1, 0x0, [⟨⟨16, 16⟩, .ro, 0x7D0⟩, ⟨⟨8, 8⟩, .ro, 1⟩, ⟨⟨0, 8⟩, .ro, 1⟩]⟩,
  ⟨"CAL_LOC_TIME", 0x19041C, 1, 0x0, 1, 0x0, [⟨⟨16, 8⟩, .ro, 0⟩, ⟨⟨8, 8⟩, .ro, 0⟩, ⟨⟨0, 8⟩, .ro, 0⟩]⟩,
  ⟨"CAL_OFS", 0x190420, 1, 0x0, 1, 0x0, [⟨⟨0, 16⟩, .ro, 0⟩]⟩,
  ⟨"CAL_SET_LO", 0x190430, 1, 0x0, 1, 0x0, [⟨⟨0, 32⟩, .rw, 0⟩]⟩,
  ⟨"CAL_SET_HI", 0x190434, 1, 0x0, 1, 0x0, [⟨⟨0, 8⟩, .rw, 0⟩]⟩,
  ⟨"CAL_CMD", 0x190438, 1, 0x0, 1, 0x0, [⟨⟨0, 1⟩, .wo, 0⟩]⟩,
  ⟨"CAL_FREF_LO", 0x190440, 1, 0x0, 1, 0x0, [⟨⟨0, 32⟩, .rw, 0⟩]⟩,
  ⟨"CAL_FREF_HI", 0x190444, 1, 0x0, 1, 0x0, [⟨⟨0, 32⟩, .rw, 0⟩]⟩,
  ⟨"CAL_SREF_LO", 0x190448, 1, 0x0, 1, 0x0, [⟨⟨0, 32⟩, .rw, 0⟩]⟩,
  ⟨"CAL_SREF_HI", 0x19044C, 1, 0x0, 1, 0x0, [⟨⟨0, 32⟩, .rw, 0⟩]⟩,
  ⟨"CAL_REF_CTL", 0x190450, 1, 0x0, 1, 0x0, [⟨⟨16, 16⟩, .rw, 0x1388⟩, ⟨⟨0, 1⟩, .rw, 0⟩]⟩,
  ⟨"CAL_LEAP_LO", 0x190500, 32, 0x8, 1, 0x0, [⟨⟨0, 32⟩, .rw, 0⟩]⟩]

def regsTal2 : List RegDesc := [
  ⟨"CAL_LEAP_HI", 0x190504, 32, 0x8, 1, 0x0, [⟨⟨31, 1⟩, .rw, 0⟩, ⟨⟨30, 1⟩, .rw, 0⟩, ⟨⟨0, 8⟩, .rw, 0⟩]⟩,
  ⟨"CAL_OFS_LO", 0x190600, 16, 0x8, 1, 0x0, [⟨⟨0, 32⟩, .rw, 0⟩]⟩,
  ⟨"CAL_OFS_HI", 0x190604, 16, 0x8, 1, 0x0, [⟨⟨31, 1⟩, .rw, 0⟩, ⟨⟨16, 12⟩, .rw, 0⟩, ⟨⟨0, 8⟩, .rw, 0⟩]⟩,
  ⟨"JNL_GAP_STAT", 0x190800, 1, 0x0, 1, 0x0, [⟨⟨31, 1⟩, .w1c, 0⟩, ⟨⟨16, 11⟩, .ro, 0⟩]⟩,
  ⟨"JNL_GAP_LOST", 0x190804, 1, 0x0, 1, 0x0, [⟨⟨0, 16⟩, .rc, 0⟩]⟩,
  ⟨"JNL_GAP", 0x190810, 8, 0x4, 1, 0x0, [⟨⟨0, 32⟩, .ro, 0⟩]⟩,
  ⟨"JNL_HWM_BAD", 0x190830, 1, 0x0, 1, 0x0, [⟨⟨0, 8⟩, .ro, 0⟩]⟩,
  ⟨"JNL_SLOT", 0x190900, 16, 0x4, 1, 0x0, [⟨⟨31, 1⟩, .ro, 0⟩, ⟨⟨30, 1⟩, .ro, 0⟩, ⟨⟨0, 13⟩, .ro, 0⟩]⟩]

def regsTal : List RegDesc := regsTal1 ++ regsTal2

def regsCan : List RegDesc := [
  ⟨"CAN_CFG", 0x1A0000, 1, 0x0, 1, 0x0, [⟨⟨16, 16⟩, .rw, 0x21⟩, ⟨⟨0, 1⟩, .rw, 0⟩]⟩,
  ⟨"CAN_STAT", 0x1A0004, 1, 0x0, 1, 0x0, [⟨⟨31, 1⟩, .ro, 0⟩, ⟨⟨16, 2⟩, .ro, 0⟩, ⟨⟨0, 8⟩, .ro, 0⟩]⟩,
  ⟨"CAN_WAKE", 0x1A0008, 1, 0x0, 1, 0x0, [⟨⟨24, 3⟩, .ro, 0⟩, ⟨⟨16, 2⟩, .ro, 0⟩, ⟨⟨0, 8⟩, .ro, 0⟩]⟩,
  ⟨"CAN_RUNS", 0x1A000C, 1, 0x0, 1, 0x0, [⟨⟨0, 32⟩, .ro, 0⟩]⟩,
  ⟨"CAN_TEST", 0x1A0010, 1, 0x0, 1, 0x0, [⟨⟨31, 1⟩, .sc, 0⟩, ⟨⟨30, 1⟩, .ro, 0⟩, ⟨⟨0, 8⟩, .ro, 0⟩]⟩,
  ⟨"CAN_SH_CFG", 0x1A0020, 4, 0x4, 1, 0x0, [⟨⟨16, 16⟩, .rw, 0xFFFF⟩, ⟨⟨1, 1⟩, .rw, 0⟩, ⟨⟨0, 1⟩, .rw, 0⟩]⟩,
  ⟨"CAN_SH_STAT", 0x1A0030, 4, 0x4, 1, 0x0, [⟨⟨31, 1⟩, .ro, 0⟩, ⟨⟨30, 1⟩, .ro, 0⟩, ⟨⟨29, 1⟩, .ro, 0⟩, ⟨⟨0, 8⟩, .rc, 0⟩]⟩,
  ⟨"CAN_SH_NET", 0x1A0040, 4, 0x4, 1, 0x0, [⟨⟨0, 32⟩, .ro, 0⟩]⟩,
  ⟨"CAN_V", 0x1A0080, 8, 0x4, 1, 0x0, [⟨⟨0, 32⟩, .ro, 0⟩]⟩]

def regsTwn : List RegDesc := [
  ⟨"TWN_CFG", 0x1B0000, 1, 0x0, 1, 0x0, [⟨⟨16, 16⟩, .rw, 0⟩, ⟨⟨9, 1⟩, .rw, 0⟩, ⟨⟨8, 1⟩, .rw, 0⟩, ⟨⟨0, 1⟩, .rw, 0⟩]⟩,
  ⟨"TWN_STAT", 0x1B0004, 1, 0x0, 1, 0x0, [⟨⟨8, 1⟩, .ro, 0⟩, ⟨⟨0, 3⟩, .ro, 0⟩]⟩,
  ⟨"TWN_EPOCH", 0x1B0008, 1, 0x0, 1, 0x0, [⟨⟨0, 32⟩, .ro, 0⟩]⟩,
  ⟨"TWN_HB_LO", 0x1B0010, 1, 0x0, 1, 0x0, [⟨⟨0, 32⟩, .ro, 0⟩]⟩,
  ⟨"TWN_HB_HI", 0x1B0014, 1, 0x0, 1, 0x0, [⟨⟨0, 32⟩, .ro, 0⟩]⟩,
  ⟨"TWN_CNT0", 0x1B0018, 1, 0x0, 1, 0x0, [⟨⟨24, 8⟩, .rc, 0⟩, ⟨⟨16, 8⟩, .rc, 0⟩, ⟨⟨8, 8⟩, .rc, 0⟩, ⟨⟨0, 8⟩, .rc, 0⟩]⟩,
  ⟨"TWN_CNT1", 0x1B001C, 1, 0x0, 1, 0x0, [⟨⟨16, 16⟩, .rc, 0⟩, ⟨⟨0, 16⟩, .rc, 0⟩]⟩,
  ⟨"TWN_CMD", 0x1B0020, 1, 0x0, 1, 0x0, [⟨⟨0, 1⟩, .sc, 0⟩]⟩,
  ⟨"TWN_GAP", 0x1B0024, 1, 0x0, 1, 0x0, [⟨⟨0, 16⟩, .ro, 0⟩]⟩]

/-- The registers of a block. -/
def Block.regs : Block → List RegDesc
  | .glb => regsGlb
  | .pwr => regsPwr
  | .ntf => regsNtf
  | .fab => regsFab
  | .shf => regsShf
  | .fbp => regsFbp
  | .tmc => regsTmc
  | .alm => regsAlm
  | .blu => regsBlu
  | .eph => regsEph
  | .cmp => regsCmp
  | .ras => regsRas
  | .pwm => regsPwm
  | .fio => regsFio
  | .adc => regsAdc
  | .dma => regsDma
  | .pol => regsPol
  | .tal => regsTal
  | .can => regsCan
  | .twn => regsTwn

/-- The block whose span holds the address (R21): a span runs from its base to the base of the next row; TWN ends at
0x001B_FFFF; addresses from 0x001C_0000 belong to no block. -/
def blockOf (a : Nat) : Option Block :=
  if a < 0x10000 then some .glb
  else if a < 0x20000 then some .pwr
  else if a < 0x30000 then some .ntf
  else if a < 0x40000 then some .fab
  else if a < 0x60000 then some .shf
  else if a < 0x80000 then some .fbp
  else if a < 0xA0000 then some .tmc
  else if a < 0xC0000 then some .alm
  else if a < 0x100000 then some .blu
  else if a < 0x120000 then some .eph
  else if a < 0x130000 then some .cmp
  else if a < 0x140000 then some .ras
  else if a < 0x150000 then some .pwm
  else if a < 0x160000 then some .fio
  else if a < 0x170000 then some .adc
  else if a < 0x180000 then some .dma
  else if a < 0x190000 then some .pol
  else if a < 0x1A0000 then some .tal
  else if a < 0x1B0000 then some .can
  else if a < 0x1C0000 then some .twn
  else none

/-- The instance numbers of an offset under one stride: the quotient and what is left. A stride of 0 takes no number. -/
def strideIdx (n s off : Nat) : Option (Nat × Nat) :=
  if s = 0 then some (0, off) else if off / s < n then some (off / s, off % s) else none

/-- The instance numbers of address `a` in a register array, if it is one of its addresses. -/
def RegDesc.indexOf (d : RegDesc) (a : Nat) : Option (Nat × Nat) :=
  if a < d.base then none
  else
    match strideIdx d.n1 d.s1 (a - d.base) with
    | none => none
    | some (i, r) =>
      match strideIdx d.n2 d.s2 r with
      | none => none
      | some (j, q) => if q = 0 then some (i, j) else none

/-- The description of the register at `a`, with its instance numbers; none where the address is unassigned (R5, R21). -/
def regAt (a : Nat) : Option (RegDesc × Nat × Nat) :=
  match blockOf a with
  | none => none
  | some b => b.regs.findSome? fun d => (d.indexOf a).map fun ij => (d, ij.1, ij.2)

/-- The mask of the fields of one access code. -/
def RegDesc.mask (d : RegDesc) (acc : Access) : Word :=
  d.fields.foldl (fun m f => if f.acc = acc then m ||| f.fld.mask else m) 0

/-- The reset word of a register (R10). -/
def RegDesc.resetWord (d : RegDesc) : Word :=
  d.fields.foldl (fun m f => m.setF f.fld f.reset) 0

/-- The value a register address holds after a cold reset. -/
def resetAt (a : Nat) : Word :=
  match regAt a with
  | none => 0
  | some (d, _, _) => d.resetWord

end Sys2Proof.Machine
end

