-- ==== Sys2Proof/Machine/State.lean ====
section
/-! DEFINITION. The state of the engine as plain data, and the state after reset. -/

namespace Sys2Proof.Machine

/-- The reasons a step can stop with a fault. The spec lets the engine go on after every command, so no command raises
one. -/
inductive Fault where
  /-- Raised by no command. Safe. -/
  | none_
  deriving DecidableEq, Repr

/-- The reasons a step can be refused. -/
inductive Refusal where
  /-- Answered for a command whose meaning is not written, by Dispatch.lean alone. Safe. -/
  | notModelled (mnemonic : String)
  deriving DecidableEq, Repr

/-- The engine. Sparse maps hold what differs from its value after reset. -/
structure State where
  /-- Commands that wait, first in first out: the model's own queue. -/
  pending : List Instr
  /-- Engine time in ticks (R2, R32). -/
  time : Nat
  /-- Stored words of the registers, by address (R21). -/
  regs : FMap Word
  /-- Free values drawn so far: the model's own counter, an argument of Config.freeValue. -/
  free : Nat
  /-- How the last operation or command completed (R319). -/
  completion : Completion
  /-- OUT_LIVE as the outputs last saw it (R26 to R28). -/
  liveWas : Bool
  /-- SHUTDOWN of R26. -/
  shutdown : Bool
  /-- LEASE of R26. -/
  leaseOk : Bool
  /-- Shafts 0–15 (R33 to R67). -/
  shafts : FMap Shaft
  /-- Feedback ports 0–15 (R203 to R234). -/
  ports : FMap Port
  /-- Timer cells 0–1 023 (R235 to R250). -/
  cells : FMap Cell
  /-- Almanac descriptors 0–16 383 (R68 to R90). -/
  events : FMap AlmEvent
  /-- Commits that wait in the descriptor engine's queue, and the ticks of the latest starts (R85). -/
  almQueue : List Nat
  almWork : List Nat
  /-- ALM_LEAD_EL and ALM_LEAD_PO as they act in this tick (R90). -/
  leadEl : Word
  leadPo : Word
  /-- Level outputs by tally number (R276 to R283). -/
  outs : FMap Output
  /-- Filtered levels of the event lines (R274). -/
  lines : FMap Bool
  /-- Tick in which the filter of an event line last accepted a level, plus 1; 0 for none (R274). -/
  lineAt : FMap Nat
  /-- The words that still act of registers written in the present tick, where what is written acts from the next tick
  (R237, R246, R247, R253, R276, R284). -/
  actOld : List (Nat × Word)
  /-- Expander chains 0–3 (R280 to R283). -/
  chains : FMap Chain
  /-- PWM generators 0–23 and trip inputs 0–7 (R251 to R270). -/
  pwms : FMap Pwm
  trips : FMap TripIn
  /-- Converters 0–3 (R284 to R299). -/
  adcs : FMap Adc
  /-- Registers whose RC or W1C fields the hardware has set in the present tick (R8). -/
  fresh : FMap Fresh
  /-- Notification sources and targets (R361 to R375). -/
  ntf : FMap NtfSrc
  ntfTgt : FMap NtfTgt
  /-- Active faults, entries staged and entries in flash, the next SEQ (R502 to R506). -/
  faults : List ActiveFault
  staging : List FaultEntry
  flash : List FaultEntry
  flogSeq : Nat
  /-- Tick of the last write of the staging area; tick from which the log window loads. -/
  logAt : Nat
  selAt : Option Nat
  /-- Tick of the last entry to the safe state (R29). -/
  safeAt : Option Nat
  /-- Tick of the last command that permitted outputs, and whether the last completion is that command's (R29). -/
  permitted : Option (Nat × Bool)
  /-- Tallies in the cache and in the MRAM (R459 to R462). -/
  tallies : FMap Nat
  tallyMram : FMap Nat
  /-- The calendar of record and its error estimate in fs, whether it has been set, leap seconds in force, a reference
  written (R466 to R470). -/
  cal : Nat
  calErr : Nat
  calSet : Bool
  leapNow : Int
  refLoaded : Bool
  /-- Tick of the last tally flush. -/
  lastFlush : Nat
  /-- The map from ticks to fabric time; none before the first SYNC (R394). -/
  tmap : Option TimeMap
  /-- Unread gap records and their next number (R472). -/
  gaps : List GapRec
  gapSeq : Nat
  /-- Stored configurations (R473). -/
  slots : FMap Slot
  /-- Command sessions 0–7, commands in flight, the next number of one (R323 to R331). -/
  sessions : FMap Session
  flights : List Flight
  nextFlight : Nat
  /-- Transactions, the last identifier given, prepared transactions that ended at their deadline or their point, with
  the status that a later commit receives (R342 to R358). -/
  txns : List Txn
  nextTxn : Nat
  txnEnded : List (Nat × Nat × Status)
  /-- A change of performance level in progress: the new level and the tick of its decision (R428). -/
  levelTo : Option (Nat × Nat)
  /-- Governor periods counted, and the runs of periods spent at P0 (R426). -/
  periodNo : Nat
  boosts : List (Nat × Nat)
  /-- The hottest junction has been at or below 50 °C since the last thermal cycle counted (R460). -/
  cooled : Bool
  /-- Frames handed to the links, oldest first. -/
  wire : List Frame
  /-- The fabric unit (R376 to R404). -/
  fab : Fab
  /-- The twin unit (R405 to R423). -/
  twin : Twin
  /-- The address lock record in MRAM (R30, R473). -/
  lockRec : Option Nat
  /-- The power state (R430), and the governor's holds (R442). -/
  power : Power
  holdB : Bool
  holdC : Bool
  /-- Blulet threads, instruction memories (engine × 8 192 + word), data memories (engine × 65 536 + byte), the 8-byte
  words of data memory written since the last epoch (R91 to R117, R409). -/
  threads : FMap Thread
  imem : FMap (BitVec 64)
  dmem : List Host.Cell
  dmemDirty : FMap Bool
  /-- Errors that stand in words of the instruction memories (engine × 8 192 + word) and, from 131 072 on, of the data
  memories (engine × 8 192 + word), until the word is rewritten (R94). -/
  memErrs : FMap MemErr
  /-- Clock credit of each engine against the tick, in MHz (R427); READY order; queued edges (R133). -/
  bluCycles : FMap Nat
  bluSeq : Nat
  poQueue : FMap (List QEdge)
  /-- φ of each shaft in the last ticks, newest first (R123). -/
  phiTrail : FMap (List Int)
  /-- The Canary (R446 to R458), AON cycles since entry to Watch, the cycle of the first wake event, the tick of acceptance
  of a POWER_STATE to Watch, and what Watch keeps. -/
  canary : Canary
  aon : Nat
  wakeAt : Option Nat
  watchNext : Option Nat
  saved : Saved
  /-- Product records (R138 to R141). -/
  products : FMap Product
  /-- The records as the ticks before have left them (R148), and the products transferred in this tick, with their PIDs,
  that wait for the arrivals of step 4 (R148). -/
  prodWas : FMap Product
  arrivals : List (Nat × Nat)
  /-- The lowest index never used, free indexes, the PID counter (R138 to R141). -/
  prodFresh : Nat
  prodFree : List Nat
  pidSeq : Nat
  /-- Ephemeris lanes, firing ticks of stations, the tick of the last STORE_FULL, handoffs in progress, PIDs received
  (R142 to R162). -/
  ephLanes : FMap EphLane
  stnTick : FMap Nat
  storeFullAt : Option Nat
  handoffs : List Handoff
  pidsSeen : List Nat
  /-- Composer jobs, the next number, numbers the mirror has delivered, acknowledged reservations, serial generators, the
  held calendar reading, NO_DATE standing (R163 to R187). -/
  jobs : List Job
  nextJob : Nat
  serialsIn : List MirrorSerial
  reservationAcks : List Nat
  gens : FMap SerialGen
  heldCal : Option LocalTime
  noDateOn : Bool
  /-- Raster lanes 0–7 (R188 to R202). -/
  raster : FMap RasLane
  /-- The buffer pool, its poisoned words, the blocks held, DMA channels, the scrubber's next block (R300 to R317). -/
  pool : List Host.Cell
  poison : FMap Bool
  extents : List Extent
  dmas : FMap Dma
  scrubPos : Nat
  /-- Images and start-up (R492 to R500). -/
  boot : Boot
  deriving DecidableEq, Repr

/-- The machine right after a cold reset: every register at its reset value (R10), every store empty, nothing pending.
Values that the spec does not give stand in the log. -/
def State.reset : State :=
  { pending := [], time := 0, regs := [], free := 0, completion := Completion.init, liveWas := false, shutdown := false,
    leaseOk := true, shafts := [], ports := [], cells := [], events := [], almQueue := [], almWork := [],
    leadEl := 0x200, leadPo := 0x300, outs := [], lines := [], lineAt := [], actOld := [], chains := [],
    pwms := [], trips := [], adcs := [], fresh := [], ntf := [], ntfTgt := [], faults := [], staging := [], flash := [], flogSeq := 0,
    logAt := 0, selAt := none, safeAt := none, permitted := none, tallies := [], tallyMram := [], cal := 0, calErr := 0, calSet := false,
    leapNow := 0, refLoaded := false, lastFlush := 0, tmap := none, gaps := [], gapSeq := 0, slots := [], sessions := [],
    flights := [], nextFlight := 0, txns := [], nextTxn := 0, txnEnded := [], levelTo := none, periodNo := 0, boosts := [], cooled := false,
    wire := [], fab := Fab.init, twin := Twin.init, lockRec := none, power := .run, holdB := false, holdC := false,
    threads := [], imem := [], dmem := [], dmemDirty := [], memErrs := [], bluCycles := [], bluSeq := 0, poQueue := [], phiTrail := [],
    canary := Canary.init, aon := 0, wakeAt := none, watchNext := none, saved := Saved.init, products := [], prodWas := [], arrivals := [],
    prodFresh := 0, prodFree := [], pidSeq := 0, ephLanes := [], stnTick := [], storeFullAt := none, handoffs := [],
    pidsSeen := [], jobs := [], nextJob := 0, serialsIn := [], reservationAcks := [], gens := [], heldCal := none,
    noDateOn := false, raster := [], pool := [], poison := [], extents := [], dmas := [], scrubPos := 0,
    boot := Boot.init }

end Sys2Proof.Machine
end

