-- ==== Sys2Proof/Machine/Ops.lean ====
section
/-! DEFINITION. The named operations shared by all units: stored registers, counters, notification sources, faults and
the fault log, frames sent, replies, output drive and tallies. -/

namespace Sys2Proof.Machine

/-! ## Stored registers -/

/-- The stored word of a register. -/
def State.rg (s : State) (a : Nat) : Word := FMap.get resetAt s.regs a

/-- The state with the stored word of a register set. -/
def State.setRg (s : State) (a : Nat) (w : Word) : State := { s with regs := FMap.set resetAt s.regs a w }

/-- A field of a stored register. -/
def State.fld (s : State) (a : Nat) (f : Fld) : Nat := (s.rg a).getF f

/-- A field of a stored register as a flag. -/
def State.flag (s : State) (a : Nat) (f : Fld) : Bool := decide (s.fld a f ≠ 0)

/-- The state with a field of a stored register set. -/
def State.setFld (s : State) (a : Nat) (f : Fld) (v : Nat) : State := s.setRg a ((s.rg a).setF f v)

/-- The state with a flag of a stored register set or cleared. -/
def State.setFlag (s : State) (a : Nat) (f : Fld) (b : Bool) : State := s.setFld a f (b2n b)

/-- What the hardware has set in a register in the present tick (R8). -/
def State.freshAt (s : State) (a : Nat) : Fresh := FMap.get (fun _ => Fresh.none) s.fresh a

/-- The state with what the hardware has set in a register in the present tick. -/
def State.setFresh (s : State) (a : Nat) (x : Fresh) : State :=
  { s with fresh := FMap.set (fun _ => Fresh.none) s.fresh a x }

/-- The hardware sets a field of a register to `v`; `p` is what the field would hold had it been read earlier in the
tick (R8). -/
def State.hwSet (s : State) (a : Nat) (f : Fld) (v p : Nat) : State :=
  let x := s.freshAt a
  (s.setFresh a { base := if x.plus = 0 then s.rg a else x.base, plus := x.plus.setF f p }).setFld a f v

/-- The state with a saturating counter field, or a flag, raised by `k`. -/
def State.count (s : State) (a : Nat) (f : Fld) (k : Nat) : State :=
  let top := 2 ^ f.width - 1
  s.hwSet a f (satTo top (s.fld a f + k)) (satTo top ((s.freshAt a).plus.getF f + k))

/-- The state with a flag set that software clears. -/
def State.latch (s : State) (a : Nat) (f : Fld) : State := s.hwSet a f 1 1

/-- The state with a field that keeps the greatest value. -/
def State.peak (s : State) (a : Nat) (f : Fld) (v : Nat) : State :=
  s.hwSet a f (Nat.max (s.fld a f) v) (Nat.max ((s.freshAt a).plus.getF f) v)

/-- The hardware has set a flag in the present tick (R8). -/
def State.isFresh (s : State) (a : Nat) (f : Fld) : Bool := decide ((s.freshAt a).plus.getF f ≠ 0)

/-- A register pair read as one 64-bit number (R4). -/
def State.rg64 (s : State) (a : Nat) : Nat := (s.rg a).toNat + 2 ^ 32 * (s.rg (a + 4)).toNat

/-- The state with a register pair set from a 64-bit number. -/
def State.setRg64 (s : State) (a n : Nat) : State :=
  (s.setRg a (BitVec.ofNat 32 n)).setRg (a + 4) (BitVec.ofNat 32 (n / 2 ^ 32))

/-! ## Units of the state -/

/-- Shaft `n`. -/
def State.shaft (s : State) (n : Nat) : Shaft := FMap.get (fun _ => Shaft.init) s.shafts n

/-- The state with shaft `n` replaced. -/
def State.setShaft (s : State) (n : Nat) (x : Shaft) : State :=
  { s with shafts := FMap.set (fun _ => Shaft.init) s.shafts n x }

/-- Feedback port `n`. -/
def State.port (s : State) (n : Nat) : Port := FMap.get (fun _ => Port.init) s.ports n

/-- The state with feedback port `n` replaced. -/
def State.setPort (s : State) (n : Nat) (x : Port) : State :=
  { s with ports := FMap.set (fun _ => Port.init) s.ports n x }

/-- Timer cell `n`. -/
def State.cell (s : State) (n : Nat) : Cell := FMap.get (fun _ => Cell.init) s.cells n

/-- The state with timer cell `n` replaced. -/
def State.setCell (s : State) (n : Nat) (x : Cell) : State :=
  { s with cells := FMap.set (fun _ => Cell.init) s.cells n x }

/-- Almanac event `i`. -/
def State.event (s : State) (i : Nat) : AlmEvent := FMap.get (fun _ => AlmEvent.init) s.events i

/-- The state with Almanac event `i` replaced. -/
def State.setEvent (s : State) (i : Nat) (x : AlmEvent) : State :=
  { s with events := FMap.set (fun _ => AlmEvent.init) s.events i x }

/-- Level output `o`, numbered as its tally (R459). -/
def State.out (s : State) (o : Nat) : Output := FMap.get (fun _ => Output.init) s.outs o

/-- The state with level output `o` replaced. -/
def State.setOut (s : State) (o : Nat) (x : Output) : State :=
  { s with outs := FMap.set (fun _ => Output.init) s.outs o x }

/-- Filtered level of event line `i` (R274). -/
def State.line (s : State) (i : Nat) : Bool := FMap.get (fun _ => false) s.lines i

/-- The state with the filtered level of an event line set. -/
def State.setLine (s : State) (i : Nat) (b : Bool) : State := { s with lines := FMap.set (fun _ => false) s.lines i b }

/-- Expander chain `c`. -/
def State.chain (s : State) (c : Nat) : Chain := FMap.get (fun _ => Chain.init) s.chains c

/-- The state with expander chain `c` replaced. -/
def State.setChain (s : State) (c : Nat) (x : Chain) : State :=
  { s with chains := FMap.set (fun _ => Chain.init) s.chains c x }

/-- PWM generator `n`. -/
def State.pwm (s : State) (n : Nat) : Pwm := FMap.get (fun _ => Pwm.init) s.pwms n

/-- The state with PWM generator `n` replaced. -/
def State.setPwm (s : State) (n : Nat) (x : Pwm) : State :=
  { s with pwms := FMap.set (fun _ => Pwm.init) s.pwms n x }

/-- Trip input `i`. -/
def State.trip (s : State) (i : Nat) : TripIn := FMap.get (fun _ => TripIn.init) s.trips i

/-- The state with trip input `i` replaced. -/
def State.setTrip (s : State) (i : Nat) (x : TripIn) : State :=
  { s with trips := FMap.set (fun _ => TripIn.init) s.trips i x }

/-- Converter `c`. -/
def State.adc (s : State) (c : Nat) : Adc := FMap.get (fun _ => Adc.init) s.adcs c

/-- The state with converter `c` replaced. -/
def State.setAdc (s : State) (c : Nat) (x : Adc) : State :=
  { s with adcs := FMap.set (fun _ => Adc.init) s.adcs c x }

/-- Notification source `i`. -/
def State.src (s : State) (i : Nat) : NtfSrc := FMap.get (fun _ => NtfSrc.init) s.ntf i

/-- The state with notification source `i` replaced. -/
def State.setSrc (s : State) (i : Nat) (x : NtfSrc) : State :=
  { s with ntf := FMap.set (fun _ => NtfSrc.init) s.ntf i x }

/-- Session `n`. -/
def State.sess (s : State) (n : Nat) : Session := FMap.get (fun _ => Session.init) s.sessions n

/-- The state with session `n` replaced. -/
def State.setSess (s : State) (n : Nat) (x : Session) : State :=
  { s with sessions := FMap.set (fun _ => Session.init) s.sessions n x }

/-- Stored configuration slot `n`. -/
def State.slot (s : State) (n : Nat) : Slot := FMap.get (fun _ => Slot.init) s.slots n

/-- The state with stored configuration slot `n` replaced. -/
def State.setSlot (s : State) (n : Nat) (x : Slot) : State :=
  { s with slots := FMap.set (fun _ => Slot.init) s.slots n x }

/-- The state with the completion of the last operation set; whether it is that of a command which permitted outputs
(R29). -/
def State.done (s : State) (st : Status) (result : Nat) (body : List Byte) : State :=
  { s with
    completion := { status := st, result := result, body := body }
    permitted := match s.permitted with
      | some (t, false) => some (t, true)
      | _ => none }

/-- A command permits outputs in the present tick (R29). -/
def State.permits (s : State) : State := { s with permitted := some (s.time, false) }

/-- The last completion is that of a command which permitted outputs in the present tick (R29). -/
def State.permitDone (s : State) : Bool := decide (s.permitted = some (s.time, true))

/-- A function over the numbers below `n`, in ascending order. -/
def State.forEach (n : Nat) (f : State → Nat → State) (s : State) : State := (List.range n).foldl f s

/-! ## Time -/

/-- Ticks in one microsecond, millisecond and second (R2). -/
def ticksUs : Nat := 400
def ticksMs : Nat := 400000
def ticksS : Nat := 400000000

/-! ## Notification sources (R361 to R365) -/

/-- Sources whose owner ORs the value of a further raise into a pending one (R364): PWM generators (R268), converters
(R295), timer cells (R248), DMA channels (R314) and claims (R308). -/
def orsValue (src : Nat) : Bool :=
  (decide (96 ≤ src) && decide (src < 128)) || (decide (512 ≤ src) && decide (src < 1536)) ||
    (decide (1664 ≤ src) && decide (src < 1760))

/-- A raise of a source by its owner, with a value, in the present tick (R363, R364). -/
def State.raise (s : State) (i v : Nat) : State :=
  let x := s.src i
  let w := BitVec.ofNat 32 v
  let cur : NtfRec :=
    if x.pend then
      { x.cur with count := satTo 255 (x.cur.count + 1), value := if orsValue i then x.cur.value ||| w else w }
    else { x.cur with count := 1, value := w, tick := s.time }
  s.setSrc i { x with pend := true, cur := cur }

/-- A value the spec gives no number for. -/
def State.freeNow (s : State) : Nat := (Config.freeValue s.free).toNat

/-- The state after a free value has been drawn. -/
def State.drawn (s : State) : State := { s with free := s.free + 1 }

/-- A raise whose value the spec does not state: a free value. -/
def State.raiseFree (s : State) (i : Nat) : State := (s.raise i s.freeNow).drawn

/-- A raise by an event of kind 9 or by NTF_RAISE: SW is set and the stored value stays (R365). -/
def State.raiseSw (s : State) (i : Nat) : State :=
  let x := s.src i
  let cur : NtfRec :=
    if x.pend then { x.cur with count := satTo 255 (x.cur.count + 1), sw := true }
    else { x.cur with count := 1, value := 0, tick := s.time, sw := true }
  s.setSrc i { x with pend := true, cur := cur }

/-! ## Calendar readings used by other units (R466, R469) -/

/-- Femtoseconds in a second and in a tick (R2): the unit of the calendar count and of its error. -/
def fsSecond : Nat := 1000000000000000
def fsTick : Nat := 2500000

/-- Whole seconds of the calendar of record (R466); the count is kept in femtoseconds. -/
def State.calSec (s : State) : Nat := s.cal / fsSecond % 2 ^ 40

/-- ERR_EST in milliseconds (R469); the estimate is kept in femtoseconds. -/
def State.calErrMs (s : State) : Nat := satTo 65535 (s.calErr / 1000000000000)

/-- VALID (R469). -/
def State.calValid (s : State) : Bool := s.calSet && decide (s.calErrMs ≤ s.fld CAL_REF_CTL CAL_REF_CTL_ERR_MAX)

/-! ## Tallies (R459 to R465) -/

/-- The cached value of a tally (R461). -/
def State.tally (s : State) (i : Nat) : Nat := FMap.get (fun _ => 0) s.tallies i

/-- The state with a tally's cached value set. -/
def State.setTally (s : State) (i v : Nat) : State := { s with tallies := FMap.set (fun _ => 0) s.tallies i v }

/-! ## Faults and the fault log (R502 to R505) -/

/-- Room in the staging area. -/
def stagingSize : Nat := 64

/-- Entries of the flash ring. -/
def flashSize : Nat := 4096

/-- Field of GLB_FLT_CNT that counts a class (R507). -/
def fltCntField (cls : Nat) : Fld :=
  if cls = 3 then GLB_FLT_CNT_F3 else if cls = 2 then GLB_FLT_CNT_F2 else if cls = 1 then GLB_FLT_CNT_F1
  else GLB_FLT_CNT_F0

/-- The notification source of a class (R503). -/
def classSource (cls : Nat) : Nat := 3 - cls

/-- The value of the engine fault sources (R503). -/
def faultValue (code inst : Nat) : Nat := code % 65536 + inst % 65536 * 65536

/-- The index of the POWER_CYCLES tally (R459). -/
def tallyPowerCycles : Nat := 10435

/-- Joins a further raise to a staged entry of the same code, instance and kind (R505); none where there is no such
entry. -/
def bumpStaged (code inst : Nat) (kind : FaultKind) : List FaultEntry → Option (List FaultEntry)
  | [] => none
  | e :: es =>
    if e.code = code ∧ e.inst = inst ∧ e.kind = kind then some ({ e with repeats := satTo 65535 (e.repeats + 1) } :: es)
    else (bumpStaged code inst kind es).map (e :: ·)

/-- Writes an entry to the staging area (R505): a repeat is counted, a full area drops the entry, counts LOG_LOST and
raises source 5. -/
def State.stage (s : State) (code inst cls detail : Nat) (kind : FaultKind) : State :=
  match bumpStaged code inst kind s.staging with
  | some es => { s with staging := es }
  | none =>
    if s.staging.length < stagingSize then
      let e : FaultEntry :=
        { seq := s.flogSeq, time := s.time, cal := s.calSec, calValid := s.calValid, kind := kind, cls := cls,
          code := code, inst := inst, repeats := 0, detail := detail, boot := s.tally tallyPowerCycles % 65536 }
      { s with
        staging := s.staging ++ [e]
        flogSeq := (s.flogSeq + 1) % 2 ^ 32 }
    else (s.count GLB_FLOG_STAT GLB_FLOG_STAT_LOG_LOST 1).raise 5 (faultValue code inst)

/-- Whether a fault is active. -/
def State.faultActive (s : State) (code inst : Nat) : Bool :=
  s.faults.any fun f => decide (f.code = code ∧ f.inst = inst)

/-- A fault of a class that is an event: logged, counted and notified, never active (R502, R503). -/
def State.faultEvent (s : State) (code inst cls detail : Nat) : State :=
  ((s.stage code inst cls detail .event).count GLB_FLT_CNT (fltCntField cls) 1).raise (classSource cls)
    (faultValue code inst)

/-- The raise of a fault below class F3 (R502): one already active with the same code and instance only counts a
repeat. -/
def State.faultRaise (s : State) (code inst cls detail : Nat) : State :=
  if s.faultActive code inst then s.stage code inst cls detail .raised
  else
    (({ (s.stage code inst cls detail .raised) with
        faults := s.faults ++ [{ code := code, inst := inst, cls := cls }] } : State).count
      GLB_FLT_CNT (fltCntField cls) 1).raise (classSource cls) (faultValue code inst)

/-- The end of an active fault (R502, R503 source 4); nothing where it is not active. -/
def State.faultEnd (s : State) (code inst : Nat) : State :=
  match s.faults.find? fun f => decide (f.code = code ∧ f.inst = inst) with
  | none => s
  | some f =>
    ({ (s.stage code inst f.cls (faultValue code inst) .ended) with
       faults := s.faults.filter fun g => !decide (g.code = code ∧ g.inst = inst) } : State).raise 4 (faultValue code inst)

/-- FAULT_MAX (R24): the highest class among the active faults. -/
def State.faultMax (s : State) : Nat := s.faults.foldl (fun m f => Nat.max m f.cls) 0

/-- The fault codes (R502). -/
def fltSupWdog : Nat := 0x0101
def fltSupEcc : Nat := 0x0102
def fltImageFallback : Nat := 0x0103
def fltHoldLow : Nat := 0x0104
def fltGrantLow : Nat := 0x0105
def fltPowerLoss : Nat := 0x0106
def fltInputHigh : Nat := 0x0107
def fltCritical : Nat := 0x0201
def fltThermal : Nat := 0x0202
def fltThermalTrip : Nat := 0x0203
def fltLinkDown : Nat := 0x0301
def fltQuarantine : Nat := 0x0302
def fltAddrConflict : Nat := 0x0303
def fltTimeLost : Nat := 0x0304
def fltTwinClash : Nat := 0x0305
def fltTwinAlone : Nat := 0x0306
def fltTwinNoTakeover : Nat := 0x0307
def fltTwinSplit : Nat := 0x0308
def fltShaftLimp : Nat := 0x0401
def fltShaftLost : Nat := 0x0402
def fltPort : Nat := 0x0501
def fltThread : Nat := 0x0601
def fltStoreFull : Nat := 0x0701
def fltHandoffFail : Nat := 0x0702
def fltNoDate : Nat := 0x0703
def fltGenExhausted : Nat := 0x0704
def fltLaneRdy : Nat := 0x0705
def fltImageUe : Nat := 0x0706
def fltPwmTrip : Nat := 0x0801
def fltBankSupply : Nat := 0x0802
def fltBankEnLost : Nat := 0x0803
def fltOut : Nat := 0x0804
def fltChain : Nat := 0x0805
def fltPoolUe : Nat := 0x0901
def fltTxnMissed : Nat := 0x0902
def fltWearLimit : Nat := 0x0A01
def fltCalInvalid : Nat := 0x0A02
def fltBattLow : Nat := 0x0A03
def fltGapOvf : Nat := 0x0A04
def fltHwmBad : Nat := 0x0A05

/-! ## Counting tallies (R459, R465) -/

/-- Source of wear limit `k` (R475). -/
def wearSource (k : Nat) : Nat := 1760 + k

/-- Limit `k` after its tally went from `old` to `new` by an increment (R465): the first value at or above the
threshold sets HIT, raises the source and logs a fault of class F0. -/
def State.wearCheck (s : State) (i old new k : Nat) : State :=
  if s.flag (TAL_LIM_CFG k) TAL_LIM_CFG_EN ∧ s.fld (TAL_LIM_CFG k) TAL_LIM_CFG_IDX = i ∧
      old < s.rg64 (TAL_LIM_LO k) ∧ s.rg64 (TAL_LIM_LO k) ≤ new then
    ((s.latch (TAL_LIM_CFG k) TAL_LIM_CFG_HIT).raise (wearSource k) i).faultEvent fltWearLimit k 0 i
  else s

/-- An increment of a tally in the present tick (R460, R461, R465). -/
def State.bumpTally (s : State) (i k : Nat) : State :=
  let old := s.tally i
  let new := satTo (2 ^ 64 - 1) (old + k)
  State.forEach 24 (fun t j => t.wearCheck i old new j) (s.setTally i new)

/-! ## Output drive (R26 to R28) -/

/-- OUT_LIVE (R26). -/
def State.outLive (s : State) : Bool :=
  s.flag GLB_STATUS GLB_STATUS_OUT_PERMIT && s.flag GLB_CTL GLB_CTL_OUT_EN && !s.flag GLB_STATUS GLB_STATUS_SAFE &&
    decide (s.fld GLB_STATUS GLB_STATUS_TWIN_ROLE ≠ 2) && s.leaseOk && !s.shutdown

/-- Outputs are high impedance in Watch and Off whatever OUT_LIVE says (R26). -/
def State.driveOn (s : State) : Bool := s.outLive && (decide (s.power = .run) || decide (s.power = .doze))

/-- The word of a register that acts in the present tick (R246, R284). -/
def State.actRg (s : State) (a : Nat) : Word :=
  match s.actOld.find? fun e => decide (e.1 = a) with
  | some e => e.2
  | none => s.rg a

/-- A field of the word of a register that acts in the present tick. -/
def State.actFld (s : State) (a : Nat) (f : Fld) : Nat := (s.actRg a).getF f

/-- A register takes a word by itself: where another was written in the present tick, the written one stands (R246). -/
def State.setActing (s : State) (a : Nat) (v : Word) : State :=
  if s.actOld.any fun e => decide (e.1 = a) then
    { s with actOld := s.actOld.map fun e => if e.1 = a then (a, v) else e }
  else s.setRg a v

/-- The word of a register that acts goes on acting until the tick ends, whatever is now written (R246, R284). -/
def State.keepActing (s : State) (a : Nat) : State :=
  if s.actOld.any fun e => decide (e.1 = a) then s else { s with actOld := s.actOld ++ [(a, s.rg a)] }

/-- What has been written to a register acts from now on. -/
def State.actNow (s : State) (a : Nat) : State := { s with actOld := s.actOld.filter fun e => decide (e.1 ≠ a) }

/-- Numbers of the level outputs: event lines, precision outputs, expander outputs (R459). -/
def outLine (i : Nat) : Nat := i
def outPrecision (j : Nat) : Nat := 128 + j
def outExpander (x : Nat) : Nat := 144 + x

/-- Whether drive reaches a level output's pin, apart from R28: an event line needs OUT_LIVE, DIR = 1, BS_OK, BANK_EN
and no OUT_FAULT (R26, R271, R272, R276, R277); a precision output needs OUT_LIVE and EN (R278); an expander output
needs a driven frame on its chain (R283). -/
def State.driven (s : State) (o : Nat) : Bool :=
  s.driveOn &&
    (if o < 128 then
      decide ((s.actRg (FIO_EL_CFG o)).getF FIO_EL_CFG_DIR = 1) && s.flag (FIO_BANK_STAT (o / 16)) FIO_BANK_STAT_BS_OK &&
        s.flag (FIO_BANK_STAT (o / 16)) FIO_BANK_STAT_BANK_EN &&
        !bitOf (s.fld (FIO_BANK_STAT (o / 16)) FIO_BANK_STAT_OUT_FAULT) (o % 16)
    else if o < 144 then s.flag (FIO_PO_CFG (o - 128)) FIO_PO_CFG_EN
    else (s.chain ((o - 144) / 512)).live)

/-- The software assertion of a level output (R276, R280). -/
def State.swBit (s : State) (o : Nat) : Bool :=
  if o < 128 then bitOf ((s.actRg (FIO_BANK_SW (o / 16))).getF FIO_BANK_SW_SW) (o % 16)
  else if o < 144 then false
  else bitOf (s.actRg (FIO_CH_SW ((o - 144) / 512) ((o - 144) % 512 / 32))).toNat ((o - 144) % 32)

/-- The logic state that a level output's drivers ask for (R82, R133, R276, R278, R280). -/
def State.wants (s : State) (o : Nat) : Bool :=
  if 128 ≤ o ∧ o < 144 ∧ s.fld (FIO_PO_CFG (o - 128)) FIO_PO_CFG_SRC ≠ 0 then (s.out o).emu
  else decide (0 < (s.out o).events) || !(s.out o).edges.isEmpty || (s.out o).lastEnd.isSome || s.swBit o

/-- Marks an expander position as asserted since the last snapshot (R280). -/
def State.markPulse (s : State) (o : Nat) : State :=
  if o < 144 then s
  else
    let c := (o - 144) / 512
    s.setChain c { s.chain c with pulsed := Nat.lor (s.chain c).pulsed (2 ^ ((o - 144) % 512)) }

/-- Brings a level output's logic to what its drivers ask for. An assertion that reaches a driven pin of an event line
or a precision output counts in its tally (R27, R459); an output held under R28 is freed when its logic goes
inactive. -/
def State.refresh (s : State) (o : Nat) : State :=
  let x := s.out o
  let w := s.wants o
  if w = x.on then s
  else if w then
    let t := (s.setOut o { x with on := true }).markPulse o
    if o < 144 ∧ s.driven o ∧ ¬x.hold then t.bumpTally o 1 else t
  else s.setOut o { x with on := false, hold := false }

/-- Holds an output whose logic is active when drive returns (R28). -/
def State.holdOut (s : State) (o : Nat) : State :=
  let x := s.out o
  if x.on then s.setOut o { x with hold := true } else s

/-- Holds every listed output of a range whose logic is active (R28). -/
def State.holdRange (s : State) (lo hi : Nat) : State :=
  s.outs.foldl (fun t e => if lo ≤ e.1 ∧ e.1 < hi then t.holdOut e.1 else t) s

/-! ## Shaft readings used by other units (R46, R73) -/

/-- ANG_VALID: 1 in SYNCED and LIMP (SHFn_STATE). -/
def State.angValid (s : State) (n : Nat) : Bool :=
  decide ((s.shaft n).st = .synced) || decide ((s.shaft n).st = .limp)

/-- The firing angle φ in 2^-16 ang (R73): the reported angle with the fraction bits of mu, held while ANG_VALID is 0
(R46). -/
def State.phi (s : State) (n : Nat) : Int := (s.shaft n).fine

/-- The integer unwrapped angle in ang that SHFn_ANGLE shows (R49): whole microsteps. -/
def State.phiInt (s : State) (n : Nat) : Int := (s.shaft n).disp / 65536

/-- A difference of two unwrapped angles in ang: their 64-bit two's complement difference (R3). -/
def angDiff (a b : Int) : Int := signed 64 (unsigned 64 (a - b))

/-- φ stands at or past an unwrapped angle in ang, by their difference (R3). -/
def State.phiPast (s : State) (n : Nat) (a : Int) : Bool := decide (0 ≤ angDiff (s.phi n / 65536) a)

/-- The angle congruent to `a` modulo 2^64 ang that lies nearest to the whole ang of φ: where an unwrapped angle given as
64 bits stands on the shaft (R3). -/
def State.angleNear (s : State) (n : Nat) (a : Int) : Int := s.phi n / 65536 + angDiff a (s.phi n / 65536)

/-- EN of shaft `n`. -/
def State.shaftEn (s : State) (n : Nat) : Bool := s.flag (SHF_CFG n) SHF_CFG_EN

/-! ## Register writes (R7, R9, R335, R336) -/

/-- A register write as its unit judges it: the address, the address of the first register of its
array, the word as it reads, the word its RW fields would hold, and the bits of 1 written to the W1C, W1S, WO and SC
fields inside the mask. -/
structure Wr where
  addr : Nat
  base : Nat
  old : Word
  new : Word
  act : Word
  deriving DecidableEq, Repr

/-- A write changes a bit of `m` (R33 and its like). -/
def Wr.changes (w : Wr) (m : Word) : Bool := decide ((w.old ^^^ w.new) &&& m ≠ 0)

/-- A field of the word the write would leave. -/
def Wr.fld (w : Wr) (f : Fld) : Nat := w.new.getF f

/-- A field of the word before the write. -/
def Wr.was (w : Wr) (f : Fld) : Nat := w.old.getF f

/-- A 1 was written to an acting field. -/
def Wr.acts (w : Wr) (f : Fld) : Bool := decide (w.act.getF f ≠ 0)

/-- The write of a register with no rule of its own (R7): RW fields take the written bits, a W1C bit written 1 clears,
a W1S bit written 1 sets; a bit the hardware has set in this tick prevails (R8). -/
def State.plainWrite (s : State) (w : Wr) : State :=
  match regAt w.addr with
  | none => s
  | some (d, _, _) =>
    s.setRg w.addr (((s.rg w.addr &&& ~~~ d.mask .rw) ||| (w.new &&& d.mask .rw)) &&&
      ~~~ (w.act &&& d.mask .w1c &&& ~~~ (s.freshAt w.addr).plus) |||
      (w.act &&& d.mask .w1s))

/-! ## Sparse maps of units, changed unit by unit -/

/-- A function over the listed numbers of a sparse map, in ascending order. -/
def State.overKeys {α : Type} (m : FMap α) (f : State → Nat → State) (s : State) : State :=
  m.foldl (fun t e => f t e.1) s

end Sys2Proof.Machine
end

