-- ==== Sys2Proof/Machine/Pool.lean ====
section
/-! DEFINITION. The buffer pool (R300 to R309, R316): its memory, its blocks, claims, protection and scrubbing. -/

namespace Sys2Proof.Machine

/-! ## Memory -/

/-- What a byte of the pool that nothing has written reads as (R316: the pool reads as zeros). -/
def poolBlank : Byte := 0

/-- Bytes in a block, blocks in the pool, and the pool's size. -/
def blockSize : Nat := 4096
def poolBlocks : Nat := 131072
def poolSize : Nat := 536870912

/-- A byte of a memory. -/
def memRead (m : List Host.Cell) (a : Nat) : Byte := FMap.get (fun _ => poolBlank) m a

/-- The memory with a byte written; writing the blank value removes the entry. -/
def memWrite (m : List Host.Cell) (a : Nat) (b : Byte) : List Host.Cell := FMap.set (fun _ => poolBlank) m a b

/-- The canonical form of a memory: addresses strictly rising, no entry equal to the blank value. -/
def Memory.wf (m : List Host.Cell) : Bool := FMap.wf (fun _ => poolBlank) m

/-- The memory with bytes written from an address up. -/
def memWriteAll : List Host.Cell → Nat → List Byte → List Host.Cell
  | m, _, [] => m
  | m, a, b :: bs => memWriteAll (memWrite m a b) (a + 1) bs

/-- `n` bytes of a memory from an address up. -/
def memReadAll (m : List Host.Cell) (a n : Nat) : List Byte := (List.range n).map fun i => memRead m (a + i)

/-- Whether the 8-byte word that holds a pool address is poisoned (R300). -/
def State.poisoned (s : State) (a : Nat) : Bool := FMap.get (fun _ => false) s.poison (a / 8)

/-- Whether any word of a pool range is poisoned. -/
def State.rangePoisoned (s : State) (a n : Nat) : Bool :=
  s.poison.any fun e => e.2 && decide (a < e.1 * 8 + 8) && decide (e.1 * 8 < a + n)

/-- Pool bytes read. -/
def State.poolRead (s : State) (a n : Nat) : List Byte := memReadAll s.pool a n

/-- Clears the poison of the words that a write replaces whole (R300). -/
def State.unpoison (s : State) (a n : Nat) : State :=
  { s with poison := s.poison.filter fun e => !(decide (a ≤ e.1 * 8) && decide (e.1 * 8 + 8 ≤ a + n)) }

/-- Pool bytes written; a write replaces whole words and so clears their poison (R300). -/
def State.poolWrite (s : State) (a : Nat) (bs : List Byte) : State :=
  { (s.unpoison a bs.length) with pool := memWriteAll s.pool a bs }

/-! ## Blocks and claims -/

/-- The claim that holds a block; none where it is free. -/
def State.blockClaim (s : State) (b : Nat) : Option Nat :=
  (s.extents.find? fun e => decide (e.first ≤ b) && decide (b < e.first + e.count)).map Extent.claim

/-- HELD of a claim. -/
def State.held (s : State) (c : Nat) : Nat :=
  s.extents.foldl (fun n e => if e.claim = c then n + e.count else n) 0

/-- RESERVE and QUOTA of a claim. -/
def State.reserve (s : State) (c : Nat) : Nat := s.fld (POL_CL_RES c) POL_CL_RES_RESERVE
def State.quota (s : State) (c : Nat) : Nat := s.fld (POL_CL_QUOTA c) POL_CL_QUOTA_QUOTA

/-- The sum of max(HELD, RESERVE) over all claims (R303). -/
def State.committedBlocks (s : State) : Nat :=
  (List.range 64).foldl (fun n c => n + Nat.max (s.held c) (s.reserve c)) 0

/-- U, the unreserved free blocks (R303). -/
def State.unreserved (s : State) : Nat := poolBlocks - s.committedBlocks

/-- All blocks held, and free. -/
def State.heldBlocks (s : State) : Nat := s.extents.foldl (fun n e => n + e.count) 0

/-- Source of claim `c` (R308). -/
def claimSource (c : Nat) : Nat := 1696 + c

/-- The admission of an allocation (R303). -/
def State.allocAdmits (s : State) (c n : Nat) : Bool :=
  decide (s.held c + n ≤ s.quota c) &&
    decide (Nat.max (s.held c + n) (s.reserve c) - Nat.max (s.held c) (s.reserve c) ≤ s.unreserved)

/-- The lowest run of `n` free blocks from `pos` up, among extents in ascending order (R306). -/
def lowestRun (n : Nat) : Nat → List Extent → Option Nat
  | pos, [] => if pos + n ≤ poolBlocks then some pos else none
  | pos, e :: es => if pos + n ≤ e.first then some pos else lowestRun n (Nat.max pos (e.first + e.count)) es

/-- An extent put at its place in ascending order. -/
def putExtent (x : Extent) : List Extent → List Extent
  | [] => [x]
  | e :: es => if x.first < e.first then x :: e :: es else e :: putExtent x es

/-- What is left of an extent when a range of blocks is freed. -/
def Extent.without (e : Extent) (first count : Nat) : List Extent :=
  let lo := { e with count := Nat.min (e.first + e.count) first - e.first }
  let hiFrom := Nat.max e.first (first + count)
  let hi := { e with first := hiFrom, count := e.first + e.count - hiFrom }
  [lo, hi].filter fun x => decide (0 < x.count)

/-- A refused ALLOC (R306). -/
def State.allocRefused (s : State) (c : Nat) : State :=
  (s.count (POL_CL_CNT c) POL_CL_CNT_REFUSED 1).raise (claimSource c) 1

/-- QUOTA_OVER clears in the first operation that leaves HELD at or below QUOTA (R307). -/
def State.quotaSettle (s : State) (c : Nat) : State :=
  if s.held c ≤ s.quota c then s.setFlag (POL_CL_HELD c) POL_CL_HELD_QUOTA_OVER false else s

/-- ALLOC (R306): the state, the status and the first block. -/
def State.claimAlloc (s : State) (c n : Nat) : State × Status × Nat :=
  if s.allocAdmits c n then
    match lowestRun n 0 s.extents with
    | some b => ({ s with extents := putExtent { first := b, count := n, claim := c } s.extents }, .ok, b)
    | none => (s.allocRefused c, .nospace, 0)
  else (s.allocRefused c, .quota, 0)

/-- CONFIGURE (R307). -/
def State.claimConfigure (s : State) (c reserve quota : Nat) : State × Status :=
  if quota < reserve ∨ poolBlocks < quota then (s, .range)
  else if s.reserve c < reserve ∧ s.unreserved < Nat.max (s.held c) reserve - Nat.max (s.held c) (s.reserve c) then
    (s, .nospace)
  else
    let t := (s.setFld (POL_CL_RES c) POL_CL_RES_RESERVE reserve).setFld (POL_CL_QUOTA c) POL_CL_QUOTA_QUOTA quota
    (if quota < t.held c then (t.setFlag (POL_CL_HELD c) POL_CL_HELD_QUOTA_OVER true).raise (claimSource c) 2
     else t.quotaSettle c, .ok)

/-- The blocks of a raster lane's ring (R183). -/
def State.ringBase (s : State) (n : Nat) : Nat := s.fld (CMP_RQ_BASE n) CMP_RQ_BASE_BASE
def State.ringSize (s : State) (n : Nat) : Nat := s.fld (CMP_RQ_SIZE n) CMP_RQ_SIZE_SIZE
def State.ringEn (s : State) (n : Nat) : Bool := s.flag (CMP_RQ_SIZE n) CMP_RQ_SIZE_EN

/-- Whether a range of blocks meets an enabled composer ring (R306). -/
def State.meetsRing (s : State) (first count : Nat) : Bool :=
  (List.range 8).any fun n => s.ringEn n && decide (first < s.ringBase n + s.ringSize n) &&
    decide (s.ringBase n < first + count)

/-- Whether every block of a range is held by a claim. -/
def State.rangeHeldBy (s : State) (c first count : Nat) : Bool :=
  decide ((s.extents.foldl (fun n e =>
    if e.claim = c then n + (Nat.min (e.first + e.count) (first + count) - Nat.max e.first first) else n) 0) = count)

/-- Whether any block of a range is free. -/
def State.rangeHasFree (s : State) (first count : Nat) : Bool :=
  decide ((s.extents.foldl (fun n e =>
    n + (Nat.min (e.first + e.count) (first + count) - Nat.max e.first first)) 0) ≠ count)

/-- FREE (R306). -/
def State.claimFree (s : State) (c first count : Nat) : State × Status :=
  if ¬s.rangeHeldBy c first count ∨ s.meetsRing first count then (s, .state)
  else (({ s with extents := s.extents.flatMap fun e => e.without first count } : State).quotaSettle c, .ok)

/-- The argument checks of CLAIM_SET (R305). -/
def claimArgsOk (arg : Nat) (body : List Byte) : Bool :=
  let op := bitsOf arg 11 8
  let n := leAt body 0 4
  decide (arg / 2 ^ 12 = 0) && decide (bitsOf arg 7 6 = 0) &&
    (if op = 0 then decide (body.length = 8)
     else if op = 1 then decide (body.length = 4) && decide (1 ≤ n) && decide (n ≤ 4096)
     else if op = 2 then decide (body.length = 8) && decide (1 ≤ leAt body 4 4) && decide (leAt body 4 4 ≤ 4096)
     else false)

/-- CLAIM_SET (R305): the state, the status and RESULT. -/
def State.claimSet (s : State) (arg : Nat) (body : List Byte) : State × Status × Nat :=
  if claimArgsOk arg body then
    let c := bitsOf arg 5 0
    let op := bitsOf arg 11 8
    if op = 0 then
      let r := s.claimConfigure c (leAt body 0 4) (leAt body 4 4)
      (r.1, r.2, 0)
    else if op = 1 then s.claimAlloc c (leAt body 0 4)
    else
      let r := s.claimFree c (leAt body 0 4) (leAt body 4 4)
      (r.1, r.2, 0)
  else (s, .range, 0)

/-! ## POOL_WRITE and POOL_READ -/

/-- The checks of a pool offset and length that depend on the record alone (R309). -/
def poolRangeOk (off n : Nat) : Bool :=
  decide (off % 8 = 0) && decide (8 ≤ n) && decide (n ≤ 1024) && decide (n % 8 = 0) && decide (off + n ≤ poolSize)

/-- The blocks a pool range touches: the first and their number. -/
def blocksOf (off n : Nat) : Nat × Nat := (off / blockSize, (off + n - 1) / blockSize - off / blockSize + 1)

/-- POOL_WRITE (R309). -/
def State.poolWriteCmd (s : State) (off : Nat) (body : List Byte) : State × Status :=
  if poolRangeOk off body.length then
    let b := blocksOf off body.length
    if s.rangeHasFree b.1 b.2 then (s, .state) else (s.poolWrite off body, .ok)
  else (s, .range)

/-! ## Protection (R300, R301) -/

/-- An uncorrectable error found in a word: it is poisoned, and the first of its block is recorded, raised and logged
(R300). -/
def State.poolUe (s : State) (a : Nat) : State :=
  let blk := a / blockSize
  let known := s.poison.any fun e => e.2 && decide (e.1 * 8 / blockSize = blk)
  let s1 : State := { s with poison := FMap.set (fun _ => false) s.poison (a / 8) true }
  let s2 := s1.count POL_ECC POL_ECC_UE 1
  if known then s2
  else
    let s3 := if s2.flag POL_UE_BLK POL_UE_BLK_VALID then s2
      else (s2.latch POL_UE_BLK POL_UE_BLK_VALID).setFld POL_UE_BLK POL_UE_BLK_BLOCK blk
    let s4 := match s3.blockClaim blk with
      | some c => s3.raise (claimSource c) 4
      | none => s3
    s4.faultEvent fltPoolUe (s.blockClaim blk |>.getD 0) 1 blk

/-- SCRUB (R301): the scrubber reads its next `RATE × 64` blocks; errors it finds in them are corrected or poisoned. -/
def State.scrub (s : State) (finds : List EccFind) : State :=
  let n := s.fld POL_SCRUB POL_SCRUB_RATE * 64
  let inWindow (w : Nat) : Bool :=
    decide ((w * 8 / blockSize + poolBlocks - s.scrubPos) % poolBlocks < n)
  let s1 := finds.foldl (fun t f =>
    match f with
    | .corrected w => if inWindow w then t.count POL_ECC POL_ECC_CE 1 else t
    | .uncorrectable w => if inWindow w then t.poolUe (w * 8) else t) s
  let p := s.scrubPos + n
  let s2 : State := { s1 with scrubPos := p % poolBlocks }
  if poolBlocks ≤ p then s2.count POL_SCRUB POL_SCRUB_PASSES 1 else s2

/-! ## Registers -/

/-- A register of the POL block as it reads (R317). -/
def State.viewPool (s : State) (b c a : Nat) : Word :=
  if b = POL_STAT then BitVec.ofNat 32 (poolBlocks - s.heldBlocks)
  else if b = POL_UNRES then BitVec.ofNat 32 s.unreserved
  else if b = POL_RSUM then BitVec.ofNat 32 ((List.range 64).foldl (fun n k => n + s.reserve k) 0)
  else if b = POL_CL_HELD 0 then (s.rg a).setF POL_CL_HELD_HELD (s.held c)
  else s.rg a

end Sys2Proof.Machine
end

