-- ==== Sys2Proof/Machine/Dma.lean ====
section
/-! DEFINITION. DMA channels (R310 to R316): runs, their ends, and the registers of the DMA block. Bursts stand in
Burst.lean. -/

namespace Sys2Proof.Machine

/-- DMA channel `n`. -/
def State.dma (s : State) (n : Nat) : Dma := FMap.get (fun _ => Dma.init) s.dmas n

/-- The state with DMA channel `n` replaced. -/
def State.setDma (s : State) (n : Nat) (x : Dma) : State :=
  { s with dmas := FMap.set (fun _ => Dma.init) s.dmas n x }

/-- STATUS of a channel (R317). -/
def dmaIdle : Nat := 0
def dmaRunning : Nat := 1
def dmaDone : Nat := 2
def dmaAborted : Nat := 3
def dmaError : Nat := 4

/-- CAUSE of a channel (R317). -/
def dmaAddr : Nat := 1
def dmaAccess : Nat := 2
def dmaEcc : Nat := 3
def dmaDescBad : Nat := 4

/-- Source of channel `n` (R314). -/
def dmaSource (n : Nat) : Nat := 1664 + n

/-- A channel is RUNNING. -/
def State.dmaRuns (s : State) (n : Nat) : Bool := decide (s.fld (DMA_STAT n) DMA_STAT_STATUS = dmaRunning)

/-- The initial value of the running CRC (R313). -/
def dmaCrcInit (sel : Nat) : Word := if sel = 1 then 0xFFFFFFFF else if sel = 2 then 0xFFFF else 0

/-- DMA_START (R313, R315): a run starts at DMAn_DESC. -/
def State.dmaStart (s : State) (n : Nat) : State :=
  let s1 := ((s.setFld (DMA_STAT n) DMA_STAT_STATUS dmaRunning).setFld (DMA_STAT n) DMA_STAT_CAUSE 0).setRg (DMA_COUNT n) 0
  let s2 := (s1.setFld (DMA_CUR n) DMA_CUR_CUR (s.fld (DMA_DESC n) DMA_DESC_DESC)).setRg (DMA_CRC n)
    (dmaCrcInit (s.fld (DMA_CTL n) DMA_CTL_CRC_SEL))
  s2.setDma n { s2.dma n with desc := none, moved := 0 }

/-- A run ends (R314): EN reads 0 and the source is raised as NTF_DONE and NTF_ERR say. -/
def State.dmaEnd (s : State) (n status cause : Nat) : State :=
  let a := DMA_CTL n
  let s1 := ((s.setFld (DMA_STAT n) DMA_STAT_STATUS status).setFld (DMA_STAT n) DMA_STAT_CAUSE cause).setFlag a DMA_CTL_EN
    false
  let s2 := s1.setDma n { s1.dma n with desc := none, moved := 0 }
  if status = dmaDone ∧ s.flag a DMA_CTL_NTF_DONE then s2.raise (dmaSource n) 1
  else if status = dmaAborted ∧ s.flag a DMA_CTL_NTF_DONE then s2.raise (dmaSource n) 2
  else if status = dmaError ∧ s.flag a DMA_CTL_NTF_ERR then s2.raise (dmaSource n) 4
  else s2

/-- DMA_ABORT (R314): a run that is RUNNING ends as ABORTED. -/
def State.dmaAbort (s : State) (n : Nat) : State := if s.dmaRuns n then s.dmaEnd n dmaAborted 0 else s

/-- Every run is aborted (R316, R500). -/
def State.dmaAbortAll (s : State) : State := State.forEach 32 (fun t n => t.dmaAbort n) s

/-- The fields of DMAn_CTL that may change while RUNNING (R315). -/
def dmaFreeMask : Word := DMA_CTL_EN.mask ||| DMA_CTL_NTF_DONE.mask ||| DMA_CTL_NTF_ERR.mask

/-- The write of a register of channel `n` (R315, R317). -/
def State.writeDma (s : State) (n : Nat) (w : Wr) : State × Status :=
  if w.base = DMA_CTL 0 then
    if s.dmaRuns n then
      if w.changes (~~~ dmaFreeMask) then (s, .state)
      else if w.fld DMA_CTL_EN = 0 then ((s.plainWrite w).dmaAbort n, .ok)
      else (s.plainWrite w, .ok)
    else if w.fld DMA_CTL_EN = 1 then
      if w.fld DMA_CTL_CRC_SEL = 3 then (s, .range) else ((s.plainWrite w).dmaStart n, .ok)
    else (s.plainWrite w, .ok)
  else if w.base = DMA_DESC 0 then (if s.dmaRuns n then (s, .state) else (s.plainWrite w, .ok))
  else (s.plainWrite w, .ok)

/-! ## Descriptors (R310, R311) -/

/-- Modes of addresses (R311). -/
def modeInc : Nat := 0
def modeFixed : Nat := 1
def modeWin : Nat := 2

/-- The end of a list. -/
def dmaListEnd : Nat := 0xFFFFFFFF

/-- An address names a register. -/
def dmaIsReg (a : Nat) : Bool := bitOf a 31

/-- An address as R311 allows it: no reserved bit, a register address aligned. -/
def dmaAddrOk (a : Nat) : Bool :=
  if dmaIsReg a then decide (bitsOf a 30 24 = 0) && decide (a % 4 = 0) else decide (bitsOf a 30 29 = 0)

/-- The descriptor that 32 bytes spell; none where a value is reserved or misaligned (R310, R311). -/
def DmaDesc.ofBytes (bs : List Byte) : Option DmaDesc :=
  let w (i : Nat) : Nat := leAt bs (4 * i) 4
  let d : DmaDesc :=
    { src := w 0, dst := w 1, len := bitsOf (w 2) 24 0, srcMode := bitsOf (w 3) 1 0, dstMode := bitsOf (w 3) 3 2,
      burst := 16 * 2 ^ bitsOf (w 3) 6 4, ntf := bitOf (w 3) 7, req := bitOf (w 3) 8, next := w 4 }
  if dmaAddrOk d.src ∧ dmaAddrOk d.dst ∧ bitsOf (w 2) 31 25 = 0 ∧ 4 ≤ d.len ∧ d.len ≤ 16777216 ∧ d.len % 4 = 0 ∧
      d.srcMode ≠ 3 ∧ d.dstMode ≠ 3 ∧ d.burst ≤ 256 ∧ bitsOf (w 3) 31 9 = 0 ∧ (d.next = dmaListEnd ∨ d.next % 32 = 0) ∧
      w 5 = 0 ∧ w 6 = 0 ∧ w 7 = 0 then
    some d
  else none

/-- The address of byte `i` of a move (R311). -/
def dmaByteAt (base mode i : Nat) : Nat :=
  if mode = modeInc then base + i else if mode = modeFixed then base else base + i % 16

/-- The register address that a DMA address names. -/
def dmaRegAt (a : Nat) : Nat := a % 2 ^ 24

/-- Whether a pool byte lies in a block held by the channel's claim. -/
def State.dmaHolds (s : State) (n a : Nat) : Bool :=
  decide (a < poolSize) && decide (s.blockClaim (a / blockSize) = some (s.fld (DMA_CTL n) DMA_CTL_CLAIM))

/-- Whether the request line of channel `n` is active (R294, R312). -/
def State.dmaRequest (s : State) (n : Nat) : Bool :=
  (List.range 4).any fun c =>
    s.flag (ADC_C_CFG c) ADC_C_CFG_DMA_EN && decide (s.fld (ADC_C_CFG c) ADC_C_CFG_DMA_CH = n) &&
      decide (s.fld (ADC_C_CFG c) ADC_C_CFG_DMA_THR ≤ (s.adc c).queue.length)

end Sys2Proof.Machine
end

