-- ==== Sys2Proof/Machine/Adc.lean ====
section
/-! DEFINITION. Analogue inputs (R286 to R299): triggers, delays, steps, results and the registers of the ADC block. -/

namespace Sys2Proof.Machine

/-- Conversion lasts 150 ticks after the hold edge (R287). -/
def convTicks : Nat := 150

/-- Entries of a converter's queue (R292). -/
def adcDepth : Nat := 64

/-- The sequence of a converter: regular or injected. -/
def Adc.seq (x : Adc) (inj : Bool) : AdcSeq := if inj then x.inj else x.reg

/-- The converter with a sequence replaced. -/
def Adc.setSeq (x : Adc) (inj : Bool) (q : AdcSeq) : Adc := if inj then { x with inj := q } else { x with reg := q }

/-- The state with a sequence of converter `c` replaced. -/
def State.setAdcSeq (s : State) (c : Nat) (inj : Bool) (q : AdcSeq) : State := s.setAdc c ((s.adc c).setSeq inj q)

/-- Steps of a sequence less one (LEN). -/
def State.adcLen (s : State) (c : Nat) (inj : Bool) : Nat :=
  if inj then s.fld (ADC_C_INJ c) ADC_C_INJ_LEN else s.fld (ADC_C_REG c) ADC_C_REG_LEN

/-- DLY of a sequence. -/
def State.adcDly (s : State) (c : Nat) (inj : Bool) : Nat :=
  if inj then s.fld (ADC_C_INJ_DLY c) ADC_C_INJ_DLY_DLY else s.fld (ADC_C_REG_DLY c) ADC_C_REG_DLY_DLY

/-- SRC and SRC_IDX of a sequence. -/
def State.adcSrc (s : State) (c : Nat) (inj : Bool) : Nat × Nat :=
  if inj then (s.fld (ADC_C_INJ c) ADC_C_INJ_SRC, s.fld (ADC_C_INJ c) ADC_C_INJ_SRC_IDX)
  else (s.fld (ADC_C_REG c) ADC_C_REG_SRC, s.fld (ADC_C_REG c) ADC_C_REG_SRC_IDX)

/-- The step register of a sequence's step. -/
def State.adcStep (s : State) (c : Nat) (inj : Bool) (k : Nat) : Nat × Nat :=
  if inj then (s.fld (ADC_C_ISTEP c k) ADC_C_ISTEP_ACQ, s.fld (ADC_C_ISTEP c k) ADC_C_ISTEP_INPUT)
  else (s.fld (ADC_C_RSTEP c k) ADC_C_RSTEP_ACQ, s.fld (ADC_C_RSTEP c k) ADC_C_RSTEP_INPUT)

/-- EN of converter `c`. -/
def State.adcEn (s : State) (c : Nat) : Bool := s.flag (ADC_C_CFG c) ADC_C_CFG_EN

/-- Whether a sequence is delayed, waiting, held or running, or its last result has not entered the queue (R289). -/
def AdcSeq.busy (q : AdcSeq) : Bool := decide (q.phase ≠ .idle) || q.closing

/-- Whether a sequence has a step in acquisition or conversion. -/
def AdcSeq.stepping (q : AdcSeq) : Bool :=
  match q.phase with
  | .acquiring _ => true
  | .converting _ => true
  | _ => false

/-- The hold bit of the governor counts for a converter (R291). -/
def State.adcHeld (s : State) (c : Nat) : Bool :=
  bitOf (s.fld ADC_HOLD ADC_HOLD_HOLD) c && decide (s.fld (ADC_C_REG c) ADC_C_REG_CLASS ≠ 0)

/-- A sequence is busy, or a step of it that a disable left in conversion goes on (R289, R296). -/
def State.adcBusy (s : State) (c : Nat) (inj : Bool) : Bool :=
  ((s.adc c).seq inj).busy || ((s.adc c).tail.any fun e => decide (e.2.inj = inj))

/-- The delay of a sequence starts, counted from tick `t` (R289). -/
def State.adcArm (s : State) (c : Nat) (inj : Bool) (t : Nat) : State :=
  s.setAdcSeq c inj
    { (s.adc c).seq inj with phase := .delayed (t + s.adcDly c inj), step := 0, trigTick := t, restarted := false }

/-- A trigger of a sequence in this tick (R289): lost where the sequence is busy, has completed in this very tick, or EN is
0. Several in one tick count as one (R288). -/
def State.adcTrigger (s : State) (c : Nat) (inj : Bool) : State :=
  let q := (s.adc c).seq inj
  let t := s.setAdcSeq c inj { q with trigAt := some s.time }
  if q.trigAt = some s.time then s
  else if s.adcBusy c inj || decide (q.doneAt = some s.time) || !s.adcEn c then
    (t.count (ADC_C_CNT0 c) (if inj then ADC_C_CNT0_INJ_LOST else ADC_C_CNT0_REG_LOST) 1).raise (124 + c) 2
  else t.adcArm c inj s.time

/-- REG_TRIG or INJ_TRIG is written: the trigger comes in the next tick (R288, R298). -/
def State.adcAsk (s : State) (c : Nat) (inj : Bool) : State := s.setAdcSeq c inj { (s.adc c).seq inj with asked := true }

/-- The triggers that were written in the tick before come (R298). -/
def State.adcsTick (s : State) : State :=
  let take (t : State) (c : Nat) (inj : Bool) : State :=
    let q := (t.adc c).seq inj
    if q.asked then (t.setAdcSeq c inj { q with asked := false }).adcTrigger c inj else t
  State.forEach 4 (fun t c => take (take t c false) c true) s

/-- Starts the present step of a sequence in this tick (R287). -/
def State.adcBegin (s : State) (c : Nat) (inj : Bool) : State :=
  let q := (s.adc c).seq inj
  s.setAdcSeq c inj { q with phase := .acquiring (s.time + (s.adcStep c inj q.step).1) }

/-- A timer match, or a PWM trigger, offered to every sequence that selects it (R239, R260, R288). -/
def State.adcOffer (s : State) (src idx : Nat) : State :=
  State.forEach 4 (fun t c =>
    let u := if t.adcSrc c false = (src, idx) then t.adcTrigger c false else t
    if u.adcSrc c true = (src, idx) then u.adcTrigger c true else u) s

/-- A trigger that generator `g` offers to converter `c` (R260, R288). -/
def State.adcOfferPwm (s : State) (c g : Nat) : State :=
  let u := if s.adcSrc c false = (2, g) then s.adcTrigger c false else s
  if u.adcSrc c true = (2, g) then u.adcTrigger c true else u

/-- A start of an Almanac event of kind 5 for converter `c` (R81, R288). -/
def State.adcAlm (s : State) (c : Nat) : State := if (s.adcSrc c true).1 = 3 then s.adcTrigger c true else s

/-- The deadline of a class B regular sequence has come (R291). -/
def State.adcAtDeadline (s : State) (c : Nat) : Bool :=
  decide (s.fld (ADC_C_REG c) ADC_C_REG_CLASS = 1) &&
    decide ((s.adc c).reg.trigTick + s.fld (ADC_C_REG_DLY c) ADC_C_REG_DLY_DEADLINE * ticksUs ≤ s.time)

/-- The converter is taken by the injected sequence, or by a step that a disable left in conversion (R290, R296). -/
def State.adcTaken (s : State) (c : Nat) : Bool := (s.adc c).inj.stepping || (s.adc c).tail.isSome

/-- The regular sequence starts, is held by the governor, or waits for the converter (R290, R291). -/
def State.adcRegDue (s : State) (c : Nat) : State :=
  if s.adcTaken c then s.setAdcSeq c false { (s.adc c).reg with phase := .waiting }
  else if s.adcHeld c ∧ ¬s.adcAtDeadline c then
    ((s.setAdcSeq c false { (s.adc c).reg with phase := .held }).setFlag (ADC_C_STAT c) ADC_C_STAT_HELD true).count
      (ADC_C_CNT1 c) ADC_C_CNT1_DEFERRED 1
  else s.adcBegin c false

/-- Resumes or starts a regular sequence that waited for the injected one (R290). -/
def State.adcResume (s : State) (c : Nat) : State :=
  let q := (s.adc c).reg
  match q.phase with
  | .waiting =>
    if q.restarted then (s.count (ADC_C_CNT0 c) ADC_C_CNT0_RESTARTS 1).adcBegin c false
    else if q.step = 0 then s.adcRegDue c
    else s.adcBegin c false
  | _ => s

/-- The injected sequence falls due (R290). A regular step that starts in this very tick starts after it (R298). -/
def State.adcInjDue (s : State) (c : Nat) : State :=
  if (s.adc c).tail.isSome then s.setAdcSeq c true { (s.adc c).inj with phase := .waiting }
  else match (s.adc c).reg.phase with
  | .acquiring h =>
    if h = s.time + (s.adcStep c false (s.adc c).reg.step).1 then
      (s.setAdcSeq c false { (s.adc c).reg with phase := .waiting }).adcBegin c true
    else if s.flag (ADC_C_CFG c) ADC_C_CFG_INJ_ABORT then
      (s.setAdcSeq c false { (s.adc c).reg with phase := .waiting, restarted := true }).adcBegin c true
    else s.setAdcSeq c true { (s.adc c).inj with phase := .waiting }
  | .converting e =>
    if s.flag (ADC_C_CFG c) ADC_C_CFG_INJ_ABORT ∧ s.time < e then
      (s.setAdcSeq c false { (s.adc c).reg with phase := .waiting, restarted := true }).adcBegin c true
    else s.setAdcSeq c true { (s.adc c).inj with phase := .waiting }
  | _ => s.adcBegin c true

/-- The delay of a sequence has expired (R289, R290, R291). -/
def State.adcDelayDue (s : State) (c : Nat) (inj : Bool) : Bool :=
  match ((s.adc c).seq inj).phase with
  | .delayed u => decide (u ≤ s.time)
  | _ => false

/-- SEQUENCE_DELAY_EXPIRY: a delay that has expired lets its sequence start, wait or be held (R289). -/
def State.adcDelayExpiry (s : State) (c : Nat) (inj : Bool) : State :=
  if s.adcDelayDue c inj then (if inj then s.adcInjDue c else s.adcRegDue c) else s

/-- Codes per unit of an input: per volt, or per milliampere (R286). -/
def State.adcScale (s : State) (i : Nat) : Nat := if s.flag (ADC_IN_CFG i) ADC_IN_CFG_MODE then 1600 else 3200

/-- The code of a value in 10^-9 of the unit of the input's mode, and whether it lies beyond full scale (R286). DESIGN
CHOICE (log 64): halves are rounded up, and full scale is judged on the rounded code. -/
def State.adcCode (s : State) (i : Nat) (v : Int) : Word × Bool :=
  let k := (2 * v * s.adcScale i + 1000000000) / 2000000000
  (BitVec.ofNat 32 (unsigned 16 (clampI (-32768) 32767 k)), decide (k < -32768) || decide (32767 < k))

/-- HOLD_EDGE: the sample of the step whose hold edge falls now is taken, with its angle tag (R287, R292). `v` is the value
at the input in 10^-9 V or 10^-9 mA, as the input's mode measures it. -/
def State.adcHold (s : State) (c : Nat) (inj : Bool) (v : Int) : State :=
  let q := (s.adc c).seq inj
  match q.phase with
  | .acquiring h =>
    if h ≤ s.time then
      let sh := s.fld (ADC_C_CFG c) ADC_C_CFG_TAG_SHAFT
      let ang := s.flag (ADC_C_CFG c) ADC_C_CFG_TAG_ANG
      let phi := unsigned 64 (s.phiInt sh)
      let code := s.adcCode (s.adcStep c inj q.step).2 v
      let e : AdcEntry :=
        { inj := inj, ovr := code.2, angInv := ang && !s.angValid sh, restarted := q.restarted, step := q.step,
          input := (s.adcStep c inj q.step).2, code := code.1, tick := h,
          tagLo := if ang then BitVec.ofNat 32 phi else BitVec.ofNat 32 (h / 2 ^ 32),
          tagHi := if ang then BitVec.ofNat 32 (phi / 2 ^ 32) else 0, last := decide (q.step = s.adcLen c inj) }
      s.setAdcSeq c inj { q with phase := .converting (h + convTicks), sample := e, restarted := false }
    else s
  | _ => s

/-- A step that a disable left in conversion has ended (R296). -/
def State.adcTailDue (s : State) (c : Nat) (inj : Bool) : Bool :=
  (s.adc c).tail.any fun e => decide (e.2.inj = inj) && decide (e.1 ≤ s.time)

/-- The conversion of a sequence's step has ended. -/
def State.adcConvDue (s : State) (c : Nat) (inj : Bool) : Bool :=
  s.adcTailDue c inj ||
    match ((s.adc c).seq inj).phase with
    | .converting e => decide (e ≤ s.time)
    | _ => false

/-- The regular sequence after the end of its last step: CONT starts it again in that tick (R288). -/
def State.adcRegEnd (s : State) (c : Nat) : State :=
  let q := (s.adc c).reg
  if (s.adcSrc c false).1 = 4 ∧ s.adcEn c then
    (s.setAdcSeq c false { q with phase := .idle, step := 0, trigTick := s.time }).adcRegDue c
  else s.setAdcSeq c false { q with phase := .idle, closing := true }

/-- The end of a step that a disable left in conversion (R296): its result leaves for the queue, and a sequence that waits
for the converter starts. -/
def State.adcTailEnd (s : State) (c : Nat) : State :=
  let x := s.adc c
  let t := s.setAdc c { x with wait := x.wait ++ (x.tail.map Prod.snd).toList, tail := none }
  if x.inj.phase = .waiting then t.adcBegin c true else t.adcResume c

/-- CONVERSION_END: the result leaves for the queue and the next step starts in this tick (R287, R290). -/
def State.adcConvEnd (s : State) (c : Nat) (inj : Bool) : State :=
  if s.adcTailDue c inj then s.adcTailEnd c
  else if s.adcConvDue c inj then
    let x := s.adc c
    let q := x.seq inj
    let s1 := s.setAdc c { x with wait := x.wait ++ [q.sample] }
    if q.step < s.adcLen c inj then
      let s2 := s1.setAdcSeq c inj { q with step := q.step + 1, phase := .waiting }
      if inj then s2.adcBegin c true
      else if (s2.adc c).inj.phase = .waiting then s2.adcBegin c true
      else s2.adcBegin c false
    else if inj then (s1.setAdcSeq c true { q with phase := .idle, closing := true }).adcResume c
    else if (s1.adc c).inj.phase = .waiting then (s1.adcBegin c true).adcRegEnd c
    else s1.adcRegEnd c
  else s

/-- Word 0 of an entry (R292). -/
def AdcEntry.word0 (e : AdcEntry) : Word :=
  BitVec.ofNat 32 (2 ^ 31 + b2n e.inj * 2 ^ 30 + b2n e.ovr * 2 ^ 29 + b2n e.angInv * 2 ^ 28 + b2n e.restarted * 2 ^ 27 +
    e.step % 16 * 2 ^ 20 + e.input % 16 * 2 ^ 16) ||| (e.code &&& 0xFFFF)

/-- The word of an entry at one of its four places (R292). -/
def AdcEntry.word (e : AdcEntry) : Nat → Word
  | 0 => e.word0
  | 1 => BitVec.ofNat 32 e.tick
  | 2 => e.tagLo
  | _ => e.tagHi

/-- RESULT_ENTRY: the oldest converted result enters the queue, or is dropped where the queue is full (R292, R293,
R295). -/
def State.adcEnter (s : State) (c : Nat) : State :=
  match (s.adc c).wait with
  | [] => s
  | e :: rest =>
    let x := { s.adc c with wait := rest }
    let full := decide (adcDepth ≤ x.queue.length)
    let x1 := if full then x else { x with queue := x.queue ++ [e] }
    let q := x1.seq e.inj
    let x2 := if e.last then x1.setSeq e.inj { q with closing := false, doneAt := some s.time } else x1
    let s1 := s.setAdc c x2
    let s2 := if e.inj then s1.setRg (ADC_C_INJR c e.step) e.word0 else s1
    let s3 := if full then
        ((s2.latch (ADC_C_STAT c) ADC_C_STAT_OVF).count (ADC_C_CNT1 c) ADC_C_CNT1_FIFO_LOST 1).raise (124 + c) 1
      else s2
    let s4 := if e.ovr then s3.raise (124 + c) 4 else s3
    let s5 := if ¬full ∧ x1.queue.length = s.fld (ADC_C_CFG c) ADC_C_CFG_DMA_THR ∧ s.flag (ADC_C_CFG c) ADC_C_CFG_NTF_THR
      then s4.raise (120 + c) 4 else s4
    if e.last ∧ e.inj ∧ s.flag (ADC_C_CFG c) ADC_C_CFG_NTF_INJ then s5.raise (120 + c) 2
    else if e.last ∧ ¬e.inj ∧ s.flag (ADC_C_CFG c) ADC_C_CFG_NTF_REG then s5.raise (120 + c) 1
    else s5

/-- The deadline of a held class B regular sequence has come (R291). -/
def State.adcDeadlineDue (s : State) (c : Nat) : Bool :=
  decide ((s.adc c).reg.phase = .held) && s.adcAtDeadline c

/-- A held regular sequence starts (R291), once the converter is free (R290). -/
def State.adcRelease (s : State) (c : Nat) : State :=
  let s1 := s.setFlag (ADC_C_STAT c) ADC_C_STAT_HELD false
  if s1.adcTaken c then s1.setAdcSeq c false { (s1.adc c).reg with phase := .waiting, step := 0 }
  else s1.adcBegin c false

/-- ADC_DEADLINE: a held class B sequence starts at its deadline (R291). -/
def State.adcDeadline (s : State) (c : Nat) : State := if s.adcDeadlineDue c then s.adcRelease c else s

/-- The governor's write of ADC_HOLD (R291): sequences no longer held start. -/
def State.adcSetHold (s : State) (bits : Nat) : State :=
  State.forEach 4 (fun t c =>
    if (t.adc c).reg.phase = .held ∧ ¬t.adcHeld c then t.adcRelease c else t) (s.setFld ADC_HOLD ADC_HOLD_HOLD bits)

/-- FLUSH empties the queue (R293). -/
def State.adcFlush (s : State) (c : Nat) : State := s.setAdc c { s.adc c with queue := [] }

/-- Removes the oldest entry of a converter's queue (R293). -/
def State.adcPop (s : State) (c : Nat) : State := s.setAdc c { s.adc c with queue := (s.adc c).queue.drop 1 }

/-- The checks of a write that sets EN (R296): true where every field lies in its range. -/
def State.adcCfgOk (s : State) (c : Nat) (cfg : Word) : Bool :=
  let r := s.adcSrc c false
  let i := s.adcSrc c true
  let idxOk (src idx : Nat) : Bool := if src = 2 then decide (idx < 24) else true
  decide (r.1 = 0 ∨ r.1 = 1 ∨ r.1 = 2 ∨ r.1 = 4) && decide (i.1 ≤ 3) && idxOk r.1 r.2 && idxOk i.1 i.2 &&
    decide (s.fld (ADC_C_REG c) ADC_C_REG_CLASS ≠ 3) &&
    (List.range (s.adcLen c false + 1)).all (fun k => decide (50 ≤ (s.adcStep c false k).1)) &&
    (List.range (s.adcLen c true + 1)).all (fun k => decide (50 ≤ (s.adcStep c true k).1)) &&
    (!decide (cfg.getF ADC_C_CFG_DMA_EN = 1) ||
      (decide (1 ≤ cfg.getF ADC_C_CFG_DMA_THR) && decide (cfg.getF ADC_C_CFG_DMA_THR ≤ 64)))

/-- Discards what a sequence has not converted, counting the discarded steps (R296). -/
def State.adcStopSeq (s : State) (c : Nat) (inj : Bool) : State :=
  let q := (s.adc c).seq inj
  let n := s.adcLen c inj
  match q.phase with
  | .idle => s
  | .converting e =>
    (s.setAdc c
      { (s.adc c).setSeq inj { q with phase := .idle } with tail := some (e, q.sample) }).count (ADC_C_CNT0 c)
      ADC_C_CNT0_DISCARD (n - q.step)
  | _ =>
    (s.setAdcSeq c inj { q with phase := .idle, restarted := false }).count (ADC_C_CNT0 c) ADC_C_CNT0_DISCARD
      (n + 1 - q.step)

/-- A write of EN = 0 (R296). -/
def State.adcDisable (s : State) (c : Nat) : State :=
  (((s.adcStopSeq c false).adcStopSeq c true).setFlag (ADC_C_STAT c) ADC_C_STAT_HELD false).setFlag (ADC_C_CFG c)
    ADC_C_CFG_EN false

/-- Inputs named by a step in use of an enabled converter (R286). -/
def State.adcUses (s : State) (i : Nat) : Bool :=
  (List.range 4).any fun c => s.adcEn c &&
    ((List.range (s.adcLen c false + 1)).any (fun k => decide ((s.adcStep c false k).2 = i)) ||
      (List.range (s.adcLen c true + 1)).any (fun k => decide ((s.adcStep c true k).2 = i)))

/-- Fields of ADC_Cc_CFG that may be written while EN is 1 (R296). -/
def adcFreeMask : Word := ADC_C_CFG_EN.mask ||| ADC_C_CFG_NTF_THR.mask ||| ADC_C_CFG_NTF_INJ.mask ||| ADC_C_CFG_NTF_REG.mask

/-- A write of ADC_Cc_CFG (R296). -/
def State.writeAdcCfg (s : State) (c : Nat) (w : Wr) : State × Status :=
  if w.was ADC_C_CFG_EN = 1 then
    if w.changes (~~~ adcFreeMask) then (s, .state)
    else if w.fld ADC_C_CFG_EN = 0 then ((s.plainWrite w).adcDisable c, .ok)
    else (s.plainWrite w, .ok)
  else if w.fld ADC_C_CFG_EN = 1 then
    if s.adcCfgOk c w.new then
      let t := s.plainWrite w
      (if (t.adcSrc c false).1 = 4 then t.adcArm c false (t.time + 1) else t, .ok)
    else (s, .range)
  else (s.plainWrite w, .ok)

/-- A write to a register of the ADC block (R286, R288, R293, R296). `c` is the converter's or
the input's number. -/
def State.writeAdc (s : State) (c : Nat) (w : Wr) : State × Status :=
  if w.base = ADC_C_CFG 0 then s.writeAdcCfg c w
  else if w.base = ADC_C_CMD 0 then
    let s1 := if w.acts ADC_C_CMD_REG_TRIG then s.adcAsk c false else s
    let s2 := if w.acts ADC_C_CMD_INJ_TRIG then s1.adcAsk c true else s1
    (if w.acts ADC_C_CMD_FLUSH then s2.adcFlush c else s2, .ok)
  else if w.base = ADC_C_STAT 0 then (s.plainWrite w, .ok)
  else if w.base = ADC_IN_CFG 0 then
    if w.changes ADC_IN_CFG_MODE.mask ∧ s.adcUses c then (s, .state) else (s.plainWrite w, .ok)
  else if w.base = ADC_C_REG_DLY 0 then
    if s.adcEn c ∧ w.changes 0xFFFFFFFF then (s, .state)
    else if w.fld ADC_C_REG_DLY_DEADLINE = 0 then (s, .range)
    else (s.plainWrite w, .ok)
  else if s.adcEn c ∧ w.changes 0xFFFFFFFF then (s, .state)
  else (s.plainWrite w, .ok)

/-- A register of the ADC block as it reads (R292, R293, R299). -/
def State.viewAdc (s : State) (b c k a : Nat) : Word :=
  let x := s.adc c
  if b = ADC_C_STAT 0 then
    (((s.rg a).setF ADC_C_STAT_REG_BUSY (b2n (s.adcBusy c false))).setF ADC_C_STAT_INJ_BUSY (b2n (s.adcBusy c true))).setF
      ADC_C_STAT_LEVEL x.queue.length
  else if b = ADC_C_FIFO 0 0 then
    match x.queue with
    | [] => 0
    | e :: _ => e.word k
  else s.rg a

end Sys2Proof.Machine
end

