-- ==== Sys2Proof/Machine/Timers.lean ====
section
/-! DEFINITION. Timer cells (R235 to R250): steps, boundaries, restarts, compare, capture, cascading and snapshots. -/

namespace Sys2Proof.Machine

/-- Entries of a capture queue (R241). -/
def capDepth : Nat := 4

/-- A configuration field of cell `n` as it acts in the present tick (R246). -/
def State.cellCfg (s : State) (n : Nat) (f : Fld) : Nat := s.actFld (TMC_CFG n) f

/-- EN of cell `n` as it acts: setting and clearing it act from the next tick (R235, R247). -/
def State.cellEn (s : State) (n : Nat) : Bool := decide (s.cellCfg n TMC_CFG_EN = 1)

/-- COUNT, PERIOD and COMPARE in force (R237, R246). -/
def State.cellCount (s : State) (n : Nat) : Nat := (s.actRg (TMC_COUNT n)).toNat
def State.cellPeriod (s : State) (n : Nat) : Nat := (s.actRg (TMC_PERIOD n)).toNat
def State.cellCompare (s : State) (n : Nat) : Nat := (s.actRg (TMC_COMPARE n)).toNat

/-- CLK of cell `n` is CASCADE. -/
def State.cellCascade (s : State) (n : Nat) : Bool := decide (s.cellCfg n TMC_CFG_CLK = 1)

/-- A match (R239): MATCH, the notification of R248, and the trigger offered to the converters. A tick has one match. -/
def State.cellMatch (s : State) (n : Nat) : State :=
  if (s.cell n).matchTick = some s.time then s
  else
    let s1 := (s.setCell n { s.cell n with matchTick := some s.time }).latch (TMC_STAT n) TMC_STAT_MATCH
    let s2 := if s.cellCfg n TMC_CFG_NTF_MATCH = 1 then s1.raise (512 + n) 1 else s1
    s2.adcOffer 1 n

/-- Loads the staged values (R237). -/
def State.cellLoad (s : State) (n : Nat) : State :=
  let x := s.cell n
  let s1 := match x.stagedPeriod with
    | some v => s.setActing (TMC_PERIOD n) v
    | none => s
  let s2 := match x.stagedCompare with
    | some v => s1.setActing (TMC_COMPARE n) v
    | none => s1
  s2.setCell n { s2.cell n with stagedPeriod := none, stagedCompare := none }

/-- A boundary (R236): BND, the notification of R248, and the loading of staged values. -/
def State.cellBoundary (s : State) (n : Nat) : State :=
  let s1 := (s.cellLoad n).latch (TMC_STAT n) TMC_STAT_BND
  if s.cellCfg n TMC_CFG_NTF_BND = 1 then s1.raise (512 + n) 2 else s1

/-- Whether the next step of a cell is its boundary, and the count it leads to (R236). A boundary uses the PERIOD that
its own loading puts in force. -/
def State.cellNext (s : State) (n : Nat) : Nat × Bool :=
  let c := s.cellCount n
  let p := s.cellPeriod n
  let up := decide (s.cellCfg n TMC_CFG_DIR = 0)
  if s.cellCfg n TMC_CFG_MODE = 1 then
    if up then (if c = p then (0, true) else ((c + 1) % 2 ^ 32, false))
    else if c = 0 then (p, true) else (c - 1, false)
  else if up then (if c = 0xFFFFFFFF then (0, true) else (c + 1, false))
  else if c = 0 then (0xFFFFFFFF, true) else (c - 1, false)

/-- The count a boundary or restart leaves: 0 up; PERIOD down in PERIOD mode, all ones down in FREE mode. -/
def State.cellStart (s : State) (n : Nat) : Nat :=
  if s.cellCfg n TMC_CFG_DIR = 0 then 0
  else if s.cellCfg n TMC_CFG_MODE = 1 then s.cellPeriod n else 0xFFFFFFFF

/-- The match of a COMPARE already passed is due (R239). -/
def State.cellPassedDue (s : State) (n : Nat) : Bool :=
  match (s.cell n).matchAt with
  | some t => decide (t ≤ s.time)
  | none => false

/-- The restart of R238 is due. -/
def State.cellCutDue (s : State) (n : Nat) : Bool :=
  match (s.cell n).cutAt with
  | some t => decide (t ≤ s.time)
  | none => false

/-- The count that a step leaves, and its compare (R236, R239). -/
def State.cellMove (s : State) (n c : Nat) : State :=
  let t := s.setActing (TMC_COUNT n) (BitVec.ofNat 32 c)
  if t.cellCfg n TMC_CFG_CMP_EN = 1 ∧ t.cellCount n = t.cellCompare n then t.cellMatch n else t

/-- A restart of R238 begins: the prescaler restarts (R235), and PERIOD_CUT is set. -/
def State.cellCut (s : State) (n : Nat) : State :=
  (s.setCell n
    { s.cell n with cutAt := none, cutTick := some s.time, next := s.time + s.cellCfg n TMC_CFG_PRESC + 1 }).latch
      (TMC_STAT n) TMC_STAT_PERIOD_CUT

/-- A step of cell `n` and the carries it sends up its group (R235, R236, R242); `fuel` bounds the group. A restart that
is due takes the step's place (R238): the tick has one boundary and one carry. -/
def State.cellStepAt (s : State) : Nat → Nat → State
  | 0, _ => s
  | fuel + 1, n =>
    if ¬s.cellEn n ∨ (s.cell n).cutTick = some s.time then s
    else
      let cut := s.cellCutDue n
      let nx := s.cellNext n
      if cut ∨ nx.2 then
        let s1 := (if cut then s.cellCut n else s).cellBoundary n
        let s2 := s1.cellMove n (s1.cellStart n)
        if n + 1 < 1024 ∧ s2.cellCascade (n + 1) then State.cellStepAt s2 fuel (n + 1) else s2
      else s.cellMove n nx.1

/-- A step of cell `n` with its carries: a group holds at most eight cells (R243). -/
def State.cellStepNow (s : State) (n : Nat) : State := s.cellStepAt 8 n

/-- A step of the prescaled tick is due (R235). -/
def State.cellStepDue (s : State) (n : Nat) : Bool :=
  s.cellEn n && decide (s.cellCfg n TMC_CFG_CLK = 0) && decide ((s.cell n).next ≤ s.time) && (s.cell n).cutAt.isNone

/-- CELL_STEP: the step that is due, and the tick of the next one (R235). -/
def State.cellStep (s : State) (n : Nat) : State :=
  if s.cellStepDue n then
    (s.setCell n { s.cell n with next := s.time + s.cellCfg n TMC_CFG_PRESC + 1 }).cellStepNow n
  else s

/-- PERIOD_RESTART: the count starts again, the boundary is raised, PERIOD_CUT is set, and the prescaler restarts
(R235, R238). -/
def State.cellRestart (s : State) (n : Nat) : State := if s.cellCutDue n then s.cellStepNow n else s

/-- PASSED_COMPARE_MATCH: a COMPARE written already passed matches once (R239). -/
def State.cellPassed (s : State) (n : Nat) : State :=
  if s.cellPassedDue n then (s.setCell n { s.cell n with matchAt := none }).cellMatch n else s

/-- COMPARE has already been passed since the last boundary (R239). -/
def State.cellHasPassed (s : State) (n : Nat) : Bool :=
  if s.cellCfg n TMC_CFG_DIR = 0 then decide (s.cellCompare n ≤ s.cellCount n)
  else decide (s.cellCount n ≤ s.cellCompare n)

/-- A COMPARE written in the tick before is judged: already passed, it matches in this tick (R239). -/
def State.cellJudgeWritten (s : State) (n : Nat) : State :=
  if s.cellCfg n TMC_CFG_CMP_EN = 1 ∧ s.cellHasPassed n then s.setCell n { s.cell n with matchAt := some s.time } else s

/-- The count lies outside the period (R238). -/
def State.cellOutside (s : State) (n : Nat) : Bool :=
  decide (s.cellCfg n TMC_CFG_MODE = 1) &&
    (if s.cellCfg n TMC_CFG_DIR = 0 then decide (s.cellPeriod n ≤ s.cellCount n)
     else decide (s.cellPeriod n < s.cellCount n))

/-- A PERIOD or COUNT written in the tick before is judged: outside the period, the restart is due in this tick (R238). -/
def State.cellJudgePeriod (s : State) (n : Nat) : State :=
  if s.cellOutside n then s.setCell n { s.cell n with cutAt := some s.time } else s

/-- A register of a cell that counts takes a word: it acts from the next tick (R237, R246). -/
def State.cellPut (s : State) (n a : Nat) (v : Word) : State :=
  (if s.cellEn n ∨ s.flag (TMC_CFG n) TMC_CFG_EN then s.keepActing a else s).setRg a v

/-- A write of PERIOD: in force from the next tick, or staged (R237). -/
def State.cellWritePeriod (s : State) (n : Nat) (v : Word) : State :=
  if s.fld (TMC_CFG n) TMC_CFG_UPD = 1 then s.setCell n { s.cell n with newPeriod := some v }
  else (s.cellPut n (TMC_PERIOD n) v).setCell n { s.cell n with stagedPeriod := none, newPeriod := none }

/-- A write of COMPARE: in force from the next tick, or staged (R237). -/
def State.cellWriteCompare (s : State) (n : Nat) (v : Word) : State :=
  if s.fld (TMC_CFG n) TMC_CFG_UPD = 1 then s.setCell n { s.cell n with newCompare := some v }
  else (s.cellPut n (TMC_COMPARE n) v).setCell n { s.cell n with stagedCompare := none, newCompare := none }

/-- A capture request (R240, R247): it is made as the tick ends, after the reads of the tick (R246). -/
def State.cellCapture (s : State) (n : Nat) : State :=
  if s.cellEn n then s.setCell n { s.cell n with capReq := true } else s.count (TMC_CNT n) TMC_CNT_DISCARD 1

/-- The capture of a tick (R240, R241): any number of requests make one entry. -/
def State.cellLatch (s : State) (n : Nat) : State :=
  if (s.cell n).capReq then
    let x := { s.cell n with capReq := false }
    let v := s.actRg (TMC_COUNT n)
    if x.capQ.length < capDepth then s.setCell n { x with capQ := x.capQ ++ [v] }
    else
      let q := if s.cellCfg n TMC_CFG_CAP_OVW = 1 then x.capQ.drop 1 ++ [v] else x.capQ
      let s1 := ((s.setCell n { x with capQ := q }).latch (TMC_STAT n) TMC_STAT_CAP_OVF).count (TMC_CNT n)
        TMC_CNT_CAP_LOST 1
      if s.cellCfg n TMC_CFG_NTF_OVF = 1 then s1.raise (512 + n) 4 else s1
  else s

/-- Removes the oldest capture (R241). -/
def State.cellPop (s : State) (n : Nat) : State := s.setCell n { s.cell n with capQ := (s.cell n).capQ.drop 1 }

/-- The edge of an accepted level selected by CAP_EDGE (R250). -/
def edgeSelected (sel : Nat) (level : Bool) : Bool := decide (sel = 3) || decide (sel = if level then 1 else 2)

/-- The address is a cell's configuration. -/
def isCellCfg (a : Nat) : Bool := decide (0x80000 ≤ a) && decide (a < 0x88000) && decide (a % 0x20 = 0)

/-- The cells with a configuration as it acts that satisfies a test: those in force as written, in ascending order, and
those that go on acting. A configuration of all zeros satisfies none of the tests, so its register need not be listed. -/
def State.cellsWith (s : State) (p : Word → Bool) : List Nat :=
  ((s.regs.filter fun e => isCellCfg e.1 && p (s.actRg e.1)).map Prod.fst ++
    (s.actOld.filter fun e => isCellCfg e.1 && p e.2 && decide (s.rg e.1 = 0)).map Prod.fst).map fun a => (a - 0x80000) / 0x20

/-- The cells that count (R235). -/
def State.cellsOn (s : State) : List Nat := s.cellsWith fun w => decide (w.getF TMC_CFG_EN = 1)

/-- The cells that an event line can reach: EN or CAP_EDGE is not 0. -/
def State.cellsLined (s : State) : List Nat :=
  s.cellsWith fun w => decide (w.getF TMC_CFG_EN = 1) || decide (w.getF TMC_CFG_CAP_EDGE ≠ 0)

/-- The cells that a change of event line `i` steps or captures (R235, R240); a request that reaches a disabled cell is
discarded (R247). -/
def State.cellsOfLine (s : State) (i : Nat) (level : Bool) : State :=
  s.cellsLined.foldl (fun t n =>
    if t.cellCfg n TMC_CFG_LINE = i then
      let t1 := if t.cellCfg n TMC_CFG_CLK = 2 ∧ level then t.cellStepNow n else t
      if edgeSelected (t.cellCfg n TMC_CFG_CAP_EDGE) level then t1.cellCapture n else t1
    else t) s

/-- Cell `n` is joined to the one below (R242). -/
def State.cellJoined (s : State) (n : Nat) : Bool := decide (s.fld (TMC_CFG n) TMC_CFG_CLK = 1)

/-- The lowest cell of the group of cell `n` (R242). -/
def State.cellLow (s : State) : Nat → Nat
  | 0 => 0
  | n + 1 => if s.cellJoined (n + 1) then State.cellLow s n else n + 1

/-- The number of cells of a group from its lowest cell up (R242). -/
def State.cellGroupFrom (s : State) : Nat → Nat → Nat
  | 0, _ => 1
  | fuel + 1, n => if n + 1 < 1024 ∧ s.cellJoined (n + 1) then 1 + State.cellGroupFrom s fuel (n + 1) else 1

/-- The size of the group of cell `n`. -/
def State.cellGroup (s : State) (n : Nat) : Nat := s.cellGroupFrom 1024 (s.cellLow n)

/-- The cells of a snapshot and the bytes it carries (R244). -/
def State.cellSnapshot (s : State) (n : Nat) : Nat × List Byte :=
  let lo := s.cellLow n
  let k := s.cellGroup n
  (k, leBytes 8 s.time ++ (List.range k).flatMap fun i => leBytes 4 (s.cellCount (lo + i)))

/-- A cell stops (R247): a match or restart due in this tick is discarded and counted, staged values are loaded with no
boundary and no match. -/
def State.cellStops (s : State) (n : Nat) : State :=
  let x := s.cell n
  let k := b2n x.cutAt.isSome + b2n x.matchAt.isSome
  ((s.setCell n { x with cutAt := none, matchAt := none, stop := false }).cellLoad n).count (TMC_CNT n) TMC_CNT_DISCARD k

/-- The values staged in the tick before wait for a boundary from now on (R237). -/
def State.cellStage (s : State) (n : Nat) : State :=
  let x := s.cell n
  s.setCell n
    { x with
      stagedPeriod := x.newPeriod.orElse fun _ => x.stagedPeriod
      stagedCompare := x.newCompare.orElse fun _ => x.stagedCompare
      newPeriod := none
      newCompare := none }

/-- What was written to a limit or count of a cell in the tick before is judged (R238, R239). -/
def State.cellLimitActs (s : State) (a : Nat) : State :=
  let n := (a - 0x80000) / 0x20
  if a = TMC_PERIOD n ∨ a = TMC_COUNT n then s.cellJudgePeriod n
  else if a = TMC_COMPARE n then s.cellJudgeWritten n
  else s

/-- A configuration written in the tick before acts (R235, R239, R247): `old` is the word that acted until now. A cell that
stops and starts again does both; of one that has not counted, nothing is due. -/
def State.cellCfgActs (s : State) (a : Nat) (old : Word) : State :=
  let n := (a - 0x80000) / 0x20
  let was := decide (old.getF TMC_CFG_EN = 1)
  let on := s.cellEn n
  let halts := (s.cell n).stop || (was && !on)
  let s1 :=
    if was ∧ halts then s.cellStops n
    else if on then s.setCell n { s.cell n with stop := false }
    else s.setCell n { s.cell n with stop := false, cutAt := none, matchAt := none }
  let s2 := if on ∧ (¬was ∨ halts) then s1.setCell n { s1.cell n with next := s.time + s.cellCfg n TMC_CFG_PRESC } else s1
  if on ∧ old.getF TMC_CFG_CMP_EN = 0 then s2.cellJudgeWritten n else s2

/-- What was written to the cells in the tick before acts (R246): `old` holds the words that acted until now. -/
def State.cellsTick (s : State) (old : List (Nat × Word)) : State :=
  let mine := old.filter fun e => decide (0x80000 ≤ e.1) && decide (e.1 < 0x88000)
  let s1 := s.cells.keys.foldl State.cellStage s
  let s2 := mine.foldl (fun t e => t.cellLimitActs e.1) s1
  mine.foldl (fun t e => if isCellCfg e.1 then t.cellCfgActs e.1 e.2 else t) s2

/-- The captures of a tick that ends (R240, R246). -/
def State.cellsEnd (s : State) : State := s.cells.keys.foldl State.cellLatch s

/-- Fields of TMCn_CFG that may be written while EN is 1 (R249). -/
def cellFreeMask : Word :=
  TMC_CFG_EN.mask ||| TMC_CFG_CMP_EN.mask ||| TMC_CFG_CAP_EDGE.mask ||| TMC_CFG_CAP_OVW.mask |||
    TMC_CFG_NTF_OVF.mask ||| TMC_CFG_NTF_BND.mask ||| TMC_CFG_NTF_MATCH.mask

/-- A write of TMCn_CFG (R243, R247, R249): it acts from the next tick (R246). -/
def State.writeCellCfg (s : State) (n : Nat) (w : Wr) : State × Status :=
  let t := (s.keepActing w.addr).plainWrite w
  let wasOn := decide (w.was TMC_CFG_EN = 1)
  let on := decide (w.fld TMC_CFG_EN = 1)
  if wasOn ∧ w.changes (~~~ cellFreeMask) then (s, .state)
  else if ¬wasOn ∧ on ∧ (2 ≤ w.fld TMC_CFG_MODE ∨ w.fld TMC_CFG_CLK = 3) then (s, .range)
  else if w.fld TMC_CFG_CLK = 1 ∧ (n = 0 ∨ 8 < t.cellGroup n) then (s, .range)
  else (if wasOn ∧ ¬on then t.setCell n { t.cell n with stop := true } else t, .ok)

/-- A write to a register of a timer cell. -/
def State.writeCell (s : State) (n : Nat) (w : Wr) : State × Status :=
  if w.base = TMC_CFG 0 then s.writeCellCfg n w
  else if w.base = TMC_COUNT 0 then (s.cellPut n (TMC_COUNT n) w.new, .ok)
  else if w.base = TMC_PERIOD 0 then (s.cellWritePeriod n w.new, .ok)
  else if w.base = TMC_COMPARE 0 then (s.cellWriteCompare n w.new, .ok)
  else if w.base = TMC_CMD 0 then (if w.acts TMC_CMD_CAPTURE then s.cellCapture n else s, .ok)
  else (s.plainWrite w, .ok)

/-- A register of a timer cell as it reads (R241, R250): counts and limits as they are in force, reads come before the
writes of a tick (R237, R246). -/
def State.viewCell (s : State) (b n a : Nat) : Word :=
  let x := s.cell n
  if b = TMC_STAT 0 then
    ((s.rg a).setF TMC_STAT_CAP_N x.capQ.length).setF TMC_STAT_STAGED
      (b2n (x.stagedPeriod.isSome || x.stagedCompare.isSome || x.newPeriod.isSome || x.newCompare.isSome))
  else if b = TMC_CAP 0 then x.capQ.headD 0
  else if b = TMC_COUNT 0 ∨ b = TMC_PERIOD 0 ∨ b = TMC_COMPARE 0 then s.actRg a
  else s.rg a

end Sys2Proof.Machine
end

