-- ==== Sys2Proof/Machine/Fio.lean ====
section
/-! DEFINITION. Event lines, precision outputs and expander chains (R271 to R285). What an accepted line edge does to the
Ephemeris stands with the Ephemeris. -/

namespace Sys2Proof.Machine

/-- Counts a merge of R82 on a precision output. -/
def State.countMerge (s : State) (o : Nat) (merged : Bool) : State :=
  if merged ∧ 128 ≤ o ∧ o < 144 then s.count ALM_CANCEL ALM_CANCEL_MERGED 1 else s

/-- Whether events act on a precision output: SRC = EVENT (R278). -/
def State.poEvents (s : State) (j : Nat) : Bool := decide (s.fld (FIO_PO_CFG j) FIO_PO_CFG_SRC = 0)

/-- What drives a level output: events and threads. -/
def Output.drivers (x : Output) : Nat := x.events + x.edges.length

/-- An end edge at `e` and a start edge at `p`, in 1/64 ticks, merge: the end comes first, by less than one tick (R82). -/
def mergesAt (e p : Nat) : Bool := decide (e ≤ p) && decide (p < e + 64)

/-- The output is a precision output that events drive. -/
def State.mergesOn (s : State) (o : Nat) : Bool := decide (128 ≤ o) && decide (o < 144) && s.poEvents (o - 128)

/-- A driver of a level output starts at pin time `p`, in 1/64 ticks: `y` is the output with it (R81, R82, R133). An end less
than one tick before merges with it, and the output has stayed asserted; an end further back releases it first. -/
def State.driveUp (s : State) (o p : Nat) (y : Output) : State :=
  let x := s.out o
  let t := match x.lastEnd with
    | some e => if e + 64 ≤ p then (s.setOut o { x with lastEnd := none }).refresh o else s
    | none => s
  let z := t.out o
  (((t.setOut o { y with on := z.on, hold := z.hold, lastStart := p, lastEnd := none }).refresh o).countMerge o
    (x.lastEnd.any fun e => mergesAt e p))

/-- A driver of a level output ends at pin time `p`, in 1/64 ticks: `y` is the output without it (R82, R133). On a precision
output whose last driver ends the release waits for a start that may merge; where a start less than one tick later already
stands, the two merge. -/
def State.driveDown (s : State) (o p : Nat) (y : Output) : State :=
  let last := decide (y.drivers = 0) && s.mergesOn o
  ((s.setOut o { y with lastEnd := if last then some p else none }).refresh o).countMerge o
    (decide (y.drivers = 1) && s.mergesOn o && mergesAt p y.lastStart)

/-- A release that no start can merge with any more takes effect (R82). -/
def State.releaseDue (s : State) (o : Nat) : State :=
  let x := s.out o
  match x.lastEnd with
  | some e => if e / 64 + 1 ≤ s.time then (s.setOut o { x with lastEnd := none }).refresh o else s
  | none => s

/-- An Almanac event asserts a level output from its start edge, at pin time `p` in 1/64 ticks (R81, R82). -/
def State.outStart (s : State) (o p : Nat) : State :=
  s.driveUp o p { s.out o with events := (s.out o).events + 1 }

/-- The end edge of an Almanac event on a level output, at pin time `p` in 1/64 ticks (R82). -/
def State.outEnd (s : State) (o p : Nat) : State :=
  s.driveDown o p { s.out o with events := (s.out o).events - 1 }

/-- The drive level of a thread on a precision output, placed at `p` in 1/64 ticks (R133): discarded where SRC is not EVENT
(R278). -/
def State.poEdge (s : State) (j thread p : Nat) (level : Bool) : State :=
  let o := outPrecision j
  let x := s.out o
  if ¬s.poEvents j ∨ x.edges.contains thread = level then s
  else if level then s.driveUp o p { x with edges := x.edges ++ [thread] }
  else s.driveDown o p { x with edges := x.edges.filter fun t => !decide (t = thread) }

/-! ## Encoder emulation outputs (R224, R278) -/

/-- FORM of the emulation: pulse and direction. -/
def State.emuPulse (s : State) (p : Nat) : Bool := s.flag (FBP_EMU_CFG p) FBP_EMU_CFG_FORM

/-- The level of output `src` of the emulation of port `p`: 1, 2 and 3 are A, B and Z (R224, R278). -/
def State.emuLevel (s : State) (p src : Nat) : Bool :=
  let x := s.port p
  if src = 1 then (if s.emuPulse p then decide (x.emuState = 1) else decide (x.emuState = 1) || decide (x.emuState = 2))
  else if src = 2 then (if s.emuPulse p then x.emuDir else decide (x.emuState = 2) || decide (x.emuState = 3))
  else x.emuZ

/-! ## Banks -/

/-- A line counts for its bank's supply fault (R271): DIR = 1 or NTF ≠ 0. -/
def lineUsed (cfg : Word) : Bool := decide (cfg.getF FIO_EL_CFG_DIR ≠ 0) || decide (cfg.getF FIO_EL_CFG_NTF ≠ 0)

/-- Some line of bank `b` counts for the supply fault. -/
def State.bankUsed (s : State) (b : Nat) : Bool := (List.range 16).any fun k => lineUsed (s.rg (FIO_EL_CFG (16 * b + k)))

/-- The supply fault of a bank in use whose BS_OK is 0 (R271); nothing where it stands already. -/
def State.bankFault (s : State) (b : Nat) : State :=
  if s.bankUsed b ∧ ¬s.flag (FIO_BANK_STAT b) FIO_BANK_STAT_BS_OK ∧ ¬s.faultActive fltBankSupply b then
    s.faultRaise fltBankSupply b 1 0
  else s

/-- BS_OK_FALL (R271). -/
def State.bsFall (s : State) (b : Nat) : State :=
  if s.flag (FIO_BANK_STAT b) FIO_BANK_STAT_BS_OK then (s.setFlag (FIO_BANK_STAT b) FIO_BANK_STAT_BS_OK false).bankFault b
  else s

/-- The filter of event line `i` takes a level (R271, R274). -/
def State.lineTakes (s : State) (i : Nat) (level : Bool) : State :=
  { (s.setLine i level) with lineAt := FMap.set (fun _ => 0) s.lineAt i (s.time + 1) }

/-- The pin level seen as the line's level, after POL (R274). -/
def State.lineLevel (s : State) (i : Nat) (pin : Bool) : Bool :=
  pin != decide ((s.actRg (FIO_EL_CFG i)).getF FIO_EL_CFG_POL = 1)

/-- BS_OK_RISE: the levels present become the starting levels, the fault clears, and drive returns under R28 (R271).
`levels` are the levels at the pins of the bank's lines. -/
def State.bsRise (s : State) (b : Nat) (levels : Nat) : State :=
  if s.flag (FIO_BANK_STAT b) FIO_BANK_STAT_BS_OK then s
  else
    let s1 := (s.setFlag (FIO_BANK_STAT b) FIO_BANK_STAT_BS_OK true).faultEnd fltBankSupply b
    let s2 := State.forEach 16 (fun t k => t.lineTakes (16 * b + k) (t.lineLevel (16 * b + k) (bitOf levels k))) s1
    s2.holdRange (16 * b) (16 * b + 16)

/-- BANK_EN_FALL (R272). -/
def State.bankFall (s : State) (b : Nat) : State :=
  if s.flag (FIO_BANK_STAT b) FIO_BANK_STAT_BANK_EN then
    (s.setFlag (FIO_BANK_STAT b) FIO_BANK_STAT_BANK_EN false).faultEvent fltBankEnLost b 0 0
  else s

/-- BANK_EN_PRESENT (R272): drive returns under R28. -/
def State.bankPresent (s : State) (b : Nat) : State :=
  if s.flag (FIO_BANK_STAT b) FIO_BANK_STAT_BANK_EN then s
  else (s.setFlag (FIO_BANK_STAT b) FIO_BANK_STAT_BANK_EN true).holdRange (16 * b) (16 * b + 16)

/-- OUTPUT_FAULT (R277): the readback of a driven line has differed for 100 µs. -/
def State.outFault (s : State) (i : Nat) : State :=
  if s.driven (outLine i) ∧ ¬(s.out (outLine i)).hold then
    let a := FIO_BANK_STAT (i / 16)
    (s.hwSet a FIO_BANK_STAT_OUT_FAULT (Nat.lor (s.fld a FIO_BANK_STAT_OUT_FAULT) (2 ^ (i % 16)))
      (Nat.lor ((s.freshAt a).plus.getF FIO_BANK_STAT_OUT_FAULT) (2 ^ (i % 16)))).faultRaise fltOut i 2 0
  else s

/-- A write of 1s to OUT_FAULT: the lines drive again, under the first rule of R28, and their faults end (R277); a fault of
this tick prevails (R8). -/
def State.outFaultClear (s : State) (b written : Nat) : State :=
  let a := FIO_BANK_STAT b
  let bits := Nat.land written (Nat.xor 0xFFFF ((s.freshAt a).plus.getF FIO_BANK_STAT_OUT_FAULT))
  let old := s.fld a FIO_BANK_STAT_OUT_FAULT
  let t := s.setFld a FIO_BANK_STAT_OUT_FAULT (Nat.land old (Nat.xor 0xFFFF (bits % 65536)))
  State.forEach 16 (fun u k => if bitOf old k && bitOf bits k then (u.holdOut (outLine (16 * b + k))).faultEnd fltOut (16 * b + k)
    else u) t

/-! ## Event line inputs -/

/-- The notification of an accepted edge (R275): [1] tells that a further edge came while the source was pending. -/
def State.lineNotify (s : State) (i : Nat) (level : Bool) : State :=
  if edgeSelected ((s.actRg (FIO_EL_CFG i)).getF FIO_EL_CFG_NTF) level then
    s.raise (1536 + i) (b2n level + 2 * b2n (s.src (1536 + i)).pend)
  else s

/-- Ticks for which a new level must be seen without a break: FILT + 1 of the unit that UNIT selects (R274). -/
def State.lineFilter (s : State) (i : Nat) : Nat :=
  let cfg := s.actRg (FIO_EL_CFG i)
  let unit := cfg.getF FIO_EL_CFG_UNIT
  (cfg.getF FIO_EL_CFG_FILT + 1) * (if unit = 0 then 1 else if unit = 1 then ticksUs else 100 * ticksUs)

/-- A level that differs from the accepted one can have been seen for the filter length: it has not begun before the filter
last accepted a level (R274). -/
def State.lineSeen (s : State) (i : Nat) : Bool :=
  let at_ := FMap.get (fun _ => 0) s.lineAt i
  decide (at_ = 0) || decide (at_ + s.lineFilter i ≤ s.time + 1)

/-- Acceptance of a level on event line `i` by its filter: the cells it clocks and captures, and its notification (R235,
R240, R274, R275). While BS_OK is 0 no edge is accepted (R271). Returns whether an edge was accepted. -/
def State.lineAccept (s : State) (i : Nat) (pin : Bool) : State × Bool :=
  let level := s.lineLevel i pin
  if s.flag (FIO_BANK_STAT (i / 16)) FIO_BANK_STAT_BS_OK && decide (s.line i ≠ level) && s.lineSeen i then
    (((s.lineTakes i level).cellsOfLine i level).lineNotify i level, true)
  else (s, false)

/-! ## Expander chains -/

/-- LEN of chain `c`. -/
def State.chainLen (s : State) (c : Nat) : Nat := s.fld (FIO_CH_CFG c) FIO_CH_CFG_LEN

/-- The tick at which the next frame of a chain starts has come (R279). -/
def State.chainDue (s : State) (c : Nat) : Bool :=
  ((s.chain c).running || (s.chain c).stopping) && decide ((s.chain c).nextFrame ≤ s.time)

/-- The snapshot of a chain's positions (R280): asserted now, or since the last snapshot; a position held under R28 is
sent as 0. -/
def State.chainSnap (s : State) (c : Nat) : Nat :=
  (List.range (s.chainLen c)).foldl (fun m p =>
    let o := outExpander (512 * c + p)
    let x := s.out o
    if (x.on && !x.hold) || (bitOf (s.chain c).pulsed p && !x.hold) then m + 2 ^ p else m) 0

/-- Writes a chain's 512-bit word to its 16 registers. -/
def State.setChainWords (s : State) (a : Nat → Nat) (v : Nat) : State :=
  State.forEach 16 (fun t w => t.setRg (a w) (BitVec.ofNat 32 (v / 2 ^ (32 * w)))) s

/-- The accepted inputs after a new captured word: a position takes a value seen in IFILT + 1 consecutive frames (R281). -/
def acceptBits (len need : Nat) (old : Nat) (caps : List Nat) : Nat :=
  (List.range len).foldl (fun m p =>
    let run := (caps.take need).map fun c => bitOf c p
    let b := if run.length = need ∧ run.all (· == true) then true
      else if run.length = need ∧ run.all (· == false) then false
      else bitOf old p
    if b then m + 2 ^ p else m) 0

/-- The accepted input word of a chain. -/
def State.chainIn (s : State) (c : Nat) : Nat :=
  (List.range 16).foldl (fun m w => m + (s.rg (FIO_CH_IN c w)).toNat * 2 ^ (32 * w)) 0

/-- The pattern check of a captured word (R282). -/
def State.chainCheck (s : State) (c cap : Nat) : State :=
  if s.flag (FIO_CH_CFG c) FIO_CH_CFG_CHK_EN then
    let x := s.chain c
    if cap / 2 ^ (s.chainLen c - 8) % 256 = s.fld (FIO_CH_FILT c) FIO_CH_FILT_CHK_PAT then
      let t := s.setChain c { x with bad := 0, good := x.good + 1 }
      if 3 ≤ x.good + 1 ∧ s.flag (FIO_CH_STAT c) FIO_CH_STAT_STALE then
        (t.setFlag (FIO_CH_STAT c) FIO_CH_STAT_STALE false).faultEnd fltChain c
      else t
    else
      let t := (s.setChain c { x with bad := x.bad + 1, good := 0 }).count (FIO_CH_CNT c) FIO_CH_CNT_CHK_ERR 1
      if 3 ≤ x.bad + 1 then
        ((t.latch (FIO_CH_STAT c) FIO_CH_STAT_FAULT).setFlag (FIO_CH_STAT c) FIO_CH_STAT_STALE true).faultRaise
          fltChain c 2 0
      else t
  else s

/-- The inputs of the frame that has ended are accepted (R281): `cap` was captured at the previous frame start. -/
def State.chainAccept (s : State) (c cap : Nat) : State :=
  let s1 := s.chainCheck c cap
  let x := s1.chain c
  let s2 := s1.setChain c { x with caps := (cap :: x.caps).take 16 }
  if s2.flag (FIO_CH_STAT c) FIO_CH_STAT_STALE then s2
  else
    let need := s2.fld (FIO_CH_FILT c) FIO_CH_FILT_IFILT + 1
    (s2.setChainWords (FIO_CH_IN c) (acceptBits (s2.chainLen c) need (s2.chainIn c) (s2.chain c).caps)).setRg64
      (FIO_CH_CAP_LO c) x.lastFrame

/-- Tallies of the positions that latch 1 after a latched 0 (R280, R459). -/
def State.chainTally (s : State) (c old new : Nat) : State :=
  (List.range 512).foldl (fun t p =>
    if bitOf new p && !bitOf old p then t.bumpTally (outExpander (512 * c + p)) 1 else t) s

/-- The bits that the modules latch at a LAT edge: those of the frame before where it was driven. What a frame that was not
driven leaves in the modules is taken as 0 (DESIGN CHOICE, log 61). -/
def Chain.latches (x : Chain) : Nat := if x.live then x.sent else 0

/-- CHAIN_FRAME (R279 to R283): the LAT edge of a frame start. The bits of the frame before are latched, the inputs it
captured are accepted, and the new frame begins; its snapshot is taken when the tick ends (R284). `inputs` are the
modules' inputs loaded at the frame start before, as shifted in during the frame that now ends. -/
def State.chainFrame (s : State) (c inputs : Nat) : State :=
  if s.chainDue c then
    let x := s.chain c
    let s1 := if x.count = 0 then s
      else (((s.chainTally c x.latched x.latches).setChain c { x with latched := x.latches }).chainAccept c inputs).setChainWords
        (FIO_CH_OUT c) x.sent
    if x.stopping then
      s1.setChain c { s1.chain c with running := false, stopping := false, live := false, count := 0 }
    else
      let y := s1.chain c
      s1.setChain c { y with snapDue := true, lastFrame := x.nextFrame, count := x.count + 1,
                             nextFrame := x.nextFrame + s1.fld (FIO_CH_PER c) FIO_CH_PER_PER * 8 }
  else s

/-- The snapshot of a frame that has started in the present tick, after the Almanac's starts and ends of the tick (R280,
R284). Where drive resumes with the frame, a position whose logic is active is held (R28, R283). -/
def State.chainSnapshot (s : State) (c : Nat) : State :=
  if (s.chain c).snapDue then
    let t := if s.driveOn ∧ ¬(s.chain c).live then s.holdRange (outExpander (512 * c)) (outExpander (512 * c + 512)) else s
    t.setChain c { t.chain c with snapDue := false, live := t.driveOn, sent := t.chainSnap c, pulsed := 0 }
  else s

/-- OUT_LIVE has fallen: no frame in progress is driven any more (R283). -/
def State.chainFloat (s : State) : State := State.forEach 4 (fun t c => t.setChain c { t.chain c with live := false }) s

/-- The checks of a write that sets EN of a chain (R283). -/
def State.chainCfgOk (s : State) (c : Nat) (cfg : Word) : Bool :=
  let len := cfg.getF FIO_CH_CFG_LEN
  decide (len % 8 = 0) && decide (8 ≤ len) && decide (len ≤ 512) && decide (512 ≤ s.fld (FIO_CH_PER c) FIO_CH_PER_PER) &&
    (!decide (cfg.getF FIO_CH_CFG_CHK_EN = 1) || decide (16 ≤ len))

/-- A write of FIO_CHc_CFG (R279, R283). -/
def State.writeChainCfg (s : State) (c : Nat) (w : Wr) : State × Status :=
  if w.was FIO_CH_CFG_EN = 1 then
    if w.changes (FIO_CH_CFG_LEN.mask ||| FIO_CH_CFG_SDLY.mask) then (s, .state)
    else if w.fld FIO_CH_CFG_EN = 0 then
      ((s.plainWrite w).setChain c { s.chain c with running := false, stopping := (s.chain c).running }, .ok)
    else (s.plainWrite w, .ok)
  else if w.fld FIO_CH_CFG_EN = 1 then
    if s.chainCfgOk c w.new then
      let t := s.plainWrite w
      (t.setChain c { t.chain c with running := true, stopping := false, live := false, nextFrame := t.time + 1, count := 0,
                                     latched := 0, pulsed := 0, caps := [], bad := 0, good := 0 }, .ok)
    else (s, .range)
  else (s.plainWrite w, .ok)

/-- Refreshes the outputs of a word of software bits (R276, R280, R284). -/
def State.refreshRange (s : State) (lo n : Nat) : State := (List.range n).foldl (fun t k => t.refresh (lo + k)) s

/-- A register of the FIO block written in the tick before acts from now on (R276, R284): software bits, and a line's
configuration; a line that becomes an output takes up drive under R28. -/
def State.fioActs (s : State) (a : Nat) (old : Word) : State :=
  match regAt a with
  | some (d, i, k) =>
    if d.base = FIO_BANK_SW 0 then s.refreshRange (16 * i) 16
    else if d.base = FIO_CH_SW 0 0 then s.refreshRange (outExpander (512 * i + 32 * k)) 32
    else if old.getF FIO_EL_CFG_DIR = 0 ∧ (s.rg a).getF FIO_EL_CFG_DIR = 1 then s.holdOut (outLine i)
    else s
  | none => s

/-- The FIO registers written in the tick before act (R284): `old` holds the words that acted until now. -/
def State.fioTick (s : State) (old : List (Nat × Word)) : State := old.foldl (fun t e => t.fioActs e.1 e.2) s

/-- What field I/O does when a tick ends: snapshots of the frames that have started (R284), and releases (R82). -/
def State.fioEnds (s : State) : State :=
  State.forEach 16 (fun t j => t.releaseDue (outPrecision j)) (State.forEach 4 State.chainSnapshot s)

/-- A write of an event line's configuration (R271, R276, R285); it acts from the next tick. -/
def State.writeLineCfg (s : State) (i : Nat) (w : Wr) : State × Status :=
  if w.fld FIO_EL_CFG_UNIT = 3 then (s, .range) else (((s.keepActing w.addr).plainWrite w).bankFault (i / 16), .ok)

/-- A write of a precision output's configuration (R278). -/
def State.writePoCfg (s : State) (j : Nat) (w : Wr) : State × Status :=
  if w.was FIO_PO_CFG_EN = 1 ∧ w.changes (FIO_PO_CFG_PHY.mask ||| FIO_PO_CFG_SRC.mask ||| FIO_PO_CFG_EMU_PORT.mask) then
    (s, .state)
  else
    let t := s.plainWrite w
    let o := outPrecision j
    let src := w.fld FIO_PO_CFG_SRC
    let x := { t.out o with emu := t.emuLevel (w.fld FIO_PO_CFG_EMU_PORT) src }
    let u := (t.setOut o (if src ≠ 0 then { x with edges := [], lastEnd := none } else x)).refresh o
    (if w.was FIO_PO_CFG_EN = 0 ∧ w.fld FIO_PO_CFG_EN = 1 then u.holdOut (outPrecision j) else u, .ok)

/-- A write to a register of the FIO block: `i` is the bank, line, output or chain. -/
def State.writeFio (s : State) (i _k : Nat) (w : Wr) : State × Status :=
  if w.base = FIO_BANK_STAT 0 then (s.outFaultClear i (w.act.getF FIO_BANK_STAT_OUT_FAULT), .ok)
  else if w.base = FIO_BANK_SW 0 then ((s.keepActing w.addr).plainWrite w, .ok)
  else if w.base = FIO_EL_CFG 0 then s.writeLineCfg i w
  else if w.base = FIO_PO_CFG 0 then s.writePoCfg i w
  else if w.base = FIO_CH_CFG 0 then s.writeChainCfg i w
  else if w.base = FIO_CH_PER 0 then
    if s.flag (FIO_CH_CFG i) FIO_CH_CFG_EN ∧ w.changes 0xFFFFFFFF then (s, .state) else (s.plainWrite w, .ok)
  else if w.base = FIO_CH_FILT 0 then
    if s.flag (FIO_CH_CFG i) FIO_CH_CFG_EN ∧ w.changes 0xFFFFFFFF then (s, .state) else (s.plainWrite w, .ok)
  else if w.base = FIO_CH_SW 0 0 then
    ((s.keepActing w.addr).plainWrite w, .ok)
  else (s.plainWrite w, .ok)

/-- The filtered levels of a bank: a line with DIR = 1 shows the readback of its own pin, which follows its logic while
it is driven (R274). -/
def State.bankLevels (s : State) (b : Nat) : Nat :=
  (List.range 16).foldl (fun m k => if s.line (16 * b + k) then m + 2 ^ k else m) 0

/-- ASSERTED: the logic state of the precision outputs (R278, R285); an emulation source shows its emulation output. -/
def State.poAsserted (s : State) : Nat :=
  (List.range 16).foldl (fun m j => if (s.out (outPrecision j)).on then m + 2 ^ j else m) 0

/-- A register of the FIO block as it reads (R285). -/
def State.viewFio (s : State) (b i a : Nat) : Word :=
  if b = FIO_BANK_STAT 0 then
    (s.rg a).setF FIO_BANK_STAT_DRIVEN
      (b2n (s.driveOn && s.flag a FIO_BANK_STAT_BS_OK && s.flag a FIO_BANK_STAT_BANK_EN))
  else if b = FIO_BANK_LEVEL 0 then BitVec.ofNat 32 (s.bankLevels i)
  else if b = FIO_PO_STAT then BitVec.ofNat 32 s.poAsserted
  else if b = FIO_CH_STAT 0 then
    (s.rg a).setF FIO_CH_STAT_RUN (b2n ((s.chain i).running || (s.chain i).stopping))
  else s.rg a

end Sys2Proof.Machine
end

