-- ==== Sys2Proof/Machine/Pwm.lean ====
section
/-! DEFINITION. PWM generators and trips (R251 to R270). -/

namespace Sys2Proof.Machine

/-- A field of PWMn_CFG. -/
def State.pwmCfg (s : State) (n : Nat) (f : Fld) : Nat := s.fld (PWM_CFG n) f

/-- Generator `n` runs: setting EN acts at once, clearing it from the next tick (R266). -/
def State.pwmEn (s : State) (n : Nat) : Bool :=
  decide (s.pwmCfg n PWM_CFG_EN = 1) || decide (s.actFld (PWM_CFG n) PWM_CFG_EN = 1)

/-- TRIP_MASK as it acts: trips come before the writes of a tick (R267). -/
def State.pwmMask (s : State) (n : Nat) : Nat := s.actFld (PWM_CFG n) PWM_CFG_TRIP_MASK

/-- PERIOD, DUTY, the dead times, MINPULSE and BLANK in force. -/
def State.pwmPeriod (s : State) (n : Nat) : Nat := (s.actRg (PWM_PERIOD n)).toNat
def State.pwmDuty (s : State) (n : Nat) : Nat := (s.actRg (PWM_DUTY n)).toNat
def State.pwmDtR (s : State) (n : Nat) : Nat := s.fld (PWM_DT n) PWM_DT_DT_R
def State.pwmDtF (s : State) (n : Nat) : Nat := s.fld (PWM_DT n) PWM_DT_DT_F
def State.pwmMin (s : State) (n : Nat) : Nat := s.fld (PWM_MINP n) PWM_MINP_MINPULSE
def State.pwmBlank (s : State) (n : Nat) : Nat := s.fld (PWM_MINP n) PWM_MINP_BLANK

/-- Centre-aligned counting. -/
def State.pwmCentre (s : State) (n : Nat) : Bool := decide (s.pwmCfg n PWM_CFG_ALIGN = 1)

/-- TRIP_STICKY. -/
def State.pwmTripped (s : State) (n : Nat) : Bool := s.flag (PWM_STAT n) PWM_STAT_TRIP_STICKY

/-- Notification source of generator `n` (R268). -/
def pwmSource (n : Nat) : Nat := 96 + n

/-- The length of a period in ticks (R251). -/
def State.pwmTicks (s : State) (n : Nat) : Nat :=
  if s.pwmCentre n then 2 * s.pwmPeriod n else s.pwmPeriod n + 1

/-- The present tick's place in its period. -/
def State.pwmPhase (s : State) (n : Nat) : Nat :=
  let x := s.pwm n
  if x.turned then 2 * s.pwmPeriod n - x.count else x.count

/-- DUTY as the reference uses it: clamped to PERIOD when centre-aligned (R252). -/
def State.pwmDutyEff (s : State) (n : Nat) : Nat :=
  if s.pwmCentre n then Nat.min (s.pwmDuty n) (s.pwmPeriod n) else s.pwmDuty n

/-- The rising condition of the reference at the present count (R252, R255): CENTRE rises in the rising half alone, EDGE at
the boundary, or where a DUTY comes into force under IMMEDIATE that the count has not reached. -/
def State.pwmRises (s : State) (n : Nat) : Bool :=
  let x := s.pwm n
  let d := s.pwmDutyEff n
  let p := s.pwmPeriod n
  if s.pwmCentre n then !x.down && (decide (p - d < x.count) || decide (d = p))
  else decide (x.count < d) && (decide (x.count = 0) || decide (x.judgeFrom = s.time))

/-- The falling condition of the reference at the present count (R252). A CENTRE period begins with the reference low
unless DUTY = PERIOD: a reference still high at its count 0 falls there. -/
def State.pwmFalls (s : State) (n : Nat) : Bool :=
  let x := s.pwm n
  let d := s.pwmDutyEff n
  let p := s.pwmPeriod n
  if s.pwmCentre n then decide (d ≠ p) && (if x.down then decide (x.count < p - d) else decide (x.count = 0) && !x.rose)
  else decide (d ≤ x.count)

/-- Ticks from this tick to the scheduled fall of the reference, none where it does not fall in this period (R257). -/
def State.pwmToFall (s : State) (n : Nat) : Option Nat :=
  let d := s.pwmDutyEff n
  let p := s.pwmPeriod n
  if s.pwmCentre n then
    if d = p then none else some (p + d + 1 - s.pwmPhase n)
  else if p < d then none
  else some (d - (s.pwm n).count)

/-- Ticks from this tick to the next scheduled rise of the reference, none where it does not rise (R257). -/
def State.pwmToRise (s : State) (n : Nat) : Option Nat :=
  let d := s.pwmDutyEff n
  let p := s.pwmPeriod n
  if d = 0 then none
  else if s.pwmCentre n then
    let rise := if d = p then 0 else p - d + 1
    some (if s.pwmPhase n < rise then rise - s.pwmPhase n else 2 * p - s.pwmPhase n + rise)
  else some (p + 1 - (s.pwm n).count)

/-- The two outputs by name: H is true. -/
def Pwm.out (x : Pwm) (h : Bool) : PwmOut := if h then x.h else x.l

/-- The generator with one output replaced. -/
def Pwm.setOut (x : Pwm) (h : Bool) (o : PwmOut) : Pwm := if h then { x with h := o } else { x with l := o }

/-- The state with one output of a generator replaced. -/
def State.setPwmOut (s : State) (n : Nat) (h : Bool) (o : PwmOut) : State := s.setPwm n ((s.pwm n).setOut h o)

/-- Dead time of an output. -/
def State.pwmDead (s : State) (n : Nat) (h : Bool) : Nat := if h then s.pwmDtR n else s.pwmDtF n

/-- The generator's outputs are driven (R26, R28): its trip states and pulses reach the pins. -/
def State.pwmDriven (s : State) (n : Nat) : Bool := s.driveOn && !(s.pwm n).driveWait

/-- An edge of an output starts the blanking window (R262). -/
def State.pwmEdge (s : State) (n : Nat) : State :=
  s.setPwm n { s.pwm n with blankEnd := s.time + s.pwmBlank n, blanking := decide (0 < s.pwmBlank n) }

/-- An output goes active (R256), counting a driven edge in its tally (R268). -/
def State.pwmStart (s : State) (n : Nat) (h : Bool) : State :=
  let o := (s.pwm n).out h
  let s1 := (s.setPwmOut n h { o with active := true, startAt := none, startTick := s.time }).pwmEdge n
  if s1.pwmDriven n then s1.bumpTally (2192 + n) 1 else s1

/-- An output goes inactive (R256). -/
def State.pwmEnd (s : State) (n : Nat) (h : Bool) : State :=
  let o := (s.pwm n).out h
  if o.active then
    (s.setPwmOut n h { o with active := false, holdEnd := none, stretched := false, lastEnd := s.time }).pwmEdge n
  else s

/-- The tick in which an output's pulse ends, as far as a start that waits on the other output must know it: that of a
held pulse, that of a stretched pulse which has not started yet, or the last end (R256, R257). -/
def State.pwmEndOf (s : State) (n : Nat) (o : PwmOut) : Nat :=
  match o.holdEnd, o.startAt with
  | some e, _ => e
  | none, some t => if o.stretched then t + s.pwmMin n else o.lastEnd
  | none, none => o.lastEnd

/-- The reference edge that ends an output's pulse: the pulse ends, is held to MINPULSE (R258), or the start that waits
is swallowed and dropped or stretched, dropped where a stretched pulse delays it (R257). -/
def State.pwmRefEnds (s : State) (n : Nat) (h : Bool) : State :=
  let o := (s.pwm n).out h
  if o.active then
    if s.time < o.startTick + s.pwmMin n then
      (s.setPwmOut n h { o with holdEnd := some (o.startTick + s.pwmMin n) }).count (PWM_CNT0 n)
        PWM_CNT0_STRETCHED (b2n (!o.stretched))
    else s.pwmEnd n h
  else
    match o.startAt with
    | none => s
    | some _ =>
      if o.stretched then s
      else if s.pwmCfg n PWM_CFG_SHORT = 1 ∧ ¬o.delayed then
        (s.setPwmOut n h { o with stretched := true }).count (PWM_CNT0 n) PWM_CNT0_STRETCHED 1
      else (s.setPwmOut n h { o with startAt := none }).count (PWM_CNT0 n) PWM_CNT0_DROPPED 1

/-- The reference edge that asks for an output's pulse: its start falls due a dead time after the edge, and no sooner
than a dead time after the other output's end (R256, R257). An output whose pulse is held or waits to be stretched takes
no second start: its pulse goes on. -/
def State.pwmRefAsks (s : State) (n : Nat) (h : Bool) : State :=
  if ¬h ∧ s.pwmCfg n PWM_CFG_L_EN = 0 then s
  else if s.pwmTripped n then s
  else
    let o := (s.pwm n).out h
    let other := (s.pwm n).out (!h)
    if o.active ∨ o.startAt.isSome then s
    else
      s.setPwmOut n h { o with startAt := some (Nat.max (s.time + s.pwmDead n h) (s.pwmEndOf n other + s.pwmDead n h)),
                               stretched := false, delayed := other.stretched }

/-- REFERENCE_EDGE is due: the condition of R252 asks for a level that the reference does not have, and that edge has
not yet been made in this period (R255). A fall at the start of a CENTRE period is not that period's fall. -/
def State.pwmRefDue (s : State) (n : Nat) : Bool :=
  let x := s.pwm n
  s.pwmEn n && ((x.ref && s.pwmFalls n && !x.fell) || (!x.ref && s.pwmRises n && !x.rose && !x.fell))

/-- REFERENCE_EDGE: the reference rises or falls, ending one output and asking for the other (R252, R256). -/
def State.pwmRefEdge (s : State) (n : Nat) : State :=
  if s.pwmRefDue n then
    let x := s.pwm n
    if x.ref then
      ((s.setPwm n { x with ref := false, fell := x.down || !s.pwmCentre n }).pwmRefEnds n true).pwmRefAsks n false
    else
      ((s.setPwm n { x with ref := true, rose := true }).pwmRefEnds n false).pwmRefAsks n true
  else s

/-- The start of an output falls due in this tick (R256): the other output has been inactive for its dead time. -/
def State.pwmStartDue (s : State) (n : Nat) (h : Bool) : Bool :=
  match ((s.pwm n).out h).startAt with
  | some t => decide (t ≤ s.time) && !((s.pwm n).out (!h)).active &&
      decide (((s.pwm n).out (!h)).lastEnd + s.pwmDead n h ≤ s.time)
  | none => false

/-- The requested length of an output's pulse from this tick (R257); none where its end is not scheduled. -/
def State.pwmLength (s : State) (n : Nat) (h : Bool) : Option Nat := if h then s.pwmToFall n else s.pwmToRise n

/-- DEAD_TIME_EXPIRY: the pulse is judged and started, dropped or stretched (R256, R257). -/
def State.pwmDeadExpiry (s : State) (n : Nat) (h : Bool) : State :=
  if s.pwmStartDue n h then
    let o := (s.pwm n).out h
    let short := match s.pwmLength n h with
      | some k => decide (k < s.pwmMin n)
      | none => false
    if o.stretched then
      let s1 := s.pwmStart n h
      s1.setPwmOut n h { (s1.pwm n).out h with holdEnd := some (s1.time + s1.pwmMin n) }
    else if short then
      if s.pwmCfg n PWM_CFG_SHORT = 1 ∧ o.delayed = false then
        let s1 := (s.pwmStart n h).count (PWM_CNT0 n) PWM_CNT0_STRETCHED 1
        s1.setPwmOut n h { (s1.pwm n).out h with stretched := true, holdEnd := some (s1.time + s1.pwmMin n) }
      else (s.setPwmOut n h { o with startAt := none }).count (PWM_CNT0 n) PWM_CNT0_DROPPED 1
    else s.pwmStart n h
  else s

/-- A pulse held to MINPULSE has reached it. -/
def State.pwmHoldDue (s : State) (n : Nat) (h : Bool) : Bool :=
  match ((s.pwm n).out h).holdEnd with
  | some t => decide (t ≤ s.time)
  | none => false

/-- MINPULSE_HOLD_END: the held pulse ends, and the other output's delay runs from the held end (R257, R258). -/
def State.pwmHoldEnd (s : State) (n : Nat) (h : Bool) : State :=
  if s.pwmHoldDue n h then
    let asks := if h then !(s.pwm n).ref else (s.pwm n).ref
    if asks then s.pwmEnd n h
    else s.setPwmOut n h { (s.pwm n).out h with holdEnd := none, stretched := false }
  else s

/-- A point of the period that starts the ADC trigger delay (R260). -/
def State.pwmAdcPoint (s : State) (n bit : Nat) : State :=
  if bitOf (s.pwmCfg n PWM_CFG_ADC_SRC) bit then
    let x := s.pwm n
    let s1 := if x.adcAt.isSome then s.count (PWM_CNT1 n) PWM_CNT1_ADC_LOST 1 else s
    s1.setPwm n { x with adcAt := some (s.time + s.fld (PWM_ADC n) PWM_ADC_ADC_DLY) }
  else s

/-- The trigger delay has expired. -/
def State.pwmOfferDue (s : State) (n : Nat) : Bool :=
  match (s.pwm n).adcAt with
  | some t => decide (t ≤ s.time)
  | none => false

/-- ADC_TRIGGER_OFFER (R260). -/
def State.pwmOffer (s : State) (n : Nat) : State :=
  if s.pwmOfferDue n then
    (s.setPwm n { s.pwm n with adcAt := none }).adcOfferPwm (s.pwmCfg n PWM_CFG_ADC_CONV) n
  else s

/-- Loads staged PERIOD and DUTY (R253). -/
def State.pwmLoad (s : State) (n : Nat) : State :=
  let x := s.pwm n
  let s1 := match x.stagedPeriod with
    | some v => s.setActing (PWM_PERIOD n) v
    | none => s
  let s2 := match x.stagedDuty with
    | some v => s1.setActing (PWM_DUTY n) v
    | none => s1
  s2.setPwm n { s2.pwm n with stagedPeriod := none, stagedDuty := none }

/-- Loads the staged dead times, MINPULSE and BLANK (R253). -/
def State.pwmLoadDt (s : State) (n : Nat) : State :=
  let x := s.pwm n
  let s1 := match x.stagedDt with
    | some v => s.setRg (PWM_DT n) v
    | none => s
  let s2 := match x.stagedMinp with
    | some v => s1.setRg (PWM_MINP n) v
    | none => s1
  s2.setPwm n { s2.pwm n with stagedDt := none, stagedMinp := none }

/-- Trip inputs selected by TRIP_MASK that are at their filtered active level. -/
def State.pwmTripActive (s : State) (n : Nat) : Nat :=
  (List.range 8).foldl (fun m i =>
    if (s.trip i).active ∧ bitOf (s.pwmMask n) i then m + 2 ^ i else m) 0

/-- Every selected input has stayed inactive throughout the last BLANK ticks (R265). -/
def State.pwmQuiet (s : State) (n : Nat) : Bool :=
  (List.range 8).all fun i => !bitOf (s.pwmMask n) i ||
    (!(s.trip i).active && decide ((s.trip i).since + s.pwmBlank n ≤ s.time))

/-- An output's trip state is ACTIVE (R263). -/
def State.pwmTripHigh (s : State) (n : Nat) (h : Bool) : Bool :=
  decide (s.pwmCfg n (if h then PWM_CFG_H_TRIP else PWM_CFG_L_TRIP) = 1)

/-- A trip clears (R265, R268): the outputs follow the reference of the new period. A trip state ACTIVE ends, which is an
end edge of that output (R256, R262). -/
def State.pwmClear (s : State) (n : Nat) : State :=
  let calm (h : Bool) : PwmOut :=
    let o := (s.pwm n).out h
    { o with
      active := false
      startAt := none
      holdEnd := none
      stretched := false
      lastEnd := if s.pwmTripHigh n h then s.time else o.lastEnd }
  let t := ((((s.setFlag (PWM_STAT n) PWM_STAT_TRIP_STICKY false).setFlag (PWM_STAT n) PWM_STAT_CLR_PEND false).raise
    (pwmSource n) 4).faultEnd fltPwmTrip n).setPwm n { s.pwm n with ref := false, h := calm true, l := calm false }
  if s.pwmTripHigh n true ∨ s.pwmTripHigh n false then t.pwmEdge n else t

/-- The judging of a pending clear at a boundary (R264, R265). -/
def State.pwmJudgeClear (s : State) (n : Nat) : State :=
  if s.pwmTripped n then
    let s1 :=
      if s.pwmCfg n PWM_CFG_TRIP_MODE = 1 ∧ ¬s.flag (PWM_STAT n) PWM_STAT_CLR_PEND then
        if s.pwmTripActive n ≠ 0 then
          (s.count (PWM_CNT1 n) PWM_CNT1_TRIP_CLEAR_REFUSED 1).raise (pwmSource n) 2
        else s.setFlag (PWM_STAT n) PWM_STAT_CLR_PEND true
      else s
    if s1.flag (PWM_STAT n) PWM_STAT_CLR_PEND ∧ s1.pwmQuiet n then s1.pwmClear n else s1
  else s

/-- A boundary (R251, R253, R259, R265): the count stands at 0, rising; staged values are loaded, PERIOD and DUTY under
MID not; pending clears are judged, and a new reference period begins. -/
def State.pwmBoundaryNow (s : State) (n : Nat) : State :=
  let s0 := (if s.pwmCfg n PWM_CFG_UPD = 2 then s else s.pwmLoad n).pwmLoadDt n
  let s1 := s0.setPwm n
    { s0.pwm n with
        count := 0, down := false, turned := false, rose := false, fell := false, bndDue := false, midDue := false,
        cutAt := none, driveWait := false, bndTick := some s.time }
  let s2 := s1.pwmJudgeClear n
  let s3 := if s2.pwmCfg n PWM_CFG_NTF_BND = 1 then s2.raise (pwmSource n) 8 else s2
  let s4 := s3.pwmAdcPoint n 0
  -- a reference that stays high across the boundary, or is high where the new period starts low, is judged here
  if (s4.pwm n).ref then
    if s4.pwmFalls n then s4 else s4.setPwm n { s4.pwm n with rose := true }
  else s4

/-- PWM_BOUNDARY: the boundary that the counter has reached (R251). -/
def State.pwmBoundary (s : State) (n : Nat) : State := if (s.pwm n).bndDue then s.pwmBoundaryNow n else s

/-- MID_PERIOD_POINT (R251, R253, R260). -/
def State.pwmMid (s : State) (n : Nat) : State :=
  if (s.pwm n).midDue then
    let s1 := s.setPwm n { s.pwm n with midDue := false }
    let s2 := if 2 ≤ s1.pwmCfg n PWM_CFG_UPD then s1.pwmLoad n else s1
    s2.pwmAdcPoint n 1
  else s

/-- A cut of R254 is due. -/
def State.pwmCutDue (s : State) (n : Nat) : Bool :=
  match (s.pwm n).cutAt with
  | some t => decide (t ≤ s.time)
  | none => false

/-- PWM_PERIOD_CUT (R254). -/
def State.pwmCut (s : State) (n : Nat) : State :=
  if s.pwmCutDue n then
    ((s.latch (PWM_STAT n) PWM_STAT_PERIOD_CUT).raise (pwmSource n) 16).pwmBoundaryNow n
  else s

/-- A resynchronisation (R259): several in one tick count as one, and one in the tick of a boundary raises no second
boundary. -/
def State.pwmResync (s : State) (n : Nat) : State :=
  if s.pwmEn n ∧ (s.pwm n).resyncTick ≠ some s.time then
    let t := (s.setPwm n { s.pwm n with resyncTick := some s.time }).count (PWM_CNT2 n) PWM_CNT2_RESYNCS 1
    if (s.pwm n).bndTick = some s.time then t else t.pwmBoundaryNow n
  else s

/-- The lattice number that φ of the lock shaft has reached (R259). -/
def State.pwmLattice (s : State) (n : Nat) : Int :=
  let sh := s.fld (PWM_LOCK n) PWM_LOCK_LOCK_SHAFT
  (s.phi sh - (s.rg (PWM_LOCK_OFS n)).toNat * 65536) / ((s.rg (PWM_LOCK_PITCH n)).toNat * 65536 : Nat)

/-- Angle locking acts (R259): the shaft has a valid angle and moves forward. -/
def State.pwmLocks (s : State) (n : Nat) : Bool :=
  let sh := s.fld (PWM_LOCK n) PWM_LOCK_LOCK_SHAFT
  s.pwmEn n && s.flag (PWM_LOCK n) PWM_LOCK_LOCK_EN && decide (s.rg (PWM_LOCK_PITCH n) ≠ 0) && s.angValid sh &&
    !(s.shaft sh).dir

/-- A new lattice angle has been reached. -/
def State.pwmLockDue (s : State) (n : Nat) : Bool :=
  s.pwmLocks n &&
    (match (s.pwm n).lockK with
     | some k => decide (k < s.pwmLattice n)
     | none => true)

/-- ANGLE_LOCK: a new lattice angle resynchronises the generator (R259). The number first seen when locking begins to
act is the reference and makes no resynchronisation. -/
def State.pwmAngleLock (s : State) (n : Nat) : State :=
  if s.pwmLockDue n then
    let t := s.setPwm n { s.pwm n with lockK := some (s.pwmLattice n) }
    match (s.pwm n).lockK with
    | some _ => t.pwmResync n
    | none => t
  else s

/-- Ends a pulse in a tick and counts it in CUT_SHORT where it has not lasted MINPULSE (R258, R263, R266); a start that
waits does not come. -/
def State.pwmKill (s : State) (n at_ : Nat) (h : Bool) : State :=
  let o := (s.pwm n).out h
  if o.active then
    ((if at_ < o.startTick + s.pwmMin n then s.count (PWM_CNT1 n) PWM_CNT1_CUT_SHORT 1 else s).setPwmOut n h
      { o with active := false, startAt := none, holdEnd := none, stretched := false, lastEnd := at_ }).pwmEdge n
  else s.setPwmOut n h { o with startAt := none, stretched := false }

/-- A trip drives an output to its trip state: ACTIVE is an active edge of an output that was not active (R263, R268). -/
def State.pwmTripEdge (s : State) (n : Nat) (h was : Bool) : State :=
  if s.pwmTripHigh n h ∧ ¬was ∧ s.pwmDriven n then s.bumpTally (2192 + n) 1 else s

/-- A trip (R263, R268): `src` is the set of inputs found active. -/
def State.pwmTrip (s : State) (n src : Nat) : State :=
  if s.pwmTripped n then s
  else
    let x := s.pwm n
    let s0 := (s.pwmKill n s.time true).pwmKill n s.time false
    let s1 := (s0.pwmTripEdge n true x.h.active).pwmTripEdge n false x.l.active
    let s2 := ((s1.setFlag (PWM_STAT n) PWM_STAT_TRIP_STICKY true).setFld (PWM_STAT n) PWM_STAT_TRIP_SRC src).count
      (PWM_CNT1 n) PWM_CNT1_TRIPS 1
    let s3 := if s2.pwmCfg n PWM_CFG_NTF_TRIP = 1 then s2.raise (pwmSource n) 1 else s2
    s3.faultRaise fltPwmTrip n 2 1

/-- The generator is blanked in this tick (R262). -/
def State.pwmBlanked (s : State) (n : Nat) : Bool := (s.pwm n).blanking && decide (s.time < (s.pwm n).blankEnd)

/-- A selected input at its active level trips a generator that is not blanked (R262). -/
def State.pwmJudgeTrip (s : State) (n : Nat) : State :=
  if s.pwmTripActive n ≠ 0 ∧ ¬s.pwmBlanked n then s.pwmTrip n (s.pwmTripActive n) else s

/-- The blanking window of a generator has ended, or a selected input is active that no window blanks: an input active
already where TRIP_MASK comes to select it (R262). -/
def State.pwmBlankDue (s : State) (n : Nat) : Bool :=
  ((s.pwm n).blanking && decide ((s.pwm n).blankEnd ≤ s.time)) ||
    (!s.trips.isEmpty && !s.pwmTripped n && !s.pwmBlanked n && decide (s.pwmTripActive n ≠ 0))

/-- BLANKING_END: an input still active trips the generator in that tick (R262). -/
def State.pwmBlankEnd (s : State) (n : Nat) : State :=
  if s.pwmBlankDue n then (s.setPwm n { s.pwm n with blanking := false }).pwmJudgeTrip n else s

/-- A pending clear is dropped when a selected input turns active (R265). -/
def State.pwmDropClear (s : State) (n i : Nat) : State :=
  if s.flag (PWM_STAT n) PWM_STAT_CLR_PEND ∧ bitOf (s.pwmMask n) i then
    ((s.setFlag (PWM_STAT n) PWM_STAT_CLR_PEND false).count (PWM_CNT1 n) PWM_CNT1_TRIP_CLEAR_REFUSED 1).raise
      (pwmSource n) 2
  else s

/-- TRIP_INPUT_ACCEPT: the filter of trip input `i` accepts a level at the pin (R261, R262). -/
def State.tripAccept (s : State) (i : Nat) (pin : Bool) : State :=
  let active := pin != s.flag (PWM_TRIP_CFG i) PWM_TRIP_CFG_POL
  if (s.trip i).active = active then s
  else
    let s1 := s.setTrip i { active := active, since := s.time }
    if active then
      State.forEach 24 (fun t n => (t.pwmDropClear n i).pwmJudgeTrip n) (s1.count (PWM_TRIP_CNT i) PWM_TRIP_CNT_ACCEPT 1)
    else s1

/-- A write of 1 to TRIP_CLR (R265). -/
def State.pwmTripClr (s : State) (n : Nat) : State × Status :=
  if s.pwmTripped n then
    if s.pwmTripActive n ≠ 0 then
      ((s.count (PWM_CNT1 n) PWM_CNT1_TRIP_CLEAR_REFUSED 1).raise (pwmSource n) 2, .state)
    else (s.setFlag (PWM_STAT n) PWM_STAT_CLR_PEND true, .ok)
  else (s, .ok)

/-- A write to PWMn_CMD (R259, R262, R265). -/
def State.pwmCommand (s : State) (n : Nat) (w : Wr) : State × Status :=
  let s1 := if w.acts PWM_CMD_RESYNC then s.pwmResync n else s
  let s2 := if w.acts PWM_CMD_TRIP_FORCE then s1.pwmTrip n (s1.pwmTripActive n) else s1
  if w.acts PWM_CMD_TRIP_CLR then s2.pwmTripClr n else (s2, .ok)

/-- Fields of PWMn_CFG that may be written while EN is 1 (R269). -/
def pwmFreeMask : Word :=
  PWM_CFG_EN.mask ||| PWM_CFG_SHORT.mask ||| PWM_CFG_NTF_TRIP.mask ||| PWM_CFG_NTF_BND.mask ||| PWM_CFG_ADC_SRC.mask |||
    PWM_CFG_ADC_CONV.mask

/-- The checks of a write that sets EN (R269). -/
def State.pwmCfgOk (s : State) (n : Nat) (cfg : Word) : Bool :=
  let p := match (s.pwm n).stagedPeriod with
    | some v => v
    | none => s.rg (PWM_PERIOD n)
  decide (p ≠ 0) && decide (cfg.getF PWM_CFG_H_TRIP ≠ 3) && decide (cfg.getF PWM_CFG_L_TRIP ≠ 3) &&
    !(decide (cfg.getF PWM_CFG_H_TRIP = 1) && decide (cfg.getF PWM_CFG_L_TRIP = 1)) &&
    !(s.flag (PWM_LOCK n) PWM_LOCK_LOCK_EN && decide (s.rg (PWM_LOCK_PITCH n) = 0))

/-- Setting EN: all staged values are loaded, a new period starts at count 0 with a boundary, and each output's first
start waits its full delay (R266). -/
def State.pwmEnable (s : State) (n : Nat) : State :=
  let t := ((s.actNow (PWM_PERIOD n)).actNow (PWM_DUTY n)).pwmLoad n
  (t.setPwm n { t.pwm n with ref := false, lockK := none }).pwmBoundaryNow n

/-- The tick after EN is cleared (R266): both outputs go inactive, the counter holds, a pending ADC trigger is discarded. A
tripped generator keeps its trip states. -/
def State.pwmStops (s : State) (n : Nat) : State :=
  let s1 := (s.pwmKill n s.time true).pwmKill n s.time false
  let s2 := s1.count (PWM_CNT2 n) PWM_CNT2_DISCARD (b2n (s1.pwm n).adcAt.isSome)
  s2.setPwm n { s2.pwm n with ref := false, adcAt := none, bndDue := false, midDue := false, cutAt := none }

/-- A write of PWMn_CFG (R266, R269). A generator that stops and starts in one tick stops first. -/
def State.writePwmCfg (s : State) (n : Nat) (w : Wr) : State × Status :=
  let t := (s.keepActing w.addr).plainWrite w
  if w.was PWM_CFG_EN = 1 ∧ w.changes (~~~ pwmFreeMask) then (s, .state)
  else if w.was PWM_CFG_EN = 0 ∧ w.fld PWM_CFG_EN = 1 then
    if s.pwmCfgOk n w.new then ((if s.pwmEn n then t.pwmStops n else t).pwmEnable n, .ok) else (s, .range)
  else (t, .ok)

/-- PERIOD or DUTY of a generator takes a word under IMMEDIATE: it acts from the next tick (R253). -/
def State.pwmPut (s : State) (n a : Nat) (v : Word) : State :=
  (if s.pwmEn n then s.keepActing a else s).setRg a v

/-- A write of PERIOD: in force from the next tick under IMMEDIATE, replacing a staged value; staged otherwise (R253). -/
def State.pwmWritePeriod (s : State) (n : Nat) (v : Word) : State :=
  if s.pwmCfg n PWM_CFG_UPD = 0 then (s.pwmPut n (PWM_PERIOD n) v).setPwm n { s.pwm n with stagedPeriod := none }
  else s.setPwm n { s.pwm n with stagedPeriod := some v }

/-- A write of DUTY: in force from the next tick under IMMEDIATE, replacing a staged value; staged otherwise (R253). -/
def State.pwmWriteDuty (s : State) (n : Nat) (v : Word) : State :=
  if s.pwmCfg n PWM_CFG_UPD = 0 then (s.pwmPut n (PWM_DUTY n) v).setPwm n { s.pwm n with stagedDuty := none }
  else s.setPwm n { s.pwm n with stagedDuty := some v }

/-- What was written to a generator in the tick before acts, before its counter steps: a PERIOD at or below COUNT cuts the
period in this tick (R254), a DUTY is judged anew (R255), and a generator whose EN has been cleared stops (R266). -/
def State.pwmActs (s : State) (a : Nat) : State :=
  let n := (a - 0x140000) / 0x100
  let x := s.pwm n
  if a = PWM_PERIOD n then
    (if s.pwmEn n ∧ s.pwmPeriod n ≤ x.count then s.setPwm n { x with cutAt := some s.time } else s)
  else if a = PWM_DUTY n then s.setPwm n { x with judgeFrom := s.time }
  else if a = PWM_CFG n ∧ ¬s.pwmEn n then s.pwmStops n
  else s

/-- What was written to the generators in the tick before acts. -/
def State.pwmsTick (s : State) (old : List (Nat × Word)) : State :=
  (old.filter fun e => decide (0x140000 ≤ e.1) && decide (e.1 < 0x141800)).foldl (fun t e => t.pwmActs e.1) s

/-- A write to a register of generator `n`. -/
def State.writePwm (s : State) (n : Nat) (w : Wr) : State × Status :=
  if w.base = PWM_CFG 0 then s.writePwmCfg n w
  else if w.base = PWM_CMD 0 then s.pwmCommand n w
  else if w.base = PWM_PERIOD 0 then (s.pwmWritePeriod n w.new, .ok)
  else if w.base = PWM_DUTY 0 then (s.pwmWriteDuty n w.new, .ok)
  else if w.base = PWM_DT 0 then
    (s.setPwm n { s.pwm n with stagedDt := some w.new }, .ok)
  else if w.base = PWM_MINP 0 then
    (s.setPwm n { s.pwm n with stagedMinp := some w.new }, .ok)
  else if w.base = PWM_LOCK 0 ∨ w.base = PWM_LOCK_PITCH 0 ∨ w.base = PWM_LOCK_OFS 0 then
    let t := (s.pwmAngleLock n).plainWrite w
    (t.setPwm n { t.pwm n with lockK := none }, .ok)
  else (s.plainWrite w, .ok)

/-- PWM_TRIP_STAT.LEVEL: the filtered active levels (R261). -/
def State.tripLevels (s : State) : Nat :=
  (List.range 8).foldl (fun m i => if (s.trip i).active then m + 2 ^ i else m) 0

/-- A register of generator `n` as it reads (R253, R270): PERIOD and DUTY as they are in force. -/
def State.viewPwm (s : State) (b n a : Nat) : Word :=
  let x := s.pwm n
  if b = PWM_COUNT 0 then BitVec.ofNat 32 x.count
  else if b = PWM_STAT 0 then
    ((((s.rg a).setF PWM_STAT_STAGED
      (b2n (x.stagedPeriod.isSome || x.stagedDuty.isSome || x.stagedDt.isSome || x.stagedMinp.isSome))).setF
      PWM_STAT_DOWN (b2n x.down)).setF PWM_STAT_H
      (b2n (if s.pwmTripped n then s.pwmTripHigh n true else x.h.active))).setF PWM_STAT_L
      (b2n (if s.pwmTripped n then s.pwmTripHigh n false else x.l.active))
  else if b = PWM_TRIP_STAT then BitVec.ofNat 32 s.tripLevels
  else if b = PWM_PERIOD 0 ∨ b = PWM_DUTY 0 then s.actRg a
  else s.rg a

/-- The generators that run, in ascending order. -/
def State.pwmsOn (s : State) : List Nat := (List.range 24).filter fun n => s.pwmEn n

/-- The step of a generator's counter in the tick that begins (R251): a boundary and a mid-period point become due.
A cut that is due replaces the step (R254). -/
def State.pwmTick (s : State) (n : Nat) : State :=
  if s.pwmEn n then
    let x := s.pwm n
    let p := s.pwmPeriod n
    if x.cutAt.isSome then s
    else if s.pwmCentre n then
      let c := if x.turned then x.count - 1 else x.count + 1
      let top := !x.turned && decide (p ≤ c)
      let zero := x.turned && decide (c = 0)
      s.setPwm n { x with count := c, down := x.turned && !zero, turned := top || (x.turned && !zero),
                          bndDue := zero, midDue := top }
    else
      let wrap := decide (p ≤ x.count)
      let c := if wrap then 0 else x.count + 1
      s.setPwm n { x with count := c, bndDue := wrap, midDue := decide (c = (p + 1) / 2) }
  else s

/-- The generators of a fall of OUT_LIVE: each pulse ended before MINPULSE counts in CUT_SHORT (R258); the logic runs on
undriven (R27). -/
def State.pwmFloat (s : State) : State :=
  State.forEach 24 (fun t n =>
    let short (o : PwmOut) : Nat := b2n (o.active && decide (t.time < o.startTick + t.pwmMin n))
    if ¬(t.pwm n).driveWait then t.count (PWM_CNT1 n) PWM_CNT1_CUT_SHORT (short (t.pwm n).h + short (t.pwm n).l) else t) s

/-- The generators at a rise of OUT_LIVE: each waits for its next period boundary (R28). -/
def State.pwmLive (s : State) : State :=
  State.forEach 24 (fun t n => if t.pwmEn n then t.setPwm n { t.pwm n with driveWait := true } else t) s

end Sys2Proof.Machine
end

