-- ==== Sys2Proof/Machine/Products.lean ====
section
/-! DEFINITION. The product records of the Ephemeris as other units reach them (R139 to R141). -/

namespace Sys2Proof.Machine

/-- Records in the store. -/
def storeSize : Nat := 65536

/-- Product record `i`. -/
def State.prod (s : State) (i : Nat) : Product := FMap.get (fun _ => Product.init) s.products i

/-- The state with a product record replaced. -/
def State.setProd (s : State) (i : Nat) (p : Product) : State :=
  { s with products := FMap.set (fun _ => Product.init) s.products i p }

/-- The product flags (R140). -/
def pfPresent : Nat := 1
def pfCoded : Nat := 2
def pfCodeMissed : Nat := 4
def pfOverspeed : Nat := 8
def pfInspectFail : Nat := 16
def pfReject : Nat := 32
def pfSuspect : Nat := 64
def pfHandedOff : Nat := 128

/-- Whether all bits of a mask are set in FLAGS and UFLAGS. -/
def Product.has (p : Product) (mask : Nat) : Bool := decide (Nat.land p.flags mask = mask)

/-- The record with flags set. -/
def Product.mark (p : Product) (mask : Nat) : Product := { p with flags := Nat.lor p.flags mask }

/-- The record with flags cleared. -/
def Product.unmark (p : Product) (mask : Nat) : Product :=
  { p with flags := Nat.land p.flags (Nat.xor 0xFFFF (mask % 65536)) }

/-- The 16 words of a record (R139). -/
def Product.words (p : Product) : List Word :=
  [ BitVec.ofNat 32 (p.st.code * 2 ^ 20 + p.lane % 16 * 2 ^ 16 + p.flags % 65536),
    BitVec.ofNat 32 p.pid,
    BitVec.ofNat 32 (unsigned 64 p.anchor),
    BitVec.ofNat 32 (unsigned 64 p.anchor / 2 ^ 32),
    BitVec.ofNat 32 p.entryTick,
    BitVec.ofNat 32 (p.entryTick / 2 ^ 32),
    BitVec.ofNat 32 (p.entryLane % 16 * 2 ^ 24 + p.hops % 256 * 2 ^ 16 + p.slot % 65536),
    p.attr,
    p.inspect,
    BitVec.ofNat 32 (p.verdictStn % 64 * 2 ^ 8 + p.verdict % 256),
    BitVec.ofNat 32 p.serial,
    BitVec.ofNat 32 (p.serial / 2 ^ 32),
    BitVec.ofNat 32 (p.rlane % 8 * 2 ^ 8 + p.template % 64),
    BitVec.ofNat 32 (b2n p.lastValid * 2 ^ 16 + p.lastStn % 256 * 2 ^ 8 + p.failed % 256),
    p.user0,
    p.user1 ]

/-- The 64 bytes of a record. -/
def Product.bytes (p : Product) : List Byte := bytesOfWords p.words

/-- The record that 64 bytes spell (R139), as a handoff carries it (R155). -/
def Product.ofBytes (bs : List Byte) : Product :=
  let w (i : Nat) : Nat := leAt bs (4 * i) 4
  { st := match bitsOf (w 0) 21 20 with
      | 0 => .free
      | 1 => .onLane
      | 2 => .inHandoff
      | _ => .retired
    lane := bitsOf (w 0) 19 16
    flags := w 0 % 65536
    pid := w 1
    anchor := signed 64 (leAt bs 8 8)
    entryTick := leAt bs 16 8
    entryLane := bitsOf (w 6) 27 24
    hops := bitsOf (w 6) 23 16
    slot := w 6 % 65536
    attr := BitVec.ofNat 32 (w 7)
    inspect := BitVec.ofNat 32 (w 8)
    verdictStn := bitsOf (w 9) 13 8
    verdict := w 9 % 256
    serial := leAt bs 40 8
    rlane := bitsOf (w 12) 10 8
    template := w 12 % 64
    lastValid := bitOf (w 13) 16
    lastStn := bitsOf (w 13) 15 8
    failed := w 13 % 256
    user0 := BitVec.ofNat 32 (w 14)
    user1 := BitVec.ofNat 32 (w 15)
    fired := 0, passed := 0 }

/-- The record is ON_LANE or IN_HANDOFF and still the product of that PID (R167, R198). -/
def State.prodLive (s : State) (i pid : Nat) : Bool :=
  let p := s.prod i
  (decide (p.st = .onLane) || decide (p.st = .inHandoff)) && decide (p.pid = pid)

/-- Sets flags in the record of a product that is still live; nothing otherwise (R198). -/
def State.markProduct (s : State) (who : Option (Nat × Nat)) (mask : Nat) : State :=
  match who with
  | some (i, pid) => if s.prodLive i pid then s.setProd i ((s.prod i).mark mask) else s
  | none => s

/-- The record index as a notification value, 0xFFFF where no product applies (R167, R202). -/
def prodValue : Option (Nat × Nat) → Nat
  | some (i, _) => i
  | none => 0xFFFF

/-- Ephemeris lane `n`. -/
def State.lane (s : State) (n : Nat) : EphLane := FMap.get (fun _ => EphLane.init) s.ephLanes n

/-- The state with an Ephemeris lane replaced. -/
def State.setLane (s : State) (n : Nat) (x : EphLane) : State :=
  { s with ephLanes := FMap.set (fun _ => EphLane.init) s.ephLanes n x }

/-- Every product on a lane bound to shaft `sh` is marked SUSPECT: entry of the shaft to LOST, or its EN cleared
(R151). -/
def State.lanesSuspect (s : State) (sh : Nat) : State :=
  State.forEach 16 (fun t n =>
    if t.fld (EPH_L_CFG n) EPH_L_CFG_SHAFT = sh then
      (t.lane n).prods.foldl (fun u i => u.setProd i ((u.prod i).mark pfSuspect)) t
    else t) s

end Sys2Proof.Machine
end

