-- ==== Sys2Proof/Machine/Project.lean ====
section
/-! DEFINITION. The firing angle of a shaft and its projection by a lead (R73, R83), and the conversion rate of the
Almanac (R70). -/

namespace Sys2Proof.Machine

/-- SRC of shaft `n`. -/
def State.shaftSrc (s : State) (n : Nat) : Nat := s.fld (SHF_CFG n) SHF_CFG_SRC

/-- The virtual kinds of shaft (R34). -/
def State.shaftVirtual (s : State) (n : Nat) : Bool := decide (3 ≤ s.shaftSrc n)

/-- The greatest microstep count: 65 535 whole microsteps (R49). -/
def muLimit : Nat := 65535 * 65536

/-- The angle at which mu is held (R73): 65 535/65 536 of the present interval, taken downward in reverse. -/
def Shaft.limit (x : Shaft) : Int :=
  let d : Int := ((x.span * 65535 / 65536 : Nat) : Int)
  if x.dir then x.base - d else x.base + d

/-- HALTED as R49, R50, R55 and R65 leave it. -/
def State.shaftHalted (s : State) (n : Nat) : Bool :=
  let x := s.shaft n
  s.angValid n && (if s.shaftVirtual n then x.vHold else decide (x.mu = muLimit))

/-- Ticks of a whole lead and 1/64 ticks: a lead in 1/64 ticks (R73). -/
def State.leadOf (s : State) (a : Nat) (ticks steps : Fld) : Nat := 64 * s.fld a ticks + s.fld a steps

/-- The projected angle in 2^-22 ang for a lead in 1/64 ticks (R73): never beyond the held limit on a real shaft, and φ
itself in step mode (R55). -/
def State.proj (s : State) (n lead : Nat) : Int :=
  let x := s.shaft n
  let p := 64 * x.fine + (lead : Int) * x.delta
  if s.shaftVirtual n then p
  else if x.hist.isEmpty then 64 * x.fine
  else if p < 64 * x.limit then p else Max.max (64 * x.fine) (64 * x.limit)

/-- The projected angle of the tick before (R83). -/
def State.projPrev (s : State) (n lead : Nat) : Int :=
  let x := s.shaft n
  let p := 64 * x.pre.fine + (lead : Int) * x.pre.delta
  if s.shaftVirtual n then p
  else if p < 64 * x.pre.limit then p else Max.max (64 * x.pre.fine) (64 * x.pre.limit)

/-- An accepted edge of this tick has itself moved φ to an angle or beyond (R83): such a start has no crossing. -/
def State.edgeReached (s : State) (n : Nat) (a : Int) : Bool :=
  !s.shaftVirtual n && decide ((s.shaft n).movedAt = some s.time) && decide (a ≤ (s.shaft n).fine)

/-- The projection has reached an angle in 2^-16 ang (R73). -/
def State.reached (s : State) (n lead : Nat) (a : Int) : Bool := decide (64 * a ≤ s.proj n lead)

/-- The vernier step of a crossing found in this tick (R83): ⌈64 × x⌉, none where the start has no crossing: an accepted
edge's move reached it, or the tick before had already passed it. -/
def State.crossing (s : State) (n lead : Nat) (a : Int) : Option Nat :=
  let p0 := s.projPrev n lead
  let p1 := s.proj n lead
  if s.edgeReached n a ∨ 64 * a ≤ p0 ∨ p1 ≤ p0 then none
  else
    let num := (64 * (64 * a - p0)).toNat
    let den := (p1 - p0).toNat
    some ((num + den - 1) / den)

/-- The tick and vernier step of a start edge at its pin, from its crossing (R83, R89): `lead` is the lead in force,
`latency` the path latency, both in ticks. -/
def placeEdge (time lead latency : Nat) : Option Nat → Nat × Nat
  | some f => if f < 64 then (time + lead - 1, f) else (time + lead, 0)
  | none => (time + latency, 0)

/-- Path latencies in ticks: the reset values of the leads (R90, R203). -/
def latencyEl : Nat := 8
def latencyPo : Nat := 12
def latencyStb : Nat := 10

/-- ρ of shaft `n` in 32.16 ang per tick (R70). -/
def State.rhoOf (s : State) (n : Nat) : Nat := (s.shaft n).rho

/-- The span of a machine cycle in ang (R45). -/
def State.cycleAng (s : State) (n : Nat) : Nat := (s.fld (SHF_WHEEL n) SHF_WHEEL_TURNS + 1) * 2 ^ 32

/-- Whether shaft `n` has a valid angle and moves forward. -/
def State.forward (s : State) (n : Nat) : Bool := s.angValid n && !(s.shaft n).dir

/-- Fabric time in 2^-16 ns at the present tick (R394, R396): 0 before any SYNC has been received. -/
def State.fabNs16 (s : State) : Int :=
  match s.tmap with
  | some m => m.ns16 + ((s.time : Int) - m.tick) * m.rate / 65536
  | none => 0

/-- Fabric time in whole ns. -/
def State.fabNs (s : State) : Int := s.fabNs16 / 65536

end Sys2Proof.Machine
end

