-- ==== Sys2Proof/Machine/Raster.lean ====
section
/-! DEFINITION. Raster lanes (R188 to R203): frames, strobes, the start and the end of a code, disabling. -/

namespace Sys2Proof.Machine

/-- Raster lane `n`. -/
def State.ras (s : State) (n : Nat) : RasLane := FMap.get (fun _ => RasLane.init) s.raster n

/-- The state with raster lane `n` replaced. -/
def State.setRas (s : State) (n : Nat) (x : RasLane) : State :=
  { s with raster := FMap.set (fun _ => RasLane.init) s.raster n x }

/-- EN, the shaft and the profile of a lane (R203). -/
def State.rasEn (s : State) (n : Nat) : Bool := s.flag (RAS_CTL n) RAS_CTL_EN
def State.rasShaft (s : State) (n : Nat) : Nat := s.fld (RAS_CTL n) RAS_CTL_SHAFT
def State.rasNozzles (s : State) (n : Nat) : Nat := s.fld (RAS_PROF0 n) RAS_PROF0_NOZZLES
def State.rasMap (s : State) (n : Nat) : Nat := s.fld (RAS_PROF0 n) RAS_PROF0_MAP
def State.rasBpn (s : State) (n : Nat) : Nat := s.fld (RAS_PROF0 n) RAS_PROF0_BPN
def State.rasHold (s : State) (n : Nat) : Nat := s.fld (RAS_PROF2 n) RAS_PROF2_HOLD
def State.rasSetup (s : State) (n : Nat) : Nat := s.fld (RAS_PROF1 n) RAS_PROF1_SETUP
def State.rasPitch (s : State) (n : Nat) : Nat := s.rg64 (RAS_PITCH_LO n) % 2 ^ 48
def State.rasMcp (s : State) (n : Nat) : Nat := s.fld (RAS_MCP n) RAS_MCP_MCP

/-- The lead of a lane in 1/64 ticks. -/
def State.rasLead (s : State) (n : Nat) : Nat := s.leadOf (RAS_LEAD n) RAS_LEAD_TICKS RAS_LEAD_STEPS

/-- P, the payload bits of a column (R192). -/
def rasPayload (nozzles bpn : Nat) : Nat := roundUp (nozzles * (bpn + 1)) 16

/-- frame_ticks for a payload (R191). -/
def frameTicks (p : Nat) : Nat := ((22 + p / 4) * 128 + 99) / 100

/-- frame_ticks of lane `n`. -/
def State.rasFrameTicks (s : State) (n : Nat) : Nat := frameTicks (rasPayload (s.rasNozzles n) (s.rasBpn n))

/-- mcp (R191). -/
def State.rasMinPeriod (s : State) (n : Nat) : Nat :=
  Nat.max 400 (Nat.max (s.fld (RAS_PROF1 n) RAS_PROF1_MIN_PER) (s.rasHold n + s.rasFrameTicks n + s.rasSetup n))

/-- The valid RDY level after RDY_POL (R189). -/
def State.rasReady (s : State) (n : Nat) : Bool := (s.ras n).rdyPin != s.flag (RAS_PROF0 n) RAS_PROF0_RDY_POL

/-- Notification source `i` of lane `n` (R202). -/
def rasSource (n i : Nat) : Nat := 128 + 8 * n + i

/-! ## Images in the ring -/

/-- Pool address of byte `o` of an image of lane `n` (R183). -/
def State.imageAddr (s : State) (n : Nat) (im : Image) (o : Nat) : Nat :=
  s.ringBase n * blockSize + (im.at_ * blockSize + o) % (s.ringSize n * blockSize)

/-- Bytes of a column, CB (R184). -/
def Image.columnBytes (im : Image) : Nat := (im.rows * (im.depth + 1) + 31) / 32 * 4

/-- The level of an image at a column and a row (R184). -/
def State.imageLevel (s : State) (n : Nat) (im : Image) (col row : Nat) : Nat :=
  let bit := row * (im.depth + 1)
  let b := (memRead s.pool (s.imageAddr n im (32 + col * im.columnBytes + bit / 8))).toNat
  if im.depth = 0 then bitsOf b (bit % 8) (bit % 8) else bitsOf b (bit % 8 + 1) (bit % 8)

/-- Whether any block of an image holds a poisoned word. -/
def State.imagePoisoned (s : State) (n : Nat) (im : Image) : Bool :=
  (List.range im.blocks).any fun k => s.rangePoisoned (s.imageAddr n im (k * blockSize)) blockSize

/-- The level that nozzle `k` fires in slot `j` of a code (R193, R194). -/
def State.rasLevel (s : State) (n : Nat) (c : Code) (j k : Nat) : Nat :=
  let im := c.im
  let stagger := if s.rasMap n = 2 ∧ k % 2 = 1 then s.fld (RAS_PROF0 n) RAS_PROF0_STAGGER else 0
  let row := if s.rasMap n = 1 then s.rasNozzles n - 1 - k else k
  if j < stagger ∨ im.cols ≤ j - stagger ∨ im.rows ≤ row then 0
  else
    let col := if s.flag (RAS_CTL n) RAS_CTL_REVERSE then im.cols - 1 - (j - stagger) else j - stagger
    let v := s.imageLevel n im col row
    if s.rasBpn n = im.depth then v
    else if im.depth = 0 then 3 * v
    else if v = 0 then 0 else 1

/-- Bits of a level, most significant first (R193). -/
def levelBits (bpn v : Nat) : List Nat := if bpn = 0 then [v % 2] else [v / 2 % 2, v % 2]

/-- A number from bits, most significant first. -/
def ofBits (bs : List Nat) : Nat := bs.foldl (fun a b => 2 * a + b % 2) 0

/-- The nibbles of a number of `k` nibbles, most significant first. -/
def nibbles : Nat → Nat → List Nat
  | 0, _ => []
  | k + 1, v => v / 16 ^ k % 16 :: nibbles k v

/-- Nibbles from bits, four at a time, most significant first. -/
def nibblesOfBits : Nat → List Nat → List Nat
  | 0, _ => []
  | k + 1, bs => ofBits (bs.take 4) :: nibblesOfBits k (bs.drop 4)

/-- Bytes from nibbles, two at a time. -/
def bytesOfNibbles : List Nat → List Byte
  | a :: b :: r => BitVec.ofNat 8 (a * 16 + b) :: bytesOfNibbles r
  | _ => []

/-- A frame around a header word and payload nibbles (R190). -/
def frameOf (header : Nat) (payload : List Nat) : List Nat :=
  let body := nibbles 8 header ++ payload
  [0xA, 0x5] ++ body ++ nibbles 4 (crc16 (bytesOfNibbles body)) ++ List.replicate 8 0

/-- The header word of a frame (R190). -/
def frameHeader (type slot tag last : Nat) : Nat := type * 2 ^ 28 + slot % 8192 * 2 ^ 15 + tag % 16 * 2 ^ 11 + last * 2 ^ 10

/-- The column frame of slot `j` (R190, R193). -/
def State.rasColumn (s : State) (n : Nat) (c : Code) (j : Nat) : List Nat :=
  let nz := s.rasNozzles n
  let order := if s.flag (RAS_PROF0 n) RAS_PROF0_BITORD then (List.range nz).reverse else List.range nz
  let bits := order.flatMap fun k => levelBits (s.rasBpn n) (s.rasLevel n c j k)
  let p := rasPayload nz (s.rasBpn n)
  frameOf (frameHeader 1 j c.tag (if j + 1 = c.slots then 1 else 0))
    (nibblesOfBits (p / 4) (bits ++ List.replicate (p - bits.length) 0))

/-! ## Queue entries and blocks -/

/-- Returns an image's blocks to its ring (R183). -/
def State.rasReturn (s : State) (n : Nat) (im : Image) : State :=
  s.setRas n { s.ras n with ring := (s.ras n).ring.filter fun e => !decide (e.1 = im.at_) }

/-- CODE_MISSED for a code or an entry (R197): the flag, the source and MISSED. -/
def State.rasMissed (s : State) (n : Nat) (who : Option (Nat × Nat)) : State :=
  ((s.markProduct who pfCodeMissed).raise (rasSource n 0) (prodValue who)).count (RAS_CNT0 n) RAS_CNT0_MISSED 1

/-- An entry consumed and not printed (R197). -/
def State.rasSkip (s : State) (n : Nat) (e : RasEntry) : State :=
  let t := match e.st with
    | .finished im => s.rasReturn n im
    | _ => s
  t.rasMissed n e.product

/-- A code is cut short (R199): an abort frame follows, no further strobe is emitted. The product of a code that runs undriven
is flagged CODE_MISSED already. -/
def State.rasTruncate (s : State) (n : Nat) : State :=
  match (s.ras n).code with
  | none => s
  | some c =>
    let t := s.setRas n { s.ras n with
      code := none, frame := if c.undriven then (s.ras n).frame else frameOf (frameHeader 2 c.slot c.tag 0) [] }
    let u := t.rasReturn n c.im
    (if c.undriven then u else u.rasMissed n c.product).count (RAS_CNT1 n) RAS_CNT1_TRUNC 1

/-- Slots of a code (R194). -/
def State.rasSlots (s : State) (n : Nat) (im : Image) : Nat :=
  if s.rasMap n = 2 then im.cols + s.fld (RAS_PROF0 n) RAS_PROF0_STAGGER else im.cols

/-- A code starts with slot 0 (R194, R197). -/
def State.rasBegin (s : State) (n : Nat) (im : Image) (who : Option (Nat × Nat)) (undriven : Bool) : State :=
  let x := s.ras n
  let c : Code :=
    { im := im, base := s.ringBase n, product := who, tag := x.tag, slots := s.rasSlots n im,
      a0 := s.phi (s.rasShaft n) + 65536 * signed 32 (s.rg (RAS_OFS n)).toNat, slot := 0, frameEnd := none,
      frameFrom := s.time, lastStrobe := none, angles := [], start := s.time, overspeed := false, undriven := undriven,
      angLost := false }
  (s.setRas n { x with code := some c, live := x.live || !undriven, tag := (x.tag + 1) % 16 }).setFld (RAS_STAT n) RAS_STAT_TAG x.tag

/-- The start of a lane by an Almanac event (R197): the head entry is consumed and judged in table order. -/
def State.rasStart (s : State) (n : Nat) : State :=
  match (s.ras n).queue with
  | [] => (s.count (RAS_CNT2 n) RAS_CNT2_EMPTY 1).raise (rasSource n 3) 0xFFFF
  | e :: rest =>
    let t := s.setRas n { s.ras n with queue := rest }
    if ¬t.rasEn n then (t.rasSkip n e).count (RAS_CNT2 n) RAS_CNT2_START_OFF 1
    else if (t.ras n).code.isSome then (t.rasSkip n e).count (RAS_CNT1 n) RAS_CNT1_OVERLAP 1
    else
      match e.st with
      | .finished im =>
        if t.rasNozzles n < im.rows then (t.rasSkip n e).count (RAS_CNT2 n) RAS_CNT2_FORMAT 1
        else if ¬t.rasReady n then (t.rasSkip n e).count (RAS_CNT1 n) RAS_CNT1_NREADY 1
        else if ¬t.forward (t.rasShaft n) then (t.rasSkip n e).count (RAS_CNT1 n) RAS_CNT1_TRUNC 1
        else if ¬t.driveOn then (t.rasBegin n im e.product true).rasMissed n e.product
        else t.rasBegin n im e.product false
      | _ => t.rasSkip n e

/-! ## A code in progress -/

/-- angle(j) in 2^-16 ang (R194). -/
def State.rasAngle (s : State) (n : Nat) (c : Code) (j : Nat) : Int :=
  c.a0 + 65536 * ((j * s.rasPitch n / 65536 : Nat) : Int)

/-- A frame is due to be sent (R195). -/
def State.rasFrameDue (s : State) (n : Nat) : Bool :=
  match (s.ras n).code with
  | some c => c.frameEnd.isNone && decide (c.frameFrom ≤ s.time)
  | none => false

/-- COLUMN_FRAME: the frame of the next slot is sent, on pins only where the code is driven (R27); RDY inactive or an
uncorrectable error in the image truncates the code (R195, R199). -/
def State.rasFrame (s : State) (n : Nat) : State :=
  if s.rasFrameDue n then
    match (s.ras n).code with
    | none => s
    | some c =>
      if ¬s.rasReady n then s.rasTruncate n
      else if s.imagePoisoned n c.im then (s.rasTruncate n).faultEvent fltImageUe n 1 (prodValue c.product)
      else
        s.setRas n { s.ras n with code := some { c with frameEnd := some (s.time + s.rasFrameTicks n) },
                                  frame := if c.undriven then (s.ras n).frame else s.rasColumn n c c.slot }
  else s

/-- The angle of the next slot that has no angle time yet has been reached (R195, R199). -/
def State.rasAngleDue (s : State) (n : Nat) : Bool :=
  match (s.ras n).code with
  | some c =>
    let j := c.slot + c.angles.length
    decide (j < c.slots) && s.forward (s.rasShaft n) && s.reached (s.rasShaft n) (s.rasLead n) (s.rasAngle n c j)
  | none => false

/-- A JUMP of this tick has passed an angle: the slot is due at once, and its strobe leaves the pin after the path latency, as
an overspeed strobe (R83, R199). -/
def State.rasPassed (s : State) (n : Nat) (a : Int) : Bool :=
  let x := s.shaft (s.rasShaft n)
  x.jumped && decide (x.movedAt = some s.time) && decide (a ≤ x.fine)

/-- Gives the slots whose angles have been reached their angle times (R195). -/
def State.rasTimeSlots (s : State) (n : Nat) : Nat → State
  | 0 => s
  | k + 1 =>
    if s.rasAngleDue n then
      match (s.ras n).code with
      | some c =>
        let j := c.slot + c.angles.length
        let e := placeEdge s.time (s.fld (RAS_LEAD n) RAS_LEAD_TICKS) latencyStb
          (s.crossing (s.rasShaft n) (s.rasLead n) (s.rasAngle n c j))
        let at_ := if s.rasPassed n (s.rasAngle n c j) then (64 * s.time, 64 * (s.time + latencyStb))
          else (64 * e.1 + e.2, 64 * e.1 + e.2)
        let t := s.setRas n { s.ras n with code := some { c with angles := c.angles ++ [at_] } }
        State.rasTimeSlots t n k
      | none => s
    else s

/-- The first time, in 1/64 ticks, at which the lane may emit a strobe again after one at a tick and vernier step: mcp ticks
later (R191). -/
def State.rasAfter (s : State) (n : Nat) : Option (Nat × Nat) → Nat
  | some t => 64 * (t.1 + s.rasMcp n) + t.2
  | none => 0

/-- The time of the strobe that the code waits for, in 1/64 ticks: the latest of its three times, and never less than mcp
after any strobe that the lane has emitted (R191, R195). -/
def State.rasStrobeTime (s : State) (n : Nat) (c : Code) : Option Nat :=
  match c.angles, c.frameEnd with
  | a :: _, some e =>
    let f := 64 * (e + s.rasSetup n)
    let m := s.rasAfter n (c.lastStrobe.map fun t => (t / 64, t % 64))
    some (Nat.max a.2 (Nat.max f (Nat.max m (s.rasAfter n (s.ras n).strobe))))
  | _, _ => none

/-- A strobe is to be emitted in this tick. -/
def State.rasStrobeDue (s : State) (n : Nat) : Bool :=
  match (s.ras n).code with
  | some c =>
    match s.rasStrobeTime n c with
    | some t => decide (t / 64 ≤ s.time) && !(s.shaft (s.rasShaft n)).dir
    | none => false
  | none => false

/-- The end of a code (R198). -/
def State.rasEndCode (s : State) (n : Nat) (c : Code) : State :=
  let t := (s.setRas n { s.ras n with code := none }).rasReturn n c.im
  ((if c.undriven then t else t.markProduct c.product pfCoded)).count (RAS_CNT0 n) RAS_CNT0_CODES 1

/-- The nozzle tallies of a driven strobe (R198, R203). -/
def State.rasTallies (s : State) (n : Nat) (c : Code) : State :=
  State.forEach (s.rasNozzles n) (fun t k =>
    if s.rasLevel n c c.slot k ≠ 0 then t.bumpTally (2240 + 1024 * n + k) 1 else t) (s.bumpTally (2232 + n) 1)

/-- The lag and overspeed of a strobe emitted at `t` (R196). -/
def State.rasLagOf (s : State) (n : Nat) (c : Code) (t : Nat) : State :=
  let a := (c.angles.headD (t, t)).1
  let lag := t / 64 - a / 64
  let s1 := s.peak (RAS_LAG n) RAS_LAG_MAX_LAG (satTo 65535 lag)
  if a < t ∧ ¬c.overspeed then
    ((s1.markProduct c.product pfOverspeed).raise (rasSource n 1) (prodValue c.product)).count (RAS_CNT1 n)
      RAS_CNT1_OVERSPEED 1
  else s1

/-- The strobe of the present slot is emitted (R195, R196, R198). -/
def State.rasStrobe (s : State) (n : Nat) : State :=
  if s.rasStrobeDue n then
    match (s.ras n).code with
    | none => s
    | some c =>
      match s.rasStrobeTime n c with
      | none => s
      | some t =>
        let s1 := (s.rasLagOf n c t).setFld (RAS_STAT n) RAS_STAT_SLOT c.slot
        let s2 := if ¬c.undriven then s1.rasTallies n c else s1
        let c1 := { c with slot := c.slot + 1, frameEnd := none, frameFrom := t / 64 + s.rasHold n,
                           lastStrobe := some t, angles := c.angles.drop 1,
                           overspeed := c.overspeed || decide ((c.angles.headD (t, t)).1 < t) }
        let s3 := s2.setRas n { s2.ras n with
          code := some c1, strobe := if c.undriven then (s2.ras n).strobe else some (t / 64, t % 64) }
        if c.slot + 1 = c.slots then s3.rasEndCode n c else s3
  else s

/-- ANG_VALID of the lane's shaft has fallen to 0 during its code (R199). -/
def State.rasLost (s : State) (n : Nat) : Bool := (s.ras n).code.any Code.angLost

/-- COLUMN_STROBE: angle times are fixed as the angles are reached, and the strobe of the slot is emitted at the latest
of its three times (R195); a code whose angle has been lost is truncated instead (R199). -/
def State.rasColumnStrobe (s : State) (n : Nat) : State :=
  if s.rasLost n then s.rasTruncate n else (s.rasTimeSlots n 4352).rasStrobe n

/-- COLUMN_STROBE has something to do in this tick. -/
def State.rasColumnDue (s : State) (n : Nat) : Bool := s.rasLost n || s.rasAngleDue n || s.rasStrobeDue n

/-- STALL_TO has passed without a strobe (R199). -/
def State.rasStallDue (s : State) (n : Nat) : Bool :=
  match (s.ras n).code with
  | some c =>
    match c.lastStrobe with
    | some t => decide (t / 64 + s.fld (RAS_PROF2 n) RAS_PROF2_STALL_TO * ticksUs ≤ s.time)
    | none => false
  | none => false

/-- STROBE_STALL (R199). -/
def State.rasStall (s : State) (n : Nat) : State := if s.rasStallDue n then s.rasTruncate n else s

/-- RDY_CHANGE: the input has held a new level for 8 ticks, none of them before the level now valid became so (R189); an
active level ends the lane's fault (R202). -/
def State.rasRdyChange (s : State) (n : Nat) (pin : Bool) : State :=
  let x := s.ras n
  if x.rdyPin = pin ∨ (x.rdyAt ≠ 0 ∧ s.time + 1 < x.rdyAt + 8) then s
  else
    let t := s.setRas n { x with rdyPin := pin, rdySince := s.time, rdyAt := s.time + 1 }
    if t.rasReady n ∧ (t.ras n).faulted then
      (t.setRas n { t.ras n with faulted := false }).faultEnd fltLaneRdy n
    else t

/-- RDY has been inactive for RDY_TO ms while EN is 1 (R202). -/
def State.rasRdyDue (s : State) (n : Nat) : Bool :=
  s.rasEn n && !s.rasReady n && !(s.ras n).faulted &&
    decide ((s.ras n).rdySince + s.fld (RAS_PROF2 n) RAS_PROF2_RDY_TO * ticksMs ≤ s.time)

/-- RDY_TIMEOUT (R202). -/
def State.rasRdyTimeout (s : State) (n : Nat) : State :=
  if s.rasRdyDue n then
    ((s.setRas n { s.ras n with faulted := true }).raise (rasSource n 2) 0xFFFF).faultRaise fltLaneRdy n 2 0
  else s

/-! ## What the shaft and the outputs do to codes (R199) -/

/-- The lanes whose strobes a shaft places. -/
def State.rasOfShaft (s : State) (sh : Nat) : List Nat := (List.range 8).filter fun n => decide (s.rasShaft n = sh)

/-- ANG_VALID of a shaft falls to 0: its codes are truncated in this tick, after what stands before it in the table of
R199. -/
def State.rasAngLost (s : State) (sh : Nat) : State :=
  (s.rasOfShaft sh).foldl (fun t n =>
    match (t.ras n).code with
    | some c => t.setRas n { t.ras n with code := some { c with angLost := true } }
    | none => t) s

/-- A reversal: slots not yet struck wait for forward motion, and the product is SUSPECT. -/
def State.rasReversal (s : State) (sh : Nat) : State :=
  (s.rasOfShaft sh).foldl (fun t n =>
    match (t.ras n).code with
    | some c => (t.setRas n { t.ras n with code := some { c with angles := [] } }).markProduct c.product pfSuspect
    | none => t) s

/-- OUT_LIVE falls: codes in progress run out undriven, flagged CODE_MISSED. -/
def State.rasFloat (s : State) : State :=
  State.forEach 8 (fun v n =>
    let t := v.setRas n { v.ras n with live := false }
    match (t.ras n).code with
    | some c =>
      if c.undriven then t
      else (t.setRas n { t.ras n with code := some { c with undriven := true } }).rasMissed n c.product
    | none => t) s

/-! ## Registers -/

/-- The ranges that a write that sets EN checks (R202). -/
def State.rasCfgOk (s : State) (n : Nat) : Bool :=
  let nz := s.rasNozzles n
  let stb := s.fld (RAS_PROF1 n) RAS_PROF1_STB_W
  decide (1 ≤ nz) && decide (nz ≤ 1024) && decide (s.rasMap n ≠ 3) &&
    (decide (s.rasMap n = 2) || decide (s.fld (RAS_PROF0 n) RAS_PROF0_STAGGER = 0)) && decide (4 ≤ stb) &&
    decide (400 ≤ s.fld (RAS_PROF1 n) RAS_PROF1_MIN_PER) && decide (1 ≤ s.fld (RAS_PROF2 n) RAS_PROF2_STALL_TO) &&
    decide (1 ≤ s.fld (RAS_PROF2 n) RAS_PROF2_RDY_TO) && decide ((s.rg (RAS_OFS n)).toNat < 2 ^ 31) &&
    decide (s.rasPitch n ≠ 0)

/-- RASTER_ENABLE (R202, RASn_CTL.SHAFT). -/
def State.writeRasEnable (s : State) (n : Nat) (w : Wr) : State × Status :=
  if w.acts RAS_CTL_FORCE ∨ ¬s.rasCfgOk n then (s, .range)
  else if ¬s.shaftEn (w.fld RAS_CTL_SHAFT) then (s, .state)
  else
    let t := s.plainWrite w
    (t.setRas n { t.ras n with rdySince := s.time, live := s.driveOn }, .ok)

/-- Every entry of the queue is consumed (R201). -/
def State.rasDiscard (s : State) (n : Nat) : State :=
  let q := (s.ras n).queue
  q.foldl (fun t e => (t.rasSkip n e).count (RAS_CNT2 n) RAS_CNT2_DISCARD 1)
    (s.setRas n { s.ras n with queue := [] })

/-- RASTER_DISABLE (R201): a forced disable truncates the code in progress. -/
def State.rasDisable (s : State) (n : Nat) (force : Bool) : State :=
  let t := if force then s.rasTruncate n else s
  t.rasDiscard n

/-- A write of RASn_CTL (R201, R202). -/
def State.writeRasCtl (s : State) (n : Nat) (w : Wr) : State × Status :=
  if w.was RAS_CTL_EN = 1 then
    if w.changes (~~~ RAS_CTL_EN.mask) then (s, .state)
    else if w.fld RAS_CTL_EN = 0 then ((s.plainWrite w).rasDisable n (w.acts RAS_CTL_FORCE), .ok)
    else if w.acts RAS_CTL_FORCE then (s, .range)
    else (s, .ok)
  else if w.fld RAS_CTL_EN = 1 then s.writeRasEnable n w
  else (s, .ok)

/-- RASn_MCP after a write of the profile (R191). -/
def State.rasSetMcp (s : State) (n : Nat) : State := s.setFld (RAS_MCP n) RAS_MCP_MCP (satTo 65535 (s.rasMinPeriod n))

/-- A write to a register of a raster lane (R202). -/
def State.writeRas (s : State) (n : Nat) (w : Wr) : State × Status :=
  if w.base = RAS_CTL 0 then s.writeRasCtl n w
  else if s.rasEn n ∧ w.changes 0xFFFFFFFF then (s, .state)
  else ((s.plainWrite w).rasSetMcp n, .ok)

/-- STATE of a lane (RASn_STAT). -/
def State.rasState (s : State) (n : Nat) : Nat :=
  match s.rasEn n, (s.ras n).code with
  | true, none => 1
  | true, some _ => 2
  | false, some _ => 3
  | false, none => 0

/-- A register of a raster lane as it reads (R203). -/
def State.viewRas (s : State) (b n a : Nat) : Word :=
  if b = RAS_STAT 0 then
    ((s.rg a).setF RAS_STAT_RDY_IN (b2n (s.rasReady n))).setF RAS_STAT_STATE (s.rasState n)
  else s.rg a

end Sys2Proof.Machine
end

