-- ==== Sys2Proof/Machine/Almanac.lean ====
section
/-! DEFINITION. The Almanac (R68 to R90): descriptors, start angles, commits, starts, ends, late events, repeats, and the
commands. -/

namespace Sys2Proof.Machine

/-- Descriptors in the store. -/
def almSize : Nat := 16384

/-! ## Descriptors -/

/-- The descriptor that 32 bytes spell (R68); STATE and the owner are ignored. -/
def EventDesc.ofBytes (bs : List Byte) : EventDesc :=
  let w (i : Nat) : Nat := leAt bs (4 * i) 4
  { kind := bitsOf (w 0) 31 28
    index := bitsOf (w 0) 27 16
    shaft := bitsOf (w 0) 15 12
    window := bitOf (w 0) 11
    late := bitsOf (w 0) 10 9
    revCancel := bitOf (w 0) 8
    stallCancel := bitOf (w 0) 7
    rep := bitsOf (w 0) 6 5
    endact := bitOf (w 0) 4
    fin := signed 64 (leAt bs 4 8)
    duration := w 3
    span := w 4
    lateMax := bitsOf (w 5) 31 16
    count := w 5 % 65536
    period := w 6
    owner := none
    prodValid := bitOf (w 7) 16
    product := w 7 % 65536 }

/-- The reserved bits of a descriptor are 0 (R68, R81). -/
def descReservedOk (bs : List Byte) : Bool :=
  !bitOf (leAt bs 0 4) 3 && decide (bitsOf (leAt bs 28 4) 22 17 = 0)

/-- The 32 bytes of a descriptor in a state (R68). -/
def EventDesc.bytes (d : EventDesc) (st : EvState) : List Byte :=
  leBytes 4 (d.kind % 16 * 2 ^ 28 + d.index % 4096 * 2 ^ 16 + d.shaft % 16 * 2 ^ 12 + b2n d.window * 2 ^ 11 +
      d.late % 4 * 2 ^ 9 + b2n d.revCancel * 2 ^ 8 + b2n d.stallCancel * 2 ^ 7 + d.rep % 4 * 2 ^ 5 +
      b2n d.endact * 2 ^ 4 + st.code) ++
    leBytes 8 (unsigned 64 d.fin) ++ leBytes 4 d.duration ++ leBytes 4 d.span ++
    leBytes 4 (d.lateMax % 65536 * 65536 + d.count % 65536) ++ leBytes 4 d.period ++
    leBytes 4 ((match d.owner with
        | some g => 2 ^ 31 + g % 256 * 2 ^ 23
        | none => 0) +
      b2n d.prodValid * 2 ^ 16 + d.product % 65536)

/-- The index of a target lies in the range of its kind (R81). -/
def targetOk (kind index : Nat) : Bool :=
  match kind with
  | 0 => true
  | 1 => decide (index < 128)
  | 2 => decide (index < 16)
  | 3 => decide (index < 2048)
  | 4 => decide (index < 2048)
  | 5 => decide (index < 4)
  | 6 => decide (index < 8)
  | 7 => decide (index < 1024)
  | 8 => decide (index < 24)
  | 9 => decide (index < 1824)
  | _ => false

/-- The range rules of EVENT_ARM on a descriptor (R81). -/
def EventDesc.ok (d : EventDesc) : Bool :=
  targetOk d.kind d.index && (!d.endact || decide (4 ≤ d.kind)) && decide (d.duration ≠ 0) &&
    (if d.window then decide (d.span ≠ 0) else decide (d.span = 0)) &&
    (if d.rep = 1 then decide (d.period ≠ 0) else decide (d.period = 0)) &&
    !(d.window && decide (d.rep = 1) && decide (d.period < d.span)) && decide (d.late ≠ 3) && decide (d.rep ≠ 3)

/-! ## Readings -/

/-- ARMED or COMMITTED. -/
def EvState.waiting (e : EvState) : Bool := decide (e = .armed) || decide (e = .committed)

/-- ARMED, COMMITTED or ACTIVE. -/
def EvState.inUse (e : EvState) : Bool := e.waiting || decide (e = .active)

/-- The indexes of the listed events that satisfy a test, in ascending order. -/
def State.eventsWhere (s : State) (p : AlmEvent → Bool) : List Nat := (s.events.filter fun e => p e.2).map (·.1)

/-- COMMITTED events of shaft `n`. -/
def State.committedOf (s : State) (n : Nat) : Nat :=
  (s.eventsWhere fun e => decide (e.st = .committed) && decide (e.desc.shaft = n)).length

/-- The lead of a target kind in 1/64 ticks (R73, R81); ALM_LEAD_EL ignores its steps (R90). -/
def State.almLead (s : State) (kind : Nat) : Nat :=
  if kind = 1 then 64 * s.leadEl.getF ALM_LEAD_EL_TICKS
  else if kind = 2 then 64 * s.leadPo.getF ALM_LEAD_PO_TICKS + s.leadPo.getF ALM_LEAD_PO_STEPS
  else 0

/-- START in 2^-16 ang (R71). -/
def State.almStartAngle (s : State) (d : EventDesc) : Int :=
  if d.window then (d.fin - d.span) * 65536 else d.fin * 65536 - ((d.duration * s.rhoOf d.shaft : Nat) : Int)

/-! ## Driving targets (R81) -/

/-- Blulet thread `g`, by its global id (R91). -/
def State.th (s : State) (g : Nat) : Thread := FMap.get (fun _ => Thread.init) s.threads g

/-- The state with thread `g` replaced. -/
def State.setTh (s : State) (g : Nat) (x : Thread) : State :=
  { s with threads := FMap.set (fun _ => Thread.init) s.threads g x }

/-- A signal bit set: `i` is thread × 8 + bit; the bit carries the tick of its latest setting (R100, R128). -/
def State.setSignal (s : State) (i : Nat) : State :=
  let a := BLU_T_SIG (i / 128) (i / 8 % 16)
  let x := s.th (i / 8)
  (s.setTh (i / 8) { x with stamps := FMap.set (fun _ => 0) x.stamps (i % 8) s.time }).setFld a BLU_T_SIG_SIG
    (Nat.lor (s.fld a BLU_T_SIG_SIG) (2 ^ (i % 8)))

/-- The level output of a target kind and index. -/
def levelTarget (kind index : Nat) : Nat :=
  if kind = 1 then outLine index else if kind = 2 then outPrecision index else outExpander index

/-- What an action target does once. -/
def State.targetAct (s : State) (kind index : Nat) : State :=
  match kind with
  | 4 => s.setSignal index
  | 5 => s.adcAlm index
  | 6 => s.rasStart index
  | 7 => s.cellCapture index
  | 8 => s.pwmResync index
  | 9 => s.raiseSw index
  | _ => s

/-- The start of a target; `p` is the pin time of the edge in 1/64 ticks. -/
def State.targetStart (s : State) (d : EventDesc) (p : Nat) : State :=
  if 1 ≤ d.kind ∧ d.kind ≤ 3 then s.outStart (levelTarget d.kind d.index) p else s.targetAct d.kind d.index

/-- The end of a target. -/
def State.targetEnd (s : State) (d : EventDesc) (p : Nat) : State :=
  if 1 ≤ d.kind ∧ d.kind ≤ 3 then s.outEnd (levelTarget d.kind d.index) p
  else if d.endact then s.targetAct d.kind d.index
  else s

/-! ## Starts (R73, R74, R83, R89) -/

/-- The edge of a start as EVENT_QUERY tells it: a crossing, or none (R89). -/
def State.almEdge (s : State) (kind : Nat) (x : Option Nat) : Nat × Nat :=
  if kind = 2 then placeEdge s.time (s.leadPo.getF ALM_LEAD_PO_TICKS) latencyPo x
  else if kind = 1 then
    (match x with
     | some _ => (s.time + s.leadEl.getF ALM_LEAD_EL_TICKS, 0)
     | none => (s.time + latencyEl, 0))
  else (s.time, 0)

/-- Ticks over which the starts of the descriptor engine are averaged, and the starts that it completes in them: 20
million a second over 100 µs (R85). -/
def almSpan : Nat := 40000
def almRate : Nat := 2000

/-- The ticks of the starts of the last 100 µs. -/
def State.almRecent (s : State) : List Nat := s.almWork.filter fun t => decide (s.time < t + almSpan)

/-- The descriptor engine keeps up: it has completed fewer starts in the last 100 µs than its rate allows (R85). -/
def State.almRoom (s : State) : Bool := decide (s.almRecent.length < almRate)

/-- A start is done (R85). -/
def State.almWorked (s : State) : State := { s with almWork := (s.time :: s.almRecent).take almRate }

/-- Event `i` starts in this tick for `d` ticks, with a crossing or without (R74). -/
def State.almBegin (s : State) (i d : Nat) (x : Option Nat) : State :=
  let e := s.event i
  let g := s.almEdge e.desc.kind x
  (s.almWorked.setEvent i { e with
    st := .active
    startTick := s.time
    endTick := s.time + d
    edgeTick := g.1
    edgeStep := g.2
    fresh := false }).targetStart e.desc (64 * g.1 + g.2)

/-- d of a WINDOW event that starts now; none where φ has reached END (R74). -/
def State.almWindow (s : State) (d : EventDesc) : Option Nat :=
  let left := d.fin * 65536 - s.phi d.shaft
  let rho := s.rhoOf d.shaft
  if left ≤ 0 then none
  else if rho = 0 then some d.duration
  else some (Nat.min d.duration ((left.toNat + rho - 1) / rho))

/-- An occurrence becomes SKIPPED (R76, R74). -/
def State.almSkip (s : State) (i : Nat) : State :=
  (s.setEvent i { s.event i with st := .skipped, fresh := false }).count ALM_LATE ALM_LATE_SKIPPED 1

/-- The duration with which a late event of lateness `lam`, in 2^-16 ang, starts; none where it is skipped (R76). -/
def State.almLateFor (s : State) (d : EventDesc) (lam : Int) : Option Nat :=
  if d.lateMax ≠ 0 ∧ (d.lateMax : Int) * 2 ^ 32 < lam then none
  else if d.late = 2 then none
  else if d.window then s.almWindow d
  else if d.late = 0 ∨ s.rhoOf d.shaft = 0 then some d.duration
  else
    let cut := lam.toNat / s.rhoOf d.shaft
    if d.duration ≤ cut then none else some (d.duration - cut)

/-- Handles a late event in the tick in which it is found late (R76): the state, and whether it was skipped. -/
def State.almLateOnce (s : State) (i : Nat) : State × Bool :=
  let e := s.event i
  let lam := s.phi e.desc.shaft - e.start
  let s1 := s.setEvent i { e with lambda := satTo 0xFFFFFFFF (lam / 65536).toNat }
  match s1.almLateFor e.desc lam with
  | none => (s1.almSkip i, true)
  | some d => ((s1.almBegin i d none).count ALM_LATE ALM_LATE_LATE_FIRED 1, false)

/-! ## Repeats (R80) -/

/-- The step from one occurrence's END to the next. -/
def State.almStep (s : State) (d : EventDesc) : Nat := if d.rep = 1 then d.period else s.cycleAng d.shaft

/-- Steps 1 to 4 of R80 on an event that has become DONE or SKIPPED: the state, and whether a new occurrence is armed.
A COUNT that runs out at a skipped occurrence leaves END there. -/
def State.almAdvance (s : State) (i : Nat) : State × Bool :=
  let e := s.event i
  if e.desc.rep = 0 ∨ e.stopRep then (s, false)
  else
    let left := if e.endless then 0 else e.desc.count - 1
    let step := s.almStep e.desc
    let fin1 := e.desc.fin + step
    if ¬e.endless ∧ left = 0 then (s.setEvent i { e with desc := { e.desc with count := 0 } }, false)
    else
      let past := s.phi e.desc.shaft - fin1 * 65536
      let k := if past < 0 then 0 else (past / (65536 * (step : Int))).toNat + 1
      if ¬e.endless ∧ left ≤ k then
        ((s.setEvent i { e with desc := { e.desc with count := 0, fin := fin1 + (step : Int) * (left - 1) } }).count ALM_LATE
          ALM_LATE_SKIPPED left, false)
      else
        ((s.setEvent i { e with desc := { e.desc with count := left - k, fin := fin1 + (step : Int) * k } }).count
          ALM_LATE ALM_LATE_SKIPPED k, true)

/-! ## Arming, commits and late handling -/

/-- Whether an event can commit (R72): its START lies below the horizon and the shaft moves forward with a valid
angle. -/
def State.almCommits (s : State) (e : AlmEvent) : Bool :=
  s.forward e.desc.shaft && decide (e.start < (s.shaft e.desc.shaft).horizon)

/-- Entries of the descriptor engine's queue (R85). -/
def almQueueSize : Nat := 256

/-- Event `i` is COMMITTED and may start from tick `from_` on; where the shaft holds 64 COMMITTED events it is deferred
(R72). -/
def State.almCommitNow (s : State) (i from_ : Nat) : State :=
  let e := s.event i
  if s.committedOf e.desc.shaft < 64 then s.setEvent i { e with st := .committed, fresh := false, notBefore := from_ }
  else (s.setEvent i { e with fresh := true }).count ALM_OVF ALM_OVF_COMMIT_DEFER 1

/-- A commit of event `i`: it waits in the descriptor engine's queue while that engine has its fill of starts (R85). DESIGN
CHOICE: commits alone wait, first in first out; one that finds the queue full stays ARMED for the next recomputation
point (log 59). -/
def State.almCommit (s : State) (i from_ : Nat) : State :=
  if s.almRoom ∧ s.almQueue.isEmpty then s.almCommitNow i from_
  else
    let t := s.setEvent i { s.event i with fresh := true }
    if t.almQueue.contains i ∨ almQueueSize ≤ t.almQueue.length then t
    else ({ t with almQueue := t.almQueue ++ [i] }).count ALM_OVF ALM_OVF_QUEUE_WAIT 1

/-- Arms the occurrence in descriptor `i` and judges it (R71 to R76): late, committed or waiting. A skipped occurrence
of a repeat arms the next one in the same tick (R80); `fuel` bounds these. -/
def State.almJudge (s : State) : Nat → Nat → State
  | 0, i => s.setEvent i { s.event i with st := .armed, fresh := true }
  | fuel + 1, i =>
    let e0 := s.event i
    let e := { e0 with st := .armed, start := s.almStartAngle e0.desc, fresh := !s.angValid e0.desc.shaft }
    let s1 := s.setEvent i e
    if ¬s1.angValid e.desc.shaft then s1
    else if e.start ≤ s1.phi e.desc.shaft then
      let r := s1.almLateOnce i
      if r.2 then
        let a := r.1.almAdvance i
        if a.2 then State.almJudge a.1 fuel i else a.1
      else r.1
    else if s1.almCommits e then s1.almCommit i (s1.time + 1)
    else s1

/-- Occurrences of one descriptor that one tick can judge. -/
def almFuel : Nat := 65536

/-- The repeat of an event that has become DONE or SKIPPED (R80). -/
def State.almRepeat (s : State) (i : Nat) : State :=
  let a := s.almAdvance i
  if a.2 then a.1.almJudge almFuel i else a.1

/-- A late event is handled; a skipped one follows its repeat (R76, R80). -/
def State.almLate (s : State) (i : Nat) : State :=
  let r := s.almLateOnce i
  if r.2 then r.1.almRepeat i else r.1

/-- Late events found in one tick, where nothing has cancelled them since, are handled one after another (R76, R86). -/
def State.almLates (s : State) (is : List Nat) : State :=
  is.foldl (fun t i => if (t.event i).st.waiting then t.almLate i else t) s

/-- The events of shaft `n` whose START lies in [a, b) (late_check of R49). -/
def State.almPassed (s : State) (n : Nat) (a b : Int) : List Nat :=
  s.eventsWhere fun e => e.st.waiting && decide (e.desc.shaft = n) && decide (a ≤ e.start) && decide (e.start < b)

/-- A pair of a start angle and an index put at its place in ascending order. -/
def putStart (x : Int × Nat) : List (Int × Nat) → List (Int × Nat)
  | [] => [x]
  | y :: ys => if y.1 < x.1 ∨ (y.1 = x.1 ∧ y.2 < x.2) then y :: putStart x ys else x :: y :: ys

/-- Recomputes the START of an ARMED TIMED event (R71). -/
def State.almRestart (s : State) (i : Nat) : State :=
  let e := s.event i
  if e.desc.window then s else s.setEvent i { e with start := s.almStartAngle e.desc }

/-- At its commitment, an event whose commitment was deferred or that was armed without a valid angle is late if φ has
reached its START (R72, R75). -/
def State.almTooLate (s : State) (i : Nat) : Bool :=
  (s.event i).fresh && decide ((s.event i).start ≤ s.phi (s.event i).desc.shaft)

/-- A recomputation point of shaft `n` (R70 to R72), which leaves out events already found late in this tick: ρ and the
horizon are those the shaft holds now. The commits come first, then the starts of those found too late (R86). -/
def State.almRecomputeBut (s : State) (n : Nat) (but : List Nat) : State :=
  let armed := s.eventsWhere fun e => decide (e.st = .armed) && decide (e.desc.shaft = n)
  let s1 := (armed.filter fun i => !but.contains i).foldl (fun t i => t.almRestart i) s
  if s1.forward n then
    let ready := (armed.foldl (fun l i =>
      if s1.almCommits (s1.event i) ∧ ¬but.contains i then putStart ((s1.event i).start, i) l else l) []).map (·.2)
    let late := ready.filter s1.almTooLate
    ((ready.filter fun i => !s1.almTooLate i).foldl (fun t i => t.almCommit i t.time) s1).almLates late
  else s1

/-- A recomputation point of shaft `n`. -/
def State.almRecompute (s : State) (n : Nat) : State := s.almRecomputeBut n []

/-- The head of the descriptor engine's queue is taken: still ARMED, it is late or commits as at a recomputation point
(R75, R85). -/
def State.almTake (s : State) : State :=
  match s.almQueue with
  | [] => s
  | i :: rest =>
    let t := { s with almQueue := rest }
    let e := t.event i
    if e.st ≠ .armed ∨ ¬t.angValid e.desc.shaft then t
    else if t.almTooLate i then t.almLate i
    else if t.almCommits e then t.almCommitNow i t.time
    else t

/-- The descriptor engine takes what waits in its queue as far as its rate allows (R85). -/
def State.almDrain (s : State) : State :=
  (List.range s.almQueue.length).foldl (fun t _ => if t.almRoom then t.almTake else t) s

/-- The start of event `i` is due in this tick (R73). -/
def State.almStartDue (s : State) (i : Nat) : Bool :=
  let e := s.event i
  decide (e.st = .committed) && decide (e.notBefore ≤ s.time) && s.forward e.desc.shaft &&
    s.reached e.desc.shaft (s.almLead e.desc.kind) e.start

/-- EVENT_START (R73, R74, R83). -/
def State.almEventStart (s : State) (i : Nat) : State :=
  if s.almStartDue i then
    let e := s.event i
    let x := s.crossing e.desc.shaft (s.almLead e.desc.kind) e.start
    if e.desc.window then
      match s.almWindow e.desc with
      | none => (s.almSkip i).almRepeat i
      | some d => s.almBegin i d x
    else s.almBegin i e.desc.duration x
  else s

/-- The end of event `i` is due (R74). -/
def State.almEndDue (s : State) (i : Nat) : Bool :=
  decide ((s.event i).st = .active) && decide ((s.event i).endTick ≤ s.time)

/-- EVENT_END (R74, R80, R81). -/
def State.almEventEnd (s : State) (i : Nat) : State :=
  if s.almEndDue i then
    let e := s.event i
    let p := 64 * (e.edgeTick + (e.endTick - e.startTick)) + e.edgeStep
    ((s.setEvent i { e with st := .done }).targetEnd e.desc p).almRepeat i
  else s

/-! ## What happenings do to events (R45, R78) -/

/-- Event `i` becomes CANCELLED; it does not repeat. -/
def State.almCancel (s : State) (i : Nat) : State :=
  (s.setEvent i { s.event i with st := .cancelled, fresh := false }).count ALM_CANCEL ALM_CANCEL_CANCELLED 1

/-- Cancels every listed event. -/
def State.almCancelAll (s : State) (is : List Nat) : State := is.foldl (fun t i => t.almCancel i) s

/-- The ARMED and COMMITTED events of a shaft. -/
def State.almWaiting (s : State) (n : Nat) : List Nat :=
  s.eventsWhere fun e => e.st.waiting && decide (e.desc.shaft = n)

/-- Drop (R45): cancelled, and counted in SHFn_DISCARD. -/
def State.almDrop (s : State) (n : Nat) : State :=
  let is := s.almWaiting n
  (s.almCancelAll is).count (SHF_DISCARD n) SHF_DISCARD_COUNT is.length

/-- A COMMITTED event returns to ARMED. -/
def State.almUncommit (s : State) (i : Nat) : State := s.setEvent i { s.event i with st := .armed, fresh := false }

/-- Revert (R45). -/
def State.almRevert (s : State) (n : Nat) : State :=
  (s.eventsWhere fun e => decide (e.st = .committed) && decide (e.desc.shaft = n)).foldl (fun t i => t.almUncommit i) s

/-- Entry to LOST (R45, R78). -/
def State.almLost (s : State) (n : Nat) : State :=
  if s.flag (SHF_CFG n) SHF_CFG_LOST_CANCEL then s.almDrop n else s.almRevert n

/-- STILL set (R78). -/
def State.almStill (s : State) (n : Nat) : State :=
  s.almCancelAll (s.eventsWhere fun e => e.st.waiting && decide (e.desc.shaft = n) && e.desc.stallCancel)

/-- A reversal (R78, R79). -/
def State.almReversal (s : State) (n : Nat) : State :=
  let s1 := s.almCancelAll (s.eventsWhere fun e => e.st.waiting && decide (e.desc.shaft = n) && e.desc.revCancel)
  let s2 := s1.almRevert n
  (s2.eventsWhere fun e => decide (e.st = .active) && decide (e.desc.shaft = n)).foldl (fun t i =>
    let d := (t.event i).desc
    if d.prodValid then t.setProd d.product ((t.prod d.product).mark pfSuspect) else t) s2

/-- The ARMED and COMMITTED events that a thread owns. -/
def State.almOwned (s : State) (g : Nat) : List Nat :=
  s.eventsWhere fun e => e.st.waiting && decide (e.desc.owner = some g)

/-- Clears PROD_VALID of every event that names a record (R158): the state and their number. -/
def State.almForget (s : State) (p : Nat) : State × Nat :=
  let is := s.eventsWhere fun e => e.desc.prodValid && decide (e.desc.product = p)
  (is.foldl (fun t i => t.setEvent i { t.event i with desc := { (t.event i).desc with prodValid := false } }) s, is.length)

/-! ## Commands (R87 to R89) -/

/-- The lowest FREE index at or above `pos`: an index not listed has never been armed. -/
def lowestFree : Nat → FMap AlmEvent → Option Nat
  | pos, [] => if pos < almSize then some pos else none
  | pos, (k, e) :: m => if pos < k then some pos else if e.st = .free then some k else lowestFree (k + 1) m

/-- The index that the engine chooses (R87). -/
def State.almChoose (s : State) : Option Nat :=
  match lowestFree 0 s.events with
  | some i => some i
  | none => (s.eventsWhere fun e => !e.st.inUse).head?

/-- Arms a descriptor at an index, or at one the engine chooses (R77, R81, R87): the state, the status, the index. END
stands on the shaft where 64-bit differences put it (R3). -/
def State.almArm (s : State) (at_ : Option Nat) (d0 : EventDesc) : State × Status × Nat :=
  let d := { d0 with fin := s.angleNear d0.shaft d0.fin }
  if ¬d.ok then (s, .range, 0)
  else if ¬s.shaftEn d.shaft then (s, .state, 0)
  else
    let idx := match at_ with
      | some i => if (s.event i).st.inUse then none else some i
      | none => s.almChoose
    match idx with
    | none => (s, if at_.isSome then .busy else .nospace, 0)
    | some i =>
      if d.fin * 65536 ≤ s.phi d.shaft then (s, .late, 0)
      else
        let e := { AlmEvent.init with desc := d, st := .armed, endless := decide (d.count = 0) }
        ((s.setEvent i e).almJudge almFuel i, .ok, i)

/-- EVENT_ARM (R87). -/
def State.eventArm (s : State) (arg : Nat) (body : List Byte) (owner : Option Nat) : State × Status × Nat :=
  if body.length ≠ 32 ∨ ¬(arg < almSize ∨ arg = 0xFFFFFFFF) ∨ ¬descReservedOk body then (s, .range, 0)
  else s.almArm (if arg < almSize then some arg else none) { EventDesc.ofBytes body with owner := owner }

/-- EVENT_CANCEL (R88): the state, the status and RESULT. -/
def State.eventCancel (s : State) (arg : Nat) : State × Status × Nat :=
  if bitOf arg 31 then
    if bitsOf arg 30 4 ≠ 0 then (s, .range, 0)
    else
      let is := s.almWaiting (arg % 16)
      (s.almCancelAll is, .ok, is.length)
  else if bitsOf arg 30 14 ≠ 0 then (s, .range, 0)
  else
    let i := arg % almSize
    let e := s.event i
    if e.st.waiting then (s.almCancel i, .ok, e.st.code)
    else if e.st = .active then (s.setEvent i { e with stopRep := true }, .ok, e.st.code)
    else (s, .state, 0)

/-- The body of EVENT_QUERY (R89). -/
def AlmEvent.bytes (e : AlmEvent) : List Byte :=
  e.desc.bytes e.st ++ leBytes 8 (unsigned 64 (e.start / 65536)) ++ leBytes 8 e.edgeTick ++
    [BitVec.ofNat 8 (e.edgeStep % 64), 0, 0, 0] ++ leBytes 4 e.lambda

/-! ## Registers -/

/-- A register of the ALM block as it reads (R90). -/
def State.viewAlm (s : State) (b a : Nat) : Word :=
  if b = ALM_STAT then
    ((s.rg a).setF ALM_STAT_COMMITTED (s.eventsWhere fun e => decide (e.st = .committed)).length).setF ALM_STAT_IN_USE
      (s.eventsWhere fun e => e.st.inUse).length
  else s.rg a

end Sys2Proof.Machine
end

