-- ==== Sys2Proof/Machine/Wire.lean ====
section
/-! DEFINITION. Frames on the links (R376 to R392): numbering, routes, credits and the queues of the ports. -/

namespace Sys2Proof.Machine

/-- GLB_ADDR.ADDR (R30). -/
def State.addrReg (s : State) : Nat := s.fld GLB_ADDR GLB_ADDR_ADDR

/-- The engine's fabric address as its frames carry it and as frames reach it: the address before an accepted write until
the reply frame of that write has left (R30, R31). -/
def State.addr (s : State) : Nat :=
  match s.fab.moving with
  | some m => m.old
  | none => s.addrReg

/-- The broadcast address. -/
def broadcast : Nat := 0xFFFF

/-- Port `p`. -/
def State.link (s : State) (p : Nat) : LinkPort := FMap.get (fun _ => LinkPort.init) s.fab.ports p

/-- The state with port `p` replaced. -/
def State.setLink (s : State) (p : Nat) (x : LinkPort) : State :=
  { s with fab := { s.fab with ports := FMap.set (fun _ => LinkPort.init) s.fab.ports p x } }

/-- The link of port `p` is up. -/
def State.linkUp (s : State) (p : Nat) : Bool := s.flag (FAB_P_STAT p) FAB_P_STAT_UP

/-- Units of 64 bytes that a frame takes (R378, R389). -/
def Frame.units (f : Frame) : Nat := (f.body.length + 20 + 63) / 64

/-- Bytes of link time that a frame takes: an Ethernet frame of at least 46 bytes of payload, with preamble, header, FCS and
gap (R376, R378). -/
def Frame.wireBytes (f : Frame) : Nat := max 46 (f.body.length + 20) + 38

/-- The buffer a frame is held in: class × 2, plus 1 for the escape set (R390). -/
def Frame.buffer (f : Frame) : Nat := f.tc * 2 + b2n f.dateline

/-- Units of a buffer (R388). -/
def bufferUnits (b : Nat) : Nat :=
  if b = 2 ∨ b = 4 then 512 else if b = 6 then 1024 else 64

/-- A count by buffer. -/
def countOf (m : FMap Nat) (b : Nat) : Nat := FMap.get (fun _ => 0) m b

/-- A count by buffer raised, modulo 65 536. -/
def addCount (m : FMap Nat) (b k : Nat) : FMap Nat := FMap.set (fun _ => 0) m b ((countOf m b + k) % 65536)

/-- The receiver has advertised room for the whole frame; TC0 needs none (R389). -/
def LinkPort.room (x : LinkPort) (f : Frame) : Bool :=
  decide (f.tc = 0) ||
    decide ((countOf x.sent f.buffer + 65536 - countOf x.peerFreed f.buffer) % 65536 + f.units ≤ bufferUnits f.buffer)

/-- Room freed at a port's input (R389); port T reserves no buffers and has no credits (R388, R411). -/
def State.freeUnits (s : State) (p : Nat) (f : Frame) : State :=
  if f.tc = 0 ∨ p = 2 then s
  else
    let x := s.link p
    s.setLink p { x with freed := addCount x.freed f.buffer f.units, dirty := true }

/-- The twin unit is enabled. -/
def State.twinEn (s : State) : Bool := s.flag TWN_CFG TWN_CFG_EN

/-- The shared address of the pair. -/
def State.pairAddr (s : State) : Nat := s.fld TWN_CFG TWN_CFG_PAIR_ADDR

/-- The frame is the reply to the accepted write of the address (R31). -/
def Moving.is (m : Moving) (f : Frame) : Bool :=
  decide (f.kind = 1) && decide (f.dest = m.dest) && decide (f.tc = m.tc) && decide (f.seq = m.seq)

/-- That reply stands in the queue of a port. -/
def State.moveQueued (s : State) (m : Moving) : Bool :=
  (List.range 3).any fun p => (s.link p).queue.any fun q => q.from_.isNone && m.is q.frame

/-- Once that reply is in no queue the new address acts (R31). -/
def State.moveSettle (s : State) : State :=
  match s.fab.moving with
  | some m => if s.moveQueued m then s else { s with fab := { s.fab with moving := none } }
  | none => s

/-- SRC of a frame of the engine's own as it leaves: its present address, but for a frame under the address of the pair
(R31, R407). -/
def State.srcLeaving (s : State) (q : Queued) : Nat :=
  if q.from_.isSome ∨ (s.twinEn ∧ q.frame.src = s.pairAddr) then q.frame.src else s.addr

/-- A frame leaves port `p`. -/
def State.leave (s : State) (p : Nat) (q : Queued) : State :=
  let x := s.link p
  let t := s.setLink p { x with
    sent := if q.frame.tc = 0 then x.sent else addCount x.sent q.frame.buffer q.frame.units
    tc0Bytes := if q.frame.tc = 0 then x.tc0Bytes + q.frame.wireBytes else x.tc0Bytes }
  let u : State := { t with wire := t.wire ++ [{ q.frame with port := p, src := s.srcLeaving q }] }
  match q.from_ with
  | some i => u.freeUnits i q.frame
  | none => if u.fab.moving.any fun m => m.is q.frame then u.moveSettle else u

/-- The port may send the frame now: its link is up and not held by a CLOSE, and there is room (R384, R389). -/
def State.maySend (s : State) (p : Nat) (f : Frame) : Bool :=
  s.linkUp p && (decide ((s.link p).holdUntil ≤ s.time) || decide (f.kind = 5) || decide (f.kind = 8)) &&
    (decide (p = 2) || (s.link p).room f)

/-- Sends the queued frames that may leave, each class in its order; a frame that waits holds those of its buffer behind
it (R388, R392). -/
def State.drainAux (s : State) (p : Nat) (blocked : List Nat) : List Queued → State
  | [] => s
  | q :: qs =>
    if ¬blocked.contains q.frame.buffer ∧ s.maySend p q.frame then
      State.drainAux (s.leave p q) p blocked qs
    else
      let t := State.drainAux s p (q.frame.buffer :: blocked) qs
      t.setLink p { t.link p with queue := q :: (t.link p).queue }

/-- The queue of a port, drained. -/
def State.drain (s : State) (p : Nat) : State :=
  (s.setLink p { s.link p with queue := [] }).drainAux p [] (s.link p).queue

/-- A frame put to a port: discarded and counted while the link is down (R377). -/
def State.put (s : State) (p : Nat) (q : Queued) : State :=
  if s.linkUp p then
    (s.setLink p { s.link p with queue := (s.link p).queue ++ [q] }).drain p
  else
    let t := s.count (FAB_P_CNT p) FAB_P_CNT_DISCARD 1
    match q.from_ with
    | some i => t.freeUnits i q.frame
    | none => t

/-- The engine is the active, or the standby, twin member (R24). -/
def State.twinActive (s : State) : Bool := decide (s.fld GLB_STATUS GLB_STATUS_TWIN_ROLE = 1)
def State.standby (s : State) : Bool := decide (s.fld GLB_STATUS GLB_STATUS_TWIN_ROLE = 2)

/-- The source address of the engine's own frames of kinds 1 to 4: that of the pair on its active member (R407). -/
def State.srcAddr (s : State) : Nat := if s.twinEn ∧ s.twinActive then s.pairAddr else s.addr

/-- The next SEQ for a destination and class, and the state with it used (R392). -/
def State.nextSeq (s : State) (dest tc : Nat) : Nat := FMap.get (fun _ => 0) s.fab.seqOut (dest * 4 + tc)
def State.useSeq (s : State) (dest tc : Nat) : State :=
  { s with fab := { s.fab with seqOut := FMap.set (fun _ => 0) s.fab.seqOut (dest * 4 + tc) ((s.nextSeq dest tc + 1) % 65536) } }

/-- The learned route of an address (R384): the port with the higher HOPS, L0 on a tie; none where nothing is learned. -/
def State.route (s : State) (a : Nat) : Option Nat :=
  let r := FMap.get (fun _ => Route.init) s.fab.routes a
  match r.l0, r.l1 with
  | some h0, some h1 => some (if h0 < h1 then 1 else 0)
  | some _, none => some 0
  | none, some _ => some 1
  | none, none => none

/-- BROKEN (R384). -/
def State.ringBroken (s : State) : Bool := s.flag FAB_STAT FAB_STAT_BROKEN

/-- The engine is in address quarantine (R386). -/
def State.quarantined (s : State) : Bool := s.flag GLB_ADDR GLB_ADDR_QUAR

/-- The ports that a frame of the engine's own leaves by (R384). -/
def State.outPorts (s : State) (dest : Nat) : List Nat :=
  if dest = broadcast then [0, 1]
  else
    match s.route dest with
    | some p => [p]
    | none => if s.ringBroken then [0, 1] else [0]

/-- A quarantined engine sends no broadcast, no handoff and no notification (R386). -/
def State.silenced (s : State) (kind dest : Nat) : Bool :=
  s.quarantined && (decide (dest = broadcast) || decide (kind = 3) || decide (kind = 2))

/-- A frame of the engine's own (R379, R383, R392), with the source address it carries. -/
def State.sendFrom (s : State) (src kind dest tc session : Nat) (retry : Bool) (body : List Byte) : State :=
  if s.silenced kind dest then s
  else
    let f : Frame :=
      { port := 0, kind := kind, hops := 255, dest := dest, src := src, tc := tc, dateline := false, retry := retry,
        session := session, seq := s.nextSeq dest tc, body := body }
    (s.outPorts dest).foldl (fun t p => t.put p { frame := f, from_ := none }) (s.useSeq dest tc)

/-- A frame of the engine's own under its present address (R407). -/
def State.send (s : State) (kind dest tc session : Nat) (body : List Byte) : State :=
  s.sendFrom (if 1 ≤ kind ∧ kind ≤ 4 then s.srcAddr else s.addr) kind dest tc session false body

/-- A broadcast of the engine's own out of one port (R384); a quarantined engine sends none (R386). -/
def State.sendOut (s : State) (p kind tc : Nat) (body : List Byte) : State :=
  let f : Frame :=
    { port := p, kind := kind, hops := 255, dest := broadcast, src := s.addr, tc := tc, dateline := false, retry := false,
      session := 0, seq := s.nextSeq broadcast tc, body := body }
  if s.quarantined then s else (s.useSeq broadcast tc).put p { frame := f, from_ := none }

/-- A link-local frame out of one port (R382): DEST = 0xFFFF, HOPS = 0. -/
def State.sendLocal (s : State) (p kind tc : Nat) (body : List Byte) : State :=
  let f : Frame :=
    { port := p, kind := kind, hops := 0, dest := broadcast, src := s.addr, tc := tc, dateline := false, retry := false,
      session := 0, seq := s.nextSeq broadcast tc, body := body }
  (s.useSeq broadcast tc).put p { frame := f, from_ := none }

/-! ## MIRROR frames (R409, R411) -/

/-- The MIRROR states (TWN_STAT.MIRROR). -/
def mirOff : Nat := 0
def mirSearch : Nat := 1
def mirJoining : Nat := 2
def mirInSync : Nat := 3
def mirStale : Nat := 4
def mirAlone : Nat := 5

/-- MIRROR of the twin unit. -/
def State.mirState (s : State) : Nat := s.fld TWN_STAT TWN_STAT_MIRROR

/-- A MIRROR frame out of port T (R411). -/
def State.sendMirror (s : State) (body : List Byte) : State :=
  let f : Frame :=
    { port := 2, kind := 7, hops := 0, dest := s.pairAddr, src := s.addr, tc := 1, dateline := false, retry := false,
      session := 0, seq := s.nextSeq s.pairAddr 1, body := body }
  (s.useSeq s.pairAddr 1).put 2 { frame := f, from_ := none }

/-- A numbered MIRROR frame: SUB 1 to 5 carry the next sequence number at bytes 2-3. -/
def State.sendNumbered (s : State) (sub : Nat) (rest : List Byte) : State :=
  let q := (s.twin.seqOut + 1) % 65536
  ({ s with twin := { s.twin with seqOut := q } } : State).sendMirror (leBytes 1 sub ++ leBytes 1 0 ++ leBytes 2 q ++ rest)

/-- The active member has a partner to mirror to. -/
def State.mirroring (s : State) : Bool := s.twinEn && s.twinActive && decide (s.mirState ≠ mirAlone)

/-- A MIRROR item of the active member (R409): its kind as numbered in the table of R409 and what it carries. -/
def State.mirror (s : State) (kind : Nat) (payload : List Nat) : State :=
  if s.mirroring then
    let bs := Config.itemBytes kind payload
    s.sendNumbered 1 (leBytes 2 kind ++ leBytes 2 bs.length ++ bs)
  else s

end Sys2Proof.Machine
end

