-- ==== Sys2Proof/Machine/Replies.lean ====
section
/-! DEFINITION. The completion of commands (R319, R324 to R327, R330): replies, credits, chains and reply frames. -/

namespace Sys2Proof.Machine

/-- Credits of a session (R324). -/
def sessionCredits : Nat := 128

/-- The header and body of a reply record (R319), filled to a multiple of 4 (R320). -/
def replyBytes (c : CmdRec) (st : Status) (result : Nat) (body : List Byte) : List Byte :=
  pad4 ([BitVec.ofNat 8 c.opcode,
      BitVec.ofNat 8 (b2n c.ordered + 2 * b2n c.txnFlag + 4 * b2n c.noreply + 8 * b2n c.urgent)] ++
    leBytes 2 c.tag ++ leBytes 2 body.length ++ leBytes 2 st.code ++ leBytes 4 result ++ body)

/-- The class of the frame that carries a reply (R327). -/
def replyClass (c : CmdRec) : Nat := if c.opcode = 0x31 then 3 else 2

/-- A credit returns to a session (R324). -/
def State.creditBack (s : State) (n k : Nat) : State :=
  s.setSess n { s.sess n with credits := Nat.min sessionCredits ((s.sess n).credits + k) }

/-- A reply record joins the replies that wait for their frame (R327). -/
def State.pushReply (s : State) (n : Nat) (r : Reply) : State :=
  s.setSess n { s.sess n with replies := (s.sess n).replies ++ [r] }

/-- A NOP that frees its session (R328). -/
def CmdRec.releases (c : CmdRec) : Bool := decide (c.opcode = 0x01) && bitOf c.arg 0

/-! ## Reply frames (R327) -/

/-- Bytes of reply records that one frame holds (R320). -/
def replyRoom : Nat := 1480

/-- The replies that the next frame takes: as many as fit with the same destination, class and source. -/
def takeReplies (dest tc src : Nat) : Nat → List Reply → List Reply × List Reply
  | _, [] => ([], [])
  | room, r :: rs =>
    if r.dest ≠ dest ∨ r.tc ≠ tc ∨ r.src ≠ src ∨ room < r.bytes.length then ([], r :: rs)
    else
      let p := takeReplies dest tc src (room - r.bytes.length) rs
      (r :: p.1, p.2)

/-- A reply frame of session `n` is due (R327): 1 480 bytes are held, or the earliest reply is 1 µs old. -/
def State.replyDue (s : State) (n : Nat) : Bool :=
  match (s.sess n).replies with
  | [] => false
  | r :: rs =>
    decide (r.tick + ticksUs ≤ s.time) ||
      decide (replyRoom ≤ r.bytes.length + rs.foldl (fun k x => k + x.bytes.length) 0)

/-- Sends a frame of replies of session `n`, the first of them given apart; their credits return (R324). -/
def State.sendReplies (s : State) (n : Nat) (r : Reply) (rs : List Reply) : State :=
  let t := s.creditBack n ((r :: rs).foldl (fun k x => k + x.credit) 0)
  let u := if (r :: rs).any Reply.release then t.setSess n { t.sess n with releasing := true } else t
  u.sendFrom r.src 1 r.dest r.tc n false ((r :: rs).flatMap Reply.bytes)

/-- Sends the next reply frame of session `n`. -/
def State.sendReply (s : State) (n : Nat) : State :=
  match (s.sess n).replies with
  | [] => s
  | r :: rs =>
    let p := takeReplies r.dest r.tc r.src (replyRoom - r.bytes.length) rs
    (s.setSess n { s.sess n with replies := p.2 }).sendReplies n r p.1

/-- Sends reply frames of session `n` until none is held. -/
def State.flushSession (s : State) (n : Nat) : Nat → State
  | 0 => s
  | k + 1 => if (s.sess n).replies.isEmpty then s else (s.sendReply n).flushSession n k

/-- Sends every reply frame that the engine holds. -/
def State.flushReplies (s : State) : State :=
  State.forEach 8 (fun t n => t.flushSession n (t.sess n).replies.length) s

/-- The reply of a command: it joins those held, or leaves alone and at once where `atOnce` or URGENT says so (R327). -/
def State.answer (s : State) (n dest : Nat) (c : CmdRec) (credit : Nat) (atOnce : Bool) (src : Nat) (st : Status)
    (result : Nat) (body : List Byte) : State :=
  let r : Reply :=
    { tag := c.tag, bytes := replyBytes c st result body, credit := credit, dest := dest, tc := replyClass c,
      tick := s.time, src := src, release := c.releases && decide (st = .ok)
      permit := if s.permitDone then some (if c.opcode = 0x03 then (GLB_CTL - c.arg) / 4 else 0) else none }
  if atOnce || c.urgent then s.sendReplies n r [] else s.pushReply n r

/-! ## Completion -/

/-- The flights left when one ends. A later FENCE of its session waits out its effect (R331); where a muted chain breaks,
the rest of it ends too (R323, R330). -/
def State.flightsAfter (s : State) (fl : Flight) (failed : Bool) : List Flight :=
  ((s.flights.filter fun f => !decide (f.id = fl.id)).filter fun f =>
      !(fl.mute && fl.cmd.ordered && failed && f.mute && decide (f.session = fl.session) && decide (f.hold = .chain))).map
    fun f =>
      match f.hold with
      | .fence _ => if f.session = fl.session ∧ fl.id < f.id then { f with hold := .fence s.time } else f
      | _ => f

/-- A reply of the present tick whose command permitted outputs, once the safe state has been entered in that tick: E_STATE
(R29). -/
def Reply.refuse (r : Reply) (now : Nat) : Reply :=
  match r.permit with
  | some k =>
    if r.tick = now then
      { r with bytes := r.bytes.take 6 ++ leBytes 2 Status.state.code ++ leBytes 4 k ++ r.bytes.drop 12, permit := none }
    else r
  | none => r

/-- Entry to the safe state prevails over a command of its tick that permitted outputs: the command completes with E_STATE
(R29). A reply that left alone in that tick stands (DESIGN CHOICE, log 60). -/
def State.refusePermits (s : State) : State :=
  let t := State.forEach 8 (fun u n =>
    let x := u.sess n
    let hit (r : Reply) : Bool := r.permit.isSome && decide (r.tick = u.time)
    if x.replies.any hit then
      u.setSess n { x with
        broken := x.broken || x.replies.any fun r => hit r && bitOf (r.bytes.getD 1 0).toNat 0
        replies := x.replies.map fun r => r.refuse u.time }
    else u) s
  if s.permitDone then { t with completion := { t.completion with status := .state, result := 0, body := [] } } else t

/-- The old address goes on acting until the reply frame of an accepted write of the address, `n`'s next to `dest`, has left
(R31). -/
def State.moves (s : State) (old dest tc : Nat) (f : State → State) : State :=
  (f { s with fab := { s.fab with moving := some { old := old, dest := dest, tc := tc, seq := s.nextSeq dest tc } } }).moveSettle

/-- A command completes (R319, R324, R326, R330). `addr` is the address before the command where it was an accepted
write of GLB_ADDR.ADDR: its reply then leaves from the old address, in a frame of its own, after every reply frame
already held (R31). -/
def State.complete (s : State) (fl : Flight) (addr : Option Nat) (st : Status) (result : Nat) (body : List Byte) : State :=
  let s1 := ({ s with flights := s.flightsAfter fl (decide (st ≠ .ok)) } : State).done st result body
  if fl.mute then s1
  else
    let s2 := if fl.cmd.ordered ∧ st ≠ .ok then s1.setSess fl.session { s1.sess fl.session with broken := true } else s1
    if fl.cmd.noreply ∧ st = .ok then
      let s3 := s2.creditBack fl.session 1
      if fl.cmd.releases then s3.setSess fl.session { s3.sess fl.session with releasing := true } else s3
    else
      match addr with
      | none => s2.answer fl.session fl.dest fl.cmd 1 false s2.srcAddr st result body
      | some a =>
        let t : State := { s2 with fab := { s2.fab with moving := some { old := a, dest := 0, tc := 0, seq := 0 } } }
        let u := t.flushReplies
        u.moves a fl.dest (replyClass fl.cmd) fun v => v.answer fl.session fl.dest fl.cmd 1 true v.srcAddr st result body

/-- A command in flight that waited completes; nothing where it is no longer in flight. -/
def State.finish (s : State) (id : Nat) (st : Status) (result : Nat) (body : List Byte) : State :=
  match s.flights.find? fun f => decide (f.id = id) with
  | some fl => s.complete fl none st result body
  | none => s

end Sys2Proof.Machine
end

