-- ==== Sys2Proof/Machine/Calendar.lean ====
section
/-! DEFINITION. Tallies, wear limits, the calendar of record and gap records (R459 to R472). -/

namespace Sys2Proof.Machine

/-! ## Tallies and wear limits -/

/-- The number of tallies (R459). -/
def tallyCount : Nat := 10436

/-- A tally marked settable (R459). -/
def tallySettable (i : Nat) : Bool := decide (i < 10432)

/-- Indexes of the tallies counted by the engine itself (R459). -/
def tallyOpSeconds : Nat := 10432
def tallyBoostMs : Nat := 10433
def tallyThermal : Nat := 10434

/-- A flush of the tally cache (R461): every changed word reaches the MRAM. -/
def State.tallyFlush (s : State) : State := { s with tallyMram := s.tallies, lastFlush := s.time }

/-- The deadline of the posted flush has come, 10 s after its posting (R461). DESIGN CHOICE (log 62): a flush that no hold
defers runs at its deadline, not before; R461 fixes no earlier tick. -/
def State.flushDue (s : State) : Bool := decide (s.lastFlush + 10 * ticksS ≤ s.time)

/-- The write of TAL_SET_CMD (R464). -/
def State.tallySet (s : State) (go : Bool) (idx : Nat) : State × Status :=
  if tallyCount ≤ idx then (s, .range)
  else if ¬go then (s, .ok)
  else if ¬tallySettable idx then (s, .access)
  else (s.setTally idx (s.rg64 TAL_SET_LO), .ok)

/-- EN of a wear limit is set while its tally stands at or above the threshold (R465). -/
def State.wearStanding (s : State) (k : Nat) : State :=
  let i := s.fld (TAL_LIM_CFG k) TAL_LIM_CFG_IDX
  if s.rg64 (TAL_LIM_LO k) ≤ s.tally i then (s.latch (TAL_LIM_CFG k) TAL_LIM_CFG_HIT).raise (wearSource k) i else s

/-! ## The calendar -/

/-- Leap seconds in force at a count (R466). -/
def State.leapsAt (s : State) (c : Nat) : Int :=
  (List.range 32).foldl (fun n i =>
    if s.flag (CAL_LEAP_HI i) CAL_LEAP_HI_EN ∧
        s.fld (CAL_LEAP_HI i) CAL_LEAP_HI_S_HI * 2 ^ 32 + (s.rg (CAL_LEAP_LO i)).toNat ≤ c then
      if s.flag (CAL_LEAP_HI i) CAL_LEAP_HI_DEL then n - 1 else n + 1
    else n) 0

/-- The present second is an inserted leap second (R466). -/
def State.sixty (s : State) : Bool :=
  (List.range 32).any fun i =>
    s.flag (CAL_LEAP_HI i) CAL_LEAP_HI_EN && !s.flag (CAL_LEAP_HI i) CAL_LEAP_HI_DEL &&
      decide (s.fld (CAL_LEAP_HI i) CAL_LEAP_HI_S_HI * 2 ^ 32 + (s.rg (CAL_LEAP_LO i)).toNat = s.calSec + 1)

/-- The offset entry with the greatest EFFECTIVE at or below a count, as (EFFECTIVE, OFFSET in minutes) (R467). -/
def State.offsetAt (s : State) (c : Nat) : Int :=
  ((List.range 16).foldl (fun (b : Option (Nat × Int)) i =>
    let eff := s.fld (CAL_OFS_HI i) CAL_OFS_HI_EFF_HI * 2 ^ 32 + (s.rg (CAL_OFS_LO i)).toNat
    if s.flag (CAL_OFS_HI i) CAL_OFS_HI_EN ∧ eff ≤ c ∧ (b.all fun x => decide (x.1 < eff)) then
      some (eff, signed 12 (s.fld (CAL_OFS_HI i) CAL_OFS_HI_OFFSET))
    else b) none |>.map Prod.snd).getD 0

/-- The offset in force, in minutes. -/
def State.offsetNow (s : State) : Int := signed 16 (s.fld CAL_OFS CAL_OFS_OFS_NOW)

/-- An entry of the leap-second or offset table takes effect or ceases to (R467). -/
def State.calAdjustDue (s : State) : Bool :=
  decide (s.leapsAt s.calSec ≠ s.leapNow) || decide (s.offsetAt s.calSec ≠ s.offsetNow)

/-- CALENDAR_ADJUSTMENT (R467). -/
def State.calAdjust (s : State) : State :=
  if s.calAdjustDue then
    ({ s with leapNow := s.leapsAt s.calSec } : State).setFld CAL_OFS CAL_OFS_OFS_NOW (unsigned 16 (s.offsetAt s.calSec))
  else s

/-- UTC (R466). -/
def State.utc (s : State) : LocalTime :=
  { sec := (s.calSec : Int) - s.leapNow - (if s.sixty then 1 else 0), sixty := s.sixty }

/-- Local time (R467). -/
def State.localTime (s : State) : LocalTime :=
  { sec := s.utc.sec + 60 * s.offsetNow, sixty := s.sixty }

/-- A change of VALID (R469): source 1 784 is raised with the new value; a fall logs a fault, a rise ends it and the
fault of R176. -/
def State.calCheck (s : State) : State :=
  let v := s.calValid
  if s.flag CAL_STAT CAL_STAT_VALID = v then s
  else
    let t := (s.setFlag CAL_STAT CAL_STAT_VALID v).raise 1784 (b2n v)
    if v then ({ (t.faultEnd fltCalInvalid 0) with noDateOn := false } : State).faultEnd fltNoDate 0
    else t.faultRaise fltCalInvalid 0 0 0

/-- VALID differs from the value last reported. -/
def State.calCheckDue (s : State) : Bool := s.flag CAL_STAT CAL_STAT_VALID != s.calValid

/-- The local time of the last valid tick is kept (R176). -/
def State.calHold (s : State) : State := if s.calValid then { s with heldCal := some s.localTime } else s

/-- CAL_CMD.SET (R468). -/
def State.calSetCmd (s : State) : State × Status :=
  if s.flag CAL_REF_CTL CAL_REF_CTL_DISC_EN then (s, .state)
  else
    let t : State :=
      { s with
        cal := (s.fld CAL_SET_HI CAL_SET_HI_SET_HI * 2 ^ 32 + (s.rg CAL_SET_LO).toNat) * fsSecond
        calErr := 0
        calSet := true }
    (t.calAdjust.calCheck.calHold, .ok)

/-- Discipline runs (R468). -/
def State.disciplined (s : State) : Bool :=
  s.flag CAL_REF_CTL CAL_REF_CTL_DISC_EN && s.refLoaded && s.flag FAB_STAT FAB_STAT_TIME_VALID

/-- The target of discipline, in femtoseconds (R468). -/
def State.calTarget (s : State) : Int :=
  (s.rg64 CAL_SREF_LO : Int) * fsSecond + (s.fabNs - s.rg64 CAL_FREF_LO) * 1000000

/-- The greatest slew in one tick: 200 ppm of it, in femtoseconds. -/
def slewMax : Nat := 500

/-- The calendar in one tick (R466, R468, R469). -/
def State.calTick (s : State) : State :=
  let run : State := { s with cal := s.cal + fsTick }
  let t :=
    if s.disciplined then
      let err := run.calTarget - run.cal
      if fsSecond < err.natAbs then
        (({ run with cal := run.calTarget.toNat, calErr := 0, calSet := true } : State).latch CAL_STAT
          CAL_STAT_STEPPED).raiseFree 1785
      else
        let room := Nat.min err.natAbs slewMax
        let by_ := Nat.min room (Config.freeValue s.free).toNat
        { run with
          cal := if err < 0 then run.cal - by_ else run.cal + by_
          calErr := 0
          calSet := true
          free := s.free + 1 }
    else { run with calErr := s.calErr + 5 }
  t.calHold

/-- The calendar in one AON cycle of 2^-15 s, the `k`-th (R466, R469): the error grows by 20 µs a second. -/
def State.calAon (s : State) (k : Nat) : State :=
  ({ s with cal := s.cal + 30517578125
            calErr := s.calErr + ((k + 1) * 9765625 / 16 - k * 9765625 / 16) } : State).calHold

/-! ## Civil dates (R173) -/

/-- A date. -/
structure Date where
  year : Int
  month : Nat
  day : Nat
  deriving DecidableEq, Repr

/-- Days from 2000-01-01 to a date of the Gregorian calendar. -/
def daysOf (d : Date) : Int :=
  let y := if d.month ≤ 2 then d.year - 1 else d.year
  let era := y / 400
  let yoe := y - era * 400
  let mp : Int := ((d.month + 9) % 12 : Nat)
  let doy := (153 * mp + 2) / 5 + (d.day : Int) - 1
  era * 146097 + (yoe * 365 + yoe / 4 - yoe / 100 + doy) - 730425

/-- The date a number of days after 2000-01-01. -/
def dateOf (n : Int) : Date :=
  let z := n + 730425
  let era := z / 146097
  let doe := z - era * 146097
  let yoe := (doe - doe / 1460 + doe / 36524 - doe / 146096) / 365
  let doy := doe - (365 * yoe + yoe / 4 - yoe / 100)
  let mp := (5 * doy + 2) / 153
  let m := (if mp < 10 then mp + 3 else mp - 9).toNat
  { year := yoe + era * 400 + (if m ≤ 2 then 1 else 0), month := m, day := (doy - (153 * mp + 2) / 5 + 1).toNat }

/-- Days in a month. -/
def daysIn (year : Int) (month : Nat) : Nat :=
  let next : Date := if month = 12 then { year := year + 1, month := 1, day := 1 } else { year := year, month := month + 1, day := 1 }
  (daysOf next - daysOf { year := year, month := month, day := 1 }).toNat

/-- The date of a local time. -/
def LocalTime.date (t : LocalTime) : Date := dateOf (t.sec / 86400)

/-- Hour, minute and second of a local time. -/
def LocalTime.hour (t : LocalTime) : Nat := (t.sec % 86400 / 3600).toNat
def LocalTime.minute (t : LocalTime) : Nat := (t.sec % 3600 / 60).toNat
def LocalTime.second (t : LocalTime) : Nat := if t.sixty then 60 else (t.sec % 60).toNat

/-- The minute of the day. -/
def LocalTime.dayMinute (t : LocalTime) : Nat := (t.sec % 86400 / 60).toNat

/-- The words of a date and of a time as the calendar registers show them. -/
def LocalTime.dateWord (t : LocalTime) : Word :=
  let d := t.date
  BitVec.ofNat 32 (d.year.toNat % 65536 * 65536 + d.month * 256 + d.day)
def LocalTime.timeWord (t : LocalTime) : Word := BitVec.ofNat 32 (t.hour * 65536 + t.minute * 256 + t.second)

/-! ## The cell (R470) -/

/-- BATT_LOW: the lithium cell falls below 2.5 V (R470). -/
def State.battLow (s : State) : State :=
  ((s.latch CAL_STAT CAL_STAT_BATT_LOW).raiseFree 1789).faultRaise fltBattLow 0 1 0

/-! ## Gap records (R472) -/

/-- Unread gap records the ring holds. -/
def gapRing : Nat := 1024

/-- A gap record written. -/
def State.addGap (s : State) (cause gen first last : Nat) : State :=
  let r : GapRec :=
    { seq := s.gapSeq, cause := cause, gen := gen, first := first, last := last, cal := s.calSec, calValid := s.calValid }
  let full := decide (gapRing ≤ s.gaps.length)
  let t : State := { s with gaps := (if full then s.gaps.drop 1 else s.gaps) ++ [r], gapSeq := (s.gapSeq + 1) % 65536 }
  let u := if full then
      ((t.latch JNL_GAP_STAT JNL_GAP_STAT_OVF).count JNL_GAP_LOST JNL_GAP_LOST_LOST 1).faultEvent fltGapOvf 0 1 0
    else t
  u.raiseFree 1786

/-- The 8 words of a gap record. -/
def GapRec.words (r : GapRec) : List Word :=
  [ BitVec.ofNat 32 (r.seq % 65536 * 65536 + r.cause % 8 * 256 + r.gen % 8), BitVec.ofNat 32 r.first,
    BitVec.ofNat 32 (r.first / 2 ^ 32), BitVec.ofNat 32 r.last, BitVec.ofNat 32 (r.last / 2 ^ 32),
    BitVec.ofNat 32 r.cal, BitVec.ofNat 32 (r.cal / 2 ^ 32), BitVec.ofNat 32 (b2n r.calValid) ]

/-- A read that includes word 7 removes the record. -/
def State.gapPop (s : State) : State := { s with gaps := s.gaps.drop 1 }

/-- Gap records with a cause for the numbers a generator holds and has not issued (R178). -/
def State.gapsOfGen (s : State) (cause g : Nat) (ranges : List (Nat × Nat)) : State :=
  ranges.foldl (fun t r => if r.1 ≤ r.2 then t.addGap cause g r.1 r.2 else t) s

/-! ## Registers (R476) -/

/-- The write of a TAL register. -/
def State.writeTal (s : State) (k : Nat) (w : Wr) : State × Status :=
  if w.base = TAL_CMD then (if w.acts TAL_CMD_FLUSH then s.tallyFlush else s, .ok)
  else if w.base = TAL_SET_CMD then s.tallySet (w.acts TAL_SET_CMD_GO) (w.act.getF TAL_SET_CMD_IDX)
  else if w.base = TAL_W_SEL 0 then
    if tallyCount ≤ w.fld TAL_W_SEL_SEL then (s, .range) else (s.plainWrite w, .ok)
  else if w.base = TAL_LIM_CFG 0 then
    if w.was TAL_LIM_CFG_EN = 1 ∧ w.changes TAL_LIM_CFG_IDX.mask then (s, .state)
    else if tallyCount ≤ w.fld TAL_LIM_CFG_IDX then (s, .range)
    else
      let t := s.plainWrite w
      (if w.was TAL_LIM_CFG_EN = 0 ∧ w.fld TAL_LIM_CFG_EN = 1 then t.wearStanding k else t, .ok)
  else if w.base = TAL_LIM_LO 0 ∨ w.base = TAL_LIM_HI 0 then
    if s.flag (TAL_LIM_CFG k) TAL_LIM_CFG_EN then (s, .state) else (s.plainWrite w, .ok)
  else if w.base = CAL_CMD then (if w.acts CAL_CMD_SET then s.calSetCmd else (s, .ok))
  else if w.base = CAL_REF_CTL then
    if w.fld CAL_REF_CTL_ERR_MAX = 0 then (s, .range) else ((s.plainWrite w).calCheck, .ok)
  else if w.base = CAL_FREF_LO ∨ w.base = CAL_FREF_HI ∨ w.base = CAL_SREF_LO ∨ w.base = CAL_SREF_HI then
    ({ (s.plainWrite w) with refLoaded := true }, .ok)
  else if w.base = CAL_OFS_HI 0 then
    let o := signed 12 (w.fld CAL_OFS_HI_OFFSET)
    if o < -900 ∨ 900 < o then (s, .range) else ((s.plainWrite w).calAdjust, .ok)
  else if w.base = CAL_OFS_LO 0 ∨ w.base = CAL_LEAP_LO 0 ∨ w.base = CAL_LEAP_HI 0 then ((s.plainWrite w).calAdjust, .ok)
  else (s.plainWrite w, .ok)

/-- The 64-byte units of a slot's records in use (R476). -/
def Slot.used (x : Slot) : Nat := (x.recs.length + 63) / 64

/-- A TAL register as it reads. -/
def State.viewTal (s : State) (b k a : Nat) : Word :=
  if b = TAL_STAT then (0 : Word).setF TAL_STAT_AGE (satTo 65535 ((s.time - s.lastFlush) / ticksS))
  else if b = TAL_W_LO 0 then BitVec.ofNat 32 (s.tally (s.fld (TAL_W_SEL k) TAL_W_SEL_SEL))
  else if b = TAL_W_HI 0 then BitVec.ofNat 32 (s.tally (s.fld (TAL_W_SEL k) TAL_W_SEL_SEL) / 2 ^ 32)
  else if b = CAL_STAT then
    (((s.rg a).setF CAL_STAT_VALID (b2n s.calValid)).setF CAL_STAT_DISC (b2n s.disciplined)).setF CAL_STAT_ERR_EST s.calErrMs
  else if b = CAL_SEC_LO then BitVec.ofNat 32 s.calSec
  else if b = CAL_SEC_HI then BitVec.ofNat 32 (s.calSec / 2 ^ 32)
  else if b = CAL_FRAC then BitVec.ofNat 32 (s.cal % fsSecond * 2 ^ 32 / fsSecond)
  else if b = CAL_UTC_DATE then s.utc.dateWord
  else if b = CAL_UTC_TIME then s.utc.timeWord
  else if b = CAL_LOC_DATE then s.localTime.dateWord
  else if b = CAL_LOC_TIME then s.localTime.timeWord
  else if b = JNL_GAP_STAT then (s.rg a).setF JNL_GAP_STAT_UNREAD s.gaps.length
  else if b = JNL_GAP 0 then
    match s.gaps with
    | r :: _ => r.words.getD k 0
    | [] => 0
  else if b = JNL_SLOT 0 then
    let x := s.slot k
    (((0 : Word).setF JNL_SLOT_SEALED (b2n x.sealCrc.isSome)).setF JNL_SLOT_OPEN (b2n x.opened)).setF JNL_SLOT_USED x.used
  else s.rg a

end Sys2Proof.Machine
end

