-- ==== Sys2Proof/Machine/Symbols.lean ====
section
/-! DEFINITION. What the composer prints: numbers, dates and formats (R169, R172 to R174), and DataMatrix symbols (R181,
R182). Error correction and the placement of modules follow ISO/IEC 16022, which the spec names and does not repeat. -/

namespace Sys2Proof.Machine

/-! ## Text -/

/-- A character as a byte. -/
def chr (n : Nat) : Byte := BitVec.ofNat 8 n

/-- The decimal digits of a number, most significant first, from `k` digits at most. -/
def decDigits : Nat → Nat → List Byte
  | 0, _ => []
  | k + 1, n => if n < 10 then [chr (48 + n)] else decDigits k (n / 10) ++ [chr (48 + n % 10)]

/-- The capital hexadecimal digits of a number. -/
def hexDigits : Nat → Nat → List Byte
  | 0, _ => []
  | k + 1, n =>
    let d := chr (if n % 16 < 10 then 48 + n % 16 else 55 + n % 16)
    if n < 16 then [d] else hexDigits k (n / 16) ++ [d]

/-- A number of exactly `w` decimal digits, its low ones. -/
def digitsOf : Nat → Nat → List Byte
  | 0, _ => []
  | w + 1, n => digitsOf w (n / 10) ++ [chr (48 + n % 10)]

/-- Digits brought to a width (R169): none where they are more than the width allows; width 0 takes as many as needed. -/
def toWidth (width pad : Nat) (ds : List Byte) : Option (List Byte) :=
  if width = 0 then some ds
  else if width < ds.length then none
  else some (List.replicate (width - ds.length) (chr (if pad = 0 then 48 else 32)) ++ ds)

/-- The GS1 modulo-10 check digit of a text of digits (R169): weights 3 and 1 from the right; other bytes weigh 0. -/
def checkDigit (ds : List Byte) : Byte :=
  let v (b : Byte) : Nat := if 48 ≤ b.toNat ∧ b.toNat ≤ 57 then b.toNat - 48 else 0
  let sum := (ds.reverse.foldl (fun (p : Nat × Nat) b => (p.1 + p.2 * v b, 4 - p.2)) (0, 3)).1
  chr (48 + (10 - sum % 10) % 10)

/-! ## Dates (R172 to R174) -/

/-- ISO 8601 weekday, Monday = 1. -/
def weekday (days : Int) : Nat := ((days + 5) % 7 + 1).toNat

/-- Ordinal day in the year. -/
def ordinal (d : Date) : Nat := (daysOf d - daysOf { year := d.year, month := 1, day := 1 } + 1).toNat

/-- ISO 8601 week-numbering year and week. -/
def isoWeek (d : Date) : Int × Nat :=
  let days := daysOf d
  let th := dateOf (days + 4 - weekday days)
  (th.year, (ordinal th - 1) / 7 + 1)

/-- A date that the composer prints (R167). -/
def dateOk (d : Date) : Bool := decide (2000 ≤ d.year) && decide (d.year ≤ 2199)

/-- A date moved by months (R174). -/
def addMonths (d : Date) (months : Int) (mend : Nat) : Date :=
  let m0 := d.year * 12 + ((d.month - 1 : Nat) : Int) + months
  let y := m0 / 12
  let m := (m0 % 12).toNat + 1
  let last := daysIn y m
  if mend = 2 then { year := y, month := m, day := last }
  else if d.day ≤ last then { year := y, month := m, day := d.day }
  else if mend = 0 then { year := y, month := m, day := last }
  else dateOf (daysOf { year := y, month := m, day := last } + ((d.day - last : Nat) : Int))

/-- A production date moved by a BEST_BEFORE offset (R174): unit 0 = days, 1 = months, 2 = years. -/
def bestBefore (d : Date) (unit mend : Nat) (offset : Int) : Date :=
  if unit = 0 then dateOf (daysOf d + offset)
  else addMonths d (if unit = 2 then 12 * offset else offset) mend

/-- What a format token prints (R173); none for an undefined token. `name` is the month's name. -/
def token (t : Nat) (d : Date) (now : LocalTime) (name : List Byte) : Option (List Byte) :=
  let y := d.year.toNat
  if t = 0x59 then some (digitsOf 4 y)
  else if t = 0x79 then some (digitsOf 2 y)
  else if t = 0x6D then some (digitsOf 2 d.month)
  else if t = 0x64 then some (digitsOf 2 d.day)
  else if t = 0x62 then some name
  else if t = 0x6A then some (digitsOf 3 (ordinal d))
  else if t = 0x4A then some (digitsOf 1 y ++ digitsOf 3 (ordinal d))
  else if t = 0x47 then some (digitsOf 4 (isoWeek d).1.toNat)
  else if t = 0x67 then some (digitsOf 2 (isoWeek d).1.toNat)
  else if t = 0x56 then some (digitsOf 2 (isoWeek d).2)
  else if t = 0x75 then some (digitsOf 1 (weekday (daysOf d)))
  else if t = 0x48 then some (digitsOf 2 now.hour)
  else if t = 0x4D then some (digitsOf 2 now.minute)
  else if t = 0x53 then some (digitsOf 2 now.second)
  else if t = 0x25 then some [0x25]
  else none

/-- A time token (R173). -/
def timeToken (t : Nat) : Bool := decide (t = 0x48) || decide (t = 0x4D) || decide (t = 0x53)

/-- A format string printed (R173); an undefined token, which R170 keeps out of bound templates, prints nothing. -/
def formatText (d : Date) (now : LocalTime) (name : List Byte) : List Byte → List Byte
  | [] => []
  | [b] => if b = 0x25 then [] else [b]
  | b :: t :: r =>
    if b = 0x25 then (token t.toNat d now name).getD [] ++ formatText d now name r
    else b :: formatText d now name (t :: r)

/-- A format that R170 accepts: `time` allows time tokens, `names` says that month names are listed. -/
def formatOk (time names : Bool) : List Byte → Bool
  | [] => true
  | [b] => decide (b ≠ 0x25)
  | b :: t :: r =>
    if b = 0x25 then
      (token t.toNat { year := 2000, month := 1, day := 1 } { sec := 0, sixty := false } []).isSome &&
        (time || !timeToken t.toNat) && (names || decide (t ≠ 0x62)) && formatOk time names r
    else formatOk time names (t :: r)

/-! ## DataMatrix: sizes (R182) -/

/-- A symbol size: rows, columns, data regions across and down, data and error-correction codewords. -/
structure SymSize where
  rows : Nat
  cols : Nat
  down : Nat
  across : Nat
  data : Nat
  ecc : Nat
  deriving DecidableEq, Repr

/-- The sizes by SIZE number; none for AUTO and reserved values. -/
def symSize : Nat → Option SymSize
  | 1 => some ⟨10, 10, 1, 1, 3, 5⟩
  | 2 => some ⟨12, 12, 1, 1, 5, 7⟩
  | 3 => some ⟨14, 14, 1, 1, 8, 10⟩
  | 4 => some ⟨16, 16, 1, 1, 12, 12⟩
  | 5 => some ⟨18, 18, 1, 1, 18, 14⟩
  | 6 => some ⟨20, 20, 1, 1, 22, 18⟩
  | 7 => some ⟨22, 22, 1, 1, 30, 20⟩
  | 8 => some ⟨24, 24, 1, 1, 36, 24⟩
  | 9 => some ⟨26, 26, 1, 1, 44, 28⟩
  | 10 => some ⟨32, 32, 2, 2, 62, 36⟩
  | 11 => some ⟨36, 36, 2, 2, 86, 42⟩
  | 12 => some ⟨40, 40, 2, 2, 114, 48⟩
  | 13 => some ⟨44, 44, 2, 2, 144, 56⟩
  | 14 => some ⟨48, 48, 2, 2, 174, 68⟩
  | 15 => some ⟨8, 18, 1, 1, 5, 7⟩
  | 16 => some ⟨8, 32, 1, 2, 10, 11⟩
  | 17 => some ⟨12, 26, 1, 1, 16, 14⟩
  | 18 => some ⟨12, 36, 1, 2, 22, 18⟩
  | 19 => some ⟨16, 36, 1, 2, 32, 24⟩
  | 20 => some ⟨16, 48, 1, 2, 49, 28⟩
  | _ => none

/-- The symbol for a SIZE and a number of data codewords: AUTO takes the smallest of its shape that holds them; none
where the content does not fit. -/
def chooseSize (size n : Nat) : Option SymSize :=
  let fits (k : Nat) : Option SymSize := (symSize k).bind fun z => if n ≤ z.data then some z else none
  if size = 0 then (List.range 14).findSome? fun k => fits (k + 1)
  else if size = 21 then (List.range 6).findSome? fun k => fits (k + 15)
  else fits size

/-! ## DataMatrix: codewords (R181) -/

/-- A decimal digit. -/
def isDigit (b : Byte) : Bool := decide (48 ≤ b.toNat) && decide (b.toNat ≤ 57)

/-- One byte in ASCII encodation; 0x1D is FNC1 under GS1. -/
def asciiByte (gs1 : Bool) (b : Byte) : List Nat :=
  if gs1 ∧ b = 0x1D then [232]
  else if b.toNat < 128 then [b.toNat + 1]
  else [235, b.toNat - 127]

/-- ASCII encodation: digits pair from the left of each run. -/
def asciiWords (gs1 : Bool) : List Byte → List Nat
  | [] => []
  | [b] => asciiByte gs1 b
  | a :: b :: r =>
    if isDigit a ∧ isDigit b then ((a.toNat - 48) * 10 + (b.toNat - 48) + 130) :: asciiWords gs1 r
    else asciiByte gs1 a ++ asciiWords gs1 (b :: r)

/-- The 255-state randomising of a Base 256 codeword at a position counted from 1. -/
def random255 (pos v : Nat) : Nat := (v + 149 * pos % 255 + 1) % 256

/-- Codewords randomised from a position on. -/
def randomised : Nat → List Nat → List Nat
  | _, [] => []
  | pos, v :: r => random255 pos v :: randomised (pos + 1) r

/-- One Base 256 field that starts after `k` codewords. -/
def base256Words (k : Nat) (bs : List Byte) : List Nat :=
  let n := bs.length
  let len := if n < 250 then [n] else [n / 250 + 249, n % 250]
  231 :: randomised (k + 2) (len ++ bs.map fun b => b.toNat)

/-- The data codewords of a content before padding. -/
def dataWords (gs1 base256 : Bool) (bs : List Byte) : List Nat :=
  let lead := if gs1 then [232] else []
  lead ++ (if base256 then base256Words lead.length bs else asciiWords gs1 bs)

/-- The pad codeword at a position counted from 1, after the first (253-state). -/
def pad253 (pos : Nat) : Nat :=
  let v := 129 + 149 * pos % 253 + 1
  if 254 < v then v - 254 else v

/-- Codewords padded to a length. -/
def padWords (n : Nat) (ws : List Nat) : List Nat :=
  if n ≤ ws.length then ws
  else ws ++ [129] ++ (List.range (n - ws.length - 1)).map fun i => pad253 (ws.length + 2 + i)

/-! ## DataMatrix: error correction (ISO/IEC 16022, PRESUMED) -/

/-- A product in GF(256) with the polynomial 0x12D. -/
def gfMulAux : Nat → Nat → Nat → Nat
  | 0, _, _ => 0
  | k + 1, a, b =>
    let r := gfMulAux k (if 128 ≤ a then Nat.xor (a * 2) 0x12D else a * 2) (b / 2)
    if b % 2 = 1 then Nat.xor r a else r
def gfMul (a b : Nat) : Nat := gfMulAux 8 a b

/-- 2 to a power in the field. -/
def gfPow : Nat → Nat
  | 0 => 1
  | k + 1 => gfMul 2 (gfPow k)

/-- A polynomial, highest coefficient first and without its leading 1, times (x + c). -/
def polyTimes (c : Nat) (p : List Nat) : List Nat :=
  let lead := 1 :: p
  (List.range (p.length + 1)).map fun i => Nat.xor (lead.getD (i + 1) 0) (gfMul c (lead.getD i 0))

/-- The generator polynomial of `n` error-correction codewords. -/
def genPoly : Nat → List Nat
  | 0 => []
  | n + 1 => polyTimes (gfPow (n + 1)) (genPoly n)

/-- The error-correction codewords of the data. -/
def eccWords (n : Nat) (ws : List Nat) : List Nat :=
  let g := genPoly n
  ws.foldl (fun r w =>
    let f := Nat.xor w (r.headD 0)
    (List.range n).map fun i => Nat.xor (r.getD (i + 1) 0) (gfMul f (g.getD i 0))) (List.replicate n 0)

/-! ## DataMatrix: placement (ISO/IEC 16022, PRESUMED) -/

/-- A cell of the mapping matrix set to bit `bit` (1 = most significant) of codeword `w`, wrapping at the edges. -/
def placeBit (nr nc : Nat) (m : FMap Nat) (row col : Int) (w bit : Nat) : FMap Nat :=
  let r1 := if row < 0 then row + nr else row
  let c1 := if row < 0 then col + 4 - (((nr + 4) % 8 : Nat) : Int) else col
  let c2 := if c1 < 0 then c1 + nc else c1
  let r2 := if c1 < 0 then r1 + 4 - (((nc + 4) % 8 : Nat) : Int) else r1
  FMap.insert (r2.toNat * nc + c2.toNat) (w * 8 + bit - 1) m

/-- The eight cells of a codeword in its standard shape. -/
def placeUtah (nr nc : Nat) (m : FMap Nat) (row col : Int) (w : Nat) : FMap Nat :=
  [(-2, -2), (-2, -1), (-1, -2), (-1, -1), (-1, 0), (0, -2), (0, -1), (0, 0)].zipIdx.foldl
    (fun (a : FMap Nat) (p : (Int × Int) × Nat) => placeBit nr nc a (row + p.1.1) (col + p.1.2) w (p.2 + 1)) m

/-- The cells of a corner shape. -/
def placeCorner (nr nc : Nat) (m : FMap Nat) (cells : List (Int × Int)) (w : Nat) : FMap Nat :=
  cells.zipIdx.foldl (fun (a : FMap Nat) (p : (Int × Int) × Nat) => placeBit nr nc a p.1.1 p.1.2 w (p.2 + 1)) m

/-- The four corner shapes. -/
def cornerCells (nr nc : Int) : Nat → List (Int × Int)
  | 1 => [(nr - 1, 0), (nr - 1, 1), (nr - 1, 2), (0, nc - 2), (0, nc - 1), (1, nc - 1), (2, nc - 1), (3, nc - 1)]
  | 2 => [(nr - 3, 0), (nr - 2, 0), (nr - 1, 0), (0, nc - 4), (0, nc - 3), (0, nc - 2), (0, nc - 1), (1, nc - 1)]
  | 3 => [(nr - 3, 0), (nr - 2, 0), (nr - 1, 0), (0, nc - 2), (0, nc - 1), (1, nc - 1), (2, nc - 1), (3, nc - 1)]
  | _ => [(nr - 1, 0), (nr - 1, nc - 1), (0, nc - 3), (0, nc - 2), (0, nc - 1), (1, nc - 3), (1, nc - 2), (1, nc - 1)]

/-- Where the placement stands. -/
structure Pen where
  m : FMap Nat
  row : Int
  col : Int
  w : Nat

/-- A corner shape where the position calls for it. -/
def atCorner (nr nc : Nat) (p : Pen) : Pen :=
  let go (k : Nat) (q : Pen) : Pen := { q with m := placeCorner nr nc q.m (cornerCells nr nc k) q.w, w := q.w + 1 }
  let p1 := if p.row = nr ∧ p.col = 0 then go 1 p else p
  let p2 := if p1.row = (nr : Int) - 2 ∧ p1.col = 0 ∧ nc % 4 ≠ 0 then go 2 p1 else p1
  let p3 := if p2.row = (nr : Int) - 2 ∧ p2.col = 0 ∧ nc % 8 = 4 then go 3 p2 else p2
  if p3.row = (nr : Int) + 4 ∧ p3.col = 2 ∧ nc % 8 = 0 then go 4 p3 else p3

/-- A codeword at the position unless the cell is taken. -/
def atCell (nr nc : Nat) (p : Pen) : Pen :=
  if 0 ≤ p.row ∧ p.row < nr ∧ 0 ≤ p.col ∧ p.col < nc ∧ (FMap.find (p.row.toNat * nc + p.col.toNat) p.m).isNone then
    { p with m := placeUtah nr nc p.m p.row p.col p.w, w := p.w + 1 }
  else p

/-- A sweep up and to the right. -/
def sweepUp (nr nc : Nat) : Nat → Pen → Pen
  | 0, p => p
  | k + 1, p =>
    let q := atCell nr nc p
    let r := { q with row := q.row - 2, col := q.col + 2 }
    if 0 ≤ r.row ∧ r.col < (nc : Int) then sweepUp nr nc k r else r

/-- A sweep down and to the left. -/
def sweepDown (nr nc : Nat) : Nat → Pen → Pen
  | 0, p => p
  | k + 1, p =>
    let q := atCell nr nc p
    let r := { q with row := q.row + 2, col := q.col - 2 }
    if r.row < (nr : Int) ∧ 0 ≤ r.col then sweepDown nr nc k r else r

/-- The sweeps over the whole mapping matrix. -/
def sweeps (nr nc : Nat) : Nat → Pen → Pen
  | 0, p => p
  | k + 1, p =>
    let a := sweepUp nr nc (nr + nc) (atCorner nr nc p)
    let b := sweepDown nr nc (nr + nc) { a with row := a.row + 1, col := a.col + 3 }
    let c := { b with row := b.row + 3, col := b.col + 1 }
    if c.row < (nr : Int) ∨ c.col < (nc : Int) then sweeps nr nc k c else c

/-- The mapping matrix: for each cell, codeword × 8 + bit - 1 with bit 1 the most significant. -/
def mapping (nr nc : Nat) : FMap Nat := (sweeps nr nc (nr + nc) { m := [], row := 4, col := 0, w := 0 }).m

/-- A cell of the mapping matrix is dark; a cell that no codeword fills follows the fixed pattern of the lower right
corner. -/
def mappedDark (nr nc : Nat) (m : FMap Nat) (ws : List Nat) (row col : Nat) : Bool :=
  match FMap.find (row * nc + col) m with
  | some x => bitOf (ws.getD (x / 8) 0) (7 - x % 8)
  | none => decide (row + 1 = nr ∧ col + 1 = nc) || decide (row + 2 = nr ∧ col + 2 = nc)

/-- A module of a symbol is dark. -/
def moduleDark (z : SymSize) (m : FMap Nat) (ws : List Nat) (row col : Nat) : Bool :=
  let h := z.rows / z.down
  let w := z.cols / z.across
  let r := row % h
  let c := col % w
  if c = 0 ∨ r + 1 = h then true
  else if r = 0 then c % 2 = 0
  else if c + 1 = w then r % 2 = 1
  else mappedDark (z.rows - 2 * z.down) (z.cols - 2 * z.across) m ws (row / h * (h - 2) + r - 1) (col / w * (w - 2) + c - 1)

/-- A symbol: its size and its dark modules as (row, column). -/
structure Symbol where
  size : SymSize
  dark : List (Nat × Nat)
  deriving DecidableEq, Repr

/-- The symbol of a content (R181, R182); none where it does not fit. -/
def encodeSymbol (size : Nat) (gs1 base256 : Bool) (bs : List Byte) : Option Symbol :=
  let ws := dataWords gs1 base256 bs
  (chooseSize size ws.length).map fun z =>
    let d := padWords z.data ws
    let all := d ++ eccWords z.ecc d
    let m := mapping (z.rows - 2 * z.down) (z.cols - 2 * z.across)
    { size := z
      dark := (List.range z.rows).flatMap fun r =>
        ((List.range z.cols).filter fun c => moduleDark z m all r c).map fun c => (r, c) }

end Sys2Proof.Machine
end

