-- ==== Sys2Proof/Machine/Composer.lean ====
section
/-! DEFINITION. The composer (R164 to R187): templates, jobs, serial generators, glyphs, images and rings. -/

namespace Sys2Proof.Machine

/-! ## Templates (R168 to R170) -/

/-- A template header (R168). -/
structure Template where
  magic : Nat
  version : Nat
  nfield : Nat
  cols : Nat
  rows : Nat
  depth : Nat
  classB : Bool
  noDate : Nat
  subst : Nat
  deadline : Nat
  months : Nat
  /-- The reserved bits are 0. -/
  clean : Bool
  deriving DecidableEq, Repr

/-- A field record (R169). -/
structure TplField where
  type : Nat
  glyph : Nat
  xs : Nat
  ys : Nat
  level : Nat
  x : Nat
  dest : Nat
  y : Nat
  a : Nat
  b : Nat
  str : Nat
  len : Nat
  clean : Bool
  deriving DecidableEq, Repr

/-- The header at a block. -/
def State.template (s : State) (blk : Nat) : Template :=
  let bs := s.poolRead (blk * blockSize) 32
  { magic := leAt bs 0 2
    version := leAt bs 2 1
    nfield := leAt bs 3 1
    cols := leAt bs 4 2
    rows := leAt bs 6 2
    depth := leAt bs 8 1 % 2
    classB := bitOf (leAt bs 8 1) 1
    noDate := bitsOf (leAt bs 8 1) 3 2
    subst := leAt bs 9 1 % 64
    deadline := leAt bs 10 2
    months := leAt bs 12 2
    clean := decide (bitsOf (leAt bs 8 1) 7 4 = 0) && decide (bitsOf (leAt bs 9 1) 7 6 = 0) &&
      (bs.drop 14).all fun b => decide (b = 0) }

/-- Field record `i` of the template at a block. -/
def State.tplField (s : State) (blk i : Nat) : TplField :=
  let bs := s.poolRead (blk * blockSize + 32 + 16 * i) 16
  let w0 := leAt bs 0 4
  let w1 := leAt bs 4 4
  let w3 := leAt bs 12 4
  { type := bitsOf w0 31 28
    glyph := bitsOf w0 27 24
    xs := bitsOf w0 23 20
    ys := bitsOf w0 19 16
    level := bitsOf w0 15 14
    x := bitsOf w0 11 0
    dest := bitsOf w1 31 26
    y := bitsOf w1 25 16
    a := w1 % 65536
    b := leAt bs 8 4
    str := bitsOf w3 31 16
    len := bitsOf w3 15 8
    clean := decide (bitsOf w0 13 12 = 0) && decide (w3 % 256 = 0) }

/-- The field records of a template. -/
def State.tplFields (s : State) (blk : Nat) : List TplField :=
  (List.range (s.template blk).nfield).map fun i => s.tplField blk i

/-- A field's string. -/
def State.tplString (s : State) (blk : Nat) (f : TplField) : List Byte := s.poolRead (blk * blockSize + f.str) f.len

/-- The types that draw text: all but DMATRIX. -/
def TplField.isText (f : TplField) : Bool := decide (f.type ≠ 8)

/-- DATE, BEST_BEFORE and SHIFT fields (R176). -/
def TplField.dated (f : TplField) : Bool := decide (2 ≤ f.type) && decide (f.type ≤ 4)

/-- The parameters A and B of a field (R169). -/
def TplField.paramsOk (f : TplField) : Bool :=
  let width (m : Nat) : Bool := decide (f.b % 32 ≤ 20) && decide (f.b / 2 ^ m = 0)
  match f.type with
  | 1 => decide (f.a = 0) && decide (f.b = 0)
  | 2 => decide (f.a = 0) && decide (f.b = 0)
  | 3 =>
    let unit := f.a / 2 ^ 14
    let mend := f.a / 2 ^ 12 % 4
    let o := (signed 32 f.b).natAbs
    decide (f.a % 2 ^ 12 = 0) && decide (unit ≠ 3) && decide (mend ≠ 3) && (decide (unit ≠ 0) || decide (mend = 0)) &&
      decide (o ≤ (if unit = 0 then 9999 else if unit = 1 then 1200 else 100))
  | 4 => decide (f.a ≤ 1) && decide (f.b = 0)
  | 5 => decide (f.a ≤ 3) && decide (f.b = 0)
  | 6 => decide (f.a % 16 ≤ 6) && decide (f.a / 16 % 16 = 0) && decide (f.a / 256 ≤ 1) && width 6
  | 7 => decide (f.a ≤ 7) && width 7
  | 8 => decide (f.a % 32 ≤ 21) && decide (f.a / 128 = 0) && decide (f.b = 0)
  | _ => false

/-- A fixed-size symbol lies inside the image (R170). -/
def TplField.symbolInside (f : TplField) (z : SymSize) (cols rows : Nat) : Bool :=
  decide (f.x + z.cols * (f.xs + 1) ≤ cols) && decide (f.y + z.rows * (f.ys + 1) ≤ rows)

/-- A field record that R170 accepts. -/
def State.tplFieldOk (s : State) (blk : Nat) (h : Template) (fs : List TplField) (f : TplField) : Bool :=
  f.clean && f.paramsOk && decide (1 ≤ f.level) && (decide (h.depth = 1) || decide (f.level = 1)) &&
    decide (f.str + f.len ≤ blockSize) &&
    (if f.type = 8 then decide (f.dest = 63)
     else decide (f.dest = 63) || ((fs.drop f.dest).head?.map fun g => decide (g.type = 8)).getD false) &&
    (if f.type = 2 ∨ f.type = 3 then formatOk (decide (f.type = 2)) (decide (h.months ≠ 0)) (s.tplString blk f) else true) &&
    (match symSize (f.a % 32) with
     | some z => decide (f.type ≠ 8) || f.symbolInside z h.cols h.rows
     | none => true)

/-- Template number `m` is bound. -/
def State.tplValid (s : State) (m : Nat) : Bool := s.flag (CMP_TPL m) CMP_TPL_VALID
def State.tplBlock (s : State) (m : Nat) : Nat := s.fld (CMP_TPL m) CMP_TPL_BLOCK

/-- The template at a block passes the check of R170. -/
def State.templateOk (s : State) (blk : Nat) : Bool :=
  let h := s.template blk
  let fs := s.tplFields blk
  decide (h.magic = 0x4354) && decide (h.version = 1) && decide (1 ≤ h.nfield) && decide (h.nfield ≤ 48) &&
    decide (1 ≤ h.cols) && decide (h.cols ≤ 4096) && decide (1 ≤ h.rows) && decide (h.rows ≤ 1024) &&
    decide (h.noDate ≠ 3) && h.clean && (!h.classB || decide (1 ≤ h.deadline)) &&
    decide (h.months + 36 ≤ blockSize) && (fs.all fun f => s.tplFieldOk blk h fs f) &&
    (decide (h.noDate ≠ 1) ||
      (s.tplValid h.subst && (s.tplFields (s.tplBlock h.subst)).all fun f => !f.dated))

/-! ## Serial generators (R177 to R179, R419) -/

/-- Generator `g`. -/
def State.gen (s : State) (g : Nat) : SerialGen := FMap.get (fun _ => SerialGen.init) s.gens g

/-- The state with generator `g` replaced. -/
def State.setGen (s : State) (g : Nat) (x : SerialGen) : State :=
  { s with gens := FMap.set (fun _ => SerialGen.init) s.gens g x }

/-- Registers of a generator. -/
def State.genEn (s : State) (g : Nat) : Bool := s.flag (CMP_SG_CFG g) CMP_SG_CFG_EN
def State.genStart (s : State) (g : Nat) : Nat := s.rg64 (CMP_SG_START_LO g)
def State.genEnd (s : State) (g : Nat) : Nat := s.rg64 (CMP_SG_END_LO g)

/-- Numbers in a block. -/
def serialBlock : Nat := 256

/-- The first block above HWM: its number, counted from START. -/
def State.firstFree (s : State) (g : Nat) : Nat :=
  let h := (s.gen g).hwm
  if h < s.genStart g then 0 else (h - s.genStart g) / serialBlock + 1

/-- The next block that generator `g` may reserve (R177, R419): the first above HWM, of the member's own parity in a twin
pair. -/
def State.nextBlock (s : State) (g : Nat) : Nat :=
  let b := s.firstFree g
  if s.twinEn ∧ b % 2 ≠ s.fld TWN_CFG TWN_CFG_MEMBER then b + 1 else b

/-- The numbers of block `b`; none where it starts beyond END. -/
def State.blockNumbers (s : State) (g b : Nat) : Option (Nat × Nat) :=
  let f := s.genStart g + serialBlock * b
  if f ≤ s.genEnd g then some (f, Nat.min (s.genEnd g) (f + serialBlock - 1)) else none

/-- Starts the reservation of the next block where none is in progress or reserved ahead (R177); a standby issues nothing
and reserves nothing. -/
def State.reserveNext (s : State) (g : Nat) : State :=
  let x := s.gen g
  if s.standby ∨ x.reserving.isSome ∨ x.ahead.isSome then s
  else
    let b := s.nextBlock g
    match s.blockNumbers g b with
    | none => s
    | some r =>
      let t0 := (s.setGen g { x with reserving := some r }).mirror 4 [g, r.1, r.2]
      let t : State :=
        if s.mirroring then { t0 with twin := { t0.twin with reservations := t0.twin.reservations ++ [(g, t0.twin.seqOut)] } }
        else t0
      if s.firstFree g < b then
        (match s.blockNumbers g (s.firstFree g) with
         | some p => t.addGap 5 g p.1 p.2
         | none => t)
      else t

/-- Numbers that remain of the present block when the next is reserved (R177). -/
def reserveAt : Nat := 64

/-- Numbers of the present block that remain (R177). -/
def SerialGen.left (x : SerialGen) : Nat :=
  match x.cur with
  | some (n, last) => last + 1 - n
  | none => 0

/-- The next number of generator `g`, with the state in which it has been issued; none while none can be issued. -/
def State.issue (s : State) (g : Nat) : Option (State × Nat) :=
  let x := s.gen g
  match x.cur with
  | none => none
  | some (n, last) =>
    if last < n then none
    else
      let y : SerialGen :=
        if n = last then { x with cur := x.ahead, ahead := none } else { x with cur := some (n + 1, last) }
      let t := s.setGen g y
      some (if y.left ≤ reserveAt then t.reserveNext g else t, n)

/-- Generator `g` has no number left and none on the way (R179); a disabled one issues nothing. -/
def State.genExhausted (s : State) (g : Nat) : Bool :=
  let x := s.gen g
  !s.genEn g || ((x.cur.all fun c => decide (c.2 < c.1)) && x.ahead.isNone && x.reserving.isNone &&
    (s.blockNumbers g (s.nextBlock g)).isNone)

/-- Numbers that generator `g` holds and has not issued (R178). -/
def SerialGen.unissued (x : SerialGen) : List (Nat × Nat) :=
  [x.cur, x.ahead, x.reserving].filterMap id

/-- The generator gives up what it holds, logged with a cause (R178). -/
def State.genDrop (s : State) (cause g : Nat) : State :=
  let x := s.gen g
  let hi := x.unissued.foldl (fun h r => Nat.max h r.2) x.hwm
  (s.setGen g { x with hwm := hi, cur := none, ahead := none, reserving := none }).gapsOfGen cause g x.unissued

/-! ## Composition: fields -/

/-- What a job composes with: its template, its record and its numbers. -/
structure Work where
  blk : Nat
  head : Template
  rec_ : Option Product
  serials : List (Nat × Nat)

/-- A result or the reason of a failure. -/
abbrev Made (α : Type) := Except JobFail α

/-- The production date of a job (R172). -/
def State.productionDate (s : State) (j : Job) : Date :=
  dateOf ((j.now.sec - 60 * (s.fld CMP_CFG CMP_CFG_DAY_START : Int)) / 86400)

/-- The name of a month from the MONTHS list (R168). -/
def State.monthName (s : State) (w : Work) (m : Nat) : List Byte :=
  s.poolRead (w.blk * blockSize + w.head.months + 3 * (m - 1)) 3

/-- A dated text (R173). -/
def State.dateText (s : State) (j : Job) (w : Work) (f : TplField) (d : Date) : Made (List Byte) :=
  if dateOk d then .ok (formatText d j.now (s.monthName w d.month) (s.tplString w.blk f)) else .error .date

/-- The shift entry in force at a minute of the day (R175). -/
def shiftAt (shifts : List Word) (minute : Nat) : Option Word :=
  let on := shifts.filter fun w => decide (w.getF CMP_SHIFT_EN = 1)
  let best (ws : List Word) : Option Word :=
    ws.foldl (fun b w => match b with
      | none => some w
      | some x => if x.getF CMP_SHIFT_START < w.getF CMP_SHIFT_START then some w else some x) none
  match best (on.filter fun w => decide (w.getF CMP_SHIFT_START ≤ minute)) with
  | some w => some w
  | none => best on

/-- A number as decimal text, with WIDTH and PAD (R169). -/
def numberText (b : Nat) (ds : List Byte) : Made (List Byte) :=
  match toWidth (b % 32) (b / 32 % 2) ds with
  | some t => .ok t
  | none => .error .digits

/-- The value an ATTR field prints (R169). -/
def attrValue (p : Product) : Nat → Nat
  | 0 => p.attr.toNat
  | 1 => p.user0.toNat
  | 2 => p.user1.toNat
  | 3 => p.pid
  | 4 => p.slot
  | 5 => p.lane
  | _ => p.inspect.toNat

/-- The text of a field (R169, R172 to R175). -/
def State.fieldText (s : State) (j : Job) (w : Work) (f : TplField) : Made (List Byte) :=
  match f.type with
  | 1 => .ok (s.tplString w.blk f)
  | 2 => s.dateText j w f (s.productionDate j)
  | 3 => s.dateText j w f (bestBefore (s.productionDate j) (f.a / 2 ^ 14) (f.a / 2 ^ 12 % 4) (signed 32 f.b))
  | 4 =>
    (match shiftAt j.shifts j.now.dayMinute with
     | none => .ok []
     | some x => .ok ([BitVec.ofNat 8 (x.getF CMP_SHIFT_CODE / 256)] ++
         if f.a = 1 then [] else [BitVec.ofNat 8 (x.getF CMP_SHIFT_CODE)]))
  | 5 => .ok ((bytesOfWords ((j.batches.drop (4 * f.a)).take 4)).takeWhile fun b => decide (b ≠ 0))
  | 6 =>
    (match w.rec_ with
     | none => .error .noProduct
     | some p =>
       let v := attrValue p (f.a % 16)
       numberText f.b (if f.a / 256 = 1 then hexDigits 8 v else decDigits 10 v))
  | 7 =>
    (match w.serials.find? fun e => decide (e.1 = f.a) with
     | none => .error .quota
     | some e =>
       (match numberText f.b (decDigits 20 e.2) with
        | .ok t => .ok (if bitOf f.b 6 then t ++ [checkDigit t] else t)
        | .error x => .error x))
  | _ => .ok []

/-- All texts of a template, in field order. -/
def State.fieldTexts (s : State) (j : Job) (w : Work) : List TplField → Made (List (TplField × List Byte))
  | [] => .ok []
  | f :: fs =>
    match s.fieldText j w f, s.fieldTexts j w fs with
    | .error e, _ => .error e
    | .ok _, .error e => .error e
    | .ok t, .ok r => .ok ((f, t) :: r)

/-! ## Composition: pixels -/

/-- A dark pixel or module: column, row, level. -/
abbrev Dot := Nat × Nat × Nat

/-- A square of a field's magnification at column `c`, row `r` of the field. -/
def TplField.block (f : TplField) (c r : Nat) : List Dot :=
  (List.range (f.xs + 1)).flatMap fun i =>
    (List.range (f.ys + 1)).map fun k => (f.x + c * (f.xs + 1) + i, f.y + r * (f.ys + 1) + k, f.level)

/-- A glyph table as bound (R180): its first byte in the pool and its length. -/
structure Glyphs where
  base : Nat
  size : Nat
  height : Nat
  spacing : Nat
  default_ : Nat
  deriving DecidableEq, Repr

/-- The entry of a code: WIDTH and offset of the bitmap. -/
def State.glyphEntry (s : State) (g : Glyphs) (c : Nat) : Nat × Nat :=
  let e := leAt (s.poolRead (g.base + 16 + 4 * c) 4) 0 4
  (e / 2 ^ 24, e % 2 ^ 24)

/-- The glyph table of a binding word; none where it is not VALID or breaks its layout (R180). -/
def State.glyphTable (s : State) (w : Word) : Option Glyphs :=
  let base := w.getF CMP_GLY_BLOCK * blockSize
  let h := s.poolRead base 16
  let g : Glyphs :=
    { base := base, size := (w.getF CMP_GLY_NBLK + 1) * blockSize, height := leAt h 2 1, spacing := leAt h 3 1,
      default_ := leAt h 4 1 }
  let entryOk (c : Nat) : Bool :=
    let e := s.glyphEntry g c
    decide (e.1 ≤ 64) && (decide (e.1 = 0) ||
      (decide (1040 ≤ e.2) && decide (e.2 + e.1 * ((g.height + 7) / 8) ≤ g.size)))
  if w.getF CMP_GLY_VALID = 1 ∧ leAt h 0 2 = 0x4754 ∧ 1 ≤ g.height ∧ g.height ≤ 64 ∧ g.spacing ≤ 15 ∧
      ((h.drop 5).all fun b => decide (b = 0)) ∧ ((List.range 256).all entryOk) ∧ (s.glyphEntry g g.default_).1 ≠ 0 then
    some g
  else none

/-- The dark pixels of a text line: (column, row) from the left of the line. -/
def State.textDots (s : State) (g : Glyphs) : Nat → List Byte → List (Nat × Nat)
  | _, [] => []
  | x, b :: r =>
    let e0 := s.glyphEntry g b.toNat
    let e := if e0.1 = 0 then s.glyphEntry g g.default_ else e0
    let cb := (g.height + 7) / 8
    ((List.range e.1).flatMap fun c =>
      ((List.range g.height).filter fun k =>
        bitOf (memRead s.pool (g.base + e.2 + c * cb + k / 8)).toNat (k % 8)).map fun k => (x + c, k)) ++
      s.textDots g (x + e.1 + g.spacing) r

/-- The dots of a drawn text field. -/
def State.drawText (s : State) (j : Job) (f : TplField) (t : List Byte) : Made (List Dot) :=
  match s.glyphTable (j.glyphs.getD f.glyph 0) with
  | none => .error .glyph
  | some g => .ok ((s.textDots g 0 t).flatMap fun d => f.block d.1 d.2)

/-- The dots of a symbol field, whose content is the text of every field that names it. -/
def drawSymbol (h : Template) (f : TplField) (content : List Byte) : Made (List Dot) :=
  match encodeSymbol (f.a % 32) (bitOf f.a 5) (bitOf f.a 6) content with
  | none => .error .symbol
  | some y =>
    if f.symbolInside y.size h.cols h.rows then .ok (y.dark.flatMap fun d => f.block d.2 d.1) else .error .symbol

/-- The dots of all fields, in field order. -/
def State.drawAll (s : State) (j : Job) (w : Work) (all : List (TplField × List Byte)) :
    Nat → List (TplField × List Byte) → Made (List Dot)
  | _, [] => .ok []
  | i, (f, t) :: r =>
    let mine : Made (List Dot) :=
      if f.type = 8 then
        drawSymbol w.head f ((all.filter fun e => e.1.isText && decide (e.1.dest = i)).flatMap Prod.snd)
      else if f.dest = 63 then s.drawText j f t
      else .ok []
    match mine, s.drawAll j w all (i + 1) r with
    | .error e, _ => .error e
    | .ok _, .error e => .error e
    | .ok a, .ok b => .ok (a ++ b)

/-- The bytes of one image column (R184): pixels combine as the bitwise OR of their levels (R180). -/
def columnBytes (rows depth col : Nat) (dots : List Dot) : List Byte :=
  let here := dots.filter fun d => decide (d.1 = col)
  let v := here.foldl (fun n d => if d.2.1 < rows then Nat.lor n (d.2.2 * 2 ^ (d.2.1 * (depth + 1))) else n) 0
  leBytes ((rows * (depth + 1) + 31) / 32 * 4) v

/-- The image of a job (R184). -/
def imageBytes (j : Job) (h : Template) (serial : Nat) (dots : List Dot) : List Byte :=
  leBytes 2 h.cols ++ leBytes 2 h.rows ++ leBytes 1 h.depth ++ leBytes 1 j.template ++
    leBytes 2 (prodValue j.product) ++ leBytes 4 ((j.product.map Prod.snd).getD 0) ++ leBytes 8 j.trigger ++
    leBytes 8 serial ++ leBytes 4 0 ++ (List.range h.cols).flatMap fun c => columnBytes h.rows h.depth c dots

/-- The number written as SERIAL (R167): that of the first SERIAL field, or 0. -/
def firstSerial (fs : List TplField) (serials : List (Nat × Nat)) : Nat :=
  match fs.find? fun f => decide (f.type = 7) with
  | none => 0
  | some f => ((serials.find? fun e => decide (e.1 = f.a)).map Prod.snd).getD 0

/-! ## Jobs (R164 to R167) -/

/-- Jobs the queue holds and jobs composed at once (R165); entries of a lane queue (R166). -/
def jobQueue : Nat := 256
def jobSlots : Nat := 4
def laneQueue : Nat := 64

/-- Phases. -/
def Job.queued (j : Job) : Bool := decide (j.phase = .queued)
def Job.active (j : Job) : Bool :=
  match j.phase with
  | .active _ _ _ => true
  | _ => false

/-- The state with a job replaced. -/
def State.setJob (s : State) (j : Job) : State := { s with jobs := s.jobs.map fun k => if k.id = j.id then j else k }

/-- Jobs waiting, and jobs being composed in start order. -/
def State.queuedJobs (s : State) : List Job := s.jobs.filter Job.queued
def State.activeJobs (s : State) : List Job := s.jobs.filter Job.active

/-- The composer's bindings of glyph tables, shifts and batches, as captured. -/
def State.glyphWords (s : State) : List Word := (List.range 16).map fun g => s.rg (CMP_GLY g)
def State.shiftWords (s : State) : List Word := (List.range 16).map fun i => s.rg (CMP_SHIFT i)
def State.batchWords (s : State) : List Word := (List.range 16).map fun k => s.rg (CMP_BATCH (k / 4) (k % 4))

/-- The composer accepts a job for a template and a lane (R185). -/
def State.jobState (s : State) (m rl : Nat) : Option Status :=
  if ¬s.flag CMP_CFG CMP_CFG_EN ∨ ¬s.tplValid m ∨ ¬s.ringEn rl then some .state
  else if jobQueue ≤ s.queuedJobs.length ∨ laneQueue ≤ (s.ras rl).queue.length then some .nospace
  else none

/-- NO_DATE in the trigger tick of a job (R176): counted and notified, logged once until the calendar is valid again. -/
def State.noDate (s : State) (sub : Bool) (who : Option (Nat × Nat)) : State :=
  let s1 := (s.count CMP_CNT2 CMP_CNT2_NODATE 1).raiseFree 225
  let s2 := if s1.noDateOn then s1 else ({ s1 with noDateOn := true } : State).faultRaise fltNoDate 0 1 0
  if sub then (s2.count CMP_CNT2 CMP_CNT2_SUBST 1).markProduct who pfReject else s2

/-- A job joins the jobs in trigger order: that of a station before those that commands have posted in its trigger tick
(R165). -/
def insertJob (j : Job) : List Job → List Job
  | [] => [j]
  | x :: xs => if !j.byCommand && x.byCommand && x.queued && decide (x.trigger = j.trigger) then j :: x :: xs
    else x :: insertJob j xs

/-- A job posted in its trigger tick (R164, R166, R171): the status, and the lane entry it takes. -/
def State.postJob (s : State) (trigger m rl : Nat) (who : Option (Nat × Nat)) (flight : Option Nat)
    (cmd : Bool) : State × Status × Nat :=
  match s.jobState m rl with
  | some st => (s, st, 0)
  | none =>
    let h := s.template (s.tplBlock m)
    let missing := !s.calValid && (s.tplFields (s.tplBlock m)).any TplField.dated
    let sub := missing && decide (h.noDate = 1) && s.tplValid h.subst
    let s1 := if missing then s.noDate sub who else s
    let held := missing && decide (h.noDate = 0) && s.heldCal.isSome
    let x := s1.ras rl
    let j : Job :=
      { id := s.nextJob
        trigger := trigger
        template := if sub then h.subst else m
        block := if sub then s.tplBlock h.subst else s.tplBlock m
        glyphs := s.glyphWords
        now := if held then s.heldCal.getD s.localTime else s.localTime
        skip := missing && !sub && !held
        shifts := s.shiftWords
        batches := s.batchWords
        rlane := rl
        entry := x.nextEntry
        product := who
        classB := h.classB
        deadline := trigger + h.deadline * ticksUs
        promoted := false
        phase := .queued
        epoch := s.fld CMP_EPOCH CMP_EPOCH_EPOCH
        flight := flight
        late := false
        byCommand := cmd
        grace := if s.power = .doze then 20 * ticksUs else 0 }
    let s2 := s1.setRas rl
      { x with queue := x.queue ++ [{ job := j.id, product := who, st := .waiting }], nextEntry := (x.nextEntry + 1) % 64 }
    ({ s2 with
       jobs := insertJob j s2.jobs
       nextJob := s.nextJob + 1
       power := if s2.power = .doze then .run else s2.power }, .ok, j.entry)

/-- The governor holds a class B job that is not yet promoted (R165, R442). -/
def State.jobHeld (s : State) (j : Job) : Bool := s.holdB && j.classB && !j.promoted

/-- The queued job that starts next (R165). -/
def State.nextToStart (s : State) : Option Job :=
  let q := s.queuedJobs
  match q.find? fun j => !j.classB with
  | some j => some j
  | none =>
    let due := q.filter fun j => decide (j.deadline ≤ s.time)
    match due.foldl (fun (b : Option Job) j => match b with
        | none => some j
        | some x => if j.deadline < x.deadline then some j else some x) none with
    | some j => if s.jobHeld j then none else some j
    | none => q.find? fun j => !s.jobHeld j

/-- The generators that a template's SERIAL fields name, each once, in field order. -/
def gensOf (fs : List TplField) : List Nat :=
  (fs.filter fun f => decide (f.type = 7)).foldl (fun gs f => if gs.contains f.a then gs else gs ++ [f.a]) []

/-- Takes numbers for a job from the generators it needs, as far as they can be issued; on a standby only numbers that the
mirror has delivered (R177, R408). -/
def State.takeSerials (s : State) (j : Job) : List Nat → State × List Nat × List (Nat × Nat)
  | [] => (s, [], [])
  | g :: gs =>
    if s.standby then
      match s.serialsIn.find? fun m => decide (m.gen = g ∧ m.trigger = j.trigger ∧ m.rlane = j.rlane ∧ m.entry = j.entry) with
      | some m =>
        let r := State.takeSerials { s with serialsIn := s.serialsIn.filter fun k => !decide (k = m) } j gs
        (r.1, r.2.1, (g, m.number) :: r.2.2)
      | none =>
        let r := State.takeSerials s j gs
        (r.1, g :: r.2.1, r.2.2)
    else
      match s.issue g with
      | some (t, n) =>
        let r := State.takeSerials (t.mirror 3 [g, j.trigger, j.rlane, j.entry, n]) j gs
        (r.1, r.2.1, (g, n) :: r.2.2)
      | none =>
        let r := State.takeSerials s j gs
        (r.1, g :: r.2.1, r.2.2)

/-- JOB_START: the next queued job starts; the record is read and numbers are issued (R164, R165, R177). -/
def State.jobStart (s : State) : State :=
  if s.activeJobs.length < jobSlots then
    match s.nextToStart with
    | none => s
    | some j =>
      let p := j.product.map fun w => s.prod w.1
      let who := j.product.map fun w => (w.1, (s.prod w.1).pid)
      let r := s.takeSerials j (if j.skip then [] else gensOf (s.tplFields j.block))
      let t := r.1
      let k := { j with product := who, phase := .active p r.2.1 r.2.2 }
      let t2 : State := { t with jobs := (t.jobs.filter fun x => !decide (x.id = j.id)) ++ [k] }
      t2.setRas j.rlane { t2.ras j.rlane with
        queue := (t2.ras j.rlane).queue.map fun e => if e.job = j.id then { e with product := who } else e }
  else s

/-- A job can start in this tick. -/
def State.jobStartDue (s : State) : Bool := decide (s.activeJobs.length < jobSlots) && s.nextToStart.isSome

/-- Numbers issued to the jobs that wait for a generator, in start order (R177). -/
def State.serveWaiting (s : State) : State :=
  s.activeJobs.foldl (fun t j =>
    match j.phase with
    | .active p (g :: gs) got =>
      let r := t.takeSerials j (g :: gs)
      r.1.setJob { j with phase := .active p r.2.1 (got ++ r.2.2) }
    | _ => t) s

/-! ## Rings (R183) -/

/-- Room for `n` blocks at the ring's head: none of them holds an image. -/
def State.ringRoom (s : State) (rl n : Nat) : Bool :=
  let x := s.ras rl
  decide (n ≤ s.ringSize rl) && (List.range n).all fun k =>
    let b := (x.ringHead + k) % s.ringSize rl
    x.ring.all fun e => decide (e.2 ≤ (b + s.ringSize rl - e.1) % s.ringSize rl)

/-- Blocks of the ring that hold images. -/
def RasLane.ringUsed (x : RasLane) : Nat := x.ring.foldl (fun n e => n + e.2) 0

/-- Image bytes written round the ring. -/
def State.ringWrite (s : State) (rl at_ : Nat) (bs : List Byte) : State :=
  let size := s.ringSize rl * blockSize
  let off := at_ * blockSize
  let head := bs.take (size - off)
  (s.poolWrite (s.ringBase rl * blockSize + off) head).poolWrite (s.ringBase rl * blockSize) (bs.drop (size - off))

/-! ## The end of a job (R166, R167, R185) -/

/-- The status of a CODE_JOB with WAIT whose entry failed (R185). -/
def JobFail.status : JobFail → Status
  | .digits => .range
  | .symbol => .range
  | .date => .range
  | .quota => .quota
  | .poison => .crc
  | _ => .state

/-- The record's words that the end of a job writes (R167); nothing where the record is no longer the product's. -/
def State.jobRecord (s : State) (j : Job) (serial : Nat) (failed : Bool) : State :=
  match j.product with
  | none => s
  | some (i, pid) =>
    if s.prodLive i pid then
      let p := { s.prod i with rlane := j.rlane, template := j.template, serial := serial }
      s.setProd i (if failed then p.mark pfCodeMissed else p)
    else s

/-- An entry of a lane's queue brought to a new standing. -/
def State.setEntry (s : State) (rl job : Nat) (st : EntrySt) : State :=
  s.setRas rl { s.ras rl with queue := (s.ras rl).queue.map fun e => if e.job = job then { e with st := st } else e }

/-- A job fails (R167). -/
def State.jobFail (s : State) (j : Job) (serial : Nat) (why : JobFail) : State :=
  let s1 := ((s.jobRecord j serial true).count CMP_CNT CMP_CNT_FAILED 1).raise 224 (prodValue j.product)
  let s2 := if why = .quota then s1.raiseFree 227 else s1
  let s3 : State := { (s2.setEntry j.rlane j.id .failed) with jobs := s2.jobs.filter fun k => !decide (k.id = j.id) }
  match j.flight with
  | some f => s3.finish f why.status 0 []
  | none => s3

/-- The generator found exhausted logs its fault (R179). -/
def State.genFault (s : State) (gs : List Nat) : State :=
  gs.foldl (fun t g => if t.genExhausted g then t.faultRaise fltGenExhausted g 2 g else t) s

/-- An entry is ready: finished, and every earlier entry of its lane finished or failed; so is one that the lane has consumed
(R166). -/
def readyIn (job : Nat) (q : List RasEntry) : Bool :=
  !(q.any fun e => decide (e.job = job)) || (q.takeWhile fun e => decide (e.job ≠ job)).all fun e => decide (e.st ≠ .waiting)

/-- A composed job that has become ready leaves the composer (R166, R171, R185). -/
def State.jobReady (s : State) (j : Job) : State :=
  let us := (s.time - j.trigger) / ticksUs
  let s1 := s.count CMP_CNT CMP_CNT_DONE 1
  let s2 := s1.peak CMP_LAT CMP_LAT_LAT_MAX (satTo 65535 us)
  let s3 : State := { s2 with jobs := s2.jobs.filter fun k => !decide (k.id = j.id) }
  match j.flight with
  | some f => s3.finish f .ok j.entry []
  | none => s3

/-- The composed jobs that are ready now. -/
def State.readyJobs (s : State) : List Job :=
  s.jobs.filter fun j => decide (j.phase = .ended) && readyIn j.id (s.ras j.rlane).queue

/-- Composed jobs become ready in queue order (R166). -/
def State.settleJobs (s : State) : State := s.readyJobs.foldl (fun t j => t.jobReady j) s

/-- A finished image goes to its entry, or back to the ring where the lane has consumed the entry (R166). -/
def State.placeImage (s : State) (j : Job) (im : Image) : State :=
  if (s.ras j.rlane).queue.any fun e => decide (e.job = j.id) then s.setEntry j.rlane j.id (.finished im)
  else s.rasReturn j.rlane im

/-- The image of a job written into its ring (R183, R184). -/
def State.jobImage (s : State) (j : Job) (h : Template) (serial : Nat) (dots : List Dot) : State :=
  let bs := imageBytes j h serial dots
  let n := (bs.length + blockSize - 1) / blockSize
  let x := s.ras j.rlane
  let im : Image := { at_ := x.ringHead, blocks := n, cols := h.cols, rows := h.rows, depth := h.depth }
  let s1 := s.ringWrite j.rlane x.ringHead bs
  let s2 := s1.setRas j.rlane { s1.ras j.rlane with
    ring := (s1.ras j.rlane).ring ++ [(x.ringHead, n)], ringHead := (x.ringHead + n) % s.ringSize j.rlane }
  let clipped := dots.any fun d => decide (h.cols ≤ d.1) || decide (h.rows ≤ d.2.1)
  let s3 := if clipped then (s2.count CMP_CNT2 CMP_CNT2_CLIPPED 1).raiseFree 228 else s2
  (s3.placeImage j im).setJob { j with phase := .ended }

/-- The blocks of an image of a template. -/
def Template.imageBlocks (h : Template) : Nat :=
  (32 + h.cols * ((h.rows * (h.depth + 1) + 31) / 32 * 4) + blockSize - 1) / blockSize

/-- The outcome of composing: the dots, or why the job fails (R167). -/
def State.compose (s : State) (j : Job) (w : Work) : Made (List Dot) :=
  if j.skip then .error .skip
  else if ¬s.ringEn j.rlane then .error .ring
  else if s.rangePoisoned (j.block * blockSize) blockSize then .error .poison
  else
    match s.fieldTexts j w (s.tplFields j.block) with
    | .error e => .error e
    | .ok all => s.drawAll j w all 0 all

/-- The numbers a job still waits for will never come: a generator it needs is exhausted (R179). -/
def State.needLost (s : State) (need : List Nat) : Bool := !s.standby && need.any fun g => s.genExhausted g

/-- JOB_COMPLETE of a job being composed (R167): it waits for its numbers and for room in the ring. -/
def State.jobEnd (s : State) (j : Job) : State :=
  match j.phase with
  | .active p need got =>
    let fs := s.tplFields j.block
    let serial := firstSerial fs got
    if s.needLost need then ((s.genFault need).jobFail j serial .quota)
    else if ¬need.isEmpty then s
    else
      let h := s.template j.block
      (match s.compose j { blk := j.block, head := h, rec_ := p, serials := got } with
       | .error e => s.jobFail j serial e
       | .ok dots =>
         if s.ringRoom j.rlane h.imageBlocks then (s.jobImage (j) h serial dots).jobRecord j serial false
         else s)
  | _ => s

/-- A job being composed can end in this tick. -/
def State.jobEndDue (s : State) (j : Job) : Bool :=
  match j.phase with
  | .active _ need _ =>
    s.needLost need || (need.isEmpty && (j.skip || !s.ringEn j.rlane || s.ringRoom j.rlane (s.template j.block).imageBlocks))
  | _ => false

/-- JOB_COMPLETE: the k-th job being composed ends if it can, and composed jobs become ready. -/
def State.jobComplete (s : State) (k : Nat) : State :=
  match s.activeJobs[k]? with
  | some j => (s.jobEnd j).settleJobs
  | none => s.settleJobs

/-- JOB_DEADLINE: a held class B job at its deadline is released (R165). -/
def State.jobDeadlineDue (s : State) (k : Nat) : Bool :=
  match s.jobs[k]? with
  | some j => j.queued && j.classB && !j.promoted && decide (j.deadline ≤ s.time)
  | none => false
def State.jobDeadline (s : State) (k : Nat) : State :=
  match s.jobs[k]? with
  | some j => if s.jobDeadlineDue k then s.setJob { j with promoted := true } else s
  | none => s

/-- The latency bound of a job as a tick (R186): 400 µs after the trigger, or after the deadline for class B, and 1 µs
more for each 4 KiB of the image beyond 128 KiB; a job posted in Doze has 20 µs more. -/
def State.jobBound (s : State) (j : Job) : Nat :=
  (if j.classB then j.deadline else j.trigger) + j.grace + (400 + ((s.template j.block).imageBlocks - 32)) * ticksUs

/-- JOB_LATE: a job exceeds its bound (R186). -/
def State.jobLateDue (s : State) (k : Nat) : Bool :=
  match s.jobs[k]? with
  | some j => !j.late && decide (s.jobBound j < s.time)
  | none => false
def State.jobLate (s : State) (k : Nat) : State :=
  match s.jobs[k]? with
  | some j => if s.jobLateDue k then ((s.setJob { j with late := true }).count CMP_CNT2 CMP_CNT2_LATE 1).raiseFree 229 else s
  | none => s

/-! ## Reservations and the generator registers -/

/-- A reservation in progress may stand: in a twin pair the standby's journal has it too (R177). -/
def State.reservationDue (s : State) (g : Nat) : Bool :=
  (s.gen g).reserving.isSome &&
    (!s.twinEn || decide (s.fld TWN_STAT TWN_STAT_MIRROR = 5) || s.reservationAcks.contains g)

/-- SERIAL_RESERVATION: a block's reservation comes to stand (R177, R471), the low warning is judged (R179), and jobs that
wait take their numbers. -/
def State.reservation (s : State) (g : Nat) : State :=
  let x := s.gen g
  match x.reserving with
  | none => s
  | some r =>
    let empty := x.cur.all fun c => decide (c.2 < c.1)
    let y : SerialGen :=
      { hwm := Nat.max x.hwm r.2, cur := if empty then some r else x.cur, ahead := if empty then x.ahead else some r,
        reserving := none }
    let t : State := { (s.setGen g y) with reservationAcks := s.reservationAcks.filter fun k => !decide (k = g) }
    let u := if s.genEnd g - y.hwm < s.fld (CMP_SG_CFG g) CMP_SG_CFG_LOW then t.raise 226 g else t
    u.serveWaiting

/-- The write that sets EN of a generator (R179, R471). -/
def State.genEnable (s : State) (g : Nat) (w : Wr) : State × Status :=
  let x := s.gen g
  let bad := bitOf (s.fld JNL_HWM_BAD JNL_HWM_BAD_BAD) g
  if bad ∧ s.genStart g < x.hwm + 512 then (s, .state)
  else if s.genStart g = 0 ∨ s.genStart g ≤ x.hwm ∨ s.genEnd g < s.genStart g then (s, .range)
  else
    let t := (s.plainWrite w).faultEnd fltGenExhausted g
    let u := if bad then
        (t.setFld JNL_HWM_BAD JNL_HWM_BAD_BAD (Nat.xor (t.fld JNL_HWM_BAD JNL_HWM_BAD_BAD) (2 ^ g))).faultEnd fltHwmBad g
      else t
    (u.reserveNext g, .ok)

/-- The write that clears EN of a generator (R178). -/
def State.genDisable (s : State) (g : Nat) (w : Wr) : State × Status := ((s.genDrop 1 g).plainWrite w, .ok)

/-! ## Registers (R187) -/

/-- An accepted write of a binding, a shift or a batch (R171). -/
def State.bump (s : State) : State :=
  s.setFld CMP_EPOCH CMP_EPOCH_EPOCH ((s.fld CMP_EPOCH CMP_EPOCH_EPOCH + 1) % 65536)

/-- The composer disabled (R187): the jobs started complete, the rest fail. -/
def State.failQueued (s : State) : State := (s.queuedJobs.foldl (fun t j => t.jobFail j 0 .disabled) s).settleJobs

/-- Any ring is enabled. -/
def State.anyRing (s : State) : Bool := (List.range 8).any fun n => s.ringEn n

/-- The write of CMP_CFG. -/
def State.writeCmpCfg (s : State) (w : Wr) : State × Status :=
  if 1439 < w.fld CMP_CFG_DAY_START then (s, .range)
  else if s.anyRing ∧ w.changes CMP_CFG_CLAIM.mask then (s, .state)
  else if w.was CMP_CFG_EN = 1 ∧ w.fld CMP_CFG_EN = 0 then ((s.plainWrite w).failQueued, .ok)
  else (s.plainWrite w, .ok)

/-- The write of a ring's SIZE register (R183): the write that enables the ring checks it and starts it empty. -/
def State.writeRing (s : State) (n : Nat) (w : Wr) : State × Status :=
  let size := w.fld CMP_RQ_SIZE_SIZE
  if w.fld CMP_RQ_SIZE_EN = 1 then
    if size < 8 ∨ 4096 < size ∨ ¬s.rangeHeldBy (s.fld CMP_CFG CMP_CFG_CLAIM) (s.ringBase n) size then (s, .range)
    else if w.was CMP_RQ_SIZE_EN = 0 then
      ((s.plainWrite w).setRas n { s.ras n with ring := [], ringHead := 0 }, .ok)
    else (s.plainWrite w, .ok)
  else (s.plainWrite w, .ok)

/-- The write of a CMP register. -/
def State.writeCmp (s : State) (i : Nat) (w : Wr) : State × Status :=
  if w.base = CMP_CFG then s.writeCmpCfg w
  else if w.base = CMP_TPL 0 then
    if w.fld CMP_TPL_VALID = 1 ∧ ¬s.templateOk (w.fld CMP_TPL_BLOCK) then (s, .range) else ((s.plainWrite w).bump, .ok)
  else if w.base = CMP_GLY 0 ∨ w.base = CMP_BATCH 0 0 then ((s.plainWrite w).bump, .ok)
  else if w.base = CMP_SHIFT 0 then
    if 1439 < w.fld CMP_SHIFT_START then (s, .range) else ((s.plainWrite w).bump, .ok)
  else if w.base = CMP_RQ_BASE 0 then (if s.ringEn i then (s, .state) else (s.plainWrite w, .ok))
  else if w.base = CMP_RQ_SIZE 0 then s.writeRing i w
  else if w.base = CMP_SG_START_LO 0 ∨ w.base = CMP_SG_START_HI 0 ∨ w.base = CMP_SG_END_LO 0 ∨ w.base = CMP_SG_END_HI 0 then
    if s.genEn i then (s, .state) else (s.plainWrite w, .ok)
  else if w.base = CMP_SG_CFG 0 then
    if w.was CMP_SG_CFG_EN = 0 ∧ w.fld CMP_SG_CFG_EN = 1 then s.genEnable i w
    else if w.was CMP_SG_CFG_EN = 1 ∧ w.fld CMP_SG_CFG_EN = 0 then s.genDisable i w
    else (s.plainWrite w, .ok)
  else (s.plainWrite w, .ok)

/-- The next number a generator issues (R187). -/
def State.genNext (s : State) (g : Nat) : Nat :=
  let x := s.gen g
  if s.genEn g then
    match x.cur, x.reserving with
    | some (n, _), _ => n
    | none, some (f, _) => f
    | none, none => x.hwm + 1
  else 0

/-- A CMP register as it reads. -/
def State.viewCmp (s : State) (b i a : Nat) : Word :=
  if b = CMP_STAT then
    (((0 : Word).setF CMP_STAT_CAL_OK (b2n s.calValid)).setF CMP_STAT_ACTIVE s.activeJobs.length).setF CMP_STAT_QUEUED
      s.queuedJobs.length
  else if b = CMP_EPOCH then
    (s.rg a).setF CMP_EPOCH_DRAIN
      (match ((s.jobs.filter fun j => !s.readyJobs.contains j).foldl (fun (o : Option Job) j => match o with
          | none => some j
          | some x => if j.id < x.id then some j else some x) none) with
       | some j => j.epoch
       | none => s.fld CMP_EPOCH CMP_EPOCH_EPOCH)
  else if b = CMP_RQ_STAT 0 then
    ((0 : Word).setF CMP_RQ_STAT_ENTRIES (s.ras i).queue.length).setF CMP_RQ_STAT_FREE
      (s.ringSize i - (s.ras i).ringUsed)
  else if b = CMP_SG_NEXT_LO 0 then BitVec.ofNat 32 (s.genNext i)
  else if b = CMP_SG_NEXT_HI 0 then BitVec.ofNat 32 (s.genNext i / 2 ^ 32)
  else if b = CMP_SG_HWM_LO 0 then BitVec.ofNat 32 (s.gen i).hwm
  else if b = CMP_SG_HWM_HI 0 then BitVec.ofNat 32 ((s.gen i).hwm / 2 ^ 32)
  else s.rg a

/-! ## CODE_JOB (R185) -/

/-- The checks of CODE_JOB that depend on the record alone. -/
def codeJobOk (arg : Nat) (body : List Byte) : Bool :=
  decide (Nat.land arg 0xC038 = 0) && decide (body.length = if bitOf arg 7 then 0 else 4)

/-- CODE_JOB: the state, the status and RESULT; with WAIT the reply is held, and the status is `none`. -/
def State.codeJob (s : State) (arg : Nat) (body : List Byte) (flight : Option Nat) : State × Option Status × Nat :=
  if ¬codeJobOk arg body then (s, some .range, 0)
  else
    let i := arg / 2 ^ 16 % 2 ^ 16
    let who := if bitOf arg 7 then none else some (i, leAt body 0 4)
    let gone := match who with
      | some (k, pid) => decide ((s.prod k).st ≠ ProdState.onLane) || decide ((s.prod k).pid ≠ pid)
      | none => false
    if gone then (s, some .state, 0)
    else
      let held := bitOf arg 6 && flight.isSome
      let r := s.postJob s.time (bitsOf arg 13 8) (arg % 8) who (if held then flight else none) true
      if r.2.1 = Status.ok ∧ held then (r.1, none, r.2.2) else (r.1, some r.2.1, r.2.2)

end Sys2Proof.Machine
end

