-- ==== Sys2Proof/Machine/Wheels.lean ====
section
/-! DEFINITION. The description of toothed wheels and second wheels (R35 to R40, R508), the predictor and the speed (R53
to R57), and the checks that enabling a shaft makes (R34). -/

namespace Sys2Proof.Machine

/-! ## Wheels -/

/-- A field of SHFn_CFG. -/
def State.shc (s : State) (n : Nat) (f : Fld) : Nat := s.fld (SHF_CFG n) f

/-- One gap or extra-tooth descriptor: KIND = EXTRA, MISSING, END_POS. -/
structure GapDesc where
  extra : Bool
  missing : Nat
  fin : Nat
  deriving DecidableEq, Repr

/-- The descriptors in use. -/
def State.gapDescs (s : State) (n : Nat) : List GapDesc :=
  (List.range (Nat.min (s.fld (SHF_WHEEL n) SHF_WHEEL_NGAP) 4)).map fun k =>
    { extra := s.flag (SHF_GAP n k) SHF_GAP_KIND, missing := s.fld (SHF_GAP n k) SHF_GAP_MISSING,
      fin := s.fld (SHF_GAP n k) SHF_GAP_END_POS }

/-- The MISSING descriptors in use. -/
def State.gapsOf (s : State) (n : Nat) : List GapDesc := (s.gapDescs n).filter fun g => !g.extra

/-- Positions per turn: the port's wrap count for INCR (R34). -/
def State.positions (s : State) (n : Nat) : Nat :=
  if s.shaftSrc n = 1 then s.fld (FBP_WRAP (s.shc n SHF_CFG_PORT)) FBP_WRAP_WRAP
  else s.fld (SHF_WHEEL n) SHF_WHEEL_POSITIONS

/-- Turns of a machine cycle (R45). -/
def State.turns (s : State) (n : Nat) : Nat := s.fld (SHF_WHEEL n) SHF_WHEEL_TURNS + 1

/-- per_tooth in 32.16 ang (R35). -/
def perTooth (p : Nat) : Nat := (2 ^ 48 + p / 2) / p

/-- per_tooth of shaft `n`; the span of the last frame stands for it on an ABS shaft (R53). -/
def State.perPos (s : State) (n : Nat) : Nat :=
  if s.shaftSrc n = 2 then (s.shaft n).runSpan else perTooth (s.positions n)

/-- The extra tooth before position `q`, if one is described. -/
def State.extraBefore (s : State) (n q : Nat) : Bool := (s.gapDescs n).any fun g => g.extra && decide (g.fin = q)

/-- The gap that begins at position `q`, if one is described. -/
def State.gapFrom (s : State) (n q : Nat) : Option GapDesc :=
  let p := s.positions n
  (s.gapsOf n).find? fun g => decide ((g.fin + p - g.missing) % p = q)

/-- The gap that ends at position `q`. -/
def State.gapTo (s : State) (n q : Nat) : Option GapDesc := (s.gapsOf n).find? fun g => decide (g.fin = q)

/-- The next tooth of the wheel after half position `hp`, going forward (R42). -/
def State.nextHp (s : State) (n hp : Nat) : Nat :=
  let p := s.positions n
  if hp % 2 = 1 then (hp + 1) % (2 * p)
  else
    let q := (hp / 2 + 1) % p
    if s.extraBefore n q then hp + 1
    else
      match s.gapFrom n q with
      | some g => 2 * g.fin
      | none => 2 * q

/-- The tooth before half position `hp` (R60). -/
def State.prevHp (s : State) (n hp : Nat) : Nat :=
  let p := s.positions n
  if hp % 2 = 1 then hp - 1
  else
    let q := hp / 2
    let r := (q + p - 1) % p
    if s.extraBefore n q then 2 * r + 1
    else
      match s.gapTo n q with
      | some g => 2 * ((q + 2 * p - g.missing - 1) % p)
      | none => 2 * r

/-- The angle of a half position in a turn of the cycle, in 2^-16 ang from the cycle's start (R36). -/
def State.hpAngle (s : State) (n turn hp : Nat) : Int :=
  let per := perTooth (s.positions n)
  ((turn * 2 ^ 48 + hp / 2 * per + hp % 2 * (per / 2) : Nat) : Int)

/-- The place of a tooth: half position, turn and the angle of the present cycle's start. -/
structure Place where
  hp : Nat
  turn : Nat
  cycleBase : Int
  deriving DecidableEq, Repr

/-- The place of a shaft. -/
def Shaft.place (x : Shaft) : Place := { hp := x.hp, turn := x.turn, cycleBase := x.cycleBase }

/-- The unwrapped angle of a place. -/
def State.placeAngle (s : State) (n : Nat) (p : Place) : Int := p.cycleBase + s.hpAngle n p.turn p.hp

/-- The machine cycle in 2^-16 ang. -/
def State.cycle48 (s : State) (n : Nat) : Int := ((s.turns n * 2 ^ 48 : Nat) : Int)

/-- The place after a move to half position `hp`, forward: passing position 0 begins a turn. -/
def State.stepUp (s : State) (n : Nat) (p : Place) (hp : Nat) : Place :=
  if hp ≤ p.hp then
    if p.turn + 1 < s.turns n then { p with hp := hp, turn := p.turn + 1 }
    else { hp := hp, turn := 0, cycleBase := p.cycleBase + s.cycle48 n }
  else { p with hp := hp }

/-- The place after a move to half position `hp`, in reverse. -/
def State.stepDown (s : State) (n : Nat) (p : Place) (hp : Nat) : Place :=
  if p.hp ≤ hp then
    if 0 < p.turn then { p with hp := hp, turn := p.turn - 1 }
    else { hp := hp, turn := s.turns n - 1, cycleBase := p.cycleBase - s.cycle48 n }
  else { p with hp := hp }

/-- The place one tooth on in a direction. -/
def State.stepPlace (s : State) (n : Nat) (rev : Bool) (p : Place) : Place :=
  if rev then s.stepDown n p (s.prevHp n p.hp) else s.stepUp n p (s.nextHp n p.hp)

/-- The span of the interval that lies ahead of a place in a direction, in 2^-16 ang (R36). -/
def State.spanAhead (s : State) (n : Nat) (rev : Bool) (p : Place) : Nat :=
  (s.placeAngle n (s.stepPlace n rev p) - s.placeAngle n p).natAbs

/-- The forward rule (R45): the smallest angle not below `held` that is congruent to `a` modulo the cycle. -/
def State.forwardRule (s : State) (n : Nat) (held a : Int) : Int := held + (a - held) % s.cycle48 n

/-- OFFSET in 2^-16 ang (R51). -/
def State.offset48 (s : State) (n : Nat) : Int := (((s.rg (SHF_OFFSET n)).toNat * 65536 : Nat) : Int)

/-- The place of a half position and turn whose angle the forward rule sets from `held` (R45, R51). -/
def State.placeForward (s : State) (n : Nat) (held : Int) (turn hp : Nat) : Place :=
  let a := s.forwardRule n held (s.offset48 n + s.hpAngle n turn hp)
  { hp := hp, turn := turn, cycleBase := a - s.hpAngle n turn hp }

/-! ## Windows (R40) -/

/-- GT, TW_LO, TW_HI. -/
def State.winGt (s : State) (n : Nat) : Nat := s.fld (SHF_WIN n) SHF_WIN_GT
def State.winLo (s : State) (n : Nat) : Nat := s.fld (SHF_WIN n) SHF_WIN_TW_LO
def State.winHi (s : State) (n : Nat) : Nat := s.fld (SHF_WIN n) SHF_WIN_TW_HI

/-- r lies in the window of a gap of `m` missing teeth. -/
def State.inGap (s : State) (n m r : Nat) : Bool :=
  decide ((m + 1) * (64 - s.winGt n) ≤ r) && decide (r ≤ (m + 1) * (64 + s.winGt n))

/-- The gap size of the wheel that an r belongs to: the nearer nominal, a tie to the smaller (R40). -/
def State.gapSize (s : State) (n r : Nat) : Option Nat :=
  let sizes := [1, 2, 3].filter fun m => (s.gapsOf n).any fun g => decide (g.missing = m)
  let dist (m : Nat) : Nat := ((r : Int) - ((m + 1) * 64 : Nat)).natAbs
  (sizes.filter fun m => s.inGap n m r).foldl (fun b m =>
    match b with
    | none => some m
    | some k => if dist m < dist k then some m else some k) none

/-- A pair of half intervals lies in the extra-tooth window (R40). -/
def State.extraOk (s : State) (n r1 r2 : Nat) : Bool :=
  let g := s.winGt n
  let one (r : Nat) : Bool := decide (32 * (64 - g) ≤ 64 * r) && decide (64 * r ≤ 32 * (64 + g))
  one r1 && one r2 && decide (64 - g ≤ r1 + r2) && decide (r1 + r2 ≤ 64 + g)

/-- r may be half of an extra-tooth pair on a wheel that has one. -/
def State.maybeHalf (s : State) (n r : Nat) : Bool :=
  (s.gapDescs n).any (fun g => g.extra) && decide (32 * (64 - s.winGt n) ≤ 64 * r) &&
    decide (64 * r ≤ 32 * (64 + s.winGt n))

/-! ## The second wheel -/

/-- A second wheel is present: IDX_EN is 1 and a pattern is in use (R35). DEDUCED: with IDX_EN = 1 and NSEG = 0 there is
no second wheel, so its edges are not taken and REL_OK is asked of a gapless wheel (log 25). -/
def State.second (s : State) (n : Nat) : Bool :=
  s.flag (SHF_CFG n) SHF_CFG_IDX_EN && decide (0 < s.fld (SHF_WHEEL n) SHF_WHEEL_NSEG)

/-- The segments in use: level and length. -/
def State.segs (s : State) (n : Nat) : List (Bool × Nat) :=
  (List.range (Nat.min (s.fld (SHF_WHEEL n) SHF_WHEEL_NSEG) 16)).map fun k =>
    (s.flag (SHF_SEG n k) SHF_SEG_LEVEL, s.fld (SHF_SEG n k) SHF_SEG_LENGTH)

/-- Number of segments. -/
def State.nseg (s : State) (n : Nat) : Nat := (s.segs n).length

/-- Level and length of segment `k`, counted modulo the pattern. -/
def State.seg (s : State) (n k : Nat) : Bool × Nat := (s.segs n).getD (k % Nat.max 1 (s.nseg n)) (false, 1)

/-- The cycle position of pattern edge `k`, the start of segment `k`. -/
def State.edgePos (s : State) (n k : Nat) : Nat := ((s.segs n).take (k % Nat.max 1 (s.nseg n))).foldl (fun a x => a + x.2) 0

/-- Positions of a machine cycle. -/
def State.cyclePos (s : State) (n : Nat) : Nat := s.positions n * s.turns n

/-- The half position of a place in its cycle. -/
def State.halfPos (s : State) (n : Nat) (p : Place) : Nat := 2 * (p.turn * s.positions n) + p.hp

/-- The place some half positions on from another, downward where the number is negative. -/
def State.placeMoved (s : State) (n : Nat) (p : Place) (d : Int) : Place :=
  let l : Int := ((2 * s.cyclePos n : Nat) : Int)
  let c := (s.halfPos n p : Int) + d
  let r := (c % l).toNat
  { hp := r % (2 * s.positions n), turn := r / (2 * s.positions n), cycleBase := p.cycleBase + c / l * s.cycle48 n }

/-- Half positions from one half position to the next tooth's in a direction; a whole turn where they are the same. -/
def State.halfSteps (s : State) (n : Nat) (rev : Bool) (a b : Nat) : Nat :=
  let l := 2 * s.positions n
  let d := if rev then (a + l - b) % l else (b + l - a) % l
  if d = 0 then l else d

/-- The cycle position nearest to the point `num`/`den` of the way from a place to the next tooth in a direction (R38). -/
def State.nearestPos (s : State) (n : Nat) (rev : Bool) (p : Place) (num den : Nat) : Nat :=
  let h := s.halfSteps n rev p.hp (s.stepPlace n rev p).hp
  let l : Int := ((s.cyclePos n : Nat) : Int)
  let go : Int := ((h * num : Nat) : Int)
  let at_ : Int := ((s.halfPos n p * den : Nat) : Int) + (if rev then -go else go)
  ((at_ + (den : Int)) / (2 * (den : Int)) % l).toNat

/-- The distance of two cycle positions, the short way round. -/
def cycDist (l a b : Nat) : Nat :=
  let d := (a + l - b % l) % l
  Nat.min d (l - d)

/-- The pattern edge of a direction within ±2 positions of cycle position `c` (R38). -/
def State.matchEdge (s : State) (n c : Nat) (rising : Bool) : Option Nat :=
  (List.range (s.nseg n)).find? fun k =>
    decide ((s.seg n k).1 = rising) && decide (cycDist (s.cyclePos n) (c % s.cyclePos n) (s.edgePos n k) ≤ 2)

/-- The pattern edge that a direction and a count of teeth identify (R43): the preceding length within ±2 and nearest,
and none where two are equally near. -/
def State.identifyEdge (s : State) (n teeth : Nat) (rising : Bool) : Option Nat :=
  let dist (k : Nat) : Nat := (((s.seg n (k + s.nseg n - 1)).2 : Int) - teeth).natAbs
  let cand := (List.range (s.nseg n)).filter fun k => decide ((s.seg n k).1 = rising) && decide (dist k ≤ 2)
  let best := cand.foldl (fun b k => Nat.min b (dist k)) 3
  match cand.filter fun k => decide (dist k = best) with
  | [k] => some k
  | _ => none

/-- Two windows of three segments ending at segments `i` and `j` differ in a length ratio by more than GT/64 (R39). -/
def State.windowsDiffer (s : State) (n i j : Nat) : Bool :=
  let m := s.nseg n
  let l (k d : Nat) : Int := ((s.seg n (k + m - d)).2 : Nat)
  let differ (d : Nat) : Bool :=
    decide ((s.winGt n : Int) * (l i 0 * l j 0) < 64 * ((l i d * l j 0 - l j d * l i 0).natAbs : Nat))
  differ 1 || differ 2

/-- LIMP_OK (R39): a property of the pattern, whether or not IDX_EN is 1. -/
def State.limpAllowed (s : State) (n : Nat) : Bool :=
  decide (0 < s.nseg n) &&
    (List.range (s.nseg n)).all fun i => (List.range (s.nseg n)).all fun j =>
      decide (j ≤ i) || decide ((s.seg n i).1 ≠ (s.seg n j).1) || s.windowsDiffer n i j

/-- The measured segments match the window of the pattern that ends with segment `k` (R508). -/
def State.windowMatches (s : State) (n k s1 s2 s3 : Nat) : Bool :=
  let m := s.nseg n
  let l (d : Nat) : Int := ((s.seg n (k + m - d)).2 : Nat)
  let ok (t : Nat) (d : Nat) : Bool :=
    decide (64 * (((t : Int) * l 0 - l d * s3).natAbs : Int) ≤ (s.winGt n : Int) * (s3 * l 0))
  ok s1 2 && ok s2 1

/-- The pattern edge at which the fourth of four edges stands, where exactly one window matches (R508): `rising` is the
direction of the fourth edge, so the last segment measured had the other level. -/
def State.limpLocate (s : State) (n s1 s2 s3 : Nat) (rising : Bool) : Option Nat :=
  match (List.range (s.nseg n)).filter fun k => decide ((s.seg n k).1 ≠ rising) && s.windowMatches n k s1 s2 s3 with
  | [k] => some ((k + 1) % s.nseg n)
  | _ => none

/-! ## The checks of an enable -/

/-- All pairs of a list, each taken once, satisfy a test. -/
def allPairs {α : Type} (p : α → α → Bool) : List α → Bool
  | [] => true
  | x :: xs => xs.all (p x) && allPairs p xs

/-- Positions that a MISSING descriptor removes. -/
def GapDesc.removed (g : GapDesc) (p : Nat) : List Nat := (List.range g.missing).map fun k => (g.fin + p - 1 - k) % p

/-- Edges from the end of gap `g` to the end of the next gap, and that gap (R35, R45); `fuel` bounds the walk. -/
def State.walkGap (s : State) (n : Nat) : Nat → Nat → Nat → Nat × Nat
  | 0, hp, c => (hp, c)
  | fuel + 1, hp, c =>
    let q := s.nextHp n hp
    if q % 2 = 0 ∧ (s.gapTo n (q / 2)).isSome then (q, c + 1) else State.walkGap s n fuel q (c + 1)

/-- The triple of the pair of consecutive gaps that begins with gap `g`: its size, the edges between, the next gap's
size. -/
def State.gapTriple (s : State) (n : Nat) (g : GapDesc) : Nat × Nat × Nat :=
  let w := s.walkGap n (2 * s.positions n) (2 * g.fin) 0
  (g.missing, w.2, ((s.gapTo n (w.1 / 2)).map GapDesc.missing).getD 0)

/-- The wheel description is valid (R35). -/
def State.wheelOk (s : State) (n : Nat) : Bool :=
  let p := s.fld (SHF_WHEEL n) SHF_WHEEL_POSITIONS
  let gs := s.gapDescs n
  let ms := s.gapsOf n
  let removed := ms.flatMap fun g => g.removed p
  let present (q : Nat) : Bool := !removed.contains q
  decide (2 ≤ p) && decide (p ≤ 1024) && decide (s.fld (SHF_WHEEL n) SHF_WHEEL_NGAP ≤ 4) &&
    gs.all (fun g => decide (g.fin < p)) &&
    ms.all (fun g => decide (1 ≤ g.missing)) &&
    gs.all (fun g => !g.extra || decide (g.missing = 0)) &&
    allPairs (fun a b => decide (a ≠ b)) removed &&
    ms.all (fun g => present g.fin) &&
    gs.all (fun g => !g.extra || (present g.fin && present ((g.fin + p - 1) % p))) &&
    (!ms.isEmpty || s.second n || s.flag (SHF_CFG n) SHF_CFG_REL_OK) &&
    (decide (ms.length ≤ 1) || allPairs (fun a b => decide (s.gapTriple n a ≠ s.gapTriple n b)) ms)

/-- The second-wheel pattern is valid (R37). -/
def State.patternOk (s : State) (n : Nat) : Bool :=
  let k := s.fld (SHF_WHEEL n) SHF_WHEEL_NSEG
  let m := s.nseg n
  decide (k = 0) ||
    (decide (2 ≤ k) && decide (k ≤ 16) &&
      (List.range m).all (fun i => decide ((s.seg n i).1 ≠ (s.seg n (i + 1)).1) && decide (1 ≤ (s.seg n i).2)) &&
      decide ((s.segs n).foldl (fun a x => a + x.2) 0 = s.cyclePos n) &&
      (List.range m).all (fun i => (List.range m).all fun j =>
        decide (j ≤ i) || decide ((s.seg n i).1 ≠ (s.seg n j).1) ||
          decide (5 ≤ cycDist (s.positions n) (s.edgePos n i % s.positions n) (s.edgePos n j % s.positions n))))

/-- MODE of port `p`. -/
def State.portMode (s : State) (p : Nat) : Nat := s.fld (FBP_CFG p) FBP_CFG_MODE

/-- The checks that setting EN of a shaft makes, on its registers as the write leaves them (R34, R35, R37, R40). -/
def State.shaftCfgOk (s : State) (n : Nat) : Bool :=
  let src := s.shaftSrc n
  let port := s.shc n SHF_CFG_PORT
  let dport := s.shc n SHF_CFG_DIR_PORT
  let gt := s.winGt n
  decide (src ≤ 4) && decide (s.shc n SHF_CFG_DIR_SRC ≠ 3) && decide (4 ≤ gt) && decide (gt ≤ 21) &&
    decide (65 ≤ s.winHi n) && decide (8 ≤ s.winLo n) && decide (s.winLo n ≤ 63) &&
    (decide (src ≠ 0) || decide (s.portMode port = 3)) &&
    (decide (src ≠ 1) || decide (s.portMode port ≤ 2)) &&
    (decide (src ≠ 2) || decide (s.portMode port = 5) || decide (s.portMode port = 6)) &&
    (!s.flag (SHF_CFG n) SHF_CFG_IDX_EN || decide (s.portMode (s.shc n SHF_CFG_IDX_PORT) = 3)) &&
    (decide (s.shc n SHF_CFG_DIR_SRC ≠ 2) ||
      (s.flag (FBP_CFG dport) FBP_CFG_EN && decide (s.portMode dport ≠ 5) && decide (s.portMode dport ≠ 6))) &&
    (decide (src ≠ 1) || !s.flag (FBP_CFG port) FBP_CFG_IDX_EN ||
      (s.flag (FBP_CFG port) FBP_CFG_IDX_RST && s.flag (FBP_CFG port) FBP_CFG_LC_FAULT)) &&
    (decide (src ≠ 0) || s.wheelOk n) &&
    s.patternOk n &&
    (decide (src ≠ 0) || decide (s.turns n = 1) || s.second n) &&
    (decide (src ≠ 0) || (s.gapsOf n).isEmpty || decide (s.winHi n < 2 * (64 - gt)))

/-! ## The predictor and the speed (R53 to R57) -/

/-- T_pred of a history (R54); 0 while it is empty. -/
def tPred (first : Bool) (h : List Interval) : Nat :=
  match h with
  | [] => 0
  | i :: rest =>
    match first, rest with
    | false, [_, k] =>
      (clampI ((i.norm / 2 : Nat) : Int) ((2 * i.norm : Nat) : Int)
        ((i.norm : Int) + divT ((i.norm : Int) - (k.norm : Int)) 2)).toNat
    | _, _ => i.norm

/-- T_pred of shaft `n`. -/
def State.shaftTpred (s : State) (n : Nat) : Nat := tPred (s.flag (SHF_CFG n) SHF_CFG_PRED) (s.shaft n).hist

/-- SPEED from the newest intervals of a history (R56). -/
def speedOf (avg : Nat) (rev : Bool) (h : List Interval) : Int :=
  let use := h.take (2 ^ avg)
  let spans := use.foldl (fun a i => a + i.span) 0
  let ticks := use.foldl (fun a i => a + i.ticks) 0
  if ticks = 0 then 0
  else
    let v : Int := ((divNear (spans * 400000000) (ticks * 2 ^ 32) : Nat) : Int)
    if rev then -v else v

/-- SPD_VALID (R57, R65, R67). On a VIRT_PROFILE shaft `need` is 0 but from a STILL timeout, which forces SPD_VALID to 0
(R58), until SPEED leaves 0; DEDUCED: the STILL that EN itself sets does not force it (log 21). -/
def State.spdValid (s : State) (n : Nat) : Bool :=
  let x := s.shaft n
  if s.shaftSrc n = 3 then
    (match x.vb with
     | some b => b.spdValid && decide (x.st ≠ .unsync)
     | none => false)
  else if s.shaftSrc n = 4 then decide (x.need = 0) && decide (x.st = .synced)
  else decide (x.need ≤ x.hist.length)

/-- SPEED as it reads (R56, R57, R65, R67). -/
def State.speedOut (s : State) (n : Nat) : Int :=
  let x := s.shaft n
  if s.shaftSrc n = 4 then (if s.spdValid n then divT x.profSpeed 400000 else 0)
  else if s.spdValid n then x.speed else 0

/-- The direction of the edge being accepted (R59): `port` is the direction of the port's count. -/
def State.edgeDir (s : State) (n : Nat) (port : Bool) : Bool :=
  let inv := s.flag (SHF_MOTION n) SHF_MOTION_DIR_INV
  if s.shaftSrc n = 0 then
    (if s.shc n SHF_CFG_DIR_SRC = 1 then (s.port (s.shc n SHF_CFG_PORT)).lvX != inv
     else if s.shc n SHF_CFG_DIR_SRC = 2 then (s.port (s.shc n SHF_CFG_DIR_PORT)).lvA != inv
     else false)
  else port != inv

end Sys2Proof.Machine
end

