-- ==== Sys2Proof/Machine/Shafts.lean ====
section
/-! DEFINITION. Shafts (R33 to R63, R508 to R510): transitions, accepted edges, interpolation, standstill, phase. -/

namespace Sys2Proof.Machine

/-! ## State and notifications -/

/-- SHFn_STATE as it reads (R45, R50). -/
def State.shaftWord (s : State) (n : Nat) : Nat :=
  let x := s.shaft n
  x.cause * 65536 + b2n x.catching * 128 + b2n (s.shaftHalted n) * 64 + b2n x.limpOk * 32 + b2n x.rel * 16 +
    b2n (s.angValid n) * 8 + x.st.code

/-- The raise of a transition (R47). -/
def State.shaftTell (s : State) (n : Nat) : State := s.raise (32 + 2 * n) (s.shaftWord n)

/-- ANG_VALID of shaft `sh` has fallen: codes are truncated and phase sampling pauses (R62, R63, R199). -/
def State.angLost (s : State) (sh : Nat) : State :=
  State.forEach 16 (fun t m =>
    if m = sh ∨ t.fld (SHF_PH_CFG m) SHF_PH_CFG_REF = sh then t.setShaft m { t.shaft m with phWin := [] } else t)
    (s.rasAngLost sh)

/-- A change of state with its cause; the caller has moved the angle. -/
def State.shaftSet (s : State) (n : Nat) (st : SyncState) (cause : Nat) : State :=
  s.setShaft n { s.shaft n with st := st, cause := cause }

/-- Entry to LOST (R45, R47, R151). -/
def State.shaftLose (s : State) (n cause : Nat) : State :=
  let s1 := s.setShaft n { s.shaft n with st := .lost, cause := cause, catching := false, delta := 0, rel := false,
                                          posKnown := false, turnFixed := false, vHold := false, absGood := 0 }
  let s2 := ((s1.count (SHF_ERR n) SHF_ERR_SYNC_LOSS 1).almLost n).angLost n
  ((s2.lanesSuspect n).shaftTell n).faultRaise fltShaftLost n 2 cause

/-- What every entry to SYNCED does besides moving the angle (R42, R47). -/
def State.shaftSynced (s : State) (n : Nat) : State :=
  ((s.shaftTell n).faultEnd fltShaftLimp n).faultEnd fltShaftLost n

/-- A shaft about to enter SYNCED: state, cause, a fresh error run (R42). -/
def Shaft.toSynced (x : Shaft) (cause : Nat) (rel : Bool) : Shaft :=
  { x with st := .synced, cause := cause, rel := rel, errCnt := 0, posKnown := true, turnFixed := true }

/-- A return to SEEKING that holds the angle (R45, R510). -/
def State.shaftSeek (s : State) (n cause : Nat) : State :=
  (s.setShaft n { s.shaft n with st := .seeking, cause := cause, lastGap := none, posKnown := false,
                                 turnFixed := false }).shaftTell n

/-- A tooth error (R41, R42, R47). -/
def State.toothError (s : State) (n : Nat) : State :=
  let x := s.shaft n
  let c := Nat.min (x.errCnt + 1) (s.fld (SHF_WIN n) SHF_WIN_ERR_MAX + 1)
  ((s.setShaft n { x with errCnt := c }).count (SHF_ERR n) SHF_ERR_TOOTH_ERR 1).raise (33 + 2 * n) c

/-- ERR_CNT has passed ERR_MAX in SYNCED (R45). -/
def State.errOver (s : State) (n : Nat) : Bool :=
  decide ((s.shaft n).st = .synced) && decide (s.fld (SHF_WIN n) SHF_WIN_ERR_MAX < (s.shaft n).errCnt)

/-- Takes a shaft whose errors passed ERR_MAX to LOST. -/
def State.errLimit (s : State) (n : Nat) : State := if s.errOver n then s.shaftLose n 6 else s

/-! ## Phase (R62, R63) -/

/-- Both shafts of a phase have a valid angle, and sampling is enabled. -/
def State.phaseRuns (s : State) (n : Nat) : Bool :=
  s.flag (SHF_PH_CFG n) SHF_PH_CFG_PH_EN && s.angValid n && s.angValid (s.fld (SHF_PH_CFG n) SHF_PH_CFG_REF)

/-- The phase of shaft `n` against REF in this tick (R62). -/
def State.phaseOf (s : State) (n : Nat) : Int :=
  let den : Int := (s.fld (SHF_PH_RATIO n) SHF_PH_RATIO_DEN : Nat)
  let num : Int := (s.fld (SHF_PH_RATIO n) SHF_PH_RATIO_NUM : Nat)
  let v := divT (s.phiInt n * den - s.phiInt (s.fld (SHF_PH_CFG n) SHF_PH_CFG_REF) * num) den -
    signed 32 (s.rg (SHF_PH_BIAS n)).toNat
  signed 32 (unsigned 32 v)

/-- A 32-bit register set to a signed number. -/
def State.setSigned (s : State) (a : Nat) (v : Int) : State := s.setRg a (BitVec.ofNat 32 (unsigned 32 v))

/-- PHASE_SAMPLE: one sample, at most one in a tick (R62, R63). -/
def State.phaseSample (s : State) (n : Nat) : State :=
  if s.phaseRuns n ∧ (s.shaft n).phAt ≠ some s.time then
    let x := s.shaft n
    let v := s.phaseOf n
    let win := (v :: x.phWin).take (2 ^ s.fld (SHF_PH_CFG n) SHF_PH_CFG_WIN)
    let lo := if x.phSeen then Min.min (signed 32 (s.rg (SHF_PH_MIN n)).toNat) v else v
    let hi := if x.phSeen then Max.max (signed 32 (s.rg (SHF_PH_MAX n)).toNat) v else v
    let mean := divT (win.foldl (· + ·) 0) win.length
    (((((s.setShaft n { x with phWin := win, phSeen := true, phAt := some s.time }).setSigned (SHF_PHASE n) v).setSigned
      (SHF_PH_MIN n) lo).setSigned (SHF_PH_MAX n) hi).setSigned (SHF_PH_MEAN n) mean).count (SHF_PH_STAT n)
        SHF_PH_STAT_COUNT 1
  else s

/-- PH_CLR (R63): a sample already taken in this tick counts after the clear. -/
def State.phaseClear (s : State) (n : Nat) : State :=
  let v := s.rg (SHF_PHASE n)
  let kept := decide ((s.shaft n).phAt = some s.time)
  let w : Word := if kept then v else 0
  ((((s.setShaft n { s.shaft n with phWin := if kept then [signed 32 v.toNat] else [], phSeen := kept }).setRg
    (SHF_PH_MIN n) w).setRg (SHF_PH_MAX n) w).setRg (SHF_PH_MEAN n) w).setFld (SHF_PH_STAT n) SHF_PH_STAT_COUNT (b2n kept)

/-- The samples that an accepted edge of shaft `sh` takes (SAMPLE = 1, SAMPLE = 2). -/
def State.phaseAtEdge (s : State) (sh : Nat) : State :=
  State.forEach 16 (fun t m =>
    let smp := t.fld (SHF_PH_CFG m) SHF_PH_CFG_SAMPLE
    if (smp = 1 ∧ m = sh) ∨ (smp = 2 ∧ t.fld (SHF_PH_CFG m) SHF_PH_CFG_REF = sh) then t.phaseSample m else t) s

/-- The periodic sample of SAMPLE = 0 is due (R62). DESIGN CHOICE: the 256 ticks are counted from engine time 0
(log 58). -/
def State.phaseDue (s : State) (n : Nat) : Bool :=
  s.phaseRuns n && decide (s.fld (SHF_PH_CFG n) SHF_PH_CFG_SAMPLE = 0) && decide (s.time % 256 = 0) &&
    decide ((s.shaft n).phAt ≠ some s.time)

/-! ## Revolutions (R460) -/

/-- Counts the whole turns that the unwrapped angle has newly reached since EN was set. -/
def State.shaftRevs (s : State) (n : Nat) : State :=
  let x := s.shaft n
  let t := x.disp / 2 ^ 48
  match x.maxTurn with
  | some m => if m < t then (s.setShaft n { x with maxTurn := some t }).bumpTally (2216 + n) (t - m).toNat else s
  | none => s

/-! ## Accepted edges (R49, R53 to R60) -/

/-- What an edge does to the reported angle: held, moved under R49, or placed by a transition (R45). -/
inductive Landing where
  | hold | follow | place
  deriving DecidableEq, Repr

/-- An accepted edge: direction, interval entered, landing, the place reached, its angle, the span ahead and the span of
one position. -/
structure EdgeIn where
  rev : Bool
  iv : Option Interval
  land : Landing
  place : Place
  angle : Int
  span : Nat
  per : Nat
  deriving DecidableEq, Repr

/-- The shaft as an edge judges it (R49): the values left by the tick before, unless an edge has already moved it in this
tick. -/
def State.shaftAt (s : State) (n : Nat) : Shaft :=
  let x := s.shaft n
  if x.pre.tick = s.time ∧ x.movedAt ≠ some s.time then
    { x with mu := x.pre.mu, tru := x.pre.tru, disp := x.pre.disp, fine := x.pre.fine, catching := x.pre.catching }
  else x

/-- The rate of R49, rounded up; 0 in step mode (R55). -/
def rateFor (per span tp : Nat) : Nat :=
  let d := span * tp
  if d = 0 then 0 else (65536 * 65536 * per + d - 1) / d

/-- The interpolated angle with the fraction bits of a microstep count (R73). -/
def Shaft.truAt (x : Shaft) (mu : Nat) : Int :=
  let d : Int := ((x.span * mu / 2 ^ 32 : Nat) : Int)
  if x.dir then x.base - d else x.base + d

/-- The further of two angles in a direction. -/
def further (rev : Bool) (a b : Int) : Int := if rev then Min.min a b else Max.max a b

/-- The nearer of two angles in a direction. -/
def nearer (rev : Bool) (a b : Int) : Int := if rev then Max.max a b else Min.min a b

/-- The reported angle, with φ beside it, after an edge, and the ranges of φ that the late check covers (R49, R55). -/
def Shaft.land (x : Shaft) (mode : Landing) (step catchup rev : Bool) (angle : Int) : Shaft × List (Int × Int) :=
  match mode with
  | .hold => (x, [])
  | .place => ({ x with disp := angle, fine := angle, catching := false, jumped := false }, [(x.fine, angle)])
  | .follow =>
    let l1 := if x.catching then [(x.fine, x.truAt x.mu)] else []
    let x1 : Shaft :=
      if x.catching then { x with disp := x.tru, fine := x.truAt x.mu, catching := false, jumped := false }
      else { x with jumped := false }
    if step then ({ x1 with disp := angle, fine := angle }, l1)
    else
      let early := decide (x1.mu < muLimit) && (if rev then decide (angle < x1.disp) else decide (x1.disp < angle))
      if early then
        if catchup then ({ x1 with catching := true }, l1)
        else ({ x1 with disp := angle, fine := angle, jumped := true }, l1 ++ [(x1.fine, angle)])
      else ({ x1 with disp := further rev x1.disp angle, fine := further rev x1.fine angle }, l1)

/-- The history after an edge (R54). -/
def histWith (x : Shaft) (rev : Bool) (iv : Option Interval) : List Interval :=
  if rev ≠ x.dir then []
  else
    match iv with
    | some i => (i :: x.hist).take 3
    | none => x.hist

/-- The shaft after an accepted edge, and the ranges of the late check. The advance that the every-tick step has given φ in
this tick stays: it is the delta of R73 in the tick of an edge. -/
def State.edgeShaft (s : State) (n : Nat) (e : EdgeIn) : Shaft × List (Int × Int) :=
  let x0 := s.shaftAt n
  let hist := histWith x0 e.rev e.iv
  let turn := decide (e.rev ≠ x0.dir)
  let need := if x0.still then 2 else if turn then 1 else x0.need
  let tp := tPred (s.flag (SHF_CFG n) SHF_CFG_PRED) hist
  let tpl := if tp = 0 then x0.lastTpred else tp
  let r := x0.land e.land (x0.hist.isEmpty || hist.isEmpty) (s.flag (SHF_CFG n) SHF_CFG_INTERP) e.rev e.angle
  let x1 := { r.1 with
    lastEdge := some s.time
    dir := e.rev
    still := false
    skipNext := turn
    stillRef := s.time
    need := need
    hist := hist
    lastTpred := tpl
    speed := speedOf (s.fld (SHF_MOTION n) SHF_MOTION_SPD_AVG) e.rev hist
    rho := if tpl = 0 then 0 else e.per / tpl
    runSpan := e.span }
  let x2 :=
    if e.land = .hold then x1
    else
      { x1 with
        hp := e.place.hp
        turn := e.place.turn
        cycleBase := e.place.cycleBase
        base := e.angle
        tru := e.angle
        span := e.span
        rate := if hist.isEmpty then 0 else rateFor e.per e.span tp
        mu := 0
        movedAt := some s.time
        horizon := if e.rev then e.angle - e.span else e.angle + e.span }
  (x2, r.2)

/-- The reversal of an accepted edge (R60). -/
def State.shaftReverse (s : State) (n : Nat) : State :=
  ((s.count (SHF_MCNT n) SHF_MCNT_REVERSALS 1).almReversal n).rasReversal n

/-- The events of shaft `n` that a late check over some ranges finds (R49, R75). -/
def State.lateIn (s : State) (n : Nat) (rs : List (Int × Int)) : List Nat :=
  s.eventsWhere fun v => v.st.waiting && decide (v.desc.shaft = n) &&
    rs.any fun ab => decide (ab.1 ≤ v.start) && decide (v.start < ab.2)

/-- An accepted edge: the move and its late check, the reversal, the recomputation point that every accepted edge is, then
the late starts; phase and revolutions (R49, R60, R70, R86). -/
def State.acceptEdge (s : State) (n : Nat) (e : EdgeIn) : State :=
  let r := s.edgeShaft n e
  let late := s.lateIn n r.2
  let s1 := s.setShaft n r.1
  let s2 := if e.rev ≠ (s.shaft n).dir then s1.shaftReverse n else s1
  ((((s2.almRecomputeBut n late).almLates late).phaseAtEdge n)).shaftRevs n

/-- An edge of a shaft whose angle is held. -/
def State.heldEdge (s : State) (n : Nat) (rev : Bool) (iv : Option Interval) : State :=
  s.acceptEdge n { rev := rev, iv := iv, land := .hold, place := (s.shaft n).place, angle := 0,
                   span := (s.shaft n).runSpan, per := s.perPos n }

/-- An edge of a synchronised shaft that moves to a place. -/
def State.movedEdge (s : State) (n : Nat) (rev : Bool) (iv : Option Interval) (p : Place) (mode : Landing) : State :=
  s.acceptEdge n { rev := rev, iv := iv, land := mode, place := p, angle := s.placeAngle n p,
                   span := s.spanAhead n rev p, per := s.perPos n }

/-- Entry to SYNCED at an accepted edge, at a half position and turn, by the forward rule (R45). -/
def State.syncEdge (s : State) (n : Nat) (iv : Option Interval) (turn hp cause : Nat) : State :=
  let p := s.placeForward n (s.shaftAt n).disp turn hp
  ((s.setShaft n ((s.shaft n).toSynced cause false)).movedEdge n false iv p .place).shaftSynced n

/-- Entry to SYNCED at a mark that is no main-wheel edge: the angle is interpolated on from the last accepted main edge,
at half position `hp` (R45, R49). -/
def State.syncBetween (s : State) (n turn hp cause : Nat) : State :=
  let x := s.shaftAt n
  let p0 : Place := { hp := hp, turn := turn, cycleBase := 0 }
  let span := s.spanAhead n false p0
  let rate := rateFor (s.perPos n) span (s.shaftTpred n)
  let mu := Nat.min muLimit (rate * (s.time - x.lastMain.getD s.time))
  let frac : Int := ((span * (mu / 65536) / 65536 : Nat) : Int)
  let a := s.forwardRule n x.disp (s.offset48 n + s.hpAngle n turn hp + frac)
  let base := a - frac
  let fine := base + ((span * mu / 2 ^ 32 : Nat) : Int)
  let late := s.lateIn n [(x.fine, fine)]
  let y := { (s.shaft n).toSynced cause false with
    hp := hp
    turn := turn
    cycleBase := base - s.hpAngle n turn hp
    base := base
    tru := a
    disp := a
    fine := fine
    span := span
    rate := rate
    mu := mu
    delta := 0
    catching := false
    movedAt := some s.time
    jumped := false
    horizon := base + span }
  ((((s.setShaft n y).shaftSynced n).almRecomputeBut n late).almLates late).shaftRevs n

/-! ## The main wheel (R41 to R45) -/

/-- Ticks since the last main-wheel edge. -/
def State.mainTicks (s : State) (n : Nat) : Option Nat := (s.shaft n).lastMain.map fun t => s.time - t

/-- The ratio r of an interval, none while T_pred is 0 (R40). -/
def ratio (dt tp : Nat) : Option Nat := if tp = 0 then none else some (64 * dt / tp)

/-- An interval of `dt` ticks over `c` positions. -/
def interval (dt c per : Nat) : Interval := { norm := dt / c, span := c * per, ticks := dt }

/-- Half of an extra-tooth pair. -/
def halfInterval (dt per : Nat) : Interval := { norm := 2 * dt, span := per / 2, ticks := dt }

/-- The interval that an edge ends is entered unless it is the first edge after enable, the setting of STILL or a reversal
(R54). The reversal is itself an edge (R60): neither the interval that it ends nor the one that the next edge ends is
entered. -/
def State.enters (s : State) (n : Nat) (rev : Bool) (iv : Interval) : Option Interval :=
  let x := s.shaft n
  if x.still ∨ x.lastMain.isNone ∨ rev ≠ x.dir ∨ x.skipNext then none else some iv

/-- What every accepted main-wheel edge leaves: its tick, T_pred as it then stands, and the positions counted. -/
def State.mainSeen (s : State) (n c : Nat) : State :=
  s.setShaft n { s.shaft n with lastMain := some s.time, mainTp := s.shaftTpred n, teeth := (s.shaft n).teeth + c }

/-- Consecutive intervals in the tooth window, with this one (R45). -/
def State.relRunWith (s : State) (n : Nat) (r : Option Nat) (entered : Bool) : Nat :=
  match r, entered with
  | some v, true => if s.winLo n ≤ v ∧ v ≤ s.winHi n then (s.shaft n).relRun + 1 else 0
  | _, _ => 0

/-- Relative synchronisation: the angle continues from the held angle (R45). -/
def State.relSync (s : State) (n : Nat) (rev : Bool) (iv : Option Interval) (hp : Nat) : State :=
  let held := (s.shaft n).disp
  let p : Place := { hp := hp, turn := 0, cycleBase := held - s.hpAngle n 0 hp }
  ((s.setShaft n ((s.shaft n).toSynced 11 true)).movedEdge n rev iv p .place).shaftSynced n

/-- No reference mark is configured (R43, R45). -/
def State.noMarks (s : State) (n : Nat) : Bool :=
  if s.shaftSrc n = 1 then !s.flag (FBP_CFG (s.shc n SHF_CFG_PORT)) FBP_CFG_IDX_EN
  else (s.gapsOf n).isEmpty && !s.second n

/-- A main-wheel edge in SEEKING or LOST (R43, R45, R53): a reverse edge is no mark (R510), but its interval over a gap is
normalised as any other. -/
def State.seekTooth (s : State) (n : Nat) (rev : Bool) (dt : Nat) (r : Option Nat) : State :=
  let size := r.bind (s.gapSize n)
  let gap := if rev then none else size
  let half := (r.map (s.maybeHalf n)).getD false
  let per := s.perPos n
  let iv := s.enters n rev (match size with
    | some m => interval dt (m + 1) per
    | none => if half then halfInterval dt per else interval dt 1 per)
  let run := s.relRunWith n r iv.isSome
  let three := decide (3 ≤ (histWith (s.shaft n) rev iv).length)
  let s0 := s.setShaft n { s.shaft n with relRun := run }
  match gap, three with
  | some m, true =>
    let unique := (s.gapsOf n).filter fun g => decide (g.missing = m)
    let x := { s0.shaft n with
      st := .gapFound
      cause := 3
      lastGap := some (m, 0)
      turnFixed := false
      posKnown := decide (unique.length = 1)
      turn := 0
      hp := 2 * (unique.head?.map GapDesc.fin).getD 0 }
    ((s0.setShaft n x).heldEdge n rev iv).shaftTell n
  | _, _ =>
    if s.flag (SHF_CFG n) SHF_CFG_REL_OK ∧ (s.shaft n).st = .seeking ∧ s.noMarks n ∧ 3 ≤ run then
      s0.relSync n rev iv 0
    else s0.heldEdge n rev iv

/-- The gap pair that a second mark confirms (R45): the half position of the second gap's end. -/
def State.confirmGap (s : State) (n m1 c m2 : Nat) : Option Nat :=
  ((s.gapsOf n).filter fun g => decide (g.missing = m1)).findSome? fun g =>
    let w := s.walkGap n (2 * s.positions n) (2 * g.fin) 0
    if w.2 = c ∧ (s.gapTo n (w.1 / 2)).map GapDesc.missing = some m2 then some w.1 else none

/-- A main-wheel edge in GAP_FOUND (R45, R510). -/
def State.foundTooth (s : State) (n : Nat) (rev : Bool) (dt : Nat) (r : Option Nat) : State :=
  let x := s.shaft n
  let per := s.perPos n
  if rev ≠ x.dir then (s.heldEdge n rev none).shaftSeek n 13
  else
    let gap := if rev then none else r.bind (s.gapSize n)
    let p1 := s.stepUp n x.place (s.nextHp n x.hp)
    let half := if x.posKnown then decide (x.hp % 2 = 1) || decide (p1.hp % 2 = 1) else (r.map (s.maybeHalf n)).getD false
    let iv0 := match gap with
      | some m => interval dt (m + 1) per
      | none => if half then halfInterval dt per else interval dt 1 per
    let iv := s.enters n rev (if x.posKnown then { iv0 with span := s.spanAhead n false x.place } else iv0)
    let c := (x.lastGap.map Prod.snd).getD 0 + 1
    match x.lastGap, gap with
    | some (m1, _), some m2 =>
      (match s.confirmGap n m1 c m2 with
       | some hp =>
         let turn := if x.posKnown then p1.turn else 0
         if s.turns n = 1 ∨ x.turnFixed then s.syncEdge n iv (if s.turns n = 1 then 0 else turn) hp 4
         else
           (s.setShaft n { x with hp := hp, turn := turn, posKnown := true, lastGap := some (m2, 0) }).heldEdge n rev iv
       | none => (s.heldEdge n rev iv).shaftSeek n 5)
    | lg, _ =>
      let y := if x.posKnown then { x with hp := p1.hp, turn := p1.turn, cycleBase := p1.cycleBase } else x
      (s.setShaft n { y with lastGap := lg.map fun g => (g.1, c) }).heldEdge n rev iv

/-- Positions that an interval between two teeth covers. -/
def State.stepSize (s : State) (n : Nat) (rev : Bool) (a b : Nat) : Nat :=
  let p := s.positions n
  let d := if rev then (a / 2 + p - b / 2) % p else (b / 2 + p - a / 2) % p
  if d = 0 then p else d

/-- The ratio tests of an edge in SYNCED (R42): none while untested, else whether it is an error, with what the first
half of an extra-tooth pair leaves. -/
def State.toothTest (s : State) (n dt tp : Nat) (old new c : Nat) : Bool × Option (Nat × Nat) :=
  let r := 64 * dt / tp
  if old % 2 = 1 then
    (match (s.shaft n).half with
     | some (r1, tp1) => (!s.extraOk n r1 (64 * dt / tp1), none)
     | none => (false, none))
  else if new % 2 = 1 then (false, some (r, tp))
  else if 1 < c then (!s.inGap n (c - 1) r, none)
  else (decide (s.gapSize n r ≠ none), none)

/-- A main-wheel edge in SYNCED (R42, R49, R60). -/
def State.syncTooth (s : State) (n : Nat) (rev : Bool) (dt : Nat) : State :=
  let x := s.shaft n
  let turned := decide (rev ≠ x.dir)
  let p := if turned then x.place else s.stepPlace n rev x.place
  let half := !turned && (decide (x.hp % 2 = 1) || decide (p.hp % 2 = 1))
  let c := if turned ∨ half then 1 else s.stepSize n rev x.hp p.hp
  let tp := s.shaftTpred n
  let iv := s.enters n rev { norm := if half then 2 * dt else dt / c,
                             span := (s.placeAngle n p - s.placeAngle n x.place).natAbs, ticks := dt }
  let test := if turned ∨ tp = 0 then (false, none) else s.toothTest n dt tp x.hp p.hp c
  let s1 := s.setShaft n { x with half := test.2 }
  let s2 := if test.1 then s1.toothError n
    else if 1 < c ∧ ¬turned ∧ tp ≠ 0 then s1.setShaft n { s1.shaft n with errCnt := 0 }
    else s1
  if test.1 ∧ s2.errOver n then
    ((s2.setShaft n { s2.shaft n with hp := p.hp, turn := p.turn, cycleBase := p.cycleBase }).heldEdge n rev iv).shaftLose
      n 6
  else s2.movedEdge n rev iv p .follow

/-- Positions from one pattern edge to another in a direction; a whole cycle where they are the same. -/
def State.edgeGap (s : State) (n : Nat) (rev : Bool) (a b : Nat) : Nat :=
  let l := s.cyclePos n
  let d := if rev then (s.edgePos n a + l - s.edgePos n b) % l else (s.edgePos n b + l - s.edgePos n a) % l
  if d = 0 then l else d

/-- `c` positions in half positions, signed by the direction. -/
def signedHalves (rev : Bool) (c : Nat) : Int := if rev then -(2 * (c : Int)) else 2 * (c : Int)

/-- The count of R509 at a tooth matches: the shaft returns from LIMP to SYNCED at that tooth, `move` positions on from
the pattern edge. `main`: the interval `iv` is that of the main-wheel tooth itself. -/
def State.limpResolve (s : State) (n : Nat) (rev : Bool) (e cum move : Nat) (main : Bool)
    (iv : Option Interval) : State × Bool :=
  let x := s.shaft n
  let s1 := s.setShaft n { x with limpPrev := some (cum, e), limpWait := none }
  match x.limpPrev with
  | none => (s1, false)
  | some (cp, ep) =>
    if cum - cp = s.edgeGap n rev ep e ∧ cp ≤ cum then
      let p := s.placeMoved n x.place (signedHalves rev move)
      let iv1 := if main then iv.map fun i => { i with span := s.spanAhead n (!rev) p } else iv
      (((s1.setShaft n ((s1.shaft n).toSynced 9 false)).movedEdge n rev iv1 p .follow).shaftSynced n, true)
    else (s1, false)

/-- A main-wheel edge in LIMP that counts `c` positions: it may be the tooth that a second-wheel edge stands at (R509). One
whose direction is not the one DIR shows starts the count again. DESIGN CHOICE: where the second edge's tooth lies before
that edge, and so in a tick already past, the shaft enters SYNCED at the next main tooth, its place counted on from the
pattern edge (log 25). -/
def State.limpTooth (s : State) (n : Nat) (rev : Bool) (dt c : Nat) : State :=
  let x := s.shaft n
  let cum := x.limpCum + c
  let iv := s.enters n rev (interval dt c (s.perPos n))
  let s1 := s.setShaft n { x with limpCum := cum, teeth := x.teeth + c }
  let s2 :=
    if rev ≠ x.dir then s1.setShaft n { s1.shaft n with limpPrev := none, limpWait := none }
    else
      match x.limpWait with
      | none => s1
      | some (te, e, c0, t0) =>
        if s.time - te < te - t0 then (s1.limpResolve n rev e cum 0 true iv).1
        else (s1.limpResolve n rev e c0 c true iv).1
  s2.setShaft n { s2.shaft n with lastMain := some s.time, mainTp := s2.shaftTpred n }

/-- Positions that a main-wheel interval counts: one, or a gap's MISSING + 1 (R509). -/
def State.ratioCount (s : State) (n : Nat) (r : Option Nat) : Nat :=
  match r.bind (s.gapSize n) with
  | some m => m + 1
  | none => 1

/-- TOOTH_EDGE: an accepted main-wheel edge of a TOOTH shaft (R41, R42). -/
def State.toothEdge (s : State) (n : Nat) : State :=
  let x := s.shaft n
  if ¬s.shaftEn n ∨ s.shaftSrc n ≠ 0 ∨ x.st = .unsync then s
  else
    let dt := (s.mainTicks n).getD 0
    let r := if x.lastMain.isSome then ratio dt (s.shaftTpred n) else none
    if x.lastMain.isSome ∧ (dt < 200 ∨ (r.map fun v => decide (v < s.winLo n)) = some true) then
      (s.toothError n).errLimit n
    else
      let rev := s.edgeDir n false
      match x.st with
      | .unsync => s
      | .seeking => (s.seekTooth n rev dt r).mainSeen n 1
      | .lost => (s.seekTooth n rev dt r).mainSeen n 1
      | .gapFound => (s.foundTooth n rev dt r).mainSeen n 1
      | .synced => (s.syncTooth n rev dt).mainSeen n (s.ratioCount n r)
      | .limp => s.limpTooth n rev dt (s.ratioCount n r)

/-! ## The second wheel (R38, R43 to R45, R48, R508, R509) -/

/-- Cycle position of a place. -/
def State.placePos (s : State) (n : Nat) (x : Shaft) : Nat := x.turn * s.positions n + x.hp / 2

/-- Whole positions nearest to a time at a predicted interval. -/
def nearPos (dt tp : Nat) : Nat := if tp = 0 then 0 else (2 * dt + tp) / (2 * tp)

/-- The second-wheel edge just seen, put at the head of the last four. -/
def State.idxSeen (s : State) (n : Nat) (rising : Bool) (e timed : Option Nat) : State :=
  let x := s.shaft n
  s.setShaft n { x with
    idx := ({ tick := s.time, rising := rising, teeth := x.teeth, seg := e, timed := timed } :: x.idx).take 4
    teeth := 0 }

/-- LENGTH of the segment that lies ahead of pattern edge `e` in a direction. -/
def State.segAhead (s : State) (n : Nat) (rev : Bool) (e : Nat) : Nat :=
  (s.seg n (if rev then e + s.nseg n - 1 else e)).2

/-- A second-wheel edge accepted as a tooth in LIMP: its span is LENGTH × per_tooth of the segment ahead (R48, R53). -/
def State.limpAccept (s : State) (n e : Nat) (rev : Bool) (p : Place) (iv : Option Interval) (mode : Landing) : State :=
  s.acceptEdge n { rev := rev, iv := iv, land := mode, place := p, angle := s.placeAngle n p,
                   span := s.segAhead n rev e * s.perPos n, per := s.perPos n }

/-- The interval of a segment of `len` positions just ended (R53). -/
def State.segInterval (s : State) (n len ticks : Nat) : Interval :=
  { norm := ticks / len, span := len * s.perPos n, ticks := ticks }

/-- Where a matched second-wheel edge of LIMP stands (R509): a tooth of this tick resolves it at once, else it waits for
the next main tooth. -/
def State.limpMark (s : State) (n e : Nat) (rev : Bool) (iv : Option Interval) : State × Bool :=
  let x := s.shaft n
  let prev := match x.limpWait with
    | some (_, e0, c0, _) => some (c0, e0)
    | none => x.limpPrev
  let s1 := s.setShaft n { x with limpPrev := prev, limpWait := none }
  match x.lastMain with
  | none => (s1.setShaft n { s1.shaft n with limpPrev := none }, false)
  | some t =>
    if t = s.time then s1.limpResolve n rev e x.limpCum 0 false iv
    else (s1.setShaft n { s1.shaft n with limpWait := some (s.time, e, x.limpCum, t) }, false)

/-- The place of pattern edge `e` by the forward rule (R45). -/
def State.edgeForward (s : State) (n e : Nat) : Place :=
  let c := s.edgePos n e
  s.placeForward n (s.shaftAt n).disp (c / s.positions n) (2 * (c % s.positions n))

/-- Entry to LIMP at pattern edge `e`, which stands at a place, by an edge of direction `rev` (R45, R47, R59). -/
def State.limpEnter (s : State) (n e cause : Nat) (rev : Bool) (p : Place) (iv : Option Interval) : State :=
  let x := s.shaft n
  let s1 := s.setShaft n { x with st := .limp, cause := cause, rel := false, errCnt := 0, limpSeg := e, limpCum := 0,
                                  limpPrev := none, limpWait := none, posKnown := true, turnFixed := true, hp := p.hp,
                                  turn := p.turn, cycleBase := p.cycleBase }
  let s2 := (s1.limpMark n e rev none).1
  let s3 := (s2.limpAccept n e rev p iv .place).count (SHF_ERR n) SHF_ERR_LIMP_CNT 1
  (s3.shaftTell n).faultRaise fltShaftLimp n 1 cause

/-- A second-wheel edge in SEEKING or LOST. -/
def State.seekIdx (s : State) (n : Nat) (rising rev : Bool) : State :=
  let x := s.shaft n
  let ts := x.idx
  let limp :=
    match ts with
    | a :: b :: c :: d :: _ =>
      if s.flag (SHF_CFG n) SHF_CFG_LIMP_EN ∧ x.limpOk ∧ a.teeth = 0 ∧ b.teeth = 0 ∧ c.teeth = 0 then
        s.limpLocate n (c.tick - d.tick) (b.tick - c.tick) (a.tick - b.tick) rising
      else none
    | _ => none
  match limp with
  | some e => s.limpEnter n e 12 rev (s.edgeForward n e) none
  | none =>
    match ts with
    | a :: _ :: _ =>
      if s.shaftSrc n = 0 ∧ (s.gapsOf n).isEmpty ∧ ¬rev ∧ ¬x.dir ∧ 3 ≤ x.hist.length then
        match s.identifyEdge n a.teeth rising with
        | some e =>
          let l := s.cyclePos n
          let ahead := match x.lastMain with
            | some t => decide (0 < x.mainTp) && decide (x.mainTp ≤ 2 * (s.time - t))
            | none => false
          let c := if ahead then (s.edgePos n e + l - 1) % l else s.edgePos n e
          (s.setShaft n { x with st := .gapFound, cause := 3, limpSeg := e, hp := 2 * (c % s.positions n),
                                 turn := c / s.positions n, posKnown := true, turnFixed := true,
                                 lastGap := none }).shaftTell n
        | none => s
      else s
    | _ => s

/-- A second-wheel edge in GAP_FOUND: on a gapless wheel a mark confirms or refutes, and an edge that identifies nothing,
which is no mark, only moves the pattern on; on any other wheel the edge fixes the turn (R38, R43, R45). -/
def State.foundIdx (s : State) (n : Nat) (rising rev : Bool) : State :=
  let x := s.shaft n
  let ticks := s.time - x.lastMain.getD s.time
  if rev then s
  else if s.shaftSrc n = 0 ∧ (s.gapsOf n).isEmpty then
    let teeth := (x.idx.head?.map IdxEdge.teeth).getD 0
    let e := (x.limpSeg + 1) % s.nseg n
    match s.identifyEdge n teeth rising with
    | none => s.setShaft n { x with limpSeg := e }
    | some k => if k = e then s.syncBetween n x.turn x.hp 4 else s.shaftSeek n 5
  else if x.posKnown ∧ 1 < s.turns n ∧ x.mainTp ≠ 0 then
    let p0 : Place := { x.place with turn := 0 }
    let whole := s.halfSteps n false x.hp (s.stepPlace n false p0).hp * x.mainTp
    let p := s.nearestPos n false p0 (Nat.min (2 * ticks) whole) whole
    let hits := (List.range (s.turns n)).filter fun t => (s.matchEdge n (t * s.positions n + p) rising).isSome
    match hits with
    | [t] => s.setShaft n { x with turn := t, turnFixed := true }
    | _ => s
  else s

/-- Half positions from the last main tooth to pattern edge `e` in the shaft's direction. -/
def State.edgeAhead (s : State) (n e : Nat) : Nat :=
  let l := 2 * s.cyclePos n
  let here := s.halfPos n (s.shaft n).place % l
  let there := 2 * s.edgePos n e
  if (s.shaft n).dir then (here + l - there) % l else (there + l - here) % l

/-- The pattern edge whose time test a second-wheel edge passes (R38, R44), with the half positions to it from the last
main tooth: the time that the speed held at that tooth predicts for reaching it agrees within GT/64 of itself. Of several
such edges the one whose predicted time is nearest is taken. DEDUCED: the speed held at the tooth is T_pred as it stood
there, not SPEED; an edge that runs against DIR passes no test (log 25). -/
def State.timedEdge (s : State) (n : Nat) (rising rev : Bool) : Option (Nat × Nat) :=
  let x := s.shaft n
  match x.lastMain with
  | none => none
  | some t =>
    if x.mainTp = 0 ∨ rev ≠ x.dir then none
    else
      let off (e : Nat) : Nat := ((2 * (s.time - t) : Nat) - ((s.edgeAhead n e * x.mainTp : Nat) : Int)).natAbs
      let passes := (List.range (s.nseg n)).filter fun e =>
        decide ((s.seg n e).1 = rising) && decide (64 * off e ≤ s.winGt n * (s.edgeAhead n e * x.mainTp))
      (passes.foldl (fun b e =>
        match b with
        | none => some e
        | some k => if off e < off k then some e else some k) none).map fun e => (e, s.edgeAhead n e)

/-- The interpolated main-wheel position, rounded to the nearest position (R38). -/
def State.nowPos (s : State) (n : Nat) : Nat :=
  let x := s.shaftAt n
  s.nearestPos n x.dir x.place x.mu (2 ^ 32)

/-- A second-wheel edge in SYNCED (R38, R42, R44). `rising` is the edge's direction as the forward pattern has it: a
flank crossed in reverse rises where the pattern falls (R60). `teeth` are the main-wheel positions since the last one,
`before` the pattern edge whose time test that one passed. -/
def State.syncedIdx (s : State) (n : Nat) (rising rev : Bool) (teeth : Nat) (before : Option Nat)
    (ticks : Option Nat) : State :=
  let x := s.shaft n
  let timed := s.timedEdge n rising rev
  let el := s.time - x.lastMain.getD s.time
  let failed :=
    match timed with
    | none => false
    | some (e, _) =>
      decide (4 * x.mainTp < el) ||
        (match before with
         | some a => decide (2 * teeth < s.edgeGap n rev a e)
         | none => false)
  let s1 := s.setShaft n { x with idx := match x.idx with
    | i :: r => { i with timed := timed.map Prod.fst } :: r
    | [] => [] }
  match timed, failed with
  | some (e, d), true =>
    if s.flag (SHF_CFG n) SHF_CFG_LIMP_EN ∧ x.limpOk then
      s1.limpEnter n e 7 rev (s.placeMoved n x.place (if rev then -(d : Int) else (d : Int)))
        (if x.still ∨ x.skipNext then none else ticks.map (s.segInterval n (s.segAhead n (!rev) e)))
    else s1.shaftLose n 7
  | some _, false => if (s.gapsOf n).isEmpty then s1.setShaft n { s1.shaft n with errCnt := 0 } else s1
  | none, _ =>
    match s.matchEdge n (s.nowPos n) rising with
    | some _ => if (s.gapsOf n).isEmpty then s1.setShaft n { s1.shaft n with errCnt := 0 } else s1
    | none => (s1.toothError n).errLimit n

/-- A second-wheel edge in LIMP acts as a tooth (R45, R48, R59, R60, R509). `rising` is the edge's direction as the forward
pattern has it. A reversal re-crosses the last edge, and the angle returns to it; each later edge is the next pattern
edge in the direction of motion. -/
def State.limpIdx (s : State) (n : Nat) (rising rev : Bool) (ticks : Option Nat) : State :=
  let x := s.shaft n
  let l := s.cyclePos n
  if rev ≠ x.dir then
    if (s.seg n x.limpSeg).1 = rising then
      (s.setShaft n { x with limpPrev := none, limpWait := none }).limpAccept n x.limpSeg rev x.place none .follow
    else s.shaftLose n 8
  else
    let len := s.segAhead n rev x.limpSeg
    let tp := if s.shaftTpred n = 0 then x.lastTpred else s.shaftTpred n
    let k := match ticks with
      | some t => if tp = 0 then len else Nat.min len (nearPos t tp)
      | none => len
    let here := s.edgePos n x.limpSeg
    let e := if rev then (x.limpSeg + s.nseg n - 1) % s.nseg n else (x.limpSeg + 1) % s.nseg n
    if s.matchEdge n (if rev then here + l - k % l else here + k) rising = some e then
      let p := s.placeMoved n x.place (signedHalves rev len)
      let iv := if x.still ∨ x.skipNext then none else ticks.map (s.segInterval n len)
      let s1 := s.setShaft n { x with limpSeg := e, hp := p.hp, turn := p.turn, cycleBase := p.cycleBase }
      let m := s1.limpMark n e rev iv
      if m.2 then m.1 else m.1.limpAccept n e rev p iv .follow
    else s.shaftLose n 8

/-- SECOND_WHEEL_EDGE (R38). -/
def State.secondEdge (s : State) (n : Nat) (rising : Bool) : State :=
  let x := s.shaft n
  if ¬s.shaftEn n ∨ ¬s.second n ∨ x.st = .unsync then s
  else
    let last := x.idx.head?
    let ticks := last.map fun i => s.time - i.tick
    let rev := s.edgeDir n (s.flag (FBP_STAT (s.shc n SHF_CFG_PORT)) FBP_STAT_DIR)
    let s1 := s.idxSeen n rising none none
    match x.st with
    | .unsync => s
    | .seeking => s1.seekIdx n rising rev
    | .lost => s1.seekIdx n rising rev
    | .gapFound => s1.foundIdx n rising rev
    | .synced => s1.syncedIdx n (rising != rev) rev x.teeth (last.bind IdxEdge.timed) ticks
    | .limp => s1.limpIdx n (rising != rev) rev ticks

/-- The second wheel has been silent for twice the predicted segment time in LIMP (R45). -/
def State.idxLossDue (s : State) (n : Nat) : Bool :=
  let x := s.shaft n
  let tp := if s.shaftTpred n = 0 then x.lastTpred else s.shaftTpred n
  decide (x.st = .limp) && decide (tp ≠ 0) &&
    (match x.idx.head? with
     | some i => decide (i.tick + 2 * s.segAhead n x.dir x.limpSeg * tp ≤ s.time)
     | none => false)

/-- IDX_LOSS (R45). -/
def State.idxLoss (s : State) (n : Nat) : State := if s.idxLossDue n then s.shaftLose n 8 else s

/-! ## Incremental and absolute encoders -/

/-- A place moved by counts of an incremental encoder. -/
def State.countPlace (s : State) (n : Nat) (p : Place) (d : Int) : Place :=
  let l : Int := (s.cyclePos n : Nat)
  let c : Int := ((p.turn * s.positions n + p.hp / 2 : Nat) : Int) + d
  let k := c / l
  let r := (c % l).toNat
  { hp := 2 * (r % s.positions n), turn := r / s.positions n, cycleBase := p.cycleBase + k * s.cycle48 n }

/-- A change of position of the port of an INCR shaft: one accepted edge (R41, R59, R210). `d` is the change in counts,
`rev` the direction of the port's count, `pos` the position it reached. -/
def State.incrEdge (s : State) (n : Nat) (d : Int) (rev0 : Bool) (pos : Nat) : State :=
  let x := s.shaft n
  if ¬s.shaftEn n ∨ x.st = .unsync then s
  else
    let rev := s.edgeDir n rev0
    let dt := (s.mainTicks n).getD 0
    let r := if x.lastMain.isSome then ratio dt (s.shaftTpred n) else none
    let p := s.countPlace n x.place d
    let placed := decide (x.st = .synced) || decide (x.st = .gapFound)
    let iv := s.enters n rev
      { norm := dt, ticks := dt
        span := if placed then (s.placeAngle n p - s.placeAngle n x.place).natAbs else d.natAbs * s.perPos n }
    let run := s.relRunWith n r iv.isSome
    let s0 := s.setShaft n { x with relRun := run }
    let s1 :=
      match x.st with
      | .synced => s0.movedEdge n rev iv p .follow
      | .gapFound =>
        if rev ≠ x.dir then (s0.heldEdge n rev iv).shaftSeek n 13
        else
          (s0.setShaft n { s0.shaft n with hp := 2 * (pos % s.positions n), turn := p.turn }).heldEdge n rev iv
      | .limp => s0.limpTooth n rev dt d.natAbs
      | _ =>
        if s.flag (SHF_CFG n) SHF_CFG_REL_OK ∧ x.st = SyncState.seeking ∧ s.noMarks n ∧ 3 ≤ run then
          s0.relSync n rev iv (2 * (pos % s.positions n))
        else s0.heldEdge n rev iv
    if x.st = .limp then s1 else s1.mainSeen n d.natAbs

/-- What an index event of a port is to an INCR shaft (R213, R214). -/
inductive IndexMark where
  | ref | pass | fail
  deriving DecidableEq, Repr

/-- An index event delivered to an INCR shaft as a reference mark (R43, R45, R510). -/
def State.incrMark (s : State) (n : Nat) (o : IndexMark) (rev0 : Bool) (pos : Nat) : State :=
  let x := s.shaft n
  let hp := 2 * (pos % s.positions n)
  if ¬s.shaftEn n ∨ s.edgeDir n rev0 then s
  else
    match x.st with
    | .gapFound =>
      if o = .fail then s.shaftSeek n 5
      else if o = .pass ∧ (s.turns n = 1 ∨ x.turnFixed) then
        s.syncBetween n (if s.turns n = 1 then 0 else x.turn) hp 4
      else s
    | SyncState.seeking | SyncState.lost =>
      if o ≠ .fail ∧ 3 ≤ x.hist.length then
        (s.setShaft n { x with st := .gapFound, cause := 3, hp := hp, turn := 0, posKnown := true, turnFixed := false,
                               lastGap := none }).shaftTell n
      else s
    | _ => s

/-- A bad frame of the port of an ABS shaft (R45). -/
def State.absBadFrame (s : State) (n : Nat) : State :=
  let x := s.shaft n
  let s1 := s.setShaft n { x with absBad := x.absBad + 1, absGood := 0 }
  if x.st = .synced ∧ s.fld (SHF_WIN n) SHF_WIN_ERR_MAX < x.absBad + 1 then s1.shaftLose n 6 else s1

/-- A valid frame of the port of an ABS shaft: an edge stamped with its sample tick (R45, R49, R53, R219). `turns` and
`frac` are the turn count and the angle within the turn in 2^-16 ang, `d` the unwrapped change of the angle since the
frame before, `rev0` the direction of the port. -/
def State.absFrame (s : State) (n turns frac : Nat) (d : Int) (rev0 : Bool) (sample : Nat) : State :=
  let x := s.shaft n
  if ¬s.shaftEn n ∨ x.st = .unsync then s
  else
    let rev := s.edgeDir n rev0
    let dt := sample - x.lastMain.getD sample
    let iv := s.enters n rev { norm := dt, span := d.natAbs, ticks := dt }
    let turn := turns % s.turns n
    let s0 := s.setShaft n { x with absBad := 0, absGood := x.absGood + 1 }
    let go (t : State) (a : Int) (mode : Landing) : State :=
      t.acceptEdge n { rev := rev, iv := iv, land := mode,
                       place := { hp := 0, turn := turn, cycleBase := a - ((turn * 2 ^ 48 + frac : Nat) : Int) },
                       angle := a, span := d.natAbs, per := d.natAbs }
    let s1 :=
      match x.st with
      | .synced => go s0 (x.base + d) .follow
      | .unsync => s0
      | _ =>
        if 2 ≤ x.absGood + 1 then
          let a := s.forwardRule n (s.shaftAt n).disp (s.offset48 n + ((turn * 2 ^ 48 + frac : Nat) : Int))
          (go (s0.setShaft n ((s0.shaft n).toSynced 4 false)) a .place).shaftSynced n
        else go s0 0 .hold
    s1.setShaft n { s1.shaft n with lastMain := some sample, mainTp := s1.shaftTpred n }

/-! ## Port faults (R45, R229) -/

/-- A port fault as shafts see it: a SYNCED shaft of the main port, or a LIMP shaft of the second wheel's port, is lost. -/
def State.shaftsPortFault (s : State) (p : Nat) : State :=
  State.forEach 16 (fun t n =>
    let x := t.shaft n
    if t.shaftEn n ∧ t.shaftSrc n ≤ 2 ∧ t.shc n SHF_CFG_PORT = p ∧ x.st = .synced then t.shaftLose n 10
    else if t.shaftEn n ∧ t.flag (SHF_CFG n) SHF_CFG_IDX_EN ∧ t.shc n SHF_CFG_IDX_PORT = p ∧ x.st = .limp then
      t.shaftLose n 8
    else t) s

/-! ## Standstill and interpolation -/

/-- STILL_TO has passed without an accepted edge, or without a SPEED other than 0 on a VIRT_PROFILE shaft (R58, R67). -/
def State.stillDue (s : State) (n : Nat) : Bool :=
  let x := s.shaft n
  s.shaftEn n && decide (s.shaftSrc n ≠ 3) && !x.still &&
    decide (x.stillRef + s.fld (SHF_MOTION n) SHF_MOTION_STILL_TO * ticksMs ≤ s.time)

/-- STILL becomes 1 on a shaft where it was 0: SHFn_MCNT counts it (R58). -/
def State.countStill (s : State) (n : Nat) : State := s.count (SHF_MCNT n) SHF_MCNT_STILLS 1

/-- STILL_TIMEOUT (R58, R78). -/
def State.stillTimeout (s : State) (n : Nat) : State :=
  if s.stillDue n then
    let x := s.shaft n
    ((s.setShaft n { x with still := true, speed := 0, hist := [], need := 2, rate := 0, delta := 0,
                            relRun := 0 }).countStill n).almStill n
  else s

/-- The angles of a real shaft at a microstep count (R49): the interpolated angle in whole microsteps, the reported angle,
which CATCHUP brings up at twice the rate, and φ, the same with the fraction bits of mu (R73). -/
def Shaft.moveTo (x : Shaft) (mu : Nat) : Shaft :=
  let tru := x.truAt (mu / 65536 * 65536)
  let exact := x.truAt mu
  let disp := if x.catching then nearer x.dir (x.disp + 2 * (tru - x.tru)) tru else tru
  let fine := if x.catching then nearer x.dir (x.fine + 2 * (exact - x.truAt x.mu)) exact else exact
  { x with mu := mu, tru := tru, disp := disp, fine := fine, catching := x.catching && decide (disp ≠ tru),
           delta := fine - x.fine }

/-- HALTED: the microstep count stands at its limit before the next edge, and the angle is held there (R50). -/
def State.shaftHalt (s : State) (n : Nat) : State :=
  let x := s.shaft n
  if s.angValid n ∧ ¬s.shaftVirtual n ∧ ¬x.hist.isEmpty ∧ x.mu < muLimit then
    (s.setShaft n (x.moveTo muLimit)).shaftRevs n
  else s

/-- CATCHUP_LAG_CLOSED: the reported angle reaches the interpolated angle (R49). -/
def State.catchClosed (s : State) (n : Nat) : State :=
  let x := s.shaft n
  if x.catching then
    (s.setShaft n { x with disp := x.tru, catching := false,
                           fine := if s.shaftVirtual n then x.tru else x.truAt x.mu }).shaftRevs n
  else s

/-- The snapshot that edges of this tick are judged on (R49). -/
def Shaft.snap (x : Shaft) (t : Nat) : Interp :=
  { tick := t, mu := x.mu, tru := x.tru, disp := x.disp, fine := x.fine, catching := x.catching, delta := x.delta,
    limit := x.limit }

/-- The every-tick step of R49 on a real shaft. -/
def Shaft.tick (x : Shaft) (t : Nat) : Shaft :=
  { x.moveTo (Nat.min (x.mu + x.rate) muLimit) with pre := x.snap t }

/-! ## Virtual shafts (R65, R67, R70) -/

/-- The projection of a broadcast at the present fabric time, in 2^-16 ang (R65). -/
def State.vProject (s : State) (b : Broadcast) : Int :=
  b.angle * 65536 + b.speed * 65536 * (s.fabNs16 - b.sample * 65536) / 1000000000

/-- A step of a VIRT_FABRIC shaft in the tick that begins (R65). DESIGN CHOICE: MISSED counts the periods of 50 µs without
a broadcast from the tick of EN on, before a first broadcast too (log 58). -/
def State.fabricTick (s : State) (n : Nat) : State :=
  let x := s.shaft n
  let miss := decide (x.stillRef + (x.vMissed + 1) * 20000 ≤ s.time)
  let s0 := if miss then s.count (SHF_VSTAT n) SHF_VSTAT_MISSED 1 else s
  let y := { x with pre := x.snap s.time, vMissed := if miss then x.vMissed + 1 else x.vMissed }
  match x.st, x.vb with
  | .synced, some b =>
    let p := s.vProject b
    let behind := if x.dir then decide (x.disp < p) else decide (p < x.disp)
    let c := x.disp + 2 * (p - x.tru)
    let disp :=
      if x.vHold then (if behind then x.disp else p)
      else if x.catching then (if x.dir then Max.max c p else Min.min c p)
      else p
    (s0.setShaft n { y with tru := p, disp := disp, fine := disp, vHold := x.vHold && behind,
                            catching := x.catching && decide (disp ≠ p), delta := disp - x.disp }).shaftRevs n
  | _, _ => s0.setShaft n y

/-- A step of a VIRT_PROFILE shaft in the tick that begins: the speed moves first (R67). -/
def State.profileTick (s : State) (n : Nat) : State :=
  let x := s.shaft n
  if x.st = .synced then
    let goal : Int := signed 32 (s.rg (SHF_PROF_SPEED n)).toNat * 400000
    let a : Int := ((s.rg (SHF_PROF_ACCEL n)).toNat : Int)
    let v :=
      if a = 0 then goal
      else if x.profSpeed < goal then Min.min goal (x.profSpeed + a)
      else Max.max goal (x.profSpeed - a)
    let ang := x.profAngle + v * 65536 * 2 ^ 32 / (400000 * 400000000)
    let disp := ang / 65536
    let moving := decide (divT v 400000 ≠ 0)
    (s.setShaft n { x with pre := x.snap s.time, profSpeed := v, profAngle := ang, tru := disp, disp := disp,
                           fine := disp, base := disp, delta := disp - x.disp, still := x.still && !moving,
                           need := if moving then 0 else x.need,
                           stillRef := if moving then s.time else x.stillRef }).shaftRevs n
  else s

/-- The step that a shaft takes in the tick that begins (R49, R65, R67). -/
def State.shaftTick (s : State) (n : Nat) : State :=
  if ¬s.shaftEn n then s
  else if s.shaftSrc n = 3 then s.fabricTick n
  else if s.shaftSrc n = 4 then s.profileTick n
  else if s.angValid n then (s.setShaft n ((s.shaft n).tick s.time)).shaftRevs n
  else s.setShaft n { s.shaft n with pre := (s.shaft n).snap s.time }

/-- A recomputation point of a virtual shaft is due (R70). DESIGN CHOICE: the 256 ticks are counted from engine time 0
(log 58). -/
def State.virtDue (s : State) (n : Nat) : Bool :=
  s.shaftEn n && s.shaftVirtual n && decide (s.time % 256 = 0) &&
    decide ((s.shaft n).recompAt ≠ some s.time)

/-- VIRT_RECOMPUTE (R70 to R72): ρ and the horizon follow the present speed. -/
def State.virtRecompute (s : State) (n : Nat) : State :=
  if s.shaftEn n ∧ s.shaftVirtual n then
    let x := s.shaft n
    let v := s.speedOut n
    (s.setShaft n { x with recompAt := some s.time, rho := v.natAbs * 2 ^ 32 / 400000000,
                           horizon := x.disp + 512 * (v * 2 ^ 32 / 400000000) }).almRecompute n
  else s

/-- The speed of a VIRT_PROFILE shaft has taken the sign opposite to DIR (R67). -/
def State.profileTurned (s : State) (n : Nat) : Bool :=
  let v := s.speedOut n
  s.shaftEn n && decide (s.shaftSrc n = 4) && decide ((s.shaft n).st = .synced) &&
    (if (s.shaft n).dir then decide (0 < v) else decide (v < 0))

/-- PROFILE_REVERSAL (R60, R67). -/
def State.profileReversal (s : State) (n : Nat) : State :=
  if s.profileTurned n then (s.setShaft n { s.shaft n with dir := !(s.shaft n).dir }).shaftReverse n else s

/-- VIRT_HOLD_END: the projection has reached the held angle, and the angle moves on (R65). -/
def State.virtHoldEnd (s : State) (n : Nat) : State :=
  let x := s.shaft n
  match x.vHold, x.vb with
  | true, some b =>
    let p := s.vProject b
    if (if x.dir then decide (x.disp < p) else decide (p < x.disp)) then s
    else (s.setShaft n { x with vHold := false, tru := p, disp := p, fine := p }).shaftRevs n
  | _, _ => s

/-- TIMEOUT broadcast periods have passed without a valid broadcast (R65). -/
def State.virtTimeoutDue (s : State) (n : Nat) : Bool :=
  let x := s.shaft n
  s.shaftEn n && decide (s.shaftSrc n = 3) && decide (x.st = .synced) &&
    decide (x.stillRef + s.fld (SHF_VSRC n) SHF_VSRC_TIMEOUT * 20000 ≤ s.time)

/-- VIRT_TIMEOUT (R65). -/
def State.virtTimeout (s : State) (n : Nat) : State := if s.virtTimeoutDue n then s.shaftLose n 7 else s

/-- A valid broadcast arrives at a VIRT_FABRIC shaft (R65, R398): the move under INTERP, a hold, then a reversal, STILL and
the return to SYNCED, then the late starts (R78, R86). DIR is reported as carried; a reversal is a change of the sign of
the speed carried. -/
def State.virtArrive (s : State) (n : Nat) (b : Broadcast) (valid : Bool) : State :=
  let x := s.shaft n
  if ¬valid then
    if x.st = .synced then s.shaftLose n 7 else s
  else
    let p := s.vProject b
    let rev := b.dir
    let sign := if b.speed = 0 then x.vSign else decide (b.speed < 0)
    let turned := x.vb.isSome && decide (sign ≠ x.vSign)
    let catchup := s.flag (SHF_CFG n) SHF_CFG_INTERP
    let l1 := if x.catching then [(x.disp, x.tru)] else []
    let disp0 := if x.catching then x.tru else x.disp
    let ahead := if rev then decide (p < disp0) else decide (disp0 < p)
    let same := decide (p = disp0)
    let y := { x with
      vb := some b
      stillRef := s.time
      vMissed := 0
      speed := b.speed
      still := b.still
      dir := rev
      vSign := sign
      tru := p
      movedAt := some s.time
      jumped := ahead && !catchup
      disp := if ahead && !catchup then p else disp0
      fine := if ahead && !catchup then p else disp0
      catching := ahead && catchup
      vHold := !ahead && !same }
    let late := if ahead && !catchup then l1 ++ [(disp0, p)] else l1
    let back := decide (x.st ≠ .synced)
    let z := if back then y.toSynced 9 false else y
    let is := s.lateIn n late
    let s1 := s.setShaft n z
    let s2 := if turned then s1.shaftReverse n else s1
    let s3 := if b.still ∧ ¬x.still then (s2.countStill n).almStill n else s2
    ((if back then s3.shaftSynced n else s3).almLates is).shaftRevs n

/-! ## Enabling and disabling (R33, R34, R45, R67) -/

/-- SHAFT_ENABLE: the shaft leaves UNSYNC (R34, R39, R45, R58, R67). DIR stays that of the last accepted edge (R59), but a
forward-only shaft reads 0 (R61). -/
def State.shaftEnable (s : State) (n : Nat) : State :=
  let x := s.shaft n
  let profile := decide (s.shaftSrc n = 4)
  let y := { x with
    st := if profile then SyncState.synced else SyncState.seeking
    cause := 1
    rel := false
    limpOk := s.limpAllowed n
    errCnt := 0
    turnFixed := false
    posKnown := false
    hist := []
    lastEdge := none
    lastMain := none
    mainTp := 0
    speed := 0
    still := true
    stillRef := s.time
    skipNext := false
    vSign := false
    need := if profile then 0 else 2
    lastTpred := 0
    half := none
    rho := 0
    rate := 0
    delta := 0
    catching := false
    relRun := 0
    lastGap := none
    teeth := 0
    idx := []
    limpPrev := none
    limpWait := none
    maxTurn := some (x.disp / 2 ^ 48)
    vb := none
    vMissed := 0
    vHold := false
    profSpeed := 0
    profAngle := x.disp * 65536
    tru := x.disp
    fine := x.disp
    base := x.disp
    horizon := x.disp
    dir := x.dir && !(decide (s.shaftSrc n = 0) && decide (s.shc n SHF_CFG_DIR_SRC = 0))
    absGood := 0
    absBad := 0 }
  let s1 := (s.setShaft n y).shaftTell n
  if profile then (s1.faultEnd fltShaftLimp n).faultEnd fltShaftLost n else s1

/-- SHAFT_DISABLE: the shaft returns to UNSYNC and its events are dropped (R45, R58, R151). DEDUCED: STILLS counts a
setting of STILL that finds it 0, here and in the timeout; the STILL that EN set leaves finds it 1 already (log 58). -/
def State.shaftDisable (s : State) (n : Nat) : State :=
  let x := s.shaft n
  let s0 := s.setShaft n { x with st := .unsync, cause := 2, rel := false, still := true, hist := [], speed := 0,
                                  need := 2, rate := 0, delta := 0, catching := false, vHold := false, profSpeed := 0 }
  let s1 := if x.still then s0 else s0.countStill n
  ((((s1.almDrop n).angLost n).lanesSuspect n).shaftTell n)

/-! ## Registers -/

/-- A write of SHFn_CFG (R33, R34). -/
def State.writeShaftCfg (s : State) (n : Nat) (w : Wr) : State × Status :=
  if w.was SHF_CFG_EN = 1 then
    if w.changes (~~~ SHF_CFG_EN.mask) then (s, .state)
    else if w.fld SHF_CFG_EN = 0 then ((s.plainWrite w).shaftDisable n, .ok)
    else (s, .ok)
  else if w.fld SHF_CFG_EN = 1 then
    let t := s.plainWrite w
    if t.shaftCfgOk n then (t.shaftEnable n, .ok) else (s, .range)
  else (s.plainWrite w, .ok)

/-- A write of SHFn_PH_CFG (R63). -/
def State.writePhaseCfg (s : State) (n : Nat) (w : Wr) : State × Status :=
  if w.was SHF_PH_CFG_PH_EN = 1 ∧
      w.changes (SHF_PH_CFG_SAMPLE.mask ||| SHF_PH_CFG_WIN.mask ||| SHF_PH_CFG_REF.mask) then (s, .state)
  else if w.was SHF_PH_CFG_PH_EN = 0 ∧ w.fld SHF_PH_CFG_PH_EN = 1 ∧
      (w.fld SHF_PH_CFG_SAMPLE = 3 ∨ s.fld (SHF_PH_RATIO n) SHF_PH_RATIO_NUM = 0 ∨
        s.fld (SHF_PH_RATIO n) SHF_PH_RATIO_DEN = 0) then (s, .range)
  else
    let t := s.plainWrite w
    let u := if w.acts SHF_PH_CFG_PH_CLR then t.phaseClear n else t
    (if w.was SHF_PH_CFG_PH_EN = 0 ∧ w.fld SHF_PH_CFG_PH_EN = 1 then
       u.setShaft n { u.shaft n with phWin := [], phSeen := false }
     else u, .ok)

/-- A write to a register of shaft `n` (R33, R51, R58, R63, R64, R65). -/
def State.writeShaft (s : State) (n : Nat) (w : Wr) : State × Status :=
  let en := s.shaftEn n
  if w.base = SHF_CFG 0 then s.writeShaftCfg n w
  else if w.base = SHF_WIN 0 then
    if en ∧ w.changes (~~~ SHF_WIN_ERR_MAX.mask) then (s, .state) else (s.plainWrite w, .ok)
  else if w.base = SHF_WHEEL 0 ∨ w.base = SHF_GAP 0 0 ∨ w.base = SHF_SEG 0 0 then
    if en ∧ w.changes 0xFFFFFFFF then (s, .state) else (s.plainWrite w, .ok)
  else if w.base = SHF_OFFSET 0 then
    if en then (s, .state) else (s.plainWrite w, .ok)
  else if w.base = SHF_MOTION 0 then
    if w.fld SHF_MOTION_STILL_TO = 0 ∨ 10000 < w.fld SHF_MOTION_STILL_TO then (s, .range) else (s.plainWrite w, .ok)
  else if w.base = SHF_PH_CFG 0 then s.writePhaseCfg n w
  else if w.base = SHF_PH_RATIO 0 ∨ w.base = SHF_PH_BIAS 0 then
    if s.flag (SHF_PH_CFG n) SHF_PH_CFG_PH_EN ∧ w.changes 0xFFFFFFFF then (s, .state) else (s.plainWrite w, .ok)
  else if w.base = SHF_VSRC 0 then
    if en then (s, .state)
    else if w.fld SHF_VSRC_TIMEOUT < 2 ∨ w.fld SHF_VSRC_SRC_ADDR = 0 ∨ 0xFA < w.fld SHF_VSRC_SRC_ADDR then (s, .range)
    else (s.plainWrite w, .ok)
  else if w.base = SHF_PUB 0 then
    if w.fld SHF_PUB_PUB_EN = 1 ∧ s.shaftSrc n = 3 then (s, .state) else (s.plainWrite w, .ok)
  else (s.plainWrite w, .ok)

/-- CYCLE (R51). -/
def State.cycleOut (s : State) (n : Nat) : Nat :=
  let m : Int := (s.cycleAng n : Nat)
  (s.phiInt n % m).toNat / s.turns n

/-- AGE of the newest valid broadcast in µs. -/
def State.vAge (s : State) (n : Nat) : Nat :=
  match (s.shaft n).vb with
  | some b => satTo 0xFFFF ((s.time - b.tick) / ticksUs)
  | none => 0xFFFF

/-- A register of shaft `n` as it reads (R45, R51, R56, R62). -/
def State.viewShaft (s : State) (b n a : Nat) : Word :=
  let x := s.shaft n
  if b = SHF_STATE 0 then BitVec.ofNat 32 (s.shaftWord n)
  else if b = SHF_TOOTH 0 then
    BitVec.ofNat 32 (x.mu / 65536 * 65536 + x.turn % 8 * 1024 + x.hp / 2 % 1024)
  else if b = SHF_ERR 0 then (s.rg a).setF SHF_ERR_ERR_CNT x.errCnt
  else if b = SHF_ANGLE_LO 0 then BitVec.ofNat 32 (unsigned 64 (s.phiInt n))
  else if b = SHF_ANGLE_HI 0 then BitVec.ofNat 32 (unsigned 64 (s.phiInt n) / 2 ^ 32)
  else if b = SHF_CYCLE 0 then BitVec.ofNat 32 (s.cycleOut n)
  else if b = SHF_SPEED_LO 0 then BitVec.ofNat 32 (unsigned 32 (s.speedOut n))
  else if b = SHF_SPEED_HI 0 then
    BitVec.ofNat 32 (b2n x.hist.isEmpty * 8 + b2n x.dir * 4 + b2n x.still * 2 +
      b2n (s.spdValid n))
  else if b = SHF_TPRED 0 then BitVec.ofNat 32 (s.shaftTpred n)
  else if b = SHF_PH_STAT 0 then (s.rg a).setF SHF_PH_STAT_PH_VALID (b2n (s.phaseRuns n))
  else if b = SHF_VSTAT 0 then (s.rg a).setF SHF_VSTAT_AGE (s.vAge n)
  else s.rg a

end Sys2Proof.Machine
end

