-- ==== Sys2Proof/Machine/Ephemeris.lean ====
section
/-! DEFINITION. The Ephemeris (R139 to R163): lanes, slots, stations and their actions, transfers, handoffs, retirement,
and the product commands. -/

namespace Sys2Proof.Machine

/-! ## Lanes -/

/-- A field of lane `n`'s configuration. -/
def State.lcf (s : State) (n : Nat) (f : Fld) : Nat := s.fld (EPH_L_CFG n) f
def State.laneEn (s : State) (n : Nat) : Bool := s.flag (EPH_L_CFG n) EPH_L_CFG_EN
def State.laneShaft (s : State) (n : Nat) : Nat := s.lcf n EPH_L_CFG_SHAFT
def State.laneSlots (s : State) (n : Nat) : Nat := s.fld (EPH_L_SLOTS n) EPH_L_SLOTS_SLOTS
def State.laneExit (s : State) (n : Nat) : Nat := s.rg64 (EPH_L_EXIT_LO n)
def State.lanePwin (s : State) (n : Nat) : Nat := (s.rg (EPH_L_PWIN n)).toNat

/-- φ of a lane's shaft in 2^-16 ang, and in ang. -/
def State.lanePhi (s : State) (n : Nat) : Int := s.phi (s.laneShaft n)
def State.lanePhiInt (s : State) (n : Nat) : Int := s.phiInt (s.laneShaft n)

/-- Lane `n` acts: enabled, its shaft's angle valid and moving forward (R144, R146, R151). -/
def State.laneMoves (s : State) (n : Nat) : Bool := s.laneEn n && s.forward (s.laneShaft n)

/-- φ has reached an angle in ang. -/
def State.lanePassed (s : State) (n : Nat) (a : Int) : Bool := decide (a * 65536 ≤ s.lanePhi n)

/-- Offset of slot `k` from the start of the cycle (R142). -/
def State.slotOfs (s : State) (n k : Nat) : Int :=
  let l := s.cycleAng (s.laneShaft n)
  ((s.rg (EPH_L_SLOT0 n)).toNat + (k * l + s.laneSlots n / 2) / s.laneSlots n : Nat)

/-- The anchor of slot `k` of cycle `c` (R142): the cycle angle is 0 at multiples of the machine cycle (R51). -/
def State.slotAnchor (s : State) (n : Nat) (c : Int) (k : Nat) : Int :=
  c * (s.cycleAng (s.laneShaft n) : Nat) + s.slotOfs n k

/-- The first slot at or above an angle: its anchor and its number. -/
def State.slotFrom (s : State) (n : Nat) (a : Int) : Int × Nat :=
  let l : Int := (s.cycleAng (s.laneShaft n) : Nat)
  let rel := a - (s.rg (EPH_L_SLOT0 n)).toNat
  let c := rel / l
  let k0 := ((rel % l).toNat * s.laneSlots n / s.cycleAng (s.laneShaft n)) - 1
  match (List.range 4).find? fun i => decide (k0 + i < s.laneSlots n) && decide (a ≤ s.slotAnchor n c (k0 + i)) with
  | some i => (s.slotAnchor n c (k0 + i), k0 + i)
  | none => (s.slotAnchor n (c + 1) 0, 0)

/-- The slot nearest to an angle; ties go to the lower slot (R153). -/
def State.slotNear (s : State) (n : Nat) (raw : Int) : Int × Nat :=
  let up := s.slotFrom n raw
  let k := if up.2 = 0 then s.laneSlots n - 1 else up.2 - 1
  let l : Int := (s.cycleAng (s.laneShaft n) : Nat)
  let down := if up.2 = 0 then s.slotAnchor n (up.1 / l - 2) k else s.slotAnchor n ((up.1 - s.slotOfs n up.2) / l) k
  let fix := if up.2 = 0 then s.slotAnchor n ((up.1 - s.slotOfs n 0) / l - 1) k else down
  if raw - fix ≤ up.1 - raw then (fix, k) else up

/-- The slot number of an unslotted lane (R139). -/
def noSlot : Nat := 0xFFFF

/-- An anchor snapped where a snap is asked for and the lane is slotted: anchor, slot and error (R153). -/
def State.snap (s : State) (n : Nat) (on : Bool) (raw : Int) : Int × Nat × Nat :=
  if 0 < s.laneSlots n then
    let near := s.slotNear n raw
    if on then (near.1, near.2, (near.1 - raw).natAbs) else (raw, near.2, 0)
  else (raw, noSlot, 0)

/-! ## Records and entries (R144, R145) -/

/-- Puts a product at its place in ascending anchor order. -/
def State.placeIn (s : State) (a : Int) (i : Nat) : List Nat → List Nat
  | [] => [i]
  | k :: ks => if a < (s.prod k).anchor then i :: k :: ks else k :: s.placeIn a i ks

/-- A product already on a slotted lane holds the anchor (R145). -/
def State.anchorHeld (s : State) (n : Nat) (a : Int) : Bool :=
  (s.lane n).prods.any fun i => decide ((s.prod i).anchor = a)

/-- A record put on a lane (R145): a clash on a slotted lane marks the newcomer. -/
def State.putOn (s : State) (n i : Nat) (p : Product) : State :=
  let clash := decide (0 < s.laneSlots n) && s.anchorHeld n p.anchor
  let q := if clash then p.mark (pfReject + pfSuspect) else p
  let t := (s.setProd i { q with st := .onLane, lane := n }).setLane n
    { s.lane n with prods := s.placeIn p.anchor i (s.lane n).prods }
  if clash then t.count (EPH_L_CNT_ERR n) EPH_L_CNT_ERR_CLASH 1 else t

/-- Takes a record from the store: never used ones in ascending order, then retired ones, longest retired first (R158). -/
def State.takeRecord (s : State) : Option (State × Nat) :=
  if s.prodFresh < storeSize then some ({ s with prodFresh := s.prodFresh + 1 }, s.prodFresh)
  else
    match s.prodFree with
    | i :: r => some ({ s with prodFree := r }, i)
    | [] => none

/-- An entry or arrival that finds no record (R144). -/
def State.storeFull (s : State) (n : Nat) : State :=
  let t := ((s.count EPH_CNT EPH_CNT_STORE_FULL 1).count (EPH_L_CNT_ERR n) EPH_L_CNT_ERR_REFUSED 1).raise 209 n
  match t.storeFullAt with
  | some a => if a + ticksS ≤ t.time then ({ t with storeFullAt := some t.time } : State).faultEvent fltStoreFull n 1 n else t
  | none => ({ t with storeFullAt := some t.time } : State).faultEvent fltStoreFull n 1 n

/-- The address whose low byte a PID carries: the pair's on a twin member (R139, R407). -/
def State.pidAddr (s : State) : Nat := if s.twinEn then s.pairAddr else s.addr

/-- A new record made on a lane: the state and its index; none where the store is full. -/
def State.makeRecord (s : State) (n : Nat) (a : Int) (slot flags : Nat) (attr user0 : Word) : Option (State × Nat) :=
  s.takeRecord.map fun r =>
    let t := r.1
    let p : Product :=
      { Product.init with
        flags := flags
        pid := t.pidAddr % 256 * 2 ^ 24 + t.pidSeq
        anchor := a
        entryTick := t.time
        entryLane := n
        slot := slot
        attr := attr
        user0 := user0 }
    (({ t with pidSeq := (t.pidSeq + 1) % 2 ^ 24 } : State).putOn n r.2 p, r.2)

/-- An entry of the lane's own (R144). -/
def State.enter (s : State) (n : Nat) (a : Int) (slot flags : Nat) : State :=
  match s.makeRecord n a slot flags 0 0 with
  | none => s.storeFull n
  | some r => r.1.count (EPH_L_CNT_IO n) EPH_L_CNT_IO_ENTERED 1

/-! ## Stations (R146, R147) -/

def State.stnEn (s : State) (k : Nat) : Bool := s.flag (EPH_ST_CFG k) EPH_ST_CFG_EN
def State.stnLane (s : State) (k : Nat) : Nat := s.fld (EPH_ST_CFG k) EPH_ST_CFG_LANE
def State.stnOfs (s : State) (k : Nat) : Nat := s.rg64 (EPH_ST_OFS_LO k)

/-- Station `k` has fired for a product, or passes it over. -/
def Product.firedBy (p : Product) (k : Nat) : Bool := bitOf p.fired k || bitOf p.passed k
def Product.setFired (p : Product) (k : Nat) : Product := { p with fired := Nat.lor p.fired (2 ^ k) }

/-- Station `k` passes a product over, or no longer does. -/
def Product.setPassed (p : Product) (k : Nat) (b : Bool) : Product :=
  if bitOf p.passed k = b then p else { p with passed := Nat.xor p.passed (2 ^ k) }

/-- φ is at or above the firing angle of station `k` for a product. -/
def State.stnReached (s : State) (k : Nat) (p : Product) : Bool :=
  s.lanePassed (s.stnLane k) (p.anchor + (s.stnOfs k : Nat))

/-- Stations of the lane that an inserted product finds behind it (R147): with LATE = 0 each counts a skip. -/
def State.skipStations (s : State) (n i : Nat) : State :=
  State.forEach 64 (fun t k =>
    let p := t.prod i
    if t.stnEn k ∧ t.stnLane k = n ∧ ¬p.firedBy k ∧ t.stnReached k p ∧ ¬t.flag (EPH_ST_CFG k) EPH_ST_CFG_LATE then
      (t.setProd i (p.setPassed k true)).count (EPH_ST_CNT k) EPH_ST_CNT_SKIPPED 1
    else t) s

/-- A station enabled passes over the products whose firing angle is at or below φ, and only those (R146). -/
def State.stnArm (s : State) (k : Nat) : State :=
  (s.lane (s.stnLane k)).prods.foldl (fun t i => t.setProd i ((t.prod i).setPassed k (t.stnReached k (t.prod i)))) s

/-! ## Retirement (R158) -/

/-- A record taken from its lane. -/
def State.takeOff (s : State) (i : Nat) : State :=
  let n := (s.prod i).lane
  s.setLane n { s.lane n with prods := (s.lane n).prods.filter fun k => !decide (k = i) }

/-- The part of a retirement that a lane disable shares: the state and the events whose PROD_VALID cleared. -/
def State.retireQuiet (s : State) (i : Nat) : State × Nat :=
  let t := (s.takeOff i).setProd i { s.prod i with st := .retired }
  ({ t with prodFree := t.prodFree ++ [i] } : State).almForget i

/-- The counts and the notification of a retirement. -/
def State.retireCount (s : State) (i : Nat) : State :=
  let p := s.prod i
  let n := p.lane
  let s1 := s.count (EPH_L_CNT_IO n) EPH_L_CNT_IO_RETIRED 1
  let s2 := if p.has pfReject then s1.count (EPH_L_CNT_REJ n) EPH_L_CNT_REJ_REJECTED 1 else s1
  let s3 := if p.has pfCodeMissed then s2.count (EPH_L_CNT_REJ n) EPH_L_CNT_REJ_MISSED 1 else s2
  if s.lcf n EPH_L_CFG_RET_NTF = 1 ∧ (p.has pfReject ∨ p.has pfCodeMissed) then s3.raise (192 + n) i else s3

/-- A retirement: the state and the events whose PROD_VALID cleared. -/
def State.retire (s : State) (i : Nat) : State × Nat :=
  let r := s.retireQuiet i
  (r.1.retireCount i, r.2)

/-- PRODUCT_EXIT: the products of lane `n` that have reached their exit retire (R158). -/
def State.exitDue (s : State) (n : Nat) : List Nat :=
  if s.laneMoves n then
    (s.lane n).prods.filter fun i => s.lanePassed n ((s.prod i).anchor + (s.laneExit n : Nat))
  else []
def State.productExit (s : State) (n : Nat) : State := (s.exitDue n).foldl (fun t i => (t.retire i).1) s

/-- LANE_DISABLE: every product of the lane retires without actions and counts in DISCARD alone (R158). -/
def State.laneClear (s : State) (n : Nat) : State :=
  (s.lane n).prods.foldl (fun t i => (t.retireQuiet i).1.count (EPH_L_CNT_ERR n) EPH_L_CNT_ERR_DISCARD 1) s

/-! ## Slots and presence (R143, R144) -/

/-- The presence line of a lane is active. -/
def State.presence (s : State) (n : Nat) : Bool :=
  s.line (s.fld (EPH_L_IO n) EPH_L_IO_PRES_LINE) != s.flag (EPH_L_IO n) EPH_L_IO_PRES_POL

/-- The lane makes entries of its own at slots: SLOT_ALL, SLOT_PRESENT, or EXTERNAL with ORPHAN. -/
def State.slotted (s : State) (n : Nat) : Bool :=
  decide (0 < s.laneSlots n) && (decide (s.lcf n EPH_L_CFG_ENTRY ≤ 1) ||
    (decide (s.lcf n EPH_L_CFG_ENTRY = 3) && decide (s.lcf n EPH_L_CFG_ORPHAN = 1)))

/-- The lane fixes its first slot in the first tick with a valid forward angle (R144). -/
def State.fixFirst (s : State) (n : Nat) : State :=
  if s.laneMoves n ∧ s.slotted n ∧ (s.lane n).next.isNone then
    s.setLane n { s.lane n with next := some (s.lanePhiInt n + (s.lanePwin n : Nat) + 1) }
  else s

/-- Slots from an anchor on whose window has begun at an angle, at most `k`. -/
def State.openSlots (s : State) (n : Nat) (phi : Int) : Nat → Int → List Int
  | 0, _ => []
  | k + 1, a =>
    let x := s.slotFrom n a
    if (x.1 - (s.lanePwin n : Nat)) * 65536 ≤ phi then x.1 :: s.openSlots n phi k (x.1 + 1) else []

/-- Slots that one tick may look at. -/
def slotFuel : Nat := 8192

/-- What a tick of a lane contributes (R143, R144): presence in the windows φ lies in, the first slot, and a loss of
ANG_VALID. -/
def State.laneObserve (s : State) (n : Nat) : State :=
  if ¬s.laneEn n ∨ ¬s.slotted n then s
  else if ¬s.angValid (s.laneShaft n) then s.setLane n { s.lane n with gap := true }
  else if ¬s.forward (s.laneShaft n) then s
  else
    let t := s.fixFirst n
    match (t.lane n).next with
    | none => t
    | some a =>
      if t.presence n then
        let phi := t.lanePhi n
        let hits := (t.openSlots n phi slotFuel a).filter fun x =>
          decide (phi < (x + (t.lanePwin n : Nat)) * 65536) && !(t.lane n).seen.contains x
        t.setLane n { t.lane n with seen := (t.lane n).seen ++ hits }
      else t

/-- One slot whose entry point φ has reached (R143). -/
def State.slotEnter (s : State) (n : Nat) (a : Int) (k : Nat) : State :=
  let seen := (s.lane n).seen.contains a
  let t := s.setLane n { s.lane n with next := some (a + 1), seen := (s.lane n).seen.filter fun x => decide (a < x) }
  let mode := s.lcf n EPH_L_CFG_ENTRY
  if mode = 0 then t.enter n a k (if seen then pfPresent else 0)
  else if ¬seen then t
  else if mode = 1 then t.enter n a k pfPresent
  else if t.anchorHeld n a then t
  else t.enter n a k (pfPresent + pfReject + pfSuspect)

/-- The slots whose entry point φ has reached, in ascending order. -/
def State.slotsDue (s : State) (n : Nat) : Nat → List (Int × Nat)
  | 0 => []
  | fuel + 1 =>
    let rec go : Nat → Int → List (Int × Nat)
      | 0, _ => []
      | f + 1, a =>
        let x := s.slotFrom n a
        if s.lanePassed n (x.1 + (s.lanePwin n : Nat)) then x :: go f (x.1 + 1) else []
    match (s.lane n).next with
    | some a => go (fuel + 1) a
    | none => []

/-- SLOT_ENTRY: every slot of lane `n` whose entry point φ has reached is entered, unless it was passed while ANG_VALID
was 0 (R144). -/
def State.slotEntry (s : State) (n : Nat) : State :=
  if s.laneMoves n ∧ s.slotted n then
    let due := s.slotsDue n slotFuel
    if (s.lane n).gap then
      let t := s.setLane n { s.lane n with gap := false }
      match due.getLast? with
      | some x => t.setLane n { t.lane n with next := some (x.1 + 1), seen := (t.lane n).seen.filter fun y => decide (x.1 < y) }
      | none => t
    else due.foldl (fun t x => t.slotEnter n x.1 x.2) s
  else s

/-- A slot entry, or the judgement of a loss of ANG_VALID, is due. -/
def State.slotDue (s : State) (n : Nat) : Bool :=
  s.laneMoves n && s.slotted n && ((s.lane n).gap || !(s.slotsDue n 1).isEmpty)

/-- SENSOR_ENTRY: an active edge of the sensor line (R143, R144). -/
def State.sensorEntry (s : State) (n : Nat) : State :=
  if s.laneMoves n ∧ s.lcf n EPH_L_CFG_ENTRY = 2 then
    let phi := s.lanePhiInt n
    let near := match (s.lane n).lastSensor with
      | some a => decide (phi - a < ((s.rg (EPH_L_MIN_GAP n)).toNat : Int))
      | none => false
    if near then s.count (EPH_L_CNT_ERR n) EPH_L_CNT_ERR_GAP_SHORT 1
    else
      let x := s.snap n (s.lcf n EPH_L_CFG_SNAP = 1) phi
      (s.setLane n { s.lane n with lastSensor := some phi }).enter n x.1 x.2.1 pfPresent
  else s

/-- The lanes whose sensor line's active edge an accepted edge of event line `i` is. -/
def State.sensorLanes (s : State) (i : Nat) (level : Bool) : List Nat :=
  (List.range 16).filter fun n =>
    decide (s.lcf n EPH_L_CFG_ENTRY = 2) && decide (s.fld (EPH_L_IO n) EPH_L_IO_SENS_LINE = i) &&
      (level != s.flag (EPH_L_IO n) EPH_L_IO_SENS_POL)

/-! ## Actions (R149 to R153) -/

/-- The conditions of an action (R149), judged on the record as earlier ticks left it. -/
def condHolds (p : Product) (c : Nat) : Bool :=
  match c with
  | 0 => true
  | 1 => p.has pfPresent
  | 2 => p.has pfPresent && !p.has pfReject
  | 3 => p.has pfPresent && p.has pfReject
  | 4 => !p.has pfPresent
  | 5 => p.has pfPresent && !p.has pfCoded
  | 6 => p.has pfPresent && p.has pfSuspect
  | 7 => p.has pfPresent && !p.has pfSuspect
  | _ => p.has pfPresent && p.has (2 ^ (8 + (c - 8)))

/-- Flags that no request may touch (R141). -/
def fixedFlags : Nat := pfPresent + pfCoded + pfCodeMissed + pfOverspeed + pfHandedOff

/-- The bytes of event template `m`. -/
def State.eventTemplate (s : State) (m : Nat) : List Byte := bytesOfWords ((List.range 8).map fun k => s.rg (EPH_ET m k))

/-- ARM (R150): the state and whether it succeeded. -/
def State.actArm (s : State) (n i m : Nat) : State × Bool :=
  let bs := s.eventTemplate m
  if ¬descReservedOk bs then (s, false)
  else
    let d := EventDesc.ofBytes bs
    let r := s.almArm none
      { d with
        shaft := s.laneShaft n
        fin := (s.prod i).anchor + d.fin
        owner := none
        prodValid := true
        product := i }
    (r.1, decide (r.2.1 = Status.ok))

/-- CODE (R149). -/
def State.actCode (s : State) (i m rl : Nat) : State × Bool :=
  let r := s.postJob s.time m rl (some (i, (s.prod i).pid)) none false
  if r.2.1 = Status.ok then (r.1, true) else (r.1.setProd i ((r.1.prod i).mark pfCodeMissed), false)

/-- SAMPLE (R149). -/
def State.actSample (s : State) (i bit line : Nat) (invert : Bool) : State :=
  let v := s.line line != invert
  let p := s.prod i
  s.setProd i { p with inspect :=
    if v then p.inspect ||| BitVec.ofNat 32 (2 ^ bit) else p.inspect &&& ~~~ BitVec.ofNat 32 (2 ^ bit) }

/-- The bit that a selector picks (R152). -/
def Product.selected (p : Product) (sel : Nat) : Bool :=
  if sel < 32 then bitOf p.inspect.toNat sel
  else if sel < 48 then bitOf p.flags (sel - 32)
  else false

/-- Selector `i` of reject table `t`. -/
def State.rejSel (s : State) (t i : Nat) : Nat := (s.rg (EPH_RJ_SEL t (i / 4))).toNat / 2 ^ (8 * (i % 4)) % 64

/-- VERDICT (R152). -/
def State.actVerdict (s : State) (i t stn : Nat) : State :=
  let p := s.prod i
  let key := (List.range 8).foldl (fun k b => k + b2n (p.selected (s.rejSel t b)) * 2 ^ b) 0
  let v := (s.rg (EPH_RJ_LUT t (key / 4))).toNat / 2 ^ (8 * (key % 4)) % 256
  let q := { p with verdict := v, verdictStn := stn }
  let q1 := if bitOf v 0 then q.mark pfReject else q
  s.setProd i (if bitOf v 1 then q1.mark pfInspectFail else q1)

/-- A phase check of a transfer fails (R153). -/
def State.phaseBad (s : State) (fromShaft dst tol : Nat) : Bool :=
  !s.phaseRuns dst || decide (s.fld (SHF_PH_CFG dst) SHF_PH_CFG_REF ≠ fromShaft) ||
    decide (tol * 65536 < (signed 32 (s.rg (SHF_PHASE dst)).toNat).natAbs)

/-- TRANSFER by map `m` at station `stn` (R153, R154). -/
def State.actTransfer (s : State) (i m stn : Nat) : State × Bool :=
  let a := EPH_TM_CFG m
  let src := s.fld a EPH_TM_CFG_FROM
  let dst := s.fld a EPH_TM_CFG_TO
  let p := s.prod i
  let sh := s.laneShaft dst
  if p.lane ≠ src ∨ ¬s.laneEn dst ∨ ¬s.angValid sh then
    ((s.setProd i (p.mark pfSuspect)).count (EPH_TM_CNT m) EPH_TM_CNT_FAILED 1, false)
  else
    let lag := s.lanePhiInt src - (p.anchor + (s.stnOfs stn : Nat))
    let num : Int := (s.fld (SHF_PH_RATIO sh) SHF_PH_RATIO_NUM : Nat)
    let den : Int := (s.fld (SHF_PH_RATIO sh) SHF_PH_RATIO_DEN : Nat)
    let raw := s.lanePhiInt dst - divT (lag * num) den - signed 32 (s.rg (EPH_TM_TO_OFS m)).toNat
    let x := s.snap dst (s.fld a EPH_TM_CFG_SNAP = 1) raw
    let tol := s.fld (EPH_TM_TOL m) EPH_TM_TOL_TOL
    let bad := decide (tol * 65536 < x.2.2) ||
      (decide (s.fld a EPH_TM_CFG_PH_CHK = 1) && s.phaseBad (s.laneShaft src) sh tol)
    let q := { (p.mark pfPresent) with anchor := x.1, slot := x.2.1, lane := dst }
    let t := (s.takeOff i).setProd i (if bad then q.mark pfSuspect else q)
    let u := if bad then t.count (EPH_TM_CNT m) EPH_TM_CNT_SUSPECT 1 else t
    ({ (u.count (EPH_TM_CNT m) EPH_TM_CNT_MOVED 1) with arrivals := s.arrivals ++ [(i, p.pid)] }, true)

/-- The products transferred in this tick arrive on their lanes, after the firings and retirements of the tick (R147,
R148). -/
def State.arrive (s : State) : State :=
  s.arrivals.foldl (fun t e =>
    let p := t.prod e.1
    if p.st = .onLane ∧ p.pid = e.2 then (t.putOn p.lane e.1 p).skipStations p.lane e.1 else t) { s with arrivals := [] }

/-- The body of a HANDOFF RECORD frame (R399). -/
def handoffBody (lane : Nat) (time : Int) (p : Product) : List Byte :=
  [0, BitVec.ofNat 8 (lane % 16), 0, 0] ++ leBytes 8 (unsigned 64 time) ++ p.bytes

/-- The copy of a record that a handoff sends (R155). -/
def Product.sent (p : Product) : Product := { p with hops := satTo 255 (p.hops + 1) }

/-- A HANDOFF RECORD frame sent; the shadow of a standby sends none. -/
def State.sendHandoff (s : State) (h : Handoff) (retry : Bool) : State :=
  if s.standby then s
  else s.sendFrom s.srcAddr 3 h.dest 1 0 retry (handoffBody h.lane h.time (s.prod h.product).sent)

/-- HANDOFF (R155). -/
def State.actHandoff (s : State) (i dest lane : Nat) : State × Bool :=
  if dest = 0 ∨ 0xFA < dest then (s, false)
  else
    let h : Handoff :=
      { product := i, pid := (s.prod i).pid, dest := dest, lane := lane, time := s.fabNs, since := s.time, resent := false,
        seqs := [s.nextSeq dest 1] }
    let t := (s.takeOff i).setProd i { s.prod i with st := .inHandoff }
    let u : State := { t with handoffs := t.handoffs ++ [h] }
    ((u.sendHandoff h false).count EPH_HO_CNT EPH_HO_CNT_SENT 1, true)

/-- A failed action (R149). -/
def State.actFailed (s : State) (i stn : Nat) : State :=
  let p := s.prod i
  (s.setProd i { p with failed := satTo 255 (p.failed + 1) }).count (EPH_ST_CNT stn) EPH_ST_CNT_ACT_FAIL 1

/-- One action of a list: the state, whether it succeeded, and whether the list goes on. -/
def State.act (s : State) (stn n i : Nat) (w : Word) : State × Bool × Bool :=
  let arg := w.getF EPH_ST_ACT_ARG
  let arg2 := w.getF EPH_ST_ACT_ARG2
  match w.getF EPH_ST_ACT_OP with
  | 1 =>
    let r := s.actArm n i (arg % 64)
    (r.1, r.2, true)
  | 2 =>
    let r := s.actCode i (arg % 64) (arg2 % 8)
    (r.1, r.2, true)
  | 3 => (s.actSample i (arg2 % 32) (arg % 128) (bitOf arg2 7), true, true)
  | 4 => (s.actVerdict i (arg % 4) stn, true, true)
  | 5 => if arg % 4096 < 2048 then (s.setSignal (arg % 4096), true, true) else (s, false, true)
  | 6 => (s.raise (192 + (s.prod i).lane) i, true, true)
  | 7 =>
    let r := s.actTransfer i (arg % 16) stn
    (r.1, r.2, false)
  | 8 =>
    let r := s.actHandoff i arg (arg2 % 16)
    (r.1, r.2, false)
  | 9 => ((s.retire i).1, true, false)
  | 10 =>
    if Nat.land arg fixedFlags ≠ 0 then (s, false, true) else (s.setProd i ((s.prod i).mark arg), true, true)
  | _ => (s, true, false)

/-- The action list of a station for a product, on the record `p0` as earlier ticks left it (R148, R149). -/
def State.runActions (s : State) (stn n i : Nat) (p0 : Product) : List Word → State
  | [] => s
  | w :: ws =>
    if w.getF EPH_ST_ACT_OP = 0 then s
    else if ¬condHolds p0 (w.getF EPH_ST_ACT_COND) then s.runActions stn n i p0 ws
    else
      let r := s.act stn n i w
      let t := if r.2.1 then r.1 else r.1.actFailed i stn
      if r.2.2 then t.runActions stn n i p0 ws else t

/-- The product for which station `k` fires now: the first in anchor order it has not fired for (R146). -/
def State.stnNext (s : State) (k : Nat) : Option Nat :=
  if s.stnEn k ∧ s.laneMoves (s.stnLane k) ∧ FMap.get (fun _ => 0) s.stnTick k ≠ s.time + 1 then
    (s.lane (s.stnLane k)).prods.find? fun i => !(s.prod i).firedBy k && s.stnReached k (s.prod i)
  else none

/-- Commit points at station `k` reached by a product of the given anchor (R348). -/
def State.pointProduct (s : State) (k : Nat) (a : Int) : State :=
  { s with txns := s.txns.map fun t =>
    if t.phase = .pending ∧ t.point.kind = 4 ∧ t.point.param = k ∧ t.point.value ≤ a ∧ t.reached.isNone then
      { t with reached := some s.time }
    else t }

/-- The record of a product as the ticks before have left it, or as it entered in this tick (R148). -/
def State.prodBefore (s : State) (i : Nat) : Product :=
  let p := FMap.get (fun _ => Product.init) s.prodWas i
  if p.st = .onLane ∧ p.pid = (s.prod i).pid ∧ (s.prod i).entryTick ≠ s.time then p else s.prod i

/-- STATION_FIRE: station `k` fires for its next product (R146, R149). -/
def State.stationFire (s : State) (k : Nat) : State :=
  match s.stnNext k with
  | none => s
  | some i =>
    let p0 := s.prodBefore i
    let p1 := { ((s.prod i).setFired k) with lastValid := true, lastStn := k }
    let s1 : State := { (s.setProd i p1) with stnTick := FMap.set (fun _ => 0) s.stnTick k (s.time + 1) }
    let s2 := (s1.count (EPH_ST_CNT k) EPH_ST_CNT_FIRED 1).pointProduct k p1.anchor
    s2.runActions k (s.stnLane k) i p0 ((List.range 8).map fun j => s.rg (EPH_ST_ACT k j))

/-! ## Handoffs (R155 to R157, R399) -/

/-- PIDs of the last arrivals that a duplicate is judged by (R156). -/
def pidMemory : Nat := 256

/-- An acknowledgement frame. -/
def State.handoffAck (s : State) (dest : Nat) (neg : Bool) (pid seq : Nat) : State :=
  s.sendFrom s.srcAddr 3 dest 1 0 false ([1, BitVec.ofNat 8 (b2n neg), 0, 0] ++ leBytes 4 pid ++ leBytes 2 seq)

/-- HANDOFF_RECORD_RECEIVE (R156): the frame's source and SEQ, the lane, t_h and the record. -/
def State.handoffArrive (s : State) (src seq lane : Nat) (th : Int) (rec_ : Product) : State :=
  let n := lane % 16
  let sh := s.laneShaft n
  if s.pidsSeen.contains rec_.pid then
    (s.count EPH_CNT EPH_CNT_HO_DUP 1).handoffAck src false rec_.pid seq
  else if ¬s.laneEn n ∨ ¬s.angValid sh then s.handoffAck src true rec_.pid seq
  else
    match s.takeRecord with
    | none => (s.storeFull n).handoffAck src true rec_.pid seq
    | some (t, i) =>
      let dt := s.fabNs - th
      let ah := s.lanePhiInt n - divT (s.speedOut sh * 65536 * dt) 1000000000
      let x := s.snap n (s.lcf n EPH_L_CFG_SNAP = 1) (ah - (s.rg (EPH_L_HO_OFS n)).toNat)
      let late := decide ((s.fld (EPH_L_HO n) EPH_L_HO_HO_DEADLINE * 1000 : Nat) < dt)
      let far := decide (s.fld (EPH_L_HO n) EPH_L_HO_HO_TOL * 65536 < x.2.2)
      let p0 := { (rec_.unmark pfHandedOff) with
        anchor := x.1, slot := x.2.1, entryTick := s.time, entryLane := n, fired := 0, passed := 0 }
      let p1 := if late then p0.mark (pfSuspect + pfReject) else if far then p0.mark pfSuspect else p0
      let u := (t.putOn n i (p1.mark pfPresent)).count (EPH_L_CNT_IO n) EPH_L_CNT_IO_ENTERED 1
      let v := if late then u.count EPH_HO_CNT EPH_HO_CNT_LATE 1 else u
      let w : State := { v with pidsSeen := (v.pidsSeen ++ [rec_.pid]).drop (v.pidsSeen.length + 1 - pidMemory) }
      ((w.skipStations n i).handoffAck src false rec_.pid seq).mirror 5 [1, rec_.pid]

/-- The end of a handoff at its source (R157). -/
def State.handoffEnd (s : State) (h : Handoff) (failed : Bool) : State :=
  let s1 : State := { s with handoffs := s.handoffs.filter fun k => !decide (k.product = h.product) }
  let s2 := s1.setProd h.product ((s1.prod h.product).mark (if failed then pfHandedOff + pfSuspect else pfHandedOff))
  let s3 := (s2.retire h.product).1.mirror 5 [0, h.pid, b2n failed]
  if failed then ((s3.count EPH_HO_CNT EPH_HO_CNT_FAIL 1).raiseFree 208).faultEvent fltHandoffFail (s.prod h.product).lane 1
    h.product
  else s3

/-- HANDOFF_ACK_RECEIVE (R157, R399). -/
def State.handoffAcked (s : State) (neg : Bool) (pid seq : Nat) : State :=
  match s.handoffs.find? fun h => decide (h.pid = pid) && h.seqs.contains seq with
  | some h => s.handoffEnd h neg
  | none => s

/-- ACK_TO of a handoff has run out (R157). -/
def State.ackDue (s : State) (i : Nat) : Bool :=
  !s.standby && s.handoffs.any fun h => decide (h.product = i) &&
    decide (h.since + s.fld EPH_HO_CFG EPH_HO_CFG_ACK_TO * ticksUs ≤ s.time)

/-- HANDOFF_ACK_TIMEOUT of the handoff of record `i` (R157). -/
def State.ackTimeout (s : State) (i : Nat) : State :=
  if s.ackDue i then
    match s.handoffs.find? fun h => decide (h.product = i) with
    | none => s
    | some h =>
      if h.resent then s.handoffEnd h true
      else
        let k := { h with resent := true, since := s.time, seqs := h.seqs ++ [s.nextSeq h.dest 1] }
        ({ s with handoffs := s.handoffs.map fun x => if x.product = i then k else x } : State).sendHandoff k true
  else s

/-! ## Commands (R159 to R162) -/

/-- The checks of PRODUCT_ENTER that depend on the record alone. -/
def productEnterOk (arg : Nat) (body : List Byte) : Bool :=
  decide (Nat.land arg 0xFFFFFEF0 = 0) && decide (body.length = if bitOf arg 8 then 16 else 8)

/-- PRODUCT_ENTER (R159). -/
def State.productEnter (s : State) (arg : Nat) (body : List Byte) : State × Status × Nat :=
  if ¬productEnterOk arg body then (s, .range, 0)
  else
    let n := arg % 16
    let given := bitOf arg 8
    if ¬s.laneEn n ∨ ¬s.angValid (s.laneShaft n) then (s, .state, 0)
    else
      let raw := if given then signed 64 (leAt body 0 8) else s.lanePhiInt n
      let x := s.snap n (s.lcf n EPH_L_CFG_SNAP = 1) raw
      let o := if given then 8 else 0
      if s.lanePassed n (x.1 + (s.laneExit n : Nat)) then (s, .late, 0)
      else
        let far := decide (s.fld (EPH_L_HO n) EPH_L_HO_HO_TOL * 65536 < x.2.2)
        match s.makeRecord n x.1 x.2.1 (pfPresent + if far then pfSuspect else 0) (BitVec.ofNat 32 (leAt body o 4))
          (BitVec.ofNat 32 (leAt body (o + 4) 4)) with
        | none => (s.count EPH_CNT EPH_CNT_STORE_FULL 1, .nospace, 0)
        | some r => ((r.1.count (EPH_L_CNT_IO n) EPH_L_CNT_IO_ENTERED 1).skipStations n r.2, .ok, r.2)

/-- The checks of an update that depend on the request alone (R141, R160): operation 0 = WRITE, 1 = SETF, 2 = CLRF. -/
def updateCheck (op word value : Nat) : Status :=
  if 3 ≤ op then .range
  else if op = 0 then (if word = 7 ∨ word = 8 ∨ word = 14 ∨ word = 15 then .ok else .access)
  else if word ≠ 0 ∨ 65536 ≤ value then .range
  else if Nat.land value fixedFlags ≠ 0 then .access
  else .ok

/-- The record after an update that passes its checks (R141). -/
def Product.updated (p : Product) (op word value : Nat) : Product :=
  let v := BitVec.ofNat 32 value
  if op = 1 then p.mark value
  else if op = 2 then p.unmark value
  else if word = 7 then { p with attr := v }
  else if word = 8 then { p with inspect := v }
  else if word = 14 then { p with user0 := v }
  else { p with user1 := v }

/-- An update of a record after a PID check (R160). -/
def State.recordUpdate (s : State) (i op word pid value : Nat) : State × Status :=
  match updateCheck op word value with
  | .ok =>
    if (s.prod i).st ≠ .onLane ∨ (s.prod i).pid ≠ pid then (s, .state)
    else (s.setProd i ((s.prod i).updated op word value), .ok)
  | e => (s, e)

/-- PRODUCT_UPDATE (R160). -/
def State.productUpdate (s : State) (arg : Nat) (body : List Byte) : State × Status :=
  if arg / 2 ^ 22 ≠ 0 ∨ body.length ≠ 8 then (s, .range)
  else s.recordUpdate (arg % 65536) (bitsOf arg 21 20) (bitsOf arg 19 16) (leAt body 0 4) (leAt body 4 4)

/-- PRODUCT_RETIRE (R162). -/
def State.productRetire (s : State) (arg : Nat) (body : List Byte) : State × Status × Nat :=
  if 65536 ≤ arg ∨ body.length ≠ 4 then (s, .range, 0)
  else if (s.prod arg).st ≠ .onLane ∨ (s.prod arg).pid ≠ leAt body 0 4 then (s, .state, 0)
  else
    let r := s.retire arg
    (r.1, .ok, r.2)

/-! ## Registers (R142, R163) -/

/-- The greatest offset of an exit or a station. -/
def ofsMax : Nat := 2 ^ 47

/-- The write of a lane's configuration. -/
def State.writeLaneCfg (s : State) (n : Nat) (w : Wr) : State × Status :=
  let off := decide (w.was EPH_L_CFG_EN = 1)
  let on := decide (w.fld EPH_L_CFG_EN = 1)
  if off ∧ on then
    if w.changes (EPH_L_CFG_SHAFT.mask ||| EPH_L_CFG_ENTRY.mask) then (s, .state) else (s.plainWrite w, .ok)
  else if off then
    if w.changes (EPH_L_CFG_SHAFT.mask ||| EPH_L_CFG_ENTRY.mask) then (s, .state)
    else ((s.laneClear n).plainWrite w, .ok)
  else if on then
    if ¬s.shaftEn (w.fld EPH_L_CFG_SHAFT) then (s, .state)
    else if s.laneExit n = 0 ∨ ofsMax < s.laneExit n then (s, .range)
    else (((s.plainWrite w).setLane n { EphLane.init with prods := (s.lane n).prods }).fixFirst n, .ok)
  else (s.plainWrite w, .ok)

/-- The write of a lane register. -/
def State.writeLane (s : State) (n : Nat) (w : Wr) : State × Status :=
  if w.base = EPH_L_CFG 0 then s.writeLaneCfg n w
  else if w.base = EPH_L_SLOTS 0 then
    if s.laneEn n ∧ w.changes EPH_L_SLOTS_SLOTS.mask then (s, .state)
    else if 4096 < w.fld EPH_L_SLOTS_SLOTS then (s, .range)
    else (s.plainWrite w, .ok)
  else if w.base = EPH_L_SLOT0 0 then
    if s.laneEn n ∧ w.changes EPH_L_SLOT0_SLOT0.mask then (s, .state) else (s.plainWrite w, .ok)
  else if w.base = EPH_L_HO 0 then
    if w.fld EPH_L_HO_HO_DEADLINE = 0 then (s, .range) else (s.plainWrite w, .ok)
  else (s.plainWrite w, .ok)

/-- The write of a station register. -/
def State.writeStation (s : State) (k : Nat) (w : Wr) : State × Status :=
  if w.base = EPH_ST_CFG 0 then
    if w.was EPH_ST_CFG_EN = 1 ∧ w.changes EPH_ST_CFG_LANE.mask then (s, .state)
    else if w.was EPH_ST_CFG_EN = 0 ∧ w.fld EPH_ST_CFG_EN = 1 then ((s.plainWrite w).stnArm k, .ok)
    else (s.plainWrite w, .ok)
  else if w.base = EPH_ST_OFS_LO 0 ∨ w.base = EPH_ST_OFS_HI 0 then
    let t := s.plainWrite w
    if s.stnEn k then (s, .state) else if ofsMax < t.stnOfs k then (s, .range) else (t, .ok)
  else if w.base = EPH_ST_ACT 0 0 then
    if 11 ≤ w.fld EPH_ST_ACT_OP then (s, .range) else (s.plainWrite w, .ok)
  else (s.plainWrite w, .ok)

/-- A selector value that R152 reserves. -/
def selReserved (v : Nat) : Bool := decide (48 ≤ v) && decide (v ≤ 62)

/-- The bits that word `k` of an event template holds: the reserved bits of R68 read 0 (R6, R150). -/
def templateMask (k : Nat) : Word := if k = 0 then 0xFFFFFFF7 else if k = 7 then 0xFF81FFFF else 0xFFFFFFFF

/-- The write of an EPH register. -/
def State.writeEph (s : State) (i : Nat) (w : Wr) : State × Status :=
  if w.base = EPH_HO_CFG then
    if w.fld EPH_HO_CFG_ACK_TO < 10 ∨ 10000 < w.fld EPH_HO_CFG_ACK_TO then (s, .range) else (s.plainWrite w, .ok)
  else if EPH_L_CFG 0 ≤ w.base ∧ w.base < EPH_L_CFG 1 then s.writeLane i w
  else if EPH_ST_CFG 0 ≤ w.base ∧ w.base < EPH_ST_CFG 1 then s.writeStation i w
  else if w.base = EPH_RJ_SEL 0 0 then
    if [EPH_RJ_SEL_SEL0, EPH_RJ_SEL_SEL1, EPH_RJ_SEL_SEL2, EPH_RJ_SEL_SEL3].any fun f => selReserved (w.fld f) then
      (s, .range)
    else (s.plainWrite w, .ok)
  else if w.base = EPH_ET 0 0 then (s.plainWrite { w with new := w.new &&& templateMask ((w.addr - EPH_ET 0 0) / 4 % 8) }, .ok)
  else (s.plainWrite w, .ok)

/-- Records ON_LANE or IN_HANDOFF. -/
def State.recordsInUse (s : State) : Nat :=
  (List.range 16).foldl (fun k n => k + (s.lane n).prods.length) 0 + s.handoffs.length + s.arrivals.length

/-- An EPH register as it reads. -/
def State.viewEph (s : State) (b i a : Nat) : Word :=
  if b = EPH_STAT then (0 : Word).setF EPH_STAT_IN_USE s.recordsInUse
  else if b = EPH_L_COUNT 0 then (0 : Word).setF EPH_L_COUNT_COUNT (s.lane i).prods.length
  else s.rg a

end Sys2Proof.Machine
end

