-- ==== Sys2Proof/Machine/Flags.lean ====
section
/-! DEFINITION. Flag computations: those of the Blulet arithmetic (R117, R121, R122) and those of the Canary (R452,
R453). -/

namespace Sys2Proof.Machine

/-- Bit 31 of a word. -/
def negative (w : Word) : Bool := w.msb

/-- Z and N from a result; C and V unchanged (R122). -/
def BluFlags.zn (f : BluFlags) (r : Word) : BluFlags := { f with z := decide (r = 0), n := negative r }

/-- Signed overflow of a + b. -/
def addOverflow (a b : Word) : Bool := decide (a.toInt + b.toInt < -(2 ^ 31)) || decide (2 ^ 31 ≤ a.toInt + b.toInt)

/-- Signed overflow of a − b. -/
def subOverflow (a b : Word) : Bool := decide (a.toInt - b.toInt < -(2 ^ 31)) || decide (2 ^ 31 ≤ a.toInt - b.toInt)

/-- Flags of ADD: C is the carry out, V signed overflow (R117, R122). -/
def BluFlags.add (f : BluFlags) (a b : Word) : BluFlags :=
  { f.zn (a + b) with c := decide (2 ^ 32 ≤ a.toNat + b.toNat), v := addOverflow a b }

/-- Flags of SUB and CMP: C is the borrow, V signed overflow (R117, R122). -/
def BluFlags.sub (f : BluFlags) (a b : Word) : BluFlags :=
  { f.zn (a - b) with c := decide (a.toNat < b.toNat), v := subOverflow a b }

/-- Flags of WCMP: Z where equal, N and C where the first is below the second, V cleared (R122). -/
def BluFlags.wcmp (f : BluFlags) (equal below : Bool) : BluFlags := { f with z := equal, n := below, c := below, v := false }

/-- The difference of WSUB held to signed 32 bits (R122). -/
def wsubResult (d : Int) : Word := BitVec.ofInt 32 (clampI (-(2 ^ 31)) (2 ^ 31 - 1) d)

/-- Whether WSUB's difference did not fit. -/
def wsubSaturates (d : Int) : Bool := decide (d < -(2 ^ 31)) || decide (2 ^ 31 - 1 < d)

/-- Flags of WSUB: Z and N from the result, V where it was saturated (R122). -/
def BluFlags.wsub (f : BluFlags) (d : Int) : BluFlags := { f.zn (wsubResult d) with v := wsubSaturates d }

/-- CLF: clears the flags selected by X[6:0] (R117, R120). -/
def BluFlags.clear (f : BluFlags) (x : Nat) : BluFlags :=
  { z := f.z && !bitOf x 0, n := f.n && !bitOf x 1, c := f.c && !bitOf x 2, v := f.v && !bitOf x 3,
    tmo := f.tmo && !bitOf x 4, f := f.f && !bitOf x 5, l := f.l && !bitOf x 6 }

/-- The flags register as a number (R117). -/
def BluFlags.bits (f : BluFlags) : Nat :=
  b2n f.z + 2 * b2n f.n + 4 * b2n f.c + 8 * b2n f.v + 16 * b2n f.tmo + 32 * b2n f.f + 64 * b2n f.l

/-- The conditions of BR (R121); none for the reserved values. -/
def BluFlags.cond (f : BluFlags) : Nat → Option Bool
  | 0 => some true
  | 1 => some f.z
  | 2 => some !f.z
  | 3 => some (f.n != f.v)
  | 4 => some (f.n == f.v)
  | 5 => some f.c
  | 6 => some !f.c
  | 7 => some f.f
  | 8 => some !f.f
  | 9 => some f.tmo
  | 10 => some !f.tmo
  | 11 => some f.l
  | 12 => some !f.l
  | _ => none

end Sys2Proof.Machine
end

