-- ==== Sys2Proof/Machine/Blulet.lean ====
section
/-! DEFINITION. Blulet threads and their scheduler (R91 to R116): slices, waits, signals, faults, queued edges, loading,
starting and stopping. -/

namespace Sys2Proof.Machine

/-- Engine and number within its engine of a thread (R91). -/
def thEngine (g : Nat) : Nat := g / 16
def thNumber (g : Nat) : Nat := g % 16

/-- The class of a thread: 0 A, 1 B, 2 C (R105). -/
def State.thClass (s : State) (g : Nat) : Nat := s.fld (BLU_T_CFG (thEngine g) (thNumber g)) BLU_T_CFG_CLASS

/-- DEADLINE of a thread in ticks (R106). -/
def State.thDeadline (s : State) (g : Nat) : Nat :=
  s.fld (BLU_T_CFG (thEngine g) (thNumber g)) BLU_T_CFG_DEADLINE * ticksUs

/-- The hold bit of a thread (R106). -/
def State.thHold (s : State) (g : Nat) : Bool :=
  decide (s.thClass g ≠ 0) && bitOf (s.fld (BLU_HOLD (thEngine g)) BLU_HOLD_HOLD) (thNumber g)

/-- Neither STOPPED nor FAULTED. -/
def Thread.live (x : Thread) : Bool := decide (x.st ≠ ThState.stopped) && decide (x.st ≠ ThState.faulted)

/-- A class A thread of engine `e` is not STOPPED or FAULTED (R107). -/
def State.bluHasA (s : State) (e : Nat) : Bool :=
  (List.range 16).any fun k => (s.th (16 * e + k)).live && decide (s.thClass (16 * e + k) = 0)

/-- The thread of engine `e` that is RUNNING (R96). -/
def State.bluRunning (s : State) (e : Nat) : Option Nat :=
  ((List.range 16).find? fun k => decide ((s.th (16 * e + k)).st = .running)).map fun k => 16 * e + k

/-! ## READY (R97, R102, R106) -/

/-- Doze ends where a thread becomes READY (R108, R431). -/
def State.endDoze (s : State) : State := if s.power = .doze then { s with power := .run } else s

/-- A thread becomes READY, or HELD where its hold bit is set, at the back of its rank. -/
def State.makeReady (s : State) (g : Nat) : State :=
  let x := s.th g
  ({ (s.setTh g { x with
        st := if s.thHold g then .held else .ready
        wait := .none_
        meet := none
        issued := 0
        promoted := false
        seq := s.bluSeq
        readyTick := s.time }) with
     bluSeq := s.bluSeq + 1 } : State).endDoze

/-- The place of a READY thread in the choice of R102: its rank, the due time of a promoted one, and its order. -/
def State.thPlace (s : State) (g : Nat) : Nat × Nat × Nat :=
  let x := s.th g
  if s.thClass g = 0 then (0, 0, x.seq)
  else if x.promoted then (1, x.readyTick + s.thDeadline g, x.seq)
  else if s.thClass g = 1 then (2, 0, x.seq)
  else (3, 0, x.seq)

/-- One place comes before another. -/
def placeBefore (a b : Nat × Nat × Nat) : Bool :=
  decide (a.1 < b.1) || (decide (a.1 = b.1) && (decide (a.2.1 < b.2.1) || (decide (a.2.1 = b.2.1) && decide (a.2.2 < b.2.2))))

/-- The READY thread that the scheduler of engine `e` chooses (R102). -/
def State.bluChoice (s : State) (e : Nat) : Option Nat :=
  (List.range 16).foldl (fun (c : Option Nat) k =>
    let g := 16 * e + k
    if (s.th g).st = .ready then
      match c with
      | none => some g
      | some h => if placeBefore (s.thPlace g) (s.thPlace h) then some g else c
    else c) none

/-- The governor's hold bits of engine `e` (R106, R442): READY threads whose bit is set become HELD, HELD threads whose
bit is clear become READY. DEDUCED: a thread that leaves HELD so keeps the place in its rank and the tick of its deadline
that it took when it first became READY or HELD, so threads released together keep that order and a later hold does not
start the deadline afresh (log 37). -/
def State.setBluHold (s : State) (e bits : Nat) : State :=
  State.forEach 16 (fun t k =>
    let g := 16 * e + k
    let x := t.th g
    if x.st = .ready ∧ t.thHold g ∧ ¬x.promoted then t.setTh g { x with st := .held }
    else if x.st = .held ∧ ¬t.thHold g then t.setTh g { x with st := .ready }
    else t) (s.setFld (BLU_HOLD e) BLU_HOLD_HOLD bits)

/-- The deadline of a HELD class B thread has passed (R106). -/
def State.promotionDue (s : State) (g : Nat) : Bool :=
  let x := s.th g
  decide (x.st = .held) && decide (s.thClass g = 1) && decide (x.readyTick + s.thDeadline g ≤ s.time)

/-- DEADLINE_PROMOTION (R106). -/
def State.promote (s : State) (g : Nat) : State :=
  if s.promotionDue g then
    ((s.setTh g { s.th g with st := .ready, promoted := true }).count (BLU_CNT (thEngine g)) BLU_CNT_PROMOTED 1).endDoze
  else s

/-! ## Queued edges (R133) -/

/-- Edges that an output queues. -/
def edgeRoom : Nat := 16

/-- The edges queued on precision output `j`. -/
def State.edgeQ (s : State) (j : Nat) : List QEdge := FMap.get (fun _ => []) s.poQueue j

/-- The state with the queue of a precision output replaced. -/
def State.setEdgeQ (s : State) (j : Nat) (q : List QEdge) : State :=
  { s with poQueue := FMap.set (fun _ => []) s.poQueue j q }

/-- An edge put at its place in time order. -/
def putEdge (e : QEdge) : List QEdge → List QEdge
  | [] => [e]
  | x :: xs => if e.at_ < x.at_ then e :: x :: xs else x :: putEdge e xs

/-- The oldest edge of an output has reached its tick. -/
def State.edgeDue (s : State) (j : Nat) : Bool :=
  match s.edgeQ j with
  | e :: _ => decide (e.at_ / 64 ≤ s.time)
  | [] => false

/-- EDGE_PLACE (R133). -/
def State.edgePlaceOut (s : State) (j : Nat) : State :=
  match s.edgeQ j with
  | e :: es => if s.edgeDue j then (s.setEdgeQ j es).poEdge j e.thread e.at_ e.level else s
  | [] => s

/-- The queued edges of a thread that ends are discarded, and its drive levels of 1 are released in the next tick. -/
def State.dropEdges (s : State) (g : Nat) : State :=
  State.forEach 16 (fun t j =>
    let q := (t.edgeQ j).filter fun e => !decide (e.thread = g)
    let u := t.setEdgeQ j q
    if (u.out (outPrecision j)).edges.contains g then
      u.setEdgeQ j (putEdge { at_ := 64 * (u.time + 1), thread := g, level := false } q)
    else u) s

/-! ## Ends, stops and faults (R112 to R115) -/

/-- What a thread's stop or fault does to its events (R112): the ARMED and COMMITTED ones are cancelled and counted. -/
def State.endEvents (s : State) (g : Nat) : State × Nat :=
  let is := s.almOwned g
  ((s.almCancelAll is).setFld (BLU_T_EVT (thEngine g) (thNumber g)) BLU_T_EVT_DISCARD (satTo 65535 is.length), is.length)

/-- A thread ends in a state, with its wait abandoned: the state and the number of events cancelled. -/
def State.threadEnd (s : State) (g : Nat) (st : ThState) : State × Nat :=
  let r := s.endEvents g
  let t := r.1.dropEdges g
  (t.setTh g { t.th g with
      st := st, wait := .none_, meet := none, issued := 0, promoted := false, stopPend := false, errs := [],
      errPend := none }, r.2)

/-- A fault of a thread at an address (R114, R115). A stop that is pending ends with the thread STOPPED (R113). -/
def State.threadFault (s : State) (g cause fpc : Nat) : State :=
  let a := BLU_T_FAULT (thEngine g) (thNumber g)
  let s1 := (s.setFld a BLU_T_FAULT_CAUSE cause).setFld a BLU_T_FAULT_FPC fpc
  let s2 := (s1.threadEnd g (if (s1.th g).stopPend then .stopped else .faulted)).1
  let v := s2.freeNow
  (s2.drawn.raise (256 + g) v).faultRaise fltThread g (if s.thClass g = 0 then 2 else 0) v

/-- The causes of R114. -/
def causeIllegal : Nat := 1
def causeImemEcc : Nat := 2
def causeDmemRange : Nat := 3
def causeDmemEcc : Nat := 4
def causeBusErr : Nat := 5
def causeStackOvf : Nat := 6
def causeStackUnf : Nat := 7
def causePcRange : Nat := 8

/-- A RUNNING thread at a yield point (R101): a stop or a BUS_ERR that waits for it ends the thread; otherwise it rejoins
the back of its rank. -/
def State.yieldPoint (s : State) (g : Nat) : State :=
  let x := s.th g
  match x.errPend with
  | some fpc => s.threadFault g causeBusErr fpc
  | none => if x.stopPend then (s.threadEnd g .stopped).1 else s.makeReady g

/-- A yield point where the thread would wait (R101): a stop or a BUS_ERR that waits for it ends the thread. -/
def State.waitPoint (s : State) (g : Nat) : State :=
  let x := s.th g
  match x.errPend with
  | some fpc => s.threadFault g causeBusErr fpc
  | none => if x.stopPend then (s.threadEnd g .stopped).1 else s

/-- Instructions in a slice. -/
def sliceLength : Nat := 64

/-- The slice of a RUNNING thread has issued its 64th instruction. -/
def State.sliceDone (s : State) (g : Nat) : Bool :=
  decide ((s.th g).st = .running) && decide (sliceLength ≤ (s.th g).issued)

/-- FORCED_YIELD (R101, R102). -/
def State.forcedYield (s : State) (g : Nat) : State :=
  if s.sliceDone g then (s.count (BLU_CNT (thEngine g)) BLU_CNT_FORCED 1).yieldPoint g else s

/-- BUS_ERR_RETURN (R114): the status of a posted access returns. -/
def State.busErrReturn (s : State) (g : Nat) : State :=
  let x := s.th g
  match x.errs with
  | [] => s
  | fpc :: rest =>
    let t := s.setTh g { x with errs := rest }
    if x.st = .running then t.setTh g { t.th g with errPend := some (x.errPend.getD fpc) }
    else if x.live then t.threadFault g causeBusErr fpc
    else t

/-! ## Waits (R98 to R100, R128) -/

/-- A wide register by its code (R119). -/
def Thread.wide (x : Thread) (c : Nat) : BitVec 64 := if c = 0 then x.a0 else if c = 1 then x.a1 else if c = 2 then x.t0 else x.t1

/-- The thread with a wide register set. -/
def Thread.setWide (x : Thread) (c : Nat) (v : BitVec 64) : Thread :=
  if c = 0 then { x with a0 := v } else if c = 1 then { x with a1 := v } else if c = 2 then { x with t0 := v }
  else { x with t1 := v }

/-- A general register. -/
def Thread.gr (x : Thread) (i : Nat) : Word := FMap.get (fun _ => 0) x.g i

/-- The thread with a general register set. -/
def Thread.setGr (x : Thread) (i : Nat) (w : Word) : Thread := { x with g := FMap.set (fun _ => 0) x.g i w }

/-- The signal bits of a thread. -/
def State.thSignals (s : State) (g : Nat) : Nat := s.fld (BLU_T_SIG (thEngine g) (thNumber g)) BLU_T_SIG_SIG

/-- φ of a shaft has reached an angle register while ANG_VALID is 1 (R98). The thread keeps waiting while the shaft runs in
reverse or stands still, though φ lies beyond the angle (R99; log 37). -/
def State.angleMet (s : State) (n : Nat) (a : BitVec 64) : Bool :=
  s.forward n && !(s.shaft n).still && s.phiPast n a.toInt

/-- The limit of a timed wait stands in t1. -/
def State.limitMet (s : State) (x : Thread) : Bool := decide (x.t1.toNat ≤ s.time)

/-- An edge can join its output's queue: the queue has room (R133). -/
def State.edgeFits (s : State) (j : Nat) : Bool := decide ((s.edgeQ j).length < edgeRoom)

/-- The condition of a WAITING thread is met (R98). -/
def State.waitMet (s : State) (g : Nat) : Bool :=
  let x := s.th g
  decide (x.st = .waiting) &&
    (match x.wait with
     | .none_ => false
     | .angle n r timed => s.angleMet n (x.wide r) || (timed && s.limitMet x)
     | .time r => decide ((x.wide (2 + r)).toNat ≤ s.time)
     | .signals m _ timed => decide (Nat.land (s.thSignals g) m ≠ 0) || (timed && s.limitMet x)
     | .bus (.edge _ j _) => s.edgeFits j
     | .bus _ => true
     | .fence => x.errs.isEmpty)

/-- The meet tick is written to the register that the wait names (R128). -/
def Thread.met (x : Thread) (tick : Nat) : Thread :=
  match x.meet with
  | some c => x.setWide c (BitVec.ofNat 64 tick)
  | none => x

/-- The flags with TO and with F set. -/
def BluFlags.setTo (f : BluFlags) (b : Bool) : BluFlags := { f with tmo := b }
def BluFlags.setF (f : BluFlags) (b : Bool) : BluFlags := { f with f := b }

/-- The end of a SIGNAL or SIGNAL_T wait (R100, R128): the selected bits that were 1 are cleared. -/
def State.signalsMet (s : State) (g m : Nat) (dest : Option Nat) (timed : Bool) : State :=
  let x := s.th g
  let got := Nat.land (s.thSignals g) m
  let y := match dest with
    | some d => x.setGr d (BitVec.ofNat 32 got)
    | none => x
  if got ≠ 0 then
    let tick := (bitsSet 8 got).foldl (fun (b : Option Nat) i =>
      let k := FMap.get (fun _ => 0) x.stamps i
      match b with
      | none => some k
      | some v => some (Nat.min v k)) none |>.getD 0
    let a := BLU_T_SIG (thEngine g) (thNumber g)
    (s.setTh g { y.met tick with flags := y.flags.setTo false }).setFld a BLU_T_SIG_SIG (s.thSignals g - got)
  else s.setTh g { y.met s.time with flags := y.flags.setTo timed }

/-- A byte of data memory as the list holds it: engine × 65 536 + address. -/
def dmemAddr (e a : Nat) : Nat := 65536 * e + a

/-- Data memory read. -/
def State.dmemRead (s : State) (e a n : Nat) : List Byte := memReadAll s.dmem (dmemAddr e a) n

/-- The 8-byte words of a range, noted as written since the last epoch (R409). -/
def State.dmemTouch (s : State) (e a n : Nat) : State :=
  (List.range ((a + n + 7) / 8 - a / 8)).foldl (fun t i =>
    { t with dmemDirty := FMap.set (fun _ => false) t.dmemDirty (dmemAddr e a / 8 + i) true }) s

/-- Where the error of an instruction word and of the 8-byte word of a data byte stands (R94). -/
def imemKey (e a : Nat) : Nat := 8192 * e + a
def dmemKey (e a : Nat) : Nat := 131072 + dmemAddr e a / 8

/-- The error that stands in a word. -/
def State.errAt (s : State) (k : Nat) : MemErr := FMap.get (fun _ => .none_) s.memErrs k

/-- The state with the error of a word replaced. -/
def State.setErr (s : State) (k : Nat) (m : MemErr) : State :=
  { s with memErrs := FMap.set (fun _ => .none_) s.memErrs k m }

/-- Words rewritten: their errors are removed (R94). -/
def State.clearErrs (s : State) (k n : Nat) : State := (List.range n).foldl (fun t i => t.setErr (k + i) .none_) s

/-- Data memory written; a word written, even in part, is rewritten whole. -/
def State.dmemWrite (s : State) (e a : Nat) (bs : List Byte) : State :=
  { ((s.clearErrs (dmemKey e a) ((a + bs.length + 7) / 8 - a / 8)).dmemTouch e a bs.length) with
    dmem := memWriteAll s.dmem (dmemAddr e a) bs }

/-- An EDGE joins its queue (R133): it must come after the last edge queued; one whose time has passed is placed in the
next tick at step 0 and sets L. -/
def State.edgeJoin (s : State) (g d j : Nat) (e : QEdge) : State :=
  let x := s.th g
  let q := s.edgeQ j
  if q.getLast?.any fun l => decide (e.at_ ≤ l.at_) then
    s.setTh g { x.setGr d (BitVec.ofNat 32 Status.state.code) with flags := x.flags.setF true }
  else
    let late := decide (e.at_ / 64 < s.time)
    let at_ := if late then 64 * (s.time + 1) else e.at_
    (s.setTh g { x with flags := { x.flags.setF false with l := x.flags.l || late } }).setEdgeQ j
      (putEdge { e with at_ := at_ } q)

/-- What a met wait of kind BUS brings; a posted access that has found room takes effect beside it. -/
def State.busMet (s : State) (g : Nat) (r : Ret) : State :=
  let x := s.th g
  match r with
  | .word d w => s.setTh g (x.setGr d w)
  | .wide d w => s.setTh g (x.setWide d w)
  | .bad fpc => s.threadFault g causeBusErr fpc
  | .request f d w =>
    let y := { x with flags := x.flags.setF f }
    s.setTh g (match d with
      | some i => y.setGr i w
      | none => y)
  | .snap d n addr bytes =>
    (s.setTh g { x.setGr d (BitVec.ofNat 32 n) with flags := x.flags.setF false }).dmemWrite (thEngine g) addr bytes
  | .write _ _ => s
  | .capture _ => s
  | .edge d j e => s.edgeJoin g d j e

/-- WAIT_MET (R97, R98, R100, R128). Where both halves of a timed wait are met in one tick, the angle or the signals
prevail. -/
def State.waitEnd (s : State) (g : Nat) : State :=
  if s.waitMet g then
    let x := s.th g
    let t := match x.wait with
      | .none_ => s
      | .angle n r _ =>
        s.setTh g { x.met s.time with flags := x.flags.setTo (!s.angleMet n (x.wide r)) }
      | .time _ => s.setTh g { x.met s.time with flags := x.flags.setTo false }
      | .signals m d timed => s.signalsMet g m d timed
      | .bus r => s.busMet g r
      | .fence => s
    if (t.th g).st = .waiting then t.makeReady g else t
  else s

/-! ## Loading (R110) -/

/-- Words of an instruction memory. -/
def imemSize : Nat := 8192

/-- An instruction word: engine × 8 192 + address. -/
def State.imemAt (s : State) (e a : Nat) : BitVec 64 := FMap.get (fun _ => 0) s.imem (imemSize * e + a)

/-- Instruction words written from an address up. -/
def State.imemWrite (s : State) (e a : Nat) : List Byte → Nat → State
  | _, 0 => s
  | bs, n + 1 =>
    State.imemWrite
      { s.setErr (imemKey e a) .none_ with
        imem := FMap.set (fun _ => 0) s.imem (imemSize * e + a) (BitVec.ofNat 64 (leAt bs 0 8)) } e (a + 1)
      (bs.drop 8) n

/-- The fields of BLULET_LOAD's ARG. -/
def loadRead (arg : Nat) : Bool := bitOf arg 6
def loadData (arg : Nat) : Bool := bitOf arg 7
def loadOffset (arg : Nat) : Nat := bitsOf arg 31 16

/-- The checks of BLULET_LOAD (R110) on a length in bytes. -/
def loadOk (arg n : Nat) : Bool :=
  decide (bitsOf arg 15 8 = 0) && decide (bitsOf arg 5 4 = 0) && decide (8 ≤ n) && decide (n ≤ 1024) && decide (n % 8 = 0) &&
    (if loadData arg then decide (loadOffset arg % 8 = 0) && decide (loadOffset arg + n ≤ 65536)
     else decide (loadOffset arg < imemSize) && decide (loadOffset arg + n / 8 ≤ imemSize))

/-- A single-bit error corrected in an access (R94). -/
def State.eccFixed (s : State) (e : Nat) (m : MemErr) : State :=
  if m = .corrected then s.count (BLU_CNT e) BLU_CNT_ECC_FIX 1 else s

/-- The words of a read-back: each single-bit error in them is corrected in the access and counted (R94). -/
def State.readBack (s : State) (e k n : Nat) : State :=
  (List.range n).foldl (fun t i => t.eccFixed e (t.errAt (k + i))) s

/-- BLULET_LOAD (R110): the state, the status and the reply body. -/
def State.bluLoad (s : State) (arg : Nat) (body : List Byte) : State × Status × List Byte :=
  let e := arg % 16
  if loadRead arg then
    let n := leAt body 0 4
    if body.length = 4 ∧ loadOk arg n then
      (s.readBack e (if loadData arg then dmemKey e (loadOffset arg) else imemKey e (loadOffset arg)) (n / 8), .ok,
        if loadData arg then s.dmemRead e (loadOffset arg) n
        else (List.range (n / 8)).flatMap fun i => leBytes 8 (s.imemAt e (loadOffset arg + i)).toNat)
    else (s, .range, [])
  else if loadOk arg body.length then
    (if loadData arg then s.dmemWrite e (loadOffset arg) body
     else s.imemWrite e (loadOffset arg) body (body.length / 8), .ok, [])
  else (s, .range, [])

/-! ## Starting and stopping (R111, R112) -/

/-- The checks of BLULET_START's record (R111). -/
def startOk (arg : Nat) (body : List Byte) : Bool :=
  decide (bitsOf arg 31 21 = 0) && (decide (body.length = 0) || decide (body.length = 4))

/-- BLULET_START (R111). -/
def State.bluStart (s : State) (arg : Nat) (body : List Byte) : State × Status :=
  if ¬startOk arg body then (s, .range)
  else
    let g := arg % 256
    if (s.th g).live then (s, .state)
    else
      let e := thEngine g
      let k := thNumber g
      let s1 := (s.setRg (BLU_T_FAULT e k) 0).setFld (BLU_T_SIG e k) BLU_T_SIG_SIG 0
      let x := { Thread.init with pc := bitsOf arg 20 8 }.setGr 1 (BitVec.ofNat 32 (leAt body 0 4))
      (((s1.setTh g x).makeReady g).faultEnd fltThread g, .ok)

/-- A stop reaches a thread (R112): the state and the number of events cancelled at once. A FAULTED thread may own events
that a repeat has armed since its fault. -/
def State.threadStop (s : State) (g : Nat) : State × Nat :=
  let x := s.th g
  match x.st with
  | .stopped => (s, 0)
  | .faulted =>
    let r := s.endEvents g
    (r.1.setTh g { r.1.th g with st := .stopped }, r.2)
  | .running => (s.setTh g { x with stopPend := true }, 0)
  | _ => s.threadEnd g .stopped

/-- The threads that BLULET_STOP names (R112). -/
def stopNames (arg : Nat) : List Nat :=
  if bitOf arg 8 then (List.range 16).map fun k => 16 * bitsOf arg 7 4 + k else [arg % 256]

/-- BLULET_STOP reaches its threads (R112): the state and the number of events cancelled at once. -/
def State.bluStop (s : State) (arg : Nat) : State × Nat :=
  (stopNames arg).foldl (fun r g =>
    let q := r.1.threadStop g
    (q.1, r.2 + q.2)) (s, 0)

/-- Every named thread is STOPPED. -/
def State.stopDone (s : State) (arg : Nat) : Bool := (stopNames arg).all fun g => decide ((s.th g).st = .stopped)

/-- Every thread that is not STOPPED is stopped at once (R109, R500, R504). -/
def State.stopThreads (s : State) : State :=
  State.forEach 256 (fun t g =>
    if (t.th g).st = .stopped then t
    else if (t.th g).st = .faulted then (t.threadStop g).1
    else (t.threadEnd g .stopped).1) s

/-! ## Registers (R116) -/

/-- The write of a register of Blulet engine `e`, thread `k`. The hold bit of a class A thread is always 0 (R106). -/
def State.writeBlu (s : State) (e k : Nat) (w : Wr) : State × Status :=
  if w.base = BLU_CFG 0 then
    if w.fld BLU_CFG_A_FLOOR = 0 then (s, .range)
    else if s.bluHasA e then (s, .state)
    else (s.plainWrite w, .ok)
  else if w.base = BLU_T_CFG 0 0 then
    if w.fld BLU_T_CFG_CLASS = 3 ∨ w.fld BLU_T_CFG_DEADLINE = 0 then (s, .range)
    else if (s.th (16 * e + k)).live then (s, .state)
    else if w.fld BLU_T_CFG_CLASS = 0 then
      (let t := s.plainWrite w
       let h := t.fld (BLU_HOLD e) BLU_HOLD_HOLD
       (t.setFld (BLU_HOLD e) BLU_HOLD_HOLD (if bitOf h k then h - 2 ^ k else h), .ok))
    else (s.plainWrite w, .ok)
  else if w.base = BLU_T_SIG 0 0 then
    ((bitsSet 8 (w.act.getF BLU_T_SIG_SIG)).foldl (fun t b => t.setSignal (8 * (16 * e + k) + b)) s, .ok)
  else (s.plainWrite w, .ok)

/-- A register of Blulet engine `e`, thread `k`, as it reads. -/
def State.viewBlu (s : State) (b e k a : Nat) : Word :=
  let x := s.th (16 * e + k)
  let num (st : ThState) : Nat := ((List.range 16).filter fun j => decide ((s.th (16 * e + j)).st = st)).length
  if b = BLU_STAT 0 then
    let w := (((0 : Word).setF BLU_STAT_READY (num .ready))).setF BLU_STAT_WAITING (num .waiting)
    match s.bluRunning e with
    | some g => (w.setF BLU_STAT_RUN_VALID 1).setF BLU_STAT_RUN_K (thNumber g)
    | none => w
  else if b = BLU_T_STAT 0 0 then
    ((((0 : Word).setF BLU_T_STAT_STATE x.st.code).setF BLU_T_STAT_STOP_PEND (b2n x.stopPend)).setF BLU_T_STAT_WAIT
      x.wait.code).setF BLU_T_STAT_PC x.pc
  else if b = BLU_T_EVT 0 0 then
    (s.rg a).setF BLU_T_EVT_OWNED
      (s.eventsWhere fun v => v.st.inUse && decide (v.desc.owner = some (16 * e + k))).length
  else s.rg a

end Sys2Proof.Machine
end

