-- ==== Sys2Proof/Machine/Ports.lean ====
section
/-! DEFINITION. Feedback ports (R204 to R234): counting, hysteresis, index checks, Hall triplets, serial frames, the probe,
encoder emulation, supplies, line breaks and port faults. -/

namespace Sys2Proof.Machine

/-- A field of FBPn_CFG. -/
def State.pcf (s : State) (p : Nat) (f : Fld) : Nat := s.fld (FBP_CFG p) f

/-- EN and WRAP of port `p`. -/
def State.portEn (s : State) (p : Nat) : Bool := s.flag (FBP_CFG p) FBP_CFG_EN
def State.portWrap (s : State) (p : Nat) : Nat := s.fld (FBP_WRAP p) FBP_WRAP_WRAP

/-- The serial modes SSI and BISS (R205). -/
def State.portSerial (s : State) (p : Nat) : Bool := decide (s.portMode p = 5) || decide (s.portMode p = 6)

/-- PFAULT. -/
def State.portFaulted (s : State) (p : Nat) : Bool := s.flag (FBP_STAT p) FBP_STAT_PFAULT

/-- SETTLING (R225). -/
def State.settling (s : State) (p : Nat) : Bool := (s.port p).settleEnd.isSome

/-- An event notification with its cause (R230). -/
def State.portEvent (s : State) (p cause : Nat) : State :=
  (s.setFld (FBP_STAT p) FBP_STAT_CAUSE cause).raise (64 + 2 * p) cause

/-- An error notification with its cause (R230). -/
def State.portError (s : State) (p cause : Nat) : State :=
  (s.setFld (FBP_STAT p) FBP_STAT_CAUSE cause).raise (65 + 2 * p) cause

/-- A port fault (R229). -/
def State.portFault (s : State) (p : Nat) : State :=
  (((s.latch (FBP_STAT p) FBP_STAT_PFAULT).portError p 14).faultRaise fltPort p 2 14).shaftsPortFault p

/-- The enabled shafts of a source kind that name port `p` as PORT (R33). -/
def State.shaftsOfPort (s : State) (p src : Nat) : List Nat :=
  (List.range 16).filter fun n => s.shaftEn n && decide (s.shaftSrc n = src) && decide (s.shc n SHF_CFG_PORT = p)

/-- The enabled shafts whose second wheel is on port `p`. -/
def State.shaftsOfIdx (s : State) (p : Nat) : List Nat :=
  (List.range 16).filter fun n => s.shaftEn n && s.flag (SHF_CFG n) SHF_CFG_IDX_EN && decide (s.shc n SHF_CFG_IDX_PORT = p)

/-- An enabled shaft names the port as PORT (R33). -/
def State.portIsMain (s : State) (p : Nat) : Bool :=
  (List.range 16).any fun n => s.shaftEn n && decide (s.shaftSrc n ≤ 2) && decide (s.shc n SHF_CFG_PORT = p)

/-- An enabled shaft names the port as PORT, IDX_PORT or DIR_PORT (R33). -/
def State.portNamed (s : State) (p : Nat) : Bool :=
  s.portIsMain p || (List.range 16).any fun n => s.shaftEn n &&
    ((s.flag (SHF_CFG n) SHF_CFG_IDX_EN && decide (s.shc n SHF_CFG_IDX_PORT = p)) ||
      (decide (s.shc n SHF_CFG_DIR_SRC = 2) && decide (s.shc n SHF_CFG_DIR_PORT = p)))

/-! ## Counting (R208 to R210, R215) -/

/-- Place of a quadrature state in the forward sequence 00, 10, 11, 01 of (A, B). -/
def quadIndex (a b : Bool) : Nat := if a then (if b then 2 else 1) else if b then 3 else 0

/-- Place of a Hall code in the forward sequence 1, 3, 2, 6, 4, 5; none for 0 and 7. -/
def hallIndex : Nat → Option Nat
  | 1 => some 0
  | 3 => some 1
  | 2 => some 2
  | 6 => some 3
  | 4 => some 4
  | 5 => some 5
  | _ => none

/-- The present Hall code U + 2V + 4W. -/
def Port.hallCode (x : Port) : Nat := b2n x.lvA + 2 * b2n x.lvB + 4 * b2n x.lvZ

/-- An edge of A selected by EDGE in TOOTH (R208). -/
def toothSelected (edge : Nat) (old new : Bool) : Bool :=
  (old != new) && (decide (edge = 2) || decide (edge = if new then 0 else 1))

/-- A double change in QUAD (R209). -/
def State.quadDouble (s : State) (p : Nat) : State :=
  let again := (s.port p).dbl
  let s1 := ((s.setPort p { s.port p with dbl := true }).count (FBP_ERR p) FBP_ERR_QERR 1).latch (FBP_STAT p)
    FBP_STAT_DOUBTFUL
  let s2 := s1.portError p 3
  if again then s2.portFault p else s2

/-- A Hall error (R215). -/
def State.hallError (s : State) (p : Nat) : State :=
  let again := (s.port p).hallErr
  let s1 := ((s.setPort p { s.port p with hallErr := true }).count (FBP_ERR p) FBP_ERR_HERR 1).latch (FBP_STAT p)
    FBP_STAT_DOUBTFUL
  let s2 := s1.portError p 5
  if again then s2.portFault p else s2

/-- The change of the raw count in this tick, with what the counting rules do besides (R208, R209, R215). `o` is the port
with its levels before the acceptance. -/
def State.portCount (s : State) (p : Nat) (o : Port) : State × Int :=
  let x := s.port p
  let riseA := x.lvA && !o.lvA
  let riseB := x.lvB && !o.lvB
  match s.portMode p with
  | 0 =>
    if x.lvA ≠ o.lvA ∧ x.lvB ≠ o.lvB then (s.quadDouble p, 0)
    else if x.lvA ≠ o.lvA ∨ x.lvB ≠ o.lvB then
      let fwd := decide (quadIndex x.lvA x.lvB = (quadIndex o.lvA o.lvB + 1) % 4)
      (s.setPort p { x with dbl := false }, if fwd then 1 else -1)
    else (s, 0)
  | 1 => (s, if riseA then (if x.lvB then -1 else 1) else 0)
  | 2 => (s, (b2n riseA : Int) - b2n riseB)
  | 3 => (s, if toothSelected (s.pcf p FBP_CFG_EDGE) o.lvA x.lvA then 1 else 0)
  | 4 =>
    if x.hallCode = o.hallCode then (s, 0)
    else
      let s0 := s.setPort p { x with hallRef := if (hallIndex x.hallCode).isSome then x.hallCode else o.hallRef }
      (match hallIndex o.hallRef, hallIndex x.hallCode with
       | some i, some j =>
         if j = (i + 1) % 6 then (s0.setPort p { s0.port p with hallErr := false }, 1)
         else if j = (i + 5) % 6 then (s0.setPort p { s0.port p with hallErr := false }, -1)
         else if j = i then (s0, 0)
         else (s0.hallError p, 0)
       | _, _ => (s0.hallError p, 0))
  | _ => (s, 0)

/-- The hysteresis of R210 at a change of raw: direction and position. -/
def hysteresis (rev : Bool) (raw pos : Int) : Bool × Int :=
  if rev then
    (if raw < pos then (true, raw) else if pos + 1 < raw then (false, raw) else (true, pos))
  else if pos < raw then (false, raw)
  else if raw < pos - 1 then (true, raw)
  else (false, pos)

/-- DIR of the port's count. -/
def State.portDir (s : State) (p : Nat) : Bool := s.flag (FBP_STAT p) FBP_STAT_DIR

/-- A 32-bit count as a signed number (R210). -/
def count32 (a : Int) : Int := signed 32 (unsigned 32 a)

/-- What POS is read modulo: WRAP, which SSI and BISS ignore; there all 24 bits of the field (DEDUCED, log 63). -/
def State.posModulus (s : State) (p : Nat) : Nat := if s.portSerial p then 2 ^ 24 else s.portWrap p

/-- POS as it reads (R210). -/
def State.portPos (s : State) (p : Nat) : Nat :=
  if s.posModulus p = 0 then 0 else ((s.port p).pos % (s.posModulus p : Int)).toNat

/-- A count added to raw, through the hysteresis (R210): the state, and the change of pos. The counts have 32 bits and are
compared by their difference. -/
def State.portRaw (s : State) (p : Nat) (d : Int) : State × Int :=
  let x := s.port p
  if d = 0 then (s, 0)
  else
    let h := hysteresis (s.portDir p) (x.pos + count32 (x.raw + d - x.pos)) x.pos
    ((s.setPort p { x with raw := count32 (x.raw + d), pos := count32 h.2 }).setFlag (FBP_STAT p) FBP_STAT_DIR h.1, h.2 - x.pos)

/-! ## Emulation (R223, R224, R278) -/

/-- The precision outputs that carry an output of the emulation of port `p`. -/
def State.emuOutputs (s : State) (p src : Nat) : List Nat :=
  (List.range 16).filter fun j => decide (s.fld (FIO_PO_CFG j) FIO_PO_CFG_SRC = src) &&
    decide (s.fld (FIO_PO_CFG j) FIO_PO_CFG_EMU_PORT = p)

/-- Gives an emulation output its level. -/
def State.emuDrive (s : State) (p src : Nat) (level : Bool) : State :=
  (s.emuOutputs p src).foldl (fun t j =>
    (t.setOut (outPrecision j) { t.out (outPrecision j) with emu := level }).refresh (outPrecision j)) s

/-- The levels of the emulation outputs of port `p`. -/
def State.emuShow (s : State) (p : Nat) : State :=
  ((s.emuDrive p 1 (s.emuLevel p 1)).emuDrive p 2 (s.emuLevel p 2)).emuDrive p 3 (s.emuLevel p 3)

/-- A change of pos drives the accumulator (R223); a backlog beyond its range drops the excess (R224). -/
def State.emuInput (s : State) (p : Nat) (d : Int) : State :=
  if s.flag (FBP_EMU_CFG p) FBP_EMU_CFG_EMU_EN ∧ d ≠ 0 then
    let x := s.port p
    let div : Int := (s.fld (FBP_EMU_RATIO p) FBP_EMU_RATIO_DIV : Nat)
    let acc := x.emuAcc + d * (s.fld (FBP_EMU_RATIO p) FBP_EMU_RATIO_MUL : Nat)
    let k := divT acc div
    let b := x.backlog + k
    let c := clampI (-65535) 65535 b
    let t := s.setPort p { x with emuAcc := acc - k * div, backlog := c }
    if c = b then t else (t.latch (FBP_EMU_STAT p) FBP_EMU_STAT_OVF).portError p 15
  else s

/-- An output count of the emulation is due (R224). -/
def State.emuDue (s : State) (p : Nat) : Bool :=
  let x := s.port p
  s.flag (FBP_EMU_CFG p) FBP_EMU_CFG_EMU_EN && decide (x.emuNext ≤ s.time) &&
    (decide (x.backlog ≠ 0) || (s.emuPulse p && decide (x.emuState = 1)))

/-- The index pulse at an output count: it ends after one count, and a pending one starts (R224). -/
def Port.emuIndex (x : Port) : Port :=
  if x.emuIdx then { x with emuZ := true, emuIdx := false } else { x with emuZ := false }

/-- EMU_OUTPUT_COUNT (R224): one quadrature state, or a direction change, the start or the end of a pulse. -/
def State.emuCount (s : State) (p : Nat) : State :=
  if s.emuDue p then
    let x := s.port p
    let minp := s.fld (FBP_EMU_CFG p) FBP_EMU_CFG_MINP
    let rev := decide (x.backlog < 0)
    let step : Int := if rev then 1 else -1
    let y :=
      if s.emuPulse p then
        if x.emuState = 1 then { x with emuState := 0, emuNext := s.time + (minp - minp / 2) }
        else if rev ≠ x.emuDir then { x with emuDir := rev, emuNext := s.time + minp / 2 }
        else { x.emuIndex with emuState := 1, emuNext := s.time + minp / 2, backlog := x.backlog + step }
      else
        { x.emuIndex with emuState := if rev then (x.emuState + 3) % 4 else (x.emuState + 1) % 4,
                          emuNext := s.time + minp, backlog := x.backlog + step }
    (s.setPort p y).emuShow p
  else s

/-! ## Index (R212 to R214) -/

/-- The qualified index of a port's levels (R212). -/
def State.qualified (s : State) (p : Nat) (x : Port) : Bool :=
  x.lvZ && (!s.flag (FBP_CFG p) FBP_CFG_IDX_GATE || (x.lvA && x.lvB))

/-- Delivers an index event as a mark to the INCR shafts of the port, unless the port is faulted (R229). -/
def State.indexDeliver (s : State) (p : Nat) (o : IndexMark) : State :=
  if s.portFaulted p then s
  else (s.shaftsOfPort p 1).foldl (fun t n => t.incrMark n o (t.portDir p) (t.portPos p)) s

/-- An index event (R213, R214). -/
def State.indexEvent (s : State) (p : Nat) : State :=
  let x := s.port p
  if ¬s.flag (FBP_STAT p) FBP_STAT_REFD then
    let at_ : Int := (s.fld (FBP_IDX p) FBP_IDX_IDX_POS : Nat)
    let y := if s.flag (FBP_CFG p) FBP_CFG_IDX_RST then { x with raw := at_, pos := at_, idxRef := at_ }
      else { x with idxRef := x.raw }
    (((s.setPort p y).setFlag (FBP_STAT p) FBP_STAT_REFD true).portEvent p 2).indexDeliver p .ref
  else
    let net := count32 (x.raw - x.idxRef)
    let tol : Int := (s.fld (FBP_IDX p) FBP_IDX_TOL : Nat)
    let s1 := s.setSigned (FBP_LC p) net
    if (net.natAbs : Int) ≤ tol then s1
    else
      let s2 := s1.setPort p { x with idxRef := x.raw }
      if ((((net.natAbs : Int) - (s.portWrap p : Nat)).natAbs : Nat) : Int) ≤ tol then
        let s3 := s2.setFlag (FBP_STAT p) FBP_STAT_DOUBTFUL false
        let s4 := if s.flag (FBP_EMU_CFG p) FBP_EMU_CFG_Z_EN ∧ s.flag (FBP_EMU_CFG p) FBP_EMU_CFG_EMU_EN then
            s3.setPort p { s3.port p with emuIdx := true }
          else s3
        s4.indexDeliver p .pass
      else
        let s3 := (s2.count (FBP_ERR p) FBP_ERR_LCERR 1).portError p 4
        if s.flag (FBP_CFG p) FBP_CFG_LC_FAULT then s3.portFault p else s3.indexDeliver p .fail

/-! ## The probe (R220) -/

/-- An edge of the probe's input that qualifies. -/
def State.probeEdge (s : State) (p : Nat) (o x : Port) : Bool :=
  let a := if s.fld (FBP_PRB_CFG p) FBP_PRB_CFG_SRC = 0 then o.lvZ else o.lvX
  let b := if s.fld (FBP_PRB_CFG p) FBP_PRB_CFG_SRC = 0 then x.lvZ else x.lvX
  decide (s.fld (FBP_PRB_CFG p) FBP_PRB_CFG_MODE ≠ 0) && toothSelected (s.fld (FBP_PRB_CFG p) FBP_PRB_CFG_EDGE) a b

/-- The probe latches POS, the tick and φ of its shaft (R220). -/
def State.probeLatch (s : State) (p : Nat) : State :=
  let a := FBP_PRB_STAT p
  let sh := s.fld (FBP_PRB_CFG p) FBP_PRB_CFG_SHAFT
  let s1 := if s.flag a FBP_PRB_STAT_VALID then s.latch a FBP_PRB_STAT_OVR else s
  let s2 := (s1.latch a FBP_PRB_STAT_VALID).setFlag a FBP_PRB_STAT_ANG_INV (!s.angValid sh)
  let s3 := ((s2.setRg (FBP_PRB_POS p) (BitVec.ofNat 32 (s.portPos p))).setRg64 (FBP_PRB_TIME_LO p) s.time).setRg64
    (FBP_PRB_ANG_LO p) (unsigned 64 (s.phiInt sh))
  let s4 := s3.setFld (FBP_PRB_CNT p) FBP_PRB_CNT_PRB_CNT (s3.fld (FBP_PRB_CNT p) FBP_PRB_CNT_PRB_CNT + 1)
  let s5 := if s.fld (FBP_PRB_CFG p) FBP_PRB_CFG_MODE = 1 then s4.setFld (FBP_PRB_CFG p) FBP_PRB_CFG_MODE 0 else s4
  s5.portEvent p 1

/-! ## Acceptance (R206, R222) -/

/-- Levels after INV (R206). -/
def State.afterInv (s : State) (p : Nat) (bit : Nat) (pin : Bool) : Bool := pin != bitOf (s.pcf p FBP_CFG_INV) bit

/-- The filter of an input of port `p` is offered a level: it accepts one that differs from the level it holds and can have
been seen for FILT + 1 ticks since it accepted that one (R206). The level, and the tick of acceptance plus 1. -/
def State.filtered (s : State) (p : Nat) (held : Bool) (at_ : Nat) (level : Bool) : Bool × Nat :=
  if level = held ∨ (at_ ≠ 0 ∧ s.time + 1 < at_ + s.pcf p FBP_CFG_FILT + 1) then (held, at_) else (level, s.time + 1)

/-- The levels that the filters hold once the four pins have been offered; in SSI and BISS the data input on A has none
(R205, R206). -/
def State.portTakes (s : State) (p : Nat) (a b z x : Bool) : Port :=
  let o := s.port p
  let ra := if s.portSerial p then (o.lvA, o.atA) else s.filtered p o.lvA o.atA (s.afterInv p 0 a)
  let rb := s.filtered p o.lvB o.atB (s.afterInv p 1 b)
  let rz := s.filtered p o.lvZ o.atZ (s.afterInv p 2 z)
  let rx := s.filtered p o.lvX o.atX (s.afterInv p 3 x)
  { o with lvA := ra.1, lvB := rb.1, lvZ := rz.1, lvX := rx.1, atA := ra.2, atB := rb.2, atZ := rz.2, atX := rx.2 }

/-- The edges that an acceptance delivers to shafts (R208, R210): teeth, second-wheel edges and counts. -/
def State.portDeliver (s : State) (p : Nat) (o : Port) (d : Int) : State :=
  if s.portFaulted p then s
  else
    let x := s.port p
    let s1 :=
      if s.portMode p = 3 ∧ toothSelected (s.pcf p FBP_CFG_EDGE) o.lvA x.lvA then
        (s.shaftsOfPort p 0).foldl (fun t n => t.toothEdge n) s
      else s
    let s2 :=
      if s.portMode p = 3 ∧ x.lvA ≠ o.lvA then (s.shaftsOfIdx p).foldl (fun t n => t.secondEdge n x.lvA) s1
      else s1
    if d ≠ 0 ∧ s.portMode p ≤ 2 then
      (s.shaftsOfPort p 1).foldl (fun t n => t.incrEdge n d (t.portDir p) (t.portPos p)) s2
    else s2

/-- FILTER_ACCEPTANCE: the filters accept the levels of the four pins, and the port acts in the order of R222. The emulation
takes every change that counting and referencing have made to pos (R223). -/
def State.portAccept (s : State) (p : Nat) (a b z x : Bool) : State :=
  if s.settling p then s
  else
    let o := s.port p
    let n := s.portTakes p a b z x
    let s0 := s.setPort p n
    if ¬s.portEn p then s0
    else
      let c := s0.portCount p o
      let r := c.1.portRaw p c.2
      let s1 := r.1.portDeliver p o r.2
      let s2 :=
        if s.flag (FBP_CFG p) FBP_CFG_IDX_EN ∧ s.portMode p ≤ 2 ∧ s.qualified p n ∧ ¬s.qualified p o then s1.indexEvent p
        else s1
      let s3 := if s.probeEdge p o n then s2.probeLatch p else s2
      s3.emuInput p (count32 ((s3.port p).pos - o.pos))

/-! ## Serial frames (R216 to R219) -/

/-- BITS, MT_BITS and ST of a port. -/
def State.serBits (s : State) (p : Nat) : Nat := s.fld (FBP_SER_CFG p) FBP_SER_CFG_BITS
def State.serTurn (s : State) (p : Nat) : Nat := s.serBits p - s.fld (FBP_SER_CFG p) FBP_SER_CFG_MT_BITS

/-- A frame is due to start (R216). One that outlived its enable ends first (DESIGN CHOICE, log 63). -/
def State.frameDue (s : State) (p : Nat) : Bool :=
  s.portEn p && s.portSerial p && !s.settling p && (s.port p).frame.all Prod.snd &&
    (match (s.port p).nextFrame with
     | some t => decide (t ≤ s.time)
     | none => false)

/-- SERIAL_FRAME_START (R216). -/
def State.frameStart (s : State) (p : Nat) : State :=
  if s.frameDue p then
    s.setPort p { s.port p with frame := some (s.time, true),
                                nextFrame := some (s.time + s.fld (FBP_SER_PER p) FBP_SER_PER_FPER) }
  else s

/-- Binary from Gray code of up to 32 bits (R217). -/
def fromGray (v : Nat) : Nat :=
  [16, 8, 4, 2, 1].foldr (fun k a => Nat.xor a (a / 2 ^ k)) v

/-- CRC of a BiSS frame: x^6 + x + 1, initial 0, over the position bits, nE and nW, sent inverted (R218). -/
def bissCrc (bits v : Nat) (nE nW : Bool) : Nat :=
  let stream := ((List.range bits).map fun i => bitOf v (bits - 1 - i)) ++ [nE, nW]
  63 - stream.foldl (fun c b =>
    let top := bitOf c 5 != b
    let d := c * 2 % 64
    if top then Nat.xor d 3 else d) 0

/-- The position a frame spells. -/
def State.serValue (s : State) (p : Nat) (r : SerSample) : Nat :=
  let v := r.value % 2 ^ s.serBits p
  if s.portMode p = 5 ∧ s.flag (FBP_SER_CFG p) FBP_SER_CFG_GRAY then fromGray v % 2 ^ s.serBits p else v

/-- The cause with which a frame fails, none where it is valid (R217 to R219). -/
def State.serFails (s : State) (p : Nat) (r : SerSample) : Option Nat :=
  let v := s.serValue p r
  let jmax := (s.rg (FBP_SER_JMAX p)).toNat
  let jump := match (s.port p).lastSer with
    | some l => decide (jmax ≠ 0) &&
        decide (jmax < (signed (s.serBits p) (unsigned (s.serBits p) ((v : Int) - l))).natAbs)
    | none => false
  if ¬r.ready then some 6
  else if s.portMode p = 5 then
    (if s.flag (FBP_SER_CFG p) FBP_SER_CFG_ZCHK ∧ r.zero then some 11 else if jump then some 10 else none)
  else if ¬r.started then some 7
  else if r.crc % 64 ≠ bissCrc (s.serBits p) v r.nE r.nW then some 8
  else if ¬r.nE then some 9
  else if jump then some 10
  else none

/-- A failed frame (R219); one that is not delivered reaches no shaft (R232). -/
def State.frameFail (s : State) (p cause : Nat) (deliver : Bool) : State :=
  let s1 := (s.count (FBP_ERR p) FBP_ERR_FRAME_ERR 1).count (FBP_SER_STAT p) FBP_SER_STAT_BAD_RUN 1
  let s2 := s1.portError p cause
  if s.portFaulted p ∨ ¬deliver then s2 else (s.shaftsOfPort p 2).foldl (fun t n => t.absBadFrame n) s2

/-- A valid frame (R219). -/
def State.frameGood (s : State) (p : Nat) (r : SerSample) (sample : Nat) : State :=
  let v := s.serValue p r
  let st := s.serTurn p
  let x := s.port p
  let d : Int := match x.lastSer with
    | some l => signed st (unsigned st ((v : Int) - l))
    | none => 0
  let s1 := (s.setPort p { x with lastSer := some v, serCount := x.serCount + d }).setRg (FBP_SER_POS p) (BitVec.ofNat 32 v)
  let s2 := s1.setFld (FBP_SER_STAT p) FBP_SER_STAT_BAD_RUN 0
  let s3 := if s.portMode p = 6 then
      (s2.setFld (FBP_SER_STAT p) FBP_SER_STAT_LDLY r.delay).setFlag (FBP_STAT p) FBP_STAT_WARN (!r.nW)
    else s2
  let r := s3.portRaw p d
  let s4 := if s.portFaulted p then r.1
    else
      (s.shaftsOfPort p 2).foldl (fun t n =>
        t.absFrame n (v / 2 ^ st) (v % 2 ^ st * 2 ^ (48 - st)) (d * 2 ^ (48 - st)) (t.portDir p) sample) r.1
  s4.emuInput p r.2

/-- Clock periods that a frame has had when it is judged: the position bits of SSI, in BISS a start bit within 16 periods and
the bits of nE, nW and the CRC with the position; a frame that finds the encoder not ready ends before any (R217, R218). -/
def State.framePeriods (s : State) (p : Nat) (r : SerSample) : Nat :=
  if ¬r.ready then 0 else if s.portMode p = 5 then s.serBits p else if r.started then s.serBits p + 8 else 16

/-- Ticks that such a frame has taken (R216). -/
def State.frameLength (s : State) (p : Nat) (r : SerSample) : Nat :=
  2 * s.fld (FBP_SER_CLK p) FBP_SER_CLK_HALF * s.framePeriods p r

/-- SERIAL_FRAME_END: the frame in progress, its clocks given, is judged (R216, R219); one that outlived its enable is not
delivered, and where it is valid only reaches SER_POS (R232). -/
def State.frameEnd (s : State) (p : Nat) (r : SerSample) : State :=
  match (s.port p).frame with
  | none => s
  | some (sample, deliver) =>
    if s.time < sample + s.frameLength p r then s
    else
      let s1 := s.setPort p { s.port p with frame := none }
      match s.serFails p r with
      | some c => s1.frameFail p c deliver
      | none =>
        if deliver then s1.frameGood p r sample else s1.setRg (FBP_SER_POS p) (BitVec.ofNat 32 (s.serValue p r))

/-! ## Supplies and line breaks (R225 to R229) -/

/-- Declared power of a port's supply in mW (R226). -/
def State.supPower (s : State) (p : Nat) : Nat :=
  s.fld (FBP_SUP p) FBP_SUP_ILOAD * (if s.fld (FBP_SUP p) FBP_SUP_VSEL = 1 then 12 else 5)

/-- The supply is on. -/
def State.supOn (s : State) (p : Nat) : Bool := s.flag (FBP_SUP_STAT p) FBP_SUP_STAT_ON

/-- DECL: declared power of the supplies that are on. -/
def State.supDecl (s : State) : Nat :=
  (List.range 16).foldl (fun a p => if s.supOn p then a + s.supPower p else a) 0

/-- A supply comes on through SETTLING (R225). -/
def State.supplyOn (s : State) (p : Nat) : State :=
  (s.setFlag (FBP_SUP_STAT p) FBP_SUP_STAT_ON true).setPort p
    { s.port p with settleEnd := some (s.time + s.fld (FBP_SUP p) FBP_SUP_DELAY * ticksMs) }

/-- The port is not SETTLING any more; frames that SETTLING held back start (R216, R225). -/
def State.settled (s : State) (p : Nat) : State :=
  let x := s.port p
  s.setPort p { x with
    settleEnd := none
    nextFrame := if s.settling p && s.portEn p && s.portSerial p then some s.time else x.nextFrame }

/-- A supply goes off; a SETTLING ends with it. -/
def State.supplyOff (s : State) (p : Nat) : State := (s.setFlag (FBP_SUP_STAT p) FBP_SUP_STAT_ON false).settled p

/-- SETTLING is over (R225). -/
def State.settleDue (s : State) (p : Nat) : Bool :=
  match (s.port p).settleEnd with
  | some t => decide (t ≤ s.time)
  | none => false

/-- SETTLING_END: the levels present become the starting levels (R225); a serial port starts its frames (R216). -/
def State.settleEnd (s : State) (p : Nat) (a b z x : Bool) : State :=
  if s.settleDue p then
    let n := { s.port p with
      settleEnd := none
      lvA := s.afterInv p 0 a
      lvB := s.afterInv p 1 b
      lvZ := s.afterInv p 2 z
      lvX := s.afterInv p 3 x
      atA := s.time + 1
      atB := s.time + 1
      atZ := s.time + 1
      atX := s.time + 1
      nextFrame := if s.portEn p && s.portSerial p then some s.time else none }
    s.setPort p { n with hallRef := n.hallCode }
  else s

/-- OVERCURRENT: the supply has drawn more than ILOAD + 20 mA for 5 ms (R227). -/
def State.overcurrent (s : State) (p ma : Nat) : State :=
  if s.supOn p ∧ s.fld (FBP_SUP p) FBP_SUP_ILOAD + 20 < ma then
    let t := ((s.supplyOff p).setFlag (FBP_SUP_STAT p) FBP_SUP_STAT_OC true).setFld (FBP_SUP_STAT p) FBP_SUP_STAT_IMEAS
      (satTo 255 ma)
    (t.portError p 13).portFault p
  else s

/-- LINE_BREAK on input `i` (R228). -/
def State.lineBreak (s : State) (p i : Nat) : State :=
  if s.portEn p ∧ ¬s.settling p ∧ bitOf (s.pcf p FBP_CFG_LBCHK) i then
    let a := FBP_STAT p
    ((s.setFld a FBP_STAT_LBRK (Nat.lor (s.fld a FBP_STAT_LBRK) (2 ^ i))).portError p 12).portFault p
  else s

/-- LINE_BREAK_END on input `i` (R228). -/
def State.lineBreakEnd (s : State) (p i : Nat) : State :=
  let a := FBP_STAT p
  s.setFld a FBP_STAT_LBRK (Nat.land (s.fld a FBP_STAT_LBRK) (Nat.xor 15 (2 ^ i)))

/-- A write of 1 to PFAULT (R229). -/
def State.pfaultClear (s : State) (p : Nat) : State :=
  if s.fld (FBP_STAT p) FBP_STAT_LBRK ≠ 0 ∨ s.flag (FBP_SUP_STAT p) FBP_SUP_STAT_OC ∨
      s.isFresh (FBP_STAT p) FBP_STAT_PFAULT then s
  else if s.portFaulted p then
    ((s.setFlag (FBP_STAT p) FBP_STAT_PFAULT false).setFlag (FBP_STAT p) FBP_STAT_REFD false).faultEnd fltPort p
  else s

/-! ## Enabling and registers (R211, R231, R232, R234) -/

/-- The checks of a write that sets EN (R216, R231). -/
def State.portCfgOk (s : State) (p : Nat) : Bool :=
  let m := s.portMode p
  let serial := s.portSerial p
  let wrap := s.portWrap p
  let bits := s.serBits p
  let mt := s.fld (FBP_SER_CFG p) FBP_SER_CFG_MT_BITS
  let half := s.fld (FBP_SER_CLK p) FBP_SER_CLK_HALF
  let c := if m = 5 then bits + 1 else bits + 25
  decide (m ≠ 7) && (decide (m ≠ 3) || decide (s.pcf p FBP_CFG_EDGE ≠ 3)) &&
    (serial || (decide (2 ≤ wrap) && decide (wrap ≤ 16777216) && decide (s.fld (FBP_IDX p) FBP_IDX_IDX_POS < wrap) &&
      (decide (m ≠ 4) || decide (wrap % 6 = 0)))) &&
    decide (8 ≤ bits) && decide (bits ≤ 32) && decide (mt + 8 ≤ bits) &&
    (!serial || (decide ((if m = 5 then 100 else 20) ≤ half) && decide (half ≤ 2000) &&
      decide (2 * half * c + 100 * s.fld (FBP_SER_CLK p) FBP_SER_CLK_MONO ≤ s.fld (FBP_SER_PER p) FBP_SER_PER_FPER)))

/-- PORT_ENABLE (R216, R220, R231). -/
def State.portEnable (s : State) (p : Nat) : State :=
  let x := s.port p
  let s1 := ((s.setFlag (FBP_STAT p) FBP_STAT_REFD false).setFlag (FBP_STAT p) FBP_STAT_DOUBTFUL false).setFlag (FBP_STAT p)
    FBP_STAT_DIR false
  (s1.setRg (FBP_PRB_CNT p) 0).setPort p
    { x with raw := x.pos, idxRef := x.pos, dbl := false, hallErr := false, hallRef := x.hallCode, lastSer := none,
             serCount := x.pos, frame := x.frame.map fun f => (f.1, false),
             nextFrame := if s.portSerial p && x.settleEnd.isNone then some s.time else none }

/-- PORT_DISABLE (R232). -/
def State.portDisable (s : State) (p : Nat) : State :=
  let x := s.port p
  let s1 := (s.setFld (FBP_PRB_CFG p) FBP_PRB_CFG_MODE 0).setFld (FBP_EMU_STAT p) FBP_EMU_STAT_BACKLOG (unsigned 17 x.backlog)
  s1.setPort p { x with nextFrame := none, frame := x.frame.map fun f => (f.1, false), backlog := 0, emuAcc := 0 }

/-- A write of FBPn_CFG (R231, R232). -/
def State.writePortCfg (s : State) (p : Nat) (w : Wr) : State × Status :=
  if w.was FBP_CFG_EN = 1 then
    if w.changes (~~~ (FBP_CFG_EN.mask ||| FBP_CFG_LBCHK.mask)) then (s, .state)
    else if w.fld FBP_CFG_EN = 0 then
      if s.portNamed p then (s, .state) else ((s.plainWrite w).portDisable p, .ok)
    else (s.plainWrite w, .ok)
  else if w.fld FBP_CFG_EN = 1 then
    let t := s.plainWrite w
    if t.portCfgOk p then (t.portEnable p, .ok) else (s, .range)
  else (s.plainWrite w, .ok)

/-- A write of FBPn_SUP (R225, R226, R227). -/
def State.writeSupply (s : State) (p : Nat) (w : Wr) : State × Status :=
  let load := w.fld FBP_SUP_ILOAD
  let bad := decide (load = 0) || decide (200 < load)
  let cfg := FBP_SUP_VSEL.mask ||| FBP_SUP_ILOAD.mask
  if w.was FBP_SUP_EN = 1 ∧ w.changes cfg then (s, .state)
  else if bad ∧ (w.fld FBP_SUP_EN = 1 ∨ w.changes FBP_SUP_ILOAD.mask) then (s, .range)
  else
    let t := s.plainWrite w
    if w.was FBP_SUP_EN = 0 ∧ w.fld FBP_SUP_EN = 1 then
      if s.fld FBP_SUP_BUDGET FBP_SUP_BUDGET_ALLOW < s.supDecl + t.supPower p then (s, .budget)
      else (t.supplyOn p, .ok)
    else if w.was FBP_SUP_EN = 1 ∧ w.fld FBP_SUP_EN = 0 then
      ((t.supplyOff p).setFlag (FBP_SUP_STAT p) FBP_SUP_STAT_OC false, .ok)
    else (t, .ok)

/-- POS_WRITE (R211). -/
def State.writePos (s : State) (p v : Nat) : State × Status :=
  if s.posModulus p ≤ v then (s, .range)
  else if s.portIsMain p then (s, .state)
  else ((s.setPort p { s.port p with raw := v, pos := v }).emuInput p (count32 (v - (s.port p).pos)), .ok)

/-- A write of FBPn_EMU_CFG (R223, R224). -/
def State.writeEmu (s : State) (p : Nat) (w : Wr) : State × Status :=
  let mul := s.fld (FBP_EMU_RATIO p) FBP_EMU_RATIO_MUL
  let div := s.fld (FBP_EMU_RATIO p) FBP_EMU_RATIO_DIV
  if w.fld FBP_EMU_CFG_MINP < 16 then (s, .range)
  else if w.was FBP_EMU_CFG_EMU_EN = 0 ∧ w.fld FBP_EMU_CFG_EMU_EN = 1 then
    if mul = 0 ∨ div = 0 ∨ div < mul then (s, .range)
    else (((s.plainWrite w).setPort p { s.port p with emuAcc := 0, backlog := 0, emuNext := s.time, emuIdx := false }).emuShow p, .ok)
  else ((s.plainWrite w).emuShow p, .ok)

/-- A write to a register of port `p` (R211, R220, R229, R231). -/
def State.writePort (s : State) (p : Nat) (w : Wr) : State × Status :=
  let fixed := decide (w.base = FBP_WRAP 0) || decide (w.base = FBP_IDX 0) || decide (w.base = FBP_SER_CFG 0) ||
    decide (w.base = FBP_SER_CLK 0) || decide (w.base = FBP_SER_PER 0) || decide (w.base = FBP_SER_JMAX 0)
  if w.base = FBP_CFG 0 then s.writePortCfg p w
  else if fixed ∧ s.portEn p ∧ w.changes 0xFFFFFFFF then (s, .state)
  else if w.base = FBP_SER_CLK 0 ∧ w.fld FBP_SER_CLK_MONO = 0 then (s, .range)
  else if w.base = FBP_SER_PER 0 ∧ (w.fld FBP_SER_PER_FPER < 400 ∨ 4000000 < w.fld FBP_SER_PER_FPER) then (s, .range)
  else if w.base = FBP_POS 0 then s.writePos p (w.fld FBP_POS_POS)
  else if w.base = FBP_STAT 0 then
    let t := if w.acts FBP_STAT_PFAULT then s.pfaultClear p else s
    (if w.acts FBP_STAT_DOUBTFUL ∧ ¬s.isFresh (FBP_STAT p) FBP_STAT_DOUBTFUL then t.setFlag (FBP_STAT p) FBP_STAT_DOUBTFUL false
     else t, .ok)
  else if w.base = FBP_PRB_CFG 0 then
    if w.fld FBP_PRB_CFG_EDGE = 3 ∨ w.fld FBP_PRB_CFG_MODE = 3 then (s, .range) else (s.plainWrite w, .ok)
  else if w.base = FBP_EMU_CFG 0 then s.writeEmu p w
  else if w.base = FBP_SUP 0 then s.writeSupply p w
  else (s.plainWrite w, .ok)

/-- A register of the feedback block as it reads (R210, R226, R234); what is measured is a free value (log 63). -/
def State.viewPort (s : State) (b p a : Nat) : Word :=
  let x := s.port p
  if b = FBP_POS 0 then BitVec.ofNat 32 (s.portPos p)
  else if b = FBP_STAT 0 then
    (((s.rg a).setF FBP_STAT_SETTLING (b2n (s.settling p))).setF FBP_STAT_LEVEL
      (b2n x.lvA + 2 * b2n x.lvB + 4 * b2n x.lvZ + 8 * b2n x.lvX)).setF FBP_STAT_HALL
      (if s.portMode p = 4 then x.hallCode else 0)
  else if b = FBP_EMU_STAT 0 ∧ s.portEn p then (s.rg a).setF FBP_EMU_STAT_BACKLOG (unsigned 17 x.backlog)
  else if b = FBP_SUP_STAT 0 ∧ s.supOn p then (s.rg a).setF FBP_SUP_STAT_IMEAS (Config.measured p s.time % 256)
  else if b = FBP_SUP_MEAS then (s.rg a).setF FBP_SUP_MEAS_MEAS (Config.measured 16 s.time % 65536)
  else if b = FBP_SUP_BUDGET then
    ((s.rg a).setF FBP_SUP_BUDGET_SUP_OVER (b2n (decide (s.fld a FBP_SUP_BUDGET_ALLOW < s.supDecl)))).setF
      FBP_SUP_BUDGET_DECL s.supDecl
  else s.rg a

end Sys2Proof.Machine
end

