-- ==== Sys2Proof/Machine/Canary.lean ====
section
/-! DEFINITION. The Canary (R446 to R458): edge decoders, program runs, wake decisions, loading. -/

namespace Sys2Proof.Machine

/-! ## Wake events (R437, R438, R455) -/

/-- Wake values (R437). -/
def wakeToken : Nat := 1
def wakeCanary : Nat := 2
def wakeAlarm : Nat := 3

/-- AON latches wake events in Watch, and from the acceptance of a POWER_STATE to Watch on (R438). -/
def State.latchesWake (s : State) : Bool := decide (s.power = .watch) || s.watchNext.isSome

/-- A wake event is latched (R437): REASON holds the lowest value among those of the first AON cycle, MASK all. -/
def State.wakeEvent (s : State) (v : Nat) : State :=
  if s.latchesWake then
    let r := s.fld PWR_WAKE PWR_WAKE_REASON
    let first := s.wakeAt.isNone
    let same := decide (s.wakeAt = some s.aon)
    let t := s.setFld PWR_WAKE PWR_WAKE_MASK (Nat.lor (s.fld PWR_WAKE PWR_WAKE_MASK) (2 ^ (v - 1)))
    let u := if first ∨ (same ∧ v < r) then t.setFld PWR_WAKE PWR_WAKE_REASON v else t
    { u with wakeAt := some (s.wakeAt.getD s.aon) }
  else s

/-- Sources of a Canary wake (R455). -/
def canMotion : Nat := 1
def canDecoder : Nat := 2
def canProgram : Nat := 3
def canFault : Nat := 4

/-- A wake event of the Canary (R448, R450, R455): the first is recorded, the lowest SOURCE among those of one AON
cycle. -/
def State.canWake (s : State) (source shaft code : Nat) : State :=
  if s.power = .watch then
    let old := s.fld CAN_WAKE CAN_WAKE_SOURCE
    let t :=
      if old = 0 ∨ (s.wakeAt = some s.aon ∧ source < old) then
        ((s.setFld CAN_WAKE CAN_WAKE_SOURCE source).setFld CAN_WAKE CAN_WAKE_SHAFT shaft).setFld CAN_WAKE CAN_WAKE_CODE code
      else s
    t.wakeEvent wakeCanary
  else s

/-! ## Decoders (R446 to R448) -/

/-- Decoder `n`. -/
def State.canDec (s : State) (n : Nat) : CanDec := FMap.get (fun _ => CanDec.init) s.canary.dec n

/-- The state with decoder `n` replaced. -/
def State.setCanDec (s : State) (n : Nat) (x : CanDec) : State :=
  { s with canary := { s.canary with dec := FMap.set (fun _ => CanDec.init) s.canary.dec n x } }

/-- The supply of a port allows counting in Watch (R233, R446). -/
def State.supWatch (s : State) (p : Nat) : Bool :=
  !s.flag (FBP_SUP p) FBP_SUP_EN || s.flag (FBP_SUP p) FBP_SUP_WATCH

/-- A shaft is counted at the handover (R446). -/
def State.canCounts (s : State) (n : Nat) : Bool :=
  let p := s.shc n SHF_CFG_PORT
  s.shaftEn n && decide ((s.shaft n).st = .synced) && decide (s.shaftSrc n ≤ 1) && decide (s.portMode p ≤ 3) &&
    !s.portFaulted p && s.supWatch p &&
    (decide (s.shc n SHF_CFG_DIR_SRC ≠ 2) || s.supWatch (s.shc n SHF_CFG_DIR_PORT))

/-- Levels of bank 0's inputs at the handover (R452): outputs and an unsupplied bank read 0. -/
def State.canHandLevels (s : State) : Nat :=
  if s.flag (FIO_BANK_STAT 0) FIO_BANK_STAT_BS_OK then
    (List.range 16).foldl (fun n k => n + b2n (!s.flag (FIO_EL_CFG k) FIO_EL_CFG_DIR && s.line k) * 2 ^ k) 0
  else 0

/-- The event lines 0-15 that are inputs (R452). -/
def State.canInputLines (s : State) : Nat :=
  (List.range 16).foldl (fun n k => n + b2n (!s.flag (FIO_EL_CFG k) FIO_EL_CFG_DIR) * 2 ^ k) 0

/-- The handover of shafts 0-3 (R446). -/
def State.canTake (s : State) : State :=
  State.forEach 4 (fun t n =>
    let x := t.shaft n
    let o := t.port (t.shc n SHF_CFG_PORT)
    let a := CAN_SH_STAT n
    ((t.setCanDec n
      { counted := t.canCounts n, clean := t.canCounts n, ovr := false, net := 0, lvA := o.lvA, lvB := o.lvB,
        raw := o.raw, pos := o.pos, hp := x.hp, turn := x.turn, cycleBase := x.cycleBase,
        rev := if t.shaftSrc n = 1 then t.portDir (t.shc n SHF_CFG_PORT) else x.dir }).setFld a CAN_SH_STAT_QERR 0)) s

/-- The raw change that an acceptance counts, and whether it is a double change (R208, R209). -/
def canDelta (mode edge : Nat) (oa ob a b : Bool) : Int × Bool :=
  match mode with
  | 0 =>
    if a ≠ oa ∧ b ≠ ob then (0, true)
    else if a ≠ oa ∨ b ≠ ob then
      (if quadIndex a b = (quadIndex oa ob + 1) % 4 then 1 else -1, false)
    else (0, false)
  | 1 => (if a && !oa then (if b then -1 else 1) else 0, false)
  | 2 => ((b2n (a && !oa) : Int) - b2n (b && !ob), false)
  | _ => (if toothSelected edge oa a then 1 else 0, false)

/-- The positions between two places one tooth apart. -/
def State.placeGap (s : State) (n : Nat) (rev : Bool) (a b : Place) : Int :=
  let l := s.cyclePos n
  let i := a.turn * s.positions n + a.hp / 2
  let j := b.turn * s.positions n + b.hp / 2
  if rev then -(((i + l - j) % l : Nat) : Int) else (((j + l - i) % l : Nat) : Int)

/-- A tooth counted by the decoder of shaft `n` (R42, R60, R447): at a change of direction the place stays. -/
def State.canTooth (s : State) (n : Nat) (x : CanDec) (rev : Bool) : CanDec :=
  if rev ≠ x.rev then { x with rev := rev }
  else
    let p : Place := { hp := x.hp, turn := x.turn, cycleBase := x.cycleBase }
    let q := s.stepPlace n rev p
    { x with hp := q.hp, turn := q.turn, cycleBase := q.cycleBase, net := x.net + s.placeGap n rev p q }

/-- A count of the decoder of an INCR shaft, through the hysteresis (R208, R210, R447): NET counts the changes of the
position, as a port delivers them to its shafts. -/
def canIncr (x : CanDec) (d : Int) : CanDec :=
  if d = 0 then x
  else
    let raw := x.raw + d
    let h := hysteresis x.rev raw x.pos
    { x with raw := raw, rev := h.1, pos := h.2, net := x.net + (h.2 - x.pos) }

/-- CANARY_EDGE (R447, R448): two changes less than 250 ns apart are treated as a double change. The filter of decoder
`n` accepts levels of A and B of PORT; `dirX` is the level of X and
`dirA` that of A of DIR_PORT; `fast` tells that the change before lies less than 250 ns back. -/
def State.canEdge (s : State) (n : Nat) (a b dirX dirA fast : Bool) : State :=
  let x := s.canDec n
  if s.power = .watch ∧ x.counted then
    let p := s.shc n SHF_CFG_PORT
    let va := s.afterInv p 0 a
    let vb := s.afterInv p 1 b
    let inv := s.flag (SHF_MOTION n) SHF_MOTION_DIR_INV
    let d := if fast then (0, true) else canDelta (s.portMode p) (s.pcf p FBP_CFG_EDGE) x.lvA x.lvB va vb
    let y :=
      if s.shaftSrc n = 1 then canIncr x d.1
      else if d.1 = 0 then x
      else
        s.canTooth n x (if s.shc n SHF_CFG_DIR_SRC = 1 then s.afterInv p 3 dirX != inv
          else if s.shc n SHF_CFG_DIR_SRC = 2 then s.afterInv (s.shc n SHF_CFG_DIR_PORT) 0 dirA != inv
          else false)
    let t := s.setCanDec n { y with lvA := va, lvB := vb, ovr := y.ovr || fast, clean := y.clean && !d.2 }
    let t := if d.2 then t.count (CAN_SH_STAT n) CAN_SH_STAT_QERR 1 else t
    let t := if s.flag (CAN_SH_CFG n) CAN_SH_CFG_MOT_WAKE ∧ s.fld (CAN_SH_CFG n) CAN_SH_CFG_MOT ≤ y.net.natAbs ∧
        x.net ≠ y.net then t.canWake canMotion n 0 else t
    if d.2 ∧ x.clean ∧ s.flag (CAN_SH_CFG n) CAN_SH_CFG_DWAKE then t.canWake canDecoder n 0 else t
  else s

/-! ## Words (R453) -/

/-- The fields of a word. -/
def CanWord.ofWord (w : Word) : CanWord :=
  { d := BitVec.ofNat 3 (w.toNat / 2 ^ 23), s := BitVec.ofNat 3 (w.toNat / 2 ^ 20), m := BitVec.ofNat 4 (w.toNat / 2 ^ 16),
    imm := BitVec.ofNat 16 w.toNat }

/-- A source of IN (R451). -/
def canSourceOk (v : Nat) : Bool :=
  decide (v ≤ 5) || (decide (8 ≤ v) && decide (v ≤ 16))

/-- The fields an instruction uses hold what R453 allows, and the others are 0. -/
def CanWord.legal (w : CanWord) (op : Nat) : Bool :=
  let imm := w.imm.toNat
  let op2 := decide (w.m.toNat ≤ 1) && (decide (w.m = 1) || decide (imm < 8))
  match op with
  | 0x01 => decide (w.s = 0) && decide (w.m = 0)
  | 0x02 => decide (w.s = 0) && decide (w.m = 0)
  | 0x03 => decide (w.s = 0) && decide (w.m = 0) && decide (imm < 256) && canSourceOk imm
  | 0x04 => op2
  | 0x05 => op2
  | 0x06 => op2
  | 0x07 => op2
  | 0x08 => op2
  | 0x09 => (decide (w.m = 0) || decide (w.m = 2)) && decide (imm < 32)
  | 0x0A => decide (w.m = 0) && decide (imm = 0)
  | 0x0B => decide (w.d = 0) && op2
  | 0x0C => decide (w.d = 0) && op2
  | 0x0D => decide (w.m = 0) && decide (imm < 16)
  | 0x0E => decide (w.d = 0) && decide (w.s = 0) && decide (w.m.toNat ≤ 6) && decide (imm < 256)
  | 0x0F => decide (w.d = 0) && decide (w.s = 0) && decide (w.m = 0) && decide (1 ≤ imm) && decide (imm < 256)
  | 0x10 => decide (w.d = 0) && decide (w.m = 0) && decide (imm < 32)
  | 0x11 => decide (w.d = 0) && decide (w.s = 0) && decide (w.m = 0) && decide (imm = 0)
  | _ => false

/-- OP of a word. -/
def canOp (w : Word) : Nat := w.toNat / 2 ^ 26

/-- A program word. -/
def State.canWordAt (s : State) (i : Nat) : Word := FMap.get (fun _ => 0) s.canary.prog i

/-- Register v`i`. -/
def State.canV (s : State) (i : Nat) : Word := FMap.get (fun _ => 0) s.canary.v i

/-- The state with register v`i` set. -/
def State.setCanV (s : State) (i : Nat) (w : Word) : State :=
  { s with canary := { s.canary with v := FMap.set (fun _ => 0) s.canary.v i w } }

/-! ## Runs (R450, R451, R457) -/

/-- Instructions in a run. -/
def canSteps : Nat := 256

/-- The run in progress ends. -/
def State.canEnd (s : State) : State := { s with canary := { s.canary with run := .idle, pc := 0, steps := 0 } }

/-- The run ends with a fault: 1 ILLEGAL, 2 STEPS. -/
def State.canFaultEnd (s : State) (fault : Nat) : State :=
  let t := (s.setFld CAN_STAT CAN_STAT_FAULT fault).setFld CAN_STAT CAN_STAT_FPC s.canary.pc
  (t.canWake canFault 0 0).canEnd

/-- A run that has executed 256 instructions, or that stands at a word that is not loaded, ends with a fault (R450). -/
def State.canSettle (s : State) : State :=
  if s.canary.run = .idle then s
  else if canSteps ≤ s.canary.steps then s.canFaultEnd 2
  else if s.canWordAt s.canary.pc = 0 then s.canFaultEnd 1
  else s

/-- A run starts with a snapshot of its inputs (R450, R451, R457). -/
def State.canBegin (s : State) (run : CanRun) (sample : List (Nat × Word)) : State :=
  let t : State :=
    { s with canary := { s.canary with
        run := run, pc := 0, steps := 0, z := false, n := false
        sample := sample.foldl (fun m e => FMap.set (fun _ => 0) m e.1 e.2) [] } }
  ((t.setFld CAN_STAT CAN_STAT_FAULT 0).setFld CAN_STAT CAN_STAT_FPC 0).canSettle

/-- Bank 0's levels in Watch (R452): pins after POL, outputs and an unsupplied bank read 0. -/
def State.canLevels (s : State) (i : CanInputs) : Nat :=
  if i.bsOk then
    (List.range 16).foldl (fun n k =>
      let on := !s.flag (FIO_EL_CFG k) FIO_EL_CFG_DIR && (bitOf i.pins.toNat k != s.flag (FIO_EL_CFG k) FIO_EL_CFG_POL)
      n + b2n on * 2 ^ k) 0
  else 0

/-- AON cycles in a second. -/
def aonHz : Nat := 32768

/-- A run is due (R450). -/
def State.canRunDue (s : State) : Bool :=
  decide (s.power = .watch) && s.flag CAN_CFG CAN_CFG_EN && decide (s.canary.run = .idle) && s.wakeAt.isNone &&
    decide (s.canary.lastRun + s.fld CAN_CFG CAN_CFG_PERIOD ≤ s.aon)

/-- CANARY_RUN (R450 to R452). -/
def State.canRun (s : State) (i : CanInputs) : State :=
  if s.canRunDue then
    let lv := s.canLevels i
    let changed := if i.bsOk then Nat.lor (Nat.land i.moved.toNat s.canInputLines) (Nat.xor lv s.canary.levels) else 0
    let s1 := s.setRg CAN_RUNS (s.rg CAN_RUNS + 1)
    let per := s.fld CAN_CFG CAN_CFG_PERIOD
    let s2 : State := { s1 with canary := { s1.canary with levels := lv, lastRun := s.aon / per * per } }
    let net (n : Nat) : Nat × Word := (n, if (s.canDec n).counted then BitVec.ofInt 32 (s.canDec n).net else 0)
    let tj (k : Nat) (v : Int) : Nat × Word := (8 + k, BitVec.ofInt 32 v)
    s2.canBegin .watch
      ([net 0, net 1, net 2, net 3, (4, BitVec.ofNat 32 (lv + b2n i.bsOk * 2 ^ 16 + b2n i.bankEn * 2 ^ 17)),
        (5, BitVec.ofNat 32 changed), tj 0 i.tj0, tj 1 i.tj1, tj 2 i.tj2, tj 3 i.tj3, tj 4 i.tj4, tj 5 i.tj5,
        (14, BitVec.ofNat 32 i.pin), (15, BitVec.ofNat 32 (s.aon / aonHz)), (16, s2.rg CAN_RUNS)])
  else s

/-- CANARY_TEST (R457): the program runs once against live inputs. -/
def State.canTest (s : State) : State :=
  if s.power = .watch ∨ s.canary.run ≠ .idle then s
  else
    let lv := (List.range 16).foldl (fun n k => n + b2n (s.line k) * 2 ^ k) 0
    let bank (f : Fld) : Nat := s.fld (FIO_BANK_STAT 0) f
    let t := (s.setFld CAN_TEST CAN_TEST_WOKE 0).setFld CAN_TEST CAN_TEST_CODE 0
    t.canBegin .test
      ((4, BitVec.ofNat 32 (lv + bank FIO_BANK_STAT_BS_OK * 2 ^ 16 + bank FIO_BANK_STAT_BANK_EN * 2 ^ 17)) ::
        (14, BitVec.ofNat 32 (s.fld PWR_PIN PWR_PIN_PIN)) ::
        ((List.range 6).map fun k => (8 + k, BitVec.ofInt 32 (signed 16 (s.fld (PWR_TJ k) PWR_TJ_T)))))

/-- One instruction of the run in progress (R450): it is counted, an illegal one ends the run with a fault, and what
follows it is judged. -/
def State.canIssue (s : State) (legal : Bool) (act : State → State) : State :=
  if s.canary.run = .idle then s
  else if legal then
    (act { s with canary := { s.canary with pc := s.canary.pc + 1, steps := s.canary.steps + 1 } }).canSettle
  else s.canFaultEnd 1

/-- op2 of an instruction (R453). -/
def State.canOp2 (s : State) (w : CanWord) : Word :=
  if w.m.getLsbD 0 then w.imm.signExtend 32 else s.canV (w.imm.toNat % 8)

/-- The state with the flags Z and N set. -/
def State.canFlags (s : State) (z n : Bool) : State := { s with canary := { s.canary with z := z, n := n } }

/-- The conditions of BR (R453). -/
def State.canCond (s : State) (m : Nat) : Bool :=
  let z := s.canary.z
  let n := s.canary.n
  match m with
  | 0 => true
  | 1 => z
  | 2 => !z
  | 3 => n
  | 4 => !n
  | 5 => !n && !z
  | _ => n || z

/-- A raise latched in AON (R364, R454). -/
def State.canLatch (s : State) (i : Nat) (w : Word) : State :=
  let old := s.canary.raises.find? fun r => decide (r.1 = i)
  let rest := s.canary.raises.filter fun r => !decide (r.1 = i)
  { s with canary := { s.canary with
      raises := rest ++ [(i, w, satTo 255 ((old.map fun r => r.2.2).getD 0 + 1))] } }

/-- WAKE in a run (R453, R457). -/
def State.canWakeCode (s : State) (code : Nat) : State :=
  if s.canary.run = .test then
    ((s.setFld CAN_TEST CAN_TEST_WOKE 1).setFld CAN_TEST CAN_TEST_CODE code).canEnd
  else (s.canWake canProgram 0 code).canEnd

/-- RAISE in a run (R453, R454, R457). -/
def State.canRaise (s : State) (i : Nat) (w : Word) : State :=
  if s.canary.run = .test then s.raise i w.toNat else s.canLatch i w

/-! ## Loading (R456) -/

/-- The words of a program body. -/
def canBody (body : List Byte) : List Word := wordsOf body (body.length / 4)

/-- CANARY_LOAD (R456): the state, the status and the reply body. -/
def State.canLoad (s : State) (arg : Nat) (body : List Byte) : State × Status × List Byte :=
  let off := arg % 256
  if bitsOf arg 31 9 ≠ 0 then (s, .range, [])
  else if bitOf arg 8 then
    let n := leAt body 0 4
    if body.length ≠ 4 ∨ n < 4 ∨ 1024 < n ∨ n % 4 ≠ 0 ∨ 256 < off + n / 4 then (s, .range, [])
    else (s, .ok, bytesOfWords ((List.range (n / 4)).map fun i => s.canWordAt (off + i)))
  else if body.length < 4 ∨ 1024 < body.length ∨ body.length % 4 ≠ 0 ∨ 256 < off + body.length / 4 then (s, .range, [])
  else if (canBody body).any fun w => !(CanWord.ofWord w).legal (canOp w) then (s, .range, [])
  else if s.power = .watch then (s, .state, [])
  else
    let t : State :=
      { s with canary := { s.canary with
          prog := ((canBody body).foldl (fun (p : Nat × FMap Word) w => (p.1 + 1, FMap.set (fun _ => 0) p.2 p.1 w))
            (off, s.canary.prog)).2 } }
    (if off = 0 then t.setFlag CAN_STAT CAN_STAT_PROG_OK true else t, .ok, [])

/-! ## Registers (R458) -/

/-- The write of a CAN register. -/
def State.writeCan (s : State) (w : Wr) : State × Status :=
  if w.base = CAN_CFG then
    if w.fld CAN_CFG_PERIOD < 4 then (s, .range)
    else if w.was CAN_CFG_EN = 0 ∧ w.fld CAN_CFG_EN = 1 ∧ ¬s.flag CAN_STAT CAN_STAT_PROG_OK then (s, .state)
    else (s.plainWrite w, .ok)
  else if w.base = CAN_TEST then (if w.acts CAN_TEST_STEP then s.canTest else s, .ok)
  else if w.base = CAN_SH_CFG 0 then
    if w.fld CAN_SH_CFG_MOT = 0 then (s, .range) else (s.plainWrite w, .ok)
  else (s.plainWrite w, .ok)

/-- A CAN register as it reads. -/
def State.viewCan (s : State) (b n a : Nat) : Word :=
  let x := s.canDec n
  if b = CAN_SH_STAT 0 then
    (((s.rg a).setF CAN_SH_STAT_COUNTED (b2n x.counted)).setF CAN_SH_STAT_CLEAN (b2n x.clean)).setF CAN_SH_STAT_OVR
      (b2n x.ovr)
  else if b = CAN_SH_NET 0 then BitVec.ofInt 32 x.net
  else if b = CAN_V 0 then s.canV n
  else if b = CAN_TEST then (s.rg a).setF CAN_TEST_STEP (b2n (decide (s.canary.run = .test)))
  else s.rg a

end Sys2Proof.Machine
end

