-- ==== Sys2Proof/Machine/Notify.lean ====
section
/-! DEFINITION. The notification controller (R361 to R375): delivery, moderation, completion, repeats, registers. -/

namespace Sys2Proof.Machine

/-- The engine's targets: 0-3 supervisor cores, 4-11 host sessions. -/
def ntfTargets : Nat := 12

/-- Sources the host may raise, and whose registers it may write (R365, R375). -/
def hostSources : Nat := 1824

/-- TARGET and MASK of a source. -/
def State.srcTarget (s : State) (i : Nat) : Nat := s.fld (NTF_SRC i) NTF_SRC_TARGET
def State.srcMask (s : State) (i : Nat) : Bool := s.flag (NTF_SRC i) NTF_SRC_MASK

/-- A target of deliveries: a supervisor core, or a session that is owned (R366). -/
def State.targetOpen (s : State) (t : Nat) : Bool :=
  decide (t < 4) || (decide (t < ntfTargets) && (s.sess (t - 4)).owner.isSome)

/-- A source is deliverable to target `t` (R366). -/
def State.deliverable (s : State) (t i : Nat) (x : NtfSrc) : Bool :=
  x.pend && decide (x.st = .idle) && decide (s.srcTarget i = t) && !s.srcMask i && s.targetOpen t

/-- The deliverable sources of a target, in ascending number. -/
def State.deliverables (s : State) (t : Nat) : List Nat := (s.ntf.filter fun e => s.deliverable t e.1 e.2).map (·.1)

/-- The sources of a target in a delivery state, in ascending number. -/
def State.sourcesIn (s : State) (t : Nat) (st : NtfState) : List Nat :=
  (s.ntf.filter fun e => decide (e.2.st = st) && decide (s.srcTarget e.1 = t)).map (·.1)

/-- A source of the target is DELIVERING or ACTIVE. -/
def State.targetBusy (s : State) (t : Nat) : Bool :=
  s.ntf.any fun e => decide (e.2.st ≠ .idle) && decide (s.srcTarget e.1 = t)

/-- Sources per delivery (R366). -/
def State.batch (s : State) (t : Nat) : Nat := if t < 4 then 1 else s.fld (NTF_T_CFG t) NTF_T_CFG_BATCH + 1

/-- The last completion of a target. -/
def State.lastDone (s : State) (t : Nat) : Option Nat := (FMap.get (fun _ => NtfTgt.init) s.ntfTgt t).lastDone

/-- Moderation lets a delivery form (R369). -/
def State.moderated (s : State) (t : Nat) (is : List Nat) : Bool :=
  let m := s.fld (NTF_T_CFG t) NTF_T_CFG_MOD_US * ticksUs
  decide (t < 4) || decide (m = 0) || decide (s.batch t ≤ is.length) ||
    is.any (fun i => decide ((s.src i).cur.tick + m ≤ s.time)) || is.any (fun i => decide (i < 32)) ||
    (match s.lastDone t with
     | none => true
     | some d => decide (d + m ≤ s.time))

/-- A delivery to a target is due (R366, R368, R369, R372): not in the cycle of a completion. -/
def State.deliveryDue (s : State) (t : Nat) : Bool :=
  let is := s.deliverables t
  !is.isEmpty && !s.targetBusy t && decide (s.lastDone t ≠ some s.time) && s.moderated t is

/-- DELIVERY_SELECTION (R366). -/
def State.deliverySelect (s : State) (t : Nat) : State :=
  if s.deliveryDue t then
    let is := (s.deliverables t).take (s.batch t)
    (is.foldl (fun u i =>
      let x := u.src i
      u.setSrc i { x with st := .delivering, pend := false, out := x.cur, cur := NtfRec.init, selTick := u.time })
      s).count (NTF_T_CNT t) NTF_T_CNT_DELIVERIES 1
  else s

/-- The 16 bytes of a notification record (R374). -/
def recordBytes (i : Nat) (r : NtfRec) (resend : Bool) : List Byte :=
  leBytes 2 i ++ [BitVec.ofNat 8 (b2n r.sw + 2 * b2n r.wake + 4 * b2n resend), BitVec.ofNat 8 r.count] ++
    leBytes 4 r.value.toNat ++ leBytes 8 r.tick

/-- The frame of a delivery to a session (R374). -/
def State.sendRecords (s : State) (t : Nat) (is : List Nat) (resend : Bool) : State :=
  match (s.sess (t - 4)).owner with
  | some a => s.send 2 a 2 (t - 4) (is.flatMap fun i => recordBytes i (s.src i).out resend)
  | none => s

/-- DELIVERY_ACTIVE (R367): the frame of a session's delivery leaves, or the core takes its request. -/
def State.deliveryActive (s : State) (t : Nat) : State :=
  let is := s.sourcesIn t .delivering
  if is.isEmpty then s
  else
    let u := if t < 4 then s else s.sendRecords t is false
    is.foldl (fun v i => v.setSrc i { v.src i with st := .active, actTick := v.time }) u

/-- The ACTIVE sources of a target whose REDELIVER time has passed (R373). -/
def State.resends (s : State) (t : Nat) : List Nat :=
  let r := s.fld (NTF_T_CFG t) NTF_T_CFG_REDELIVER * ticksMs
  if r = 0 ∨ t < 4 then [] else (s.sourcesIn t .active).filter fun i => decide ((s.src i).actTick + r ≤ s.time)

/-- REDELIVER (R373). -/
def State.redeliver (s : State) (t : Nat) : State :=
  let is := s.resends t
  if is.isEmpty then s
  else
    (is.foldl (fun v i => v.setSrc i { v.src i with actTick := v.time }) (s.sendRecords t is true)).count (NTF_T_CNT t)
      NTF_T_CNT_RESENT is.length

/-- A source returns to IDLE (R370). -/
def State.toIdle (s : State) (i : Nat) : State :=
  s.setSrc i { s.src i with st := .idle, out := NtfRec.init, selTick := 0, actTick := 0 }

/-- NOTIFY_COMPLETE (R370, R371) from session `n`: the state, the status and RESULT. -/
def State.notifyComplete (s : State) (n arg : Nat) : State × Status × Nat :=
  if bitsOf arg 31 12 ≠ 0 ∨ (bitOf arg 11 ∧ bitsOf arg 10 0 ≠ 0) then (s, .range, 0)
  else
    let t := n + 4
    let act := s.sourcesIn t .active
    let is := if bitOf arg 11 then act else act.filter fun i => decide (i = bitsOf arg 10 0)
    if is.isEmpty then (s.count NTF_STRAY NTF_STRAY_STRAY 1, .ok, 0)
    else
      let u := is.foldl (fun v i => v.toIdle i) s
      ({ u with ntfTgt := FMap.set (fun _ => NtfTgt.init) u.ntfTgt t { lastDone := some u.time } }, .ok, is.length)

/-- A session is released or reset (R373): its sources return to IDLE with no completion counted. -/
def State.dropDeliveries (s : State) (n : Nat) : State :=
  (s.sourcesIn (n + 4) .delivering ++ s.sourcesIn (n + 4) .active).foldl (fun v i => v.toIdle i) s

/-- Entry to Watch (R373): every source returns to IDLE with PEND cleared. -/
def State.clearSources (s : State) : State := { s with ntf := [], ntfTgt := [] }

/-- A raise replayed after Watch with the WAKE flag (R373, R438). -/
def State.raiseWake (s : State) (i : Nat) (w : Word) (k : Nat) : State :=
  let t := s.raise i w.toNat
  let x := t.src i
  t.setSrc i { x with cur := { x.cur with wake := true, count := satTo 255 (x.cur.count + k - 1) } }

/-- The write of NTF_RAISE (R365). -/
def State.ntfRaise (s : State) (i : Nat) : State × Status :=
  if hostSources ≤ i then (s, .access) else (s.raiseSw i, .ok)

/-- The write of NTF_CLEAR (R365). -/
def State.ntfClear (s : State) (i : Nat) : State :=
  let x := s.src i
  if x.st = .idle then s.setSrc i { x with pend := false, cur := NtfRec.init } else s

/-- The write of an NTF register; `i` is the target or the source (R367, R375). -/
def State.writeNtf (s : State) (i : Nat) (w : Wr) : State × Status :=
  if w.base = NTF_RAISE then s.ntfRaise (w.act.getF NTF_RAISE_SOURCE)
  else if w.base = NTF_CLEAR then (s.ntfClear (w.act.getF NTF_CLEAR_SOURCE), .ok)
  else if w.base = NTF_T_CFG 0 then
    if i < 4 then (s, .access)
    else if 1000 < w.fld NTF_T_CFG_MOD_US then (s, .range)
    else (s.plainWrite w, .ok)
  else if w.base = NTF_SRC 0 then
    let t := w.fld NTF_SRC_TARGET
    if hostSources ≤ i then (s, .access)
    else if t = w.was NTF_SRC_TARGET then (s.plainWrite w, .ok)
    else if t < 4 ∨ (12 ≤ t ∧ t < 15) then (s, .range)
    else if (s.src i).st ≠ .idle then (s, .state)
    else (s.plainWrite w, .ok)
  else (s.plainWrite w, .ok)

/-- An NTF register as it reads. -/
def State.viewNtf (s : State) (b i a : Nat) : Word :=
  if b = NTF_STAT then BitVec.ofNat 32 (satTo 2047 (s.ntf.filter fun e => e.2.pend).length)
  else if b = NTF_T_STAT 0 then
    let n := (s.sourcesIn i .delivering).length + (s.sourcesIn i .active).length
    (((0 : Word).setF NTF_T_STAT_BUSY (b2n (decide (0 < n)))).setF NTF_T_STAT_ACTIVE n).setF NTF_T_STAT_PENDING
      (satTo 2047 (s.deliverables i).length)
  else if b = NTF_SRC 0 then
    let x := s.src i
    ((s.rg a).setF NTF_SRC_STATE (match x.st with
      | .idle => 0
      | .delivering => 1
      | .active => 2)).setF NTF_SRC_PEND (b2n x.pend)
  else s.rg a

end Sys2Proof.Machine
end

