-- ==== Sys2Proof/Machine/Safe.lean ====
section
/-! DEFINITION. What several units share at the level of the engine: the rise and fall of OUT_LIVE (R26 to R28), the
rollback of transactions (R354, R355), heartbeats (R410, R413), performance levels (R427, R428) and the safe state
(R503, R504). -/

namespace Sys2Proof.Machine

/-! ## OUT_LIVE -/

/-- OUT_LIVE has changed: at a rise the outputs whose logic is active are held and each generator waits for its next
period (R28), at a fall pulses are cut and codes run out undriven (R27). -/
def State.liveSettle (s : State) : State :=
  if s.outLive = s.liveWas then s
  else if s.outLive then ({ s with liveWas := true } : State).holdRange 0 144 |>.pwmLive
  else ({ s with liveWas := false } : State).pwmFloat.rasFloat.chainFloat

/-! ## Transactions -/

/-- A transaction by its identifier. -/
def State.txn (s : State) (id : Nat) : Option Txn := s.txns.find? fun t => decide (t.id = id)

/-- The transactions without one. -/
def State.dropTxn (s : State) (id : Nat) : State := { s with txns := s.txns.filter fun t => !decide (t.id = id) }

/-- The flights that wait on a transaction. -/
def State.txnFlights (s : State) (id : Nat) : List Nat :=
  (s.flights.filter fun f => decide (f.hold = .commit id) || decide (f.hold = .prepare id)).map (·.id)

/-- A transaction is rolled back (R354): its commit, if one is pending, completes with the status given and
RESULT = 0xFFFF_FFFF. -/
def State.txnRollback (s : State) (id : Nat) (st : Status) : State :=
  (s.txnFlights id).foldl (fun t f => t.finish f st 0xFFFFFFFF []) (s.dropTxn id)

/-- A rollback that the engine makes by itself, counted in TIMEOUT (R355). -/
def State.txnTimeout (s : State) (id : Nat) (st : Status) : State :=
  (s.txnRollback id st).count GLB_TXN_CNT GLB_TXN_CNT_TIMEOUT 1

/-- Every transaction that satisfies a test is rolled back by the engine (R355). -/
def State.txnTimeouts (s : State) (p : Txn → Bool) : State :=
  (s.txns.filter p).foldl (fun t x => t.txnTimeout x.id .txn) s

/-! ## Heartbeats -/

/-- The lease in ticks (R413), and the interval of heartbeats (R410). -/
def leaseTicks : Nat := 20 * ticksUs
def beatTicks : Nat := 10 * ticksUs

/-- ROLE of a heartbeat (R411). -/
def State.beatRole (s : State) : Nat :=
  if s.twinActive then 1 else if s.standby then (if s.mirState = mirJoining then 3 else 2) else 0

/-- A HEARTBEAT sent (R410, R411): the lease runs anew (R413). -/
def State.beat (s : State) (yield_ : Bool) : State :=
  let inSync := decide (s.mirState = mirInSync)
  let seq := if s.twinActive then s.twin.seqOut else s.twin.seqIn.getD 0
  let body : List Byte :=
    [0, BitVec.ofNat 8 (s.fld TWN_CFG TWN_CFG_MEMBER + 2 * s.beatRole + 8 * b2n yield_ + 16 * b2n inSync), 0, 0] ++
      leBytes 8 (unsigned 64 s.fabNs) ++ leBytes 4 seq
  let t := s.sendMirror body
  ({ t with
     twin := { t.twin with sentAt := some s.time, nextBeat := s.time + beatTicks }
     leaseOk := true } : State).liveSettle

/-- An active member asks its standby to take over (R414). -/
def State.yieldTwin (s : State) : State := if s.twinEn ∧ s.twinActive then s.beat true else s

/-! ## Performance levels -/

/-- The level in force. -/
def State.level (s : State) : Nat := s.fld PWR_STAT PWR_STAT_LEVEL

/-- The clock of BLULET in MHz at a level (R427). -/
def bluMhz (l : Nat) : Nat := if l = 0 then 1000 else if l = 1 then 800 else if l = 2 then 500 else 200

/-- The clock of BLULET now: the slower of the old and the new during a change (R428). -/
def State.bluClock (s : State) : Nat :=
  match s.levelTo with
  | some (l, _) => Nat.min (bluMhz s.level) (bluMhz l)
  | none => bluMhz s.level

/-- PLEVEL and LEVEL show a level. -/
def State.showLevel (s : State) (l : Nat) : State :=
  (s.setFld PWR_STAT PWR_STAT_LEVEL l).setFld GLB_STATUS GLB_STATUS_PLEVEL l

/-- A change of level starts (R428): to a slower level the clocks change first, and the level shows at once. -/
def State.setLevel (s : State) (l : Nat) : State :=
  if (s.levelTo.map Prod.fst).getD s.level = l then s
  else
    let t := ({ s with levelTo := some (l, s.time) } : State).count PWR_CNT PWR_CNT_LEVELS 1
    if s.level < l then t.showLevel l else t

/-- LEVEL_CHANGE_END (R428). -/
def State.levelEnd (s : State) : State :=
  match s.levelTo with
  | some (l, _) => ({ s with levelTo := none } : State).showLevel l
  | none => s

/-- The latest tick for a change of level to complete. -/
def State.levelDue (s : State) : Bool :=
  match s.levelTo with
  | some (_, t) => decide (t + 50 * ticksUs ≤ s.time)
  | none => false

/-! ## The safe state -/

/-- Entry to the safe state (R504). -/
def State.enterSafe (s : State) : State :=
  let s1 := ((s.setFlag GLB_STATUS GLB_STATUS_SAFE true).setFlag GLB_CTL GLB_CTL_OUT_EN false).setFlag GLB_STATUS
    GLB_STATUS_OUT_PERMIT false
  ((({ s1 with safeAt := some s.time } : State).refusePermits.liveSettle).txnTimeouts fun _ => true).yieldTwin

/-- A raise of class F3 (R502 to R504). -/
def State.faultF3 (s : State) (code inst detail : Nat) : State :=
  let t := s.faultRaise code inst 3 detail
  if s.faultActive code inst then t else t.enterSafe

/-- The composer disabled by the engine itself (R187, R504). -/
def State.cmpOff (s : State) : State := (s.setFlag CMP_CFG CMP_CFG_EN false).failQueued

/-- THERMAL_TRIP of junction sensor `i` at a reading in 1/16 °C (R441, R504). -/
def State.thermalTrip (s : State) (i : Nat) (t : Int) : State :=
  (((s.faultF3 fltThermalTrip i (unsigned 32 t)).stopThreads).cmpOff).setLevel 3

/-- The engine has tripped. -/
def State.tripped (s : State) : Bool := s.faults.any fun f => decide (f.code = fltThermalTrip)

end Sys2Proof.Machine
end

