-- ==== Sys2Proof/Machine/Power.lean ====
section
/-! DEFINITION. The energy governor (R424 to R429, R439 to R445): grant and budgets, class A demand and its admission,
the governor's period, the thermal ladder, PWR registers. -/

namespace Sys2Proof.Machine

/-! ## Grant and budgets (R424) -/

/-- The effective grant in mW. -/
def State.grant (s : State) : Nat :=
  let pd := s.fld PWR_GRANT_PD PWR_GRANT_PD_PD
  let cap := s.fld PWR_GRANT_CAP PWR_GRANT_CAP_CAP
  if cap = 0 then pd else Nat.min pd cap

/-- The sustained and the peak budget of a grant in mW. -/
def useOf (g : Nat) : Nat := Nat.min 36000 (72 * g / 100)
def peakOf (g : Nat) : Nat := Nat.min 46000 (92 * g / 100)

/-- USE and PEAK as last set. -/
def State.useNow (s : State) : Nat := s.fld PWR_BUDGET PWR_BUDGET_USE
def State.peakNow (s : State) : Nat := s.fld PWR_BUDGET PWR_BUDGET_PEAK

/-- The grant taken up: G, the budgets and the fault of a low grant (R424, R496). -/
def State.takeGrant (s : State) : State :=
  let g := s.grant
  let t := ((s.setFld PWR_GRANT PWR_GRANT_G g).setFld PWR_BUDGET PWR_BUDGET_USE (useOf g)).setFld PWR_BUDGET
    PWR_BUDGET_PEAK (peakOf g)
  if g < 50000 then
    (if t.faultActive fltGrantLow 0 then t else t.faultRaise fltGrantLow 0 1 (faultValue fltGrantLow 0))
  else t.faultEnd fltGrantLow 0

/-! ## Class A demand (R443, R444) -/

/-- Figures of the supervisor and of one Blulet engine at a level, in mW. -/
def supervisorFigure (l : Nat) : Nat := if l = 0 then 1800 else if l = 1 then 1200 else if l = 2 then 800 else 400
def blueFigure (l : Nat) : Nat := if l = 0 then 800 else if l = 1 then 500 else if l = 2 then 300 else 120

/-- A_FLOOR of a Blulet engine. -/
def State.aFloor (s : State) (e : Nat) : Nat := s.fld (BLU_CFG e) BLU_CFG_A_FLOOR

/-- The floor (R429). -/
def State.floorLevel (s : State) : Nat :=
  (List.range 16).foldl (fun n e => if s.bluHasA e then Nat.min n (s.aFloor e) else n) 3

/-- A bound template is of class A. -/
def State.hasTemplateA (s : State) : Bool :=
  (List.range 64).any fun m => s.flag (CMP_TPL m) CMP_TPL_VALID && !(s.template (s.fld (CMP_TPL m) CMP_TPL_BLOCK)).classB

/-- The units that count `k` mW each. -/
def countUnits (n k : Nat) (p : Nat → Bool) : Nat := ((List.range n).filter p).length * k

/-- The class A demand without the supplies. -/
def State.demandNoSup (s : State) : Nat :=
  8000 + supervisorFigure s.floorLevel +
    (List.range 16).foldl (fun n e => if s.bluHasA e then n + blueFigure (s.aFloor e) else n) 0 +
    countUnits 8 500 (fun n => s.flag (RAS_CTL n) RAS_CTL_EN) +
    (if s.flag CMP_CFG CMP_CFG_EN ∧ s.hasTemplateA then 2500 else 0) +
    countUnits 4 200 (fun c => s.adcEn c && decide (s.fld (ADC_C_REG c) ADC_C_REG_CLASS = 0))

/-- The worst-case class A demand in mW (R443). -/
def State.demand (s : State) : Nat := s.demandNoSup + 5 * s.supDecl / 4

/-- The increments of the pending and prepared transactions. -/
def State.demandPending (s : State) : Nat := s.txns.foldl (fun n t => n + t.demand) 0

/-- The demand of a change from `s` to `t`, with every pending and prepared transaction, fits USE (R444): what a commit, a
PREPARE and a BLULET_START of a class A thread are judged by. A reduction does not count before it is applied. -/
def State.fits (s t : State) : Bool := decide (Nat.max t.demand s.demand + s.demandPending ≤ s.useNow)

/-- A register write passes admission (R444): one that brings no new demand is not judged. -/
def State.admits (s t : State) : Bool := decide (t.demand ≤ s.demand) || s.fits t

/-- A refusal for want of energy: nothing changes but its count (R444). -/
def State.budgetRefused (s : State) : State := s.count PWR_CNT PWR_CNT_REFUSED 1

/-! ## The governor (R425, R426, R439, R440, R442) -/

/-- The readings as a list. -/
def Junctions.list (j : Junctions) : List Int := [j.t0, j.t1, j.t2, j.t3, j.t4, j.t5]

/-- The highest reading, with the lowest sensor that shows it. -/
def Junctions.top (j : Junctions) : Nat × Int :=
  (j.list.foldl (fun (b : Nat × Nat × Int) t => if b.2.2 < t then (b.1 + 1, b.1, t) else (b.1 + 1, b.2.1, b.2.2))
    (0, 0, j.t0)).2

/-- A temperature in 1/16 °C. -/
def celsius (c : Int) : Int := 16 * c

/-- Thresholds of the thermal ladder (R440). -/
def rungAt (r : Nat) : Int := celsius (if r = 1 then 100 else if r = 2 then 103 else if r = 3 then 108 else 115)

/-- The rung at a temperature (R440): a rung is left 3 °C below its threshold. -/
def ladder (old : Nat) (t : Int) : Nat :=
  [1, 2, 3, 4].foldl (fun n r => if rungAt r ≤ t ∨ (r ≤ old ∧ rungAt r - celsius 3 < t) then r else n) 0

/-- Governor periods that the boost credit looks back over, and the credit of a rested engine in ms (R426). -/
def boostWindow : Nat := 120000
def boostFull : Nat := 20000

/-- Periods at P0 among the last 120 000. -/
def State.boostSpent (s : State) : Nat :=
  s.boosts.foldl (fun n r => n + (r.2 + 1 - Nat.max r.1 (s.periodNo - boostWindow))) 0

/-- The boost credit in ms. -/
def State.credit (s : State) : Nat := boostFull - s.boostSpent

/-- The period that begins is spent at P0. -/
def State.noteBoost (s : State) : State :=
  let k := s.periodNo
  let old := s.boosts.filter fun r => decide (k < r.2 + boostWindow)
  { s with boosts := match old.getLast? with
      | some r => if r.2 + 1 = k then old.dropLast ++ [(r.1, k)] else old ++ [(k, k)]
      | none => [(k, k)] }

/-- A thermal cycle counts when the hottest junction reaches 90 °C, having been at or below 50 °C since the last (R460). -/
def State.thermalCycle (s : State) (t : Int) : State :=
  if s.cooled ∧ celsius 90 ≤ t then ({ s with cooled := false } : State).bumpTally tallyThermal 1
  else if t ≤ celsius 50 then { s with cooled := true }
  else s

/-- The junction readings taken up (R425, R445, R460). -/
def State.takeJunctions (s : State) (j : Junctions) : State :=
  (List.range 6).foldl (fun t i =>
    let v := j.list.getD i 0
    let a := PWR_TJ i
    let u := t.setFld a PWR_TJ_T (unsigned 16 v)
    if signed 16 (t.fld a PWR_TJ_TMAX) < v then u.setFld a PWR_TJ_TMAX (unsigned 16 v) else u) (s.thermalCycle j.top.2)

/-- The power reading taken up. -/
def State.takePin (s : State) (p : Nat) : State :=
  let q := satTo 65535 p
  (s.setFld PWR_PIN PWR_PIN_PIN q).setFld PWR_PIN PWR_PIN_PIN_MAX (Nat.max (s.fld PWR_PIN PWR_PIN_PIN_MAX) q)

/-- pred(L) of R439. -/
def State.pred (s : State) (p l : Nat) : Int :=
  let d (f : Nat → Nat) : Int := (f l : Int) - (f s.level : Int)
  let n := ((List.range 16).filter fun e => (List.range 16).any fun k => decide ((s.th (16 * e + k)).st ≠ .stopped)).length
  (p : Int) + n * d blueFigure + d supervisorFigure

/-- The loop of R439 that slows the level until the prediction fits. -/
def State.slower (s : State) (p use peak : Nat) : Nat → Nat → Nat
  | 0, want => want
  | k + 1, want =>
    if want < s.level ∧ ((if want = 0 then peak else use : Nat) : Int) < s.pred p want then s.slower p use peak k (want + 1)
    else want

/-- The rung taken up (R440): rungs reached are counted, rung 2 is a fault. -/
def State.takeRung (s : State) (r : Nat) : State :=
  let old := s.fld PWR_STAT PWR_STAT_RUNG
  let s1 := (s.setFld PWR_STAT PWR_STAT_RUNG r).count PWR_CNT PWR_CNT_RUNGS (r - old)
  if old < 2 ∧ 2 ≤ r then s1.faultRaise fltThermal 0 1 (faultValue fltThermal 0)
  else if 2 ≤ old ∧ r < 2 then s1.faultEnd fltThermal 0
  else s1

/-- CRITICAL taken up (R439): it rises with a fault, and both end in the first period with p at or below lim. -/
def State.takeCritical (s : State) (rises fits : Bool) : State :=
  let old := s.flag PWR_STAT PWR_STAT_CRITICAL
  if rises ∧ ¬old then
    ((s.setFlag PWR_STAT PWR_STAT_CRITICAL true).count PWR_CNT PWR_CNT_CRIT 1).faultRaise fltCritical 0 1 (faultValue fltCritical 0)
  else if old ∧ fits then (s.setFlag PWR_STAT PWR_STAT_CRITICAL false).faultEnd fltCritical 0
  else s

/-- The hold bits of a Blulet engine (R106, R442). -/
def State.bluHoldBits (s : State) (e : Nat) (b c : Bool) : Nat :=
  (List.range 16).foldl (fun n k =>
    let cls := s.thClass (16 * e + k)
    if (cls = 1 ∧ b) ∨ (cls = 2 ∧ c) then n + 2 ^ k else n) 0

/-- The holds written to every unit (R442). -/
def State.writeHolds (s : State) (b c : Bool) : State :=
  let s1 : State := { s with holdB := b, holdC := c }
  let s2 := State.forEach 16 (fun t e => t.setBluHold e (t.bluHoldBits e b c)) s1
  s2.adcSetHold ((List.range 4).foldl (fun n k =>
    let cls := s2.fld (ADC_C_REG k) ADC_C_REG_CLASS
    if (cls = 1 ∧ b) ∨ (cls = 2 ∧ c) then n + 2 ^ k else n) 0)

/-- GOVERNOR_PERIOD (R439): the governor reads the input power `p` in mW and the junctions. -/
def State.governor (s0 : State) (p : Nat) (j : Junctions) : State :=
  let level := s0.level
  let s1 := ((s0.takePin p).takeJunctions j).takeGrant
  let s3 : State := { s1 with periodNo := s1.periodNo + 1 }
  let top := j.top
  let rung := ladder (s0.fld PWR_STAT PWR_STAT_RUNG) top.2
  let s4 := s3.takeRung rung
  let credit := s3.credit
  let boost := decide (1 ≤ credit) && decide (top.2 < celsius 95)
  let s5 := (s4.setFld PWR_CREDIT PWR_CREDIT_CREDIT credit).setFlag PWR_STAT PWR_STAT_BOOST_OK boost
  if rung = 4 then s5.thermalTrip top.1 top.2
  else
    let use := s5.useNow
    let peak := s5.peakNow
    let lim := if level = 0 then peak else use
    let shed0 := s5.fld PWR_STAT PWR_STAT_SHED
    let shed :=
      if lim < p ∧ shed0 < 3 then shed0 + 1
      else if p ≤ 9 * lim / 10 ∧ 0 < shed0 then shed0 - 1
      else shed0
    let floor := s5.floorLevel
    let w0 := s5.fld PWR_CFG PWR_CFG_PMIN
    let w1 := if ¬boost ∨ 2 ≤ rung then Nat.max w0 1 else w0
    let w2 := if 3 ≤ rung then Nat.max w1 2 else w1
    let w3 := if shed = 3 then Nat.max w2 (if lim < p then Nat.min (level + 1) 3 else level) else w2
    let w4 := s5.slower p use peak 4 w3
    let want := if s5.tripped then 3 else Nat.min w4 floor
    let s6 := ((s5.setFld PWR_STAT PWR_STAT_SHED shed).setFld PWR_STAT PWR_STAT_FLOOR floor).takeCritical
      (decide (shed = 3) && decide (lim < p) && decide (level = floor)) (decide (p ≤ lim))
    let holdC := decide (1 ≤ shed) || decide (1 ≤ rung)
    let holdB := decide (2 ≤ shed) || decide (2 ≤ rung)
    let s7 := (s6.setLevel want).writeHolds holdB holdC
    let s8 := if want = 0 then s7.noteBoost.bumpTally tallyBoostMs 1 else s7
    let scrub := if holdC then 0 else Nat.min 15 (1 + (lim - p) / 500)
    let allow := Nat.min 6000 ((use - s7.demandNoSup) * 4 / 5)
    (s8.setFld POL_SCRUB POL_SCRUB_RATE scrub).setFld FBP_SUP_BUDGET FBP_SUP_BUDGET_ALLOW allow

/-- GRANT_RECLASSIFICATION (R424): the power sourcing equipment grants `mw`. -/
def State.reclassify (s : State) (mw : Nat) : State :=
  (s.setFld PWR_GRANT_PD PWR_GRANT_PD_PD (satTo 65535 mw)).takeGrant

/-! ## Registers (R435, R445) -/

/-- The blocks whose registers the retention list may name (R435). -/
def retainable (a : Nat) : Bool :=
  match blockOf a with
  | some .shf => true
  | some .fbp => true
  | some .tmc => true
  | some .alm => true
  | some .eph => true
  | some .cmp => true
  | some .ras => true
  | some .pwm => true
  | some .fio => true
  | some .adc => true
  | some .dma => true
  | _ => false

/-- The write of a PWR register. -/
def State.writePwr (s : State) (w : Wr) : State × Status :=
  if w.base = PWR_GRANT_CAP then
    let c := w.fld PWR_GRANT_CAP_CAP
    if 1 ≤ c ∧ c < 15000 then (s, .range) else (s.plainWrite w, .ok)
  else if w.base = PWR_RL_LEN then
    if 8192 < w.fld PWR_RL_LEN_LEN then (s, .range) else (s.plainWrite w, .ok)
  else if w.base = PWR_RL 0 then
    let a := 4 * w.fld PWR_RL_ADDR
    if retainable a ∧ (regAt a).isSome then (s.plainWrite w, .ok) else (s, .range)
  else (s.plainWrite w, .ok)

/-- A PWR register as it reads. -/
def State.viewPwr (s : State) (b a : Nat) : Word :=
  if b = PWR_DEMAND then
    (((0 : Word).setF PWR_DEMAND_PENDING (satTo 65535 s.demandPending))).setF PWR_DEMAND_ADMITTED (satTo 65535 s.demand)
  else s.rg a

end Sys2Proof.Machine
end

