-- ==== Sys2Proof/Machine/Fabric.lean ====
section
/-! DEFINITION. The fabric (R376 to R404): links, routes and breaks, credits, enumeration and addresses, fabric time, the
line-shaft broadcast, wake tokens. -/

namespace Sys2Proof.Machine

/-! ## Layouts the spec leaves open -/

/-- The body of a LINK_CTL frame other than RESET, whose bytes the spec does not give: a free value by its kind. -/
def linkBody (kind : Nat) (payload : List Nat) : List Byte := Config.itemBytes (256 + kind) payload
def linkPdelayReq : Nat := 0
def linkPdelayResp : Nat := 1
def linkCredit : Nat := 2
def linkBreak : Nat := 3
def linkClose : Nat := 4

/-! ## Sessions freed (R323, R355, R373) -/

/-- A session is released or reset: its commands in flight complete without replies, its transactions are rolled back,
its deliveries end. -/
def State.releaseSession (s : State) (n : Nat) : State :=
  let s1 := s.txnTimeouts fun t => decide (t.session = n)
  let s2 : State :=
    { s1 with
      flights := (s1.flights.filter fun f =>
        !(decide (f.session = n) && decide (f.hold = .chain) && (s1.sess n).broken)).map fun f =>
          if f.session = n then { f with mute := true } else f }
  ({ (s2.dropDeliveries n) with txnEnded := s2.txnEnded.filter fun e => !decide (e.1 = n) } : State).setSess n Session.init

/-- Every session is released. -/
def State.releaseSessions (s : State) : State := State.forEach 8 (fun t n => t.releaseSession n) s

/-! ## Addresses (R385 to R387) -/

/-- The engine's identity. -/
def State.uid (s : State) : Nat := (s.rg FAB_UID_LO).toNat + 2 ^ 32 * (s.rg FAB_UID_HI).toNat

/-- The address is locked. -/
def State.addrLocked (s : State) : Bool := s.flag GLB_ADDR GLB_ADDR_LOCKED

/-- Start-up has stopped after link training for want of power (R480). -/
def State.lowPower (s : State) : Bool :=
  !s.flag GLB_STATUS GLB_STATUS_READY && decide (s.fld PWR_GRANT_PD PWR_GRANT_PD_PD < 15000)

/-- The body of REPORT and DISCOVER_REPLY (R387). -/
def State.reportBody (s : State) (sub pos : Nat) : List Byte :=
  leBytes 2 sub ++ leBytes 2 s.addr ++ leBytes 2 pos ++
    [BitVec.ofNat 8 (b2n s.addrLocked + 2 * b2n s.quarantined + 4 * b2n s.lowPower), 0] ++ leBytes 8 s.uid ++
    leBytes 4 (s.rg GLB_ID).toNat ++ leBytes 2 (s.fld PWR_GRANT_PD PWR_GRANT_PD_PD)

/-- REPORT sent. -/
def State.sendReport (s : State) (dest pos : Nat) : State := s.send 6 dest 2 0 (s.reportBody 1 pos)

/-- Quarantine entered (R385, R386). -/
def State.enterQuarantine (s : State) : State :=
  if s.quarantined then s else (s.setFlag GLB_ADDR GLB_ADDR_QUAR true).faultRaise fltQuarantine 0 1 s.addr

/-- Quarantine ends. -/
def State.leaveQuarantine (s : State) : State := (s.setFlag GLB_ADDR GLB_ADDR_QUAR false).faultEnd fltQuarantine 0

/-- An address adopted (R385, R387, R403): one that changes releases every session. -/
def State.adopt (s : State) (a : Nat) : State :=
  let t := if a = s.addr then s else s.releaseSessions
  ({ (t.setFld GLB_ADDR GLB_ADDR_ADDR a) with
      fab := { t.fab with moving := none }
      boot := { t.boot with addressed := decide (a ≠ 0) } } : State).raise 21 a

/-- ENUMERATE (R385) on L0: the host that sent it, NEXT and POS. -/
def State.enumerate (s : State) (src next pos : Nat) : State :=
  let s1 := (s.setFld FAB_STAT FAB_STAT_DLHOST src).leaveQuarantine
  let r : State × Nat :=
    if s.addrLocked ∧ s.addr ≠ 0 then (s1, Nat.max next (s.addr + 1))
    else if 0xFA < next then ((s1.adopt 0).enterQuarantine, next + 1)
    else (s1.adopt next, next + 1)
  let t := r.1.sendReport src pos
  let f : Frame :=
    { port := 1, kind := 6, hops := 0, dest := broadcast, src := src, tc := 2, dateline := false, retry := false,
      session := 0, seq := 0, body := [0, 0] ++ leBytes 2 r.2 ++ leBytes 2 (pos + 1) }
  t.put 1 { frame := f, from_ := none }

/-- DISCOVER (R387), from a host. -/
def State.discover (s : State) (src : Nat) : State := s.send 6 src 2 0 (s.reportBody 3 0)

/-- ASSIGN (R387), from a host: an address and a UID. -/
def State.assign (s : State) (src a uid : Nat) : State :=
  if uid = s.uid ∧ 1 ≤ a ∧ a ≤ 0xFA then
    let t := (s.adopt a).leaveQuarantine
    let u : State := if s.addrLocked then { t with lockRec := some a } else t
    u.sendReport src 0
  else s

/-! ## Links (R377, R384, R389, R403) -/

/-- The value of sources 16 to 18. -/
def State.linkValue (s : State) (p : Nat) : Nat := b2n (s.linkUp p) + 2 * s.fld (FAB_P_STAT p) FAB_P_STAT_RATE

/-- LINK_UP of port `p` at a rate, with a host as partner or not: credits are full, and a broken ring closes. -/
def State.linkRises (s : State) (p rate : Nat) (host : Bool) : State :=
  if s.linkUp p then s
  else
    let a := FAB_P_STAT p
    let closing := decide (p < 2) && s.ringBroken
    let x := s.link p
    let s1 := s.setLink p
      { x with sent := [], peerFreed := [], freed := [], dirty := false, reqAt := none,
               holdUntil := if closing then s.time + ticksMs else 0 }
    let s2 := (((s1.setFlag a FAB_P_STAT_UP true).setFld a FAB_P_STAT_RATE rate).setFlag a FAB_P_STAT_HOST_PEER host)
    let s3 := ((s2.setFlag (FAB_P_CFG p) FAB_P_CFG_RETRAIN false).raise (16 + p) (s2.linkValue p)).faultEnd fltLinkDown p
    if closing then (s3.sendOut 0 8 0 (linkBody linkClose [])).sendOut 1 8 0 (linkBody linkClose []) else s3

/-- LINK_DOWN of port `p` (R377, R384): queued frames are discarded, and a break is told out of the other port. -/
def State.linkFalls (s : State) (p : Nat) : State :=
  if s.linkUp p then
    let a := FAB_P_STAT p
    let q := (s.link p).queue
    let s1 := (s.setLink p { s.link p with queue := [], reqAt := none, holdUntil := 0 }).setFlag a FAB_P_STAT_UP false
    let s2 := q.foldl (fun t x => match x.from_ with
      | some i => t.freeUnits i x.frame
      | none => t) (s1.count (FAB_P_CNT p) FAB_P_CNT_DISCARD q.length)
    let s3 := (s2.raise (16 + p) (s2.linkValue p)).moveSettle
    if p < 2 then (s3.faultRaise fltLinkDown p 1 (s3.linkValue p)).sendOut (1 - p) 8 0 (linkBody linkBreak []) else s3
  else s

/-- RETRAIN (R377): the link drops, to train again; the bit reads 1 until the link is up (R7). -/
def State.retrain (s : State) (p : Nat) : State := (s.linkFalls p).setFlag (FAB_P_CFG p) FAB_P_CFG_RETRAIN true

/-- Routes flushed. -/
def State.flushRoutes (s : State) : State := { s with fab := { s.fab with routes := [] } }

/-- BREAK and CLOSE received (R384, R403). -/
def State.ringBreak (s : State) : State := (s.flushRoutes.setFlag FAB_STAT FAB_STAT_BROKEN true).raise 20 1
def State.ringClose (s : State) : State := (s.flushRoutes.setFlag FAB_STAT FAB_STAT_BROKEN false).raise 20 0

/-- The 1 ms after a closed segment has passed. -/
def State.holdEndDue (s : State) (p : Nat) : Bool :=
  decide ((s.link p).holdUntil ≠ 0) && decide ((s.link p).holdUntil ≤ s.time)

/-- CLOSE_HOLD_END (R384). -/
def State.closeHoldEnd (s : State) (p : Nat) : State :=
  if s.holdEndDue p then (s.setLink p { s.link p with holdUntil := 0 }).drain p else s

/-- CREDIT received on port `p` (R389). -/
def State.creditIn (s : State) (p : Nat) (c : Credits) : State :=
  let m := [(2, c.n1), (3, c.e1), (4, c.n2), (5, c.e2), (6, c.n3), (7, c.e3)].foldl
    (fun m e => FMap.set (fun _ => 0) m e.1 e.2.toNat) (s.link p).peerFreed
  (s.setLink p { s.link p with peerFreed := m }).drain p

/-- Room has been freed, and 1 µs has passed since the last CREDIT frames. -/
def State.creditDue (s : State) : Bool :=
  decide (s.fab.nextCredit ≤ s.time) && [0, 1].any fun p => (s.link p).dirty && s.linkUp p

/-- CREDIT_ADVERTISE (R389). -/
def State.creditOut (s : State) : State :=
  [0, 1].foldl (fun t p =>
    let x := t.link p
    if x.dirty ∧ t.linkUp p then
      (t.setLink p { x with dirty := false }).sendLocal p 8 0
        (linkBody linkCredit ([2, 3, 4, 5, 6, 7].map fun b => countOf x.freed b))
    else t) ({ s with fab := { s.fab with nextCredit := s.time + ticksUs } } : State)

/-! ## Link delay (R393) -/

/-- 2^-16 ns in one vernier step. -/
def stepNs16 : Nat := 2560

/-- The 10 ms of link-delay measurement have passed. -/
def State.pdelayDue (s : State) : Bool := decide (s.fab.nextPdelay ≤ s.time) && [0, 1, 2].any fun p => s.linkUp p

/-- PDELAY_MEASURE. -/
def State.pdelayMeasure (s : State) : State :=
  [0, 1, 2].foldl (fun t p =>
    if t.linkUp p then
      (t.setLink p { t.link p with reqAt := some (64 * t.time) }).sendLocal p 8 0 (linkBody linkPdelayReq [])
    else t) ({ s with fab := { s.fab with nextPdelay := s.time + 10 * ticksMs } } : State)

/-- PDELAY_REQ on port `p`, answered after a residence in 2^-16 ns. -/
def State.pdelayReq (s : State) (p residence : Nat) : State :=
  s.sendLocal p 8 0 (linkBody linkPdelayResp [residence])

/-- PDELAY_RESP on port `p`, at a vernier step of the present tick, with the partner's residence in 2^-16 ns. -/
def State.pdelayResp (s : State) (p step residence : Nat) : State :=
  match (s.link p).reqAt with
  | some t1 =>
    let d := ((64 * s.time + step - t1) * stepNs16 - residence) / 2
    (s.setLink p { s.link p with reqAt := none }).setRg (FAB_P_DELAY p) (BitVec.ofNat 32 d)
  | none => s

/-! ## Fabric time (R394 to R396) -/

/-- Host addresses (R379). -/
def isHost (a : Nat) : Bool := decide (0x300 ≤ a) && decide (a ≤ 0x30F)

/-- A SYNC of a host stays in force for 10 ms. -/
def syncLife : Nat := 10 * ticksMs

/-- The master (R394): the lowest host heard from in the last 10 ms; 0 where there is none. -/
def State.master (s : State) : Nat :=
  match s.fab.syncs.find? fun e => decide (s.time < e.2 - 1 + syncLife) with
  | some e => e.1
  | none => 0

/-- TIME_VALID. -/
def State.timeValid (s : State) : Bool := s.flag FAB_STAT FAB_STAT_TIME_VALID

/-- TIME_VALID set (R395): each change raises source 19, a fall is a fault. -/
def State.setTimeValid (s : State) (v : Bool) : State :=
  if s.timeValid = v then s
  else
    let t := (s.setFlag FAB_STAT FAB_STAT_TIME_VALID v).raise 19 (b2n v)
    if v then t.faultEnd fltTimeLost 0 else t.faultRaise fltTimeLost 0 1 0

/-- The rate of an undisturbed map in 2^-32 ns per tick, and how far it may be steered (R395: 4 ns per ms). -/
def rateNominal : Int := 10737418240
def rateSpan : Int := 42949

/-- The map after a servo step: its amounts are free values, the offset between the old time and the measured one, the
rate within the bound of R395. -/
def State.steer (s : State) (err : Int) : State :=
  let f := signed 64 s.freeNow
  let s1 := s.drawn
  let r := signed 64 s1.freeNow
  let adj := if err < 0 then clampI err 0 f else clampI 0 err f
  { s1.drawn with
    tmap := some { tick := s.time, ns16 := s.fabNs16 + adj, rate := rateNominal + clampI (-rateSpan) rateSpan r } }

/-- A SYNC of the master, arrived in the present tick at a vernier step; `measured` is the fabric time at the arrival
stamp in 2^-16 ns (R394, R395). -/
def State.servo (s : State) (step : Nat) (measured : Int) : State :=
  let part : Int := step * stepNs16
  match s.tmap with
  | none =>
    (({ s with
        tmap := some { tick := s.time, ns16 := measured - part, rate := rateNominal }
        fab := { s.fab with goodRun := 0, lastSync := some s.time } } : State).setRg FAB_SYNC 0).setTimeValid false
  | some m =>
    let err := measured - (s.fabNs16 + part)
    let s1 := ({ s with fab := { s.fab with lastSync := some s.time } } : State).setRg FAB_SYNC (BitVec.ofInt 32 err)
    if 65536000 < err.natAbs then
      ({ s1 with
         tmap := some { m with tick := s.time, ns16 := measured - part }
         fab := { s1.fab with goodRun := 0 } } : State).setTimeValid false
    else
      let run := if err.natAbs < 6553600 then s1.fab.goodRun + 1 else 0
      let s2 := ({ s1 with fab := { s1.fab with goodRun := run } } : State).steer err
      if 8 ≤ run then s2.setTimeValid true else s2

/-- A frame of source `src` that arrives at port `p` comes over the dateline (R390): the port's partner is the host named in
DLHOST, and the frame names another source. -/
def State.crossesFrom (s : State) (p src : Nat) : Bool :=
  s.flag (FAB_P_STAT p) FAB_P_STAT_HOST_PEER && decide (s.fld FAB_STAT FAB_STAT_DLHOST ≠ 0) &&
    decide (src ≠ s.fld FAB_STAT FAB_STAT_DLHOST)

/-- SYNC (R394): a TIME SYNC frame from a host on port `p`, with its hops and number, ORIGIN and ORIGIN_FRAC, CORR, the
vernier step of its arrival stamp, the residence in 2^-16 ns with which it is forwarded, and whether it has crossed the
dateline (R390). -/
def State.sync (s : State) (p hops src seq : Nat) (origin frac : Nat) (corr : Int) (step residence : Nat) (dl : Bool) : State :=
  let delay : Int := (s.rg (FAB_P_DELAY p)).toNat
  let body := [0, 0, 0, 0] ++ leBytes 8 origin ++ leBytes 2 frac ++ leBytes 8 (unsigned 64 (corr + residence + delay))
  let s0 :=
    if hops = 0 ∨ src = s.addr ∨ 2 ≤ p then s
    else
      s.put (1 - p)
        { frame := { port := 1 - p, kind := 5, hops := hops - 1, dest := broadcast, src := src, tc := 0, dateline := dl,
                     retry := false, session := 0, seq := seq, body := body },
          from_ := none }
  if isHost src then
    let s1 : State := { s0 with fab := { s0.fab with syncs := FMap.set (fun _ => 0) s0.fab.syncs src (s.time + 1) } }
    if s1.master = src then s1.servo step ((origin : Int) * 65536 + frac + corr + delay) else s1
  else s0

/-- 10 ms have passed without a SYNC of the master. -/
def State.syncLost (s : State) : Bool :=
  s.timeValid && (match s.fab.lastSync with
    | some t => decide (t + syncLife ≤ s.time)
    | none => true)

/-- SYNC_TIMEOUT (R395). -/
def State.syncTimeout (s : State) : State :=
  if s.syncLost then ({ s with fab := { s.fab with goodRun := 0 } } : State).setTimeValid false else s

/-- The number of the last multiple of `period` ns that fabric time had reached at a tick; none before any SYNC. -/
def State.fabCount (s : State) (period : Nat) (tick : Nat) : Option Int :=
  s.tmap.map fun _ => ({ s with time := tick } : State).fabNs / (period : Int)

/-- The present tick is the first whose fabric time reaches a multiple of `period` ns (R396). -/
def State.fabReaches (s : State) (period : Nat) : Bool :=
  match s.fabCount period s.time, s.fabCount period (s.time - 1) with
  | some a, some b => decide (b < a)
  | _, _ => false

/-! ## The line-shaft broadcast (R397, R398) -/

/-- The shafts published. -/
def State.published (s : State) : List Nat := (List.range 16).filter fun n => s.flag (SHF_PUB n) SHF_PUB_PUB_EN

/-- One entry of the broadcast. -/
def State.lineEntry (s : State) (n : Nat) : List Byte :=
  [BitVec.ofNat 8 n,
    BitVec.ofNat 8 (b2n (s.angValid n) + 2 * b2n (s.shaft n).dir + 4 * b2n (s.spdValid n) + 8 * b2n (s.shaft n).still),
    0, 0] ++ leBytes 4 (unsigned 32 (s.speedOut n)) ++ leBytes 8 (unsigned 64 (s.phiInt n))

/-- A sample instant has come. -/
def State.publishDue (s : State) : Bool :=
  !s.published.isEmpty && s.fabReaches 50000 && decide (s.fab.sampled ≠ s.fabNs / 50000)

/-- LINESHAFT_PUBLISH (R397). -/
def State.publish (s : State) : State :=
  let ns := s.published
  if ns.isEmpty then s
  else
    let body := leBytes 1 ns.length ++ [BitVec.ofNat 8 (b2n s.timeValid), 0, 0] ++ leBytes 8 (unsigned 64 s.fabNs) ++
      ns.flatMap fun n => s.lineEntry n
    ({ s with fab := { s.fab with sampled := s.fabNs / 50000 } } : State).send 4 broadcast 0 0 body

/-- A broadcast entry for follower `n` (R65, R398). -/
def State.lineFollow (s : State) (n : Nat) (valid : Bool) (sample : Int) (e : LineEntry) : State :=
  let newer : Bool := match (s.shaft n).vb with
    | some b => decide (b.sample < sample)
    | none => true
  if valid ∧ s.timeValid ∧ newer then
    s.virtArrive n
      { angle := e.angle.toInt, speed := e.speed.toInt, dir := e.dir, spdValid := e.spdValid, still := e.still,
        sample := sample, tick := s.time } e.angValid
  else s

/-- LINESHAFT_RECEIVE (R65, R398): a broadcast from an engine, with TIME_VALID of its sender and its sample time. -/
def State.lineReceive (s : State) (src : Nat) (valid : Bool) (sample : Int) (es : List LineEntry) : State :=
  es.foldl (fun t e =>
    State.forEach 16 (fun u n =>
      if u.shaftEn n ∧ u.shaftSrc n = 3 ∧ u.fld (SHF_VSRC n) SHF_VSRC_SRC_ADDR = src ∧
          u.fld (SHF_VSRC n) SHF_VSRC_SRC_SHAFT = e.shaft.val then
        u.lineFollow n valid sample e
      else u) t) s

/-! ## Wake tokens (R400 to R402) -/

/-- WAKE_TOKEN (R401): a token with a good CHECK arrives on port `p`, whose link is down. -/
def State.wakeTokenIn (s : State) (p a reason : Nat) : State :=
  if s.linkUp p ∧ s.power ≠ .watch ∨ p ≠ 0 then s
  else
    let mine := decide (a = broadcast) || (decide (a = s.addr) && !s.quarantined)
    let s1 :=
      if mine then
        let t := (s.count FAB_WAKE FAB_WAKE_COUNT 1).setFld FAB_WAKE FAB_WAKE_REASON reason
        if s.latchesWake then (t.setFld PWR_WAKE PWR_WAKE_TOKEN reason).wakeEvent wakeToken else t
      else s
    if ¬mine ∨ a = broadcast then
      (if s.linkUp 1 ∧ s.power ≠ .watch then s1 else s1.count FAB_WAKE FAB_WAKE_REGEN 1)
    else s1

/-- WAKE_CTL (R402): a host asks for a token on L1; the answer tells whether it was sent. -/
def State.wakeCtl (s : State) (src a reason : Nat) : State :=
  let up := s.linkUp 1
  s.send 9 src 2 0 ([BitVec.ofNat 8 (b2n up), 0] ++ leBytes 2 a ++ leBytes 1 reason)

/-! ## Registers (R404) -/

/-- The write of a FAB register; `p` is the port. -/
def State.writeFab (s : State) (p : Nat) (w : Wr) : State × Status :=
  if w.base = FAB_P_CFG 0 then
    if w.fld FAB_P_CFG_MAX_RATE = 3 then (s, .range)
    else
      let t := s.plainWrite w
      (if w.acts FAB_P_CFG_RETRAIN then t.retrain p else t, .ok)
  else (s.plainWrite w, .ok)

/-- A FAB register as it reads. -/
def State.viewFab (s : State) (b a : Nat) : Word :=
  if b = FAB_TIME_LO then BitVec.ofInt 32 s.fabNs
  else if b = FAB_TIME_HI then BitVec.ofInt 32 (s.fabNs / 2 ^ 32)
  else if b = FAB_MASTER then BitVec.ofNat 32 s.master
  else s.rg a

end Sys2Proof.Machine
end

