-- ==== Sys2Proof/Machine/Twin.lean ====
section
/-! DEFINITION. Twin operation (R405 to R423): forming a pair, heartbeats, the lease, loss and takeover, epochs and their
digests, TWN registers. Items and copies received stand in Mirror.lean. -/

namespace Sys2Proof.Machine

/-! ## Roles and states -/

/-- TWIN_ROLE set (R24, R406). -/
def State.setRole (s : State) (r : Nat) : State := s.setFld GLB_STATUS GLB_STATUS_TWIN_ROLE r

/-- MIRROR set: each change raises source 26 with the new state (R412, R422). -/
def State.setMir (s : State) (m : Nat) : State :=
  if s.mirState = m then s
  else
    let t := (s.setFld TWN_STAT TWN_STAT_MIRROR m).raise 26 m
    if m = mirStale then t.count TWN_CNT0 TWN_CNT0_STALES 1 else t

/-- The twin unit's own state set. -/
def State.setTwin (s : State) (x : Twin) : State := { s with twin := x }

/-- A confirmation frame (R410): TWIN_PROBE 1, TWIN_ALIVE 2, TAKEOVER 3. -/
def State.sendConfirm (s : State) (sub : Nat) : State :=
  s.send 5 broadcast 0 0 ([BitVec.ofNat 8 sub, 0] ++ leBytes 2 s.addr ++ leBytes 2 s.pairAddr)

/-- TWIN_PROBE sent and counted. -/
def State.sendProbe (s : State) : State := (s.sendConfirm 1).count TWN_CNT1 TWN_CNT1_PROBES 1

/-- The active member has no standby (R415): the fault is active until a standby is IN_SYNC. -/
def State.alone (s : State) : State :=
  let t := s.setMir mirAlone
  if t.faultActive fltTwinAlone 0 then t else t.faultRaise fltTwinAlone 0 1 0

/-- A member becomes active (R406). -/
def State.becomeActive (s : State) : State := ((s.setRole 1).faultEnd fltTwinClash 0).liveSettle

/-- A member becomes standby and joins (R406, R421). -/
def State.becomeStandby (s : State) : State :=
  let t := (((s.setRole 2).faultEnd fltTwinClash 0).setMir mirJoining).liveSettle
  t.setTwin { t.twin with joined := false, epochDone := false, seqIn := none, wanted := 0, differ := 0 }

/-- TWIN_ENABLE (R405, R406): SEARCH begins. -/
def State.twinEnable (s : State) : State :=
  let t := (({ s with twin := { Twin.init with searchFrom := s.time } } : State).setMir mirSearch)
  (t.beat false).sendProbe

/-- EN cleared: the pair is dissolved on this member. -/
def State.twinDisable (s : State) : State :=
  let t := ((s.setTwin Twin.init).setMir mirOff).setFlag TWN_STAT TWN_STAT_PARTNER false
  ((({ (t.setRole 0) with leaseOk := true } : State).faultEnd fltTwinAlone 0).faultEnd fltTwinClash 0).liveSettle

/-- The member is in SEARCH. -/
def State.searching (s : State) : Bool := s.twinEn && decide (s.mirState = mirSearch)

/-- 100 µs have passed in SEARCH without a partner heard. -/
def State.searchDue (s : State) : Bool := s.searching && !s.twin.heard && decide (s.twin.searchFrom + 100 * ticksUs ≤ s.time)

/-- SEARCH_TIMEOUT (R406): a partner that answered TWIN_PROBE keeps the member in SEARCH, which probes again. -/
def State.searchTimeout (s : State) : State :=
  if s.searchDue then
    if s.twin.alive then (s.setTwin { s.twin with alive := false, searchFrom := s.time }).sendProbe
    else (s.becomeActive.alone).raise 25 0
  else s

/-! ## Digests (R410) -/

/-- CRC-32C over the index and STATE of a shaft's events. -/
def State.shaftDigest (s : State) (n : Nat) : Nat :=
  crc32c (Config.itemBytes 768
    ((s.events.filter fun e => decide (e.2.desc.shaft = n) && decide (e.2.st ≠ .free)).flatMap fun e => [e.1, e.2.st.code]))

/-- CRC-32C over PID, FLAGS and ANCHOR of a lane's records. -/
def State.laneDigest (s : State) (n : Nat) : Nat :=
  crc32c (Config.itemBytes 769
    ((FMap.get (fun _ => EphLane.init) s.ephLanes n).prods.flatMap fun i =>
      [(s.prod i).pid, (s.prod i).flags, unsigned 64 (s.prod i).anchor]))

/-- All digests: shafts 0–15, then lanes 0–15. -/
def State.allDigests (s : State) : List Nat :=
  (List.range 16).map (fun n => s.shaftDigest n) ++ (List.range 16).map fun n => s.laneDigest n

/-- The mask of the positions in which two lists differ. -/
def differMask : Nat → List Nat → List Nat → Nat
  | k, a :: as, b :: bs => (if a = b then 0 else 2 ^ k) + differMask (k + 1) as bs
  | _, _, _ => 0

/-! ## Copies sent (R410, R421) -/

/-- A byte list cut into frames of COPY. -/
def copyChunks : Nat → List Byte → List (List Byte)
  | 0, _ => []
  | k + 1, bs => if bs.isEmpty then [] else bs.take 1472 :: copyChunks k (bs.drop 1472)

/-- Contents sent as COPY parts; their layout is a free value. -/
def State.sendCopy (s : State) (kind : Nat) (payload : List Nat) : State :=
  let bs := Config.itemBytes (512 + kind) payload
  (copyChunks bs.length bs).foldl (fun t c =>
    (t.setTwin { t.twin with part := (t.twin.part + 1) % 2 ^ 32 }).sendNumbered 5 (leBytes 4 t.twin.part ++ c)) s

/-- The descriptors of a shaft, or of all (none), as a COPY part carries them. -/
def State.copyEvents (s : State) (n : Option Nat) : List Nat :=
  (s.events.filter fun e => n.all fun k => decide (e.2.desc.shaft = k)).flatMap fun e => [e.1, ofLe e.2.bytes]

/-- The records of a lane, or of all (none). -/
def State.copyRecords (s : State) (n : Option Nat) : List Nat :=
  (s.products.filter fun e => n.all fun k => decide (e.2.lane = k)).flatMap fun e => [e.1, ofLe e.2.bytes]

/-- A block that joins the copy of the pool: held by a claim, in no composer ring. -/
def State.copyBlock (s : State) (b : Nat) : Bool := (s.blockClaim b).isSome && !s.meetsRing b 1

/-- The joining transfer of the active member, in the order of R421. -/
def State.sendJoin (s : State) : State :=
  let t0 := s.setTwin { s.twin with part := 0 }
  let t1 := t0.sendCopy 1 (s.regs.flatMap fun e => [e.1, e.2.toNat])
  let t2 := t1.sendCopy 2 (s.copyEvents none)
  let t3 := t2.sendCopy 3 (s.copyRecords none)
  let t4 := t3.sendCopy 4 (s.imem.flatMap (fun e => [e.1, e.2.toNat]) ++ s.dmem.flatMap fun c => [c.1, c.2.toNat])
  t4.sendCopy 5 ((s.pool.filter fun c => s.copyBlock (c.1 / blockSize)).flatMap fun c => [c.1, c.2.toNat])

/-- RESYNC_REQ at the active member (R410): full copies of a shaft's descriptors or of a lane's records. -/
def State.resyncReq (s : State) (index : Nat) (lane : Bool) : State :=
  if s.mirroring then
    let t := s.setTwin { s.twin with part := 0 }
    if lane then t.sendCopy 3 (s.copyRecords (some index)) else t.sendCopy 2 (s.copyEvents (some index))
  else s

/-- A resynchronisation of shaft or lane `k` asked for: bit `k` of the masks. -/
def State.askResync (s : State) (k : Nat) : State :=
  s.sendNumbered 4 [BitVec.ofNat 8 (k % 16 + (if k < 16 then 0 else 16))]

/-- The standby becomes STALE (R412): it asks for every shaft and lane. -/
def State.goStale (s : State) : State :=
  if s.standby ∧ s.mirState = mirInSync then
    let t := s.setMir mirStale
    (List.range 32).foldl (fun u k => u.askResync k) (t.setTwin { t.twin with wanted := 2 ^ 32 - 1, epochDone := false })
  else s

/-- A numbered MIRROR frame arrives (R411): a missing number makes the standby STALE. -/
def State.seqArrive (s : State) (q : Nat) : State :=
  let t := s.setTwin { s.twin with seqIn := some q }
  match s.twin.seqIn with
  | none => t
  | some p => if (p + 1) % 65536 = q then t else t.goStale

/-! ## Events at takeover (R416) -/

/-- Fabric time of a tick. -/
def State.nsAt (s : State) (tick : Nat) : Int := ({ s with time := tick } : State).fabNs

/-- How long the lease of the failed member outlasts its last heartbeat, in ns. -/
def leaseNs : Int := 20000

/-- Indexes of ACTIVE or DONE events whose start, in fabric ns, satisfies a test. -/
def State.startedWhere (s : State) (p : Int → Bool) : List Nat :=
  s.eventsWhere fun e => (decide (e.st = .active) || decide (e.st = .done)) && p (s.nsAt e.startTick)

/-- Uncertain starts: within the lease after the last heartbeat. -/
def State.uncertain (s : State) (hb : Int) : List Nat :=
  s.startedWhere fun t => decide (hb < t) && decide (t ≤ hb + leaseNs)

/-- Starts that nobody drove, or that UNCERT = 1 takes so. -/
def State.undrivenStarts (s : State) (hb : Int) : List Nat :=
  s.startedWhere fun t => decide (hb + leaseNs < t) ||
    (s.flag TWN_CFG TWN_CFG_UNCERT && decide (hb < t) && decide (t ≤ hb + leaseNs))

/-- An ACTIVE event that is not driven at once lets go of its output. -/
def State.undrive (s : State) (i : Nat) : State :=
  let e := s.event i
  if e.st = .active ∧ 1 ≤ e.desc.kind ∧ e.desc.kind ≤ 3 then
    s.outEnd (levelTarget e.desc.kind e.desc.index) (64 * s.time)
  else s

/-- An event late at takeover (R416, R76). -/
def State.lateAtTakeover (s : State) (i : Nat) : State :=
  let e := s.event i
  if e.desc.late = 1 ∧ e.endTick ≤ s.time then (s.almSkip i).almRepeat i else s.almLate i

/-- Drive returns to the outputs without R28: what is on counts as it reaches its pin. -/
def State.liveAtOnce (s : State) : State :=
  if s.outLive then
    let t : State := { s with liveWas := true }
    let u0 := State.forEach 24 (fun v n => v.setPwm n { v.pwm n with driveWait := false }) t
    let u := State.forEach 4 (fun v c => v.setChain c { v.chain c with live := (v.chain c).running }) u0
    (u.outs.filter fun e => e.2.on && decide (e.1 < 144)).foldl (fun v e =>
      if v.driven e.1 then (v.setOut e.1 { v.out e.1 with hold := false }).bumpTally e.1 1 else v) u
  else s

/-- A product flagged SUSPECT. -/
def State.suspect (s : State) (i : Nat) : State := s.setProd i ((s.prod i).mark pfSuspect)

/-- The product of an event flagged SUSPECT. -/
def State.suspectOf (s : State) (i : Nat) : State :=
  let d := (s.event i).desc
  if d.prodValid then s.suspect d.product else s

/-- Codes in progress in the shadow are not resumed; their products miss their codes (R199). -/
def State.rasTakeover (s : State) : State :=
  State.forEach 8 (fun t n =>
    match (t.ras n).code with
    | some c =>
      let u := (t.setRas n { t.ras n with code := none }).rasReturn n c.im
      if c.undriven then u.markProduct c.product pfCodeMissed else u.rasMissed n c.product
    | none => t) s

/-- The serial generators resume in the member's own blocks (R419). -/
def State.genTakeover (s : State) : State :=
  State.forEach 8 (fun t g => if t.genEn g then (t.genDrop 3 g).reserveNext g else t) s

/-! ## Takeover (R414 to R417) -/

/-- Takeover by the standby: 0 loss confirmed, 1 yield, 2 switchover. -/
def State.takeover (s : State) (why : Nat) : State :=
  let hb : Int := (s.rg64 TWN_HB_LO : Int)
  let unsure := s.uncertain hb
  let again := s.undrivenStarts hb
  let stale := decide (s.mirState = mirStale)
  let onLane := (s.products.filter fun e => decide (e.2.st = .onLane)).map (·.1)
  let s1 := again.foldl (fun t i => t.undrive i) s
  let gap := satTo 65535 ((s.fabNs - hb).toNat / 1000)
  let s2 := (((((s1.setRole 1).sendConfirm 3).count TWN_CNT0 TWN_CNT0_TAKEOVERS 1).setFld TWN_GAP TWN_GAP_GAP gap).alone).raise 24
    why
  let s3 := s2.setTwin { s2.twin with heard := false, lossAt := none, probes := 0, alive := false, switch := false, awaited := none }
  let s4 := s3.liveAtOnce
  let s5 := again.foldl (fun t i => t.lateAtTakeover i) s4
  let s6 := unsure.foldl (fun t i => t.suspectOf i) s5
  let s7 := if unsure.isEmpty then s6
    else (s6.count TWN_CNT0 TWN_CNT0_UNCERTAIN unsure.length).raise 29 unsure.length
  let s8 := if stale then onLane.foldl (fun t i => t.suspect i) s7 else s7
  let s9 := State.forEach 8 (fun t n =>
    t.setSess n { Session.init with owner := (t.twin.owners.find? fun o => decide (o.1 = n)).map (·.2) }) s8.releaseSessions
  s9.rasTakeover.genTakeover

/-- A takeover where the member may take one (R414): from IN_SYNC or STALE; in SEARCH or JOINING a fault is logged. -/
def State.tryTakeover (s : State) (why : Nat) : State :=
  if s.mirState = mirInSync ∨ s.mirState = mirStale then s.takeover why else s.faultEvent fltTwinNoTakeover 0 2 why

/-! ## Heartbeats received (R411, R413, R414) -/

/-- MEMBER of this engine. -/
def State.member (s : State) : Bool := s.flag TWN_CFG TWN_CFG_MEMBER

/-- A switchover cannot be told from another yield by the heartbeat alone: where the mirror has not told of the write of
SWITCH, the value is 1 or 2, a free value. -/
def State.yieldValue (s : State) : Nat := if s.twin.switch then 2 else 1 + s.freeNow % 2

/-- Reservations that the partner's journal holds now: every item up to `seq` has been applied (R177). -/
def State.ackReservations (s : State) (seq : Nat) : State :=
  let isIn (q : Nat) : Bool := decide ((seq + 65536 - q) % 65536 < 32768)
  let got := s.twin.reservations.filter fun r => isIn r.2
  ({ s with reservationAcks := s.reservationAcks ++ got.map (·.1) } : State).setTwin
    { s.twin with reservations := s.twin.reservations.filter fun r => !isIn r.2 }

/-- The active member follows its partner's state. -/
def State.followPartner (s : State) (old : Nat) (h : HeartBeat) : State :=
  let t := s.ackReservations (h.seq.toNat % 65536)
  if h.role = 3 then
    let u := t.setMir mirJoining
    if old = 3 then u else u.sendJoin
  else if h.role = 2 then
    if h.inSync then (t.setMir mirInSync).faultEnd fltTwinAlone 0 else t.setMir mirStale
  else t

/-- HEARTBEAT (R406, R411, R414). -/
def State.heartbeat (s : State) (h : HeartBeat) : State :=
  if ¬s.twinEn ∨ h.dest.toNat ≠ s.pairAddr then s
  else if h.member = s.member then (s.raise 26 s.mirState).faultRaise fltTwinClash 0 2 s.mirState
  else
    let old := s.twin.peerRole
    let hb := s.rg64 TWN_HB_LO
    let s1 := if s.twin.heard ∧ hb + 20000 < h.time.toNat then s.count TWN_CNT1 TWN_CNT1_HB_LATE 1 else s
    let s2 := (s1.setRg64 TWN_HB_LO h.time.toNat).setFlag TWN_STAT TWN_STAT_PARTNER true
    let s3 := s2.setTwin { s2.twin with heard := true, peerRole := h.role.toNat, peerInSync := h.inSync, lossAt := none,
                                         probes := 0, alive := false }
    if s.searching then
      if h.role = 1 then s3.becomeStandby
      else if h.role = 0 ∧ ¬s.member then s3.becomeActive.setMir mirJoining
      else s3
    else if s.standby then
      if h.role = 1 ∧ h.yield_ then
        (if s.twin.switch then s3.tryTakeover 2 else s3.drawn.tryTakeover s3.yieldValue)
      else s3
    else if s.twinActive then s3.followPartner old h
    else s3

/-! ## Heartbeats sent, the lease, loss (R410, R413, R414) -/

/-- A heartbeat is due. -/
def State.beatDue (s : State) : Bool := s.twinEn && decide (s.twin.nextBeat ≤ s.time)

/-- HEARTBEAT_SEND (R410). -/
def State.beatSend (s : State) : State := if s.beatDue then s.beat false else s

/-- The lease of the active member has run out. -/
def State.leaseDue (s : State) : Bool :=
  s.twinEn && s.twinActive && s.leaseOk &&
    (match s.twin.sentAt with
     | some t => decide (t + leaseTicks ≤ s.time)
     | none => true)

/-- LEASE_LAPSE (R413). -/
def State.leaseLapse (s : State) : State := if s.leaseDue then ({ s with leaseOk := false } : State).liveSettle else s

/-- 50 µs have passed since the last heartbeat received was sent. -/
def State.lossDue (s : State) : Bool :=
  s.twinEn && s.twin.heard && s.twin.lossAt.isNone && decide ((s.rg64 TWN_HB_LO : Int) + 50000 ≤ s.fabNs)

/-- HEARTBEAT_LOSS (R414, R422): a standby probes, an active member is alone, a member in SEARCH searches on. -/
def State.heartbeatLoss (s : State) : State :=
  if s.lossDue then
    let t := s.setFlag TWN_STAT TWN_STAT_PARTNER false
    if s.standby then (t.setTwin { t.twin with lossAt := some s.time, probes := 1, alive := false }).sendProbe
    else
      let u := t.setTwin { t.twin with heard := false, searchFrom := s.time }
      if s.twinActive then u.alone.raise 25 0 else u
  else s

/-- The next repeat of TWIN_PROBE is due: 30 µs and 60 µs after the loss. -/
def State.probeDue (s : State) : Bool :=
  match s.twin.lossAt with
  | some t => decide (1 ≤ s.twin.probes) && decide (s.twin.probes < 3) && decide (t + 30 * s.twin.probes * ticksUs ≤ s.time)
  | none => false

/-- TWIN_PROBE_REPEAT. -/
def State.probeRepeat (s : State) : State :=
  if s.probeDue then (s.setTwin { s.twin with probes := s.twin.probes + 1 }).sendProbe else s

/-- 90 µs have passed since the loss. -/
def State.confirmDue (s : State) : Bool :=
  match s.twin.lossAt with
  | some t => decide (t + 90 * ticksUs ≤ s.time)
  | none => false

/-- LOSS_CONFIRMED (R414): a TWIN_ALIVE heard since ends the loss without a takeover, and the wait starts again. -/
def State.lossConfirmed (s : State) : State :=
  if s.confirmDue then
    let t := s.setTwin { s.twin with lossAt := none, probes := 0, alive := false }
    if s.twin.alive then t
    else if s.mirState = mirInSync ∨ s.mirState = mirStale then t.takeover 0
    else (t.setTwin { t.twin with heard := false }).faultEvent fltTwinNoTakeover 0 2 0
  else s

/-- TWIN_PROBE received (R414). -/
def State.probeIn (s : State) (pair : Nat) : State :=
  if s.twinEn ∧ s.twinActive ∧ pair = s.pairAddr then s.sendConfirm 2 else s

/-- TWIN_ALIVE received (R406, R414). -/
def State.aliveIn (s : State) (pair : Nat) : State :=
  if s.twinEn ∧ ¬s.twinActive ∧ pair = s.pairAddr then s.setTwin { s.twin with alive := true } else s

/-- TAKEOVER received naming `pair`, or a frame from the fabric with SRC = `pair` (R418). -/
def State.takeoverIn (s : State) (pair : Nat) : State :=
  if s.twinEn ∧ s.twinActive ∧ pair = s.pairAddr ∧ ¬s.faultActive fltTwinSplit 0 then
    (s.faultF3 fltTwinSplit 0 0).raise 28 0
  else s

/-! ## Epochs (R410, R412) -/

/-- An epoch boundary has come. -/
def State.epochDue (s : State) : Bool :=
  s.twinEn && s.fabReaches 100000 && decide (s.twin.boundary ≠ s.fabNs / 100000)

/-- The thread state and the words of data memory written since the last epoch, as items (R409). -/
def State.mirrorThreads (s : State) : State :=
  let t := (List.range 256).foldl (fun (u : State) g =>
    let x := u.th g
    u.mirror 6 ([g, x.pc] ++ x.g.flatMap (fun e => [e.1, e.2.toNat]) ++ x.stack)) s
  let u := t.mirror 6 (256 :: (s.dmemDirty.flatMap fun e => [e.1, ofLe (memReadAll s.dmem (8 * e.1) 8)]))
  { u with dmemDirty := [] }

/-- EPOCH_BOUNDARY (R410): the active member closes the epoch, the standby takes its digests. -/
def State.epochBoundary (s : State) : State :=
  if s.epochDue then
    let s1 := s.setTwin { s.twin with boundary := s.fabNs / 100000 }
    if s1.mirroring then
      let n := ((s1.rg TWN_EPOCH).toNat + 1) % 2 ^ 32
      let s2 := s1.mirrorThreads.setRg TWN_EPOCH (BitVec.ofNat 32 n)
      s2.sendNumbered 2 (leBytes 4 n ++ s1.allDigests.flatMap fun d => leBytes 4 d)
    else if s1.standby then s1.setTwin { s1.twin with awaited := some s.time, digests := s.allDigests }
    else s1
  else s

/-- EPOCH received by the standby (R410, R412): its number and digests. -/
def State.epochIn (s : State) (q n : Nat) (ds : List Nat) : State :=
  if s.twinEn ∧ s.standby then
    let s1 := (s.seqArrive q).setRg TWN_EPOCH (BitVec.ofNat 32 n)
    let d := differMask 0 s1.twin.digests ds
    let bad := Nat.land d s1.twin.differ
    let s2 := s1.sendNumbered 3 (leBytes 4 n ++ leBytes 2 d ++ leBytes 2 (d / 65536))
    let s3 := s2.setTwin { s2.twin with awaited := none, differ := d, epochDone := s2.twin.joined }
    let s4 := (bitsSet 32 bad).foldl (fun t k => t.askResync k) s3
    if s4.mirState = mirStale ∧ s4.twin.wanted = 0 then s4.setMir mirInSync else s4
  else s

/-- EPOCH_ACK received by the active member (R410). -/
def State.epochAckIn (s : State) (q shafts lanes : Nat) : State :=
  if s.mirroring then s.setTwin { s.twin with seqIn := some q, differ := shafts % 65536 + 65536 * (lanes % 65536) } else s

/-- No EPOCH record has come within 150 µs of its boundary. -/
def State.epochLate (s : State) : Bool :=
  s.twinEn && s.standby && (match s.twin.awaited with
    | some t => decide (t + 150 * ticksUs ≤ s.time)
    | none => false)

/-- EPOCH_TIMEOUT (R412). -/
def State.epochTimeout (s : State) : State :=
  if s.epochLate then (s.setTwin { s.twin with awaited := none }).goStale else s

/-- The joining transfer is complete and an epoch has been applied since. -/
def State.joiningDue (s : State) : Bool :=
  s.twinEn && s.standby && decide (s.mirState = mirJoining) && s.twin.joined && s.twin.epochDone

/-- JOINING_END (R412, R421). -/
def State.joiningEnd (s : State) : State := if s.joiningDue then s.setMir mirInSync else s

/-! ## Registers (R405, R421, R423) -/

/-- PAIR_ADDR is one the spec allows (R423). -/
def State.pairOk (s : State) (a : Nat) : Bool := decide (1 ≤ a) && decide (a ≤ 0xFA) && decide (a ≠ s.addr)

/-- SWITCH (R414, R421): refused unless the partner is IN_SYNC. On the standby, where the mirror delivers the write, it
only tells what the yield that follows is. -/
def State.switchOver (s : State) : State × Status :=
  if s.twinEn ∧ s.twinActive ∧ s.twin.peerInSync ∧ s.flag TWN_STAT TWN_STAT_PARTNER then (s.beat true, .ok) else (s, .state)

/-- The write of a TWN register. -/
def State.writeTwn (s : State) (w : Wr) : State × Status :=
  if w.base = TWN_CFG then
    if w.was TWN_CFG_EN = 1 then
      if w.changes (~~~ TWN_CFG_EN.mask) then (s, .state)
      else if w.fld TWN_CFG_EN = 0 then ((s.plainWrite w).twinDisable, .ok)
      else (s.plainWrite w, .ok)
    else if w.fld TWN_CFG_EN = 1 then
      if ¬s.pairOk (w.fld TWN_CFG_PAIR_ADDR) then (s, .range)
      else if ¬s.addrLocked then (s, .state)
      else ((s.plainWrite w).twinEnable, .ok)
    else (s.plainWrite w, .ok)
  else if w.base = TWN_CMD then (if w.acts TWN_CMD_SWITCH then s.switchOver else (s, .ok))
  else (s.plainWrite w, .ok)

end Sys2Proof.Machine
end

