-- ==== Sys2Proof/Machine/FaultLog.lean ====
section
/-! DEFINITION. The fault log (R505, R506): entries, the flush of the staging area, the window. -/

namespace Sys2Proof.Machine

/-- The 32 bytes of a log entry (R505). -/
def FaultEntry.bytes (e : FaultEntry) : List Byte :=
  let flags := b2n e.calValid + 2 * b2n (decide (e.kind = .ended)) + 4 * (e.cls % 4)
  let bs := leBytes 4 e.seq ++ leBytes 8 e.time ++ leBytes 5 e.cal ++ leBytes 1 flags ++ leBytes 2 e.code ++
    leBytes 2 e.inst ++ leBytes 2 e.repeats ++ leBytes 4 e.detail ++ leBytes 2 e.boot
  bs ++ leBytes 2 (crc16 bs)

/-- The staging area written to flash (R505): the ring keeps its newest 4 096 entries. -/
def State.logWrite (s : State) : State :=
  let all := s.flash ++ s.staging
  { s with
    flash := all.drop (all.length - flashSize)
    staging := []
    logAt := s.time }

/-- A write of the staging area is due: every 1 s. -/
def State.logDue (s : State) : Bool := !s.staging.isEmpty && decide (s.logAt + ticksS ≤ s.time)

/-- FAULT_LOG_FLUSH (R505). -/
def State.logFlush (s : State) : State := if s.logDue then s.logWrite else s

/-- The entry AGE places back from the newest written. -/
def State.logEntry (s : State) (age : Nat) : Option FaultEntry := s.flash.reverse[age]?

/-- FAULT_LOG_SELECT (R506): the window starts loading. -/
def State.logSelect (s : State) (w : Wr) : State × Status :=
  if s.flash.length ≤ w.fld GLB_FLOG_SEL_AGE then (s, .range)
  else
    (({ (s.plainWrite w) with selAt := some s.time } : State).setFlag GLB_FLOG_STAT GLB_FLOG_STAT_BUSY true, .ok)

/-- FAULT_LOG_LOADED (R506): the window holds the selected entry, or all ones where its CHECK fails. -/
def State.logLoaded (s : State) (good : Bool) : State :=
  if s.selAt.isSome then
    let ws : List Word := match s.logEntry (s.fld GLB_FLOG_SEL GLB_FLOG_SEL_AGE) with
      | some e => if good then wordsOf e.bytes 8 else List.replicate 8 0xFFFFFFFF
      | none => List.replicate 8 0xFFFFFFFF
    (List.range 8).foldl (fun t k => t.setRg (GLB_FLOG_E k) (ws.getD k 0))
      (({ s with selAt := none } : State).setFlag GLB_FLOG_STAT GLB_FLOG_STAT_BUSY false)
  else s

/-- Loading is complete at the latest now: 100 µs after the write. -/
def State.logLoadDue (s : State) : Bool :=
  match s.selAt with
  | some t => decide (t + 100 * ticksUs ≤ s.time)
  | none => false

end Sys2Proof.Machine
end

