-- ==== Sys2Proof/Machine/RegAccess.lean ====
section
/-! DEFINITION. The register space (R5 to R9, R22 to R32, R334 to R336): how a register reads, what reading does, and how
a write reaches its unit. -/

namespace Sys2Proof.Machine

/-! ## GLB (R22 to R32, R360, R506) -/

/-- Bytes of staging space that a record uses (R344). -/
def CmdRec.space (c : CmdRec) : Nat := roundUp (12 + c.body.length) 4

/-- Staging space in use (R344). -/
def State.staged (s : State) : Nat :=
  s.txns.foldl (fun n t => t.staged.foldl (fun k c => k + c.space) n) 0

/-- A transaction whose single-engine commit is pending, and one that is prepared. -/
def Txn.isPending (t : Txn) : Bool := decide (t.phase = .pending)
def Txn.isPrepared (t : Txn) : Bool :=
  match t.phase with
  | .prepared _ => true
  | _ => false

/-- A GLB register as it reads. -/
def State.viewGlb (s : State) (b a : Nat) : Word :=
  if b = GLB_STATUS then
    ((s.rg a).setF GLB_STATUS_FAULT_MAX s.faultMax).setF GLB_STATUS_OUT_LIVE (b2n s.outLive)
  else if b = GLB_TIME_LO then BitVec.ofNat 32 s.time
  else if b = GLB_TIME_HI then BitVec.ofNat 32 (s.time / 2 ^ 32)
  else if b = GLB_TXN then
    ((((0 : Word).setF GLB_TXN_PREPARED (s.txns.filter Txn.isPrepared).length).setF GLB_TXN_PENDING
      (s.txns.filter Txn.isPending).length).setF GLB_TXN_OPEN s.txns.length).setF GLB_TXN_STAGED s.staged
  else if b = GLB_FLOG_SEQ then BitVec.ofNat 32 (s.flogSeq - 1)
  else if b = GLB_FLOG_STAT then (s.rg a).setF GLB_FLOG_STAT_STAGED s.staging.length
  else s.rg a

/-- ADDR_WRITE (R31): refused on a locked address and outside 0x0001–0x00FA. -/
def State.writeAddr (s : State) (w : Wr) : State × Status :=
  if s.addrLocked then (s, .locked)
  else if w.fld GLB_ADDR_ADDR = 0 ∨ 0xFA < w.fld GLB_ADDR_ADDR then (s, .range)
  else (s.plainWrite w, .ok)

/-- The write of a GLB register. A write of OUT_EN = 1 in the tick of entry to the safe state is refused (R29). -/
def State.writeGlb (s : State) (w : Wr) : State × Status :=
  if w.base = GLB_CTL then
    if w.fld GLB_CTL_OUT_EN = 1 ∧ s.safeAt = some s.time then (s, .state)
    else
      let t := s.plainWrite w
      ((if w.fld GLB_CTL_OUT_EN = 1 then t.permits else t).liveSettle, .ok)
  else if w.base = GLB_ADDR then s.writeAddr w
  else if w.base = GLB_FLOG_SEL then s.logSelect w
  else (s.plainWrite w, .ok)

/-! ## Reading (R7, R8, R334) -/

/-- A register as it reads; `d` is its description, `i` and `j` its instance numbers. -/
def State.view (s : State) (d : RegDesc) (i j a : Nat) : Word :=
  let b := d.base
  match blockOf a with
  | some .glb => s.viewGlb b a
  | some .pwr => s.viewPwr b a
  | some .ntf => s.viewNtf b i a
  | some .fab => s.viewFab b a
  | some .shf => s.viewShaft b i a
  | some .fbp => s.viewPort b i a
  | some .tmc => s.viewCell b i a
  | some .alm => s.viewAlm b a
  | some .blu => s.viewBlu b i j a
  | some .eph => s.viewEph b i a
  | some .cmp => s.viewCmp b i a
  | some .ras => s.viewRas b i a
  | some .pwm => s.viewPwm b i a
  | some .fio => s.viewFio b i a
  | some .adc => s.viewAdc b i j a
  | some .dma => s.rg a
  | some .pol => s.viewPool b i a
  | some .tal => s.viewTal b i a
  | some .can => s.viewCan b i a
  | some .twn => s.rg a
  | none => 0

/-- The bits of a register that its description gives a field, but for those that read as 0 (WO). -/
def RegDesc.readable (d : RegDesc) : Word :=
  d.fields.foldl (fun m f => if f.acc = .wo then m else m ||| f.fld.mask) 0

/-- The fields of a register that reading or writing 1 clears. -/
def RegDesc.clearing (d : RegDesc) : Word := d.mask .rc ||| d.mask .w1c

/-- The state with these fields of a register as they stood before the hardware set them in this tick (R8). -/
def State.beforeSets (s : State) (d : RegDesc) (a : Nat) : State :=
  let x := s.freshAt a
  if x.plus &&& d.clearing = 0 then s
  else s.setRg a ((s.rg a &&& ~~~ d.clearing) ||| (x.base &&& d.clearing))

/-- The register at address `a` as it reads, without side effects; 0 where it is unassigned. -/
def State.readReg (s : State) (a : Nat) : Word :=
  match regAt a with
  | some (d, i, j) => (s.beforeSets d a).view d i j a &&& d.readable
  | none => 0

/-- What reading the register at address `a` does (R7, R8, R241, R293, R472): its RC fields clear to what the
hardware has set in this tick, a queue yields its
oldest entry. -/
def State.readSide (s : State) (a : Nat) : State :=
  match regAt a with
  | some (d, i, j) =>
    if d.base = TMC_CAP 0 then s.setCell i { s.cell i with capQ := (s.cell i).capQ.drop 1 }
    else if d.base = ADC_C_FIFO 0 0 then (if j = 3 then s.setAdc i { s.adc i with queue := (s.adc i).queue.drop 1 } else s)
    else if d.base = JNL_GAP 0 then (if i = 7 then s.gapPop else s)
    else if d.mask .rc = 0 then s
    else
      let x := s.freshAt a
      (s.setRg a ((s.rg a &&& ~~~ d.mask .rc) ||| (x.plus &&& d.mask .rc))).setFresh a
        (if x.plus = 0 then Fresh.none else { x with base := x.base &&& ~~~ d.mask .rc })
  | none => s

/-- A read of the fault log window completes once loading is done (R506). -/
def State.readWait (s : State) (a : Nat) : State :=
  match regAt a with
  | some (d, _, _) => if d.base = GLB_FLOG_E 0 then s.logLoaded true else s
  | none => s

/-- `n` registers read in ascending order from `a`, with their side effects (R334). -/
def State.readRegs (s : State) : Nat → Nat → State × List Word
  | _, 0 => (s, [])
  | a, n + 1 =>
    let t := s.readWait a
    let r := State.readRegs (t.readSide a) (a + 4) n
    (r.1, t.readReg a :: r.2)

/-! ## Writing (R7, R9, R335, R336) -/

/-- The bits of a register that a write can act on. -/
def RegDesc.writable (d : RegDesc) : Word :=
  d.mask .rw ||| d.mask .wo ||| d.mask .w1c ||| d.mask .w1s ||| d.mask .sc

/-- The bits that act when 1 is written to them. -/
def RegDesc.acting (d : RegDesc) : Word := d.mask .wo ||| d.mask .w1c ||| d.mask .w1s ||| d.mask .sc

/-- The write of the unit that owns a register. -/
def State.unitWrite (s : State) (i j : Nat) (w : Wr) : State × Status :=
  match blockOf w.addr with
  | some .glb => s.writeGlb w
  | some .pwr => s.writePwr w
  | some .ntf => s.writeNtf i w
  | some .fab => s.writeFab i w
  | some .shf => s.writeShaft i w
  | some .fbp => s.writePort i w
  | some .tmc => s.writeCell i w
  | some .alm => (s.plainWrite w, .ok)
  | some .blu => s.writeBlu i j w
  | some .eph => s.writeEph i w
  | some .cmp => s.writeCmp i w
  | some .ras => s.writeRas i w
  | some .pwm => s.writePwm i w
  | some .fio => s.writeFio i j w
  | some .adc => s.writeAdc i w
  | some .dma => s.writeDma i w
  | some .pol => (s.plainWrite w, .ok)
  | some .tal => s.writeTal i w
  | some .can => s.writeCan w
  | some .twn => s.writeTwn w
  | none => (s, .addr)

/-- The writes that energy admission judges outside a transaction (R444). -/
def Wr.needsEnergy (w : Wr) : Bool :=
  decide (w.base = RAS_CTL 0) || decide (w.base = CMP_CFG) || decide (w.base = CMP_TPL 0) || decide (w.base = ADC_C_CFG 0)

/-- A register write of the value `v` under the mask `m` (R7, R9, R335, R336), judged by energy admission where `judged`
says so. What a unit refuses changes nothing but what it counts there (R265). -/
def State.writeReg (s : State) (judged : Bool) (a : Nat) (m v : Word) : State × Status :=
  match regAt a with
  | none => (s, .addr)
  | some (d, i, j) =>
    if d.writable = 0 then (s, .access)
    else if d.writable &&& m = 0 then (s, .ok)
    else
      let old := s.view d i j a
      let rw := d.mask .rw &&& m
      let w : Wr := { addr := a, base := d.base, old := old, new := (old &&& ~~~ rw) ||| (v &&& rw), act := v &&& m &&& d.acting }
      let r := s.unitWrite i j w
      if r.2 ≠ .ok then r
      else if judged ∧ w.needsEnergy ∧ ¬s.admits r.1 then (s.budgetRefused, .budget)
      else r

/-! ## The bus port (R95) -/

/-- A bus-port write to this register is permitted (R95). -/
def busMayWrite (a : Nat) : Bool :=
  match blockOf a with
  | some .glb => false
  | some .pwr => false
  | some .fab => false
  | some .twn => false
  | some .can => false
  | some .blu => (match regAt a with
      | some (d, _, _) => decide (d.base = BLU_T_SIG 0 0)
      | none => true)
  | _ => true

/-- A register address as commands and the bus port may name it: aligned, within 24 bits, assigned (R4, R5). -/
def addrOk (a : Nat) : Bool := decide (a % 4 = 0) && decide (a < 2 ^ 24) && (regAt a).isSome

/-- A bus-port write (R95, R126). -/
def State.busWrite (s : State) (a : Nat) (v : Word) : State × Status :=
  if ¬addrOk a then (s, .addr)
  else if ¬busMayWrite a then (s, .access)
  else s.writeReg true a 0xFFFFFFFF v

/-- A bus-port read, with its side effects (R95, R126). -/
def State.busRead (s : State) (a : Nat) : State × Status × Word :=
  if addrOk a then
    let r := s.readRegs a 1
    (r.1, .ok, r.2.headD 0)
  else (s, .addr, 0)

end Sys2Proof.Machine
end

