-- ==== Sys2Proof/Machine/Burst.lean ====
section
/-! DEFINITION. DMA bursts (R310 to R314). -/

namespace Sys2Proof.Machine

/-- A run of pool bytes that a move touches lies in blocks of the channel's claim. -/
def State.dmaPoolOk (s : State) (n base mode i k : Nat) : Bool :=
  (List.range k).all fun j => s.dmaHolds n (dmaByteAt base mode (i + j))

/-- Whether a read of pool bytes meets a poisoned word (R300). -/
def State.dmaPoisoned (s : State) (base mode i k : Nat) : Bool :=
  (List.range k).any fun j => s.poisoned (dmaByteAt base mode (i + j))

/-- The cause of a register access that completes with a status other than OK (R311). -/
def dmaCauseOf (st : Status) : Nat := if st = .addr then dmaAddr else dmaAccess

/-- Registers read for a burst, word by word: the state and the bytes, or the cause of an error. -/
def State.dmaRegRead (s : State) (base mode : Nat) : Nat → Nat → State × Except Nat (List Byte)
  | _, 0 => (s, .ok [])
  | i, k + 1 =>
    let r := s.busRead (dmaRegAt (dmaByteAt base mode i))
    if r.2.1 = .ok then
      let q := State.dmaRegRead r.1 base mode (i + 4) k
      (q.1, q.2.map fun bs => leBytes 4 r.2.2.toNat ++ bs)
    else (r.1, .error (dmaCauseOf r.2.1))

/-- The source of a burst of `k` bytes from byte `i` (R311): the state, and the bytes or the cause of an error. -/
def State.dmaFetch (s : State) (n : Nat) (d : DmaDesc) (i k : Nat) : State × Except Nat (List Byte) :=
  if dmaIsReg d.src then s.dmaRegRead d.src d.srcMode i (k / 4)
  else if ¬s.dmaPoolOk n d.src d.srcMode i k then (s, .error dmaAccess)
  else if s.dmaPoisoned d.src d.srcMode i k then (s, .error dmaEcc)
  else (s, .ok ((List.range k).map fun j => memRead s.pool (dmaByteAt d.src d.srcMode (i + j))))

/-- Registers written by a burst, word by word: the state, and the cause of an error. -/
def State.dmaRegWrite (s : State) (base mode : Nat) : Nat → List Word → State × Option Nat
  | _, [] => (s, none)
  | i, w :: ws =>
    let r := s.busWrite (dmaRegAt (dmaByteAt base mode i)) w
    if r.2 = .ok then State.dmaRegWrite r.1 base mode (i + 4) ws
    else (r.1, some (dmaCauseOf r.2))

/-- Pool bytes written one by one at the addresses of a move. -/
def State.dmaPoolWrite (s : State) (base mode : Nat) : Nat → List Byte → State
  | _, [] => s
  | i, b :: bs => State.dmaPoolWrite { s with pool := memWrite s.pool (dmaByteAt base mode i) b } base mode (i + 1) bs

/-- The destination of a burst (R311): the state, and the cause of an error. A burst that fills a window of 16 bytes replaces
its words whole (R300). -/
def State.dmaStore (s : State) (n : Nat) (d : DmaDesc) (i : Nat) (bs : List Byte) : State × Option Nat :=
  if dmaIsReg d.dst then s.dmaRegWrite d.dst d.dstMode i (wordsOf bs (bs.length / 4))
  else if ¬s.dmaPoolOk n d.dst d.dstMode i bs.length then (s, some dmaAccess)
  else if d.dstMode = modeInc then (s.poolWrite (d.dst + i) bs, none)
  else
    let t := s.dmaPoolWrite d.dst d.dstMode i bs
    (if d.dstMode = modeWin ∧ 16 ≤ bs.length then t.unpoison d.dst 16 else t, none)

/-- The running CRC over bytes read (R313). -/
def dmaCrc (sel : Nat) (c : Word) (bs : List Byte) : Word :=
  if sel = 1 then BitVec.ofNat 32 (bs.foldl (fun c b => crcLsbBits 0x82F63B78 8 (Nat.xor c b.toNat)) c.toNat)
  else if sel = 2 then BitVec.ofNat 32 (crcMsb 16 0x1021 c.toNat bs)
  else 0

/-- The list has ended (R313, R314): the final CRC is stored, and the run is DONE. -/
def State.dmaFinish (s : State) (n : Nat) (d : DmaDesc) : State :=
  let sel := s.fld (DMA_CTL n) DMA_CTL_CRC_SEL
  let final := if sel = 1 then ~~~ s.rg (DMA_CRC n) else s.rg (DMA_CRC n)
  let s1 := s.setRg (DMA_CRC n) final
  let size := if sel = 1 then 4 else 2
  if sel ≠ 0 ∧ ¬dmaIsReg d.dst ∧ d.dstMode = modeInc then
    if s1.dmaPoolOk n d.dst modeInc d.len size then
      (s1.poolWrite (d.dst + d.len) (leBytes size final.toNat)).dmaEnd n dmaDone 0
    else s1.dmaEnd n dmaError dmaAccess
  else s1.dmaEnd n dmaDone 0

/-- One burst of a descriptor in use (R312). -/
def State.dmaMove (s : State) (n : Nat) (d : DmaDesc) : State :=
  let i := (s.dma n).moved
  let k := Nat.min d.burst (d.len - i)
  let r := s.dmaFetch n d i k
  match r.2 with
  | .error c => r.1.dmaEnd n dmaError c
  | .ok bs =>
    let q := r.1.dmaStore n d i bs
    match q.2 with
    | some c => q.1.dmaEnd n dmaError c
    | none =>
      let s1 := (q.1.setRg (DMA_COUNT n) (q.1.rg (DMA_COUNT n) + BitVec.ofNat 32 k)).setRg (DMA_CRC n)
        (dmaCrc (s.fld (DMA_CTL n) DMA_CTL_CRC_SEL) (s.rg (DMA_CRC n)) bs)
      if i + k < d.len then s1.setDma n { s1.dma n with moved := i + k }
      else
        let s2 := if d.ntf then s1.raise (dmaSource n) 8 else s1
        if d.next = dmaListEnd then s2.dmaFinish n d
        else if poolSize ≤ d.next then s2.dmaEnd n dmaError dmaAccess
        else (s2.setDma n { s2.dma n with desc := none, moved := 0 }).setFld (DMA_CUR n) DMA_CUR_CUR d.next

/-- The descriptor at DMAn_CUR: the state that holds it, or ended by an error (R310, R311). -/
def State.dmaLoad (s : State) (n : Nat) : State :=
  let a := s.fld (DMA_CUR n) DMA_CUR_CUR
  if a % 32 ≠ 0 then s.dmaEnd n dmaError dmaDescBad
  else if ¬s.dmaPoolOk n a modeInc 0 32 then s.dmaEnd n dmaError dmaAccess
  else if s.rangePoisoned a 32 then s.dmaEnd n dmaError dmaEcc
  else
    match DmaDesc.ofBytes (s.poolRead a 32) with
    | none => s.dmaEnd n dmaError dmaDescBad
    | some d => s.setDma n { s.dma n with desc := some d, moved := 0 }

/-- The descriptor in use, fetched where there is none. -/
def State.dmaReadyState (s : State) (n : Nat) : State :=
  match (s.dma n).desc with
  | some _ => s
  | none => s.dmaLoad n

/-- A channel competes for a grant (R312): it is RUNNING, and with REQ = 1 its request line is active. -/
def State.dmaReady (s : State) (n : Nat) : Bool :=
  s.dmaRuns n && (match (s.dma n).desc with
    | some d => !d.req || s.dmaRequest n
    | none => true)

/-- DMA_BURST (R302, R312): channel `n` is granted the pool. A grant fetches the next descriptor where none is in use; its
first burst follows at once unless it waits for a request. -/
def State.dmaBurst (s : State) (n : Nat) : State :=
  if s.dmaReady n then
    let turn := (List.range 32).foldl (fun k m => Nat.max k (s.dma m).turn) 0 + 1
    let s1 := s.dmaReadyState n
    let s2 := s1.setDma n { s1.dma n with turn := turn }
    match (s2.dma n).desc with
    | some d => if d.req ∧ ¬s2.dmaRequest n then s2 else s2.dmaMove n d
    | none => s2
  else s

/-- The channel that the grant of R302 takes next: the lowest PRIO, and round robin within it. -/
def State.dmaGrant (s : State) : Option Nat :=
  (List.range 32).foldl (fun (c : Option Nat) n =>
    if s.dmaReady n then
      match c with
      | none => some n
      | some m =>
        let p := s.fld (DMA_CTL n) DMA_CTL_PRIO
        let q := s.fld (DMA_CTL m) DMA_CTL_PRIO
        if p < q ∨ (p = q ∧ (s.dma n).turn < (s.dma m).turn) then some n else c
    else c) none

end Sys2Proof.Machine
end

