-- ==== Sys2Proof/Machine/Resets.lean ====
section
/-! DEFINITION. Start-up, resets and the orderly shutdown (R480 to R482, R492 to R501). -/

namespace Sys2Proof.Machine

/-! ## What survives a reset (R462, R497) -/

/-- Registers that keep their values through every reset: TAL_CFG, the wear limits, the calendar of record and the
journal (R462). -/
def keptAlways (a : Nat) : Bool :=
  decide (a = TAL_CFG) || (decide (0x190200 ≤ a) && decide (a < 0x190700)) || (decide (0x190800 ≤ a) && decide (a < 0x1A0000)) ||
    decide (a = FAB_UID_LO) || decide (a = FAB_UID_HI)

/-- Registers that a warm reset keeps besides (R497): FAB_Pp_CFG and the trained links. -/
def keptWarm (a : Nat) : Bool :=
  (List.range 3).any fun p => decide (a = FAB_P_CFG p) || decide (a = FAB_P_STAT p)

/-- The causes of a reset (R507). -/
def causePowerUp : Nat := 0
def causeCold : Nat := 1
def causeWarm : Nat := 2
def causeLink : Nat := 3
def causeWatchdog : Nat := 4

/-- The address lock reloaded (R30, R497). -/
def State.reloadLock (s : State) (r : Option Nat) : State :=
  match r with
  | some a => ({ (s.setFld GLB_ADDR GLB_ADDR_ADDR a) with lockRec := r } : State).setFlag GLB_ADDR GLB_ADDR_LOCKED true
  | none => s

/-- GLB_STATUS.READY. -/
def State.ready (s : State) : Bool := s.flag GLB_STATUS GLB_STATUS_READY

/-- GLB_BOOT through a reset: a start that reached READY ends the run of failed starts (R493, R507). -/
def State.bootKept (s : State) : Word :=
  if s.ready ∧ ¬s.flag GLB_BOOT GLB_BOOT_FALLBACK then (s.rg GLB_BOOT).setF GLB_BOOT_ATTEMPTS 0 else s.rg GLB_BOOT

/-- Fields that show hardware state after any reset: HOLD_OK, the image, the boot counters, the grant, the supplies and
enables of the field banks. -/
def State.hardware (t s : State) : State :=
  let u := (((t.setFlag GLB_STATUS GLB_STATUS_HOLD_OK (s.flag GLB_STATUS GLB_STATUS_HOLD_OK)).setFld GLB_STATUS
    GLB_STATUS_IMAGE (s.fld GLB_STATUS GLB_STATUS_IMAGE)).setRg GLB_BOOT s.bootKept).setRg PWR_GRANT_PD (s.rg PWR_GRANT_PD)
  (List.range 8).foldl (fun v b =>
    ((v.setFlag (FIO_BANK_STAT b) FIO_BANK_STAT_BS_OK (s.flag (FIO_BANK_STAT b) FIO_BANK_STAT_BS_OK)).setFlag (FIO_BANK_STAT b)
      FIO_BANK_STAT_BANK_EN (s.flag (FIO_BANK_STAT b) FIO_BANK_STAT_BANK_EN))) u

/-- What ends at a reset (R178, R461, R502, R505): faults, the serial blocks held, the cached tallies and the staged log
are written. -/
def State.lastRites (s : State) : State :=
  let s1 := s.faults.foldl (fun t f => t.faultEnd f.code f.inst) s
  let s2 := State.forEach 8 (fun t g => t.genDrop 2 g) s1
  s2.tallyFlush.logWrite

/-- The state that every reset starts from. -/
def State.afresh (s : State) : State :=
  let t := s.lastRites
  let u : State := { State.reset with
    pending := t.pending
    free := t.free
    completion := t.completion
    wire := t.wire
    tallies := t.tallies
    tallyMram := t.tallyMram
    cal := t.cal
    calErr := t.calErr
    calSet := t.calSet
    leapNow := t.leapNow
    refLoaded := t.refLoaded
    gaps := t.gaps
    gapSeq := t.gapSeq
    slots := t.slots
    gens := t.gens
    lockRec := t.lockRec
    flash := t.flash
    flogSeq := t.flogSeq
    nextTxn := t.nextTxn
    cooled := t.cooled
    boot := { t.boot with progress := 0, starts := if t.ready then 0 else t.boot.starts, addressed := false, downAt := 0, back := none }
    regs := t.regs.filter fun e => keptAlways e.1 }
  u.hardware t

/-- COLD_RESET (R497). -/
def State.coldReset (s : State) (cause : Nat) : State :=
  ((s.afresh.setFld GLB_BOOT GLB_BOOT_CAUSE cause).reloadLock s.lockRec).takeGrant

/-- The ports of trained links through a warm reset: their counts stay, their queues go. -/
def State.linksTrained (s : State) : FMap LinkPort :=
  (List.range 3).foldl (fun m p =>
    FMap.set (fun _ => LinkPort.init) m p { s.link p with queue := [], dirty := false, reqAt := none, holdUntil := 0 }) []

/-- A warm or link-commanded reset (R456, R497). -/
def State.warmReset (s : State) (cause : Nat) : State :=
  let t := s.afresh
  let can := s.flag CAN_STAT CAN_STAT_PROG_OK
  let u : State := { t with
    time := s.time
    pool := s.pool
    poison := s.poison
    logAt := s.time
    lastFlush := s.time
    heldCal := s.heldCal
    canary := { Canary.init with prog := s.canary.prog }
    fab := { Fab.init with ports := s.linksTrained }
    regs := (s.regs.filter fun e => keptWarm e.1).foldl (fun m e => FMap.set resetAt m e.1 e.2) t.regs }
  ((((u.setFlag CAN_STAT CAN_STAT_PROG_OK can).setFld GLB_ADDR GLB_ADDR_ADDR s.addrReg).setFlag GLB_ADDR GLB_ADDR_LOCKED
    s.addrLocked).setFld GLB_BOOT GLB_BOOT_CAUSE cause).takeGrant

/-! ## Power-up and READY (R480, R492 to R496) -/

/-- The engine holds no image that the boot ROM can start (R493). -/
def State.noImage (s : State) : Bool :=
  !(s.boot.validA && !s.boot.failedA) && !(s.boot.validB && !s.boot.failedB)

/-- The boot ROM chooses an image (R493): of the usable ones that with the higher sequence, A on a tie. -/
def Boot.picksB (b : Boot) : Bool :=
  let a := b.validA && !b.failedA
  let c := b.validB && !b.failedB
  c && (!a || decide (b.seqA < b.seqB))

/-- The image started. -/
def State.startImage (s : State) : State := s.setFlag GLB_STATUS GLB_STATUS_IMAGE s.boot.picksB

/-- A start from PD detection with a grant in mW (R424, R459, R480, R492). -/
def State.coldStart (s : State) (mw : Nat) : State :=
  let t := s.coldReset causePowerUp
  ((((t.setFlag GLB_STATUS GLB_STATUS_HOLD_OK false).setFld PWR_GRANT_PD PWR_GRANT_PD_PD (satTo 65535 mw)).takeGrant).startImage).bumpTally
    tallyPowerCycles 1

/-- POWER_UP (R492, R500): link power is applied with a grant in mW; during a shutdown the cold start follows it. -/
def State.powerUp (s : State) (mw : Nat) : State :=
  if s.power = .off then s.coldStart mw
  else if s.shutdown then { s with boot := { s.boot with back := some mw } }
  else s

/-- Start-up has passed step 7: a locked address, or one given since the start (R494). -/
def State.addressReady (s : State) : Bool :=
  decide (s.addrReg ≠ 0) && (s.addrLocked || s.boot.addressed)

/-- The running image makes progress of its own (R493): it has an address, and power. -/
def State.bootProgress (s : State) : Bool :=
  !s.ready && !s.noImage && !s.lowPower && s.addressReady && decide (s.power = .run) && !s.shutdown

/-- The image's 30 s have run out. -/
def State.bootLate (s : State) : Bool := s.bootProgress && decide (30 * ticksS ≤ s.boot.progress)

/-- BOOT_TIMEOUT (R493): the image is started again; after three starts it is marked failed and the other one boots.
ATTEMPTS counts those of the preferred image (R507). -/
def State.bootTimeout (s : State) : State :=
  if s.bootLate then
    let b := s.flag GLB_STATUS GLB_STATUS_IMAGE
    let n := s.boot.starts + 1
    let t := if s.flag GLB_BOOT GLB_BOOT_FALLBACK then s else s.setFld GLB_BOOT GLB_BOOT_ATTEMPTS (Nat.min n 3)
    if n < 3 then { t with boot := { t.boot with progress := 0, starts := n } }
    else
      let u : State := { t with boot := { t.boot with
        progress := 0, starts := 0, failedA := t.boot.failedA || !b, failedB := t.boot.failedB || b } }
      if u.noImage then u
      else ((u.startImage).setFlag GLB_BOOT GLB_BOOT_FALLBACK true).faultEvent fltImageFallback 0 1
        (faultValue fltImageFallback 0)
  else s

/-! ## The input and the holdover store (R25, R481, R482) -/

/-- HOLD_OK_RISE. -/
def State.holdRise (s : State) : State := (s.setFlag GLB_STATUS GLB_STATUS_HOLD_OK true).faultEnd fltHoldLow 0

/-- HOLD_OK_FALL (R25): a fault once OUT_PERMIT is set. -/
def State.holdFall (s : State) : State :=
  let t := s.setFlag GLB_STATUS GLB_STATUS_HOLD_OK false
  if s.flag GLB_STATUS GLB_STATUS_HOLD_OK ∧ s.flag GLB_STATUS GLB_STATUS_OUT_PERMIT then
    t.faultRaise fltHoldLow 0 1 (faultValue fltHoldLow 0)
  else t

/-- INPUT_HIGH and INPUT_HIGH_CLEAR (R481). -/
def State.inputHigh (s : State) : State :=
  if s.faultActive fltInputHigh 0 then s else s.faultRaise fltInputHigh 0 1 (faultValue fltInputHigh 0)
def State.inputHighClear (s : State) : State := s.faultEnd fltInputHigh 0

/-! ## The orderly shutdown (R500) -/

/-- Reservations being written are completed in both copies (R471, R500). -/
def State.reserveAll (s : State) : State :=
  State.forEach 8 (fun t g =>
    let x := t.gen g
    match x.reserving with
    | some r => t.setGen g { x with hwm := Nat.max x.hwm r.2 }
    | none => t) s

/-- The orderly shutdown begins (R500). Its steps up to the removal of core power are taken at once. -/
def State.beginShutdown (s : State) : State :=
  if s.shutdown ∨ s.power = .off then s
  else
    let s1 := ({ s with shutdown := true, boot := { s.boot with downAt := s.time, back := none } } : State).liveSettle
    let s2 := s1.yieldTwin.faultEvent fltPowerLoss 0 0 (faultValue fltPowerLoss 0)
    ((((s2.stopThreads).cmpOff).dmaAbortAll).setLevel 3).tallyFlush.reserveAll.logWrite

/-- Core power is due to be removed: 40 ms after the shutdown began. -/
def State.coreOffDue (s : State) : Bool :=
  s.shutdown && decide (s.power ≠ .off) && decide (s.boot.downAt + 40 * ticksMs ≤ s.time)

/-- CORE_POWER_REMOVED (R500): Off; an input that has returned starts the engine cold. -/
def State.coreOff (s : State) : State :=
  if s.shutdown then
    let t : State := { s with power := .off }
    match s.boot.back with
    | some mw => t.coldStart mw
    | none => t
  else s

/-! ## Reset requests (R498, R499, R501) -/

/-- A reset request is ignored: during a shutdown, and where no core power is left. -/
def State.resetIgnored (s : State) : Bool := s.shutdown || decide (s.power = .off) || decide (s.power = .watch)

/-- WATCHDOG (R501). -/
def State.watchdog (s : State) : State :=
  if s.resetIgnored then s
  else (s.faultF3 fltSupWdog 0 (faultValue fltSupWdog 0)).warmReset causeWatchdog

/-- The key of LINK_CTL RESET (R498). -/
def resetKey : Nat := 0xA5C3

/-- LINK_CTL_RESET on port `p` (R498): a reset of this engine, or a relay out of the other port, at most once per UID in
any 1 ms. -/
def State.linkReset (s : State) (p key uid : Nat) : State :=
  if s.resetIgnored ∨ key ≠ resetKey ∨ 2 ≤ p then s
  else if uid = s.uid then s.warmReset causeLink
  else if s.fab.relays.any fun r => decide (r.1 = uid) && decide (s.time < r.2 + ticksMs) then s
  else
    let old := s.fab.relays.filter fun r => !decide (r.1 = uid) && decide (s.time < r.2 + ticksMs)
    ({ s with fab := { s.fab with relays := old ++ [(uid, s.time)] } } : State).sendLocal (1 - p) 8 0
      ([0x10, 0] ++ leBytes 2 resetKey ++ leBytes 8 uid)

end Sys2Proof.Machine
end

