-- ==== Sys2Proof/Machine/Watch.lean ====
section
/-! DEFINITION. Doze and Watch (R430 to R438, R446, R449): what refuses them, entry, what Watch keeps, exit. -/

namespace Sys2Proof.Machine

/-! ## Refusals (R108, R315, R341, R355, R432) -/

/-- A commit is pending or a transaction is prepared. -/
def State.txnBinds (s : State) : Bool := s.txns.any fun t => t.isPending || t.isPrepared

/-- POWER_STATE to Doze is refused (R108, R315, R355). -/
def State.dozeRefused (s : State) : Bool :=
  s.txnBinds || (List.range 32).any (fun n => s.dmaRuns n) ||
    (List.range 256).any fun g =>
      let x := s.th g
      (x.live && decide (s.thClass g = 0)) || decide (x.st = .ready) || decide (x.st = .running) || decide (x.st = .held)

/-- POWER_STATE to Watch is refused (R432). -/
def State.watchRefused (s : State) : Bool :=
  s.txnBinds || s.twinEn || !(s.eventsWhere fun e => e.st.inUse).isEmpty ||
    (List.range 16).any (fun n => s.shaftEn n && (!(s.shaft n).still || decide (s.shaftSrc n = 3))) ||
    (List.range 8).any (fun n => (s.ras n).code.isSome || (s.ras n).draining) ||
    s.products.any fun e => decide (e.2.st = .inHandoff)

/-! ## Retention (R434, R435) -/

/-- The retention list in use: the addresses of its entries. -/
def State.retention (s : State) : List Nat :=
  (List.range (s.fld PWR_RL_LEN PWR_RL_LEN_LEN)).map fun i => 4 * s.fld (PWR_RL i) PWR_RL_ADDR

/-- The value saved for an entry: a DMAn_CTL is kept with EN = 0. -/
def State.retained (s : State) (a : Nat) : Word :=
  match regAt a with
  | some (d, _, _) => if d.base = DMA_CTL 0 then s.readReg a &&& ~~~ DMA_CTL_EN.mask else s.readReg a
  | none => s.readReg a

/-- Registers that Watch keeps without any list: GLB, PWR, NTF, CAN, FAB_Pp_CFG, the identity, TWN_CFG, claim reserves and
quotas, the generators, the configuration of the encoder supplies (R233), and what every reset keeps. -/
def keptWatch (a : Nat) : Bool :=
  keptAlways a || decide (a < 0x30000) || (List.range 3).any (fun p => decide (a = FAB_P_CFG p)) ||
    (decide (0x1A0000 ≤ a) && decide (a < 0x1B0000)) || decide (a = TWN_CFG) ||
    (match regAt a with
     | some (d, _, _) => decide (d.base = FBP_SUP 0) || decide (d.base = POL_CL_RES 0) || decide (d.base = POL_CL_QUOTA 0) ||
          decide (d.base = CMP_SG_CFG 0) ||
         decide (d.base = CMP_SG_START_LO 0) || decide (d.base = CMP_SG_START_HI 0) || decide (d.base = CMP_SG_END_LO 0) ||
         decide (d.base = CMP_SG_END_HI 0)
     | none => false)

/-! ## Entry (R433, R438, R446) -/

/-- A POWER_STATE to Watch is accepted (R438): AON latches from now on. -/
def State.acceptWatch (s : State) : State :=
  let t : State := { s with watchNext := some s.time, wakeAt := none, aon := 0, canary := { s.canary with raises := [] } }
  (t.setRg PWR_WAKE 0).setRg CAN_WAKE 0

/-- The records of a lane that are ON_LANE, in lane order. -/
def State.savedLane (s : State) (n : Nat) : List (Nat × Product) :=
  ((s.lane n).prods.filter fun i => decide ((s.prod i).st = .onLane)).map fun i => (i, s.prod i)

/-- The source raises latched since acceptance (R438). -/
def State.latched (s : State) (since : Nat) : List (Nat × Word × Nat) :=
  (s.ntf.filter fun e => e.2.pend && decide (since ≤ e.2.cur.tick)).map fun e => (e.1, e.2.cur.value, e.2.cur.count)

/-- The links go to sleep: what they hold is dropped, nothing is told (R433). -/
def State.linksSleep (s : State) : State :=
  [0, 1, 2].foldl (fun t p => (t.setLink p LinkPort.init).setFlag (FAB_P_STAT p) FAB_P_STAT_UP false) s

/-- Supplies that do not stay on in Watch are switched off (R233). -/
def State.suppliesSleep (s : State) : State :=
  State.forEach 16 (fun t p => if t.supOn p ∧ ¬t.flag (FBP_SUP p) FBP_SUP_WATCH then t.supplyOff p else t) s

/-- WATCH_ENTRY (R433): it follows an accepted POWER_STATE to Watch. -/
def State.watchEntry (s : State) : State :=
  match s.watchNext with
  | none => s
  | some since =>
    let s1 := (s.stopThreads).dmaAbortAll
    let s2 := State.forEach 4 (fun t c => (t.adcStopSeq c false).adcStopSeq c true) s1
    let s3 := s2.jobs.foldl (fun t j => t.jobFail j 0 .disabled) s2
    let s4 := State.forEach 8 (fun t g => t.genDrop 4 g) s3.tallyFlush
    let saved : Saved :=
      { retained := s4.retention.map fun a => (a, s4.retained a)
        records := (List.range 16).map fun n => (n, s4.savedLane n)
        since := s4.time }
    let raises := s4.latched since
    let s5 := (({ s4 with saved := saved, canary := { s4.canary with
        v := [], run := .idle, lastRun := 0, levels := s4.canHandLevels } } : State).canTake).setRg
      CAN_RUNS 0
    let s6 := (s5.suppliesSleep.linksSleep).clearSources
    let s7 : State := { s6 with
      power := .watch
      watchNext := none
      aon := 0
      liveWas := false
      wakeAt := s6.wakeAt.map fun _ => 0
      canary := { s6.canary with raises := raises ++ s6.canary.raises } }
    s7.setFlag PWR_WAKE PWR_WAKE_DURING_ENTRY (s7.wakeAt.isSome || !raises.isEmpty)

/-! ## Exit (R109, R316, R436, R449) -/

/-- Exit is due: a wake event is latched, or something was latched during entry (R438). -/
def State.wakeDue (s : State) : Bool :=
  decide (s.power = .watch) && (s.wakeAt.isSome || s.flag PWR_WAKE PWR_WAKE_DURING_ENTRY)

/-- Engine time after Watch (R436): 12 207.031 25 ticks an AON cycle, truncated. -/
def State.wakeTime (s : State) : Nat := s.saved.since + s.aon * 1220703125 / 100000

/-- The state that the islands start from. -/
def State.wokenState (s : State) : State :=
  { State.reset with
    pending := s.pending
    time := s.wakeTime
    free := s.free
    completion := s.completion
    wire := s.wire
    faults := s.faults
    staging := s.staging
    flash := s.flash
    flogSeq := s.flogSeq
    logAt := s.wakeTime
    tallies := s.tallies
    tallyMram := s.tallyMram
    lastFlush := s.wakeTime
    cal := s.cal
    calErr := s.calErr
    calSet := s.calSet
    leapNow := s.leapNow
    refLoaded := s.refLoaded
    gaps := s.gaps
    gapSeq := s.gapSeq
    slots := s.slots
    gens := s.gens
    heldCal := s.heldCal
    noDateOn := s.noDateOn
    lockRec := s.lockRec
    nextTxn := s.nextTxn
    nextFlight := s.nextFlight
    periodNo := s.periodNo
    boosts := s.boosts
    cooled := s.cooled
    sessions := s.sessions.map fun e => (e.1, { e.2 with credits := sessionCredits, replies := [], broken := false })
    canary := { s.canary with raises := [], run := .idle }
    boot := s.boot
    prodFresh := s.prodFresh
    prodFree := s.prodFree
    pidSeq := s.pidSeq
    safeAt := s.safeAt
    regs := s.regs.filter fun e => keptWatch e.1 }

/-- The retention list written back (R435): a refused write counts in FAIL, FIRST is the index of the first. -/
def State.restore : List (Nat × Word) → Nat → State → State
  | [], _, s => s
  | (a, v) :: es, i, s =>
    let r := s.writeReg true a 0xFFFFFFFF v
    let t :=
      if r.2 = .ok then r.1
      else
        let u := if s.fld PWR_RL_STAT PWR_RL_STAT_FAIL = 0 then r.1.setFld PWR_RL_STAT PWR_RL_STAT_FIRST i else r.1
        u.count PWR_RL_STAT PWR_RL_STAT_FAIL 1
    State.restore es (i + 1) t

/-- A shaft whose EN was restored holds the angle it had on entry, from which its revolutions count (R436, R460). -/
def Shaft.heldFrom (x old : Shaft) : Shaft :=
  { x with disp := old.disp, tru := old.disp, fine := old.disp, base := old.disp, horizon := old.disp, cycleBase := old.cycleBase,
           turn := old.turn, hp := old.hp, maxTurn := some (old.disp / 2 ^ 48) }

/-- A shaft counted without a flaw takes the place the Canary counted to (R449); `ref` is the reference of its port's line
count before Watch. -/
def State.resume (s : State) (n : Nat) (d : CanDec) (ref : Int) : State :=
  let x := s.shaft n
  let p := s.shc n SHF_CFG_PORT
  let y : Shaft := { (x.toSynced x.cause false) with still := true, hist := [], rate := 0, mu := 0, delta := 0, dir := d.rev }
  if s.shaftSrc n = 1 then
    let q := s.countPlace n x.place d.net
    let a := x.disp + d.net * s.perPos n
    let o := s.port p
    let t := (s.setPort p { o with lvA := d.lvA, lvB := d.lvB, raw := d.raw, pos := d.pos, idxRef := ref + d.net }).setFlag
      (FBP_STAT p) FBP_STAT_DIR d.rev
    (t.setShaft n { y with hp := q.hp, turn := q.turn, cycleBase := q.cycleBase, disp := a, tru := a, fine := a, base := a,
                           horizon := a }).shaftSynced n
  else
    let q : Place := { hp := d.hp, turn := d.turn, cycleBase := d.cycleBase }
    let a := s.placeAngle n q
    (s.setShaft n { y with hp := d.hp, turn := d.turn, cycleBase := d.cycleBase, disp := a, tru := a, fine := a, base := a,
                           horizon := a }).shaftSynced n

/-- The shafts come back (R436, R449). -/
def State.shaftsBack (s old : State) : State :=
  State.forEach 16 (fun t n =>
    let d := old.canDec n
    if t.shaftEn n then
      let u := t.setShaft n ((t.shaft n).heldFrom (old.shaft n))
      if n < 4 ∧ d.counted ∧ d.clean then u.resume n d (old.port (old.shc n SHF_CFG_PORT)).idxRef |>.shaftRevs n else u
    else t.setShaft n { t.shaft n with disp := (old.shaft n).disp, tru := (old.shaft n).disp, fine := (old.shaft n).disp }) s

/-- Supplies that stayed on in Watch need no settling; those that Watch switched off come on through SETTLING; one that
overcurrent had switched off stays off (R227, R233). -/
def State.suppliesBack (s old : State) : State :=
  State.forEach 16 (fun t p =>
    if ¬old.flag (FBP_SUP p) FBP_SUP_EN then t
    else if old.flag (FBP_SUP_STAT p) FBP_SUP_STAT_OC then t.setFlag (FBP_SUP_STAT p) FBP_SUP_STAT_OC true
    else if old.flag (FBP_SUP p) FBP_SUP_WATCH then
      (t.setFlag (FBP_SUP_STAT p) FBP_SUP_STAT_ON true).setPort p { t.port p with settleEnd := none }
    else t.supplyOn p) s

/-- The saved records return to their lanes (R436): those of a lane that is not enabled retire without actions (R158). -/
def State.recordsBack (s : State) (saved : Saved) : State :=
  saved.records.foldl (fun t l =>
    if t.flag (EPH_L_CFG l.1) EPH_L_CFG_EN then
      (l.2.foldl (fun u r => u.setProd r.1 r.2) t).setLane l.1
        { t.lane l.1 with prods := (t.lane l.1).prods ++ l.2.map (·.1) }
    else
      let u := l.2.foldl (fun u r => u.setProd r.1 { r.2 with st := .retired }) t
      ({ u with prodFree := u.prodFree ++ l.2.map (·.1) } : State).count (EPH_L_CNT_ERR l.1) EPH_L_CNT_ERR_DISCARD l.2.length) s

/-- WATCH_EXIT up to the recall (R436): time, retention, shafts, records, outputs, the replay of latched raises. -/
def State.watchWake (s : State) : State :=
  let s1 := s.wokenState.setRg PWR_WATCH_DUR (BitVec.ofNat 32 (s.aon * 1000 / aonHz))
  let s3 := State.restore s.saved.retained 0 s1
  let s4 := (s3.suppliesBack s).shaftsBack s
  let s5 := (State.forEach 8 (fun t g => if t.genEn g then t.reserveNext g else t) (s4.recordsBack s.saved)).liveSettle
  s.canary.raises.foldl (fun t r => t.raiseWake r.1 r.2.1 r.2.2) s5

/-! ## The alarm (R437) -/

/-- ALARM seconds have passed in Watch. -/
def State.alarmDue (s : State) : Bool :=
  let a := s.fld PWR_WATCH_CFG PWR_WATCH_CFG_ALARM
  decide (s.power = .watch) && decide (a ≠ 0) && decide (a * aonHz ≤ s.aon) &&
    !bitOf (s.fld PWR_WAKE PWR_WAKE_MASK) (wakeAlarm - 1)

/-- ALARM (R437). -/
def State.alarm (s : State) : State := if s.alarmDue then s.wakeEvent wakeAlarm else s

/-- SELF_REFRESH_ENTRY (R302): what the DRAM's self-refresh adds to an access is time only, so the state stays. -/
def State.selfRefresh (s : State) : State := s

end Sys2Proof.Machine
end

