-- ==== Sys2Proof/Machine/Effects.lean ====
section
/-! DEFINITION. The opcodes whose effect a transaction can stage or a stored configuration can replay (R328, R343, R473):
the checks of their records, what they lock, what they do. -/

namespace Sys2Proof.Machine

/-- How an effect completed. -/
def ends (st : Status) (result : Nat) (body : List Byte) : Completion := { status := st, result := result, body := body }

/-! ## Register ranges (R334 to R337) -/

/-- Every word of a range is assigned. -/
def allAssigned : Nat → Nat → Bool
  | _, 0 => true
  | a, n + 1 => (regAt a).isSome && allAssigned (a + 4) n

/-- The checks of a range of registers that starts at ARG and takes `n` bytes (R334). -/
def rangeCheck (arg n : Nat) : Status :=
  if 2 ^ 24 ≤ arg then .range
  else if arg % 4 ≠ 0 then .addr
  else if n < 4 ∨ 1024 < n ∨ n % 4 ≠ 0 then .range
  else if (blockOf arg).isNone then .addr
  else if blockOf (arg + n - 1) ≠ blockOf arg then .range
  else if allAssigned arg (n / 4) then .ok
  else .addr

/-- The check of one register's address (R334, R336). -/
def addrCheck (arg : Nat) : Status :=
  if 2 ^ 24 ≤ arg then .range else if arg % 4 ≠ 0 ∨ (regAt arg).isNone then .addr else .ok

/-! ## Opcodes (R328) -/

/-- The opcodes of R328. -/
def opcodes : List Nat :=
  [0x01, 0x02, 0x03, 0x04, 0x05, 0x06, 0x10, 0x11, 0x12, 0x20, 0x21, 0x22, 0x23, 0x30, 0x31, 0x32, 0x38, 0x40, 0x41, 0x42,
   0x43, 0x48, 0x50, 0x51, 0x52, 0x58, 0x60, 0x61, 0x70, 0x71, 0x72]

/-- The opcodes that FLAGS.TXN may stage (R328): of BLULET_LOAD, a write only. -/
def CmdRec.stageable (c : CmdRec) : Bool :=
  [0x03, 0x04, 0x10, 0x11, 0x20, 0x21, 0x23, 0x30, 0x32, 0x38, 0x51, 0x52].contains c.opcode ||
    (decide (c.opcode = 0x50) && !loadRead c.arg)

/-- A multiple of `k` from `k` to `m`. -/
def lengthIn (k m n : Nat) : Bool := decide (k ≤ n) && decide (n ≤ m) && decide (n % k = 0)

/-- The body lengths that an opcode allows (R322 step 4, R328). -/
def CmdRec.lengthOk (c : CmdRec) : Bool :=
  let n := c.body.length
  if c.opcode = 0x02 ∨ c.opcode = 0x23 ∨ c.opcode = 0x31 then decide (n = 4)
  else if c.opcode = 0x03 then lengthIn 4 1024 n
  else if c.opcode = 0x04 ∨ c.opcode = 0x21 then decide (n = 8)
  else if c.opcode = 0x10 then decide (n = 32)
  else if c.opcode = 0x20 then decide (n = if bitOf c.arg 8 then 16 else 8)
  else if c.opcode = 0x30 then lengthIn 8 1024 n
  else if c.opcode = 0x32 then
    (let op := bitsOf c.arg 11 8
     if op = 1 then decide (n = 4) else decide (n = 8))
  else if c.opcode = 0x38 then decide (n = if bitOf c.arg 7 then 0 else 4)
  else if c.opcode = 0x41 then decide (n = 0) || decide (n = 12)
  else if c.opcode = 0x43 then decide (n = 20)
  else if c.opcode = 0x50 then (if loadRead c.arg then decide (n = 4) else lengthIn 8 1024 n)
  else if c.opcode = 0x51 then decide (n = 0) || decide (n = 4)
  else if c.opcode = 0x58 then (if bitOf c.arg 8 then decide (n = 4) else lengthIn 4 1024 n)
  else if c.opcode = 0x60 then (if bitsOf c.arg 10 8 = 1 then decide (n ≤ 1468) else decide (n = 0))
  else decide (n = 0)

/-- The opcodes that NOREPLY does not go with (R326). -/
def CmdRec.needsReply (c : CmdRec) : Bool :=
  [0x02, 0x04, 0x05, 0x12, 0x22, 0x31].contains c.opcode || (decide (c.opcode = 0x50) && loadRead c.arg)

/-- The address that a WRITE or a MODIFY names. -/
def CmdRec.writesBlock (c : CmdRec) (b : Block) : Bool :=
  (decide (c.opcode = 0x03) || decide (c.opcode = 0x04)) && decide (blockOf c.arg = some b)

/-! ## Checks of the record alone (R343) -/

/-- The checks of ARG and body that depend on the record alone, for the opcodes of this file. -/
def CmdRec.alone (c : CmdRec) : Status :=
  let a := c.arg
  let ok (b : Bool) : Status := if b then .ok else .range
  if c.opcode = 0x03 then rangeCheck a c.body.length
  else if c.opcode = 0x04 then addrCheck a
  else if c.opcode = 0x10 then
    ok ((decide (a < almSize) || decide (a = 0xFFFFFFFF)) && descReservedOk c.body && (EventDesc.ofBytes c.body).ok)
  else if c.opcode = 0x11 then ok (if bitOf a 31 then decide (bitsOf a 30 4 = 0) else decide (bitsOf a 30 14 = 0))
  else if c.opcode = 0x20 then ok (productEnterOk a c.body)
  else if c.opcode = 0x21 then
    (if a / 2 ^ 22 ≠ 0 then .range else updateCheck (bitsOf a 21 20) (bitsOf a 19 16) (leAt c.body 4 4))
  else if c.opcode = 0x23 then ok (decide (a < 65536))
  else if c.opcode = 0x30 then ok (poolRangeOk a c.body.length)
  else if c.opcode = 0x32 then
    ok (claimArgsOk a c.body &&
      !(decide (bitsOf a 11 8 = 0) &&
        (decide (leAt c.body 4 4 < leAt c.body 0 4) || decide (poolBlocks < leAt c.body 4 4))))
  else if c.opcode = 0x38 then ok (codeJobOk a c.body)
  else if c.opcode = 0x50 then ok (loadOk a (if loadRead a then leAt c.body 0 4 else c.body.length))
  else if c.opcode = 0x51 then ok (startOk a c.body)
  else if c.opcode = 0x52 then ok (decide (bitsOf a 31 9 = 0))
  else .ok

/-! ## Locks (R346, R347) -/

/-- The units that a record touches in the way R346 names. -/
def CmdRec.units (c : CmdRec) : List LockUnit :=
  let a := c.arg
  if c.opcode = 0x03 then
    (List.range ((a + c.body.length - 1) / 256 - a / 256 + 1)).map fun i => LockUnit.regs (a / 256 + i)
  else if c.opcode = 0x04 then [LockUnit.regs (a / 256)]
  else if c.opcode = 0x10 then (if a < almSize then [LockUnit.event a] else [])
  else if c.opcode = 0x11 then (if bitOf a 31 then [] else [LockUnit.event (a % almSize)])
  else if c.opcode = 0x20 then [LockUnit.lane (a % 16)]
  else if c.opcode = 0x21 ∨ c.opcode = 0x23 then [LockUnit.product (a % 65536)]
  else if c.opcode = 0x30 then
    (let b := blocksOf a c.body.length
     (List.range b.2).map fun i => LockUnit.block (b.1 + i))
  else if c.opcode = 0x32 then [LockUnit.claim (bitsOf a 5 0)]
  else if c.opcode = 0x50 then (if loadRead a then [] else [LockUnit.engine (a % 16)])
  else if c.opcode = 0x51 then [LockUnit.engine (bitsOf a 7 4)]
  else if c.opcode = 0x52 then [LockUnit.engine (bitsOf a 7 4)]
  else []

/-- A transaction holds one of these units. -/
def Txn.holds (t : Txn) (us : List LockUnit) : Bool := t.locks.any fun u => us.contains u

/-- A record touches a unit that a transaction holds (R347). -/
def State.lockedFor (s : State) (c : CmdRec) : Bool := s.txns.any fun t => t.holds c.units

/-! ## Effects -/

/-- Words written in ascending order (R335): the state, the status and the number of words applied. -/
def State.writeWords (s : State) (judged : Bool) : Nat → List Word → Nat → State × Status × Nat
  | _, [], k => (s, .ok, k)
  | a, w :: ws, k =>
    let r := s.writeReg judged a 0xFFFFFFFF w
    if r.2 = .ok then State.writeWords r.1 judged (a + 4) ws (k + 1) else (r.1, r.2, k)

/-- WRITE (R335). -/
def State.opWrite (s : State) (judged : Bool) (arg : Nat) (body : List Byte) : State × Completion :=
  match rangeCheck arg body.length with
  | .ok =>
    let r := s.writeWords judged arg (wordsOf body (body.length / 4)) 0
    (r.1, ends r.2.1 r.2.2 [])
  | e => (s, ends e 0 [])

/-- MODIFY (R336). -/
def State.opModify (s : State) (judged : Bool) (arg : Nat) (body : List Byte) : State × Completion :=
  match addrCheck arg with
  | .ok =>
    let old := (s.readReg arg).toNat
    let r := s.writeReg judged arg (BitVec.ofNat 32 (leAt body 0 4)) (BitVec.ofNat 32 (leAt body 4 4))
    (r.1, ends r.2 old [])
  | e => (s, ends e 0 [])

/-- BLULET_START (R111) with the admission of a class A thread (R444). -/
def State.opStart (s : State) (judged : Bool) (arg : Nat) (body : List Byte) : State × Completion :=
  let r := s.bluStart arg body
  if r.2 = .ok ∧ judged ∧ s.thClass (arg % 256) = 0 ∧ ¬s.fits r.1 then (s.budgetRefused, ends .budget 0 [])
  else (r.1, ends r.2 0 [])

/-- φ of every shaft as it stood at the end of the previous tick (R350). -/
def State.phiBefore (s : State) : State :=
  State.forEach 16 (fun t n =>
    let x := t.shaft n
    if x.pre.tick = t.time then t.setShaft n { x with disp := x.pre.disp, fine := x.pre.fine } else t) s

/-- EVENT_ARM (R87); from a transaction it is judged with φ as it stood at the end of the previous tick (R350). -/
def State.opArm (s : State) (staged : Bool) (arg : Nat) (body : List Byte) : State × Completion :=
  if staged then
    let r := s.phiBefore.eventArm arg body none
    ({ r.1 with shafts := s.shafts }, ends r.2.1 r.2.2 [])
  else
    let r := s.eventArm arg body none
    (r.1, ends r.2.1 r.2.2 [])

/-- The effect of a record of these opcodes. `judged`: judged by energy admission on its own (R444); `staged`: applied by
a transaction. -/
def State.effect (s : State) (judged staged : Bool) (c : CmdRec) : State × Completion :=
  let a := c.arg
  if c.opcode = 0x03 then s.opWrite judged a c.body
  else if c.opcode = 0x04 then s.opModify judged a c.body
  else if c.opcode = 0x10 then s.opArm staged a c.body
  else if c.opcode = 0x11 then
    (let r := s.eventCancel a
     (r.1, ends r.2.1 r.2.2 []))
  else if c.opcode = 0x20 then
    (let r := s.productEnter a c.body
     (r.1, ends r.2.1 r.2.2 []))
  else if c.opcode = 0x21 then
    (let r := s.productUpdate a c.body
     (r.1, ends r.2 0 []))
  else if c.opcode = 0x23 then
    (let r := s.productRetire a c.body
     (r.1, ends r.2.1 r.2.2 []))
  else if c.opcode = 0x30 then
    (let r := s.poolWriteCmd a c.body
     (r.1, ends r.2 0 []))
  else if c.opcode = 0x32 then
    (let r := s.claimSet a c.body
     (r.1, ends r.2.1 r.2.2 []))
  else if c.opcode = 0x38 then
    (let r := s.codeJob a c.body none
     (r.1, ends (r.2.1.getD .ok) r.2.2 []))
  else if c.opcode = 0x50 then
    (let r := s.bluLoad a c.body
     (r.1, ends r.2.1 0 r.2.2))
  else if c.opcode = 0x51 then s.opStart judged a c.body
  else if c.opcode = 0x52 then
    (let r := s.bluStop a
     (r.1, ends .ok (Nat.min r.2 65535) []))
  else if c.opcode = 0x58 then
    (let r := s.canLoad a c.body
     (r.1, ends r.2.1 0 r.2.2))
  else (s, ends .opcode 0 [])

/-! ## The mirror (R409) -/

/-- A record and its session's owner as a mirror item carries them. -/
def CmdRec.payload (c : CmdRec) (n owner : Nat) : List Nat :=
  [n, owner, c.opcode, b2n c.ordered + 2 * b2n c.txnFlag + 4 * b2n c.noreply + 8 * b2n c.urgent, c.tag, c.txn, c.arg,
   c.body.length] ++ c.body.map BitVec.toNat

/-- The owner of session `n`, 0 where it is free. -/
def State.ownerOf (s : State) (n : Nat) : Nat := (s.sess n).owner.getD 0

/-- A state-changing command that completes on the active member is sent to the standby with its outcome. -/
def State.mirrorCmd (s : State) (n : Nat) (c : CmdRec) (st : Status) : State :=
  s.mirror 1 (st.code :: c.payload n (s.ownerOf n))

/-- An applied transaction is sent as one item. -/
def State.mirrorTxn (s : State) (n : Nat) (cs : List CmdRec) : State :=
  s.mirror 1 (cs.flatMap fun c => c.payload n (s.ownerOf n))

end Sys2Proof.Machine
end

