-- ==== Sys2Proof/Machine/Txn.lean ====
section
/-! DEFINITION. Transactions (R342 to R359): staging, reading through staged values, commit points, the commit tick,
prepared transactions. -/

namespace Sys2Proof.Machine

/-- Transactions that the engine holds, staging space, ticks of idleness (R342, R344, R355). -/
def txnRoom : Nat := 4
def stagingBytes : Nat := 65536
def txnIdle : Nat := 10 * ticksS

/-- The transaction that an identifier names on session `n` (R342). -/
def State.txnOf (s : State) (n id : Nat) : Option Txn := s.txns.find? fun t => decide (t.session = n ∧ t.id = id)

/-- The state with a transaction replaced. -/
def State.setTxn (s : State) (t : Txn) : State := { s with txns := s.txns.map fun x => if x.id = t.id then t else x }

/-! ## Opening and staging (R342 to R345) -/

/-- The next identifier: 1 to 65 535 in turn. -/
def nextTxnId (last : Nat) : Nat := last % 65535 + 1

/-- TXN_BEGIN (R342). -/
def State.txnBegin (s : State) (n arg : Nat) : State × Status × Nat :=
  if arg ≠ 0 then (s, .range, 0)
  else if txnRoom ≤ s.txns.length then (s, .nospace, 0)
  else
    let id := nextTxnId s.nextTxn
    let t : Txn :=
      { id := id, session := n, phase := .opened, staged := [], lastTick := s.time,
        point := { kind := 0, param := 0, limit := 0, value := 0 }, deadline := 0, coord := 0, since := 0, locks := [],
        demand := 0, reached := none }
    ({ s with txns := s.txns ++ [t], nextTxn := id, txnEnded := s.txnEnded.filter fun e => !decide (e.2.1 = id) }, .ok, id)

/-- A command that names a transaction keeps it from idling (R355). -/
def State.txnTouch (s : State) (t : Txn) : State := s.setTxn { t with lastTick := s.time }

/-- A record is staged (R343, R344): its position, or why it is refused. -/
def State.txnStage (s : State) (t : Txn) (c : CmdRec) : State × Status × Nat :=
  let s1 := s.txnTouch t
  if t.phase ≠ .opened then (s1, .txn, 0)
  else if c.alone ≠ .ok then (s1, c.alone, 0)
  else if stagingBytes < s.staged + c.space then (s1, .nospace, 0)
  else (s1.setTxn { t with lastTick := s.time, staged := t.staged ++ [c] }, .ok, t.staged.length)

/-- A word of a register after a write of `v` under `m` has been overlaid (R345). -/
def RegDesc.overlay (d : RegDesc) (cur m v : Word) : Word :=
  let rw := d.mask .rw &&& m
  (((cur &&& ~~~ rw) ||| (v &&& rw)) &&& ~~~ (v &&& m &&& d.mask .w1c)) ||| (v &&& m &&& d.mask .w1s)

/-- What one staged record overlays on the word at an address. -/
def CmdRec.overlay (c : CmdRec) (d : RegDesc) (a : Nat) (cur : Word) : Word :=
  if c.opcode = 0x03 ∧ c.arg ≤ a ∧ a < c.arg + c.body.length then
    d.overlay cur 0xFFFFFFFF (BitVec.ofNat 32 (leAt c.body (a - c.arg) 4))
  else if c.opcode = 0x04 ∧ c.arg = a then
    d.overlay cur (BitVec.ofNat 32 (leAt c.body 0 4)) (BitVec.ofNat 32 (leAt c.body 4 4))
  else cur

/-- The word at an address with the staged records of a transaction overlaid (R345). -/
def State.readThrough (s : State) (t : Txn) (a : Nat) : Word :=
  match regAt a with
  | some (d, _, _) => t.staged.foldl (fun w c => c.overlay d a w) (s.readReg a)
  | none => 0

/-! ## Commit points (R348, R349) -/

/-- The commit point in a body (R348): VALUE is signed for ANGLE and PRODUCT. -/
def Point.ofBytes (bs : List Byte) : Point :=
  let kind := leAt bs 0 1
  { kind := kind, param := leAt bs 1 1, limit := leAt bs 2 2,
    value := if kind = 3 ∨ kind = 4 then signed 64 (leAt bs 4 8) else (leAt bs 4 8 : Int) }

/-- Ticks that LIMIT allows. -/
def Point.limitTicks (p : Point) : Nat := (if p.limit = 0 then 10000 else p.limit) * ticksMs

/-- KIND and PARAM lie in their ranges. -/
def Point.ok (p : Point) : Bool :=
  decide (p.kind ≤ 4) &&
    (if p.kind = 3 then decide (p.param < 16) else if p.kind = 4 then decide (p.param < 64) else decide (p.param = 0)) &&
    (decide (p.kind ≠ 0) || decide (p.value = 0))

/-- A point that has passed (R349 step 3). -/
def State.pointPast (s : State) (p : Point) : Bool :=
  if p.kind = 1 then decide (p.value ≤ (s.time : Int))
  else if p.kind = 2 then decide (p.value ≤ s.fabNs)
  else if p.kind = 3 then s.phiPast p.param p.value
  else false

/-- A point that nothing drives (R349 step 4). -/
def State.pointDead (s : State) (p : Point) : Bool :=
  (decide (p.kind = 3) && !s.shaftEn p.param) || (decide (p.kind = 4) && !s.stnEn p.param)

/-- The state that staged records would leave if each that passes were applied: what admission is judged on (R352). -/
def State.wouldBe (s : State) (cs : List CmdRec) : State :=
  cs.foldl (fun t c =>
    let r := t.effect false true c
    if r.2.status = .ok then r.1 else t) s

/-- Steps 2 to 5 of R349; `kinds` are the kinds allowed. -/
def State.judgePoint (s : State) (t : Txn) (p : Point) (kinds : List Nat) : Status :=
  if ¬p.ok ∨ ¬kinds.contains p.kind then .range
  else if s.pointPast p then .late
  else if s.pointDead p then .state
  else if ¬s.fits (s.wouldBe t.staged) then .budget
  else .ok

/-- The units that a transaction's records touch. -/
def Txn.units (t : Txn) : List LockUnit := t.staged.flatMap CmdRec.units

/-- The other transactions that hold a unit this one needs. -/
def State.holders (s : State) (t : Txn) : List Txn := s.txns.filter fun x => decide (x.id ≠ t.id) && x.holds t.units

/-- The transaction with its point accepted: locks and admission taken (R346, R353). -/
def State.txnTake (s : State) (t : Txn) (ph : TxnPhase) (p : Point) (deadline coord : Nat) : State :=
  s.setTxn { t with
    phase := ph, point := p, deadline := deadline, coord := coord, since := s.time, lastTick := s.time, locks := t.units,
    demand := (s.wouldBe t.staged).demand - s.demand, reached := if p.kind = 0 then some s.time else none }

/-! ## The commit tick (R350, R351) -/

/-- Records applied one after the other: the state, and the first that fails with its position. -/
def State.applyRecords (s : State) : List CmdRec → Nat → State × Option (Nat × Status × Nat)
  | [], _ => (s, none)
  | c :: cs, k =>
    let r := s.effect false true c
    if r.2.status = .ok then State.applyRecords r.1 cs (k + 1) else (s, some (k, r.2.status, c.opcode))

/-- The commit point has been reached (R348): for ANGLE and PRODUCT, in an earlier tick. -/
def State.pointReached (s : State) (t : Txn) : Bool :=
  if t.point.kind = 1 then decide (t.point.value ≤ (s.time : Int))
  else if t.point.kind = 2 then decide (t.point.value ≤ s.fabNs)
  else
    match t.reached with
    | some k => decide (k < s.time)
    | none => false

/-- A transaction that a point may apply: a pending commit, or a prepared one with its decision. -/
def Txn.committed (t : Txn) : Bool := decide (t.phase = .pending) || decide (t.phase = .prepared true)

/-- The commit tick of a transaction has come. -/
def State.commitDue (s : State) (id : Nat) : Bool :=
  match s.txn id with
  | some t => t.committed && s.pointReached t
  | none => false

/-- Completes the commands that wait on a transaction. -/
def State.finishTxn (s : State) (fs : List Nat) (st : Status) (result : Nat) (body : List Byte) : State :=
  fs.foldl (fun t f => t.finish f st result body) s

/-- COMMIT_TICK (R350, R351): every staged record is applied, or none. -/
def State.commitTick (s : State) (id : Nat) : State :=
  match s.txn id with
  | none => s
  | some t =>
    if s.commitDue id then
      match s.applyRecords t.staged 0 with
      | (u, none) =>
        (((u.dropTxn id).count GLB_TXN_CNT GLB_TXN_CNT_COMMITTED 1).mirrorTxn t.session t.staged).finishTxn (s.txnFlights id) .ok
          (s.time % 2 ^ 32) (leBytes 8 s.time)
      | (_, some (k, st, op)) =>
        ((s.dropTxn id).count GLB_TXN_CNT GLB_TXN_CNT_FAILED 1).finishTxn (s.txnFlights id) .txn k
          (leBytes 2 st.code ++ [BitVec.ofNat 8 op, 0])
    else s

/-- ANGLE points reached in the tick that ends (R348): φ at or above VALUE while ANG_VALID is 1 and DIR is forward. -/
def State.txnObserve (s : State) : State :=
  { s with txns := s.txns.map fun t =>
    if t.phase ≠ .opened ∧ t.point.kind = 3 ∧ t.reached.isNone ∧ s.angValid t.point.param ∧ ¬(s.shaft t.point.param).dir ∧
        s.phiPast t.point.param t.point.value then { t with reached := some s.time } else t }

/-- LIMIT of a pending commit, or of a decided transaction, has passed (R349, R358). -/
def State.limitDue (s : State) (id : Nat) : Bool :=
  match s.txn id with
  | some t => t.committed && !s.pointReached t && decide (t.since + t.point.limitTicks ≤ s.time)
  | none => false

/-- COMMIT_LIMIT_EXPIRY (R349, R358): the pending commit completes with E_TIMEOUT. -/
def State.limitExpiry (s : State) (id : Nat) : State :=
  if s.limitDue id then
    ((s.dropTxn id).count GLB_TXN_CNT GLB_TXN_CNT_TIMEOUT 1).finishTxn (s.txnFlights id) .timeout 0 []
  else s

/-! ## Rollback (R354, R355) -/

/-- TXN_ROLLBACK (R354). -/
def State.txnRollbackCmd (s : State) (n arg : Nat) : State × Status :=
  if bitsOf arg 31 16 ≠ 0 then (s, .range)
  else
    match s.txnOf n arg with
    | none => (s, .txn)
    | some t => if s.commitDue t.id then (s.commitTick t.id, .txn) else (s.txnRollback t.id .txn, .ok)

/-- No command of an open transaction has come for 10 s. -/
def State.idleDue (s : State) (id : Nat) : Bool :=
  match s.txn id with
  | some t => decide (t.phase = .opened) && decide (t.lastTick + txnIdle ≤ s.time)
  | none => false

/-- TXN_IDLE_TIMEOUT (R355). -/
def State.idleTimeout (s : State) (id : Nat) : State := if s.idleDue id then s.txnTimeout id .txn else s

/-! ## Several engines (R356 to R358) -/

/-- The key of a transaction (R357). -/
structure TxnKey where
  kind : Nat
  addr : Nat
  shaft : Nat
  value : Int
  coord : Nat
  deriving DecidableEq, Repr

/-- The key of a point and a coordinator: the line source of a VIRT_FABRIC shaft, otherwise the engine and the shaft. -/
def State.keyOf (s : State) (p : Point) (coord : Nat) : TxnKey :=
  if p.kind = 3 then
    if s.shaftSrc p.param = 3 then
      { kind := 3, addr := s.fld (SHF_VSRC p.param) SHF_VSRC_SRC_ADDR, shaft := s.fld (SHF_VSRC p.param) SHF_VSRC_SRC_SHAFT,
        value := p.value, coord := coord }
    else { kind := 3, addr := s.srcAddr, shaft := p.param, value := p.value, coord := coord }
  else { kind := p.kind, addr := 0, shaft := 0, value := p.value, coord := coord }

/-- The order of keys (R357). -/
def TxnKey.before (a b : TxnKey) : Bool :=
  decide (a.kind < b.kind) || (decide (a.kind = b.kind) &&
    (decide (a.addr < b.addr) || (decide (a.addr = b.addr) &&
      (decide (a.shaft < b.shaft) || (decide (a.shaft = b.shaft) &&
        (decide (a.value < b.value) || (decide (a.value = b.value) && decide (a.coord < b.coord))))))))

/-- The key of a prepared transaction. -/
def State.keyOfTxn (s : State) (t : Txn) : TxnKey := s.keyOf t.point t.coord

/-- A PREPARE that finds this holder of a lock waits for it (R357). -/
def State.waitsFor (s : State) (k : TxnKey) (x : Txn) : Bool := x.isPending || k.before (s.keyOfTxn x)

/-- The shaft would reach an ANGLE point before the deadline at its present SPEED (R356). -/
def State.reachesBefore (s : State) (p : Point) (deadline : Nat) : Bool :=
  decide (p.kind = 3) &&
    decide (angDiff p.value (s.phiInt p.param) * 1000000000 < s.speedOut p.param * 65536 * ((deadline : Int) - s.fabNs))

/-- How a PREPARE is judged: the vote, or none where it waits (R356, R357). -/
def State.judgePrepare (s : State) (t : Txn) (p : Point) (deadline coord : Nat) : Option Status :=
  match s.judgePoint t p [2, 3] with
  | .ok =>
    let k := s.keyOf p coord
    if (deadline : Int) ≤ s.fabNs ∨ s.reachesBefore p deadline then some .late
    else if s.txns.any (fun x => decide (x.id ≠ t.id) && x.isPrepared && decide (s.keyOfTxn x = k)) then some .txn
    else
      let hs := s.holders t
      if hs.isEmpty then some .ok
      else if hs.all fun x => s.waitsFor k x then none
      else some .locked
  | e => some e

/-- A refusal for want of energy is counted (R444). -/
def State.countBudget (s : State) (st : Status) : State := if st = .budget then s.budgetRefused else s

/-- A PREPARE judged now: the state, and the vote unless it waits. -/
def State.txnPrepare (s : State) (t : Txn) (body : List Byte) (coord : Nat) : State × Option Status :=
  let p := Point.ofBytes body
  let dl := leAt body 12 8
  if t.phase ≠ .opened then (s, some .txn)
  else
    match s.judgePrepare t p dl coord with
    | some .ok => (s.txnTake t (.prepared false) p dl coord, some .ok)
    | some e => (s.countBudget e, some e)
    | none => (s, none)

/-- A single-engine TXN_COMMIT judged (R349): the state, and the status unless the commit is pending now. -/
def State.txnCommit (s : State) (t : Txn) (body : List Byte) : State × Option Status :=
  let p := Point.ofBytes body
  match t.phase with
  | .pending => (s, some .txn)
  | .prepared d =>
    if body.length ≠ 0 then (s, some .range)
    else if d then (s, some .ok)
    else (s.setTxn { t with phase := .prepared true, since := s.time, lastTick := s.time }, some .ok)
  | .opened =>
    if body.length ≠ 12 then (s, some .range)
    else
      match s.judgePoint t p [0, 1, 2, 3, 4] with
      | .ok => if (s.holders t).isEmpty then (s.txnTake t .pending p 0 0, none) else (s, some .locked)
      | e => (s.countBudget e, some e)

/-- How a prepared transaction of session `n` that is no more ended (R358). -/
def State.endedAs (s : State) (n id : Nat) : Option Status :=
  (s.txnEnded.find? fun e => decide (e.1 = n ∧ e.2.1 = id)).map fun e => e.2.2

/-- Notes how a prepared transaction ended, for a commit that comes later. -/
def State.noteEnded (s : State) (t : Txn) (st : Status) : State :=
  { s with txnEnded := s.txnEnded ++ [(t.session, t.id, st)] }

/-- A prepared transaction without its decision. -/
def Txn.undecided (t : Txn) : Bool := decide (t.phase = .prepared false)

/-- DL of an undecided transaction has come. -/
def State.deadlineDue (s : State) (id : Nat) : Bool :=
  match s.txn id with
  | some t => t.undecided && decide ((t.deadline : Int) ≤ s.fabNs)
  | none => false

/-- DECISION_DEADLINE (R358). -/
def State.decisionDeadline (s : State) (id : Nat) : State :=
  match s.txn id with
  | some t => if s.deadlineDue id then (s.txnTimeout id .timeout).noteEnded t .timeout else s
  | none => s

/-- The point of an undecided transaction has been reached. -/
def State.missDue (s : State) (id : Nat) : Bool :=
  match s.txn id with
  | some t => t.undecided && (if t.point.kind = 3 then t.reached.isSome else s.pointReached t)
  | none => false

/-- POINT_WITHOUT_DECISION (R358). -/
def State.pointMissed (s : State) (id : Nat) : State :=
  match s.txn id with
  | some t =>
    if s.missDue id then
      (((s.txnRollback id .late).count GLB_TXN_CNT GLB_TXN_CNT_MISSED 1).faultEvent fltTxnMissed 0 1
        (faultValue fltTxnMissed 0)).noteEnded t .late
    else s
  | none => s

/-- The flight of a PREPARE that waits, with its transaction. -/
def State.prepareFlight (s : State) (id : Nat) : Option (Flight × Txn) :=
  match s.flights.find? fun f => decide (f.hold = .prepare id), s.txn id with
  | some f, some t => some (f, t)
  | _, _ => none

/-- A waiting PREPARE can be judged: no holder makes it wait, or its deadline has come. -/
def State.retryDue (s : State) (id : Nat) : Bool :=
  match s.prepareFlight id with
  | some (f, t) =>
    let p := Point.ofBytes f.cmd.body
    decide ((leAt f.cmd.body 12 8 : Int) ≤ s.fabNs) ||
      !((s.holders t).any fun x => s.waitsFor (s.keyOf p f.dest) x)
  | none => false

/-- PREPARE_RETRY (R357): at DL it completes with E_TIMEOUT. -/
def State.prepareRetry (s : State) (id : Nat) : State :=
  match s.prepareFlight id with
  | some (f, t) =>
    if ¬s.retryDue id then s
    else if (leAt f.cmd.body 12 8 : Int) ≤ s.fabNs then s.finish f.id .timeout 0 []
    else
      match s.txnPrepare t f.cmd.body f.dest with
      | (u, some st) => u.finish f.id st 0 []
      | (u, none) => u
  | none => s

end Sys2Proof.Machine
end

