-- ==== Sys2Proof/Machine/Store.lean ====
section
/-! DEFINITION. Records in a frame body (R318, R320, R321), stored configurations and their recall (R473, R474), and what
start-up and the exit from Watch do with them (R436, R492, R495). -/

namespace Sys2Proof.Machine

/-! ## Records in a body -/

/-- The record whose header stands at the start of a byte list, with its body where it is whole. -/
def CmdRec.ofBytes (bs : List Byte) : CmdRec :=
  let n := leAt bs 4 2
  let f := leAt bs 1 1
  let whole := decide (12 + n ≤ bs.length)
  { opcode := leAt bs 0 1, ordered := bitOf f 0, txnFlag := bitOf f 1, noreply := bitOf f 2, urgent := bitOf f 3,
    resv := f / 16, tag := leAt bs 2 2, txn := leAt bs 6 2, arg := leAt bs 8 4,
    body := if whole then (bs.drop 12).take n else [], whole := whole }

/-- The records of a body in order (R320, R321), `fuel` at most: one that runs past the end is the last, and a remainder
shorter than a header is ignored. -/
def parseRecords : Nat → List Byte → List CmdRec
  | 0, _ => []
  | fuel + 1, bs =>
    if bs.length < 12 then []
    else
      let c := CmdRec.ofBytes bs
      if c.whole then c :: parseRecords fuel (bs.drop (roundUp (12 + c.body.length) 4)) else [c]

/-- The bytes that the records of a body take, `fuel` records at most. -/
def parsedBytes : Nat → List Byte → Nat
  | 0, _ => 0
  | fuel + 1, bs =>
    if bs.length < 12 then 0
    else
      let k := roundUp (12 + leAt bs 4 2) 4
      k + parsedBytes fuel (bs.drop k)

/-! ## Slots (R473) -/

/-- Bytes in a slot. -/
def slotBytes : Nat := 448 * 1024

/-- A record that a stored configuration may hold. -/
def CmdRec.storable (c : CmdRec) : Bool :=
  c.whole && !c.ordered && !c.txnFlag && !c.noreply && !c.urgent && decide (c.resv = 0) && decide (c.txn = 0) &&
    ([0x03, 0x04, 0x10, 0x30, 0x32, 0x51].contains c.opcode ||
      (decide (c.opcode = 0x50) && !loadRead c.arg) || (decide (c.opcode = 0x58) && !bitOf c.arg 8))

/-- A body of records for APPEND: every byte belongs to a record that may be stored. -/
def appendOk (body : List Byte) : Bool :=
  let cs := parseRecords body.length body
  cs.all CmdRec.storable && decide (roundUp (parsedBytes body.length body) 4 = roundUp body.length 4)

/-- OPEN (R473). -/
def State.storeOpen (s : State) (n : Nat) : State × Status := (s.setSlot n { Slot.init with opened := true }, .ok)

/-- APPEND. -/
def State.storeAppend (s : State) (n : Nat) (body : List Byte) : State × Status :=
  let x := s.slot n
  if ¬appendOk body then (s, .range)
  else if ¬x.opened then (s, .state)
  else if slotBytes < x.recs.length + (pad4 body).length then (s, .nospace)
  else (s.setSlot n { x with recs := x.recs ++ pad4 body }, .ok)

/-- CLOSE. -/
def State.storeClose (s : State) (n : Nat) : State × Status :=
  let x := s.slot n
  if x.opened then (s.setSlot n { x with opened := false, sealCrc := some (crc32c x.recs) }, .ok) else (s, .state)

/-- ERASE. -/
def State.storeErase (s : State) (n : Nat) : State × Status := (s.setSlot n Slot.init, .ok)

/-- LOCK (R30, R473). -/
def State.storeLock (s : State) (n : Nat) : State × Status :=
  if n ≠ 0 then (s, .range)
  else if s.addrReg = 0 then (s, .state)
  else (({ s with lockRec := some s.addrReg } : State).setFlag GLB_ADDR GLB_ADDR_LOCKED true, .ok)

/-- UNLOCK. -/
def State.storeUnlock (s : State) (n : Nat) : State × Status :=
  if n ≠ 0 then (s, .range)
  else (({ s with lockRec := none } : State).setFlag GLB_ADDR GLB_ADDR_LOCKED false, .ok)

/-- STORE_CONFIG (R473). -/
def State.storeConfig (s : State) (arg : Nat) (body : List Byte) : State × Status :=
  let n := arg % 16
  let op := bitsOf arg 10 8
  if bitsOf arg 31 11 ≠ 0 ∨ bitsOf arg 7 4 ≠ 0 then (s, .range)
  else if op = 0 then s.storeOpen n
  else if op = 1 then s.storeAppend n body
  else if op = 2 then s.storeClose n
  else if op = 3 then s.storeErase n
  else if op = 4 then s.storeLock n
  else if op = 5 then s.storeUnlock n
  else (s, .range)

/-! ## Recall (R474) -/

/-- A stored record replayed: the checks of its opcode, the locks, its effect. -/
def State.replay (s : State) (c : CmdRec) : State × Status :=
  if ¬c.lengthOk then (s, .range)
  else if c.alone ≠ .ok then (s, c.alone)
  else if s.lockedFor c then (s, .locked)
  else
    let r := s.effect true false c
    (r.1, r.2.status)

/-- Stored records replayed in order, up to the first that fails: the state, the records applied and the failure. -/
def State.replayAll (s : State) : List CmdRec → Nat → State × Nat × Option (Status × Nat)
  | [], k => (s, k, none)
  | c :: cs, k =>
    let r := s.replay c
    if r.2 = .ok then State.replayAll r.1 cs (k + 1) else (r.1, k, some (r.2, c.opcode))

/-- RECALL_CONFIG of a slot (R474). -/
def State.recall (s : State) (n : Nat) : State × Completion :=
  match (s.slot n).sealCrc with
  | none => (s, ends .state 0 [])
  | some k =>
    let recs := (s.slot n).recs
    if k ≠ crc32c recs then (s, ends .crc 0 [])
    else
      let r := s.replayAll (parseRecords recs.length recs) 0
      match r.2.2 with
      | none => (r.1, ends .ok r.2.1 [])
      | some (st, op) => (r.1, ends st r.2.1 (leBytes 2 r.2.1 ++ [BitVec.ofNat 8 op, 0]))

/-- RECALL_CONFIG (R474). -/
def State.recallConfig (s : State) (arg : Nat) : State × Completion :=
  if bitsOf arg 31 4 ≠ 0 then (s, ends .range 0 []) else s.recall arg

/-! ## READY and the exit from Watch -/

/-- Start-up may complete (R492, R494, R495). -/
def State.readyDue (s : State) : Bool :=
  decide (s.power = .run) && !s.ready && !s.noImage && !s.lowPower && !s.shutdown && s.addressReady

/-- The firmware routes each source from 1 824 to a supervisor core of its own choice (R362): a free value. -/
def State.firmwareRoutes (s : State) : State :=
  State.forEach 224 (fun t k => (t.setFld (NTF_SRC (1824 + k)) NTF_SRC_TARGET (t.freeNow % 4)).drawn) s

/-- READY (R362, R492 step 8, R495): the firmware's routes, the automatic recall, READY, and a REPORT to the
discovering host or to all. -/
def State.becomeReady (s : State) : State :=
  if s.readyDue then
    let r := s.firmwareRoutes
    let t := if r.flag TAL_CFG TAL_CFG_AUTO_EN then (r.recall (r.fld TAL_CFG TAL_CFG_AUTO_SLOT)).1 else r
    let u := t.setFlag GLB_STATUS GLB_STATUS_READY true
    let h := u.fld FAB_STAT FAB_STAT_DLHOST
    u.sendReport (if h = 0 then broadcast else h) 0
  else s

/-- WATCH_EXIT (R436). -/
def State.watchExit (s : State) : State :=
  if s.wakeDue then
    let t := s.watchWake
    if t.flag PWR_WATCH_CFG PWR_WATCH_CFG_RECALL then (t.recall (t.fld PWR_WATCH_CFG PWR_WATCH_CFG_SLOT)).1 else t
  else s

end Sys2Proof.Machine
end

