-- ==== Sys2Proof/Machine/Commands.lean ====
section
/-! DEFINITION. The command path (R318 to R341): records accepted on a session, their checks, what each opcode does,
ordering, completion of what waited. -/

namespace Sys2Proof.Machine

/-! ## What opcodes with a reply do (R334, R337, R161, R309) -/

/-- READ (R334), or a READ through a transaction (R345): the state and how it completed. -/
def State.opRead (s : State) (t : Option Txn) (arg : Nat) (body : List Byte) : State × Completion :=
  let n := leAt body 0 4
  match rangeCheck arg n with
  | .ok =>
    match t with
    | some x => (s, ends .ok 0 (bytesOfWords ((List.range (n / 4)).map fun i => s.readThrough x (arg + 4 * i))))
    | none =>
      let r := s.readRegs arg (n / 4)
      (r.1, ends .ok 0 (bytesOfWords r.2))
  | e => (s, ends e 0 [])

/-- SNAPSHOT (R244, R337). -/
def State.opSnapshot (s : State) (arg : Nat) : Completion :=
  if 2 ^ 24 ≤ arg ∨ blockOf arg ≠ some .tmc then ends .range 0 []
  else
    match regAt arg with
    | some (_, i, _) =>
      if arg % 4 ≠ 0 then ends .addr 0 []
      else
        let r := s.cellSnapshot i
        ends .ok r.1 r.2
    | none => ends .addr 0 []

/-- EVENT_QUERY (R89). -/
def State.opEventQuery (s : State) (arg : Nat) : Completion :=
  if arg < almSize then ends .ok 0 (s.event arg).bytes else ends .range 0 []

/-- PRODUCT_QUERY (R161). -/
def State.opProductQuery (s : State) (arg : Nat) : Completion :=
  if arg < 65536 then ends .ok 0 (s.prod arg).bytes else ends .range 0 []

/-- POOL_READ (R300, R309). -/
def State.opPoolRead (s : State) (arg : Nat) (body : List Byte) : Completion :=
  let n := leAt body 0 4
  if poolRangeOk arg n then
    let b := blocksOf arg n
    if s.rangeHasFree b.1 b.2 then ends .state 0 []
    else if s.rangePoisoned arg n then ends .crc 0 []
    else ends .ok 0 (s.poolRead arg n)
  else ends .range 0 []

/-- OUTPUT_ENABLE (R25, R29, R339). -/
def State.opOutputEnable (s : State) (arg : Nat) : State × Status :=
  if arg = 0 then ((s.setFlag GLB_STATUS GLB_STATUS_OUT_PERMIT false).liveSettle, .ok)
  else if arg = 1 then
    if ¬s.flag GLB_STATUS GLB_STATUS_HOLD_OK ∨ ¬s.ready ∨ s.flag GLB_STATUS GLB_STATUS_SAFE ∨ s.standby then (s, .state)
    else ((s.setFlag GLB_STATUS GLB_STATUS_OUT_PERMIT true).permits.liveSettle, .ok)
  else (s, .range)

/-! ## Commands in flight -/

/-- The state with the hold of a flight set. -/
def State.holdFlight (s : State) (id : Nat) (h : Hold) : State :=
  { s with flights := s.flights.map fun f => if f.id = id then { f with hold := h } else f }

/-- A command completes with what an effect gave. -/
def State.completes (s : State) (fl : Flight) (c : Completion) : State := s.complete fl none c.status c.result c.body

/-- The address that replies held so far leave from, where the record was an accepted write of GLB_ADDR.ADDR (R31). -/
def State.movedFrom (s : State) (c : CmdRec) (r : Completion) : Option Nat :=
  if (c.opcode = 0x03 ∧ c.arg ≤ GLB_ADDR ∧ GLB_ADDR < c.arg + 4 * r.result) ∨
      (c.opcode = 0x04 ∧ c.arg = GLB_ADDR ∧ r.status = .ok ∧ (BitVec.ofNat 32 (leAt c.body 0 4)).getF GLB_ADDR_ADDR ≠ 0) then
    some s.addr
  else none

/-- The effect runs and completes, and the mirror tells the standby. -/
def State.runEffect (s : State) (fl : Flight) : State :=
  let c := fl.cmd
  if c.alone ≠ .ok then s.complete fl none c.alone 0 []
  else if s.lockedFor c then s.complete fl none .locked 0 []
  else
    let r := s.effect true false c
    let reads := (decide (c.opcode = 0x50) && loadRead c.arg) || (decide (c.opcode = 0x58) && bitOf c.arg 8)
    let t := if reads then r.1 else r.1.mirrorCmd fl.session c r.2.status
    t.complete fl (s.movedFrom c r.2) r.2.status r.2.result r.2.body

/-- CODE_JOB (R185): with WAIT the reply is held. -/
def State.runCodeJob (s : State) (fl : Flight) : State :=
  let r := s.codeJob fl.cmd.arg fl.cmd.body (some fl.id)
  match r.2.1 with
  | some st => (r.1.mirrorCmd fl.session fl.cmd st).complete fl none st r.2.2 []
  | none => (r.1.mirrorCmd fl.session fl.cmd .ok).holdFlight fl.id (.job r.2.2)

/-- The RESULT of BLULET_STOP (R112). -/
def stopResult (found count : Nat) : Nat := found * 65536 + Nat.min count 65535

/-- BLULET_STOP (R112): it waits for the threads found RUNNING. -/
def State.runStop (s : State) (fl : Flight) : State :=
  let c := fl.cmd
  if c.alone ≠ .ok then s.complete fl none c.alone 0 []
  else if s.lockedFor c then s.complete fl none .locked 0 []
  else
    let names := stopNames c.arg
    let found := (s.th (names.headD 0)).st.code
    let running := names.filter fun g => decide ((s.th g).st = .running)
    let r := s.bluStop c.arg
    let t := r.1.mirrorCmd fl.session c .ok
    if running.isEmpty then t.complete fl none .ok (stopResult found r.2) []
    else t.holdFlight fl.id (.stop found r.2 running)

/-- NOP (R328, R330): the part code and the credits free once every reply has been sent. -/
def State.runNop (s : State) (fl : Flight) : State :=
  let c := fl.cmd
  if 4 ≤ c.arg then s.complete fl none .range 0 []
  else
    let others := (s.flights.filter fun f => decide (f.session = fl.session) && !f.mute && !decide (f.id = fl.id)).length
    let t := if c.ordered ∧ bitOf c.arg 1 then s.setSess fl.session { s.sess fl.session with broken := false } else s
    let u := if c.releases then t.mirrorCmd fl.session c .ok else t
    u.complete fl none .ok (0x9640 * 65536 + (sessionCredits - others)) []

/-- FENCE (R331). -/
def State.runFence (s : State) (fl : Flight) : State :=
  if fl.cmd.arg ≠ 0 then s.complete fl none .range 0 [] else s.holdFlight fl.id (.fence s.time)

/-- TXN_COMMIT (R348, R349, R358). -/
def State.runCommit (s0 : State) (fl : Flight) : State :=
  let a := fl.cmd.arg
  let s := if s0.deadlineDue a then s0.decisionDeadline a else s0
  if 65536 ≤ a then s.complete fl none .range 0 []
  else
    match s.txnOf fl.session a with
    | none => s.complete fl none ((s.endedAs fl.session a).getD .txn) 0 []
    | some t =>
      match (s.txnTouch t).txnCommit { t with lastTick := s.time } fl.cmd.body with
      | (u, some st) => u.complete fl none st 0 []
      | (u, none) => u.holdFlight fl.id (.commit t.id)

/-- TXN_PREPARE (R356, R357). -/
def State.runPrepare (s : State) (fl : Flight) : State :=
  let a := fl.cmd.arg
  if 65536 ≤ a then s.complete fl none .range 0 []
  else
    match s.txnOf fl.session a with
    | none => s.complete fl none .txn 0 []
    | some t =>
      match (s.txnTouch t).txnPrepare { t with lastTick := s.time } fl.cmd.body fl.dest with
      | (u, some st) => u.complete fl none st 0 []
      | (u, none) => u.holdFlight fl.id (.prepare t.id)

/-- RESET (R340, R499). -/
def State.runReset (s : State) (fl : Flight) : State :=
  let a := fl.cmd.arg
  if a / 65536 ≠ resetKey ∨ 2 ≤ a % 65536 then s.complete fl none .range 0 []
  else if s.resetIgnored then s.complete fl none .state 0 []
  else
    let t := (s.complete fl none .ok 0 []).flushReplies
    if a % 4 = 1 then t.coldReset causeCold else t.warmReset causeWarm

/-- POWER_STATE (R341, R431). -/
def State.runPower (s : State) (fl : Flight) : State :=
  let a := fl.cmd.arg
  if 4 ≤ a then s.complete fl none .range 0 []
  else if a = 0 then s.endDoze.complete fl none .ok 0 []
  else if a = 1 then
    if s.dozeRefused then s.complete fl none .state 0 []
    else (({ s with power := .doze } : State).complete fl none .ok 0 [])
  else s.holdFlight fl.id .power

/-- What an opcode does once its record has passed the checks of R322, steps 1 to 4. -/
def State.runOp (s : State) (fl : Flight) : State :=
  let c := fl.cmd
  let op := c.opcode
  let n := fl.session
  if op = 0x01 then s.runNop fl
  else if op = 0x02 then
    (let r := s.opRead none c.arg c.body
     r.1.completes fl r.2)
  else if op = 0x05 then s.completes fl (s.opSnapshot c.arg)
  else if op = 0x06 then s.runFence fl
  else if op = 0x12 then s.completes fl (s.opEventQuery c.arg)
  else if op = 0x22 then s.completes fl (s.opProductQuery c.arg)
  else if op = 0x31 then s.completes fl (s.opPoolRead c.arg c.body)
  else if op = 0x38 then s.runCodeJob fl
  else if op = 0x40 then
    (let r := s.txnBegin n c.arg
     r.1.complete fl none r.2.1 r.2.2 [])
  else if op = 0x41 then s.runCommit fl
  else if op = 0x42 then
    (let r := s.txnRollbackCmd n c.arg
     r.1.complete fl none r.2 0 [])
  else if op = 0x43 then s.runPrepare fl
  else if op = 0x48 then
    (let r := s.notifyComplete n c.arg
     r.1.complete fl none r.2.1 r.2.2 [])
  else if op = 0x52 then s.runStop fl
  else if op = 0x60 then
    (let r := s.storeConfig c.arg c.body
     (r.1.mirrorCmd n c r.2).complete fl none r.2 0 [])
  else if op = 0x61 then
    (let r := s.recallConfig c.arg
     (r.1.mirrorCmd n c r.2.status).completes fl r.2)
  else if op = 0x70 then s.runReset fl
  else if op = 0x71 then s.runPower fl
  else if op = 0x72 then
    (let r := s.opOutputEnable c.arg
     (r.1.mirrorCmd n c r.2).complete fl none r.2 0 [])
  else s.runEffect fl

/-! ## Checks (R321, R322, R326, R407, R493) -/

/-- What a standby accepts at its own address (R407). -/
def CmdRec.forStandby (c : CmdRec) : Bool :=
  [0x01, 0x02, 0x05, 0x06, 0x12, 0x22].contains c.opcode || c.writesBlock .twn

/-- The checks of R322, steps 1 to 4, with what else refuses a record before its opcode's own rules. -/
def State.recordCheck (s : State) (n : Nat) (c : CmdRec) : Status :=
  if s.noImage then .state
  else if ¬c.whole then .range
  else if ¬opcodes.contains c.opcode then .opcode
  else if c.resv ≠ 0 ∨ (c.txn ≠ 0 ∧ ¬c.txnFlag) then .range
  else if c.txnFlag ∧ (¬(c.stageable ∨ c.opcode = 0x02) ∨ (s.txnOf n c.txn).isNone) then .txn
  else if ¬c.lengthOk then .range
  else if c.noreply ∧ c.needsReply then .range
  else if s.standby ∧ ¬c.forStandby then .state
  else .ok

/-- A record that passed the checks: staged, read through its transaction, or run. -/
def State.runRecord (s : State) (fl : Flight) : State :=
  let c := fl.cmd
  if c.txnFlag then
    match s.txnOf fl.session c.txn with
    | none => s.complete fl none .txn 0 []
    | some t =>
      if c.opcode = 0x02 then
        let r := (s.txnTouch t).opRead (some t) c.arg c.body
        r.1.completes fl r.2
      else
        let r := s.txnStage t c
        r.1.complete fl none r.2.1 r.2.2 []
  else s.runOp fl

/-- An ORDERED NOP with CHAIN_RESET, exempt from E_CHAIN (R330). -/
def CmdRec.resetsChain (c : CmdRec) : Bool := c.ordered && decide (c.opcode = 0x01) && bitOf c.arg 1

/-- A command starts (R330): on a broken chain an ORDERED one completes with E_CHAIN. -/
def State.startFlight (s : State) (fl : Flight) : State :=
  let c := fl.cmd
  if c.ordered ∧ (s.sess fl.session).broken ∧ ¬fl.mute ∧ ¬c.resetsChain then s.complete fl none .chain 0 []
  else
    match s.recordCheck fl.session c with
    | .ok => s.runRecord fl
    | e => s.complete fl none e 0 []

/-! ## What waited (R112, R323, R331, R341) -/

/-- A flight that is a BLULET_STOP whose threads are all STOPPED. -/
def State.stopEnds (s : State) (f : Flight) : Option Nat :=
  match f.hold with
  | .stop found count running =>
    if s.stopDone f.cmd.arg then
      some (stopResult found (count +
        running.foldl (fun k g => k + s.fld (BLU_T_EVT (thEngine g) (thNumber g)) BLU_T_EVT_DISCARD) 0))
    else none
  | _ => none

/-- Completes every BLULET_STOP whose threads are all STOPPED (R112). -/
def State.settleStops (s : State) : State :=
  s.flights.foldl (fun t f =>
    match t.stopEnds f with
    | some r => t.complete f none .ok r []
    | none => t) s

/-- A POWER_STATE to Watch or Off, once nothing else is in flight (R341, R432). -/
def State.settlePower (s : State) : State :=
  match s.flights with
  | [f] =>
    if f.hold = .power then
      if f.cmd.arg = 2 then
        if s.watchRefused then s.complete f none .state 0 []
        else ((s.complete f none .ok 0 []).flushReplies).acceptWatch
      else if s.txnBinds then s.complete f none .state 0 []
      else ((s.complete f none .ok 0 []).flushReplies).beginShutdown
    else s
  | _ => s

/-- Sessions whose releasing NOP has been answered are freed (R323). -/
def State.settleReleases (s : State) : State :=
  State.forEach 8 (fun t n => if (t.sess n).releasing then t.releaseSession n else t) s

/-- What completes because something else has. -/
def State.settle (s : State) : State := s.settleJobs.settleStops.settlePower.settleReleases

/-! ## Acceptance (R323 to R325, R341) -/

/-- No command is accepted: in Watch and Off, on the way there, and where start-up has stopped for want of power (R18,
R433, R480). -/
def State.deaf (s : State) : Bool :=
  decide (s.power = .watch) || decide (s.power = .off) || s.watchNext.isSome || s.lowPower

/-- The TAG of a command that is in flight, or whose reply has not been sent (R325). -/
def State.tagInFlight (s : State) (n tag : Nat) : Bool :=
  (s.flights.any fun f => decide (f.session = n) && !f.mute && decide (f.cmd.tag = tag)) ||
    (s.sess n).replies.any fun r => decide (r.tag = tag)

/-- A record refused on arrival: its reply takes a credit or not. -/
def State.refuse (s : State) (n src : Nat) (c : CmdRec) (credit : Nat) (st : Status) : State :=
  (s.done st 0 []).answer n src c credit false s.srcAddr st 0 []

/-- A record takes a credit. -/
def State.takeCredit (s : State) (n : Nat) : State := s.setSess n { s.sess n with credits := (s.sess n).credits - 1 }

/-- An earlier ORDERED command of the session has not completed. -/
def State.chainBusy (s : State) (n : Nat) : Bool :=
  s.flights.any fun f => decide (f.session = n) && f.cmd.ordered && !f.mute

/-- A record takes its place among the commands in flight, and starts unless its chain holds it. -/
def State.launch (s : State) (n src : Nat) (c : CmdRec) : State :=
  let waits := c.ordered && s.chainBusy n
  let fl : Flight := { id := s.nextFlight, session := n, dest := src, cmd := c, hold := .chain, mute := false }
  let t : State := { s with flights := s.flights ++ [fl], nextFlight := s.nextFlight + 1 }
  if waits then t.done .ok 0 [] else t.startFlight fl

/-- A POWER_STATE to Watch or Off waits (R341). -/
def State.powerWaits (s : State) : Bool := s.flights.any fun f => decide (f.hold = .power)

/-- A parsed record arrives on session `n` from the address `src` (R323 to R325). -/
def State.acceptRecord (s0 : State) (n src : Nat) (c : CmdRec) : State :=
  if s0.deaf then s0
  else
    let s := if (s0.sess n).owner.isNone then s0.setSess n { s0.sess n with owner := some src } else s0
    if (s.sess n).owner ≠ some src then s.refuse n src c 0 .access
    else if (s.sess n).credits = 0 then s.refuse n src c 0 .busy
    else
      let t := s.takeCredit n
      if s.tagInFlight n c.tag ∨ s.powerWaits then t.refuse n src c 1 .busy
      else (t.launch n src c).settle

/-- Records in a frame body, 123 at most (R320). -/
def frameRecords : Nat := 123

/-- COMMAND_FRAME (R321, R323): a session above 7 discards the frame. -/
def State.commandFrame (s : State) (src n : Nat) (body : List Byte) : State :=
  if 8 ≤ n then s else (parseRecords frameRecords body).foldl (fun t c => t.acceptRecord n src c) s

/-! ## Completions by themselves (R330, R331) -/

/-- The FENCEs of session `n` that may complete (R331): no earlier command of the session in flight, 2 ticks since. -/
def State.fenceDue (s : State) (n : Nat) : Option Flight :=
  s.flights.find? fun f =>
    match f.hold with
    | .fence since =>
      decide (f.session = n) && decide (since + 2 ≤ s.time) &&
        !s.flights.any fun g => decide (g.session = n) && decide (g.id < f.id) && decide (g.mute = f.mute)
    | _ => false

/-- FENCE_COMPLETE (R331). -/
def State.fenceComplete (s : State) (n : Nat) : State :=
  match s.fenceDue n with
  | some f => (s.complete f none .ok 0 []).settle
  | none => s

/-- The ORDERED command of session `n` whose turn it is (R330). -/
def State.chainNext (s : State) (n : Nat) : Option Flight :=
  s.flights.find? fun f =>
    decide (f.session = n) && decide (f.hold = .chain) &&
      !s.flights.any fun g => decide (g.session = n) && g.cmd.ordered && decide (g.id < f.id) && decide (g.mute = f.mute)

/-- ORDERED_START (R330). -/
def State.orderedStart (s : State) (n : Nat) : State :=
  match s.chainNext n with
  | some f => (s.startFlight f).settle
  | none => s

/-- REPLY_FRAME_SEND (R327). -/
def State.replyFrame (s : State) (n : Nat) : State := if s.replyDue n then (s.sendReply n).settle else s

end Sys2Proof.Machine
end

