-- ==== Sys2Proof/Machine/BluletIsa.lean ====
section
/-! DEFINITION. The Blulet instruction set (R117 to R137): issue, legality of the fields, operands, and the meaning of each
instruction. -/

namespace Sys2Proof.Machine

/-! ## Issue (R94, R101, R102, R114, R118) -/

/-- Thread `g` may issue: it is RUNNING, or no thread of its engine is and the scheduler chooses it. A standby issues
nothing (R408), and BLULET runs in Run alone (R430). -/
def State.mayIssue (s : State) (g : Nat) : Bool :=
  decide (s.power = .run) && !s.standby &&
    (match s.bluRunning (thEngine g) with
     | some h => decide (h = g)
     | none => decide (s.bluChoice (thEngine g) = some g))

/-- The slice that has issued its 64th instruction ends before anything else issues on its engine (R101). -/
def State.endSlice (s : State) (e : Nat) : State :=
  match s.bluRunning e with
  | some h => s.forcedYield h
  | none => s

/-- A clock cycle of an engine is used: 400 MHz-ticks of its credit. -/
def State.spendCycle (s : State) (e : Nat) : State :=
  { s with bluCycles := FMap.set (fun _ => 0) s.bluCycles e (FMap.get (fun _ => 0) s.bluCycles e - 400) }

/-- The thread is RUNNING, at the start of a slice where it was READY. -/
def State.enterSlice (s : State) (g : Nat) : State :=
  let x := s.th g
  if x.st = .running then s else s.setTh g { x with st := .running, issued := 0 }

/-- What protection finds on an access to a word: the error that stands in it, or one newly found (R94). -/
def State.found (s : State) (k : Nat) (m : MemErr) : MemErr := (s.errAt k).worse m

/-- An access to a word: its error stands until the word is rewritten, and a single-bit error is counted (R94). -/
def State.touchErr (s : State) (e k : Nat) (m : MemErr) : State :=
  (s.setErr k (s.found k m)).eccFixed e (s.found k m)

/-- A double-bit error found on a data access: it stands in its word, and the instruction, which has no effect, faults its
thread (R94, R114). -/
def State.dmemFault (s : State) (g k : Nat) : State :=
  let x := s.th g
  ((s.setErr k .uncorrectable).setTh g { x with pc := x.pc - 1, issued := x.issued - 1 }).threadFault g causeDmemEcc (x.pc - 1)

/-- An instruction, given the state with the PC moved on and its thread: the state it leaves, or the cause of its fault. -/
abbrev BluAct := State → Nat → Except Nat State

/-- A fault of the program counter past 0x1FFF: FPC has no such address, so it is a free value. -/
def State.pcFault (s : State) (g : Nat) : State := s.drawn.threadFault g causePcRange (s.freeNow % imemSize)

/-- An instruction of a thread that issues now: fetch, legality, effect (R114, R118). -/
def State.bluIssueNow (s : State) (i : Issue) (legal : Bool) (act : BluAct) : State :=
  let g := i.thread.toNat
  let s0 := (s.enterSlice g).spendCycle (thEngine g)
  let pc := (s0.th g).pc
  let k := imemKey (thEngine g) pc
  let s1 := if imemSize ≤ pc then s0 else s0.touchErr (thEngine g) k i.fetch
  if imemSize ≤ pc then s1.pcFault g
  else if s0.found k i.fetch = .uncorrectable then s1.threadFault g causeImemEcc pc
  else if ¬legal then s1.threadFault g causeIllegal pc
  else
    let x := s1.th g
    match act (s1.setTh g { x with pc := x.pc + 1, issued := x.issued + 1 }) g with
    | .ok t => t
    | .error cause => s1.threadFault g cause pc

/-- The issue of an instruction by its thread (R101, R102); nothing where the thread may not issue. -/
def State.bluIssue (s : State) (i : Issue) (legal : Bool) (act : BluAct) : State :=
  let t := s.endSlice (thEngine i.thread.toNat)
  if t.mayIssue i.thread.toNat then (t.bluIssueNow i legal act).settle else t.settle

/-! ## Fields (R118, R119) -/

/-- The fields as numbers. -/
def Issue.dn (i : Issue) : Nat := i.d.toNat
def Issue.sn (i : Issue) : Nat := i.s.toNat
def Issue.tn (i : Issue) : Nat := i.t.toNat
def Issue.mn (i : Issue) : Nat := i.m.toNat
def Issue.xn (i : Issue) : Nat := i.x.toNat

/-- Fields that an instruction does not use are 0. -/
def Issue.noD (i : Issue) : Bool := decide (i.d = 0)
def Issue.noS (i : Issue) : Bool := decide (i.s = 0)
def Issue.noT (i : Issue) : Bool := decide (i.t = 0)
def Issue.noM (i : Issue) : Bool := decide (i.m = 0)
def Issue.noX (i : Issue) : Bool := decide (i.x = 0)
def Issue.noImm (i : Issue) : Bool := decide (i.imm = 0)

/-- A wide register code (R119), one of an a register, one of a t register, two of one kind. -/
def wideOk (c : Nat) : Bool := decide (c < 4)
def wideA (c : Nat) : Bool := decide (c < 2)
def wideT (c : Nat) : Bool := decide (2 ≤ c) && decide (c < 4)
def wideKin (a b : Nat) : Bool := (wideA a && wideA b) || (wideT a && wideT b)

/-- M[3] selects IMM or gT, and the other of the two is 0 (R118, R119). -/
def Issue.op2Ok (i : Issue) : Bool :=
  decide (i.mn % 8 = 0) && (if i.mn = 8 then i.noT else i.noImm)

/-- A meet-tick code (R128). -/
def Issue.meetOk (i : Issue) : Bool := decide (i.dn = 2) || decide (i.dn = 3) || decide (i.dn = 15)

/-- A branch target (R137). -/
def Issue.targetOk (i : Issue) : Bool := decide (i.imm.toNat < imemSize)

/-- op2 (R119). -/
def Issue.op2 (i : Issue) (x : Thread) : Word := if i.mn = 8 then i.imm else x.gr i.tn

/-- gS + IMM as a 32-bit sum (R124). -/
def Issue.address (i : Issue) (x : Thread) : Nat := (x.gr i.sn + i.imm).toNat

/-! ## Arithmetic (R120, R122) -/

/-- The legality of an ALU instruction with D and S. -/
def Issue.aluOk (i : Issue) : Bool := i.op2Ok && i.noX

/-- An ALU instruction: gD from gS and op2, and its flags. -/
def aluAct (i : Issue) (f : Word → Word → Word) (fl : BluFlags → Word → Word → BluFlags) : BluAct := fun s g =>
  let x := s.th g
  let a := x.gr i.sn
  let b := i.op2 x
  .ok (s.setTh g { x.setGr i.dn (f a b) with flags := fl x.flags a b })

/-- An ALU instruction that sets Z and N from its result alone (R122). -/
def znAct (i : Issue) (f : Word → Word → Word) : BluAct := aluAct i f fun fl a b => fl.zn (f a b)

/-- The high word of the signed product. -/
def mulHigh (a b : Word) : Word := BitVec.ofInt 32 (a.toInt * b.toInt / 2 ^ 32)

/-- Signed minimum and maximum. -/
def minSigned (a b : Word) : Word := if a.toInt ≤ b.toInt then a else b
def maxSigned (a b : Word) : Word := if a.toInt ≤ b.toInt then b else a

/-- ADD. -/
def execBluAdd (i : Issue) (s : State) : Host.Outcome State Fault Refusal :=
  .next (s.bluIssue i i.aluOk (aluAct i (· + ·) BluFlags.add))

/-- SUB. -/
def execBluSub (i : Issue) (s : State) : Host.Outcome State Fault Refusal :=
  .next (s.bluIssue i i.aluOk (aluAct i (· - ·) BluFlags.sub))

/-- CMP: D = 0, and only the flags change. -/
def execBluCmp (i : Issue) (s : State) : Host.Outcome State Fault Refusal :=
  .next (s.bluIssue i (i.aluOk && i.noD) fun t g =>
    let x := t.th g
    .ok (t.setTh g { x with flags := x.flags.sub (x.gr i.sn) (i.op2 x) }))

/-- AND. -/
def execBluAnd (i : Issue) (s : State) : Host.Outcome State Fault Refusal :=
  .next (s.bluIssue i i.aluOk (znAct i (· &&& ·)))

/-- OR. -/
def execBluOr (i : Issue) (s : State) : Host.Outcome State Fault Refusal :=
  .next (s.bluIssue i i.aluOk (znAct i (· ||| ·)))

/-- XOR. -/
def execBluXor (i : Issue) (s : State) : Host.Outcome State Fault Refusal :=
  .next (s.bluIssue i i.aluOk (znAct i (· ^^^ ·)))

/-- SHL by op2[4:0]. -/
def execBluShl (i : Issue) (s : State) : Host.Outcome State Fault Refusal :=
  .next (s.bluIssue i i.aluOk (znAct i fun a b => a <<< (b.toNat % 32)))

/-- SHR by op2[4:0], zero fill. -/
def execBluShr (i : Issue) (s : State) : Host.Outcome State Fault Refusal :=
  .next (s.bluIssue i i.aluOk (znAct i fun a b => a >>> (b.toNat % 32)))

/-- SAR by op2[4:0], sign fill. -/
def execBluSar (i : Issue) (s : State) : Host.Outcome State Fault Refusal :=
  .next (s.bluIssue i i.aluOk (znAct i fun a b => a.sshiftRight (b.toNat % 32)))

/-- MUL. -/
def execBluMul (i : Issue) (s : State) : Host.Outcome State Fault Refusal :=
  .next (s.bluIssue i i.aluOk (znAct i (· * ·)))

/-- MULH. -/
def execBluMulh (i : Issue) (s : State) : Host.Outcome State Fault Refusal :=
  .next (s.bluIssue i i.aluOk (znAct i mulHigh))

/-- MIN. -/
def execBluMin (i : Issue) (s : State) : Host.Outcome State Fault Refusal :=
  .next (s.bluIssue i i.aluOk (znAct i minSigned))

/-- MAX. -/
def execBluMax (i : Issue) (s : State) : Host.Outcome State Fault Refusal :=
  .next (s.bluIssue i i.aluOk (znAct i maxSigned))

/-- MOV: S = 0; no flag changes (R117). -/
def execBluMov (i : Issue) (s : State) : Host.Outcome State Fault Refusal :=
  .next (s.bluIssue i (i.aluOk && i.noS) fun t g => .ok (t.setTh g ((t.th g).setGr i.dn (i.op2 (t.th g)))))

/-- CLF. -/
def execBluClf (i : Issue) (s : State) : Host.Outcome State Fault Refusal :=
  .next (s.bluIssue i (i.noD && i.noS && i.noT && i.noM && i.noImm && decide (i.xn < 128)) fun t g =>
    let x := t.th g
    .ok (t.setTh g { x with flags := x.flags.clear i.xn }))

/-! ## Wide registers (R119, R122, R123) -/

/-- WADD: modulo 2^64; no flag changes. -/
def execBluWadd (i : Issue) (s : State) : Host.Outcome State Fault Refusal :=
  .next (s.bluIssue i (wideOk i.dn && wideOk i.sn && i.op2Ok && i.noX) fun t g =>
    let x := t.th g
    .ok (t.setTh g (x.setWide i.dn (x.wide i.sn + (i.op2 x).signExtend 64))))

/-- WMOV between registers of one kind. -/
def execBluWmov (i : Issue) (s : State) : Host.Outcome State Fault Refusal :=
  .next (s.bluIssue i (wideKin i.dn i.sn && i.noT && i.noM && i.noX && i.noImm) fun t g =>
    let x := t.th g
    .ok (t.setTh g (x.setWide i.dn (x.wide i.sn))))

/-- WGET. -/
def execBluWget (i : Issue) (s : State) : Host.Outcome State Fault Refusal :=
  .next (s.bluIssue i (wideOk i.sn && i.noT && decide (i.mn < 2) && i.noX && i.noImm) fun t g =>
    let x := t.th g
    let v := (x.wide i.sn).toNat
    .ok (t.setTh g (x.setGr i.dn (BitVec.ofNat 32 (if i.mn = 1 then v / 2 ^ 32 else v)))))

/-- WPUT. -/
def execBluWput (i : Issue) (s : State) : Host.Outcome State Fault Refusal :=
  .next (s.bluIssue i (wideOk i.dn && i.noT && decide (i.mn < 2) && i.noX && i.noImm) fun t g =>
    let x := t.th g
    let v := (x.wide i.dn).toNat
    let w := (x.gr i.sn).toNat
    .ok (t.setTh g (x.setWide i.dn (BitVec.ofNat 64
      (if i.mn = 1 then w * 2 ^ 32 + v % 2 ^ 32 else v / 2 ^ 32 * 2 ^ 32 + w)))))

/-- The number a wide register holds: a registers are signed, t registers unsigned (R117). -/
def Thread.wideInt (x : Thread) (c : Nat) : Int := if c < 2 then (x.wide c).toInt else ((x.wide c).toNat : Int)

/-- WCMP of registers of one kind. -/
def execBluWcmp (i : Issue) (s : State) : Host.Outcome State Fault Refusal :=
  .next (s.bluIssue i (wideKin i.sn i.tn && i.noD && i.noM && i.noX && i.noImm) fun t g =>
    let x := t.th g
    .ok (t.setTh g { x with flags := x.flags.wcmp (decide (x.wide i.sn = x.wide i.tn))
                                                  (decide (x.wideInt i.sn < x.wideInt i.tn)) }))

/-- The difference of two wide registers: of two a registers the 64-bit two's complement one (R3, R117), otherwise that of
the numbers they hold. -/
def Thread.wideDiff (x : Thread) (c d : Nat) : Int :=
  if c < 2 ∧ d < 2 then angDiff (x.wideInt c) (x.wideInt d) else x.wideInt c - x.wideInt d

/-- WSUB. -/
def execBluWsub (i : Issue) (s : State) : Host.Outcome State Fault Refusal :=
  .next (s.bluIssue i (wideOk i.sn && wideOk i.tn && i.noM && i.noX && i.noImm) fun t g =>
    let x := t.th g
    let d := x.wideDiff i.sn i.tn
    .ok (t.setTh g { x.setGr i.dn (wsubResult d) with flags := x.flags.wsub d }))

/-- The age in ticks of what NOW and ANG read: 2 to 4, plus at most one BLULET cycle, a free value (R123). -/
def State.copyAge (s : State) : Nat := 2 + s.freeNow % (3 + 400 / s.bluClock)

/-- NOW. -/
def execBluNow (i : Issue) (s : State) : Host.Outcome State Fault Refusal :=
  .next (s.bluIssue i (wideT i.dn && i.noS && i.noT && i.noM && i.noX && i.noImm) fun t g =>
    .ok (t.drawn.setTh g ((t.th g).setWide i.dn (BitVec.ofNat 64 (t.time - t.copyAge)))))

/-- φ of a shaft as it stood `k` ticks ago, in 2^-16 ang. -/
def State.phiAged (s : State) (n k : Nat) : Int :=
  let l := FMap.get (fun _ => []) s.phiTrail n
  match l[k - 1]? with
  | some v => v
  | none => l.getLast?.getD (s.phi n)

/-- ANG. -/
def execBluAng (i : Issue) (s : State) : Host.Outcome State Fault Refusal :=
  .next (s.bluIssue i (wideA i.dn && i.noS && i.noT && i.noM && decide (i.xn < 16) && i.noImm) fun t g =>
    let x := t.th g
    let v := t.phiAged i.xn t.copyAge / 65536
    .ok (t.drawn.setTh g { x.setWide i.dn (BitVec.ofInt 64 v) with flags := x.flags.setF (!t.angValid i.xn) }))

/-! ## Data memory (R124, R125) -/

/-- An access to data memory: its range and alignment, then what protection finds (R94, R124). `whole`: a store of the whole
word, which does not look at the error that stands in it. -/
def dmemActOn (i : Issue) (whole : Bool) (size : Nat) (f : State → Nat → Nat → State) : BluAct := fun s g =>
  let a := i.address (s.th g)
  let k := dmemKey (thEngine g) a
  if 65536 ≤ a ∨ a % size ≠ 0 then .error causeDmemRange
  else
    let t := if whole then s.setErr k .none_ else s
    if t.found k i.data = .uncorrectable then .ok (s.dmemFault g k)
    else .ok (f (t.touchErr (thEngine g) k i.data) g a)

/-- An access that reads the word it is made to. -/
def dmemAct (i : Issue) (size : Nat) (f : State → Nat → Nat → State) : BluAct := dmemActOn i false size f

/-- The size of LD and ST in bytes. -/
def Issue.size (i : Issue) : Nat := 2 ^ (i.mn % 4)

/-- A loaded number, sign-extended from its size or zero-filled. -/
def loadWord (size : Nat) (sign : Bool) (v : Nat) : Word :=
  if sign then BitVec.ofInt 32 (signed (8 * size) v) else BitVec.ofNat 32 v

/-- LD. -/
def execBluLd (i : Issue) (s : State) : Host.Outcome State Fault Refusal :=
  .next (s.bluIssue i (i.noT && decide (i.mn % 4 ≠ 3) && decide (i.mn < 8) && i.noX) (dmemAct i i.size fun t g a =>
    t.setTh g ((t.th g).setGr i.dn (loadWord i.size (decide (4 ≤ i.mn)) (ofLe (t.dmemRead (thEngine g) a i.size))))))

/-- ST. -/
def execBluSt (i : Issue) (s : State) : Host.Outcome State Fault Refusal :=
  .next (s.bluIssue i (i.noD && decide (i.mn < 3) && i.noX) (dmemAct i i.size fun t g a =>
    t.dmemWrite (thEngine g) a (leBytes i.size ((t.th g).gr i.tn).toNat)))

/-- LDW. -/
def execBluLdw (i : Issue) (s : State) : Host.Outcome State Fault Refusal :=
  .next (s.bluIssue i (wideOk i.dn && i.noT && i.noM && i.noX) (dmemAct i 8 fun t g a =>
    t.setTh g ((t.th g).setWide i.dn (BitVec.ofNat 64 (ofLe (t.dmemRead (thEngine g) a 8))))))

/-- STW. -/
def execBluStw (i : Issue) (s : State) : Host.Outcome State Fault Refusal :=
  .next (s.bluIssue i (wideOk i.tn && i.noD && i.noM && i.noX) (dmemActOn i true 8 fun t g a =>
    t.dmemWrite (thEngine g) a (leBytes 8 ((t.th g).wide i.tn).toNat)))

/-- XADD. -/
def execBluXadd (i : Issue) (s : State) : Host.Outcome State Fault Refusal :=
  .next (s.bluIssue i (i.noM && i.noX) (dmemAct i 4 fun t g a =>
    let old := BitVec.ofNat 32 (ofLe (t.dmemRead (thEngine g) a 4))
    (t.setTh g ((t.th g).setGr i.dn old)).dmemWrite (thEngine g) a (leBytes 4 (old + (t.th g).gr i.tn).toNat)))

/-! ## Waiting (R98, R101, R128) -/

/-- The thread waits; a stop or a BUS_ERR that awaits this yield point ends it (R101, R114). -/
def State.waitOn (s : State) (g : Nat) (w : WaitOn) (meet : Option Nat) : State :=
  (s.setTh g { s.th g with st := .waiting, wait := w, meet := meet, promoted := false }).waitPoint g

/-- The meet-tick register of a wait. -/
def Issue.meet (i : Issue) : Option Nat := if i.dn = 15 then none else some i.dn

/-- WAITA. -/
def execBluWaita (i : Issue) (s : State) : Host.Outcome State Fault Refusal :=
  .next (s.bluIssue i (i.meetOk && wideA i.sn && i.noT && (decide (i.mn = 0) || decide (i.mn = 2)) && decide (i.xn < 16) && i.noImm)
    fun t g => .ok (t.waitOn g (.angle i.xn i.sn (decide (i.mn = 2))) i.meet))

/-- WAITT. -/
def execBluWaitt (i : Issue) (s : State) : Host.Outcome State Fault Refusal :=
  .next (s.bluIssue i (i.meetOk && wideT i.sn && i.noT && i.noM && i.noX && i.noImm)
    fun t g => .ok (t.waitOn g (.time (i.sn - 2)) i.meet))

/-- WAITS: a mask of 0 is illegal, T names a register only with M[0] = 1. -/
def execBluWaits (i : Issue) (s : State) : Host.Outcome State Fault Refusal :=
  .next (s.bluIssue i (i.meetOk && i.noS && decide (i.mn < 4) && (decide (i.mn % 2 = 1) || i.noT) && !i.noX && i.noImm)
    fun t g =>
      .ok (t.waitOn g (.signals i.xn (if i.mn % 2 = 1 then some i.tn else none) (decide (2 ≤ i.mn))) i.meet))

/-- Every field but OP is 0. -/
def Issue.bare (i : Issue) : Bool := i.noD && i.noS && i.noT && i.noM && i.noX && i.noImm

/-- FNC (R127). -/
def execBluFnc (i : Issue) (s : State) : Host.Outcome State Fault Refusal :=
  .next (s.bluIssue i i.bare fun t g => .ok (t.waitOn g .fence none))

/-- YIELD (R130). -/
def execBluYield (i : Issue) (s : State) : Host.Outcome State Fault Refusal :=
  .next (s.bluIssue i i.bare fun t g => .ok (t.yieldPoint g))

/-- HALT (R112, R130): a BUS_ERR that awaits this yield point prevails. -/
def execBluHalt (i : Issue) (s : State) : Host.Outcome State Fault Refusal :=
  .next (s.bluIssue i i.bare fun t g =>
    .ok (match (t.th g).errPend with
      | some fpc => t.threadFault g causeBusErr fpc
      | none => (t.threadEnd g .stopped).1))

/-! ## The mirror's items of threads (R409) -/

/-- A request of a thread that took effect is sent to the standby. -/
def State.mirrorReq (s : State) (g kind : Nat) (xs : List Nat) : State := s.mirror 2 (kind :: g :: xs)

/-- SIG (R129). -/
def execBluSig (i : Issue) (s : State) : Host.Outcome State Fault Refusal :=
  .next (s.bluIssue i (i.noD && i.noT && i.noM && i.noImm) fun t g =>
    let h := ((t.th g).gr i.sn).toNat % 256
    .ok (((bitsSet 8 i.xn).foldl (fun u b => u.setSignal (8 * h + b)) t).mirrorReq g 3 [h, i.xn]))

/-! ## The bus port (R126, R127, R134, R135) -/

/-- BRD: the data returns when its wait is met. -/
def execBluBrd (i : Issue) (s : State) : Host.Outcome State Fault Refusal :=
  .next (s.bluIssue i (i.noT && i.noM && i.noX) fun t g =>
    let r := t.busRead (i.address (t.th g))
    .ok (r.1.waitOn g (.bus (if r.2.1 = .ok then .word i.dn r.2.2 else .bad ((t.th g).pc - 1))) none))

/-- BRDW: two registers, low word from the lower address. -/
def execBluBrdw (i : Issue) (s : State) : Host.Outcome State Fault Refusal :=
  .next (s.bluIssue i (wideOk i.dn && i.noT && i.noM && i.noX) fun t g =>
    let a := i.address (t.th g)
    if a % 8 = 0 ∧ addrOk a ∧ addrOk (a + 4) then
      let r := t.readRegs a 2
      .ok (r.1.waitOn g (.bus (.wide i.dn (BitVec.ofNat 64 ((r.2.getD 0 0).toNat + 2 ^ 32 * (r.2.getD 1 0).toNat)))) none)
    else .ok (t.waitOn g (.bus (.bad ((t.th g).pc - 1))) none))

/-- A posted access of a thread: a status other than OK returns later (R114). -/
def State.posted (s : State) (g : Nat) (st : Status) : State :=
  if st = .ok then s else s.setTh g { s.th g with errs := (s.th g).errs ++ [(s.th g).pc - 1] }

/-- A posted write that has entered its crossing takes effect (R127). -/
def State.bwrTake (s : State) (g a : Nat) (v : Word) : State :=
  let r := s.busWrite a v
  (r.1.posted g r.2).mirrorReq g 7 [a, v.toNat]

/-- A posted capture that has entered its crossing takes effect (R134). -/
def State.captTake (s : State) (g n : Nat) : State :=
  if n < 1024 then (s.cellCapture n).mirrorReq g 4 [n] else s.posted g .range

/-- The crossing that a posted access enters is full. The spec gives no depth: a free value (log 37). -/
def State.crossingFull (s : State) : Bool := decide (s.freeNow % 2 = 1)

/-- A posted access: it enters its crossing at once, or the thread waits with kind BUS for room (R98, R101, R127). -/
def State.post (s : State) (g : Nat) (r : Ret) (take : State → State) : State :=
  if s.crossingFull then s.drawn.waitOn g (.bus r) none else take s.drawn

/-- BWR (R127). -/
def execBluBwr (i : Issue) (s : State) : Host.Outcome State Fault Refusal :=
  .next (s.bluIssue i (i.noD && i.noM && i.noX) fun t g =>
    let a := i.address (t.th g)
    let v := (t.th g).gr i.tn
    .ok (t.post g (.write a v) fun u => u.bwrTake g a v))

/-- CAPT (R134): posted as BWR is. -/
def execBluCapt (i : Issue) (s : State) : Host.Outcome State Fault Refusal :=
  .next (s.bluIssue i (i.noD && i.noT && i.noM && i.noX) fun t g =>
    let n := i.address (t.th g)
    .ok (t.post g (.capture n) fun u => u.captTake g n))

/-- POST (R135). -/
def execBluPost (i : Issue) (s : State) : Host.Outcome State Fault Refusal :=
  .next (s.bluIssue i (i.noD && i.noT && i.noM && i.noX && i.noImm) fun t g =>
    .ok (t.raise (256 + g) ((t.th g).gr i.sn).toNat))

/-! ## Requests (R131 to R136) -/

/-- A request that failed: F and the status in gD, and nothing else. -/
def State.reqFails (s : State) (g d : Nat) (st : Status) : State :=
  s.waitOn g (.bus (.request true (some d) (BitVec.ofNat 32 st.code))) none

/-- A request that succeeded, with what gD receives. -/
def State.reqDone (s : State) (g : Nat) (d : Option Nat) (w : Nat) : State :=
  s.waitOn g (.bus (.request false d (BitVec.ofNat 32 w))) none

/-- ARM (R132). -/
def execBluArm (i : Issue) (s : State) : Host.Outcome State Fault Refusal :=
  .next (s.bluIssue i (decide (i.mn < 2) && (decide (i.mn = 0) || i.noT) && i.noX) fun t0 g =>
    let x := t0.th g
    let a := i.address x
    if a % 8 ≠ 0 ∨ 65536 < a + 32 then .error causeDmemRange
    else
    let k := dmemKey (thEngine g) a
    match (List.range 4).find? fun j => decide (t0.found (k + j) (if j = 0 then i.data else .none_) = .uncorrectable) with
    | some j => .ok (t0.dmemFault g (k + j))
    | none =>
      let t := (List.range 4).foldl (fun u j => u.touchErr (thEngine g) (k + j) (if j = 0 then i.data else .none_)) t0
      let idx := if i.mn = 1 then 0xFFFFFFFF else (x.gr i.tn).toNat
      if i.mn = 0 ∧ almSize ≤ idx then .ok (t.reqFails g i.dn .range)
      else
        let body := t.dmemRead (thEngine g) a 32
        let r := t.eventArm idx body (some g)
        .ok (if r.2.1 = .ok then (r.1.mirrorReq g 0 (r.2.2 :: body.map BitVec.toNat)).reqDone g (some i.dn) r.2.2
             else r.1.reqFails g i.dn r.2.1))

/-- CANCEL (R132). -/
def execBluCancel (i : Issue) (s : State) : Host.Outcome State Fault Refusal :=
  .next (s.bluIssue i (i.noT && i.noM && i.noX && i.noImm) fun t g =>
    let arg := ((t.th g).gr i.sn).toNat
    let r := t.eventCancel arg
    .ok (if r.2.1 = .ok then (r.1.mirrorReq g 1 [arg]).reqDone g (some i.dn) r.2.2 else r.1.reqFails g i.dn r.2.1))

/-- EDGE (R133): it joins the queue of its output when its wait is met. -/
def execBluEdge (i : Issue) (s : State) : Host.Outcome State Fault Refusal :=
  .next (s.bluIssue i (wideT i.sn && decide (i.mn < 2) && decide (i.xn < 16) && i.noImm) fun t g =>
    let x := t.th g
    let step := (x.gr i.tn).toNat
    .ok (if 64 ≤ step then t.reqFails g i.dn .range
         else t.waitOn g (.bus (.edge i.dn i.xn
           { at_ := 64 * (x.wide i.sn).toNat + step, thread := g, level := decide (i.mn = 1) })) none))

/-- SNAP (R134, R244). -/
def execBluSnap (i : Issue) (s : State) : Host.Outcome State Fault Refusal :=
  .next (s.bluIssue i (i.noM && i.noX) fun t g =>
    let x := t.th g
    let n := i.address x
    let dest := (x.gr i.tn).toNat
    if dest % 8 ≠ 0 ∨ 65536 < dest + 40 then .error causeDmemRange
    else if i.data = .uncorrectable then .ok (t.dmemFault g (dmemKey (thEngine g) dest))
    else if 1024 ≤ n then .ok (t.reqFails g i.dn .range)
    else
      let r := t.cellSnapshot n
      .ok ((t.touchErr (thEngine g) (dmemKey (thEngine g) dest) i.data).waitOn g (.bus (.snap i.dn r.1 dest r.2)) none))

/-- PROD (R136, R141). -/
def State.prodOp (s : State) (g : Nat) (i : Issue) : State :=
  let x := s.th g
  let k := (x.gr i.sn).toNat
  let v := (x.gr i.tn).toNat
  let p := s.prod k
  if 65536 ≤ k then s.reqFails g i.dn .range
  else if i.mn = 0 then
    if p.st ≠ .onLane ∧ p.st ≠ .inHandoff then s.reqFails g i.dn .state
    else s.reqDone g (some i.dn) (p.words.getD i.xn 0).toNat
  else
    match updateCheck (i.mn - 1) i.xn v with
    | .ok =>
      if p.st ≠ .onLane ∧ p.st ≠ .inHandoff then s.reqFails g i.dn .state
      else ((s.setProd k (p.updated (i.mn - 1) i.xn v)).mirrorReq g 6 [i.mn, k, i.xn, v]).reqDone g none 0
    | e => s.reqFails g i.dn e

/-- PROD (R136). -/
def execBluProd (i : Issue) (s : State) : Host.Outcome State Fault Refusal :=
  .next (s.bluIssue i (decide (i.mn < 4) && decide (i.xn < 16) && (decide (i.mn ≠ 0) || i.noT) &&
      (decide (i.mn < 2) || i.noX) && i.noImm) fun t g => .ok (t.prodOp g i))

/-! ## Control flow (R121, R137) -/

/-- The thread goes on at an address. -/
def State.jump (s : State) (g a : Nat) : State := s.setTh g { s.th g with pc := a }

/-- BR: conditions 13 to 15 are reserved. -/
def execBluBr (i : Issue) (s : State) : Host.Outcome State Fault Refusal :=
  .next (s.bluIssue i (i.noD && i.noS && i.noT && decide (i.mn ≤ 12) && i.noX && i.targetOk) fun t g =>
    .ok (if ((t.th g).flags.cond i.mn).getD false then t.jump g i.imm.toNat else t))

/-- DBNZ: no flag changes. -/
def execBluDbnz (i : Issue) (s : State) : Host.Outcome State Fault Refusal :=
  .next (s.bluIssue i (i.noS && i.noT && i.noM && i.noX && i.targetOk) fun t g =>
    let v := (t.th g).gr i.dn - 1
    let u := t.setTh g ((t.th g).setGr i.dn v)
    .ok (if v ≠ 0 then u.jump g i.imm.toNat else u))

/-- Entries of the return stack (R117). -/
def stackDepth : Nat := 8

/-- CALL. -/
def execBluCall (i : Issue) (s : State) : Host.Outcome State Fault Refusal :=
  .next (s.bluIssue i (i.noD && i.noS && i.noT && i.noM && i.noX && i.targetOk) fun t g =>
    let x := t.th g
    if stackDepth ≤ x.stack.length then .error causeStackOvf
    else .ok (t.setTh g { x with stack := x.pc % imemSize :: x.stack, pc := i.imm.toNat }))

/-- RET. -/
def execBluRet (i : Issue) (s : State) : Host.Outcome State Fault Refusal :=
  .next (s.bluIssue i i.bare fun t g =>
    let x := t.th g
    match x.stack with
    | [] => .error causeStackUnf
    | a :: as => .ok (t.setTh g { x with stack := as, pc := a }))

/-- JR. -/
def execBluJr (i : Issue) (s : State) : Host.Outcome State Fault Refusal :=
  .next (s.bluIssue i (i.noD && i.noT && i.noM && i.noX && i.noImm) fun t g =>
    let a := ((t.th g).gr i.sn).toNat
    if imemSize ≤ a then .error causePcRange else .ok (t.jump g a))

/-! ## What happens to threads by itself -/

/-- WAIT_MET (R97, R98): an EDGE that joins its queue is sent to the standby (R409). -/
def State.waitRow (s : State) (g : Nat) : State :=
  let t0 := s.waitEnd g
  let t := match (s.th g).wait with
    | .bus (.write a v) => if s.waitMet g then t0.bwrTake g a v else t0
    | .bus (.capture n) => if s.waitMet g then t0.captTake g n else t0
    | _ => t0
  let u := match (s.th g).wait with
    | .bus (.edge _ j e) =>
      if s.waitMet g ∧ ¬(t.th g).flags.f then t.mirrorReq g 2 [j, e.at_, b2n e.level] else t
    | _ => t
  u.settle

/-- WAIT_MET. -/
def execWaitMet (g : Fin 256) (s : State) : Host.Outcome State Fault Refusal := .next (s.waitRow g)

/-- FORCED_YIELD. -/
def execForcedYield (g : Fin 256) (s : State) : Host.Outcome State Fault Refusal := .next ((s.forcedYield g).settle)

/-- DEADLINE_PROMOTION. -/
def execDeadlinePromotion (g : Fin 256) (s : State) : Host.Outcome State Fault Refusal := .next (s.promote g)

/-- BUS_ERR_RETURN. -/
def execBusErrReturn (g : Fin 256) (s : State) : Host.Outcome State Fault Refusal := .next ((s.busErrReturn g).settle)

/-- EDGE_PLACE. -/
def execEdgePlace (j : Fin 16) (s : State) : Host.Outcome State Fault Refusal := .next (s.edgePlaceOut j)

end Sys2Proof.Machine
end

