-- ==== Sys2Proof/Machine/CanaryIsa.lean ====
section
/-! DEFINITION. The instructions of the Canary (R453): each is the next instruction of the run in progress, and does nothing
where no run is in progress. -/

namespace Sys2Proof.Machine

/-- An instruction that writes vD. -/
def State.canWrites (s : State) (w : CanWord) (op : Nat) (f : State → Word) : State :=
  s.canIssue (w.legal op) fun t => t.setCanV w.d.toNat (f t)

/-- An instruction that sets Z and N from vS and op2. -/
def State.canCompares (s : State) (w : CanWord) (op : Nat) (z n : State → Word → Word → Bool) : State :=
  s.canIssue (w.legal op) fun t =>
    let a := t.canV w.s.toNat
    let b := t.canOp2 w
    t.canFlags (z t a b) (n t a b)

/-- CANARY_LDI (R453). -/
def execCanLdi (w : CanWord) (s : State) : Host.Outcome State Fault Refusal :=
  .next (s.canWrites w 0x01 fun _ => w.imm.signExtend 32)

/-- CANARY_LDH: the low half of vD stays. -/
def execCanLdh (w : CanWord) (s : State) : Host.Outcome State Fault Refusal :=
  .next (s.canWrites w 0x02 fun t => w.imm ++ (t.canV w.d.toNat).setWidth 16)

/-- CANARY_IN: the value sampled at the start of the run (R451); a source that a test run does not sample reads 0 (R457). -/
def execCanIn (w : CanWord) (s : State) : Host.Outcome State Fault Refusal :=
  .next (s.canWrites w 0x03 fun t => FMap.get (fun _ => 0) t.canary.sample (w.imm.toNat % 256))

/-- CANARY_ADD. -/
def execCanAdd (w : CanWord) (s : State) : Host.Outcome State Fault Refusal :=
  .next (s.canWrites w 0x04 fun t => t.canV w.s.toNat + t.canOp2 w)

/-- CANARY_SUB. -/
def execCanSub (w : CanWord) (s : State) : Host.Outcome State Fault Refusal :=
  .next (s.canWrites w 0x05 fun t => t.canV w.s.toNat - t.canOp2 w)

/-- CANARY_AND. -/
def execCanAnd (w : CanWord) (s : State) : Host.Outcome State Fault Refusal :=
  .next (s.canWrites w 0x06 fun t => t.canV w.s.toNat &&& t.canOp2 w)

/-- CANARY_OR. -/
def execCanOr (w : CanWord) (s : State) : Host.Outcome State Fault Refusal :=
  .next (s.canWrites w 0x07 fun t => t.canV w.s.toNat ||| t.canOp2 w)

/-- CANARY_XOR. -/
def execCanXor (w : CanWord) (s : State) : Host.Outcome State Fault Refusal :=
  .next (s.canWrites w 0x08 fun t => t.canV w.s.toNat ^^^ t.canOp2 w)

/-- CANARY_SHR: M[1] fills with the sign. -/
def execCanShr (w : CanWord) (s : State) : Host.Outcome State Fault Refusal :=
  .next (s.canWrites w 0x09 fun t =>
    let a := t.canV w.s.toNat
    let k := w.imm.toNat % 32
    if w.m.getLsbD 1 then a.sshiftRight k else a >>> k)

/-- CANARY_ABS: modulo 2^32, so the most negative number stays as it is. -/
def execCanAbs (w : CanWord) (s : State) : Host.Outcome State Fault Refusal :=
  .next (s.canWrites w 0x0A fun t => let a := t.canV w.s.toNat; if a.msb then -a else a)

/-- CANARY_CMP. -/
def execCanCmp (w : CanWord) (s : State) : Host.Outcome State Fault Refusal :=
  .next (s.canCompares w 0x0B (fun _ a b => decide (a = b)) fun _ a b => a.slt b)

/-- CANARY_TST: N stays. -/
def execCanTst (w : CanWord) (s : State) : Host.Outcome State Fault Refusal :=
  .next (s.canCompares w 0x0C (fun _ a b => decide (a &&& b = 0)) fun t _ _ => t.canary.n)

/-- CANARY_FILT. -/
def execCanFilt (w : CanWord) (s : State) : Host.Outcome State Fault Refusal :=
  .next (s.canWrites w 0x0D fun t =>
    let d := t.canV w.d.toNat
    d + (t.canV w.s.toNat - d).sshiftRight (w.imm.toNat % 16))

/-- CANARY_BR. -/
def execCanBr (w : CanWord) (s : State) : Host.Outcome State Fault Refusal :=
  .next (s.canIssue (w.legal 0x0E) fun t =>
    if t.canCond w.m.toNat then { t with canary := { t.canary with pc := w.imm.toNat % 256 } } else t)

/-- CANARY_WAKE. -/
def execCanWake (w : CanWord) (s : State) : Host.Outcome State Fault Refusal :=
  .next (s.canIssue (w.legal 0x0F) fun t => t.canWakeCode (w.imm.toNat % 256))

/-- CANARY_RAISE. -/
def execCanRaise (w : CanWord) (s : State) : Host.Outcome State Fault Refusal :=
  .next (s.canIssue (w.legal 0x10) fun t => t.canRaise (1792 + w.imm.toNat % 32) (t.canV w.s.toNat))

/-- CANARY_END. -/
def execCanEnd (w : CanWord) (s : State) : Host.Outcome State Fault Refusal :=
  .next (s.canIssue (w.legal 0x11) fun t => t.canEnd)

end Sys2Proof.Machine
end

