-- ==== Sys2Proof/Machine/Mirror.lean ====
section
/-! DEFINITION. What a standby does with the mirror's items and with COPY parts (R408 to R412, R417, R419, R421). -/

namespace Sys2Proof.Machine

/-! ## Items (R409) -/

/-- A record that writes TWN_CMD.SWITCH. -/
def CmdRec.switches (c : CmdRec) : Bool :=
  let at_ (k : Nat) : Bool := bitOf (leAt c.body k 4) 0
  (decide (c.opcode = 0x03) && decide (c.arg ≤ TWN_CMD) && decide (TWN_CMD < c.arg + c.body.length) && at_ (TWN_CMD - c.arg)) ||
    (decide (c.opcode = 0x04) && decide (c.arg = TWN_CMD) && at_ 0 && at_ 4)

/-- What a mirrored command does on the standby: a write of the TWN block concerns the member alone, but for the news of a
switchover; OUT_PERMIT follows the active member's; the rest has its effect. -/
def State.shadowCmd (s : State) (c : CmdRec) : State :=
  if c.writesBlock .twn then (if c.switches then s.setTwin { s.twin with switch := true } else s)
  else if c.opcode = 0x72 then s.setFlag GLB_STATUS GLB_STATUS_OUT_PERMIT (decide (c.arg = 1))
  else if c.opcode = 0x60 then (s.storeConfig c.arg c.body).1
  else if c.opcode = 0x61 then (s.recallConfig c.arg).1
  else (s.effect false false c).1

/-- The mirrored owner of a session; a NOP that releases it leaves none. -/
def State.shadowOwner (s : State) (n owner : Nat) (c : CmdRec) : State :=
  let rest := s.twin.owners.filter fun o => !decide (o.1 = n)
  s.setTwin { s.twin with owners := if c.releases then rest else rest ++ [(n, owner)] }

/-- A mirrored request of a thread (R409). -/
def State.shadowReq (s : State) (g : Nat) : ThreadReq → State
  | .arm i body => (s.eventArm (match i with
      | some k => k.val
      | none => 0xFFFFFFFF) body (some g)).1
  | .cancel arg => (s.eventCancel arg.toNat).1
  | .edge j place level => s.setEdgeQ j.val (putEdge { at_ := place.toNat, thread := g, level := level } (s.edgeQ j.val))
  | .capt n => s.cellCapture n.val
  | .sig i => s.setSignal i.val
  | .prod op index word value =>
    let k := index.toNat
    match updateCheck (op.toNat - 1) word.toNat value.toNat with
    | .ok => s.setProd k ((s.prod k).updated (op.toNat - 1) word.toNat value.toNat)
    | _ => s
  | .bwr a v => (s.busWrite a.toNat v).1

/-- A serial number that the active member has issued: the partner's block stands one number further. -/
def State.shadowSerial (s : State) (m : MirrorSerial) : State :=
  let x := s.gen m.gen
  let y : SerialGen :=
    match x.cur with
    | some (_, last) => if last ≤ m.number then { x with cur := x.ahead, ahead := none } else { x with cur := some (m.number + 1, last) }
    | none => x
  { (s.setGen m.gen y) with serialsIn := s.serialsIn ++ [m] }

/-- A block that the active member has reserved stands in this journal too (R177, R419). -/
def State.shadowBlock (s : State) (g first last : Nat) : State :=
  let x := s.gen g
  let y : SerialGen := { x with hwm := Nat.max x.hwm last }
  s.setGen g (if y.cur.isNone then { y with cur := some (first, last) } else { y with ahead := some (first, last) })

/-- A handoff of the active member has ended (R157). -/
def State.shadowDeparture (s : State) (pid : Nat) (failed : Bool) : State :=
  match s.handoffs.find? fun h => decide (h.pid = pid) with
  | some h => s.handoffEnd h failed
  | none => s

/-- A product that the active member has received from a handoff (R156). -/
def State.shadowArrival (s : State) (lane : Nat) (p : Product) : State :=
  if s.pidsSeen.contains p.pid then s
  else
    match s.takeRecord with
    | none => s
    | some (t, i) =>
      let u := t.putOn lane i p
      ({ u with pidsSeen := (u.pidsSeen ++ [p.pid]).drop (u.pidsSeen.length + 1 - pidMemory) } : State).skipStations lane i

/-- The state of a thread as the mirror delivers it (R409). -/
def State.shadowThread (s : State) (g : Nat) (x : Thread) (signals : Nat) (words : List (Nat × BitVec 64)) : State :=
  let t := (s.setTh g x).setFld (BLU_T_SIG (thEngine g) (thNumber g)) BLU_T_SIG_SIG signals
  { t with dmem := words.foldl (fun m w => memWriteAll m (8 * (w.1 % 131072)) (leBytes 8 w.2.toNat)) t.dmem }

/-- One item applied (R409). -/
def State.applyItem (s : State) : MirrorItem → State
  | .command n owner c st =>
    let t := s.shadowOwner n.val owner.toNat c
    if c.releases then t else if st = .ok ∨ c.opcode = 0x03 then t.shadowCmd c else t
  | .txn n owner cs =>
    cs.foldl (fun t c => (t.shadowOwner n.val owner.toNat c).shadowCmd c) s
  | .request g r => s.shadowReq g.val r
  | .serial m => s.shadowSerial m
  | .reservation g first last => s.shadowBlock g.val first last
  | .departure pid failed => s.shadowDeparture pid.toNat failed
  | .arrival _ _ lane _ p => s.shadowArrival lane.val p
  | .thread g x signals words => s.shadowThread g.val x signals.toNat words
  | .digests _ => s

/-- ITEM (R409, R411, R412): the next frame in sequence, applied in the order of sending. What the shadow writes to
outputs, and its own transactions, follow. -/
def State.itemIn (s : State) (q : Nat) (i : MirrorItem) : State :=
  if s.twinEn ∧ s.standby then ((s.seqArrive q).applyItem i).settle else s

/-! ## Copies (R410, R412, R421) -/

/-- A copy of a shaft's descriptors or a lane's records has come: it counts where the last epochs differed. -/
def State.resynced (s : State) (k : Nat) : State :=
  let bad := bitOf s.twin.differ k
  let clear (m : Nat) : Nat := if bitOf m k then m - 2 ^ k else m
  let t := s.setTwin { s.twin with wanted := clear s.twin.wanted, differ := clear s.twin.differ }
  if bad then (t.count TWN_CNT0 TWN_CNT0_DIVERGE 1).raise 27 k else t

/-- The descriptors of a shaft overwritten. -/
def State.copyEventsIn (s : State) (n : Nat) (es : List (Nat × AlmEvent)) : State :=
  let t : State := { s with events := s.events.filter fun e => !decide (e.2.desc.shaft = n) }
  es.foldl (fun u e => u.setEvent e.1 e.2) t

/-- The records of a lane overwritten. -/
def State.copyRecordsIn (s : State) (n : Nat) (ps : List (Nat × Product)) : State :=
  let t : State := { s with products := s.products.filter fun e => !(decide (e.2.lane = n) && decide (e.2.st ≠ .retired)) }
  let u := ps.foldl (fun v p => v.setProd p.1 p.2) t
  let top := ps.foldl (fun k p => Nat.max k (p.1 + 1)) u.prodFresh
  let fresh := (List.range (top - u.prodFresh)).map fun i => u.prodFresh + i
  let free := (u.prodFree ++ fresh ++ (s.lane n).prods).filter fun i => !ps.any fun p => decide (p.1 = i)
  ({ u with prodFresh := top, prodFree := free } : State).setLane n
    { u.lane n with prods := (ps.filter fun p => decide (p.2.st = .onLane)).map (·.1) }

/-- One part overwrites what it names. -/
def State.applyCopy (s : State) : CopyPart → State
  | .events n es => (s.copyEventsIn n.val (es.map fun e => (e.1.val, e.2))).resynced n.val
  | .records n ps => (s.copyRecordsIn n.val (ps.map fun p => (p.1.val, p.2))).resynced (16 + n.val)
  | .registers ws =>
    ws.foldl (fun t w =>
      if blockOf w.1.toNat = some .twn ∨ blockOf w.1.toNat = some .glb ∨ blockOf w.1.toNat = some .fab then t
      else t.setRg w.1.toNat w.2) s
  | .imem ws => { s with imem := ws.foldl (fun m w => FMap.set (fun _ => 0) m w.1.val w.2) s.imem }
  | .dmem bs => { s with dmem := bs.foldl (fun m b => memWrite m b.1.val b.2) s.dmem }
  | .thread g x => s.setTh g.val x
  | .pool first bs => { s with pool := memWriteAll s.pool first.val bs }
  | .done => s.setTwin { s.twin with joined := true }

/-- COPY (R410, R411, R421). -/
def State.copyIn (s : State) (q : Nat) (p : CopyPart) : State :=
  if s.twinEn ∧ s.standby then (s.seqArrive q).applyCopy p else s

end Sys2Proof.Machine
end

