-- ==== Sys2Proof/Machine/Frames.lean ====
section
/-! DEFINITION. Frames as they arrive (R376, R378 to R392, R399, R402, R411, R498): checks, delivery, forwarding. -/

namespace Sys2Proof.Machine

/-! ## The header (R379) -/

/-- The header of a frame with its body. -/
structure Header where
  version : Nat
  kind : Nat
  hops : Nat
  dest : Nat
  src : Nat
  tc : Nat
  dateline : Bool
  retry : Bool
  reserved : Bool
  session : Nat
  len : Nat
  seq : Nat
  body : List Byte
  crcOk : Bool
  deriving DecidableEq, Repr

/-- The header at the start of the bytes of a frame. -/
def Header.ofBytes (bs : List Byte) : Header :=
  let n := leAt bs 8 2
  let f := leAt bs 6 1
  { version := leAt bs 0 1 / 16, kind := leAt bs 0 1 % 16, hops := leAt bs 1 1, dest := leAt bs 2 2, src := leAt bs 4 2,
    tc := f % 4, dateline := bitOf f 2, retry := bitOf f 3, reserved := decide (f / 16 ≠ 0) || decide (leAt bs 12 4 ≠ 0),
    session := leAt bs 7 1, len := n, seq := leAt bs 10 2, body := (bs.drop 16).take n,
    crcOk := decide (leAt bs (16 + n) 4 = crc32c (bs.take (16 + n))) }

/-- The classes that a kind travels in (R380). -/
def kindClasses (k : Nat) : List Nat :=
  if k = 0 ∨ k = 1 then [2, 3]
  else if k = 2 ∨ k = 6 ∨ k = 9 then [2]
  else if k = 3 ∨ k = 7 then [1]
  else [0]

/-- Why a frame is discarded (R381, in its order). -/
inductive Discard where
  | crc | format
  deriving DecidableEq, Repr

/-- The checks of R381. -/
def FrameIn.check (f : FrameIn) (h : Header) : Option Discard :=
  if ¬f.fcsOk then some .crc
  else if f.bytes.length < 16 ∨ h.version ≠ 2 ∨ 10 ≤ h.kind then some .format
  else if 1480 < h.len ∨ f.bytes.length < 16 + h.len + 4 then some .format
  else if ¬h.crcOk then some .crc
  else if ¬(kindClasses h.kind).contains h.tc ∨ h.reserved then some .format
  else none

/-- A discard counted and raised (R381, R403). -/
def State.discarded (s : State) : Discard → State
  | .crc => (s.count FAB_CNT0 FAB_CNT0_CRC_ERR 1).raise 22 1
  | .format => (s.count FAB_CNT0 FAB_CNT0_FORMAT 1).raise 22 2

/-- A frame in the engine's own terms, as it would leave port `p`. -/
def Header.frame (h : Header) (p hops : Nat) (dateline : Bool) : Frame :=
  { port := p, kind := h.kind, hops := hops, dest := h.dest, src := h.src, tc := h.tc, dateline := dateline, retry := h.retry,
    session := h.session, seq := h.seq, body := h.body }

/-! ## Routes, conflicts, sequence (R384, R386, R392, R418) -/

/-- The route learned from an arrival. -/
def State.learn (s : State) (p src hops : Nat) : State :=
  if src = 0 ∨ src = s.addr then s
  else
    let r := FMap.get (fun _ => Route.init) s.fab.routes src
    let r' : Route := if p = 0 then { r with l0 := some hops, last := 0 } else { r with l1 := some hops, last := 1 }
    { s with fab := { s.fab with routes := FMap.set (fun _ => Route.init) s.fab.routes src r' } }

/-- A frame whose SRC is the engine's own address (R386). -/
def State.conflict (s : State) (src : Nat) : State :=
  if src = 0 ∨ src ≠ s.addr then s
  else if s.addrLocked then (s.count FAB_CNT1 FAB_CNT1_CONFLICT 1).faultEvent fltAddrConflict 0 1 s.addr
  else s.enterQuarantine

/-- SEQ of a TC2 or TC3 frame that a host sends to this engine (R392). -/
def State.noteSeq (s : State) (h : Header) : State :=
  if ¬isHost h.src ∨ h.tc < 2 then s
  else
    let k := h.src * 4 + h.tc
    let old := FMap.get (fun _ => 0) s.fab.seqIn k
    let t : State := { s with fab := { s.fab with seqIn := FMap.set (fun _ => 0) s.fab.seqIn k (h.seq + 1) } }
    if old = 0 ∨ old % 65536 = h.seq then t else t.count FAB_CNT1 FAB_CNT1_SEQ_GAP 1

/-- The frame has crossed the dateline (R390), here or before. -/
def State.crosses (s : State) (p : Nat) (h : Header) : Bool := h.dateline || s.crossesFrom p h.src

/-- A record of a handoff (R399). -/
def productOfBytes (bs : List Byte) : Product :=
  let w (i : Nat) : Nat := leAt bs (4 * i) 4
  let st : ProdState := if bitsOf (w 0) 21 20 = 1 then .onLane else if bitsOf (w 0) 21 20 = 2 then .inHandoff
    else if bitsOf (w 0) 21 20 = 3 then .retired else .free
  { st := st, lane := bitsOf (w 0) 19 16, flags := w 0 % 65536, pid := w 1, anchor := signed 64 (leAt bs 8 8),
    entryTick := leAt bs 16 8, entryLane := bitsOf (w 6) 27 24, hops := bitsOf (w 6) 23 16, slot := w 6 % 65536,
    attr := BitVec.ofNat 32 (w 7), inspect := BitVec.ofNat 32 (w 8), verdictStn := bitsOf (w 9) 13 8, verdict := w 9 % 256,
    serial := leAt bs 40 8, rlane := bitsOf (w 12) 10 8, template := w 12 % 64, lastValid := bitOf (w 13) 16,
    lastStn := bitsOf (w 13) 15 8, failed := w 13 % 256, user0 := BitVec.ofNat 32 (w 14), user1 := BitVec.ofNat 32 (w 15),
    fired := 0, passed := 0 }

/-- HANDOFF frames (R399). -/
def State.handoffIn (s : State) (h : Header) : State :=
  if leAt h.body 0 1 = 0 ∧ h.body.length = 76 then
    s.handoffArrive h.src h.seq (leAt h.body 1 1 % 16) (signed 64 (leAt h.body 4 8)) (productOfBytes (h.body.drop 12))
  else if leAt h.body 0 1 = 1 ∧ h.body.length = 10 then
    s.handoffAcked (decide (leAt h.body 1 1 = 1)) (leAt h.body 4 4) (leAt h.body 8 2)
  else s

/-- The entries of a LINESHAFT body (R397). -/
def lineEntries : Nat → List Byte → List LineEntry
  | 0, _ => []
  | k + 1, bs =>
    let f := leAt bs 1 1
    { shaft := ⟨leAt bs 0 1 % 16, Nat.mod_lt _ (by decide)⟩, angValid := bitOf f 0, dir := bitOf f 1, spdValid := bitOf f 2,
      still := bitOf f 3, speed := BitVec.ofNat 32 (leAt bs 4 4), angle := BitVec.ofNat 64 (leAt bs 8 8) } ::
      lineEntries k (bs.drop 16)

/-- LINESHAFT frames (R397). -/
def State.lineIn (s : State) (h : Header) : State :=
  let k := leAt h.body 0 1
  if 1 ≤ k ∧ k ≤ 16 ∧ h.body.length = 12 + 16 * k then
    s.lineReceive h.src (bitOf (leAt h.body 1 1) 0) (leAt h.body 4 8 : Int) (lineEntries k (h.body.drop 12))
  else s

/-- TIME frames other than SYNC (R410, R418). -/
def State.confirmIn (s : State) (h : Header) : State :=
  let pair := leAt h.body 4 2
  match leAt h.body 0 1 with
  | 1 => s.probeIn pair
  | 2 => s.aliveIn pair
  | 3 => s.takeoverIn pair
  | _ => s

/-- ENUM frames but for ENUMERATE (R387). -/
def State.enumIn (s : State) (h : Header) : State :=
  match leAt h.body 0 1 with
  | 2 => s.discover h.src
  | 4 => s.assign h.src (leAt h.body 2 2) (leAt h.body 8 8)
  | _ => s

/-- LINK_CTL frames (R384, R389, R393, R498). -/
def State.linkIn (s : State) (f : FrameIn) (h : Header) : State :=
  let p := f.port.val
  if leAt h.body 0 1 = 0x10 then s.linkReset p (leAt h.body 2 2) (leAt h.body 4 8)
  else
    match f.spelled with
    | .link .pdelayReq => s.pdelayReq p f.residence.toNat
    | .link (.pdelayResp r) => s.pdelayResp p f.step.toNat r.toNat
    | .link (.credit c) => s.creditIn p c
    | .link .ringBreak => s.ringBreak
    | .link .ringClose => s.ringClose
    | _ => s

/-- A frame delivered on L0 or L1. A quarantined engine answers only DISCOVER and acts on ASSIGN, and its line functions
run on (R386); commands, handoffs and WAKE_CTL frames are addressed to one engine (R380). -/
def State.deliver (s : State) (f : FrameIn) (h : Header) : State :=
  let own := decide (h.dest ≠ broadcast)
  match h.kind with
  | 0 => if own then s.commandFrame h.src h.session h.body else s
  | 3 => if own then s.handoffIn h else s
  | 4 => s.lineIn h
  | 5 => if leAt h.body 0 1 = 0 then s else s.confirmIn h
  | 6 => s.enumIn h
  | 8 => s.linkIn f h
  | 9 => if own then s.wakeCtl h.src (leAt h.body 2 2) (leAt h.body 4 1) else s
  | _ => s

/-! ## Receipt on L0 and L1 (R382, R383, R385) -/

/-- The frame is addressed to this engine alone (R383, R386, R407). -/
def State.ownDest (s : State) (d : Nat) : Bool :=
  (decide (d ≠ 0) && decide (d = s.addr) && !s.quarantined) || (s.twinEn && s.twinActive && decide (d = s.pairAddr))

/-- A frame forwarded out of the other of L0 and L1, or discarded where its HOPS are used up. -/
def State.forwardOn (s : State) (p : Nat) (h : Header) (dl : Bool) : State :=
  if h.hops = 0 then
    ((s.count FAB_CNT1 FAB_CNT1_HOP_DROP 1).raise 22 4).freeUnits p (h.frame p 0 dl)
  else s.put (1 - p) { frame := h.frame (1 - p) (h.hops - 1) dl, from_ := some p }

/-- A TIME SYNC frame (R394): 22 bytes with SUB = 0. -/
def Header.isSync (h : Header) : Bool := decide (h.kind = 5) && decide (leAt h.body 0 1 = 0)

/-- ENUMERATE (R385). -/
def Header.isEnumerate (h : Header) : Bool := decide (h.kind = 6) && decide (leAt h.body 0 1 = 0)

/-- An accepted frame on L0 or L1. -/
def State.accepted (s0 : State) (f : FrameIn) (h : Header) : State :=
  let p := f.port.val
  let dl := s0.crosses p h
  let s1 := (s0.learn p h.src h.hops).conflict h.src
  let s := if s1.twinEn ∧ s1.twinActive then s1.takeoverIn h.src else s1
  if h.isEnumerate then
    let t := s.freeUnits p (h.frame p 0 dl)
    if p = 0 then t.enumerate h.src (leAt h.body 2 2) (leAt h.body 4 2) else t
  else if h.isSync then
    if h.body.length = 22 then
      s.sync p h.hops h.src h.seq (leAt h.body 4 8) (leAt h.body 12 2) (signed 64 (leAt h.body 14 8)) f.step.toNat
        f.residence.toNat dl
    else s
  else if h.dest = broadcast then
    let t := s.deliver f h
    if h.hops = 0 ∨ h.src = s.addr then t.freeUnits p (h.frame p 0 dl) else t.forwardOn p h dl
  else if s.ownDest h.dest then (((s.noteSeq h).deliver f h).freeUnits p (h.frame p 0 dl))
  else s.forwardOn p h dl

/-! ## Receipt on T (R376, R411) -/

/-- A HEARTBEAT's body (R411). -/
def heartBeatOf (h : Header) : HeartBeat :=
  let f := leAt h.body 1 1
  { dest := BitVec.ofNat 16 h.dest, member := bitOf f 0, role := BitVec.ofNat 2 (f / 2), yield_ := bitOf f 3, inSync := bitOf f 4,
    time := BitVec.ofNat 64 (leAt h.body 4 8), seq := BitVec.ofNat 32 (leAt h.body 12 4) }

/-- A frame on T that is discarded. -/
def State.discardT (s : State) : State := s.count (FAB_P_CNT 2) FAB_P_CNT_DISCARD 1

/-- The 32-bit words of a body from a byte on. -/
def wordsFrom (bs : List Byte) (i n : Nat) : List Nat := (List.range n).map fun k => leAt bs (i + 4 * k) 4

/-- A MIRROR frame (R411); one that breaks the layout is discarded. -/
def State.mirrorIn (s : State) (f : FrameIn) (h : Header) : State :=
  let b := h.body
  let q := leAt b 2 2
  match leAt b 0 1, f.spelled with
  | 0, _ => if b.length = 16 ∧ leAt b 1 1 < 32 ∧ q = 0 then s.heartbeat (heartBeatOf h) else s.discardT
  | 1, .item i => s.itemIn q i
  | 2, _ => if b.length = 136 then s.epochIn q (leAt b 4 4) (wordsFrom b 8 32) else s.discardT
  | 3, _ => if b.length = 12 then s.epochAckIn q (leAt b 8 2) (leAt b 10 2) else s.discardT
  | 4, _ => if b.length = 5 ∧ leAt b 4 1 < 32 then s.resyncReq (leAt b 4 1 % 16) (bitOf (leAt b 4 1) 4) else s.discardT
  | 5, .copy p => s.copyIn q p
  | _, _ => s.discardT

/-- An accepted frame on T: MIRROR frames and link-delay frames alone. -/
def State.acceptedT (s : State) (f : FrameIn) (h : Header) : State :=
  if h.kind = 7 then s.mirrorIn f h
  else if h.kind = 8 then
    match f.spelled with
    | .link .pdelayReq => s.linkIn f h
    | .link (.pdelayResp _) => s.linkIn f h
    | _ => s.discardT
  else s.discardT

/-- The links carry nothing: in Watch and Off. -/
def State.linksAsleep (s : State) : Bool := decide (s.power = .watch) || decide (s.power = .off)

/-- FRAME_RECEIVE (R376, R378, R381, R383, R388): a tagged frame is discarded; a TC0 frame that finds its buffer full is
dropped. -/
def State.frameIn (s : State) (f : FrameIn) : State :=
  let h := Header.ofBytes f.bytes
  if s.linksAsleep ∨ f.tagged then s
  else
    match f.check h with
    | some d => s.discarded d
    | none =>
      if h.tc = 0 ∧ ¬f.room then (s.count (FAB_P_CNT f.port.val) FAB_P_CNT_TC0_DROP 1).raise 22 8
      else if f.port.val = 2 then s.acceptedT f h
      else s.accepted f h

end Sys2Proof.Machine
end

