-- ==== Sys2Proof/Machine/Rows.lean ====
section
/-! DEFINITION. What the commands of the table share: an event of a powered unit, a register write, a read with its side
effects, a command record. -/

namespace Sys2Proof.Machine

/-- The scaled islands have power and their clocks: the engine is neither in Watch nor off (R430). -/
def State.awake (s : State) : Bool := decide (s.power = .run) || decide (s.power = .doze)

/-- An event of a unit that Watch and Off leave without power: nothing happens there. -/
def State.inRun (s : State) (f : State → State) : State := if s.awake then f s else s

/-- A register write (R9) with what follows from it; its status stands in the completion. -/
def State.regWrite (s : State) (a : Nat) (m v : Word) : State :=
  s.inRun fun s =>
    let r := s.writeReg true a m v
    r.1.done r.2 0 []

/-- A register written whole, with one flag set. -/
def State.regEnable (s : State) (a : Nat) (f : Fld) (v : Word) : State := s.regWrite a 0xFFFFFFFF (v.setF f 1)

/-- One flag of a register cleared. -/
def State.regDisable (s : State) (a : Nat) (f : Fld) : State := s.regWrite a f.mask 0

/-- A 1 written to one flag of a register. -/
def State.regAct (s : State) (a : Nat) (f : Fld) : State := s.regWrite a f.mask f.mask

/-- A write by a host, or over the bus port of a thread (R9, R95). -/
def State.regWriteBy (s : State) (bus : Bool) (a : Nat) (v : Word) : State :=
  s.inRun fun s =>
    let r := if bus then s.busWrite a v
      else match addrCheck a with
        | .ok => s.writeReg true a 0xFFFFFFFF v
        | e => (s, e)
    r.1.done r.2 0 []

/-- `n` registers read from `a` with their side effects (R334); the data stand in the completion. -/
def State.regRead (s : State) (a n : Nat) : State :=
  s.inRun fun s =>
    let r := s.readRegs a n
    r.1.done .ok 0 (bytesOfWords r.2)

/-- A command record that reaches its session (R321 to R333). -/
def State.command (s : State) (h : CmdHead) (opcode : Nat) (arg : BitVec 32) (body : List Byte) : State :=
  s.acceptRecord h.session.val h.src.toNat (h.record opcode arg.toNat body)

/-- An event line takes a level (R143, R274): its edge feeds the lanes whose sensor it is. -/
def State.eventLine (s : State) (i : Nat) (pin : Bool) : State :=
  let r := s.lineAccept i pin
  if r.2 then (s.sensorLanes i (s.lineLevel i pin)).foldl (fun t n => t.sensorEntry n) r.1 else r.1

/-- A body of words. -/
def wordBody (ws : List Word) : List Byte := bytesOfWords ws

end Sys2Proof.Machine
end

