-- ==== Sys2Proof/Machine/AdcRows.lean ====
section
/-! DEFINITION. The converters (R286 to R299): the meaning of each command. -/

namespace Sys2Proof.Machine

/-- REG_TRIG (R288). -/
def execRegTrig (n : Fin 4) (s : State) : Host.Outcome State Fault Refusal :=
  .next (s.regAct (ADC_C_CMD n) ADC_C_CMD_REG_TRIG)

/-- INJ_TRIG (R288). -/
def execInjTrig (n : Fin 4) (s : State) : Host.Outcome State Fault Refusal :=
  .next (s.regAct (ADC_C_CMD n) ADC_C_CMD_INJ_TRIG)

/-- FLUSH (R293). -/
def execFlush (n : Fin 4) (s : State) : Host.Outcome State Fault Refusal :=
  .next (s.regAct (ADC_C_CMD n) ADC_C_CMD_FLUSH)

/-- SEQUENCE_DELAY_EXPIRY (R289). -/
def execSequenceDelayExpiry (c : Fin 4) (injected : Bool) (s : State) : Host.Outcome State Fault Refusal :=
  .next (s.inRun fun s => s.adcDelayExpiry c injected)

/-- HOLD_EDGE (R286, R287). The value at the input at the hold edge, in 10^-9 of the unit of the input's mode. -/
def execHoldEdge (c : Fin 4) (injected : Bool) (value : Int) (s : State) : Host.Outcome State Fault Refusal :=
  .next (s.inRun fun s => s.adcHold c injected value)

/-- CONVERSION_END (R287). -/
def execConversionEnd (c : Fin 4) (injected : Bool) (s : State) : Host.Outcome State Fault Refusal :=
  .next (s.inRun fun s => s.adcConvEnd c injected)

/-- RESULT_ENTRY (R292). -/
def execResultEntry (c : Fin 4) (s : State) : Host.Outcome State Fault Refusal :=
  .next (s.inRun fun s => s.adcEnter c)

/-- ADC_DEADLINE (R291). -/
def execAdcDeadline (c : Fin 4) (s : State) : Host.Outcome State Fault Refusal :=
  .next (s.inRun fun s => s.adcDeadline c)

/-- FIFO_READ (R293). -/
def execFifoRead (c : Fin 4) (s : State) : Host.Outcome State Fault Refusal :=
  .next (s.regRead (ADC_C_FIFO c 0) 4)

/-- ADC_ENABLE (R296). -/
def execAdcEnable (n : Fin 4) (v : Word) (s : State) : Host.Outcome State Fault Refusal :=
  .next (s.regEnable (ADC_C_CFG n) ADC_C_CFG_EN v)

/-- ADC_DISABLE (R296). -/
def execAdcDisable (n : Fin 4) (s : State) : Host.Outcome State Fault Refusal :=
  .next (s.regDisable (ADC_C_CFG n) ADC_C_CFG_EN)

end Sys2Proof.Machine
end

