-- ==== Sys2Proof/Machine/CanaryRows.lean ====
section
/-! DEFINITION. The Canary beside its instructions (R446 to R458): the meaning of each command. -/

namespace Sys2Proof.Machine

/-- CANARY_EDGE (R447). The levels its filters accept, those of the direction pins, and whether the change before lies
less than 250 ns back. -/
def execCanaryEdge (n : Fin 4) (a : Bool) (b : Bool) (dirX : Bool) (dirA : Bool) (fast : Bool)
    (s : State) : Host.Outcome State Fault Refusal :=
  .next (s.canEdge n a b dirX dirA fast)

/-- CANARY_RUN (R450). -/
def execCanaryRun (i : CanInputs) (s : State) : Host.Outcome State Fault Refusal :=
  .next (s.canRun i)

/-- CANARY_TEST (R457). -/
def execCanaryTest (s : State) : Host.Outcome State Fault Refusal :=
  .next (s.regAct CAN_TEST CAN_TEST_STEP)

/-- CANARY_LOAD (R456). -/
def execCanaryLoad (h : CmdHead) (arg : BitVec 32) (body : List Byte)
    (s : State) : Host.Outcome State Fault Refusal :=
  .next (s.command h 0x58 arg body)

end Sys2Proof.Machine
end

