-- ==== Sys2Proof/Machine/CellRows.lean ====
section
/-! DEFINITION. The timer cells (R235 to R250): the meaning of each command. -/

namespace Sys2Proof.Machine

/-- CELL_STEP (R235). -/
def execCellStep (n : Fin 1024) (s : State) : Host.Outcome State Fault Refusal :=
  .next (s.inRun fun s => s.cellStep n)

/-- PERIOD_RESTART (R238). -/
def execPeriodRestart (n : Fin 1024) (s : State) : Host.Outcome State Fault Refusal :=
  .next (s.inRun fun s => s.cellRestart n)

/-- PASSED_COMPARE_MATCH (R239). -/
def execPassedCompareMatch (n : Fin 1024) (s : State) : Host.Outcome State Fault Refusal :=
  .next (s.inRun fun s => s.cellPassed n)

/-- CELL_ENABLE (R235). -/
def execCellEnable (n : Fin 1024) (v : Word) (s : State) : Host.Outcome State Fault Refusal :=
  .next (s.regEnable (TMC_CFG n) TMC_CFG_EN v)

/-- CELL_DISABLE (R247). -/
def execCellDisable (n : Fin 1024) (s : State) : Host.Outcome State Fault Refusal :=
  .next (s.regDisable (TMC_CFG n) TMC_CFG_EN)

/-- CELL_COUNT_WRITE (R238). -/
def execCellCountWrite (n : Fin 1024) (v : Word) (s : State) : Host.Outcome State Fault Refusal :=
  .next (s.regWrite (TMC_COUNT n) 0xFFFFFFFF v)

/-- CELL_PERIOD_WRITE (R237). -/
def execCellPeriodWrite (n : Fin 1024) (v : Word) (s : State) : Host.Outcome State Fault Refusal :=
  .next (s.regWrite (TMC_PERIOD n) 0xFFFFFFFF v)

/-- CELL_COMPARE_WRITE (R239). -/
def execCellCompareWrite (n : Fin 1024) (v : Word) (s : State) : Host.Outcome State Fault Refusal :=
  .next (s.regWrite (TMC_COMPARE n) 0xFFFFFFFF v)

/-- CAPTURE (R240). -/
def execCapture (n : Fin 1024) (s : State) : Host.Outcome State Fault Refusal :=
  .next (s.regAct (TMC_CMD n) TMC_CMD_CAPTURE)

/-- CAP_READ (R241). -/
def execCapRead (n : Fin 1024) (s : State) : Host.Outcome State Fault Refusal :=
  .next (s.regRead (TMC_CAP n) 1)

/-- SNAPSHOT (R337). -/
def execSnapshot (h : CmdHead) (arg : BitVec 32) (body : List Byte) (s : State) : Host.Outcome State Fault Refusal :=
  .next (s.command h 0x05 arg body)

end Sys2Proof.Machine
end

