-- ==== Sys2Proof/Machine/EventRows.lean ====
section
/-! DEFINITION. The Almanac (R68 to R90): the meaning of each command. -/

namespace Sys2Proof.Machine

/-- EVENT_ARM (R87). -/
def execEventArm (h : CmdHead) (arg : BitVec 32) (body : List Byte) (s : State) : Host.Outcome State Fault Refusal :=
  .next (s.command h 0x10 arg body)

/-- EVENT_CANCEL (R88). -/
def execEventCancel (h : CmdHead) (arg : BitVec 32) (body : List Byte)
    (s : State) : Host.Outcome State Fault Refusal :=
  .next (s.command h 0x11 arg body)

/-- EVENT_QUERY (R89). -/
def execEventQuery (h : CmdHead) (arg : BitVec 32) (body : List Byte)
    (s : State) : Host.Outcome State Fault Refusal :=
  .next (s.command h 0x12 arg body)

/-- EVENT_START (R73). -/
def execEventStart (i : Fin 16384) (s : State) : Host.Outcome State Fault Refusal :=
  .next (s.inRun fun s => s.almEventStart i)

/-- EVENT_END (R74). -/
def execEventEnd (i : Fin 16384) (s : State) : Host.Outcome State Fault Refusal :=
  .next (s.inRun fun s => s.almEventEnd i)

end Sys2Proof.Machine
end

