-- ==== Sys2Proof/Machine/FabricRows.lean ====
section
/-! DEFINITION. The fabric (R376 to R404): the meaning of each command. -/

namespace Sys2Proof.Machine

/-- FRAME_RECEIVE (R383). -/
def execFrameReceive (f : FrameIn) (s : State) : Host.Outcome State Fault Refusal :=
  .next (s.frameIn f)

/-- LINK_UP (R377). The rate the link trained at, and whether a host is the partner. -/
def execLinkUp (p : Fin 3) (rate : BitVec 2) (host : Bool) (s : State) : Host.Outcome State Fault Refusal :=
  .next (s.inRun fun s => s.linkRises p rate.toNat host)

/-- LINK_DOWN (R377). -/
def execLinkDown (p : Fin 3) (s : State) : Host.Outcome State Fault Refusal :=
  .next (s.inRun fun s => s.linkFalls p)

/-- BREAK (R384). -/
def execRingBreak (s : State) : Host.Outcome State Fault Refusal :=
  .next (s.inRun fun s => s.ringBreak)

/-- CLOSE (R384). -/
def execRingClose (s : State) : Host.Outcome State Fault Refusal :=
  .next (s.inRun fun s => s.ringClose)

/-- CLOSE_HOLD_END (R384). -/
def execCloseHoldEnd (p : Fin 3) (s : State) : Host.Outcome State Fault Refusal :=
  .next (s.inRun fun s => s.closeHoldEnd p)

/-- CREDIT (R389). -/
def execCredit (p : Fin 2) (c : Credits) (s : State) : Host.Outcome State Fault Refusal :=
  .next (s.inRun fun s => s.creditIn p c)

/-- CREDIT_ADVERTISE (R389). -/
def execCreditAdvertise (s : State) : Host.Outcome State Fault Refusal :=
  .next (s.inRun fun s => s.creditOut)

/-- ENUMERATE (R385). -/
def execEnumerate (src : BitVec 16) (next : BitVec 16) (pos : BitVec 16)
    (s : State) : Host.Outcome State Fault Refusal :=
  .next (s.inRun fun s => s.enumerate src.toNat next.toNat pos.toNat)

/-- DISCOVER (R387). -/
def execDiscover (src : BitVec 16) (s : State) : Host.Outcome State Fault Refusal :=
  .next (s.inRun fun s => s.discover src.toNat)

/-- ASSIGN (R387). -/
def execAssign (src : BitVec 16) (a : BitVec 16) (uid : BitVec 64) (s : State) : Host.Outcome State Fault Refusal :=
  .next (s.inRun fun s => s.assign src.toNat a.toNat uid.toNat)

/-- SYNC (R394). ORIGIN and its fraction, the correction, the vernier step of the arrival and the residence in 2^-16
ns. -/
def execSync (p : Fin 2) (hops : BitVec 8) (src : BitVec 16) (seq : BitVec 16) (origin : BitVec 64)
    (frac : BitVec 16) (corr : BitVec 64) (step : BitVec 6) (residence : BitVec 32)
    (s : State) : Host.Outcome State Fault Refusal :=
  .next (s.inRun fun s =>
    s.sync p hops.toNat src.toNat seq.toNat origin.toNat frac.toNat corr.toInt step.toNat residence.toNat
      (s.crossesFrom p src.toNat))

/-- SYNC_TIMEOUT (R395). -/
def execSyncTimeout (s : State) : Host.Outcome State Fault Refusal :=
  .next (s.inRun fun s => s.syncTimeout)

/-- PDELAY_MEASURE (R393). -/
def execPdelayMeasure (s : State) : Host.Outcome State Fault Refusal :=
  .next (s.inRun fun s => s.pdelayMeasure)

/-- PDELAY_REQ (R393). -/
def execPdelayReq (p : Fin 3) (residence : BitVec 32) (s : State) : Host.Outcome State Fault Refusal :=
  .next (s.inRun fun s => s.pdelayReq p residence.toNat)

/-- PDELAY_RESP (R393). -/
def execPdelayResp (p : Fin 3) (step : BitVec 6) (residence : BitVec 32)
    (s : State) : Host.Outcome State Fault Refusal :=
  .next (s.inRun fun s => s.pdelayResp p step.toNat residence.toNat)

/-- WAKE_TOKEN (R401). -/
def execWakeToken (p : Fin 2) (a : BitVec 16) (reason : BitVec 8) (s : State) : Host.Outcome State Fault Refusal :=
  .next (s.wakeTokenIn p a.toNat reason.toNat)

/-- WAKE_CTL (R402). -/
def execWakeCtl (src : BitVec 16) (a : BitVec 16) (reason : BitVec 8)
    (s : State) : Host.Outcome State Fault Refusal :=
  .next (s.inRun fun s => s.wakeCtl src.toNat a.toNat reason.toNat)

/-- RETRAIN (R377). -/
def execRetrain (p : Fin 3) (s : State) : Host.Outcome State Fault Refusal :=
  .next (s.regAct (FAB_P_CFG p) FAB_P_CFG_RETRAIN)

/-- LINK_CTL_RESET (R498). -/
def execLinkCtlReset (p : Fin 2) (key : BitVec 16) (uid : BitVec 64) (s : State) : Host.Outcome State Fault Refusal :=
  .next (s.inRun fun s => s.linkReset p key.toNat uid.toNat)

end Sys2Proof.Machine
end

