-- ==== Sys2Proof/Machine/FieldRows.lean ====
section
/-! DEFINITION. Field I/O (R271 to R285): the meaning of each command. -/

namespace Sys2Proof.Machine

/-- EVENT_LINE_ACCEPT (R274). -/
def execEventLineAccept (i : Fin 128) (pin : Bool) (s : State) : Host.Outcome State Fault Refusal :=
  .next (s.inRun fun s => s.eventLine i pin)

/-- BS_OK_FALL (R271). -/
def execBsOkFall (b : Fin 8) (s : State) : Host.Outcome State Fault Refusal :=
  .next (s.inRun fun s => s.bsFall b)

/-- BS_OK_RISE (R271). -/
def execBsOkRise (b : Fin 8) (levels : BitVec 16) (s : State) : Host.Outcome State Fault Refusal :=
  .next (s.inRun fun s => s.bsRise b levels.toNat)

/-- BANK_EN_FALL (R272). -/
def execBankEnFall (b : Fin 8) (s : State) : Host.Outcome State Fault Refusal :=
  .next (s.inRun fun s => s.bankFall b)

/-- BANK_EN_PRESENT (R272). -/
def execBankEnPresent (b : Fin 8) (s : State) : Host.Outcome State Fault Refusal :=
  .next (s.inRun fun s => s.bankPresent b)

/-- OUTPUT_FAULT (R277). -/
def execOutputFault (i : Fin 128) (s : State) : Host.Outcome State Fault Refusal :=
  .next (s.inRun fun s => s.outFault i)

/-- OUT_FAULT_CLEAR (R277). -/
def execOutFaultClear (b : Fin 8) (bits : BitVec 16) (s : State) : Host.Outcome State Fault Refusal :=
  .next (s.regWrite (FIO_BANK_STAT b) FIO_BANK_STAT_OUT_FAULT.mask (bits.setWidth 32))

/-- CHAIN_FRAME (R279). The chain's input bits, bit 0 first. -/
def execChainFrame (c : Fin 4) (inputs : BitVec 512) (s : State) : Host.Outcome State Fault Refusal :=
  .next (s.inRun fun s => s.chainFrame c inputs.toNat)

/-- CHAIN_ENABLE (R283). -/
def execChainEnable (n : Fin 4) (v : Word) (s : State) : Host.Outcome State Fault Refusal :=
  .next (s.regEnable (FIO_CH_CFG n) FIO_CH_CFG_EN v)

/-- CHAIN_DISABLE (R283). -/
def execChainDisable (n : Fin 4) (s : State) : Host.Outcome State Fault Refusal :=
  .next (s.regDisable (FIO_CH_CFG n) FIO_CH_CFG_EN)

end Sys2Proof.Machine
end

