-- ==== Sys2Proof/Machine/HostRows.lean ====
section
/-! DEFINITION. Command frames and the commands of a session (R318 to R341): the meaning of each command. -/

namespace Sys2Proof.Machine

/-- OUTPUT_ENABLE (R339). -/
def execOutputEnable (h : CmdHead) (arg : BitVec 32) (body : List Byte)
    (s : State) : Host.Outcome State Fault Refusal :=
  .next (s.command h 0x72 arg body)

/-- COMMAND_FRAME (R321). -/
def execCommandFrame (src : BitVec 16) (session : BitVec 8) (body : List Byte)
    (s : State) : Host.Outcome State Fault Refusal :=
  .next (s.commandFrame src.toNat session.toNat body)

/-- NOP (R328). -/
def execNop (h : CmdHead) (arg : BitVec 32) (body : List Byte) (s : State) : Host.Outcome State Fault Refusal :=
  .next (s.command h 0x01 arg body)

/-- NOP_RELEASE (R323). -/
def execNopRelease (h : CmdHead) (chainReset : Bool) (s : State) : Host.Outcome State Fault Refusal :=
  .next (s.command h 0x01 (if chainReset then 3 else 1) [])

/-- NOP_CHAIN_RESET (R330). -/
def execNopChainReset (h : CmdHead) (s : State) : Host.Outcome State Fault Refusal :=
  .next (s.command { h with ordered := true } 0x01 2 [])

/-- READ (R334). -/
def execRead (h : CmdHead) (arg : BitVec 32) (body : List Byte) (s : State) : Host.Outcome State Fault Refusal :=
  .next (s.command h 0x02 arg body)

/-- WRITE (R335). -/
def execWrite (h : CmdHead) (arg : BitVec 32) (body : List Byte) (s : State) : Host.Outcome State Fault Refusal :=
  .next (s.command h 0x03 arg body)

/-- MODIFY (R336). -/
def execModify (h : CmdHead) (arg : BitVec 32) (body : List Byte) (s : State) : Host.Outcome State Fault Refusal :=
  .next (s.command h 0x04 arg body)

/-- FENCE (R331). -/
def execFence (h : CmdHead) (arg : BitVec 32) (body : List Byte) (s : State) : Host.Outcome State Fault Refusal :=
  .next (s.command h 0x06 arg body)

/-- FENCE_COMPLETE (R331). -/
def execFenceComplete (n : Fin 8) (s : State) : Host.Outcome State Fault Refusal :=
  .next (s.inRun fun s => s.fenceComplete n)

/-- ORDERED_START (R330). -/
def execOrderedStart (n : Fin 8) (s : State) : Host.Outcome State Fault Refusal :=
  .next (s.inRun fun s => s.orderedStart n)

/-- REPLY_FRAME_SEND (R327). -/
def execReplyFrameSend (n : Fin 8) (s : State) : Host.Outcome State Fault Refusal :=
  .next (s.inRun fun s => s.replyFrame n)

/-- RESET (R340). -/
def execResetCmd (h : CmdHead) (arg : BitVec 32) (body : List Byte) (s : State) : Host.Outcome State Fault Refusal :=
  .next (s.command h 0x70 arg body)

/-- POWER_STATE_RUN (R341). -/
def execPowerStateRun (h : CmdHead) (s : State) : Host.Outcome State Fault Refusal :=
  .next (s.command h 0x71 0 [])

/-- POWER_STATE_DOZE (R431). -/
def execPowerStateDoze (h : CmdHead) (s : State) : Host.Outcome State Fault Refusal :=
  .next (s.command h 0x71 1 [])

/-- POWER_STATE_WATCH (R432). -/
def execPowerStateWatch (h : CmdHead) (s : State) : Host.Outcome State Fault Refusal :=
  .next (s.command h 0x71 2 [])

/-- POWER_STATE_OFF (R341). -/
def execPowerStateOff (h : CmdHead) (s : State) : Host.Outcome State Fault Refusal :=
  .next (s.command h 0x71 3 [])

end Sys2Proof.Machine
end

