-- ==== Sys2Proof/Machine/JobRows.lean ====
section
/-! DEFINITION. The composer (R163 to R187): the meaning of each command. -/

namespace Sys2Proof.Machine

/-- CODE_JOB (R185). -/
def execCodeJob (h : CmdHead) (arg : BitVec 32) (body : List Byte) (s : State) : Host.Outcome State Fault Refusal :=
  .next (s.command h 0x38 arg body)

/-- JOB_START (R165). -/
def execJobStart (s : State) : Host.Outcome State Fault Refusal :=
  .next (s.inRun fun s => s.jobStart)

/-- JOB_COMPLETE (R167). The k-th job being composed. -/
def execJobComplete (k : Nat) (s : State) : Host.Outcome State Fault Refusal :=
  .next (s.inRun fun s => (s.jobComplete k).settle)

/-- JOB_DEADLINE (R165). The k-th job. -/
def execJobDeadline (k : Nat) (s : State) : Host.Outcome State Fault Refusal :=
  .next (s.inRun fun s => s.jobDeadline k)

/-- JOB_LATE (R186). The k-th job. -/
def execJobLate (k : Nat) (s : State) : Host.Outcome State Fault Refusal :=
  .next (s.inRun fun s => s.jobLate k)

/-- SERIAL_RESERVATION (R177). -/
def execSerialReservation (g : Fin 8) (s : State) : Host.Outcome State Fault Refusal :=
  .next (s.inRun fun s => s.reservation g)

/-- GENERATOR_ENABLE (R179). -/
def execGeneratorEnable (n : Fin 8) (v : Word) (s : State) : Host.Outcome State Fault Refusal :=
  .next (s.regEnable (CMP_SG_CFG n) CMP_SG_CFG_EN v)

/-- GENERATOR_DISABLE (R178). -/
def execGeneratorDisable (n : Fin 8) (s : State) : Host.Outcome State Fault Refusal :=
  .next (s.regDisable (CMP_SG_CFG n) CMP_SG_CFG_EN)

/-- TEMPLATE_BIND (R170). -/
def execTemplateBind (n : Fin 64) (v : Word) (s : State) : Host.Outcome State Fault Refusal :=
  .next (s.regEnable (CMP_TPL n) CMP_TPL_VALID v)

/-- RING_ENABLE (R183). -/
def execRingEnable (n : Fin 8) (v : Word) (s : State) : Host.Outcome State Fault Refusal :=
  .next (s.regEnable (CMP_RQ_SIZE n) CMP_RQ_SIZE_EN v)

/-- COMPOSER_DISABLE (R187). -/
def execComposerDisable (s : State) : Host.Outcome State Fault Refusal :=
  .next (s.regDisable CMP_CFG CMP_CFG_EN)

end Sys2Proof.Machine
end

