-- ==== Sys2Proof/Machine/NtfRows.lean ====
section
/-! DEFINITION. Notifications (R359 to R375): the meaning of each command. -/

namespace Sys2Proof.Machine

/-- SOURCE_RAISE (R364). -/
def execSourceRaise (i : Fin 2048) (value : Word) (s : State) : Host.Outcome State Fault Refusal :=
  .next (s.inRun fun s => s.raise i value.toNat)

/-- NTF_RAISE (R365). -/
def execNtfRaise (i : BitVec 11) (s : State) : Host.Outcome State Fault Refusal :=
  .next (s.regWrite NTF_RAISE 0xFFFFFFFF (i.setWidth 32))

/-- NTF_CLEAR (R365). -/
def execNtfClear (i : BitVec 11) (s : State) : Host.Outcome State Fault Refusal :=
  .next (s.regWrite NTF_CLEAR 0xFFFFFFFF (i.setWidth 32))

/-- DELIVERY_SELECTION (R366). Targets 0–3 are firmware cores, 4–11 the sessions. -/
def execDeliverySelection (t : Fin 12) (s : State) : Host.Outcome State Fault Refusal :=
  .next (s.inRun fun s => s.deliverySelect t)

/-- DELIVERY_ACTIVE (R367). Targets 0–3 are firmware cores, 4–11 the sessions. -/
def execDeliveryActive (t : Fin 12) (s : State) : Host.Outcome State Fault Refusal :=
  .next (s.inRun fun s => s.deliveryActive t)

/-- REDELIVER (R373). Targets 0–3 are firmware cores, 4–11 the sessions. -/
def execRedeliver (t : Fin 12) (s : State) : Host.Outcome State Fault Refusal :=
  .next (s.inRun fun s => s.redeliver t)

/-- NOTIFY_COMPLETE (R370). -/
def execNotifyComplete (h : CmdHead) (arg : BitVec 32) (body : List Byte)
    (s : State) : Host.Outcome State Fault Refusal :=
  .next (s.command h 0x48 arg body)

end Sys2Proof.Machine
end

