-- ==== Sys2Proof/Machine/PoolRows.lean ====
section
/-! DEFINITION. The pool and the DMA channels (R300 to R317): the meaning of each command. -/

namespace Sys2Proof.Machine

/-- CLAIM_CONFIGURE (R307). -/
def execClaimConfigure (h : CmdHead) (claim : BitVec 6) (reserve : Word) (quota : Word)
    (s : State) : Host.Outcome State Fault Refusal :=
  .next (s.command h 0x32 (claim.setWidth 32) (wordBody [reserve, quota]))

/-- CLAIM_ALLOC (R306). -/
def execClaimAlloc (h : CmdHead) (claim : BitVec 6) (blocks : Word) (s : State) : Host.Outcome State Fault Refusal :=
  .next (s.command h 0x32 (claim.setWidth 32 ||| 0x100) (wordBody [blocks]))

/-- CLAIM_FREE (R306). -/
def execClaimFree (h : CmdHead) (claim : BitVec 6) (first : Word) (blocks : Word)
    (s : State) : Host.Outcome State Fault Refusal :=
  .next (s.command h 0x32 (claim.setWidth 32 ||| 0x200) (wordBody [first, blocks]))

/-- POOL_WRITE (R309). -/
def execPoolWrite (h : CmdHead) (arg : BitVec 32) (body : List Byte) (s : State) : Host.Outcome State Fault Refusal :=
  .next (s.command h 0x30 arg body)

/-- POOL_READ (R309). -/
def execPoolRead (h : CmdHead) (arg : BitVec 32) (body : List Byte) (s : State) : Host.Outcome State Fault Refusal :=
  .next (s.command h 0x31 arg body)

/-- SCRUB (R301). What the blocks read in this millisecond show. -/
def execScrub (finds : List EccFind) (s : State) : Host.Outcome State Fault Refusal :=
  .next (s.inRun fun s => s.scrub finds)

/-- SELF_REFRESH_ENTRY (R302). -/
def execSelfRefreshEntry (s : State) : Host.Outcome State Fault Refusal :=
  .next (s.inRun fun s => s.selfRefresh)

/-- DMA_START (R315). -/
def execDmaStart (n : Fin 32) (v : Word) (s : State) : Host.Outcome State Fault Refusal :=
  .next (s.regEnable (DMA_CTL n) DMA_CTL_EN v)

/-- DMA_ABORT (R314). -/
def execDmaAbort (n : Fin 32) (s : State) : Host.Outcome State Fault Refusal :=
  .next (s.regDisable (DMA_CTL n) DMA_CTL_EN)

/-- DMA_BURST (R312). -/
def execDmaBurst (n : Fin 32) (s : State) : Host.Outcome State Fault Refusal :=
  .next (s.inRun fun s => s.dmaBurst n)

end Sys2Proof.Machine
end

