-- ==== Sys2Proof/Machine/PortRows.lean ====
section
/-! DEFINITION. The feedback ports (R203 to R234): the meaning of each command. -/

namespace Sys2Proof.Machine

/-- FILTER_ACCEPTANCE (R206). The levels of the four pins as the filters hold them from this tick on. -/
def execFilterAcceptance (p : Fin 16) (a : Bool) (b : Bool) (z : Bool) (x : Bool)
    (s : State) : Host.Outcome State Fault Refusal :=
  .next (s.inRun fun s => s.portAccept p a b z x)

/-- SERIAL_FRAME_START (R216). -/
def execSerialFrameStart (p : Fin 16) (s : State) : Host.Outcome State Fault Refusal :=
  .next (s.inRun fun s => s.frameStart p)

/-- SERIAL_FRAME_END (R219). -/
def execSerialFrameEnd (p : Fin 16) (r : SerSample) (s : State) : Host.Outcome State Fault Refusal :=
  .next (s.inRun fun s => s.frameEnd p r)

/-- POS_WRITE (R211). -/
def execPosWrite (n : Fin 16) (v : Word) (s : State) : Host.Outcome State Fault Refusal :=
  .next (s.regWrite (FBP_POS n) 0xFFFFFFFF v)

/-- PFAULT_CLEAR (R229). -/
def execPfaultClear (n : Fin 16) (s : State) : Host.Outcome State Fault Refusal :=
  .next (s.regAct (FBP_STAT n) FBP_STAT_PFAULT)

/-- PORT_ENABLE (R231). -/
def execPortEnable (n : Fin 16) (v : Word) (s : State) : Host.Outcome State Fault Refusal :=
  .next (s.regEnable (FBP_CFG n) FBP_CFG_EN v)

/-- PORT_DISABLE (R232). -/
def execPortDisable (n : Fin 16) (s : State) : Host.Outcome State Fault Refusal :=
  .next (s.regDisable (FBP_CFG n) FBP_CFG_EN)

/-- SUPPLY_ON (R226). -/
def execSupplyOn (n : Fin 16) (v : Word) (s : State) : Host.Outcome State Fault Refusal :=
  .next (s.regEnable (FBP_SUP n) FBP_SUP_EN v)

/-- SUPPLY_OFF (R225). -/
def execSupplyOff (n : Fin 16) (s : State) : Host.Outcome State Fault Refusal :=
  .next (s.regDisable (FBP_SUP n) FBP_SUP_EN)

/-- SETTLING_END (R225). -/
def execSettlingEnd (p : Fin 16) (a : Bool) (b : Bool) (z : Bool) (x : Bool)
    (s : State) : Host.Outcome State Fault Refusal :=
  .next (s.inRun fun s => s.settleEnd p a b z x)

/-- OVERCURRENT (R227). The current drawn, in mA. -/
def execOvercurrent (p : Fin 16) (ma : BitVec 16) (s : State) : Host.Outcome State Fault Refusal :=
  .next (s.inRun fun s => s.overcurrent p ma.toNat)

/-- LINE_BREAK (R228). -/
def execLineBreak (p : Fin 16) (i : Fin 4) (s : State) : Host.Outcome State Fault Refusal :=
  .next (s.inRun fun s => s.lineBreak p i)

/-- LINE_BREAK_END (R228). -/
def execLineBreakEnd (p : Fin 16) (i : Fin 4) (s : State) : Host.Outcome State Fault Refusal :=
  .next (s.inRun fun s => s.lineBreakEnd p i)

/-- EMU_ENABLE (R223). -/
def execEmuEnable (n : Fin 16) (v : Word) (s : State) : Host.Outcome State Fault Refusal :=
  .next (s.regEnable (FBP_EMU_CFG n) FBP_EMU_CFG_EMU_EN v)

/-- EMU_OUTPUT_COUNT (R224). -/
def execEmuOutputCount (p : Fin 16) (s : State) : Host.Outcome State Fault Refusal :=
  .next (s.inRun fun s => s.emuCount p)

end Sys2Proof.Machine
end

