-- ==== Sys2Proof/Machine/PowerRows.lean ====
section
/-! DEFINITION. Power (R424 to R445): the meaning of each command. -/

namespace Sys2Proof.Machine

/-- GOVERNOR_PERIOD (R439). The input power in mW and the junction readings. -/
def execGovernorPeriod (power : Nat) (j : Junctions) (s : State) : Host.Outcome State Fault Refusal :=
  .next (s.inRun fun s => s.governor power j)

/-- LEVEL_CHANGE_END (R428). -/
def execLevelChangeEnd (s : State) : Host.Outcome State Fault Refusal :=
  .next (s.inRun fun s => s.levelEnd)

/-- GRANT_RECLASSIFICATION (R424). -/
def execGrantReclassification (mw : Nat) (s : State) : Host.Outcome State Fault Refusal :=
  .next (s.inRun fun s => s.reclassify mw)

/-- THERMAL_TRIP (R441). The sensor and its reading in 1/16 °C. -/
def execThermalTrip (i : Fin 6) (t : Int) (s : State) : Host.Outcome State Fault Refusal :=
  .next (s.inRun fun s => (s.thermalTrip i t).settle)

/-- WATCH_ENTRY (R433). -/
def execWatchEntry (s : State) : Host.Outcome State Fault Refusal :=
  .next (s.watchEntry)

/-- WATCH_EXIT (R436). -/
def execWatchExit (s : State) : Host.Outcome State Fault Refusal :=
  .next (s.watchExit)

/-- ALARM (R437). -/
def execAlarm (s : State) : Host.Outcome State Fault Refusal :=
  .next (s.alarm)

end Sys2Proof.Machine
end

