-- ==== Sys2Proof/Machine/ProductRows.lean ====
section
/-! DEFINITION. The Ephemeris (R138 to R162): the meaning of each command. -/

namespace Sys2Proof.Machine

/-- LANE_ENABLE (R144). -/
def execLaneEnable (n : Fin 16) (v : Word) (s : State) : Host.Outcome State Fault Refusal :=
  .next (s.regEnable (EPH_L_CFG n) EPH_L_CFG_EN v)

/-- LANE_DISABLE (R158). -/
def execLaneDisable (n : Fin 16) (s : State) : Host.Outcome State Fault Refusal :=
  .next (s.regDisable (EPH_L_CFG n) EPH_L_CFG_EN)

/-- SLOT_ENTRY (R143). -/
def execSlotEntry (n : Fin 16) (s : State) : Host.Outcome State Fault Refusal :=
  .next (s.inRun fun s => s.slotEntry n)

/-- SENSOR_ENTRY (R143). -/
def execSensorEntry (n : Fin 16) (s : State) : Host.Outcome State Fault Refusal :=
  .next (s.inRun fun s => s.sensorEntry n)

/-- STATION_FIRE (R146). -/
def execStationFire (k : Fin 64) (s : State) : Host.Outcome State Fault Refusal :=
  .next (s.inRun fun s => s.stationFire k)

/-- PRODUCT_EXIT (R158). -/
def execProductExit (n : Fin 16) (s : State) : Host.Outcome State Fault Refusal :=
  .next (s.inRun fun s => s.productExit n)

/-- HANDOFF_RECORD_RECEIVE (R156). The 64 bytes of the record, as its frame carries them. -/
def execHandoffRecordReceive (src : BitVec 16) (seq : BitVec 16) (lane : Fin 16) (th : BitVec 64) (body : List Byte)
    (s : State) : Host.Outcome State Fault Refusal :=
  .next (s.inRun fun s => s.handoffArrive src.toNat seq.toNat lane th.toInt (productOfBytes body))

/-- HANDOFF_ACK_RECEIVE (R157). -/
def execHandoffAckReceive (negative : Bool) (pid : BitVec 32) (seq : BitVec 16)
    (s : State) : Host.Outcome State Fault Refusal :=
  .next (s.inRun fun s => s.handoffAcked negative pid.toNat seq.toNat)

/-- HANDOFF_ACK_TIMEOUT (R157). -/
def execHandoffAckTimeout (i : Fin 65536) (s : State) : Host.Outcome State Fault Refusal :=
  .next (s.inRun fun s => s.ackTimeout i)

/-- PRODUCT_ENTER (R159). -/
def execProductEnter (h : CmdHead) (arg : BitVec 32) (body : List Byte)
    (s : State) : Host.Outcome State Fault Refusal :=
  .next (s.command h 0x20 arg body)

/-- PRODUCT_UPDATE (R160). -/
def execProductUpdate (h : CmdHead) (arg : BitVec 32) (body : List Byte)
    (s : State) : Host.Outcome State Fault Refusal :=
  .next (s.command h 0x21 arg body)

/-- PRODUCT_QUERY (R161). -/
def execProductQuery (h : CmdHead) (arg : BitVec 32) (body : List Byte)
    (s : State) : Host.Outcome State Fault Refusal :=
  .next (s.command h 0x22 arg body)

/-- PRODUCT_RETIRE (R162). -/
def execProductRetire (h : CmdHead) (arg : BitVec 32) (body : List Byte)
    (s : State) : Host.Outcome State Fault Refusal :=
  .next (s.command h 0x23 arg body)

end Sys2Proof.Machine
end

