-- ==== Sys2Proof/Machine/PwmRows.lean ====
section
/-! DEFINITION. The PWM generators (R251 to R270): the meaning of each command. -/

namespace Sys2Proof.Machine

/-- PWM_BOUNDARY (R251). -/
def execPwmBoundary (n : Fin 24) (s : State) : Host.Outcome State Fault Refusal :=
  .next (s.inRun fun s => s.pwmBoundary n)

/-- MID_PERIOD_POINT (R251). -/
def execMidPeriodPoint (n : Fin 24) (s : State) : Host.Outcome State Fault Refusal :=
  .next (s.inRun fun s => s.pwmMid n)

/-- REFERENCE_EDGE (R252). -/
def execReferenceEdge (n : Fin 24) (s : State) : Host.Outcome State Fault Refusal :=
  .next (s.inRun fun s => s.pwmRefEdge n)

/-- DEAD_TIME_EXPIRY (R256). The H output, or the L output. -/
def execDeadTimeExpiry (n : Fin 24) (high : Bool) (s : State) : Host.Outcome State Fault Refusal :=
  .next (s.inRun fun s => s.pwmDeadExpiry n high)

/-- MINPULSE_HOLD_END (R258). The H output, or the L output. -/
def execMinpulseHoldEnd (n : Fin 24) (high : Bool) (s : State) : Host.Outcome State Fault Refusal :=
  .next (s.inRun fun s => s.pwmHoldEnd n high)

/-- PWM_PERIOD_CUT (R254). -/
def execPwmPeriodCut (n : Fin 24) (s : State) : Host.Outcome State Fault Refusal :=
  .next (s.inRun fun s => s.pwmCut n)

/-- RESYNC (R259). -/
def execResync (n : Fin 24) (s : State) : Host.Outcome State Fault Refusal :=
  .next (s.regAct (PWM_CMD n) PWM_CMD_RESYNC)

/-- ANGLE_LOCK (R259). -/
def execAngleLock (n : Fin 24) (s : State) : Host.Outcome State Fault Refusal :=
  .next (s.inRun fun s => s.pwmAngleLock n)

/-- ADC_TRIGGER_OFFER (R260). -/
def execAdcTriggerOffer (n : Fin 24) (s : State) : Host.Outcome State Fault Refusal :=
  .next (s.inRun fun s => s.pwmOffer n)

/-- TRIP_INPUT_ACCEPT (R261). -/
def execTripInputAccept (i : Fin 8) (pin : Bool) (s : State) : Host.Outcome State Fault Refusal :=
  .next (s.inRun fun s => s.tripAccept i pin)

/-- BLANKING_END (R262). -/
def execBlankingEnd (n : Fin 24) (s : State) : Host.Outcome State Fault Refusal :=
  .next (s.inRun fun s => s.pwmBlankEnd n)

/-- TRIP_FORCE (R262). -/
def execTripForce (n : Fin 24) (s : State) : Host.Outcome State Fault Refusal :=
  .next (s.regAct (PWM_CMD n) PWM_CMD_TRIP_FORCE)

/-- TRIP_CLR (R265). -/
def execTripClr (n : Fin 24) (s : State) : Host.Outcome State Fault Refusal :=
  .next (s.regAct (PWM_CMD n) PWM_CMD_TRIP_CLR)

/-- PWM_ENABLE (R266). -/
def execPwmEnable (n : Fin 24) (v : Word) (s : State) : Host.Outcome State Fault Refusal :=
  .next (s.regEnable (PWM_CFG n) PWM_CFG_EN v)

/-- PWM_DISABLE (R266). -/
def execPwmDisable (n : Fin 24) (s : State) : Host.Outcome State Fault Refusal :=
  .next (s.regDisable (PWM_CFG n) PWM_CFG_EN)

end Sys2Proof.Machine
end

