-- ==== Sys2Proof/Machine/RasterRows.lean ====
section
/-! DEFINITION. The raster lanes (R188 to R202): the meaning of each command. -/

namespace Sys2Proof.Machine

/-- COLUMN_STROBE (R195). -/
def execColumnStrobe (n : Fin 8) (s : State) : Host.Outcome State Fault Refusal :=
  .next (s.inRun fun s => s.rasColumnStrobe n)

/-- COLUMN_FRAME (R190). -/
def execColumnFrame (n : Fin 8) (s : State) : Host.Outcome State Fault Refusal :=
  .next (s.inRun fun s => s.rasFrame n)

/-- STROBE_STALL (R199). -/
def execStrobeStall (n : Fin 8) (s : State) : Host.Outcome State Fault Refusal :=
  .next (s.inRun fun s => s.rasStall n)

/-- RDY_CHANGE (R189). -/
def execRdyChange (n : Fin 8) (pin : Bool) (s : State) : Host.Outcome State Fault Refusal :=
  .next (s.inRun fun s => s.rasRdyChange n pin)

/-- RDY_TIMEOUT (R189). -/
def execRdyTimeout (n : Fin 8) (s : State) : Host.Outcome State Fault Refusal :=
  .next (s.inRun fun s => s.rasRdyTimeout n)

/-- RASTER_ENABLE (R202). -/
def execRasterEnable (n : Fin 8) (v : Word) (s : State) : Host.Outcome State Fault Refusal :=
  .next (s.regEnable (RAS_CTL n) RAS_CTL_EN v)

/-- RASTER_DISABLE (R201). -/
def execRasterDisable (n : Fin 8) (force : Bool) (s : State) : Host.Outcome State Fault Refusal :=
  .next (s.regWrite (RAS_CTL n) (RAS_CTL_EN.mask ||| RAS_CTL_FORCE.mask) ((0 : Word).setF RAS_CTL_FORCE (b2n force)))

end Sys2Proof.Machine
end

