-- ==== Sys2Proof/Machine/RegRows.lean ====
section
/-! DEFINITION. Register writes that have no row of their own, and the fabric address: the meaning of each command. -/

namespace Sys2Proof.Machine

/-- REGISTER_WRITE (R9). By a host, or over the bus port of a thread. -/
def execRegisterWrite (bus : Bool) (a : BitVec 32) (v : Word) (s : State) : Host.Outcome State Fault Refusal :=
  .next (s.regWriteBy bus a.toNat v)

/-- ADDR_WRITE (R31). -/
def execAddrWrite (v : Word) (s : State) : Host.Outcome State Fault Refusal :=
  .next (s.regWrite GLB_ADDR 0xFFFFFFFF v)

end Sys2Proof.Machine
end

