-- ==== Sys2Proof/Machine/ShaftRows.lean ====
section
/-! DEFINITION. The shafts (R33 to R67): the meaning of each command. -/

namespace Sys2Proof.Machine

/-- SHAFT_ENABLE (R34). -/
def execShaftEnable (n : Fin 16) (v : Word) (s : State) : Host.Outcome State Fault Refusal :=
  .next (s.regEnable (SHF_CFG n) SHF_CFG_EN v)

/-- SHAFT_DISABLE (R45). -/
def execShaftDisable (n : Fin 16) (s : State) : Host.Outcome State Fault Refusal :=
  .next (s.regDisable (SHF_CFG n) SHF_CFG_EN)

/-- TOOTH_EDGE (R42). -/
def execToothEdge (n : Fin 16) (s : State) : Host.Outcome State Fault Refusal :=
  .next (s.inRun fun s => s.toothEdge n)

/-- SECOND_WHEEL_EDGE (R38). -/
def execSecondWheelEdge (n : Fin 16) (rising : Bool) (s : State) : Host.Outcome State Fault Refusal :=
  .next (s.inRun fun s => s.secondEdge n rising)

/-- IDX_LOSS (R45). -/
def execIdxLoss (n : Fin 16) (s : State) : Host.Outcome State Fault Refusal :=
  .next (s.inRun fun s => s.idxLoss n)

/-- HALTED (R50). -/
def execHalted (n : Fin 16) (s : State) : Host.Outcome State Fault Refusal :=
  .next (s.inRun fun s => s.shaftHalt n)

/-- STILL_TIMEOUT (R58). -/
def execStillTimeout (n : Fin 16) (s : State) : Host.Outcome State Fault Refusal :=
  .next (s.inRun fun s => s.stillTimeout n)

/-- PHASE_SAMPLE (R62). -/
def execPhaseSample (n : Fin 16) (s : State) : Host.Outcome State Fault Refusal :=
  .next (s.inRun fun s => s.phaseSample n)

/-- PH_CLR (R63). -/
def execPhClr (n : Fin 16) (s : State) : Host.Outcome State Fault Refusal :=
  .next (s.regAct (SHF_PH_CFG n) SHF_PH_CFG_PH_CLR)

/-- VIRT_TIMEOUT (R65). -/
def execVirtTimeout (n : Fin 16) (s : State) : Host.Outcome State Fault Refusal :=
  .next (s.inRun fun s => s.virtTimeout n)

/-- VIRT_RECOMPUTE (R70). -/
def execVirtRecompute (n : Fin 16) (s : State) : Host.Outcome State Fault Refusal :=
  .next (s.inRun fun s => s.virtRecompute n)

/-- CATCHUP_LAG_CLOSED (R49). -/
def execCatchupLagClosed (n : Fin 16) (s : State) : Host.Outcome State Fault Refusal :=
  .next (s.inRun fun s => s.catchClosed n)

/-- VIRT_HOLD_END (R65). -/
def execVirtHoldEnd (n : Fin 16) (s : State) : Host.Outcome State Fault Refusal :=
  .next (s.inRun fun s => s.virtHoldEnd n)

/-- PROFILE_REVERSAL (R67). -/
def execProfileReversal (n : Fin 16) (s : State) : Host.Outcome State Fault Refusal :=
  .next (s.inRun fun s => s.profileReversal n)

/-- LINESHAFT_PUBLISH (R397). -/
def execLineshaftPublish (s : State) : Host.Outcome State Fault Refusal :=
  .next (s.inRun fun s => s.publish)

/-- LINESHAFT_RECEIVE (R65). -/
def execLineshaftReceive (src : BitVec 16) (valid : Bool) (sample : BitVec 64) (entries : List LineEntry)
    (s : State) : Host.Outcome State Fault Refusal :=
  .next (s.inRun fun s => s.lineReceive src.toNat valid sample.toNat entries)

end Sys2Proof.Machine
end

