-- ==== Sys2Proof/Machine/StartRows.lean ====
section
/-! DEFINITION. Resets, start-up, supply and the fault log (R476 to R510): the meaning of each command. -/

namespace Sys2Proof.Machine

/-- COLD_RESET (R497). -/
def execColdReset (cause : BitVec 8) (s : State) : Host.Outcome State Fault Refusal :=
  .next (s.coldReset cause.toNat)

/-- WARM_RESET (R497). -/
def execWarmReset (cause : BitVec 8) (s : State) : Host.Outcome State Fault Refusal :=
  .next (s.warmReset cause.toNat)

/-- POWER_UP (R492). The grant in mW. -/
def execPowerUp (mw : Nat) (s : State) : Host.Outcome State Fault Refusal :=
  .next (s.powerUp mw)

/-- BOOT_TIMEOUT (R493). -/
def execBootTimeout (s : State) : Host.Outcome State Fault Refusal :=
  .next (s.inRun fun s => s.bootTimeout)

/-- READY (R495). -/
def execReady (s : State) : Host.Outcome State Fault Refusal :=
  .next (s.inRun fun s => s.becomeReady)

/-- HOLD_OK_RISE (R482). -/
def execHoldOkRise (s : State) : Host.Outcome State Fault Refusal :=
  .next (s.inRun fun s => s.holdRise)

/-- HOLD_OK_FALL (R25). -/
def execHoldOkFall (s : State) : Host.Outcome State Fault Refusal :=
  .next (s.inRun fun s => s.holdFall)

/-- POWER_LOSS (R500). -/
def execPowerLoss (s : State) : Host.Outcome State Fault Refusal :=
  .next (s.beginShutdown)

/-- INPUT_HIGH (R481). -/
def execInputHigh (s : State) : Host.Outcome State Fault Refusal :=
  .next (s.inRun fun s => s.inputHigh)

/-- INPUT_HIGH_CLEAR (R481). -/
def execInputHighClear (s : State) : Host.Outcome State Fault Refusal :=
  .next (s.inRun fun s => s.inputHighClear)

/-- WATCHDOG (R501). -/
def execWatchdog (s : State) : Host.Outcome State Fault Refusal :=
  .next (s.inRun fun s => s.watchdog)

/-- FAULT_LOG_FLUSH (R505). -/
def execFaultLogFlush (s : State) : Host.Outcome State Fault Refusal :=
  .next (s.inRun fun s => s.logFlush)

/-- FAULT_LOG_SELECT (R506). -/
def execFaultLogSelect (age : BitVec 12) (s : State) : Host.Outcome State Fault Refusal :=
  .next (s.regWrite GLB_FLOG_SEL 0xFFFFFFFF (age.setWidth 32))

/-- FAULT_LOG_LOADED (R506). Whether the CHECK of the entry holds. -/
def execFaultLogLoaded (good : Bool) (s : State) : Host.Outcome State Fault Refusal :=
  .next (s.inRun fun s => s.logLoaded good)

/-- CORE_POWER_REMOVED (R500). -/
def execCorePowerRemoved (s : State) : Host.Outcome State Fault Refusal :=
  .next (s.coreOff)

end Sys2Proof.Machine
end

