-- ==== Sys2Proof/Machine/TallyRows.lean ====
section
/-! DEFINITION. Tallies, calendar, journal and stored configurations (R459 to R475): the meaning of each command. -/

namespace Sys2Proof.Machine

/-- TALLY_SET (R464). -/
def execTallySet (i : BitVec 14) (s : State) : Host.Outcome State Fault Refusal :=
  .next (s.regWrite TAL_SET_CMD 0xFFFFFFFF ((i.setWidth 32 : Word).setF TAL_SET_CMD_GO 1))

/-- TALLY_FLUSH (R461). -/
def execTallyFlush (s : State) : Host.Outcome State Fault Refusal :=
  .next (s.inRun fun s => s.tallyFlush)

/-- TALLY_FLUSH_CMD (R461). -/
def execTallyFlushCmd (s : State) : Host.Outcome State Fault Refusal :=
  .next (s.regAct TAL_CMD TAL_CMD_FLUSH)

/-- CALENDAR_SET (R468). -/
def execCalendarSet (s : State) : Host.Outcome State Fault Refusal :=
  .next (s.regAct CAL_CMD CAL_CMD_SET)

/-- CALENDAR_ADJUSTMENT (R467). -/
def execCalendarAdjustment (s : State) : Host.Outcome State Fault Refusal :=
  .next (s.calAdjust)

/-- CALENDAR_VALIDITY_CHANGE (R469). -/
def execCalendarValidityChange (s : State) : Host.Outcome State Fault Refusal :=
  .next (s.calCheck)

/-- BATT_LOW (R470). -/
def execBattLow (s : State) : Host.Outcome State Fault Refusal :=
  .next (s.battLow)

/-- GAP_RECORD_READ (R472). -/
def execGapRecordRead (s : State) : Host.Outcome State Fault Refusal :=
  .next (s.regRead (JNL_GAP 0) 8)

/-- STORE_OPEN (R473). -/
def execStoreOpen (h : CmdHead) (slot : BitVec 4) (s : State) : Host.Outcome State Fault Refusal :=
  .next (s.command h 0x60 (slot.setWidth 32) [])

/-- STORE_APPEND (R473). -/
def execStoreAppend (h : CmdHead) (slot : BitVec 4) (records : List Byte)
    (s : State) : Host.Outcome State Fault Refusal :=
  .next (s.command h 0x60 (slot.setWidth 32 ||| 0x100) records)

/-- STORE_CLOSE (R473). -/
def execStoreClose (h : CmdHead) (slot : BitVec 4) (s : State) : Host.Outcome State Fault Refusal :=
  .next (s.command h 0x60 (slot.setWidth 32 ||| 0x200) [])

/-- STORE_ERASE (R473). -/
def execStoreErase (h : CmdHead) (slot : BitVec 4) (s : State) : Host.Outcome State Fault Refusal :=
  .next (s.command h 0x60 (slot.setWidth 32 ||| 0x300) [])

/-- STORE_LOCK (R473). -/
def execStoreLock (h : CmdHead) (slot : BitVec 4) (s : State) : Host.Outcome State Fault Refusal :=
  .next (s.command h 0x60 (slot.setWidth 32 ||| 0x400) [])

/-- STORE_UNLOCK (R473). -/
def execStoreUnlock (h : CmdHead) (slot : BitVec 4) (s : State) : Host.Outcome State Fault Refusal :=
  .next (s.command h 0x60 (slot.setWidth 32 ||| 0x500) [])

/-- RECALL_CONFIG (R474). -/
def execRecallConfig (h : CmdHead) (arg : BitVec 32) (body : List Byte)
    (s : State) : Host.Outcome State Fault Refusal :=
  .next (s.command h 0x61 arg body)

end Sys2Proof.Machine
end

