-- ==== Sys2Proof/Machine/ThreadRows.lean ====
section
/-! DEFINITION. Commands for Blulet threads (R100, R110 to R112): the meaning of each command. -/

namespace Sys2Proof.Machine

/-- BLULET_LOAD (R110). -/
def execBluletLoad (h : CmdHead) (arg : BitVec 32) (body : List Byte)
    (s : State) : Host.Outcome State Fault Refusal :=
  .next (s.command h 0x50 arg body)

/-- BLULET_START (R111). -/
def execBluletStart (h : CmdHead) (arg : BitVec 32) (body : List Byte)
    (s : State) : Host.Outcome State Fault Refusal :=
  .next (s.command h 0x51 arg body)

/-- BLULET_STOP (R112). -/
def execBluletStop (h : CmdHead) (arg : BitVec 32) (body : List Byte)
    (s : State) : Host.Outcome State Fault Refusal :=
  .next (s.command h 0x52 arg body)

/-- SIGNAL_WRITE (R100). -/
def execSignalWrite (g : Fin 256) (v : Word) (s : State) : Host.Outcome State Fault Refusal :=
  .next (s.regWrite (BLU_T_SIG (thEngine g) (thNumber g)) 0xFFFFFFFF v)

end Sys2Proof.Machine
end

