-- ==== Sys2Proof/Machine/TwinRows.lean ====
section
/-! DEFINITION. The twin unit (R405 to R423): the meaning of each command. -/

namespace Sys2Proof.Machine

/-- TWIN_ENABLE (R406). -/
def execTwinEnable (v : Word) (s : State) : Host.Outcome State Fault Refusal :=
  .next (s.regEnable TWN_CFG TWN_CFG_EN v)

/-- SEARCH_TIMEOUT (R406). -/
def execSearchTimeout (s : State) : Host.Outcome State Fault Refusal :=
  .next (s.inRun fun s => s.searchTimeout)

/-- HEARTBEAT_SEND (R410). -/
def execHeartbeatSend (s : State) : Host.Outcome State Fault Refusal :=
  .next (s.inRun fun s => s.beatSend)

/-- LEASE_LAPSE (R413). -/
def execLeaseLapse (s : State) : Host.Outcome State Fault Refusal :=
  .next (s.inRun fun s => s.leaseLapse)

/-- HEARTBEAT_LOSS (R414). -/
def execHeartbeatLoss (s : State) : Host.Outcome State Fault Refusal :=
  .next (s.inRun fun s => s.heartbeatLoss)

/-- TWIN_PROBE_REPEAT (R414). -/
def execTwinProbeRepeat (s : State) : Host.Outcome State Fault Refusal :=
  .next (s.inRun fun s => s.probeRepeat)

/-- LOSS_CONFIRMED (R414). -/
def execLossConfirmed (s : State) : Host.Outcome State Fault Refusal :=
  .next (s.inRun fun s => s.lossConfirmed)

/-- HEARTBEAT (R411). -/
def execHeartbeat (b : HeartBeat) (s : State) : Host.Outcome State Fault Refusal :=
  .next (s.inRun fun s => s.heartbeat b)

/-- TWIN_PROBE (R414). -/
def execTwinProbe (pair : BitVec 16) (s : State) : Host.Outcome State Fault Refusal :=
  .next (s.inRun fun s => s.probeIn pair.toNat)

/-- TWIN_ALIVE (R414). -/
def execTwinAlive (pair : BitVec 16) (s : State) : Host.Outcome State Fault Refusal :=
  .next (s.inRun fun s => s.aliveIn pair.toNat)

/-- TAKEOVER_FRAME (R418). -/
def execTakeoverFrame (pair : BitVec 16) (s : State) : Host.Outcome State Fault Refusal :=
  .next (s.inRun fun s => s.takeoverIn pair.toNat)

/-- EPOCH_BOUNDARY (R410). -/
def execEpochBoundary (s : State) : Host.Outcome State Fault Refusal :=
  .next (s.inRun fun s => s.epochBoundary)

/-- EPOCH (R410). -/
def execEpoch (seq : BitVec 16) (number : BitVec 32) (digests : List (BitVec 32))
    (s : State) : Host.Outcome State Fault Refusal :=
  .next (s.inRun fun s => s.epochIn seq.toNat number.toNat (digests.map BitVec.toNat))

/-- EPOCH_ACK (R410). -/
def execEpochAck (seq : BitVec 16) (shafts : BitVec 16) (lanes : BitVec 16)
    (s : State) : Host.Outcome State Fault Refusal :=
  .next (s.inRun fun s => s.epochAckIn seq.toNat shafts.toNat lanes.toNat)

/-- RESYNC_REQ (R410). -/
def execResyncReq (i : Fin 16) (lane : Bool) (s : State) : Host.Outcome State Fault Refusal :=
  .next (s.inRun fun s => s.resyncReq i lane)

/-- COPY (R411). -/
def execCopy (seq : BitVec 16) (part : CopyPart) (s : State) : Host.Outcome State Fault Refusal :=
  .next (s.inRun fun s => s.copyIn seq.toNat part)

/-- ITEM (R409). -/
def execItem (seq : BitVec 16) (item : MirrorItem) (s : State) : Host.Outcome State Fault Refusal :=
  .next (s.inRun fun s => s.itemIn seq.toNat item)

/-- EPOCH_TIMEOUT (R412). -/
def execEpochTimeout (s : State) : Host.Outcome State Fault Refusal :=
  .next (s.inRun fun s => s.epochTimeout)

/-- SWITCH (R414). -/
def execSwitch (s : State) : Host.Outcome State Fault Refusal :=
  .next (s.regAct TWN_CMD TWN_CMD_SWITCH)

/-- JOINING_END (R421). -/
def execJoiningEnd (s : State) : Host.Outcome State Fault Refusal :=
  .next (s.inRun fun s => s.joiningEnd)

end Sys2Proof.Machine
end

