-- ==== Sys2Proof/Machine/TxnRows.lean ====
section
/-! DEFINITION. Transactions (R342 to R358): the meaning of each command. -/

namespace Sys2Proof.Machine

/-- TXN_BEGIN (R342). -/
def execTxnBegin (h : CmdHead) (arg : BitVec 32) (body : List Byte) (s : State) : Host.Outcome State Fault Refusal :=
  .next (s.command h 0x40 arg body)

/-- TXN_COMMIT (R349). -/
def execTxnCommit (h : CmdHead) (arg : BitVec 32) (body : List Byte) (s : State) : Host.Outcome State Fault Refusal :=
  .next (s.command h 0x41 arg body)

/-- TXN_ROLLBACK (R354). -/
def execTxnRollback (h : CmdHead) (arg : BitVec 32) (body : List Byte)
    (s : State) : Host.Outcome State Fault Refusal :=
  .next (s.command h 0x42 arg body)

/-- TXN_PREPARE (R356). -/
def execTxnPrepare (h : CmdHead) (arg : BitVec 32) (body : List Byte)
    (s : State) : Host.Outcome State Fault Refusal :=
  .next (s.command h 0x43 arg body)

/-- COMMIT_TICK (R350). -/
def execCommitTick (id : BitVec 16) (s : State) : Host.Outcome State Fault Refusal :=
  .next (s.inRun fun s => (s.commitTick id.toNat).settle)

/-- COMMIT_LIMIT_EXPIRY (R349). -/
def execCommitLimitExpiry (id : BitVec 16) (s : State) : Host.Outcome State Fault Refusal :=
  .next (s.inRun fun s => (s.limitExpiry id.toNat).settle)

/-- TXN_IDLE_TIMEOUT (R355). -/
def execTxnIdleTimeout (id : BitVec 16) (s : State) : Host.Outcome State Fault Refusal :=
  .next (s.inRun fun s => (s.idleTimeout id.toNat).settle)

/-- DECISION_DEADLINE (R358). -/
def execDecisionDeadline (id : BitVec 16) (s : State) : Host.Outcome State Fault Refusal :=
  .next (s.inRun fun s => (s.decisionDeadline id.toNat).settle)

/-- POINT_WITHOUT_DECISION (R358). -/
def execPointWithoutDecision (id : BitVec 16) (s : State) : Host.Outcome State Fault Refusal :=
  .next (s.inRun fun s => (s.pointMissed id.toNat).settle)

/-- PREPARE_RETRY (R357). -/
def execPrepareRetry (id : BitVec 16) (s : State) : Host.Outcome State Fault Refusal :=
  .next (s.inRun fun s => (s.prepareRetry id.toNat).settle)

end Sys2Proof.Machine
end

