-- ==== Sys2Proof/Machine/Dispatch.lean ====
section
/-! DEFINITION. What each command does: one arm for each constructor. -/

namespace Sys2Proof.Machine

/-- The effect of a command on everything but the queue. -/
def exec (i : Instr) (s : State) : Host.Outcome State Fault Refusal :=
  match i with
  | .registerWrite bus a v => Sys2Proof.Machine.execRegisterWrite bus a v s
  | .addrWrite v => Sys2Proof.Machine.execAddrWrite v s
  | .outputEnable h arg body => Sys2Proof.Machine.execOutputEnable h arg body s
  | .shaftEnable n v => Sys2Proof.Machine.execShaftEnable n v s
  | .shaftDisable n => Sys2Proof.Machine.execShaftDisable n s
  | .toothEdge n => Sys2Proof.Machine.execToothEdge n s
  | .secondWheelEdge n rising => Sys2Proof.Machine.execSecondWheelEdge n rising s
  | .idxLoss n => Sys2Proof.Machine.execIdxLoss n s
  | .halted n => Sys2Proof.Machine.execHalted n s
  | .stillTimeout n => Sys2Proof.Machine.execStillTimeout n s
  | .phaseSample n => Sys2Proof.Machine.execPhaseSample n s
  | .phClr n => Sys2Proof.Machine.execPhClr n s
  | .lineshaftPublish => Sys2Proof.Machine.execLineshaftPublish s
  | .lineshaftReceive src valid sample entries => Sys2Proof.Machine.execLineshaftReceive src valid sample entries s
  | .virtTimeout n => Sys2Proof.Machine.execVirtTimeout n s
  | .virtRecompute n => Sys2Proof.Machine.execVirtRecompute n s
  | .eventArm h arg body => Sys2Proof.Machine.execEventArm h arg body s
  | .eventCancel h arg body => Sys2Proof.Machine.execEventCancel h arg body s
  | .eventQuery h arg body => Sys2Proof.Machine.execEventQuery h arg body s
  | .eventStart i1 => Sys2Proof.Machine.execEventStart i1 s
  | .eventEnd i1 => Sys2Proof.Machine.execEventEnd i1 s
  | .bluletLoad h arg body => Sys2Proof.Machine.execBluletLoad h arg body s
  | .bluletStart h arg body => Sys2Proof.Machine.execBluletStart h arg body s
  | .bluletStop h arg body => Sys2Proof.Machine.execBluletStop h arg body s
  | .waitMet g => Sys2Proof.Machine.execWaitMet g s
  | .forcedYield g => Sys2Proof.Machine.execForcedYield g s
  | .deadlinePromotion g => Sys2Proof.Machine.execDeadlinePromotion g s
  | .busErrReturn g => Sys2Proof.Machine.execBusErrReturn g s
  | .signalWrite g v => Sys2Proof.Machine.execSignalWrite g v s
  | .edgePlace j => Sys2Proof.Machine.execEdgePlace j s
  | .bluAdd i1 => Sys2Proof.Machine.execBluAdd i1 s
  | .bluSub i1 => Sys2Proof.Machine.execBluSub i1 s
  | .bluCmp i1 => Sys2Proof.Machine.execBluCmp i1 s
  | .bluAnd i1 => Sys2Proof.Machine.execBluAnd i1 s
  | .bluOr i1 => Sys2Proof.Machine.execBluOr i1 s
  | .bluXor i1 => Sys2Proof.Machine.execBluXor i1 s
  | .bluShl i1 => Sys2Proof.Machine.execBluShl i1 s
  | .bluShr i1 => Sys2Proof.Machine.execBluShr i1 s
  | .bluSar i1 => Sys2Proof.Machine.execBluSar i1 s
  | .bluMul i1 => Sys2Proof.Machine.execBluMul i1 s
  | .bluMulh i1 => Sys2Proof.Machine.execBluMulh i1 s
  | .bluMin i1 => Sys2Proof.Machine.execBluMin i1 s
  | .bluMax i1 => Sys2Proof.Machine.execBluMax i1 s
  | .bluMov i1 => Sys2Proof.Machine.execBluMov i1 s
  | .bluClf i1 => Sys2Proof.Machine.execBluClf i1 s
  | .bluWadd i1 => Sys2Proof.Machine.execBluWadd i1 s
  | .bluWmov i1 => Sys2Proof.Machine.execBluWmov i1 s
  | .bluWget i1 => Sys2Proof.Machine.execBluWget i1 s
  | .bluWput i1 => Sys2Proof.Machine.execBluWput i1 s
  | .bluWcmp i1 => Sys2Proof.Machine.execBluWcmp i1 s
  | .bluWsub i1 => Sys2Proof.Machine.execBluWsub i1 s
  | .bluNow i1 => Sys2Proof.Machine.execBluNow i1 s
  | .bluAng i1 => Sys2Proof.Machine.execBluAng i1 s
  | .bluLd i1 => Sys2Proof.Machine.execBluLd i1 s
  | .bluSt i1 => Sys2Proof.Machine.execBluSt i1 s
  | .bluLdw i1 => Sys2Proof.Machine.execBluLdw i1 s
  | .bluStw i1 => Sys2Proof.Machine.execBluStw i1 s
  | .bluXadd i1 => Sys2Proof.Machine.execBluXadd i1 s
  | .bluBrd i1 => Sys2Proof.Machine.execBluBrd i1 s
  | .bluBwr i1 => Sys2Proof.Machine.execBluBwr i1 s
  | .bluBrdw i1 => Sys2Proof.Machine.execBluBrdw i1 s
  | .bluFnc i1 => Sys2Proof.Machine.execBluFnc i1 s
  | .bluWaita i1 => Sys2Proof.Machine.execBluWaita i1 s
  | .bluWaitt i1 => Sys2Proof.Machine.execBluWaitt i1 s
  | .bluWaits i1 => Sys2Proof.Machine.execBluWaits i1 s
  | .bluYield i1 => Sys2Proof.Machine.execBluYield i1 s
  | .bluHalt i1 => Sys2Proof.Machine.execBluHalt i1 s
  | .bluSig i1 => Sys2Proof.Machine.execBluSig i1 s
  | .bluArm i1 => Sys2Proof.Machine.execBluArm i1 s
  | .bluCancel i1 => Sys2Proof.Machine.execBluCancel i1 s
  | .bluEdge i1 => Sys2Proof.Machine.execBluEdge i1 s
  | .bluCapt i1 => Sys2Proof.Machine.execBluCapt i1 s
  | .bluSnap i1 => Sys2Proof.Machine.execBluSnap i1 s
  | .bluPost i1 => Sys2Proof.Machine.execBluPost i1 s
  | .bluProd i1 => Sys2Proof.Machine.execBluProd i1 s
  | .bluBr i1 => Sys2Proof.Machine.execBluBr i1 s
  | .bluDbnz i1 => Sys2Proof.Machine.execBluDbnz i1 s
  | .bluCall i1 => Sys2Proof.Machine.execBluCall i1 s
  | .bluRet i1 => Sys2Proof.Machine.execBluRet i1 s
  | .bluJr i1 => Sys2Proof.Machine.execBluJr i1 s
  | .laneEnable n v => Sys2Proof.Machine.execLaneEnable n v s
  | .laneDisable n => Sys2Proof.Machine.execLaneDisable n s
  | .slotEntry n => Sys2Proof.Machine.execSlotEntry n s
  | .sensorEntry n => Sys2Proof.Machine.execSensorEntry n s
  | .stationFire k => Sys2Proof.Machine.execStationFire k s
  | .productExit n => Sys2Proof.Machine.execProductExit n s
  | .handoffRecordReceive src seq lane th body => Sys2Proof.Machine.execHandoffRecordReceive src seq lane th body s
  | .handoffAckReceive negative pid seq => Sys2Proof.Machine.execHandoffAckReceive negative pid seq s
  | .handoffAckTimeout i1 => Sys2Proof.Machine.execHandoffAckTimeout i1 s
  | .productEnter h arg body => Sys2Proof.Machine.execProductEnter h arg body s
  | .productUpdate h arg body => Sys2Proof.Machine.execProductUpdate h arg body s
  | .productQuery h arg body => Sys2Proof.Machine.execProductQuery h arg body s
  | .productRetire h arg body => Sys2Proof.Machine.execProductRetire h arg body s
  | .codeJob h arg body => Sys2Proof.Machine.execCodeJob h arg body s
  | .jobStart => Sys2Proof.Machine.execJobStart s
  | .jobComplete k => Sys2Proof.Machine.execJobComplete k s
  | .jobDeadline k => Sys2Proof.Machine.execJobDeadline k s
  | .jobLate k => Sys2Proof.Machine.execJobLate k s
  | .serialReservation g => Sys2Proof.Machine.execSerialReservation g s
  | .generatorEnable n v => Sys2Proof.Machine.execGeneratorEnable n v s
  | .generatorDisable n => Sys2Proof.Machine.execGeneratorDisable n s
  | .templateBind n v => Sys2Proof.Machine.execTemplateBind n v s
  | .ringEnable n v => Sys2Proof.Machine.execRingEnable n v s
  | .composerDisable => Sys2Proof.Machine.execComposerDisable s
  | .columnStrobe n => Sys2Proof.Machine.execColumnStrobe n s
  | .columnFrame n => Sys2Proof.Machine.execColumnFrame n s
  | .strobeStall n => Sys2Proof.Machine.execStrobeStall n s
  | .rdyChange n pin => Sys2Proof.Machine.execRdyChange n pin s
  | .rdyTimeout n => Sys2Proof.Machine.execRdyTimeout n s
  | .rasterEnable n v => Sys2Proof.Machine.execRasterEnable n v s
  | .rasterDisable n force => Sys2Proof.Machine.execRasterDisable n force s
  | .filterAcceptance p a b z x => Sys2Proof.Machine.execFilterAcceptance p a b z x s
  | .serialFrameStart p => Sys2Proof.Machine.execSerialFrameStart p s
  | .serialFrameEnd p r => Sys2Proof.Machine.execSerialFrameEnd p r s
  | .posWrite n v => Sys2Proof.Machine.execPosWrite n v s
  | .pfaultClear n => Sys2Proof.Machine.execPfaultClear n s
  | .portEnable n v => Sys2Proof.Machine.execPortEnable n v s
  | .portDisable n => Sys2Proof.Machine.execPortDisable n s
  | .supplyOn n v => Sys2Proof.Machine.execSupplyOn n v s
  | .supplyOff n => Sys2Proof.Machine.execSupplyOff n s
  | .settlingEnd p a b z x => Sys2Proof.Machine.execSettlingEnd p a b z x s
  | .overcurrent p ma => Sys2Proof.Machine.execOvercurrent p ma s
  | .lineBreak p i1 => Sys2Proof.Machine.execLineBreak p i1 s
  | .lineBreakEnd p i1 => Sys2Proof.Machine.execLineBreakEnd p i1 s
  | .emuEnable n v => Sys2Proof.Machine.execEmuEnable n v s
  | .emuOutputCount p => Sys2Proof.Machine.execEmuOutputCount p s
  | .cellStep n => Sys2Proof.Machine.execCellStep n s
  | .periodRestart n => Sys2Proof.Machine.execPeriodRestart n s
  | .passedCompareMatch n => Sys2Proof.Machine.execPassedCompareMatch n s
  | .cellEnable n v => Sys2Proof.Machine.execCellEnable n v s
  | .cellDisable n => Sys2Proof.Machine.execCellDisable n s
  | .cellCountWrite n v => Sys2Proof.Machine.execCellCountWrite n v s
  | .cellPeriodWrite n v => Sys2Proof.Machine.execCellPeriodWrite n v s
  | .cellCompareWrite n v => Sys2Proof.Machine.execCellCompareWrite n v s
  | .capture n => Sys2Proof.Machine.execCapture n s
  | .capRead n => Sys2Proof.Machine.execCapRead n s
  | .snapshot h arg body => Sys2Proof.Machine.execSnapshot h arg body s
  | .pwmBoundary n => Sys2Proof.Machine.execPwmBoundary n s
  | .midPeriodPoint n => Sys2Proof.Machine.execMidPeriodPoint n s
  | .referenceEdge n => Sys2Proof.Machine.execReferenceEdge n s
  | .deadTimeExpiry n high => Sys2Proof.Machine.execDeadTimeExpiry n high s
  | .minpulseHoldEnd n high => Sys2Proof.Machine.execMinpulseHoldEnd n high s
  | .pwmPeriodCut n => Sys2Proof.Machine.execPwmPeriodCut n s
  | .resync n => Sys2Proof.Machine.execResync n s
  | .angleLock n => Sys2Proof.Machine.execAngleLock n s
  | .adcTriggerOffer n => Sys2Proof.Machine.execAdcTriggerOffer n s
  | .tripInputAccept i1 pin => Sys2Proof.Machine.execTripInputAccept i1 pin s
  | .blankingEnd n => Sys2Proof.Machine.execBlankingEnd n s
  | .tripForce n => Sys2Proof.Machine.execTripForce n s
  | .tripClr n => Sys2Proof.Machine.execTripClr n s
  | .pwmEnable n v => Sys2Proof.Machine.execPwmEnable n v s
  | .pwmDisable n => Sys2Proof.Machine.execPwmDisable n s
  | .eventLineAccept i1 pin => Sys2Proof.Machine.execEventLineAccept i1 pin s
  | .bsOkFall b => Sys2Proof.Machine.execBsOkFall b s
  | .bsOkRise b levels => Sys2Proof.Machine.execBsOkRise b levels s
  | .bankEnFall b => Sys2Proof.Machine.execBankEnFall b s
  | .bankEnPresent b => Sys2Proof.Machine.execBankEnPresent b s
  | .outputFault i1 => Sys2Proof.Machine.execOutputFault i1 s
  | .outFaultClear b bits => Sys2Proof.Machine.execOutFaultClear b bits s
  | .chainFrame c inputs => Sys2Proof.Machine.execChainFrame c inputs s
  | .chainEnable n v => Sys2Proof.Machine.execChainEnable n v s
  | .chainDisable n => Sys2Proof.Machine.execChainDisable n s
  | .regTrig n => Sys2Proof.Machine.execRegTrig n s
  | .injTrig n => Sys2Proof.Machine.execInjTrig n s
  | .flush n => Sys2Proof.Machine.execFlush n s
  | .sequenceDelayExpiry c injected => Sys2Proof.Machine.execSequenceDelayExpiry c injected s
  | .holdEdge c injected value => Sys2Proof.Machine.execHoldEdge c injected value s
  | .conversionEnd c injected => Sys2Proof.Machine.execConversionEnd c injected s
  | .resultEntry c => Sys2Proof.Machine.execResultEntry c s
  | .adcDeadline c => Sys2Proof.Machine.execAdcDeadline c s
  | .fifoRead c => Sys2Proof.Machine.execFifoRead c s
  | .adcEnable n v => Sys2Proof.Machine.execAdcEnable n v s
  | .adcDisable n => Sys2Proof.Machine.execAdcDisable n s
  | .claimConfigure h claim reserve quota => Sys2Proof.Machine.execClaimConfigure h claim reserve quota s
  | .claimAlloc h claim blocks => Sys2Proof.Machine.execClaimAlloc h claim blocks s
  | .claimFree h claim first blocks => Sys2Proof.Machine.execClaimFree h claim first blocks s
  | .poolWrite h arg body => Sys2Proof.Machine.execPoolWrite h arg body s
  | .poolRead h arg body => Sys2Proof.Machine.execPoolRead h arg body s
  | .scrub finds => Sys2Proof.Machine.execScrub finds s
  | .selfRefreshEntry => Sys2Proof.Machine.execSelfRefreshEntry s
  | .dmaStart n v => Sys2Proof.Machine.execDmaStart n v s
  | .dmaAbort n => Sys2Proof.Machine.execDmaAbort n s
  | .dmaBurst n => Sys2Proof.Machine.execDmaBurst n s
  | .commandFrame src session body => Sys2Proof.Machine.execCommandFrame src session body s
  | .nop h arg body => Sys2Proof.Machine.execNop h arg body s
  | .nopRelease h chainReset => Sys2Proof.Machine.execNopRelease h chainReset s
  | .nopChainReset h => Sys2Proof.Machine.execNopChainReset h s
  | .read h arg body => Sys2Proof.Machine.execRead h arg body s
  | .write h arg body => Sys2Proof.Machine.execWrite h arg body s
  | .modify h arg body => Sys2Proof.Machine.execModify h arg body s
  | .fence h arg body => Sys2Proof.Machine.execFence h arg body s
  | .fenceComplete n => Sys2Proof.Machine.execFenceComplete n s
  | .orderedStart n => Sys2Proof.Machine.execOrderedStart n s
  | .replyFrameSend n => Sys2Proof.Machine.execReplyFrameSend n s
  | .resetCmd h arg body => Sys2Proof.Machine.execResetCmd h arg body s
  | .coldReset cause => Sys2Proof.Machine.execColdReset cause s
  | .warmReset cause => Sys2Proof.Machine.execWarmReset cause s
  | .powerStateRun h => Sys2Proof.Machine.execPowerStateRun h s
  | .powerStateDoze h => Sys2Proof.Machine.execPowerStateDoze h s
  | .powerStateWatch h => Sys2Proof.Machine.execPowerStateWatch h s
  | .powerStateOff h => Sys2Proof.Machine.execPowerStateOff h s
  | .txnBegin h arg body => Sys2Proof.Machine.execTxnBegin h arg body s
  | .txnCommit h arg body => Sys2Proof.Machine.execTxnCommit h arg body s
  | .txnRollback h arg body => Sys2Proof.Machine.execTxnRollback h arg body s
  | .txnPrepare h arg body => Sys2Proof.Machine.execTxnPrepare h arg body s
  | .commitTick id => Sys2Proof.Machine.execCommitTick id s
  | .commitLimitExpiry id => Sys2Proof.Machine.execCommitLimitExpiry id s
  | .txnIdleTimeout id => Sys2Proof.Machine.execTxnIdleTimeout id s
  | .decisionDeadline id => Sys2Proof.Machine.execDecisionDeadline id s
  | .pointWithoutDecision id => Sys2Proof.Machine.execPointWithoutDecision id s
  | .prepareRetry id => Sys2Proof.Machine.execPrepareRetry id s
  | .sourceRaise i1 value => Sys2Proof.Machine.execSourceRaise i1 value s
  | .ntfRaise i1 => Sys2Proof.Machine.execNtfRaise i1 s
  | .ntfClear i1 => Sys2Proof.Machine.execNtfClear i1 s
  | .deliverySelection t => Sys2Proof.Machine.execDeliverySelection t s
  | .deliveryActive t => Sys2Proof.Machine.execDeliveryActive t s
  | .notifyComplete h arg body => Sys2Proof.Machine.execNotifyComplete h arg body s
  | .redeliver t => Sys2Proof.Machine.execRedeliver t s
  | .frameReceive f => Sys2Proof.Machine.execFrameReceive f s
  | .linkUp p rate host => Sys2Proof.Machine.execLinkUp p rate host s
  | .linkDown p => Sys2Proof.Machine.execLinkDown p s
  | .ringBreak => Sys2Proof.Machine.execRingBreak s
  | .ringClose => Sys2Proof.Machine.execRingClose s
  | .closeHoldEnd p => Sys2Proof.Machine.execCloseHoldEnd p s
  | .credit p c => Sys2Proof.Machine.execCredit p c s
  | .creditAdvertise => Sys2Proof.Machine.execCreditAdvertise s
  | .enumerate src next pos => Sys2Proof.Machine.execEnumerate src next pos s
  | .discover src => Sys2Proof.Machine.execDiscover src s
  | .assign src a uid => Sys2Proof.Machine.execAssign src a uid s
  | .sync p hops src seq origin frac corr step residence => Sys2Proof.Machine.execSync p hops src seq origin frac corr step residence s
  | .syncTimeout => Sys2Proof.Machine.execSyncTimeout s
  | .pdelayMeasure => Sys2Proof.Machine.execPdelayMeasure s
  | .pdelayReq p residence => Sys2Proof.Machine.execPdelayReq p residence s
  | .pdelayResp p step residence => Sys2Proof.Machine.execPdelayResp p step residence s
  | .wakeToken p a reason => Sys2Proof.Machine.execWakeToken p a reason s
  | .wakeCtl src a reason => Sys2Proof.Machine.execWakeCtl src a reason s
  | .retrain p => Sys2Proof.Machine.execRetrain p s
  | .linkCtlReset p key uid => Sys2Proof.Machine.execLinkCtlReset p key uid s
  | .twinEnable v => Sys2Proof.Machine.execTwinEnable v s
  | .searchTimeout => Sys2Proof.Machine.execSearchTimeout s
  | .heartbeatSend => Sys2Proof.Machine.execHeartbeatSend s
  | .heartbeat b => Sys2Proof.Machine.execHeartbeat b s
  | .leaseLapse => Sys2Proof.Machine.execLeaseLapse s
  | .heartbeatLoss => Sys2Proof.Machine.execHeartbeatLoss s
  | .twinProbeRepeat => Sys2Proof.Machine.execTwinProbeRepeat s
  | .lossConfirmed => Sys2Proof.Machine.execLossConfirmed s
  | .twinProbe pair => Sys2Proof.Machine.execTwinProbe pair s
  | .twinAlive pair => Sys2Proof.Machine.execTwinAlive pair s
  | .takeoverFrame pair => Sys2Proof.Machine.execTakeoverFrame pair s
  | .epochBoundary => Sys2Proof.Machine.execEpochBoundary s
  | .epoch seq number digests => Sys2Proof.Machine.execEpoch seq number digests s
  | .epochAck seq shafts lanes => Sys2Proof.Machine.execEpochAck seq shafts lanes s
  | .resyncReq i1 lane => Sys2Proof.Machine.execResyncReq i1 lane s
  | .copy seq part => Sys2Proof.Machine.execCopy seq part s
  | .item seq item => Sys2Proof.Machine.execItem seq item s
  | .epochTimeout => Sys2Proof.Machine.execEpochTimeout s
  | .switch => Sys2Proof.Machine.execSwitch s
  | .joiningEnd => Sys2Proof.Machine.execJoiningEnd s
  | .governorPeriod power j => Sys2Proof.Machine.execGovernorPeriod power j s
  | .levelChangeEnd => Sys2Proof.Machine.execLevelChangeEnd s
  | .grantReclassification mw => Sys2Proof.Machine.execGrantReclassification mw s
  | .thermalTrip i1 t => Sys2Proof.Machine.execThermalTrip i1 t s
  | .watchEntry => Sys2Proof.Machine.execWatchEntry s
  | .watchExit => Sys2Proof.Machine.execWatchExit s
  | .alarm => Sys2Proof.Machine.execAlarm s
  | .canaryEdge n a b dirX dirA fast => Sys2Proof.Machine.execCanaryEdge n a b dirX dirA fast s
  | .canaryRun i1 => Sys2Proof.Machine.execCanaryRun i1 s
  | .canaryTest => Sys2Proof.Machine.execCanaryTest s
  | .canaryLoad h arg body => Sys2Proof.Machine.execCanaryLoad h arg body s
  | .canLdi w => Sys2Proof.Machine.execCanLdi w s
  | .canLdh w => Sys2Proof.Machine.execCanLdh w s
  | .canIn w => Sys2Proof.Machine.execCanIn w s
  | .canAdd w => Sys2Proof.Machine.execCanAdd w s
  | .canSub w => Sys2Proof.Machine.execCanSub w s
  | .canAnd w => Sys2Proof.Machine.execCanAnd w s
  | .canOr w => Sys2Proof.Machine.execCanOr w s
  | .canXor w => Sys2Proof.Machine.execCanXor w s
  | .canShr w => Sys2Proof.Machine.execCanShr w s
  | .canAbs w => Sys2Proof.Machine.execCanAbs w s
  | .canCmp w => Sys2Proof.Machine.execCanCmp w s
  | .canTst w => Sys2Proof.Machine.execCanTst w s
  | .canFilt w => Sys2Proof.Machine.execCanFilt w s
  | .canBr w => Sys2Proof.Machine.execCanBr w s
  | .canWake w => Sys2Proof.Machine.execCanWake w s
  | .canRaise w => Sys2Proof.Machine.execCanRaise w s
  | .canEnd w => Sys2Proof.Machine.execCanEnd w s
  | .tallySet i1 => Sys2Proof.Machine.execTallySet i1 s
  | .tallyFlush => Sys2Proof.Machine.execTallyFlush s
  | .tallyFlushCmd => Sys2Proof.Machine.execTallyFlushCmd s
  | .calendarSet => Sys2Proof.Machine.execCalendarSet s
  | .calendarAdjustment => Sys2Proof.Machine.execCalendarAdjustment s
  | .calendarValidityChange => Sys2Proof.Machine.execCalendarValidityChange s
  | .battLow => Sys2Proof.Machine.execBattLow s
  | .gapRecordRead => Sys2Proof.Machine.execGapRecordRead s
  | .storeOpen h slot => Sys2Proof.Machine.execStoreOpen h slot s
  | .storeAppend h slot records => Sys2Proof.Machine.execStoreAppend h slot records s
  | .storeClose h slot => Sys2Proof.Machine.execStoreClose h slot s
  | .storeErase h slot => Sys2Proof.Machine.execStoreErase h slot s
  | .storeLock h slot => Sys2Proof.Machine.execStoreLock h slot s
  | .storeUnlock h slot => Sys2Proof.Machine.execStoreUnlock h slot s
  | .recallConfig h arg body => Sys2Proof.Machine.execRecallConfig h arg body s
  | .powerUp mw => Sys2Proof.Machine.execPowerUp mw s
  | .bootTimeout => Sys2Proof.Machine.execBootTimeout s
  | .ready => Sys2Proof.Machine.execReady s
  | .holdOkRise => Sys2Proof.Machine.execHoldOkRise s
  | .holdOkFall => Sys2Proof.Machine.execHoldOkFall s
  | .powerLoss => Sys2Proof.Machine.execPowerLoss s
  | .inputHigh => Sys2Proof.Machine.execInputHigh s
  | .watchdog => Sys2Proof.Machine.execWatchdog s
  | .faultLogFlush => Sys2Proof.Machine.execFaultLogFlush s
  | .faultLogSelect age => Sys2Proof.Machine.execFaultLogSelect age s
  | .faultLogLoaded good => Sys2Proof.Machine.execFaultLogLoaded good s
  | .catchupLagClosed n => Sys2Proof.Machine.execCatchupLagClosed n s
  | .virtHoldEnd n => Sys2Proof.Machine.execVirtHoldEnd n s
  | .profileReversal n => Sys2Proof.Machine.execProfileReversal n s
  | .corePowerRemoved => Sys2Proof.Machine.execCorePowerRemoved s
  | .inputHighClear => Sys2Proof.Machine.execInputHighClear s

end Sys2Proof.Machine
end

