-- ==== Sys2Proof/Machine/Words.lean ====
section
/-! DEFINITION. The words of the Blulet and of the Canary programs (R118, R120, R453): the command that a word in a
program is. -/

namespace Sys2Proof.Machine

/-- The fields of a Blulet word, issued by a thread with what its fetch and its data access find. -/
def Issue.ofWord (g : Fin 256) (w : BitVec 64) : Issue :=
  { thread := g, d := BitVec.extractLsb' 52 4 w, s := BitVec.extractLsb' 48 4 w, t := BitVec.extractLsb' 44 4 w,
    m := BitVec.extractLsb' 40 4 w, x := BitVec.extractLsb' 32 8 w, imm := BitVec.extractLsb' 0 32 w,
    fetch := .none_, data := .none_ }

/-- OP of a Blulet word. -/
def bluOp (w : BitVec 64) : Nat := w.toNat / 2 ^ 56

/-- The word of an opcode with the fields of an issue. -/
def Issue.word (i : Issue) (op : BitVec 8) : BitVec 64 :=
  op ++ i.d ++ i.s ++ i.t ++ i.m ++ i.x ++ i.imm

/-- The command that a Blulet opcode is; none where it is reserved. -/
def bluRow (op : Nat) (i : Issue) : Option Instr :=
  match op with
  | 0x01 => some (.bluAdd i)
  | 0x02 => some (.bluSub i)
  | 0x03 => some (.bluCmp i)
  | 0x04 => some (.bluAnd i)
  | 0x05 => some (.bluOr i)
  | 0x06 => some (.bluXor i)
  | 0x07 => some (.bluShl i)
  | 0x08 => some (.bluShr i)
  | 0x09 => some (.bluSar i)
  | 0x0A => some (.bluMul i)
  | 0x0B => some (.bluMulh i)
  | 0x0C => some (.bluMin i)
  | 0x0D => some (.bluMax i)
  | 0x0E => some (.bluMov i)
  | 0x0F => some (.bluClf i)
  | 0x10 => some (.bluWadd i)
  | 0x11 => some (.bluWmov i)
  | 0x12 => some (.bluWget i)
  | 0x13 => some (.bluWput i)
  | 0x14 => some (.bluWcmp i)
  | 0x15 => some (.bluWsub i)
  | 0x16 => some (.bluNow i)
  | 0x17 => some (.bluAng i)
  | 0x20 => some (.bluLd i)
  | 0x21 => some (.bluSt i)
  | 0x22 => some (.bluLdw i)
  | 0x23 => some (.bluStw i)
  | 0x24 => some (.bluXadd i)
  | 0x28 => some (.bluBrd i)
  | 0x29 => some (.bluBwr i)
  | 0x2A => some (.bluBrdw i)
  | 0x2B => some (.bluFnc i)
  | 0x30 => some (.bluWaita i)
  | 0x31 => some (.bluWaitt i)
  | 0x32 => some (.bluWaits i)
  | 0x33 => some (.bluYield i)
  | 0x34 => some (.bluHalt i)
  | 0x35 => some (.bluSig i)
  | 0x38 => some (.bluArm i)
  | 0x39 => some (.bluCancel i)
  | 0x3A => some (.bluEdge i)
  | 0x3B => some (.bluCapt i)
  | 0x3C => some (.bluSnap i)
  | 0x3D => some (.bluPost i)
  | 0x3E => some (.bluProd i)
  | 0x40 => some (.bluBr i)
  | 0x41 => some (.bluDbnz i)
  | 0x42 => some (.bluCall i)
  | 0x43 => some (.bluRet i)
  | 0x44 => some (.bluJr i)
  | _ => none

/-- The command that a Blulet word is. -/
def bluCommand (g : Fin 256) (w : BitVec 64) : Option Instr := bluRow (bluOp w) (Issue.ofWord g w)

/-- The opcode of a Blulet instruction and its fields. -/
def bluSpelled : Instr → Option (BitVec 8 × Issue)
  | .bluAdd i => some (0x01, i)
  | .bluSub i => some (0x02, i)
  | .bluCmp i => some (0x03, i)
  | .bluAnd i => some (0x04, i)
  | .bluOr i => some (0x05, i)
  | .bluXor i => some (0x06, i)
  | .bluShl i => some (0x07, i)
  | .bluShr i => some (0x08, i)
  | .bluSar i => some (0x09, i)
  | .bluMul i => some (0x0A, i)
  | .bluMulh i => some (0x0B, i)
  | .bluMin i => some (0x0C, i)
  | .bluMax i => some (0x0D, i)
  | .bluMov i => some (0x0E, i)
  | .bluClf i => some (0x0F, i)
  | .bluWadd i => some (0x10, i)
  | .bluWmov i => some (0x11, i)
  | .bluWget i => some (0x12, i)
  | .bluWput i => some (0x13, i)
  | .bluWcmp i => some (0x14, i)
  | .bluWsub i => some (0x15, i)
  | .bluNow i => some (0x16, i)
  | .bluAng i => some (0x17, i)
  | .bluLd i => some (0x20, i)
  | .bluSt i => some (0x21, i)
  | .bluLdw i => some (0x22, i)
  | .bluStw i => some (0x23, i)
  | .bluXadd i => some (0x24, i)
  | .bluBrd i => some (0x28, i)
  | .bluBwr i => some (0x29, i)
  | .bluBrdw i => some (0x2A, i)
  | .bluFnc i => some (0x2B, i)
  | .bluWaita i => some (0x30, i)
  | .bluWaitt i => some (0x31, i)
  | .bluWaits i => some (0x32, i)
  | .bluYield i => some (0x33, i)
  | .bluHalt i => some (0x34, i)
  | .bluSig i => some (0x35, i)
  | .bluArm i => some (0x38, i)
  | .bluCancel i => some (0x39, i)
  | .bluEdge i => some (0x3A, i)
  | .bluCapt i => some (0x3B, i)
  | .bluSnap i => some (0x3C, i)
  | .bluPost i => some (0x3D, i)
  | .bluProd i => some (0x3E, i)
  | .bluBr i => some (0x40, i)
  | .bluDbnz i => some (0x41, i)
  | .bluCall i => some (0x42, i)
  | .bluRet i => some (0x43, i)
  | .bluJr i => some (0x44, i)
  | _ => none

/-- The command that a Canary opcode is; none where it is illegal. -/
def canRow (op : Nat) (w : CanWord) : Option Instr :=
  match op with
  | 0x01 => some (.canLdi w)
  | 0x02 => some (.canLdh w)
  | 0x03 => some (.canIn w)
  | 0x04 => some (.canAdd w)
  | 0x05 => some (.canSub w)
  | 0x06 => some (.canAnd w)
  | 0x07 => some (.canOr w)
  | 0x08 => some (.canXor w)
  | 0x09 => some (.canShr w)
  | 0x0A => some (.canAbs w)
  | 0x0B => some (.canCmp w)
  | 0x0C => some (.canTst w)
  | 0x0D => some (.canFilt w)
  | 0x0E => some (.canBr w)
  | 0x0F => some (.canWake w)
  | 0x10 => some (.canRaise w)
  | 0x11 => some (.canEnd w)
  | _ => none

/-- The command that a Canary word is. -/
def canCommand (w : Word) : Option Instr := canRow (canOp w) (CanWord.ofWord w)

/-- The word of an opcode with the fields of a Canary instruction. -/
def CanWord.word (w : CanWord) (op : BitVec 6) : Word := op ++ w.d ++ w.s ++ w.m ++ w.imm

/-- The opcode of a Canary instruction and its fields. -/
def canSpelled : Instr → Option (BitVec 6 × CanWord)
  | .canLdi w => some (0x01, w)
  | .canLdh w => some (0x02, w)
  | .canIn w => some (0x03, w)
  | .canAdd w => some (0x04, w)
  | .canSub w => some (0x05, w)
  | .canAnd w => some (0x06, w)
  | .canOr w => some (0x07, w)
  | .canXor w => some (0x08, w)
  | .canShr w => some (0x09, w)
  | .canAbs w => some (0x0A, w)
  | .canCmp w => some (0x0B, w)
  | .canTst w => some (0x0C, w)
  | .canFilt w => some (0x0D, w)
  | .canBr w => some (0x0E, w)
  | .canWake w => some (0x0F, w)
  | .canRaise w => some (0x10, w)
  | .canEnd w => some (0x11, w)
  | _ => none

end Sys2Proof.Machine
end

