-- ==== Sys2Proof/Machine/Due.lean ====
section
/-! DEFINITION. What the engine does by itself: the commands due in the present tick, in the order in which they are
taken, and the passing of a tick. -/

namespace Sys2Proof.Machine

/-- The commands of the members below `k` that are due. -/
def dueIn (k : Nat) [NeZero k] (p : Nat → Bool) (f : Fin k → Instr) : List Instr :=
  ((List.range k).filter p).map fun i => f (Fin.ofNat k i)

/-- A command, where it is due. -/
def dueIf (p : Bool) (i : Instr) : List Instr := if p then [i] else []

/-- The commands of the first stage that has any: a stage follows only when those before it have nothing left to do in the
tick. -/
def firstOf (stages : List (List Instr)) : List Instr := (stages.find? fun is => !is.isEmpty).getD []

/-! ## Rows that are due (R14, R15) -/

/-- Of transactions: commits come first (R350). -/
def State.dueTxns (s : State) : List Instr :=
  let each (p : Nat → Bool) (f : BitVec 16 → Instr) : List Instr :=
    (s.txns.filter fun t => p t.id).map fun t => f (BitVec.ofNat 16 t.id)
  each s.commitDue .commitTick ++ each s.missDue .pointWithoutDecision ++ each s.deadlineDue .decisionDeadline ++
    each s.limitDue .commitLimitExpiry ++ each s.retryDue .prepareRetry ++ each s.idleDue .txnIdleTimeout

/-- Of shafts. -/
def State.dueShafts (s : State) : List Instr :=
  dueIn 16 s.profileTurned .profileReversal ++ dueIn 16 s.idxLossDue .idxLoss ++ dueIn 16 s.virtTimeoutDue .virtTimeout ++
    dueIn 16 s.stillDue .stillTimeout ++ dueIn 16 s.virtDue .virtRecompute ++ dueIn 16 s.phaseDue .phaseSample

/-- Of Almanac events: starts, then ends and re-arms (R86). -/
def State.dueEvents (s : State) : List Instr :=
  ((s.events.keys.filter s.almStartDue).map fun i => .eventStart (Fin.ofNat 16384 i)) ++
    ((s.events.keys.filter s.almEndDue).map fun i => .eventEnd (Fin.ofNat 16384 i))

/-- Of timer cells, in ascending order so that carries pass upward (R246). -/
def State.dueCells (s : State) : List Instr :=
  s.cellsOn.flatMap fun n =>
    dueIf (s.cellStepDue n) (.cellStep (Fin.ofNat 1024 n)) ++ dueIf (s.cellCutDue n) (.periodRestart (Fin.ofNat 1024 n)) ++
      dueIf (s.cellPassedDue n) (.passedCompareMatch (Fin.ofNat 1024 n))

/-- Of one PWM generator, stage by stage (R267): cuts, boundaries, points and resynchronisations, then the reference, then
the ends and the starts of its outputs, then its triggers. -/
def State.duePwm (s : State) (n : Fin 24) : List Instr :=
  let k := n.val
  firstOf [
    dueIf (s.pwmCutDue k) (.pwmPeriodCut n) ++ dueIf (s.pwm k).bndDue (.pwmBoundary n) ++
      dueIf (s.pwm k).midDue (.midPeriodPoint n) ++ dueIf (s.pwmLockDue k) (.angleLock n),
    dueIf (s.pwmRefDue k) (.referenceEdge n),
    dueIf (s.pwmHoldDue k true) (.minpulseHoldEnd n true) ++ dueIf (s.pwmHoldDue k false) (.minpulseHoldEnd n false),
    dueIf (s.pwmStartDue k true) (.deadTimeExpiry n true) ++ dueIf (s.pwmStartDue k false) (.deadTimeExpiry n false),
    dueIf (s.pwmOfferDue k) (.adcTriggerOffer n)]

/-- Of PWM generators: trips come first (R267), of those that are disabled too. -/
def State.duePwms (s : State) : List Instr :=
  firstOf [dueIn 24 s.pwmBlankDue .blankingEnd, s.pwmsOn.flatMap fun n => s.duePwm (Fin.ofNat 24 n)]

/-- Of feedback ports and expander chains. -/
def State.duePorts (s : State) : List Instr :=
  dueIn 16 s.frameDue .serialFrameStart ++ dueIn 16 s.emuDue .emuOutputCount

/-- Of converters, in the order of R298. -/
def State.dueAdcs (s : State) : List Instr :=
  let each (p : Nat → Bool → Bool) (f : Fin 4 → Bool → Instr) : List Instr :=
    dueIn 4 (fun c => p c true) (fun c => f c true) ++ dueIn 4 (fun c => p c false) (fun c => f c false)
  each s.adcDelayDue .sequenceDelayExpiry ++ dueIn 4 s.adcDeadlineDue .adcDeadline ++ each s.adcConvDue .conversionEnd ++
    dueIn 4 (fun c => !(s.adc c).wait.isEmpty) .resultEntry

/-- Of the Ephemeris: entries, then firings, then retirements at the exit (R148). -/
def State.dueLanes (s : State) : List Instr :=
  firstOf [dueIn 16 s.slotDue .slotEntry, dueIn 64 (fun k => (s.stnNext k).isSome) .stationFire,
    dueIn 16 (fun n => !(s.exitDue n).isEmpty) .productExit,
    (s.handoffs.filter fun h => s.ackDue h.product).map fun h => .handoffAckTimeout (Fin.ofNat 65536 h.product)]

/-- Of the composer: jobs end before others start (R165). -/
def State.dueJobs (s : State) : List Instr :=
  let jobs (p : Nat → Bool) (f : Nat → Instr) : List Instr := ((List.range s.jobs.length).filter p).map f
  jobs s.jobDeadlineDue .jobDeadline ++ jobs s.jobLateDue .jobLate ++ dueIn 8 s.reservationDue .serialReservation ++
    (((List.range s.activeJobs.length).filter fun k => (s.activeJobs[k]?.map s.jobEndDue).getD false).take 1).map .jobComplete ++
    dueIf s.jobStartDue .jobStart

/-- Of raster lanes, in the order of the table of R199. -/
def State.dueRasters (s : State) : List Instr :=
  firstOf [dueIn 8 s.rasRdyDue .rdyTimeout, dueIn 8 s.rasFrameDue .columnFrame, dueIn 8 s.rasColumnDue .columnStrobe,
    dueIn 8 s.rasStallDue .strobeStall]

/-- Of threads beside their instructions. -/
def State.dueThreads (s : State) : List Instr :=
  let each (p : Nat → Bool) (f : Fin 256 → Instr) : List Instr :=
    (s.threads.keys.filter p).map fun g => f (Fin.ofNat 256 g)
  dueIn 16 s.edgeDue .edgePlace ++
    each (fun g => !(s.th g).errs.isEmpty) .busErrReturn ++
    each s.waitMet .waitMet ++ each s.promotionDue .deadlinePromotion ++
    each (fun g => decide ((s.th g).st = .running) && s.sliceDone g) .forcedYield

/-- Of sessions. -/
def State.dueSessions (s : State) : List Instr :=
  dueIn 8 (fun n => (s.chainNext n).isSome) .orderedStart ++ dueIn 8 (fun n => (s.fenceDue n).isSome) .fenceComplete ++
    dueIn 8 s.replyDue .replyFrameSend

/-- Of notification targets. -/
def State.dueTargets (s : State) : List Instr :=
  dueIn 12 (fun t => !(s.sourcesIn t .delivering).isEmpty) .deliveryActive ++
    dueIn 12 (fun t => !(s.resends t).isEmpty) .redeliver ++ dueIn 12 s.deliveryDue .deliverySelection

/-- Of the fabric and the twin unit. -/
def State.dueLinks (s : State) : List Instr :=
  dueIf s.publishDue .lineshaftPublish ++ dueIf s.pdelayDue .pdelayMeasure ++ dueIf s.creditDue .creditAdvertise ++
    dueIf s.syncLost .syncTimeout ++ dueIn 3 s.holdEndDue .closeHoldEnd ++
    dueIf s.searchDue .searchTimeout ++ dueIf s.lossDue .heartbeatLoss ++ dueIf s.probeDue .twinProbeRepeat ++
    dueIf s.confirmDue .lossConfirmed ++ dueIf s.beatDue .heartbeatSend ++ dueIf s.leaseDue .leaseLapse ++
    dueIf s.epochDue .epochBoundary ++ dueIf s.epochLate .epochTimeout ++ dueIf s.joiningDue .joiningEnd

/-- Of the engine as a whole. -/
def State.dueEngine (s : State) : List Instr :=
  dueIf s.levelDue .levelChangeEnd ++ dueIf s.calAdjustDue .calendarAdjustment ++
    dueIf s.calCheckDue .calendarValidityChange ++ dueIf s.flushDue .tallyFlush ++ dueIf s.logDue .faultLogFlush ++
    dueIf s.logLoadDue (.faultLogLoaded true) ++ dueIf s.bootLate .bootTimeout ++ dueIf s.readyDue .ready ++
    dueIf s.watchNext.isSome .watchEntry ++ dueIf s.coreOffDue .corePowerRemoved

/-! ## Programs -/

/-- The thread of engine `e` whose instruction comes next, where the engine has a clock cycle for it (R102, R427). -/
def State.bluNext (s : State) (e : Nat) : Option Nat :=
  if s.power = .run ∧ ¬s.standby ∧ 400 ≤ FMap.get (fun _ => 0) s.bluCycles e then
    match s.bluRunning e with
    | some g => some g
    | none => s.bluChoice e
  else none

/-- The command of a thread's next word; none where the word is illegal or outside the instruction memory. -/
def State.bluFetch (s : State) (g : Nat) : Option Instr :=
  if (s.th g).pc < imemSize then bluCommand (Fin.ofNat 256 g) (s.imemAt (thEngine g) (s.th g).pc) else none

/-- The instruction that issues now: an engine issues all that its clock allows in the tick before the next engine, so the
writes that reach a register in one tick are applied in ascending thread id (R127). -/
def State.dueIssues (s : State) : List Instr :=
  ((List.range 16).filterMap fun e => (s.bluNext e).bind s.bluFetch).take 1

/-- The threads whose next word is no instruction (R114, R118). -/
def State.strays (s : State) : List Nat :=
  (List.range 16).filterMap fun e => (s.bluNext e).filter fun g => (s.bluFetch g).isNone

/-- The fetch of a word that is no instruction faults its thread (R114, R118). -/
def State.stray (s : State) (g : Nat) : State :=
  s.bluIssue (Issue.ofWord (Fin.ofNat 256 g) 0) false fun t _ => .ok t

/-- The next word of a Canary run in progress; an illegal one ends the run with a fault (R450, R453). -/
def State.canNext (s : State) : List Instr :=
  if s.canary.run = .idle then [] else (canCommand (s.canWordAt s.canary.pc)).toList

/-- What is due in Run and Doze, unit by unit. -/
def State.dueAwake (s : State) : List Instr :=
  firstOf [s.dueTxns, s.dueShafts, s.dueCells, s.dueEvents, s.duePwms, s.duePorts, s.dueAdcs, s.dueLanes, s.dueJobs,
    s.dueRasters, s.dueThreads, s.dueIssues, s.canNext, s.dueSessions, s.dueTargets, s.dueLinks, s.dueEngine]

/-- What is due in Watch. -/
def State.dueWatch (s : State) : List Instr :=
  s.canNext ++ dueIf (s.alarmDue && s.wakeAt.isNone) .alarm ++ dueIf s.wakeDue .watchExit ++
    dueIf s.calAdjustDue .calendarAdjustment ++ dueIf s.calCheckDue .calendarValidityChange

/-- What is due in Off. -/
def State.dueOff (s : State) : List Instr :=
  dueIf s.calAdjustDue .calendarAdjustment ++ dueIf s.calCheckDue .calendarValidityChange

/-- The commands that the engine itself takes in the present tick. -/
def State.dueRows (s : State) : List Instr :=
  match s.power with
  | .run => s.dueAwake
  | .doze => s.dueAwake
  | .watch => s.dueWatch
  | .off => s.dueOff

/-! ## The passing of time (R2, R32) -/

/-- Clock cycles for the engines whose threads can use them (R427). -/
def State.bluTick (s : State) : State :=
  let es := (s.threads.keys.map thEngine).eraseDups
  es.foldl (fun t e =>
    { t with bluCycles := FMap.set (fun _ => 0) t.bluCycles e (FMap.get (fun _ => 0) t.bluCycles e % 400 + t.bluClock) }) s

/-- Ticks of which φ is kept (R123). -/
def trailLength : Nat := 7

/-- φ of the shafts at the end of the tick; that of a shaft disabled since is held (R45, R123). -/
def State.trailTick (s : State) : State :=
  State.forEach 16 (fun t n =>
    if t.shaftEn n ∨ ¬(FMap.get (fun _ => []) t.phiTrail n).isEmpty then
      let l := (t.phi n :: FMap.get (fun _ => []) t.phiTrail n).take trailLength
      { t with phiTrail := FMap.set (fun _ => []) t.phiTrail n l }
    else t) s

/-- The operating hours count in seconds of engine time (R459). -/
def State.secondTick (s : State) : State :=
  if s.time % ticksS = 0 then s.bumpTally tallyOpSeconds 1 else s

/-- Bytes that port `p` can carry in 1 ms at its rate. -/
def State.linkBytesMs (s : State) (p : Nat) : Nat := 1250000 / 2 ^ s.fld (FAB_P_STAT p) FAB_P_STAT_RATE

/-- LOAD of port `p`: the TC0 share of the last 1 ms of link time, in 1/256 (R404). -/
def State.loadPort (s : State) (p : Nat) : State :=
  (s.setFld (FAB_P_TC0 p) FAB_P_TC0_LOAD (min 255 ((s.link p).tc0Bytes * 256 / s.linkBytesMs p))).setLink p
    { s.link p with tc0Bytes := 0 }

/-- Each ms the loads of the three ports are taken. -/
def State.loadTick (s : State) : State := if s.time % ticksMs = 0 then State.forEach 3 State.loadPort s else s

/-- What the end of a tick observes (R143, R348). -/
def State.tickEnds (s : State) : State := (State.forEach 16 (fun t n => t.laneObserve n) s.txnObserve).cellsEnd.fioEnds.trailTick

/-- What was written in the tick before acts (R246, R284). -/
def State.actsTick (s : State) : State :=
  (((({ s with actOld := [] }).cellsTick s.actOld).pwmsTick s.actOld).fioTick s.actOld).adcsTick

/-- The next tick begins. -/
def State.tickBegins (s : State) : State :=
  let t : State := { s with
    time := s.time + 1
    fresh := []
    leadEl := s.rg ALM_LEAD_EL
    leadPo := s.rg ALM_LEAD_PO
    prodWas := s.products
    boot := if s.bootProgress then { s.boot with progress := s.boot.progress + 1 } else s.boot }
  let u := (State.forEach 16 (fun x n => x.shaftTick n) t.calTick).actsTick.almDrain.secondTick.loadTick
  (u.pwmsOn.foldl (fun x n => x.pwmTick n) u).bluTick

/-- One DMA grant in a tick (R312). -/
def State.grantTick (s : State) : State :=
  match s.dmaGrant with
  | some n => { s with pending := [.dmaBurst (Fin.ofNat 32 n)] }
  | none => s

/-- One AON cycle in Watch, or without power (R430, R469). -/
def State.aonTick (s : State) : State :=
  let t := s.calAon s.aon
  { t with aon := s.aon + 1, fresh := [] }

/-- Time passes: a tick in Run and Doze, a cycle of the AON clock in Watch and Off. -/
def State.tick (s : State) : State := if s.awake then s.tickEnds.tickBegins.grantTick else s.aonTick

/-- What the engine does where no command waits: words that are no instruction fault, then what is due waits its turn,
then time passes. -/
def State.idle (s0 : State) : State :=
  let s := if s0.awake then s0.settle else s0
  match s.strays with
  | g :: _ => s.stray g
  | [] =>
    if s.canary.run ≠ .idle ∧ s.canNext.isEmpty then s.canFaultEnd 1
    else if ¬s.arrivals.isEmpty ∧ s.dueLanes.isEmpty then s.arrive
    else
      match s.dueRows with
      | [] => s.tick
      | is => { s with pending := is }

end Sys2Proof.Machine
end

