-- ==== Sys2Proof/Machine/Pins.lean ====
section
/-! DEFINITION. The levels at the output pins as the state gives them: event lines, precision outputs, PWM outputs, expander
chains, raster lanes and the clock pairs of serial encoders (R26, R189, R195, R205, R216, R256, R263, R276, R278, R279).
Level and edge times hold up to the path latencies that the spec gives apart from them. -/

namespace Sys2Proof.Machine

/-- The level at an output pin; none where it is high impedance (R26). -/
abbrev Pin := Option Bool

/-- The pin of a logic state: its level after polarity where it is driven, high impedance where it is not. -/
def pinOf (driven logic activeLow : Bool) : Pin := if driven then some (logic != activeLow) else none

/-- A level output drives its pin: it is driven, and R28 does not hold it. -/
def State.pinDriven (s : State) (o : Nat) : Bool := s.driven o && !(s.out o).hold

/-- The pin of event line `i` (R276). -/
def State.linePin (s : State) (i : Nat) : Pin :=
  pinOf (s.pinDriven (outLine i)) (s.out (outLine i)).on (decide (s.actFld (FIO_EL_CFG i) FIO_EL_CFG_POL = 1))

/-- The pin of precision output `j` (R278). -/
def State.precisionPin (s : State) (j : Nat) : Pin :=
  pinOf (s.pinDriven (outPrecision j)) (s.out (outPrecision j)).on (s.flag (FIO_PO_CFG j) FIO_PO_CFG_POL)

/-- The pin of output H, or L, of PWM generator `n`: the output, or while the generator is tripped its trip state, which may
be high impedance (R256, R263). -/
def State.pwmPin (s : State) (n : Nat) (h : Bool) : Pin :=
  let low := s.flag (PWM_CFG n) (if h then PWM_CFG_H_POL else PWM_CFG_L_POL)
  let trip := s.pwmCfg n (if h then PWM_CFG_H_TRIP else PWM_CFG_L_TRIP)
  if s.pwmTripped n then pinOf (s.pwmDriven n && decide (trip < 2)) (decide (trip = 1)) low
  else pinOf (s.pwmDriven n) ((s.pwm n).out h).active low

/-! ## Expander chains (R279) -/

/-- Ticks of a bit time. -/
def bitTicks : Nat := 8

/-- The chain's signals are driven: a frame that OUT_LIVE drives is in progress (R283). -/
def State.chainDriven (s : State) (c : Nat) : Bool := s.driveOn && (s.chain c).live

/-- Ticks since the frame in progress started, F_k. -/
def State.chainSince (s : State) (c : Nat) : Nat := s.time - (s.chain c).lastFrame

/-- SCK: it rises 4 ticks into each of the bit times 0 to LEN - 1 and stays low for the rest of the frame. DEDUCED: it falls
at the end of the bit time (log 61). -/
def State.chainSck (s : State) (c : Nat) : Pin :=
  let d := s.chainSince c
  pinOf (s.chainDriven c) (decide (d / bitTicks < s.chainLen c) && decide (4 ≤ d % bitTicks)) false

/-- LAT: high for the first 4 ticks of every frame. -/
def State.chainLat (s : State) (c : Nat) : Pin := pinOf (s.chainDriven c) (decide (s.chainSince c < 4)) false

/-- SDO: the bit of position p travels in bit time LEN - 1 - p. After the last bit time the level is a free value: the spec
states none (log 61). -/
def State.chainSdo (s : State) (c : Nat) : Pin :=
  let b := s.chainSince c / bitTicks
  pinOf (s.chainDriven c)
    (if b < s.chainLen c then bitOf (s.chain c).sent (s.chainLen c - 1 - b) else (Config.freeValue s.time).getLsbD 0) false

/-- The position whose input bit the engine samples on SDI in the present tick: in the bit time of that position, on the
rising edge of SCK delayed by SDLY ticks. -/
def State.chainSampled (s : State) (c : Nat) : Option Nat :=
  let e := 4 + s.fld (FIO_CH_CFG c) FIO_CH_CFG_SDLY
  let d := s.chainSince c
  if 0 < (s.chain c).count ∧ e ≤ d ∧ (d - e) % bitTicks = 0 ∧ (d - e) / bitTicks < s.chainLen c then
    some (s.chainLen c - 1 - (d - e) / bitTicks)
  else none

/-! ## Raster lanes (R189, R195) -/

/-- The lane drives its pairs, CLK among them, which runs continuously then. DEDUCED: a code that a disable lets run to its
last slot is driven to its end, whatever EN reads (R189, R201; log 65). -/
def State.rasDriven (s : State) (n : Nat) : Bool := s.driveOn && (s.ras n).live && (s.rasEn n || (s.ras n).code.isSome)

/-- The nibble on D0 to D3 in unit interval `k` after the start of the last frame: idle nibbles are 0x0. -/
def State.rasNibble (s : State) (n k : Nat) : Option Nat := if s.rasDriven n then some ((s.ras n).frame.getD k 0) else none

/-- The strobe pair at pin time `p`, in 1/64 ticks: each strobe lasts STB_W ticks, and STB_POL makes it active low. -/
def State.rasStrobePin (s : State) (n p : Nat) : Pin :=
  let w := s.fld (RAS_PROF1 n) RAS_PROF1_STB_W
  let on := (s.ras n).strobe.any fun t => decide (64 * t.1 + t.2 ≤ p) && decide (p < 64 * (t.1 + w) + t.2)
  pinOf (s.rasDriven n) on (s.flag (RAS_PROF0 n) RAS_PROF0_STB_POL)

/-! ## Serial encoders (R205, R216 to R218, R232) -/

/-- Clock periods of a frame: BITS + 1 for SSI, BITS + 25 for BISS (R216). -/
def State.frameClocks (s : State) (p : Nat) : Nat :=
  s.fld (FBP_SER_CFG p) FBP_SER_CFG_BITS + (if s.portMode p = 5 then 1 else 25)

/-- The CLK pair of port `p`: driven while EN is 1 in SSI and BISS, outside the scope of OUT_LIVE; it idles high and begins
each period of a frame low (R205, R217, R218). -/
def State.clockPin (s : State) (p : Nat) : Pin :=
  let half := s.fld (FBP_SER_CLK p) FBP_SER_CLK_HALF
  let low := (s.port p).frame.any fun f =>
    decide ((s.time - f.1) / half % 2 = 0) && decide (s.time - f.1 < 2 * half * s.frameClocks p)
  pinOf (s.portEn p && s.portSerial p) low true

end Sys2Proof.Machine
end

