-- ==== Sys2Proof/WellFormed.lean ====
section
/-! DEFINITION. The operands that the formats of the spec admit: the lengths of bodies and frames. Numbers are bounded by
their types. -/

namespace Sys2Proof

/-- The most bytes that a record's body holds (R318). -/
def recordBytes : Nat := 1468

/-- The most bytes that a frame body holds (R320). -/
def frameBytes : Nat := 1480

/-- A record's body fits its frame. -/
def bodyFits (body : List Byte) : Bool := decide (body.length ≤ recordBytes)

/-- The command is one that the formats admit. -/
def Instr.wf : Instr → Bool
  | .outputEnable _ _ body => bodyFits body
  | .eventArm _ _ body => bodyFits body
  | .eventCancel _ _ body => bodyFits body
  | .eventQuery _ _ body => bodyFits body
  | .bluletLoad _ _ body => bodyFits body
  | .bluletStart _ _ body => bodyFits body
  | .bluletStop _ _ body => bodyFits body
  | .productEnter _ _ body => bodyFits body
  | .productUpdate _ _ body => bodyFits body
  | .productQuery _ _ body => bodyFits body
  | .productRetire _ _ body => bodyFits body
  | .codeJob _ _ body => bodyFits body
  | .snapshot _ _ body => bodyFits body
  | .poolWrite _ _ body => bodyFits body
  | .poolRead _ _ body => bodyFits body
  | .nop _ _ body => bodyFits body
  | .read _ _ body => bodyFits body
  | .write _ _ body => bodyFits body
  | .modify _ _ body => bodyFits body
  | .fence _ _ body => bodyFits body
  | .resetCmd _ _ body => bodyFits body
  | .txnBegin _ _ body => bodyFits body
  | .txnCommit _ _ body => bodyFits body
  | .txnRollback _ _ body => bodyFits body
  | .txnPrepare _ _ body => bodyFits body
  | .notifyComplete _ _ body => bodyFits body
  | .canaryLoad _ _ body => bodyFits body
  | .recallConfig _ _ body => bodyFits body
  | .lineshaftReceive _ _ _ entries => decide (1 ≤ entries.length) && decide (entries.length ≤ 16)
  | .handoffRecordReceive _ _ _ _ body => decide (body.length = 64)
  | .commandFrame _ _ body => decide (body.length ≤ frameBytes)
  | .frameReceive f => decide (f.bytes.length ≤ 1500)
  | .epoch _ _ digests => decide (digests.length = 32)
  | .storeAppend _ _ records => bodyFits records
  | .registerWrite _ _ _ | .addrWrite _ | .shaftEnable _ _ | .shaftDisable _ | .toothEdge _ | .secondWheelEdge _ _
  | .idxLoss _ | .halted _ | .stillTimeout _ | .phaseSample _ | .phClr _ | .lineshaftPublish | .virtTimeout _
  | .virtRecompute _ | .eventStart _ | .eventEnd _ | .waitMet _ | .forcedYield _ | .deadlinePromotion _
  | .busErrReturn _ | .signalWrite _ _ | .edgePlace _ | .bluAdd _ | .bluSub _ | .bluCmp _ | .bluAnd _ | .bluOr _
  | .bluXor _ | .bluShl _ | .bluShr _ | .bluSar _ | .bluMul _ | .bluMulh _ | .bluMin _ | .bluMax _ | .bluMov _
  | .bluClf _ | .bluWadd _ | .bluWmov _ | .bluWget _ | .bluWput _ | .bluWcmp _ | .bluWsub _ | .bluNow _ | .bluAng _
  | .bluLd _ | .bluSt _ | .bluLdw _ | .bluStw _ | .bluXadd _ | .bluBrd _ | .bluBwr _ | .bluBrdw _ | .bluFnc _
  | .bluWaita _ | .bluWaitt _ | .bluWaits _ | .bluYield _ | .bluHalt _ | .bluSig _ | .bluArm _ | .bluCancel _
  | .bluEdge _ | .bluCapt _ | .bluSnap _ | .bluPost _ | .bluProd _ | .bluBr _ | .bluDbnz _ | .bluCall _ | .bluRet _
  | .bluJr _ | .laneEnable _ _ | .laneDisable _ | .slotEntry _ | .sensorEntry _ | .stationFire _ | .productExit _
  | .handoffAckReceive _ _ _ | .handoffAckTimeout _ | .jobStart | .jobComplete _ | .jobDeadline _ | .jobLate _
  | .serialReservation _ | .generatorEnable _ _ | .generatorDisable _ | .templateBind _ _ | .ringEnable _ _
  | .composerDisable | .columnStrobe _ | .columnFrame _ | .strobeStall _ | .rdyChange _ _ | .rdyTimeout _
  | .rasterEnable _ _ | .rasterDisable _ _ | .filterAcceptance _ _ _ _ _ | .serialFrameStart _
  | .serialFrameEnd _ _ | .posWrite _ _ | .pfaultClear _ | .portEnable _ _ | .portDisable _ | .supplyOn _ _
  | .supplyOff _ | .settlingEnd _ _ _ _ _ | .overcurrent _ _ | .lineBreak _ _ | .lineBreakEnd _ _ | .emuEnable _ _
  | .emuOutputCount _ | .cellStep _ | .periodRestart _ | .passedCompareMatch _ | .cellEnable _ _ | .cellDisable _
  | .cellCountWrite _ _ | .cellPeriodWrite _ _ | .cellCompareWrite _ _ | .capture _ | .capRead _ | .pwmBoundary _
  | .midPeriodPoint _ | .referenceEdge _ | .deadTimeExpiry _ _ | .minpulseHoldEnd _ _ | .pwmPeriodCut _ | .resync _
  | .angleLock _ | .adcTriggerOffer _ | .tripInputAccept _ _ | .blankingEnd _ | .tripForce _ | .tripClr _
  | .pwmEnable _ _ | .pwmDisable _ | .eventLineAccept _ _ | .bsOkFall _ | .bsOkRise _ _ | .bankEnFall _
  | .bankEnPresent _ | .outputFault _ | .outFaultClear _ _ | .chainFrame _ _ | .chainEnable _ _ | .chainDisable _
  | .regTrig _ | .injTrig _ | .flush _ | .sequenceDelayExpiry _ _ | .holdEdge _ _ _ | .conversionEnd _ _
  | .resultEntry _ | .adcDeadline _ | .fifoRead _ | .adcEnable _ _ | .adcDisable _ | .claimConfigure _ _ _ _
  | .claimAlloc _ _ _ | .claimFree _ _ _ _ | .scrub _ | .selfRefreshEntry | .dmaStart _ _ | .dmaAbort _
  | .dmaBurst _ | .nopRelease _ _ | .nopChainReset _ | .fenceComplete _ | .orderedStart _ | .replyFrameSend _
  | .coldReset _ | .warmReset _ | .powerStateRun _ | .powerStateDoze _ | .powerStateWatch _ | .powerStateOff _
  | .commitTick _ | .commitLimitExpiry _ | .txnIdleTimeout _ | .decisionDeadline _ | .pointWithoutDecision _
  | .prepareRetry _ | .sourceRaise _ _ | .ntfRaise _ | .ntfClear _ | .deliverySelection _ | .deliveryActive _
  | .redeliver _ | .linkUp _ _ _ | .linkDown _ | .ringBreak | .ringClose | .closeHoldEnd _ | .credit _ _
  | .creditAdvertise | .enumerate _ _ _ | .discover _ | .assign _ _ _ | .sync _ _ _ _ _ _ _ _ _ | .syncTimeout
  | .pdelayMeasure | .pdelayReq _ _ | .pdelayResp _ _ _ | .wakeToken _ _ _ | .wakeCtl _ _ _ | .retrain _
  | .linkCtlReset _ _ _ | .twinEnable _ | .searchTimeout | .heartbeatSend | .heartbeat _ | .leaseLapse
  | .heartbeatLoss | .twinProbeRepeat | .lossConfirmed | .twinProbe _ | .twinAlive _ | .takeoverFrame _
  | .epochBoundary | .epochAck _ _ _ | .resyncReq _ _ | .copy _ _ | .item _ _ | .epochTimeout | .switch
  | .joiningEnd | .governorPeriod _ _ | .levelChangeEnd | .grantReclassification _ | .thermalTrip _ _ | .watchEntry
  | .watchExit | .alarm | .canaryEdge _ _ _ _ _ _ | .canaryRun _ | .canaryTest | .canLdi _ | .canLdh _ | .canIn _
  | .canAdd _ | .canSub _ | .canAnd _ | .canOr _ | .canXor _ | .canShr _ | .canAbs _ | .canCmp _ | .canTst _
  | .canFilt _ | .canBr _ | .canWake _ | .canRaise _ | .canEnd _ | .tallySet _ | .tallyFlush | .tallyFlushCmd
  | .calendarSet | .calendarAdjustment | .calendarValidityChange | .battLow | .gapRecordRead | .storeOpen _ _
  | .storeClose _ _ | .storeErase _ _ | .storeLock _ _ | .storeUnlock _ _ | .powerUp _ | .bootTimeout | .ready
  | .holdOkRise | .holdOkFall | .powerLoss | .inputHigh | .watchdog | .faultLogFlush | .faultLogSelect _
  | .faultLogLoaded _ | .catchupLagClosed _ | .virtHoldEnd _ | .profileReversal _ | .corePowerRemoved
  | .inputHighClear => true

end Sys2Proof
end

