-- ==== Sys2Proof/Safety.lean ====
section
/-! DEFINITION. What claims about runs are said in: a completed step, the canonical form of the stores, what is driven. -/

namespace Sys2Proof.Machine

/-- A step that goes on. -/
def Completes (o : Host.Outcome State Fault Refusal) : Prop := ∃ t, o = .next t

/-- Command `i` goes on in `s`, and `P` holds of the state it leaves. -/
def Gives (i : Instr) (s : State) (P : State → Prop) : Prop := ∃ t, exec i s = .next t ∧ P t

/-- A Canary run is in progress that goes on after its next instruction: that instruction is legal, it is not the 256th of the
run, and the word behind it is loaded (R450). -/
def State.canGoes (s : State) (legal : Bool) : Bool :=
  decide (s.canary.run ≠ .idle) && legal && decide (s.canary.steps + 1 < canSteps) && decide (s.canWordAt (s.canary.pc + 1) ≠ 0)

/-- One instruction of a Canary run counted, and the word behind it next. -/
def State.canStepped (s : State) : State :=
  { s with canary := { s.canary with pc := s.canary.pc + 1, steps := s.canary.steps + 1 } }

/-- Thread `i.thread` issues an instruction that is fetched whole (R94, R101, R102, R114): the slice that may be in progress on its
engine goes on, the thread is the one that issues, and its PC lies in the instruction memory. -/
def State.bluReady (s : State) (i : Issue) : Bool :=
  let g := i.thread.toNat
  (match s.bluRunning (thEngine g) with
   | some h => !s.sliceDone h
   | none => true) &&
    s.mayIssue g && decide (s.found (imemKey (thEngine g) (s.th g).pc) i.fetch ≠ .uncorrectable) && decide ((s.th g).pc < imemSize)

/-- The state in which an instruction has been fetched: the thread is RUNNING, a clock cycle is used, and an error of the word
is known (R94). -/
def State.bluFetched (s : State) (i : Issue) : State :=
  let g := i.thread.toNat
  let t := (s.enterSlice g).spendCycle (thEngine g)
  if imemSize ≤ (t.th g).pc then t else t.touchErr (thEngine g) (imemKey (thEngine g) (t.th g).pc) i.fetch

/-- The state in which an instruction takes effect: its PC moved on, and the instruction counted in its slice. -/
def State.bluStepped (s : State) (i : Issue) : State :=
  let g := i.thread.toNat
  let u := s.bluFetched i
  u.setTh g { u.th g with pc := (u.th g).pc + 1, issued := (u.th g).issued + 1 }

/-- The record `c` on the session of `h` runs as soon as it arrives: the engine takes commands, the session is free or its owner
is the sender, a credit is left, the TAG is not in flight, no power change waits, no chain holds it or it resets a broken one,
and it passes the checks
of R322 (R322 to R325, R330, R341). -/
def State.hears (s : State) (h : CmdHead) (c : CmdRec) : Bool :=
  let x := s.sess h.session.val
  !s.deaf && (decide (x.owner = none) || decide (x.owner = some h.src.toNat)) && decide (x.credits ≠ 0) &&
    !s.tagInFlight h.session.val c.tag && !s.powerWaits && !(c.ordered && (s.chainBusy h.session.val || (x.broken && !c.resetsChain))) &&
    !c.txnFlag && decide (s.recordCheck h.session.val c = .ok)

/-- That command in flight. -/
def State.flightOf (s : State) (h : CmdHead) (c : CmdRec) : Flight :=
  { id := s.nextFlight, session := h.session.val, dest := h.src.toNat, cmd := c, hold := .chain, mute := false }

/-- The state in which it runs: its sender owns the session, a credit is taken, and the command is in flight. -/
def State.heard (s : State) (h : CmdHead) (c : CmdRec) : State :=
  let n := h.session.val
  let t := (if (s.sess n).owner.isNone then s.setSess n { s.sess n with owner := some h.src.toNat } else s).takeCredit n
  { t with flights := s.flights ++ [s.flightOf h c], nextFlight := s.nextFlight + 1 }

/-- The record `c` runs as soon as it arrives and nothing turns it away: the checks of the record alone hold, and no transaction
holds what it touches (R343, R347). -/
def State.takes (s : State) (h : CmdHead) (c : CmdRec) : Bool :=
  s.hears h c && decide (c.alone = .ok) && !(s.heard h c).lockedFor c

/-- A command that reads has completed: its reply is held or sent, and what waited for it goes on (R327, R330). -/
def State.replied (u : State) (fl : Flight) (st : Status) (result : Nat) (body : List Byte) : State :=
  (u.complete fl none st result body).settle

/-- A command that changes state has completed, leaving `u`: an active member sends it to its standby (R409), then as above. -/
def State.ended (u : State) (fl : Flight) (st : Status) (result : Nat) (body : List Byte) : State :=
  (u.mirrorCmd fl.session fl.cmd st).replied fl st result body

/-- What a write of `v` under the mask `m` hands to the unit of the register at `a`: the word as it stood, the word the RW fields
would leave, the acting bits written 1 (R7, R336). -/
def State.wr (s : State) (a : Nat) (m v : Word) : Wr :=
  match regAt a with
  | some (d, i, j) =>
    let old := s.view d i j a
    let rw := d.mask .rw &&& m
    { addr := a, base := d.base, old := old, new := (old &&& ~~~ rw) ||| (v &&& rw), act := v &&& m &&& d.acting }
  | none => { addr := a, base := a, old := 0, new := 0, act := 0 }

/-- No composed job is ready, no command is in flight and no session is being released: nothing completes because something else
has. -/
def State.quiet (s : State) : Bool := s.readyJobs.isEmpty && s.flights.isEmpty && (List.range 8).all fun n => !(s.sess n).releasing

/-- The stores of bytes stand in their canonical form: the pool and the data memories of the Blulet engines. -/
def State.memWf (s : State) : Bool := Memory.wf s.pool && Memory.wf s.dmem

/-- Every command that waits is well-formed. -/
def State.queueWf (s : State) : Bool := s.pending.all Instr.wf

/-- No output drives (R26, R27): OUT_LIVE is 0, or the engine is in Watch or Off. -/
def State.undriven (s : State) : Bool := !s.driveOn

end Sys2Proof.Machine
end

