-- ==== Sys2Proof/Certificates/Slice0/Obligations.lean ====
section
/-! DEFINITION. The statements for the provers: what the commands do, by the numbered rules of the spec. -/

open Sys2Proof Sys2Proof.Machine

/-- A step runs the command at the front of the queue, on the state with the rest of the queue, and every command goes on:
none ends in a fault or a refusal. The queue is the model's choice (log 1). -/
def Obligations.StepRunsTheFrontCommand : Prop :=
  (∀ (c : Instr) (s : State) (q : List Instr), step { s with pending := c :: q } = exec c { s with pending := q }) ∧
    ∀ (c : Instr) (s : State), Completes (exec c s)

/-- A step on an empty queue always goes on. Where nothing is due, a tick passes in Run and Doze and a cycle of the AON clock in
Watch. That what is due first waits in the queue is the model's choice (log 2). -/
def Obligations.IdleStepPassesTime : Prop :=
  (∀ s : State, s.pending = [] → ∃ t, step s = .next t) ∧
    (∀ s : State, s.pending = [] → s.awake = true → s.settle.strays = [] → s.settle.canary.run = .idle →
      s.settle.dueRows = [] → s.settle.arrivals = [] →
      ∃ t, step s = .next t ∧ t.time = s.time + 1 ∧ t.pool = s.pool ∧ t.dmem = s.dmem) ∧
    ∀ s : State, s.pending = [] → s.awake = false → s.strays = [] → s.canary.run = .idle → s.dueRows = [] → s.arrivals = [] →
      ∃ t, step s = .next t ∧ t.aon = s.aon + 1 ∧ t.pool = s.pool ∧ t.dmem = s.dmem ∧ t.pending = []

/-- The Canary instructions that write vD, in a run that goes on (R453): the result, and nothing else but the count and the place
of the run. -/
def Obligations.CanaryInstructionsWriteRegisters : Prop :=
  ∀ (s : State) (w : CanWord),
    let a := s.canV w.s.toNat
    let d := s.canV w.d.toNat
    let b := s.canOp2 w
    let gives (i : Instr) (op : Nat) (r : Word) : Prop :=
      s.canGoes (w.legal op) = true → exec i s = .next (s.setCanV w.d.toNat r).canStepped
    gives (.canLdi w) 0x01 (w.imm.signExtend 32) ∧
    gives (.canLdh w) 0x02 (w.imm ++ d.setWidth 16) ∧
    gives (.canIn w) 0x03 (FMap.get (fun _ => 0) s.canary.sample (w.imm.toNat % 256)) ∧
    gives (.canAdd w) 0x04 (a + b) ∧
    gives (.canSub w) 0x05 (a - b) ∧
    gives (.canAnd w) 0x06 (a &&& b) ∧
    gives (.canOr w) 0x07 (a ||| b) ∧
    gives (.canXor w) 0x08 (a ^^^ b) ∧
    gives (.canShr w) 0x09 (if w.m = 2 then a.sshiftRight w.imm.toNat else a >>> w.imm.toNat) ∧
    gives (.canAbs w) 0x0A (if a.toInt < 0 then -a else a) ∧
    gives (.canFilt w) 0x0D (d + (a - d).sshiftRight w.imm.toNat)

/-- CMP, TST, BR, WAKE, RAISE and END in a run (R448, R453, R454, R457). BR's hypothesis asks that the word it leads to is
loaded. -/
def Obligations.CanaryFlagsBranchesAndEnds : Prop :=
  ∀ (s : State) (w : CanWord),
    let a := s.canV w.s.toNat
    let b := s.canOp2 w
    ((s.canGoes (w.legal 0x0B) = true →
        exec (.canCmp w) s = .next (s.canFlags (decide (a = b)) (decide (a.toInt < b.toInt))).canStepped) ∧
      (s.canGoes (w.legal 0x0C) = true →
        exec (.canTst w) s = .next (s.canFlags (decide (a &&& b = 0)) s.canary.n).canStepped) ∧
      (s.canary.run ≠ .idle → w.legal 0x0E = true → s.canary.steps + 1 < 256 →
        let to_ := if s.canCond w.m.toNat then w.imm.toNat else s.canary.pc + 1
        s.canWordAt to_ ≠ 0 →
        exec (.canBr w) s = .next { s with canary := { s.canary with pc := to_, steps := s.canary.steps + 1 } })) ∧
    (s.canary.run ≠ .idle →
      (w.legal 0x11 = true → exec (.canEnd w) s = .next s.canEnd) ∧
      (w.legal 0x0F = true → s.canary.run = .test →
        Gives (.canWake w) s fun t => t.canary.run = .idle ∧ t.fld CAN_TEST CAN_TEST_WOKE = 1 ∧
          t.fld CAN_TEST CAN_TEST_CODE = w.imm.toNat ∧ t.power = s.power) ∧
      (w.legal 0x0F = true → s.canary.run = .watch → s.power = .watch → s.fld CAN_WAKE CAN_WAKE_SOURCE = 0 →
        Gives (.canWake w) s fun t => t.canary.run = .idle ∧ t.fld CAN_WAKE CAN_WAKE_SOURCE = canProgram ∧
          t.fld CAN_WAKE CAN_WAKE_CODE = w.imm.toNat ∧ t.wakeAt.isSome = true) ∧
      (s.canGoes (w.legal 0x10) = true → s.canary.run = .watch →
        exec (.canRaise w) s = .next (s.canLatch (1792 + w.imm.toNat) (s.canV w.s.toNat)).canStepped) ∧
      (s.canGoes (w.legal 0x10) = true → s.canary.run = .test →
        exec (.canRaise w) s = .next (s.raise (1792 + w.imm.toNat) (s.canV w.s.toNat).toNat).canStepped))

/-- The Blulet arithmetic and logic instructions (R122), with gS and op2 as `a` and `b`. -/
def Obligations.BluletArithmetic : Prop :=
  ∀ (s : State) (i : Issue), s.bluReady i = true → i.aluOk = true →
    let t := s.bluStepped i
    let g := i.thread.toNat
    let x := t.th g
    let a := x.gr i.sn
    let b := i.op2 x
    let zn (r : Word) : BluFlags := { x.flags with z := decide (r = 0), n := r.msb }
    let gives (c : Instr) (r : Word) (f : BluFlags) : Prop :=
      exec c s = .next (t.setTh g { x.setGr i.dn r with flags := f }).settle
    gives (.bluAdd i) (a + b) { zn (a + b) with
        c := decide (2 ^ 32 ≤ a.toNat + b.toNat)
        v := decide (a.toInt + b.toInt < -(2 ^ 31)) || decide (2 ^ 31 ≤ a.toInt + b.toInt) } ∧
    gives (.bluSub i) (a - b) { zn (a - b) with
        c := decide (a.toNat < b.toNat)
        v := decide (a.toInt - b.toInt < -(2 ^ 31)) || decide (2 ^ 31 ≤ a.toInt - b.toInt) } ∧
    gives (.bluAnd i) (a &&& b) (zn (a &&& b)) ∧
    gives (.bluOr i) (a ||| b) (zn (a ||| b)) ∧
    gives (.bluXor i) (a ^^^ b) (zn (a ^^^ b)) ∧
    (∀ r, r = a <<< (b.toNat % 32) → gives (.bluShl i) r (zn r)) ∧
    (∀ r, r = a >>> (b.toNat % 32) → gives (.bluShr i) r (zn r)) ∧
    (∀ r, r = a.sshiftRight (b.toNat % 32) → gives (.bluSar i) r (zn r)) ∧
    gives (.bluMul i) (a * b) (zn (a * b)) ∧
    (∀ r, r = BitVec.ofInt 32 (a.toInt * b.toInt / 2 ^ 32) → gives (.bluMulh i) r (zn r)) ∧
    (∀ r, r = (if a.toInt ≤ b.toInt then a else b) → gives (.bluMin i) r (zn r)) ∧
    (∀ r, r = (if a.toInt ≤ b.toInt then b else a) → gives (.bluMax i) r (zn r))

/-- CMP, MOV, CLF and the wide registers (R120 to R123). The age of what NOW and ANG read is a free value (log 20). -/
def Obligations.BluletFlagsMovesAndWide : Prop :=
  ∀ (s : State) (i : Issue), s.bluReady i = true →
    let t := s.bluStepped i
    let g := i.thread.toNat
    let x := t.th g
    let a := x.gr i.sn
    let b := i.op2 x
    let gives (c : Instr) (y : Thread) : Prop := exec c s = .next (t.setTh g y).settle
    let bare := i.noT && i.noM && i.noX && i.noImm
    let kin (c d : Nat) := (wideA c && wideA d) || (wideT c && wideT d)
    let wi (c : Nat) : Int := if c < 2 then (x.wide c).toInt else (x.wide c).toNat
    (i.aluOk && i.noD → gives (.bluCmp i) { x with flags := x.flags.sub a b }) ∧
    (i.aluOk && i.noS → gives (.bluMov i) (x.setGr i.dn b)) ∧
    (i.noD && i.noS && i.noT && i.noM && i.noImm && decide (i.xn < 128) →
      gives (.bluClf i) { x with flags := x.flags.clear i.xn }) ∧
    (wideOk i.dn && wideOk i.sn && i.op2Ok && i.noX →
      gives (.bluWadd i) (x.setWide i.dn (x.wide i.sn + b.signExtend 64))) ∧
    (kin i.dn i.sn && bare → gives (.bluWmov i) (x.setWide i.dn (x.wide i.sn))) ∧
    (wideOk i.sn && i.noT && i.noX && i.noImm → i.m = 0 → gives (.bluWget i) (x.setGr i.dn ((x.wide i.sn).setWidth 32))) ∧
    (wideOk i.sn && i.noT && i.noX && i.noImm → i.m = 1 →
      gives (.bluWget i) (x.setGr i.dn ((x.wide i.sn >>> 32).setWidth 32))) ∧
    (wideOk i.dn && i.noT && i.noX && i.noImm → i.m = 0 →
      gives (.bluWput i) (x.setWide i.dn ((x.wide i.dn >>> 32).setWidth 32 ++ a))) ∧
    (wideOk i.dn && i.noT && i.noX && i.noImm → i.m = 1 →
      gives (.bluWput i) (x.setWide i.dn (a ++ (x.wide i.dn).setWidth 32))) ∧
    (kin i.sn i.tn && i.noD && i.noM && i.noX && i.noImm →
      gives (.bluWcmp i) { x with flags := { x.flags with
        z := decide (x.wide i.sn = x.wide i.tn), n := decide (wi i.sn < wi i.tn), c := decide (wi i.sn < wi i.tn), v := false } }) ∧
    (wideOk i.sn && wideOk i.tn && i.noM && i.noX && i.noImm →
      ∀ d, d = (if i.sn < 2 ∧ i.tn < 2 then (x.wide i.sn - x.wide i.tn).toInt else wi i.sn - wi i.tn) →
      ∀ r : Word, r = BitVec.ofInt 32 (if d < -(2 ^ 31) then -(2 ^ 31) else if 2 ^ 31 - 1 < d then 2 ^ 31 - 1 else d) →
        gives (.bluWsub i) { x.setGr i.dn r with flags := { x.flags with
          z := decide (r = 0), n := r.msb, v := decide (d < -(2 ^ 31)) || decide (2 ^ 31 - 1 < d) } }) ∧
    (wideT i.dn && i.noS && bare → ∃ age, 2 ≤ age ∧ age ≤ 4 + 400 / t.bluClock ∧
      exec (.bluNow i) s = .next (t.drawn.setTh g (x.setWide i.dn (BitVec.ofNat 64 (t.time - age)))).settle) ∧
    (wideA i.dn && i.noS && i.noT && i.noM && i.noImm && decide (i.xn < 16) → ∃ age, 2 ≤ age ∧ age ≤ 4 + 400 / t.bluClock ∧
      exec (.bluAng i) s = .next (t.drawn.setTh g { x.setWide i.dn (BitVec.ofInt 64 (t.phiAged i.xn age / 65536)) with
        flags := { x.flags with f := !t.angValid i.xn } }).settle)

/-- Loads, stores and XADD at an address in range and aligned (R124, R125): `w` is the thread's own data memory from the address. -/
def Obligations.BluletDataMemory : Prop :=
  ∀ (s : State) (i : Issue), s.bluReady i = true →
    let g := i.thread.toNat
    let t0 := s.bluStepped i
    let x := t0.th g
    let a := (x.gr i.sn + i.imm).toNat
    let k := dmemKey (thEngine g) a
    let whole := t0.setErr k .none_
    t0.found k i.data ≠ .uncorrectable → i.data ≠ .uncorrectable →
    let u := t0.touchErr (thEngine g) k i.data
    let at_ := dmemAddr (thEngine g) a
    let loaded (n : Nat) : Nat := ofLe (memReadAll s.dmem at_ n)
    let loads (c : Instr) (y : Thread) : Prop :=
      Gives c s fun t => t = (u.setTh g y).settle ∧ ∀ b, memRead t.dmem b = memRead s.dmem b
    let stores (c : Instr) (y : State) (n v : Nat) : Prop :=
      Gives c s fun t => t = (y.dmemWrite (thEngine g) a (leBytes n v)).settle ∧
        (∀ b, at_ ≤ b → b < at_ + n → memRead t.dmem b = (leBytes n v).getD (b - at_) 0) ∧
        ∀ b, ¬(at_ ≤ b ∧ b < at_ + n) → memRead t.dmem b = memRead s.dmem b
    (∀ k, k < 3 → a < 65536 → a % 2 ^ k = 0 → i.noT && i.noX →
      (i.mn = k → loads (.bluLd i) (x.setGr i.dn (BitVec.ofNat 32 (loaded (2 ^ k))))) ∧
      (i.mn = 4 + k → loads (.bluLd i) (x.setGr i.dn (BitVec.ofInt 32 (signed (8 * 2 ^ k) (loaded (2 ^ k))))))) ∧
    (∀ k, k < 3 → a < 65536 → a % 2 ^ k = 0 → i.mn = k → i.noD && i.noX →
      stores (.bluSt i) u (2 ^ k) (x.gr i.tn).toNat) ∧
    (a < 65536 → a % 8 = 0 → wideOk i.dn && i.noT && i.noM && i.noX →
      loads (.bluLdw i) (x.setWide i.dn (BitVec.ofNat 64 (loaded 8)))) ∧
    (a < 65536 → a % 8 = 0 → wideOk i.tn && i.noD && i.noM && i.noX →
      stores (.bluStw i) (whole.touchErr (thEngine g) k i.data) 8 (x.wide i.tn).toNat) ∧
    (a < 65536 → a % 4 = 0 → i.noM && i.noX →
      stores (.bluXadd i) (u.setTh g (x.setGr i.dn (BitVec.ofNat 32 (loaded 4)))) 4 (BitVec.ofNat 32 (loaded 4) + x.gr i.tn).toNat)

/-- BR, DBNZ, CALL, RET and JR (R121, R137). -/
def Obligations.BluletControlFlow : Prop :=
  ∀ (s : State) (i : Issue), s.bluReady i = true →
    let t := s.bluStepped i
    let g := i.thread.toNat
    let x := t.th g
    let to_ := i.imm.toNat
    let plain := i.noD && i.noS && i.noT && i.noM && i.noX
    let gives (c : Instr) (u : State) : Prop := exec c s = .next u.settle
    (∀ k, i.mn = k → k ≤ 12 → to_ < 8192 → i.noD && i.noS && i.noT && i.noX →
      ∀ c, some c = x.flags.cond k → gives (.bluBr i) (if c then t.setTh g { x with pc := to_ } else t)) ∧
    (to_ < 8192 → i.noS && i.noT && i.noM && i.noX → ∀ v, v = x.gr i.dn - 1 →
      gives (.bluDbnz i) (if v = 0 then t.setTh g (x.setGr i.dn v)
        else (t.setTh g (x.setGr i.dn v)).setTh g { x.setGr i.dn v with pc := to_ })) ∧
    (to_ < 8192 → plain → x.stack.length < 8 →
      gives (.bluCall i) (t.setTh g { x with stack := x.pc % 8192 :: x.stack, pc := to_ })) ∧
    (∀ a as, plain && i.noImm → x.stack = a :: as → gives (.bluRet i) (t.setTh g { x with stack := as, pc := a })) ∧
    (i.noD && i.noT && i.noM && i.noX && i.noImm → (x.gr i.sn).toNat < 8192 →
      gives (.bluJr i) (t.setTh g { x with pc := (x.gr i.sn).toNat }))

/-- The waits, YIELD, HALT, SIG and POST (R128 to R130, R135). -/
def Obligations.BluletWaitsAndYields : Prop :=
  ∀ (s : State) (i : Issue), s.bluReady i = true →
    let t := s.bluStepped i
    let g := i.thread.toNat
    let x := t.th g
    let gives (c : Instr) (u : State) : Prop := exec c s = .next u.settle
    let waits (c : Instr) (w : WaitOn) (m : Option Nat) : Prop :=
      gives c (t.setTh g { x with st := .waiting, wait := w, meet := m, promoted := false })
    let meetOk := i.d = 2 ∨ i.d = 3 ∨ i.d = 15
    let m : Option Nat := if i.d = 15 then none else some i.dn
    let rest := i.noT && i.noX && i.noImm
    (x.errPend = none → x.stopPend = false →
      (meetOk → i.sn < 2 → i.noT && i.noImm → i.xn < 16 → i.m = 0 → waits (.bluWaita i) (.angle i.xn i.sn false) m) ∧
      (meetOk → i.sn < 2 → i.noT && i.noImm → i.xn < 16 → i.m = 2 → waits (.bluWaita i) (.angle i.xn i.sn true) m) ∧
      (meetOk → i.sn = 2 ∨ i.sn = 3 → rest && i.noM → waits (.bluWaitt i) (.time (i.sn - 2)) m) ∧
      (meetOk → i.noS && i.noImm → i.x ≠ 0 → i.m = 0 ∨ i.m = 2 → i.noT →
        waits (.bluWaits i) (.signals i.xn none (decide (i.m = 2))) m) ∧
      (meetOk → i.noS && i.noImm → i.x ≠ 0 → i.m = 1 ∨ i.m = 3 →
        waits (.bluWaits i) (.signals i.xn (some i.tn) (decide (i.m = 3))) m) ∧
      (i.bare → waits (.bluFnc i) .fence none) ∧
      (i.bare → gives (.bluYield i) (t.makeReady g))) ∧
    (x.errPend = none → i.bare → gives (.bluHalt i) (t.threadEnd g .stopped).1) ∧
    (i.noD && i.noT && i.noM && i.noImm → ∀ h, h = (x.gr i.sn).toNat % 256 →
      gives (.bluSig i) (((bitsSet 8 i.xn).foldl (fun u b => u.setSignal (8 * h + b)) t).mirrorReq g 3 [h, i.xn])) ∧
    (i.noD && i.noT && i.noM && i.noX && i.noImm → gives (.bluPost i) (t.raise (256 + g) (x.gr i.sn).toNat))

/-- BRD, BRDW, BWR and CAPT (R126, R127, R134). -/
def Obligations.BluletBusPort : Prop :=
  ∀ (s : State) (i : Issue), s.bluReady i = true →
    let t := s.bluStepped i
    let g := i.thread.toNat
    let x := t.th g
    let a := (x.gr i.sn + i.imm).toNat
    let full := t.crossingFull
    let gives (c : Instr) (u : State) : Prop := exec c s = .next u.settle
    (i.noT && i.noM && i.noX →
      (addrOk a = true →
        gives (.bluBrd i) (((t.readWait a).readSide a).waitOn g (.bus (.word i.dn ((t.readWait a).readReg a))) none)) ∧
      (addrOk a = false → gives (.bluBrd i) (t.waitOn g (.bus (.bad (x.pc - 1))) none))) ∧
    (wideOk i.dn && i.noT && i.noM && i.noX →
      (a % 8 = 0 → addrOk a = true → addrOk (a + 4) = true →
        let u := t.readWait a
        let v := (u.readSide a).readWait (a + 4)
        gives (.bluBrdw i) ((v.readSide (a + 4)).waitOn g (.bus (.wide i.dn (v.readReg (a + 4) ++ u.readReg a))) none)) ∧
      (a % 8 ≠ 0 ∨ addrOk a = false ∨ addrOk (a + 4) = false →
        gives (.bluBrdw i) (t.waitOn g (.bus (.bad (x.pc - 1))) none))) ∧
    (i.noD && i.noM && i.noX →
      (full = true → gives (.bluBwr i) (t.drawn.waitOn g (.bus (.write a (x.gr i.tn))) none)) ∧
      (full = false → ∀ u, t.drawn.busWrite a (x.gr i.tn) = (u, .ok) → gives (.bluBwr i) (u.mirrorReq g 7 [a, (x.gr i.tn).toNat])) ∧
      (full = false → ∀ u c, t.drawn.busWrite a (x.gr i.tn) = (u, c) → c ≠ .ok →
        gives (.bluBwr i) ((u.setTh g { u.th g with errs := (u.th g).errs ++ [(u.th g).pc - 1] }).mirrorReq g 7
          [a, (x.gr i.tn).toNat]))) ∧
    (i.noD && i.noT && i.noM && i.noX →
      (full = true → gives (.bluCapt i) (t.drawn.waitOn g (.bus (.capture a)) none)) ∧
      (full = false → a < 1024 → gives (.bluCapt i) ((t.drawn.cellCapture a).mirrorReq g 4 [a])) ∧
      (full = false → 1024 ≤ a → gives (.bluCapt i) (t.drawn.setTh g { x with errs := x.errs ++ [x.pc - 1] })))

/-- ARM, CANCEL, EDGE, SNAP and PROD (R131 to R136). -/
def Obligations.BluletRequests : Prop :=
  ∀ (s : State) (i : Issue), s.bluReady i = true →
    let t := s.bluStepped i
    let g := i.thread.toNat
    let x := t.th g
    let a := (x.gr i.sn + i.imm).toNat
    let gives (c : Instr) (u : State) : Prop := exec c s = .next u.settle
    let done (u : State) (w : Nat) := u.waitOn g (.bus (.request false (some i.dn) (BitVec.ofNat 32 w))) none
    let fails (u : State) (c : Status) := u.waitOn g (.bus (.request true (some i.dn) (BitVec.ofNat 32 c.code))) none
    let e := thEngine g
    let at_ (j : Nat) : MemErr := if j = 0 then i.data else .none_
    let word (q j : Nat) (u : State) := u.touchErr e (q + j) (at_ j)
    let p := dmemKey e (x.gr i.tn).toNat
    let q := dmemKey e a
    (a % 8 = 0 → a + 32 ≤ 65536 → (∀ j, j < 4 → t.found (q + j) (at_ j) ≠ .uncorrectable) → i.noX →
      let v := word q 3 (word q 2 (word q 1 (word q 0 t)))
      let body := v.dmemRead (thEngine g) a 32
      (i.m = 1 → i.noT → ∀ u k,
        (v.eventArm 0xFFFFFFFF body (some g) = (u, .ok, k) →
          gives (.bluArm i) (done (u.mirrorReq g 0 (k :: body.map BitVec.toNat)) k)) ∧
        ∀ c, v.eventArm 0xFFFFFFFF body (some g) = (u, c, k) → c ≠ .ok → gives (.bluArm i) (fails u c)) ∧
      (i.m = 0 → (x.gr i.tn).toNat < 16384 → ∀ u k,
        (v.eventArm (x.gr i.tn).toNat body (some g) = (u, .ok, k) →
          gives (.bluArm i) (done (u.mirrorReq g 0 (k :: body.map BitVec.toNat)) k)) ∧
        ∀ c, v.eventArm (x.gr i.tn).toNat body (some g) = (u, c, k) → c ≠ .ok → gives (.bluArm i) (fails u c)) ∧
      (i.m = 0 → 16384 ≤ (x.gr i.tn).toNat → gives (.bluArm i) (fails v .range))) ∧
    (i.noT && i.noM && i.noX && i.noImm → ∀ arg, arg = (x.gr i.sn).toNat → ∀ u k,
      (t.eventCancel arg = (u, .ok, k) → gives (.bluCancel i) (done (u.mirrorReq g 1 [arg]) k)) ∧
      ∀ c, t.eventCancel arg = (u, c, k) → c ≠ .ok → gives (.bluCancel i) (fails u c)) ∧
    (i.sn = 2 ∨ i.sn = 3 → i.mn < 2 → i.xn < 16 → i.noImm →
      ((x.gr i.tn).toNat < 64 → gives (.bluEdge i) (t.waitOn g (.bus (.edge i.dn i.xn
        { at_ := 64 * (x.wide i.sn).toNat + (x.gr i.tn).toNat, thread := g, level := decide (i.mn = 1) })) none)) ∧
      (64 ≤ (x.gr i.tn).toNat → gives (.bluEdge i) (fails t .range))) ∧
    (i.noM && i.noX → (x.gr i.tn).toNat % 8 = 0 → (x.gr i.tn).toNat + 40 ≤ 65536 → i.data ≠ .uncorrectable →
      (a < 1024 → gives (.bluSnap i) ((t.touchErr e p i.data).waitOn g
        (.bus (.snap i.dn (t.cellSnapshot a).1 (x.gr i.tn).toNat (t.cellSnapshot a).2)) none)) ∧
      (1024 ≤ a → gives (.bluSnap i) (fails t .range))) ∧
    (i.mn = 0 → i.xn < 16 → i.noT && i.noImm → ∀ k, k = (x.gr i.sn).toNat → k < 65536 →
      ((t.prod k).st = .onLane ∨ (t.prod k).st = .inHandoff →
        gives (.bluProd i) (done t ((t.prod k).words.getD i.xn 0).toNat)) ∧
      ((t.prod k).st ≠ .onLane → (t.prod k).st ≠ .inHandoff → gives (.bluProd i) (fails t .state))) ∧
    (∀ m, i.mn = m + 1 → m < 3 → i.xn < 16 → i.noImm → m = 0 ∨ i.noX →
      ∀ k, k = (x.gr i.sn).toNat → k < 65536 →
      updateCheck m i.xn (x.gr i.tn).toNat = .ok → (t.prod k).st = .onLane ∨ (t.prod k).st = .inHandoff →
        gives (.bluProd i) (((t.setProd k ((t.prod k).updated m i.xn (x.gr i.tn).toNat)).mirrorReq g 6
          [m + 1, k, i.xn, (x.gr i.tn).toNat]).waitOn g (.bus (.request false none (BitVec.ofNat 32 0))) none))

/-- Illegal fields and the checks of R114: the fault stands at the instruction's own address. -/
def Obligations.BluletIllegalFieldsFault : Prop :=
  ∀ (s : State) (i : Issue), s.bluReady i = true →
    let g := i.thread.toNat
    let t := s.bluStepped i
    let x := t.th g
    let a := (x.gr i.sn + i.imm).toNat
    let k := dmemKey (thEngine g) a
    let fault (c : Instr) (cause : Nat) : Prop :=
      exec c s = .next ((s.bluFetched i).threadFault g cause (s.th g).pc).settle
    let faults (c : Instr) (legal : Bool) : Prop := legal = false → fault c 1
    let access (c : Instr) (legal whole : Bool) (n : Nat) : Prop :=
      (legal → 65536 ≤ a ∨ a % n ≠ 0 → fault c 3) ∧ (legal → a < 65536 → a % n = 0 → (if whole then i.data else t.found k i.data) = .uncorrectable →
        exec c s = .next (((t.setErr k .uncorrectable).setTh g
          { x with pc := x.pc - 1, issued := x.issued - 1 }).threadFault g 4 (x.pc - 1)).settle)
    faults (.bluAdd i) i.aluOk ∧
    faults (.bluSub i) i.aluOk ∧
    faults (.bluCmp i) (i.aluOk && i.noD) ∧
    faults (.bluAnd i) i.aluOk ∧
    faults (.bluOr i) i.aluOk ∧
    faults (.bluXor i) i.aluOk ∧
    faults (.bluShl i) i.aluOk ∧
    faults (.bluShr i) i.aluOk ∧
    faults (.bluSar i) i.aluOk ∧
    faults (.bluMul i) i.aluOk ∧
    faults (.bluMulh i) i.aluOk ∧
    faults (.bluMin i) i.aluOk ∧
    faults (.bluMax i) i.aluOk ∧
    faults (.bluMov i) (i.aluOk && i.noS) ∧
    faults (.bluClf i) (i.noD && i.noS && i.noT && i.noM && i.noImm && decide (i.xn < 128)) ∧
    faults (.bluWadd i) (wideOk i.dn && wideOk i.sn && i.op2Ok && i.noX) ∧
    faults (.bluWmov i) (wideKin i.dn i.sn && i.noT && i.noM && i.noX && i.noImm) ∧
    faults (.bluWget i) (wideOk i.sn && i.noT && decide (i.mn < 2) && i.noX && i.noImm) ∧
    faults (.bluWput i) (wideOk i.dn && i.noT && decide (i.mn < 2) && i.noX && i.noImm) ∧
    faults (.bluWcmp i) (wideKin i.sn i.tn && i.noD && i.noM && i.noX && i.noImm) ∧
    faults (.bluWsub i) (wideOk i.sn && wideOk i.tn && i.noM && i.noX && i.noImm) ∧
    faults (.bluNow i) (wideT i.dn && i.noS && i.noT && i.noM && i.noX && i.noImm) ∧
    faults (.bluAng i) (wideA i.dn && i.noS && i.noT && i.noM && decide (i.xn < 16) && i.noImm) ∧
    faults (.bluLd i) (i.noT && decide (i.mn % 4 ≠ 3) && decide (i.mn < 8) && i.noX) ∧
    faults (.bluSt i) (i.noD && decide (i.mn < 3) && i.noX) ∧
    faults (.bluLdw i) (wideOk i.dn && i.noT && i.noM && i.noX) ∧
    faults (.bluStw i) (wideOk i.tn && i.noD && i.noM && i.noX) ∧
    faults (.bluXadd i) (i.noM && i.noX) ∧
    faults (.bluWaita i) (i.meetOk && wideA i.sn && i.noT && (decide (i.mn = 0) || decide (i.mn = 2)) && decide (i.xn < 16) && i.noImm) ∧
    faults (.bluWaitt i) (i.meetOk && wideT i.sn && i.noT && i.noM && i.noX && i.noImm) ∧
    faults (.bluWaits i) (i.meetOk && i.noS && decide (i.mn < 4) && (decide (i.mn % 2 = 1) || i.noT) && !i.noX && i.noImm) ∧
    faults (.bluFnc i) i.bare ∧
    faults (.bluYield i) i.bare ∧
    faults (.bluHalt i) i.bare ∧
    faults (.bluSig i) (i.noD && i.noT && i.noM && i.noImm) ∧
    faults (.bluBrd i) (i.noT && i.noM && i.noX) ∧
    faults (.bluBrdw i) (wideOk i.dn && i.noT && i.noM && i.noX) ∧
    faults (.bluBwr i) (i.noD && i.noM && i.noX) ∧
    faults (.bluCapt i) (i.noD && i.noT && i.noM && i.noX) ∧
    faults (.bluPost i) (i.noD && i.noT && i.noM && i.noX && i.noImm) ∧
    faults (.bluArm i) (decide (i.mn < 2) && (decide (i.mn = 0) || i.noT) && i.noX) ∧
    faults (.bluCancel i) (i.noT && i.noM && i.noX && i.noImm) ∧
    faults (.bluEdge i) (wideT i.sn && decide (i.mn < 2) && decide (i.xn < 16) && i.noImm) ∧
    faults (.bluSnap i) (i.noM && i.noX) ∧
    faults (.bluProd i) (decide (i.mn < 4) && decide (i.xn < 16) && (decide (i.mn ≠ 0) || i.noT) && (decide (i.mn < 2) || i.noX) && i.noImm) ∧
    faults (.bluBr i) (i.noD && i.noS && i.noT && decide (i.mn ≤ 12) && i.noX && i.targetOk) ∧
    faults (.bluDbnz i) (i.noS && i.noT && i.noM && i.noX && i.targetOk) ∧
    faults (.bluCall i) (i.noD && i.noS && i.noT && i.noM && i.noX && i.targetOk) ∧
    faults (.bluRet i) i.bare ∧
    faults (.bluJr i) (i.noD && i.noT && i.noM && i.noX && i.noImm) ∧
    access (.bluLd i) (i.noT && decide (i.mn % 4 ≠ 3) && decide (i.mn < 8) && i.noX) false (i.size) ∧
    access (.bluSt i) (i.noD && decide (i.mn < 3) && i.noX) false i.size ∧
    access (.bluLdw i) (wideOk i.dn && i.noT && i.noM && i.noX) false 8 ∧
    access (.bluStw i) (wideOk i.tn && i.noD && i.noM && i.noX) true 8 ∧
    access (.bluXadd i) (i.noM && i.noX) false 4 ∧
    (i.noD && i.noS && i.noT && i.noM && i.noX && i.targetOk → x.stack.length = 8 → fault (.bluCall i) 6) ∧
    (i.bare → x.stack = [] → fault (.bluRet i) 7) ∧
    (i.noD && i.noT && i.noM && i.noX && i.noImm → 8192 ≤ (x.gr i.sn).toNat → fault (.bluJr i) 8)

/-- BLULET_LOAD, BLULET_START and BLULET_STOP (R110 to R112). -/
def Obligations.BluletCommands : Prop :=
  ∀ (s : State) (h : CmdHead) (arg : BitVec 32) (body : List Byte),
    let c (op : Nat) := h.record op arg.toNat body
    let runs (op : Nat) (P : State → Flight → Prop) : Prop :=
      s.hears h (c op) = true → (c op).alone = .ok → (s.heard h (c op)).lockedFor (c op) = false →
        P (s.heard h (c op)) (s.flightOf h (c op))
    (runs 0x50 fun r fl => loadRead arg.toNat = false → loadData arg.toNat = true →
      exec (.bluletLoad h arg body) s = .next
        ((((r.dmemWrite (arg.toNat % 16) (loadOffset arg.toNat) body).mirrorCmd fl.session fl.cmd .ok).complete fl none .ok 0 []).settle)) ∧
    (runs 0x50 fun r fl => loadRead arg.toNat = false → loadData arg.toNat = false →
      exec (.bluletLoad h arg body) s = .next
        ((((r.imemWrite (arg.toNat % 16) (loadOffset arg.toNat) body (body.length / 8)).mirrorCmd fl.session fl.cmd .ok).complete
          fl none .ok 0 []).settle)) ∧
    (runs 0x50 fun r fl => loadRead arg.toNat = true → loadData arg.toNat = true → ∀ n, n = leAt body 0 4 → ∀ e, e = arg.toNat % 16 →
      exec (.bluletLoad h arg body) s = .next
        (((r.readBack e (dmemKey e (loadOffset arg.toNat)) (n / 8)).complete fl none .ok 0
          (r.dmemRead e (loadOffset arg.toNat) n)).settle)) ∧
    (runs 0x50 fun r fl => loadRead arg.toNat = true → loadData arg.toNat = false → ∀ n, n = leAt body 0 4 → ∀ e, e = arg.toNat % 16 →
      exec (.bluletLoad h arg body) s = .next
        (((r.readBack e (imemKey e (loadOffset arg.toNat)) (n / 8)).complete fl none .ok 0
          ((List.range (n / 8)).flatMap fun i => leBytes 8 (r.imemAt e (loadOffset arg.toNat + i)).toNat)).settle)) ∧
    (runs 0x51 fun r fl => ∀ g, g = arg.toNat % 256 → ((r.th g).live = true →
        exec (.bluletStart h arg body) s = .next (((r.mirrorCmd fl.session fl.cmd .state).complete fl none .state 0 []).settle)) ∧
      ((r.th g).live = false → ∀ u, u = (((((r.setRg (BLU_T_FAULT (thEngine g) (thNumber g)) 0).setFld
            (BLU_T_SIG (thEngine g) (thNumber g)) BLU_T_SIG_SIG 0).setTh g
            ({ Thread.init with pc := bitsOf arg.toNat 20 8 }.setGr 1 (BitVec.ofNat 32 (leAt body 0 4)))).makeReady g).faultEnd
            fltThread g) →
          r.thClass g ≠ 0 ∨ r.fits u = true →
        exec (.bluletStart h arg body) s = .next (((u.mirrorCmd fl.session fl.cmd .ok).complete fl none .ok 0 []).settle))) ∧
    (runs 0x52 fun r fl => (stopNames arg.toNat).filter (fun g => decide ((r.th g).st = .running)) = [] →
      exec (.bluletStop h arg body) s = .next
        ((((r.bluStop arg.toNat).1.mirrorCmd fl.session fl.cmd .ok).complete fl none .ok
          (stopResult (r.th ((stopNames arg.toNat).headD 0)).st.code (r.bluStop arg.toNat).2) []).settle))

/-- What happens to threads by itself (R97 to R101, R106, R114, R133). -/
def Obligations.ThreadEvents : Prop :=
  ∀ (s : State) (f : Fin 256),
    let g := f.val
    let x := s.th g
    let a := BLU_T_SIG (thEngine g) (thNumber g)
    let met (y : Thread) (t : Nat) : Thread := match y.meet with
      | some c => y.setWide c (BitVec.ofNat 64 t)
      | none => y
    (x.st = .waiting →
      (∀ r, x.wait = .time r → (x.wide (2 + r)).toNat ≤ s.time →
        exec (.waitMet f) s = .next ((s.setTh g { met x s.time with flags := x.flags.setTo false }).makeReady g).settle) ∧
      (∀ n r timed, x.wait = .angle n r timed → s.angValid n = true → (s.shaft n).dir = false → (s.shaft n).still = false →
        0 ≤ (BitVec.ofInt 64 (s.phi n / 65536) - x.wide r).toInt →
        exec (.waitMet f) s = .next ((s.setTh g { met x s.time with flags := x.flags.setTo false }).makeReady g).settle) ∧
      (∀ n r, x.wait = .angle n r true → s.angleMet n (x.wide r) = false → x.t1.toNat ≤ s.time →
        exec (.waitMet f) s = .next ((s.setTh g { met x s.time with flags := x.flags.setTo true }).makeReady g).settle) ∧
      (∀ m d timed, x.wait = .signals m d timed →
        Nat.land (s.fld a BLU_T_SIG_SIG) m ≠ 0 ∨ (timed = true ∧ x.t1.toNat ≤ s.time) →
        exec (.waitMet f) s = .next ((s.signalsMet g m d timed).makeReady g).settle) ∧
      (∀ d w, x.wait = .bus (.word d w) →
        exec (.waitMet f) s = .next ((s.setTh g (x.setGr d w)).makeReady g).settle) ∧
      (∀ d w, x.wait = .bus (.wide d w) →
        exec (.waitMet f) s = .next ((s.setTh g (x.setWide d w)).makeReady g).settle) ∧
      (∀ q i w, x.wait = .bus (.request q (some i) w) →
        exec (.waitMet f) s = .next ((s.setTh g (({ x with flags := x.flags.setF q } : Thread).setGr i w)).makeReady g).settle) ∧
      (∀ q w, x.wait = .bus (.request q none w) →
        exec (.waitMet f) s = .next ((s.setTh g { x with flags := x.flags.setF q }).makeReady g).settle) ∧
      (∀ b v, x.wait = .bus (.write b v) → exec (.waitMet f) s = .next ((s.makeReady g).bwrTake g b v).settle) ∧
      (∀ n, x.wait = .bus (.capture n) → exec (.waitMet f) s = .next ((s.makeReady g).captTake g n).settle) ∧
      (x.wait = .fence → x.errs = [] → exec (.waitMet f) s = .next (s.makeReady g).settle)) ∧
    (x.st = .running → 64 ≤ x.issued → x.errPend = none → x.stopPend = false →
      exec (.forcedYield f) s = .next ((s.count (BLU_CNT (thEngine g)) BLU_CNT_FORCED 1).makeReady g).settle) ∧
    (x.st = .held → s.thClass g = 1 → x.readyTick + s.thDeadline g ≤ s.time →
      exec (.deadlinePromotion f) s = .next
        (((s.setTh g { x with st := .ready, promoted := true }).count (BLU_CNT (thEngine g)) BLU_CNT_PROMOTED 1).endDoze)) ∧
    (∀ fpc rest, x.errs = fpc :: rest → x.st = .running → x.errPend = none →
      exec (.busErrReturn f) s = .next
        ((s.setTh g { x with errs := rest }).setTh g { x with errs := rest, errPend := some fpc }).settle) ∧
    (∀ fpc rest, x.errs = fpc :: rest → x.st ≠ .running → x.live = true →
      exec (.busErrReturn f) s = .next ((s.setTh g { x with errs := rest }).threadFault g 5 fpc).settle) ∧
    (∀ (j : Fin 16) e es, s.edgeQ j = e :: es → e.at_ / 64 ≤ s.time →
      exec (.edgePlace j) s = .next ((s.setEdgeQ j es).poEdge j e.thread e.at_ e.level)) ∧
    ((s.makeReady g).th g).st = (if s.thHold g then .held else .ready)

/-- TOOTH_EDGE and SECOND_WHEEL_EDGE (R38, R41 to R45). -/
def Obligations.ShaftEdges : Prop :=
  ∀ (s : State) (n : Fin 16) (rising : Bool), s.awake = true →
    let x := s.shaft n
    let dt := (s.mainTicks n).getD 0
    let r := if x.lastMain.isSome then ratio dt (s.shaftTpred n) else none
    let early := x.lastMain.isSome = true ∧ (dt < 200 ∨ ∃ v, r = some v ∧ v < s.winLo n)
    let rev := s.edgeDir n false
    let c := match r.bind (s.gapSize n) with
      | some m => m + 1
      | none => 1
    let timed := x.idx.head?.bind IdxEdge.timed
    let t := s.idxSeen n rising none none
    let rev2 := s.edgeDir n (s.flag (FBP_STAT (s.shc n SHF_CFG_PORT)) FBP_STAT_DIR)
    let tooth (u : State) : Prop := exec (.toothEdge n) s = .next u
    let second (u : State) : Prop := exec (.secondWheelEdge n rising) s = .next u
    (s.shaftEn n = false ∨ s.shaftSrc n ≠ 0 ∨ x.st = .unsync → tooth s) ∧
    (s.shaftEn n = false ∨ s.second n = false ∨ x.st = .unsync → second s) ∧
    (s.shaftEn n = true → s.shaftSrc n = 0 → x.st ≠ .unsync →
      (early → tooth ((s.toothError n).errLimit n)) ∧
      (¬early →
        (x.st = .seeking ∨ x.st = .lost → tooth ((s.seekTooth n rev dt r).mainSeen n 1)) ∧
        (x.st = .gapFound → tooth ((s.foundTooth n rev dt r).mainSeen n 1)) ∧
        (x.st = .synced → tooth ((s.syncTooth n rev dt).mainSeen n c)) ∧
        (x.st = .limp → tooth (s.limpTooth n rev dt c)))) ∧
    (s.shaftEn n = true → s.second n = true →
      (x.st = .seeking ∨ x.st = .lost → second (t.seekIdx n rising rev2)) ∧
      (x.st = .gapFound → second (t.foundIdx n rising rev2)) ∧
      (x.st = .synced → second (t.syncedIdx n (rising != rev2) rev2 x.teeth timed (x.idx.head?.map fun i => s.time - i.tick))) ∧
      (x.st = .limp → second (t.limpIdx n (rising != rev2) rev2 (x.idx.head?.map fun i => s.time - i.tick))))

/-- IDX_LOSS, VIRT_TIMEOUT, HALTED, CATCHUP_LAG_CLOSED, VIRT_HOLD_END, STILL_TIMEOUT, PHASE_SAMPLE, VIRT_RECOMPUTE and
PROFILE_REVERSAL (R45 to R70). -/
def Obligations.ShaftsByThemselves : Prop :=
  ∀ (s : State) (n : Fin 16), s.awake = true →
    let x := s.shaft n
    let gives (c : Instr) (u : State) : Prop := exec c s = .next u
    (s.idxLossDue n = true → gives (.idxLoss n) (s.shaftLose n 8)) ∧
    (s.virtTimeoutDue n = true → gives (.virtTimeout n) (s.shaftLose n 7)) ∧
    (s.angValid n = true → s.shaftVirtual n = false → x.hist ≠ [] → x.mu < 65535 * 2 ^ 16 → x.catching = false → ∀ d : Int,
      d = (x.span * 65535 / 2 ^ 16 : Nat) → ∀ a : Int, a = (if x.dir then x.base - d else x.base + d) →
      gives (.halted n) ((s.setShaft n { x with mu := 65535 * 2 ^ 16, tru := a, disp := a, fine := a, catching := false,
                                                delta := a - x.fine }).shaftRevs n)) ∧
    (x.catching = true → s.shaftVirtual n = true →
      gives (.catchupLagClosed n) ((s.setShaft n { x with disp := x.tru, fine := x.tru, catching := false }).shaftRevs n)) ∧
    (x.catching = true → s.shaftVirtual n = false →
      gives (.catchupLagClosed n) ((s.setShaft n { x with disp := x.tru, fine := x.truAt x.mu, catching := false }).shaftRevs n)) ∧
    (∀ b, x.vHold = true → x.vb = some b → ¬(if x.dir then x.disp < s.vProject b else s.vProject b < x.disp) →
      gives (.virtHoldEnd n)
        ((s.setShaft n { x with vHold := false, tru := s.vProject b, disp := s.vProject b, fine := s.vProject b }).shaftRevs n)) ∧
    (s.stillDue n = true → gives (.stillTimeout n)
      (((s.setShaft n { x with still := true, speed := 0, hist := [], need := 2, rate := 0, delta := 0, relRun := 0 }).count
        (SHF_MCNT n) SHF_MCNT_STILLS 1).almStill n)) ∧
    (s.phaseRuns n = true → x.phAt ≠ some s.time → Gives (.phaseSample n) s fun t =>
      (t.shaft n).phAt = some s.time ∧ (t.shaft n).phSeen = true ∧
        (t.shaft n).phWin = (s.phaseOf n :: x.phWin).take (2 ^ s.fld (SHF_PH_CFG n) SHF_PH_CFG_WIN) ∧
        t.rg (SHF_PHASE n) = BitVec.ofInt 32 (s.phaseOf n)) ∧
    (s.shaftEn n = true → s.shaftVirtual n = true → gives (.virtRecompute n)
      ((s.setShaft n { x with recompAt := some s.time, rho := (s.speedOut n).natAbs * 2 ^ 32 / 400000000,
                              horizon := x.disp + 512 * ((s.speedOut n) * 2 ^ 32 / 400000000) }).almRecompute n)) ∧
    (s.profileTurned n = true → gives (.profileReversal n) ((s.setShaft n { x with dir := !x.dir }).shaftReverse n))

/-- SHAFT_ENABLE, SHAFT_DISABLE and PH_CLR (R34, R45, R63); LINESHAFT_PUBLISH and LINESHAFT_RECEIVE (R65, R397, R398). -/
def Obligations.ShaftControlAndLineshafts : Prop :=
  (∀ (s : State) (n : Fin 16) (v : Word), s.awake = true →
      let on := s.wr (SHF_CFG n) 0xFFFFFFFF (v.setF SHF_CFG_EN 1)
      let off := s.wr (SHF_CFG n) SHF_CFG_EN.mask 0
      let clr := s.wr (SHF_PH_CFG n) SHF_PH_CFG_PH_CLR.mask SHF_PH_CFG_PH_CLR.mask
      (s.shaftEn n = false → (s.plainWrite on).shaftCfgOk n = true →
        exec (.shaftEnable n v) s = .next (((s.plainWrite on).shaftEnable n).done .ok 0 [])) ∧
      (s.shaftEn n = false → (s.plainWrite on).shaftCfgOk n = false →
        exec (.shaftEnable n v) s = .next (s.done .range 0 [])) ∧
      (s.shaftEn n = true → exec (.shaftDisable n) s = .next (((s.plainWrite off).shaftDisable n).done .ok 0 [])) ∧
      exec (.phClr n) s = .next (((s.plainWrite clr).phaseClear n).done .ok 0 [])) ∧
  (∀ s : State, s.awake = true →
      ((∀ n, n < 16 → s.flag (SHF_PUB n) SHF_PUB_PUB_EN = false) → exec .lineshaftPublish s = .next s) ∧
      (s.published ≠ [] → exec .lineshaftPublish s = .next
        (({ s with fab := { s.fab with sampled := s.fabNs / 50000 } } : State).send 4 broadcast 0 0
          (leBytes 1 s.published.length ++ [BitVec.ofNat 8 (b2n s.timeValid), 0, 0] ++ leBytes 8 (unsigned 64 s.fabNs) ++
            s.published.flatMap fun n => s.lineEntry n))) ∧
      (∀ (src : BitVec 16) (valid : Bool) (sample : BitVec 64) (es : List LineEntry),
        exec (.lineshaftReceive src valid sample es) s = .next (es.foldl (fun t e => (List.range 16).foldl (fun u k =>
          if u.shaftEn k = true ∧ u.shaftSrc k = 3 ∧ u.fld (SHF_VSRC k) SHF_VSRC_SRC_ADDR = src.toNat ∧
              u.fld (SHF_VSRC k) SHF_VSRC_SRC_SHAFT = e.shaft.val then
            if valid = true ∧ u.timeValid = true ∧ (∀ b, (u.shaft k).vb = some b → b.sample < sample.toNat) then
              u.virtArrive k { angle := e.angle.toInt, speed := e.speed.toInt, dir := e.dir, spdValid := e.spdValid,
                               still := e.still, sample := sample.toNat, tick := u.time } e.angValid
            else u
          else u) t) s)) ∧
      (∀ (src : BitVec 16) (valid : Bool) (sample : BitVec 64) (n : Fin 16) (e : LineEntry),
        s.shaftEn n = true → s.shaftSrc n = 3 → s.fld (SHF_VSRC n) SHF_VSRC_SRC_ADDR = src.toNat →
        s.fld (SHF_VSRC n) SHF_VSRC_SRC_SHAFT = e.shaft.val →
        (∀ k, k < n.val → s.shaftEn k = false) →
        (∀ k, n.val < k → k < 16 → (s.lineFollow n valid sample.toNat e).shaftEn k = false) →
        exec (.lineshaftReceive src valid sample [e]) s = .next (s.lineFollow n valid sample.toNat e)) ∧
      (∀ (src : BitVec 16) (valid : Bool) (sample : BitVec 64) (es : List LineEntry),
        (∀ k, k < 16 → s.shaftEn k = true → s.shaftSrc k = 3 → s.fld (SHF_VSRC k) SHF_VSRC_SRC_ADDR ≠ src.toNat) →
        exec (.lineshaftReceive src valid sample es) s = .next s))

/-- EVENT_ARM, EVENT_CANCEL and EVENT_QUERY (R71 to R89). -/
def Obligations.EventCommands : Prop :=
  ∀ (s : State) (h : CmdHead) (arg : BitVec 32) (body : List Byte),
    let c (op : Nat) := h.record op arg.toNat body
    let a := arg.toNat
    (s.takes h (c 0x10) = true → ∀ r b d, r = s.heard h (c 0x10) → b = EventDesc.ofBytes body →
        d = { b with owner := none, fin := r.angleNear b.shaft b.fin } →
      let did (u : State) (st : Status) (result : Nat) : Prop :=
        exec (.eventArm h arg body) s = .next (u.ended (s.flightOf h (c 0x10)) st result [])
      (r.shaftEn d.shaft = false → did r .state 0) ∧
      (r.shaftEn d.shaft = true →
        (a < almSize → (r.event a).st.inUse = true → did r .busy 0) ∧
        (¬a < almSize → r.almChoose = none → did r .nospace 0) ∧
        (∀ i, (if a < almSize then (r.event a).st.inUse = false ∧ i = a else r.almChoose = some i) →
          (d.fin * 65536 ≤ r.phi d.shaft → did r .late 0) ∧
          (r.phi d.shaft < d.fin * 65536 →
            did ((r.setEvent i { AlmEvent.init with desc := d, st := .armed, endless := decide (d.count = 0) }).almJudge almFuel i)
              .ok i)))) ∧
    (s.takes h (c 0x11) = true → ∀ r, r = s.heard h (c 0x11) →
      let did (u : State) (st : Status) (result : Nat) : Prop :=
        exec (.eventCancel h arg body) s = .next (u.ended (s.flightOf h (c 0x11)) st result [])
      (bitOf a 31 = true → did (r.almCancelAll (r.almWaiting (a % 16))) .ok (r.almWaiting (a % 16)).length) ∧
      (bitOf a 31 = false → ∀ i e, i = a % almSize → e = r.event i →
        (e.st.waiting = true →
          did ((r.setEvent i { e with st := .cancelled, fresh := false }).count ALM_CANCEL ALM_CANCEL_CANCELLED 1) .ok e.st.code) ∧
        (e.st = .active → did (r.setEvent i { e with stopRep := true }) .ok 3) ∧
        (e.st.inUse = false → did r .state 0))) ∧
    (s.hears h (c 0x12) = true → a < almSize → ∀ r, r = s.heard h (c 0x12) →
      exec (.eventQuery h arg body) s = .next (r.replied (s.flightOf h (c 0x12)) .ok 0 (r.event a).bytes))

/-- EVENT_START and EVENT_END (R73, R74). -/
def Obligations.EventStartsAndEnds : Prop :=
  ∀ (s : State) (i : Fin 16384), s.awake = true →
    let e := s.event i
    let begun (d : Nat) : State :=
      let x := s.crossing e.desc.shaft (s.almLead e.desc.kind) e.start
      let g := s.almEdge e.desc.kind x
      (s.almWorked.setEvent i { e with st := .active, startTick := s.time, endTick := s.time + d, edgeTick := g.1,
                                       edgeStep := g.2, fresh := false }).targetStart e.desc (64 * g.1 + g.2)
    (e.st = .committed → e.notBefore ≤ s.time → s.forward e.desc.shaft = true → s.reached e.desc.shaft (s.almLead e.desc.kind) e.start = true →
      (e.desc.window = false → exec (.eventStart i) s = .next (begun e.desc.duration)) ∧
      (e.desc.window = true →
        (∀ d, s.almWindow e.desc = some d → exec (.eventStart i) s = .next (begun d)) ∧
        (s.almWindow e.desc = none → exec (.eventStart i) s = .next
          (((s.setEvent i { e with st := .skipped, fresh := false }).count ALM_LATE ALM_LATE_SKIPPED 1).almRepeat i)))) ∧
    (e.st = .active → e.endTick ≤ s.time →
      exec (.eventEnd i) s = .next
        (((s.setEvent i { e with st := .done }).targetEnd e.desc
          (64 * (e.edgeTick + (e.endTick - e.startTick)) + e.edgeStep)).almRepeat i)) ∧
    (∀ d, 0 < d.fin * 65536 - s.phi d.shaft → s.rhoOf d.shaft = 0 → s.almWindow d = some d.duration) ∧
    (∀ d, d.fin * 65536 ≤ s.phi d.shaft → s.almWindow d = none) ∧
    (∀ d t, s.almWindow d = some t → t ≤ d.duration)

/-- LANE_ENABLE and LANE_DISABLE (R144, R158). -/
def Obligations.LaneControl : Prop :=
  ∀ (s : State) (n : Fin 16) (v : Word), s.awake = true →
    let on := s.wr (EPH_L_CFG n) 0xFFFFFFFF (v.setF EPH_L_CFG_EN 1)
    let off := s.wr (EPH_L_CFG n) EPH_L_CFG_EN.mask 0
    (s.laneEn n = false →
      (s.shaftEn (v.getF EPH_L_CFG_SHAFT) = false → exec (.laneEnable n v) s = .next (s.done .state 0 [])) ∧
      (s.shaftEn (v.getF EPH_L_CFG_SHAFT) = true →
        (s.rg64 (EPH_L_EXIT_LO n) = 0 ∨ 2 ^ 47 < s.rg64 (EPH_L_EXIT_LO n) →
          exec (.laneEnable n v) s = .next (s.done .range 0 [])) ∧
        (0 < s.rg64 (EPH_L_EXIT_LO n) → s.rg64 (EPH_L_EXIT_LO n) ≤ 2 ^ 47 →
          exec (.laneEnable n v) s = .next
            ((((s.plainWrite on).setLane n { EphLane.init with prods := (s.lane n).prods }).fixFirst n).done .ok 0 [])))) ∧
    (s.laneEn n = true → exec (.laneDisable n) s = .next
      ((((s.lane n).prods.foldl (fun t i => (t.retireQuiet i).1.count (EPH_L_CNT_ERR n) EPH_L_CNT_ERR_DISCARD 1) s).plainWrite
        off).done .ok 0 []))

/-- SLOT_ENTRY, SENSOR_ENTRY, STATION_FIRE and PRODUCT_EXIT (R143, R146, R158). -/
def Obligations.LanesByThemselves : Prop :=
  ∀ (s : State) (n : Fin 16) (k : Fin 64), s.awake = true →
    let l := s.lane n
    let moves (m : Nat) : Prop := s.laneEn m = true ∧ s.angValid (s.laneShaft m) = true ∧ (s.shaft (s.laneShaft m)).dir = false
    let due := s.slotsDue n slotFuel
    let x := s.snap n (s.lcf n EPH_L_CFG_SNAP = 1) (s.lanePhiInt n)
    (moves n → s.slotted n = true →
      (l.gap = false → exec (.slotEntry n) s = .next (due.foldl (fun t y => t.slotEnter n y.1 y.2) s)) ∧
      (l.gap = true → due = [] → exec (.slotEntry n) s = .next (s.setLane n { l with gap := false })) ∧
      (l.gap = true → ∀ ys y, due = ys ++ [y] → exec (.slotEntry n) s = .next
        ((s.setLane n { l with gap := false }).setLane n
          { l with gap := false, next := some (y.1 + 1), seen := l.seen.filter fun a => decide (y.1 < a) }))) ∧
    (moves n → s.lcf n EPH_L_CFG_ENTRY = 2 →
      (∀ a, l.lastSensor = some a → s.lanePhiInt n - a < (s.rg (EPH_L_MIN_GAP n)).toNat →
        exec (.sensorEntry n) s = .next (s.count (EPH_L_CNT_ERR n) EPH_L_CNT_ERR_GAP_SHORT 1)) ∧
      ((∀ a, l.lastSensor = some a → (s.rg (EPH_L_MIN_GAP n)).toNat ≤ s.lanePhiInt n - a) →
        exec (.sensorEntry n) s = .next ((s.setLane n { l with lastSensor := some (s.lanePhiInt n) }).enter n x.1 x.2.1 pfPresent))) ∧
    (moves (s.stnLane k) → s.stnEn k = true → FMap.get (fun _ => 0) s.stnTick k ≠ s.time + 1 →
      ∀ is i js p, (s.lane (s.stnLane k)).prods = is ++ i :: js → p = s.prod i →
        (∀ j ∈ is, (s.prod j).firedBy k = true ∨ s.stnReached k (s.prod j) = false) →
        p.firedBy k = false → s.stnReached k p = true →
        exec (.stationFire k) s = .next
          (((({ (s.setProd i { (p.setFired k) with lastValid := true, lastStn := k }) with
                stnTick := FMap.set (fun _ => 0) s.stnTick k (s.time + 1) } : State).count (EPH_ST_CNT k) EPH_ST_CNT_FIRED 1).pointProduct
              k p.anchor).runActions k (s.stnLane k) i (s.prodBefore i) ((List.range 8).map fun j => s.rg (EPH_ST_ACT k j)))) ∧
    (moves n → exec (.productExit n) s = .next
      ((l.prods.filter fun i => decide (((s.prod i).anchor + (s.rg64 (EPH_L_EXIT_LO n) : Nat)) * 65536 ≤ s.lanePhi n)).foldl
        (fun t i => (t.retire i).1) s))

/-- HANDOFF_RECORD_RECEIVE, HANDOFF_ACK_RECEIVE and HANDOFF_ACK_TIMEOUT (R156, R157). -/
def Obligations.Handoffs : Prop :=
  ∀ (s : State), s.awake = true →
    (∀ (src seq : BitVec 16) (lane : Fin 16) (th : BitVec 64) (body : List Byte) (p : Product), p = productOfBytes body →
      let ack (u : State) (neg : Bool) : Prop :=
        exec (.handoffRecordReceive src seq lane th body) s = .next (u.handoffAck src.toNat neg p.pid seq.toNat)
      (p.pid ∈ s.pidsSeen → ack (s.count EPH_CNT EPH_CNT_HO_DUP 1) false) ∧
      (p.pid ∉ s.pidsSeen → s.laneEn lane = false ∨ s.angValid (s.laneShaft lane) = false → ack s true) ∧
      (p.pid ∉ s.pidsSeen → s.laneEn lane = true → s.angValid (s.laneShaft lane) = true →
        (s.takeRecord = none → ack (s.storeFull lane) true) ∧
        (∀ t i, s.takeRecord = some (t, i) →
          let dt := s.fabNs - th.toInt
          let ah := s.lanePhiInt lane - divT (s.speedOut (s.laneShaft lane) * 65536 * dt) 1000000000
          let x := s.snap lane (s.lcf lane EPH_L_CFG_SNAP = 1) (ah - (s.rg (EPH_L_HO_OFS lane)).toNat)
          let late : Prop := (s.fld (EPH_L_HO lane) EPH_L_HO_HO_DEADLINE * 1000 : Nat) < dt
          let far : Prop := s.fld (EPH_L_HO lane) EPH_L_HO_HO_TOL * 65536 < x.2.2
          let q : Product := { p.unmark pfHandedOff with
            anchor := x.1, slot := x.2.1, entryTick := s.time, entryLane := lane.val, fired := 0, passed := 0 }
          let entered (r : Product) : State := (t.putOn lane i (r.mark pfPresent)).count (EPH_L_CNT_IO lane) EPH_L_CNT_IO_ENTERED 1
          let said (u : State) : Prop := exec (.handoffRecordReceive src seq lane th body) s = .next
            (((({ u with pidsSeen := (u.pidsSeen ++ [p.pid]).drop (u.pidsSeen.length + 1 - 256) } : State).skipStations lane i).handoffAck
              src.toNat false p.pid seq.toNat).mirror 5 [1, p.pid])
          (late → said ((entered (q.mark (pfSuspect + pfReject))).count EPH_HO_CNT EPH_HO_CNT_LATE 1)) ∧
          (¬late → far → said (entered (q.mark pfSuspect))) ∧
          (¬late → ¬far → said (entered q))))) ∧
    (∀ (neg : Bool) (pid : BitVec 32) (seq : BitVec 16),
      ((∀ h ∈ s.handoffs, h.pid ≠ pid.toNat ∨ seq.toNat ∉ h.seqs) → exec (.handoffAckReceive neg pid seq) s = .next s) ∧
      (∀ hs h ks, s.handoffs = hs ++ h :: ks → (∀ g ∈ hs, g.pid ≠ pid.toNat ∨ seq.toNat ∉ g.seqs) → h.pid = pid.toNat →
        seq.toNat ∈ h.seqs → exec (.handoffAckReceive neg pid seq) s = .next (s.handoffEnd h neg))) ∧
    (∀ (i : Fin 65536) hs h ks, s.handoffs = hs ++ h :: ks → (∀ g ∈ hs, g.product ≠ i.val) → h.product = i.val → s.standby = false →
      h.since + s.fld EPH_HO_CFG EPH_HO_CFG_ACK_TO * ticksUs ≤ s.time →
      (h.resent = true → exec (.handoffAckTimeout i) s = .next (s.handoffEnd h true)) ∧
      (h.resent = false → ∀ k, k = { h with resent := true, since := s.time, seqs := h.seqs ++ [s.nextSeq h.dest 1] } →
        exec (.handoffAckTimeout i) s = .next
          (({ s with handoffs := s.handoffs.map fun x => if x.product = i.val then k else x } : State).sendHandoff k true)))

/-- PRODUCT_ENTER, PRODUCT_UPDATE, PRODUCT_QUERY and PRODUCT_RETIRE (R159 to R162). -/
def Obligations.ProductCommands : Prop :=
  ∀ (s : State) (h : CmdHead) (arg : BitVec 32) (body : List Byte),
    let c (op : Nat) := h.record op arg.toNat body
    let a := arg.toNat
    (s.takes h (c 0x20) = true → ∀ r n given, r = s.heard h (c 0x20) → n = a % 16 → given = bitOf a 8 →
      let did (u : State) (st : Status) (result : Nat) : Prop :=
        exec (.productEnter h arg body) s = .next (u.ended (s.flightOf h (c 0x20)) st result [])
      let x := r.snap n (r.lcf n EPH_L_CFG_SNAP = 1) (if given then signed 64 (leAt body 0 8) else r.lanePhiInt n)
      let o := if given then 8 else 0
      let far : Bool := decide (r.fld (EPH_L_HO n) EPH_L_HO_HO_TOL * 65536 < x.2.2)
      let made := r.makeRecord n x.1 x.2.1 (pfPresent + if far then pfSuspect else 0) (BitVec.ofNat 32 (leAt body o 4))
        (BitVec.ofNat 32 (leAt body (o + 4) 4))
      (r.laneEn n = false ∨ r.angValid (r.laneShaft n) = false → did r .state 0) ∧
      (r.laneEn n = true → r.angValid (r.laneShaft n) = true →
        (r.lanePassed n (x.1 + (r.laneExit n : Nat)) = true → did r .late 0) ∧
        (r.lanePassed n (x.1 + (r.laneExit n : Nat)) = false →
          (made = none → did (r.count EPH_CNT EPH_CNT_STORE_FULL 1) .nospace 0) ∧
          (∀ t i, made = some (t, i) → did ((t.count (EPH_L_CNT_IO n) EPH_L_CNT_IO_ENTERED 1).skipStations n i) .ok i)))) ∧
    (s.takes h (c 0x21) = true → ∀ r i, r = s.heard h (c 0x21) → i = a % 65536 →
      let did (u : State) (st : Status) : Prop :=
        exec (.productUpdate h arg body) s = .next (u.ended (s.flightOf h (c 0x21)) st 0 [])
      ((r.prod i).st ≠ .onLane ∨ (r.prod i).pid ≠ leAt body 0 4 → did r .state) ∧
      ((r.prod i).st = .onLane → (r.prod i).pid = leAt body 0 4 →
        did (r.setProd i ((r.prod i).updated (bitsOf a 21 20) (bitsOf a 19 16) (leAt body 4 4))) .ok)) ∧
    (s.hears h (c 0x22) = true → a < 65536 → ∀ r, r = s.heard h (c 0x22) →
      exec (.productQuery h arg body) s = .next (r.replied (s.flightOf h (c 0x22)) .ok 0 (r.prod a).bytes)) ∧
    (s.takes h (c 0x23) = true → ∀ r, r = s.heard h (c 0x23) →
      let did (u : State) (st : Status) (result : Nat) : Prop :=
        exec (.productRetire h arg body) s = .next (u.ended (s.flightOf h (c 0x23)) st result [])
      ((r.prod a).st ≠ .onLane ∨ (r.prod a).pid ≠ leAt body 0 4 → did r .state 0) ∧
      ((r.prod a).st = .onLane → (r.prod a).pid = leAt body 0 4 → did (r.retire a).1 .ok (r.retire a).2))

/-- GENERATOR_ENABLE, GENERATOR_DISABLE, TEMPLATE_BIND, RING_ENABLE and COMPOSER_DISABLE (R170, R178, R179, R183, R187). -/
def Obligations.ComposerRegisters : Prop :=
  ∀ (s : State) (n : Fin 8) (m : Fin 64) (v : Word), s.awake = true →
    let gOn := s.wr (CMP_SG_CFG n) 0xFFFFFFFF (v.setF CMP_SG_CFG_EN 1)
    let gOff := s.wr (CMP_SG_CFG n) CMP_SG_CFG_EN.mask 0
    let tOn := s.wr (CMP_TPL m) 0xFFFFFFFF (v.setF CMP_TPL_VALID 1)
    let rOn := s.wr (CMP_RQ_SIZE n) 0xFFFFFFFF (v.setF CMP_RQ_SIZE_EN 1)
    let cOff := s.wr CMP_CFG CMP_CFG_EN.mask 0
    let bad : Bool := bitOf (s.fld JNL_HWM_BAD JNL_HWM_BAD_BAD) n
    let blk := v.getF CMP_TPL_BLOCK
    let size := v.getF CMP_RQ_SIZE_SIZE
    let fits : Prop := 8 ≤ size ∧ size ≤ 4096 ∧ s.rangeHeldBy (s.fld CMP_CFG CMP_CFG_CLAIM) (s.ringBase n) size = true
    let wrong : Prop := s.genStart n = 0 ∨ s.genStart n ≤ (s.gen n).hwm ∨ s.genEnd n < s.genStart n
    let genOn (u : State) : Prop := exec (.generatorEnable n v) s = .next u
    let bind (u : State) : Prop := exec (.templateBind m v) s = .next u
    let ring (u : State) : Prop := exec (.ringEnable n v) s = .next u
    (s.genEn n = false →
      (bad = true → s.genStart n < (s.gen n).hwm + 512 → genOn (s.done .state 0 [])) ∧
      (bad = false → wrong → genOn (s.done .range 0 [])) ∧
      (bad = false → ¬wrong → genOn ((((s.plainWrite gOn).faultEnd fltGenExhausted n).reserveNext n).done .ok 0 []))) ∧
    (s.genEn n = true → exec (.generatorDisable n) s = .next (((s.genDrop 1 n).plainWrite gOff).done .ok 0 [])) ∧
    (s.templateOk blk = false → bind (s.done .range 0 [])) ∧
    (s.templateOk blk = true →
      (s.admits (s.plainWrite tOn).bump = true → bind ((s.plainWrite tOn).bump.done .ok 0 [])) ∧
      (s.admits (s.plainWrite tOn).bump = false → bind (s.budgetRefused.done .budget 0 []))) ∧
    (¬fits → ring (s.done .range 0 [])) ∧
    (fits → s.ringEn n = false →
      ring (((s.plainWrite rOn).setRas n { s.ras n with ring := [], ringHead := 0 }).done .ok 0 [])) ∧
    (s.flag CMP_CFG CMP_CFG_EN = true → s.fld CMP_CFG CMP_CFG_DAY_START ≤ 1439 → s.admits (s.plainWrite cOff).failQueued = true →
      exec .composerDisable s = .next ((s.plainWrite cOff).failQueued.done .ok 0 []))

/-- CODE_JOB, JOB_START, JOB_COMPLETE, JOB_DEADLINE, JOB_LATE and SERIAL_RESERVATION (R164 to R186). -/
def Obligations.ComposerJobs : Prop :=
  (∀ (s : State) (h : CmdHead) (arg : BitVec 32) (body : List Byte),
    let c := h.record 0x38 arg.toNat body
    let a := arg.toNat
    s.hears h c = true → codeJobOk a body = true → ∀ r who m rl, r = s.heard h c → m = bitsOf a 13 8 → rl = a % 8 →
      (if bitOf a 7 then who = none else who = some (a / 65536 % 65536, leAt body 0 4)) →
      let fl := s.flightOf h c
      let did (u : State) (st : Status) (result : Nat) : Prop := exec (.codeJob h arg body) s = .next (u.ended fl st result [])
      (∀ i pid, who = some (i, pid) → (r.prod i).st ≠ .onLane ∨ (r.prod i).pid ≠ pid → did r .state 0) ∧
      ((∀ i pid, who = some (i, pid) → (r.prod i).st = .onLane ∧ (r.prod i).pid = pid) →
        (∀ st, r.jobState m rl = some st → st ≠ .ok → did r st 0) ∧
        (r.jobState m rl = none →
          (bitOf a 6 = false → did (r.postJob r.time m rl who none true).1 .ok (r.ras rl).nextEntry) ∧
          (bitOf a 6 = true → exec (.codeJob h arg body) s = .next
            ((((r.postJob r.time m rl who (some fl.id) true).1.mirrorCmd fl.session fl.cmd .ok).holdFlight fl.id
              (.job (r.ras rl).nextEntry)).settle))))) ∧
  (∀ (s : State) (g : Fin 8), s.awake = true →
    (∀ j p k t need got, s.activeJobs.length < 4 → s.nextToStart = some j → p = j.product.map (fun w => (w.1, (s.prod w.1).pid)) →
      s.takeSerials j (if j.skip then [] else gensOf (s.tplFields j.block)) = (t, need, got) →
      k = { j with product := p, phase := .active (j.product.map fun w => s.prod w.1) need got } →
      ∀ u : State, u = { t with jobs := (t.jobs.filter fun x => !decide (x.id = j.id)) ++ [k] } →
      exec .jobStart s = .next (u.setRas j.rlane { u.ras j.rlane with
        queue := (u.ras j.rlane).queue.map fun e => if e.job = j.id then { e with product := p } else e })) ∧
    (∀ k j p need got, s.activeJobs[k]? = some j → j.phase = .active p need got →
      let w : Work := { blk := j.block, head := s.template j.block, rec_ := p, serials := got }
      let serial := firstSerial (s.tplFields j.block) got
      (s.needLost need = true →
        exec (.jobComplete k) s = .next (((s.genFault need).jobFail j serial .quota).settleJobs.settle)) ∧
      (need = [] →
        (∀ e, s.compose j w = .error e → exec (.jobComplete k) s = .next ((s.jobFail j serial e).settleJobs.settle)) ∧
        (∀ dots, s.compose j w = .ok dots → s.ringRoom j.rlane (s.template j.block).imageBlocks = true →
          exec (.jobComplete k) s = .next
            (((s.jobImage j (s.template j.block) serial dots).jobRecord j serial false).settleJobs.settle)))) ∧
    (∀ k j, s.jobs[k]? = some j →
      (j.phase = .queued → j.classB = true → j.promoted = false → j.deadline ≤ s.time →
        exec (.jobDeadline k) s = .next (s.setJob { j with promoted := true })) ∧
      (j.late = false → s.jobBound j < s.time →
        exec (.jobLate k) s = .next (((s.setJob { j with late := true }).count CMP_CNT2 CMP_CNT2_LATE 1).raiseFree 229))) ∧
    (∀ r x y, x = s.gen g → x.reserving = some r →
      y = (if (x.cur.all fun c => decide (c.2 < c.1)) = true
        then { hwm := Nat.max x.hwm r.2, cur := some r, ahead := x.ahead, reserving := none }
        else { hwm := Nat.max x.hwm r.2, cur := x.cur, ahead := some r, reserving := none }) →
      ∀ t : State, t = { (s.setGen g y) with reservationAcks := s.reservationAcks.filter fun k => !decide (k = g.val) } →
      (s.genEnd g - y.hwm < s.fld (CMP_SG_CFG g) CMP_SG_CFG_LOW →
        exec (.serialReservation g) s = .next (t.raise 226 g).serveWaiting) ∧
      (s.fld (CMP_SG_CFG g) CMP_SG_CFG_LOW ≤ s.genEnd g - y.hwm → exec (.serialReservation g) s = .next t.serveWaiting)))

/-- RASTER_ENABLE and RASTER_DISABLE (R201, R202). -/
def Obligations.RasterControl : Prop :=
  ∀ (s : State) (n : Fin 8) (v : Word) (force : Bool), s.awake = true →
    let on := s.wr (RAS_CTL n) 0xFFFFFFFF (v.setF RAS_CTL_EN 1)
    let off := s.wr (RAS_CTL n) (RAS_CTL_EN.mask ||| RAS_CTL_FORCE.mask) ((0 : Word).setF RAS_CTL_FORCE (b2n force))
    let did (u : State) : Prop := exec (.rasterEnable n v) s = .next u
    let t := (s.plainWrite on).setRas n { (s.plainWrite on).ras n with rdySince := s.time, live := s.driveOn }
    let w := if force then (s.plainWrite off).rasTruncate n else s.plainWrite off
    let gone := (w.ras n).queue.foldl (fun t e => (t.rasSkip n e).count (RAS_CNT2 n) RAS_CNT2_DISCARD 1)
      (w.setRas n { w.ras n with queue := [] })
    (s.rasEn n = false →
      (v.getF RAS_CTL_FORCE ≠ 0 ∨ s.rasCfgOk n = false → did (s.done .range 0 [])) ∧
      (v.getF RAS_CTL_FORCE = 0 → s.rasCfgOk n = true →
        (s.shaftEn (v.getF RAS_CTL_SHAFT) = false → did (s.done .state 0 [])) ∧
        (s.shaftEn (v.getF RAS_CTL_SHAFT) = true →
          (s.admits t = true → did (t.done .ok 0 [])) ∧
          (s.admits t = false → did (s.budgetRefused.done .budget 0 []))))) ∧
    (s.rasEn n = true → s.admits gone = true → exec (.rasterDisable n force) s = .next (gone.done .ok 0 []))

/-- COLUMN_STROBE, COLUMN_FRAME, STROBE_STALL, RDY_CHANGE and RDY_TIMEOUT (R189 to R202). -/
def Obligations.RasterRuns : Prop :=
  ∀ (s : State) (n : Fin 8), s.awake = true →
    let x := s.ras n
    (∀ c, x.code = some c → c.frameEnd = none → c.frameFrom ≤ s.time →
      (s.rasReady n = false → exec (.columnFrame n) s = .next (s.rasTruncate n)) ∧
      (s.rasReady n = true → s.imagePoisoned n c.im = true →
        exec (.columnFrame n) s = .next ((s.rasTruncate n).faultEvent fltImageUe n 1 (prodValue c.product))) ∧
      (s.rasReady n = true → s.imagePoisoned n c.im = false →
        exec (.columnFrame n) s = .next (s.setRas n
          { x with code := some { c with frameEnd := some (s.time + s.rasFrameTicks n) },
                   frame := if c.undriven then x.frame else s.rasColumn n c c.slot }))) ∧
    ((s.rasLost n = true → exec (.columnStrobe n) s = .next (s.rasTruncate n)) ∧
      (s.rasLost n = false → exec (.columnStrobe n) s = .next ((s.rasTimeSlots n 4352).rasStrobe n)) ∧
      (s.rasAngleDue n = false → s.rasTimeSlots n 4352 = s) ∧
      (∀ c k, x.code = some c → s.rasAngleDue n = true →
        ∀ j e, j = c.slot + c.angles.length →
          e = placeEdge s.time (s.fld (RAS_LEAD n) RAS_LEAD_TICKS) latencyStb
            (s.crossing (s.rasShaft n) (s.rasLead n) (s.rasAngle n c j)) →
          s.rasTimeSlots n (k + 1) =
            (s.setRas n { x with code := some { c with angles := c.angles ++
              [if s.rasPassed n (s.rasAngle n c j) then (64 * s.time, 64 * (s.time + latencyStb))
               else (64 * e.1 + e.2, 64 * e.1 + e.2)] } }).rasTimeSlots n k)) ∧
    (∀ c a as e, x.code = some c → s.rasLost n = false → s.rasAngleDue n = false → c.angles = a :: as → c.frameEnd = some e →
      let after (l : Option Nat) : Nat := match l with
        | some q => q + 64 * s.rasMcp n
        | none => 0
      ∀ t, t = Nat.max a.2 (Nat.max (64 * (e + s.rasSetup n)) (Nat.max (after c.lastStrobe)
        (after (x.strobe.map fun q => 64 * q.1 + q.2)))) → t / 64 ≤ s.time → (s.shaft (s.rasShaft n)).dir = false →
      ∀ u v, u = (s.rasLagOf n c t).setFld (RAS_STAT n) RAS_STAT_SLOT c.slot →
        v = (if c.undriven then u else u.rasTallies n c) →
        ∀ d w, d = { c with slot := c.slot + 1, frameEnd := none, frameFrom := t / 64 + s.rasHold n, lastStrobe := some t, angles := as,
                            overspeed := c.overspeed || decide (a.1 < t) } →
          w = v.setRas n { v.ras n with code := some d,
                                        strobe := if c.undriven then (v.ras n).strobe else some (t / 64, t % 64) } →
        (c.slot + 1 ≠ c.slots → exec (.columnStrobe n) s = .next w) ∧
        (c.slot + 1 = c.slots → exec (.columnStrobe n) s = .next (w.rasEndCode n c))) ∧
    (s.rasStallDue n = true → exec (.strobeStall n) s = .next (s.rasTruncate n)) ∧
    (∀ pin, pin ≠ x.rdyPin → x.rdyAt = 0 ∨ x.rdyAt + 8 ≤ s.time + 1 →
      ∀ t, t = s.setRas n { x with rdyPin := pin, rdySince := s.time, rdyAt := s.time + 1 } →
      (t.rasReady n = true → x.faulted = true →
        exec (.rdyChange n pin) s = .next ((t.setRas n { t.ras n with faulted := false }).faultEnd fltLaneRdy n)) ∧
      (t.rasReady n = false ∨ x.faulted = false → exec (.rdyChange n pin) s = .next t)) ∧
    (s.rasEn n = true → s.rasReady n = false → x.faulted = false →
      x.rdySince + s.fld (RAS_PROF2 n) RAS_PROF2_RDY_TO * ticksMs ≤ s.time →
      exec (.rdyTimeout n) s = .next
        (((s.setRas n { x with faulted := true }).raise (rasSource n 2) 0xFFFF).faultRaise fltLaneRdy n 2 0))

/-- PORT_ENABLE, PORT_DISABLE, POS_WRITE and PFAULT_CLEAR (R211, R229, R231, R232). -/
def Obligations.PortControl : Prop :=
  ∀ (s : State) (n : Fin 16) (v : Word), s.awake = true →
    let on := s.plainWrite (s.wr (FBP_CFG n) 0xFFFFFFFF (v.setF FBP_CFG_EN 1))
    let off := s.plainWrite (s.wr (FBP_CFG n) FBP_CFG_EN.mask 0)
    let x := s.port n
    let pos := v.getF FBP_POS_POS
    let top := if s.portSerial n then 2 ^ 24 else s.portWrap n
    (s.portEn n = false →
      (on.portCfgOk n = false → exec (.portEnable n v) s = .next (s.done .range 0 [])) ∧
      (on.portCfgOk n = true → exec (.portEnable n v) s = .next ((on.portEnable n).done .ok 0 []))) ∧
    (s.portEn n = true →
      (s.portNamed n = true → exec (.portDisable n) s = .next (s.done .state 0 [])) ∧
      (s.portNamed n = false → ∀ y, y = off.port n →
        exec (.portDisable n) s = .next
          (((((off.setFld (FBP_PRB_CFG n) FBP_PRB_CFG_MODE 0).setFld (FBP_EMU_STAT n) FBP_EMU_STAT_BACKLOG (unsigned 17 y.backlog)).setPort n
            { y with nextFrame := none, frame := y.frame.map fun f => (f.1, false), backlog := 0, emuAcc := 0 })).done .ok 0 []))) ∧
    (top ≤ pos → exec (.posWrite n v) s = .next (s.done .range 0 [])) ∧
    (pos < top →
      (s.portIsMain n = true → exec (.posWrite n v) s = .next (s.done .state 0 [])) ∧
      (s.portIsMain n = false → 
        exec (.posWrite n v) s = .next (((s.setPort n { x with raw := pos, pos := pos }).emuInput n (count32 (pos - x.pos))).done .ok 0 []))) ∧
    (s.fld (FBP_STAT n) FBP_STAT_LBRK ≠ 0 ∨ s.flag (FBP_SUP_STAT n) FBP_SUP_STAT_OC = true ∨ s.isFresh (FBP_STAT n) FBP_STAT_PFAULT = true →
      exec (.pfaultClear n) s = .next (s.done .ok 0 [])) ∧
    (s.fld (FBP_STAT n) FBP_STAT_LBRK = 0 → s.flag (FBP_SUP_STAT n) FBP_SUP_STAT_OC = false → s.isFresh (FBP_STAT n) FBP_STAT_PFAULT = false →
      s.portFaulted n = true → exec (.pfaultClear n) s = .next
        ((((s.setFlag (FBP_STAT n) FBP_STAT_PFAULT false).setFlag (FBP_STAT n) FBP_STAT_REFD false).faultEnd fltPort n).done .ok 0 []))

/-- SUPPLY_ON, SUPPLY_OFF, SETTLING_END, OVERCURRENT, LINE_BREAK and LINE_BREAK_END (R225 to R229). -/
def Obligations.PortSupplies : Prop :=
  ∀ (s : State) (n : Fin 16) (v : Word), s.awake = true →
    let on := s.plainWrite (s.wr (FBP_SUP n) 0xFFFFFFFF (v.setF FBP_SUP_EN 1))
    let off := s.plainWrite (s.wr (FBP_SUP n) FBP_SUP_EN.mask 0)
    let load := v.getF FBP_SUP_ILOAD
    let x := s.port n
    let settled (u : State) : State := u.setPort n { u.port n with
      settleEnd := none
      nextFrame := if u.settling n && u.portEn n && u.portSerial n then some u.time else (u.port n).nextFrame }
    (s.flag (FBP_SUP n) FBP_SUP_EN = false →
      (load = 0 ∨ 200 < load → exec (.supplyOn n v) s = .next (s.done .range 0 [])) ∧
      (0 < load → load ≤ 200 →
        (s.fld FBP_SUP_BUDGET FBP_SUP_BUDGET_ALLOW < s.supDecl + on.supPower n →
          exec (.supplyOn n v) s = .next (s.done .budget 0 [])) ∧
        (s.supDecl + on.supPower n ≤ s.fld FBP_SUP_BUDGET FBP_SUP_BUDGET_ALLOW →
          exec (.supplyOn n v) s = .next (((on.setFlag (FBP_SUP_STAT n) FBP_SUP_STAT_ON true).setPort n
            { on.port n with settleEnd := some (on.time + on.fld (FBP_SUP n) FBP_SUP_DELAY * ticksMs) }).done .ok 0 [])))) ∧
    (s.flag (FBP_SUP n) FBP_SUP_EN = true → exec (.supplyOff n) s = .next
      (((settled (off.setFlag (FBP_SUP_STAT n) FBP_SUP_STAT_ON false)).setFlag (FBP_SUP_STAT n) FBP_SUP_STAT_OC false).done .ok 0 [])) ∧
    (∀ (a b z w : Bool) t y, x.settleEnd = some t → t ≤ s.time →
      y = { x with
        settleEnd := none
        lvA := s.afterInv n 0 a
        lvB := s.afterInv n 1 b
        lvZ := s.afterInv n 2 z
        lvX := s.afterInv n 3 w
        atA := s.time + 1
        atB := s.time + 1
        atZ := s.time + 1
        atX := s.time + 1
        nextFrame := if s.portEn n && s.portSerial n then some s.time else none } →
      exec (.settlingEnd n a b z w) s = .next (s.setPort n { y with hallRef := y.hallCode })) ∧
    (∀ ma : BitVec 16, s.supOn n = true → s.fld (FBP_SUP n) FBP_SUP_ILOAD + 20 < ma.toNat →
      exec (.overcurrent n ma) s = .next
        (((((settled (s.setFlag (FBP_SUP_STAT n) FBP_SUP_STAT_ON false)).setFlag (FBP_SUP_STAT n)
          FBP_SUP_STAT_OC true).setFld (FBP_SUP_STAT n) FBP_SUP_STAT_IMEAS (satTo 255 ma.toNat)).portError n 13).portFault n)) ∧
    (∀ i : Fin 4,
      (s.portEn n = true → s.settling n = false → bitOf (s.fld (FBP_CFG n) FBP_CFG_LBCHK) i = true →
        exec (.lineBreak n i) s = .next
          (((s.setFld (FBP_STAT n) FBP_STAT_LBRK (Nat.lor (s.fld (FBP_STAT n) FBP_STAT_LBRK) (2 ^ i.val))).portError n 12).portFault n)) ∧
      exec (.lineBreakEnd n i) s = .next
        (s.setFld (FBP_STAT n) FBP_STAT_LBRK (Nat.land (s.fld (FBP_STAT n) FBP_STAT_LBRK) (Nat.xor 15 (2 ^ i.val)))))

/-- FILTER_ACCEPTANCE, SERIAL_FRAME_START, SERIAL_FRAME_END, EMU_ENABLE and EMU_OUTPUT_COUNT (R206 to R224). -/
def Obligations.PortCounting : Prop :=
  ∀ (s : State) (n : Fin 16) (v : Word), s.awake = true →
    let o := s.port n
    (∀ (a b z w : Bool),
      let takes (held : Bool) (at_ : Nat) (level : Bool) : Bool × Nat :=
        if level = held ∨ (at_ ≠ 0 ∧ s.time + 1 < at_ + s.fld (FBP_CFG n) FBP_CFG_FILT + 1) then (held, at_) else (level, s.time + 1)
      let fa := if s.portSerial n then (o.lvA, o.atA) else takes o.lvA o.atA (s.afterInv n 0 a)
      let fb := takes o.lvB o.atB (s.afterInv n 1 b)
      let fz := takes o.lvZ o.atZ (s.afterInv n 2 z)
      let fx := takes o.lvX o.atX (s.afterInv n 3 w)
      let y := { o with
        lvA := fa.1
        lvB := fb.1
        lvZ := fz.1
        lvX := fx.1
        atA := fa.2
        atB := fb.2
        atZ := fz.2
        atX := fx.2 }
      (s.settling n = true → exec (.filterAcceptance n a b z w) s = .next s) ∧
      (s.settling n = false → s.portEn n = false → exec (.filterAcceptance n a b z w) s = .next (s.setPort n y)) ∧
      (s.settling n = false → s.portEn n = true →
        let c := (s.setPort n y).portCount n o
        let r := c.1.portRaw n c.2
        let t := r.1.portDeliver n o r.2
        let u := if s.flag (FBP_CFG n) FBP_CFG_IDX_EN ∧ s.portMode n ≤ 2 ∧ s.qualified n y ∧ ¬s.qualified n o
          then t.indexEvent n else t
        let p := if s.probeEdge n o y then u.probeLatch n else u
        exec (.filterAcceptance n a b z w) s = .next (p.emuInput n (count32 ((p.port n).pos - o.pos))))) ∧
    (∀ t, s.portEn n = true → s.portSerial n = true → s.settling n = false →
      (∀ f, o.frame = some f → f.2 = true) → o.nextFrame = some t → t ≤ s.time →
      exec (.serialFrameStart n) s = .next
        (s.setPort n { o with frame := some (s.time, true), nextFrame := some (s.time + s.fld (FBP_SER_PER n) FBP_SER_PER_FPER) })) ∧
    (∀ r t deliver, o.frame = some (t, deliver) →
      (s.time < t + 2 * s.fld (FBP_SER_CLK n) FBP_SER_CLK_HALF * s.framePeriods n r → exec (.serialFrameEnd n r) s = .next s) ∧
      (t + 2 * s.fld (FBP_SER_CLK n) FBP_SER_CLK_HALF * s.framePeriods n r ≤ s.time → ∀ u, u = s.setPort n { o with frame := none } →
      (deliver = false → s.serFails n r = none → exec (.serialFrameEnd n r) s = .next (u.setRg (FBP_SER_POS n) (BitVec.ofNat 32 (s.serValue n r)))) ∧
      (deliver = true → s.serFails n r = none → exec (.serialFrameEnd n r) s = .next (u.frameGood n r t)) ∧
      (∀ k, s.serFails n r = some k → exec (.serialFrameEnd n r) s = .next (u.frameFail n k deliver)))) ∧
    (s.flag (FBP_EMU_CFG n) FBP_EMU_CFG_EMU_EN = false →
      let mul := s.fld (FBP_EMU_RATIO n) FBP_EMU_RATIO_MUL
      let div := s.fld (FBP_EMU_RATIO n) FBP_EMU_RATIO_DIV
      let on := s.wr (FBP_EMU_CFG n) 0xFFFFFFFF (v.setF FBP_EMU_CFG_EMU_EN 1)
      (v.getF FBP_EMU_CFG_MINP < 16 ∨ mul = 0 ∨ div = 0 ∨ div < mul → exec (.emuEnable n v) s = .next (s.done .range 0 [])) ∧
      (16 ≤ v.getF FBP_EMU_CFG_MINP → 0 < mul → mul ≤ div → exec (.emuEnable n v) s = .next
        ((((s.plainWrite on).setPort n { o with emuAcc := 0, backlog := 0, emuNext := s.time, emuIdx := false }).emuShow n).done .ok 0 []))) ∧
    (s.emuDue n = true →
      let minp := s.fld (FBP_EMU_CFG n) FBP_EMU_CFG_MINP
      let rev : Bool := decide (o.backlog < 0)
      let step : Int := if rev then 1 else -1
      let moved (y : Port) : Prop := exec (.emuOutputCount n) s = .next ((s.setPort n y).emuShow n)
      (s.emuPulse n = false → moved { o.emuIndex with
        emuState := if rev then (o.emuState + 3) % 4 else (o.emuState + 1) % 4, emuNext := s.time + minp, backlog := o.backlog + step }) ∧
      (s.emuPulse n = true →
        (o.emuState = 1 → moved { o with emuState := 0, emuNext := s.time + (minp - minp / 2) }) ∧
        (o.emuState ≠ 1 → rev ≠ o.emuDir → moved { o with emuDir := rev, emuNext := s.time + minp / 2 }) ∧
        (o.emuState ≠ 1 → rev = o.emuDir →
          moved { o.emuIndex with emuState := 1, emuNext := s.time + minp / 2, backlog := o.backlog + step })))

/-- CELL_STEP, PERIOD_RESTART and PASSED_COMPARE_MATCH (R235 to R242). -/
def Obligations.CellSteps : Prop :=
  ∀ (s : State) (n : Fin 1024),
    let x := s.cell n
    let up : Prop := s.cellCfg n TMC_CFG_DIR = 0
    let count := s.cellCount n
    let last := if s.cellCfg n TMC_CFG_MODE = 1 then s.cellPeriod n else 0xFFFFFFFF
    let after := s.time + s.cellCfg n TMC_CFG_PRESC + 1
    let t := s.setCell n { x with next := after }
    let c := (s.setCell n { x with cutAt := none, cutTick := some s.time, next := after }).latch (TMC_STAT n) TMC_STAT_PERIOD_CUT
    let atMatch (u : State) : State :=
      let v := (u.setCell n { u.cell n with matchTick := some u.time }).latch (TMC_STAT n) TMC_STAT_MATCH
      if (u.cell n).matchTick = some u.time then u
      else (if u.cellCfg n TMC_CFG_NTF_MATCH = 1 then v.raise (512 + n) 1 else v).adcOffer 1 n
    let reaches (u : State) (k : Nat) : State :=
      let w := u.setActing (TMC_COUNT n) (BitVec.ofNat 32 k)
      if w.cellCfg n TMC_CFG_CMP_EN = 1 ∧ w.cellCount n = w.cellCompare n then atMatch w else w
    let bounds (u : State) : State :=
      let v := (u.cellLoad n).latch (TMC_STAT n) TMC_STAT_BND
      let b := if u.cellCfg n TMC_CFG_NTF_BND = 1 then v.raise (512 + n) 2 else v
      let w := reaches b (if b.cellCfg n TMC_CFG_DIR = 0 then 0 else if b.cellCfg n TMC_CFG_MODE = 1 then b.cellPeriod n else 0xFFFFFFFF)
      if n.val + 1 < 1024 ∧ w.cellCascade (n + 1) then w.cellStepAt 7 (n + 1) else w
    let steps : Prop := s.cellEn n = true ∧ s.cellCfg n TMC_CFG_CLK = 0 ∧ x.next ≤ s.time ∧ x.cutAt = none
    let restarts : Prop := (∃ a ≤ s.time, x.cutAt = some a) ∧ s.cellEn n = true ∧ x.cutTick ≠ some s.time
    let passes : Prop := ∃ a ≤ s.time, x.matchAt = some a
    (s.awake = false → ∀ i ∈ [Instr.cellStep n, .periodRestart n, .passedCompareMatch n], exec i s = .next s) ∧
    (s.awake = true →
      (steps → x.cutTick = some s.time → exec (.cellStep n) s = .next t) ∧
      (steps → x.cutTick ≠ some s.time →
        (up → count ≠ last → exec (.cellStep n) s = .next (reaches t (count + 1))) ∧
        (¬up → count ≠ 0 → exec (.cellStep n) s = .next (reaches t (count - 1))) ∧
        ((up ∧ count = last) ∨ (¬up ∧ count = 0) → exec (.cellStep n) s = .next (bounds t))) ∧
      (¬steps → exec (.cellStep n) s = .next s) ∧
      (restarts → exec (.periodRestart n) s = .next (bounds c)) ∧
      (¬restarts → exec (.periodRestart n) s = .next s) ∧
      (passes → exec (.passedCompareMatch n) s = .next (atMatch (s.setCell n { x with matchAt := none }))) ∧
      (¬passes → exec (.passedCompareMatch n) s = .next s))

/-- CELL_ENABLE to SNAPSHOT (R235 to R247). -/
def Obligations.CellRegisters : Prop :=
  ∀ (s : State) (n : Fin 1024) (v : Word), s.awake = true →
    let k := s.keepActing (TMC_CFG n)
    let on := k.plainWrite (s.wr (TMC_CFG n) 0xFFFFFFFF (v.setF TMC_CFG_EN 1))
    let off := k.plainWrite (s.wr (TMC_CFG n) TMC_CFG_EN.mask 0)
    let x := s.cell n
    let is (f : Fld) : Nat := s.fld (TMC_CFG n) f
    let put (a : Nat) : State := (if s.cellEn n ∨ s.flag (TMC_CFG n) TMC_CFG_EN then s.keepActing a else s).setRg a v
    (is TMC_CFG_EN ≠ 1 →
      (2 ≤ v.getF TMC_CFG_MODE ∨ v.getF TMC_CFG_CLK = 3 → exec (.cellEnable n v) s = .next (s.done .range 0 [])) ∧
      (v.getF TMC_CFG_CLK = 1 → n.val = 0 ∨ 8 < on.cellGroup n → exec (.cellEnable n v) s = .next (s.done .range 0 [])) ∧
      (v.getF TMC_CFG_MODE < 2 → v.getF TMC_CFG_CLK ≠ 3 → ¬(v.getF TMC_CFG_CLK = 1 ∧ (n.val = 0 ∨ 8 < on.cellGroup n)) →
        exec (.cellEnable n v) s = .next (on.done .ok 0 []))) ∧
    (is TMC_CFG_EN = 1 →
      (is TMC_CFG_CLK = 1 ∧ (n.val = 0 ∨ 8 < off.cellGroup n) → exec (.cellDisable n) s = .next (s.done .range 0 [])) ∧
      (¬(is TMC_CFG_CLK = 1 ∧ (n.val = 0 ∨ 8 < off.cellGroup n)) →
        exec (.cellDisable n) s = .next ((off.setCell n { off.cell n with stop := true }).done .ok 0 []))) ∧
    exec (.cellCountWrite n v) s = .next ((put (TMC_COUNT n)).done .ok 0 []) ∧
    (is TMC_CFG_UPD = 1 → exec (.cellPeriodWrite n v) s = .next ((s.setCell n { x with newPeriod := some v }).done .ok 0 []) ∧
      exec (.cellCompareWrite n v) s = .next ((s.setCell n { x with newCompare := some v }).done .ok 0 [])) ∧
    (is TMC_CFG_UPD ≠ 1 → ∀ p c, p = put (TMC_PERIOD n) → c = put (TMC_COMPARE n) →
      exec (.cellPeriodWrite n v) s = .next ((p.setCell n { p.cell n with stagedPeriod := none, newPeriod := none }).done .ok 0 []) ∧
      exec (.cellCompareWrite n v) s = .next ((c.setCell n { c.cell n with stagedCompare := none, newCompare := none }).done .ok 0 [])) ∧
    (∀ a, a = TMC_PERIOD n ∨ a = TMC_COUNT n →
      (s.cellOutside n = true → s.cellLimitActs a = s.setCell n { x with cutAt := some s.time }) ∧
      (s.cellOutside n = false → s.cellLimitActs a = s)) ∧
    (s.cellCfg n TMC_CFG_CMP_EN = 1 ∧ s.cellHasPassed n = true → s.cellLimitActs (TMC_COMPARE n) = s.setCell n { x with matchAt := some s.time }) ∧
    (¬(s.cellCfg n TMC_CFG_CMP_EN = 1 ∧ s.cellHasPassed n = true) → s.cellLimitActs (TMC_COMPARE n) = s) ∧
    (∀ old : Word, old.getF TMC_CFG_CMP_EN = 1 →
      (old.getF TMC_CFG_EN ≠ 1 → s.cellEn n = true → ∀ y, y = s.setCell n { x with stop := false } →
        s.cellCfgActs (TMC_CFG n) old = y.setCell n { y.cell n with next := s.time + s.cellCfg n TMC_CFG_PRESC }) ∧
      (old.getF TMC_CFG_EN = 1 → s.cellEn n = false →
        s.cellCfgActs (TMC_CFG n) old = ((s.setCell n { x with cutAt := none, matchAt := none, stop := false }).cellLoad n).count (TMC_CNT n)
          TMC_CNT_DISCARD (b2n x.cutAt.isSome + b2n x.matchAt.isSome))) ∧
    (s.cellEn n = true → exec (.capture n) s = .next ((s.setCell n { x with capReq := true }).done .ok 0 [])) ∧
    (s.cellEn n = false → exec (.capture n) s = .next ((s.count (TMC_CNT n) TMC_CNT_DISCARD 1).done .ok 0 [])) ∧
    (x.capReq = false → s.cellLatch n = s) ∧
    (x.capReq = true → x.capQ.length < 4 →
      s.cellLatch n = s.setCell n { x with capReq := false, capQ := x.capQ ++ [s.actRg (TMC_COUNT n)] }) ∧
    (x.capReq = true → 4 ≤ x.capQ.length →
      ∀ q t, q = (if s.cellCfg n TMC_CFG_CAP_OVW = 1 then x.capQ.drop 1 ++ [s.actRg (TMC_COUNT n)] else x.capQ) →
        t = ((s.setCell n { x with capReq := false, capQ := q }).latch (TMC_STAT n) TMC_STAT_CAP_OVF).count (TMC_CNT n) TMC_CNT_CAP_LOST 1 →
        s.cellLatch n = if s.cellCfg n TMC_CFG_NTF_OVF = 1 then t.raise (512 + n) 4 else t) ∧
    exec (.capRead n) s = .next ((s.setCell n { x with capQ := x.capQ.drop 1 }).done .ok 0 (bytesOfWords [x.capQ.headD 0])) ∧
    (∀ (h : CmdHead) (arg : BitVec 32) (body : List Byte) d j, s.hears h (h.record 0x05 arg.toNat body) = true →
      arg.toNat < 2 ^ 24 → blockOf arg.toNat = some .tmc → regAt arg.toNat = some (d, n.val, j) → arg.toNat % 4 = 0 →
      ∀ r, r = s.heard h (h.record 0x05 arg.toNat body) → exec (.snapshot h arg body) s =
        .next (r.replied (s.flightOf h (h.record 0x05 arg.toNat body)) .ok (r.cellGroup n)
          (leBytes 8 r.time ++ (List.range (r.cellGroup n)).flatMap fun i => leBytes 4 (r.cellCount (r.cellLow n + i)))))

/-- PWM_BOUNDARY, MID_PERIOD_POINT, PWM_PERIOD_CUT, RESYNC, ANGLE_LOCK, ADC_TRIGGER_OFFER, PWM_ENABLE and PWM_DISABLE (R251 to R269). -/
def Obligations.PwmPeriods : Prop :=
  ∀ (s : State) (n : Fin 24) (v : Word), s.awake = true →
    let x := s.pwm n
    let on := (s.keepActing (PWM_CFG n)).plainWrite (s.wr (PWM_CFG n) 0xFFFFFFFF (v.setF PWM_CFG_EN 1))
    let off := (s.keepActing (PWM_CFG n)).plainWrite (s.wr (PWM_CFG n) PWM_CFG_EN.mask 0)
    let stops (t : State) : State :=
      let k := (t.pwmKill n t.time true).pwmKill n t.time false
      let d := k.count (PWM_CNT2 n) PWM_CNT2_DISCARD (b2n (k.pwm n).adcAt.isSome)
      d.setPwm n { d.pwm n with ref := false, adcAt := none, bndDue := false, midDue := false, cutAt := none }
    let point (t : State) (bit : Nat) : State :=
      if bitOf (t.pwmCfg n PWM_CFG_ADC_SRC) bit then
        (if (t.pwm n).adcAt.isSome then t.count (PWM_CNT1 n) PWM_CNT1_ADC_LOST 1 else t).setPwm n
          { t.pwm n with adcAt := some (t.time + t.fld (PWM_ADC n) PWM_ADC_ADC_DLY) }
      else t
    let boundary (t : State) : State :=
      let a := (if t.pwmCfg n PWM_CFG_UPD = 2 then t else t.pwmLoad n).pwmLoadDt n
      let b := (a.setPwm n { a.pwm n with
        count := 0, down := false, turned := false, rose := false, fell := false, bndDue := false, midDue := false, cutAt := none,
        driveWait := false, bndTick := some t.time }).pwmJudgeClear n
      let d := point (if b.pwmCfg n PWM_CFG_NTF_BND = 1 then b.raise (96 + n) 8 else b) 0
      if (d.pwm n).ref then (if d.pwmFalls n then d else d.setPwm n { d.pwm n with rose := true }) else d
    let resync (t : State) : State :=
      let u := (t.setPwm n { t.pwm n with resyncTick := some t.time }).count (PWM_CNT2 n) PWM_CNT2_RESYNCS 1
      if (t.pwm n).bndTick = some t.time then u else boundary u
    let locked := s.setPwm n { x with lockK := some (s.pwmLattice n) }
    (x.bndDue = true → exec (.pwmBoundary n) s = .next (boundary s)) ∧
    (x.midDue = true → ∀ t, t = s.setPwm n { x with midDue := false } →
      exec (.midPeriodPoint n) s = .next (point (if 2 ≤ t.pwmCfg n PWM_CFG_UPD then t.pwmLoad n else t) 1)) ∧
    (∀ a, x.cutAt = some a → a ≤ s.time →
      exec (.pwmPeriodCut n) s = .next (boundary ((s.latch (PWM_STAT n) PWM_STAT_PERIOD_CUT).raise (96 + n) 16))) ∧
    (s.pwmEn n = true → x.resyncTick ≠ some s.time → exec (.resync n) s = .next ((resync s).done .ok 0 [])) ∧
    (s.pwmEn n = false ∨ x.resyncTick = some s.time → exec (.resync n) s = .next (s.done .ok 0 [])) ∧
    (s.pwmLocks n = true →
      (x.lockK = none → exec (.angleLock n) s = .next locked) ∧
      (∀ k, x.lockK = some k → k < s.pwmLattice n → x.resyncTick ≠ some s.time → exec (.angleLock n) s = .next (resync locked)) ∧
      (∀ k, x.lockK = some k → k < s.pwmLattice n → x.resyncTick = some s.time → exec (.angleLock n) s = .next locked) ∧
      (∀ k, x.lockK = some k → s.pwmLattice n ≤ k → exec (.angleLock n) s = .next s)) ∧
    (∀ a, x.adcAt = some a → a ≤ s.time →
      exec (.adcTriggerOffer n) s = .next ((s.setPwm n { x with adcAt := none }).adcOfferPwm (s.pwmCfg n PWM_CFG_ADC_CONV) n)) ∧
    (s.fld (PWM_CFG n) PWM_CFG_EN = 0 →
      (s.pwmCfgOk n (s.wr (PWM_CFG n) 0xFFFFFFFF (v.setF PWM_CFG_EN 1)).new = false → exec (.pwmEnable n v) s = .next (s.done .range 0 [])) ∧
      (s.pwmCfgOk n (s.wr (PWM_CFG n) 0xFFFFFFFF (v.setF PWM_CFG_EN 1)).new = true →
        ∀ l, l = (((if s.pwmEn n then stops on else on).actNow (PWM_PERIOD n)).actNow (PWM_DUTY n)).pwmLoad n →
          exec (.pwmEnable n v) s = .next ((boundary (l.setPwm n { l.pwm n with ref := false, lockK := none })).done .ok 0 []))) ∧
    (s.fld (PWM_CFG n) PWM_CFG_EN = 1 → exec (.pwmDisable n) s = .next (off.done .ok 0 [])) ∧
    (s.pwmEn n = false → s.pwmActs (PWM_CFG n) = stops s ∧ s.pwmActs (PWM_PERIOD n) = s) ∧
    (s.pwmEn n = true → s.pwmActs (PWM_CFG n) = s ∧
      (s.pwmPeriod n ≤ x.count → s.pwmActs (PWM_PERIOD n) = s.setPwm n { x with cutAt := some s.time }) ∧
      (x.count < s.pwmPeriod n → s.pwmActs (PWM_PERIOD n) = s))

/-- REFERENCE_EDGE, DEAD_TIME_EXPIRY, MINPULSE_HOLD_END, TRIP_INPUT_ACCEPT, BLANKING_END, TRIP_FORCE and TRIP_CLR (R252 to R265). -/
def Obligations.PwmOutputsAndTrips : Prop :=
  ∀ (s : State) (n : Fin 24) (h : Bool) (i : Fin 8) (pin : Bool), s.awake = true →
    let x := s.pwm n
    let o := x.out h
    let trip (t : State) (src : Nat) : State :=
      let k := (t.pwmKill n t.time true).pwmKill n t.time false
      let e := (k.pwmTripEdge n true (t.pwm n).h.active).pwmTripEdge n false (t.pwm n).l.active
      let a := ((e.setFlag (PWM_STAT n) PWM_STAT_TRIP_STICKY true).setFld (PWM_STAT n) PWM_STAT_TRIP_SRC src).count (PWM_CNT1 n) PWM_CNT1_TRIPS 1
      (if a.pwmCfg n PWM_CFG_NTF_TRIP = 1 then a.raise (96 + n) 1 else a).faultRaise fltPwmTrip n 2 1
    let late : Prop := ∃ k, s.pwmLength n h = some k ∧ k < s.pwmMin n
    let stretch : Prop := s.pwmCfg n PWM_CFG_SHORT = 1 ∧ o.delayed = false
    let blankOver : Prop := (x.blanking = true ∧ x.blankEnd ≤ s.time) ∨
      (s.trips ≠ [] ∧ s.pwmTripped n = false ∧ ¬(x.blanking = true ∧ s.time < x.blankEnd) ∧ s.pwmTripActive n ≠ 0)
    (s.pwmEn n = true →
      (x.ref = true → s.pwmFalls n = true → x.fell = false → exec (.referenceEdge n) s =
        .next (((s.setPwm n { x with ref := false, fell := x.down || !s.pwmCentre n }).pwmRefEnds n true).pwmRefAsks n false)) ∧
      (x.ref = false → s.pwmRises n = true → x.rose = false → x.fell = false → exec (.referenceEdge n) s =
        .next (((s.setPwm n { x with ref := true, rose := true }).pwmRefEnds n false).pwmRefAsks n true))) ∧
    (∀ a, o.startAt = some a → a ≤ s.time → (x.out (!h)).active = false → (x.out (!h)).lastEnd + s.pwmDead n h ≤ s.time →
      (o.stretched = true → ∀ t, t = s.pwmStart n h → exec (.deadTimeExpiry n h) s =
        .next (t.setPwmOut n h { (t.pwm n).out h with holdEnd := some (t.time + t.pwmMin n) })) ∧
      (o.stretched = false → ¬late → exec (.deadTimeExpiry n h) s = .next (s.pwmStart n h)) ∧
      (o.stretched = false → late → stretch → ∀ t, t = (s.pwmStart n h).count (PWM_CNT0 n) PWM_CNT0_STRETCHED 1 →
        exec (.deadTimeExpiry n h) s =
          .next (t.setPwmOut n h { (t.pwm n).out h with stretched := true, holdEnd := some (t.time + t.pwmMin n) })) ∧
      (o.stretched = false → late → ¬stretch → exec (.deadTimeExpiry n h) s =
        .next ((s.setPwmOut n h { o with startAt := none }).count (PWM_CNT0 n) PWM_CNT0_DROPPED 1))) ∧
    (∀ a, o.holdEnd = some a → a ≤ s.time →
      (x.ref ≠ h → exec (.minpulseHoldEnd n h) s = .next (s.pwmEnd n h)) ∧
      (x.ref = h → exec (.minpulseHoldEnd n h) s = .next (s.setPwmOut n h { o with holdEnd := none, stretched := false }))) ∧
    ((s.trip i).active = (pin != s.flag (PWM_TRIP_CFG i) PWM_TRIP_CFG_POL) → exec (.tripInputAccept i pin) s = .next s) ∧
    ((s.trip i).active ≠ (pin != s.flag (PWM_TRIP_CFG i) PWM_TRIP_CFG_POL) →
      ∀ t, t = s.setTrip i { active := (pin != s.flag (PWM_TRIP_CFG i) PWM_TRIP_CFG_POL), since := s.time } →
        (pin = s.flag (PWM_TRIP_CFG i) PWM_TRIP_CFG_POL → exec (.tripInputAccept i pin) s = .next t) ∧
        (pin ≠ s.flag (PWM_TRIP_CFG i) PWM_TRIP_CFG_POL → exec (.tripInputAccept i pin) s =
          .next (State.forEach 24 (fun t g => (t.pwmDropClear g i).pwmJudgeTrip g) (t.count (PWM_TRIP_CNT i) PWM_TRIP_CNT_ACCEPT 1)))) ∧
    (¬blankOver → exec (.blankingEnd n) s = .next s) ∧
    (blankOver → ∀ t, t = s.setPwm n { x with blanking := false } →
      (t.pwmTripActive n = 0 ∨ t.pwmTripped n = true → exec (.blankingEnd n) s = .next t) ∧
      (t.pwmTripActive n ≠ 0 → t.pwmTripped n = false → exec (.blankingEnd n) s = .next (trip t (t.pwmTripActive n)))) ∧
    (s.pwmTripped n = false → exec (.tripForce n) s = .next ((trip s (s.pwmTripActive n)).done .ok 0 []) ∧
      exec (.tripClr n) s = .next (s.done .ok 0 [])) ∧
    (s.pwmTripped n = true → exec (.tripForce n) s = .next (s.done .ok 0 []) ∧
      (s.pwmTripActive n = 0 → exec (.tripClr n) s = .next ((s.setFlag (PWM_STAT n) PWM_STAT_CLR_PEND true).done .ok 0 [])) ∧
      (s.pwmTripActive n ≠ 0 → exec (.tripClr n) s =
        .next (((s.count (PWM_CNT1 n) PWM_CNT1_TRIP_CLEAR_REFUSED 1).raise (96 + n) 2).done .state 0 [])))

/-- EVENT_LINE_ACCEPT, BS_OK_FALL, BS_OK_RISE, BANK_EN_FALL, BANK_EN_PRESENT, OUTPUT_FAULT and OUT_FAULT_CLEAR (R271 to R277). -/
def Obligations.FieldLines : Prop :=
  ∀ (s : State) (i : Fin 128) (b : Fin 8) (pin : Bool) (levels bits : BitVec 16), s.awake = true →
    let cfg := s.actRg (FIO_EL_CFG i)
    let level := pin != decide (cfg.getF FIO_EL_CFG_POL = 1)
    let took := FMap.get (fun _ => 0) s.lineAt i
    let unit := if cfg.getF FIO_EL_CFG_UNIT = 0 then 1 else if cfg.getF FIO_EL_CFG_UNIT = 1 then ticksUs else 100 * ticksUs
    let seen : Prop := took = 0 ∨ took + (cfg.getF FIO_EL_CFG_FILT + 1) * unit ≤ s.time + 1
    let takes (t : State) (k : Nat) (v : Bool) : State := { (t.setLine k v) with lineAt := FMap.set (fun _ => 0) t.lineAt k (t.time + 1) }
    let bank := FIO_BANK_STAT b
    let bs := s.flag bank FIO_BANK_STAT_BS_OK
    let be := s.flag bank FIO_BANK_STAT_BANK_EN
    let line := FIO_BANK_STAT (i.val / 16)
    (s.flag line FIO_BANK_STAT_BS_OK = true → s.line i ≠ level → seen →
      ∀ c t, c = (takes s i level).cellsOfLine i level →
        t = (if edgeSelected ((c.actRg (FIO_EL_CFG i)).getF FIO_EL_CFG_NTF) level then
          c.raise (1536 + i) (b2n level + 2 * b2n (c.src (1536 + i)).pend) else c) →
        exec (.eventLineAccept i pin) s = .next ((s.sensorLanes i level).foldl (fun t n => t.sensorEntry n) t)) ∧
    (s.flag line FIO_BANK_STAT_BS_OK = false ∨ s.line i = level ∨ ¬seen → exec (.eventLineAccept i pin) s = .next s) ∧
    (bs = true → ∀ t, t = s.setFlag bank FIO_BANK_STAT_BS_OK false →
      exec (.bsOkFall b) s = .next (if t.bankUsed b ∧ ¬t.faultActive fltBankSupply b then t.faultRaise fltBankSupply b 1 0 else t)) ∧
    (bs = false → exec (.bsOkFall b) s = .next s ∧
      exec (.bsOkRise b levels) s = .next ((State.forEach 16
        (fun t k => takes t (16 * b + k) (bitOf levels.toNat k != decide ((t.actRg (FIO_EL_CFG (16 * b + k))).getF FIO_EL_CFG_POL = 1)))
        ((s.setFlag bank FIO_BANK_STAT_BS_OK true).faultEnd fltBankSupply b)).holdRange (16 * b) (16 * b + 16))) ∧
    (be = true → exec (.bankEnFall b) s = .next ((s.setFlag bank FIO_BANK_STAT_BANK_EN false).faultEvent fltBankEnLost b 0 0) ∧
      exec (.bankEnPresent b) s = .next s) ∧
    (be = false → exec (.bankEnFall b) s = .next s ∧
      exec (.bankEnPresent b) s = .next ((s.setFlag bank FIO_BANK_STAT_BANK_EN true).holdRange (16 * b) (16 * b + 16))) ∧
    (s.driven (outLine i) = true → (s.out (outLine i)).hold = false → exec (.outputFault i) s =
      .next ((s.hwSet line FIO_BANK_STAT_OUT_FAULT (Nat.lor (s.fld line FIO_BANK_STAT_OUT_FAULT) (2 ^ (i.val % 16)))
        (Nat.lor ((s.freshAt line).plus.getF FIO_BANK_STAT_OUT_FAULT) (2 ^ (i.val % 16)))).faultRaise fltOut i 2 0)) ∧
    (s.driven (outLine i) = false ∨ (s.out (outLine i)).hold = true → exec (.outputFault i) s = .next s) ∧
    (∀ w, w = Nat.land bits.toNat (Nat.xor 0xFFFF ((s.freshAt bank).plus.getF FIO_BANK_STAT_OUT_FAULT)) →
      exec (.outFaultClear b bits) s = .next ((State.forEach 16
        (fun u k => if bitOf (s.fld bank FIO_BANK_STAT_OUT_FAULT) k && bitOf w k then
          (u.holdOut (outLine (16 * b + k))).faultEnd fltOut (16 * b + k)
        else u)
        (s.setFld bank FIO_BANK_STAT_OUT_FAULT (Nat.land (s.fld bank FIO_BANK_STAT_OUT_FAULT) (Nat.xor 0xFFFF (w % 65536))))).done .ok 0 [])) ∧
    (s.driven (outLine i) = true → (s.out (outLine i)).hold = false →
      s.linePin i = some ((s.out (outLine i)).on != decide (cfg.getF FIO_EL_CFG_POL = 1))) ∧
    (s.driven (outLine i) = false ∨ (s.out (outLine i)).hold = true → s.linePin i = none)

/-- CHAIN_FRAME, CHAIN_ENABLE and CHAIN_DISABLE (R279 to R283). -/
def Obligations.ExpanderChains : Prop :=
  ∀ (s : State) (c : Fin 4) (inputs : BitVec 512) (v : Word), s.awake = true →
    let x := s.chain c
    let on := s.plainWrite (s.wr (FIO_CH_CFG c) 0xFFFFFFFF (v.setF FIO_CH_CFG_EN 1))
    let off := s.plainWrite (s.wr (FIO_CH_CFG c) FIO_CH_CFG_EN.mask 0)
    let bits := if x.live then x.sent else 0
    let latched : State := (((s.chainTally c x.latched bits).setChain c { x with latched := bits }).chainAccept c inputs.toNat).setChainWords
      (FIO_CH_OUT c) x.sent
    (x.nextFrame ≤ s.time → ∀ t, t = (if x.count = 0 then s else latched) →
      (x.stopping = true → exec (.chainFrame c inputs) s =
        .next (t.setChain c { t.chain c with running := false, stopping := false, live := false, count := 0 })) ∧
      (x.stopping = false → x.running = true → exec (.chainFrame c inputs) s =
        .next (t.setChain c { t.chain c with
          snapDue := true, lastFrame := x.nextFrame, count := x.count + 1,
          nextFrame := x.nextFrame + t.fld (FIO_CH_PER c) FIO_CH_PER_PER * 8 }))) ∧
    (¬(x.nextFrame ≤ s.time ∧ (x.stopping = true ∨ x.running = true)) → exec (.chainFrame c inputs) s = .next s) ∧
    (x.snapDue = false → s.chainSnapshot c = s) ∧
    (x.snapDue = true →
      ∀ t, t = (if s.driveOn = true ∧ x.live = false then s.holdRange (outExpander (512 * c)) (outExpander (512 * c + 512)) else s) →
        s.chainSnapshot c = t.setChain c { t.chain c with snapDue := false, live := t.driveOn, sent := t.chainSnap c, pulsed := 0 }) ∧
    (∀ cap, s.flag (FIO_CH_CFG c) FIO_CH_CFG_CHK_EN = true → cap / 2 ^ (s.chainLen c - 8) % 256 ≠ s.fld (FIO_CH_FILT c) FIO_CH_FILT_CHK_PAT → 2 ≤ x.bad →
      s.chainCheck c cap = (((s.setChain c { x with bad := x.bad + 1, good := 0 }).count (FIO_CH_CNT c) FIO_CH_CNT_CHK_ERR 1).latch (FIO_CH_STAT c)
        FIO_CH_STAT_FAULT |>.setFlag (FIO_CH_STAT c) FIO_CH_STAT_STALE true).faultRaise fltChain c 2 0) ∧
    (s.flag (FIO_CH_CFG c) FIO_CH_CFG_EN = false → ∀ w, w = (s.wr (FIO_CH_CFG c) 0xFFFFFFFF (v.setF FIO_CH_CFG_EN 1)).new →
      (s.chainCfgOk c w = false → exec (.chainEnable c v) s = .next (s.done .range 0 [])) ∧
      (s.chainCfgOk c w = true → exec (.chainEnable c v) s =
        .next ((on.setChain c { on.chain c with
          running := true, stopping := false, live := false, nextFrame := on.time + 1, count := 0, latched := 0, pulsed := 0, caps := [], bad := 0,
          good := 0 }).done .ok 0 []))) ∧
    (s.flag (FIO_CH_CFG c) FIO_CH_CFG_EN = true → exec (.chainDisable c) s =
      .next ((off.setChain c { x with running := false, stopping := x.running }).done .ok 0 []))

/-- REG_TRIG, INJ_TRIG, SEQUENCE_DELAY_EXPIRY, HOLD_EDGE, CONVERSION_END, RESULT_ENTRY and ADC_DEADLINE (R286 to R298). -/
def Obligations.AdcSequences : Prop :=
  ∀ (s : State) (c : Fin 4) (inj : Bool) (v : Int), s.awake = true →
    let x := s.adc c
    let q := x.seq inj
    let trig : Instr := if inj then .injTrig c else .regTrig c
    let deadline := x.reg.trigTick + s.fld (ADC_C_REG_DLY c) ADC_C_REG_DLY_DEADLINE * ticksUs
    let classB : Prop := s.fld (ADC_C_REG c) ADC_C_REG_CLASS = 1
    let heldNow : Prop := s.adcHeld c = true ∧ ¬(classB ∧ deadline ≤ s.time)
    let taken : Prop := x.inj.stepping = true ∨ x.tail.isSome = true
    let abort := s.flag (ADC_C_CFG c) ADC_C_CFG_INJ_ABORT
    let begins (t : State) (j : Bool) : State :=
      t.setAdcSeq c j { (t.adc c).seq j with phase := .acquiring (t.time + (t.adcStep c j ((t.adc c).seq j).step).1) }
    let breaksIn (again : Bool) : State :=
      begins (s.setAdcSeq c false { x.reg with phase := .waiting, restarted := again || x.reg.restarted }) true
    exec trig s = .next ((s.setAdcSeq c inj { q with asked := true }).done .ok 0 []) ∧
    (q.trigAt = some s.time → s.adcTrigger c inj = s) ∧
    (q.trigAt ≠ some s.time → ∀ t, t = s.setAdcSeq c inj { q with trigAt := some s.time } →
      (s.adcBusy c inj = false → q.doneAt ≠ some s.time → s.adcEn c = true → s.adcTrigger c inj = t.setAdcSeq c inj
        { (t.adc c).seq inj with phase := .delayed (s.time + t.adcDly c inj), step := 0, trigTick := s.time, restarted := false }) ∧
      (s.adcBusy c inj = true ∨ q.doneAt = some s.time ∨ s.adcEn c = false → s.adcTrigger c inj =
        (t.count (ADC_C_CNT0 c) (if inj then ADC_C_CNT0_INJ_LOST else ADC_C_CNT0_REG_LOST) 1).raise (124 + c) 2)) ∧
    ((∀ u, q.phase = .delayed u → s.time < u) → exec (.sequenceDelayExpiry c inj) s = .next s) ∧
    (∀ u, x.reg.phase = .delayed u → u ≤ s.time →
      (taken → exec (.sequenceDelayExpiry c false) s = .next (s.setAdcSeq c false { x.reg with phase := .waiting })) ∧
      (¬taken → heldNow → exec (.sequenceDelayExpiry c false) s =
        .next (((s.setAdcSeq c false { x.reg with phase := .held }).setFlag (ADC_C_STAT c) ADC_C_STAT_HELD true).count (ADC_C_CNT1 c) ADC_C_CNT1_DEFERRED 1)) ∧
      (¬taken → ¬heldNow → exec (.sequenceDelayExpiry c false) s = .next (begins s false))) ∧
    (∀ u, x.inj.phase = .delayed u → u ≤ s.time →
      (x.tail.isSome = true → exec (.sequenceDelayExpiry c true) s = .next (s.setAdcSeq c true { x.inj with phase := .waiting })) ∧
      (x.tail = none → x.reg.stepping = false → exec (.sequenceDelayExpiry c true) s = .next (begins s true)) ∧
      (x.tail = none → ∀ h, x.reg.phase = .acquiring h →
        (h = s.time + (s.adcStep c false x.reg.step).1 → exec (.sequenceDelayExpiry c true) s = .next (breaksIn false)) ∧
        (h ≠ s.time + (s.adcStep c false x.reg.step).1 → abort = true → exec (.sequenceDelayExpiry c true) s = .next (breaksIn true)) ∧
        (h ≠ s.time + (s.adcStep c false x.reg.step).1 → abort = false →
          exec (.sequenceDelayExpiry c true) s = .next (s.setAdcSeq c true { x.inj with phase := .waiting }))) ∧
      (x.tail = none → ∀ e, x.reg.phase = .converting e →
        (abort = true → s.time < e → exec (.sequenceDelayExpiry c true) s = .next (breaksIn true)) ∧
        (abort = false ∨ e ≤ s.time →
          exec (.sequenceDelayExpiry c true) s = .next (s.setAdcSeq c true { x.inj with phase := .waiting })))) ∧
    ((∀ h, q.phase = .acquiring h → s.time < h) → exec (.holdEdge c inj v) s = .next s) ∧
    (∀ h, q.phase = .acquiring h → h ≤ s.time →
      let ang := s.flag (ADC_C_CFG c) ADC_C_CFG_TAG_ANG
      let shaft := s.fld (ADC_C_CFG c) ADC_C_CFG_TAG_SHAFT
      let phi := unsigned 64 (s.phiInt shaft)
      let input := (s.adcStep c inj q.step).2
      let code : Int := (2 * v * (if s.flag (ADC_IN_CFG input) ADC_IN_CFG_MODE then 1600 else 3200 : Nat) + 1000000000) / 2000000000
      exec (.holdEdge c inj v) s = .next (s.setAdcSeq c inj { q with
        phase := .converting (h + 150)
        restarted := false
        sample :=
          { inj := inj
            ovr := decide (code < -32768) || decide (32767 < code)
            angInv := ang && !s.angValid shaft
            restarted := q.restarted
            step := q.step
            input := input
            code := BitVec.ofNat 32 (unsigned 16 (clampI (-32768) 32767 code))
            tick := h
            tagLo := if ang then BitVec.ofNat 32 phi else BitVec.ofNat 32 (h / 2 ^ 32)
            tagHi := if ang then BitVec.ofNat 32 (phi / 2 ^ 32) else 0
            last := decide (q.step = s.adcLen c inj) } })) ∧
    (∀ e r, x.tail = some (e, r) → r.inj = inj → e ≤ s.time → ∀ t, t = s.setAdc c { x with wait := x.wait ++ [r], tail := none } →
      exec (.conversionEnd c inj) s = .next (if x.inj.phase = .waiting then begins t true else t.adcResume c)) ∧
    (s.adcTailDue c inj = false → (∀ e, q.phase = .converting e → s.time < e) → exec (.conversionEnd c inj) s = .next s) ∧
    (s.adcTailDue c inj = false → ∀ e, q.phase = .converting e → e ≤ s.time →
      ∀ t n, t = s.setAdc c { x with wait := x.wait ++ [q.sample] } → n = t.setAdcSeq c inj { q with step := q.step + 1, phase := .waiting } →
        (q.step < s.adcLen c inj →
          (inj = true ∨ (n.adc c).inj.phase = .waiting → exec (.conversionEnd c inj) s = .next (begins n true)) ∧
          (inj = false → (n.adc c).inj.phase ≠ .waiting → exec (.conversionEnd c inj) s = .next (begins n false))) ∧
        (s.adcLen c inj ≤ q.step →
          (inj = true → exec (.conversionEnd c inj) s = .next ((t.setAdcSeq c true { q with phase := .idle, closing := true }).adcResume c)) ∧
          (inj = false → exec (.conversionEnd c inj) s =
            .next (if (t.adc c).inj.phase = .waiting then (begins t true).adcRegEnd c else t.adcRegEnd c)))) ∧
    (x.wait = [] → exec (.resultEntry c) s = .next s) ∧
    (∀ e rest, x.wait = e :: rest →
      let full := decide (64 ≤ x.queue.length)
      let y := { x with wait := rest, queue := if full then x.queue else x.queue ++ [e] }
      let z := if e.last then y.setSeq e.inj { y.seq e.inj with closing := false, doneAt := some s.time } else y
      let a := if e.inj then (s.setAdc c z).setRg (ADC_C_INJR c e.step) e.word0 else s.setAdc c z
      let b := if full then ((a.latch (ADC_C_STAT c) ADC_C_STAT_OVF).count (ADC_C_CNT1 c) ADC_C_CNT1_FIFO_LOST 1).raise (124 + c) 1 else a
      let d := if e.ovr then b.raise (124 + c) 4 else b
      let f := if full = false ∧ y.queue.length = s.fld (ADC_C_CFG c) ADC_C_CFG_DMA_THR ∧ s.flag (ADC_C_CFG c) ADC_C_CFG_NTF_THR = true then d.raise (120 + c) 4
        else d
      exec (.resultEntry c) s = .next
        (if e.last = true ∧ e.inj = true ∧ s.flag (ADC_C_CFG c) ADC_C_CFG_NTF_INJ = true then f.raise (120 + c) 2
         else if e.last = true ∧ e.inj = false ∧ s.flag (ADC_C_CFG c) ADC_C_CFG_NTF_REG = true then f.raise (120 + c) 1 else f)) ∧
    (x.reg.phase = .held ∧ classB ∧ deadline ≤ s.time →
      ∀ t, t = s.setFlag (ADC_C_STAT c) ADC_C_STAT_HELD false → exec (.adcDeadline c) s = .next
        (if t.adcTaken c then t.setAdcSeq c false { (t.adc c).reg with phase := .waiting, step := 0 } else begins t false)) ∧
    (¬(x.reg.phase = .held ∧ classB ∧ deadline ≤ s.time) → exec (.adcDeadline c) s = .next s)

/-- FLUSH, FIFO_READ, ADC_ENABLE and ADC_DISABLE (R293, R296). -/
def Obligations.AdcRegisters : Prop :=
  ∀ (s : State) (c : Fin 4) (v : Word), s.awake = true →
    let x := s.adc c
    let w := s.wr (ADC_C_CFG c) 0xFFFFFFFF (v.setF ADC_C_CFG_EN 1)
    let off := s.plainWrite (s.wr (ADC_C_CFG c) ADC_C_CFG_EN.mask 0)
    let word (k : Nat) : Word := match x.queue with
      | [] => 0
      | e :: _ => e.word k
    exec (.flush c) s = .next ((s.setAdc c { x with queue := [] }).done .ok 0 []) ∧
    exec (.fifoRead c) s = .next ((s.setAdc c { x with queue := x.queue.drop 1 }).done .ok 0 (bytesOfWords [word 0, word 1, word 2, word 3])) ∧
    (s.adcEn c = false →
      (s.adcCfgOk c w.new = false → exec (.adcEnable c v) s = .next (s.done .range 0 [])) ∧
      (s.adcCfgOk c w.new = true → ∀ u t, u = s.plainWrite w → t = (if (u.adcSrc c false).1 = 4 then u.adcArm c false (u.time + 1) else u) →
        (s.admits t = true → exec (.adcEnable c v) s = .next (t.done .ok 0 [])) ∧
        (s.admits t = false → exec (.adcEnable c v) s = .next (s.budgetRefused.done .budget 0 [])))) ∧
    (s.adcEn c = true →
      ∀ t, t = (((off.adcStopSeq c false).adcStopSeq c true).setFlag (ADC_C_STAT c) ADC_C_STAT_HELD false).setFlag (ADC_C_CFG c) ADC_C_CFG_EN false →
        s.admits t = true → exec (.adcDisable c) s = .next (t.done .ok 0 []))

/-- CLAIM_CONFIGURE, CLAIM_ALLOC, CLAIM_FREE, POOL_WRITE, POOL_READ, SCRUB and SELF_REFRESH_ENTRY (R300 to R309). -/
def Obligations.PoolCommands : Prop :=
  ∀ (s : State) (h : CmdHead) (claim : BitVec 6) (m n arg : Word) (body : List Byte) (finds : List EccFind),
    let k := claim.toNat
    let a := arg.toNat
    let cmd (op : Nat) (ws : List Word) := h.record 0x32 (k + 256 * op) (wordBody ws)
    (∀ c, c = cmd 0 [m, n] → s.takes h c = true → ∀ r, r = s.heard h c →
      let did (u : State) (st : Status) : Prop := exec (.claimConfigure h claim m n) s = .next (u.ended (s.flightOf h c) st 0 [])
      let short : Prop := r.reserve k < m.toNat ∧ r.unreserved < Nat.max (r.held k) m.toNat - Nat.max (r.held k) (r.reserve k)
      (short → did r .nospace) ∧
      (¬short → ∀ t, t = (r.setFld (POL_CL_RES k) POL_CL_RES_RESERVE m.toNat).setFld (POL_CL_QUOTA k) POL_CL_QUOTA_QUOTA n.toNat →
        (n.toNat < t.held k → did ((t.setFlag (POL_CL_HELD k) POL_CL_HELD_QUOTA_OVER true).raise (claimSource k) 2) .ok) ∧
        (t.held k ≤ n.toNat → did (t.quotaSettle k) .ok))) ∧
    (∀ c, c = cmd 1 [m] → s.takes h c = true → ∀ r, r = s.heard h c →
      let did (u : State) (st : Status) (result : Nat) : Prop :=
        exec (.claimAlloc h claim m) s = .next (u.ended (s.flightOf h c) st result [])
      let refused := (r.count (POL_CL_CNT k) POL_CL_CNT_REFUSED 1).raise (claimSource k) 1
      (r.allocAdmits k m.toNat = false → did refused .quota 0) ∧
      (r.allocAdmits k m.toNat = true →
        (lowestRun m.toNat 0 r.extents = none → did refused .nospace 0) ∧
        (∀ b, lowestRun m.toNat 0 r.extents = some b →
          did { r with extents := putExtent { first := b, count := m.toNat, claim := k } r.extents } .ok b))) ∧
    (∀ c, c = cmd 2 [m, n] → s.takes h c = true → ∀ r, r = s.heard h c →
      let did (u : State) (st : Status) : Prop := exec (.claimFree h claim m n) s = .next (u.ended (s.flightOf h c) st 0 [])
      (r.rangeHeldBy k m.toNat n.toNat = false ∨ r.meetsRing m.toNat n.toNat = true → did r .state) ∧
      (r.rangeHeldBy k m.toNat n.toNat = true → r.meetsRing m.toNat n.toNat = false →
        did (({ r with extents := r.extents.flatMap fun e => e.without m.toNat n.toNat } : State).quotaSettle k) .ok)) ∧
    (∀ c, c = h.record 0x30 a body → s.takes h c = true → ∀ r b, r = s.heard h c → b = blocksOf a body.length →
      let did (u : State) (st : Status) : Prop := exec (.poolWrite h arg body) s = .next (u.ended (s.flightOf h c) st 0 [])
      (r.rangeHasFree b.1 b.2 = true → did r .state) ∧ (r.rangeHasFree b.1 b.2 = false → did (r.poolWrite a body) .ok)) ∧
    (∀ c, c = h.record 0x31 a body → s.hears h c = true → ∀ r l b, r = s.heard h c → l = leAt body 0 4 → b = blocksOf a l →
      let did (st : Status) (bs : List Byte) : Prop := exec (.poolRead h arg body) s = .next (r.replied (s.flightOf h c) st 0 bs)
      (poolRangeOk a l = false → did .range []) ∧
      (poolRangeOk a l = true →
        (r.rangeHasFree b.1 b.2 = true → did .state []) ∧
        (r.rangeHasFree b.1 b.2 = false → r.rangePoisoned a l = true → did .crc []) ∧
        (r.rangeHasFree b.1 b.2 = false → r.rangePoisoned a l = false → did .ok (r.poolRead a l)))) ∧
    (s.awake = true →
      exec .selfRefreshEntry s = .next s ∧
      ∀ w t, w = s.fld POL_SCRUB POL_SCRUB_RATE * 64 →
        (let near (i : Nat) : Bool := decide ((i * 8 / blockSize + poolBlocks - s.scrubPos) % poolBlocks < w)
         let u : State := finds.foldl (fun t f => match f with
          | .corrected i => if near i then t.count POL_ECC POL_ECC_CE 1 else t
          | .uncorrectable i => if near i then t.poolUe (i * 8) else t) s
         t = ({ u with scrubPos := (s.scrubPos + w) % poolBlocks } : State)) →
        exec (.scrub finds) s = .next (if poolBlocks ≤ s.scrubPos + w then t.count POL_SCRUB POL_SCRUB_PASSES 1 else t))

/-- DMA_START, DMA_ABORT and DMA_BURST (R302, R310 to R315). -/
def Obligations.DmaRuns : Prop :=
  ∀ (s : State) (n : Fin 32) (v : Word), s.awake = true →
    let x := s.dma n
    let on := s.plainWrite (s.wr (DMA_CTL n) 0xFFFFFFFF (v.setF DMA_CTL_EN 1))
    let off := s.plainWrite (s.wr (DMA_CTL n) DMA_CTL_EN.mask 0)
    let turn := (List.range 32).foldl (fun k m => Nat.max k (s.dma m).turn) 0 + 1
    let asks (t : State) (d : DmaDesc) : Prop := d.req = false ∨ t.dmaRequest n = true
    (s.dmaRuns n = false →
      (v.getF DMA_CTL_CRC_SEL = 3 → exec (.dmaStart n v) s = .next (s.done .range 0 [])) ∧
      (v.getF DMA_CTL_CRC_SEL ≠ 3 → ∀ a t,
        a = (((on.setFld (DMA_STAT n) DMA_STAT_STATUS 1).setFld (DMA_STAT n) DMA_STAT_CAUSE 0).setRg (DMA_COUNT n) 0) →
        t = (a.setFld (DMA_CUR n) DMA_CUR_CUR (on.fld (DMA_DESC n) DMA_DESC_DESC)).setRg (DMA_CRC n) (dmaCrcInit (on.fld (DMA_CTL n) DMA_CTL_CRC_SEL)) →
        exec (.dmaStart n v) s = .next ((t.setDma n { t.dma n with desc := none, moved := 0 }).done .ok 0 [])) ∧
      exec (.dmaBurst n) s = .next s) ∧
    (s.dmaRuns n = true →
      exec (.dmaAbort n) s = .next ((off.dmaEnd n 3 0).done .ok 0 []) ∧
      (∀ d, x.desc = some d → asks s d → exec (.dmaBurst n) s = .next ((s.setDma n { x with turn := turn }).dmaMove n d)) ∧
      (∀ d, x.desc = some d → ¬asks s d → exec (.dmaBurst n) s = .next s) ∧
      (x.desc = none → ∀ t, t = (s.dmaLoad n).setDma n { (s.dmaLoad n).dma n with turn := turn } →
        ((t.dma n).desc = none → exec (.dmaBurst n) s = .next t) ∧
        (∀ d, (t.dma n).desc = some d →
          (asks t d → exec (.dmaBurst n) s = .next (t.dmaMove n d)) ∧ (¬asks t d → exec (.dmaBurst n) s = .next t)))) ∧
    (∀ d i k, i = x.moved → k = Nat.min d.burst (d.len - i) → dmaIsReg d.src = false → dmaIsReg d.dst = false → d.srcMode = 0 → d.dstMode = 0 →
      (s.dmaPoolOk n d.src 0 i k = false → s.dmaMove n d = s.dmaEnd n 4 2) ∧
      (s.dmaPoolOk n d.src 0 i k = true → s.dmaPoisoned d.src 0 i k = true → s.dmaMove n d = s.dmaEnd n 4 3) ∧
      (s.dmaPoolOk n d.src 0 i k = true → s.dmaPoisoned d.src 0 i k = false → s.dmaPoolOk n d.dst 0 i k = true → i + k < d.len →
        ∀ bs t u, bs = (List.range k).map (fun j => memRead s.pool (d.src + (i + j))) → t = s.poolWrite (d.dst + i) bs →
          u = (t.setRg (DMA_COUNT n) (t.rg (DMA_COUNT n) + BitVec.ofNat 32 k)).setRg (DMA_CRC n)
            (dmaCrc (s.fld (DMA_CTL n) DMA_CTL_CRC_SEL) (s.rg (DMA_CRC n)) bs) →
          s.dmaMove n d = u.setDma n { u.dma n with moved := i + k }))

/-- READ, WRITE, MODIFY, OUTPUT_ENABLE, REGISTER_WRITE, ADDR_WRITE and SIGNAL_WRITE (R9, R31, R95, R100, R334 to R336, R339). -/
def Obligations.HostRegisters : Prop :=
  ∀ (s : State) (h : CmdHead) (arg : BitVec 32) (body : List Byte) (v : Word) (g : Fin 256),
    let a := arg.toNat
    let n := leAt body 0 4
    let ends (u : State) (c : CmdRec) (moved : Bool) (st : Status) (result : Nat) : State :=
      ((u.mirrorCmd h.session.val c st).complete (s.flightOf h c) (if moved then some (s.heard h c).addr else none) st result []).settle
    (∀ c r, c = h.record 0x02 a body → s.hears h c = true → r = s.heard h c →
      (rangeCheck a n ≠ .ok → exec (.read h arg body) s = .next (r.replied (s.flightOf h c) (rangeCheck a n) 0 [])) ∧
      (rangeCheck a n = .ok → ∀ q, q = r.readRegs a (n / 4) →
        exec (.read h arg body) s = .next (q.1.replied (s.flightOf h c) .ok 0 (bytesOfWords q.2)))) ∧
    (∀ c r q, c = h.record 0x03 a body → s.takes h c = true → r = s.heard h c → q = r.writeWords true a (wordsOf body (body.length / 4)) 0 →
      exec (.write h arg body) s = .next (ends q.1 c (decide (a ≤ GLB_ADDR) && decide (GLB_ADDR < a + 4 * q.2.2)) q.2.1 q.2.2)) ∧
    (∀ c r q, c = h.record 0x04 a body → s.takes h c = true → r = s.heard h c →
      q = r.writeReg true a (BitVec.ofNat 32 (leAt body 0 4)) (BitVec.ofNat 32 (leAt body 4 4)) → exec (.modify h arg body) s =
        .next (ends q.1 c (decide (a = GLB_ADDR ∧ q.2 = .ok ∧ (BitVec.ofNat 32 (leAt body 0 4) : Word).getF GLB_ADDR_ADDR ≠ 0)) q.2
          (r.readReg a).toNat)) ∧
    (∀ c r, c = h.record 0x72 a body → s.hears h c = true → r = s.heard h c →
      let did (u : State) (st : Status) : Prop := exec (.outputEnable h arg body) s = .next (u.ended (s.flightOf h c) st 0 [])
      let no : Prop := r.flag GLB_STATUS GLB_STATUS_HOLD_OK = false ∨ r.ready = false ∨ r.flag GLB_STATUS GLB_STATUS_SAFE = true ∨ r.standby = true
      (a = 0 → did (r.setFlag GLB_STATUS GLB_STATUS_OUT_PERMIT false).liveSettle .ok) ∧
      (a = 1 → no → did r .state) ∧
      (a = 1 → ¬no → did (r.setFlag GLB_STATUS GLB_STATUS_OUT_PERMIT true).permits.liveSettle .ok) ∧
      (2 ≤ a → did r .range)) ∧
    (s.awake = true →
      (∀ q, q = s.writeReg true a 0xFFFFFFFF v →
        (addrCheck a ≠ .ok → exec (.registerWrite false arg v) s = .next (s.done (addrCheck a) 0 [])) ∧
        (addrCheck a = .ok → exec (.registerWrite false arg v) s = .next (q.1.done q.2 0 [])) ∧
        (addrOk a = false → exec (.registerWrite true arg v) s = .next (s.done .addr 0 [])) ∧
        (addrOk a = true → busMayWrite a = false → exec (.registerWrite true arg v) s = .next (s.done .access 0 [])) ∧
        (addrOk a = true → busMayWrite a = true → exec (.registerWrite true arg v) s = .next (q.1.done q.2 0 []))) ∧
      (s.addrLocked = true → exec (.addrWrite v) s = .next (s.done .locked 0 [])) ∧
      (s.addrLocked = false → v.getF GLB_ADDR_ADDR = 0 ∨ 250 < v.getF GLB_ADDR_ADDR → exec (.addrWrite v) s = .next (s.done .range 0 [])) ∧
      (s.addrLocked = false → 0 < v.getF GLB_ADDR_ADDR → v.getF GLB_ADDR_ADDR ≤ 250 →
        exec (.addrWrite v) s = .next ((s.plainWrite (s.wr GLB_ADDR 0xFFFFFFFF v)).done .ok 0 [])) ∧
      exec (.signalWrite g v) s =
        .next (((bitsSet 8 (v.getF BLU_T_SIG_SIG)).foldl (fun t b => t.setSignal (8 * g.val + b)) s).done .ok 0 []))

/-- NOP, NOP_RELEASE, NOP_CHAIN_RESET, FENCE, FENCE_COMPLETE, ORDERED_START, REPLY_FRAME_SEND and COMMAND_FRAME (R321 to R331). -/
def Obligations.HostSessions : Prop :=
  ∀ (s : State) (h : CmdHead) (arg : BitVec 32) (body : List Byte) (n : Fin 8) (src : BitVec 16) (session : BitVec 8),
    let a := arg.toNat
    let k := h.session.val
    (∀ i c, (i = .nop h arg body ∨ (∃ b, i = .nopRelease h b ∧ arg = (if b then 3 else 1) ∧ body = []) ∨
        (∃ g, i = .nopChainReset g ∧ h = { g with ordered := true } ∧ arg = 2 ∧ body = [])) →
      c = h.record 0x01 a body → s.hears h c = true → ∀ r fl, r = s.heard h c → fl = s.flightOf h c →
        (4 ≤ a → exec i s = .next (r.replied fl .range 0 [])) ∧
        (a < 4 → ∀ left t, left = 128 - (r.flights.filter fun f => decide (f.session = k) && !f.mute && !decide (f.id = fl.id)).length →
          t = (if h.ordered ∧ bitOf a 1 then r.setSess k { r.sess k with broken := false } else r) →
          exec i s = .next ((if bitOf a 0 then t.mirrorCmd k c .ok else t).replied fl .ok (0x9640 * 65536 + left) []))) ∧
    (∀ c, c = h.record 0x06 a body → s.hears h c = true → ∀ r fl, r = s.heard h c → fl = s.flightOf h c →
      (a ≠ 0 → exec (.fence h arg body) s = .next (r.replied fl .range 0 [])) ∧
      (a = 0 → exec (.fence h arg body) s = .next (r.holdFlight fl.id (.fence r.time)).settle)) ∧
    (s.awake = true →
      (∀ f, s.fenceDue n = some f → exec (.fenceComplete n) s = .next (s.replied f .ok 0 [])) ∧
      (s.fenceDue n = none → exec (.fenceComplete n) s = .next s) ∧
      (∀ f, s.chainNext n = some f → f.cmd.ordered = true → f.mute = false →
        ((s.sess f.session).broken = true → f.cmd.resetsChain = false → exec (.orderedStart n) s = .next (s.replied f .chain 0 [])) ∧
        ((s.sess f.session).broken = false → f.cmd.txnFlag = false →
          (s.recordCheck f.session f.cmd = .ok → exec (.orderedStart n) s = .next (s.runOp f).settle) ∧
          (s.recordCheck f.session f.cmd ≠ .ok → exec (.orderedStart n) s = .next (s.replied f (s.recordCheck f.session f.cmd) 0 [])))) ∧
      (s.chainNext n = none → exec (.orderedStart n) s = .next s) ∧
      (∀ r rs, (s.sess n).replies = r :: rs → s.replyDue n = true → ∀ p, p = takeReplies r.dest r.tc r.src (1480 - r.bytes.length) rs →
        exec (.replyFrameSend n) s = .next ((s.setSess n { s.sess n with replies := p.2 }).sendReplies n r p.1).settle) ∧
      (s.replyDue n = false → exec (.replyFrameSend n) s = .next s)) ∧
    (8 ≤ session.toNat → exec (.commandFrame src session body) s = .next s) ∧
    (session.toNat < 8 → exec (.commandFrame src session body) s =
      .next ((parseRecords frameRecords body).foldl (fun t c => t.acceptRecord session.toNat src.toNat c) s)) ∧
    exec (.nop h arg body) s = .next (s.acceptRecord k h.src.toNat (h.record 0x01 a body))

/-- The refusals of a record on arrival (R322 to R325, R341, R347). -/
def Obligations.RecordRefusals : Prop :=
  ∀ (s : State) (h : CmdHead) (arg : BitVec 32) (body : List Byte) (i : Instr) (op : Nat),
    let plain : List (Instr × Nat) :=
      [(.nop h arg body, 0x01), (.read h arg body, 0x02), (.snapshot h arg body, 0x05), (.fence h arg body, 0x06),
       (.eventQuery h arg body, 0x12), (.productQuery h arg body, 0x22), (.poolRead h arg body, 0x31), (.codeJob h arg body, 0x38),
       (.txnBegin h arg body, 0x40), (.txnCommit h arg body, 0x41), (.txnRollback h arg body, 0x42), (.txnPrepare h arg body, 0x43),
       (.notifyComplete h arg body, 0x48), (.bluletStop h arg body, 0x52), (.recallConfig h arg body, 0x61), (.resetCmd h arg body, 0x70),
       (.outputEnable h arg body, 0x72)]
    let effects : List (Instr × Nat) :=
      [(.write h arg body, 0x03), (.modify h arg body, 0x04), (.eventArm h arg body, 0x10), (.eventCancel h arg body, 0x11),
       (.productEnter h arg body, 0x20), (.productUpdate h arg body, 0x21), (.productRetire h arg body, 0x23), (.poolWrite h arg body, 0x30),
       (.bluletLoad h arg body, 0x50), (.bluletStart h arg body, 0x51), (.canaryLoad h arg body, 0x58)]
    (i, op) ∈ plain ∨ (i, op) ∈ effects → ∀ c n src, c = h.record op arg.toNat body → n = h.session.val → src = h.src.toNat →
      let x := s.sess n
      let r := s.takeCredit n
      (s.deaf = true → exec i s = .next s) ∧
      (s.deaf = false →
        (∀ o, x.owner = some o → o ≠ src → exec i s = .next (s.refuse n src c 0 .access)) ∧
        (x.owner = some src → x.credits = 0 → exec i s = .next (s.refuse n src c 0 .busy)) ∧
        (x.owner = some src → x.credits ≠ 0 →
          (s.tagInFlight n c.tag = true ∨ s.powerWaits = true → exec i s = .next (r.refuse n src c 1 .busy)) ∧
          (s.tagInFlight n c.tag = false → s.powerWaits = false → c.ordered = false → s.recordCheck n c ≠ .ok →
            exec i s = .next ((s.heard h c).replied (s.flightOf h c) (s.recordCheck n c) 0 [])))) ∧
      ((i, op) ∈ effects → s.hears h c = true →
        (c.alone ≠ .ok → exec i s = .next ((s.heard h c).replied (s.flightOf h c) c.alone 0 [])) ∧
        (c.alone = .ok → (s.heard h c).lockedFor c = true → exec i s = .next ((s.heard h c).replied (s.flightOf h c) .locked 0 [])))

/-- RESET, COLD_RESET, WARM_RESET and the POWER_STATE rows (R340, R341, R431, R432, R497). -/
def Obligations.ResetsAndPowerStates : Prop :=
  ∀ (s : State) (h : CmdHead) (arg : BitVec 32) (body : List Byte) (cause : BitVec 8),
    let a := arg.toNat
    let fresh := s.afresh
    let warm : State := { fresh with
      time := s.time
      pool := s.pool
      poison := s.poison
      logAt := s.time
      lastFlush := s.time
      heldCal := s.heldCal
      canary := { Canary.init with prog := s.canary.prog }
      fab := { Fab.init with ports := s.linksTrained }
      regs := (s.regs.filter fun e => keptWarm e.1).foldl (fun m e => FMap.set resetAt m e.1 e.2) fresh.regs }
    let taken (t : State) : State :=
      let g := t.grant
      let u := ((t.setFld PWR_GRANT PWR_GRANT_G g).setFld PWR_BUDGET PWR_BUDGET_USE (useOf g)).setFld PWR_BUDGET PWR_BUDGET_PEAK (peakOf g)
      if g < 50000 then (if u.faultActive fltGrantLow 0 then u else u.faultRaise fltGrantLow 0 1 (faultValue fltGrantLow 0)) else u.faultEnd fltGrantLow 0
    (∀ c, c = h.record 0x70 a body → s.hears h c = true → ∀ r fl, r = s.heard h c → fl = s.flightOf h c →
      (a / 65536 ≠ 0xA5C3 ∨ 2 ≤ a % 65536 → exec (.resetCmd h arg body) s = .next (r.replied fl .range 0 [])) ∧
      (a / 65536 = 0xA5C3 → a % 65536 < 2 →
        (r.resetIgnored = true → exec (.resetCmd h arg body) s = .next (r.replied fl .state 0 [])) ∧
        (r.resetIgnored = false → ∀ t, t = (r.complete fl none .ok 0 []).flushReplies →
          exec (.resetCmd h arg body) s = .next (if a % 4 = 1 then t.coldReset 1 else t.warmReset 2).settle))) ∧
    exec (.coldReset cause) s = .next (taken ((fresh.setFld GLB_BOOT GLB_BOOT_CAUSE cause.toNat).reloadLock s.lockRec)) ∧
    exec (.warmReset cause) s = .next (taken ((((warm.setFlag CAN_STAT CAN_STAT_PROG_OK (s.flag CAN_STAT CAN_STAT_PROG_OK)).setFld GLB_ADDR GLB_ADDR_ADDR
      s.addrReg).setFlag GLB_ADDR GLB_ADDR_LOCKED s.addrLocked).setFld GLB_BOOT GLB_BOOT_CAUSE cause.toNat)) ∧
    (fresh.time = 0 ∧ fresh.pool = [] ∧ fresh.txns = [] ∧ fresh.events = [] ∧ fresh.products = [] ∧ fresh.threads = [] ∧ fresh.flights = [] ∧
      fresh.pending = s.lastRites.pending ∧ fresh.tallies = s.lastRites.tallies ∧ fresh.slots = s.lastRites.slots ∧ fresh.flash = s.lastRites.flash) ∧
    (∀ c, c = h.record 0x71 0 [] → s.hears h c = true →
      exec (.powerStateRun h) s = .next ((s.heard h c).endDoze.replied (s.flightOf h c) .ok 0 [])) ∧
    (∀ c, c = h.record 0x71 1 [] → s.hears h c = true → ∀ r fl, r = s.heard h c → fl = s.flightOf h c →
      (r.dozeRefused = true → exec (.powerStateDoze h) s = .next (r.replied fl .state 0 [])) ∧
      (r.dozeRefused = false → exec (.powerStateDoze h) s = .next (({ r with power := .doze } : State).replied fl .ok 0 []))) ∧
    (∀ c k, c = h.record 0x71 k [] → s.hears h c = true → s.flights = [] → s.readyJobs = [] → ∀ fl v, fl = { s.flightOf h c with hold := .power } →
      v = ({ s.heard h c with flights := [fl] } : State) →
      let done (t : State) : State := t.settleReleases
      (k = 2 →
        (v.watchRefused = true → exec (.powerStateWatch h) s = .next (done (v.complete fl none .state 0 []))) ∧
        (v.watchRefused = false → exec (.powerStateWatch h) s = .next (done (v.complete fl none .ok 0 []).flushReplies.acceptWatch))) ∧
      (k = 3 →
        (v.txnBinds = true → exec (.powerStateOff h) s = .next (done (v.complete fl none .state 0 []))) ∧
        (v.txnBinds = false → exec (.powerStateOff h) s = .next (done (v.complete fl none .ok 0 []).flushReplies.beginShutdown))))

/-- TXN_BEGIN, TXN_COMMIT, TXN_ROLLBACK and TXN_PREPARE (R342 to R358). -/
def Obligations.TxnCommands : Prop :=
  ∀ (s : State) (h : CmdHead) (arg : BitVec 32) (body : List Byte),
    let a := arg.toNat
    let n := h.session.val
    let p := Point.ofBytes body
    (∀ c r fl, c = h.record 0x40 a body → s.hears h c = true → r = s.heard h c → fl = s.flightOf h c →
      let did (u : State) (st : Status) (result : Nat) : Prop := exec (.txnBegin h arg body) s = .next (u.replied fl st result [])
      (a ≠ 0 → did r .range 0) ∧
      (a = 0 → 4 ≤ r.txns.length → did r .nospace 0) ∧
      (a = 0 → r.txns.length < 4 → ∀ id, id = r.nextTxn % 65535 + 1 →
        did { r with
          txns := r.txns ++ [{ id := id, session := n, phase := .opened, staged := [], lastTick := r.time,
                               point := { kind := 0, param := 0, limit := 0, value := 0 }, deadline := 0, coord := 0, since := 0, locks := [],
                               demand := 0, reached := none }]
          nextTxn := id
          txnEnded := r.txnEnded.filter fun e => !decide (e.2.1 = id) } .ok id)) ∧
    (∀ c r fl, c = h.record 0x41 a body → s.hears h c = true → fl = s.flightOf h c →
      r = (if (s.heard h c).deadlineDue a then (s.heard h c).decisionDeadline a else s.heard h c) → a < 65536 →
      let did (u : State) (st : Status) : Prop := exec (.txnCommit h arg body) s = .next (u.replied fl st 0 [])
      (r.txnOf n a = none → did r ((r.endedAs n a).getD .txn)) ∧
      (∀ t u v, r.txnOf n a = some t → u = { t with lastTick := r.time } → v = r.txnTouch t →
        (t.phase = .pending → did v .txn) ∧
        (∀ d, t.phase = .prepared d →
          (body.length ≠ 0 → did v .range) ∧
          (body.length = 0 → d = true → did v .ok) ∧
          (body.length = 0 → d = false → did (v.setTxn { u with phase := .prepared true, since := v.time, lastTick := v.time }) .ok)) ∧
        (t.phase = .opened →
          (body.length ≠ 12 → did v .range) ∧
          (body.length = 12 →
            (v.judgePoint u p [0, 1, 2, 3, 4] ≠ .ok → did (v.countBudget (v.judgePoint u p [0, 1, 2, 3, 4])) (v.judgePoint u p [0, 1, 2, 3, 4])) ∧
            (v.judgePoint u p [0, 1, 2, 3, 4] = .ok →
              ((v.holders u).isEmpty = false → did v .locked) ∧
              ((v.holders u).isEmpty = true → exec (.txnCommit h arg body) s =
                .next ((v.txnTake u .pending p 0 0).holdFlight fl.id (.commit t.id)).settle)))))) ∧
    (∀ c r fl, c = h.record 0x42 a body → s.hears h c = true → r = s.heard h c → fl = s.flightOf h c → a < 65536 →
      let did (u : State) (st : Status) : Prop := exec (.txnRollback h arg body) s = .next (u.replied fl st 0 [])
      (r.txnOf n a = none → did r .txn) ∧
      (∀ t, r.txnOf n a = some t →
        (r.commitDue t.id = true → did (r.commitTick t.id) .txn) ∧
        (r.commitDue t.id = false → did ((r.txnFlights t.id).foldl (fun t f => t.finish f .txn 0xFFFFFFFF []) (r.dropTxn t.id)) .ok))) ∧
    (∀ c r fl, c = h.record 0x43 a body → s.hears h c = true → r = s.heard h c → fl = s.flightOf h c → a < 65536 →
      let did (u : State) (st : Status) : Prop := exec (.txnPrepare h arg body) s = .next (u.replied fl st 0 [])
      (r.txnOf n a = none → did r .txn) ∧
      (∀ t u v, r.txnOf n a = some t → u = { t with lastTick := r.time } → v = r.txnTouch t →
        (t.phase ≠ .opened → did v .txn) ∧
        (t.phase = .opened →
          (v.judgePrepare u p (leAt body 12 8) fl.dest = some .ok → did (v.txnTake u (.prepared false) p (leAt body 12 8) fl.dest) .ok) ∧
          (∀ e, e ≠ .ok → v.judgePrepare u p (leAt body 12 8) fl.dest = some e → did (v.countBudget e) e) ∧
          (v.judgePrepare u p (leAt body 12 8) fl.dest = none → exec (.txnPrepare h arg body) s =
            .next (v.holdFlight fl.id (.prepare t.id)).settle))))

/-- COMMIT_TICK, COMMIT_LIMIT_EXPIRY, TXN_IDLE_TIMEOUT, DECISION_DEADLINE, POINT_WITHOUT_DECISION and PREPARE_RETRY (R348 to
R358). -/
def Obligations.TxnEvents : Prop :=
  ∀ (s : State) (i : BitVec 16), s.awake = true →
    let id := i.toNat
    let ends (c : Instr) (u : State) : Prop := exec c s = .next u.settle
    (∀ fs, fs = s.txnFlights id →
      (s.commitDue id = false → ends (.commitTick i) s) ∧
      (∀ t, s.txn id = some t → s.commitDue id = true →
        (∀ u, s.applyRecords t.staged 0 = (u, none) → ends (.commitTick i)
          ((((u.dropTxn id).count GLB_TXN_CNT GLB_TXN_CNT_COMMITTED 1).mirrorTxn t.session t.staged).finishTxn fs .ok
            (s.time % 2 ^ 32) (leBytes 8 s.time))) ∧
        (∀ u k st op, s.applyRecords t.staged 0 = (u, some (k, st, op)) → ends (.commitTick i)
          (((s.dropTxn id).count GLB_TXN_CNT GLB_TXN_CNT_FAILED 1).finishTxn fs .txn k (leBytes 2 st.code ++ [BitVec.ofNat 8 op, 0])))) ∧
      (∀ t, s.txn id = some t →
        let late : Bool := t.committed && !s.pointReached t && decide (t.since + t.point.limitTicks ≤ s.time)
        (late = false → ends (.commitLimitExpiry i) s) ∧
        (late = true → ends (.commitLimitExpiry i)
          (((s.dropTxn id).count GLB_TXN_CNT GLB_TXN_CNT_TIMEOUT 1).finishTxn fs .timeout 0 []))) ∧
      (s.txn id = none → ends (.commitLimitExpiry i) s)) ∧
    (∀ t, s.txn id = some t →
      (t.phase ≠ .opened ∨ s.time < t.lastTick + 4000000000 → ends (.txnIdleTimeout i) s) ∧
      (t.phase = .opened → t.lastTick + 4000000000 ≤ s.time →
        ends (.txnIdleTimeout i) ((s.txnRollback id .txn).count GLB_TXN_CNT GLB_TXN_CNT_TIMEOUT 1))) ∧
    (∀ t, s.txn id = some t →
      (t.phase ≠ .prepared false ∨ s.fabNs < t.deadline → ends (.decisionDeadline i) s) ∧
      (t.phase = .prepared false → (t.deadline : Int) ≤ s.fabNs → ends (.decisionDeadline i)
        (((s.txnRollback id .timeout).count GLB_TXN_CNT GLB_TXN_CNT_TIMEOUT 1).noteEnded t .timeout)) ∧
      (s.missDue id = false → ends (.pointWithoutDecision i) s) ∧
      (t.phase = .prepared false → t.point.kind ≠ 3 → s.pointReached t = true → ends (.pointWithoutDecision i)
        ((((s.txnRollback id .late).count GLB_TXN_CNT GLB_TXN_CNT_MISSED 1).faultEvent fltTxnMissed 0 1
          (faultValue fltTxnMissed 0)).noteEnded t .late))) ∧
    (s.txn id = none → ends (.txnIdleTimeout i) s ∧ ends (.decisionDeadline i) s ∧ ends (.pointWithoutDecision i) s) ∧
    (s.prepareFlight id = none → ends (.prepareRetry i) s) ∧
    (∀ f t, s.prepareFlight id = some (f, t) → ∀ dl : Nat, dl = leAt f.cmd.body 12 8 →
      ((dl : Int) ≤ s.fabNs → ends (.prepareRetry i) (s.finish f.id .timeout 0 [])) ∧
      (s.fabNs < dl → ∀ busy, busy = ((s.holders t).any fun x => s.waitsFor (s.keyOf (Point.ofBytes f.cmd.body) f.dest) x) →
        (busy = true → ends (.prepareRetry i) s) ∧
        (busy = false → ∀ u st, s.txnPrepare t f.cmd.body f.dest = (u, some st) → ends (.prepareRetry i) (u.finish f.id st 0 []))))

/-- SOURCE_RAISE, NTF_RAISE, NTF_CLEAR, DELIVERY_SELECTION, DELIVERY_ACTIVE and REDELIVER (R364 to R369, R372 to R374). -/
def Obligations.NotificationRaisesAndDeliveries : Prop :=
  ∀ (s : State), s.awake = true →
    (∀ (i : Fin 2048) (v : Word) (x : NtfSrc), x = s.src i →
      (x.pend = false → exec (.sourceRaise i v) s =
        .next (s.setSrc i { x with pend := true, cur := { x.cur with count := 1, value := v, tick := s.time } })) ∧
      (x.pend = true → exec (.sourceRaise i v) s =
        .next (s.setSrc i { x with cur := { x.cur with
          count := min 255 (x.cur.count + 1), value := if orsValue i then x.cur.value ||| v else v } }))) ∧
    (∀ (i : BitVec 11) (x : NtfSrc), x = s.src i.toNat →
      (1824 ≤ i.toNat → exec (.ntfRaise i) s = .next (s.done .access 0 [])) ∧
      (i.toNat < 1824 → x.pend = false → exec (.ntfRaise i) s =
        .next ((s.setSrc i.toNat { x with pend := true, cur := { x.cur with count := 1, value := 0, tick := s.time, sw := true } }).done .ok 0 [])) ∧
      (i.toNat < 1824 → x.pend = true → exec (.ntfRaise i) s =
        .next ((s.setSrc i.toNat { x with cur := { x.cur with count := min 255 (x.cur.count + 1), sw := true } }).done .ok 0 [])) ∧
      (x.st = .idle → exec (.ntfClear i) s = .next ((s.setSrc i.toNat { x with pend := false, cur := NtfRec.init }).done .ok 0 [])) ∧
      (x.st ≠ .idle → exec (.ntfClear i) s = .next (s.done .ok 0 []))) ∧
    ∀ t : Fin 12,
      (∀ is, is = s.deliverables t →
        let free : Bool := !s.targetBusy t && decide (s.lastDone t ≠ some s.time) && s.moderated t is
        (is = [] ∨ free = false → exec (.deliverySelection t) s = .next s) ∧
        (is ≠ [] → free = true → exec (.deliverySelection t) s =
          .next (((is.take (s.batch t)).foldl (fun u i =>
            u.setSrc i { u.src i with st := .delivering, pend := false, out := (u.src i).cur, cur := NtfRec.init, selTick := u.time }) s).count
              (NTF_T_CNT t) NTF_T_CNT_DELIVERIES 1))) ∧
      (∀ is, is = s.sourcesIn t .delivering →
        let active (v : State) : State := is.foldl (fun v i => v.setSrc i { v.src i with st := .active, actTick := v.time }) v
        (is = [] → exec (.deliveryActive t) s = .next s) ∧
        (is ≠ [] → t.val < 4 → exec (.deliveryActive t) s = .next (active s)) ∧
        (∀ a, is ≠ [] → 4 ≤ t.val → (s.sess (t - 4)).owner = some a → exec (.deliveryActive t) s =
          .next (active (s.send 2 a 2 (t - 4) (is.flatMap fun i => Sys2Proof.Machine.recordBytes i (s.src i).out false))))) ∧
      ∀ r is, r = s.fld (NTF_T_CFG t) NTF_T_CFG_REDELIVER * ticksMs →
        is = (s.sourcesIn t .active).filter (fun i => decide ((s.src i).actTick + r ≤ s.time)) →
        (r = 0 ∨ t.val < 4 ∨ is = [] → exec (.redeliver t) s = .next s) ∧
        (∀ a, r ≠ 0 → 4 ≤ t.val → is ≠ [] → (s.sess (t - 4)).owner = some a → exec (.redeliver t) s =
          .next ((is.foldl (fun v i => v.setSrc i { v.src i with actTick := v.time })
            (s.send 2 a 2 (t - 4) (is.flatMap fun i => Sys2Proof.Machine.recordBytes i (s.src i).out true))).count (NTF_T_CNT t) NTF_T_CNT_RESENT is.length))

/-- NOTIFY_COMPLETE. R371: "A completion that names a source which is not ACTIVE for the completing target is ignored and counted
in NTF_STRAY. […] The command still completes with OK and RESULT = 0. […] A NOTIFY_COMPLETE with ALL = 1 that finds no ACTIVE source
counts one stray." -/
def Obligations.StrayAndOtherCompletions : Prop :=
  ∀ (s : State) (h : CmdHead) (arg : BitVec 32) (body : List Byte) (c : CmdRec) (r : State) (fl : Flight) (a n : Nat)
    (active : List Nat),
    a = arg.toNat → n = h.session.val → c = h.record 0x48 a body → s.hears h c = true → r = s.heard h c → fl = s.flightOf h c →
    active = r.sourcesIn (n + 4) .active →
    let did (u : State) (st : Status) (result : Nat) : Prop := exec (.notifyComplete h arg body) s = .next (u.replied fl st result [])
    let stray := r.count NTF_STRAY NTF_STRAY_STRAY 1
    let completed (is : List Nat) : State :=
      let u := is.foldl (fun v i => v.setSrc i { v.src i with st := .idle, out := NtfRec.init, selTick := 0, actTick := 0 }) r
      { u with ntfTgt := FMap.set (fun _ => NtfTgt.init) u.ntfTgt (n + 4) { lastDone := some u.time } }
    (2048 < a → did r .range 0) ∧
      (a < 2048 → a ∉ active → did stray .ok 0 ∧ stray.ntf = r.ntf ∧
        stray.fld NTF_STRAY NTF_STRAY_STRAY = min 65535 (r.fld NTF_STRAY NTF_STRAY_STRAY + 1)) ∧
      (a = 2048 → active = [] → did stray .ok 0) ∧
      (∀ is, is = active.filter (fun i => decide (i = a)) → a < 2048 → a ∈ active → did (completed is) .ok is.length) ∧
      (a = 2048 → active ≠ [] → did (completed active) .ok active.length)

/-- FRAME_RECEIVE, LINK_UP, LINK_DOWN, RETRAIN, BREAK, CLOSE, CLOSE_HOLD_END, CREDIT, CREDIT_ADVERTISE and LINK_CTL_RESET (R376 to
R389, R403, R498). -/
def Obligations.FramesLinksAndBreaks : Prop :=
  (∀ (s : State) (f : FrameIn) (h : Header), h = Header.ofBytes f.bytes →
    let did (u : State) : Prop := exec (.frameReceive f) s = .next u
    let asleep : Bool := decide (s.power = .watch) || decide (s.power = .off)
    (asleep = true ∨ f.tagged = true → did s) ∧
    (asleep = false → f.tagged = false →
      (f.check h = some .crc → did ((s.count FAB_CNT0 FAB_CNT0_CRC_ERR 1).raise 22 1)) ∧
      (f.check h = some .format → did ((s.count FAB_CNT0 FAB_CNT0_FORMAT 1).raise 22 2)) ∧
      (f.check h = none → h.tc = 0 → f.room = false → did ((s.count (FAB_P_CNT f.port) FAB_P_CNT_TC0_DROP 1).raise 22 8)) ∧
      (f.check h = none → (h.tc ≠ 0 ∨ f.room = true) → f.port = 2 → did (s.acceptedT f h)) ∧
      (f.check h = none → (h.tc ≠ 0 ∨ f.room = true) → f.port ≠ 2 → h.isEnumerate = false → h.isSync = false →
        ∀ p dl u, p = f.port.val → dl = s.crosses p h →
        u = (let v := (s.learn p h.src h.hops).conflict h.src; if v.twinEn ∧ v.twinActive then v.takeoverIn h.src else v) →
        (h.dest = broadcast → (h.hops = 0 ∨ h.src = u.addr) → did ((u.deliver f h).freeUnits p (h.frame p 0 dl))) ∧
        (h.dest = broadcast → h.hops ≠ 0 → h.src ≠ u.addr → did ((u.deliver f h).put (1 - p)
          { frame := h.frame (1 - p) (h.hops - 1) dl, from_ := some p })) ∧
        (h.dest ≠ broadcast → u.ownDest h.dest = true → did (((u.noteSeq h).deliver f h).freeUnits p (h.frame p 0 dl))) ∧
        (h.dest ≠ broadcast → u.ownDest h.dest = false → h.hops = 0 →
          did (((u.count FAB_CNT1 FAB_CNT1_HOP_DROP 1).raise 22 4).freeUnits p (h.frame p 0 dl))) ∧
        (h.dest ≠ broadcast → u.ownDest h.dest = false → h.hops ≠ 0 →
          did (u.put (1 - p) { frame := h.frame (1 - p) (h.hops - 1) dl, from_ := some p }))))) ∧
    ∀ (s : State), s.awake = true →
      (∀ (p : Fin 3) (rate : BitVec 2) (host : Bool),
        (s.linkUp p = true → exec (.linkUp p rate host) s = .next s) ∧
        (s.linkUp p = false → ∀ closing until_ x u, closing = (decide (p.val < 2) && s.ringBroken) →
          until_ = (if closing then s.time + ticksMs else 0) →
          x = { s.link p with sent := [], peerFreed := [], freed := [], dirty := false, reqAt := none, holdUntil := until_ } →
          u = ((((s.setLink p x).setFlag (FAB_P_STAT p) FAB_P_STAT_UP true).setFld (FAB_P_STAT p) FAB_P_STAT_RATE rate.toNat).setFlag
            (FAB_P_STAT p) FAB_P_STAT_HOST_PEER host) →
          ∀ v, v = ((u.setFlag (FAB_P_CFG p) FAB_P_CFG_RETRAIN false).raise (16 + p) (u.linkValue p)).faultEnd fltLinkDown p →
          (closing = false → exec (.linkUp p rate host) s = .next v) ∧
          (closing = true → exec (.linkUp p rate host) s =
            .next ((v.sendOut 0 8 0 (linkBody linkClose [])).sendOut 1 8 0 (linkBody linkClose []))))) ∧
      (∀ p : Fin 3,
        (s.linkUp p = false → exec (.linkDown p) s = .next s) ∧
        (s.linkUp p = true → ∀ q u v, q = (s.link p).queue →
          u = q.foldl (fun t x => match x.from_ with
            | some i => t.freeUnits i x.frame
            | none => t) (((s.setLink p { s.link p with queue := [], reqAt := none, holdUntil := 0 }).setFlag (FAB_P_STAT p)
              FAB_P_STAT_UP false).count (FAB_P_CNT p) FAB_P_CNT_DISCARD q.length) →
          v = (u.raise (16 + p) (u.linkValue p)).moveSettle →
          (p = 2 → exec (.linkDown p) s = .next v) ∧
          (p ≠ 2 → exec (.linkDown p) s =
            .next ((v.faultRaise fltLinkDown p 1 (v.linkValue p)).sendOut (1 - p) 8 0 (linkBody linkBreak [])))) ∧
        (s.fld (FAB_P_CFG p) FAB_P_CFG_MAX_RATE ≠ 3 → exec (.retrain p) s =
          .next (((s.plainWrite (s.wr (FAB_P_CFG p) FAB_P_CFG_RETRAIN.mask FAB_P_CFG_RETRAIN.mask)).linkFalls p |>.setFlag (FAB_P_CFG p) FAB_P_CFG_RETRAIN true).done .ok 0 [])) ∧
        ((s.link p).holdUntil = 0 ∨ s.time < (s.link p).holdUntil → exec (.closeHoldEnd p) s = .next s) ∧
        ((s.link p).holdUntil ≠ 0 → (s.link p).holdUntil ≤ s.time →
          exec (.closeHoldEnd p) s = .next ((s.setLink p { s.link p with holdUntil := 0 }).drain p))) ∧
      (∀ u : State, u = { s with fab := { s.fab with routes := [] } } →
        exec .ringBreak s = .next ((u.setFlag FAB_STAT FAB_STAT_BROKEN true).raise 20 1) ∧
        exec .ringClose s = .next ((u.setFlag FAB_STAT FAB_STAT_BROKEN false).raise 20 0)) ∧
      (∀ (p : Fin 2) (c : Credits), exec (.credit p c) s = .next ((s.setLink p { s.link p with
        peerFreed := [(2, c.n1), (3, c.e1), (4, c.n2), (5, c.e2), (6, c.n3), (7, c.e3)].foldl
          (fun m e => FMap.set (fun _ => 0) m e.1 e.2.toNat) (s.link p).peerFreed }).drain p)) ∧
      (exec .creditAdvertise s = .next ([0, 1].foldl (fun t p =>
        if (t.link p).dirty ∧ t.linkUp p then
          (t.setLink p { t.link p with dirty := false }).sendLocal p 8 0
            (linkBody linkCredit ([2, 3, 4, 5, 6, 7].map fun b => countOf (t.link p).freed b))
        else t) { s with fab := { s.fab with nextCredit := s.time + ticksUs } })) ∧
      ∀ (p : Fin 2) (key : BitVec 16) (uid : BitVec 64),
        let did (u : State) : Prop := exec (.linkCtlReset p key uid) s = .next u
        let told : Bool := s.fab.relays.any fun r => decide (r.1 = uid.toNat) && decide (s.time < r.2 + ticksMs)
        (s.resetIgnored = true ∨ key.toNat ≠ 0xA5C3 → did s) ∧
        (s.resetIgnored = false → key.toNat = 0xA5C3 →
          (uid.toNat = s.uid → did (s.warmReset causeLink)) ∧
          (uid.toNat ≠ s.uid → told = true → did s) ∧
          (uid.toNat ≠ s.uid → told = false → did (({ s with fab := { s.fab with
            relays := (s.fab.relays.filter fun r => !decide (r.1 = uid.toNat) && decide (s.time < r.2 + ticksMs)) ++
              [(uid.toNat, s.time)] } } : State).sendLocal (1 - p) 8 0 ([0x10, 0] ++ leBytes 2 0xA5C3 ++ leBytes 8 uid.toNat))))

/-- ENUMERATE, DISCOVER, ASSIGN, SYNC, SYNC_TIMEOUT, PDELAY_MEASURE, PDELAY_REQ, PDELAY_RESP, WAKE_TOKEN and WAKE_CTL (R385, R387,
R393 to R395, R400 to R403). The layout of the link-delay frames, and the amounts of the servo, are free values (log 20). -/
def Obligations.AddressesFabricTimeAndWakeTokens : Prop :=
  (∀ s : State, s.awake = true →
    (∀ src next pos : BitVec 16, ∀ u, u = (s.setFld FAB_STAT FAB_STAT_DLHOST src.toNat).leaveQuarantine →
      let out (v : State) (n : Nat) : Prop := exec (.enumerate src next pos) s =
        .next ((v.sendReport src.toNat pos.toNat).put 1
          { frame := { port := 1, kind := 6, hops := 0, dest := 0xFFFF, src := src.toNat, tc := 2, dateline := false, retry := false,
                       session := 0, seq := 0, body := [0, 0] ++ leBytes 2 n ++ leBytes 2 (pos.toNat + 1) }
            from_ := none })
      (s.addrLocked = true ∧ s.addr ≠ 0 → out u (max next.toNat (s.addr + 1))) ∧
      (¬(s.addrLocked = true ∧ s.addr ≠ 0) → 250 < next.toNat → out (u.adopt 0).enterQuarantine (next.toNat + 1)) ∧
      (¬(s.addrLocked = true ∧ s.addr ≠ 0) → next.toNat ≤ 250 → out (u.adopt next.toNat) (next.toNat + 1))) ∧
    (∀ src : BitVec 16, exec (.discover src) s = .next (s.send 6 src.toNat 2 0 (s.reportBody 3 0))) ∧
    (∀ (src a : BitVec 16) (uid : BitVec 64),
      (¬(uid.toNat = s.uid ∧ 1 ≤ a.toNat ∧ a.toNat ≤ 250) → exec (.assign src a uid) s = .next s) ∧
      (uid.toNat = s.uid → 1 ≤ a.toNat → a.toNat ≤ 250 → ∀ t, t = (s.adopt a.toNat).leaveQuarantine →
        (s.addrLocked = true → exec (.assign src a uid) s = .next (({ t with lockRec := some a.toNat } : State).sendReport src.toNat 0)) ∧
        (s.addrLocked = false → exec (.assign src a uid) s = .next (t.sendReport src.toNat 0)))) ∧
    (∀ (p : Fin 2) (hops : BitVec 8) (src seq frac : BitVec 16) (origin corr : BitVec 64) (step : BitVec 6) (residence : BitVec 32),
      ∀ (delay : Int) (dl : Bool) (u v : State), delay = (s.rg (FAB_P_DELAY p)).toNat →
      dl = (s.flag (FAB_P_STAT p) FAB_P_STAT_HOST_PEER && decide (s.fld FAB_STAT FAB_STAT_DLHOST ≠ 0) &&
        decide (src.toNat ≠ s.fld FAB_STAT FAB_STAT_DLHOST)) →
      u = (if hops.toNat = 0 ∨ src.toNat = s.addr then s
        else s.put (1 - p)
          { frame := { port := 1 - p, kind := 5, hops := hops.toNat - 1, dest := 0xFFFF, src := src.toNat, tc := 0, dateline := dl,
                       retry := false, session := 0, seq := seq.toNat,
                       body := [0, 0, 0, 0] ++ leBytes 8 origin.toNat ++ leBytes 2 frac.toNat ++
                         leBytes 8 (unsigned 64 (corr.toInt + residence.toNat + delay)) }
            from_ := none }) →
      v = { u with fab := { u.fab with syncs := FMap.set (fun _ => 0) u.fab.syncs src.toNat (s.time + 1) } } →
      let did (w : State) : Prop := exec (.sync p hops src seq origin frac corr step residence) s = .next w
      (isHost src.toNat = false → did u) ∧
      (isHost src.toNat = true → v.master ≠ src.toNat → did v) ∧
      (isHost src.toNat = true → v.master = src.toNat →
        ∀ (m : Int), m = (origin.toNat : Int) * 65536 + frac.toNat + corr.toInt + delay →
        ∀ (part err : Int) (w : State), part = (step.toNat : Int) * 2560 → err = m - (v.fabNs16 + part) →
        w = ({ v with fab := { v.fab with lastSync := some v.time } } : State).setRg FAB_SYNC (BitVec.ofInt 32 err) →
        ∀ run, run = (if err.natAbs < 6553600 then w.fab.goodRun + 1 else 0) →
        (v.tmap = none → did ((({ v with
          tmap := some { tick := v.time, ns16 := m - part, rate := rateNominal }
          fab := { v.fab with goodRun := 0, lastSync := some v.time } } : State).setRg FAB_SYNC 0).setTimeValid false)) ∧
        (∀ k, v.tmap = some k → 65536000 < err.natAbs → did (({ w with
          tmap := some { k with tick := v.time, ns16 := m - part }
          fab := { w.fab with goodRun := 0 } } : State).setTimeValid false)) ∧
        (v.tmap ≠ none → err.natAbs ≤ 65536000 →
          (run < 8 → did (({ w with fab := { w.fab with goodRun := run } } : State).steer err)) ∧
          (8 ≤ run → did ((({ w with fab := { w.fab with goodRun := run } } : State).steer err).setTimeValid true))))) ∧
    (∀ late : Bool, late = (match s.fab.lastSync with
        | some t => decide (t + 4000000 ≤ s.time)
        | none => true) →
      (s.timeValid = false ∨ late = false → exec .syncTimeout s = .next s) ∧
      (s.timeValid = true → late = true → exec .syncTimeout s =
        .next (({ s with fab := { s.fab with goodRun := 0 } } : State).setTimeValid false))) ∧
    (exec .pdelayMeasure s = .next ([0, 1, 2].foldl (fun t p =>
      if t.linkUp p then
        (t.setLink p { t.link p with reqAt := some (64 * t.time) }).sendLocal p 8 0 (linkBody linkPdelayReq [])
      else t) { s with fab := { s.fab with nextPdelay := s.time + 10 * ticksMs } })) ∧
    (∀ (p : Fin 3) (step : BitVec 6) (residence : BitVec 32),
      exec (.pdelayReq p residence) s = .next (s.sendLocal p 8 0 (linkBody linkPdelayResp [residence.toNat])) ∧
      ((s.link p).reqAt = none → exec (.pdelayResp p step residence) s = .next s) ∧
      (∀ t, (s.link p).reqAt = some t → exec (.pdelayResp p step residence) s =
        .next ((s.setLink p { s.link p with reqAt := none }).setRg (FAB_P_DELAY p)
          (BitVec.ofNat 32 (((64 * s.time + step.toNat - t) * 2560 - residence.toNat) / 2))))) ∧
    ∀ (src a : BitVec 16) (reason : BitVec 8), exec (.wakeCtl src a reason) s =
      .next (s.send 9 src.toNat 2 0 ([BitVec.ofNat 8 (b2n (s.linkUp 1)), 0] ++ leBytes 2 a.toNat ++ leBytes 1 reason.toNat))) ∧
  ∀ (s : State) (p : Fin 2) (a : BitVec 16) (reason : BitVec 8),
    let did (u : State) : Prop := exec (.wakeToken p a reason) s = .next u
    let mine : Bool := decide (a.toNat = 0xFFFF) || (decide (a.toNat = s.addr) && !s.quarantined)
    (p = 1 ∨ (s.linkUp 0 = true ∧ s.power ≠ .watch) → did s) ∧
    (p = 0 → (s.linkUp 0 = false ∨ s.power = .watch) → ∀ t u, t = (s.count FAB_WAKE FAB_WAKE_COUNT 1).setFld FAB_WAKE FAB_WAKE_REASON reason.toNat →
      u = (if s.latchesWake then (t.setFld PWR_WAKE PWR_WAKE_TOKEN reason.toNat).wakeEvent wakeToken else t) →
      (mine = true → a.toNat ≠ 0xFFFF → did u) ∧
      (a.toNat = 0xFFFF → did (if s.linkUp 1 ∧ s.power ≠ .watch then u else u.count FAB_WAKE FAB_WAKE_REGEN 1)) ∧
      (mine = false → did (if s.linkUp 1 ∧ s.power ≠ .watch then s else s.count FAB_WAKE FAB_WAKE_REGEN 1)))

/-- TWIN_ENABLE, SEARCH_TIMEOUT, HEARTBEAT_SEND, HEARTBEAT, LEASE_LAPSE, HEARTBEAT_LOSS, TWIN_PROBE_REPEAT, LOSS_CONFIRMED,
TWIN_PROBE, TWIN_ALIVE, TAKEOVER_FRAME and SWITCH (R405 to R423). -/
def Obligations.TwinPairsAndTakeover : Prop :=
  ∀ s : State, s.awake = true →
    (∀ (v : Word) (w : Wr), w = s.wr TWN_CFG 0xFFFFFFFF (v.setF TWN_CFG_EN 1) →
      let did (u : State) (st : Status) : Prop := exec (.twinEnable v) s = .next (u.done st 0 [])
      let a := v.getF TWN_CFG_PAIR_ADDR
      (s.twinEn = true → w.changes (~~~ TWN_CFG_EN.mask) = true → did s .state) ∧
      (s.twinEn = true → w.changes (~~~ TWN_CFG_EN.mask) = false → did (s.plainWrite w) .ok) ∧
      (s.twinEn = false → a = 0 ∨ 250 < a ∨ a = s.addr → did s .range) ∧
      (s.twinEn = false → 1 ≤ a → a ≤ 250 → a ≠ s.addr → s.addrLocked = false → did s .state) ∧
      (s.twinEn = false → 1 ≤ a → a ≤ 250 → a ≠ s.addr → s.addrLocked = true →
        ∀ u : State, u = { (s.plainWrite w) with twin := { Twin.init with searchFrom := s.time } } →
        did ((u.setMir mirSearch).beat false).sendProbe .ok)) ∧
    (let due : Bool := s.searching && !s.twin.heard && decide (s.twin.searchFrom + 40000 ≤ s.time)
     (due = false → exec .searchTimeout s = .next s) ∧
     (due = true → s.twin.alive = true →
       exec .searchTimeout s = .next (s.setTwin { s.twin with alive := false, searchFrom := s.time }).sendProbe) ∧
     (due = true → s.twin.alive = false → exec .searchTimeout s = .next (s.becomeActive.alone.raise 25 0))) ∧
    ((s.twinEn = false ∨ s.time < s.twin.nextBeat → exec .heartbeatSend s = .next s) ∧
     (s.twinEn = true → s.twin.nextBeat ≤ s.time → exec .heartbeatSend s = .next (s.beat false))) ∧
    (∀ h : HeartBeat,
      let did (u : State) : Prop := exec (.heartbeat h) s = .next u
      (s.twinEn = false ∨ h.dest.toNat ≠ s.pairAddr → did s) ∧
      (s.twinEn = true → h.dest.toNat = s.pairAddr →
        (h.member = s.member → did ((s.raise 26 s.mirState).faultRaise fltTwinClash 0 2 s.mirState)) ∧
        (h.member ≠ s.member → ∀ (c r t : State),
          c = (if s.twin.heard ∧ s.rg64 TWN_HB_LO + 20000 < h.time.toNat then s.count TWN_CNT1 TWN_CNT1_HB_LATE 1 else s) →
          r = (c.setRg64 TWN_HB_LO h.time.toNat).setFlag TWN_STAT TWN_STAT_PARTNER true →
          t = r.setTwin { r.twin with heard := true, peerRole := h.role.toNat, peerInSync := h.inSync, lossAt := none, probes := 0, alive := false } →
          (s.searching = true →
            (h.role = 1 → did t.becomeStandby) ∧
            (h.role = 0 → s.member = false → did (t.becomeActive.setMir mirJoining)) ∧
            (h.role ≠ 1 → h.role ≠ 0 ∨ s.member = true → did t)) ∧
          (s.searching = false → s.standby = true →
            (h.role = 1 → h.yield_ = true →
              (s.twin.switch = true → did (t.tryTakeover 2)) ∧
              (s.twin.switch = false → did (t.drawn.tryTakeover t.yieldValue))) ∧
            (h.role ≠ 1 ∨ h.yield_ = false → did t)) ∧
          (s.searching = false → s.twinActive = true → did (t.followPartner s.twin.peerRole h))))) ∧
    (let due : Bool := s.twinEn && s.twinActive && s.leaseOk && (match s.twin.sentAt with
        | some t => decide (t + leaseTicks ≤ s.time)
        | none => true)
     (due = false → exec .leaseLapse s = .next s) ∧
     (due = true → exec .leaseLapse s = .next ({ s with leaseOk := false } : State).liveSettle)) ∧
    (∀ t, t = s.setFlag TWN_STAT TWN_STAT_PARTNER false →
      let due : Bool := s.twinEn && s.twin.heard && s.twin.lossAt.isNone && decide ((s.rg64 TWN_HB_LO : Int) + 50000 ≤ s.fabNs)
      (due = false → exec .heartbeatLoss s = .next s) ∧
      (due = true → s.standby = true →
        exec .heartbeatLoss s = .next (t.setTwin { t.twin with lossAt := some s.time, probes := 1, alive := false }).sendProbe) ∧
      (due = true → s.standby = false → ∀ u, u = t.setTwin { t.twin with heard := false, searchFrom := s.time } →
        (s.twinActive = true → exec .heartbeatLoss s = .next (u.alone.raise 25 0)) ∧
        (s.twinActive = false → exec .heartbeatLoss s = .next u))) ∧
    (s.twin.lossAt = none → exec .twinProbeRepeat s = .next s ∧ exec .lossConfirmed s = .next s) ∧
    (∀ t, s.twin.lossAt = some t →
      (s.twin.probes = 0 ∨ 3 ≤ s.twin.probes ∨ s.time < t + 12000 * s.twin.probes → exec .twinProbeRepeat s = .next s) ∧
      (1 ≤ s.twin.probes → s.twin.probes < 3 → t + 12000 * s.twin.probes ≤ s.time →
        exec .twinProbeRepeat s = .next (s.setTwin { s.twin with probes := s.twin.probes + 1 }).sendProbe) ∧
      (s.time < t + 36000 → exec .lossConfirmed s = .next s) ∧
      (t + 36000 ≤ s.time → ∀ u, u = s.setTwin { s.twin with lossAt := none, probes := 0, alive := false } →
        (s.twin.alive = true → exec .lossConfirmed s = .next u) ∧
        (s.twin.alive = false → s.mirState = mirInSync ∨ s.mirState = mirStale → exec .lossConfirmed s = .next (u.takeover 0)) ∧
        (s.twin.alive = false → s.mirState ≠ mirInSync → s.mirState ≠ mirStale → exec .lossConfirmed s =
          .next ((u.setTwin { u.twin with heard := false }).faultEvent fltTwinNoTakeover 0 2 0)))) ∧
    (∀ pair : BitVec 16,
      let mine : Prop := s.twinEn = true ∧ pair.toNat = s.pairAddr
      (mine ∧ s.twinActive = true → exec (.twinProbe pair) s = .next (s.sendConfirm 2)) ∧
      (¬(mine ∧ s.twinActive = true) → exec (.twinProbe pair) s = .next s) ∧
      (mine ∧ s.twinActive = false → exec (.twinAlive pair) s = .next (s.setTwin { s.twin with alive := true })) ∧
      (¬(mine ∧ s.twinActive = false) → exec (.twinAlive pair) s = .next s) ∧
      (mine ∧ s.twinActive = true ∧ s.faultActive fltTwinSplit 0 = false →
        exec (.takeoverFrame pair) s = .next ((s.faultF3 fltTwinSplit 0 0).raise 28 0)) ∧
      (¬(mine ∧ s.twinActive = true ∧ s.faultActive fltTwinSplit 0 = false) → exec (.takeoverFrame pair) s = .next s)) ∧
    (let may : Bool := s.twinEn && s.twinActive && s.twin.peerInSync && s.flag TWN_STAT TWN_STAT_PARTNER
     (may = true → exec .switch s = .next ((s.beat true).done .ok 0 [])) ∧
     (may = false → exec .switch s = .next (s.done .state 0 [])))

/-- EPOCH_BOUNDARY, EPOCH, EPOCH_ACK, RESYNC_REQ, COPY, ITEM, EPOCH_TIMEOUT and JOINING_END (R409 to R412, R417, R421). The layouts
of items and copies are free values (log 20). -/
def Obligations.TwinMirrorAndEpochs : Prop :=
  ∀ s : State, s.awake = true →
    let follows : Bool := s.twinEn && s.standby
    (∀ (seq : BitVec 16) (part : CopyPart) (item : MirrorItem) (number : BitVec 32) (ds : List (BitVec 32)),
      (follows = false → exec (.copy seq part) s = .next s ∧ exec (.item seq item) s = .next s ∧
        exec (.epoch seq number ds) s = .next s) ∧
      (follows = true → ∀ t u : State, t = s.setTwin { s.twin with seqIn := some seq.toNat } →
        u = (if s.twin.seqIn = none ∨ s.twin.seqIn.map (fun p => (p + 1) % 65536) = some seq.toNat then t else t.goStale) →
        exec (.copy seq part) s = .next (u.applyCopy part) ∧
        exec (.item seq item) s = .next (u.applyItem item).settle ∧
        ∀ (v w x : State) (d : Nat), v = u.setRg TWN_EPOCH number → d = differMask 0 v.twin.digests (ds.map BitVec.toNat) →
          w = v.sendNumbered 3 (leBytes 4 number.toNat ++ leBytes 2 d ++ leBytes 2 (d / 65536)) →
          x = (bitsSet 32 (Nat.land d v.twin.differ)).foldl (fun y k => y.askResync k)
            (w.setTwin { w.twin with awaited := none, differ := d, epochDone := w.twin.joined }) →
          (x.mirState = mirStale → x.twin.wanted = 0 → exec (.epoch seq number ds) s = .next (x.setMir mirInSync)) ∧
          (¬(x.mirState = mirStale ∧ x.twin.wanted = 0) → exec (.epoch seq number ds) s = .next x))) ∧
    (∀ t, t = s.setTwin { s.twin with boundary := s.fabNs / 100000 } →
      (s.epochDue = false → exec .epochBoundary s = .next s) ∧
      (s.epochDue = true →
        (t.mirroring = true → ∀ n, n = ((t.rg TWN_EPOCH).toNat + 1) % 2 ^ 32 → exec .epochBoundary s =
          .next ((t.mirrorThreads.setRg TWN_EPOCH (BitVec.ofNat 32 n)).sendNumbered 2 (leBytes 4 n ++ t.allDigests.flatMap fun d => leBytes 4 d))) ∧
        (t.mirroring = false → t.standby = true → exec .epochBoundary s =
          .next (t.setTwin { t.twin with awaited := some s.time, digests := s.allDigests })) ∧
        (t.mirroring = false → t.standby = false → exec .epochBoundary s = .next t))) ∧
    (∀ (seq shafts lanes : BitVec 16),
      (s.mirroring = true → exec (.epochAck seq shafts lanes) s =
        .next (s.setTwin { s.twin with seqIn := some seq.toNat, differ := shafts.toNat + 65536 * lanes.toNat })) ∧
      (s.mirroring = false → exec (.epochAck seq shafts lanes) s = .next s)) ∧
    (∀ (i : Fin 16) (t : State), t = s.setTwin { s.twin with part := 0 } →
      (s.mirroring = true → exec (.resyncReq i false) s = .next (t.sendCopy 2 (s.copyEvents (some i.val))) ∧
        exec (.resyncReq i true) s = .next (t.sendCopy 3 (s.copyRecords (some i.val)))) ∧
      (∀ lane, s.mirroring = false → exec (.resyncReq i lane) s = .next s)) ∧
    (∀ late : Bool, late = (follows && (match s.twin.awaited with
        | some t => decide (t + 60000 ≤ s.time)
        | none => false)) →
      (late = false → exec .epochTimeout s = .next s) ∧
      (late = true → exec .epochTimeout s = .next (s.setTwin { s.twin with awaited := none }).goStale)) ∧
    (∀ over_ : Bool, over_ = (follows && decide (s.mirState = 2) && s.twin.joined && s.twin.epochDone) →
      (over_ = false → exec .joiningEnd s = .next s) ∧
      (over_ = true → exec .joiningEnd s = .next (s.setMir mirInSync)))

/-- GOVERNOR_PERIOD, LEVEL_CHANGE_END, GRANT_RECLASSIFICATION, THERMAL_TRIP, WATCH_ENTRY, WATCH_EXIT and ALARM (R424 to R442). -/
def Obligations.PowerGovernorAndWatch : Prop :=
  ∀ s : State,
    (s.awake = true →
      (∀ (p : Nat) (j : Junctions) (t u : State) (rung credit : Nat) (boost : Bool),
        t = ((s.takePin p).takeJunctions j).takeGrant → rung = ladder (s.fld PWR_STAT PWR_STAT_RUNG) j.top.2 →
        credit = ({ t with periodNo := t.periodNo + 1 } : State).credit → boost = (decide (1 ≤ credit) && decide (j.top.2 < 16 * 95)) →
        u = ((({ t with periodNo := t.periodNo + 1 } : State).takeRung rung).setFld PWR_CREDIT PWR_CREDIT_CREDIT credit).setFlag PWR_STAT
          PWR_STAT_BOOST_OK boost →
        (rung = 4 → exec (.governorPeriod p j) s = .next (u.thermalTrip j.top.1 j.top.2)) ∧
        (rung ≠ 4 → ∀ (use peak lim old shed w1 w2 w3 want : Nat) (holdB holdC : Bool),
          use = u.useNow → peak = u.peakNow → lim = (if s.level = 0 then peak else use) → old = u.fld PWR_STAT PWR_STAT_SHED →
          shed = (if lim < p ∧ old < 3 then old + 1 else if p ≤ 9 * lim / 10 ∧ 0 < old then old - 1 else old) →
          w1 = (if ¬boost ∨ 2 ≤ rung then max (u.fld PWR_CFG PWR_CFG_PMIN) 1 else u.fld PWR_CFG PWR_CFG_PMIN) →
          w2 = (if 3 ≤ rung then max w1 2 else w1) →
          w3 = (if shed = 3 then max w2 (if lim < p then min (s.level + 1) 3 else s.level) else w2) →
          want = (if u.tripped then 3 else min (u.slower p use peak 4 w3) u.floorLevel) →
          holdB = (decide (2 ≤ shed) || decide (2 ≤ rung)) → holdC = (decide (1 ≤ shed) || decide (1 ≤ rung)) →
          ∀ v w : State,
            v = ((((u.setFld PWR_STAT PWR_STAT_SHED shed).setFld PWR_STAT PWR_STAT_FLOOR u.floorLevel).takeCritical
              (decide (shed = 3) && decide (lim < p) && decide (s.level = u.floorLevel)) (decide (p ≤ lim))).setLevel want).writeHolds
              holdB holdC →
            w = (if want = 0 then v.noteBoost.bumpTally tallyBoostMs 1 else v) →
            exec (.governorPeriod p j) s =
              .next ((w.setFld POL_SCRUB POL_SCRUB_RATE (if holdC then 0 else min 15 (1 + (lim - p) / 500))).setFld
                FBP_SUP_BUDGET FBP_SUP_BUDGET_ALLOW (min 6000 ((use - v.demandNoSup) * 4 / 5))))) ∧
      (s.levelTo = none → exec .levelChangeEnd s = .next s) ∧
      (∀ l k, s.levelTo = some (l, k) → exec .levelChangeEnd s = .next (({ s with levelTo := none } : State).showLevel l)) ∧
      (∀ mw, exec (.grantReclassification mw) s = .next (s.setFld PWR_GRANT_PD PWR_GRANT_PD_PD (min 65535 mw)).takeGrant) ∧
      (∀ (i : Fin 6) (k : Int), exec (.thermalTrip i k) s =
        .next ((((s.faultF3 fltThermalTrip i (unsigned 32 k)).stopThreads).cmpOff).setLevel 3).settle)) ∧
    (s.watchNext = none → exec .watchEntry s = .next s) ∧
    (∀ since, s.watchNext = some since → ∃ t, exec .watchEntry s = .next t ∧ t.power = .watch ∧ t.watchNext = none ∧ t.aon = 0 ∧
      t.ntf = [] ∧ t.canary.run = .idle ∧ t.canary.v = [] ∧ t.liveWas = false) ∧
    (s.wakeDue = false → exec .watchExit s = .next s) ∧
    (s.wakeDue = true → ∀ t, t = s.watchWake →
      (t.flag PWR_WATCH_CFG PWR_WATCH_CFG_RECALL = false → exec .watchExit s = .next t) ∧
      (t.flag PWR_WATCH_CFG PWR_WATCH_CFG_RECALL = true →
        exec .watchExit s = .next (t.recall (t.fld PWR_WATCH_CFG PWR_WATCH_CFG_SLOT)).1)) ∧
    (∀ n, n = s.fld PWR_WATCH_CFG PWR_WATCH_CFG_ALARM →
      let due : Bool := decide (s.power = .watch) && decide (n ≠ 0) && decide (n * 32768 ≤ s.aon) &&
        !bitOf (s.fld PWR_WAKE PWR_WAKE_MASK) 2
      (due = false → exec .alarm s = .next s) ∧ (due = true → exec .alarm s = .next (s.wakeEvent 3)))

/-- CANARY_EDGE, CANARY_RUN, CANARY_TEST and CANARY_LOAD (R446 to R457). -/
def Obligations.CanaryEdgesRunsAndLoad : Prop :=
  ∀ s : State,
    (∀ (n : Fin 4) (a b dirX dirA fast : Bool) (x : CanDec), x = s.canDec n →
      (s.power ≠ .watch ∨ x.counted = false → exec (.canaryEdge n a b dirX dirA fast) s = .next s) ∧
      (s.power = .watch → x.counted = true →
        ∀ (p : Nat) (va vb inv rev bad : Bool) (d : Int × Bool) (y : CanDec) (t u v : State),
          p = s.shc n SHF_CFG_PORT → va = s.afterInv p 0 a → vb = s.afterInv p 1 b → inv = s.flag (SHF_MOTION n) SHF_MOTION_DIR_INV →
          d = (if fast then (0, true) else canDelta (s.portMode p) (s.pcf p FBP_CFG_EDGE) x.lvA x.lvB va vb) →
          rev = (if s.shc n SHF_CFG_DIR_SRC = 1 then s.afterInv p 3 dirX != inv
            else if s.shc n SHF_CFG_DIR_SRC = 2 then s.afterInv (s.shc n SHF_CFG_DIR_PORT) 0 dirA != inv else false) →
          y = (if s.shaftSrc n = 1 then canIncr x d.1 else if d.1 = 0 then x else s.canTooth n x rev) →
          bad = d.2 →
          t = s.setCanDec n { y with lvA := va, lvB := vb, ovr := y.ovr || fast, clean := y.clean && !bad } →
          u = (if bad then t.count (CAN_SH_STAT n) CAN_SH_STAT_QERR 1 else t) →
          v = (if s.flag (CAN_SH_CFG n) CAN_SH_CFG_MOT_WAKE ∧ s.fld (CAN_SH_CFG n) CAN_SH_CFG_MOT ≤ y.net.natAbs ∧ x.net ≠ y.net then
            u.canWake 1 n 0 else u) →
          (bad = true → x.clean = true → s.flag (CAN_SH_CFG n) CAN_SH_CFG_DWAKE = true →
            exec (.canaryEdge n a b dirX dirA fast) s = .next (v.canWake 2 n 0)) ∧
          (¬(bad = true ∧ x.clean = true ∧ s.flag (CAN_SH_CFG n) CAN_SH_CFG_DWAKE = true) →
            exec (.canaryEdge n a b dirX dirA fast) s = .next v))) ∧
    (∀ (i : CanInputs),
      let due : Bool := decide (s.power = .watch) && s.flag CAN_CFG CAN_CFG_EN && decide (s.canary.run = .idle) && s.wakeAt.isNone &&
        decide (s.canary.lastRun + s.fld CAN_CFG CAN_CFG_PERIOD ≤ s.aon)
      (due = false → exec (.canaryRun i) s = .next s) ∧
      (due = true → ∀ (lv moved : Nat) (t : State) (net : Nat → Nat × Word) (tj : Nat → Int → Nat × Word), lv = s.canLevels i →
        moved = (if i.bsOk then Nat.lor (Nat.land i.moved.toNat s.canInputLines) (Nat.xor lv s.canary.levels) else 0) →
        t = s.setRg CAN_RUNS (s.rg CAN_RUNS + 1) →
        net = (fun n => (n, if (s.canDec n).counted then BitVec.ofInt 32 (s.canDec n).net else 0)) →
        tj = (fun k v => (8 + k, BitVec.ofInt 32 v)) →
        exec (.canaryRun i) s = .next (({ t with canary := { t.canary with levels := lv, lastRun := s.aon / s.fld CAN_CFG CAN_CFG_PERIOD * s.fld CAN_CFG CAN_CFG_PERIOD } } : State).canBegin .watch
          [net 0, net 1, net 2, net 3, (4, BitVec.ofNat 32 (lv + b2n i.bsOk * 2 ^ 16 + b2n i.bankEn * 2 ^ 17)), (5, BitVec.ofNat 32 moved),
            tj 0 i.tj0, tj 1 i.tj1, tj 2 i.tj2, tj 3 i.tj3, tj 4 i.tj4, tj 5 i.tj5, (14, BitVec.ofNat 32 i.pin),
            (15, BitVec.ofNat 32 (s.aon / 32768)), (16, s.rg CAN_RUNS + 1)]))) ∧
    (s.awake = true →
      (s.canary.run ≠ .idle → exec .canaryTest s = .next (s.done .ok 0 [])) ∧
      (s.canary.run = .idle → ∀ (lv : Nat) (t : State), lv = (List.range 16).foldl (fun n k => n + b2n (s.line k) * 2 ^ k) 0 →
        t = (s.setFld CAN_TEST CAN_TEST_WOKE 0).setFld CAN_TEST CAN_TEST_CODE 0 →
        exec .canaryTest s = .next ((t.canBegin .test ((4, BitVec.ofNat 32 (lv + s.fld (FIO_BANK_STAT 0) FIO_BANK_STAT_BS_OK * 2 ^ 16 +
            s.fld (FIO_BANK_STAT 0) FIO_BANK_STAT_BANK_EN * 2 ^ 17)) :: (14, BitVec.ofNat 32 (s.fld PWR_PIN PWR_PIN_PIN)) ::
          ((List.range 6).map fun k => (8 + k, BitVec.ofInt 32 (signed 16 (s.fld (PWR_TJ k) PWR_TJ_T)))))).done .ok 0 []))) ∧
    (∀ (h : CmdHead) (arg : BitVec 32) (body : List Byte) (a n off : Nat) (c : CmdRec) (r : State) (fl : Flight), a = arg.toNat →
      n = leAt body 0 4 → off = a % 256 → c = h.record 0x58 a body → s.takes h c = true → r = s.heard h c → fl = s.flightOf h c →
      let read (st : Status) (bs : List Byte) : Prop := exec (.canaryLoad h arg body) s = .next (r.replied fl st 0 bs)
      let ends (u : State) (st : Status) : Prop := exec (.canaryLoad h arg body) s = .next (u.ended fl st 0 [])
      (bitOf a 8 = true →
        (512 ≤ a ∨ body.length ≠ 4 ∨ n < 4 ∨ 1024 < n ∨ n % 4 ≠ 0 ∨ 256 < off + n / 4 → read .range []) ∧
        (a < 512 → body.length = 4 → 4 ≤ n → n ≤ 1024 → n % 4 = 0 → off + n / 4 ≤ 256 →
          read .ok (bytesOfWords ((List.range (n / 4)).map fun i => r.canWordAt (off + i))))) ∧
      (bitOf a 8 = false →
        ∀ (bad : Prop) (ws : List Word), bad = (512 ≤ a ∨ body.length < 4 ∨ 1024 < body.length ∨ body.length % 4 ≠ 0 ∨ 256 < off + body.length / 4) →
          ws = wordsOf body (body.length / 4) →
        (bad → ends r .range) ∧
        (¬bad → (ws.any fun w => !(CanWord.ofWord w).legal (canOp w)) = true → ends r .range) ∧
        (¬bad → (ws.any fun w => !(CanWord.ofWord w).legal (canOp w)) = false → r.power ≠ .watch →
          ∀ (prog : FMap Word) (t : State), prog = (ws.foldl (fun (p : Nat × FMap Word) w => (p.1 + 1, FMap.set (fun _ => 0) p.2 p.1 w)) (off, r.canary.prog)).2 →
            t = { r with canary := { r.canary with prog := prog } } →
            (off = 0 → ends (t.setFlag CAN_STAT CAN_STAT_PROG_OK true) .ok) ∧ (off ≠ 0 → ends t .ok))))

/-- TALLY_SET, TALLY_FLUSH, TALLY_FLUSH_CMD, CALENDAR_SET, CALENDAR_ADJUSTMENT, CALENDAR_VALIDITY_CHANGE, BATT_LOW,
GAP_RECORD_READ, STORE_OPEN, STORE_APPEND, STORE_CLOSE, STORE_ERASE, STORE_LOCK, STORE_UNLOCK and RECALL_CONFIG (R461 to R474). -/
def Obligations.TalliesCalendarAndStore : Prop :=
  ∀ s : State,
    (s.awake = true →
      (∀ i : BitVec 14,
        (10436 ≤ i.toNat → exec (.tallySet i) s = .next (s.done .range 0 [])) ∧
        (10432 ≤ i.toNat → i.toNat < 10436 → exec (.tallySet i) s = .next (s.done .access 0 [])) ∧
        (i.toNat < 10432 → exec (.tallySet i) s = .next ((s.setTally i.toNat (s.rg64 TAL_SET_LO)).done .ok 0 []))) ∧
      (∀ t : State, t = { s with tallyMram := s.tallies, lastFlush := s.time } →
        exec .tallyFlush s = .next t ∧ exec .tallyFlushCmd s = .next (t.done .ok 0 [])) ∧
      (s.flag CAL_REF_CTL CAL_REF_CTL_DISC_EN = true → exec .calendarSet s = .next (s.done .state 0 [])) ∧
      (s.flag CAL_REF_CTL CAL_REF_CTL_DISC_EN = false → ∀ t : State,
        t = { s with
              cal := (s.fld CAL_SET_HI CAL_SET_HI_SET_HI * 2 ^ 32 + (s.rg CAL_SET_LO).toNat) * fsSecond
              calErr := 0
              calSet := true } →
        exec .calendarSet s = .next (t.calAdjust.calCheck.calHold.done .ok 0 [])) ∧
      (s.gaps = [] → exec .gapRecordRead s = .next (s.done .ok 0 (bytesOfWords (List.replicate 8 0)))) ∧
      (∀ g gs, s.gaps = g :: gs → exec .gapRecordRead s = .next (({ s with gaps := gs } : State).done .ok 0 (bytesOfWords g.words)))) ∧
    (∀ leaps ofs : Int, leaps = s.leapsAt s.calSec → ofs = s.offsetAt s.calSec →
      (leaps = s.leapNow → ofs = s.offsetNow → exec .calendarAdjustment s = .next s) ∧
      (leaps ≠ s.leapNow ∨ ofs ≠ s.offsetNow → exec .calendarAdjustment s =
        .next (({ s with leapNow := leaps } : State).setFld CAL_OFS CAL_OFS_OFS_NOW (unsigned 16 ofs)))) ∧
    (∀ t, t = (s.setFlag CAL_STAT CAL_STAT_VALID s.calValid).raise 1784 (b2n s.calValid) →
      (s.flag CAL_STAT CAL_STAT_VALID = s.calValid → exec .calendarValidityChange s = .next s) ∧
      (s.flag CAL_STAT CAL_STAT_VALID = false → s.calValid = true → exec .calendarValidityChange s =
        .next (({ (t.faultEnd fltCalInvalid 0) with noDateOn := false } : State).faultEnd fltNoDate 0)) ∧
      (s.flag CAL_STAT CAL_STAT_VALID = true → s.calValid = false → exec .calendarValidityChange s =
        .next (t.faultRaise fltCalInvalid 0 0 0))) ∧
    (exec .battLow s = .next (((s.latch CAL_STAT CAL_STAT_BATT_LOW).raiseFree 1789).faultRaise fltBattLow 0 1 0)) ∧
    (∀ (h : CmdHead) (slot : BitVec 4) (n : Nat), n = slot.toNat →
      let ends (i : Instr) (c : CmdRec) (u : State) (st : Status) : Prop := exec i s = .next (u.ended (s.flightOf h c) st 0 [])
      (∀ c r, c = h.record 0x60 n [] → s.hears h c = true → r = s.heard h c →
        ends (.storeOpen h slot) c (r.setSlot n { Slot.init with opened := true }) .ok) ∧
      (∀ (body : List Byte) c r, c = h.record 0x60 (0x100 + n) body → s.hears h c = true → r = s.heard h c →
        (appendOk body = false → ends (.storeAppend h slot body) c r .range) ∧
        (appendOk body = true → (r.slot n).opened = false → ends (.storeAppend h slot body) c r .state) ∧
        (appendOk body = true → (r.slot n).opened = true → 458752 < (r.slot n).recs.length + (pad4 body).length →
          ends (.storeAppend h slot body) c r .nospace) ∧
        (appendOk body = true → (r.slot n).opened = true → (r.slot n).recs.length + (pad4 body).length ≤ 458752 →
          ends (.storeAppend h slot body) c (r.setSlot n { r.slot n with recs := (r.slot n).recs ++ pad4 body }) .ok)) ∧
      (∀ c r, c = h.record 0x60 (0x200 + n) [] → s.hears h c = true → r = s.heard h c →
        ((r.slot n).opened = false → ends (.storeClose h slot) c r .state) ∧
        ((r.slot n).opened = true → ends (.storeClose h slot) c
          (r.setSlot n { r.slot n with opened := false, sealCrc := some (crc32c (r.slot n).recs) }) .ok)) ∧
      (∀ c r, c = h.record 0x60 (0x300 + n) [] → s.hears h c = true → r = s.heard h c →
        ends (.storeErase h slot) c (r.setSlot n Slot.init) .ok) ∧
      (∀ c r, c = h.record 0x60 (0x400 + n) [] → s.hears h c = true → r = s.heard h c →
        (n ≠ 0 → ends (.storeLock h slot) c r .range) ∧
        (n = 0 → r.addrReg = 0 → ends (.storeLock h slot) c r .state) ∧
        (n = 0 → r.addrReg ≠ 0 → ends (.storeLock h slot) c
          (({ r with lockRec := some r.addrReg } : State).setFlag GLB_ADDR GLB_ADDR_LOCKED true) .ok)) ∧
      (∀ c r, c = h.record 0x60 (0x500 + n) [] → s.hears h c = true → r = s.heard h c →
        (n ≠ 0 → ends (.storeUnlock h slot) c r .range) ∧
        (n = 0 → ends (.storeUnlock h slot) c (({ r with lockRec := none } : State).setFlag GLB_ADDR GLB_ADDR_LOCKED false) .ok))) ∧
    (∀ (h : CmdHead) (arg : BitVec 32) (body : List Byte) (a : Nat) (c : CmdRec) (r : State) (x : Slot), a = arg.toNat →
      c = h.record 0x61 a body → s.hears h c = true → r = s.heard h c → x = r.slot a →
      let ends (u : State) (st : Status) (result : Nat) (bs : List Byte) : Prop :=
        exec (.recallConfig h arg body) s = .next (u.ended (s.flightOf h c) st result bs)
      (16 ≤ a → ends r .range 0 []) ∧
      (a < 16 → x.sealCrc = none → ends r .state 0 []) ∧
      (∀ k, a < 16 → x.sealCrc = some k → k ≠ crc32c x.recs → ends r .crc 0 []) ∧
      (∀ u n, a < 16 → x.sealCrc = some (crc32c x.recs) →
        (r.replayAll (parseRecords x.recs.length x.recs) 0 = (u, n, none) → ends u .ok n []) ∧
        (∀ st op, r.replayAll (parseRecords x.recs.length x.recs) 0 = (u, n, some (st, op)) →
          ends u st n (leBytes 2 n ++ [BitVec.ofNat 8 op, 0]))))

/-- READY, POWER_UP, BOOT_TIMEOUT, HOLD_OK_RISE, HOLD_OK_FALL, POWER_LOSS, INPUT_HIGH, INPUT_HIGH_CLEAR, WATCHDOG, FAULT_LOG_FLUSH,
FAULT_LOG_SELECT, FAULT_LOG_LOADED and CORE_POWER_REMOVED (R481, R482, R492, R493, R500, R501, R505, R506). -/
def Obligations.StartShutdownAndFaultLog : Prop :=
  ∀ s : State,
    let cold (t : State) (mw : Nat) : State :=
      (((((t.coldReset 0).setFlag GLB_STATUS GLB_STATUS_HOLD_OK false).setFld PWR_GRANT_PD PWR_GRANT_PD_PD (satTo 65535 mw)).takeGrant).startImage).bumpTally
        tallyPowerCycles 1
    (∀ mw : Nat,
      (s.power = .off → exec (.powerUp mw) s = .next (cold s mw)) ∧
      (s.power ≠ .off → s.shutdown = true → exec (.powerUp mw) s = .next { s with boot := { s.boot with back := some mw } }) ∧
      (s.power ≠ .off → s.shutdown = false → exec (.powerUp mw) s = .next s)) ∧
    ((s.shutdown = true ∨ s.power = .off → exec .powerLoss s = .next s) ∧
      (s.shutdown = false → s.power ≠ .off → ∀ t u : State,
        t = ({ s with shutdown := true, boot := { s.boot with downAt := s.time, back := none } } : State).liveSettle →
        u = t.yieldTwin.faultEvent 0x0106 0 0 0x0106 →
        exec .powerLoss s = .next ((((u.stopThreads.cmpOff).dmaAbortAll).setLevel 3).tallyFlush.reserveAll.logWrite))) ∧
    ((s.shutdown = false → exec .corePowerRemoved s = .next s) ∧
      (s.shutdown = true → s.boot.back = none → exec .corePowerRemoved s = .next { s with power := .off }) ∧
      (∀ mw, s.shutdown = true → s.boot.back = some mw → exec .corePowerRemoved s = .next (cold { s with power := .off } mw))) ∧
    (∀ due : Prop, due = (s.power = .run ∧ s.ready = false ∧ s.noImage = false ∧ s.lowPower = false ∧ s.shutdown = false ∧ s.addressReady = true) →
      (¬due → exec .ready s = .next s) ∧
      (due → ∀ (r t : State) (h : Nat), r = s.firmwareRoutes →
        t = (if r.flag TAL_CFG TAL_CFG_AUTO_EN = true then (r.recall (r.fld TAL_CFG TAL_CFG_AUTO_SLOT)).1 else r).setFlag GLB_STATUS GLB_STATUS_READY true →
        h = t.fld FAB_STAT FAB_STAT_DLHOST →
        exec .ready s = .next (t.sendReport (if h = 0 then 0xFFFF else h) 0))) ∧
    (s.awake = true →
      (∀ late : Prop, late = (s.bootProgress = true ∧ 30 * ticksS ≤ s.boot.progress) →
        (¬late → exec .bootTimeout s = .next s) ∧
        (late → ∀ (n : Nat) (b : Bool) (t u : State), n = s.boot.starts + 1 → b = s.flag GLB_STATUS GLB_STATUS_IMAGE →
          t = (if s.flag GLB_BOOT GLB_BOOT_FALLBACK then s else s.setFld GLB_BOOT GLB_BOOT_ATTEMPTS (Nat.min n 3)) →
          u = { t with boot := { t.boot with progress := 0, starts := 0, failedA := t.boot.failedA || !b, failedB := t.boot.failedB || b } } →
          (n < 3 → exec .bootTimeout s = .next { t with boot := { t.boot with progress := 0, starts := n } }) ∧
          (3 ≤ n → u.noImage = true → exec .bootTimeout s = .next u) ∧
          (3 ≤ n → u.noImage = false →
            exec .bootTimeout s = .next ((u.startImage.setFlag GLB_BOOT GLB_BOOT_FALLBACK true).faultEvent 0x0103 0 1 0x0103)))) ∧
      (exec .holdOkRise s = .next ((s.setFlag GLB_STATUS GLB_STATUS_HOLD_OK true).faultEnd 0x0104 0)) ∧
      (∀ t, t = s.setFlag GLB_STATUS GLB_STATUS_HOLD_OK false →
        (s.flag GLB_STATUS GLB_STATUS_HOLD_OK = true → s.flag GLB_STATUS GLB_STATUS_OUT_PERMIT = true →
          exec .holdOkFall s = .next (t.faultRaise 0x0104 0 1 0x0104)) ∧
        (s.flag GLB_STATUS GLB_STATUS_HOLD_OK = false ∨ s.flag GLB_STATUS GLB_STATUS_OUT_PERMIT = false → exec .holdOkFall s = .next t)) ∧
      ((s.faultActive 0x0107 0 = true → exec .inputHigh s = .next s) ∧
        (s.faultActive 0x0107 0 = false → exec .inputHigh s = .next (s.faultRaise 0x0107 0 1 0x0107)) ∧
        exec .inputHighClear s = .next (s.faultEnd 0x0107 0)) ∧
      ((s.resetIgnored = true → exec .watchdog s = .next s) ∧
        (s.resetIgnored = false → exec .watchdog s = .next ((s.faultF3 0x0101 0 0x0101).warmReset causeWatchdog))) ∧
      (∀ due : Prop, due = (s.staging ≠ [] ∧ s.logAt + ticksS ≤ s.time) →
        (¬due → exec .faultLogFlush s = .next s) ∧
        (due → exec .faultLogFlush s = .next { s with
          flash := (s.flash ++ s.staging).drop ((s.flash ++ s.staging).length - 4096)
          staging := []
          logAt := s.time })) ∧
      (∀ age : BitVec 12,
        (s.flash.length ≤ age.toNat → exec (.faultLogSelect age) s = .next (s.done .range 0 [])) ∧
        (age.toNat < s.flash.length → ∀ t, t = s.plainWrite (s.wr GLB_FLOG_SEL 0xFFFFFFFF (age.setWidth 32)) →
          exec (.faultLogSelect age) s =
            .next ((({ t with selAt := some s.time } : State).setFlag GLB_FLOG_STAT GLB_FLOG_STAT_BUSY true).done .ok 0 []) ∧
          t.fld GLB_FLOG_SEL GLB_FLOG_SEL_AGE = age.toNat)) ∧
      (∀ good : Bool,
        (s.selAt = none → exec (.faultLogLoaded good) s = .next s) ∧
        (s.selAt ≠ none → ∀ (t : State) (x : Option FaultEntry), t = ({ s with selAt := none } : State).setFlag GLB_FLOG_STAT GLB_FLOG_STAT_BUSY false →
          x = s.flash.reverse[s.fld GLB_FLOG_SEL GLB_FLOG_SEL_AGE]? →
          (∀ e, x = some e → good = true →
            exec (.faultLogLoaded good) s = .next ((List.range 8).foldl (fun u k => u.setRg (GLB_FLOG_E k) ((wordsOf e.bytes 8).getD k 0)) t)) ∧
          (x = none ∨ good = false →
            exec (.faultLogLoaded good) s =
              .next ((List.range 8).foldl (fun u k => u.setRg (GLB_FLOG_E k) ((List.replicate 8 0xFFFFFFFF).getD k 0)) t)))))

/-- R5: "An access to an address that is not 4-byte aligned, or that is not assigned to a register, performs nothing and completes
with E_ADDR." A read of such an address gives 0 to the machine itself. -/
def Obligations.UnassignedAddressesAnswerAddr : Prop :=
  ∀ (s : State) (h : CmdHead) (arg : BitVec 32) (body : List Byte) (v : Word), arg.toNat < 2 ^ 24 →
    (arg.toNat % 4 ≠ 0 ∨ regAt arg.toNat = none) →
    let did (c : Instr) (r : CmdRec) : Prop := exec c s = .next ((s.heard h r).replied (s.flightOf h r) .addr 0 [])
    (∀ c, c = h.record 0x02 arg.toNat body → s.hears h c = true → leAt body 0 4 = 4 → did (.read h arg body) c) ∧
      (∀ c, c = h.record 0x03 arg.toNat body → s.hears h c = true → body.length = 4 → did (.write h arg body) c) ∧
      (∀ c, c = h.record 0x04 arg.toNat body → s.hears h c = true → did (.modify h arg body) c) ∧
      (s.awake = true → ∀ bus, exec (.registerWrite bus arg v) s = .next (s.done .addr 0 []))

/-- The state after a cold reset (R10, R26, R45, R69, R97, R323, R362). Where a Reset column holds a dash, the value is the
model's choice (log 5). -/
def Obligations.StateAfterReset : Prop :=
  (∀ a, State.reset.rg a = match regAt a with
    | some (d, _, _) => d.resetWord
    | none => 0) ∧
    State.reset.memWf = true ∧ State.reset.pool = [] ∧ State.reset.dmem = [] ∧ State.reset.outLive = false ∧
    (∀ i, (State.reset.shaft i).st = .unsync) ∧ (∀ i, (State.reset.event i).st = .free) ∧
    (∀ i, (State.reset.prod i).st = .free) ∧ (∀ g, (State.reset.th g).st = .stopped) ∧
    (∀ i, (State.reset.src i).st = .idle ∧ (State.reset.src i).pend = false) ∧
    (∀ i : Fin 2048, State.reset.srcTarget i = 15) ∧
    (∀ n, (State.reset.sess n).owner = none) ∧ State.reset.txns = [] ∧ State.reset.flights = [] ∧ State.reset.pending = []

/-- Every step keeps the canonical form of the pool and of the data memories, whichever of the commands is at the front of the
queue, and when the engine goes on by itself. The form is the model's own (log 3). -/
def Obligations.MemoryStaysCanonical : Prop :=
  ∀ s t : State, s.memWf = true → step s = .next t → t.memWf = true

/-- The 64-bit words of the Blulet (R118, R120) and the 32-bit words of the Canary (R453), both ways. What an issue finds at its
fetch and its data access is no part of the word. -/
def Obligations.ProgramWordsSpellTheirInstructions : Prop :=
  (∀ (c : Instr) (op : BitVec 8) (i : Issue), bluSpelled c = some (op, i) → i.fetch = .none_ → i.data = .none_ →
    bluCommand i.thread (i.word op) = some c) ∧
  (∀ (g : Fin 256) (w : BitVec 64) (c : Instr), bluCommand g w = some c →
    ∃ op i, bluSpelled c = some (op, i) ∧ i.word op = w ∧ i.thread = g ∧ i.fetch = .none_ ∧ i.data = .none_) ∧
  (∀ (c : Instr) (op : BitVec 6) (w : CanWord), canSpelled c = some (op, w) → canCommand (w.word op) = some c) ∧
  (∀ (w : Word) (c : Instr), canCommand w = some c → ∃ op x, canSpelled c = some (op, x) ∧ CanWord.word x op = w)
end

