-- ==== Sys2Proof/Laws/Maps.lean ====
section
/-! SUPPORT. Sparse maps: what a key holds after a key has been set, and the canonical form through every change. -/

namespace Sys2Proof.Machine

theorem FMap.find_insert {α : Type} (m : FMap α) (k j : Nat) (v : α) :
    FMap.find j (FMap.insert k v m) = if j = k then some v else FMap.find j m := by
  induction m with
  | nil => rfl
  | cons e m ih =>
    obtain ⟨i, w⟩ := e
    unfold FMap.insert
    by_cases h1 : k < i
    · simp only [h1, if_true, FMap.find]
    · by_cases h2 : k = i
      · subst h2
        simp only [Nat.lt_irrefl, if_false, if_true, FMap.find]
        by_cases h3 : j = k <;> simp [h3]
      · simp only [h1, h2, if_false, FMap.find, ih]
        by_cases h3 : j = k
        · subst h3; simp [h2]
        · simp [h3]

theorem FMap.find_erase {α : Type} (m : FMap α) (k j : Nat) :
    FMap.find j (FMap.erase k m) = if j = k then none else FMap.find j m := by
  induction m with
  | nil => simp [FMap.erase, FMap.find]
  | cons e m ih =>
    obtain ⟨i, w⟩ := e
    unfold FMap.erase
    by_cases h1 : i = k
    · subst h1
      simp only [if_true, ih, FMap.find]
      by_cases h2 : j = i <;> simp [h2]
    · simp only [h1, if_false, FMap.find, ih]
      by_cases h2 : j = k
      · subst h2; simp [Ne.symm h1]
      · simp [h2]

/-- What a key holds after a key has been set. -/
theorem FMap.get_set {α : Type} [DecidableEq α] (d : Nat → α) (m : FMap α) (k j : Nat) (v : α) :
    FMap.get d (FMap.set d m k v) j = if j = k then v else FMap.get d m j := by
  unfold FMap.get FMap.set
  by_cases h : v = d k
  · simp only [h, if_true, FMap.find_erase]
    by_cases hj : j = k
    · subst hj; simp
    · simp [hj]
  · simp only [h, if_false, FMap.find_insert]
    by_cases hj : j = k
    · subst hj; simp
    · simp [hj]

@[simp] theorem FMap.get_set_self {α : Type} [DecidableEq α] (d : Nat → α) (m : FMap α) (k : Nat) (v : α) :
    FMap.get d (FMap.set d m k v) k = v := by simp [FMap.get_set]

@[simp] theorem FMap.get_set_ne {α : Type} [DecidableEq α] (d : Nat → α) (m : FMap α) {k j : Nat} (v : α) (h : j ≠ k) :
    FMap.get d (FMap.set d m k v) j = FMap.get d m j := by simp [FMap.get_set, h]

@[simp] theorem FMap.get_nil {α : Type} (d : Nat → α) (k : Nat) : FMap.get d [] k = d k := rfl

theorem FMap.above_insert {α : Type} (m : FMap α) (b k : Nat) (v : α) (hb : b < k) (h : FMap.above b m = true) :
    FMap.above b (FMap.insert k v m) = true := by
  induction m generalizing b with
  | nil => simp [FMap.insert, FMap.above, hb]
  | cons e m ih =>
    obtain ⟨i, w⟩ := e
    simp only [FMap.above, Bool.and_eq_true, decide_eq_true_eq] at h
    unfold FMap.insert
    by_cases h1 : k < i
    · simp [h1, FMap.above, hb, h.2]
    · by_cases h2 : k = i
      · subst h2; simp [FMap.above, h.1, h.2]
      · have h3 : i < k := by omega
        simp [h1, h2, FMap.above, h.1, ih i h3 h.2]

theorem FMap.above_mono {α : Type} (m : FMap α) (a b : Nat) (hab : a < b) (h : FMap.above b m = true) :
    FMap.above a m = true := by
  cases m with
  | nil => rfl
  | cons e m =>
    obtain ⟨i, w⟩ := e
    simp only [FMap.above, Bool.and_eq_true, decide_eq_true_eq] at h ⊢
    exact ⟨by omega, h.2⟩

theorem FMap.above_erase {α : Type} (m : FMap α) (b k : Nat) (h : FMap.above b m = true) :
    FMap.above b (FMap.erase k m) = true := by
  induction m generalizing b with
  | nil => rfl
  | cons e m ih =>
    obtain ⟨i, w⟩ := e
    simp only [FMap.above, Bool.and_eq_true, decide_eq_true_eq] at h
    unfold FMap.erase
    by_cases h1 : i = k
    · rw [if_pos h1]; exact FMap.above_mono _ b i h.1 (ih i h.2)
    · rw [if_neg h1]; simp [FMap.above, h.1, ih i h.2]

theorem FMap.lean_insert {α : Type} [DecidableEq α] (d : Nat → α) (m : FMap α) (k : Nat) (v : α) (hv : v ≠ d k)
    (h : FMap.lean d m = true) : FMap.lean d (FMap.insert k v m) = true := by
  induction m with
  | nil => simp [FMap.insert, FMap.lean, hv]
  | cons e m ih =>
    obtain ⟨i, w⟩ := e
    simp only [FMap.lean, Bool.and_eq_true, decide_eq_true_eq] at h
    unfold FMap.insert
    by_cases h1 : k < i
    · simp [h1, FMap.lean, hv, h.1, h.2]
    · by_cases h2 : k = i
      · subst h2; simp [FMap.lean, hv, h.2]
      · simp [h1, h2, FMap.lean, h.1, ih h.2]

theorem FMap.lean_erase {α : Type} [DecidableEq α] (d : Nat → α) (m : FMap α) (k : Nat) (h : FMap.lean d m = true) :
    FMap.lean d (FMap.erase k m) = true := by
  induction m with
  | nil => rfl
  | cons e m ih =>
    obtain ⟨i, w⟩ := e
    simp only [FMap.lean, Bool.and_eq_true, decide_eq_true_eq] at h
    unfold FMap.erase
    by_cases h1 : i = k
    · rw [if_pos h1]; exact ih h.2
    · rw [if_neg h1]; simp [FMap.lean, h.1, ih h.2]

/-- Setting a key keeps the canonical form. -/
theorem FMap.wf_set {α : Type} [DecidableEq α] (d : Nat → α) (m : FMap α) (k : Nat) (v : α) (h : FMap.wf d m = true) :
    FMap.wf d (FMap.set d m k v) = true := by
  simp only [FMap.wf, Bool.and_eq_true] at h ⊢
  unfold FMap.set
  by_cases hv : v = d k
  · rw [if_pos hv]
    refine ⟨?_, FMap.lean_erase d m k h.2⟩
    cases m with
    | nil => rfl
    | cons e m =>
      obtain ⟨i, w⟩ := e
      have h1 : FMap.above i m = true := h.1
      unfold FMap.erase
      by_cases h2 : i = k
      · rw [if_pos h2]
        have h3 := FMap.above_erase m i k h1
        cases hm : FMap.erase k m with
        | nil => rfl
        | cons x xs =>
          rw [hm] at h3
          simp only [FMap.above, Bool.and_eq_true, decide_eq_true_eq] at h3
          exact h3.2
      · rw [if_neg h2]; exact FMap.above_erase m i k h1
  · rw [if_neg hv]
    refine ⟨?_, FMap.lean_insert d m k v hv h.2⟩
    cases m with
    | nil => rfl
    | cons e m =>
      obtain ⟨i, w⟩ := e
      have h1 : FMap.above i m = true := h.1
      unfold FMap.insert
      by_cases h2 : k < i
      · simp [h2, FMap.sorted, FMap.above, h1]
      · by_cases h3 : k = i
        · subst h3; simp [FMap.sorted, h1]
        · simp only [h2, h3, if_false, FMap.sorted]
          exact FMap.above_insert m i k v (by omega) h1

end Sys2Proof.Machine
end

