-- ==== Sys2Proof/Laws/Access.lean ====
section
/-! SUPPORT. The parts of the units by number: what is read after one has been replaced. -/

namespace Sys2Proof.Machine

@[simp] theorem State.th_setTh (s : State) (n m : Nat) (x : Thread) : (s.setTh n x).th m = if m = n then x else s.th m :=
  FMap.get_set _ _ _ _ _

@[simp] theorem State.gen_setGen (s : State) (n m : Nat) (x : SerialGen) : (s.setGen n x).gen m = if m = n then x else s.gen m :=
  FMap.get_set _ _ _ _ _

@[simp] theorem State.dma_setDma (s : State) (n m : Nat) (x : Dma) : (s.setDma n x).dma m = if m = n then x else s.dma m :=
  FMap.get_set _ _ _ _ _

@[simp] theorem State.shaft_setShaft (s : State) (n m : Nat) (x : Shaft) : (s.setShaft n x).shaft m = if m = n then x else s.shaft m :=
  FMap.get_set _ _ _ _ _

@[simp] theorem State.port_setPort (s : State) (n m : Nat) (x : Port) : (s.setPort n x).port m = if m = n then x else s.port m :=
  FMap.get_set _ _ _ _ _

@[simp] theorem State.cell_setCell (s : State) (n m : Nat) (x : Cell) : (s.setCell n x).cell m = if m = n then x else s.cell m :=
  FMap.get_set _ _ _ _ _

@[simp] theorem State.event_setEvent (s : State) (n m : Nat) (x : AlmEvent) : (s.setEvent n x).event m = if m = n then x else s.event m :=
  FMap.get_set _ _ _ _ _

@[simp] theorem State.out_setOut (s : State) (n m : Nat) (x : Output) : (s.setOut n x).out m = if m = n then x else s.out m :=
  FMap.get_set _ _ _ _ _

@[simp] theorem State.chain_setChain (s : State) (n m : Nat) (x : Chain) : (s.setChain n x).chain m = if m = n then x else s.chain m :=
  FMap.get_set _ _ _ _ _

@[simp] theorem State.pwm_setPwm (s : State) (n m : Nat) (x : Pwm) : (s.setPwm n x).pwm m = if m = n then x else s.pwm m :=
  FMap.get_set _ _ _ _ _

@[simp] theorem State.trip_setTrip (s : State) (n m : Nat) (x : TripIn) : (s.setTrip n x).trip m = if m = n then x else s.trip m :=
  FMap.get_set _ _ _ _ _

@[simp] theorem State.adc_setAdc (s : State) (n m : Nat) (x : Adc) : (s.setAdc n x).adc m = if m = n then x else s.adc m :=
  FMap.get_set _ _ _ _ _

@[simp] theorem State.src_setSrc (s : State) (n m : Nat) (x : NtfSrc) : (s.setSrc n x).src m = if m = n then x else s.src m :=
  FMap.get_set _ _ _ _ _

@[simp] theorem State.sess_setSess (s : State) (n m : Nat) (x : Session) : (s.setSess n x).sess m = if m = n then x else s.sess m :=
  FMap.get_set _ _ _ _ _

@[simp] theorem State.slot_setSlot (s : State) (n m : Nat) (x : Slot) : (s.setSlot n x).slot m = if m = n then x else s.slot m :=
  FMap.get_set _ _ _ _ _

@[simp] theorem State.prod_setProd (s : State) (n m : Nat) (x : Product) : (s.setProd n x).prod m = if m = n then x else s.prod m :=
  FMap.get_set _ _ _ _ _

@[simp] theorem State.lane_setLane (s : State) (n m : Nat) (x : EphLane) : (s.setLane n x).lane m = if m = n then x else s.lane m :=
  FMap.get_set _ _ _ _ _

@[simp] theorem State.ras_setRas (s : State) (n m : Nat) (x : RasLane) : (s.setRas n x).ras m = if m = n then x else s.ras m :=
  FMap.get_set _ _ _ _ _

@[simp] theorem State.tally_setTally (s : State) (n m : Nat) (x : Nat) : (s.setTally n x).tally m = if m = n then x else s.tally m :=
  FMap.get_set _ _ _ _ _

@[simp] theorem State.edgeQ_setEdgeQ (s : State) (n m : Nat) (x : List QEdge) : (s.setEdgeQ n x).edgeQ m = if m = n then x else s.edgeQ m :=
  FMap.get_set _ _ _ _ _

end Sys2Proof.Machine
end

