-- ==== Sys2Proof/Laws/Keep.lean ====
section
/-! SUPPORT. Stores that an operation leaves as they are: the laws of choices, lists and units over which an operation is
repeated. -/

namespace Sys2Proof.Machine

section
variable {α : Type}

@[simp] theorem ite_pool (c : Prop) [Decidable c] (s t : State) :
    (if c then s else t).pool = if c then s.pool else t.pool := apply_ite State.pool c s t
@[simp] theorem ite_dmem (c : Prop) [Decidable c] (s t : State) :
    (if c then s else t).dmem = if c then s.dmem else t.dmem := apply_ite State.dmem c s t
@[simp] theorem ite_imem (c : Prop) [Decidable c] (s t : State) :
    (if c then s else t).imem = if c then s.imem else t.imem := apply_ite State.imem c s t
@[simp] theorem ite_pending (c : Prop) [Decidable c] (s t : State) :
    (if c then s else t).pending = if c then s.pending else t.pending := apply_ite State.pending c s t
@[simp] theorem ite_fst {β : Type} (c : Prop) [Decidable c] (p q : State × β) :
    (if c then p else q).1 = if c then p.1 else q.1 := apply_ite Prod.fst c p q

theorem foldl_keep {β : Type} (π : State → β) (f : State → α → State) (h : ∀ s a, π (f s a) = π s) (l : List α) (s : State) :
    π (l.foldl f s) = π s := by
  induction l generalizing s with
  | nil => rfl
  | cons a l ih => exact (ih _).trans (h s a)

@[simp] theorem foldl_pool (f : State → α → State) (h : ∀ s a, (f s a).pool = s.pool) (l : List α) (s : State) :
    (l.foldl f s).pool = s.pool := foldl_keep State.pool f h l s
@[simp] theorem foldl_dmem (f : State → α → State) (h : ∀ s a, (f s a).dmem = s.dmem) (l : List α) (s : State) :
    (l.foldl f s).dmem = s.dmem := foldl_keep State.dmem f h l s
@[simp] theorem foldl_imem (f : State → α → State) (h : ∀ s a, (f s a).imem = s.imem) (l : List α) (s : State) :
    (l.foldl f s).imem = s.imem := foldl_keep State.imem f h l s
@[simp] theorem foldl_pending (f : State → α → State) (h : ∀ s a, (f s a).pending = s.pending) (l : List α) (s : State) :
    (l.foldl f s).pending = s.pending := foldl_keep State.pending f h l s

end

@[simp] theorem State.forEach_pool (n : Nat) (f : State → Nat → State) (h : ∀ s a, (f s a).pool = s.pool) (s : State) :
    (State.forEach n f s).pool = s.pool := foldl_pool f h _ s
@[simp] theorem State.forEach_dmem (n : Nat) (f : State → Nat → State) (h : ∀ s a, (f s a).dmem = s.dmem) (s : State) :
    (State.forEach n f s).dmem = s.dmem := foldl_dmem f h _ s
@[simp] theorem State.forEach_imem (n : Nat) (f : State → Nat → State) (h : ∀ s a, (f s a).imem = s.imem) (s : State) :
    (State.forEach n f s).imem = s.imem := foldl_imem f h _ s
@[simp] theorem State.forEach_pending (n : Nat) (f : State → Nat → State) (h : ∀ s a, (f s a).pending = s.pending)
    (s : State) : (State.forEach n f s).pending = s.pending := foldl_pending f h _ s

@[simp] theorem State.overKeys_pool {α : Type} (m : FMap α) (f : State → Nat → State) (h : ∀ s a, (f s a).pool = s.pool)
    (s : State) : (s.overKeys m f).pool = s.pool :=
  foldl_pool (fun t (e : Nat × α) => f t e.1) (fun t e => h t e.1) m s
@[simp] theorem State.overKeys_dmem {α : Type} (m : FMap α) (f : State → Nat → State) (h : ∀ s a, (f s a).dmem = s.dmem)
    (s : State) : (s.overKeys m f).dmem = s.dmem :=
  foldl_dmem (fun t (e : Nat × α) => f t e.1) (fun t e => h t e.1) m s
@[simp] theorem State.overKeys_imem {α : Type} (m : FMap α) (f : State → Nat → State) (h : ∀ s a, (f s a).imem = s.imem)
    (s : State) : (s.overKeys m f).imem = s.imem :=
  foldl_imem (fun t (e : Nat × α) => f t e.1) (fun t e => h t e.1) m s
@[simp] theorem State.overKeys_pending {α : Type} (m : FMap α) (f : State → Nat → State)
    (h : ∀ s a, (f s a).pending = s.pending) (s : State) : (s.overKeys m f).pending = s.pending :=
  foldl_pending (fun t (e : Nat × α) => f t e.1) (fun t e => h t e.1) m s

@[simp] theorem State.inRun_pool (s : State) (f : State → State) (h : ∀ s, (f s).pool = s.pool) :
    (s.inRun f).pool = s.pool := by unfold State.inRun; split <;> simp [h]
@[simp] theorem State.inRun_dmem (s : State) (f : State → State) (h : ∀ s, (f s).dmem = s.dmem) :
    (s.inRun f).dmem = s.dmem := by unfold State.inRun; split <;> simp [h]
@[simp] theorem State.inRun_imem (s : State) (f : State → State) (h : ∀ s, (f s).imem = s.imem) :
    (s.inRun f).imem = s.imem := by unfold State.inRun; split <;> simp [h]
@[simp] theorem State.inRun_pending (s : State) (f : State → State) (h : ∀ s, (f s).pending = s.pending) :
    (s.inRun f).pending = s.pending := by unfold State.inRun; split <;> simp [h]

end Sys2Proof.Machine
end

