-- ==== Sys2Proof/Laws/Keeps.lean ====
section
/-! SUPPORT. What each operation of the model leaves as it is: the buffer pool, the data memories, the instruction memories
and the queue of commands, one lemma for each operation that touches none or only some of them. -/

namespace Sys2Proof.Machine

@[simp] theorem State.setRg_keeps (s : State) (a : Nat) (w : Word) :
    (s.setRg a w).pool = s.pool ∧ (s.setRg a w).dmem = s.dmem ∧ (s.setRg a w).imem = s.imem ∧ (s.setRg a w).pending = s.pending := by simp [State.setRg]
@[simp] theorem State.setFld_keeps (s : State) (a : Nat) (f : Fld) (v : Nat) :
    (s.setFld a f v).pool = s.pool ∧ (s.setFld a f v).dmem = s.dmem ∧ (s.setFld a f v).imem = s.imem ∧ (s.setFld a f v).pending = s.pending := by simp [State.setFld]
@[simp] theorem State.setFlag_keeps (s : State) (a : Nat) (f : Fld) (b : Bool) :
    (s.setFlag a f b).pool = s.pool ∧ (s.setFlag a f b).dmem = s.dmem ∧ (s.setFlag a f b).imem = s.imem ∧ (s.setFlag a f b).pending = s.pending := by simp [State.setFlag]
@[simp] theorem State.setFresh_keeps (s : State) (a : Nat) (x : Fresh) :
    (s.setFresh a x).pool = s.pool ∧ (s.setFresh a x).dmem = s.dmem ∧ (s.setFresh a x).imem = s.imem ∧ (s.setFresh a x).pending = s.pending := by simp [State.setFresh]
@[simp] theorem State.hwSet_keeps (s : State) (a : Nat) (f : Fld) (v : Nat) (p : Nat) :
    (s.hwSet a f v p).pool = s.pool ∧ (s.hwSet a f v p).dmem = s.dmem ∧ (s.hwSet a f v p).imem = s.imem ∧ (s.hwSet a f v p).pending = s.pending := by simp [State.hwSet]
@[simp] theorem State.count_keeps (s : State) (a : Nat) (f : Fld) (k : Nat) :
    (s.count a f k).pool = s.pool ∧ (s.count a f k).dmem = s.dmem ∧ (s.count a f k).imem = s.imem ∧ (s.count a f k).pending = s.pending := by simp [State.count]
@[simp] theorem State.latch_keeps (s : State) (a : Nat) (f : Fld) :
    (s.latch a f).pool = s.pool ∧ (s.latch a f).dmem = s.dmem ∧ (s.latch a f).imem = s.imem ∧ (s.latch a f).pending = s.pending := by simp [State.latch]
@[simp] theorem State.peak_keeps (s : State) (a : Nat) (f : Fld) (v : Nat) :
    (s.peak a f v).pool = s.pool ∧ (s.peak a f v).dmem = s.dmem ∧ (s.peak a f v).imem = s.imem ∧ (s.peak a f v).pending = s.pending := by simp [State.peak]
@[simp] theorem State.setRg64_keeps (s : State) (a : Nat) (n : Nat) :
    (s.setRg64 a n).pool = s.pool ∧ (s.setRg64 a n).dmem = s.dmem ∧ (s.setRg64 a n).imem = s.imem ∧ (s.setRg64 a n).pending = s.pending := by simp [State.setRg64]
@[simp] theorem State.setShaft_keeps (s : State) (n : Nat) (x : Shaft) :
    (s.setShaft n x).pool = s.pool ∧ (s.setShaft n x).dmem = s.dmem ∧ (s.setShaft n x).imem = s.imem ∧ (s.setShaft n x).pending = s.pending := by simp [State.setShaft]
@[simp] theorem State.setPort_keeps (s : State) (n : Nat) (x : Port) :
    (s.setPort n x).pool = s.pool ∧ (s.setPort n x).dmem = s.dmem ∧ (s.setPort n x).imem = s.imem ∧ (s.setPort n x).pending = s.pending := by simp [State.setPort]
@[simp] theorem State.setCell_keeps (s : State) (n : Nat) (x : Cell) :
    (s.setCell n x).pool = s.pool ∧ (s.setCell n x).dmem = s.dmem ∧ (s.setCell n x).imem = s.imem ∧ (s.setCell n x).pending = s.pending := by simp [State.setCell]
@[simp] theorem State.setEvent_keeps (s : State) (i : Nat) (x : AlmEvent) :
    (s.setEvent i x).pool = s.pool ∧ (s.setEvent i x).dmem = s.dmem ∧ (s.setEvent i x).imem = s.imem ∧ (s.setEvent i x).pending = s.pending := by simp [State.setEvent]
@[simp] theorem State.setOut_keeps (s : State) (o : Nat) (x : Output) :
    (s.setOut o x).pool = s.pool ∧ (s.setOut o x).dmem = s.dmem ∧ (s.setOut o x).imem = s.imem ∧ (s.setOut o x).pending = s.pending := by simp [State.setOut]
@[simp] theorem State.setLine_keeps (s : State) (i : Nat) (b : Bool) :
    (s.setLine i b).pool = s.pool ∧ (s.setLine i b).dmem = s.dmem ∧ (s.setLine i b).imem = s.imem ∧ (s.setLine i b).pending = s.pending := by simp [State.setLine]
@[simp] theorem State.setChain_keeps (s : State) (c : Nat) (x : Chain) :
    (s.setChain c x).pool = s.pool ∧ (s.setChain c x).dmem = s.dmem ∧ (s.setChain c x).imem = s.imem ∧ (s.setChain c x).pending = s.pending := by simp [State.setChain]
@[simp] theorem State.setPwm_keeps (s : State) (n : Nat) (x : Pwm) :
    (s.setPwm n x).pool = s.pool ∧ (s.setPwm n x).dmem = s.dmem ∧ (s.setPwm n x).imem = s.imem ∧ (s.setPwm n x).pending = s.pending := by simp [State.setPwm]
@[simp] theorem State.setTrip_keeps (s : State) (i : Nat) (x : TripIn) :
    (s.setTrip i x).pool = s.pool ∧ (s.setTrip i x).dmem = s.dmem ∧ (s.setTrip i x).imem = s.imem ∧ (s.setTrip i x).pending = s.pending := by simp [State.setTrip]
@[simp] theorem State.setAdc_keeps (s : State) (c : Nat) (x : Adc) :
    (s.setAdc c x).pool = s.pool ∧ (s.setAdc c x).dmem = s.dmem ∧ (s.setAdc c x).imem = s.imem ∧ (s.setAdc c x).pending = s.pending := by simp [State.setAdc]
@[simp] theorem State.setSrc_keeps (s : State) (i : Nat) (x : NtfSrc) :
    (s.setSrc i x).pool = s.pool ∧ (s.setSrc i x).dmem = s.dmem ∧ (s.setSrc i x).imem = s.imem ∧ (s.setSrc i x).pending = s.pending := by simp [State.setSrc]
@[simp] theorem State.setSess_keeps (s : State) (n : Nat) (x : Session) :
    (s.setSess n x).pool = s.pool ∧ (s.setSess n x).dmem = s.dmem ∧ (s.setSess n x).imem = s.imem ∧ (s.setSess n x).pending = s.pending := by simp [State.setSess]
@[simp] theorem State.setSlot_keeps (s : State) (n : Nat) (x : Slot) :
    (s.setSlot n x).pool = s.pool ∧ (s.setSlot n x).dmem = s.dmem ∧ (s.setSlot n x).imem = s.imem ∧ (s.setSlot n x).pending = s.pending := by simp [State.setSlot]
@[simp] theorem State.done_keeps (s : State) (st : Status) (result : Nat) (body : List Byte) :
    (s.done st result body).pool = s.pool ∧ (s.done st result body).dmem = s.dmem ∧ (s.done st result body).imem = s.imem ∧ (s.done st result body).pending = s.pending := by simp [State.done]
@[simp] theorem State.permits_keeps (s : State) :
    s.permits.pool = s.pool ∧ s.permits.dmem = s.dmem ∧ s.permits.imem = s.imem ∧ s.permits.pending = s.pending := by simp [State.permits]
@[simp] theorem State.raise_keeps (s : State) (i : Nat) (v : Nat) :
    (s.raise i v).pool = s.pool ∧ (s.raise i v).dmem = s.dmem ∧ (s.raise i v).imem = s.imem ∧ (s.raise i v).pending = s.pending := by simp [State.raise]
@[simp] theorem State.drawn_keeps (s : State) :
    s.drawn.pool = s.pool ∧ s.drawn.dmem = s.dmem ∧ s.drawn.imem = s.imem ∧ s.drawn.pending = s.pending := by simp [State.drawn]
@[simp] theorem State.raiseFree_keeps (s : State) (i : Nat) :
    (s.raiseFree i).pool = s.pool ∧ (s.raiseFree i).dmem = s.dmem ∧ (s.raiseFree i).imem = s.imem ∧ (s.raiseFree i).pending = s.pending := by simp [State.raiseFree]
@[simp] theorem State.raiseSw_keeps (s : State) (i : Nat) :
    (s.raiseSw i).pool = s.pool ∧ (s.raiseSw i).dmem = s.dmem ∧ (s.raiseSw i).imem = s.imem ∧ (s.raiseSw i).pending = s.pending := by simp [State.raiseSw]
@[simp] theorem State.setTally_keeps (s : State) (i : Nat) (v : Nat) :
    (s.setTally i v).pool = s.pool ∧ (s.setTally i v).dmem = s.dmem ∧ (s.setTally i v).imem = s.imem ∧ (s.setTally i v).pending = s.pending := by simp [State.setTally]
@[simp] theorem State.stage_keeps (s : State) (code : Nat) (inst : Nat) (cls : Nat) (detail : Nat) (kind : FaultKind) :
    (s.stage code inst cls detail kind).pool = s.pool ∧ (s.stage code inst cls detail kind).dmem = s.dmem ∧ (s.stage code inst cls detail kind).imem = s.imem ∧ (s.stage code inst cls detail kind).pending = s.pending := by
  unfold State.stage; (repeat' split) <;> simp
@[simp] theorem State.faultEvent_keeps (s : State) (code : Nat) (inst : Nat) (cls : Nat) (detail : Nat) :
    (s.faultEvent code inst cls detail).pool = s.pool ∧ (s.faultEvent code inst cls detail).dmem = s.dmem ∧ (s.faultEvent code inst cls detail).imem = s.imem ∧ (s.faultEvent code inst cls detail).pending = s.pending := by simp [State.faultEvent]
@[simp] theorem State.faultRaise_keeps (s : State) (code : Nat) (inst : Nat) (cls : Nat) (detail : Nat) :
    (s.faultRaise code inst cls detail).pool = s.pool ∧ (s.faultRaise code inst cls detail).dmem = s.dmem ∧ (s.faultRaise code inst cls detail).imem = s.imem ∧ (s.faultRaise code inst cls detail).pending = s.pending := by simp [State.faultRaise]
@[simp] theorem State.faultEnd_keeps (s : State) (code : Nat) (inst : Nat) :
    (s.faultEnd code inst).pool = s.pool ∧ (s.faultEnd code inst).dmem = s.dmem ∧ (s.faultEnd code inst).imem = s.imem ∧ (s.faultEnd code inst).pending = s.pending := by
  unfold State.faultEnd; (repeat' split) <;> simp
@[simp] theorem State.wearCheck_keeps (s : State) (i : Nat) (old : Nat) (new : Nat) (k : Nat) :
    (s.wearCheck i old new k).pool = s.pool ∧ (s.wearCheck i old new k).dmem = s.dmem ∧ (s.wearCheck i old new k).imem = s.imem ∧ (s.wearCheck i old new k).pending = s.pending := by simp [State.wearCheck]
@[simp] theorem State.bumpTally_keeps (s : State) (i : Nat) (k : Nat) :
    (s.bumpTally i k).pool = s.pool ∧ (s.bumpTally i k).dmem = s.dmem ∧ (s.bumpTally i k).imem = s.imem ∧ (s.bumpTally i k).pending = s.pending := by simp [State.bumpTally]
@[simp] theorem State.setActing_keeps (s : State) (a : Nat) (v : Word) :
    (s.setActing a v).pool = s.pool ∧ (s.setActing a v).dmem = s.dmem ∧ (s.setActing a v).imem = s.imem ∧ (s.setActing a v).pending = s.pending := by simp [State.setActing]
@[simp] theorem State.keepActing_keeps (s : State) (a : Nat) :
    (s.keepActing a).pool = s.pool ∧ (s.keepActing a).dmem = s.dmem ∧ (s.keepActing a).imem = s.imem ∧ (s.keepActing a).pending = s.pending := by simp [State.keepActing]
@[simp] theorem State.actNow_keeps (s : State) (a : Nat) :
    (s.actNow a).pool = s.pool ∧ (s.actNow a).dmem = s.dmem ∧ (s.actNow a).imem = s.imem ∧ (s.actNow a).pending = s.pending := by simp [State.actNow]
@[simp] theorem State.markPulse_keeps (s : State) (o : Nat) :
    (s.markPulse o).pool = s.pool ∧ (s.markPulse o).dmem = s.dmem ∧ (s.markPulse o).imem = s.imem ∧ (s.markPulse o).pending = s.pending := by simp [State.markPulse]
@[simp] theorem State.refresh_keeps (s : State) (o : Nat) :
    (s.refresh o).pool = s.pool ∧ (s.refresh o).dmem = s.dmem ∧ (s.refresh o).imem = s.imem ∧ (s.refresh o).pending = s.pending := by simp [State.refresh]
@[simp] theorem State.holdOut_keeps (s : State) (o : Nat) :
    (s.holdOut o).pool = s.pool ∧ (s.holdOut o).dmem = s.dmem ∧ (s.holdOut o).imem = s.imem ∧ (s.holdOut o).pending = s.pending := by simp [State.holdOut]
@[simp] theorem State.holdRange_keeps (s : State) (lo : Nat) (hi : Nat) :
    (s.holdRange lo hi).pool = s.pool ∧ (s.holdRange lo hi).dmem = s.dmem ∧ (s.holdRange lo hi).imem = s.imem ∧ (s.holdRange lo hi).pending = s.pending := by simp [State.holdRange]
@[simp] theorem State.plainWrite_keeps (s : State) (w : Wr) :
    (s.plainWrite w).pool = s.pool ∧ (s.plainWrite w).dmem = s.dmem ∧ (s.plainWrite w).imem = s.imem ∧ (s.plainWrite w).pending = s.pending := by
  unfold State.plainWrite; (repeat' split) <;> simp
@[simp] theorem State.setLink_keeps (s : State) (p : Nat) (x : LinkPort) :
    (s.setLink p x).pool = s.pool ∧ (s.setLink p x).dmem = s.dmem ∧ (s.setLink p x).imem = s.imem ∧ (s.setLink p x).pending = s.pending := by simp [State.setLink]
@[simp] theorem State.freeUnits_keeps (s : State) (p : Nat) (f : Frame) :
    (s.freeUnits p f).pool = s.pool ∧ (s.freeUnits p f).dmem = s.dmem ∧ (s.freeUnits p f).imem = s.imem ∧ (s.freeUnits p f).pending = s.pending := by simp [State.freeUnits]
@[simp] theorem State.moveSettle_keeps (s : State) :
    s.moveSettle.pool = s.pool ∧ s.moveSettle.dmem = s.dmem ∧ s.moveSettle.imem = s.imem ∧ s.moveSettle.pending = s.pending := by
  unfold State.moveSettle; (repeat' split) <;> simp
@[simp] theorem State.leave_keeps (s : State) (p : Nat) (q : Queued) :
    (s.leave p q).pool = s.pool ∧ (s.leave p q).dmem = s.dmem ∧ (s.leave p q).imem = s.imem ∧ (s.leave p q).pending = s.pending := by
  unfold State.leave; (repeat' split) <;> simp
@[simp] theorem State.drainAux_keeps (s : State) (p : Nat) (blocked : List Nat) (a3 : List Queued) :
    (s.drainAux p blocked a3).pool = s.pool ∧ (s.drainAux p blocked a3).dmem = s.dmem ∧ (s.drainAux p blocked a3).imem = s.imem ∧ (s.drainAux p blocked a3).pending = s.pending := by
  fun_induction State.drainAux <;> (repeat' split) <;> simp_all +zetaDelta
@[simp] theorem State.drain_keeps (s : State) (p : Nat) :
    (s.drain p).pool = s.pool ∧ (s.drain p).dmem = s.dmem ∧ (s.drain p).imem = s.imem ∧ (s.drain p).pending = s.pending := by simp [State.drain]
@[simp] theorem State.put_keeps (s : State) (p : Nat) (q : Queued) :
    (s.put p q).pool = s.pool ∧ (s.put p q).dmem = s.dmem ∧ (s.put p q).imem = s.imem ∧ (s.put p q).pending = s.pending := by
  unfold State.put; (repeat' split) <;> simp
@[simp] theorem State.useSeq_keeps (s : State) (dest : Nat) (tc : Nat) :
    (s.useSeq dest tc).pool = s.pool ∧ (s.useSeq dest tc).dmem = s.dmem ∧ (s.useSeq dest tc).imem = s.imem ∧ (s.useSeq dest tc).pending = s.pending := by simp [State.useSeq]
@[simp] theorem State.sendFrom_keeps (s : State) (src : Nat) (kind : Nat) (dest : Nat) (tc : Nat) (session : Nat) (retry : Bool) (body : List Byte) :
    (s.sendFrom src kind dest tc session retry body).pool = s.pool ∧ (s.sendFrom src kind dest tc session retry body).dmem = s.dmem ∧ (s.sendFrom src kind dest tc session retry body).imem = s.imem ∧ (s.sendFrom src kind dest tc session retry body).pending = s.pending := by simp [State.sendFrom]
@[simp] theorem State.send_keeps (s : State) (kind : Nat) (dest : Nat) (tc : Nat) (session : Nat) (body : List Byte) :
    (s.send kind dest tc session body).pool = s.pool ∧ (s.send kind dest tc session body).dmem = s.dmem ∧ (s.send kind dest tc session body).imem = s.imem ∧ (s.send kind dest tc session body).pending = s.pending := by simp [State.send]
@[simp] theorem State.sendOut_keeps (s : State) (p : Nat) (kind : Nat) (tc : Nat) (body : List Byte) :
    (s.sendOut p kind tc body).pool = s.pool ∧ (s.sendOut p kind tc body).dmem = s.dmem ∧ (s.sendOut p kind tc body).imem = s.imem ∧ (s.sendOut p kind tc body).pending = s.pending := by simp [State.sendOut]
@[simp] theorem State.sendLocal_keeps (s : State) (p : Nat) (kind : Nat) (tc : Nat) (body : List Byte) :
    (s.sendLocal p kind tc body).pool = s.pool ∧ (s.sendLocal p kind tc body).dmem = s.dmem ∧ (s.sendLocal p kind tc body).imem = s.imem ∧ (s.sendLocal p kind tc body).pending = s.pending := by simp [State.sendLocal]
@[simp] theorem State.sendMirror_keeps (s : State) (body : List Byte) :
    (s.sendMirror body).pool = s.pool ∧ (s.sendMirror body).dmem = s.dmem ∧ (s.sendMirror body).imem = s.imem ∧ (s.sendMirror body).pending = s.pending := by simp [State.sendMirror]
@[simp] theorem State.sendNumbered_keeps (s : State) (sub : Nat) (rest : List Byte) :
    (s.sendNumbered sub rest).pool = s.pool ∧ (s.sendNumbered sub rest).dmem = s.dmem ∧ (s.sendNumbered sub rest).imem = s.imem ∧ (s.sendNumbered sub rest).pending = s.pending := by simp [State.sendNumbered]
@[simp] theorem State.mirror_keeps (s : State) (kind : Nat) (payload : List Nat) :
    (s.mirror kind payload).pool = s.pool ∧ (s.mirror kind payload).dmem = s.dmem ∧ (s.mirror kind payload).imem = s.imem ∧ (s.mirror kind payload).pending = s.pending := by simp [State.mirror]
@[simp] theorem State.creditBack_keeps (s : State) (n : Nat) (k : Nat) :
    (s.creditBack n k).pool = s.pool ∧ (s.creditBack n k).dmem = s.dmem ∧ (s.creditBack n k).imem = s.imem ∧ (s.creditBack n k).pending = s.pending := by simp [State.creditBack]
@[simp] theorem State.pushReply_keeps (s : State) (n : Nat) (r : Reply) :
    (s.pushReply n r).pool = s.pool ∧ (s.pushReply n r).dmem = s.dmem ∧ (s.pushReply n r).imem = s.imem ∧ (s.pushReply n r).pending = s.pending := by simp [State.pushReply]
@[simp] theorem State.sendReplies_keeps (s : State) (n : Nat) (r : Reply) (rs : List Reply) :
    (s.sendReplies n r rs).pool = s.pool ∧ (s.sendReplies n r rs).dmem = s.dmem ∧ (s.sendReplies n r rs).imem = s.imem ∧ (s.sendReplies n r rs).pending = s.pending := by simp [State.sendReplies]
@[simp] theorem State.sendReply_keeps (s : State) (n : Nat) :
    (s.sendReply n).pool = s.pool ∧ (s.sendReply n).dmem = s.dmem ∧ (s.sendReply n).imem = s.imem ∧ (s.sendReply n).pending = s.pending := by
  unfold State.sendReply; (repeat' split) <;> simp
@[simp] theorem State.flushSession_keeps (s : State) (n : Nat) (a2 : Nat) :
    (s.flushSession n a2).pool = s.pool ∧ (s.flushSession n a2).dmem = s.dmem ∧ (s.flushSession n a2).imem = s.imem ∧ (s.flushSession n a2).pending = s.pending := by
  fun_induction State.flushSession <;> (repeat' split) <;> simp_all +zetaDelta
@[simp] theorem State.flushReplies_keeps (s : State) :
    s.flushReplies.pool = s.pool ∧ s.flushReplies.dmem = s.dmem ∧ s.flushReplies.imem = s.imem ∧ s.flushReplies.pending = s.pending := by simp [State.flushReplies]
@[simp] theorem State.answer_keeps (s : State) (n : Nat) (dest : Nat) (c : CmdRec) (credit : Nat) (atOnce : Bool) (src : Nat) (st : Status) (result : Nat) (body : List Byte) :
    (s.answer n dest c credit atOnce src st result body).pool = s.pool ∧ (s.answer n dest c credit atOnce src st result body).dmem = s.dmem ∧ (s.answer n dest c credit atOnce src st result body).imem = s.imem ∧ (s.answer n dest c credit atOnce src st result body).pending = s.pending := by simp [State.answer]
@[simp] theorem State.refusePermits_keeps (s : State) :
    s.refusePermits.pool = s.pool ∧ s.refusePermits.dmem = s.dmem ∧ s.refusePermits.imem = s.imem ∧ s.refusePermits.pending = s.pending := by simp [State.refusePermits]
@[simp] theorem State.moves_keeps (s : State) (old : Nat) (dest : Nat) (tc : Nat) (f : State → State) (h_pool : ∀ t, (f t).pool = t.pool) (h_dmem : ∀ t, (f t).dmem = t.dmem) (h_imem : ∀ t, (f t).imem = t.imem) (h_pending : ∀ t, (f t).pending = t.pending) :
    (s.moves old dest tc f).pool = s.pool ∧ (s.moves old dest tc f).dmem = s.dmem ∧ (s.moves old dest tc f).imem = s.imem ∧ (s.moves old dest tc f).pending = s.pending := by
  unfold State.moves; (repeat' split) <;> (try simp) <;> (repeat' split) <;> simp_all
@[simp] theorem State.complete_keeps (s : State) (fl : Flight) (addr : Option Nat) (st : Status) (result : Nat) (body : List Byte) :
    (s.complete fl addr st result body).pool = s.pool ∧ (s.complete fl addr st result body).dmem = s.dmem ∧ (s.complete fl addr st result body).imem = s.imem ∧ (s.complete fl addr st result body).pending = s.pending := by
  unfold State.complete; (repeat' split) <;> simp
@[simp] theorem State.finish_keeps (s : State) (id : Nat) (st : Status) (result : Nat) (body : List Byte) :
    (s.finish id st result body).pool = s.pool ∧ (s.finish id st result body).dmem = s.dmem ∧ (s.finish id st result body).imem = s.imem ∧ (s.finish id st result body).pending = s.pending := by
  unfold State.finish; (repeat' split) <;> simp
@[simp] theorem State.tallyFlush_keeps (s : State) :
    s.tallyFlush.pool = s.pool ∧ s.tallyFlush.dmem = s.dmem ∧ s.tallyFlush.imem = s.imem ∧ s.tallyFlush.pending = s.pending := by simp [State.tallyFlush]
@[simp] theorem State.tallySet_keeps (s : State) (go : Bool) (idx : Nat) :
    (s.tallySet go idx).1.pool = s.pool ∧ (s.tallySet go idx).1.dmem = s.dmem ∧ (s.tallySet go idx).1.imem = s.imem ∧ (s.tallySet go idx).1.pending = s.pending := by simp [State.tallySet]
@[simp] theorem State.wearStanding_keeps (s : State) (k : Nat) :
    (s.wearStanding k).pool = s.pool ∧ (s.wearStanding k).dmem = s.dmem ∧ (s.wearStanding k).imem = s.imem ∧ (s.wearStanding k).pending = s.pending := by simp [State.wearStanding]
@[simp] theorem State.calAdjust_keeps (s : State) :
    s.calAdjust.pool = s.pool ∧ s.calAdjust.dmem = s.dmem ∧ s.calAdjust.imem = s.imem ∧ s.calAdjust.pending = s.pending := by simp [State.calAdjust]
@[simp] theorem State.calCheck_keeps (s : State) :
    s.calCheck.pool = s.pool ∧ s.calCheck.dmem = s.dmem ∧ s.calCheck.imem = s.imem ∧ s.calCheck.pending = s.pending := by simp [State.calCheck]
@[simp] theorem State.calHold_keeps (s : State) :
    s.calHold.pool = s.pool ∧ s.calHold.dmem = s.dmem ∧ s.calHold.imem = s.imem ∧ s.calHold.pending = s.pending := by simp [State.calHold]
@[simp] theorem State.calSetCmd_keeps (s : State) :
    s.calSetCmd.1.pool = s.pool ∧ s.calSetCmd.1.dmem = s.dmem ∧ s.calSetCmd.1.imem = s.imem ∧ s.calSetCmd.1.pending = s.pending := by simp [State.calSetCmd]
@[simp] theorem State.calTick_keeps (s : State) :
    s.calTick.pool = s.pool ∧ s.calTick.dmem = s.dmem ∧ s.calTick.imem = s.imem ∧ s.calTick.pending = s.pending := by simp [State.calTick]
@[simp] theorem State.calAon_keeps (s : State) (k : Nat) :
    (s.calAon k).pool = s.pool ∧ (s.calAon k).dmem = s.dmem ∧ (s.calAon k).imem = s.imem ∧ (s.calAon k).pending = s.pending := by simp [State.calAon]
@[simp] theorem State.battLow_keeps (s : State) :
    s.battLow.pool = s.pool ∧ s.battLow.dmem = s.dmem ∧ s.battLow.imem = s.imem ∧ s.battLow.pending = s.pending := by simp [State.battLow]
@[simp] theorem State.addGap_keeps (s : State) (cause : Nat) (gen : Nat) (first : Nat) (last : Nat) :
    (s.addGap cause gen first last).pool = s.pool ∧ (s.addGap cause gen first last).dmem = s.dmem ∧ (s.addGap cause gen first last).imem = s.imem ∧ (s.addGap cause gen first last).pending = s.pending := by simp [State.addGap]
@[simp] theorem State.gapPop_keeps (s : State) :
    s.gapPop.pool = s.pool ∧ s.gapPop.dmem = s.dmem ∧ s.gapPop.imem = s.imem ∧ s.gapPop.pending = s.pending := by simp [State.gapPop]
@[simp] theorem State.gapsOfGen_keeps (s : State) (cause : Nat) (g : Nat) (ranges : List (Nat × Nat)) :
    (s.gapsOfGen cause g ranges).pool = s.pool ∧ (s.gapsOfGen cause g ranges).dmem = s.dmem ∧ (s.gapsOfGen cause g ranges).imem = s.imem ∧ (s.gapsOfGen cause g ranges).pending = s.pending := by simp [State.gapsOfGen]
@[simp] theorem State.writeTal_keeps (s : State) (k : Nat) (w : Wr) :
    (s.writeTal k w).1.pool = s.pool ∧ (s.writeTal k w).1.dmem = s.dmem ∧ (s.writeTal k w).1.imem = s.imem ∧ (s.writeTal k w).1.pending = s.pending := by simp [State.writeTal]
@[simp] theorem State.setProd_keeps (s : State) (i : Nat) (p : Product) :
    (s.setProd i p).pool = s.pool ∧ (s.setProd i p).dmem = s.dmem ∧ (s.setProd i p).imem = s.imem ∧ (s.setProd i p).pending = s.pending := by simp [State.setProd]
@[simp] theorem State.markProduct_keeps (s : State) (who : Option (Nat × Nat)) (mask : Nat) :
    (s.markProduct who mask).pool = s.pool ∧ (s.markProduct who mask).dmem = s.dmem ∧ (s.markProduct who mask).imem = s.imem ∧ (s.markProduct who mask).pending = s.pending := by
  unfold State.markProduct; (repeat' split) <;> simp
@[simp] theorem State.setLane_keeps (s : State) (n : Nat) (x : EphLane) :
    (s.setLane n x).pool = s.pool ∧ (s.setLane n x).dmem = s.dmem ∧ (s.setLane n x).imem = s.imem ∧ (s.setLane n x).pending = s.pending := by simp [State.setLane]
@[simp] theorem State.lanesSuspect_keeps (s : State) (sh : Nat) :
    (s.lanesSuspect sh).pool = s.pool ∧ (s.lanesSuspect sh).dmem = s.dmem ∧ (s.lanesSuspect sh).imem = s.imem ∧ (s.lanesSuspect sh).pending = s.pending := by simp [State.lanesSuspect]
@[simp] theorem State.unpoison_keeps (s : State) (a : Nat) (n : Nat) :
    (s.unpoison a n).pool = s.pool ∧ (s.unpoison a n).dmem = s.dmem ∧ (s.unpoison a n).imem = s.imem ∧ (s.unpoison a n).pending = s.pending := by simp [State.unpoison]
@[simp] theorem State.poolWrite_keeps (s : State) (a : Nat) (bs : List Byte) :
    (s.poolWrite a bs).dmem = s.dmem ∧ (s.poolWrite a bs).imem = s.imem ∧ (s.poolWrite a bs).pending = s.pending := by simp [State.poolWrite]
@[simp] theorem State.allocRefused_keeps (s : State) (c : Nat) :
    (s.allocRefused c).pool = s.pool ∧ (s.allocRefused c).dmem = s.dmem ∧ (s.allocRefused c).imem = s.imem ∧ (s.allocRefused c).pending = s.pending := by simp [State.allocRefused]
@[simp] theorem State.quotaSettle_keeps (s : State) (c : Nat) :
    (s.quotaSettle c).pool = s.pool ∧ (s.quotaSettle c).dmem = s.dmem ∧ (s.quotaSettle c).imem = s.imem ∧ (s.quotaSettle c).pending = s.pending := by simp [State.quotaSettle]
@[simp] theorem State.claimAlloc_keeps (s : State) (c : Nat) (n : Nat) :
    (s.claimAlloc c n).1.pool = s.pool ∧ (s.claimAlloc c n).1.dmem = s.dmem ∧ (s.claimAlloc c n).1.imem = s.imem ∧ (s.claimAlloc c n).1.pending = s.pending := by
  unfold State.claimAlloc; (repeat' split) <;> simp
@[simp] theorem State.claimConfigure_keeps (s : State) (c : Nat) (reserve : Nat) (quota : Nat) :
    (s.claimConfigure c reserve quota).1.pool = s.pool ∧ (s.claimConfigure c reserve quota).1.dmem = s.dmem ∧ (s.claimConfigure c reserve quota).1.imem = s.imem ∧ (s.claimConfigure c reserve quota).1.pending = s.pending := by simp [State.claimConfigure]
@[simp] theorem State.claimFree_keeps (s : State) (c : Nat) (first : Nat) (count : Nat) :
    (s.claimFree c first count).1.pool = s.pool ∧ (s.claimFree c first count).1.dmem = s.dmem ∧ (s.claimFree c first count).1.imem = s.imem ∧ (s.claimFree c first count).1.pending = s.pending := by simp [State.claimFree]
@[simp] theorem State.claimSet_keeps (s : State) (arg : Nat) (body : List Byte) :
    (s.claimSet arg body).1.pool = s.pool ∧ (s.claimSet arg body).1.dmem = s.dmem ∧ (s.claimSet arg body).1.imem = s.imem ∧ (s.claimSet arg body).1.pending = s.pending := by simp [State.claimSet]
@[simp] theorem State.poolWriteCmd_keeps (s : State) (off : Nat) (body : List Byte) :
    (s.poolWriteCmd off body).1.dmem = s.dmem ∧ (s.poolWriteCmd off body).1.imem = s.imem ∧ (s.poolWriteCmd off body).1.pending = s.pending := by simp [State.poolWriteCmd]
@[simp] theorem State.poolUe_keeps (s : State) (a : Nat) :
    (s.poolUe a).pool = s.pool ∧ (s.poolUe a).dmem = s.dmem ∧ (s.poolUe a).imem = s.imem ∧ (s.poolUe a).pending = s.pending := by
  unfold State.poolUe; dsimp only; (repeat' split) <;> simp
@[simp] theorem State.scrub_keeps (s : State) (finds : List EccFind) :
    (s.scrub finds).pool = s.pool ∧ (s.scrub finds).dmem = s.dmem ∧ (s.scrub finds).imem = s.imem ∧ (s.scrub finds).pending = s.pending := by
  unfold State.scrub; (try dsimp only); (repeat' split) <;> (try simp) <;> (repeat' apply And.intro) <;>
    (try (first | rw [foldl_pool] | rw [foldl_dmem] | rw [foldl_imem] | rw [foldl_pending] | rw [State.forEach_pool] | rw [State.forEach_dmem] | rw [State.forEach_imem] | rw [State.forEach_pending] | rw [foldl_pool] | rw [State.forEach_pool] | rw [foldl_dmem] | rw [State.forEach_dmem] | rw [foldl_imem] | rw [State.forEach_imem] | rw [foldl_pending] | rw [State.forEach_pending])) <;> (try intros) <;> (try dsimp only) <;> (repeat' split) <;> simp_all
@[simp] theorem State.setDma_keeps (s : State) (n : Nat) (x : Dma) :
    (s.setDma n x).pool = s.pool ∧ (s.setDma n x).dmem = s.dmem ∧ (s.setDma n x).imem = s.imem ∧ (s.setDma n x).pending = s.pending := by simp [State.setDma]
@[simp] theorem State.dmaStart_keeps (s : State) (n : Nat) :
    (s.dmaStart n).pool = s.pool ∧ (s.dmaStart n).dmem = s.dmem ∧ (s.dmaStart n).imem = s.imem ∧ (s.dmaStart n).pending = s.pending := by simp [State.dmaStart]
@[simp] theorem State.dmaEnd_keeps (s : State) (n : Nat) (status : Nat) (cause : Nat) :
    (s.dmaEnd n status cause).pool = s.pool ∧ (s.dmaEnd n status cause).dmem = s.dmem ∧ (s.dmaEnd n status cause).imem = s.imem ∧ (s.dmaEnd n status cause).pending = s.pending := by simp [State.dmaEnd]
@[simp] theorem State.dmaAbort_keeps (s : State) (n : Nat) :
    (s.dmaAbort n).pool = s.pool ∧ (s.dmaAbort n).dmem = s.dmem ∧ (s.dmaAbort n).imem = s.imem ∧ (s.dmaAbort n).pending = s.pending := by simp [State.dmaAbort]
@[simp] theorem State.dmaAbortAll_keeps (s : State) :
    s.dmaAbortAll.pool = s.pool ∧ s.dmaAbortAll.dmem = s.dmem ∧ s.dmaAbortAll.imem = s.imem ∧ s.dmaAbortAll.pending = s.pending := by simp [State.dmaAbortAll]
@[simp] theorem State.writeDma_keeps (s : State) (n : Nat) (w : Wr) :
    (s.writeDma n w).1.pool = s.pool ∧ (s.writeDma n w).1.dmem = s.dmem ∧ (s.writeDma n w).1.imem = s.imem ∧ (s.writeDma n w).1.pending = s.pending := by simp [State.writeDma]
@[simp] theorem State.setAdcSeq_keeps (s : State) (c : Nat) (inj : Bool) (q : AdcSeq) :
    (s.setAdcSeq c inj q).pool = s.pool ∧ (s.setAdcSeq c inj q).dmem = s.dmem ∧ (s.setAdcSeq c inj q).imem = s.imem ∧ (s.setAdcSeq c inj q).pending = s.pending := by simp [State.setAdcSeq]
@[simp] theorem State.adcArm_keeps (s : State) (c : Nat) (inj : Bool) (t : Nat) :
    (s.adcArm c inj t).pool = s.pool ∧ (s.adcArm c inj t).dmem = s.dmem ∧ (s.adcArm c inj t).imem = s.imem ∧ (s.adcArm c inj t).pending = s.pending := by simp [State.adcArm]
@[simp] theorem State.adcTrigger_keeps (s : State) (c : Nat) (inj : Bool) :
    (s.adcTrigger c inj).pool = s.pool ∧ (s.adcTrigger c inj).dmem = s.dmem ∧ (s.adcTrigger c inj).imem = s.imem ∧ (s.adcTrigger c inj).pending = s.pending := by simp [State.adcTrigger]
@[simp] theorem State.adcAsk_keeps (s : State) (c : Nat) (inj : Bool) :
    (s.adcAsk c inj).pool = s.pool ∧ (s.adcAsk c inj).dmem = s.dmem ∧ (s.adcAsk c inj).imem = s.imem ∧ (s.adcAsk c inj).pending = s.pending := by simp [State.adcAsk]
@[simp] theorem State.adcsTick_keeps (s : State) :
    s.adcsTick.pool = s.pool ∧ s.adcsTick.dmem = s.dmem ∧ s.adcsTick.imem = s.imem ∧ s.adcsTick.pending = s.pending := by simp [State.adcsTick]
@[simp] theorem State.adcBegin_keeps (s : State) (c : Nat) (inj : Bool) :
    (s.adcBegin c inj).pool = s.pool ∧ (s.adcBegin c inj).dmem = s.dmem ∧ (s.adcBegin c inj).imem = s.imem ∧ (s.adcBegin c inj).pending = s.pending := by simp [State.adcBegin]
@[simp] theorem State.adcOffer_keeps (s : State) (src : Nat) (idx : Nat) :
    (s.adcOffer src idx).pool = s.pool ∧ (s.adcOffer src idx).dmem = s.dmem ∧ (s.adcOffer src idx).imem = s.imem ∧ (s.adcOffer src idx).pending = s.pending := by simp [State.adcOffer]
@[simp] theorem State.adcOfferPwm_keeps (s : State) (c : Nat) (g : Nat) :
    (s.adcOfferPwm c g).pool = s.pool ∧ (s.adcOfferPwm c g).dmem = s.dmem ∧ (s.adcOfferPwm c g).imem = s.imem ∧ (s.adcOfferPwm c g).pending = s.pending := by simp [State.adcOfferPwm]
@[simp] theorem State.adcAlm_keeps (s : State) (c : Nat) :
    (s.adcAlm c).pool = s.pool ∧ (s.adcAlm c).dmem = s.dmem ∧ (s.adcAlm c).imem = s.imem ∧ (s.adcAlm c).pending = s.pending := by simp [State.adcAlm]
@[simp] theorem State.adcRegDue_keeps (s : State) (c : Nat) :
    (s.adcRegDue c).pool = s.pool ∧ (s.adcRegDue c).dmem = s.dmem ∧ (s.adcRegDue c).imem = s.imem ∧ (s.adcRegDue c).pending = s.pending := by simp [State.adcRegDue]
@[simp] theorem State.adcResume_keeps (s : State) (c : Nat) :
    (s.adcResume c).pool = s.pool ∧ (s.adcResume c).dmem = s.dmem ∧ (s.adcResume c).imem = s.imem ∧ (s.adcResume c).pending = s.pending := by
  unfold State.adcResume; dsimp only; (repeat' split) <;> simp
@[simp] theorem State.adcInjDue_keeps (s : State) (c : Nat) :
    (s.adcInjDue c).pool = s.pool ∧ (s.adcInjDue c).dmem = s.dmem ∧ (s.adcInjDue c).imem = s.imem ∧ (s.adcInjDue c).pending = s.pending := by
  unfold State.adcInjDue; (repeat' split) <;> simp
@[simp] theorem State.adcDelayExpiry_keeps (s : State) (c : Nat) (inj : Bool) :
    (s.adcDelayExpiry c inj).pool = s.pool ∧ (s.adcDelayExpiry c inj).dmem = s.dmem ∧ (s.adcDelayExpiry c inj).imem = s.imem ∧ (s.adcDelayExpiry c inj).pending = s.pending := by simp [State.adcDelayExpiry]
@[simp] theorem State.adcHold_keeps (s : State) (c : Nat) (inj : Bool) (v : Int) :
    (s.adcHold c inj v).pool = s.pool ∧ (s.adcHold c inj v).dmem = s.dmem ∧ (s.adcHold c inj v).imem = s.imem ∧ (s.adcHold c inj v).pending = s.pending := by
  unfold State.adcHold; dsimp only; (repeat' split) <;> simp
@[simp] theorem State.adcRegEnd_keeps (s : State) (c : Nat) :
    (s.adcRegEnd c).pool = s.pool ∧ (s.adcRegEnd c).dmem = s.dmem ∧ (s.adcRegEnd c).imem = s.imem ∧ (s.adcRegEnd c).pending = s.pending := by simp [State.adcRegEnd]
@[simp] theorem State.adcTailEnd_keeps (s : State) (c : Nat) :
    (s.adcTailEnd c).pool = s.pool ∧ (s.adcTailEnd c).dmem = s.dmem ∧ (s.adcTailEnd c).imem = s.imem ∧ (s.adcTailEnd c).pending = s.pending := by simp [State.adcTailEnd]
@[simp] theorem State.adcConvEnd_keeps (s : State) (c : Nat) (inj : Bool) :
    (s.adcConvEnd c inj).pool = s.pool ∧ (s.adcConvEnd c inj).dmem = s.dmem ∧ (s.adcConvEnd c inj).imem = s.imem ∧ (s.adcConvEnd c inj).pending = s.pending := by simp [State.adcConvEnd]
@[simp] theorem State.adcEnter_keeps (s : State) (c : Nat) :
    (s.adcEnter c).pool = s.pool ∧ (s.adcEnter c).dmem = s.dmem ∧ (s.adcEnter c).imem = s.imem ∧ (s.adcEnter c).pending = s.pending := by
  unfold State.adcEnter; (repeat' split) <;> simp
@[simp] theorem State.adcRelease_keeps (s : State) (c : Nat) :
    (s.adcRelease c).pool = s.pool ∧ (s.adcRelease c).dmem = s.dmem ∧ (s.adcRelease c).imem = s.imem ∧ (s.adcRelease c).pending = s.pending := by simp [State.adcRelease]
@[simp] theorem State.adcDeadline_keeps (s : State) (c : Nat) :
    (s.adcDeadline c).pool = s.pool ∧ (s.adcDeadline c).dmem = s.dmem ∧ (s.adcDeadline c).imem = s.imem ∧ (s.adcDeadline c).pending = s.pending := by simp [State.adcDeadline]
@[simp] theorem State.adcSetHold_keeps (s : State) (bits : Nat) :
    (s.adcSetHold bits).pool = s.pool ∧ (s.adcSetHold bits).dmem = s.dmem ∧ (s.adcSetHold bits).imem = s.imem ∧ (s.adcSetHold bits).pending = s.pending := by simp [State.adcSetHold]
@[simp] theorem State.adcFlush_keeps (s : State) (c : Nat) :
    (s.adcFlush c).pool = s.pool ∧ (s.adcFlush c).dmem = s.dmem ∧ (s.adcFlush c).imem = s.imem ∧ (s.adcFlush c).pending = s.pending := by simp [State.adcFlush]
@[simp] theorem State.adcPop_keeps (s : State) (c : Nat) :
    (s.adcPop c).pool = s.pool ∧ (s.adcPop c).dmem = s.dmem ∧ (s.adcPop c).imem = s.imem ∧ (s.adcPop c).pending = s.pending := by simp [State.adcPop]
@[simp] theorem State.adcStopSeq_keeps (s : State) (c : Nat) (inj : Bool) :
    (s.adcStopSeq c inj).pool = s.pool ∧ (s.adcStopSeq c inj).dmem = s.dmem ∧ (s.adcStopSeq c inj).imem = s.imem ∧ (s.adcStopSeq c inj).pending = s.pending := by
  unfold State.adcStopSeq; dsimp only; (repeat' split) <;> simp
@[simp] theorem State.adcDisable_keeps (s : State) (c : Nat) :
    (s.adcDisable c).pool = s.pool ∧ (s.adcDisable c).dmem = s.dmem ∧ (s.adcDisable c).imem = s.imem ∧ (s.adcDisable c).pending = s.pending := by simp [State.adcDisable]
@[simp] theorem State.writeAdcCfg_keeps (s : State) (c : Nat) (w : Wr) :
    (s.writeAdcCfg c w).1.pool = s.pool ∧ (s.writeAdcCfg c w).1.dmem = s.dmem ∧ (s.writeAdcCfg c w).1.imem = s.imem ∧ (s.writeAdcCfg c w).1.pending = s.pending := by simp [State.writeAdcCfg]
@[simp] theorem State.writeAdc_keeps (s : State) (c : Nat) (w : Wr) :
    (s.writeAdc c w).1.pool = s.pool ∧ (s.writeAdc c w).1.dmem = s.dmem ∧ (s.writeAdc c w).1.imem = s.imem ∧ (s.writeAdc c w).1.pending = s.pending := by simp [State.writeAdc]
@[simp] theorem State.setPwmOut_keeps (s : State) (n : Nat) (h : Bool) (o : PwmOut) :
    (s.setPwmOut n h o).pool = s.pool ∧ (s.setPwmOut n h o).dmem = s.dmem ∧ (s.setPwmOut n h o).imem = s.imem ∧ (s.setPwmOut n h o).pending = s.pending := by simp [State.setPwmOut]
@[simp] theorem State.pwmEdge_keeps (s : State) (n : Nat) :
    (s.pwmEdge n).pool = s.pool ∧ (s.pwmEdge n).dmem = s.dmem ∧ (s.pwmEdge n).imem = s.imem ∧ (s.pwmEdge n).pending = s.pending := by simp [State.pwmEdge]
@[simp] theorem State.pwmStart_keeps (s : State) (n : Nat) (h : Bool) :
    (s.pwmStart n h).pool = s.pool ∧ (s.pwmStart n h).dmem = s.dmem ∧ (s.pwmStart n h).imem = s.imem ∧ (s.pwmStart n h).pending = s.pending := by simp [State.pwmStart]
@[simp] theorem State.pwmEnd_keeps (s : State) (n : Nat) (h : Bool) :
    (s.pwmEnd n h).pool = s.pool ∧ (s.pwmEnd n h).dmem = s.dmem ∧ (s.pwmEnd n h).imem = s.imem ∧ (s.pwmEnd n h).pending = s.pending := by simp [State.pwmEnd]
@[simp] theorem State.pwmRefEnds_keeps (s : State) (n : Nat) (h : Bool) :
    (s.pwmRefEnds n h).pool = s.pool ∧ (s.pwmRefEnds n h).dmem = s.dmem ∧ (s.pwmRefEnds n h).imem = s.imem ∧ (s.pwmRefEnds n h).pending = s.pending := by
  unfold State.pwmRefEnds; dsimp only; (repeat' split) <;> simp
@[simp] theorem State.pwmRefAsks_keeps (s : State) (n : Nat) (h : Bool) :
    (s.pwmRefAsks n h).pool = s.pool ∧ (s.pwmRefAsks n h).dmem = s.dmem ∧ (s.pwmRefAsks n h).imem = s.imem ∧ (s.pwmRefAsks n h).pending = s.pending := by simp [State.pwmRefAsks]
@[simp] theorem State.pwmRefEdge_keeps (s : State) (n : Nat) :
    (s.pwmRefEdge n).pool = s.pool ∧ (s.pwmRefEdge n).dmem = s.dmem ∧ (s.pwmRefEdge n).imem = s.imem ∧ (s.pwmRefEdge n).pending = s.pending := by simp [State.pwmRefEdge]
@[simp] theorem State.pwmDeadExpiry_keeps (s : State) (n : Nat) (h : Bool) :
    (s.pwmDeadExpiry n h).pool = s.pool ∧ (s.pwmDeadExpiry n h).dmem = s.dmem ∧ (s.pwmDeadExpiry n h).imem = s.imem ∧ (s.pwmDeadExpiry n h).pending = s.pending := by simp [State.pwmDeadExpiry]
@[simp] theorem State.pwmHoldEnd_keeps (s : State) (n : Nat) (h : Bool) :
    (s.pwmHoldEnd n h).pool = s.pool ∧ (s.pwmHoldEnd n h).dmem = s.dmem ∧ (s.pwmHoldEnd n h).imem = s.imem ∧ (s.pwmHoldEnd n h).pending = s.pending := by simp [State.pwmHoldEnd]
@[simp] theorem State.pwmAdcPoint_keeps (s : State) (n : Nat) (bit : Nat) :
    (s.pwmAdcPoint n bit).pool = s.pool ∧ (s.pwmAdcPoint n bit).dmem = s.dmem ∧ (s.pwmAdcPoint n bit).imem = s.imem ∧ (s.pwmAdcPoint n bit).pending = s.pending := by simp [State.pwmAdcPoint]
@[simp] theorem State.pwmOffer_keeps (s : State) (n : Nat) :
    (s.pwmOffer n).pool = s.pool ∧ (s.pwmOffer n).dmem = s.dmem ∧ (s.pwmOffer n).imem = s.imem ∧ (s.pwmOffer n).pending = s.pending := by simp [State.pwmOffer]
@[simp] theorem State.pwmLoad_keeps (s : State) (n : Nat) :
    (s.pwmLoad n).pool = s.pool ∧ (s.pwmLoad n).dmem = s.dmem ∧ (s.pwmLoad n).imem = s.imem ∧ (s.pwmLoad n).pending = s.pending := by
  unfold State.pwmLoad; dsimp only; (repeat' split) <;> simp
@[simp] theorem State.pwmLoadDt_keeps (s : State) (n : Nat) :
    (s.pwmLoadDt n).pool = s.pool ∧ (s.pwmLoadDt n).dmem = s.dmem ∧ (s.pwmLoadDt n).imem = s.imem ∧ (s.pwmLoadDt n).pending = s.pending := by
  unfold State.pwmLoadDt; dsimp only; (repeat' split) <;> simp
@[simp] theorem State.pwmClear_keeps (s : State) (n : Nat) :
    (s.pwmClear n).pool = s.pool ∧ (s.pwmClear n).dmem = s.dmem ∧ (s.pwmClear n).imem = s.imem ∧ (s.pwmClear n).pending = s.pending := by simp [State.pwmClear]
@[simp] theorem State.pwmJudgeClear_keeps (s : State) (n : Nat) :
    (s.pwmJudgeClear n).pool = s.pool ∧ (s.pwmJudgeClear n).dmem = s.dmem ∧ (s.pwmJudgeClear n).imem = s.imem ∧ (s.pwmJudgeClear n).pending = s.pending := by simp [State.pwmJudgeClear]
@[simp] theorem State.pwmBoundaryNow_keeps (s : State) (n : Nat) :
    (s.pwmBoundaryNow n).pool = s.pool ∧ (s.pwmBoundaryNow n).dmem = s.dmem ∧ (s.pwmBoundaryNow n).imem = s.imem ∧ (s.pwmBoundaryNow n).pending = s.pending := by simp [State.pwmBoundaryNow]
@[simp] theorem State.pwmBoundary_keeps (s : State) (n : Nat) :
    (s.pwmBoundary n).pool = s.pool ∧ (s.pwmBoundary n).dmem = s.dmem ∧ (s.pwmBoundary n).imem = s.imem ∧ (s.pwmBoundary n).pending = s.pending := by simp [State.pwmBoundary]
@[simp] theorem State.pwmMid_keeps (s : State) (n : Nat) :
    (s.pwmMid n).pool = s.pool ∧ (s.pwmMid n).dmem = s.dmem ∧ (s.pwmMid n).imem = s.imem ∧ (s.pwmMid n).pending = s.pending := by simp [State.pwmMid]
@[simp] theorem State.pwmCut_keeps (s : State) (n : Nat) :
    (s.pwmCut n).pool = s.pool ∧ (s.pwmCut n).dmem = s.dmem ∧ (s.pwmCut n).imem = s.imem ∧ (s.pwmCut n).pending = s.pending := by simp [State.pwmCut]
@[simp] theorem State.pwmResync_keeps (s : State) (n : Nat) :
    (s.pwmResync n).pool = s.pool ∧ (s.pwmResync n).dmem = s.dmem ∧ (s.pwmResync n).imem = s.imem ∧ (s.pwmResync n).pending = s.pending := by simp [State.pwmResync]
@[simp] theorem State.pwmAngleLock_keeps (s : State) (n : Nat) :
    (s.pwmAngleLock n).pool = s.pool ∧ (s.pwmAngleLock n).dmem = s.dmem ∧ (s.pwmAngleLock n).imem = s.imem ∧ (s.pwmAngleLock n).pending = s.pending := by
  unfold State.pwmAngleLock; (repeat' split) <;> simp
@[simp] theorem State.pwmKill_keeps (s : State) (n : Nat) (at_ : Nat) (h : Bool) :
    (s.pwmKill n at_ h).pool = s.pool ∧ (s.pwmKill n at_ h).dmem = s.dmem ∧ (s.pwmKill n at_ h).imem = s.imem ∧ (s.pwmKill n at_ h).pending = s.pending := by simp [State.pwmKill]
@[simp] theorem State.pwmTripEdge_keeps (s : State) (n : Nat) (h : Bool) (was : Bool) :
    (s.pwmTripEdge n h was).pool = s.pool ∧ (s.pwmTripEdge n h was).dmem = s.dmem ∧ (s.pwmTripEdge n h was).imem = s.imem ∧ (s.pwmTripEdge n h was).pending = s.pending := by simp [State.pwmTripEdge]
@[simp] theorem State.pwmTrip_keeps (s : State) (n : Nat) (src : Nat) :
    (s.pwmTrip n src).pool = s.pool ∧ (s.pwmTrip n src).dmem = s.dmem ∧ (s.pwmTrip n src).imem = s.imem ∧ (s.pwmTrip n src).pending = s.pending := by simp [State.pwmTrip]
@[simp] theorem State.pwmJudgeTrip_keeps (s : State) (n : Nat) :
    (s.pwmJudgeTrip n).pool = s.pool ∧ (s.pwmJudgeTrip n).dmem = s.dmem ∧ (s.pwmJudgeTrip n).imem = s.imem ∧ (s.pwmJudgeTrip n).pending = s.pending := by simp [State.pwmJudgeTrip]
@[simp] theorem State.pwmBlankEnd_keeps (s : State) (n : Nat) :
    (s.pwmBlankEnd n).pool = s.pool ∧ (s.pwmBlankEnd n).dmem = s.dmem ∧ (s.pwmBlankEnd n).imem = s.imem ∧ (s.pwmBlankEnd n).pending = s.pending := by simp [State.pwmBlankEnd]
@[simp] theorem State.pwmDropClear_keeps (s : State) (n : Nat) (i : Nat) :
    (s.pwmDropClear n i).pool = s.pool ∧ (s.pwmDropClear n i).dmem = s.dmem ∧ (s.pwmDropClear n i).imem = s.imem ∧ (s.pwmDropClear n i).pending = s.pending := by simp [State.pwmDropClear]
@[simp] theorem State.tripAccept_keeps (s : State) (i : Nat) (pin : Bool) :
    (s.tripAccept i pin).pool = s.pool ∧ (s.tripAccept i pin).dmem = s.dmem ∧ (s.tripAccept i pin).imem = s.imem ∧ (s.tripAccept i pin).pending = s.pending := by simp [State.tripAccept]
@[simp] theorem State.pwmTripClr_keeps (s : State) (n : Nat) :
    (s.pwmTripClr n).1.pool = s.pool ∧ (s.pwmTripClr n).1.dmem = s.dmem ∧ (s.pwmTripClr n).1.imem = s.imem ∧ (s.pwmTripClr n).1.pending = s.pending := by simp [State.pwmTripClr]
@[simp] theorem State.pwmCommand_keeps (s : State) (n : Nat) (w : Wr) :
    (s.pwmCommand n w).1.pool = s.pool ∧ (s.pwmCommand n w).1.dmem = s.dmem ∧ (s.pwmCommand n w).1.imem = s.imem ∧ (s.pwmCommand n w).1.pending = s.pending := by simp [State.pwmCommand]
@[simp] theorem State.pwmEnable_keeps (s : State) (n : Nat) :
    (s.pwmEnable n).pool = s.pool ∧ (s.pwmEnable n).dmem = s.dmem ∧ (s.pwmEnable n).imem = s.imem ∧ (s.pwmEnable n).pending = s.pending := by simp [State.pwmEnable]
@[simp] theorem State.pwmStops_keeps (s : State) (n : Nat) :
    (s.pwmStops n).pool = s.pool ∧ (s.pwmStops n).dmem = s.dmem ∧ (s.pwmStops n).imem = s.imem ∧ (s.pwmStops n).pending = s.pending := by simp [State.pwmStops]
@[simp] theorem State.writePwmCfg_keeps (s : State) (n : Nat) (w : Wr) :
    (s.writePwmCfg n w).1.pool = s.pool ∧ (s.writePwmCfg n w).1.dmem = s.dmem ∧ (s.writePwmCfg n w).1.imem = s.imem ∧ (s.writePwmCfg n w).1.pending = s.pending := by simp [State.writePwmCfg]
@[simp] theorem State.pwmPut_keeps (s : State) (n : Nat) (a : Nat) (v : Word) :
    (s.pwmPut n a v).pool = s.pool ∧ (s.pwmPut n a v).dmem = s.dmem ∧ (s.pwmPut n a v).imem = s.imem ∧ (s.pwmPut n a v).pending = s.pending := by simp [State.pwmPut]
@[simp] theorem State.pwmWritePeriod_keeps (s : State) (n : Nat) (v : Word) :
    (s.pwmWritePeriod n v).pool = s.pool ∧ (s.pwmWritePeriod n v).dmem = s.dmem ∧ (s.pwmWritePeriod n v).imem = s.imem ∧ (s.pwmWritePeriod n v).pending = s.pending := by simp [State.pwmWritePeriod]
@[simp] theorem State.pwmWriteDuty_keeps (s : State) (n : Nat) (v : Word) :
    (s.pwmWriteDuty n v).pool = s.pool ∧ (s.pwmWriteDuty n v).dmem = s.dmem ∧ (s.pwmWriteDuty n v).imem = s.imem ∧ (s.pwmWriteDuty n v).pending = s.pending := by simp [State.pwmWriteDuty]
@[simp] theorem State.pwmActs_keeps (s : State) (a : Nat) :
    (s.pwmActs a).pool = s.pool ∧ (s.pwmActs a).dmem = s.dmem ∧ (s.pwmActs a).imem = s.imem ∧ (s.pwmActs a).pending = s.pending := by simp [State.pwmActs]
@[simp] theorem State.pwmsTick_keeps (s : State) (old : List (Nat × Word)) :
    (s.pwmsTick old).pool = s.pool ∧ (s.pwmsTick old).dmem = s.dmem ∧ (s.pwmsTick old).imem = s.imem ∧ (s.pwmsTick old).pending = s.pending := by simp [State.pwmsTick]
@[simp] theorem State.writePwm_keeps (s : State) (n : Nat) (w : Wr) :
    (s.writePwm n w).1.pool = s.pool ∧ (s.writePwm n w).1.dmem = s.dmem ∧ (s.writePwm n w).1.imem = s.imem ∧ (s.writePwm n w).1.pending = s.pending := by simp [State.writePwm]
@[simp] theorem State.pwmTick_keeps (s : State) (n : Nat) :
    (s.pwmTick n).pool = s.pool ∧ (s.pwmTick n).dmem = s.dmem ∧ (s.pwmTick n).imem = s.imem ∧ (s.pwmTick n).pending = s.pending := by simp [State.pwmTick]
@[simp] theorem State.pwmFloat_keeps (s : State) :
    s.pwmFloat.pool = s.pool ∧ s.pwmFloat.dmem = s.dmem ∧ s.pwmFloat.imem = s.imem ∧ s.pwmFloat.pending = s.pending := by simp [State.pwmFloat]
@[simp] theorem State.pwmLive_keeps (s : State) :
    s.pwmLive.pool = s.pool ∧ s.pwmLive.dmem = s.dmem ∧ s.pwmLive.imem = s.imem ∧ s.pwmLive.pending = s.pending := by simp [State.pwmLive]
@[simp] theorem State.cellMatch_keeps (s : State) (n : Nat) :
    (s.cellMatch n).pool = s.pool ∧ (s.cellMatch n).dmem = s.dmem ∧ (s.cellMatch n).imem = s.imem ∧ (s.cellMatch n).pending = s.pending := by simp [State.cellMatch]
@[simp] theorem State.cellLoad_keeps (s : State) (n : Nat) :
    (s.cellLoad n).pool = s.pool ∧ (s.cellLoad n).dmem = s.dmem ∧ (s.cellLoad n).imem = s.imem ∧ (s.cellLoad n).pending = s.pending := by
  unfold State.cellLoad; dsimp only; (repeat' split) <;> simp
@[simp] theorem State.cellBoundary_keeps (s : State) (n : Nat) :
    (s.cellBoundary n).pool = s.pool ∧ (s.cellBoundary n).dmem = s.dmem ∧ (s.cellBoundary n).imem = s.imem ∧ (s.cellBoundary n).pending = s.pending := by simp [State.cellBoundary]
@[simp] theorem State.cellMove_keeps (s : State) (n : Nat) (c : Nat) :
    (s.cellMove n c).pool = s.pool ∧ (s.cellMove n c).dmem = s.dmem ∧ (s.cellMove n c).imem = s.imem ∧ (s.cellMove n c).pending = s.pending := by simp [State.cellMove]
@[simp] theorem State.cellCut_keeps (s : State) (n : Nat) :
    (s.cellCut n).pool = s.pool ∧ (s.cellCut n).dmem = s.dmem ∧ (s.cellCut n).imem = s.imem ∧ (s.cellCut n).pending = s.pending := by simp [State.cellCut]
@[simp] theorem State.cellStepAt_keeps (s : State) (a1 : Nat) (a2 : Nat) :
    (s.cellStepAt a1 a2).pool = s.pool ∧ (s.cellStepAt a1 a2).dmem = s.dmem ∧ (s.cellStepAt a1 a2).imem = s.imem ∧ (s.cellStepAt a1 a2).pending = s.pending := by
  fun_induction State.cellStepAt <;> (repeat' split) <;> simp_all +zetaDelta
@[simp] theorem State.cellStepNow_keeps (s : State) (n : Nat) :
    (s.cellStepNow n).pool = s.pool ∧ (s.cellStepNow n).dmem = s.dmem ∧ (s.cellStepNow n).imem = s.imem ∧ (s.cellStepNow n).pending = s.pending := by simp [State.cellStepNow]
@[simp] theorem State.cellStep_keeps (s : State) (n : Nat) :
    (s.cellStep n).pool = s.pool ∧ (s.cellStep n).dmem = s.dmem ∧ (s.cellStep n).imem = s.imem ∧ (s.cellStep n).pending = s.pending := by simp [State.cellStep]
@[simp] theorem State.cellRestart_keeps (s : State) (n : Nat) :
    (s.cellRestart n).pool = s.pool ∧ (s.cellRestart n).dmem = s.dmem ∧ (s.cellRestart n).imem = s.imem ∧ (s.cellRestart n).pending = s.pending := by simp [State.cellRestart]
@[simp] theorem State.cellPassed_keeps (s : State) (n : Nat) :
    (s.cellPassed n).pool = s.pool ∧ (s.cellPassed n).dmem = s.dmem ∧ (s.cellPassed n).imem = s.imem ∧ (s.cellPassed n).pending = s.pending := by simp [State.cellPassed]
@[simp] theorem State.cellJudgeWritten_keeps (s : State) (n : Nat) :
    (s.cellJudgeWritten n).pool = s.pool ∧ (s.cellJudgeWritten n).dmem = s.dmem ∧ (s.cellJudgeWritten n).imem = s.imem ∧ (s.cellJudgeWritten n).pending = s.pending := by simp [State.cellJudgeWritten]
@[simp] theorem State.cellJudgePeriod_keeps (s : State) (n : Nat) :
    (s.cellJudgePeriod n).pool = s.pool ∧ (s.cellJudgePeriod n).dmem = s.dmem ∧ (s.cellJudgePeriod n).imem = s.imem ∧ (s.cellJudgePeriod n).pending = s.pending := by simp [State.cellJudgePeriod]
@[simp] theorem State.cellPut_keeps (s : State) (n : Nat) (a : Nat) (v : Word) :
    (s.cellPut n a v).pool = s.pool ∧ (s.cellPut n a v).dmem = s.dmem ∧ (s.cellPut n a v).imem = s.imem ∧ (s.cellPut n a v).pending = s.pending := by simp [State.cellPut]
@[simp] theorem State.cellWritePeriod_keeps (s : State) (n : Nat) (v : Word) :
    (s.cellWritePeriod n v).pool = s.pool ∧ (s.cellWritePeriod n v).dmem = s.dmem ∧ (s.cellWritePeriod n v).imem = s.imem ∧ (s.cellWritePeriod n v).pending = s.pending := by simp [State.cellWritePeriod]
@[simp] theorem State.cellWriteCompare_keeps (s : State) (n : Nat) (v : Word) :
    (s.cellWriteCompare n v).pool = s.pool ∧ (s.cellWriteCompare n v).dmem = s.dmem ∧ (s.cellWriteCompare n v).imem = s.imem ∧ (s.cellWriteCompare n v).pending = s.pending := by simp [State.cellWriteCompare]
@[simp] theorem State.cellCapture_keeps (s : State) (n : Nat) :
    (s.cellCapture n).pool = s.pool ∧ (s.cellCapture n).dmem = s.dmem ∧ (s.cellCapture n).imem = s.imem ∧ (s.cellCapture n).pending = s.pending := by simp [State.cellCapture]
@[simp] theorem State.cellLatch_keeps (s : State) (n : Nat) :
    (s.cellLatch n).pool = s.pool ∧ (s.cellLatch n).dmem = s.dmem ∧ (s.cellLatch n).imem = s.imem ∧ (s.cellLatch n).pending = s.pending := by simp [State.cellLatch]
@[simp] theorem State.cellPop_keeps (s : State) (n : Nat) :
    (s.cellPop n).pool = s.pool ∧ (s.cellPop n).dmem = s.dmem ∧ (s.cellPop n).imem = s.imem ∧ (s.cellPop n).pending = s.pending := by simp [State.cellPop]
@[simp] theorem State.cellsOfLine_keeps (s : State) (i : Nat) (level : Bool) :
    (s.cellsOfLine i level).pool = s.pool ∧ (s.cellsOfLine i level).dmem = s.dmem ∧ (s.cellsOfLine i level).imem = s.imem ∧ (s.cellsOfLine i level).pending = s.pending := by simp [State.cellsOfLine]
@[simp] theorem State.cellStops_keeps (s : State) (n : Nat) :
    (s.cellStops n).pool = s.pool ∧ (s.cellStops n).dmem = s.dmem ∧ (s.cellStops n).imem = s.imem ∧ (s.cellStops n).pending = s.pending := by simp [State.cellStops]
@[simp] theorem State.cellStage_keeps (s : State) (n : Nat) :
    (s.cellStage n).pool = s.pool ∧ (s.cellStage n).dmem = s.dmem ∧ (s.cellStage n).imem = s.imem ∧ (s.cellStage n).pending = s.pending := by simp [State.cellStage]
@[simp] theorem State.cellLimitActs_keeps (s : State) (a : Nat) :
    (s.cellLimitActs a).pool = s.pool ∧ (s.cellLimitActs a).dmem = s.dmem ∧ (s.cellLimitActs a).imem = s.imem ∧ (s.cellLimitActs a).pending = s.pending := by simp [State.cellLimitActs]
@[simp] theorem State.cellCfgActs_keeps (s : State) (a : Nat) (old : Word) :
    (s.cellCfgActs a old).pool = s.pool ∧ (s.cellCfgActs a old).dmem = s.dmem ∧ (s.cellCfgActs a old).imem = s.imem ∧ (s.cellCfgActs a old).pending = s.pending := by simp [State.cellCfgActs]
@[simp] theorem State.cellsTick_keeps (s : State) (old : List (Nat × Word)) :
    (s.cellsTick old).pool = s.pool ∧ (s.cellsTick old).dmem = s.dmem ∧ (s.cellsTick old).imem = s.imem ∧ (s.cellsTick old).pending = s.pending := by simp [State.cellsTick]
@[simp] theorem State.cellsEnd_keeps (s : State) :
    s.cellsEnd.pool = s.pool ∧ s.cellsEnd.dmem = s.dmem ∧ s.cellsEnd.imem = s.imem ∧ s.cellsEnd.pending = s.pending := by simp [State.cellsEnd]
@[simp] theorem State.writeCellCfg_keeps (s : State) (n : Nat) (w : Wr) :
    (s.writeCellCfg n w).1.pool = s.pool ∧ (s.writeCellCfg n w).1.dmem = s.dmem ∧ (s.writeCellCfg n w).1.imem = s.imem ∧ (s.writeCellCfg n w).1.pending = s.pending := by simp [State.writeCellCfg]
@[simp] theorem State.writeCell_keeps (s : State) (n : Nat) (w : Wr) :
    (s.writeCell n w).1.pool = s.pool ∧ (s.writeCell n w).1.dmem = s.dmem ∧ (s.writeCell n w).1.imem = s.imem ∧ (s.writeCell n w).1.pending = s.pending := by simp [State.writeCell]
@[simp] theorem State.countMerge_keeps (s : State) (o : Nat) (merged : Bool) :
    (s.countMerge o merged).pool = s.pool ∧ (s.countMerge o merged).dmem = s.dmem ∧ (s.countMerge o merged).imem = s.imem ∧ (s.countMerge o merged).pending = s.pending := by simp [State.countMerge]
@[simp] theorem State.driveUp_keeps (s : State) (o : Nat) (p : Nat) (y : Output) :
    (s.driveUp o p y).pool = s.pool ∧ (s.driveUp o p y).dmem = s.dmem ∧ (s.driveUp o p y).imem = s.imem ∧ (s.driveUp o p y).pending = s.pending := by
  unfold State.driveUp; dsimp only; (repeat' split) <;> simp
@[simp] theorem State.driveDown_keeps (s : State) (o : Nat) (p : Nat) (y : Output) :
    (s.driveDown o p y).pool = s.pool ∧ (s.driveDown o p y).dmem = s.dmem ∧ (s.driveDown o p y).imem = s.imem ∧ (s.driveDown o p y).pending = s.pending := by simp [State.driveDown]
@[simp] theorem State.releaseDue_keeps (s : State) (o : Nat) :
    (s.releaseDue o).pool = s.pool ∧ (s.releaseDue o).dmem = s.dmem ∧ (s.releaseDue o).imem = s.imem ∧ (s.releaseDue o).pending = s.pending := by
  unfold State.releaseDue; dsimp only; (repeat' split) <;> simp
@[simp] theorem State.outStart_keeps (s : State) (o : Nat) (p : Nat) :
    (s.outStart o p).pool = s.pool ∧ (s.outStart o p).dmem = s.dmem ∧ (s.outStart o p).imem = s.imem ∧ (s.outStart o p).pending = s.pending := by simp [State.outStart]
@[simp] theorem State.outEnd_keeps (s : State) (o : Nat) (p : Nat) :
    (s.outEnd o p).pool = s.pool ∧ (s.outEnd o p).dmem = s.dmem ∧ (s.outEnd o p).imem = s.imem ∧ (s.outEnd o p).pending = s.pending := by simp [State.outEnd]
@[simp] theorem State.poEdge_keeps (s : State) (j : Nat) (thread : Nat) (p : Nat) (level : Bool) :
    (s.poEdge j thread p level).pool = s.pool ∧ (s.poEdge j thread p level).dmem = s.dmem ∧ (s.poEdge j thread p level).imem = s.imem ∧ (s.poEdge j thread p level).pending = s.pending := by simp [State.poEdge]
@[simp] theorem State.bankFault_keeps (s : State) (b : Nat) :
    (s.bankFault b).pool = s.pool ∧ (s.bankFault b).dmem = s.dmem ∧ (s.bankFault b).imem = s.imem ∧ (s.bankFault b).pending = s.pending := by simp [State.bankFault]
@[simp] theorem State.bsFall_keeps (s : State) (b : Nat) :
    (s.bsFall b).pool = s.pool ∧ (s.bsFall b).dmem = s.dmem ∧ (s.bsFall b).imem = s.imem ∧ (s.bsFall b).pending = s.pending := by simp [State.bsFall]
@[simp] theorem State.lineTakes_keeps (s : State) (i : Nat) (level : Bool) :
    (s.lineTakes i level).pool = s.pool ∧ (s.lineTakes i level).dmem = s.dmem ∧ (s.lineTakes i level).imem = s.imem ∧ (s.lineTakes i level).pending = s.pending := by simp [State.lineTakes]
@[simp] theorem State.bsRise_keeps (s : State) (b : Nat) (levels : Nat) :
    (s.bsRise b levels).pool = s.pool ∧ (s.bsRise b levels).dmem = s.dmem ∧ (s.bsRise b levels).imem = s.imem ∧ (s.bsRise b levels).pending = s.pending := by simp [State.bsRise]
@[simp] theorem State.bankFall_keeps (s : State) (b : Nat) :
    (s.bankFall b).pool = s.pool ∧ (s.bankFall b).dmem = s.dmem ∧ (s.bankFall b).imem = s.imem ∧ (s.bankFall b).pending = s.pending := by simp [State.bankFall]
@[simp] theorem State.bankPresent_keeps (s : State) (b : Nat) :
    (s.bankPresent b).pool = s.pool ∧ (s.bankPresent b).dmem = s.dmem ∧ (s.bankPresent b).imem = s.imem ∧ (s.bankPresent b).pending = s.pending := by simp [State.bankPresent]
@[simp] theorem State.outFault_keeps (s : State) (i : Nat) :
    (s.outFault i).pool = s.pool ∧ (s.outFault i).dmem = s.dmem ∧ (s.outFault i).imem = s.imem ∧ (s.outFault i).pending = s.pending := by simp [State.outFault]
@[simp] theorem State.outFaultClear_keeps (s : State) (b : Nat) (written : Nat) :
    (s.outFaultClear b written).pool = s.pool ∧ (s.outFaultClear b written).dmem = s.dmem ∧ (s.outFaultClear b written).imem = s.imem ∧ (s.outFaultClear b written).pending = s.pending := by simp [State.outFaultClear]
@[simp] theorem State.lineNotify_keeps (s : State) (i : Nat) (level : Bool) :
    (s.lineNotify i level).pool = s.pool ∧ (s.lineNotify i level).dmem = s.dmem ∧ (s.lineNotify i level).imem = s.imem ∧ (s.lineNotify i level).pending = s.pending := by simp [State.lineNotify]
@[simp] theorem State.lineAccept_keeps (s : State) (i : Nat) (pin : Bool) :
    (s.lineAccept i pin).1.pool = s.pool ∧ (s.lineAccept i pin).1.dmem = s.dmem ∧ (s.lineAccept i pin).1.imem = s.imem ∧ (s.lineAccept i pin).1.pending = s.pending := by simp [State.lineAccept]
@[simp] theorem State.setChainWords_keeps (s : State) (a : Nat → Nat) (v : Nat) :
    (s.setChainWords a v).pool = s.pool ∧ (s.setChainWords a v).dmem = s.dmem ∧ (s.setChainWords a v).imem = s.imem ∧ (s.setChainWords a v).pending = s.pending := by simp [State.setChainWords]
@[simp] theorem State.chainCheck_keeps (s : State) (c : Nat) (cap : Nat) :
    (s.chainCheck c cap).pool = s.pool ∧ (s.chainCheck c cap).dmem = s.dmem ∧ (s.chainCheck c cap).imem = s.imem ∧ (s.chainCheck c cap).pending = s.pending := by simp [State.chainCheck]
@[simp] theorem State.chainAccept_keeps (s : State) (c : Nat) (cap : Nat) :
    (s.chainAccept c cap).pool = s.pool ∧ (s.chainAccept c cap).dmem = s.dmem ∧ (s.chainAccept c cap).imem = s.imem ∧ (s.chainAccept c cap).pending = s.pending := by
  unfold State.chainAccept; dsimp only; (repeat' split) <;> simp
@[simp] theorem State.chainTally_keeps (s : State) (c : Nat) (old : Nat) (new : Nat) :
    (s.chainTally c old new).pool = s.pool ∧ (s.chainTally c old new).dmem = s.dmem ∧ (s.chainTally c old new).imem = s.imem ∧ (s.chainTally c old new).pending = s.pending := by simp [State.chainTally]
@[simp] theorem State.chainFrame_keeps (s : State) (c : Nat) (inputs : Nat) :
    (s.chainFrame c inputs).pool = s.pool ∧ (s.chainFrame c inputs).dmem = s.dmem ∧ (s.chainFrame c inputs).imem = s.imem ∧ (s.chainFrame c inputs).pending = s.pending := by simp [State.chainFrame]
@[simp] theorem State.chainSnapshot_keeps (s : State) (c : Nat) :
    (s.chainSnapshot c).pool = s.pool ∧ (s.chainSnapshot c).dmem = s.dmem ∧ (s.chainSnapshot c).imem = s.imem ∧ (s.chainSnapshot c).pending = s.pending := by simp [State.chainSnapshot]
@[simp] theorem State.chainFloat_keeps (s : State) :
    s.chainFloat.pool = s.pool ∧ s.chainFloat.dmem = s.dmem ∧ s.chainFloat.imem = s.imem ∧ s.chainFloat.pending = s.pending := by simp [State.chainFloat]
@[simp] theorem State.writeChainCfg_keeps (s : State) (c : Nat) (w : Wr) :
    (s.writeChainCfg c w).1.pool = s.pool ∧ (s.writeChainCfg c w).1.dmem = s.dmem ∧ (s.writeChainCfg c w).1.imem = s.imem ∧ (s.writeChainCfg c w).1.pending = s.pending := by simp [State.writeChainCfg]
@[simp] theorem State.refreshRange_keeps (s : State) (lo : Nat) (n : Nat) :
    (s.refreshRange lo n).pool = s.pool ∧ (s.refreshRange lo n).dmem = s.dmem ∧ (s.refreshRange lo n).imem = s.imem ∧ (s.refreshRange lo n).pending = s.pending := by simp [State.refreshRange]
@[simp] theorem State.fioActs_keeps (s : State) (a : Nat) (old : Word) :
    (s.fioActs a old).pool = s.pool ∧ (s.fioActs a old).dmem = s.dmem ∧ (s.fioActs a old).imem = s.imem ∧ (s.fioActs a old).pending = s.pending := by
  unfold State.fioActs; (repeat' split) <;> simp
@[simp] theorem State.fioTick_keeps (s : State) (old : List (Nat × Word)) :
    (s.fioTick old).pool = s.pool ∧ (s.fioTick old).dmem = s.dmem ∧ (s.fioTick old).imem = s.imem ∧ (s.fioTick old).pending = s.pending := by simp [State.fioTick]
@[simp] theorem State.fioEnds_keeps (s : State) :
    s.fioEnds.pool = s.pool ∧ s.fioEnds.dmem = s.dmem ∧ s.fioEnds.imem = s.imem ∧ s.fioEnds.pending = s.pending := by simp [State.fioEnds]
@[simp] theorem State.writeLineCfg_keeps (s : State) (i : Nat) (w : Wr) :
    (s.writeLineCfg i w).1.pool = s.pool ∧ (s.writeLineCfg i w).1.dmem = s.dmem ∧ (s.writeLineCfg i w).1.imem = s.imem ∧ (s.writeLineCfg i w).1.pending = s.pending := by simp [State.writeLineCfg]
@[simp] theorem State.writePoCfg_keeps (s : State) (j : Nat) (w : Wr) :
    (s.writePoCfg j w).1.pool = s.pool ∧ (s.writePoCfg j w).1.dmem = s.dmem ∧ (s.writePoCfg j w).1.imem = s.imem ∧ (s.writePoCfg j w).1.pending = s.pending := by simp [State.writePoCfg]
@[simp] theorem State.writeFio_keeps (s : State) (i : Nat) (_k : Nat) (w : Wr) :
    (s.writeFio i _k w).1.pool = s.pool ∧ (s.writeFio i _k w).1.dmem = s.dmem ∧ (s.writeFio i _k w).1.imem = s.imem ∧ (s.writeFio i _k w).1.pending = s.pending := by simp [State.writeFio]
@[simp] theorem State.setRas_keeps (s : State) (n : Nat) (x : RasLane) :
    (s.setRas n x).pool = s.pool ∧ (s.setRas n x).dmem = s.dmem ∧ (s.setRas n x).imem = s.imem ∧ (s.setRas n x).pending = s.pending := by simp [State.setRas]
@[simp] theorem State.rasReturn_keeps (s : State) (n : Nat) (im : Image) :
    (s.rasReturn n im).pool = s.pool ∧ (s.rasReturn n im).dmem = s.dmem ∧ (s.rasReturn n im).imem = s.imem ∧ (s.rasReturn n im).pending = s.pending := by simp [State.rasReturn]
@[simp] theorem State.rasMissed_keeps (s : State) (n : Nat) (who : Option (Nat × Nat)) :
    (s.rasMissed n who).pool = s.pool ∧ (s.rasMissed n who).dmem = s.dmem ∧ (s.rasMissed n who).imem = s.imem ∧ (s.rasMissed n who).pending = s.pending := by simp [State.rasMissed]
@[simp] theorem State.rasSkip_keeps (s : State) (n : Nat) (e : RasEntry) :
    (s.rasSkip n e).pool = s.pool ∧ (s.rasSkip n e).dmem = s.dmem ∧ (s.rasSkip n e).imem = s.imem ∧ (s.rasSkip n e).pending = s.pending := by
  unfold State.rasSkip; (repeat' split) <;> simp
@[simp] theorem State.rasTruncate_keeps (s : State) (n : Nat) :
    (s.rasTruncate n).pool = s.pool ∧ (s.rasTruncate n).dmem = s.dmem ∧ (s.rasTruncate n).imem = s.imem ∧ (s.rasTruncate n).pending = s.pending := by
  unfold State.rasTruncate; (repeat' split) <;> simp
@[simp] theorem State.rasBegin_keeps (s : State) (n : Nat) (im : Image) (who : Option (Nat × Nat)) (undriven : Bool) :
    (s.rasBegin n im who undriven).pool = s.pool ∧ (s.rasBegin n im who undriven).dmem = s.dmem ∧ (s.rasBegin n im who undriven).imem = s.imem ∧ (s.rasBegin n im who undriven).pending = s.pending := by simp [State.rasBegin]
@[simp] theorem State.rasStart_keeps (s : State) (n : Nat) :
    (s.rasStart n).pool = s.pool ∧ (s.rasStart n).dmem = s.dmem ∧ (s.rasStart n).imem = s.imem ∧ (s.rasStart n).pending = s.pending := by
  unfold State.rasStart; (repeat' split) <;> simp
@[simp] theorem State.rasFrame_keeps (s : State) (n : Nat) :
    (s.rasFrame n).pool = s.pool ∧ (s.rasFrame n).dmem = s.dmem ∧ (s.rasFrame n).imem = s.imem ∧ (s.rasFrame n).pending = s.pending := by
  unfold State.rasFrame; (repeat' split) <;> simp
@[simp] theorem State.rasTimeSlots_keeps (s : State) (n : Nat) (a2 : Nat) :
    (s.rasTimeSlots n a2).pool = s.pool ∧ (s.rasTimeSlots n a2).dmem = s.dmem ∧ (s.rasTimeSlots n a2).imem = s.imem ∧ (s.rasTimeSlots n a2).pending = s.pending := by
  fun_induction State.rasTimeSlots <;> (repeat' split) <;> simp_all +zetaDelta
@[simp] theorem State.rasEndCode_keeps (s : State) (n : Nat) (c : Code) :
    (s.rasEndCode n c).pool = s.pool ∧ (s.rasEndCode n c).dmem = s.dmem ∧ (s.rasEndCode n c).imem = s.imem ∧ (s.rasEndCode n c).pending = s.pending := by simp [State.rasEndCode]
@[simp] theorem State.rasTallies_keeps (s : State) (n : Nat) (c : Code) :
    (s.rasTallies n c).pool = s.pool ∧ (s.rasTallies n c).dmem = s.dmem ∧ (s.rasTallies n c).imem = s.imem ∧ (s.rasTallies n c).pending = s.pending := by simp [State.rasTallies]
@[simp] theorem State.rasLagOf_keeps (s : State) (n : Nat) (c : Code) (t : Nat) :
    (s.rasLagOf n c t).pool = s.pool ∧ (s.rasLagOf n c t).dmem = s.dmem ∧ (s.rasLagOf n c t).imem = s.imem ∧ (s.rasLagOf n c t).pending = s.pending := by simp [State.rasLagOf]
@[simp] theorem State.rasStrobe_keeps (s : State) (n : Nat) :
    (s.rasStrobe n).pool = s.pool ∧ (s.rasStrobe n).dmem = s.dmem ∧ (s.rasStrobe n).imem = s.imem ∧ (s.rasStrobe n).pending = s.pending := by
  unfold State.rasStrobe; (repeat' split) <;> simp
@[simp] theorem State.rasColumnStrobe_keeps (s : State) (n : Nat) :
    (s.rasColumnStrobe n).pool = s.pool ∧ (s.rasColumnStrobe n).dmem = s.dmem ∧ (s.rasColumnStrobe n).imem = s.imem ∧ (s.rasColumnStrobe n).pending = s.pending := by simp [State.rasColumnStrobe]
@[simp] theorem State.rasStall_keeps (s : State) (n : Nat) :
    (s.rasStall n).pool = s.pool ∧ (s.rasStall n).dmem = s.dmem ∧ (s.rasStall n).imem = s.imem ∧ (s.rasStall n).pending = s.pending := by simp [State.rasStall]
@[simp] theorem State.rasRdyChange_keeps (s : State) (n : Nat) (pin : Bool) :
    (s.rasRdyChange n pin).pool = s.pool ∧ (s.rasRdyChange n pin).dmem = s.dmem ∧ (s.rasRdyChange n pin).imem = s.imem ∧ (s.rasRdyChange n pin).pending = s.pending := by simp [State.rasRdyChange]
@[simp] theorem State.rasRdyTimeout_keeps (s : State) (n : Nat) :
    (s.rasRdyTimeout n).pool = s.pool ∧ (s.rasRdyTimeout n).dmem = s.dmem ∧ (s.rasRdyTimeout n).imem = s.imem ∧ (s.rasRdyTimeout n).pending = s.pending := by simp [State.rasRdyTimeout]
@[simp] theorem State.rasAngLost_keeps (s : State) (sh : Nat) :
    (s.rasAngLost sh).pool = s.pool ∧ (s.rasAngLost sh).dmem = s.dmem ∧ (s.rasAngLost sh).imem = s.imem ∧ (s.rasAngLost sh).pending = s.pending := by
  unfold State.rasAngLost; (try dsimp only); (repeat' split) <;> (try simp) <;> (repeat' apply And.intro) <;>
    (try (first | rw [foldl_pool] | rw [foldl_dmem] | rw [foldl_imem] | rw [foldl_pending] | rw [State.forEach_pool] | rw [State.forEach_dmem] | rw [State.forEach_imem] | rw [State.forEach_pending] | rw [foldl_pool] | rw [State.forEach_pool] | rw [foldl_dmem] | rw [State.forEach_dmem] | rw [foldl_imem] | rw [State.forEach_imem] | rw [foldl_pending] | rw [State.forEach_pending])) <;> (try intros) <;> (try dsimp only) <;> (repeat' split) <;> simp_all
@[simp] theorem State.rasReversal_keeps (s : State) (sh : Nat) :
    (s.rasReversal sh).pool = s.pool ∧ (s.rasReversal sh).dmem = s.dmem ∧ (s.rasReversal sh).imem = s.imem ∧ (s.rasReversal sh).pending = s.pending := by
  unfold State.rasReversal; (try dsimp only); (repeat' split) <;> (try simp) <;> (repeat' apply And.intro) <;>
    (try (first | rw [foldl_pool] | rw [foldl_dmem] | rw [foldl_imem] | rw [foldl_pending] | rw [State.forEach_pool] | rw [State.forEach_dmem] | rw [State.forEach_imem] | rw [State.forEach_pending] | rw [foldl_pool] | rw [State.forEach_pool] | rw [foldl_dmem] | rw [State.forEach_dmem] | rw [foldl_imem] | rw [State.forEach_imem] | rw [foldl_pending] | rw [State.forEach_pending])) <;> (try intros) <;> (try dsimp only) <;> (repeat' split) <;> simp_all
@[simp] theorem State.rasFloat_keeps (s : State) :
    s.rasFloat.pool = s.pool ∧ s.rasFloat.dmem = s.dmem ∧ s.rasFloat.imem = s.imem ∧ s.rasFloat.pending = s.pending := by
  unfold State.rasFloat; (try dsimp only); (repeat' split) <;> (try simp) <;> (repeat' apply And.intro) <;>
    (try (first | rw [foldl_pool] | rw [foldl_dmem] | rw [foldl_imem] | rw [foldl_pending] | rw [State.forEach_pool] | rw [State.forEach_dmem] | rw [State.forEach_imem] | rw [State.forEach_pending] | rw [foldl_pool] | rw [State.forEach_pool] | rw [foldl_dmem] | rw [State.forEach_dmem] | rw [foldl_imem] | rw [State.forEach_imem] | rw [foldl_pending] | rw [State.forEach_pending])) <;> (try intros) <;> (try dsimp only) <;> (repeat' split) <;> simp_all
@[simp] theorem State.writeRasEnable_keeps (s : State) (n : Nat) (w : Wr) :
    (s.writeRasEnable n w).1.pool = s.pool ∧ (s.writeRasEnable n w).1.dmem = s.dmem ∧ (s.writeRasEnable n w).1.imem = s.imem ∧ (s.writeRasEnable n w).1.pending = s.pending := by simp [State.writeRasEnable]
@[simp] theorem State.rasDiscard_keeps (s : State) (n : Nat) :
    (s.rasDiscard n).pool = s.pool ∧ (s.rasDiscard n).dmem = s.dmem ∧ (s.rasDiscard n).imem = s.imem ∧ (s.rasDiscard n).pending = s.pending := by simp [State.rasDiscard]
@[simp] theorem State.rasDisable_keeps (s : State) (n : Nat) (force : Bool) :
    (s.rasDisable n force).pool = s.pool ∧ (s.rasDisable n force).dmem = s.dmem ∧ (s.rasDisable n force).imem = s.imem ∧ (s.rasDisable n force).pending = s.pending := by simp [State.rasDisable]
@[simp] theorem State.writeRasCtl_keeps (s : State) (n : Nat) (w : Wr) :
    (s.writeRasCtl n w).1.pool = s.pool ∧ (s.writeRasCtl n w).1.dmem = s.dmem ∧ (s.writeRasCtl n w).1.imem = s.imem ∧ (s.writeRasCtl n w).1.pending = s.pending := by simp [State.writeRasCtl]
@[simp] theorem State.rasSetMcp_keeps (s : State) (n : Nat) :
    (s.rasSetMcp n).pool = s.pool ∧ (s.rasSetMcp n).dmem = s.dmem ∧ (s.rasSetMcp n).imem = s.imem ∧ (s.rasSetMcp n).pending = s.pending := by simp [State.rasSetMcp]
@[simp] theorem State.writeRas_keeps (s : State) (n : Nat) (w : Wr) :
    (s.writeRas n w).1.pool = s.pool ∧ (s.writeRas n w).1.dmem = s.dmem ∧ (s.writeRas n w).1.imem = s.imem ∧ (s.writeRas n w).1.pending = s.pending := by simp [State.writeRas]
@[simp] theorem State.setGen_keeps (s : State) (g : Nat) (x : SerialGen) :
    (s.setGen g x).pool = s.pool ∧ (s.setGen g x).dmem = s.dmem ∧ (s.setGen g x).imem = s.imem ∧ (s.setGen g x).pending = s.pending := by simp [State.setGen]
@[simp] theorem State.reserveNext_keeps (s : State) (g : Nat) :
    (s.reserveNext g).pool = s.pool ∧ (s.reserveNext g).dmem = s.dmem ∧ (s.reserveNext g).imem = s.imem ∧ (s.reserveNext g).pending = s.pending := by
  unfold State.reserveNext; dsimp only; (repeat' split) <;> simp
@[simp] theorem State.genDrop_keeps (s : State) (cause : Nat) (g : Nat) :
    (s.genDrop cause g).pool = s.pool ∧ (s.genDrop cause g).dmem = s.dmem ∧ (s.genDrop cause g).imem = s.imem ∧ (s.genDrop cause g).pending = s.pending := by simp [State.genDrop]
@[simp] theorem State.setJob_keeps (s : State) (j : Job) :
    (s.setJob j).pool = s.pool ∧ (s.setJob j).dmem = s.dmem ∧ (s.setJob j).imem = s.imem ∧ (s.setJob j).pending = s.pending := by simp [State.setJob]
@[simp] theorem State.noDate_keeps (s : State) (sub : Bool) (who : Option (Nat × Nat)) :
    (s.noDate sub who).pool = s.pool ∧ (s.noDate sub who).dmem = s.dmem ∧ (s.noDate sub who).imem = s.imem ∧ (s.noDate sub who).pending = s.pending := by simp [State.noDate]
@[simp] theorem State.postJob_keeps (s : State) (trigger : Nat) (m : Nat) (rl : Nat) (who : Option (Nat × Nat)) (flight : Option Nat) (cmd : Bool) :
    (s.postJob trigger m rl who flight cmd).1.pool = s.pool ∧ (s.postJob trigger m rl who flight cmd).1.dmem = s.dmem ∧ (s.postJob trigger m rl who flight cmd).1.imem = s.imem ∧ (s.postJob trigger m rl who flight cmd).1.pending = s.pending := by
  unfold State.postJob; (repeat' split) <;> simp
theorem issue_keeps {s : State} {g : Nat} {r : State × Nat} (h : s.issue g = some r) :
    r.1.pool = s.pool ∧ r.1.dmem = s.dmem ∧ r.1.imem = s.imem ∧ r.1.pending = s.pending := by
  unfold State.issue at h
  dsimp only at h
  split at h
  · cases h
  · split at h
    · cases h
    · cases h; dsimp only; split <;> simp
@[simp] theorem State.takeSerials_keeps (s : State) (j : Job) (a2 : List Nat) :
    (s.takeSerials j a2).1.pool = s.pool ∧ (s.takeSerials j a2).1.dmem = s.dmem ∧ (s.takeSerials j a2).1.imem = s.imem ∧ (s.takeSerials j a2).1.pending = s.pending := by
  fun_induction State.takeSerials <;> (try (have k := issue_keeps ‹_›)) <;> simp_all +zetaDelta
@[simp] theorem State.jobStart_keeps (s : State) :
    s.jobStart.pool = s.pool ∧ s.jobStart.dmem = s.dmem ∧ s.jobStart.imem = s.imem ∧ s.jobStart.pending = s.pending := by
  unfold State.jobStart; (repeat' split) <;> simp
@[simp] theorem State.serveWaiting_keeps (s : State) :
    s.serveWaiting.pool = s.pool ∧ s.serveWaiting.dmem = s.dmem ∧ s.serveWaiting.imem = s.imem ∧ s.serveWaiting.pending = s.pending := by
  unfold State.serveWaiting; (try dsimp only); (repeat' split) <;> (try simp) <;> (repeat' apply And.intro) <;>
    (try (first | rw [foldl_pool] | rw [foldl_dmem] | rw [foldl_imem] | rw [foldl_pending] | rw [State.forEach_pool] | rw [State.forEach_dmem] | rw [State.forEach_imem] | rw [State.forEach_pending] | rw [foldl_pool] | rw [State.forEach_pool] | rw [foldl_dmem] | rw [State.forEach_dmem] | rw [foldl_imem] | rw [State.forEach_imem] | rw [foldl_pending] | rw [State.forEach_pending])) <;> (try intros) <;> (try dsimp only) <;> (repeat' split) <;> simp_all
@[simp] theorem State.ringWrite_keeps (s : State) (rl : Nat) (at_ : Nat) (bs : List Byte) :
    (s.ringWrite rl at_ bs).dmem = s.dmem ∧ (s.ringWrite rl at_ bs).imem = s.imem ∧ (s.ringWrite rl at_ bs).pending = s.pending := by simp [State.ringWrite]
@[simp] theorem State.jobRecord_keeps (s : State) (j : Job) (serial : Nat) (failed : Bool) :
    (s.jobRecord j serial failed).pool = s.pool ∧ (s.jobRecord j serial failed).dmem = s.dmem ∧ (s.jobRecord j serial failed).imem = s.imem ∧ (s.jobRecord j serial failed).pending = s.pending := by
  unfold State.jobRecord; (repeat' split) <;> simp
@[simp] theorem State.setEntry_keeps (s : State) (rl : Nat) (job : Nat) (st : EntrySt) :
    (s.setEntry rl job st).pool = s.pool ∧ (s.setEntry rl job st).dmem = s.dmem ∧ (s.setEntry rl job st).imem = s.imem ∧ (s.setEntry rl job st).pending = s.pending := by simp [State.setEntry]
@[simp] theorem State.jobFail_keeps (s : State) (j : Job) (serial : Nat) (why : JobFail) :
    (s.jobFail j serial why).pool = s.pool ∧ (s.jobFail j serial why).dmem = s.dmem ∧ (s.jobFail j serial why).imem = s.imem ∧ (s.jobFail j serial why).pending = s.pending := by
  unfold State.jobFail; (repeat' split) <;> simp
@[simp] theorem State.genFault_keeps (s : State) (gs : List Nat) :
    (s.genFault gs).pool = s.pool ∧ (s.genFault gs).dmem = s.dmem ∧ (s.genFault gs).imem = s.imem ∧ (s.genFault gs).pending = s.pending := by simp [State.genFault]
@[simp] theorem State.jobReady_keeps (s : State) (j : Job) :
    (s.jobReady j).pool = s.pool ∧ (s.jobReady j).dmem = s.dmem ∧ (s.jobReady j).imem = s.imem ∧ (s.jobReady j).pending = s.pending := by
  unfold State.jobReady; (repeat' split) <;> simp
@[simp] theorem State.settleJobs_keeps (s : State) :
    s.settleJobs.pool = s.pool ∧ s.settleJobs.dmem = s.dmem ∧ s.settleJobs.imem = s.imem ∧ s.settleJobs.pending = s.pending := by simp [State.settleJobs]
@[simp] theorem State.placeImage_keeps (s : State) (j : Job) (im : Image) :
    (s.placeImage j im).pool = s.pool ∧ (s.placeImage j im).dmem = s.dmem ∧ (s.placeImage j im).imem = s.imem ∧ (s.placeImage j im).pending = s.pending := by simp [State.placeImage]
@[simp] theorem State.jobImage_keeps (s : State) (j : Job) (h : Template) (serial : Nat) (dots : List Dot) :
    (s.jobImage j h serial dots).dmem = s.dmem ∧ (s.jobImage j h serial dots).imem = s.imem ∧ (s.jobImage j h serial dots).pending = s.pending := by simp [State.jobImage]
@[simp] theorem State.jobEnd_keeps (s : State) (j : Job) :
    (s.jobEnd j).dmem = s.dmem ∧ (s.jobEnd j).imem = s.imem ∧ (s.jobEnd j).pending = s.pending := by
  unfold State.jobEnd; dsimp only; (repeat' split) <;> simp
@[simp] theorem State.jobComplete_keeps (s : State) (k : Nat) :
    (s.jobComplete k).dmem = s.dmem ∧ (s.jobComplete k).imem = s.imem ∧ (s.jobComplete k).pending = s.pending := by
  unfold State.jobComplete; (repeat' split) <;> simp
@[simp] theorem State.jobDeadline_keeps (s : State) (k : Nat) :
    (s.jobDeadline k).pool = s.pool ∧ (s.jobDeadline k).dmem = s.dmem ∧ (s.jobDeadline k).imem = s.imem ∧ (s.jobDeadline k).pending = s.pending := by
  unfold State.jobDeadline; (repeat' split) <;> simp
@[simp] theorem State.jobLate_keeps (s : State) (k : Nat) :
    (s.jobLate k).pool = s.pool ∧ (s.jobLate k).dmem = s.dmem ∧ (s.jobLate k).imem = s.imem ∧ (s.jobLate k).pending = s.pending := by
  unfold State.jobLate; (repeat' split) <;> simp
@[simp] theorem State.reservation_keeps (s : State) (g : Nat) :
    (s.reservation g).pool = s.pool ∧ (s.reservation g).dmem = s.dmem ∧ (s.reservation g).imem = s.imem ∧ (s.reservation g).pending = s.pending := by
  unfold State.reservation; dsimp only; (repeat' split) <;> simp
@[simp] theorem State.genEnable_keeps (s : State) (g : Nat) (w : Wr) :
    (s.genEnable g w).1.pool = s.pool ∧ (s.genEnable g w).1.dmem = s.dmem ∧ (s.genEnable g w).1.imem = s.imem ∧ (s.genEnable g w).1.pending = s.pending := by simp [State.genEnable]
@[simp] theorem State.genDisable_keeps (s : State) (g : Nat) (w : Wr) :
    (s.genDisable g w).1.pool = s.pool ∧ (s.genDisable g w).1.dmem = s.dmem ∧ (s.genDisable g w).1.imem = s.imem ∧ (s.genDisable g w).1.pending = s.pending := by simp [State.genDisable]
@[simp] theorem State.bump_keeps (s : State) :
    s.bump.pool = s.pool ∧ s.bump.dmem = s.dmem ∧ s.bump.imem = s.imem ∧ s.bump.pending = s.pending := by simp [State.bump]
@[simp] theorem State.failQueued_keeps (s : State) :
    s.failQueued.pool = s.pool ∧ s.failQueued.dmem = s.dmem ∧ s.failQueued.imem = s.imem ∧ s.failQueued.pending = s.pending := by simp [State.failQueued]
@[simp] theorem State.writeCmpCfg_keeps (s : State) (w : Wr) :
    (s.writeCmpCfg w).1.pool = s.pool ∧ (s.writeCmpCfg w).1.dmem = s.dmem ∧ (s.writeCmpCfg w).1.imem = s.imem ∧ (s.writeCmpCfg w).1.pending = s.pending := by simp [State.writeCmpCfg]
@[simp] theorem State.writeRing_keeps (s : State) (n : Nat) (w : Wr) :
    (s.writeRing n w).1.pool = s.pool ∧ (s.writeRing n w).1.dmem = s.dmem ∧ (s.writeRing n w).1.imem = s.imem ∧ (s.writeRing n w).1.pending = s.pending := by simp [State.writeRing]
@[simp] theorem State.writeCmp_keeps (s : State) (i : Nat) (w : Wr) :
    (s.writeCmp i w).1.pool = s.pool ∧ (s.writeCmp i w).1.dmem = s.dmem ∧ (s.writeCmp i w).1.imem = s.imem ∧ (s.writeCmp i w).1.pending = s.pending := by simp [State.writeCmp]
@[simp] theorem State.codeJob_keeps (s : State) (arg : Nat) (body : List Byte) (flight : Option Nat) :
    (s.codeJob arg body flight).1.pool = s.pool ∧ (s.codeJob arg body flight).1.dmem = s.dmem ∧ (s.codeJob arg body flight).1.imem = s.imem ∧ (s.codeJob arg body flight).1.pending = s.pending := by simp [State.codeJob]
@[simp] theorem State.setTh_keeps (s : State) (g : Nat) (x : Thread) :
    (s.setTh g x).pool = s.pool ∧ (s.setTh g x).dmem = s.dmem ∧ (s.setTh g x).imem = s.imem ∧ (s.setTh g x).pending = s.pending := by simp [State.setTh]
@[simp] theorem State.setSignal_keeps (s : State) (i : Nat) :
    (s.setSignal i).pool = s.pool ∧ (s.setSignal i).dmem = s.dmem ∧ (s.setSignal i).imem = s.imem ∧ (s.setSignal i).pending = s.pending := by simp [State.setSignal]
@[simp] theorem State.targetAct_keeps (s : State) (kind : Nat) (index : Nat) :
    (s.targetAct kind index).pool = s.pool ∧ (s.targetAct kind index).dmem = s.dmem ∧ (s.targetAct kind index).imem = s.imem ∧ (s.targetAct kind index).pending = s.pending := by
  unfold State.targetAct; (repeat' split) <;> simp
@[simp] theorem State.targetStart_keeps (s : State) (d : EventDesc) (p : Nat) :
    (s.targetStart d p).pool = s.pool ∧ (s.targetStart d p).dmem = s.dmem ∧ (s.targetStart d p).imem = s.imem ∧ (s.targetStart d p).pending = s.pending := by simp [State.targetStart]
@[simp] theorem State.targetEnd_keeps (s : State) (d : EventDesc) (p : Nat) :
    (s.targetEnd d p).pool = s.pool ∧ (s.targetEnd d p).dmem = s.dmem ∧ (s.targetEnd d p).imem = s.imem ∧ (s.targetEnd d p).pending = s.pending := by simp [State.targetEnd]
@[simp] theorem State.almWorked_keeps (s : State) :
    s.almWorked.pool = s.pool ∧ s.almWorked.dmem = s.dmem ∧ s.almWorked.imem = s.imem ∧ s.almWorked.pending = s.pending := by simp [State.almWorked]
@[simp] theorem State.almBegin_keeps (s : State) (i : Nat) (d : Nat) (x : Option Nat) :
    (s.almBegin i d x).pool = s.pool ∧ (s.almBegin i d x).dmem = s.dmem ∧ (s.almBegin i d x).imem = s.imem ∧ (s.almBegin i d x).pending = s.pending := by simp [State.almBegin]
@[simp] theorem State.almSkip_keeps (s : State) (i : Nat) :
    (s.almSkip i).pool = s.pool ∧ (s.almSkip i).dmem = s.dmem ∧ (s.almSkip i).imem = s.imem ∧ (s.almSkip i).pending = s.pending := by simp [State.almSkip]
@[simp] theorem State.almLateOnce_keeps (s : State) (i : Nat) :
    (s.almLateOnce i).1.pool = s.pool ∧ (s.almLateOnce i).1.dmem = s.dmem ∧ (s.almLateOnce i).1.imem = s.imem ∧ (s.almLateOnce i).1.pending = s.pending := by
  unfold State.almLateOnce; dsimp only; (repeat' split) <;> simp
@[simp] theorem State.almAdvance_keeps (s : State) (i : Nat) :
    (s.almAdvance i).1.pool = s.pool ∧ (s.almAdvance i).1.dmem = s.dmem ∧ (s.almAdvance i).1.imem = s.imem ∧ (s.almAdvance i).1.pending = s.pending := by simp [State.almAdvance]
@[simp] theorem State.almCommitNow_keeps (s : State) (i : Nat) (from_ : Nat) :
    (s.almCommitNow i from_).pool = s.pool ∧ (s.almCommitNow i from_).dmem = s.dmem ∧ (s.almCommitNow i from_).imem = s.imem ∧ (s.almCommitNow i from_).pending = s.pending := by simp [State.almCommitNow]
@[simp] theorem State.almCommit_keeps (s : State) (i : Nat) (from_ : Nat) :
    (s.almCommit i from_).pool = s.pool ∧ (s.almCommit i from_).dmem = s.dmem ∧ (s.almCommit i from_).imem = s.imem ∧ (s.almCommit i from_).pending = s.pending := by simp [State.almCommit]
@[simp] theorem State.almJudge_keeps (s : State) (a1 : Nat) (a2 : Nat) :
    (s.almJudge a1 a2).pool = s.pool ∧ (s.almJudge a1 a2).dmem = s.dmem ∧ (s.almJudge a1 a2).imem = s.imem ∧ (s.almJudge a1 a2).pending = s.pending := by
  fun_induction State.almJudge <;> (repeat' split) <;> simp_all +zetaDelta
@[simp] theorem State.almRepeat_keeps (s : State) (i : Nat) :
    (s.almRepeat i).pool = s.pool ∧ (s.almRepeat i).dmem = s.dmem ∧ (s.almRepeat i).imem = s.imem ∧ (s.almRepeat i).pending = s.pending := by simp [State.almRepeat]
@[simp] theorem State.almLate_keeps (s : State) (i : Nat) :
    (s.almLate i).pool = s.pool ∧ (s.almLate i).dmem = s.dmem ∧ (s.almLate i).imem = s.imem ∧ (s.almLate i).pending = s.pending := by simp [State.almLate]
@[simp] theorem State.almLates_keeps (s : State) (is : List Nat) :
    (s.almLates is).pool = s.pool ∧ (s.almLates is).dmem = s.dmem ∧ (s.almLates is).imem = s.imem ∧ (s.almLates is).pending = s.pending := by simp [State.almLates]
@[simp] theorem State.almRestart_keeps (s : State) (i : Nat) :
    (s.almRestart i).pool = s.pool ∧ (s.almRestart i).dmem = s.dmem ∧ (s.almRestart i).imem = s.imem ∧ (s.almRestart i).pending = s.pending := by simp [State.almRestart]
@[simp] theorem State.almRecomputeBut_keeps (s : State) (n : Nat) (but : List Nat) :
    (s.almRecomputeBut n but).pool = s.pool ∧ (s.almRecomputeBut n but).dmem = s.dmem ∧ (s.almRecomputeBut n but).imem = s.imem ∧ (s.almRecomputeBut n but).pending = s.pending := by simp [State.almRecomputeBut]
@[simp] theorem State.almRecompute_keeps (s : State) (n : Nat) :
    (s.almRecompute n).pool = s.pool ∧ (s.almRecompute n).dmem = s.dmem ∧ (s.almRecompute n).imem = s.imem ∧ (s.almRecompute n).pending = s.pending := by simp [State.almRecompute]
@[simp] theorem State.almTake_keeps (s : State) :
    s.almTake.pool = s.pool ∧ s.almTake.dmem = s.dmem ∧ s.almTake.imem = s.imem ∧ s.almTake.pending = s.pending := by
  unfold State.almTake; (repeat' split) <;> simp
@[simp] theorem State.almDrain_keeps (s : State) :
    s.almDrain.pool = s.pool ∧ s.almDrain.dmem = s.dmem ∧ s.almDrain.imem = s.imem ∧ s.almDrain.pending = s.pending := by simp [State.almDrain]
@[simp] theorem State.almEventStart_keeps (s : State) (i : Nat) :
    (s.almEventStart i).pool = s.pool ∧ (s.almEventStart i).dmem = s.dmem ∧ (s.almEventStart i).imem = s.imem ∧ (s.almEventStart i).pending = s.pending := by
  unfold State.almEventStart; dsimp only; (repeat' split) <;> simp
@[simp] theorem State.almEventEnd_keeps (s : State) (i : Nat) :
    (s.almEventEnd i).pool = s.pool ∧ (s.almEventEnd i).dmem = s.dmem ∧ (s.almEventEnd i).imem = s.imem ∧ (s.almEventEnd i).pending = s.pending := by simp [State.almEventEnd]
@[simp] theorem State.almCancel_keeps (s : State) (i : Nat) :
    (s.almCancel i).pool = s.pool ∧ (s.almCancel i).dmem = s.dmem ∧ (s.almCancel i).imem = s.imem ∧ (s.almCancel i).pending = s.pending := by simp [State.almCancel]
@[simp] theorem State.almCancelAll_keeps (s : State) (is : List Nat) :
    (s.almCancelAll is).pool = s.pool ∧ (s.almCancelAll is).dmem = s.dmem ∧ (s.almCancelAll is).imem = s.imem ∧ (s.almCancelAll is).pending = s.pending := by simp [State.almCancelAll]
@[simp] theorem State.almDrop_keeps (s : State) (n : Nat) :
    (s.almDrop n).pool = s.pool ∧ (s.almDrop n).dmem = s.dmem ∧ (s.almDrop n).imem = s.imem ∧ (s.almDrop n).pending = s.pending := by simp [State.almDrop]
@[simp] theorem State.almUncommit_keeps (s : State) (i : Nat) :
    (s.almUncommit i).pool = s.pool ∧ (s.almUncommit i).dmem = s.dmem ∧ (s.almUncommit i).imem = s.imem ∧ (s.almUncommit i).pending = s.pending := by simp [State.almUncommit]
@[simp] theorem State.almRevert_keeps (s : State) (n : Nat) :
    (s.almRevert n).pool = s.pool ∧ (s.almRevert n).dmem = s.dmem ∧ (s.almRevert n).imem = s.imem ∧ (s.almRevert n).pending = s.pending := by simp [State.almRevert]
@[simp] theorem State.almLost_keeps (s : State) (n : Nat) :
    (s.almLost n).pool = s.pool ∧ (s.almLost n).dmem = s.dmem ∧ (s.almLost n).imem = s.imem ∧ (s.almLost n).pending = s.pending := by simp [State.almLost]
@[simp] theorem State.almStill_keeps (s : State) (n : Nat) :
    (s.almStill n).pool = s.pool ∧ (s.almStill n).dmem = s.dmem ∧ (s.almStill n).imem = s.imem ∧ (s.almStill n).pending = s.pending := by simp [State.almStill]
@[simp] theorem State.almReversal_keeps (s : State) (n : Nat) :
    (s.almReversal n).pool = s.pool ∧ (s.almReversal n).dmem = s.dmem ∧ (s.almReversal n).imem = s.imem ∧ (s.almReversal n).pending = s.pending := by simp [State.almReversal]
@[simp] theorem State.almForget_keeps (s : State) (p : Nat) :
    (s.almForget p).1.pool = s.pool ∧ (s.almForget p).1.dmem = s.dmem ∧ (s.almForget p).1.imem = s.imem ∧ (s.almForget p).1.pending = s.pending := by simp [State.almForget]
@[simp] theorem State.almArm_keeps (s : State) (at_ : Option Nat) (d0 : EventDesc) :
    (s.almArm at_ d0).1.pool = s.pool ∧ (s.almArm at_ d0).1.dmem = s.dmem ∧ (s.almArm at_ d0).1.imem = s.imem ∧ (s.almArm at_ d0).1.pending = s.pending := by
  unfold State.almArm; dsimp only; (repeat' split) <;> simp
@[simp] theorem State.eventArm_keeps (s : State) (arg : Nat) (body : List Byte) (owner : Option Nat) :
    (s.eventArm arg body owner).1.pool = s.pool ∧ (s.eventArm arg body owner).1.dmem = s.dmem ∧ (s.eventArm arg body owner).1.imem = s.imem ∧ (s.eventArm arg body owner).1.pending = s.pending := by simp [State.eventArm]
@[simp] theorem State.eventCancel_keeps (s : State) (arg : Nat) :
    (s.eventCancel arg).1.pool = s.pool ∧ (s.eventCancel arg).1.dmem = s.dmem ∧ (s.eventCancel arg).1.imem = s.imem ∧ (s.eventCancel arg).1.pending = s.pending := by simp [State.eventCancel]
@[simp] theorem State.shaftTell_keeps (s : State) (n : Nat) :
    (s.shaftTell n).pool = s.pool ∧ (s.shaftTell n).dmem = s.dmem ∧ (s.shaftTell n).imem = s.imem ∧ (s.shaftTell n).pending = s.pending := by simp [State.shaftTell]
@[simp] theorem State.angLost_keeps (s : State) (sh : Nat) :
    (s.angLost sh).pool = s.pool ∧ (s.angLost sh).dmem = s.dmem ∧ (s.angLost sh).imem = s.imem ∧ (s.angLost sh).pending = s.pending := by simp [State.angLost]
@[simp] theorem State.shaftSet_keeps (s : State) (n : Nat) (st : SyncState) (cause : Nat) :
    (s.shaftSet n st cause).pool = s.pool ∧ (s.shaftSet n st cause).dmem = s.dmem ∧ (s.shaftSet n st cause).imem = s.imem ∧ (s.shaftSet n st cause).pending = s.pending := by simp [State.shaftSet]
@[simp] theorem State.shaftLose_keeps (s : State) (n : Nat) (cause : Nat) :
    (s.shaftLose n cause).pool = s.pool ∧ (s.shaftLose n cause).dmem = s.dmem ∧ (s.shaftLose n cause).imem = s.imem ∧ (s.shaftLose n cause).pending = s.pending := by simp [State.shaftLose]
@[simp] theorem State.shaftSynced_keeps (s : State) (n : Nat) :
    (s.shaftSynced n).pool = s.pool ∧ (s.shaftSynced n).dmem = s.dmem ∧ (s.shaftSynced n).imem = s.imem ∧ (s.shaftSynced n).pending = s.pending := by simp [State.shaftSynced]
@[simp] theorem State.shaftSeek_keeps (s : State) (n : Nat) (cause : Nat) :
    (s.shaftSeek n cause).pool = s.pool ∧ (s.shaftSeek n cause).dmem = s.dmem ∧ (s.shaftSeek n cause).imem = s.imem ∧ (s.shaftSeek n cause).pending = s.pending := by simp [State.shaftSeek]
@[simp] theorem State.toothError_keeps (s : State) (n : Nat) :
    (s.toothError n).pool = s.pool ∧ (s.toothError n).dmem = s.dmem ∧ (s.toothError n).imem = s.imem ∧ (s.toothError n).pending = s.pending := by simp [State.toothError]
@[simp] theorem State.errLimit_keeps (s : State) (n : Nat) :
    (s.errLimit n).pool = s.pool ∧ (s.errLimit n).dmem = s.dmem ∧ (s.errLimit n).imem = s.imem ∧ (s.errLimit n).pending = s.pending := by simp [State.errLimit]
@[simp] theorem State.setSigned_keeps (s : State) (a : Nat) (v : Int) :
    (s.setSigned a v).pool = s.pool ∧ (s.setSigned a v).dmem = s.dmem ∧ (s.setSigned a v).imem = s.imem ∧ (s.setSigned a v).pending = s.pending := by simp [State.setSigned]
@[simp] theorem State.phaseSample_keeps (s : State) (n : Nat) :
    (s.phaseSample n).pool = s.pool ∧ (s.phaseSample n).dmem = s.dmem ∧ (s.phaseSample n).imem = s.imem ∧ (s.phaseSample n).pending = s.pending := by simp [State.phaseSample]
@[simp] theorem State.phaseClear_keeps (s : State) (n : Nat) :
    (s.phaseClear n).pool = s.pool ∧ (s.phaseClear n).dmem = s.dmem ∧ (s.phaseClear n).imem = s.imem ∧ (s.phaseClear n).pending = s.pending := by simp [State.phaseClear]
@[simp] theorem State.phaseAtEdge_keeps (s : State) (sh : Nat) :
    (s.phaseAtEdge sh).pool = s.pool ∧ (s.phaseAtEdge sh).dmem = s.dmem ∧ (s.phaseAtEdge sh).imem = s.imem ∧ (s.phaseAtEdge sh).pending = s.pending := by simp [State.phaseAtEdge]
@[simp] theorem State.shaftRevs_keeps (s : State) (n : Nat) :
    (s.shaftRevs n).pool = s.pool ∧ (s.shaftRevs n).dmem = s.dmem ∧ (s.shaftRevs n).imem = s.imem ∧ (s.shaftRevs n).pending = s.pending := by
  unfold State.shaftRevs; dsimp only; (repeat' split) <;> simp
@[simp] theorem State.shaftReverse_keeps (s : State) (n : Nat) :
    (s.shaftReverse n).pool = s.pool ∧ (s.shaftReverse n).dmem = s.dmem ∧ (s.shaftReverse n).imem = s.imem ∧ (s.shaftReverse n).pending = s.pending := by simp [State.shaftReverse]
@[simp] theorem State.acceptEdge_keeps (s : State) (n : Nat) (e : EdgeIn) :
    (s.acceptEdge n e).pool = s.pool ∧ (s.acceptEdge n e).dmem = s.dmem ∧ (s.acceptEdge n e).imem = s.imem ∧ (s.acceptEdge n e).pending = s.pending := by simp [State.acceptEdge]
@[simp] theorem State.heldEdge_keeps (s : State) (n : Nat) (rev : Bool) (iv : Option Interval) :
    (s.heldEdge n rev iv).pool = s.pool ∧ (s.heldEdge n rev iv).dmem = s.dmem ∧ (s.heldEdge n rev iv).imem = s.imem ∧ (s.heldEdge n rev iv).pending = s.pending := by simp [State.heldEdge]
@[simp] theorem State.movedEdge_keeps (s : State) (n : Nat) (rev : Bool) (iv : Option Interval) (p : Place) (mode : Landing) :
    (s.movedEdge n rev iv p mode).pool = s.pool ∧ (s.movedEdge n rev iv p mode).dmem = s.dmem ∧ (s.movedEdge n rev iv p mode).imem = s.imem ∧ (s.movedEdge n rev iv p mode).pending = s.pending := by simp [State.movedEdge]
@[simp] theorem State.syncEdge_keeps (s : State) (n : Nat) (iv : Option Interval) (turn : Nat) (hp : Nat) (cause : Nat) :
    (s.syncEdge n iv turn hp cause).pool = s.pool ∧ (s.syncEdge n iv turn hp cause).dmem = s.dmem ∧ (s.syncEdge n iv turn hp cause).imem = s.imem ∧ (s.syncEdge n iv turn hp cause).pending = s.pending := by simp [State.syncEdge]
@[simp] theorem State.syncBetween_keeps (s : State) (n : Nat) (turn : Nat) (hp : Nat) (cause : Nat) :
    (s.syncBetween n turn hp cause).pool = s.pool ∧ (s.syncBetween n turn hp cause).dmem = s.dmem ∧ (s.syncBetween n turn hp cause).imem = s.imem ∧ (s.syncBetween n turn hp cause).pending = s.pending := by simp [State.syncBetween]
@[simp] theorem State.mainSeen_keeps (s : State) (n : Nat) (c : Nat) :
    (s.mainSeen n c).pool = s.pool ∧ (s.mainSeen n c).dmem = s.dmem ∧ (s.mainSeen n c).imem = s.imem ∧ (s.mainSeen n c).pending = s.pending := by simp [State.mainSeen]
@[simp] theorem State.relSync_keeps (s : State) (n : Nat) (rev : Bool) (iv : Option Interval) (hp : Nat) :
    (s.relSync n rev iv hp).pool = s.pool ∧ (s.relSync n rev iv hp).dmem = s.dmem ∧ (s.relSync n rev iv hp).imem = s.imem ∧ (s.relSync n rev iv hp).pending = s.pending := by simp [State.relSync]
@[simp] theorem State.seekTooth_keeps (s : State) (n : Nat) (rev : Bool) (dt : Nat) (r : Option Nat) :
    (s.seekTooth n rev dt r).pool = s.pool ∧ (s.seekTooth n rev dt r).dmem = s.dmem ∧ (s.seekTooth n rev dt r).imem = s.imem ∧ (s.seekTooth n rev dt r).pending = s.pending := by
  unfold State.seekTooth; dsimp only; (repeat' split) <;> simp
@[simp] theorem State.foundTooth_keeps (s : State) (n : Nat) (rev : Bool) (dt : Nat) (r : Option Nat) :
    (s.foundTooth n rev dt r).pool = s.pool ∧ (s.foundTooth n rev dt r).dmem = s.dmem ∧ (s.foundTooth n rev dt r).imem = s.imem ∧ (s.foundTooth n rev dt r).pending = s.pending := by
  unfold State.foundTooth; dsimp only; (repeat' split) <;> simp
@[simp] theorem State.syncTooth_keeps (s : State) (n : Nat) (rev : Bool) (dt : Nat) :
    (s.syncTooth n rev dt).pool = s.pool ∧ (s.syncTooth n rev dt).dmem = s.dmem ∧ (s.syncTooth n rev dt).imem = s.imem ∧ (s.syncTooth n rev dt).pending = s.pending := by simp [State.syncTooth]
@[simp] theorem State.limpResolve_keeps (s : State) (n : Nat) (rev : Bool) (e : Nat) (cum : Nat) (move : Nat) (main : Bool) (iv : Option Interval) :
    (s.limpResolve n rev e cum move main iv).1.pool = s.pool ∧ (s.limpResolve n rev e cum move main iv).1.dmem = s.dmem ∧ (s.limpResolve n rev e cum move main iv).1.imem = s.imem ∧ (s.limpResolve n rev e cum move main iv).1.pending = s.pending := by
  unfold State.limpResolve; dsimp only; (repeat' split) <;> simp
@[simp] theorem State.limpTooth_keeps (s : State) (n : Nat) (rev : Bool) (dt : Nat) (c : Nat) :
    (s.limpTooth n rev dt c).pool = s.pool ∧ (s.limpTooth n rev dt c).dmem = s.dmem ∧ (s.limpTooth n rev dt c).imem = s.imem ∧ (s.limpTooth n rev dt c).pending = s.pending := by
  unfold State.limpTooth; dsimp only; (repeat' split) <;> simp
@[simp] theorem State.toothEdge_keeps (s : State) (n : Nat) :
    (s.toothEdge n).pool = s.pool ∧ (s.toothEdge n).dmem = s.dmem ∧ (s.toothEdge n).imem = s.imem ∧ (s.toothEdge n).pending = s.pending := by
  unfold State.toothEdge; dsimp only; (repeat' split) <;> simp
@[simp] theorem State.idxSeen_keeps (s : State) (n : Nat) (rising : Bool) (e : Option Nat) (timed : Option Nat) :
    (s.idxSeen n rising e timed).pool = s.pool ∧ (s.idxSeen n rising e timed).dmem = s.dmem ∧ (s.idxSeen n rising e timed).imem = s.imem ∧ (s.idxSeen n rising e timed).pending = s.pending := by simp [State.idxSeen]
@[simp] theorem State.limpAccept_keeps (s : State) (n : Nat) (e : Nat) (rev : Bool) (p : Place) (iv : Option Interval) (mode : Landing) :
    (s.limpAccept n e rev p iv mode).pool = s.pool ∧ (s.limpAccept n e rev p iv mode).dmem = s.dmem ∧ (s.limpAccept n e rev p iv mode).imem = s.imem ∧ (s.limpAccept n e rev p iv mode).pending = s.pending := by simp [State.limpAccept]
@[simp] theorem State.limpMark_keeps (s : State) (n : Nat) (e : Nat) (rev : Bool) (iv : Option Interval) :
    (s.limpMark n e rev iv).1.pool = s.pool ∧ (s.limpMark n e rev iv).1.dmem = s.dmem ∧ (s.limpMark n e rev iv).1.imem = s.imem ∧ (s.limpMark n e rev iv).1.pending = s.pending := by
  unfold State.limpMark; dsimp only; (repeat' split) <;> simp
@[simp] theorem State.limpEnter_keeps (s : State) (n : Nat) (e : Nat) (cause : Nat) (rev : Bool) (p : Place) (iv : Option Interval) :
    (s.limpEnter n e cause rev p iv).pool = s.pool ∧ (s.limpEnter n e cause rev p iv).dmem = s.dmem ∧ (s.limpEnter n e cause rev p iv).imem = s.imem ∧ (s.limpEnter n e cause rev p iv).pending = s.pending := by simp [State.limpEnter]
@[simp] theorem State.seekIdx_keeps (s : State) (n : Nat) (rising : Bool) (rev : Bool) :
    (s.seekIdx n rising rev).pool = s.pool ∧ (s.seekIdx n rising rev).dmem = s.dmem ∧ (s.seekIdx n rising rev).imem = s.imem ∧ (s.seekIdx n rising rev).pending = s.pending := by
  unfold State.seekIdx; dsimp only; (repeat' split) <;> simp
@[simp] theorem State.foundIdx_keeps (s : State) (n : Nat) (rising : Bool) (rev : Bool) :
    (s.foundIdx n rising rev).pool = s.pool ∧ (s.foundIdx n rising rev).dmem = s.dmem ∧ (s.foundIdx n rising rev).imem = s.imem ∧ (s.foundIdx n rising rev).pending = s.pending := by
  unfold State.foundIdx; dsimp only; (repeat' split) <;> simp
@[simp] theorem State.syncedIdx_keeps (s : State) (n : Nat) (rising : Bool) (rev : Bool) (teeth : Nat) (before : Option Nat) (ticks : Option Nat) :
    (s.syncedIdx n rising rev teeth before ticks).pool = s.pool ∧ (s.syncedIdx n rising rev teeth before ticks).dmem = s.dmem ∧ (s.syncedIdx n rising rev teeth before ticks).imem = s.imem ∧ (s.syncedIdx n rising rev teeth before ticks).pending = s.pending := by
  unfold State.syncedIdx; dsimp only; (repeat' split) <;> simp
@[simp] theorem State.limpIdx_keeps (s : State) (n : Nat) (rising : Bool) (rev : Bool) (ticks : Option Nat) :
    (s.limpIdx n rising rev ticks).pool = s.pool ∧ (s.limpIdx n rising rev ticks).dmem = s.dmem ∧ (s.limpIdx n rising rev ticks).imem = s.imem ∧ (s.limpIdx n rising rev ticks).pending = s.pending := by simp [State.limpIdx]
@[simp] theorem State.secondEdge_keeps (s : State) (n : Nat) (rising : Bool) :
    (s.secondEdge n rising).pool = s.pool ∧ (s.secondEdge n rising).dmem = s.dmem ∧ (s.secondEdge n rising).imem = s.imem ∧ (s.secondEdge n rising).pending = s.pending := by
  unfold State.secondEdge; dsimp only; (repeat' split) <;> simp
@[simp] theorem State.idxLoss_keeps (s : State) (n : Nat) :
    (s.idxLoss n).pool = s.pool ∧ (s.idxLoss n).dmem = s.dmem ∧ (s.idxLoss n).imem = s.imem ∧ (s.idxLoss n).pending = s.pending := by simp [State.idxLoss]
@[simp] theorem State.incrEdge_keeps (s : State) (n : Nat) (d : Int) (rev0 : Bool) (pos : Nat) :
    (s.incrEdge n d rev0 pos).pool = s.pool ∧ (s.incrEdge n d rev0 pos).dmem = s.dmem ∧ (s.incrEdge n d rev0 pos).imem = s.imem ∧ (s.incrEdge n d rev0 pos).pending = s.pending := by
  unfold State.incrEdge; dsimp only; (repeat' split) <;> simp
@[simp] theorem State.incrMark_keeps (s : State) (n : Nat) (o : IndexMark) (rev0 : Bool) (pos : Nat) :
    (s.incrMark n o rev0 pos).pool = s.pool ∧ (s.incrMark n o rev0 pos).dmem = s.dmem ∧ (s.incrMark n o rev0 pos).imem = s.imem ∧ (s.incrMark n o rev0 pos).pending = s.pending := by
  unfold State.incrMark; dsimp only; (repeat' split) <;> simp
@[simp] theorem State.absBadFrame_keeps (s : State) (n : Nat) :
    (s.absBadFrame n).pool = s.pool ∧ (s.absBadFrame n).dmem = s.dmem ∧ (s.absBadFrame n).imem = s.imem ∧ (s.absBadFrame n).pending = s.pending := by simp [State.absBadFrame]
@[simp] theorem State.absFrame_keeps (s : State) (n : Nat) (turns : Nat) (frac : Nat) (d : Int) (rev0 : Bool) (sample : Nat) :
    (s.absFrame n turns frac d rev0 sample).pool = s.pool ∧ (s.absFrame n turns frac d rev0 sample).dmem = s.dmem ∧ (s.absFrame n turns frac d rev0 sample).imem = s.imem ∧ (s.absFrame n turns frac d rev0 sample).pending = s.pending := by
  unfold State.absFrame; dsimp only; (repeat' split) <;> simp
@[simp] theorem State.shaftsPortFault_keeps (s : State) (p : Nat) :
    (s.shaftsPortFault p).pool = s.pool ∧ (s.shaftsPortFault p).dmem = s.dmem ∧ (s.shaftsPortFault p).imem = s.imem ∧ (s.shaftsPortFault p).pending = s.pending := by simp [State.shaftsPortFault]
@[simp] theorem State.countStill_keeps (s : State) (n : Nat) :
    (s.countStill n).pool = s.pool ∧ (s.countStill n).dmem = s.dmem ∧ (s.countStill n).imem = s.imem ∧ (s.countStill n).pending = s.pending := by simp [State.countStill]
@[simp] theorem State.stillTimeout_keeps (s : State) (n : Nat) :
    (s.stillTimeout n).pool = s.pool ∧ (s.stillTimeout n).dmem = s.dmem ∧ (s.stillTimeout n).imem = s.imem ∧ (s.stillTimeout n).pending = s.pending := by simp [State.stillTimeout]
@[simp] theorem State.shaftHalt_keeps (s : State) (n : Nat) :
    (s.shaftHalt n).pool = s.pool ∧ (s.shaftHalt n).dmem = s.dmem ∧ (s.shaftHalt n).imem = s.imem ∧ (s.shaftHalt n).pending = s.pending := by simp [State.shaftHalt]
@[simp] theorem State.catchClosed_keeps (s : State) (n : Nat) :
    (s.catchClosed n).pool = s.pool ∧ (s.catchClosed n).dmem = s.dmem ∧ (s.catchClosed n).imem = s.imem ∧ (s.catchClosed n).pending = s.pending := by simp [State.catchClosed]
@[simp] theorem State.fabricTick_keeps (s : State) (n : Nat) :
    (s.fabricTick n).pool = s.pool ∧ (s.fabricTick n).dmem = s.dmem ∧ (s.fabricTick n).imem = s.imem ∧ (s.fabricTick n).pending = s.pending := by
  unfold State.fabricTick; dsimp only; (repeat' split) <;> simp
@[simp] theorem State.profileTick_keeps (s : State) (n : Nat) :
    (s.profileTick n).pool = s.pool ∧ (s.profileTick n).dmem = s.dmem ∧ (s.profileTick n).imem = s.imem ∧ (s.profileTick n).pending = s.pending := by simp [State.profileTick]
@[simp] theorem State.shaftTick_keeps (s : State) (n : Nat) :
    (s.shaftTick n).pool = s.pool ∧ (s.shaftTick n).dmem = s.dmem ∧ (s.shaftTick n).imem = s.imem ∧ (s.shaftTick n).pending = s.pending := by simp [State.shaftTick]
@[simp] theorem State.virtRecompute_keeps (s : State) (n : Nat) :
    (s.virtRecompute n).pool = s.pool ∧ (s.virtRecompute n).dmem = s.dmem ∧ (s.virtRecompute n).imem = s.imem ∧ (s.virtRecompute n).pending = s.pending := by simp [State.virtRecompute]
@[simp] theorem State.profileReversal_keeps (s : State) (n : Nat) :
    (s.profileReversal n).pool = s.pool ∧ (s.profileReversal n).dmem = s.dmem ∧ (s.profileReversal n).imem = s.imem ∧ (s.profileReversal n).pending = s.pending := by simp [State.profileReversal]
@[simp] theorem State.virtHoldEnd_keeps (s : State) (n : Nat) :
    (s.virtHoldEnd n).pool = s.pool ∧ (s.virtHoldEnd n).dmem = s.dmem ∧ (s.virtHoldEnd n).imem = s.imem ∧ (s.virtHoldEnd n).pending = s.pending := by
  unfold State.virtHoldEnd; dsimp only; (repeat' split) <;> simp
@[simp] theorem State.virtTimeout_keeps (s : State) (n : Nat) :
    (s.virtTimeout n).pool = s.pool ∧ (s.virtTimeout n).dmem = s.dmem ∧ (s.virtTimeout n).imem = s.imem ∧ (s.virtTimeout n).pending = s.pending := by simp [State.virtTimeout]
@[simp] theorem State.virtArrive_keeps (s : State) (n : Nat) (b : Broadcast) (valid : Bool) :
    (s.virtArrive n b valid).pool = s.pool ∧ (s.virtArrive n b valid).dmem = s.dmem ∧ (s.virtArrive n b valid).imem = s.imem ∧ (s.virtArrive n b valid).pending = s.pending := by simp [State.virtArrive]
@[simp] theorem State.shaftEnable_keeps (s : State) (n : Nat) :
    (s.shaftEnable n).pool = s.pool ∧ (s.shaftEnable n).dmem = s.dmem ∧ (s.shaftEnable n).imem = s.imem ∧ (s.shaftEnable n).pending = s.pending := by simp [State.shaftEnable]
@[simp] theorem State.shaftDisable_keeps (s : State) (n : Nat) :
    (s.shaftDisable n).pool = s.pool ∧ (s.shaftDisable n).dmem = s.dmem ∧ (s.shaftDisable n).imem = s.imem ∧ (s.shaftDisable n).pending = s.pending := by simp [State.shaftDisable]
@[simp] theorem State.writeShaftCfg_keeps (s : State) (n : Nat) (w : Wr) :
    (s.writeShaftCfg n w).1.pool = s.pool ∧ (s.writeShaftCfg n w).1.dmem = s.dmem ∧ (s.writeShaftCfg n w).1.imem = s.imem ∧ (s.writeShaftCfg n w).1.pending = s.pending := by simp [State.writeShaftCfg]
@[simp] theorem State.writePhaseCfg_keeps (s : State) (n : Nat) (w : Wr) :
    (s.writePhaseCfg n w).1.pool = s.pool ∧ (s.writePhaseCfg n w).1.dmem = s.dmem ∧ (s.writePhaseCfg n w).1.imem = s.imem ∧ (s.writePhaseCfg n w).1.pending = s.pending := by simp [State.writePhaseCfg]
@[simp] theorem State.writeShaft_keeps (s : State) (n : Nat) (w : Wr) :
    (s.writeShaft n w).1.pool = s.pool ∧ (s.writeShaft n w).1.dmem = s.dmem ∧ (s.writeShaft n w).1.imem = s.imem ∧ (s.writeShaft n w).1.pending = s.pending := by simp [State.writeShaft]
@[simp] theorem State.portEvent_keeps (s : State) (p : Nat) (cause : Nat) :
    (s.portEvent p cause).pool = s.pool ∧ (s.portEvent p cause).dmem = s.dmem ∧ (s.portEvent p cause).imem = s.imem ∧ (s.portEvent p cause).pending = s.pending := by simp [State.portEvent]
@[simp] theorem State.portError_keeps (s : State) (p : Nat) (cause : Nat) :
    (s.portError p cause).pool = s.pool ∧ (s.portError p cause).dmem = s.dmem ∧ (s.portError p cause).imem = s.imem ∧ (s.portError p cause).pending = s.pending := by simp [State.portError]
@[simp] theorem State.portFault_keeps (s : State) (p : Nat) :
    (s.portFault p).pool = s.pool ∧ (s.portFault p).dmem = s.dmem ∧ (s.portFault p).imem = s.imem ∧ (s.portFault p).pending = s.pending := by simp [State.portFault]
@[simp] theorem State.quadDouble_keeps (s : State) (p : Nat) :
    (s.quadDouble p).pool = s.pool ∧ (s.quadDouble p).dmem = s.dmem ∧ (s.quadDouble p).imem = s.imem ∧ (s.quadDouble p).pending = s.pending := by simp [State.quadDouble]
@[simp] theorem State.hallError_keeps (s : State) (p : Nat) :
    (s.hallError p).pool = s.pool ∧ (s.hallError p).dmem = s.dmem ∧ (s.hallError p).imem = s.imem ∧ (s.hallError p).pending = s.pending := by simp [State.hallError]
@[simp] theorem State.portCount_keeps (s : State) (p : Nat) (o : Port) :
    (s.portCount p o).1.pool = s.pool ∧ (s.portCount p o).1.dmem = s.dmem ∧ (s.portCount p o).1.imem = s.imem ∧ (s.portCount p o).1.pending = s.pending := by
  unfold State.portCount; dsimp only; (repeat' split) <;> simp
@[simp] theorem State.portRaw_keeps (s : State) (p : Nat) (d : Int) :
    (s.portRaw p d).1.pool = s.pool ∧ (s.portRaw p d).1.dmem = s.dmem ∧ (s.portRaw p d).1.imem = s.imem ∧ (s.portRaw p d).1.pending = s.pending := by simp [State.portRaw]
@[simp] theorem State.emuDrive_keeps (s : State) (p : Nat) (src : Nat) (level : Bool) :
    (s.emuDrive p src level).pool = s.pool ∧ (s.emuDrive p src level).dmem = s.dmem ∧ (s.emuDrive p src level).imem = s.imem ∧ (s.emuDrive p src level).pending = s.pending := by simp [State.emuDrive]
@[simp] theorem State.emuShow_keeps (s : State) (p : Nat) :
    (s.emuShow p).pool = s.pool ∧ (s.emuShow p).dmem = s.dmem ∧ (s.emuShow p).imem = s.imem ∧ (s.emuShow p).pending = s.pending := by simp [State.emuShow]
@[simp] theorem State.emuInput_keeps (s : State) (p : Nat) (d : Int) :
    (s.emuInput p d).pool = s.pool ∧ (s.emuInput p d).dmem = s.dmem ∧ (s.emuInput p d).imem = s.imem ∧ (s.emuInput p d).pending = s.pending := by simp [State.emuInput]
@[simp] theorem State.emuCount_keeps (s : State) (p : Nat) :
    (s.emuCount p).pool = s.pool ∧ (s.emuCount p).dmem = s.dmem ∧ (s.emuCount p).imem = s.imem ∧ (s.emuCount p).pending = s.pending := by simp [State.emuCount]
@[simp] theorem State.indexDeliver_keeps (s : State) (p : Nat) (o : IndexMark) :
    (s.indexDeliver p o).pool = s.pool ∧ (s.indexDeliver p o).dmem = s.dmem ∧ (s.indexDeliver p o).imem = s.imem ∧ (s.indexDeliver p o).pending = s.pending := by simp [State.indexDeliver]
@[simp] theorem State.indexEvent_keeps (s : State) (p : Nat) :
    (s.indexEvent p).pool = s.pool ∧ (s.indexEvent p).dmem = s.dmem ∧ (s.indexEvent p).imem = s.imem ∧ (s.indexEvent p).pending = s.pending := by simp [State.indexEvent]
@[simp] theorem State.probeLatch_keeps (s : State) (p : Nat) :
    (s.probeLatch p).pool = s.pool ∧ (s.probeLatch p).dmem = s.dmem ∧ (s.probeLatch p).imem = s.imem ∧ (s.probeLatch p).pending = s.pending := by simp [State.probeLatch]
@[simp] theorem State.portDeliver_keeps (s : State) (p : Nat) (o : Port) (d : Int) :
    (s.portDeliver p o d).pool = s.pool ∧ (s.portDeliver p o d).dmem = s.dmem ∧ (s.portDeliver p o d).imem = s.imem ∧ (s.portDeliver p o d).pending = s.pending := by simp [State.portDeliver]
@[simp] theorem State.portAccept_keeps (s : State) (p : Nat) (a : Bool) (b : Bool) (z : Bool) (x : Bool) :
    (s.portAccept p a b z x).pool = s.pool ∧ (s.portAccept p a b z x).dmem = s.dmem ∧ (s.portAccept p a b z x).imem = s.imem ∧ (s.portAccept p a b z x).pending = s.pending := by simp [State.portAccept]
@[simp] theorem State.frameStart_keeps (s : State) (p : Nat) :
    (s.frameStart p).pool = s.pool ∧ (s.frameStart p).dmem = s.dmem ∧ (s.frameStart p).imem = s.imem ∧ (s.frameStart p).pending = s.pending := by simp [State.frameStart]
@[simp] theorem State.frameFail_keeps (s : State) (p : Nat) (cause : Nat) (deliver : Bool) :
    (s.frameFail p cause deliver).pool = s.pool ∧ (s.frameFail p cause deliver).dmem = s.dmem ∧ (s.frameFail p cause deliver).imem = s.imem ∧ (s.frameFail p cause deliver).pending = s.pending := by simp [State.frameFail]
@[simp] theorem State.frameGood_keeps (s : State) (p : Nat) (r : SerSample) (sample : Nat) :
    (s.frameGood p r sample).pool = s.pool ∧ (s.frameGood p r sample).dmem = s.dmem ∧ (s.frameGood p r sample).imem = s.imem ∧ (s.frameGood p r sample).pending = s.pending := by simp [State.frameGood]
@[simp] theorem State.frameEnd_keeps (s : State) (p : Nat) (r : SerSample) :
    (s.frameEnd p r).pool = s.pool ∧ (s.frameEnd p r).dmem = s.dmem ∧ (s.frameEnd p r).imem = s.imem ∧ (s.frameEnd p r).pending = s.pending := by
  unfold State.frameEnd; (repeat' split) <;> simp
@[simp] theorem State.supplyOn_keeps (s : State) (p : Nat) :
    (s.supplyOn p).pool = s.pool ∧ (s.supplyOn p).dmem = s.dmem ∧ (s.supplyOn p).imem = s.imem ∧ (s.supplyOn p).pending = s.pending := by simp [State.supplyOn]
@[simp] theorem State.settled_keeps (s : State) (p : Nat) :
    (s.settled p).pool = s.pool ∧ (s.settled p).dmem = s.dmem ∧ (s.settled p).imem = s.imem ∧ (s.settled p).pending = s.pending := by simp [State.settled]
@[simp] theorem State.supplyOff_keeps (s : State) (p : Nat) :
    (s.supplyOff p).pool = s.pool ∧ (s.supplyOff p).dmem = s.dmem ∧ (s.supplyOff p).imem = s.imem ∧ (s.supplyOff p).pending = s.pending := by simp [State.supplyOff]
@[simp] theorem State.settleEnd_keeps (s : State) (p : Nat) (a : Bool) (b : Bool) (z : Bool) (x : Bool) :
    (s.settleEnd p a b z x).pool = s.pool ∧ (s.settleEnd p a b z x).dmem = s.dmem ∧ (s.settleEnd p a b z x).imem = s.imem ∧ (s.settleEnd p a b z x).pending = s.pending := by simp [State.settleEnd]
@[simp] theorem State.overcurrent_keeps (s : State) (p : Nat) (ma : Nat) :
    (s.overcurrent p ma).pool = s.pool ∧ (s.overcurrent p ma).dmem = s.dmem ∧ (s.overcurrent p ma).imem = s.imem ∧ (s.overcurrent p ma).pending = s.pending := by simp [State.overcurrent]
@[simp] theorem State.lineBreak_keeps (s : State) (p : Nat) (i : Nat) :
    (s.lineBreak p i).pool = s.pool ∧ (s.lineBreak p i).dmem = s.dmem ∧ (s.lineBreak p i).imem = s.imem ∧ (s.lineBreak p i).pending = s.pending := by simp [State.lineBreak]
@[simp] theorem State.lineBreakEnd_keeps (s : State) (p : Nat) (i : Nat) :
    (s.lineBreakEnd p i).pool = s.pool ∧ (s.lineBreakEnd p i).dmem = s.dmem ∧ (s.lineBreakEnd p i).imem = s.imem ∧ (s.lineBreakEnd p i).pending = s.pending := by simp [State.lineBreakEnd]
@[simp] theorem State.pfaultClear_keeps (s : State) (p : Nat) :
    (s.pfaultClear p).pool = s.pool ∧ (s.pfaultClear p).dmem = s.dmem ∧ (s.pfaultClear p).imem = s.imem ∧ (s.pfaultClear p).pending = s.pending := by simp [State.pfaultClear]
@[simp] theorem State.portEnable_keeps (s : State) (p : Nat) :
    (s.portEnable p).pool = s.pool ∧ (s.portEnable p).dmem = s.dmem ∧ (s.portEnable p).imem = s.imem ∧ (s.portEnable p).pending = s.pending := by simp [State.portEnable]
@[simp] theorem State.portDisable_keeps (s : State) (p : Nat) :
    (s.portDisable p).pool = s.pool ∧ (s.portDisable p).dmem = s.dmem ∧ (s.portDisable p).imem = s.imem ∧ (s.portDisable p).pending = s.pending := by simp [State.portDisable]
@[simp] theorem State.writePortCfg_keeps (s : State) (p : Nat) (w : Wr) :
    (s.writePortCfg p w).1.pool = s.pool ∧ (s.writePortCfg p w).1.dmem = s.dmem ∧ (s.writePortCfg p w).1.imem = s.imem ∧ (s.writePortCfg p w).1.pending = s.pending := by simp [State.writePortCfg]
@[simp] theorem State.writeSupply_keeps (s : State) (p : Nat) (w : Wr) :
    (s.writeSupply p w).1.pool = s.pool ∧ (s.writeSupply p w).1.dmem = s.dmem ∧ (s.writeSupply p w).1.imem = s.imem ∧ (s.writeSupply p w).1.pending = s.pending := by simp [State.writeSupply]
@[simp] theorem State.writePos_keeps (s : State) (p : Nat) (v : Nat) :
    (s.writePos p v).1.pool = s.pool ∧ (s.writePos p v).1.dmem = s.dmem ∧ (s.writePos p v).1.imem = s.imem ∧ (s.writePos p v).1.pending = s.pending := by simp [State.writePos]
@[simp] theorem State.writeEmu_keeps (s : State) (p : Nat) (w : Wr) :
    (s.writeEmu p w).1.pool = s.pool ∧ (s.writeEmu p w).1.dmem = s.dmem ∧ (s.writeEmu p w).1.imem = s.imem ∧ (s.writeEmu p w).1.pending = s.pending := by simp [State.writeEmu]
@[simp] theorem State.writePort_keeps (s : State) (p : Nat) (w : Wr) :
    (s.writePort p w).1.pool = s.pool ∧ (s.writePort p w).1.dmem = s.dmem ∧ (s.writePort p w).1.imem = s.imem ∧ (s.writePort p w).1.pending = s.pending := by simp [State.writePort]
@[simp] theorem State.putOn_keeps (s : State) (n : Nat) (i : Nat) (p : Product) :
    (s.putOn n i p).pool = s.pool ∧ (s.putOn n i p).dmem = s.dmem ∧ (s.putOn n i p).imem = s.imem ∧ (s.putOn n i p).pending = s.pending := by simp [State.putOn]
@[simp] theorem State.storeFull_keeps (s : State) (n : Nat) :
    (s.storeFull n).pool = s.pool ∧ (s.storeFull n).dmem = s.dmem ∧ (s.storeFull n).imem = s.imem ∧ (s.storeFull n).pending = s.pending := by
  unfold State.storeFull; dsimp only; (repeat' split) <;> simp
theorem takeRecord_keeps {s : State} {r : State × Nat} (h : s.takeRecord = some r) :
    r.1.pool = s.pool ∧ r.1.dmem = s.dmem ∧ r.1.imem = s.imem ∧ r.1.pending = s.pending := by
  unfold State.takeRecord at h
  (repeat' split at h) <;> simp at h <;> subst h <;> simp
theorem makeRecord_keeps {s : State} {n : Nat} {a : Int} {slot flags : Nat} {x y : Word} {r : State × Nat}
    (h : s.makeRecord n a slot flags x y = some r) : r.1.pool = s.pool ∧ r.1.dmem = s.dmem ∧ r.1.imem = s.imem ∧ r.1.pending = s.pending := by
  unfold State.makeRecord at h
  obtain ⟨q, hq, rfl⟩ := Option.map_eq_some_iff.mp h
  have k := takeRecord_keeps hq
  simp [k]
@[simp] theorem State.enter_keeps (s : State) (n : Nat) (a : Int) (slot : Nat) (flags : Nat) :
    (s.enter n a slot flags).pool = s.pool ∧ (s.enter n a slot flags).dmem = s.dmem ∧ (s.enter n a slot flags).imem = s.imem ∧ (s.enter n a slot flags).pending = s.pending := by
  unfold State.enter; (try dsimp only); (repeat' split) <;> (try simp) <;> (have k := makeRecord_keeps ‹_›) <;> simp_all
@[simp] theorem State.skipStations_keeps (s : State) (n : Nat) (i : Nat) :
    (s.skipStations n i).pool = s.pool ∧ (s.skipStations n i).dmem = s.dmem ∧ (s.skipStations n i).imem = s.imem ∧ (s.skipStations n i).pending = s.pending := by simp [State.skipStations]
@[simp] theorem State.stnArm_keeps (s : State) (k : Nat) :
    (s.stnArm k).pool = s.pool ∧ (s.stnArm k).dmem = s.dmem ∧ (s.stnArm k).imem = s.imem ∧ (s.stnArm k).pending = s.pending := by simp [State.stnArm]
@[simp] theorem State.takeOff_keeps (s : State) (i : Nat) :
    (s.takeOff i).pool = s.pool ∧ (s.takeOff i).dmem = s.dmem ∧ (s.takeOff i).imem = s.imem ∧ (s.takeOff i).pending = s.pending := by simp [State.takeOff]
@[simp] theorem State.retireQuiet_keeps (s : State) (i : Nat) :
    (s.retireQuiet i).1.pool = s.pool ∧ (s.retireQuiet i).1.dmem = s.dmem ∧ (s.retireQuiet i).1.imem = s.imem ∧ (s.retireQuiet i).1.pending = s.pending := by simp [State.retireQuiet]
@[simp] theorem State.retireCount_keeps (s : State) (i : Nat) :
    (s.retireCount i).pool = s.pool ∧ (s.retireCount i).dmem = s.dmem ∧ (s.retireCount i).imem = s.imem ∧ (s.retireCount i).pending = s.pending := by simp [State.retireCount]
@[simp] theorem State.retire_keeps (s : State) (i : Nat) :
    (s.retire i).1.pool = s.pool ∧ (s.retire i).1.dmem = s.dmem ∧ (s.retire i).1.imem = s.imem ∧ (s.retire i).1.pending = s.pending := by simp [State.retire]
@[simp] theorem State.productExit_keeps (s : State) (n : Nat) :
    (s.productExit n).pool = s.pool ∧ (s.productExit n).dmem = s.dmem ∧ (s.productExit n).imem = s.imem ∧ (s.productExit n).pending = s.pending := by simp [State.productExit]
@[simp] theorem State.laneClear_keeps (s : State) (n : Nat) :
    (s.laneClear n).pool = s.pool ∧ (s.laneClear n).dmem = s.dmem ∧ (s.laneClear n).imem = s.imem ∧ (s.laneClear n).pending = s.pending := by simp [State.laneClear]
@[simp] theorem State.fixFirst_keeps (s : State) (n : Nat) :
    (s.fixFirst n).pool = s.pool ∧ (s.fixFirst n).dmem = s.dmem ∧ (s.fixFirst n).imem = s.imem ∧ (s.fixFirst n).pending = s.pending := by simp [State.fixFirst]
@[simp] theorem State.laneObserve_keeps (s : State) (n : Nat) :
    (s.laneObserve n).pool = s.pool ∧ (s.laneObserve n).dmem = s.dmem ∧ (s.laneObserve n).imem = s.imem ∧ (s.laneObserve n).pending = s.pending := by
  unfold State.laneObserve; dsimp only; (repeat' split) <;> simp
@[simp] theorem State.slotEnter_keeps (s : State) (n : Nat) (a : Int) (k : Nat) :
    (s.slotEnter n a k).pool = s.pool ∧ (s.slotEnter n a k).dmem = s.dmem ∧ (s.slotEnter n a k).imem = s.imem ∧ (s.slotEnter n a k).pending = s.pending := by simp [State.slotEnter]
@[simp] theorem State.slotEntry_keeps (s : State) (n : Nat) :
    (s.slotEntry n).pool = s.pool ∧ (s.slotEntry n).dmem = s.dmem ∧ (s.slotEntry n).imem = s.imem ∧ (s.slotEntry n).pending = s.pending := by
  unfold State.slotEntry; dsimp only; (repeat' split) <;> simp
@[simp] theorem State.sensorEntry_keeps (s : State) (n : Nat) :
    (s.sensorEntry n).pool = s.pool ∧ (s.sensorEntry n).dmem = s.dmem ∧ (s.sensorEntry n).imem = s.imem ∧ (s.sensorEntry n).pending = s.pending := by simp [State.sensorEntry]
@[simp] theorem State.actArm_keeps (s : State) (n : Nat) (i : Nat) (m : Nat) :
    (s.actArm n i m).1.pool = s.pool ∧ (s.actArm n i m).1.dmem = s.dmem ∧ (s.actArm n i m).1.imem = s.imem ∧ (s.actArm n i m).1.pending = s.pending := by simp [State.actArm]
@[simp] theorem State.actCode_keeps (s : State) (i : Nat) (m : Nat) (rl : Nat) :
    (s.actCode i m rl).1.pool = s.pool ∧ (s.actCode i m rl).1.dmem = s.dmem ∧ (s.actCode i m rl).1.imem = s.imem ∧ (s.actCode i m rl).1.pending = s.pending := by simp [State.actCode]
@[simp] theorem State.actSample_keeps (s : State) (i : Nat) (bit : Nat) (line : Nat) (invert : Bool) :
    (s.actSample i bit line invert).pool = s.pool ∧ (s.actSample i bit line invert).dmem = s.dmem ∧ (s.actSample i bit line invert).imem = s.imem ∧ (s.actSample i bit line invert).pending = s.pending := by simp [State.actSample]
@[simp] theorem State.actVerdict_keeps (s : State) (i : Nat) (t : Nat) (stn : Nat) :
    (s.actVerdict i t stn).pool = s.pool ∧ (s.actVerdict i t stn).dmem = s.dmem ∧ (s.actVerdict i t stn).imem = s.imem ∧ (s.actVerdict i t stn).pending = s.pending := by simp [State.actVerdict]
@[simp] theorem State.actTransfer_keeps (s : State) (i : Nat) (m : Nat) (stn : Nat) :
    (s.actTransfer i m stn).1.pool = s.pool ∧ (s.actTransfer i m stn).1.dmem = s.dmem ∧ (s.actTransfer i m stn).1.imem = s.imem ∧ (s.actTransfer i m stn).1.pending = s.pending := by simp [State.actTransfer]
@[simp] theorem State.arrive_keeps (s : State) :
    s.arrive.pool = s.pool ∧ s.arrive.dmem = s.dmem ∧ s.arrive.imem = s.imem ∧ s.arrive.pending = s.pending := by simp [State.arrive]
@[simp] theorem State.sendHandoff_keeps (s : State) (h : Handoff) (retry : Bool) :
    (s.sendHandoff h retry).pool = s.pool ∧ (s.sendHandoff h retry).dmem = s.dmem ∧ (s.sendHandoff h retry).imem = s.imem ∧ (s.sendHandoff h retry).pending = s.pending := by simp [State.sendHandoff]
@[simp] theorem State.actHandoff_keeps (s : State) (i : Nat) (dest : Nat) (lane : Nat) :
    (s.actHandoff i dest lane).1.pool = s.pool ∧ (s.actHandoff i dest lane).1.dmem = s.dmem ∧ (s.actHandoff i dest lane).1.imem = s.imem ∧ (s.actHandoff i dest lane).1.pending = s.pending := by simp [State.actHandoff]
@[simp] theorem State.actFailed_keeps (s : State) (i : Nat) (stn : Nat) :
    (s.actFailed i stn).pool = s.pool ∧ (s.actFailed i stn).dmem = s.dmem ∧ (s.actFailed i stn).imem = s.imem ∧ (s.actFailed i stn).pending = s.pending := by simp [State.actFailed]
@[simp] theorem State.act_keeps (s : State) (stn : Nat) (n : Nat) (i : Nat) (w : Word) :
    (s.act stn n i w).1.pool = s.pool ∧ (s.act stn n i w).1.dmem = s.dmem ∧ (s.act stn n i w).1.imem = s.imem ∧ (s.act stn n i w).1.pending = s.pending := by
  unfold State.act; (repeat' split) <;> simp
@[simp] theorem State.runActions_keeps (s : State) (stn : Nat) (n : Nat) (i : Nat) (p0 : Product) (a5 : List Word) :
    (s.runActions stn n i p0 a5).pool = s.pool ∧ (s.runActions stn n i p0 a5).dmem = s.dmem ∧ (s.runActions stn n i p0 a5).imem = s.imem ∧ (s.runActions stn n i p0 a5).pending = s.pending := by
  fun_induction State.runActions <;> simp_all +zetaDelta <;> (repeat' split) <;> simp_all
@[simp] theorem State.pointProduct_keeps (s : State) (k : Nat) (a : Int) :
    (s.pointProduct k a).pool = s.pool ∧ (s.pointProduct k a).dmem = s.dmem ∧ (s.pointProduct k a).imem = s.imem ∧ (s.pointProduct k a).pending = s.pending := by simp [State.pointProduct]
@[simp] theorem State.stationFire_keeps (s : State) (k : Nat) :
    (s.stationFire k).pool = s.pool ∧ (s.stationFire k).dmem = s.dmem ∧ (s.stationFire k).imem = s.imem ∧ (s.stationFire k).pending = s.pending := by
  unfold State.stationFire; (repeat' split) <;> simp
@[simp] theorem State.handoffAck_keeps (s : State) (dest : Nat) (neg : Bool) (pid : Nat) (seq : Nat) :
    (s.handoffAck dest neg pid seq).pool = s.pool ∧ (s.handoffAck dest neg pid seq).dmem = s.dmem ∧ (s.handoffAck dest neg pid seq).imem = s.imem ∧ (s.handoffAck dest neg pid seq).pending = s.pending := by simp [State.handoffAck]
@[simp] theorem State.handoffArrive_keeps (s : State) (src : Nat) (seq : Nat) (lane : Nat) (th : Int) (rec_ : Product) :
    (s.handoffArrive src seq lane th rec_).pool = s.pool ∧ (s.handoffArrive src seq lane th rec_).dmem = s.dmem ∧ (s.handoffArrive src seq lane th rec_).imem = s.imem ∧ (s.handoffArrive src seq lane th rec_).pending = s.pending := by
  unfold State.handoffArrive; (try dsimp only); (repeat' split) <;> (try simp) <;> (have k := takeRecord_keeps ‹_›) <;> simp_all
@[simp] theorem State.handoffEnd_keeps (s : State) (h : Handoff) (failed : Bool) :
    (s.handoffEnd h failed).pool = s.pool ∧ (s.handoffEnd h failed).dmem = s.dmem ∧ (s.handoffEnd h failed).imem = s.imem ∧ (s.handoffEnd h failed).pending = s.pending := by simp [State.handoffEnd]
@[simp] theorem State.handoffAcked_keeps (s : State) (neg : Bool) (pid : Nat) (seq : Nat) :
    (s.handoffAcked neg pid seq).pool = s.pool ∧ (s.handoffAcked neg pid seq).dmem = s.dmem ∧ (s.handoffAcked neg pid seq).imem = s.imem ∧ (s.handoffAcked neg pid seq).pending = s.pending := by
  unfold State.handoffAcked; (repeat' split) <;> simp
@[simp] theorem State.ackTimeout_keeps (s : State) (i : Nat) :
    (s.ackTimeout i).pool = s.pool ∧ (s.ackTimeout i).dmem = s.dmem ∧ (s.ackTimeout i).imem = s.imem ∧ (s.ackTimeout i).pending = s.pending := by
  unfold State.ackTimeout; (repeat' split) <;> simp
@[simp] theorem State.productEnter_keeps (s : State) (arg : Nat) (body : List Byte) :
    (s.productEnter arg body).1.pool = s.pool ∧ (s.productEnter arg body).1.dmem = s.dmem ∧ (s.productEnter arg body).1.imem = s.imem ∧ (s.productEnter arg body).1.pending = s.pending := by
  unfold State.productEnter; (try dsimp only); (repeat' split) <;> (try simp) <;> (have k := makeRecord_keeps ‹_›) <;> simp_all
@[simp] theorem State.recordUpdate_keeps (s : State) (i : Nat) (op : Nat) (word : Nat) (pid : Nat) (value : Nat) :
    (s.recordUpdate i op word pid value).1.pool = s.pool ∧ (s.recordUpdate i op word pid value).1.dmem = s.dmem ∧ (s.recordUpdate i op word pid value).1.imem = s.imem ∧ (s.recordUpdate i op word pid value).1.pending = s.pending := by
  unfold State.recordUpdate; (repeat' split) <;> simp
@[simp] theorem State.productUpdate_keeps (s : State) (arg : Nat) (body : List Byte) :
    (s.productUpdate arg body).1.pool = s.pool ∧ (s.productUpdate arg body).1.dmem = s.dmem ∧ (s.productUpdate arg body).1.imem = s.imem ∧ (s.productUpdate arg body).1.pending = s.pending := by simp [State.productUpdate]
@[simp] theorem State.productRetire_keeps (s : State) (arg : Nat) (body : List Byte) :
    (s.productRetire arg body).1.pool = s.pool ∧ (s.productRetire arg body).1.dmem = s.dmem ∧ (s.productRetire arg body).1.imem = s.imem ∧ (s.productRetire arg body).1.pending = s.pending := by simp [State.productRetire]
@[simp] theorem State.writeLaneCfg_keeps (s : State) (n : Nat) (w : Wr) :
    (s.writeLaneCfg n w).1.pool = s.pool ∧ (s.writeLaneCfg n w).1.dmem = s.dmem ∧ (s.writeLaneCfg n w).1.imem = s.imem ∧ (s.writeLaneCfg n w).1.pending = s.pending := by simp [State.writeLaneCfg]
@[simp] theorem State.writeLane_keeps (s : State) (n : Nat) (w : Wr) :
    (s.writeLane n w).1.pool = s.pool ∧ (s.writeLane n w).1.dmem = s.dmem ∧ (s.writeLane n w).1.imem = s.imem ∧ (s.writeLane n w).1.pending = s.pending := by simp [State.writeLane]
@[simp] theorem State.writeStation_keeps (s : State) (k : Nat) (w : Wr) :
    (s.writeStation k w).1.pool = s.pool ∧ (s.writeStation k w).1.dmem = s.dmem ∧ (s.writeStation k w).1.imem = s.imem ∧ (s.writeStation k w).1.pending = s.pending := by simp [State.writeStation]
@[simp] theorem State.writeEph_keeps (s : State) (i : Nat) (w : Wr) :
    (s.writeEph i w).1.pool = s.pool ∧ (s.writeEph i w).1.dmem = s.dmem ∧ (s.writeEph i w).1.imem = s.imem ∧ (s.writeEph i w).1.pending = s.pending := by simp [State.writeEph]
@[simp] theorem State.endDoze_keeps (s : State) :
    s.endDoze.pool = s.pool ∧ s.endDoze.dmem = s.dmem ∧ s.endDoze.imem = s.imem ∧ s.endDoze.pending = s.pending := by simp [State.endDoze]
@[simp] theorem State.makeReady_keeps (s : State) (g : Nat) :
    (s.makeReady g).pool = s.pool ∧ (s.makeReady g).dmem = s.dmem ∧ (s.makeReady g).imem = s.imem ∧ (s.makeReady g).pending = s.pending := by simp [State.makeReady]
@[simp] theorem State.setBluHold_keeps (s : State) (e : Nat) (bits : Nat) :
    (s.setBluHold e bits).pool = s.pool ∧ (s.setBluHold e bits).dmem = s.dmem ∧ (s.setBluHold e bits).imem = s.imem ∧ (s.setBluHold e bits).pending = s.pending := by simp [State.setBluHold]
@[simp] theorem State.promote_keeps (s : State) (g : Nat) :
    (s.promote g).pool = s.pool ∧ (s.promote g).dmem = s.dmem ∧ (s.promote g).imem = s.imem ∧ (s.promote g).pending = s.pending := by simp [State.promote]
@[simp] theorem State.setEdgeQ_keeps (s : State) (j : Nat) (q : List QEdge) :
    (s.setEdgeQ j q).pool = s.pool ∧ (s.setEdgeQ j q).dmem = s.dmem ∧ (s.setEdgeQ j q).imem = s.imem ∧ (s.setEdgeQ j q).pending = s.pending := by simp [State.setEdgeQ]
@[simp] theorem State.edgePlaceOut_keeps (s : State) (j : Nat) :
    (s.edgePlaceOut j).pool = s.pool ∧ (s.edgePlaceOut j).dmem = s.dmem ∧ (s.edgePlaceOut j).imem = s.imem ∧ (s.edgePlaceOut j).pending = s.pending := by
  unfold State.edgePlaceOut; (repeat' split) <;> simp
@[simp] theorem State.dropEdges_keeps (s : State) (g : Nat) :
    (s.dropEdges g).pool = s.pool ∧ (s.dropEdges g).dmem = s.dmem ∧ (s.dropEdges g).imem = s.imem ∧ (s.dropEdges g).pending = s.pending := by simp [State.dropEdges]
@[simp] theorem State.endEvents_keeps (s : State) (g : Nat) :
    (s.endEvents g).1.pool = s.pool ∧ (s.endEvents g).1.dmem = s.dmem ∧ (s.endEvents g).1.imem = s.imem ∧ (s.endEvents g).1.pending = s.pending := by simp [State.endEvents]
@[simp] theorem State.threadEnd_keeps (s : State) (g : Nat) (st : ThState) :
    (s.threadEnd g st).1.pool = s.pool ∧ (s.threadEnd g st).1.dmem = s.dmem ∧ (s.threadEnd g st).1.imem = s.imem ∧ (s.threadEnd g st).1.pending = s.pending := by simp [State.threadEnd]
@[simp] theorem State.threadFault_keeps (s : State) (g : Nat) (cause : Nat) (fpc : Nat) :
    (s.threadFault g cause fpc).pool = s.pool ∧ (s.threadFault g cause fpc).dmem = s.dmem ∧ (s.threadFault g cause fpc).imem = s.imem ∧ (s.threadFault g cause fpc).pending = s.pending := by simp [State.threadFault]
@[simp] theorem State.yieldPoint_keeps (s : State) (g : Nat) :
    (s.yieldPoint g).pool = s.pool ∧ (s.yieldPoint g).dmem = s.dmem ∧ (s.yieldPoint g).imem = s.imem ∧ (s.yieldPoint g).pending = s.pending := by
  unfold State.yieldPoint; dsimp only; (repeat' split) <;> simp
@[simp] theorem State.waitPoint_keeps (s : State) (g : Nat) :
    (s.waitPoint g).pool = s.pool ∧ (s.waitPoint g).dmem = s.dmem ∧ (s.waitPoint g).imem = s.imem ∧ (s.waitPoint g).pending = s.pending := by
  unfold State.waitPoint; dsimp only; (repeat' split) <;> simp
@[simp] theorem State.forcedYield_keeps (s : State) (g : Nat) :
    (s.forcedYield g).pool = s.pool ∧ (s.forcedYield g).dmem = s.dmem ∧ (s.forcedYield g).imem = s.imem ∧ (s.forcedYield g).pending = s.pending := by simp [State.forcedYield]
@[simp] theorem State.busErrReturn_keeps (s : State) (g : Nat) :
    (s.busErrReturn g).pool = s.pool ∧ (s.busErrReturn g).dmem = s.dmem ∧ (s.busErrReturn g).imem = s.imem ∧ (s.busErrReturn g).pending = s.pending := by
  unfold State.busErrReturn; dsimp only; (repeat' split) <;> simp
@[simp] theorem State.signalsMet_keeps (s : State) (g : Nat) (m : Nat) (dest : Option Nat) (timed : Bool) :
    (s.signalsMet g m dest timed).pool = s.pool ∧ (s.signalsMet g m dest timed).dmem = s.dmem ∧ (s.signalsMet g m dest timed).imem = s.imem ∧ (s.signalsMet g m dest timed).pending = s.pending := by simp [State.signalsMet]
@[simp] theorem State.dmemTouch_keeps (s : State) (e : Nat) (a : Nat) (n : Nat) :
    (s.dmemTouch e a n).pool = s.pool ∧ (s.dmemTouch e a n).dmem = s.dmem ∧ (s.dmemTouch e a n).imem = s.imem ∧ (s.dmemTouch e a n).pending = s.pending := by simp [State.dmemTouch]
@[simp] theorem State.setErr_keeps (s : State) (k : Nat) (m : MemErr) :
    (s.setErr k m).pool = s.pool ∧ (s.setErr k m).dmem = s.dmem ∧ (s.setErr k m).imem = s.imem ∧ (s.setErr k m).pending = s.pending := by simp [State.setErr]
@[simp] theorem State.clearErrs_keeps (s : State) (k : Nat) (n : Nat) :
    (s.clearErrs k n).pool = s.pool ∧ (s.clearErrs k n).dmem = s.dmem ∧ (s.clearErrs k n).imem = s.imem ∧ (s.clearErrs k n).pending = s.pending := by simp [State.clearErrs]
@[simp] theorem State.dmemWrite_keeps (s : State) (e : Nat) (a : Nat) (bs : List Byte) :
    (s.dmemWrite e a bs).pool = s.pool ∧ (s.dmemWrite e a bs).imem = s.imem ∧ (s.dmemWrite e a bs).pending = s.pending := by simp [State.dmemWrite]
@[simp] theorem State.edgeJoin_keeps (s : State) (g : Nat) (d : Nat) (j : Nat) (e : QEdge) :
    (s.edgeJoin g d j e).pool = s.pool ∧ (s.edgeJoin g d j e).dmem = s.dmem ∧ (s.edgeJoin g d j e).imem = s.imem ∧ (s.edgeJoin g d j e).pending = s.pending := by simp [State.edgeJoin]
@[simp] theorem State.busMet_keeps (s : State) (g : Nat) (r : Ret) :
    (s.busMet g r).pool = s.pool ∧ (s.busMet g r).imem = s.imem ∧ (s.busMet g r).pending = s.pending := by
  unfold State.busMet; (repeat' split) <;> simp
@[simp] theorem State.waitEnd_keeps (s : State) (g : Nat) :
    (s.waitEnd g).pool = s.pool ∧ (s.waitEnd g).imem = s.imem ∧ (s.waitEnd g).pending = s.pending := by
  unfold State.waitEnd; dsimp only; (repeat' split) <;> simp
@[simp] theorem State.imemWrite_keeps (s : State) (e : Nat) (a : Nat) (a3 : List Byte) (a4 : Nat) :
    (s.imemWrite e a a3 a4).pool = s.pool ∧ (s.imemWrite e a a3 a4).dmem = s.dmem ∧ (s.imemWrite e a a3 a4).pending = s.pending := by
  fun_induction State.imemWrite <;> (repeat' split) <;> simp_all +zetaDelta
@[simp] theorem State.eccFixed_keeps (s : State) (e : Nat) (m : MemErr) :
    (s.eccFixed e m).pool = s.pool ∧ (s.eccFixed e m).dmem = s.dmem ∧ (s.eccFixed e m).imem = s.imem ∧ (s.eccFixed e m).pending = s.pending := by simp [State.eccFixed]
@[simp] theorem State.readBack_keeps (s : State) (e : Nat) (k : Nat) (n : Nat) :
    (s.readBack e k n).pool = s.pool ∧ (s.readBack e k n).dmem = s.dmem ∧ (s.readBack e k n).imem = s.imem ∧ (s.readBack e k n).pending = s.pending := by simp [State.readBack]
@[simp] theorem State.bluLoad_keeps (s : State) (arg : Nat) (body : List Byte) :
    (s.bluLoad arg body).1.pool = s.pool ∧ (s.bluLoad arg body).1.pending = s.pending := by simp [State.bluLoad]
@[simp] theorem State.bluStart_keeps (s : State) (arg : Nat) (body : List Byte) :
    (s.bluStart arg body).1.pool = s.pool ∧ (s.bluStart arg body).1.dmem = s.dmem ∧ (s.bluStart arg body).1.imem = s.imem ∧ (s.bluStart arg body).1.pending = s.pending := by simp [State.bluStart]
@[simp] theorem State.threadStop_keeps (s : State) (g : Nat) :
    (s.threadStop g).1.pool = s.pool ∧ (s.threadStop g).1.dmem = s.dmem ∧ (s.threadStop g).1.imem = s.imem ∧ (s.threadStop g).1.pending = s.pending := by
  unfold State.threadStop; dsimp only; (repeat' split) <;> simp
@[simp] theorem State.bluStop_keeps (s : State) (arg : Nat) :
    (s.bluStop arg).1.pool = s.pool ∧ (s.bluStop arg).1.dmem = s.dmem ∧ (s.bluStop arg).1.imem = s.imem ∧ (s.bluStop arg).1.pending = s.pending := by
  unfold State.bluStop
  generalize stopNames arg = l
  suffices h : ∀ (l : List Nat) (r : State × Nat), (l.foldl (fun r g => ((r.1.threadStop g).1, r.2 + (r.1.threadStop g).2)) r).1.pool = r.1.pool ∧
      (l.foldl (fun r g => ((r.1.threadStop g).1, r.2 + (r.1.threadStop g).2)) r).1.dmem = r.1.dmem ∧
      (l.foldl (fun r g => ((r.1.threadStop g).1, r.2 + (r.1.threadStop g).2)) r).1.imem = r.1.imem ∧
      (l.foldl (fun r g => ((r.1.threadStop g).1, r.2 + (r.1.threadStop g).2)) r).1.pending = r.1.pending from h l (s, 0)
  intro l
  induction l with
  | nil => simp
  | cons g l ih => intro r; simp [ih]
@[simp] theorem State.stopThreads_keeps (s : State) :
    s.stopThreads.pool = s.pool ∧ s.stopThreads.dmem = s.dmem ∧ s.stopThreads.imem = s.imem ∧ s.stopThreads.pending = s.pending := by simp [State.stopThreads]
@[simp] theorem State.writeBlu_keeps (s : State) (e : Nat) (k : Nat) (w : Wr) :
    (s.writeBlu e k w).1.pool = s.pool ∧ (s.writeBlu e k w).1.dmem = s.dmem ∧ (s.writeBlu e k w).1.imem = s.imem ∧ (s.writeBlu e k w).1.pending = s.pending := by simp [State.writeBlu]
@[simp] theorem State.wakeEvent_keeps (s : State) (v : Nat) :
    (s.wakeEvent v).pool = s.pool ∧ (s.wakeEvent v).dmem = s.dmem ∧ (s.wakeEvent v).imem = s.imem ∧ (s.wakeEvent v).pending = s.pending := by simp [State.wakeEvent]
@[simp] theorem State.canWake_keeps (s : State) (source : Nat) (shaft : Nat) (code : Nat) :
    (s.canWake source shaft code).pool = s.pool ∧ (s.canWake source shaft code).dmem = s.dmem ∧ (s.canWake source shaft code).imem = s.imem ∧ (s.canWake source shaft code).pending = s.pending := by simp [State.canWake]
@[simp] theorem State.setCanDec_keeps (s : State) (n : Nat) (x : CanDec) :
    (s.setCanDec n x).pool = s.pool ∧ (s.setCanDec n x).dmem = s.dmem ∧ (s.setCanDec n x).imem = s.imem ∧ (s.setCanDec n x).pending = s.pending := by simp [State.setCanDec]
@[simp] theorem State.canTake_keeps (s : State) :
    s.canTake.pool = s.pool ∧ s.canTake.dmem = s.dmem ∧ s.canTake.imem = s.imem ∧ s.canTake.pending = s.pending := by simp [State.canTake]
@[simp] theorem State.canEdge_keeps (s : State) (n : Nat) (a : Bool) (b : Bool) (dirX : Bool) (dirA : Bool) (fast : Bool) :
    (s.canEdge n a b dirX dirA fast).pool = s.pool ∧ (s.canEdge n a b dirX dirA fast).dmem = s.dmem ∧ (s.canEdge n a b dirX dirA fast).imem = s.imem ∧ (s.canEdge n a b dirX dirA fast).pending = s.pending := by simp [State.canEdge]
@[simp] theorem State.setCanV_keeps (s : State) (i : Nat) (w : Word) :
    (s.setCanV i w).pool = s.pool ∧ (s.setCanV i w).dmem = s.dmem ∧ (s.setCanV i w).imem = s.imem ∧ (s.setCanV i w).pending = s.pending := by simp [State.setCanV]
@[simp] theorem State.canEnd_keeps (s : State) :
    s.canEnd.pool = s.pool ∧ s.canEnd.dmem = s.dmem ∧ s.canEnd.imem = s.imem ∧ s.canEnd.pending = s.pending := by simp [State.canEnd]
@[simp] theorem State.canFaultEnd_keeps (s : State) (fault : Nat) :
    (s.canFaultEnd fault).pool = s.pool ∧ (s.canFaultEnd fault).dmem = s.dmem ∧ (s.canFaultEnd fault).imem = s.imem ∧ (s.canFaultEnd fault).pending = s.pending := by simp [State.canFaultEnd]
@[simp] theorem State.canSettle_keeps (s : State) :
    s.canSettle.pool = s.pool ∧ s.canSettle.dmem = s.dmem ∧ s.canSettle.imem = s.imem ∧ s.canSettle.pending = s.pending := by simp [State.canSettle]
@[simp] theorem State.canBegin_keeps (s : State) (run : CanRun) (sample : List (Nat × Word)) :
    (s.canBegin run sample).pool = s.pool ∧ (s.canBegin run sample).dmem = s.dmem ∧ (s.canBegin run sample).imem = s.imem ∧ (s.canBegin run sample).pending = s.pending := by simp [State.canBegin]
@[simp] theorem State.canRun_keeps (s : State) (i : CanInputs) :
    (s.canRun i).pool = s.pool ∧ (s.canRun i).dmem = s.dmem ∧ (s.canRun i).imem = s.imem ∧ (s.canRun i).pending = s.pending := by simp [State.canRun]
@[simp] theorem State.canTest_keeps (s : State) :
    s.canTest.pool = s.pool ∧ s.canTest.dmem = s.dmem ∧ s.canTest.imem = s.imem ∧ s.canTest.pending = s.pending := by simp [State.canTest]
@[simp] theorem State.canFlags_keeps (s : State) (z : Bool) (n : Bool) :
    (s.canFlags z n).pool = s.pool ∧ (s.canFlags z n).dmem = s.dmem ∧ (s.canFlags z n).imem = s.imem ∧ (s.canFlags z n).pending = s.pending := by simp [State.canFlags]
@[simp] theorem State.canLatch_keeps (s : State) (i : Nat) (w : Word) :
    (s.canLatch i w).pool = s.pool ∧ (s.canLatch i w).dmem = s.dmem ∧ (s.canLatch i w).imem = s.imem ∧ (s.canLatch i w).pending = s.pending := by simp [State.canLatch]
@[simp] theorem State.canWakeCode_keeps (s : State) (code : Nat) :
    (s.canWakeCode code).pool = s.pool ∧ (s.canWakeCode code).dmem = s.dmem ∧ (s.canWakeCode code).imem = s.imem ∧ (s.canWakeCode code).pending = s.pending := by simp [State.canWakeCode]
@[simp] theorem State.canRaise_keeps (s : State) (i : Nat) (w : Word) :
    (s.canRaise i w).pool = s.pool ∧ (s.canRaise i w).dmem = s.dmem ∧ (s.canRaise i w).imem = s.imem ∧ (s.canRaise i w).pending = s.pending := by simp [State.canRaise]
@[simp] theorem State.canLoad_keeps (s : State) (arg : Nat) (body : List Byte) :
    (s.canLoad arg body).1.pool = s.pool ∧ (s.canLoad arg body).1.dmem = s.dmem ∧ (s.canLoad arg body).1.imem = s.imem ∧ (s.canLoad arg body).1.pending = s.pending := by simp [State.canLoad]
@[simp] theorem State.writeCan_keeps (s : State) (w : Wr) :
    (s.writeCan w).1.pool = s.pool ∧ (s.writeCan w).1.dmem = s.dmem ∧ (s.writeCan w).1.imem = s.imem ∧ (s.writeCan w).1.pending = s.pending := by simp [State.writeCan]
@[simp] theorem State.deliverySelect_keeps (s : State) (t : Nat) :
    (s.deliverySelect t).pool = s.pool ∧ (s.deliverySelect t).dmem = s.dmem ∧ (s.deliverySelect t).imem = s.imem ∧ (s.deliverySelect t).pending = s.pending := by simp [State.deliverySelect]
@[simp] theorem State.sendRecords_keeps (s : State) (t : Nat) (is : List Nat) (resend : Bool) :
    (s.sendRecords t is resend).pool = s.pool ∧ (s.sendRecords t is resend).dmem = s.dmem ∧ (s.sendRecords t is resend).imem = s.imem ∧ (s.sendRecords t is resend).pending = s.pending := by
  unfold State.sendRecords; (repeat' split) <;> simp
@[simp] theorem State.deliveryActive_keeps (s : State) (t : Nat) :
    (s.deliveryActive t).pool = s.pool ∧ (s.deliveryActive t).dmem = s.dmem ∧ (s.deliveryActive t).imem = s.imem ∧ (s.deliveryActive t).pending = s.pending := by simp [State.deliveryActive]
@[simp] theorem State.redeliver_keeps (s : State) (t : Nat) :
    (s.redeliver t).pool = s.pool ∧ (s.redeliver t).dmem = s.dmem ∧ (s.redeliver t).imem = s.imem ∧ (s.redeliver t).pending = s.pending := by simp [State.redeliver]
@[simp] theorem State.toIdle_keeps (s : State) (i : Nat) :
    (s.toIdle i).pool = s.pool ∧ (s.toIdle i).dmem = s.dmem ∧ (s.toIdle i).imem = s.imem ∧ (s.toIdle i).pending = s.pending := by simp [State.toIdle]
@[simp] theorem State.notifyComplete_keeps (s : State) (n : Nat) (arg : Nat) :
    (s.notifyComplete n arg).1.pool = s.pool ∧ (s.notifyComplete n arg).1.dmem = s.dmem ∧ (s.notifyComplete n arg).1.imem = s.imem ∧ (s.notifyComplete n arg).1.pending = s.pending := by simp [State.notifyComplete]
@[simp] theorem State.dropDeliveries_keeps (s : State) (n : Nat) :
    (s.dropDeliveries n).pool = s.pool ∧ (s.dropDeliveries n).dmem = s.dmem ∧ (s.dropDeliveries n).imem = s.imem ∧ (s.dropDeliveries n).pending = s.pending := by simp [State.dropDeliveries]
@[simp] theorem State.clearSources_keeps (s : State) :
    s.clearSources.pool = s.pool ∧ s.clearSources.dmem = s.dmem ∧ s.clearSources.imem = s.imem ∧ s.clearSources.pending = s.pending := by simp [State.clearSources]
@[simp] theorem State.raiseWake_keeps (s : State) (i : Nat) (w : Word) (k : Nat) :
    (s.raiseWake i w k).pool = s.pool ∧ (s.raiseWake i w k).dmem = s.dmem ∧ (s.raiseWake i w k).imem = s.imem ∧ (s.raiseWake i w k).pending = s.pending := by simp [State.raiseWake]
@[simp] theorem State.ntfRaise_keeps (s : State) (i : Nat) :
    (s.ntfRaise i).1.pool = s.pool ∧ (s.ntfRaise i).1.dmem = s.dmem ∧ (s.ntfRaise i).1.imem = s.imem ∧ (s.ntfRaise i).1.pending = s.pending := by simp [State.ntfRaise]
@[simp] theorem State.ntfClear_keeps (s : State) (i : Nat) :
    (s.ntfClear i).pool = s.pool ∧ (s.ntfClear i).dmem = s.dmem ∧ (s.ntfClear i).imem = s.imem ∧ (s.ntfClear i).pending = s.pending := by simp [State.ntfClear]
@[simp] theorem State.writeNtf_keeps (s : State) (i : Nat) (w : Wr) :
    (s.writeNtf i w).1.pool = s.pool ∧ (s.writeNtf i w).1.dmem = s.dmem ∧ (s.writeNtf i w).1.imem = s.imem ∧ (s.writeNtf i w).1.pending = s.pending := by simp [State.writeNtf]
@[simp] theorem State.liveSettle_keeps (s : State) :
    s.liveSettle.pool = s.pool ∧ s.liveSettle.dmem = s.dmem ∧ s.liveSettle.imem = s.imem ∧ s.liveSettle.pending = s.pending := by simp [State.liveSettle]
@[simp] theorem State.dropTxn_keeps (s : State) (id : Nat) :
    (s.dropTxn id).pool = s.pool ∧ (s.dropTxn id).dmem = s.dmem ∧ (s.dropTxn id).imem = s.imem ∧ (s.dropTxn id).pending = s.pending := by simp [State.dropTxn]
@[simp] theorem State.txnRollback_keeps (s : State) (id : Nat) (st : Status) :
    (s.txnRollback id st).pool = s.pool ∧ (s.txnRollback id st).dmem = s.dmem ∧ (s.txnRollback id st).imem = s.imem ∧ (s.txnRollback id st).pending = s.pending := by simp [State.txnRollback]
@[simp] theorem State.txnTimeout_keeps (s : State) (id : Nat) (st : Status) :
    (s.txnTimeout id st).pool = s.pool ∧ (s.txnTimeout id st).dmem = s.dmem ∧ (s.txnTimeout id st).imem = s.imem ∧ (s.txnTimeout id st).pending = s.pending := by simp [State.txnTimeout]
@[simp] theorem State.txnTimeouts_keeps (s : State) (p : Txn → Bool) :
    (s.txnTimeouts p).pool = s.pool ∧ (s.txnTimeouts p).dmem = s.dmem ∧ (s.txnTimeouts p).imem = s.imem ∧ (s.txnTimeouts p).pending = s.pending := by simp [State.txnTimeouts]
@[simp] theorem State.beat_keeps (s : State) (yield_ : Bool) :
    (s.beat yield_).pool = s.pool ∧ (s.beat yield_).dmem = s.dmem ∧ (s.beat yield_).imem = s.imem ∧ (s.beat yield_).pending = s.pending := by simp [State.beat]
@[simp] theorem State.yieldTwin_keeps (s : State) :
    s.yieldTwin.pool = s.pool ∧ s.yieldTwin.dmem = s.dmem ∧ s.yieldTwin.imem = s.imem ∧ s.yieldTwin.pending = s.pending := by simp [State.yieldTwin]
@[simp] theorem State.showLevel_keeps (s : State) (l : Nat) :
    (s.showLevel l).pool = s.pool ∧ (s.showLevel l).dmem = s.dmem ∧ (s.showLevel l).imem = s.imem ∧ (s.showLevel l).pending = s.pending := by simp [State.showLevel]
@[simp] theorem State.setLevel_keeps (s : State) (l : Nat) :
    (s.setLevel l).pool = s.pool ∧ (s.setLevel l).dmem = s.dmem ∧ (s.setLevel l).imem = s.imem ∧ (s.setLevel l).pending = s.pending := by simp [State.setLevel]
@[simp] theorem State.levelEnd_keeps (s : State) :
    s.levelEnd.pool = s.pool ∧ s.levelEnd.dmem = s.dmem ∧ s.levelEnd.imem = s.imem ∧ s.levelEnd.pending = s.pending := by
  unfold State.levelEnd; (repeat' split) <;> simp
@[simp] theorem State.enterSafe_keeps (s : State) :
    s.enterSafe.pool = s.pool ∧ s.enterSafe.dmem = s.dmem ∧ s.enterSafe.imem = s.imem ∧ s.enterSafe.pending = s.pending := by simp [State.enterSafe]
@[simp] theorem State.faultF3_keeps (s : State) (code : Nat) (inst : Nat) (detail : Nat) :
    (s.faultF3 code inst detail).pool = s.pool ∧ (s.faultF3 code inst detail).dmem = s.dmem ∧ (s.faultF3 code inst detail).imem = s.imem ∧ (s.faultF3 code inst detail).pending = s.pending := by simp [State.faultF3]
@[simp] theorem State.cmpOff_keeps (s : State) :
    s.cmpOff.pool = s.pool ∧ s.cmpOff.dmem = s.dmem ∧ s.cmpOff.imem = s.imem ∧ s.cmpOff.pending = s.pending := by simp [State.cmpOff]
@[simp] theorem State.thermalTrip_keeps (s : State) (i : Nat) (t : Int) :
    (s.thermalTrip i t).pool = s.pool ∧ (s.thermalTrip i t).dmem = s.dmem ∧ (s.thermalTrip i t).imem = s.imem ∧ (s.thermalTrip i t).pending = s.pending := by simp [State.thermalTrip]
@[simp] theorem State.takeGrant_keeps (s : State) :
    s.takeGrant.pool = s.pool ∧ s.takeGrant.dmem = s.dmem ∧ s.takeGrant.imem = s.imem ∧ s.takeGrant.pending = s.pending := by simp [State.takeGrant]
@[simp] theorem State.budgetRefused_keeps (s : State) :
    s.budgetRefused.pool = s.pool ∧ s.budgetRefused.dmem = s.dmem ∧ s.budgetRefused.imem = s.imem ∧ s.budgetRefused.pending = s.pending := by simp [State.budgetRefused]
@[simp] theorem State.noteBoost_keeps (s : State) :
    s.noteBoost.pool = s.pool ∧ s.noteBoost.dmem = s.dmem ∧ s.noteBoost.imem = s.imem ∧ s.noteBoost.pending = s.pending := by simp [State.noteBoost]
@[simp] theorem State.thermalCycle_keeps (s : State) (t : Int) :
    (s.thermalCycle t).pool = s.pool ∧ (s.thermalCycle t).dmem = s.dmem ∧ (s.thermalCycle t).imem = s.imem ∧ (s.thermalCycle t).pending = s.pending := by simp [State.thermalCycle]
@[simp] theorem State.takeJunctions_keeps (s : State) (j : Junctions) :
    (s.takeJunctions j).pool = s.pool ∧ (s.takeJunctions j).dmem = s.dmem ∧ (s.takeJunctions j).imem = s.imem ∧ (s.takeJunctions j).pending = s.pending := by simp [State.takeJunctions]
@[simp] theorem State.takePin_keeps (s : State) (p : Nat) :
    (s.takePin p).pool = s.pool ∧ (s.takePin p).dmem = s.dmem ∧ (s.takePin p).imem = s.imem ∧ (s.takePin p).pending = s.pending := by simp [State.takePin]
@[simp] theorem State.takeRung_keeps (s : State) (r : Nat) :
    (s.takeRung r).pool = s.pool ∧ (s.takeRung r).dmem = s.dmem ∧ (s.takeRung r).imem = s.imem ∧ (s.takeRung r).pending = s.pending := by simp [State.takeRung]
@[simp] theorem State.takeCritical_keeps (s : State) (rises : Bool) (fits : Bool) :
    (s.takeCritical rises fits).pool = s.pool ∧ (s.takeCritical rises fits).dmem = s.dmem ∧ (s.takeCritical rises fits).imem = s.imem ∧ (s.takeCritical rises fits).pending = s.pending := by simp [State.takeCritical]
@[simp] theorem State.writeHolds_keeps (s : State) (b : Bool) (c : Bool) :
    (s.writeHolds b c).pool = s.pool ∧ (s.writeHolds b c).dmem = s.dmem ∧ (s.writeHolds b c).imem = s.imem ∧ (s.writeHolds b c).pending = s.pending := by simp [State.writeHolds]
@[simp] theorem State.governor_keeps (s0 : State) (p : Nat) (j : Junctions) :
    (s0.governor p j).pool = s0.pool ∧ (s0.governor p j).dmem = s0.dmem ∧ (s0.governor p j).imem = s0.imem ∧ (s0.governor p j).pending = s0.pending := by simp [State.governor]
@[simp] theorem State.reclassify_keeps (s : State) (mw : Nat) :
    (s.reclassify mw).pool = s.pool ∧ (s.reclassify mw).dmem = s.dmem ∧ (s.reclassify mw).imem = s.imem ∧ (s.reclassify mw).pending = s.pending := by simp [State.reclassify]
@[simp] theorem State.writePwr_keeps (s : State) (w : Wr) :
    (s.writePwr w).1.pool = s.pool ∧ (s.writePwr w).1.dmem = s.dmem ∧ (s.writePwr w).1.imem = s.imem ∧ (s.writePwr w).1.pending = s.pending := by simp [State.writePwr]
@[simp] theorem State.releaseSession_keeps (s : State) (n : Nat) :
    (s.releaseSession n).pool = s.pool ∧ (s.releaseSession n).dmem = s.dmem ∧ (s.releaseSession n).imem = s.imem ∧ (s.releaseSession n).pending = s.pending := by simp [State.releaseSession]
@[simp] theorem State.releaseSessions_keeps (s : State) :
    s.releaseSessions.pool = s.pool ∧ s.releaseSessions.dmem = s.dmem ∧ s.releaseSessions.imem = s.imem ∧ s.releaseSessions.pending = s.pending := by simp [State.releaseSessions]
@[simp] theorem State.sendReport_keeps (s : State) (dest : Nat) (pos : Nat) :
    (s.sendReport dest pos).pool = s.pool ∧ (s.sendReport dest pos).dmem = s.dmem ∧ (s.sendReport dest pos).imem = s.imem ∧ (s.sendReport dest pos).pending = s.pending := by simp [State.sendReport]
@[simp] theorem State.enterQuarantine_keeps (s : State) :
    s.enterQuarantine.pool = s.pool ∧ s.enterQuarantine.dmem = s.dmem ∧ s.enterQuarantine.imem = s.imem ∧ s.enterQuarantine.pending = s.pending := by simp [State.enterQuarantine]
@[simp] theorem State.leaveQuarantine_keeps (s : State) :
    s.leaveQuarantine.pool = s.pool ∧ s.leaveQuarantine.dmem = s.dmem ∧ s.leaveQuarantine.imem = s.imem ∧ s.leaveQuarantine.pending = s.pending := by simp [State.leaveQuarantine]
@[simp] theorem State.adopt_keeps (s : State) (a : Nat) :
    (s.adopt a).pool = s.pool ∧ (s.adopt a).dmem = s.dmem ∧ (s.adopt a).imem = s.imem ∧ (s.adopt a).pending = s.pending := by simp [State.adopt]
@[simp] theorem State.enumerate_keeps (s : State) (src : Nat) (next : Nat) (pos : Nat) :
    (s.enumerate src next pos).pool = s.pool ∧ (s.enumerate src next pos).dmem = s.dmem ∧ (s.enumerate src next pos).imem = s.imem ∧ (s.enumerate src next pos).pending = s.pending := by simp [State.enumerate]
@[simp] theorem State.discover_keeps (s : State) (src : Nat) :
    (s.discover src).pool = s.pool ∧ (s.discover src).dmem = s.dmem ∧ (s.discover src).imem = s.imem ∧ (s.discover src).pending = s.pending := by simp [State.discover]
@[simp] theorem State.assign_keeps (s : State) (src : Nat) (a : Nat) (uid : Nat) :
    (s.assign src a uid).pool = s.pool ∧ (s.assign src a uid).dmem = s.dmem ∧ (s.assign src a uid).imem = s.imem ∧ (s.assign src a uid).pending = s.pending := by simp [State.assign]
@[simp] theorem State.linkRises_keeps (s : State) (p : Nat) (rate : Nat) (host : Bool) :
    (s.linkRises p rate host).pool = s.pool ∧ (s.linkRises p rate host).dmem = s.dmem ∧ (s.linkRises p rate host).imem = s.imem ∧ (s.linkRises p rate host).pending = s.pending := by simp [State.linkRises]
@[simp] theorem State.linkFalls_keeps (s : State) (p : Nat) :
    (s.linkFalls p).pool = s.pool ∧ (s.linkFalls p).dmem = s.dmem ∧ (s.linkFalls p).imem = s.imem ∧ (s.linkFalls p).pending = s.pending := by
  unfold State.linkFalls; (try dsimp only); (repeat' split) <;> (try simp) <;> (repeat' apply And.intro) <;>
    (try (first | rw [foldl_pool] | rw [foldl_dmem] | rw [foldl_imem] | rw [foldl_pending] | rw [State.forEach_pool] | rw [State.forEach_dmem] | rw [State.forEach_imem] | rw [State.forEach_pending] | rw [foldl_pool] | rw [State.forEach_pool] | rw [foldl_dmem] | rw [State.forEach_dmem] | rw [foldl_imem] | rw [State.forEach_imem] | rw [foldl_pending] | rw [State.forEach_pending])) <;> (try intros) <;> (try dsimp only) <;> (repeat' split) <;> simp_all
@[simp] theorem State.retrain_keeps (s : State) (p : Nat) :
    (s.retrain p).pool = s.pool ∧ (s.retrain p).dmem = s.dmem ∧ (s.retrain p).imem = s.imem ∧ (s.retrain p).pending = s.pending := by simp [State.retrain]
@[simp] theorem State.flushRoutes_keeps (s : State) :
    s.flushRoutes.pool = s.pool ∧ s.flushRoutes.dmem = s.dmem ∧ s.flushRoutes.imem = s.imem ∧ s.flushRoutes.pending = s.pending := by simp [State.flushRoutes]
@[simp] theorem State.ringBreak_keeps (s : State) :
    s.ringBreak.pool = s.pool ∧ s.ringBreak.dmem = s.dmem ∧ s.ringBreak.imem = s.imem ∧ s.ringBreak.pending = s.pending := by simp [State.ringBreak]
@[simp] theorem State.ringClose_keeps (s : State) :
    s.ringClose.pool = s.pool ∧ s.ringClose.dmem = s.dmem ∧ s.ringClose.imem = s.imem ∧ s.ringClose.pending = s.pending := by simp [State.ringClose]
@[simp] theorem State.closeHoldEnd_keeps (s : State) (p : Nat) :
    (s.closeHoldEnd p).pool = s.pool ∧ (s.closeHoldEnd p).dmem = s.dmem ∧ (s.closeHoldEnd p).imem = s.imem ∧ (s.closeHoldEnd p).pending = s.pending := by simp [State.closeHoldEnd]
@[simp] theorem State.creditIn_keeps (s : State) (p : Nat) (c : Credits) :
    (s.creditIn p c).pool = s.pool ∧ (s.creditIn p c).dmem = s.dmem ∧ (s.creditIn p c).imem = s.imem ∧ (s.creditIn p c).pending = s.pending := by simp [State.creditIn]
@[simp] theorem State.creditOut_keeps (s : State) :
    s.creditOut.pool = s.pool ∧ s.creditOut.dmem = s.dmem ∧ s.creditOut.imem = s.imem ∧ s.creditOut.pending = s.pending := by simp [State.creditOut]
@[simp] theorem State.pdelayMeasure_keeps (s : State) :
    s.pdelayMeasure.pool = s.pool ∧ s.pdelayMeasure.dmem = s.dmem ∧ s.pdelayMeasure.imem = s.imem ∧ s.pdelayMeasure.pending = s.pending := by simp [State.pdelayMeasure]
@[simp] theorem State.pdelayReq_keeps (s : State) (p : Nat) (residence : Nat) :
    (s.pdelayReq p residence).pool = s.pool ∧ (s.pdelayReq p residence).dmem = s.dmem ∧ (s.pdelayReq p residence).imem = s.imem ∧ (s.pdelayReq p residence).pending = s.pending := by simp [State.pdelayReq]
@[simp] theorem State.pdelayResp_keeps (s : State) (p : Nat) (step : Nat) (residence : Nat) :
    (s.pdelayResp p step residence).pool = s.pool ∧ (s.pdelayResp p step residence).dmem = s.dmem ∧ (s.pdelayResp p step residence).imem = s.imem ∧ (s.pdelayResp p step residence).pending = s.pending := by
  unfold State.pdelayResp; (repeat' split) <;> simp
@[simp] theorem State.setTimeValid_keeps (s : State) (v : Bool) :
    (s.setTimeValid v).pool = s.pool ∧ (s.setTimeValid v).dmem = s.dmem ∧ (s.setTimeValid v).imem = s.imem ∧ (s.setTimeValid v).pending = s.pending := by simp [State.setTimeValid]
@[simp] theorem State.steer_keeps (s : State) (err : Int) :
    (s.steer err).pool = s.pool ∧ (s.steer err).dmem = s.dmem ∧ (s.steer err).imem = s.imem ∧ (s.steer err).pending = s.pending := by simp [State.steer]
@[simp] theorem State.servo_keeps (s : State) (step : Nat) (measured : Int) :
    (s.servo step measured).pool = s.pool ∧ (s.servo step measured).dmem = s.dmem ∧ (s.servo step measured).imem = s.imem ∧ (s.servo step measured).pending = s.pending := by
  unfold State.servo; (repeat' split) <;> simp
@[simp] theorem State.sync_keeps (s : State) (p : Nat) (hops : Nat) (src : Nat) (seq : Nat) (origin : Nat) (frac : Nat) (corr : Int) (step : Nat) (residence : Nat) (dl : Bool) :
    (s.sync p hops src seq origin frac corr step residence dl).pool = s.pool ∧ (s.sync p hops src seq origin frac corr step residence dl).dmem = s.dmem ∧ (s.sync p hops src seq origin frac corr step residence dl).imem = s.imem ∧ (s.sync p hops src seq origin frac corr step residence dl).pending = s.pending := by simp [State.sync]
@[simp] theorem State.syncTimeout_keeps (s : State) :
    s.syncTimeout.pool = s.pool ∧ s.syncTimeout.dmem = s.dmem ∧ s.syncTimeout.imem = s.imem ∧ s.syncTimeout.pending = s.pending := by simp [State.syncTimeout]
@[simp] theorem State.publish_keeps (s : State) :
    s.publish.pool = s.pool ∧ s.publish.dmem = s.dmem ∧ s.publish.imem = s.imem ∧ s.publish.pending = s.pending := by simp [State.publish]
@[simp] theorem State.lineFollow_keeps (s : State) (n : Nat) (valid : Bool) (sample : Int) (e : LineEntry) :
    (s.lineFollow n valid sample e).pool = s.pool ∧ (s.lineFollow n valid sample e).dmem = s.dmem ∧ (s.lineFollow n valid sample e).imem = s.imem ∧ (s.lineFollow n valid sample e).pending = s.pending := by simp [State.lineFollow]
@[simp] theorem State.lineReceive_keeps (s : State) (src : Nat) (valid : Bool) (sample : Int) (es : List LineEntry) :
    (s.lineReceive src valid sample es).pool = s.pool ∧ (s.lineReceive src valid sample es).dmem = s.dmem ∧ (s.lineReceive src valid sample es).imem = s.imem ∧ (s.lineReceive src valid sample es).pending = s.pending := by simp [State.lineReceive]
@[simp] theorem State.wakeTokenIn_keeps (s : State) (p : Nat) (a : Nat) (reason : Nat) :
    (s.wakeTokenIn p a reason).pool = s.pool ∧ (s.wakeTokenIn p a reason).dmem = s.dmem ∧ (s.wakeTokenIn p a reason).imem = s.imem ∧ (s.wakeTokenIn p a reason).pending = s.pending := by simp [State.wakeTokenIn]
@[simp] theorem State.wakeCtl_keeps (s : State) (src : Nat) (a : Nat) (reason : Nat) :
    (s.wakeCtl src a reason).pool = s.pool ∧ (s.wakeCtl src a reason).dmem = s.dmem ∧ (s.wakeCtl src a reason).imem = s.imem ∧ (s.wakeCtl src a reason).pending = s.pending := by simp [State.wakeCtl]
@[simp] theorem State.writeFab_keeps (s : State) (p : Nat) (w : Wr) :
    (s.writeFab p w).1.pool = s.pool ∧ (s.writeFab p w).1.dmem = s.dmem ∧ (s.writeFab p w).1.imem = s.imem ∧ (s.writeFab p w).1.pending = s.pending := by simp [State.writeFab]
@[simp] theorem State.setRole_keeps (s : State) (r : Nat) :
    (s.setRole r).pool = s.pool ∧ (s.setRole r).dmem = s.dmem ∧ (s.setRole r).imem = s.imem ∧ (s.setRole r).pending = s.pending := by simp [State.setRole]
@[simp] theorem State.setMir_keeps (s : State) (m : Nat) :
    (s.setMir m).pool = s.pool ∧ (s.setMir m).dmem = s.dmem ∧ (s.setMir m).imem = s.imem ∧ (s.setMir m).pending = s.pending := by simp [State.setMir]
@[simp] theorem State.setTwin_keeps (s : State) (x : Twin) :
    (s.setTwin x).pool = s.pool ∧ (s.setTwin x).dmem = s.dmem ∧ (s.setTwin x).imem = s.imem ∧ (s.setTwin x).pending = s.pending := by simp [State.setTwin]
@[simp] theorem State.sendConfirm_keeps (s : State) (sub : Nat) :
    (s.sendConfirm sub).pool = s.pool ∧ (s.sendConfirm sub).dmem = s.dmem ∧ (s.sendConfirm sub).imem = s.imem ∧ (s.sendConfirm sub).pending = s.pending := by simp [State.sendConfirm]
@[simp] theorem State.sendProbe_keeps (s : State) :
    s.sendProbe.pool = s.pool ∧ s.sendProbe.dmem = s.dmem ∧ s.sendProbe.imem = s.imem ∧ s.sendProbe.pending = s.pending := by simp [State.sendProbe]
@[simp] theorem State.alone_keeps (s : State) :
    s.alone.pool = s.pool ∧ s.alone.dmem = s.dmem ∧ s.alone.imem = s.imem ∧ s.alone.pending = s.pending := by simp [State.alone]
@[simp] theorem State.becomeActive_keeps (s : State) :
    s.becomeActive.pool = s.pool ∧ s.becomeActive.dmem = s.dmem ∧ s.becomeActive.imem = s.imem ∧ s.becomeActive.pending = s.pending := by simp [State.becomeActive]
@[simp] theorem State.becomeStandby_keeps (s : State) :
    s.becomeStandby.pool = s.pool ∧ s.becomeStandby.dmem = s.dmem ∧ s.becomeStandby.imem = s.imem ∧ s.becomeStandby.pending = s.pending := by simp [State.becomeStandby]
@[simp] theorem State.twinEnable_keeps (s : State) :
    s.twinEnable.pool = s.pool ∧ s.twinEnable.dmem = s.dmem ∧ s.twinEnable.imem = s.imem ∧ s.twinEnable.pending = s.pending := by simp [State.twinEnable]
@[simp] theorem State.twinDisable_keeps (s : State) :
    s.twinDisable.pool = s.pool ∧ s.twinDisable.dmem = s.dmem ∧ s.twinDisable.imem = s.imem ∧ s.twinDisable.pending = s.pending := by simp [State.twinDisable]
@[simp] theorem State.searchTimeout_keeps (s : State) :
    s.searchTimeout.pool = s.pool ∧ s.searchTimeout.dmem = s.dmem ∧ s.searchTimeout.imem = s.imem ∧ s.searchTimeout.pending = s.pending := by simp [State.searchTimeout]
@[simp] theorem State.sendCopy_keeps (s : State) (kind : Nat) (payload : List Nat) :
    (s.sendCopy kind payload).pool = s.pool ∧ (s.sendCopy kind payload).dmem = s.dmem ∧ (s.sendCopy kind payload).imem = s.imem ∧ (s.sendCopy kind payload).pending = s.pending := by simp [State.sendCopy]
@[simp] theorem State.sendJoin_keeps (s : State) :
    s.sendJoin.pool = s.pool ∧ s.sendJoin.dmem = s.dmem ∧ s.sendJoin.imem = s.imem ∧ s.sendJoin.pending = s.pending := by simp [State.sendJoin]
@[simp] theorem State.resyncReq_keeps (s : State) (index : Nat) (lane : Bool) :
    (s.resyncReq index lane).pool = s.pool ∧ (s.resyncReq index lane).dmem = s.dmem ∧ (s.resyncReq index lane).imem = s.imem ∧ (s.resyncReq index lane).pending = s.pending := by simp [State.resyncReq]
@[simp] theorem State.askResync_keeps (s : State) (k : Nat) :
    (s.askResync k).pool = s.pool ∧ (s.askResync k).dmem = s.dmem ∧ (s.askResync k).imem = s.imem ∧ (s.askResync k).pending = s.pending := by simp [State.askResync]
@[simp] theorem State.goStale_keeps (s : State) :
    s.goStale.pool = s.pool ∧ s.goStale.dmem = s.dmem ∧ s.goStale.imem = s.imem ∧ s.goStale.pending = s.pending := by simp [State.goStale]
@[simp] theorem State.seqArrive_keeps (s : State) (q : Nat) :
    (s.seqArrive q).pool = s.pool ∧ (s.seqArrive q).dmem = s.dmem ∧ (s.seqArrive q).imem = s.imem ∧ (s.seqArrive q).pending = s.pending := by
  unfold State.seqArrive; (repeat' split) <;> simp
@[simp] theorem State.undrive_keeps (s : State) (i : Nat) :
    (s.undrive i).pool = s.pool ∧ (s.undrive i).dmem = s.dmem ∧ (s.undrive i).imem = s.imem ∧ (s.undrive i).pending = s.pending := by simp [State.undrive]
@[simp] theorem State.lateAtTakeover_keeps (s : State) (i : Nat) :
    (s.lateAtTakeover i).pool = s.pool ∧ (s.lateAtTakeover i).dmem = s.dmem ∧ (s.lateAtTakeover i).imem = s.imem ∧ (s.lateAtTakeover i).pending = s.pending := by simp [State.lateAtTakeover]
@[simp] theorem State.liveAtOnce_keeps (s : State) :
    s.liveAtOnce.pool = s.pool ∧ s.liveAtOnce.dmem = s.dmem ∧ s.liveAtOnce.imem = s.imem ∧ s.liveAtOnce.pending = s.pending := by simp [State.liveAtOnce]
@[simp] theorem State.suspect_keeps (s : State) (i : Nat) :
    (s.suspect i).pool = s.pool ∧ (s.suspect i).dmem = s.dmem ∧ (s.suspect i).imem = s.imem ∧ (s.suspect i).pending = s.pending := by simp [State.suspect]
@[simp] theorem State.suspectOf_keeps (s : State) (i : Nat) :
    (s.suspectOf i).pool = s.pool ∧ (s.suspectOf i).dmem = s.dmem ∧ (s.suspectOf i).imem = s.imem ∧ (s.suspectOf i).pending = s.pending := by simp [State.suspectOf]
@[simp] theorem State.rasTakeover_keeps (s : State) :
    s.rasTakeover.pool = s.pool ∧ s.rasTakeover.dmem = s.dmem ∧ s.rasTakeover.imem = s.imem ∧ s.rasTakeover.pending = s.pending := by
  unfold State.rasTakeover; (try dsimp only); (repeat' split) <;> (try simp) <;> (repeat' apply And.intro) <;>
    (try (first | rw [foldl_pool] | rw [foldl_dmem] | rw [foldl_imem] | rw [foldl_pending] | rw [State.forEach_pool] | rw [State.forEach_dmem] | rw [State.forEach_imem] | rw [State.forEach_pending] | rw [foldl_pool] | rw [State.forEach_pool] | rw [foldl_dmem] | rw [State.forEach_dmem] | rw [foldl_imem] | rw [State.forEach_imem] | rw [foldl_pending] | rw [State.forEach_pending])) <;> (try intros) <;> (try dsimp only) <;> (repeat' split) <;> simp_all
@[simp] theorem State.genTakeover_keeps (s : State) :
    s.genTakeover.pool = s.pool ∧ s.genTakeover.dmem = s.dmem ∧ s.genTakeover.imem = s.imem ∧ s.genTakeover.pending = s.pending := by simp [State.genTakeover]
@[simp] theorem State.takeover_keeps (s : State) (why : Nat) :
    (s.takeover why).pool = s.pool ∧ (s.takeover why).dmem = s.dmem ∧ (s.takeover why).imem = s.imem ∧ (s.takeover why).pending = s.pending := by simp [State.takeover]
@[simp] theorem State.tryTakeover_keeps (s : State) (why : Nat) :
    (s.tryTakeover why).pool = s.pool ∧ (s.tryTakeover why).dmem = s.dmem ∧ (s.tryTakeover why).imem = s.imem ∧ (s.tryTakeover why).pending = s.pending := by simp [State.tryTakeover]
@[simp] theorem State.ackReservations_keeps (s : State) (seq : Nat) :
    (s.ackReservations seq).pool = s.pool ∧ (s.ackReservations seq).dmem = s.dmem ∧ (s.ackReservations seq).imem = s.imem ∧ (s.ackReservations seq).pending = s.pending := by simp [State.ackReservations]
@[simp] theorem State.followPartner_keeps (s : State) (old : Nat) (h : HeartBeat) :
    (s.followPartner old h).pool = s.pool ∧ (s.followPartner old h).dmem = s.dmem ∧ (s.followPartner old h).imem = s.imem ∧ (s.followPartner old h).pending = s.pending := by simp [State.followPartner]
@[simp] theorem State.heartbeat_keeps (s : State) (h : HeartBeat) :
    (s.heartbeat h).pool = s.pool ∧ (s.heartbeat h).dmem = s.dmem ∧ (s.heartbeat h).imem = s.imem ∧ (s.heartbeat h).pending = s.pending := by simp [State.heartbeat]
@[simp] theorem State.beatSend_keeps (s : State) :
    s.beatSend.pool = s.pool ∧ s.beatSend.dmem = s.dmem ∧ s.beatSend.imem = s.imem ∧ s.beatSend.pending = s.pending := by simp [State.beatSend]
@[simp] theorem State.leaseLapse_keeps (s : State) :
    s.leaseLapse.pool = s.pool ∧ s.leaseLapse.dmem = s.dmem ∧ s.leaseLapse.imem = s.imem ∧ s.leaseLapse.pending = s.pending := by simp [State.leaseLapse]
@[simp] theorem State.heartbeatLoss_keeps (s : State) :
    s.heartbeatLoss.pool = s.pool ∧ s.heartbeatLoss.dmem = s.dmem ∧ s.heartbeatLoss.imem = s.imem ∧ s.heartbeatLoss.pending = s.pending := by simp [State.heartbeatLoss]
@[simp] theorem State.probeRepeat_keeps (s : State) :
    s.probeRepeat.pool = s.pool ∧ s.probeRepeat.dmem = s.dmem ∧ s.probeRepeat.imem = s.imem ∧ s.probeRepeat.pending = s.pending := by simp [State.probeRepeat]
@[simp] theorem State.lossConfirmed_keeps (s : State) :
    s.lossConfirmed.pool = s.pool ∧ s.lossConfirmed.dmem = s.dmem ∧ s.lossConfirmed.imem = s.imem ∧ s.lossConfirmed.pending = s.pending := by simp [State.lossConfirmed]
@[simp] theorem State.probeIn_keeps (s : State) (pair : Nat) :
    (s.probeIn pair).pool = s.pool ∧ (s.probeIn pair).dmem = s.dmem ∧ (s.probeIn pair).imem = s.imem ∧ (s.probeIn pair).pending = s.pending := by simp [State.probeIn]
@[simp] theorem State.aliveIn_keeps (s : State) (pair : Nat) :
    (s.aliveIn pair).pool = s.pool ∧ (s.aliveIn pair).dmem = s.dmem ∧ (s.aliveIn pair).imem = s.imem ∧ (s.aliveIn pair).pending = s.pending := by simp [State.aliveIn]
@[simp] theorem State.takeoverIn_keeps (s : State) (pair : Nat) :
    (s.takeoverIn pair).pool = s.pool ∧ (s.takeoverIn pair).dmem = s.dmem ∧ (s.takeoverIn pair).imem = s.imem ∧ (s.takeoverIn pair).pending = s.pending := by simp [State.takeoverIn]
@[simp] theorem State.mirrorThreads_keeps (s : State) :
    s.mirrorThreads.pool = s.pool ∧ s.mirrorThreads.dmem = s.dmem ∧ s.mirrorThreads.imem = s.imem ∧ s.mirrorThreads.pending = s.pending := by simp [State.mirrorThreads]
@[simp] theorem State.epochBoundary_keeps (s : State) :
    s.epochBoundary.pool = s.pool ∧ s.epochBoundary.dmem = s.dmem ∧ s.epochBoundary.imem = s.imem ∧ s.epochBoundary.pending = s.pending := by simp [State.epochBoundary]
@[simp] theorem State.epochIn_keeps (s : State) (q : Nat) (n : Nat) (ds : List Nat) :
    (s.epochIn q n ds).pool = s.pool ∧ (s.epochIn q n ds).dmem = s.dmem ∧ (s.epochIn q n ds).imem = s.imem ∧ (s.epochIn q n ds).pending = s.pending := by simp [State.epochIn]
@[simp] theorem State.epochAckIn_keeps (s : State) (q : Nat) (shafts : Nat) (lanes : Nat) :
    (s.epochAckIn q shafts lanes).pool = s.pool ∧ (s.epochAckIn q shafts lanes).dmem = s.dmem ∧ (s.epochAckIn q shafts lanes).imem = s.imem ∧ (s.epochAckIn q shafts lanes).pending = s.pending := by simp [State.epochAckIn]
@[simp] theorem State.epochTimeout_keeps (s : State) :
    s.epochTimeout.pool = s.pool ∧ s.epochTimeout.dmem = s.dmem ∧ s.epochTimeout.imem = s.imem ∧ s.epochTimeout.pending = s.pending := by simp [State.epochTimeout]
@[simp] theorem State.joiningEnd_keeps (s : State) :
    s.joiningEnd.pool = s.pool ∧ s.joiningEnd.dmem = s.dmem ∧ s.joiningEnd.imem = s.imem ∧ s.joiningEnd.pending = s.pending := by simp [State.joiningEnd]
@[simp] theorem State.switchOver_keeps (s : State) :
    s.switchOver.1.pool = s.pool ∧ s.switchOver.1.dmem = s.dmem ∧ s.switchOver.1.imem = s.imem ∧ s.switchOver.1.pending = s.pending := by simp [State.switchOver]
@[simp] theorem State.writeTwn_keeps (s : State) (w : Wr) :
    (s.writeTwn w).1.pool = s.pool ∧ (s.writeTwn w).1.dmem = s.dmem ∧ (s.writeTwn w).1.imem = s.imem ∧ (s.writeTwn w).1.pending = s.pending := by simp [State.writeTwn]
@[simp] theorem State.logWrite_keeps (s : State) :
    s.logWrite.pool = s.pool ∧ s.logWrite.dmem = s.dmem ∧ s.logWrite.imem = s.imem ∧ s.logWrite.pending = s.pending := by simp [State.logWrite]
@[simp] theorem State.logFlush_keeps (s : State) :
    s.logFlush.pool = s.pool ∧ s.logFlush.dmem = s.dmem ∧ s.logFlush.imem = s.imem ∧ s.logFlush.pending = s.pending := by simp [State.logFlush]
@[simp] theorem State.logSelect_keeps (s : State) (w : Wr) :
    (s.logSelect w).1.pool = s.pool ∧ (s.logSelect w).1.dmem = s.dmem ∧ (s.logSelect w).1.imem = s.imem ∧ (s.logSelect w).1.pending = s.pending := by simp [State.logSelect]
@[simp] theorem State.logLoaded_keeps (s : State) (good : Bool) :
    (s.logLoaded good).pool = s.pool ∧ (s.logLoaded good).dmem = s.dmem ∧ (s.logLoaded good).imem = s.imem ∧ (s.logLoaded good).pending = s.pending := by simp [State.logLoaded]
@[simp] theorem State.writeAddr_keeps (s : State) (w : Wr) :
    (s.writeAddr w).1.pool = s.pool ∧ (s.writeAddr w).1.dmem = s.dmem ∧ (s.writeAddr w).1.imem = s.imem ∧ (s.writeAddr w).1.pending = s.pending := by simp [State.writeAddr]
@[simp] theorem State.writeGlb_keeps (s : State) (w : Wr) :
    (s.writeGlb w).1.pool = s.pool ∧ (s.writeGlb w).1.dmem = s.dmem ∧ (s.writeGlb w).1.imem = s.imem ∧ (s.writeGlb w).1.pending = s.pending := by simp [State.writeGlb]
@[simp] theorem State.beforeSets_keeps (s : State) (d : RegDesc) (a : Nat) :
    (s.beforeSets d a).pool = s.pool ∧ (s.beforeSets d a).dmem = s.dmem ∧ (s.beforeSets d a).imem = s.imem ∧ (s.beforeSets d a).pending = s.pending := by simp [State.beforeSets]
@[simp] theorem State.readSide_keeps (s : State) (a : Nat) :
    (s.readSide a).pool = s.pool ∧ (s.readSide a).dmem = s.dmem ∧ (s.readSide a).imem = s.imem ∧ (s.readSide a).pending = s.pending := by
  unfold State.readSide; (repeat' split) <;> simp
@[simp] theorem State.readWait_keeps (s : State) (a : Nat) :
    (s.readWait a).pool = s.pool ∧ (s.readWait a).dmem = s.dmem ∧ (s.readWait a).imem = s.imem ∧ (s.readWait a).pending = s.pending := by
  unfold State.readWait; (repeat' split) <;> simp
@[simp] theorem State.readRegs_keeps (s : State) (a1 : Nat) (a2 : Nat) :
    (s.readRegs a1 a2).1.pool = s.pool ∧ (s.readRegs a1 a2).1.dmem = s.dmem ∧ (s.readRegs a1 a2).1.imem = s.imem ∧ (s.readRegs a1 a2).1.pending = s.pending := by
  fun_induction State.readRegs <;> (repeat' split) <;> simp_all +zetaDelta
@[simp] theorem State.unitWrite_keeps (s : State) (i : Nat) (j : Nat) (w : Wr) :
    (s.unitWrite i j w).1.pool = s.pool ∧ (s.unitWrite i j w).1.dmem = s.dmem ∧ (s.unitWrite i j w).1.imem = s.imem ∧ (s.unitWrite i j w).1.pending = s.pending := by
  unfold State.unitWrite; (repeat' split) <;> simp
@[simp] theorem State.writeReg_keeps (s : State) (judged : Bool) (a : Nat) (m : Word) (v : Word) :
    (s.writeReg judged a m v).1.pool = s.pool ∧ (s.writeReg judged a m v).1.dmem = s.dmem ∧ (s.writeReg judged a m v).1.imem = s.imem ∧ (s.writeReg judged a m v).1.pending = s.pending := by
  unfold State.writeReg; (repeat' split) <;> simp
@[simp] theorem State.busWrite_keeps (s : State) (a : Nat) (v : Word) :
    (s.busWrite a v).1.pool = s.pool ∧ (s.busWrite a v).1.dmem = s.dmem ∧ (s.busWrite a v).1.imem = s.imem ∧ (s.busWrite a v).1.pending = s.pending := by simp [State.busWrite]
@[simp] theorem State.busRead_keeps (s : State) (a : Nat) :
    (s.busRead a).1.pool = s.pool ∧ (s.busRead a).1.dmem = s.dmem ∧ (s.busRead a).1.imem = s.imem ∧ (s.busRead a).1.pending = s.pending := by simp [State.busRead]
@[simp] theorem State.dmaRegRead_keeps (s : State) (base : Nat) (mode : Nat) (a3 : Nat) (a4 : Nat) :
    (s.dmaRegRead base mode a3 a4).1.pool = s.pool ∧ (s.dmaRegRead base mode a3 a4).1.dmem = s.dmem ∧ (s.dmaRegRead base mode a3 a4).1.imem = s.imem ∧ (s.dmaRegRead base mode a3 a4).1.pending = s.pending := by
  fun_induction State.dmaRegRead <;> (repeat' split) <;> simp_all +zetaDelta
@[simp] theorem State.dmaFetch_keeps (s : State) (n : Nat) (d : DmaDesc) (i : Nat) (k : Nat) :
    (s.dmaFetch n d i k).1.pool = s.pool ∧ (s.dmaFetch n d i k).1.dmem = s.dmem ∧ (s.dmaFetch n d i k).1.imem = s.imem ∧ (s.dmaFetch n d i k).1.pending = s.pending := by simp [State.dmaFetch]
@[simp] theorem State.dmaRegWrite_keeps (s : State) (base : Nat) (mode : Nat) (a3 : Nat) (a4 : List Word) :
    (s.dmaRegWrite base mode a3 a4).1.pool = s.pool ∧ (s.dmaRegWrite base mode a3 a4).1.dmem = s.dmem ∧ (s.dmaRegWrite base mode a3 a4).1.imem = s.imem ∧ (s.dmaRegWrite base mode a3 a4).1.pending = s.pending := by
  fun_induction State.dmaRegWrite <;> (repeat' split) <;> simp_all +zetaDelta
@[simp] theorem State.dmaPoolWrite_keeps (s : State) (base : Nat) (mode : Nat) (a3 : Nat) (a4 : List Byte) :
    (s.dmaPoolWrite base mode a3 a4).dmem = s.dmem ∧ (s.dmaPoolWrite base mode a3 a4).imem = s.imem ∧ (s.dmaPoolWrite base mode a3 a4).pending = s.pending := by
  fun_induction State.dmaPoolWrite <;> (repeat' split) <;> simp_all +zetaDelta
@[simp] theorem State.dmaStore_keeps (s : State) (n : Nat) (d : DmaDesc) (i : Nat) (bs : List Byte) :
    (s.dmaStore n d i bs).1.dmem = s.dmem ∧ (s.dmaStore n d i bs).1.imem = s.imem ∧ (s.dmaStore n d i bs).1.pending = s.pending := by simp [State.dmaStore]
@[simp] theorem State.dmaFinish_keeps (s : State) (n : Nat) (d : DmaDesc) :
    (s.dmaFinish n d).dmem = s.dmem ∧ (s.dmaFinish n d).imem = s.imem ∧ (s.dmaFinish n d).pending = s.pending := by simp [State.dmaFinish]
@[simp] theorem State.dmaMove_keeps (s : State) (n : Nat) (d : DmaDesc) :
    (s.dmaMove n d).dmem = s.dmem ∧ (s.dmaMove n d).imem = s.imem ∧ (s.dmaMove n d).pending = s.pending := by
  unfold State.dmaMove; dsimp only; (repeat' split) <;> simp
@[simp] theorem State.dmaLoad_keeps (s : State) (n : Nat) :
    (s.dmaLoad n).pool = s.pool ∧ (s.dmaLoad n).dmem = s.dmem ∧ (s.dmaLoad n).imem = s.imem ∧ (s.dmaLoad n).pending = s.pending := by
  unfold State.dmaLoad; dsimp only; (repeat' split) <;> simp
@[simp] theorem State.dmaReadyState_keeps (s : State) (n : Nat) :
    (s.dmaReadyState n).pool = s.pool ∧ (s.dmaReadyState n).dmem = s.dmem ∧ (s.dmaReadyState n).imem = s.imem ∧ (s.dmaReadyState n).pending = s.pending := by
  unfold State.dmaReadyState; (repeat' split) <;> simp
@[simp] theorem State.dmaBurst_keeps (s : State) (n : Nat) :
    (s.dmaBurst n).dmem = s.dmem ∧ (s.dmaBurst n).imem = s.imem ∧ (s.dmaBurst n).pending = s.pending := by
  unfold State.dmaBurst; dsimp only; (repeat' split) <;> simp
@[simp] theorem State.reloadLock_keeps (s : State) (r : Option Nat) :
    (s.reloadLock r).pool = s.pool ∧ (s.reloadLock r).dmem = s.dmem ∧ (s.reloadLock r).imem = s.imem ∧ (s.reloadLock r).pending = s.pending := by
  unfold State.reloadLock; (repeat' split) <;> simp
@[simp] theorem State.hardware_keeps (t : State) (s : State) :
    (t.hardware s).pool = t.pool ∧ (t.hardware s).dmem = t.dmem ∧ (t.hardware s).imem = t.imem ∧ (t.hardware s).pending = t.pending := by simp [State.hardware]
@[simp] theorem State.lastRites_keeps (s : State) :
    s.lastRites.pool = s.pool ∧ s.lastRites.dmem = s.dmem ∧ s.lastRites.imem = s.imem ∧ s.lastRites.pending = s.pending := by simp [State.lastRites]
@[simp] theorem State.startImage_keeps (s : State) :
    s.startImage.pool = s.pool ∧ s.startImage.dmem = s.dmem ∧ s.startImage.imem = s.imem ∧ s.startImage.pending = s.pending := by simp [State.startImage]
@[simp] theorem State.bootTimeout_keeps (s : State) :
    s.bootTimeout.pool = s.pool ∧ s.bootTimeout.dmem = s.dmem ∧ s.bootTimeout.imem = s.imem ∧ s.bootTimeout.pending = s.pending := by simp [State.bootTimeout]
@[simp] theorem State.holdRise_keeps (s : State) :
    s.holdRise.pool = s.pool ∧ s.holdRise.dmem = s.dmem ∧ s.holdRise.imem = s.imem ∧ s.holdRise.pending = s.pending := by simp [State.holdRise]
@[simp] theorem State.holdFall_keeps (s : State) :
    s.holdFall.pool = s.pool ∧ s.holdFall.dmem = s.dmem ∧ s.holdFall.imem = s.imem ∧ s.holdFall.pending = s.pending := by simp [State.holdFall]
@[simp] theorem State.inputHigh_keeps (s : State) :
    s.inputHigh.pool = s.pool ∧ s.inputHigh.dmem = s.dmem ∧ s.inputHigh.imem = s.imem ∧ s.inputHigh.pending = s.pending := by simp [State.inputHigh]
@[simp] theorem State.inputHighClear_keeps (s : State) :
    s.inputHighClear.pool = s.pool ∧ s.inputHighClear.dmem = s.dmem ∧ s.inputHighClear.imem = s.imem ∧ s.inputHighClear.pending = s.pending := by simp [State.inputHighClear]
@[simp] theorem State.reserveAll_keeps (s : State) :
    s.reserveAll.pool = s.pool ∧ s.reserveAll.dmem = s.dmem ∧ s.reserveAll.imem = s.imem ∧ s.reserveAll.pending = s.pending := by
  unfold State.reserveAll; (try dsimp only); (repeat' split) <;> (try simp) <;> (repeat' apply And.intro) <;>
    (try (first | rw [foldl_pool] | rw [foldl_dmem] | rw [foldl_imem] | rw [foldl_pending] | rw [State.forEach_pool] | rw [State.forEach_dmem] | rw [State.forEach_imem] | rw [State.forEach_pending] | rw [foldl_pool] | rw [State.forEach_pool] | rw [foldl_dmem] | rw [State.forEach_dmem] | rw [foldl_imem] | rw [State.forEach_imem] | rw [foldl_pending] | rw [State.forEach_pending])) <;> (try intros) <;> (try dsimp only) <;> (repeat' split) <;> simp_all
@[simp] theorem State.beginShutdown_keeps (s : State) :
    s.beginShutdown.pool = s.pool ∧ s.beginShutdown.dmem = s.dmem ∧ s.beginShutdown.imem = s.imem ∧ s.beginShutdown.pending = s.pending := by simp [State.beginShutdown]
@[simp] theorem State.acceptWatch_keeps (s : State) :
    s.acceptWatch.pool = s.pool ∧ s.acceptWatch.dmem = s.dmem ∧ s.acceptWatch.imem = s.imem ∧ s.acceptWatch.pending = s.pending := by simp [State.acceptWatch]
@[simp] theorem State.linksSleep_keeps (s : State) :
    s.linksSleep.pool = s.pool ∧ s.linksSleep.dmem = s.dmem ∧ s.linksSleep.imem = s.imem ∧ s.linksSleep.pending = s.pending := by simp [State.linksSleep]
@[simp] theorem State.suppliesSleep_keeps (s : State) :
    s.suppliesSleep.pool = s.pool ∧ s.suppliesSleep.dmem = s.dmem ∧ s.suppliesSleep.imem = s.imem ∧ s.suppliesSleep.pending = s.pending := by simp [State.suppliesSleep]
@[simp] theorem State.watchEntry_keeps (s : State) :
    s.watchEntry.pool = s.pool ∧ s.watchEntry.dmem = s.dmem ∧ s.watchEntry.imem = s.imem ∧ s.watchEntry.pending = s.pending := by
  unfold State.watchEntry; (repeat' split) <;> simp
@[simp] theorem State.restore_keeps (a0 : List (Nat × Word)) (a1 : Nat) (a2 : State) :
    (a2.restore a0 a1).pool = a2.pool ∧ (a2.restore a0 a1).dmem = a2.dmem ∧ (a2.restore a0 a1).imem = a2.imem ∧ (a2.restore a0 a1).pending = a2.pending := by
  fun_induction State.restore <;> simp_all +zetaDelta <;> (repeat' split) <;> simp_all
@[simp] theorem State.resume_keeps (s : State) (n : Nat) (d : CanDec) (ref : Int) :
    (s.resume n d ref).pool = s.pool ∧ (s.resume n d ref).dmem = s.dmem ∧ (s.resume n d ref).imem = s.imem ∧ (s.resume n d ref).pending = s.pending := by simp [State.resume]
@[simp] theorem State.shaftsBack_keeps (s : State) (old : State) :
    (s.shaftsBack old).pool = s.pool ∧ (s.shaftsBack old).dmem = s.dmem ∧ (s.shaftsBack old).imem = s.imem ∧ (s.shaftsBack old).pending = s.pending := by simp [State.shaftsBack]
@[simp] theorem State.suppliesBack_keeps (s : State) (old : State) :
    (s.suppliesBack old).pool = s.pool ∧ (s.suppliesBack old).dmem = s.dmem ∧ (s.suppliesBack old).imem = s.imem ∧ (s.suppliesBack old).pending = s.pending := by simp [State.suppliesBack]
@[simp] theorem State.recordsBack_keeps (s : State) (saved : Saved) :
    (s.recordsBack saved).pool = s.pool ∧ (s.recordsBack saved).dmem = s.dmem ∧ (s.recordsBack saved).imem = s.imem ∧ (s.recordsBack saved).pending = s.pending := by simp [State.recordsBack]
@[simp] theorem State.alarm_keeps (s : State) :
    s.alarm.pool = s.pool ∧ s.alarm.dmem = s.dmem ∧ s.alarm.imem = s.imem ∧ s.alarm.pending = s.pending := by simp [State.alarm]
@[simp] theorem State.selfRefresh_keeps (s : State) :
    s.selfRefresh.pool = s.pool ∧ s.selfRefresh.dmem = s.dmem ∧ s.selfRefresh.imem = s.imem ∧ s.selfRefresh.pending = s.pending := by simp [State.selfRefresh]
@[simp] theorem State.writeWords_keeps (s : State) (judged : Bool) (a2 : Nat) (a3 : List Word) (a4 : Nat) :
    (s.writeWords judged a2 a3 a4).1.pool = s.pool ∧ (s.writeWords judged a2 a3 a4).1.dmem = s.dmem ∧ (s.writeWords judged a2 a3 a4).1.imem = s.imem ∧ (s.writeWords judged a2 a3 a4).1.pending = s.pending := by
  fun_induction State.writeWords <;> (repeat' split) <;> simp_all +zetaDelta
@[simp] theorem State.opWrite_keeps (s : State) (judged : Bool) (arg : Nat) (body : List Byte) :
    (s.opWrite judged arg body).1.pool = s.pool ∧ (s.opWrite judged arg body).1.dmem = s.dmem ∧ (s.opWrite judged arg body).1.imem = s.imem ∧ (s.opWrite judged arg body).1.pending = s.pending := by
  unfold State.opWrite; (repeat' split) <;> simp
@[simp] theorem State.opModify_keeps (s : State) (judged : Bool) (arg : Nat) (body : List Byte) :
    (s.opModify judged arg body).1.pool = s.pool ∧ (s.opModify judged arg body).1.dmem = s.dmem ∧ (s.opModify judged arg body).1.imem = s.imem ∧ (s.opModify judged arg body).1.pending = s.pending := by
  unfold State.opModify; (repeat' split) <;> simp
@[simp] theorem State.opStart_keeps (s : State) (judged : Bool) (arg : Nat) (body : List Byte) :
    (s.opStart judged arg body).1.pool = s.pool ∧ (s.opStart judged arg body).1.dmem = s.dmem ∧ (s.opStart judged arg body).1.imem = s.imem ∧ (s.opStart judged arg body).1.pending = s.pending := by simp [State.opStart]
@[simp] theorem State.phiBefore_keeps (s : State) :
    s.phiBefore.pool = s.pool ∧ s.phiBefore.dmem = s.dmem ∧ s.phiBefore.imem = s.imem ∧ s.phiBefore.pending = s.pending := by simp [State.phiBefore]
@[simp] theorem State.opArm_keeps (s : State) (staged : Bool) (arg : Nat) (body : List Byte) :
    (s.opArm staged arg body).1.pool = s.pool ∧ (s.opArm staged arg body).1.dmem = s.dmem ∧ (s.opArm staged arg body).1.imem = s.imem ∧ (s.opArm staged arg body).1.pending = s.pending := by simp [State.opArm]
@[simp] theorem State.effect_keeps (s : State) (judged : Bool) (staged : Bool) (c : CmdRec) :
    (s.effect judged staged c).1.pending = s.pending := by simp [State.effect]
@[simp] theorem State.mirrorCmd_keeps (s : State) (n : Nat) (c : CmdRec) (st : Status) :
    (s.mirrorCmd n c st).pool = s.pool ∧ (s.mirrorCmd n c st).dmem = s.dmem ∧ (s.mirrorCmd n c st).imem = s.imem ∧ (s.mirrorCmd n c st).pending = s.pending := by simp [State.mirrorCmd]
@[simp] theorem State.mirrorTxn_keeps (s : State) (n : Nat) (cs : List CmdRec) :
    (s.mirrorTxn n cs).pool = s.pool ∧ (s.mirrorTxn n cs).dmem = s.dmem ∧ (s.mirrorTxn n cs).imem = s.imem ∧ (s.mirrorTxn n cs).pending = s.pending := by simp [State.mirrorTxn]
@[simp] theorem State.setTxn_keeps (s : State) (t : Txn) :
    (s.setTxn t).pool = s.pool ∧ (s.setTxn t).dmem = s.dmem ∧ (s.setTxn t).imem = s.imem ∧ (s.setTxn t).pending = s.pending := by simp [State.setTxn]
@[simp] theorem State.txnBegin_keeps (s : State) (n : Nat) (arg : Nat) :
    (s.txnBegin n arg).1.pool = s.pool ∧ (s.txnBegin n arg).1.dmem = s.dmem ∧ (s.txnBegin n arg).1.imem = s.imem ∧ (s.txnBegin n arg).1.pending = s.pending := by simp [State.txnBegin]
@[simp] theorem State.txnTouch_keeps (s : State) (t : Txn) :
    (s.txnTouch t).pool = s.pool ∧ (s.txnTouch t).dmem = s.dmem ∧ (s.txnTouch t).imem = s.imem ∧ (s.txnTouch t).pending = s.pending := by simp [State.txnTouch]
@[simp] theorem State.txnStage_keeps (s : State) (t : Txn) (c : CmdRec) :
    (s.txnStage t c).1.pool = s.pool ∧ (s.txnStage t c).1.dmem = s.dmem ∧ (s.txnStage t c).1.imem = s.imem ∧ (s.txnStage t c).1.pending = s.pending := by simp [State.txnStage]
@[simp] theorem State.wouldBe_keeps (s : State) (cs : List CmdRec) :
    (s.wouldBe cs).pending = s.pending := by simp [State.wouldBe]
@[simp] theorem State.txnTake_keeps (s : State) (t : Txn) (ph : TxnPhase) (p : Point) (deadline : Nat) (coord : Nat) :
    (s.txnTake t ph p deadline coord).pending = s.pending := by simp [State.txnTake]
@[simp] theorem State.applyRecords_keeps (s : State) (a1 : List CmdRec) (a2 : Nat) :
    (s.applyRecords a1 a2).1.pending = s.pending := by
  fun_induction State.applyRecords <;> (repeat' split) <;> simp_all +zetaDelta
@[simp] theorem State.finishTxn_keeps (s : State) (fs : List Nat) (st : Status) (result : Nat) (body : List Byte) :
    (s.finishTxn fs st result body).pool = s.pool ∧ (s.finishTxn fs st result body).dmem = s.dmem ∧ (s.finishTxn fs st result body).imem = s.imem ∧ (s.finishTxn fs st result body).pending = s.pending := by simp [State.finishTxn]
@[simp] theorem State.commitTick_keeps (s : State) (id : Nat) :
    (s.commitTick id).pending = s.pending := by
  unfold State.commitTick
  split
  · rfl
  · split
    · split <;> rename_i h <;> have k := congrArg Prod.fst h <;> simp at k <;> simp [← k]
    · rfl
@[simp] theorem State.txnObserve_keeps (s : State) :
    s.txnObserve.pool = s.pool ∧ s.txnObserve.dmem = s.dmem ∧ s.txnObserve.imem = s.imem ∧ s.txnObserve.pending = s.pending := by simp [State.txnObserve]
@[simp] theorem State.limitExpiry_keeps (s : State) (id : Nat) :
    (s.limitExpiry id).pool = s.pool ∧ (s.limitExpiry id).dmem = s.dmem ∧ (s.limitExpiry id).imem = s.imem ∧ (s.limitExpiry id).pending = s.pending := by simp [State.limitExpiry]
@[simp] theorem State.txnRollbackCmd_keeps (s : State) (n : Nat) (arg : Nat) :
    (s.txnRollbackCmd n arg).1.pending = s.pending := by
  unfold State.txnRollbackCmd; (repeat' split) <;> simp
@[simp] theorem State.idleTimeout_keeps (s : State) (id : Nat) :
    (s.idleTimeout id).pool = s.pool ∧ (s.idleTimeout id).dmem = s.dmem ∧ (s.idleTimeout id).imem = s.imem ∧ (s.idleTimeout id).pending = s.pending := by simp [State.idleTimeout]
@[simp] theorem State.countBudget_keeps (s : State) (st : Status) :
    (s.countBudget st).pool = s.pool ∧ (s.countBudget st).dmem = s.dmem ∧ (s.countBudget st).imem = s.imem ∧ (s.countBudget st).pending = s.pending := by simp [State.countBudget]
@[simp] theorem State.txnPrepare_keeps (s : State) (t : Txn) (body : List Byte) (coord : Nat) :
    (s.txnPrepare t body coord).1.pending = s.pending := by
  unfold State.txnPrepare; dsimp only; (repeat' split) <;> simp
@[simp] theorem State.txnCommit_keeps (s : State) (t : Txn) (body : List Byte) :
    (s.txnCommit t body).1.pending = s.pending := by
  unfold State.txnCommit; dsimp only; (repeat' split) <;> simp
@[simp] theorem State.noteEnded_keeps (s : State) (t : Txn) (st : Status) :
    (s.noteEnded t st).pool = s.pool ∧ (s.noteEnded t st).dmem = s.dmem ∧ (s.noteEnded t st).imem = s.imem ∧ (s.noteEnded t st).pending = s.pending := by simp [State.noteEnded]
@[simp] theorem State.decisionDeadline_keeps (s : State) (id : Nat) :
    (s.decisionDeadline id).pool = s.pool ∧ (s.decisionDeadline id).dmem = s.dmem ∧ (s.decisionDeadline id).imem = s.imem ∧ (s.decisionDeadline id).pending = s.pending := by
  unfold State.decisionDeadline; (repeat' split) <;> simp
@[simp] theorem State.pointMissed_keeps (s : State) (id : Nat) :
    (s.pointMissed id).pool = s.pool ∧ (s.pointMissed id).dmem = s.dmem ∧ (s.pointMissed id).imem = s.imem ∧ (s.pointMissed id).pending = s.pending := by
  unfold State.pointMissed; (repeat' split) <;> simp
@[simp] theorem State.prepareRetry_keeps (s : State) (id : Nat) :
    (s.prepareRetry id).pending = s.pending := by
  unfold State.prepareRetry
  (repeat' split) <;> (try simp) <;> rename_i h <;> have k := congrArg Prod.fst h <;> simp at k <;> simp [← k]
@[simp] theorem State.storeOpen_keeps (s : State) (n : Nat) :
    (s.storeOpen n).1.pool = s.pool ∧ (s.storeOpen n).1.dmem = s.dmem ∧ (s.storeOpen n).1.imem = s.imem ∧ (s.storeOpen n).1.pending = s.pending := by simp [State.storeOpen]
@[simp] theorem State.storeAppend_keeps (s : State) (n : Nat) (body : List Byte) :
    (s.storeAppend n body).1.pool = s.pool ∧ (s.storeAppend n body).1.dmem = s.dmem ∧ (s.storeAppend n body).1.imem = s.imem ∧ (s.storeAppend n body).1.pending = s.pending := by simp [State.storeAppend]
@[simp] theorem State.storeClose_keeps (s : State) (n : Nat) :
    (s.storeClose n).1.pool = s.pool ∧ (s.storeClose n).1.dmem = s.dmem ∧ (s.storeClose n).1.imem = s.imem ∧ (s.storeClose n).1.pending = s.pending := by simp [State.storeClose]
@[simp] theorem State.storeErase_keeps (s : State) (n : Nat) :
    (s.storeErase n).1.pool = s.pool ∧ (s.storeErase n).1.dmem = s.dmem ∧ (s.storeErase n).1.imem = s.imem ∧ (s.storeErase n).1.pending = s.pending := by simp [State.storeErase]
@[simp] theorem State.storeLock_keeps (s : State) (n : Nat) :
    (s.storeLock n).1.pool = s.pool ∧ (s.storeLock n).1.dmem = s.dmem ∧ (s.storeLock n).1.imem = s.imem ∧ (s.storeLock n).1.pending = s.pending := by simp [State.storeLock]
@[simp] theorem State.storeUnlock_keeps (s : State) (n : Nat) :
    (s.storeUnlock n).1.pool = s.pool ∧ (s.storeUnlock n).1.dmem = s.dmem ∧ (s.storeUnlock n).1.imem = s.imem ∧ (s.storeUnlock n).1.pending = s.pending := by simp [State.storeUnlock]
@[simp] theorem State.storeConfig_keeps (s : State) (arg : Nat) (body : List Byte) :
    (s.storeConfig arg body).1.pool = s.pool ∧ (s.storeConfig arg body).1.dmem = s.dmem ∧ (s.storeConfig arg body).1.imem = s.imem ∧ (s.storeConfig arg body).1.pending = s.pending := by simp [State.storeConfig]
@[simp] theorem State.replay_keeps (s : State) (c : CmdRec) :
    (s.replay c).1.pending = s.pending := by simp [State.replay]
@[simp] theorem State.replayAll_keeps (s : State) (a1 : List CmdRec) (a2 : Nat) :
    (s.replayAll a1 a2).1.pending = s.pending := by
  fun_induction State.replayAll <;> (repeat' split) <;> simp_all +zetaDelta
@[simp] theorem State.recall_keeps (s : State) (n : Nat) :
    (s.recall n).1.pending = s.pending := by
  unfold State.recall; dsimp only; (repeat' split) <;> simp
@[simp] theorem State.recallConfig_keeps (s : State) (arg : Nat) :
    (s.recallConfig arg).1.pending = s.pending := by simp [State.recallConfig]
@[simp] theorem State.firmwareRoutes_keeps (s : State) :
    s.firmwareRoutes.pool = s.pool ∧ s.firmwareRoutes.dmem = s.dmem ∧ s.firmwareRoutes.imem = s.imem ∧ s.firmwareRoutes.pending = s.pending := by simp [State.firmwareRoutes]
@[simp] theorem State.becomeReady_keeps (s : State) :
    s.becomeReady.pending = s.pending := by simp [State.becomeReady]
@[simp] theorem State.opRead_keeps (s : State) (t : Option Txn) (arg : Nat) (body : List Byte) :
    (s.opRead t arg body).1.pool = s.pool ∧ (s.opRead t arg body).1.dmem = s.dmem ∧ (s.opRead t arg body).1.imem = s.imem ∧ (s.opRead t arg body).1.pending = s.pending := by
  unfold State.opRead; dsimp only; (repeat' split) <;> simp
@[simp] theorem State.opOutputEnable_keeps (s : State) (arg : Nat) :
    (s.opOutputEnable arg).1.pool = s.pool ∧ (s.opOutputEnable arg).1.dmem = s.dmem ∧ (s.opOutputEnable arg).1.imem = s.imem ∧ (s.opOutputEnable arg).1.pending = s.pending := by simp [State.opOutputEnable]
@[simp] theorem State.holdFlight_keeps (s : State) (id : Nat) (h : Hold) :
    (s.holdFlight id h).pool = s.pool ∧ (s.holdFlight id h).dmem = s.dmem ∧ (s.holdFlight id h).imem = s.imem ∧ (s.holdFlight id h).pending = s.pending := by simp [State.holdFlight]
@[simp] theorem State.completes_keeps (s : State) (fl : Flight) (c : Completion) :
    (s.completes fl c).pool = s.pool ∧ (s.completes fl c).dmem = s.dmem ∧ (s.completes fl c).imem = s.imem ∧ (s.completes fl c).pending = s.pending := by simp [State.completes]
@[simp] theorem State.runEffect_keeps (s : State) (fl : Flight) :
    (s.runEffect fl).pending = s.pending := by simp [State.runEffect]
@[simp] theorem State.runCodeJob_keeps (s : State) (fl : Flight) :
    (s.runCodeJob fl).pool = s.pool ∧ (s.runCodeJob fl).dmem = s.dmem ∧ (s.runCodeJob fl).imem = s.imem ∧ (s.runCodeJob fl).pending = s.pending := by
  unfold State.runCodeJob; dsimp only; (repeat' split) <;> simp
@[simp] theorem State.runStop_keeps (s : State) (fl : Flight) :
    (s.runStop fl).pool = s.pool ∧ (s.runStop fl).dmem = s.dmem ∧ (s.runStop fl).imem = s.imem ∧ (s.runStop fl).pending = s.pending := by simp [State.runStop]
@[simp] theorem State.runNop_keeps (s : State) (fl : Flight) :
    (s.runNop fl).pool = s.pool ∧ (s.runNop fl).dmem = s.dmem ∧ (s.runNop fl).imem = s.imem ∧ (s.runNop fl).pending = s.pending := by simp [State.runNop]
@[simp] theorem State.runFence_keeps (s : State) (fl : Flight) :
    (s.runFence fl).pool = s.pool ∧ (s.runFence fl).dmem = s.dmem ∧ (s.runFence fl).imem = s.imem ∧ (s.runFence fl).pending = s.pending := by simp [State.runFence]
@[simp] theorem State.runCommit_keeps (s0 : State) (fl : Flight) :
    (s0.runCommit fl).pending = s0.pending := by
  unfold State.runCommit
  dsimp only
  (repeat' split) <;> (try simp) <;> rename_i h <;> have k := congrArg Prod.fst h <;> simp at k <;> simp [← k]
@[simp] theorem State.runPrepare_keeps (s : State) (fl : Flight) :
    (s.runPrepare fl).pending = s.pending := by
  unfold State.runPrepare
  dsimp only
  (repeat' split) <;> (try simp) <;> rename_i h <;> have k := congrArg Prod.fst h <;> simp at k <;> simp [← k]
@[simp] theorem State.runPower_keeps (s : State) (fl : Flight) :
    (s.runPower fl).pool = s.pool ∧ (s.runPower fl).dmem = s.dmem ∧ (s.runPower fl).imem = s.imem ∧ (s.runPower fl).pending = s.pending := by simp [State.runPower]
@[simp] theorem State.settleStops_keeps (s : State) :
    s.settleStops.pool = s.pool ∧ s.settleStops.dmem = s.dmem ∧ s.settleStops.imem = s.imem ∧ s.settleStops.pending = s.pending := by
  unfold State.settleStops; (try dsimp only); (repeat' split) <;> (try simp) <;> (repeat' apply And.intro) <;>
    (try (first | rw [foldl_pool] | rw [foldl_dmem] | rw [foldl_imem] | rw [foldl_pending] | rw [State.forEach_pool] | rw [State.forEach_dmem] | rw [State.forEach_imem] | rw [State.forEach_pending] | rw [foldl_pool] | rw [State.forEach_pool] | rw [foldl_dmem] | rw [State.forEach_dmem] | rw [foldl_imem] | rw [State.forEach_imem] | rw [foldl_pending] | rw [State.forEach_pending])) <;> (try intros) <;> (try dsimp only) <;> (repeat' split) <;> simp_all
@[simp] theorem State.settlePower_keeps (s : State) :
    s.settlePower.pool = s.pool ∧ s.settlePower.dmem = s.dmem ∧ s.settlePower.imem = s.imem ∧ s.settlePower.pending = s.pending := by
  unfold State.settlePower; (repeat' split) <;> simp
@[simp] theorem State.settleReleases_keeps (s : State) :
    s.settleReleases.pool = s.pool ∧ s.settleReleases.dmem = s.dmem ∧ s.settleReleases.imem = s.imem ∧ s.settleReleases.pending = s.pending := by simp [State.settleReleases]
@[simp] theorem State.settle_keeps (s : State) :
    s.settle.pool = s.pool ∧ s.settle.dmem = s.dmem ∧ s.settle.imem = s.imem ∧ s.settle.pending = s.pending := by simp [State.settle]
@[simp] theorem State.refuse_keeps (s : State) (n : Nat) (src : Nat) (c : CmdRec) (credit : Nat) (st : Status) :
    (s.refuse n src c credit st).pool = s.pool ∧ (s.refuse n src c credit st).dmem = s.dmem ∧ (s.refuse n src c credit st).imem = s.imem ∧ (s.refuse n src c credit st).pending = s.pending := by simp [State.refuse]
@[simp] theorem State.takeCredit_keeps (s : State) (n : Nat) :
    (s.takeCredit n).pool = s.pool ∧ (s.takeCredit n).dmem = s.dmem ∧ (s.takeCredit n).imem = s.imem ∧ (s.takeCredit n).pending = s.pending := by simp [State.takeCredit]
@[simp] theorem State.fenceComplete_keeps (s : State) (n : Nat) :
    (s.fenceComplete n).pool = s.pool ∧ (s.fenceComplete n).dmem = s.dmem ∧ (s.fenceComplete n).imem = s.imem ∧ (s.fenceComplete n).pending = s.pending := by
  unfold State.fenceComplete; (repeat' split) <;> simp
@[simp] theorem State.replyFrame_keeps (s : State) (n : Nat) :
    (s.replyFrame n).pool = s.pool ∧ (s.replyFrame n).dmem = s.dmem ∧ (s.replyFrame n).imem = s.imem ∧ (s.replyFrame n).pending = s.pending := by simp [State.replyFrame]
@[simp] theorem State.endSlice_keeps (s : State) (e : Nat) :
    (s.endSlice e).pool = s.pool ∧ (s.endSlice e).dmem = s.dmem ∧ (s.endSlice e).imem = s.imem ∧ (s.endSlice e).pending = s.pending := by
  unfold State.endSlice; (repeat' split) <;> simp
@[simp] theorem State.spendCycle_keeps (s : State) (e : Nat) :
    (s.spendCycle e).pool = s.pool ∧ (s.spendCycle e).dmem = s.dmem ∧ (s.spendCycle e).imem = s.imem ∧ (s.spendCycle e).pending = s.pending := by simp [State.spendCycle]
@[simp] theorem State.enterSlice_keeps (s : State) (g : Nat) :
    (s.enterSlice g).pool = s.pool ∧ (s.enterSlice g).dmem = s.dmem ∧ (s.enterSlice g).imem = s.imem ∧ (s.enterSlice g).pending = s.pending := by simp [State.enterSlice]
@[simp] theorem State.touchErr_keeps (s : State) (e : Nat) (k : Nat) (m : MemErr) :
    (s.touchErr e k m).pool = s.pool ∧ (s.touchErr e k m).dmem = s.dmem ∧ (s.touchErr e k m).imem = s.imem ∧ (s.touchErr e k m).pending = s.pending := by simp [State.touchErr]
@[simp] theorem State.dmemFault_keeps (s : State) (g : Nat) (k : Nat) :
    (s.dmemFault g k).pool = s.pool ∧ (s.dmemFault g k).dmem = s.dmem ∧ (s.dmemFault g k).imem = s.imem ∧ (s.dmemFault g k).pending = s.pending := by simp [State.dmemFault]
@[simp] theorem State.pcFault_keeps (s : State) (g : Nat) :
    (s.pcFault g).pool = s.pool ∧ (s.pcFault g).dmem = s.dmem ∧ (s.pcFault g).imem = s.imem ∧ (s.pcFault g).pending = s.pending := by simp [State.pcFault]
@[simp] theorem State.waitOn_keeps (s : State) (g : Nat) (w : WaitOn) (meet : Option Nat) :
    (s.waitOn g w meet).pool = s.pool ∧ (s.waitOn g w meet).dmem = s.dmem ∧ (s.waitOn g w meet).imem = s.imem ∧ (s.waitOn g w meet).pending = s.pending := by simp [State.waitOn]
@[simp] theorem State.mirrorReq_keeps (s : State) (g : Nat) (kind : Nat) (xs : List Nat) :
    (s.mirrorReq g kind xs).pool = s.pool ∧ (s.mirrorReq g kind xs).dmem = s.dmem ∧ (s.mirrorReq g kind xs).imem = s.imem ∧ (s.mirrorReq g kind xs).pending = s.pending := by simp [State.mirrorReq]
@[simp] theorem State.posted_keeps (s : State) (g : Nat) (st : Status) :
    (s.posted g st).pool = s.pool ∧ (s.posted g st).dmem = s.dmem ∧ (s.posted g st).imem = s.imem ∧ (s.posted g st).pending = s.pending := by simp [State.posted]
@[simp] theorem State.bwrTake_keeps (s : State) (g : Nat) (a : Nat) (v : Word) :
    (s.bwrTake g a v).pool = s.pool ∧ (s.bwrTake g a v).dmem = s.dmem ∧ (s.bwrTake g a v).imem = s.imem ∧ (s.bwrTake g a v).pending = s.pending := by simp [State.bwrTake]
@[simp] theorem State.captTake_keeps (s : State) (g : Nat) (n : Nat) :
    (s.captTake g n).pool = s.pool ∧ (s.captTake g n).dmem = s.dmem ∧ (s.captTake g n).imem = s.imem ∧ (s.captTake g n).pending = s.pending := by simp [State.captTake]
@[simp] theorem State.post_keeps (s : State) (g : Nat) (r : Ret) (take : State → State) (h_pool : ∀ t, (take t).pool = t.pool) (h_dmem : ∀ t, (take t).dmem = t.dmem) (h_imem : ∀ t, (take t).imem = t.imem) (h_pending : ∀ t, (take t).pending = t.pending) :
    (s.post g r take).pool = s.pool ∧ (s.post g r take).dmem = s.dmem ∧ (s.post g r take).imem = s.imem ∧ (s.post g r take).pending = s.pending := by
  unfold State.post; (repeat' split) <;> (try simp) <;> (repeat' split) <;> simp_all
@[simp] theorem State.reqFails_keeps (s : State) (g : Nat) (d : Nat) (st : Status) :
    (s.reqFails g d st).pool = s.pool ∧ (s.reqFails g d st).dmem = s.dmem ∧ (s.reqFails g d st).imem = s.imem ∧ (s.reqFails g d st).pending = s.pending := by simp [State.reqFails]
@[simp] theorem State.reqDone_keeps (s : State) (g : Nat) (d : Option Nat) (w : Nat) :
    (s.reqDone g d w).pool = s.pool ∧ (s.reqDone g d w).dmem = s.dmem ∧ (s.reqDone g d w).imem = s.imem ∧ (s.reqDone g d w).pending = s.pending := by simp [State.reqDone]
@[simp] theorem State.prodOp_keeps (s : State) (g : Nat) (i : Issue) :
    (s.prodOp g i).pool = s.pool ∧ (s.prodOp g i).dmem = s.dmem ∧ (s.prodOp g i).imem = s.imem ∧ (s.prodOp g i).pending = s.pending := by
  unfold State.prodOp; dsimp only; (repeat' split) <;> simp
@[simp] theorem State.jump_keeps (s : State) (g : Nat) (a : Nat) :
    (s.jump g a).pool = s.pool ∧ (s.jump g a).dmem = s.dmem ∧ (s.jump g a).imem = s.imem ∧ (s.jump g a).pending = s.pending := by simp [State.jump]
@[simp] theorem State.waitRow_keeps (s : State) (g : Nat) :
    (s.waitRow g).pool = s.pool ∧ (s.waitRow g).imem = s.imem ∧ (s.waitRow g).pending = s.pending := by
  unfold State.waitRow; (repeat' split) <;> simp
@[simp] theorem State.shadowCmd_keeps (s : State) (c : CmdRec) :
    (s.shadowCmd c).pending = s.pending := by simp [State.shadowCmd]
@[simp] theorem State.shadowOwner_keeps (s : State) (n : Nat) (owner : Nat) (c : CmdRec) :
    (s.shadowOwner n owner c).pool = s.pool ∧ (s.shadowOwner n owner c).dmem = s.dmem ∧ (s.shadowOwner n owner c).imem = s.imem ∧ (s.shadowOwner n owner c).pending = s.pending := by simp [State.shadowOwner]
@[simp] theorem State.shadowReq_keeps (s : State) (g : Nat) (a2 : ThreadReq) :
    (s.shadowReq g a2).pool = s.pool ∧ (s.shadowReq g a2).dmem = s.dmem ∧ (s.shadowReq g a2).imem = s.imem ∧ (s.shadowReq g a2).pending = s.pending := by
  unfold State.shadowReq; (repeat' split) <;> simp
@[simp] theorem State.shadowSerial_keeps (s : State) (m : MirrorSerial) :
    (s.shadowSerial m).pool = s.pool ∧ (s.shadowSerial m).dmem = s.dmem ∧ (s.shadowSerial m).imem = s.imem ∧ (s.shadowSerial m).pending = s.pending := by simp [State.shadowSerial]
@[simp] theorem State.shadowBlock_keeps (s : State) (g : Nat) (first : Nat) (last : Nat) :
    (s.shadowBlock g first last).pool = s.pool ∧ (s.shadowBlock g first last).dmem = s.dmem ∧ (s.shadowBlock g first last).imem = s.imem ∧ (s.shadowBlock g first last).pending = s.pending := by simp [State.shadowBlock]
@[simp] theorem State.shadowDeparture_keeps (s : State) (pid : Nat) (failed : Bool) :
    (s.shadowDeparture pid failed).pool = s.pool ∧ (s.shadowDeparture pid failed).dmem = s.dmem ∧ (s.shadowDeparture pid failed).imem = s.imem ∧ (s.shadowDeparture pid failed).pending = s.pending := by
  unfold State.shadowDeparture; (repeat' split) <;> simp
@[simp] theorem State.shadowArrival_keeps (s : State) (lane : Nat) (p : Product) :
    (s.shadowArrival lane p).pool = s.pool ∧ (s.shadowArrival lane p).dmem = s.dmem ∧ (s.shadowArrival lane p).imem = s.imem ∧ (s.shadowArrival lane p).pending = s.pending := by
  unfold State.shadowArrival; (try dsimp only); (repeat' split) <;> (try simp) <;> (have k := takeRecord_keeps ‹_›) <;> simp_all
@[simp] theorem State.shadowThread_keeps (s : State) (g : Nat) (x : Thread) (signals : Nat) (words : List (Nat × BitVec 64)) :
    (s.shadowThread g x signals words).pool = s.pool ∧ (s.shadowThread g x signals words).imem = s.imem ∧ (s.shadowThread g x signals words).pending = s.pending := by simp [State.shadowThread]
@[simp] theorem State.applyItem_keeps (s : State) (a1 : MirrorItem) :
    (s.applyItem a1).pending = s.pending := by
  unfold State.applyItem; (repeat' split) <;> simp
@[simp] theorem State.itemIn_keeps (s : State) (q : Nat) (i : MirrorItem) :
    (s.itemIn q i).pending = s.pending := by simp [State.itemIn]
@[simp] theorem State.resynced_keeps (s : State) (k : Nat) :
    (s.resynced k).pool = s.pool ∧ (s.resynced k).dmem = s.dmem ∧ (s.resynced k).imem = s.imem ∧ (s.resynced k).pending = s.pending := by simp [State.resynced]
@[simp] theorem State.copyEventsIn_keeps (s : State) (n : Nat) (es : List (Nat × AlmEvent)) :
    (s.copyEventsIn n es).pool = s.pool ∧ (s.copyEventsIn n es).dmem = s.dmem ∧ (s.copyEventsIn n es).imem = s.imem ∧ (s.copyEventsIn n es).pending = s.pending := by simp [State.copyEventsIn]
@[simp] theorem State.copyRecordsIn_keeps (s : State) (n : Nat) (ps : List (Nat × Product)) :
    (s.copyRecordsIn n ps).pool = s.pool ∧ (s.copyRecordsIn n ps).dmem = s.dmem ∧ (s.copyRecordsIn n ps).imem = s.imem ∧ (s.copyRecordsIn n ps).pending = s.pending := by simp [State.copyRecordsIn]
@[simp] theorem State.applyCopy_keeps (s : State) (a1 : CopyPart) :
    (s.applyCopy a1).pending = s.pending := by
  unfold State.applyCopy; (repeat' split) <;> simp
@[simp] theorem State.copyIn_keeps (s : State) (q : Nat) (p : CopyPart) :
    (s.copyIn q p).pending = s.pending := by simp [State.copyIn]
@[simp] theorem State.discarded_keeps (s : State) (a1 : Discard) :
    (s.discarded a1).pool = s.pool ∧ (s.discarded a1).dmem = s.dmem ∧ (s.discarded a1).imem = s.imem ∧ (s.discarded a1).pending = s.pending := by
  unfold State.discarded; (repeat' split) <;> simp
@[simp] theorem State.learn_keeps (s : State) (p : Nat) (src : Nat) (hops : Nat) :
    (s.learn p src hops).pool = s.pool ∧ (s.learn p src hops).dmem = s.dmem ∧ (s.learn p src hops).imem = s.imem ∧ (s.learn p src hops).pending = s.pending := by simp [State.learn]
@[simp] theorem State.conflict_keeps (s : State) (src : Nat) :
    (s.conflict src).pool = s.pool ∧ (s.conflict src).dmem = s.dmem ∧ (s.conflict src).imem = s.imem ∧ (s.conflict src).pending = s.pending := by simp [State.conflict]
@[simp] theorem State.noteSeq_keeps (s : State) (h : Header) :
    (s.noteSeq h).pool = s.pool ∧ (s.noteSeq h).dmem = s.dmem ∧ (s.noteSeq h).imem = s.imem ∧ (s.noteSeq h).pending = s.pending := by simp [State.noteSeq]
@[simp] theorem State.handoffIn_keeps (s : State) (h : Header) :
    (s.handoffIn h).pool = s.pool ∧ (s.handoffIn h).dmem = s.dmem ∧ (s.handoffIn h).imem = s.imem ∧ (s.handoffIn h).pending = s.pending := by simp [State.handoffIn]
@[simp] theorem State.lineIn_keeps (s : State) (h : Header) :
    (s.lineIn h).pool = s.pool ∧ (s.lineIn h).dmem = s.dmem ∧ (s.lineIn h).imem = s.imem ∧ (s.lineIn h).pending = s.pending := by simp [State.lineIn]
@[simp] theorem State.confirmIn_keeps (s : State) (h : Header) :
    (s.confirmIn h).pool = s.pool ∧ (s.confirmIn h).dmem = s.dmem ∧ (s.confirmIn h).imem = s.imem ∧ (s.confirmIn h).pending = s.pending := by
  unfold State.confirmIn; (repeat' split) <;> simp
@[simp] theorem State.enumIn_keeps (s : State) (h : Header) :
    (s.enumIn h).pool = s.pool ∧ (s.enumIn h).dmem = s.dmem ∧ (s.enumIn h).imem = s.imem ∧ (s.enumIn h).pending = s.pending := by
  unfold State.enumIn; (repeat' split) <;> simp
@[simp] theorem State.forwardOn_keeps (s : State) (p : Nat) (h : Header) (dl : Bool) :
    (s.forwardOn p h dl).pool = s.pool ∧ (s.forwardOn p h dl).dmem = s.dmem ∧ (s.forwardOn p h dl).imem = s.imem ∧ (s.forwardOn p h dl).pending = s.pending := by simp [State.forwardOn]
@[simp] theorem State.discardT_keeps (s : State) :
    s.discardT.pool = s.pool ∧ s.discardT.dmem = s.dmem ∧ s.discardT.imem = s.imem ∧ s.discardT.pending = s.pending := by simp [State.discardT]
@[simp] theorem State.mirrorIn_keeps (s : State) (f : FrameIn) (h : Header) :
    (s.mirrorIn f h).pending = s.pending := by
  unfold State.mirrorIn; dsimp only; (repeat' split) <;> simp
@[simp] theorem State.regWrite_keeps (s : State) (a : Nat) (m : Word) (v : Word) :
    (s.regWrite a m v).pool = s.pool ∧ (s.regWrite a m v).dmem = s.dmem ∧ (s.regWrite a m v).imem = s.imem ∧ (s.regWrite a m v).pending = s.pending := by simp [State.regWrite]
@[simp] theorem State.regEnable_keeps (s : State) (a : Nat) (f : Fld) (v : Word) :
    (s.regEnable a f v).pool = s.pool ∧ (s.regEnable a f v).dmem = s.dmem ∧ (s.regEnable a f v).imem = s.imem ∧ (s.regEnable a f v).pending = s.pending := by simp [State.regEnable]
@[simp] theorem State.regDisable_keeps (s : State) (a : Nat) (f : Fld) :
    (s.regDisable a f).pool = s.pool ∧ (s.regDisable a f).dmem = s.dmem ∧ (s.regDisable a f).imem = s.imem ∧ (s.regDisable a f).pending = s.pending := by simp [State.regDisable]
@[simp] theorem State.regAct_keeps (s : State) (a : Nat) (f : Fld) :
    (s.regAct a f).pool = s.pool ∧ (s.regAct a f).dmem = s.dmem ∧ (s.regAct a f).imem = s.imem ∧ (s.regAct a f).pending = s.pending := by simp [State.regAct]
@[simp] theorem State.regWriteBy_keeps (s : State) (bus : Bool) (a : Nat) (v : Word) :
    (s.regWriteBy bus a v).pool = s.pool ∧ (s.regWriteBy bus a v).dmem = s.dmem ∧ (s.regWriteBy bus a v).imem = s.imem ∧ (s.regWriteBy bus a v).pending = s.pending := by
  unfold State.regWriteBy; (repeat' split) <;> simp
@[simp] theorem State.regRead_keeps (s : State) (a : Nat) (n : Nat) :
    (s.regRead a n).pool = s.pool ∧ (s.regRead a n).dmem = s.dmem ∧ (s.regRead a n).imem = s.imem ∧ (s.regRead a n).pending = s.pending := by simp [State.regRead]
@[simp] theorem State.eventLine_keeps (s : State) (i : Nat) (pin : Bool) :
    (s.eventLine i pin).pool = s.pool ∧ (s.eventLine i pin).dmem = s.dmem ∧ (s.eventLine i pin).imem = s.imem ∧ (s.eventLine i pin).pending = s.pending := by simp [State.eventLine]
@[simp] theorem State.bluTick_keeps (s : State) :
    s.bluTick.pool = s.pool ∧ s.bluTick.dmem = s.dmem ∧ s.bluTick.imem = s.imem ∧ s.bluTick.pending = s.pending := by simp [State.bluTick]
@[simp] theorem State.trailTick_keeps (s : State) :
    s.trailTick.pool = s.pool ∧ s.trailTick.dmem = s.dmem ∧ s.trailTick.imem = s.imem ∧ s.trailTick.pending = s.pending := by simp [State.trailTick]
@[simp] theorem State.secondTick_keeps (s : State) :
    s.secondTick.pool = s.pool ∧ s.secondTick.dmem = s.dmem ∧ s.secondTick.imem = s.imem ∧ s.secondTick.pending = s.pending := by simp [State.secondTick]
@[simp] theorem State.loadPort_keeps (s : State) (p : Nat) :
    (s.loadPort p).pool = s.pool ∧ (s.loadPort p).dmem = s.dmem ∧ (s.loadPort p).imem = s.imem ∧ (s.loadPort p).pending = s.pending := by simp [State.loadPort]
@[simp] theorem State.loadTick_keeps (s : State) :
    s.loadTick.pool = s.pool ∧ s.loadTick.dmem = s.dmem ∧ s.loadTick.imem = s.imem ∧ s.loadTick.pending = s.pending := by simp [State.loadTick]
@[simp] theorem State.tickEnds_keeps (s : State) :
    s.tickEnds.pool = s.pool ∧ s.tickEnds.dmem = s.dmem ∧ s.tickEnds.imem = s.imem ∧ s.tickEnds.pending = s.pending := by simp [State.tickEnds]
@[simp] theorem State.actsTick_keeps (s : State) :
    s.actsTick.pool = s.pool ∧ s.actsTick.dmem = s.dmem ∧ s.actsTick.imem = s.imem ∧ s.actsTick.pending = s.pending := by simp [State.actsTick]
@[simp] theorem State.tickBegins_keeps (s : State) :
    s.tickBegins.pool = s.pool ∧ s.tickBegins.dmem = s.dmem ∧ s.tickBegins.imem = s.imem ∧ s.tickBegins.pending = s.pending := by simp [State.tickBegins]
@[simp] theorem State.grantTick_keeps (s : State) :
    s.grantTick.pool = s.pool ∧ s.grantTick.dmem = s.dmem ∧ s.grantTick.imem = s.imem := by
  unfold State.grantTick; (repeat' split) <;> simp
@[simp] theorem State.aonTick_keeps (s : State) :
    s.aonTick.pool = s.pool ∧ s.aonTick.dmem = s.dmem ∧ s.aonTick.imem = s.imem ∧ s.aonTick.pending = s.pending := by simp [State.aonTick]
@[simp] theorem State.tick_keeps (s : State) :
    s.tick.pool = s.pool ∧ s.tick.dmem = s.dmem ∧ s.tick.imem = s.imem := by simp [State.tick]
@[simp] theorem State.withFetchWord_keeps (s : State) (nbits : Nat) (w : Nat) :
    (s.withFetchWord nbits w).pool = s.pool ∧ (s.withFetchWord nbits w).dmem = s.dmem ∧ (s.withFetchWord nbits w).imem = s.imem := by
  unfold State.withFetchWord; (repeat' split) <;> simp

end Sys2Proof.Machine
end

