-- ==== Sys2Proof/Laws/Memory.lean ====
section
/-! SUPPORT. The stores of bytes stay in their canonical form, and the queue stays as it is, through the operations that
write the pool or a data memory, or that start the engine anew. -/

namespace Sys2Proof.Machine

@[simp] theorem memWrite_wf (m : List Host.Cell) (a : Nat) (b : Byte) (h : Memory.wf m = true) :
    Memory.wf (memWrite m a b) = true :=
  FMap.wf_set _ m a b h

@[simp] theorem memWriteAll_wf (bs : List Byte) (m : List Host.Cell) (a : Nat) (h : Memory.wf m = true) :
    Memory.wf (memWriteAll m a bs) = true := by
  induction bs generalizing m a with
  | nil => exact h
  | cons b bs ih => exact ih _ _ (memWrite_wf m a b h)

@[simp] theorem memFold_wf {α : Type} (l : List α) (m : List Host.Cell) (f : List Host.Cell → α → List Host.Cell)
    (h : Memory.wf m = true) (hf : ∀ m a, Memory.wf m = true → Memory.wf (f m a) = true) :
    Memory.wf (l.foldl f m) = true := by
  induction l generalizing m with
  | nil => exact h
  | cons a l ih => exact ih _ (hf m a h)

@[simp] theorem Memory.wf_ite (c : Prop) [Decidable c] (m n : List Host.Cell) :
    Memory.wf (if c then m else n) = if c then Memory.wf m else Memory.wf n := apply_ite Memory.wf c m n
@[simp] theorem Memory.wf_nil : Memory.wf [] = true := rfl

@[simp] theorem foldl_poolWf {α : Type} (f : State → α → State)
    (h : ∀ s a, Memory.wf s.pool = true → Memory.wf (f s a).pool = true) (l : List α) (s : State)
    (hm : Memory.wf s.pool = true) : Memory.wf (l.foldl f s).pool = true := by
  induction l generalizing s with
  | nil => exact hm
  | cons a l ih => exact ih _ (h s a hm)

@[simp] theorem foldl_dmemWf {α : Type} (f : State → α → State)
    (h : ∀ s a, Memory.wf s.dmem = true → Memory.wf (f s a).dmem = true) (l : List α) (s : State)
    (hm : Memory.wf s.dmem = true) : Memory.wf (l.foldl f s).dmem = true := by
  induction l generalizing s with
  | nil => exact hm
  | cons a l ih => exact ih _ (h s a hm)

@[simp] theorem State.inRun_poolWf (s : State) (f : State → State)
    (h : ∀ s, Memory.wf s.pool = true → Memory.wf (f s).pool = true) (hm : Memory.wf s.pool = true) :
    Memory.wf (s.inRun f).pool = true := by unfold State.inRun; split <;> simp [*]
@[simp] theorem State.inRun_dmemWf (s : State) (f : State → State)
    (h : ∀ s, Memory.wf s.dmem = true → Memory.wf (f s).dmem = true) (hm : Memory.wf s.dmem = true) :
    Memory.wf (s.inRun f).dmem = true := by unfold State.inRun; split <;> simp [*]

@[simp] theorem State.afresh_keeps (s : State) :
    s.afresh.pool = [] ∧ s.afresh.dmem = [] ∧ s.afresh.pending = s.pending := by
  simp [State.afresh, State.reset]
@[simp] theorem State.wokenState_keeps (s : State) :
    s.wokenState.pool = [] ∧ s.wokenState.dmem = [] ∧ s.wokenState.pending = s.pending := by
  refine ⟨rfl, rfl, ?_⟩
  rw [State.wokenState.eq_1]

@[simp] theorem State.poolWrite_poolWf (s : State) (a : Nat) (bs : List Byte) (hm : Memory.wf s.pool = true) :
    Memory.wf (s.poolWrite a bs).pool = true := by simp [State.poolWrite, hm]
@[simp] theorem State.poolWriteCmd_poolWf (s : State) (off : Nat) (body : List Byte) (hm : Memory.wf s.pool = true) :
    Memory.wf (s.poolWriteCmd off body).1.pool = true := by simp [State.poolWriteCmd, hm]
@[simp] theorem State.ringWrite_poolWf (s : State) (rl : Nat) (at_ : Nat) (bs : List Byte) (hm : Memory.wf s.pool = true) :
    Memory.wf (s.ringWrite rl at_ bs).pool = true := by simp [State.ringWrite, hm]
@[simp] theorem State.jobImage_poolWf (s : State) (j : Job) (h : Template) (serial : Nat) (dots : List Dot) (hm : Memory.wf s.pool = true) :
    Memory.wf (s.jobImage j h serial dots).pool = true := by simp [State.jobImage, hm]
@[simp] theorem State.jobEnd_poolWf (s : State) (j : Job) (hm : Memory.wf s.pool = true) :
    Memory.wf (s.jobEnd j).pool = true := by
  unfold State.jobEnd; dsimp only; (repeat' split) <;> simp [*]
@[simp] theorem State.jobComplete_poolWf (s : State) (k : Nat) (hm : Memory.wf s.pool = true) :
    Memory.wf (s.jobComplete k).pool = true := by
  unfold State.jobComplete; (repeat' split) <;> simp [*]
@[simp] theorem State.dmemWrite_dmemWf (s : State) (e : Nat) (a : Nat) (bs : List Byte) (hm : Memory.wf s.dmem = true) :
    Memory.wf (s.dmemWrite e a bs).dmem = true := by simp [State.dmemWrite, hm]
@[simp] theorem State.busMet_dmemWf (s : State) (g : Nat) (r : Ret) (hm : Memory.wf s.dmem = true) :
    Memory.wf (s.busMet g r).dmem = true := by
  unfold State.busMet; (repeat' split) <;> simp [*]
@[simp] theorem State.waitEnd_dmemWf (s : State) (g : Nat) (hm : Memory.wf s.dmem = true) :
    Memory.wf (s.waitEnd g).dmem = true := by
  unfold State.waitEnd; dsimp only; (repeat' split) <;> simp [*]
@[simp] theorem State.bluLoad_dmemWf (s : State) (arg : Nat) (body : List Byte) (hm : Memory.wf s.dmem = true) :
    Memory.wf (s.bluLoad arg body).1.dmem = true := by simp [State.bluLoad, hm]
@[simp] theorem State.dmaPoolWrite_poolWf (s : State) (base : Nat) (mode : Nat) (a3 : Nat) (a4 : List Byte) (hm : Memory.wf s.pool = true) :
    Memory.wf (s.dmaPoolWrite base mode a3 a4).pool = true := by
  fun_induction State.dmaPoolWrite <;> (repeat' split) <;> simp_all +zetaDelta
@[simp] theorem State.dmaStore_poolWf (s : State) (n : Nat) (d : DmaDesc) (i : Nat) (bs : List Byte) (hm : Memory.wf s.pool = true) :
    Memory.wf (s.dmaStore n d i bs).1.pool = true := by simp [State.dmaStore, hm]
@[simp] theorem State.dmaFinish_poolWf (s : State) (n : Nat) (d : DmaDesc) (hm : Memory.wf s.pool = true) :
    Memory.wf (s.dmaFinish n d).pool = true := by simp [State.dmaFinish, hm]
@[simp] theorem State.dmaMove_poolWf (s : State) (n : Nat) (d : DmaDesc) (hm : Memory.wf s.pool = true) :
    Memory.wf (s.dmaMove n d).pool = true := by
  unfold State.dmaMove; dsimp only; (repeat' split) <;> simp [*]
@[simp] theorem State.dmaBurst_poolWf (s : State) (n : Nat) (hm : Memory.wf s.pool = true) :
    Memory.wf (s.dmaBurst n).pool = true := by
  unfold State.dmaBurst; dsimp only; (repeat' split) <;> simp [*]
@[simp] theorem State.coldReset_pending (s : State) (cause : Nat) :
    (s.coldReset cause).pending = s.pending := by simp [State.coldReset]
@[simp] theorem State.coldReset_poolWf (s : State) (cause : Nat) (hm : Memory.wf s.pool = true) :
    Memory.wf (s.coldReset cause).pool = true := by simp [State.coldReset, hm]
@[simp] theorem State.coldReset_dmemWf (s : State) (cause : Nat) (hm : Memory.wf s.dmem = true) :
    Memory.wf (s.coldReset cause).dmem = true := by simp [State.coldReset, hm]
@[simp] theorem State.warmReset_pending (s : State) (cause : Nat) :
    (s.warmReset cause).pending = s.pending := by simp [State.warmReset]
@[simp] theorem State.warmReset_poolWf (s : State) (cause : Nat) (hm : Memory.wf s.pool = true) :
    Memory.wf (s.warmReset cause).pool = true := by simp [State.warmReset, hm]
@[simp] theorem State.warmReset_dmemWf (s : State) (cause : Nat) (hm : Memory.wf s.dmem = true) :
    Memory.wf (s.warmReset cause).dmem = true := by simp [State.warmReset, hm]
@[simp] theorem State.coldStart_pending (s : State) (mw : Nat) :
    (s.coldStart mw).pending = s.pending := by simp [State.coldStart]
@[simp] theorem State.coldStart_poolWf (s : State) (mw : Nat) (hm : Memory.wf s.pool = true) :
    Memory.wf (s.coldStart mw).pool = true := by simp [State.coldStart, hm]
@[simp] theorem State.coldStart_dmemWf (s : State) (mw : Nat) (hm : Memory.wf s.dmem = true) :
    Memory.wf (s.coldStart mw).dmem = true := by simp [State.coldStart, hm]
@[simp] theorem State.powerUp_pending (s : State) (mw : Nat) :
    (s.powerUp mw).pending = s.pending := by simp [State.powerUp]
@[simp] theorem State.powerUp_poolWf (s : State) (mw : Nat) (hm : Memory.wf s.pool = true) :
    Memory.wf (s.powerUp mw).pool = true := by simp [State.powerUp, hm]
@[simp] theorem State.powerUp_dmemWf (s : State) (mw : Nat) (hm : Memory.wf s.dmem = true) :
    Memory.wf (s.powerUp mw).dmem = true := by simp [State.powerUp, hm]
@[simp] theorem State.coreOff_pending (s : State) :
    s.coreOff.pending = s.pending := by
  unfold State.coreOff; (repeat' split) <;> simp [*]
@[simp] theorem State.coreOff_poolWf (s : State) (hm : Memory.wf s.pool = true) :
    Memory.wf s.coreOff.pool = true := by
  unfold State.coreOff; (repeat' split) <;> simp [*]
@[simp] theorem State.coreOff_dmemWf (s : State) (hm : Memory.wf s.dmem = true) :
    Memory.wf s.coreOff.dmem = true := by
  unfold State.coreOff; (repeat' split) <;> simp [*]
@[simp] theorem State.watchdog_pending (s : State) :
    s.watchdog.pending = s.pending := by simp [State.watchdog]
@[simp] theorem State.watchdog_poolWf (s : State) (hm : Memory.wf s.pool = true) :
    Memory.wf s.watchdog.pool = true := by simp [State.watchdog, hm]
@[simp] theorem State.watchdog_dmemWf (s : State) (hm : Memory.wf s.dmem = true) :
    Memory.wf s.watchdog.dmem = true := by simp [State.watchdog, hm]
@[simp] theorem State.linkReset_pending (s : State) (p : Nat) (key : Nat) (uid : Nat) :
    (s.linkReset p key uid).pending = s.pending := by simp [State.linkReset]
@[simp] theorem State.linkReset_poolWf (s : State) (p : Nat) (key : Nat) (uid : Nat) (hm : Memory.wf s.pool = true) :
    Memory.wf (s.linkReset p key uid).pool = true := by simp [State.linkReset, hm]
@[simp] theorem State.linkReset_dmemWf (s : State) (p : Nat) (key : Nat) (uid : Nat) (hm : Memory.wf s.dmem = true) :
    Memory.wf (s.linkReset p key uid).dmem = true := by simp [State.linkReset, hm]
@[simp] theorem State.watchWake_pending (s : State) :
    s.watchWake.pending = s.pending := by simp [State.watchWake]
@[simp] theorem State.watchWake_poolWf (s : State) (hm : Memory.wf s.pool = true) :
    Memory.wf s.watchWake.pool = true := by simp [State.watchWake, hm]
@[simp] theorem State.watchWake_dmemWf (s : State) (hm : Memory.wf s.dmem = true) :
    Memory.wf s.watchWake.dmem = true := by simp [State.watchWake, hm]
@[simp] theorem State.effect_poolWf (s : State) (judged : Bool) (staged : Bool) (c : CmdRec) (hm : Memory.wf s.pool = true) :
    Memory.wf (s.effect judged staged c).1.pool = true := by simp [State.effect, hm]
@[simp] theorem State.effect_dmemWf (s : State) (judged : Bool) (staged : Bool) (c : CmdRec) (hm : Memory.wf s.dmem = true) :
    Memory.wf (s.effect judged staged c).1.dmem = true := by simp [State.effect, hm]
@[simp] theorem State.wouldBe_poolWf (s : State) (cs : List CmdRec) (hm : Memory.wf s.pool = true) :
    Memory.wf (s.wouldBe cs).pool = true := by
  unfold State.wouldBe
  exact foldl_poolWf _ (fun s a h => by dsimp only; split <;> simp [h]) _ _ hm
@[simp] theorem State.wouldBe_dmemWf (s : State) (cs : List CmdRec) (hm : Memory.wf s.dmem = true) :
    Memory.wf (s.wouldBe cs).dmem = true := by
  unfold State.wouldBe
  exact foldl_dmemWf _ (fun s a h => by dsimp only; split <;> simp [h]) _ _ hm
@[simp] theorem State.txnTake_poolWf (s : State) (t : Txn) (ph : TxnPhase) (p : Point) (deadline : Nat) (coord : Nat) (hm : Memory.wf s.pool = true) :
    Memory.wf (s.txnTake t ph p deadline coord).pool = true := by simp [State.txnTake, hm]
@[simp] theorem State.txnTake_dmemWf (s : State) (t : Txn) (ph : TxnPhase) (p : Point) (deadline : Nat) (coord : Nat) (hm : Memory.wf s.dmem = true) :
    Memory.wf (s.txnTake t ph p deadline coord).dmem = true := by simp [State.txnTake, hm]
@[simp] theorem State.applyRecords_poolWf (s : State) (a1 : List CmdRec) (a2 : Nat) (hm : Memory.wf s.pool = true) :
    Memory.wf (s.applyRecords a1 a2).1.pool = true := by
  fun_induction State.applyRecords <;> (repeat' split) <;> simp_all +zetaDelta
@[simp] theorem State.applyRecords_dmemWf (s : State) (a1 : List CmdRec) (a2 : Nat) (hm : Memory.wf s.dmem = true) :
    Memory.wf (s.applyRecords a1 a2).1.dmem = true := by
  fun_induction State.applyRecords <;> (repeat' split) <;> simp_all +zetaDelta
@[simp] theorem State.commitTick_poolWf (s : State) (id : Nat) (hm : Memory.wf s.pool = true) :
    Memory.wf (s.commitTick id).pool = true := by
  unfold State.commitTick
  split
  · exact hm
  · split
    · split <;> rename_i h <;> have k := congrArg Prod.fst h <;> simp at k <;> simp [← k, hm]
    · exact hm
@[simp] theorem State.commitTick_dmemWf (s : State) (id : Nat) (hm : Memory.wf s.dmem = true) :
    Memory.wf (s.commitTick id).dmem = true := by
  unfold State.commitTick
  split
  · exact hm
  · split
    · split <;> rename_i h <;> have k := congrArg Prod.fst h <;> simp at k <;> simp [← k, hm]
    · exact hm
@[simp] theorem State.txnRollbackCmd_poolWf (s : State) (n : Nat) (arg : Nat) (hm : Memory.wf s.pool = true) :
    Memory.wf (s.txnRollbackCmd n arg).1.pool = true := by
  unfold State.txnRollbackCmd; (repeat' split) <;> simp [*]
@[simp] theorem State.txnRollbackCmd_dmemWf (s : State) (n : Nat) (arg : Nat) (hm : Memory.wf s.dmem = true) :
    Memory.wf (s.txnRollbackCmd n arg).1.dmem = true := by
  unfold State.txnRollbackCmd; (repeat' split) <;> simp [*]
@[simp] theorem State.txnPrepare_poolWf (s : State) (t : Txn) (body : List Byte) (coord : Nat) (hm : Memory.wf s.pool = true) :
    Memory.wf (s.txnPrepare t body coord).1.pool = true := by
  unfold State.txnPrepare; dsimp only; (repeat' split) <;> simp [*]
@[simp] theorem State.txnPrepare_dmemWf (s : State) (t : Txn) (body : List Byte) (coord : Nat) (hm : Memory.wf s.dmem = true) :
    Memory.wf (s.txnPrepare t body coord).1.dmem = true := by
  unfold State.txnPrepare; dsimp only; (repeat' split) <;> simp [*]
@[simp] theorem State.txnCommit_poolWf (s : State) (t : Txn) (body : List Byte) (hm : Memory.wf s.pool = true) :
    Memory.wf (s.txnCommit t body).1.pool = true := by
  unfold State.txnCommit; dsimp only; (repeat' split) <;> simp [*]
@[simp] theorem State.txnCommit_dmemWf (s : State) (t : Txn) (body : List Byte) (hm : Memory.wf s.dmem = true) :
    Memory.wf (s.txnCommit t body).1.dmem = true := by
  unfold State.txnCommit; dsimp only; (repeat' split) <;> simp [*]
@[simp] theorem State.prepareRetry_poolWf (s : State) (id : Nat) (hm : Memory.wf s.pool = true) :
    Memory.wf (s.prepareRetry id).pool = true := by
  unfold State.prepareRetry
  (repeat' split) <;> (try simp [hm]; done) <;> rename_i h <;> have k := congrArg Prod.fst h <;> simp at k <;> simp [← k, hm]
@[simp] theorem State.prepareRetry_dmemWf (s : State) (id : Nat) (hm : Memory.wf s.dmem = true) :
    Memory.wf (s.prepareRetry id).dmem = true := by
  unfold State.prepareRetry
  (repeat' split) <;> (try simp [hm]; done) <;> rename_i h <;> have k := congrArg Prod.fst h <;> simp at k <;> simp [← k, hm]
@[simp] theorem State.replay_poolWf (s : State) (c : CmdRec) (hm : Memory.wf s.pool = true) :
    Memory.wf (s.replay c).1.pool = true := by simp [State.replay, hm]
@[simp] theorem State.replay_dmemWf (s : State) (c : CmdRec) (hm : Memory.wf s.dmem = true) :
    Memory.wf (s.replay c).1.dmem = true := by simp [State.replay, hm]
@[simp] theorem State.replayAll_poolWf (s : State) (a1 : List CmdRec) (a2 : Nat) (hm : Memory.wf s.pool = true) :
    Memory.wf (s.replayAll a1 a2).1.pool = true := by
  fun_induction State.replayAll <;> (repeat' split) <;> simp_all +zetaDelta
@[simp] theorem State.replayAll_dmemWf (s : State) (a1 : List CmdRec) (a2 : Nat) (hm : Memory.wf s.dmem = true) :
    Memory.wf (s.replayAll a1 a2).1.dmem = true := by
  fun_induction State.replayAll <;> (repeat' split) <;> simp_all +zetaDelta
@[simp] theorem State.recall_poolWf (s : State) (n : Nat) (hm : Memory.wf s.pool = true) :
    Memory.wf (s.recall n).1.pool = true := by
  unfold State.recall; dsimp only; (repeat' split) <;> simp [*]
@[simp] theorem State.recall_dmemWf (s : State) (n : Nat) (hm : Memory.wf s.dmem = true) :
    Memory.wf (s.recall n).1.dmem = true := by
  unfold State.recall; dsimp only; (repeat' split) <;> simp [*]
@[simp] theorem State.recallConfig_poolWf (s : State) (arg : Nat) (hm : Memory.wf s.pool = true) :
    Memory.wf (s.recallConfig arg).1.pool = true := by simp [State.recallConfig, hm]
@[simp] theorem State.recallConfig_dmemWf (s : State) (arg : Nat) (hm : Memory.wf s.dmem = true) :
    Memory.wf (s.recallConfig arg).1.dmem = true := by simp [State.recallConfig, hm]
@[simp] theorem State.becomeReady_poolWf (s : State) (hm : Memory.wf s.pool = true) :
    Memory.wf s.becomeReady.pool = true := by simp [State.becomeReady, hm]
@[simp] theorem State.becomeReady_dmemWf (s : State) (hm : Memory.wf s.dmem = true) :
    Memory.wf s.becomeReady.dmem = true := by simp [State.becomeReady, hm]
@[simp] theorem State.watchExit_pending (s : State) :
    s.watchExit.pending = s.pending := by simp [State.watchExit]
@[simp] theorem State.watchExit_poolWf (s : State) (hm : Memory.wf s.pool = true) :
    Memory.wf s.watchExit.pool = true := by simp [State.watchExit, hm]
@[simp] theorem State.watchExit_dmemWf (s : State) (hm : Memory.wf s.dmem = true) :
    Memory.wf s.watchExit.dmem = true := by simp [State.watchExit, hm]
@[simp] theorem State.runEffect_poolWf (s : State) (fl : Flight) (hm : Memory.wf s.pool = true) :
    Memory.wf (s.runEffect fl).pool = true := by simp [State.runEffect, hm]
@[simp] theorem State.runEffect_dmemWf (s : State) (fl : Flight) (hm : Memory.wf s.dmem = true) :
    Memory.wf (s.runEffect fl).dmem = true := by simp [State.runEffect, hm]
@[simp] theorem State.runCommit_poolWf (s0 : State) (fl : Flight) (hm : Memory.wf s0.pool = true) :
    Memory.wf (s0.runCommit fl).pool = true := by
  unfold State.runCommit
  dsimp only
  (repeat' split) <;> (try simp [hm]; done) <;> rename_i h <;> have k := congrArg Prod.fst h <;> simp at k <;> simp [← k, hm]
@[simp] theorem State.runCommit_dmemWf (s0 : State) (fl : Flight) (hm : Memory.wf s0.dmem = true) :
    Memory.wf (s0.runCommit fl).dmem = true := by
  unfold State.runCommit
  dsimp only
  (repeat' split) <;> (try simp [hm]; done) <;> rename_i h <;> have k := congrArg Prod.fst h <;> simp at k <;> simp [← k, hm]
@[simp] theorem State.runPrepare_poolWf (s : State) (fl : Flight) (hm : Memory.wf s.pool = true) :
    Memory.wf (s.runPrepare fl).pool = true := by
  unfold State.runPrepare
  dsimp only
  (repeat' split) <;> (try simp [hm]; done) <;> rename_i h <;> have k := congrArg Prod.fst h <;> simp at k <;> simp [← k, hm]
@[simp] theorem State.runPrepare_dmemWf (s : State) (fl : Flight) (hm : Memory.wf s.dmem = true) :
    Memory.wf (s.runPrepare fl).dmem = true := by
  unfold State.runPrepare
  dsimp only
  (repeat' split) <;> (try simp [hm]; done) <;> rename_i h <;> have k := congrArg Prod.fst h <;> simp at k <;> simp [← k, hm]
@[simp] theorem State.runReset_pending (s : State) (fl : Flight) :
    (s.runReset fl).pending = s.pending := by simp [State.runReset]
@[simp] theorem State.runReset_poolWf (s : State) (fl : Flight) (hm : Memory.wf s.pool = true) :
    Memory.wf (s.runReset fl).pool = true := by simp [State.runReset, hm]
@[simp] theorem State.runReset_dmemWf (s : State) (fl : Flight) (hm : Memory.wf s.dmem = true) :
    Memory.wf (s.runReset fl).dmem = true := by simp [State.runReset, hm]
@[simp] theorem State.runOp_pending (s : State) (fl : Flight) :
    (s.runOp fl).pending = s.pending := by simp [State.runOp]
@[simp] theorem State.runOp_poolWf (s : State) (fl : Flight) (hm : Memory.wf s.pool = true) :
    Memory.wf (s.runOp fl).pool = true := by simp [State.runOp, hm]
@[simp] theorem State.runOp_dmemWf (s : State) (fl : Flight) (hm : Memory.wf s.dmem = true) :
    Memory.wf (s.runOp fl).dmem = true := by simp [State.runOp, hm]
@[simp] theorem State.runRecord_pending (s : State) (fl : Flight) :
    (s.runRecord fl).pending = s.pending := by
  unfold State.runRecord; dsimp only; (repeat' split) <;> simp [*]
@[simp] theorem State.runRecord_poolWf (s : State) (fl : Flight) (hm : Memory.wf s.pool = true) :
    Memory.wf (s.runRecord fl).pool = true := by
  unfold State.runRecord; dsimp only; (repeat' split) <;> simp [*]
@[simp] theorem State.runRecord_dmemWf (s : State) (fl : Flight) (hm : Memory.wf s.dmem = true) :
    Memory.wf (s.runRecord fl).dmem = true := by
  unfold State.runRecord; dsimp only; (repeat' split) <;> simp [*]
@[simp] theorem State.startFlight_pending (s : State) (fl : Flight) :
    (s.startFlight fl).pending = s.pending := by
  unfold State.startFlight; dsimp only; (repeat' split) <;> simp [*]
@[simp] theorem State.startFlight_poolWf (s : State) (fl : Flight) (hm : Memory.wf s.pool = true) :
    Memory.wf (s.startFlight fl).pool = true := by
  unfold State.startFlight; dsimp only; (repeat' split) <;> simp [*]
@[simp] theorem State.startFlight_dmemWf (s : State) (fl : Flight) (hm : Memory.wf s.dmem = true) :
    Memory.wf (s.startFlight fl).dmem = true := by
  unfold State.startFlight; dsimp only; (repeat' split) <;> simp [*]
@[simp] theorem State.launch_pending (s : State) (n : Nat) (src : Nat) (c : CmdRec) :
    (s.launch n src c).pending = s.pending := by simp [State.launch]
@[simp] theorem State.launch_poolWf (s : State) (n : Nat) (src : Nat) (c : CmdRec) (hm : Memory.wf s.pool = true) :
    Memory.wf (s.launch n src c).pool = true := by simp [State.launch, hm]
@[simp] theorem State.launch_dmemWf (s : State) (n : Nat) (src : Nat) (c : CmdRec) (hm : Memory.wf s.dmem = true) :
    Memory.wf (s.launch n src c).dmem = true := by simp [State.launch, hm]
@[simp] theorem State.acceptRecord_pending (s0 : State) (n : Nat) (src : Nat) (c : CmdRec) :
    (s0.acceptRecord n src c).pending = s0.pending := by simp [State.acceptRecord]
@[simp] theorem State.acceptRecord_poolWf (s0 : State) (n : Nat) (src : Nat) (c : CmdRec) (hm : Memory.wf s0.pool = true) :
    Memory.wf (s0.acceptRecord n src c).pool = true := by simp [State.acceptRecord, hm]
@[simp] theorem State.acceptRecord_dmemWf (s0 : State) (n : Nat) (src : Nat) (c : CmdRec) (hm : Memory.wf s0.dmem = true) :
    Memory.wf (s0.acceptRecord n src c).dmem = true := by simp [State.acceptRecord, hm]
@[simp] theorem State.commandFrame_pending (s : State) (src : Nat) (n : Nat) (body : List Byte) :
    (s.commandFrame src n body).pending = s.pending := by simp [State.commandFrame]
@[simp] theorem State.commandFrame_poolWf (s : State) (src : Nat) (n : Nat) (body : List Byte) (hm : Memory.wf s.pool = true) :
    Memory.wf (s.commandFrame src n body).pool = true := by
  unfold State.commandFrame; (repeat' split) <;> (try simp [*]) <;> (repeat' split) <;> simp_all
@[simp] theorem State.commandFrame_dmemWf (s : State) (src : Nat) (n : Nat) (body : List Byte) (hm : Memory.wf s.dmem = true) :
    Memory.wf (s.commandFrame src n body).dmem = true := by
  unfold State.commandFrame; (repeat' split) <;> (try simp [*]) <;> (repeat' split) <;> simp_all
@[simp] theorem State.orderedStart_pending (s : State) (n : Nat) :
    (s.orderedStart n).pending = s.pending := by
  unfold State.orderedStart; (repeat' split) <;> simp [*]
@[simp] theorem State.orderedStart_poolWf (s : State) (n : Nat) (hm : Memory.wf s.pool = true) :
    Memory.wf (s.orderedStart n).pool = true := by
  unfold State.orderedStart; (repeat' split) <;> simp [*]
@[simp] theorem State.orderedStart_dmemWf (s : State) (n : Nat) (hm : Memory.wf s.dmem = true) :
    Memory.wf (s.orderedStart n).dmem = true := by
  unfold State.orderedStart; (repeat' split) <;> simp [*]
@[simp] theorem State.waitRow_dmemWf (s : State) (g : Nat) (hm : Memory.wf s.dmem = true) :
    Memory.wf (s.waitRow g).dmem = true := by
  unfold State.waitRow; (repeat' split) <;> simp [*]
@[simp] theorem State.shadowCmd_poolWf (s : State) (c : CmdRec) (hm : Memory.wf s.pool = true) :
    Memory.wf (s.shadowCmd c).pool = true := by simp [State.shadowCmd, hm]
@[simp] theorem State.shadowCmd_dmemWf (s : State) (c : CmdRec) (hm : Memory.wf s.dmem = true) :
    Memory.wf (s.shadowCmd c).dmem = true := by simp [State.shadowCmd, hm]
@[simp] theorem State.shadowThread_dmemWf (s : State) (g : Nat) (x : Thread) (signals : Nat) (words : List (Nat × BitVec 64)) (hm : Memory.wf s.dmem = true) :
    Memory.wf (s.shadowThread g x signals words).dmem = true := by
  unfold State.shadowThread; (repeat' split) <;> (try simp [*]) <;> (repeat' split) <;> simp_all
@[simp] theorem State.applyItem_poolWf (s : State) (a1 : MirrorItem) (hm : Memory.wf s.pool = true) :
    Memory.wf (s.applyItem a1).pool = true := by
  unfold State.applyItem; (repeat' split) <;> (try simp [*]) <;> (repeat' split) <;> simp_all
@[simp] theorem State.applyItem_dmemWf (s : State) (a1 : MirrorItem) (hm : Memory.wf s.dmem = true) :
    Memory.wf (s.applyItem a1).dmem = true := by
  unfold State.applyItem; (repeat' split) <;> (try simp [*]) <;> (repeat' split) <;> simp_all
@[simp] theorem State.itemIn_poolWf (s : State) (q : Nat) (i : MirrorItem) (hm : Memory.wf s.pool = true) :
    Memory.wf (s.itemIn q i).pool = true := by simp [State.itemIn, hm]
@[simp] theorem State.itemIn_dmemWf (s : State) (q : Nat) (i : MirrorItem) (hm : Memory.wf s.dmem = true) :
    Memory.wf (s.itemIn q i).dmem = true := by simp [State.itemIn, hm]
@[simp] theorem State.applyCopy_poolWf (s : State) (a1 : CopyPart) (hm : Memory.wf s.pool = true) :
    Memory.wf (s.applyCopy a1).pool = true := by
  unfold State.applyCopy; (repeat' split) <;> simp [*]
@[simp] theorem State.applyCopy_dmemWf (s : State) (a1 : CopyPart) (hm : Memory.wf s.dmem = true) :
    Memory.wf (s.applyCopy a1).dmem = true := by
  unfold State.applyCopy; (repeat' split) <;> (try simp [*]) <;> (repeat' split) <;> simp_all
@[simp] theorem State.copyIn_poolWf (s : State) (q : Nat) (p : CopyPart) (hm : Memory.wf s.pool = true) :
    Memory.wf (s.copyIn q p).pool = true := by simp [State.copyIn, hm]
@[simp] theorem State.copyIn_dmemWf (s : State) (q : Nat) (p : CopyPart) (hm : Memory.wf s.dmem = true) :
    Memory.wf (s.copyIn q p).dmem = true := by simp [State.copyIn, hm]
@[simp] theorem State.linkIn_pending (s : State) (f : FrameIn) (h : Header) :
    (s.linkIn f h).pending = s.pending := by
  rw [State.linkIn.eq_1]
  by_cases c : leAt h.body 0 1 = 0x10
  · rw [if_pos c]; simp 
  · rw [if_neg c]
    generalize f.spelled = x
    cases x with
    | nothing => rfl
    | item y => rfl
    | copy y => rfl
    | link y => cases y <;> simp 
@[simp] theorem State.linkIn_poolWf (s : State) (f : FrameIn) (h : Header) (hm : Memory.wf s.pool = true) :
    Memory.wf (s.linkIn f h).pool = true := by
  rw [State.linkIn.eq_1]
  by_cases c : leAt h.body 0 1 = 0x10
  · rw [if_pos c]; simp [hm]
  · rw [if_neg c]
    generalize f.spelled = x
    cases x with
    | nothing => exact hm
    | item y => exact hm
    | copy y => exact hm
    | link y => cases y <;> simp [hm]
@[simp] theorem State.linkIn_dmemWf (s : State) (f : FrameIn) (h : Header) (hm : Memory.wf s.dmem = true) :
    Memory.wf (s.linkIn f h).dmem = true := by
  rw [State.linkIn.eq_1]
  by_cases c : leAt h.body 0 1 = 0x10
  · rw [if_pos c]; simp [hm]
  · rw [if_neg c]
    generalize f.spelled = x
    cases x with
    | nothing => exact hm
    | item y => exact hm
    | copy y => exact hm
    | link y => cases y <;> simp [hm]
@[simp] theorem State.deliver_pending (s : State) (f : FrameIn) (h : Header) :
    (s.deliver f h).pending = s.pending := by
  unfold State.deliver; (repeat' split) <;> simp [*]
@[simp] theorem State.deliver_poolWf (s : State) (f : FrameIn) (h : Header) (hm : Memory.wf s.pool = true) :
    Memory.wf (s.deliver f h).pool = true := by
  unfold State.deliver; (repeat' split) <;> simp [*]
@[simp] theorem State.deliver_dmemWf (s : State) (f : FrameIn) (h : Header) (hm : Memory.wf s.dmem = true) :
    Memory.wf (s.deliver f h).dmem = true := by
  unfold State.deliver; (repeat' split) <;> simp [*]
@[simp] theorem State.accepted_pending (s0 : State) (f : FrameIn) (h : Header) :
    (s0.accepted f h).pending = s0.pending := by simp [State.accepted]
@[simp] theorem State.accepted_poolWf (s0 : State) (f : FrameIn) (h : Header) (hm : Memory.wf s0.pool = true) :
    Memory.wf (s0.accepted f h).pool = true := by simp [State.accepted, hm]
@[simp] theorem State.accepted_dmemWf (s0 : State) (f : FrameIn) (h : Header) (hm : Memory.wf s0.dmem = true) :
    Memory.wf (s0.accepted f h).dmem = true := by simp [State.accepted, hm]
@[simp] theorem State.mirrorIn_poolWf (s : State) (f : FrameIn) (h : Header) (hm : Memory.wf s.pool = true) :
    Memory.wf (s.mirrorIn f h).pool = true := by
  unfold State.mirrorIn; dsimp only; (repeat' split) <;> simp [*]
@[simp] theorem State.mirrorIn_dmemWf (s : State) (f : FrameIn) (h : Header) (hm : Memory.wf s.dmem = true) :
    Memory.wf (s.mirrorIn f h).dmem = true := by
  unfold State.mirrorIn; dsimp only; (repeat' split) <;> simp [*]
@[simp] theorem State.acceptedT_pending (s : State) (f : FrameIn) (h : Header) :
    (s.acceptedT f h).pending = s.pending := by
  unfold State.acceptedT; (repeat' split) <;> simp [*]
@[simp] theorem State.acceptedT_poolWf (s : State) (f : FrameIn) (h : Header) (hm : Memory.wf s.pool = true) :
    Memory.wf (s.acceptedT f h).pool = true := by
  unfold State.acceptedT; (repeat' split) <;> simp [*]
@[simp] theorem State.acceptedT_dmemWf (s : State) (f : FrameIn) (h : Header) (hm : Memory.wf s.dmem = true) :
    Memory.wf (s.acceptedT f h).dmem = true := by
  unfold State.acceptedT; (repeat' split) <;> simp [*]
@[simp] theorem State.frameIn_pending (s : State) (f : FrameIn) :
    (s.frameIn f).pending = s.pending := by
  unfold State.frameIn; dsimp only; (repeat' split) <;> simp [*]
@[simp] theorem State.frameIn_poolWf (s : State) (f : FrameIn) (hm : Memory.wf s.pool = true) :
    Memory.wf (s.frameIn f).pool = true := by
  unfold State.frameIn; dsimp only; (repeat' split) <;> simp [*]
@[simp] theorem State.frameIn_dmemWf (s : State) (f : FrameIn) (hm : Memory.wf s.dmem = true) :
    Memory.wf (s.frameIn f).dmem = true := by
  unfold State.frameIn; dsimp only; (repeat' split) <;> simp [*]
@[simp] theorem State.command_pending (s : State) (h : CmdHead) (opcode : Nat) (arg : BitVec 32) (body : List Byte) :
    (s.command h opcode arg body).pending = s.pending := by simp [State.command]
@[simp] theorem State.command_poolWf (s : State) (h : CmdHead) (opcode : Nat) (arg : BitVec 32) (body : List Byte) (hm : Memory.wf s.pool = true) :
    Memory.wf (s.command h opcode arg body).pool = true := by simp [State.command, hm]
@[simp] theorem State.command_dmemWf (s : State) (h : CmdHead) (opcode : Nat) (arg : BitVec 32) (body : List Byte) (hm : Memory.wf s.dmem = true) :
    Memory.wf (s.command h opcode arg body).dmem = true := by simp [State.command, hm]

/-! ## Blulet instructions -/

@[simp] theorem State.bluIssueNow_pending (s : State) (i : Issue) (legal : Bool) (act : BluAct)
    (h : ∀ t g u, act t g = .ok u → u.pending = t.pending) : (s.bluIssueNow i legal act).pending = s.pending := by
  unfold State.bluIssueNow
  dsimp only
  (repeat' split) <;> (try simp; done)
  rename_i k
  exact (h _ _ _ k).trans (by simp)

@[simp] theorem State.bluIssueNow_imem (s : State) (i : Issue) (legal : Bool) (act : BluAct)
    (h : ∀ t g u, act t g = .ok u → u.imem = t.imem) : (s.bluIssueNow i legal act).imem = s.imem := by
  unfold State.bluIssueNow
  dsimp only
  (repeat' split) <;> (try simp; done)
  rename_i k
  exact (h _ _ _ k).trans (by simp)

@[simp] theorem State.bluIssueNow_pool (s : State) (i : Issue) (legal : Bool) (act : BluAct)
    (h : ∀ t g u, act t g = .ok u → u.pool = t.pool) : (s.bluIssueNow i legal act).pool = s.pool := by
  unfold State.bluIssueNow
  dsimp only
  (repeat' split) <;> (try simp; done)
  rename_i k
  exact (h _ _ _ k).trans (by simp)

@[simp] theorem State.bluIssueNow_dmem (s : State) (i : Issue) (legal : Bool) (act : BluAct)
    (h : ∀ t g u, act t g = .ok u → u.dmem = t.dmem) : (s.bluIssueNow i legal act).dmem = s.dmem := by
  unfold State.bluIssueNow
  dsimp only
  (repeat' split) <;> (try simp; done)
  rename_i k
  exact (h _ _ _ k).trans (by simp)

@[simp] theorem State.bluIssueNow_dmemWf (s : State) (i : Issue) (legal : Bool) (act : BluAct)
    (h : ∀ t g u, act t g = .ok u → Memory.wf t.dmem = true → Memory.wf u.dmem = true) (hm : Memory.wf s.dmem = true) :
    Memory.wf (s.bluIssueNow i legal act).dmem = true := by
  unfold State.bluIssueNow
  dsimp only
  (repeat' split) <;> (try simp [hm]; done)
  rename_i k
  exact h _ _ _ k (by simp [hm])

@[simp] theorem State.bluIssue_pending (s : State) (i : Issue) (legal : Bool) (act : BluAct)
    (h : ∀ t g u, act t g = .ok u → u.pending = t.pending) : (s.bluIssue i legal act).pending = s.pending := by
  unfold State.bluIssue
  dsimp only
  split
  · simp [State.bluIssueNow_pending _ i legal act h]
  · simp

@[simp] theorem State.bluIssue_imem (s : State) (i : Issue) (legal : Bool) (act : BluAct)
    (h : ∀ t g u, act t g = .ok u → u.imem = t.imem) : (s.bluIssue i legal act).imem = s.imem := by
  unfold State.bluIssue
  dsimp only
  split
  · simp [State.bluIssueNow_imem _ i legal act h]
  · simp

@[simp] theorem State.bluIssue_pool (s : State) (i : Issue) (legal : Bool) (act : BluAct)
    (h : ∀ t g u, act t g = .ok u → u.pool = t.pool) : (s.bluIssue i legal act).pool = s.pool := by
  unfold State.bluIssue
  dsimp only
  split
  · simp [State.bluIssueNow_pool _ i legal act h]
  · simp

@[simp] theorem State.bluIssue_dmem (s : State) (i : Issue) (legal : Bool) (act : BluAct)
    (h : ∀ t g u, act t g = .ok u → u.dmem = t.dmem) : (s.bluIssue i legal act).dmem = s.dmem := by
  unfold State.bluIssue
  dsimp only
  split
  · simp [State.bluIssueNow_dmem _ i legal act h]
  · simp

@[simp] theorem State.bluIssue_dmemWf (s : State) (i : Issue) (legal : Bool) (act : BluAct)
    (h : ∀ t g u, act t g = .ok u → Memory.wf t.dmem = true → Memory.wf u.dmem = true) (hm : Memory.wf s.dmem = true) :
    Memory.wf (s.bluIssue i legal act).dmem = true := by
  unfold State.bluIssue
  dsimp only
  split
  · simp [State.bluIssueNow_dmemWf _ i legal act h, hm]
  · simp [hm]

/-! ## Canary instructions -/

@[simp] theorem State.canIssue_pending (s : State) (legal : Bool) (act : State → State) (h : ∀ t, (act t).pending = t.pending) :
    (s.canIssue legal act).pending = s.pending := by
  unfold State.canIssue
  (repeat' split) <;> simp [h]

@[simp] theorem State.canIssue_pool (s : State) (legal : Bool) (act : State → State) (h : ∀ t, (act t).pool = t.pool) :
    (s.canIssue legal act).pool = s.pool := by
  unfold State.canIssue
  (repeat' split) <;> simp [h]

@[simp] theorem State.canIssue_dmem (s : State) (legal : Bool) (act : State → State) (h : ∀ t, (act t).dmem = t.dmem) :
    (s.canIssue legal act).dmem = s.dmem := by
  unfold State.canIssue
  (repeat' split) <;> simp [h]

@[simp] theorem State.canIssue_imem (s : State) (legal : Bool) (act : State → State) (h : ∀ t, (act t).imem = t.imem) :
    (s.canIssue legal act).imem = s.imem := by
  unfold State.canIssue
  (repeat' split) <;> simp [h]

@[simp] theorem State.canWrites_keeps (s : State) (w : CanWord) (op : Nat) (f : State → Word) :
    (s.canWrites w op f).pool = s.pool ∧ (s.canWrites w op f).dmem = s.dmem ∧ (s.canWrites w op f).imem = s.imem ∧
      (s.canWrites w op f).pending = s.pending := by simp [State.canWrites]

@[simp] theorem State.canCompares_keeps (s : State) (w : CanWord) (op : Nat) (z n : State → Word → Word → Bool) :
    (s.canCompares w op z n).pool = s.pool ∧ (s.canCompares w op z n).dmem = s.dmem ∧
      (s.canCompares w op z n).imem = s.imem ∧ (s.canCompares w op z n).pending = s.pending := by simp [State.canCompares]

/-! ## Where no command waits -/

@[simp] theorem State.stray_keeps (s : State) (g : Nat) : (s.stray g).pool = s.pool ∧ (s.stray g).dmem = s.dmem := by
  refine ⟨?_, ?_⟩ <;> unfold State.stray
  · exact State.bluIssue_pool _ _ _ _ fun t g u h => by cases h; rfl
  · exact State.bluIssue_dmem _ _ _ _ fun t g u h => by cases h; rfl

@[simp] theorem State.idle_keeps (s : State) : s.idle.pool = s.pool ∧ s.idle.dmem = s.dmem := by
  unfold State.idle
  dsimp only
  refine ⟨?_, ?_⟩ <;> (repeat' split) <;> simp

end Sys2Proof.Machine
end

