-- ==== Sys2Proof/Laws/Regs.lean ====
section
/-! SUPPORT. Fields of words and stored registers: what a field and a register hold after one has been set. -/

namespace Sys2Proof.Machine

theorem testBit_mask (f : Fld) (h : f.lo + f.width ≤ 32) (i : Nat) :
    f.mask.toNat.testBit i = (decide (f.lo ≤ i) && decide (i < f.lo + f.width)) := by
  have hm : f.mask.toNat = (2 ^ f.width - 1) * 2 ^ f.lo := by
    unfold Fld.mask
    rw [BitVec.toNat_ofNat]
    apply Nat.mod_eq_of_lt
    calc (2 ^ f.width - 1) * 2 ^ f.lo < 2 ^ f.width * 2 ^ f.lo := by
          apply Nat.mul_lt_mul_of_pos_right
          · have := Nat.two_pow_pos f.width; omega
          · exact Nat.two_pow_pos _
      _ = 2 ^ (f.width + f.lo) := (Nat.pow_add 2 _ _).symm
      _ ≤ 2 ^ 32 := Nat.pow_le_pow_right (by decide) (by omega)
  rw [hm, Nat.testBit_mul_two_pow, Nat.testBit_two_pow_sub_one]
  by_cases h1 : f.lo ≤ i
  · have : (i - f.lo < f.width) = (i < f.lo + f.width) := by apply propext; omega
    simp [h1, this]
  · simp [h1]

theorem testBit_setF (w : Word) (f : Fld) (v i : Nat) (h : f.lo + f.width ≤ 32) :
    (w.setF f v).toNat.testBit i =
      if f.lo ≤ i ∧ i < f.lo + f.width then v.testBit (i - f.lo) else w.toNat.testBit i := by
  unfold BitVec.setF
  rw [BitVec.toNat_or, BitVec.toNat_and, Nat.testBit_or, Nat.testBit_and, BitVec.toNat_ofNat]
  have hn : (~~~ f.mask).toNat.testBit i = (decide (i < 32) && !f.mask.toNat.testBit i) := by
    rw [BitVec.testBit_toNat, BitVec.getLsbD_not, ← BitVec.testBit_toNat]
  rw [hn, testBit_mask f h, Nat.testBit_mod_two_pow, Nat.testBit_mul_two_pow, Nat.testBit_mod_two_pow]
  by_cases h1 : f.lo ≤ i
  · by_cases h2 : i < f.lo + f.width
    · have h3 : i < 32 := by omega
      have h4 : i - f.lo < f.width := by omega
      simp [h1, h2, h3, h4]
    · have h4 : ¬ i - f.lo < f.width := by omega
      by_cases h3 : i < 32
      · simp [h1, h2, h3, h4]
      · have : w.toNat.testBit i = false := by
          rw [BitVec.testBit_toNat]; exact BitVec.getLsbD_of_ge w i (by omega)
        simp [h1, h2, h3, this]
  · by_cases h3 : i < 32
    · simp [h1, h3]
    · have : w.toNat.testBit i = false := by
        rw [BitVec.testBit_toNat]; exact BitVec.getLsbD_of_ge w i (by omega)
      simp [h1, h3, this]

theorem testBit_getF (w : Word) (f : Fld) (i : Nat) :
    (w.getF f).testBit i = (decide (i < f.width) && w.toNat.testBit (i + f.lo)) := by
  unfold BitVec.getF
  rw [Nat.testBit_mod_two_pow, Nat.testBit_div_two_pow]

/-- A field that has been set. -/
theorem getF_setF (w : Word) (f : Fld) (v : Nat) (h : f.lo + f.width ≤ 32) : (w.setF f v).getF f = v % 2 ^ f.width := by
  apply Nat.eq_of_testBit_eq
  intro i
  rw [testBit_getF, testBit_setF w f v _ h, Nat.testBit_mod_two_pow]
  by_cases h1 : i < f.width
  · have h2 : f.lo ≤ i + f.lo := by omega
    have h3 : i + f.lo < f.lo + f.width := by omega
    simp [h1, h2, h3]
  · simp [h1]

/-- A field beside one that has been set. -/
theorem getF_setF_ne (w : Word) (f g : Fld) (v : Nat) (h : f.lo + f.width ≤ 32)
    (hd : f.lo + f.width ≤ g.lo ∨ g.lo + g.width ≤ f.lo) : (w.setF f v).getF g = w.getF g := by
  apply Nat.eq_of_testBit_eq
  intro i
  rw [testBit_getF, testBit_getF, testBit_setF w f v _ h]
  by_cases h1 : i < g.width
  · have h2 : ¬ (f.lo ≤ i + g.lo ∧ i + g.lo < f.lo + f.width) := by omega
    simp [h2]
  · simp [h1]

/-- A field of a word merged from two under a mask that covers the field. -/
theorem getF_merge_in (o v k : Word) (f : Fld) (h : f.lo + f.width ≤ 32) (hk : f.mask &&& k = f.mask) :
    ((o &&& ~~~ k) ||| (v &&& k)).getF f = v.getF f := by
  apply Nat.eq_of_testBit_eq
  intro i
  rw [testBit_getF, testBit_getF]
  by_cases h1 : i < f.width
  · have hm : f.mask.toNat.testBit (i + f.lo) = true := by rw [testBit_mask f h]; simp; omega
    have hk' : k.toNat.testBit (i + f.lo) = true := by
      rw [← hk, BitVec.toNat_and, Nat.testBit_and] at hm
      simp only [Bool.and_eq_true] at hm
      exact hm.2
    have e : ((o &&& ~~~ k) ||| (v &&& k)).toNat.testBit (i + f.lo) = v.toNat.testBit (i + f.lo) := by
      simp only [BitVec.testBit_toNat] at hk' ⊢
      simp [hk']
    rw [e]
  · simp [h1]

/-- One under a mask that leaves the field out. -/
theorem getF_merge_out (o v k : Word) (f : Fld) (h : f.lo + f.width ≤ 32) (hk : f.mask &&& k = 0) :
    ((o &&& ~~~ k) ||| (v &&& k)).getF f = o.getF f := by
  apply Nat.eq_of_testBit_eq
  intro i
  rw [testBit_getF, testBit_getF]
  by_cases h1 : i < f.width
  · have hm : f.mask.toNat.testBit (i + f.lo) = true := by rw [testBit_mask f h]; simp; omega
    have hk' : k.toNat.testBit (i + f.lo) = false := by
      have : (f.mask &&& k).toNat.testBit (i + f.lo) = false := by rw [hk]; simp
      rw [BitVec.toNat_and, Nat.testBit_and, hm] at this
      simpa using this
    have e : ((o &&& ~~~ k) ||| (v &&& k)).toNat.testBit (i + f.lo) = o.toNat.testBit (i + f.lo) := by
      simp only [BitVec.testBit_toNat] at hk' ⊢
      have hlt : i + f.lo < 32 := by omega
      rw [BitVec.getLsbD_or, BitVec.getLsbD_and, BitVec.getLsbD_and, BitVec.getLsbD_not, hk']
      simp [hlt]
    rw [e]
  · simp [h1]

/-- A merge changes nothing outside its mask. -/
theorem merge_outside (o v k : Word) : (o ^^^ ((o &&& ~~~ k) ||| (v &&& k))) &&& ~~~ k = 0 := by
  apply BitVec.eq_of_getLsbD_eq
  intro i hi
  simp only [BitVec.getLsbD_and, BitVec.getLsbD_xor, BitVec.getLsbD_or, BitVec.getLsbD_not, hi, decide_true, Bool.true_and]
  cases o.getLsbD i <;> cases v.getLsbD i <;> cases k.getLsbD i <;> simp

/-- Bits outside the mask of a merge do not change. -/
theorem merge_apart (o v k m : Word) (h : k &&& m = 0) : (o ^^^ ((o &&& ~~~ k) ||| (v &&& k))) &&& m = 0 := by
  apply BitVec.eq_of_getLsbD_eq
  intro i hi
  have q := congrArg (fun w : Word => w.getLsbD i) h
  simp only [BitVec.getLsbD_and] at q
  simp only [BitVec.getLsbD_and, BitVec.getLsbD_xor, BitVec.getLsbD_or, BitVec.getLsbD_not, hi, decide_true, Bool.true_and]
  cases ho : o.getLsbD i <;> cases hv : v.getLsbD i <;> cases hk : k.getLsbD i <;> cases hm : m.getLsbD i <;> simp_all

/-- A merge under no mask. -/
theorem merge_none (o v : Word) : (o &&& ~~~ (0 : Word)) ||| (v &&& 0) = o := by
  apply BitVec.eq_of_getLsbD_eq
  intro i hi
  simp only [BitVec.getLsbD_and, BitVec.getLsbD_or, BitVec.getLsbD_not, hi, decide_true, Bool.true_and]
  simp

theorem getF_lt (w : Word) (f : Fld) : w.getF f < 2 ^ f.width := Nat.mod_lt _ (Nat.two_pow_pos _)

/-! ## Stored registers -/

/-- What an address holds after a register has been set. -/
theorem State.rg_setRg (s : State) (a b : Nat) (w : Word) : (s.setRg a w).rg b = if b = a then w else s.rg b :=
  FMap.get_set resetAt s.regs a b w

@[simp] theorem State.rg_setRg_self (s : State) (a : Nat) (w : Word) : (s.setRg a w).rg a = w := by simp [State.rg_setRg]

theorem State.rg_setFld (s : State) (a b : Nat) (f : Fld) (v : Nat) :
    (s.setFld a f v).rg b = if b = a then (s.rg a).setF f v else s.rg b := State.rg_setRg s a b _

/-- A field of a register that has been set. -/
theorem State.fld_setFld (s : State) (a : Nat) (f : Fld) (v : Nat) (h : f.lo + f.width ≤ 32) :
    (s.setFld a f v).fld a f = v % 2 ^ f.width := by
  simp [State.fld, State.rg_setFld, getF_setF _ _ _ h]

/-- A field beside one that has been set. -/
theorem State.fld_setFld_ne (s : State) (a : Nat) (f g : Fld) (v : Nat) (h : f.lo + f.width ≤ 32)
    (hd : f.lo + f.width ≤ g.lo ∨ g.lo + g.width ≤ f.lo) : (s.setFld a f v).fld a g = s.fld a g := by
  simp [State.fld, State.rg_setFld, getF_setF_ne _ _ _ _ h hd]

/-- A field of another register than the one that has been set. -/
theorem State.fld_setFld_other (s : State) (a b : Nat) (f g : Fld) (v : Nat) (h : b ≠ a) :
    (s.setFld a f v).fld b g = s.fld b g := by
  simp [State.fld, State.rg_setFld, h]

theorem State.rg_hwSet (s : State) (a b : Nat) (f : Fld) (v p : Nat) :
    (s.hwSet a f v p).rg b = if b = a then (s.rg a).setF f v else s.rg b := State.rg_setRg _ a b _

theorem State.rg_count (s : State) (a b : Nat) (f : Fld) (k : Nat) :
    (s.count a f k).rg b = if b = a then (s.rg a).setF f (satTo (2 ^ f.width - 1) (s.fld a f + k)) else s.rg b :=
  State.rg_hwSet s a b f _ _

/-- A counter that has been raised. -/
theorem State.fld_count (s : State) (a : Nat) (f : Fld) (k : Nat) (h : f.lo + f.width ≤ 32) :
    (s.count a f k).fld a f = satTo (2 ^ f.width - 1) (s.fld a f + k) := by
  have hs : satTo (2 ^ f.width - 1) (s.fld a f + k) < 2 ^ f.width := by
    have := Nat.two_pow_pos f.width
    unfold satTo; split <;> omega
  simp only [State.fld, State.rg_count, if_true, getF_setF _ _ _ h] at hs ⊢
  exact Nat.mod_eq_of_lt hs

theorem State.rg_setFlag (s : State) (a b : Nat) (f : Fld) (v : Bool) :
    (s.setFlag a f v).rg b = if b = a then (s.rg a).setF f (b2n v) else s.rg b := State.rg_setRg s a b _

/-- A flag that has been set or cleared. -/
theorem State.flag_setFlag (s : State) (a : Nat) (f : Fld) (v : Bool) (h : f.lo + 1 ≤ 32) (h1 : f.width = 1) :
    (s.setFlag a f v).flag a f = v := by
  have := State.fld_setFld s a f (b2n v) (by omega)
  simp only [State.flag, State.setFlag, this, h1]
  cases v <;> simp [b2n]

/-- A flag is 1 or not, as its field is 1 or 0. -/
theorem State.fld_of_flag (s : State) (a : Nat) (f : Fld) (h1 : f.width = 1) (h : s.flag a f = true) : s.fld a f = 1 := by
  have hl : s.fld a f < 2 ^ f.width := getF_lt _ f
  unfold State.flag at h
  rw [h1] at hl
  simp at h
  omega

theorem State.fld_of_not_flag (s : State) (a : Nat) (f : Fld) (h : s.flag a f = false) : s.fld a f = 0 := by
  unfold State.flag at h
  simpa using h

/-- A flag that the hardware has set. -/
theorem State.flag_latch (s : State) (a : Nat) (f : Fld) (h : f.lo + 1 ≤ 32) (h1 : f.width = 1) :
    (s.latch a f).flag a f = true := by
  have : (s.latch a f).rg a = (s.rg a).setF f 1 := by simp [State.latch, State.rg_hwSet]
  simp [State.flag, State.fld, this, getF_setF _ _ _ (by omega : f.lo + f.width ≤ 32), h1]

end Sys2Proof.Machine
end

