-- ==== Sys2Proof/Laws/State.lean ====
section
/-! SUPPORT. What the updates of the state leave: one lemma for each field and each update. -/

namespace Sys2Proof.Machine

@[simp] theorem State.setRg_pending (s : State) (a : Nat) (w : Word) : (s.setRg a w).pending = s.pending := rfl
@[simp] theorem State.setRg_time (s : State) (a : Nat) (w : Word) : (s.setRg a w).time = s.time := rfl
@[simp] theorem State.setRg_free (s : State) (a : Nat) (w : Word) : (s.setRg a w).free = s.free := rfl
@[simp] theorem State.setRg_completion (s : State) (a : Nat) (w : Word) : (s.setRg a w).completion = s.completion := rfl
@[simp] theorem State.setRg_liveWas (s : State) (a : Nat) (w : Word) : (s.setRg a w).liveWas = s.liveWas := rfl
@[simp] theorem State.setRg_shutdown (s : State) (a : Nat) (w : Word) : (s.setRg a w).shutdown = s.shutdown := rfl
@[simp] theorem State.setRg_leaseOk (s : State) (a : Nat) (w : Word) : (s.setRg a w).leaseOk = s.leaseOk := rfl
@[simp] theorem State.setRg_shafts (s : State) (a : Nat) (w : Word) : (s.setRg a w).shafts = s.shafts := rfl
@[simp] theorem State.setRg_ports (s : State) (a : Nat) (w : Word) : (s.setRg a w).ports = s.ports := rfl
@[simp] theorem State.setRg_cells (s : State) (a : Nat) (w : Word) : (s.setRg a w).cells = s.cells := rfl
@[simp] theorem State.setRg_events (s : State) (a : Nat) (w : Word) : (s.setRg a w).events = s.events := rfl
@[simp] theorem State.setRg_almQueue (s : State) (a : Nat) (w : Word) : (s.setRg a w).almQueue = s.almQueue := rfl
@[simp] theorem State.setRg_almWork (s : State) (a : Nat) (w : Word) : (s.setRg a w).almWork = s.almWork := rfl
@[simp] theorem State.setRg_leadEl (s : State) (a : Nat) (w : Word) : (s.setRg a w).leadEl = s.leadEl := rfl
@[simp] theorem State.setRg_leadPo (s : State) (a : Nat) (w : Word) : (s.setRg a w).leadPo = s.leadPo := rfl
@[simp] theorem State.setRg_outs (s : State) (a : Nat) (w : Word) : (s.setRg a w).outs = s.outs := rfl
@[simp] theorem State.setRg_lines (s : State) (a : Nat) (w : Word) : (s.setRg a w).lines = s.lines := rfl
@[simp] theorem State.setRg_lineAt (s : State) (a : Nat) (w : Word) : (s.setRg a w).lineAt = s.lineAt := rfl
@[simp] theorem State.setRg_actOld (s : State) (a : Nat) (w : Word) : (s.setRg a w).actOld = s.actOld := rfl
@[simp] theorem State.setRg_chains (s : State) (a : Nat) (w : Word) : (s.setRg a w).chains = s.chains := rfl
@[simp] theorem State.setRg_pwms (s : State) (a : Nat) (w : Word) : (s.setRg a w).pwms = s.pwms := rfl
@[simp] theorem State.setRg_trips (s : State) (a : Nat) (w : Word) : (s.setRg a w).trips = s.trips := rfl
@[simp] theorem State.setRg_adcs (s : State) (a : Nat) (w : Word) : (s.setRg a w).adcs = s.adcs := rfl
@[simp] theorem State.setRg_fresh (s : State) (a : Nat) (w : Word) : (s.setRg a w).fresh = s.fresh := rfl
@[simp] theorem State.setRg_ntf (s : State) (a : Nat) (w : Word) : (s.setRg a w).ntf = s.ntf := rfl
@[simp] theorem State.setRg_ntfTgt (s : State) (a : Nat) (w : Word) : (s.setRg a w).ntfTgt = s.ntfTgt := rfl
@[simp] theorem State.setRg_faults (s : State) (a : Nat) (w : Word) : (s.setRg a w).faults = s.faults := rfl
@[simp] theorem State.setRg_staging (s : State) (a : Nat) (w : Word) : (s.setRg a w).staging = s.staging := rfl
@[simp] theorem State.setRg_flash (s : State) (a : Nat) (w : Word) : (s.setRg a w).flash = s.flash := rfl
@[simp] theorem State.setRg_flogSeq (s : State) (a : Nat) (w : Word) : (s.setRg a w).flogSeq = s.flogSeq := rfl
@[simp] theorem State.setRg_logAt (s : State) (a : Nat) (w : Word) : (s.setRg a w).logAt = s.logAt := rfl
@[simp] theorem State.setRg_selAt (s : State) (a : Nat) (w : Word) : (s.setRg a w).selAt = s.selAt := rfl
@[simp] theorem State.setRg_safeAt (s : State) (a : Nat) (w : Word) : (s.setRg a w).safeAt = s.safeAt := rfl
@[simp] theorem State.setRg_permitted (s : State) (a : Nat) (w : Word) : (s.setRg a w).permitted = s.permitted := rfl
@[simp] theorem State.setRg_tallies (s : State) (a : Nat) (w : Word) : (s.setRg a w).tallies = s.tallies := rfl
@[simp] theorem State.setRg_tallyMram (s : State) (a : Nat) (w : Word) : (s.setRg a w).tallyMram = s.tallyMram := rfl
@[simp] theorem State.setRg_cal (s : State) (a : Nat) (w : Word) : (s.setRg a w).cal = s.cal := rfl
@[simp] theorem State.setRg_calErr (s : State) (a : Nat) (w : Word) : (s.setRg a w).calErr = s.calErr := rfl
@[simp] theorem State.setRg_calSet (s : State) (a : Nat) (w : Word) : (s.setRg a w).calSet = s.calSet := rfl
@[simp] theorem State.setRg_leapNow (s : State) (a : Nat) (w : Word) : (s.setRg a w).leapNow = s.leapNow := rfl
@[simp] theorem State.setRg_refLoaded (s : State) (a : Nat) (w : Word) : (s.setRg a w).refLoaded = s.refLoaded := rfl
@[simp] theorem State.setRg_lastFlush (s : State) (a : Nat) (w : Word) : (s.setRg a w).lastFlush = s.lastFlush := rfl
@[simp] theorem State.setRg_tmap (s : State) (a : Nat) (w : Word) : (s.setRg a w).tmap = s.tmap := rfl
@[simp] theorem State.setRg_gaps (s : State) (a : Nat) (w : Word) : (s.setRg a w).gaps = s.gaps := rfl
@[simp] theorem State.setRg_gapSeq (s : State) (a : Nat) (w : Word) : (s.setRg a w).gapSeq = s.gapSeq := rfl
@[simp] theorem State.setRg_slots (s : State) (a : Nat) (w : Word) : (s.setRg a w).slots = s.slots := rfl
@[simp] theorem State.setRg_sessions (s : State) (a : Nat) (w : Word) : (s.setRg a w).sessions = s.sessions := rfl
@[simp] theorem State.setRg_flights (s : State) (a : Nat) (w : Word) : (s.setRg a w).flights = s.flights := rfl
@[simp] theorem State.setRg_nextFlight (s : State) (a : Nat) (w : Word) : (s.setRg a w).nextFlight = s.nextFlight := rfl
@[simp] theorem State.setRg_txns (s : State) (a : Nat) (w : Word) : (s.setRg a w).txns = s.txns := rfl
@[simp] theorem State.setRg_nextTxn (s : State) (a : Nat) (w : Word) : (s.setRg a w).nextTxn = s.nextTxn := rfl
@[simp] theorem State.setRg_txnEnded (s : State) (a : Nat) (w : Word) : (s.setRg a w).txnEnded = s.txnEnded := rfl
@[simp] theorem State.setRg_levelTo (s : State) (a : Nat) (w : Word) : (s.setRg a w).levelTo = s.levelTo := rfl
@[simp] theorem State.setRg_periodNo (s : State) (a : Nat) (w : Word) : (s.setRg a w).periodNo = s.periodNo := rfl
@[simp] theorem State.setRg_boosts (s : State) (a : Nat) (w : Word) : (s.setRg a w).boosts = s.boosts := rfl
@[simp] theorem State.setRg_cooled (s : State) (a : Nat) (w : Word) : (s.setRg a w).cooled = s.cooled := rfl
@[simp] theorem State.setRg_wire (s : State) (a : Nat) (w : Word) : (s.setRg a w).wire = s.wire := rfl
@[simp] theorem State.setRg_fab (s : State) (a : Nat) (w : Word) : (s.setRg a w).fab = s.fab := rfl
@[simp] theorem State.setRg_twin (s : State) (a : Nat) (w : Word) : (s.setRg a w).twin = s.twin := rfl
@[simp] theorem State.setRg_lockRec (s : State) (a : Nat) (w : Word) : (s.setRg a w).lockRec = s.lockRec := rfl
@[simp] theorem State.setRg_power (s : State) (a : Nat) (w : Word) : (s.setRg a w).power = s.power := rfl
@[simp] theorem State.setRg_holdB (s : State) (a : Nat) (w : Word) : (s.setRg a w).holdB = s.holdB := rfl
@[simp] theorem State.setRg_holdC (s : State) (a : Nat) (w : Word) : (s.setRg a w).holdC = s.holdC := rfl
@[simp] theorem State.setRg_threads (s : State) (a : Nat) (w : Word) : (s.setRg a w).threads = s.threads := rfl
@[simp] theorem State.setRg_imem (s : State) (a : Nat) (w : Word) : (s.setRg a w).imem = s.imem := rfl
@[simp] theorem State.setRg_dmem (s : State) (a : Nat) (w : Word) : (s.setRg a w).dmem = s.dmem := rfl
@[simp] theorem State.setRg_dmemDirty (s : State) (a : Nat) (w : Word) : (s.setRg a w).dmemDirty = s.dmemDirty := rfl
@[simp] theorem State.setRg_memErrs (s : State) (a : Nat) (w : Word) : (s.setRg a w).memErrs = s.memErrs := rfl
@[simp] theorem State.setRg_bluCycles (s : State) (a : Nat) (w : Word) : (s.setRg a w).bluCycles = s.bluCycles := rfl
@[simp] theorem State.setRg_bluSeq (s : State) (a : Nat) (w : Word) : (s.setRg a w).bluSeq = s.bluSeq := rfl
@[simp] theorem State.setRg_poQueue (s : State) (a : Nat) (w : Word) : (s.setRg a w).poQueue = s.poQueue := rfl
@[simp] theorem State.setRg_phiTrail (s : State) (a : Nat) (w : Word) : (s.setRg a w).phiTrail = s.phiTrail := rfl
@[simp] theorem State.setRg_canary (s : State) (a : Nat) (w : Word) : (s.setRg a w).canary = s.canary := rfl
@[simp] theorem State.setRg_aon (s : State) (a : Nat) (w : Word) : (s.setRg a w).aon = s.aon := rfl
@[simp] theorem State.setRg_wakeAt (s : State) (a : Nat) (w : Word) : (s.setRg a w).wakeAt = s.wakeAt := rfl
@[simp] theorem State.setRg_watchNext (s : State) (a : Nat) (w : Word) : (s.setRg a w).watchNext = s.watchNext := rfl
@[simp] theorem State.setRg_saved (s : State) (a : Nat) (w : Word) : (s.setRg a w).saved = s.saved := rfl
@[simp] theorem State.setRg_products (s : State) (a : Nat) (w : Word) : (s.setRg a w).products = s.products := rfl
@[simp] theorem State.setRg_prodWas (s : State) (a : Nat) (w : Word) : (s.setRg a w).prodWas = s.prodWas := rfl
@[simp] theorem State.setRg_arrivals (s : State) (a : Nat) (w : Word) : (s.setRg a w).arrivals = s.arrivals := rfl
@[simp] theorem State.setRg_prodFresh (s : State) (a : Nat) (w : Word) : (s.setRg a w).prodFresh = s.prodFresh := rfl
@[simp] theorem State.setRg_prodFree (s : State) (a : Nat) (w : Word) : (s.setRg a w).prodFree = s.prodFree := rfl
@[simp] theorem State.setRg_pidSeq (s : State) (a : Nat) (w : Word) : (s.setRg a w).pidSeq = s.pidSeq := rfl
@[simp] theorem State.setRg_ephLanes (s : State) (a : Nat) (w : Word) : (s.setRg a w).ephLanes = s.ephLanes := rfl
@[simp] theorem State.setRg_stnTick (s : State) (a : Nat) (w : Word) : (s.setRg a w).stnTick = s.stnTick := rfl
@[simp] theorem State.setRg_storeFullAt (s : State) (a : Nat) (w : Word) : (s.setRg a w).storeFullAt = s.storeFullAt := rfl
@[simp] theorem State.setRg_handoffs (s : State) (a : Nat) (w : Word) : (s.setRg a w).handoffs = s.handoffs := rfl
@[simp] theorem State.setRg_pidsSeen (s : State) (a : Nat) (w : Word) : (s.setRg a w).pidsSeen = s.pidsSeen := rfl
@[simp] theorem State.setRg_jobs (s : State) (a : Nat) (w : Word) : (s.setRg a w).jobs = s.jobs := rfl
@[simp] theorem State.setRg_nextJob (s : State) (a : Nat) (w : Word) : (s.setRg a w).nextJob = s.nextJob := rfl
@[simp] theorem State.setRg_serialsIn (s : State) (a : Nat) (w : Word) : (s.setRg a w).serialsIn = s.serialsIn := rfl
@[simp] theorem State.setRg_reservationAcks (s : State) (a : Nat) (w : Word) : (s.setRg a w).reservationAcks = s.reservationAcks := rfl
@[simp] theorem State.setRg_gens (s : State) (a : Nat) (w : Word) : (s.setRg a w).gens = s.gens := rfl
@[simp] theorem State.setRg_heldCal (s : State) (a : Nat) (w : Word) : (s.setRg a w).heldCal = s.heldCal := rfl
@[simp] theorem State.setRg_noDateOn (s : State) (a : Nat) (w : Word) : (s.setRg a w).noDateOn = s.noDateOn := rfl
@[simp] theorem State.setRg_raster (s : State) (a : Nat) (w : Word) : (s.setRg a w).raster = s.raster := rfl
@[simp] theorem State.setRg_pool (s : State) (a : Nat) (w : Word) : (s.setRg a w).pool = s.pool := rfl
@[simp] theorem State.setRg_poison (s : State) (a : Nat) (w : Word) : (s.setRg a w).poison = s.poison := rfl
@[simp] theorem State.setRg_extents (s : State) (a : Nat) (w : Word) : (s.setRg a w).extents = s.extents := rfl
@[simp] theorem State.setRg_dmas (s : State) (a : Nat) (w : Word) : (s.setRg a w).dmas = s.dmas := rfl
@[simp] theorem State.setRg_scrubPos (s : State) (a : Nat) (w : Word) : (s.setRg a w).scrubPos = s.scrubPos := rfl
@[simp] theorem State.setRg_boot (s : State) (a : Nat) (w : Word) : (s.setRg a w).boot = s.boot := rfl

@[simp] theorem State.setShaft_pending (s : State) (n : Nat) (x : Shaft) : (s.setShaft n x).pending = s.pending := rfl
@[simp] theorem State.setShaft_time (s : State) (n : Nat) (x : Shaft) : (s.setShaft n x).time = s.time := rfl
@[simp] theorem State.setShaft_regs (s : State) (n : Nat) (x : Shaft) : (s.setShaft n x).regs = s.regs := rfl
@[simp] theorem State.setShaft_free (s : State) (n : Nat) (x : Shaft) : (s.setShaft n x).free = s.free := rfl
@[simp] theorem State.setShaft_completion (s : State) (n : Nat) (x : Shaft) : (s.setShaft n x).completion = s.completion := rfl
@[simp] theorem State.setShaft_liveWas (s : State) (n : Nat) (x : Shaft) : (s.setShaft n x).liveWas = s.liveWas := rfl
@[simp] theorem State.setShaft_shutdown (s : State) (n : Nat) (x : Shaft) : (s.setShaft n x).shutdown = s.shutdown := rfl
@[simp] theorem State.setShaft_leaseOk (s : State) (n : Nat) (x : Shaft) : (s.setShaft n x).leaseOk = s.leaseOk := rfl
@[simp] theorem State.setShaft_ports (s : State) (n : Nat) (x : Shaft) : (s.setShaft n x).ports = s.ports := rfl
@[simp] theorem State.setShaft_cells (s : State) (n : Nat) (x : Shaft) : (s.setShaft n x).cells = s.cells := rfl
@[simp] theorem State.setShaft_events (s : State) (n : Nat) (x : Shaft) : (s.setShaft n x).events = s.events := rfl
@[simp] theorem State.setShaft_almQueue (s : State) (n : Nat) (x : Shaft) : (s.setShaft n x).almQueue = s.almQueue := rfl
@[simp] theorem State.setShaft_almWork (s : State) (n : Nat) (x : Shaft) : (s.setShaft n x).almWork = s.almWork := rfl
@[simp] theorem State.setShaft_leadEl (s : State) (n : Nat) (x : Shaft) : (s.setShaft n x).leadEl = s.leadEl := rfl
@[simp] theorem State.setShaft_leadPo (s : State) (n : Nat) (x : Shaft) : (s.setShaft n x).leadPo = s.leadPo := rfl
@[simp] theorem State.setShaft_outs (s : State) (n : Nat) (x : Shaft) : (s.setShaft n x).outs = s.outs := rfl
@[simp] theorem State.setShaft_lines (s : State) (n : Nat) (x : Shaft) : (s.setShaft n x).lines = s.lines := rfl
@[simp] theorem State.setShaft_lineAt (s : State) (n : Nat) (x : Shaft) : (s.setShaft n x).lineAt = s.lineAt := rfl
@[simp] theorem State.setShaft_actOld (s : State) (n : Nat) (x : Shaft) : (s.setShaft n x).actOld = s.actOld := rfl
@[simp] theorem State.setShaft_chains (s : State) (n : Nat) (x : Shaft) : (s.setShaft n x).chains = s.chains := rfl
@[simp] theorem State.setShaft_pwms (s : State) (n : Nat) (x : Shaft) : (s.setShaft n x).pwms = s.pwms := rfl
@[simp] theorem State.setShaft_trips (s : State) (n : Nat) (x : Shaft) : (s.setShaft n x).trips = s.trips := rfl
@[simp] theorem State.setShaft_adcs (s : State) (n : Nat) (x : Shaft) : (s.setShaft n x).adcs = s.adcs := rfl
@[simp] theorem State.setShaft_fresh (s : State) (n : Nat) (x : Shaft) : (s.setShaft n x).fresh = s.fresh := rfl
@[simp] theorem State.setShaft_ntf (s : State) (n : Nat) (x : Shaft) : (s.setShaft n x).ntf = s.ntf := rfl
@[simp] theorem State.setShaft_ntfTgt (s : State) (n : Nat) (x : Shaft) : (s.setShaft n x).ntfTgt = s.ntfTgt := rfl
@[simp] theorem State.setShaft_faults (s : State) (n : Nat) (x : Shaft) : (s.setShaft n x).faults = s.faults := rfl
@[simp] theorem State.setShaft_staging (s : State) (n : Nat) (x : Shaft) : (s.setShaft n x).staging = s.staging := rfl
@[simp] theorem State.setShaft_flash (s : State) (n : Nat) (x : Shaft) : (s.setShaft n x).flash = s.flash := rfl
@[simp] theorem State.setShaft_flogSeq (s : State) (n : Nat) (x : Shaft) : (s.setShaft n x).flogSeq = s.flogSeq := rfl
@[simp] theorem State.setShaft_logAt (s : State) (n : Nat) (x : Shaft) : (s.setShaft n x).logAt = s.logAt := rfl
@[simp] theorem State.setShaft_selAt (s : State) (n : Nat) (x : Shaft) : (s.setShaft n x).selAt = s.selAt := rfl
@[simp] theorem State.setShaft_safeAt (s : State) (n : Nat) (x : Shaft) : (s.setShaft n x).safeAt = s.safeAt := rfl
@[simp] theorem State.setShaft_permitted (s : State) (n : Nat) (x : Shaft) : (s.setShaft n x).permitted = s.permitted := rfl
@[simp] theorem State.setShaft_tallies (s : State) (n : Nat) (x : Shaft) : (s.setShaft n x).tallies = s.tallies := rfl
@[simp] theorem State.setShaft_tallyMram (s : State) (n : Nat) (x : Shaft) : (s.setShaft n x).tallyMram = s.tallyMram := rfl
@[simp] theorem State.setShaft_cal (s : State) (n : Nat) (x : Shaft) : (s.setShaft n x).cal = s.cal := rfl
@[simp] theorem State.setShaft_calErr (s : State) (n : Nat) (x : Shaft) : (s.setShaft n x).calErr = s.calErr := rfl
@[simp] theorem State.setShaft_calSet (s : State) (n : Nat) (x : Shaft) : (s.setShaft n x).calSet = s.calSet := rfl
@[simp] theorem State.setShaft_leapNow (s : State) (n : Nat) (x : Shaft) : (s.setShaft n x).leapNow = s.leapNow := rfl
@[simp] theorem State.setShaft_refLoaded (s : State) (n : Nat) (x : Shaft) : (s.setShaft n x).refLoaded = s.refLoaded := rfl
@[simp] theorem State.setShaft_lastFlush (s : State) (n : Nat) (x : Shaft) : (s.setShaft n x).lastFlush = s.lastFlush := rfl
@[simp] theorem State.setShaft_tmap (s : State) (n : Nat) (x : Shaft) : (s.setShaft n x).tmap = s.tmap := rfl
@[simp] theorem State.setShaft_gaps (s : State) (n : Nat) (x : Shaft) : (s.setShaft n x).gaps = s.gaps := rfl
@[simp] theorem State.setShaft_gapSeq (s : State) (n : Nat) (x : Shaft) : (s.setShaft n x).gapSeq = s.gapSeq := rfl
@[simp] theorem State.setShaft_slots (s : State) (n : Nat) (x : Shaft) : (s.setShaft n x).slots = s.slots := rfl
@[simp] theorem State.setShaft_sessions (s : State) (n : Nat) (x : Shaft) : (s.setShaft n x).sessions = s.sessions := rfl
@[simp] theorem State.setShaft_flights (s : State) (n : Nat) (x : Shaft) : (s.setShaft n x).flights = s.flights := rfl
@[simp] theorem State.setShaft_nextFlight (s : State) (n : Nat) (x : Shaft) : (s.setShaft n x).nextFlight = s.nextFlight := rfl
@[simp] theorem State.setShaft_txns (s : State) (n : Nat) (x : Shaft) : (s.setShaft n x).txns = s.txns := rfl
@[simp] theorem State.setShaft_nextTxn (s : State) (n : Nat) (x : Shaft) : (s.setShaft n x).nextTxn = s.nextTxn := rfl
@[simp] theorem State.setShaft_txnEnded (s : State) (n : Nat) (x : Shaft) : (s.setShaft n x).txnEnded = s.txnEnded := rfl
@[simp] theorem State.setShaft_levelTo (s : State) (n : Nat) (x : Shaft) : (s.setShaft n x).levelTo = s.levelTo := rfl
@[simp] theorem State.setShaft_periodNo (s : State) (n : Nat) (x : Shaft) : (s.setShaft n x).periodNo = s.periodNo := rfl
@[simp] theorem State.setShaft_boosts (s : State) (n : Nat) (x : Shaft) : (s.setShaft n x).boosts = s.boosts := rfl
@[simp] theorem State.setShaft_cooled (s : State) (n : Nat) (x : Shaft) : (s.setShaft n x).cooled = s.cooled := rfl
@[simp] theorem State.setShaft_wire (s : State) (n : Nat) (x : Shaft) : (s.setShaft n x).wire = s.wire := rfl
@[simp] theorem State.setShaft_fab (s : State) (n : Nat) (x : Shaft) : (s.setShaft n x).fab = s.fab := rfl
@[simp] theorem State.setShaft_twin (s : State) (n : Nat) (x : Shaft) : (s.setShaft n x).twin = s.twin := rfl
@[simp] theorem State.setShaft_lockRec (s : State) (n : Nat) (x : Shaft) : (s.setShaft n x).lockRec = s.lockRec := rfl
@[simp] theorem State.setShaft_power (s : State) (n : Nat) (x : Shaft) : (s.setShaft n x).power = s.power := rfl
@[simp] theorem State.setShaft_holdB (s : State) (n : Nat) (x : Shaft) : (s.setShaft n x).holdB = s.holdB := rfl
@[simp] theorem State.setShaft_holdC (s : State) (n : Nat) (x : Shaft) : (s.setShaft n x).holdC = s.holdC := rfl
@[simp] theorem State.setShaft_threads (s : State) (n : Nat) (x : Shaft) : (s.setShaft n x).threads = s.threads := rfl
@[simp] theorem State.setShaft_imem (s : State) (n : Nat) (x : Shaft) : (s.setShaft n x).imem = s.imem := rfl
@[simp] theorem State.setShaft_dmem (s : State) (n : Nat) (x : Shaft) : (s.setShaft n x).dmem = s.dmem := rfl
@[simp] theorem State.setShaft_dmemDirty (s : State) (n : Nat) (x : Shaft) : (s.setShaft n x).dmemDirty = s.dmemDirty := rfl
@[simp] theorem State.setShaft_memErrs (s : State) (n : Nat) (x : Shaft) : (s.setShaft n x).memErrs = s.memErrs := rfl
@[simp] theorem State.setShaft_bluCycles (s : State) (n : Nat) (x : Shaft) : (s.setShaft n x).bluCycles = s.bluCycles := rfl
@[simp] theorem State.setShaft_bluSeq (s : State) (n : Nat) (x : Shaft) : (s.setShaft n x).bluSeq = s.bluSeq := rfl
@[simp] theorem State.setShaft_poQueue (s : State) (n : Nat) (x : Shaft) : (s.setShaft n x).poQueue = s.poQueue := rfl
@[simp] theorem State.setShaft_phiTrail (s : State) (n : Nat) (x : Shaft) : (s.setShaft n x).phiTrail = s.phiTrail := rfl
@[simp] theorem State.setShaft_canary (s : State) (n : Nat) (x : Shaft) : (s.setShaft n x).canary = s.canary := rfl
@[simp] theorem State.setShaft_aon (s : State) (n : Nat) (x : Shaft) : (s.setShaft n x).aon = s.aon := rfl
@[simp] theorem State.setShaft_wakeAt (s : State) (n : Nat) (x : Shaft) : (s.setShaft n x).wakeAt = s.wakeAt := rfl
@[simp] theorem State.setShaft_watchNext (s : State) (n : Nat) (x : Shaft) : (s.setShaft n x).watchNext = s.watchNext := rfl
@[simp] theorem State.setShaft_saved (s : State) (n : Nat) (x : Shaft) : (s.setShaft n x).saved = s.saved := rfl
@[simp] theorem State.setShaft_products (s : State) (n : Nat) (x : Shaft) : (s.setShaft n x).products = s.products := rfl
@[simp] theorem State.setShaft_prodWas (s : State) (n : Nat) (x : Shaft) : (s.setShaft n x).prodWas = s.prodWas := rfl
@[simp] theorem State.setShaft_arrivals (s : State) (n : Nat) (x : Shaft) : (s.setShaft n x).arrivals = s.arrivals := rfl
@[simp] theorem State.setShaft_prodFresh (s : State) (n : Nat) (x : Shaft) : (s.setShaft n x).prodFresh = s.prodFresh := rfl
@[simp] theorem State.setShaft_prodFree (s : State) (n : Nat) (x : Shaft) : (s.setShaft n x).prodFree = s.prodFree := rfl
@[simp] theorem State.setShaft_pidSeq (s : State) (n : Nat) (x : Shaft) : (s.setShaft n x).pidSeq = s.pidSeq := rfl
@[simp] theorem State.setShaft_ephLanes (s : State) (n : Nat) (x : Shaft) : (s.setShaft n x).ephLanes = s.ephLanes := rfl
@[simp] theorem State.setShaft_stnTick (s : State) (n : Nat) (x : Shaft) : (s.setShaft n x).stnTick = s.stnTick := rfl
@[simp] theorem State.setShaft_storeFullAt (s : State) (n : Nat) (x : Shaft) : (s.setShaft n x).storeFullAt = s.storeFullAt := rfl
@[simp] theorem State.setShaft_handoffs (s : State) (n : Nat) (x : Shaft) : (s.setShaft n x).handoffs = s.handoffs := rfl
@[simp] theorem State.setShaft_pidsSeen (s : State) (n : Nat) (x : Shaft) : (s.setShaft n x).pidsSeen = s.pidsSeen := rfl
@[simp] theorem State.setShaft_jobs (s : State) (n : Nat) (x : Shaft) : (s.setShaft n x).jobs = s.jobs := rfl
@[simp] theorem State.setShaft_nextJob (s : State) (n : Nat) (x : Shaft) : (s.setShaft n x).nextJob = s.nextJob := rfl
@[simp] theorem State.setShaft_serialsIn (s : State) (n : Nat) (x : Shaft) : (s.setShaft n x).serialsIn = s.serialsIn := rfl
@[simp] theorem State.setShaft_reservationAcks (s : State) (n : Nat) (x : Shaft) : (s.setShaft n x).reservationAcks = s.reservationAcks := rfl
@[simp] theorem State.setShaft_gens (s : State) (n : Nat) (x : Shaft) : (s.setShaft n x).gens = s.gens := rfl
@[simp] theorem State.setShaft_heldCal (s : State) (n : Nat) (x : Shaft) : (s.setShaft n x).heldCal = s.heldCal := rfl
@[simp] theorem State.setShaft_noDateOn (s : State) (n : Nat) (x : Shaft) : (s.setShaft n x).noDateOn = s.noDateOn := rfl
@[simp] theorem State.setShaft_raster (s : State) (n : Nat) (x : Shaft) : (s.setShaft n x).raster = s.raster := rfl
@[simp] theorem State.setShaft_pool (s : State) (n : Nat) (x : Shaft) : (s.setShaft n x).pool = s.pool := rfl
@[simp] theorem State.setShaft_poison (s : State) (n : Nat) (x : Shaft) : (s.setShaft n x).poison = s.poison := rfl
@[simp] theorem State.setShaft_extents (s : State) (n : Nat) (x : Shaft) : (s.setShaft n x).extents = s.extents := rfl
@[simp] theorem State.setShaft_dmas (s : State) (n : Nat) (x : Shaft) : (s.setShaft n x).dmas = s.dmas := rfl
@[simp] theorem State.setShaft_scrubPos (s : State) (n : Nat) (x : Shaft) : (s.setShaft n x).scrubPos = s.scrubPos := rfl
@[simp] theorem State.setShaft_boot (s : State) (n : Nat) (x : Shaft) : (s.setShaft n x).boot = s.boot := rfl

@[simp] theorem State.setPort_pending (s : State) (n : Nat) (x : Port) : (s.setPort n x).pending = s.pending := rfl
@[simp] theorem State.setPort_time (s : State) (n : Nat) (x : Port) : (s.setPort n x).time = s.time := rfl
@[simp] theorem State.setPort_regs (s : State) (n : Nat) (x : Port) : (s.setPort n x).regs = s.regs := rfl
@[simp] theorem State.setPort_free (s : State) (n : Nat) (x : Port) : (s.setPort n x).free = s.free := rfl
@[simp] theorem State.setPort_completion (s : State) (n : Nat) (x : Port) : (s.setPort n x).completion = s.completion := rfl
@[simp] theorem State.setPort_liveWas (s : State) (n : Nat) (x : Port) : (s.setPort n x).liveWas = s.liveWas := rfl
@[simp] theorem State.setPort_shutdown (s : State) (n : Nat) (x : Port) : (s.setPort n x).shutdown = s.shutdown := rfl
@[simp] theorem State.setPort_leaseOk (s : State) (n : Nat) (x : Port) : (s.setPort n x).leaseOk = s.leaseOk := rfl
@[simp] theorem State.setPort_shafts (s : State) (n : Nat) (x : Port) : (s.setPort n x).shafts = s.shafts := rfl
@[simp] theorem State.setPort_cells (s : State) (n : Nat) (x : Port) : (s.setPort n x).cells = s.cells := rfl
@[simp] theorem State.setPort_events (s : State) (n : Nat) (x : Port) : (s.setPort n x).events = s.events := rfl
@[simp] theorem State.setPort_almQueue (s : State) (n : Nat) (x : Port) : (s.setPort n x).almQueue = s.almQueue := rfl
@[simp] theorem State.setPort_almWork (s : State) (n : Nat) (x : Port) : (s.setPort n x).almWork = s.almWork := rfl
@[simp] theorem State.setPort_leadEl (s : State) (n : Nat) (x : Port) : (s.setPort n x).leadEl = s.leadEl := rfl
@[simp] theorem State.setPort_leadPo (s : State) (n : Nat) (x : Port) : (s.setPort n x).leadPo = s.leadPo := rfl
@[simp] theorem State.setPort_outs (s : State) (n : Nat) (x : Port) : (s.setPort n x).outs = s.outs := rfl
@[simp] theorem State.setPort_lines (s : State) (n : Nat) (x : Port) : (s.setPort n x).lines = s.lines := rfl
@[simp] theorem State.setPort_lineAt (s : State) (n : Nat) (x : Port) : (s.setPort n x).lineAt = s.lineAt := rfl
@[simp] theorem State.setPort_actOld (s : State) (n : Nat) (x : Port) : (s.setPort n x).actOld = s.actOld := rfl
@[simp] theorem State.setPort_chains (s : State) (n : Nat) (x : Port) : (s.setPort n x).chains = s.chains := rfl
@[simp] theorem State.setPort_pwms (s : State) (n : Nat) (x : Port) : (s.setPort n x).pwms = s.pwms := rfl
@[simp] theorem State.setPort_trips (s : State) (n : Nat) (x : Port) : (s.setPort n x).trips = s.trips := rfl
@[simp] theorem State.setPort_adcs (s : State) (n : Nat) (x : Port) : (s.setPort n x).adcs = s.adcs := rfl
@[simp] theorem State.setPort_fresh (s : State) (n : Nat) (x : Port) : (s.setPort n x).fresh = s.fresh := rfl
@[simp] theorem State.setPort_ntf (s : State) (n : Nat) (x : Port) : (s.setPort n x).ntf = s.ntf := rfl
@[simp] theorem State.setPort_ntfTgt (s : State) (n : Nat) (x : Port) : (s.setPort n x).ntfTgt = s.ntfTgt := rfl
@[simp] theorem State.setPort_faults (s : State) (n : Nat) (x : Port) : (s.setPort n x).faults = s.faults := rfl
@[simp] theorem State.setPort_staging (s : State) (n : Nat) (x : Port) : (s.setPort n x).staging = s.staging := rfl
@[simp] theorem State.setPort_flash (s : State) (n : Nat) (x : Port) : (s.setPort n x).flash = s.flash := rfl
@[simp] theorem State.setPort_flogSeq (s : State) (n : Nat) (x : Port) : (s.setPort n x).flogSeq = s.flogSeq := rfl
@[simp] theorem State.setPort_logAt (s : State) (n : Nat) (x : Port) : (s.setPort n x).logAt = s.logAt := rfl
@[simp] theorem State.setPort_selAt (s : State) (n : Nat) (x : Port) : (s.setPort n x).selAt = s.selAt := rfl
@[simp] theorem State.setPort_safeAt (s : State) (n : Nat) (x : Port) : (s.setPort n x).safeAt = s.safeAt := rfl
@[simp] theorem State.setPort_permitted (s : State) (n : Nat) (x : Port) : (s.setPort n x).permitted = s.permitted := rfl
@[simp] theorem State.setPort_tallies (s : State) (n : Nat) (x : Port) : (s.setPort n x).tallies = s.tallies := rfl
@[simp] theorem State.setPort_tallyMram (s : State) (n : Nat) (x : Port) : (s.setPort n x).tallyMram = s.tallyMram := rfl
@[simp] theorem State.setPort_cal (s : State) (n : Nat) (x : Port) : (s.setPort n x).cal = s.cal := rfl
@[simp] theorem State.setPort_calErr (s : State) (n : Nat) (x : Port) : (s.setPort n x).calErr = s.calErr := rfl
@[simp] theorem State.setPort_calSet (s : State) (n : Nat) (x : Port) : (s.setPort n x).calSet = s.calSet := rfl
@[simp] theorem State.setPort_leapNow (s : State) (n : Nat) (x : Port) : (s.setPort n x).leapNow = s.leapNow := rfl
@[simp] theorem State.setPort_refLoaded (s : State) (n : Nat) (x : Port) : (s.setPort n x).refLoaded = s.refLoaded := rfl
@[simp] theorem State.setPort_lastFlush (s : State) (n : Nat) (x : Port) : (s.setPort n x).lastFlush = s.lastFlush := rfl
@[simp] theorem State.setPort_tmap (s : State) (n : Nat) (x : Port) : (s.setPort n x).tmap = s.tmap := rfl
@[simp] theorem State.setPort_gaps (s : State) (n : Nat) (x : Port) : (s.setPort n x).gaps = s.gaps := rfl
@[simp] theorem State.setPort_gapSeq (s : State) (n : Nat) (x : Port) : (s.setPort n x).gapSeq = s.gapSeq := rfl
@[simp] theorem State.setPort_slots (s : State) (n : Nat) (x : Port) : (s.setPort n x).slots = s.slots := rfl
@[simp] theorem State.setPort_sessions (s : State) (n : Nat) (x : Port) : (s.setPort n x).sessions = s.sessions := rfl
@[simp] theorem State.setPort_flights (s : State) (n : Nat) (x : Port) : (s.setPort n x).flights = s.flights := rfl
@[simp] theorem State.setPort_nextFlight (s : State) (n : Nat) (x : Port) : (s.setPort n x).nextFlight = s.nextFlight := rfl
@[simp] theorem State.setPort_txns (s : State) (n : Nat) (x : Port) : (s.setPort n x).txns = s.txns := rfl
@[simp] theorem State.setPort_nextTxn (s : State) (n : Nat) (x : Port) : (s.setPort n x).nextTxn = s.nextTxn := rfl
@[simp] theorem State.setPort_txnEnded (s : State) (n : Nat) (x : Port) : (s.setPort n x).txnEnded = s.txnEnded := rfl
@[simp] theorem State.setPort_levelTo (s : State) (n : Nat) (x : Port) : (s.setPort n x).levelTo = s.levelTo := rfl
@[simp] theorem State.setPort_periodNo (s : State) (n : Nat) (x : Port) : (s.setPort n x).periodNo = s.periodNo := rfl
@[simp] theorem State.setPort_boosts (s : State) (n : Nat) (x : Port) : (s.setPort n x).boosts = s.boosts := rfl
@[simp] theorem State.setPort_cooled (s : State) (n : Nat) (x : Port) : (s.setPort n x).cooled = s.cooled := rfl
@[simp] theorem State.setPort_wire (s : State) (n : Nat) (x : Port) : (s.setPort n x).wire = s.wire := rfl
@[simp] theorem State.setPort_fab (s : State) (n : Nat) (x : Port) : (s.setPort n x).fab = s.fab := rfl
@[simp] theorem State.setPort_twin (s : State) (n : Nat) (x : Port) : (s.setPort n x).twin = s.twin := rfl
@[simp] theorem State.setPort_lockRec (s : State) (n : Nat) (x : Port) : (s.setPort n x).lockRec = s.lockRec := rfl
@[simp] theorem State.setPort_power (s : State) (n : Nat) (x : Port) : (s.setPort n x).power = s.power := rfl
@[simp] theorem State.setPort_holdB (s : State) (n : Nat) (x : Port) : (s.setPort n x).holdB = s.holdB := rfl
@[simp] theorem State.setPort_holdC (s : State) (n : Nat) (x : Port) : (s.setPort n x).holdC = s.holdC := rfl
@[simp] theorem State.setPort_threads (s : State) (n : Nat) (x : Port) : (s.setPort n x).threads = s.threads := rfl
@[simp] theorem State.setPort_imem (s : State) (n : Nat) (x : Port) : (s.setPort n x).imem = s.imem := rfl
@[simp] theorem State.setPort_dmem (s : State) (n : Nat) (x : Port) : (s.setPort n x).dmem = s.dmem := rfl
@[simp] theorem State.setPort_dmemDirty (s : State) (n : Nat) (x : Port) : (s.setPort n x).dmemDirty = s.dmemDirty := rfl
@[simp] theorem State.setPort_memErrs (s : State) (n : Nat) (x : Port) : (s.setPort n x).memErrs = s.memErrs := rfl
@[simp] theorem State.setPort_bluCycles (s : State) (n : Nat) (x : Port) : (s.setPort n x).bluCycles = s.bluCycles := rfl
@[simp] theorem State.setPort_bluSeq (s : State) (n : Nat) (x : Port) : (s.setPort n x).bluSeq = s.bluSeq := rfl
@[simp] theorem State.setPort_poQueue (s : State) (n : Nat) (x : Port) : (s.setPort n x).poQueue = s.poQueue := rfl
@[simp] theorem State.setPort_phiTrail (s : State) (n : Nat) (x : Port) : (s.setPort n x).phiTrail = s.phiTrail := rfl
@[simp] theorem State.setPort_canary (s : State) (n : Nat) (x : Port) : (s.setPort n x).canary = s.canary := rfl
@[simp] theorem State.setPort_aon (s : State) (n : Nat) (x : Port) : (s.setPort n x).aon = s.aon := rfl
@[simp] theorem State.setPort_wakeAt (s : State) (n : Nat) (x : Port) : (s.setPort n x).wakeAt = s.wakeAt := rfl
@[simp] theorem State.setPort_watchNext (s : State) (n : Nat) (x : Port) : (s.setPort n x).watchNext = s.watchNext := rfl
@[simp] theorem State.setPort_saved (s : State) (n : Nat) (x : Port) : (s.setPort n x).saved = s.saved := rfl
@[simp] theorem State.setPort_products (s : State) (n : Nat) (x : Port) : (s.setPort n x).products = s.products := rfl
@[simp] theorem State.setPort_prodWas (s : State) (n : Nat) (x : Port) : (s.setPort n x).prodWas = s.prodWas := rfl
@[simp] theorem State.setPort_arrivals (s : State) (n : Nat) (x : Port) : (s.setPort n x).arrivals = s.arrivals := rfl
@[simp] theorem State.setPort_prodFresh (s : State) (n : Nat) (x : Port) : (s.setPort n x).prodFresh = s.prodFresh := rfl
@[simp] theorem State.setPort_prodFree (s : State) (n : Nat) (x : Port) : (s.setPort n x).prodFree = s.prodFree := rfl
@[simp] theorem State.setPort_pidSeq (s : State) (n : Nat) (x : Port) : (s.setPort n x).pidSeq = s.pidSeq := rfl
@[simp] theorem State.setPort_ephLanes (s : State) (n : Nat) (x : Port) : (s.setPort n x).ephLanes = s.ephLanes := rfl
@[simp] theorem State.setPort_stnTick (s : State) (n : Nat) (x : Port) : (s.setPort n x).stnTick = s.stnTick := rfl
@[simp] theorem State.setPort_storeFullAt (s : State) (n : Nat) (x : Port) : (s.setPort n x).storeFullAt = s.storeFullAt := rfl
@[simp] theorem State.setPort_handoffs (s : State) (n : Nat) (x : Port) : (s.setPort n x).handoffs = s.handoffs := rfl
@[simp] theorem State.setPort_pidsSeen (s : State) (n : Nat) (x : Port) : (s.setPort n x).pidsSeen = s.pidsSeen := rfl
@[simp] theorem State.setPort_jobs (s : State) (n : Nat) (x : Port) : (s.setPort n x).jobs = s.jobs := rfl
@[simp] theorem State.setPort_nextJob (s : State) (n : Nat) (x : Port) : (s.setPort n x).nextJob = s.nextJob := rfl
@[simp] theorem State.setPort_serialsIn (s : State) (n : Nat) (x : Port) : (s.setPort n x).serialsIn = s.serialsIn := rfl
@[simp] theorem State.setPort_reservationAcks (s : State) (n : Nat) (x : Port) : (s.setPort n x).reservationAcks = s.reservationAcks := rfl
@[simp] theorem State.setPort_gens (s : State) (n : Nat) (x : Port) : (s.setPort n x).gens = s.gens := rfl
@[simp] theorem State.setPort_heldCal (s : State) (n : Nat) (x : Port) : (s.setPort n x).heldCal = s.heldCal := rfl
@[simp] theorem State.setPort_noDateOn (s : State) (n : Nat) (x : Port) : (s.setPort n x).noDateOn = s.noDateOn := rfl
@[simp] theorem State.setPort_raster (s : State) (n : Nat) (x : Port) : (s.setPort n x).raster = s.raster := rfl
@[simp] theorem State.setPort_pool (s : State) (n : Nat) (x : Port) : (s.setPort n x).pool = s.pool := rfl
@[simp] theorem State.setPort_poison (s : State) (n : Nat) (x : Port) : (s.setPort n x).poison = s.poison := rfl
@[simp] theorem State.setPort_extents (s : State) (n : Nat) (x : Port) : (s.setPort n x).extents = s.extents := rfl
@[simp] theorem State.setPort_dmas (s : State) (n : Nat) (x : Port) : (s.setPort n x).dmas = s.dmas := rfl
@[simp] theorem State.setPort_scrubPos (s : State) (n : Nat) (x : Port) : (s.setPort n x).scrubPos = s.scrubPos := rfl
@[simp] theorem State.setPort_boot (s : State) (n : Nat) (x : Port) : (s.setPort n x).boot = s.boot := rfl

@[simp] theorem State.setCell_pending (s : State) (n : Nat) (x : Cell) : (s.setCell n x).pending = s.pending := rfl
@[simp] theorem State.setCell_time (s : State) (n : Nat) (x : Cell) : (s.setCell n x).time = s.time := rfl
@[simp] theorem State.setCell_regs (s : State) (n : Nat) (x : Cell) : (s.setCell n x).regs = s.regs := rfl
@[simp] theorem State.setCell_free (s : State) (n : Nat) (x : Cell) : (s.setCell n x).free = s.free := rfl
@[simp] theorem State.setCell_completion (s : State) (n : Nat) (x : Cell) : (s.setCell n x).completion = s.completion := rfl
@[simp] theorem State.setCell_liveWas (s : State) (n : Nat) (x : Cell) : (s.setCell n x).liveWas = s.liveWas := rfl
@[simp] theorem State.setCell_shutdown (s : State) (n : Nat) (x : Cell) : (s.setCell n x).shutdown = s.shutdown := rfl
@[simp] theorem State.setCell_leaseOk (s : State) (n : Nat) (x : Cell) : (s.setCell n x).leaseOk = s.leaseOk := rfl
@[simp] theorem State.setCell_shafts (s : State) (n : Nat) (x : Cell) : (s.setCell n x).shafts = s.shafts := rfl
@[simp] theorem State.setCell_ports (s : State) (n : Nat) (x : Cell) : (s.setCell n x).ports = s.ports := rfl
@[simp] theorem State.setCell_events (s : State) (n : Nat) (x : Cell) : (s.setCell n x).events = s.events := rfl
@[simp] theorem State.setCell_almQueue (s : State) (n : Nat) (x : Cell) : (s.setCell n x).almQueue = s.almQueue := rfl
@[simp] theorem State.setCell_almWork (s : State) (n : Nat) (x : Cell) : (s.setCell n x).almWork = s.almWork := rfl
@[simp] theorem State.setCell_leadEl (s : State) (n : Nat) (x : Cell) : (s.setCell n x).leadEl = s.leadEl := rfl
@[simp] theorem State.setCell_leadPo (s : State) (n : Nat) (x : Cell) : (s.setCell n x).leadPo = s.leadPo := rfl
@[simp] theorem State.setCell_outs (s : State) (n : Nat) (x : Cell) : (s.setCell n x).outs = s.outs := rfl
@[simp] theorem State.setCell_lines (s : State) (n : Nat) (x : Cell) : (s.setCell n x).lines = s.lines := rfl
@[simp] theorem State.setCell_lineAt (s : State) (n : Nat) (x : Cell) : (s.setCell n x).lineAt = s.lineAt := rfl
@[simp] theorem State.setCell_actOld (s : State) (n : Nat) (x : Cell) : (s.setCell n x).actOld = s.actOld := rfl
@[simp] theorem State.setCell_chains (s : State) (n : Nat) (x : Cell) : (s.setCell n x).chains = s.chains := rfl
@[simp] theorem State.setCell_pwms (s : State) (n : Nat) (x : Cell) : (s.setCell n x).pwms = s.pwms := rfl
@[simp] theorem State.setCell_trips (s : State) (n : Nat) (x : Cell) : (s.setCell n x).trips = s.trips := rfl
@[simp] theorem State.setCell_adcs (s : State) (n : Nat) (x : Cell) : (s.setCell n x).adcs = s.adcs := rfl
@[simp] theorem State.setCell_fresh (s : State) (n : Nat) (x : Cell) : (s.setCell n x).fresh = s.fresh := rfl
@[simp] theorem State.setCell_ntf (s : State) (n : Nat) (x : Cell) : (s.setCell n x).ntf = s.ntf := rfl
@[simp] theorem State.setCell_ntfTgt (s : State) (n : Nat) (x : Cell) : (s.setCell n x).ntfTgt = s.ntfTgt := rfl
@[simp] theorem State.setCell_faults (s : State) (n : Nat) (x : Cell) : (s.setCell n x).faults = s.faults := rfl
@[simp] theorem State.setCell_staging (s : State) (n : Nat) (x : Cell) : (s.setCell n x).staging = s.staging := rfl
@[simp] theorem State.setCell_flash (s : State) (n : Nat) (x : Cell) : (s.setCell n x).flash = s.flash := rfl
@[simp] theorem State.setCell_flogSeq (s : State) (n : Nat) (x : Cell) : (s.setCell n x).flogSeq = s.flogSeq := rfl
@[simp] theorem State.setCell_logAt (s : State) (n : Nat) (x : Cell) : (s.setCell n x).logAt = s.logAt := rfl
@[simp] theorem State.setCell_selAt (s : State) (n : Nat) (x : Cell) : (s.setCell n x).selAt = s.selAt := rfl
@[simp] theorem State.setCell_safeAt (s : State) (n : Nat) (x : Cell) : (s.setCell n x).safeAt = s.safeAt := rfl
@[simp] theorem State.setCell_permitted (s : State) (n : Nat) (x : Cell) : (s.setCell n x).permitted = s.permitted := rfl
@[simp] theorem State.setCell_tallies (s : State) (n : Nat) (x : Cell) : (s.setCell n x).tallies = s.tallies := rfl
@[simp] theorem State.setCell_tallyMram (s : State) (n : Nat) (x : Cell) : (s.setCell n x).tallyMram = s.tallyMram := rfl
@[simp] theorem State.setCell_cal (s : State) (n : Nat) (x : Cell) : (s.setCell n x).cal = s.cal := rfl
@[simp] theorem State.setCell_calErr (s : State) (n : Nat) (x : Cell) : (s.setCell n x).calErr = s.calErr := rfl
@[simp] theorem State.setCell_calSet (s : State) (n : Nat) (x : Cell) : (s.setCell n x).calSet = s.calSet := rfl
@[simp] theorem State.setCell_leapNow (s : State) (n : Nat) (x : Cell) : (s.setCell n x).leapNow = s.leapNow := rfl
@[simp] theorem State.setCell_refLoaded (s : State) (n : Nat) (x : Cell) : (s.setCell n x).refLoaded = s.refLoaded := rfl
@[simp] theorem State.setCell_lastFlush (s : State) (n : Nat) (x : Cell) : (s.setCell n x).lastFlush = s.lastFlush := rfl
@[simp] theorem State.setCell_tmap (s : State) (n : Nat) (x : Cell) : (s.setCell n x).tmap = s.tmap := rfl
@[simp] theorem State.setCell_gaps (s : State) (n : Nat) (x : Cell) : (s.setCell n x).gaps = s.gaps := rfl
@[simp] theorem State.setCell_gapSeq (s : State) (n : Nat) (x : Cell) : (s.setCell n x).gapSeq = s.gapSeq := rfl
@[simp] theorem State.setCell_slots (s : State) (n : Nat) (x : Cell) : (s.setCell n x).slots = s.slots := rfl
@[simp] theorem State.setCell_sessions (s : State) (n : Nat) (x : Cell) : (s.setCell n x).sessions = s.sessions := rfl
@[simp] theorem State.setCell_flights (s : State) (n : Nat) (x : Cell) : (s.setCell n x).flights = s.flights := rfl
@[simp] theorem State.setCell_nextFlight (s : State) (n : Nat) (x : Cell) : (s.setCell n x).nextFlight = s.nextFlight := rfl
@[simp] theorem State.setCell_txns (s : State) (n : Nat) (x : Cell) : (s.setCell n x).txns = s.txns := rfl
@[simp] theorem State.setCell_nextTxn (s : State) (n : Nat) (x : Cell) : (s.setCell n x).nextTxn = s.nextTxn := rfl
@[simp] theorem State.setCell_txnEnded (s : State) (n : Nat) (x : Cell) : (s.setCell n x).txnEnded = s.txnEnded := rfl
@[simp] theorem State.setCell_levelTo (s : State) (n : Nat) (x : Cell) : (s.setCell n x).levelTo = s.levelTo := rfl
@[simp] theorem State.setCell_periodNo (s : State) (n : Nat) (x : Cell) : (s.setCell n x).periodNo = s.periodNo := rfl
@[simp] theorem State.setCell_boosts (s : State) (n : Nat) (x : Cell) : (s.setCell n x).boosts = s.boosts := rfl
@[simp] theorem State.setCell_cooled (s : State) (n : Nat) (x : Cell) : (s.setCell n x).cooled = s.cooled := rfl
@[simp] theorem State.setCell_wire (s : State) (n : Nat) (x : Cell) : (s.setCell n x).wire = s.wire := rfl
@[simp] theorem State.setCell_fab (s : State) (n : Nat) (x : Cell) : (s.setCell n x).fab = s.fab := rfl
@[simp] theorem State.setCell_twin (s : State) (n : Nat) (x : Cell) : (s.setCell n x).twin = s.twin := rfl
@[simp] theorem State.setCell_lockRec (s : State) (n : Nat) (x : Cell) : (s.setCell n x).lockRec = s.lockRec := rfl
@[simp] theorem State.setCell_power (s : State) (n : Nat) (x : Cell) : (s.setCell n x).power = s.power := rfl
@[simp] theorem State.setCell_holdB (s : State) (n : Nat) (x : Cell) : (s.setCell n x).holdB = s.holdB := rfl
@[simp] theorem State.setCell_holdC (s : State) (n : Nat) (x : Cell) : (s.setCell n x).holdC = s.holdC := rfl
@[simp] theorem State.setCell_threads (s : State) (n : Nat) (x : Cell) : (s.setCell n x).threads = s.threads := rfl
@[simp] theorem State.setCell_imem (s : State) (n : Nat) (x : Cell) : (s.setCell n x).imem = s.imem := rfl
@[simp] theorem State.setCell_dmem (s : State) (n : Nat) (x : Cell) : (s.setCell n x).dmem = s.dmem := rfl
@[simp] theorem State.setCell_dmemDirty (s : State) (n : Nat) (x : Cell) : (s.setCell n x).dmemDirty = s.dmemDirty := rfl
@[simp] theorem State.setCell_memErrs (s : State) (n : Nat) (x : Cell) : (s.setCell n x).memErrs = s.memErrs := rfl
@[simp] theorem State.setCell_bluCycles (s : State) (n : Nat) (x : Cell) : (s.setCell n x).bluCycles = s.bluCycles := rfl
@[simp] theorem State.setCell_bluSeq (s : State) (n : Nat) (x : Cell) : (s.setCell n x).bluSeq = s.bluSeq := rfl
@[simp] theorem State.setCell_poQueue (s : State) (n : Nat) (x : Cell) : (s.setCell n x).poQueue = s.poQueue := rfl
@[simp] theorem State.setCell_phiTrail (s : State) (n : Nat) (x : Cell) : (s.setCell n x).phiTrail = s.phiTrail := rfl
@[simp] theorem State.setCell_canary (s : State) (n : Nat) (x : Cell) : (s.setCell n x).canary = s.canary := rfl
@[simp] theorem State.setCell_aon (s : State) (n : Nat) (x : Cell) : (s.setCell n x).aon = s.aon := rfl
@[simp] theorem State.setCell_wakeAt (s : State) (n : Nat) (x : Cell) : (s.setCell n x).wakeAt = s.wakeAt := rfl
@[simp] theorem State.setCell_watchNext (s : State) (n : Nat) (x : Cell) : (s.setCell n x).watchNext = s.watchNext := rfl
@[simp] theorem State.setCell_saved (s : State) (n : Nat) (x : Cell) : (s.setCell n x).saved = s.saved := rfl
@[simp] theorem State.setCell_products (s : State) (n : Nat) (x : Cell) : (s.setCell n x).products = s.products := rfl
@[simp] theorem State.setCell_prodWas (s : State) (n : Nat) (x : Cell) : (s.setCell n x).prodWas = s.prodWas := rfl
@[simp] theorem State.setCell_arrivals (s : State) (n : Nat) (x : Cell) : (s.setCell n x).arrivals = s.arrivals := rfl
@[simp] theorem State.setCell_prodFresh (s : State) (n : Nat) (x : Cell) : (s.setCell n x).prodFresh = s.prodFresh := rfl
@[simp] theorem State.setCell_prodFree (s : State) (n : Nat) (x : Cell) : (s.setCell n x).prodFree = s.prodFree := rfl
@[simp] theorem State.setCell_pidSeq (s : State) (n : Nat) (x : Cell) : (s.setCell n x).pidSeq = s.pidSeq := rfl
@[simp] theorem State.setCell_ephLanes (s : State) (n : Nat) (x : Cell) : (s.setCell n x).ephLanes = s.ephLanes := rfl
@[simp] theorem State.setCell_stnTick (s : State) (n : Nat) (x : Cell) : (s.setCell n x).stnTick = s.stnTick := rfl
@[simp] theorem State.setCell_storeFullAt (s : State) (n : Nat) (x : Cell) : (s.setCell n x).storeFullAt = s.storeFullAt := rfl
@[simp] theorem State.setCell_handoffs (s : State) (n : Nat) (x : Cell) : (s.setCell n x).handoffs = s.handoffs := rfl
@[simp] theorem State.setCell_pidsSeen (s : State) (n : Nat) (x : Cell) : (s.setCell n x).pidsSeen = s.pidsSeen := rfl
@[simp] theorem State.setCell_jobs (s : State) (n : Nat) (x : Cell) : (s.setCell n x).jobs = s.jobs := rfl
@[simp] theorem State.setCell_nextJob (s : State) (n : Nat) (x : Cell) : (s.setCell n x).nextJob = s.nextJob := rfl
@[simp] theorem State.setCell_serialsIn (s : State) (n : Nat) (x : Cell) : (s.setCell n x).serialsIn = s.serialsIn := rfl
@[simp] theorem State.setCell_reservationAcks (s : State) (n : Nat) (x : Cell) : (s.setCell n x).reservationAcks = s.reservationAcks := rfl
@[simp] theorem State.setCell_gens (s : State) (n : Nat) (x : Cell) : (s.setCell n x).gens = s.gens := rfl
@[simp] theorem State.setCell_heldCal (s : State) (n : Nat) (x : Cell) : (s.setCell n x).heldCal = s.heldCal := rfl
@[simp] theorem State.setCell_noDateOn (s : State) (n : Nat) (x : Cell) : (s.setCell n x).noDateOn = s.noDateOn := rfl
@[simp] theorem State.setCell_raster (s : State) (n : Nat) (x : Cell) : (s.setCell n x).raster = s.raster := rfl
@[simp] theorem State.setCell_pool (s : State) (n : Nat) (x : Cell) : (s.setCell n x).pool = s.pool := rfl
@[simp] theorem State.setCell_poison (s : State) (n : Nat) (x : Cell) : (s.setCell n x).poison = s.poison := rfl
@[simp] theorem State.setCell_extents (s : State) (n : Nat) (x : Cell) : (s.setCell n x).extents = s.extents := rfl
@[simp] theorem State.setCell_dmas (s : State) (n : Nat) (x : Cell) : (s.setCell n x).dmas = s.dmas := rfl
@[simp] theorem State.setCell_scrubPos (s : State) (n : Nat) (x : Cell) : (s.setCell n x).scrubPos = s.scrubPos := rfl
@[simp] theorem State.setCell_boot (s : State) (n : Nat) (x : Cell) : (s.setCell n x).boot = s.boot := rfl

@[simp] theorem State.setEvent_pending (s : State) (n : Nat) (x : AlmEvent) : (s.setEvent n x).pending = s.pending := rfl
@[simp] theorem State.setEvent_time (s : State) (n : Nat) (x : AlmEvent) : (s.setEvent n x).time = s.time := rfl
@[simp] theorem State.setEvent_regs (s : State) (n : Nat) (x : AlmEvent) : (s.setEvent n x).regs = s.regs := rfl
@[simp] theorem State.setEvent_free (s : State) (n : Nat) (x : AlmEvent) : (s.setEvent n x).free = s.free := rfl
@[simp] theorem State.setEvent_completion (s : State) (n : Nat) (x : AlmEvent) : (s.setEvent n x).completion = s.completion := rfl
@[simp] theorem State.setEvent_liveWas (s : State) (n : Nat) (x : AlmEvent) : (s.setEvent n x).liveWas = s.liveWas := rfl
@[simp] theorem State.setEvent_shutdown (s : State) (n : Nat) (x : AlmEvent) : (s.setEvent n x).shutdown = s.shutdown := rfl
@[simp] theorem State.setEvent_leaseOk (s : State) (n : Nat) (x : AlmEvent) : (s.setEvent n x).leaseOk = s.leaseOk := rfl
@[simp] theorem State.setEvent_shafts (s : State) (n : Nat) (x : AlmEvent) : (s.setEvent n x).shafts = s.shafts := rfl
@[simp] theorem State.setEvent_ports (s : State) (n : Nat) (x : AlmEvent) : (s.setEvent n x).ports = s.ports := rfl
@[simp] theorem State.setEvent_cells (s : State) (n : Nat) (x : AlmEvent) : (s.setEvent n x).cells = s.cells := rfl
@[simp] theorem State.setEvent_almQueue (s : State) (n : Nat) (x : AlmEvent) : (s.setEvent n x).almQueue = s.almQueue := rfl
@[simp] theorem State.setEvent_almWork (s : State) (n : Nat) (x : AlmEvent) : (s.setEvent n x).almWork = s.almWork := rfl
@[simp] theorem State.setEvent_leadEl (s : State) (n : Nat) (x : AlmEvent) : (s.setEvent n x).leadEl = s.leadEl := rfl
@[simp] theorem State.setEvent_leadPo (s : State) (n : Nat) (x : AlmEvent) : (s.setEvent n x).leadPo = s.leadPo := rfl
@[simp] theorem State.setEvent_outs (s : State) (n : Nat) (x : AlmEvent) : (s.setEvent n x).outs = s.outs := rfl
@[simp] theorem State.setEvent_lines (s : State) (n : Nat) (x : AlmEvent) : (s.setEvent n x).lines = s.lines := rfl
@[simp] theorem State.setEvent_lineAt (s : State) (n : Nat) (x : AlmEvent) : (s.setEvent n x).lineAt = s.lineAt := rfl
@[simp] theorem State.setEvent_actOld (s : State) (n : Nat) (x : AlmEvent) : (s.setEvent n x).actOld = s.actOld := rfl
@[simp] theorem State.setEvent_chains (s : State) (n : Nat) (x : AlmEvent) : (s.setEvent n x).chains = s.chains := rfl
@[simp] theorem State.setEvent_pwms (s : State) (n : Nat) (x : AlmEvent) : (s.setEvent n x).pwms = s.pwms := rfl
@[simp] theorem State.setEvent_trips (s : State) (n : Nat) (x : AlmEvent) : (s.setEvent n x).trips = s.trips := rfl
@[simp] theorem State.setEvent_adcs (s : State) (n : Nat) (x : AlmEvent) : (s.setEvent n x).adcs = s.adcs := rfl
@[simp] theorem State.setEvent_fresh (s : State) (n : Nat) (x : AlmEvent) : (s.setEvent n x).fresh = s.fresh := rfl
@[simp] theorem State.setEvent_ntf (s : State) (n : Nat) (x : AlmEvent) : (s.setEvent n x).ntf = s.ntf := rfl
@[simp] theorem State.setEvent_ntfTgt (s : State) (n : Nat) (x : AlmEvent) : (s.setEvent n x).ntfTgt = s.ntfTgt := rfl
@[simp] theorem State.setEvent_faults (s : State) (n : Nat) (x : AlmEvent) : (s.setEvent n x).faults = s.faults := rfl
@[simp] theorem State.setEvent_staging (s : State) (n : Nat) (x : AlmEvent) : (s.setEvent n x).staging = s.staging := rfl
@[simp] theorem State.setEvent_flash (s : State) (n : Nat) (x : AlmEvent) : (s.setEvent n x).flash = s.flash := rfl
@[simp] theorem State.setEvent_flogSeq (s : State) (n : Nat) (x : AlmEvent) : (s.setEvent n x).flogSeq = s.flogSeq := rfl
@[simp] theorem State.setEvent_logAt (s : State) (n : Nat) (x : AlmEvent) : (s.setEvent n x).logAt = s.logAt := rfl
@[simp] theorem State.setEvent_selAt (s : State) (n : Nat) (x : AlmEvent) : (s.setEvent n x).selAt = s.selAt := rfl
@[simp] theorem State.setEvent_safeAt (s : State) (n : Nat) (x : AlmEvent) : (s.setEvent n x).safeAt = s.safeAt := rfl
@[simp] theorem State.setEvent_permitted (s : State) (n : Nat) (x : AlmEvent) : (s.setEvent n x).permitted = s.permitted := rfl
@[simp] theorem State.setEvent_tallies (s : State) (n : Nat) (x : AlmEvent) : (s.setEvent n x).tallies = s.tallies := rfl
@[simp] theorem State.setEvent_tallyMram (s : State) (n : Nat) (x : AlmEvent) : (s.setEvent n x).tallyMram = s.tallyMram := rfl
@[simp] theorem State.setEvent_cal (s : State) (n : Nat) (x : AlmEvent) : (s.setEvent n x).cal = s.cal := rfl
@[simp] theorem State.setEvent_calErr (s : State) (n : Nat) (x : AlmEvent) : (s.setEvent n x).calErr = s.calErr := rfl
@[simp] theorem State.setEvent_calSet (s : State) (n : Nat) (x : AlmEvent) : (s.setEvent n x).calSet = s.calSet := rfl
@[simp] theorem State.setEvent_leapNow (s : State) (n : Nat) (x : AlmEvent) : (s.setEvent n x).leapNow = s.leapNow := rfl
@[simp] theorem State.setEvent_refLoaded (s : State) (n : Nat) (x : AlmEvent) : (s.setEvent n x).refLoaded = s.refLoaded := rfl
@[simp] theorem State.setEvent_lastFlush (s : State) (n : Nat) (x : AlmEvent) : (s.setEvent n x).lastFlush = s.lastFlush := rfl
@[simp] theorem State.setEvent_tmap (s : State) (n : Nat) (x : AlmEvent) : (s.setEvent n x).tmap = s.tmap := rfl
@[simp] theorem State.setEvent_gaps (s : State) (n : Nat) (x : AlmEvent) : (s.setEvent n x).gaps = s.gaps := rfl
@[simp] theorem State.setEvent_gapSeq (s : State) (n : Nat) (x : AlmEvent) : (s.setEvent n x).gapSeq = s.gapSeq := rfl
@[simp] theorem State.setEvent_slots (s : State) (n : Nat) (x : AlmEvent) : (s.setEvent n x).slots = s.slots := rfl
@[simp] theorem State.setEvent_sessions (s : State) (n : Nat) (x : AlmEvent) : (s.setEvent n x).sessions = s.sessions := rfl
@[simp] theorem State.setEvent_flights (s : State) (n : Nat) (x : AlmEvent) : (s.setEvent n x).flights = s.flights := rfl
@[simp] theorem State.setEvent_nextFlight (s : State) (n : Nat) (x : AlmEvent) : (s.setEvent n x).nextFlight = s.nextFlight := rfl
@[simp] theorem State.setEvent_txns (s : State) (n : Nat) (x : AlmEvent) : (s.setEvent n x).txns = s.txns := rfl
@[simp] theorem State.setEvent_nextTxn (s : State) (n : Nat) (x : AlmEvent) : (s.setEvent n x).nextTxn = s.nextTxn := rfl
@[simp] theorem State.setEvent_txnEnded (s : State) (n : Nat) (x : AlmEvent) : (s.setEvent n x).txnEnded = s.txnEnded := rfl
@[simp] theorem State.setEvent_levelTo (s : State) (n : Nat) (x : AlmEvent) : (s.setEvent n x).levelTo = s.levelTo := rfl
@[simp] theorem State.setEvent_periodNo (s : State) (n : Nat) (x : AlmEvent) : (s.setEvent n x).periodNo = s.periodNo := rfl
@[simp] theorem State.setEvent_boosts (s : State) (n : Nat) (x : AlmEvent) : (s.setEvent n x).boosts = s.boosts := rfl
@[simp] theorem State.setEvent_cooled (s : State) (n : Nat) (x : AlmEvent) : (s.setEvent n x).cooled = s.cooled := rfl
@[simp] theorem State.setEvent_wire (s : State) (n : Nat) (x : AlmEvent) : (s.setEvent n x).wire = s.wire := rfl
@[simp] theorem State.setEvent_fab (s : State) (n : Nat) (x : AlmEvent) : (s.setEvent n x).fab = s.fab := rfl
@[simp] theorem State.setEvent_twin (s : State) (n : Nat) (x : AlmEvent) : (s.setEvent n x).twin = s.twin := rfl
@[simp] theorem State.setEvent_lockRec (s : State) (n : Nat) (x : AlmEvent) : (s.setEvent n x).lockRec = s.lockRec := rfl
@[simp] theorem State.setEvent_power (s : State) (n : Nat) (x : AlmEvent) : (s.setEvent n x).power = s.power := rfl
@[simp] theorem State.setEvent_holdB (s : State) (n : Nat) (x : AlmEvent) : (s.setEvent n x).holdB = s.holdB := rfl
@[simp] theorem State.setEvent_holdC (s : State) (n : Nat) (x : AlmEvent) : (s.setEvent n x).holdC = s.holdC := rfl
@[simp] theorem State.setEvent_threads (s : State) (n : Nat) (x : AlmEvent) : (s.setEvent n x).threads = s.threads := rfl
@[simp] theorem State.setEvent_imem (s : State) (n : Nat) (x : AlmEvent) : (s.setEvent n x).imem = s.imem := rfl
@[simp] theorem State.setEvent_dmem (s : State) (n : Nat) (x : AlmEvent) : (s.setEvent n x).dmem = s.dmem := rfl
@[simp] theorem State.setEvent_dmemDirty (s : State) (n : Nat) (x : AlmEvent) : (s.setEvent n x).dmemDirty = s.dmemDirty := rfl
@[simp] theorem State.setEvent_memErrs (s : State) (n : Nat) (x : AlmEvent) : (s.setEvent n x).memErrs = s.memErrs := rfl
@[simp] theorem State.setEvent_bluCycles (s : State) (n : Nat) (x : AlmEvent) : (s.setEvent n x).bluCycles = s.bluCycles := rfl
@[simp] theorem State.setEvent_bluSeq (s : State) (n : Nat) (x : AlmEvent) : (s.setEvent n x).bluSeq = s.bluSeq := rfl
@[simp] theorem State.setEvent_poQueue (s : State) (n : Nat) (x : AlmEvent) : (s.setEvent n x).poQueue = s.poQueue := rfl
@[simp] theorem State.setEvent_phiTrail (s : State) (n : Nat) (x : AlmEvent) : (s.setEvent n x).phiTrail = s.phiTrail := rfl
@[simp] theorem State.setEvent_canary (s : State) (n : Nat) (x : AlmEvent) : (s.setEvent n x).canary = s.canary := rfl
@[simp] theorem State.setEvent_aon (s : State) (n : Nat) (x : AlmEvent) : (s.setEvent n x).aon = s.aon := rfl
@[simp] theorem State.setEvent_wakeAt (s : State) (n : Nat) (x : AlmEvent) : (s.setEvent n x).wakeAt = s.wakeAt := rfl
@[simp] theorem State.setEvent_watchNext (s : State) (n : Nat) (x : AlmEvent) : (s.setEvent n x).watchNext = s.watchNext := rfl
@[simp] theorem State.setEvent_saved (s : State) (n : Nat) (x : AlmEvent) : (s.setEvent n x).saved = s.saved := rfl
@[simp] theorem State.setEvent_products (s : State) (n : Nat) (x : AlmEvent) : (s.setEvent n x).products = s.products := rfl
@[simp] theorem State.setEvent_prodWas (s : State) (n : Nat) (x : AlmEvent) : (s.setEvent n x).prodWas = s.prodWas := rfl
@[simp] theorem State.setEvent_arrivals (s : State) (n : Nat) (x : AlmEvent) : (s.setEvent n x).arrivals = s.arrivals := rfl
@[simp] theorem State.setEvent_prodFresh (s : State) (n : Nat) (x : AlmEvent) : (s.setEvent n x).prodFresh = s.prodFresh := rfl
@[simp] theorem State.setEvent_prodFree (s : State) (n : Nat) (x : AlmEvent) : (s.setEvent n x).prodFree = s.prodFree := rfl
@[simp] theorem State.setEvent_pidSeq (s : State) (n : Nat) (x : AlmEvent) : (s.setEvent n x).pidSeq = s.pidSeq := rfl
@[simp] theorem State.setEvent_ephLanes (s : State) (n : Nat) (x : AlmEvent) : (s.setEvent n x).ephLanes = s.ephLanes := rfl
@[simp] theorem State.setEvent_stnTick (s : State) (n : Nat) (x : AlmEvent) : (s.setEvent n x).stnTick = s.stnTick := rfl
@[simp] theorem State.setEvent_storeFullAt (s : State) (n : Nat) (x : AlmEvent) : (s.setEvent n x).storeFullAt = s.storeFullAt := rfl
@[simp] theorem State.setEvent_handoffs (s : State) (n : Nat) (x : AlmEvent) : (s.setEvent n x).handoffs = s.handoffs := rfl
@[simp] theorem State.setEvent_pidsSeen (s : State) (n : Nat) (x : AlmEvent) : (s.setEvent n x).pidsSeen = s.pidsSeen := rfl
@[simp] theorem State.setEvent_jobs (s : State) (n : Nat) (x : AlmEvent) : (s.setEvent n x).jobs = s.jobs := rfl
@[simp] theorem State.setEvent_nextJob (s : State) (n : Nat) (x : AlmEvent) : (s.setEvent n x).nextJob = s.nextJob := rfl
@[simp] theorem State.setEvent_serialsIn (s : State) (n : Nat) (x : AlmEvent) : (s.setEvent n x).serialsIn = s.serialsIn := rfl
@[simp] theorem State.setEvent_reservationAcks (s : State) (n : Nat) (x : AlmEvent) : (s.setEvent n x).reservationAcks = s.reservationAcks := rfl
@[simp] theorem State.setEvent_gens (s : State) (n : Nat) (x : AlmEvent) : (s.setEvent n x).gens = s.gens := rfl
@[simp] theorem State.setEvent_heldCal (s : State) (n : Nat) (x : AlmEvent) : (s.setEvent n x).heldCal = s.heldCal := rfl
@[simp] theorem State.setEvent_noDateOn (s : State) (n : Nat) (x : AlmEvent) : (s.setEvent n x).noDateOn = s.noDateOn := rfl
@[simp] theorem State.setEvent_raster (s : State) (n : Nat) (x : AlmEvent) : (s.setEvent n x).raster = s.raster := rfl
@[simp] theorem State.setEvent_pool (s : State) (n : Nat) (x : AlmEvent) : (s.setEvent n x).pool = s.pool := rfl
@[simp] theorem State.setEvent_poison (s : State) (n : Nat) (x : AlmEvent) : (s.setEvent n x).poison = s.poison := rfl
@[simp] theorem State.setEvent_extents (s : State) (n : Nat) (x : AlmEvent) : (s.setEvent n x).extents = s.extents := rfl
@[simp] theorem State.setEvent_dmas (s : State) (n : Nat) (x : AlmEvent) : (s.setEvent n x).dmas = s.dmas := rfl
@[simp] theorem State.setEvent_scrubPos (s : State) (n : Nat) (x : AlmEvent) : (s.setEvent n x).scrubPos = s.scrubPos := rfl
@[simp] theorem State.setEvent_boot (s : State) (n : Nat) (x : AlmEvent) : (s.setEvent n x).boot = s.boot := rfl

@[simp] theorem State.setOut_pending (s : State) (n : Nat) (x : Output) : (s.setOut n x).pending = s.pending := rfl
@[simp] theorem State.setOut_time (s : State) (n : Nat) (x : Output) : (s.setOut n x).time = s.time := rfl
@[simp] theorem State.setOut_regs (s : State) (n : Nat) (x : Output) : (s.setOut n x).regs = s.regs := rfl
@[simp] theorem State.setOut_free (s : State) (n : Nat) (x : Output) : (s.setOut n x).free = s.free := rfl
@[simp] theorem State.setOut_completion (s : State) (n : Nat) (x : Output) : (s.setOut n x).completion = s.completion := rfl
@[simp] theorem State.setOut_liveWas (s : State) (n : Nat) (x : Output) : (s.setOut n x).liveWas = s.liveWas := rfl
@[simp] theorem State.setOut_shutdown (s : State) (n : Nat) (x : Output) : (s.setOut n x).shutdown = s.shutdown := rfl
@[simp] theorem State.setOut_leaseOk (s : State) (n : Nat) (x : Output) : (s.setOut n x).leaseOk = s.leaseOk := rfl
@[simp] theorem State.setOut_shafts (s : State) (n : Nat) (x : Output) : (s.setOut n x).shafts = s.shafts := rfl
@[simp] theorem State.setOut_ports (s : State) (n : Nat) (x : Output) : (s.setOut n x).ports = s.ports := rfl
@[simp] theorem State.setOut_cells (s : State) (n : Nat) (x : Output) : (s.setOut n x).cells = s.cells := rfl
@[simp] theorem State.setOut_events (s : State) (n : Nat) (x : Output) : (s.setOut n x).events = s.events := rfl
@[simp] theorem State.setOut_almQueue (s : State) (n : Nat) (x : Output) : (s.setOut n x).almQueue = s.almQueue := rfl
@[simp] theorem State.setOut_almWork (s : State) (n : Nat) (x : Output) : (s.setOut n x).almWork = s.almWork := rfl
@[simp] theorem State.setOut_leadEl (s : State) (n : Nat) (x : Output) : (s.setOut n x).leadEl = s.leadEl := rfl
@[simp] theorem State.setOut_leadPo (s : State) (n : Nat) (x : Output) : (s.setOut n x).leadPo = s.leadPo := rfl
@[simp] theorem State.setOut_lines (s : State) (n : Nat) (x : Output) : (s.setOut n x).lines = s.lines := rfl
@[simp] theorem State.setOut_lineAt (s : State) (n : Nat) (x : Output) : (s.setOut n x).lineAt = s.lineAt := rfl
@[simp] theorem State.setOut_actOld (s : State) (n : Nat) (x : Output) : (s.setOut n x).actOld = s.actOld := rfl
@[simp] theorem State.setOut_chains (s : State) (n : Nat) (x : Output) : (s.setOut n x).chains = s.chains := rfl
@[simp] theorem State.setOut_pwms (s : State) (n : Nat) (x : Output) : (s.setOut n x).pwms = s.pwms := rfl
@[simp] theorem State.setOut_trips (s : State) (n : Nat) (x : Output) : (s.setOut n x).trips = s.trips := rfl
@[simp] theorem State.setOut_adcs (s : State) (n : Nat) (x : Output) : (s.setOut n x).adcs = s.adcs := rfl
@[simp] theorem State.setOut_fresh (s : State) (n : Nat) (x : Output) : (s.setOut n x).fresh = s.fresh := rfl
@[simp] theorem State.setOut_ntf (s : State) (n : Nat) (x : Output) : (s.setOut n x).ntf = s.ntf := rfl
@[simp] theorem State.setOut_ntfTgt (s : State) (n : Nat) (x : Output) : (s.setOut n x).ntfTgt = s.ntfTgt := rfl
@[simp] theorem State.setOut_faults (s : State) (n : Nat) (x : Output) : (s.setOut n x).faults = s.faults := rfl
@[simp] theorem State.setOut_staging (s : State) (n : Nat) (x : Output) : (s.setOut n x).staging = s.staging := rfl
@[simp] theorem State.setOut_flash (s : State) (n : Nat) (x : Output) : (s.setOut n x).flash = s.flash := rfl
@[simp] theorem State.setOut_flogSeq (s : State) (n : Nat) (x : Output) : (s.setOut n x).flogSeq = s.flogSeq := rfl
@[simp] theorem State.setOut_logAt (s : State) (n : Nat) (x : Output) : (s.setOut n x).logAt = s.logAt := rfl
@[simp] theorem State.setOut_selAt (s : State) (n : Nat) (x : Output) : (s.setOut n x).selAt = s.selAt := rfl
@[simp] theorem State.setOut_safeAt (s : State) (n : Nat) (x : Output) : (s.setOut n x).safeAt = s.safeAt := rfl
@[simp] theorem State.setOut_permitted (s : State) (n : Nat) (x : Output) : (s.setOut n x).permitted = s.permitted := rfl
@[simp] theorem State.setOut_tallies (s : State) (n : Nat) (x : Output) : (s.setOut n x).tallies = s.tallies := rfl
@[simp] theorem State.setOut_tallyMram (s : State) (n : Nat) (x : Output) : (s.setOut n x).tallyMram = s.tallyMram := rfl
@[simp] theorem State.setOut_cal (s : State) (n : Nat) (x : Output) : (s.setOut n x).cal = s.cal := rfl
@[simp] theorem State.setOut_calErr (s : State) (n : Nat) (x : Output) : (s.setOut n x).calErr = s.calErr := rfl
@[simp] theorem State.setOut_calSet (s : State) (n : Nat) (x : Output) : (s.setOut n x).calSet = s.calSet := rfl
@[simp] theorem State.setOut_leapNow (s : State) (n : Nat) (x : Output) : (s.setOut n x).leapNow = s.leapNow := rfl
@[simp] theorem State.setOut_refLoaded (s : State) (n : Nat) (x : Output) : (s.setOut n x).refLoaded = s.refLoaded := rfl
@[simp] theorem State.setOut_lastFlush (s : State) (n : Nat) (x : Output) : (s.setOut n x).lastFlush = s.lastFlush := rfl
@[simp] theorem State.setOut_tmap (s : State) (n : Nat) (x : Output) : (s.setOut n x).tmap = s.tmap := rfl
@[simp] theorem State.setOut_gaps (s : State) (n : Nat) (x : Output) : (s.setOut n x).gaps = s.gaps := rfl
@[simp] theorem State.setOut_gapSeq (s : State) (n : Nat) (x : Output) : (s.setOut n x).gapSeq = s.gapSeq := rfl
@[simp] theorem State.setOut_slots (s : State) (n : Nat) (x : Output) : (s.setOut n x).slots = s.slots := rfl
@[simp] theorem State.setOut_sessions (s : State) (n : Nat) (x : Output) : (s.setOut n x).sessions = s.sessions := rfl
@[simp] theorem State.setOut_flights (s : State) (n : Nat) (x : Output) : (s.setOut n x).flights = s.flights := rfl
@[simp] theorem State.setOut_nextFlight (s : State) (n : Nat) (x : Output) : (s.setOut n x).nextFlight = s.nextFlight := rfl
@[simp] theorem State.setOut_txns (s : State) (n : Nat) (x : Output) : (s.setOut n x).txns = s.txns := rfl
@[simp] theorem State.setOut_nextTxn (s : State) (n : Nat) (x : Output) : (s.setOut n x).nextTxn = s.nextTxn := rfl
@[simp] theorem State.setOut_txnEnded (s : State) (n : Nat) (x : Output) : (s.setOut n x).txnEnded = s.txnEnded := rfl
@[simp] theorem State.setOut_levelTo (s : State) (n : Nat) (x : Output) : (s.setOut n x).levelTo = s.levelTo := rfl
@[simp] theorem State.setOut_periodNo (s : State) (n : Nat) (x : Output) : (s.setOut n x).periodNo = s.periodNo := rfl
@[simp] theorem State.setOut_boosts (s : State) (n : Nat) (x : Output) : (s.setOut n x).boosts = s.boosts := rfl
@[simp] theorem State.setOut_cooled (s : State) (n : Nat) (x : Output) : (s.setOut n x).cooled = s.cooled := rfl
@[simp] theorem State.setOut_wire (s : State) (n : Nat) (x : Output) : (s.setOut n x).wire = s.wire := rfl
@[simp] theorem State.setOut_fab (s : State) (n : Nat) (x : Output) : (s.setOut n x).fab = s.fab := rfl
@[simp] theorem State.setOut_twin (s : State) (n : Nat) (x : Output) : (s.setOut n x).twin = s.twin := rfl
@[simp] theorem State.setOut_lockRec (s : State) (n : Nat) (x : Output) : (s.setOut n x).lockRec = s.lockRec := rfl
@[simp] theorem State.setOut_power (s : State) (n : Nat) (x : Output) : (s.setOut n x).power = s.power := rfl
@[simp] theorem State.setOut_holdB (s : State) (n : Nat) (x : Output) : (s.setOut n x).holdB = s.holdB := rfl
@[simp] theorem State.setOut_holdC (s : State) (n : Nat) (x : Output) : (s.setOut n x).holdC = s.holdC := rfl
@[simp] theorem State.setOut_threads (s : State) (n : Nat) (x : Output) : (s.setOut n x).threads = s.threads := rfl
@[simp] theorem State.setOut_imem (s : State) (n : Nat) (x : Output) : (s.setOut n x).imem = s.imem := rfl
@[simp] theorem State.setOut_dmem (s : State) (n : Nat) (x : Output) : (s.setOut n x).dmem = s.dmem := rfl
@[simp] theorem State.setOut_dmemDirty (s : State) (n : Nat) (x : Output) : (s.setOut n x).dmemDirty = s.dmemDirty := rfl
@[simp] theorem State.setOut_memErrs (s : State) (n : Nat) (x : Output) : (s.setOut n x).memErrs = s.memErrs := rfl
@[simp] theorem State.setOut_bluCycles (s : State) (n : Nat) (x : Output) : (s.setOut n x).bluCycles = s.bluCycles := rfl
@[simp] theorem State.setOut_bluSeq (s : State) (n : Nat) (x : Output) : (s.setOut n x).bluSeq = s.bluSeq := rfl
@[simp] theorem State.setOut_poQueue (s : State) (n : Nat) (x : Output) : (s.setOut n x).poQueue = s.poQueue := rfl
@[simp] theorem State.setOut_phiTrail (s : State) (n : Nat) (x : Output) : (s.setOut n x).phiTrail = s.phiTrail := rfl
@[simp] theorem State.setOut_canary (s : State) (n : Nat) (x : Output) : (s.setOut n x).canary = s.canary := rfl
@[simp] theorem State.setOut_aon (s : State) (n : Nat) (x : Output) : (s.setOut n x).aon = s.aon := rfl
@[simp] theorem State.setOut_wakeAt (s : State) (n : Nat) (x : Output) : (s.setOut n x).wakeAt = s.wakeAt := rfl
@[simp] theorem State.setOut_watchNext (s : State) (n : Nat) (x : Output) : (s.setOut n x).watchNext = s.watchNext := rfl
@[simp] theorem State.setOut_saved (s : State) (n : Nat) (x : Output) : (s.setOut n x).saved = s.saved := rfl
@[simp] theorem State.setOut_products (s : State) (n : Nat) (x : Output) : (s.setOut n x).products = s.products := rfl
@[simp] theorem State.setOut_prodWas (s : State) (n : Nat) (x : Output) : (s.setOut n x).prodWas = s.prodWas := rfl
@[simp] theorem State.setOut_arrivals (s : State) (n : Nat) (x : Output) : (s.setOut n x).arrivals = s.arrivals := rfl
@[simp] theorem State.setOut_prodFresh (s : State) (n : Nat) (x : Output) : (s.setOut n x).prodFresh = s.prodFresh := rfl
@[simp] theorem State.setOut_prodFree (s : State) (n : Nat) (x : Output) : (s.setOut n x).prodFree = s.prodFree := rfl
@[simp] theorem State.setOut_pidSeq (s : State) (n : Nat) (x : Output) : (s.setOut n x).pidSeq = s.pidSeq := rfl
@[simp] theorem State.setOut_ephLanes (s : State) (n : Nat) (x : Output) : (s.setOut n x).ephLanes = s.ephLanes := rfl
@[simp] theorem State.setOut_stnTick (s : State) (n : Nat) (x : Output) : (s.setOut n x).stnTick = s.stnTick := rfl
@[simp] theorem State.setOut_storeFullAt (s : State) (n : Nat) (x : Output) : (s.setOut n x).storeFullAt = s.storeFullAt := rfl
@[simp] theorem State.setOut_handoffs (s : State) (n : Nat) (x : Output) : (s.setOut n x).handoffs = s.handoffs := rfl
@[simp] theorem State.setOut_pidsSeen (s : State) (n : Nat) (x : Output) : (s.setOut n x).pidsSeen = s.pidsSeen := rfl
@[simp] theorem State.setOut_jobs (s : State) (n : Nat) (x : Output) : (s.setOut n x).jobs = s.jobs := rfl
@[simp] theorem State.setOut_nextJob (s : State) (n : Nat) (x : Output) : (s.setOut n x).nextJob = s.nextJob := rfl
@[simp] theorem State.setOut_serialsIn (s : State) (n : Nat) (x : Output) : (s.setOut n x).serialsIn = s.serialsIn := rfl
@[simp] theorem State.setOut_reservationAcks (s : State) (n : Nat) (x : Output) : (s.setOut n x).reservationAcks = s.reservationAcks := rfl
@[simp] theorem State.setOut_gens (s : State) (n : Nat) (x : Output) : (s.setOut n x).gens = s.gens := rfl
@[simp] theorem State.setOut_heldCal (s : State) (n : Nat) (x : Output) : (s.setOut n x).heldCal = s.heldCal := rfl
@[simp] theorem State.setOut_noDateOn (s : State) (n : Nat) (x : Output) : (s.setOut n x).noDateOn = s.noDateOn := rfl
@[simp] theorem State.setOut_raster (s : State) (n : Nat) (x : Output) : (s.setOut n x).raster = s.raster := rfl
@[simp] theorem State.setOut_pool (s : State) (n : Nat) (x : Output) : (s.setOut n x).pool = s.pool := rfl
@[simp] theorem State.setOut_poison (s : State) (n : Nat) (x : Output) : (s.setOut n x).poison = s.poison := rfl
@[simp] theorem State.setOut_extents (s : State) (n : Nat) (x : Output) : (s.setOut n x).extents = s.extents := rfl
@[simp] theorem State.setOut_dmas (s : State) (n : Nat) (x : Output) : (s.setOut n x).dmas = s.dmas := rfl
@[simp] theorem State.setOut_scrubPos (s : State) (n : Nat) (x : Output) : (s.setOut n x).scrubPos = s.scrubPos := rfl
@[simp] theorem State.setOut_boot (s : State) (n : Nat) (x : Output) : (s.setOut n x).boot = s.boot := rfl

@[simp] theorem State.setLine_pending (s : State) (n : Nat) (x : Bool) : (s.setLine n x).pending = s.pending := rfl
@[simp] theorem State.setLine_time (s : State) (n : Nat) (x : Bool) : (s.setLine n x).time = s.time := rfl
@[simp] theorem State.setLine_regs (s : State) (n : Nat) (x : Bool) : (s.setLine n x).regs = s.regs := rfl
@[simp] theorem State.setLine_free (s : State) (n : Nat) (x : Bool) : (s.setLine n x).free = s.free := rfl
@[simp] theorem State.setLine_completion (s : State) (n : Nat) (x : Bool) : (s.setLine n x).completion = s.completion := rfl
@[simp] theorem State.setLine_liveWas (s : State) (n : Nat) (x : Bool) : (s.setLine n x).liveWas = s.liveWas := rfl
@[simp] theorem State.setLine_shutdown (s : State) (n : Nat) (x : Bool) : (s.setLine n x).shutdown = s.shutdown := rfl
@[simp] theorem State.setLine_leaseOk (s : State) (n : Nat) (x : Bool) : (s.setLine n x).leaseOk = s.leaseOk := rfl
@[simp] theorem State.setLine_shafts (s : State) (n : Nat) (x : Bool) : (s.setLine n x).shafts = s.shafts := rfl
@[simp] theorem State.setLine_ports (s : State) (n : Nat) (x : Bool) : (s.setLine n x).ports = s.ports := rfl
@[simp] theorem State.setLine_cells (s : State) (n : Nat) (x : Bool) : (s.setLine n x).cells = s.cells := rfl
@[simp] theorem State.setLine_events (s : State) (n : Nat) (x : Bool) : (s.setLine n x).events = s.events := rfl
@[simp] theorem State.setLine_almQueue (s : State) (n : Nat) (x : Bool) : (s.setLine n x).almQueue = s.almQueue := rfl
@[simp] theorem State.setLine_almWork (s : State) (n : Nat) (x : Bool) : (s.setLine n x).almWork = s.almWork := rfl
@[simp] theorem State.setLine_leadEl (s : State) (n : Nat) (x : Bool) : (s.setLine n x).leadEl = s.leadEl := rfl
@[simp] theorem State.setLine_leadPo (s : State) (n : Nat) (x : Bool) : (s.setLine n x).leadPo = s.leadPo := rfl
@[simp] theorem State.setLine_outs (s : State) (n : Nat) (x : Bool) : (s.setLine n x).outs = s.outs := rfl
@[simp] theorem State.setLine_lineAt (s : State) (n : Nat) (x : Bool) : (s.setLine n x).lineAt = s.lineAt := rfl
@[simp] theorem State.setLine_actOld (s : State) (n : Nat) (x : Bool) : (s.setLine n x).actOld = s.actOld := rfl
@[simp] theorem State.setLine_chains (s : State) (n : Nat) (x : Bool) : (s.setLine n x).chains = s.chains := rfl
@[simp] theorem State.setLine_pwms (s : State) (n : Nat) (x : Bool) : (s.setLine n x).pwms = s.pwms := rfl
@[simp] theorem State.setLine_trips (s : State) (n : Nat) (x : Bool) : (s.setLine n x).trips = s.trips := rfl
@[simp] theorem State.setLine_adcs (s : State) (n : Nat) (x : Bool) : (s.setLine n x).adcs = s.adcs := rfl
@[simp] theorem State.setLine_fresh (s : State) (n : Nat) (x : Bool) : (s.setLine n x).fresh = s.fresh := rfl
@[simp] theorem State.setLine_ntf (s : State) (n : Nat) (x : Bool) : (s.setLine n x).ntf = s.ntf := rfl
@[simp] theorem State.setLine_ntfTgt (s : State) (n : Nat) (x : Bool) : (s.setLine n x).ntfTgt = s.ntfTgt := rfl
@[simp] theorem State.setLine_faults (s : State) (n : Nat) (x : Bool) : (s.setLine n x).faults = s.faults := rfl
@[simp] theorem State.setLine_staging (s : State) (n : Nat) (x : Bool) : (s.setLine n x).staging = s.staging := rfl
@[simp] theorem State.setLine_flash (s : State) (n : Nat) (x : Bool) : (s.setLine n x).flash = s.flash := rfl
@[simp] theorem State.setLine_flogSeq (s : State) (n : Nat) (x : Bool) : (s.setLine n x).flogSeq = s.flogSeq := rfl
@[simp] theorem State.setLine_logAt (s : State) (n : Nat) (x : Bool) : (s.setLine n x).logAt = s.logAt := rfl
@[simp] theorem State.setLine_selAt (s : State) (n : Nat) (x : Bool) : (s.setLine n x).selAt = s.selAt := rfl
@[simp] theorem State.setLine_safeAt (s : State) (n : Nat) (x : Bool) : (s.setLine n x).safeAt = s.safeAt := rfl
@[simp] theorem State.setLine_permitted (s : State) (n : Nat) (x : Bool) : (s.setLine n x).permitted = s.permitted := rfl
@[simp] theorem State.setLine_tallies (s : State) (n : Nat) (x : Bool) : (s.setLine n x).tallies = s.tallies := rfl
@[simp] theorem State.setLine_tallyMram (s : State) (n : Nat) (x : Bool) : (s.setLine n x).tallyMram = s.tallyMram := rfl
@[simp] theorem State.setLine_cal (s : State) (n : Nat) (x : Bool) : (s.setLine n x).cal = s.cal := rfl
@[simp] theorem State.setLine_calErr (s : State) (n : Nat) (x : Bool) : (s.setLine n x).calErr = s.calErr := rfl
@[simp] theorem State.setLine_calSet (s : State) (n : Nat) (x : Bool) : (s.setLine n x).calSet = s.calSet := rfl
@[simp] theorem State.setLine_leapNow (s : State) (n : Nat) (x : Bool) : (s.setLine n x).leapNow = s.leapNow := rfl
@[simp] theorem State.setLine_refLoaded (s : State) (n : Nat) (x : Bool) : (s.setLine n x).refLoaded = s.refLoaded := rfl
@[simp] theorem State.setLine_lastFlush (s : State) (n : Nat) (x : Bool) : (s.setLine n x).lastFlush = s.lastFlush := rfl
@[simp] theorem State.setLine_tmap (s : State) (n : Nat) (x : Bool) : (s.setLine n x).tmap = s.tmap := rfl
@[simp] theorem State.setLine_gaps (s : State) (n : Nat) (x : Bool) : (s.setLine n x).gaps = s.gaps := rfl
@[simp] theorem State.setLine_gapSeq (s : State) (n : Nat) (x : Bool) : (s.setLine n x).gapSeq = s.gapSeq := rfl
@[simp] theorem State.setLine_slots (s : State) (n : Nat) (x : Bool) : (s.setLine n x).slots = s.slots := rfl
@[simp] theorem State.setLine_sessions (s : State) (n : Nat) (x : Bool) : (s.setLine n x).sessions = s.sessions := rfl
@[simp] theorem State.setLine_flights (s : State) (n : Nat) (x : Bool) : (s.setLine n x).flights = s.flights := rfl
@[simp] theorem State.setLine_nextFlight (s : State) (n : Nat) (x : Bool) : (s.setLine n x).nextFlight = s.nextFlight := rfl
@[simp] theorem State.setLine_txns (s : State) (n : Nat) (x : Bool) : (s.setLine n x).txns = s.txns := rfl
@[simp] theorem State.setLine_nextTxn (s : State) (n : Nat) (x : Bool) : (s.setLine n x).nextTxn = s.nextTxn := rfl
@[simp] theorem State.setLine_txnEnded (s : State) (n : Nat) (x : Bool) : (s.setLine n x).txnEnded = s.txnEnded := rfl
@[simp] theorem State.setLine_levelTo (s : State) (n : Nat) (x : Bool) : (s.setLine n x).levelTo = s.levelTo := rfl
@[simp] theorem State.setLine_periodNo (s : State) (n : Nat) (x : Bool) : (s.setLine n x).periodNo = s.periodNo := rfl
@[simp] theorem State.setLine_boosts (s : State) (n : Nat) (x : Bool) : (s.setLine n x).boosts = s.boosts := rfl
@[simp] theorem State.setLine_cooled (s : State) (n : Nat) (x : Bool) : (s.setLine n x).cooled = s.cooled := rfl
@[simp] theorem State.setLine_wire (s : State) (n : Nat) (x : Bool) : (s.setLine n x).wire = s.wire := rfl
@[simp] theorem State.setLine_fab (s : State) (n : Nat) (x : Bool) : (s.setLine n x).fab = s.fab := rfl
@[simp] theorem State.setLine_twin (s : State) (n : Nat) (x : Bool) : (s.setLine n x).twin = s.twin := rfl
@[simp] theorem State.setLine_lockRec (s : State) (n : Nat) (x : Bool) : (s.setLine n x).lockRec = s.lockRec := rfl
@[simp] theorem State.setLine_power (s : State) (n : Nat) (x : Bool) : (s.setLine n x).power = s.power := rfl
@[simp] theorem State.setLine_holdB (s : State) (n : Nat) (x : Bool) : (s.setLine n x).holdB = s.holdB := rfl
@[simp] theorem State.setLine_holdC (s : State) (n : Nat) (x : Bool) : (s.setLine n x).holdC = s.holdC := rfl
@[simp] theorem State.setLine_threads (s : State) (n : Nat) (x : Bool) : (s.setLine n x).threads = s.threads := rfl
@[simp] theorem State.setLine_imem (s : State) (n : Nat) (x : Bool) : (s.setLine n x).imem = s.imem := rfl
@[simp] theorem State.setLine_dmem (s : State) (n : Nat) (x : Bool) : (s.setLine n x).dmem = s.dmem := rfl
@[simp] theorem State.setLine_dmemDirty (s : State) (n : Nat) (x : Bool) : (s.setLine n x).dmemDirty = s.dmemDirty := rfl
@[simp] theorem State.setLine_memErrs (s : State) (n : Nat) (x : Bool) : (s.setLine n x).memErrs = s.memErrs := rfl
@[simp] theorem State.setLine_bluCycles (s : State) (n : Nat) (x : Bool) : (s.setLine n x).bluCycles = s.bluCycles := rfl
@[simp] theorem State.setLine_bluSeq (s : State) (n : Nat) (x : Bool) : (s.setLine n x).bluSeq = s.bluSeq := rfl
@[simp] theorem State.setLine_poQueue (s : State) (n : Nat) (x : Bool) : (s.setLine n x).poQueue = s.poQueue := rfl
@[simp] theorem State.setLine_phiTrail (s : State) (n : Nat) (x : Bool) : (s.setLine n x).phiTrail = s.phiTrail := rfl
@[simp] theorem State.setLine_canary (s : State) (n : Nat) (x : Bool) : (s.setLine n x).canary = s.canary := rfl
@[simp] theorem State.setLine_aon (s : State) (n : Nat) (x : Bool) : (s.setLine n x).aon = s.aon := rfl
@[simp] theorem State.setLine_wakeAt (s : State) (n : Nat) (x : Bool) : (s.setLine n x).wakeAt = s.wakeAt := rfl
@[simp] theorem State.setLine_watchNext (s : State) (n : Nat) (x : Bool) : (s.setLine n x).watchNext = s.watchNext := rfl
@[simp] theorem State.setLine_saved (s : State) (n : Nat) (x : Bool) : (s.setLine n x).saved = s.saved := rfl
@[simp] theorem State.setLine_products (s : State) (n : Nat) (x : Bool) : (s.setLine n x).products = s.products := rfl
@[simp] theorem State.setLine_prodWas (s : State) (n : Nat) (x : Bool) : (s.setLine n x).prodWas = s.prodWas := rfl
@[simp] theorem State.setLine_arrivals (s : State) (n : Nat) (x : Bool) : (s.setLine n x).arrivals = s.arrivals := rfl
@[simp] theorem State.setLine_prodFresh (s : State) (n : Nat) (x : Bool) : (s.setLine n x).prodFresh = s.prodFresh := rfl
@[simp] theorem State.setLine_prodFree (s : State) (n : Nat) (x : Bool) : (s.setLine n x).prodFree = s.prodFree := rfl
@[simp] theorem State.setLine_pidSeq (s : State) (n : Nat) (x : Bool) : (s.setLine n x).pidSeq = s.pidSeq := rfl
@[simp] theorem State.setLine_ephLanes (s : State) (n : Nat) (x : Bool) : (s.setLine n x).ephLanes = s.ephLanes := rfl
@[simp] theorem State.setLine_stnTick (s : State) (n : Nat) (x : Bool) : (s.setLine n x).stnTick = s.stnTick := rfl
@[simp] theorem State.setLine_storeFullAt (s : State) (n : Nat) (x : Bool) : (s.setLine n x).storeFullAt = s.storeFullAt := rfl
@[simp] theorem State.setLine_handoffs (s : State) (n : Nat) (x : Bool) : (s.setLine n x).handoffs = s.handoffs := rfl
@[simp] theorem State.setLine_pidsSeen (s : State) (n : Nat) (x : Bool) : (s.setLine n x).pidsSeen = s.pidsSeen := rfl
@[simp] theorem State.setLine_jobs (s : State) (n : Nat) (x : Bool) : (s.setLine n x).jobs = s.jobs := rfl
@[simp] theorem State.setLine_nextJob (s : State) (n : Nat) (x : Bool) : (s.setLine n x).nextJob = s.nextJob := rfl
@[simp] theorem State.setLine_serialsIn (s : State) (n : Nat) (x : Bool) : (s.setLine n x).serialsIn = s.serialsIn := rfl
@[simp] theorem State.setLine_reservationAcks (s : State) (n : Nat) (x : Bool) : (s.setLine n x).reservationAcks = s.reservationAcks := rfl
@[simp] theorem State.setLine_gens (s : State) (n : Nat) (x : Bool) : (s.setLine n x).gens = s.gens := rfl
@[simp] theorem State.setLine_heldCal (s : State) (n : Nat) (x : Bool) : (s.setLine n x).heldCal = s.heldCal := rfl
@[simp] theorem State.setLine_noDateOn (s : State) (n : Nat) (x : Bool) : (s.setLine n x).noDateOn = s.noDateOn := rfl
@[simp] theorem State.setLine_raster (s : State) (n : Nat) (x : Bool) : (s.setLine n x).raster = s.raster := rfl
@[simp] theorem State.setLine_pool (s : State) (n : Nat) (x : Bool) : (s.setLine n x).pool = s.pool := rfl
@[simp] theorem State.setLine_poison (s : State) (n : Nat) (x : Bool) : (s.setLine n x).poison = s.poison := rfl
@[simp] theorem State.setLine_extents (s : State) (n : Nat) (x : Bool) : (s.setLine n x).extents = s.extents := rfl
@[simp] theorem State.setLine_dmas (s : State) (n : Nat) (x : Bool) : (s.setLine n x).dmas = s.dmas := rfl
@[simp] theorem State.setLine_scrubPos (s : State) (n : Nat) (x : Bool) : (s.setLine n x).scrubPos = s.scrubPos := rfl
@[simp] theorem State.setLine_boot (s : State) (n : Nat) (x : Bool) : (s.setLine n x).boot = s.boot := rfl

@[simp] theorem State.setChain_pending (s : State) (n : Nat) (x : Chain) : (s.setChain n x).pending = s.pending := rfl
@[simp] theorem State.setChain_time (s : State) (n : Nat) (x : Chain) : (s.setChain n x).time = s.time := rfl
@[simp] theorem State.setChain_regs (s : State) (n : Nat) (x : Chain) : (s.setChain n x).regs = s.regs := rfl
@[simp] theorem State.setChain_free (s : State) (n : Nat) (x : Chain) : (s.setChain n x).free = s.free := rfl
@[simp] theorem State.setChain_completion (s : State) (n : Nat) (x : Chain) : (s.setChain n x).completion = s.completion := rfl
@[simp] theorem State.setChain_liveWas (s : State) (n : Nat) (x : Chain) : (s.setChain n x).liveWas = s.liveWas := rfl
@[simp] theorem State.setChain_shutdown (s : State) (n : Nat) (x : Chain) : (s.setChain n x).shutdown = s.shutdown := rfl
@[simp] theorem State.setChain_leaseOk (s : State) (n : Nat) (x : Chain) : (s.setChain n x).leaseOk = s.leaseOk := rfl
@[simp] theorem State.setChain_shafts (s : State) (n : Nat) (x : Chain) : (s.setChain n x).shafts = s.shafts := rfl
@[simp] theorem State.setChain_ports (s : State) (n : Nat) (x : Chain) : (s.setChain n x).ports = s.ports := rfl
@[simp] theorem State.setChain_cells (s : State) (n : Nat) (x : Chain) : (s.setChain n x).cells = s.cells := rfl
@[simp] theorem State.setChain_events (s : State) (n : Nat) (x : Chain) : (s.setChain n x).events = s.events := rfl
@[simp] theorem State.setChain_almQueue (s : State) (n : Nat) (x : Chain) : (s.setChain n x).almQueue = s.almQueue := rfl
@[simp] theorem State.setChain_almWork (s : State) (n : Nat) (x : Chain) : (s.setChain n x).almWork = s.almWork := rfl
@[simp] theorem State.setChain_leadEl (s : State) (n : Nat) (x : Chain) : (s.setChain n x).leadEl = s.leadEl := rfl
@[simp] theorem State.setChain_leadPo (s : State) (n : Nat) (x : Chain) : (s.setChain n x).leadPo = s.leadPo := rfl
@[simp] theorem State.setChain_outs (s : State) (n : Nat) (x : Chain) : (s.setChain n x).outs = s.outs := rfl
@[simp] theorem State.setChain_lines (s : State) (n : Nat) (x : Chain) : (s.setChain n x).lines = s.lines := rfl
@[simp] theorem State.setChain_lineAt (s : State) (n : Nat) (x : Chain) : (s.setChain n x).lineAt = s.lineAt := rfl
@[simp] theorem State.setChain_actOld (s : State) (n : Nat) (x : Chain) : (s.setChain n x).actOld = s.actOld := rfl
@[simp] theorem State.setChain_pwms (s : State) (n : Nat) (x : Chain) : (s.setChain n x).pwms = s.pwms := rfl
@[simp] theorem State.setChain_trips (s : State) (n : Nat) (x : Chain) : (s.setChain n x).trips = s.trips := rfl
@[simp] theorem State.setChain_adcs (s : State) (n : Nat) (x : Chain) : (s.setChain n x).adcs = s.adcs := rfl
@[simp] theorem State.setChain_fresh (s : State) (n : Nat) (x : Chain) : (s.setChain n x).fresh = s.fresh := rfl
@[simp] theorem State.setChain_ntf (s : State) (n : Nat) (x : Chain) : (s.setChain n x).ntf = s.ntf := rfl
@[simp] theorem State.setChain_ntfTgt (s : State) (n : Nat) (x : Chain) : (s.setChain n x).ntfTgt = s.ntfTgt := rfl
@[simp] theorem State.setChain_faults (s : State) (n : Nat) (x : Chain) : (s.setChain n x).faults = s.faults := rfl
@[simp] theorem State.setChain_staging (s : State) (n : Nat) (x : Chain) : (s.setChain n x).staging = s.staging := rfl
@[simp] theorem State.setChain_flash (s : State) (n : Nat) (x : Chain) : (s.setChain n x).flash = s.flash := rfl
@[simp] theorem State.setChain_flogSeq (s : State) (n : Nat) (x : Chain) : (s.setChain n x).flogSeq = s.flogSeq := rfl
@[simp] theorem State.setChain_logAt (s : State) (n : Nat) (x : Chain) : (s.setChain n x).logAt = s.logAt := rfl
@[simp] theorem State.setChain_selAt (s : State) (n : Nat) (x : Chain) : (s.setChain n x).selAt = s.selAt := rfl
@[simp] theorem State.setChain_safeAt (s : State) (n : Nat) (x : Chain) : (s.setChain n x).safeAt = s.safeAt := rfl
@[simp] theorem State.setChain_permitted (s : State) (n : Nat) (x : Chain) : (s.setChain n x).permitted = s.permitted := rfl
@[simp] theorem State.setChain_tallies (s : State) (n : Nat) (x : Chain) : (s.setChain n x).tallies = s.tallies := rfl
@[simp] theorem State.setChain_tallyMram (s : State) (n : Nat) (x : Chain) : (s.setChain n x).tallyMram = s.tallyMram := rfl
@[simp] theorem State.setChain_cal (s : State) (n : Nat) (x : Chain) : (s.setChain n x).cal = s.cal := rfl
@[simp] theorem State.setChain_calErr (s : State) (n : Nat) (x : Chain) : (s.setChain n x).calErr = s.calErr := rfl
@[simp] theorem State.setChain_calSet (s : State) (n : Nat) (x : Chain) : (s.setChain n x).calSet = s.calSet := rfl
@[simp] theorem State.setChain_leapNow (s : State) (n : Nat) (x : Chain) : (s.setChain n x).leapNow = s.leapNow := rfl
@[simp] theorem State.setChain_refLoaded (s : State) (n : Nat) (x : Chain) : (s.setChain n x).refLoaded = s.refLoaded := rfl
@[simp] theorem State.setChain_lastFlush (s : State) (n : Nat) (x : Chain) : (s.setChain n x).lastFlush = s.lastFlush := rfl
@[simp] theorem State.setChain_tmap (s : State) (n : Nat) (x : Chain) : (s.setChain n x).tmap = s.tmap := rfl
@[simp] theorem State.setChain_gaps (s : State) (n : Nat) (x : Chain) : (s.setChain n x).gaps = s.gaps := rfl
@[simp] theorem State.setChain_gapSeq (s : State) (n : Nat) (x : Chain) : (s.setChain n x).gapSeq = s.gapSeq := rfl
@[simp] theorem State.setChain_slots (s : State) (n : Nat) (x : Chain) : (s.setChain n x).slots = s.slots := rfl
@[simp] theorem State.setChain_sessions (s : State) (n : Nat) (x : Chain) : (s.setChain n x).sessions = s.sessions := rfl
@[simp] theorem State.setChain_flights (s : State) (n : Nat) (x : Chain) : (s.setChain n x).flights = s.flights := rfl
@[simp] theorem State.setChain_nextFlight (s : State) (n : Nat) (x : Chain) : (s.setChain n x).nextFlight = s.nextFlight := rfl
@[simp] theorem State.setChain_txns (s : State) (n : Nat) (x : Chain) : (s.setChain n x).txns = s.txns := rfl
@[simp] theorem State.setChain_nextTxn (s : State) (n : Nat) (x : Chain) : (s.setChain n x).nextTxn = s.nextTxn := rfl
@[simp] theorem State.setChain_txnEnded (s : State) (n : Nat) (x : Chain) : (s.setChain n x).txnEnded = s.txnEnded := rfl
@[simp] theorem State.setChain_levelTo (s : State) (n : Nat) (x : Chain) : (s.setChain n x).levelTo = s.levelTo := rfl
@[simp] theorem State.setChain_periodNo (s : State) (n : Nat) (x : Chain) : (s.setChain n x).periodNo = s.periodNo := rfl
@[simp] theorem State.setChain_boosts (s : State) (n : Nat) (x : Chain) : (s.setChain n x).boosts = s.boosts := rfl
@[simp] theorem State.setChain_cooled (s : State) (n : Nat) (x : Chain) : (s.setChain n x).cooled = s.cooled := rfl
@[simp] theorem State.setChain_wire (s : State) (n : Nat) (x : Chain) : (s.setChain n x).wire = s.wire := rfl
@[simp] theorem State.setChain_fab (s : State) (n : Nat) (x : Chain) : (s.setChain n x).fab = s.fab := rfl
@[simp] theorem State.setChain_twin (s : State) (n : Nat) (x : Chain) : (s.setChain n x).twin = s.twin := rfl
@[simp] theorem State.setChain_lockRec (s : State) (n : Nat) (x : Chain) : (s.setChain n x).lockRec = s.lockRec := rfl
@[simp] theorem State.setChain_power (s : State) (n : Nat) (x : Chain) : (s.setChain n x).power = s.power := rfl
@[simp] theorem State.setChain_holdB (s : State) (n : Nat) (x : Chain) : (s.setChain n x).holdB = s.holdB := rfl
@[simp] theorem State.setChain_holdC (s : State) (n : Nat) (x : Chain) : (s.setChain n x).holdC = s.holdC := rfl
@[simp] theorem State.setChain_threads (s : State) (n : Nat) (x : Chain) : (s.setChain n x).threads = s.threads := rfl
@[simp] theorem State.setChain_imem (s : State) (n : Nat) (x : Chain) : (s.setChain n x).imem = s.imem := rfl
@[simp] theorem State.setChain_dmem (s : State) (n : Nat) (x : Chain) : (s.setChain n x).dmem = s.dmem := rfl
@[simp] theorem State.setChain_dmemDirty (s : State) (n : Nat) (x : Chain) : (s.setChain n x).dmemDirty = s.dmemDirty := rfl
@[simp] theorem State.setChain_memErrs (s : State) (n : Nat) (x : Chain) : (s.setChain n x).memErrs = s.memErrs := rfl
@[simp] theorem State.setChain_bluCycles (s : State) (n : Nat) (x : Chain) : (s.setChain n x).bluCycles = s.bluCycles := rfl
@[simp] theorem State.setChain_bluSeq (s : State) (n : Nat) (x : Chain) : (s.setChain n x).bluSeq = s.bluSeq := rfl
@[simp] theorem State.setChain_poQueue (s : State) (n : Nat) (x : Chain) : (s.setChain n x).poQueue = s.poQueue := rfl
@[simp] theorem State.setChain_phiTrail (s : State) (n : Nat) (x : Chain) : (s.setChain n x).phiTrail = s.phiTrail := rfl
@[simp] theorem State.setChain_canary (s : State) (n : Nat) (x : Chain) : (s.setChain n x).canary = s.canary := rfl
@[simp] theorem State.setChain_aon (s : State) (n : Nat) (x : Chain) : (s.setChain n x).aon = s.aon := rfl
@[simp] theorem State.setChain_wakeAt (s : State) (n : Nat) (x : Chain) : (s.setChain n x).wakeAt = s.wakeAt := rfl
@[simp] theorem State.setChain_watchNext (s : State) (n : Nat) (x : Chain) : (s.setChain n x).watchNext = s.watchNext := rfl
@[simp] theorem State.setChain_saved (s : State) (n : Nat) (x : Chain) : (s.setChain n x).saved = s.saved := rfl
@[simp] theorem State.setChain_products (s : State) (n : Nat) (x : Chain) : (s.setChain n x).products = s.products := rfl
@[simp] theorem State.setChain_prodWas (s : State) (n : Nat) (x : Chain) : (s.setChain n x).prodWas = s.prodWas := rfl
@[simp] theorem State.setChain_arrivals (s : State) (n : Nat) (x : Chain) : (s.setChain n x).arrivals = s.arrivals := rfl
@[simp] theorem State.setChain_prodFresh (s : State) (n : Nat) (x : Chain) : (s.setChain n x).prodFresh = s.prodFresh := rfl
@[simp] theorem State.setChain_prodFree (s : State) (n : Nat) (x : Chain) : (s.setChain n x).prodFree = s.prodFree := rfl
@[simp] theorem State.setChain_pidSeq (s : State) (n : Nat) (x : Chain) : (s.setChain n x).pidSeq = s.pidSeq := rfl
@[simp] theorem State.setChain_ephLanes (s : State) (n : Nat) (x : Chain) : (s.setChain n x).ephLanes = s.ephLanes := rfl
@[simp] theorem State.setChain_stnTick (s : State) (n : Nat) (x : Chain) : (s.setChain n x).stnTick = s.stnTick := rfl
@[simp] theorem State.setChain_storeFullAt (s : State) (n : Nat) (x : Chain) : (s.setChain n x).storeFullAt = s.storeFullAt := rfl
@[simp] theorem State.setChain_handoffs (s : State) (n : Nat) (x : Chain) : (s.setChain n x).handoffs = s.handoffs := rfl
@[simp] theorem State.setChain_pidsSeen (s : State) (n : Nat) (x : Chain) : (s.setChain n x).pidsSeen = s.pidsSeen := rfl
@[simp] theorem State.setChain_jobs (s : State) (n : Nat) (x : Chain) : (s.setChain n x).jobs = s.jobs := rfl
@[simp] theorem State.setChain_nextJob (s : State) (n : Nat) (x : Chain) : (s.setChain n x).nextJob = s.nextJob := rfl
@[simp] theorem State.setChain_serialsIn (s : State) (n : Nat) (x : Chain) : (s.setChain n x).serialsIn = s.serialsIn := rfl
@[simp] theorem State.setChain_reservationAcks (s : State) (n : Nat) (x : Chain) : (s.setChain n x).reservationAcks = s.reservationAcks := rfl
@[simp] theorem State.setChain_gens (s : State) (n : Nat) (x : Chain) : (s.setChain n x).gens = s.gens := rfl
@[simp] theorem State.setChain_heldCal (s : State) (n : Nat) (x : Chain) : (s.setChain n x).heldCal = s.heldCal := rfl
@[simp] theorem State.setChain_noDateOn (s : State) (n : Nat) (x : Chain) : (s.setChain n x).noDateOn = s.noDateOn := rfl
@[simp] theorem State.setChain_raster (s : State) (n : Nat) (x : Chain) : (s.setChain n x).raster = s.raster := rfl
@[simp] theorem State.setChain_pool (s : State) (n : Nat) (x : Chain) : (s.setChain n x).pool = s.pool := rfl
@[simp] theorem State.setChain_poison (s : State) (n : Nat) (x : Chain) : (s.setChain n x).poison = s.poison := rfl
@[simp] theorem State.setChain_extents (s : State) (n : Nat) (x : Chain) : (s.setChain n x).extents = s.extents := rfl
@[simp] theorem State.setChain_dmas (s : State) (n : Nat) (x : Chain) : (s.setChain n x).dmas = s.dmas := rfl
@[simp] theorem State.setChain_scrubPos (s : State) (n : Nat) (x : Chain) : (s.setChain n x).scrubPos = s.scrubPos := rfl
@[simp] theorem State.setChain_boot (s : State) (n : Nat) (x : Chain) : (s.setChain n x).boot = s.boot := rfl

@[simp] theorem State.setPwm_pending (s : State) (n : Nat) (x : Pwm) : (s.setPwm n x).pending = s.pending := rfl
@[simp] theorem State.setPwm_time (s : State) (n : Nat) (x : Pwm) : (s.setPwm n x).time = s.time := rfl
@[simp] theorem State.setPwm_regs (s : State) (n : Nat) (x : Pwm) : (s.setPwm n x).regs = s.regs := rfl
@[simp] theorem State.setPwm_free (s : State) (n : Nat) (x : Pwm) : (s.setPwm n x).free = s.free := rfl
@[simp] theorem State.setPwm_completion (s : State) (n : Nat) (x : Pwm) : (s.setPwm n x).completion = s.completion := rfl
@[simp] theorem State.setPwm_liveWas (s : State) (n : Nat) (x : Pwm) : (s.setPwm n x).liveWas = s.liveWas := rfl
@[simp] theorem State.setPwm_shutdown (s : State) (n : Nat) (x : Pwm) : (s.setPwm n x).shutdown = s.shutdown := rfl
@[simp] theorem State.setPwm_leaseOk (s : State) (n : Nat) (x : Pwm) : (s.setPwm n x).leaseOk = s.leaseOk := rfl
@[simp] theorem State.setPwm_shafts (s : State) (n : Nat) (x : Pwm) : (s.setPwm n x).shafts = s.shafts := rfl
@[simp] theorem State.setPwm_ports (s : State) (n : Nat) (x : Pwm) : (s.setPwm n x).ports = s.ports := rfl
@[simp] theorem State.setPwm_cells (s : State) (n : Nat) (x : Pwm) : (s.setPwm n x).cells = s.cells := rfl
@[simp] theorem State.setPwm_events (s : State) (n : Nat) (x : Pwm) : (s.setPwm n x).events = s.events := rfl
@[simp] theorem State.setPwm_almQueue (s : State) (n : Nat) (x : Pwm) : (s.setPwm n x).almQueue = s.almQueue := rfl
@[simp] theorem State.setPwm_almWork (s : State) (n : Nat) (x : Pwm) : (s.setPwm n x).almWork = s.almWork := rfl
@[simp] theorem State.setPwm_leadEl (s : State) (n : Nat) (x : Pwm) : (s.setPwm n x).leadEl = s.leadEl := rfl
@[simp] theorem State.setPwm_leadPo (s : State) (n : Nat) (x : Pwm) : (s.setPwm n x).leadPo = s.leadPo := rfl
@[simp] theorem State.setPwm_outs (s : State) (n : Nat) (x : Pwm) : (s.setPwm n x).outs = s.outs := rfl
@[simp] theorem State.setPwm_lines (s : State) (n : Nat) (x : Pwm) : (s.setPwm n x).lines = s.lines := rfl
@[simp] theorem State.setPwm_lineAt (s : State) (n : Nat) (x : Pwm) : (s.setPwm n x).lineAt = s.lineAt := rfl
@[simp] theorem State.setPwm_actOld (s : State) (n : Nat) (x : Pwm) : (s.setPwm n x).actOld = s.actOld := rfl
@[simp] theorem State.setPwm_chains (s : State) (n : Nat) (x : Pwm) : (s.setPwm n x).chains = s.chains := rfl
@[simp] theorem State.setPwm_trips (s : State) (n : Nat) (x : Pwm) : (s.setPwm n x).trips = s.trips := rfl
@[simp] theorem State.setPwm_adcs (s : State) (n : Nat) (x : Pwm) : (s.setPwm n x).adcs = s.adcs := rfl
@[simp] theorem State.setPwm_fresh (s : State) (n : Nat) (x : Pwm) : (s.setPwm n x).fresh = s.fresh := rfl
@[simp] theorem State.setPwm_ntf (s : State) (n : Nat) (x : Pwm) : (s.setPwm n x).ntf = s.ntf := rfl
@[simp] theorem State.setPwm_ntfTgt (s : State) (n : Nat) (x : Pwm) : (s.setPwm n x).ntfTgt = s.ntfTgt := rfl
@[simp] theorem State.setPwm_faults (s : State) (n : Nat) (x : Pwm) : (s.setPwm n x).faults = s.faults := rfl
@[simp] theorem State.setPwm_staging (s : State) (n : Nat) (x : Pwm) : (s.setPwm n x).staging = s.staging := rfl
@[simp] theorem State.setPwm_flash (s : State) (n : Nat) (x : Pwm) : (s.setPwm n x).flash = s.flash := rfl
@[simp] theorem State.setPwm_flogSeq (s : State) (n : Nat) (x : Pwm) : (s.setPwm n x).flogSeq = s.flogSeq := rfl
@[simp] theorem State.setPwm_logAt (s : State) (n : Nat) (x : Pwm) : (s.setPwm n x).logAt = s.logAt := rfl
@[simp] theorem State.setPwm_selAt (s : State) (n : Nat) (x : Pwm) : (s.setPwm n x).selAt = s.selAt := rfl
@[simp] theorem State.setPwm_safeAt (s : State) (n : Nat) (x : Pwm) : (s.setPwm n x).safeAt = s.safeAt := rfl
@[simp] theorem State.setPwm_permitted (s : State) (n : Nat) (x : Pwm) : (s.setPwm n x).permitted = s.permitted := rfl
@[simp] theorem State.setPwm_tallies (s : State) (n : Nat) (x : Pwm) : (s.setPwm n x).tallies = s.tallies := rfl
@[simp] theorem State.setPwm_tallyMram (s : State) (n : Nat) (x : Pwm) : (s.setPwm n x).tallyMram = s.tallyMram := rfl
@[simp] theorem State.setPwm_cal (s : State) (n : Nat) (x : Pwm) : (s.setPwm n x).cal = s.cal := rfl
@[simp] theorem State.setPwm_calErr (s : State) (n : Nat) (x : Pwm) : (s.setPwm n x).calErr = s.calErr := rfl
@[simp] theorem State.setPwm_calSet (s : State) (n : Nat) (x : Pwm) : (s.setPwm n x).calSet = s.calSet := rfl
@[simp] theorem State.setPwm_leapNow (s : State) (n : Nat) (x : Pwm) : (s.setPwm n x).leapNow = s.leapNow := rfl
@[simp] theorem State.setPwm_refLoaded (s : State) (n : Nat) (x : Pwm) : (s.setPwm n x).refLoaded = s.refLoaded := rfl
@[simp] theorem State.setPwm_lastFlush (s : State) (n : Nat) (x : Pwm) : (s.setPwm n x).lastFlush = s.lastFlush := rfl
@[simp] theorem State.setPwm_tmap (s : State) (n : Nat) (x : Pwm) : (s.setPwm n x).tmap = s.tmap := rfl
@[simp] theorem State.setPwm_gaps (s : State) (n : Nat) (x : Pwm) : (s.setPwm n x).gaps = s.gaps := rfl
@[simp] theorem State.setPwm_gapSeq (s : State) (n : Nat) (x : Pwm) : (s.setPwm n x).gapSeq = s.gapSeq := rfl
@[simp] theorem State.setPwm_slots (s : State) (n : Nat) (x : Pwm) : (s.setPwm n x).slots = s.slots := rfl
@[simp] theorem State.setPwm_sessions (s : State) (n : Nat) (x : Pwm) : (s.setPwm n x).sessions = s.sessions := rfl
@[simp] theorem State.setPwm_flights (s : State) (n : Nat) (x : Pwm) : (s.setPwm n x).flights = s.flights := rfl
@[simp] theorem State.setPwm_nextFlight (s : State) (n : Nat) (x : Pwm) : (s.setPwm n x).nextFlight = s.nextFlight := rfl
@[simp] theorem State.setPwm_txns (s : State) (n : Nat) (x : Pwm) : (s.setPwm n x).txns = s.txns := rfl
@[simp] theorem State.setPwm_nextTxn (s : State) (n : Nat) (x : Pwm) : (s.setPwm n x).nextTxn = s.nextTxn := rfl
@[simp] theorem State.setPwm_txnEnded (s : State) (n : Nat) (x : Pwm) : (s.setPwm n x).txnEnded = s.txnEnded := rfl
@[simp] theorem State.setPwm_levelTo (s : State) (n : Nat) (x : Pwm) : (s.setPwm n x).levelTo = s.levelTo := rfl
@[simp] theorem State.setPwm_periodNo (s : State) (n : Nat) (x : Pwm) : (s.setPwm n x).periodNo = s.periodNo := rfl
@[simp] theorem State.setPwm_boosts (s : State) (n : Nat) (x : Pwm) : (s.setPwm n x).boosts = s.boosts := rfl
@[simp] theorem State.setPwm_cooled (s : State) (n : Nat) (x : Pwm) : (s.setPwm n x).cooled = s.cooled := rfl
@[simp] theorem State.setPwm_wire (s : State) (n : Nat) (x : Pwm) : (s.setPwm n x).wire = s.wire := rfl
@[simp] theorem State.setPwm_fab (s : State) (n : Nat) (x : Pwm) : (s.setPwm n x).fab = s.fab := rfl
@[simp] theorem State.setPwm_twin (s : State) (n : Nat) (x : Pwm) : (s.setPwm n x).twin = s.twin := rfl
@[simp] theorem State.setPwm_lockRec (s : State) (n : Nat) (x : Pwm) : (s.setPwm n x).lockRec = s.lockRec := rfl
@[simp] theorem State.setPwm_power (s : State) (n : Nat) (x : Pwm) : (s.setPwm n x).power = s.power := rfl
@[simp] theorem State.setPwm_holdB (s : State) (n : Nat) (x : Pwm) : (s.setPwm n x).holdB = s.holdB := rfl
@[simp] theorem State.setPwm_holdC (s : State) (n : Nat) (x : Pwm) : (s.setPwm n x).holdC = s.holdC := rfl
@[simp] theorem State.setPwm_threads (s : State) (n : Nat) (x : Pwm) : (s.setPwm n x).threads = s.threads := rfl
@[simp] theorem State.setPwm_imem (s : State) (n : Nat) (x : Pwm) : (s.setPwm n x).imem = s.imem := rfl
@[simp] theorem State.setPwm_dmem (s : State) (n : Nat) (x : Pwm) : (s.setPwm n x).dmem = s.dmem := rfl
@[simp] theorem State.setPwm_dmemDirty (s : State) (n : Nat) (x : Pwm) : (s.setPwm n x).dmemDirty = s.dmemDirty := rfl
@[simp] theorem State.setPwm_memErrs (s : State) (n : Nat) (x : Pwm) : (s.setPwm n x).memErrs = s.memErrs := rfl
@[simp] theorem State.setPwm_bluCycles (s : State) (n : Nat) (x : Pwm) : (s.setPwm n x).bluCycles = s.bluCycles := rfl
@[simp] theorem State.setPwm_bluSeq (s : State) (n : Nat) (x : Pwm) : (s.setPwm n x).bluSeq = s.bluSeq := rfl
@[simp] theorem State.setPwm_poQueue (s : State) (n : Nat) (x : Pwm) : (s.setPwm n x).poQueue = s.poQueue := rfl
@[simp] theorem State.setPwm_phiTrail (s : State) (n : Nat) (x : Pwm) : (s.setPwm n x).phiTrail = s.phiTrail := rfl
@[simp] theorem State.setPwm_canary (s : State) (n : Nat) (x : Pwm) : (s.setPwm n x).canary = s.canary := rfl
@[simp] theorem State.setPwm_aon (s : State) (n : Nat) (x : Pwm) : (s.setPwm n x).aon = s.aon := rfl
@[simp] theorem State.setPwm_wakeAt (s : State) (n : Nat) (x : Pwm) : (s.setPwm n x).wakeAt = s.wakeAt := rfl
@[simp] theorem State.setPwm_watchNext (s : State) (n : Nat) (x : Pwm) : (s.setPwm n x).watchNext = s.watchNext := rfl
@[simp] theorem State.setPwm_saved (s : State) (n : Nat) (x : Pwm) : (s.setPwm n x).saved = s.saved := rfl
@[simp] theorem State.setPwm_products (s : State) (n : Nat) (x : Pwm) : (s.setPwm n x).products = s.products := rfl
@[simp] theorem State.setPwm_prodWas (s : State) (n : Nat) (x : Pwm) : (s.setPwm n x).prodWas = s.prodWas := rfl
@[simp] theorem State.setPwm_arrivals (s : State) (n : Nat) (x : Pwm) : (s.setPwm n x).arrivals = s.arrivals := rfl
@[simp] theorem State.setPwm_prodFresh (s : State) (n : Nat) (x : Pwm) : (s.setPwm n x).prodFresh = s.prodFresh := rfl
@[simp] theorem State.setPwm_prodFree (s : State) (n : Nat) (x : Pwm) : (s.setPwm n x).prodFree = s.prodFree := rfl
@[simp] theorem State.setPwm_pidSeq (s : State) (n : Nat) (x : Pwm) : (s.setPwm n x).pidSeq = s.pidSeq := rfl
@[simp] theorem State.setPwm_ephLanes (s : State) (n : Nat) (x : Pwm) : (s.setPwm n x).ephLanes = s.ephLanes := rfl
@[simp] theorem State.setPwm_stnTick (s : State) (n : Nat) (x : Pwm) : (s.setPwm n x).stnTick = s.stnTick := rfl
@[simp] theorem State.setPwm_storeFullAt (s : State) (n : Nat) (x : Pwm) : (s.setPwm n x).storeFullAt = s.storeFullAt := rfl
@[simp] theorem State.setPwm_handoffs (s : State) (n : Nat) (x : Pwm) : (s.setPwm n x).handoffs = s.handoffs := rfl
@[simp] theorem State.setPwm_pidsSeen (s : State) (n : Nat) (x : Pwm) : (s.setPwm n x).pidsSeen = s.pidsSeen := rfl
@[simp] theorem State.setPwm_jobs (s : State) (n : Nat) (x : Pwm) : (s.setPwm n x).jobs = s.jobs := rfl
@[simp] theorem State.setPwm_nextJob (s : State) (n : Nat) (x : Pwm) : (s.setPwm n x).nextJob = s.nextJob := rfl
@[simp] theorem State.setPwm_serialsIn (s : State) (n : Nat) (x : Pwm) : (s.setPwm n x).serialsIn = s.serialsIn := rfl
@[simp] theorem State.setPwm_reservationAcks (s : State) (n : Nat) (x : Pwm) : (s.setPwm n x).reservationAcks = s.reservationAcks := rfl
@[simp] theorem State.setPwm_gens (s : State) (n : Nat) (x : Pwm) : (s.setPwm n x).gens = s.gens := rfl
@[simp] theorem State.setPwm_heldCal (s : State) (n : Nat) (x : Pwm) : (s.setPwm n x).heldCal = s.heldCal := rfl
@[simp] theorem State.setPwm_noDateOn (s : State) (n : Nat) (x : Pwm) : (s.setPwm n x).noDateOn = s.noDateOn := rfl
@[simp] theorem State.setPwm_raster (s : State) (n : Nat) (x : Pwm) : (s.setPwm n x).raster = s.raster := rfl
@[simp] theorem State.setPwm_pool (s : State) (n : Nat) (x : Pwm) : (s.setPwm n x).pool = s.pool := rfl
@[simp] theorem State.setPwm_poison (s : State) (n : Nat) (x : Pwm) : (s.setPwm n x).poison = s.poison := rfl
@[simp] theorem State.setPwm_extents (s : State) (n : Nat) (x : Pwm) : (s.setPwm n x).extents = s.extents := rfl
@[simp] theorem State.setPwm_dmas (s : State) (n : Nat) (x : Pwm) : (s.setPwm n x).dmas = s.dmas := rfl
@[simp] theorem State.setPwm_scrubPos (s : State) (n : Nat) (x : Pwm) : (s.setPwm n x).scrubPos = s.scrubPos := rfl
@[simp] theorem State.setPwm_boot (s : State) (n : Nat) (x : Pwm) : (s.setPwm n x).boot = s.boot := rfl

@[simp] theorem State.setTrip_pending (s : State) (n : Nat) (x : TripIn) : (s.setTrip n x).pending = s.pending := rfl
@[simp] theorem State.setTrip_time (s : State) (n : Nat) (x : TripIn) : (s.setTrip n x).time = s.time := rfl
@[simp] theorem State.setTrip_regs (s : State) (n : Nat) (x : TripIn) : (s.setTrip n x).regs = s.regs := rfl
@[simp] theorem State.setTrip_free (s : State) (n : Nat) (x : TripIn) : (s.setTrip n x).free = s.free := rfl
@[simp] theorem State.setTrip_completion (s : State) (n : Nat) (x : TripIn) : (s.setTrip n x).completion = s.completion := rfl
@[simp] theorem State.setTrip_liveWas (s : State) (n : Nat) (x : TripIn) : (s.setTrip n x).liveWas = s.liveWas := rfl
@[simp] theorem State.setTrip_shutdown (s : State) (n : Nat) (x : TripIn) : (s.setTrip n x).shutdown = s.shutdown := rfl
@[simp] theorem State.setTrip_leaseOk (s : State) (n : Nat) (x : TripIn) : (s.setTrip n x).leaseOk = s.leaseOk := rfl
@[simp] theorem State.setTrip_shafts (s : State) (n : Nat) (x : TripIn) : (s.setTrip n x).shafts = s.shafts := rfl
@[simp] theorem State.setTrip_ports (s : State) (n : Nat) (x : TripIn) : (s.setTrip n x).ports = s.ports := rfl
@[simp] theorem State.setTrip_cells (s : State) (n : Nat) (x : TripIn) : (s.setTrip n x).cells = s.cells := rfl
@[simp] theorem State.setTrip_events (s : State) (n : Nat) (x : TripIn) : (s.setTrip n x).events = s.events := rfl
@[simp] theorem State.setTrip_almQueue (s : State) (n : Nat) (x : TripIn) : (s.setTrip n x).almQueue = s.almQueue := rfl
@[simp] theorem State.setTrip_almWork (s : State) (n : Nat) (x : TripIn) : (s.setTrip n x).almWork = s.almWork := rfl
@[simp] theorem State.setTrip_leadEl (s : State) (n : Nat) (x : TripIn) : (s.setTrip n x).leadEl = s.leadEl := rfl
@[simp] theorem State.setTrip_leadPo (s : State) (n : Nat) (x : TripIn) : (s.setTrip n x).leadPo = s.leadPo := rfl
@[simp] theorem State.setTrip_outs (s : State) (n : Nat) (x : TripIn) : (s.setTrip n x).outs = s.outs := rfl
@[simp] theorem State.setTrip_lines (s : State) (n : Nat) (x : TripIn) : (s.setTrip n x).lines = s.lines := rfl
@[simp] theorem State.setTrip_lineAt (s : State) (n : Nat) (x : TripIn) : (s.setTrip n x).lineAt = s.lineAt := rfl
@[simp] theorem State.setTrip_actOld (s : State) (n : Nat) (x : TripIn) : (s.setTrip n x).actOld = s.actOld := rfl
@[simp] theorem State.setTrip_chains (s : State) (n : Nat) (x : TripIn) : (s.setTrip n x).chains = s.chains := rfl
@[simp] theorem State.setTrip_pwms (s : State) (n : Nat) (x : TripIn) : (s.setTrip n x).pwms = s.pwms := rfl
@[simp] theorem State.setTrip_adcs (s : State) (n : Nat) (x : TripIn) : (s.setTrip n x).adcs = s.adcs := rfl
@[simp] theorem State.setTrip_fresh (s : State) (n : Nat) (x : TripIn) : (s.setTrip n x).fresh = s.fresh := rfl
@[simp] theorem State.setTrip_ntf (s : State) (n : Nat) (x : TripIn) : (s.setTrip n x).ntf = s.ntf := rfl
@[simp] theorem State.setTrip_ntfTgt (s : State) (n : Nat) (x : TripIn) : (s.setTrip n x).ntfTgt = s.ntfTgt := rfl
@[simp] theorem State.setTrip_faults (s : State) (n : Nat) (x : TripIn) : (s.setTrip n x).faults = s.faults := rfl
@[simp] theorem State.setTrip_staging (s : State) (n : Nat) (x : TripIn) : (s.setTrip n x).staging = s.staging := rfl
@[simp] theorem State.setTrip_flash (s : State) (n : Nat) (x : TripIn) : (s.setTrip n x).flash = s.flash := rfl
@[simp] theorem State.setTrip_flogSeq (s : State) (n : Nat) (x : TripIn) : (s.setTrip n x).flogSeq = s.flogSeq := rfl
@[simp] theorem State.setTrip_logAt (s : State) (n : Nat) (x : TripIn) : (s.setTrip n x).logAt = s.logAt := rfl
@[simp] theorem State.setTrip_selAt (s : State) (n : Nat) (x : TripIn) : (s.setTrip n x).selAt = s.selAt := rfl
@[simp] theorem State.setTrip_safeAt (s : State) (n : Nat) (x : TripIn) : (s.setTrip n x).safeAt = s.safeAt := rfl
@[simp] theorem State.setTrip_permitted (s : State) (n : Nat) (x : TripIn) : (s.setTrip n x).permitted = s.permitted := rfl
@[simp] theorem State.setTrip_tallies (s : State) (n : Nat) (x : TripIn) : (s.setTrip n x).tallies = s.tallies := rfl
@[simp] theorem State.setTrip_tallyMram (s : State) (n : Nat) (x : TripIn) : (s.setTrip n x).tallyMram = s.tallyMram := rfl
@[simp] theorem State.setTrip_cal (s : State) (n : Nat) (x : TripIn) : (s.setTrip n x).cal = s.cal := rfl
@[simp] theorem State.setTrip_calErr (s : State) (n : Nat) (x : TripIn) : (s.setTrip n x).calErr = s.calErr := rfl
@[simp] theorem State.setTrip_calSet (s : State) (n : Nat) (x : TripIn) : (s.setTrip n x).calSet = s.calSet := rfl
@[simp] theorem State.setTrip_leapNow (s : State) (n : Nat) (x : TripIn) : (s.setTrip n x).leapNow = s.leapNow := rfl
@[simp] theorem State.setTrip_refLoaded (s : State) (n : Nat) (x : TripIn) : (s.setTrip n x).refLoaded = s.refLoaded := rfl
@[simp] theorem State.setTrip_lastFlush (s : State) (n : Nat) (x : TripIn) : (s.setTrip n x).lastFlush = s.lastFlush := rfl
@[simp] theorem State.setTrip_tmap (s : State) (n : Nat) (x : TripIn) : (s.setTrip n x).tmap = s.tmap := rfl
@[simp] theorem State.setTrip_gaps (s : State) (n : Nat) (x : TripIn) : (s.setTrip n x).gaps = s.gaps := rfl
@[simp] theorem State.setTrip_gapSeq (s : State) (n : Nat) (x : TripIn) : (s.setTrip n x).gapSeq = s.gapSeq := rfl
@[simp] theorem State.setTrip_slots (s : State) (n : Nat) (x : TripIn) : (s.setTrip n x).slots = s.slots := rfl
@[simp] theorem State.setTrip_sessions (s : State) (n : Nat) (x : TripIn) : (s.setTrip n x).sessions = s.sessions := rfl
@[simp] theorem State.setTrip_flights (s : State) (n : Nat) (x : TripIn) : (s.setTrip n x).flights = s.flights := rfl
@[simp] theorem State.setTrip_nextFlight (s : State) (n : Nat) (x : TripIn) : (s.setTrip n x).nextFlight = s.nextFlight := rfl
@[simp] theorem State.setTrip_txns (s : State) (n : Nat) (x : TripIn) : (s.setTrip n x).txns = s.txns := rfl
@[simp] theorem State.setTrip_nextTxn (s : State) (n : Nat) (x : TripIn) : (s.setTrip n x).nextTxn = s.nextTxn := rfl
@[simp] theorem State.setTrip_txnEnded (s : State) (n : Nat) (x : TripIn) : (s.setTrip n x).txnEnded = s.txnEnded := rfl
@[simp] theorem State.setTrip_levelTo (s : State) (n : Nat) (x : TripIn) : (s.setTrip n x).levelTo = s.levelTo := rfl
@[simp] theorem State.setTrip_periodNo (s : State) (n : Nat) (x : TripIn) : (s.setTrip n x).periodNo = s.periodNo := rfl
@[simp] theorem State.setTrip_boosts (s : State) (n : Nat) (x : TripIn) : (s.setTrip n x).boosts = s.boosts := rfl
@[simp] theorem State.setTrip_cooled (s : State) (n : Nat) (x : TripIn) : (s.setTrip n x).cooled = s.cooled := rfl
@[simp] theorem State.setTrip_wire (s : State) (n : Nat) (x : TripIn) : (s.setTrip n x).wire = s.wire := rfl
@[simp] theorem State.setTrip_fab (s : State) (n : Nat) (x : TripIn) : (s.setTrip n x).fab = s.fab := rfl
@[simp] theorem State.setTrip_twin (s : State) (n : Nat) (x : TripIn) : (s.setTrip n x).twin = s.twin := rfl
@[simp] theorem State.setTrip_lockRec (s : State) (n : Nat) (x : TripIn) : (s.setTrip n x).lockRec = s.lockRec := rfl
@[simp] theorem State.setTrip_power (s : State) (n : Nat) (x : TripIn) : (s.setTrip n x).power = s.power := rfl
@[simp] theorem State.setTrip_holdB (s : State) (n : Nat) (x : TripIn) : (s.setTrip n x).holdB = s.holdB := rfl
@[simp] theorem State.setTrip_holdC (s : State) (n : Nat) (x : TripIn) : (s.setTrip n x).holdC = s.holdC := rfl
@[simp] theorem State.setTrip_threads (s : State) (n : Nat) (x : TripIn) : (s.setTrip n x).threads = s.threads := rfl
@[simp] theorem State.setTrip_imem (s : State) (n : Nat) (x : TripIn) : (s.setTrip n x).imem = s.imem := rfl
@[simp] theorem State.setTrip_dmem (s : State) (n : Nat) (x : TripIn) : (s.setTrip n x).dmem = s.dmem := rfl
@[simp] theorem State.setTrip_dmemDirty (s : State) (n : Nat) (x : TripIn) : (s.setTrip n x).dmemDirty = s.dmemDirty := rfl
@[simp] theorem State.setTrip_memErrs (s : State) (n : Nat) (x : TripIn) : (s.setTrip n x).memErrs = s.memErrs := rfl
@[simp] theorem State.setTrip_bluCycles (s : State) (n : Nat) (x : TripIn) : (s.setTrip n x).bluCycles = s.bluCycles := rfl
@[simp] theorem State.setTrip_bluSeq (s : State) (n : Nat) (x : TripIn) : (s.setTrip n x).bluSeq = s.bluSeq := rfl
@[simp] theorem State.setTrip_poQueue (s : State) (n : Nat) (x : TripIn) : (s.setTrip n x).poQueue = s.poQueue := rfl
@[simp] theorem State.setTrip_phiTrail (s : State) (n : Nat) (x : TripIn) : (s.setTrip n x).phiTrail = s.phiTrail := rfl
@[simp] theorem State.setTrip_canary (s : State) (n : Nat) (x : TripIn) : (s.setTrip n x).canary = s.canary := rfl
@[simp] theorem State.setTrip_aon (s : State) (n : Nat) (x : TripIn) : (s.setTrip n x).aon = s.aon := rfl
@[simp] theorem State.setTrip_wakeAt (s : State) (n : Nat) (x : TripIn) : (s.setTrip n x).wakeAt = s.wakeAt := rfl
@[simp] theorem State.setTrip_watchNext (s : State) (n : Nat) (x : TripIn) : (s.setTrip n x).watchNext = s.watchNext := rfl
@[simp] theorem State.setTrip_saved (s : State) (n : Nat) (x : TripIn) : (s.setTrip n x).saved = s.saved := rfl
@[simp] theorem State.setTrip_products (s : State) (n : Nat) (x : TripIn) : (s.setTrip n x).products = s.products := rfl
@[simp] theorem State.setTrip_prodWas (s : State) (n : Nat) (x : TripIn) : (s.setTrip n x).prodWas = s.prodWas := rfl
@[simp] theorem State.setTrip_arrivals (s : State) (n : Nat) (x : TripIn) : (s.setTrip n x).arrivals = s.arrivals := rfl
@[simp] theorem State.setTrip_prodFresh (s : State) (n : Nat) (x : TripIn) : (s.setTrip n x).prodFresh = s.prodFresh := rfl
@[simp] theorem State.setTrip_prodFree (s : State) (n : Nat) (x : TripIn) : (s.setTrip n x).prodFree = s.prodFree := rfl
@[simp] theorem State.setTrip_pidSeq (s : State) (n : Nat) (x : TripIn) : (s.setTrip n x).pidSeq = s.pidSeq := rfl
@[simp] theorem State.setTrip_ephLanes (s : State) (n : Nat) (x : TripIn) : (s.setTrip n x).ephLanes = s.ephLanes := rfl
@[simp] theorem State.setTrip_stnTick (s : State) (n : Nat) (x : TripIn) : (s.setTrip n x).stnTick = s.stnTick := rfl
@[simp] theorem State.setTrip_storeFullAt (s : State) (n : Nat) (x : TripIn) : (s.setTrip n x).storeFullAt = s.storeFullAt := rfl
@[simp] theorem State.setTrip_handoffs (s : State) (n : Nat) (x : TripIn) : (s.setTrip n x).handoffs = s.handoffs := rfl
@[simp] theorem State.setTrip_pidsSeen (s : State) (n : Nat) (x : TripIn) : (s.setTrip n x).pidsSeen = s.pidsSeen := rfl
@[simp] theorem State.setTrip_jobs (s : State) (n : Nat) (x : TripIn) : (s.setTrip n x).jobs = s.jobs := rfl
@[simp] theorem State.setTrip_nextJob (s : State) (n : Nat) (x : TripIn) : (s.setTrip n x).nextJob = s.nextJob := rfl
@[simp] theorem State.setTrip_serialsIn (s : State) (n : Nat) (x : TripIn) : (s.setTrip n x).serialsIn = s.serialsIn := rfl
@[simp] theorem State.setTrip_reservationAcks (s : State) (n : Nat) (x : TripIn) : (s.setTrip n x).reservationAcks = s.reservationAcks := rfl
@[simp] theorem State.setTrip_gens (s : State) (n : Nat) (x : TripIn) : (s.setTrip n x).gens = s.gens := rfl
@[simp] theorem State.setTrip_heldCal (s : State) (n : Nat) (x : TripIn) : (s.setTrip n x).heldCal = s.heldCal := rfl
@[simp] theorem State.setTrip_noDateOn (s : State) (n : Nat) (x : TripIn) : (s.setTrip n x).noDateOn = s.noDateOn := rfl
@[simp] theorem State.setTrip_raster (s : State) (n : Nat) (x : TripIn) : (s.setTrip n x).raster = s.raster := rfl
@[simp] theorem State.setTrip_pool (s : State) (n : Nat) (x : TripIn) : (s.setTrip n x).pool = s.pool := rfl
@[simp] theorem State.setTrip_poison (s : State) (n : Nat) (x : TripIn) : (s.setTrip n x).poison = s.poison := rfl
@[simp] theorem State.setTrip_extents (s : State) (n : Nat) (x : TripIn) : (s.setTrip n x).extents = s.extents := rfl
@[simp] theorem State.setTrip_dmas (s : State) (n : Nat) (x : TripIn) : (s.setTrip n x).dmas = s.dmas := rfl
@[simp] theorem State.setTrip_scrubPos (s : State) (n : Nat) (x : TripIn) : (s.setTrip n x).scrubPos = s.scrubPos := rfl
@[simp] theorem State.setTrip_boot (s : State) (n : Nat) (x : TripIn) : (s.setTrip n x).boot = s.boot := rfl

@[simp] theorem State.setAdc_pending (s : State) (n : Nat) (x : Adc) : (s.setAdc n x).pending = s.pending := rfl
@[simp] theorem State.setAdc_time (s : State) (n : Nat) (x : Adc) : (s.setAdc n x).time = s.time := rfl
@[simp] theorem State.setAdc_regs (s : State) (n : Nat) (x : Adc) : (s.setAdc n x).regs = s.regs := rfl
@[simp] theorem State.setAdc_free (s : State) (n : Nat) (x : Adc) : (s.setAdc n x).free = s.free := rfl
@[simp] theorem State.setAdc_completion (s : State) (n : Nat) (x : Adc) : (s.setAdc n x).completion = s.completion := rfl
@[simp] theorem State.setAdc_liveWas (s : State) (n : Nat) (x : Adc) : (s.setAdc n x).liveWas = s.liveWas := rfl
@[simp] theorem State.setAdc_shutdown (s : State) (n : Nat) (x : Adc) : (s.setAdc n x).shutdown = s.shutdown := rfl
@[simp] theorem State.setAdc_leaseOk (s : State) (n : Nat) (x : Adc) : (s.setAdc n x).leaseOk = s.leaseOk := rfl
@[simp] theorem State.setAdc_shafts (s : State) (n : Nat) (x : Adc) : (s.setAdc n x).shafts = s.shafts := rfl
@[simp] theorem State.setAdc_ports (s : State) (n : Nat) (x : Adc) : (s.setAdc n x).ports = s.ports := rfl
@[simp] theorem State.setAdc_cells (s : State) (n : Nat) (x : Adc) : (s.setAdc n x).cells = s.cells := rfl
@[simp] theorem State.setAdc_events (s : State) (n : Nat) (x : Adc) : (s.setAdc n x).events = s.events := rfl
@[simp] theorem State.setAdc_almQueue (s : State) (n : Nat) (x : Adc) : (s.setAdc n x).almQueue = s.almQueue := rfl
@[simp] theorem State.setAdc_almWork (s : State) (n : Nat) (x : Adc) : (s.setAdc n x).almWork = s.almWork := rfl
@[simp] theorem State.setAdc_leadEl (s : State) (n : Nat) (x : Adc) : (s.setAdc n x).leadEl = s.leadEl := rfl
@[simp] theorem State.setAdc_leadPo (s : State) (n : Nat) (x : Adc) : (s.setAdc n x).leadPo = s.leadPo := rfl
@[simp] theorem State.setAdc_outs (s : State) (n : Nat) (x : Adc) : (s.setAdc n x).outs = s.outs := rfl
@[simp] theorem State.setAdc_lines (s : State) (n : Nat) (x : Adc) : (s.setAdc n x).lines = s.lines := rfl
@[simp] theorem State.setAdc_lineAt (s : State) (n : Nat) (x : Adc) : (s.setAdc n x).lineAt = s.lineAt := rfl
@[simp] theorem State.setAdc_actOld (s : State) (n : Nat) (x : Adc) : (s.setAdc n x).actOld = s.actOld := rfl
@[simp] theorem State.setAdc_chains (s : State) (n : Nat) (x : Adc) : (s.setAdc n x).chains = s.chains := rfl
@[simp] theorem State.setAdc_pwms (s : State) (n : Nat) (x : Adc) : (s.setAdc n x).pwms = s.pwms := rfl
@[simp] theorem State.setAdc_trips (s : State) (n : Nat) (x : Adc) : (s.setAdc n x).trips = s.trips := rfl
@[simp] theorem State.setAdc_fresh (s : State) (n : Nat) (x : Adc) : (s.setAdc n x).fresh = s.fresh := rfl
@[simp] theorem State.setAdc_ntf (s : State) (n : Nat) (x : Adc) : (s.setAdc n x).ntf = s.ntf := rfl
@[simp] theorem State.setAdc_ntfTgt (s : State) (n : Nat) (x : Adc) : (s.setAdc n x).ntfTgt = s.ntfTgt := rfl
@[simp] theorem State.setAdc_faults (s : State) (n : Nat) (x : Adc) : (s.setAdc n x).faults = s.faults := rfl
@[simp] theorem State.setAdc_staging (s : State) (n : Nat) (x : Adc) : (s.setAdc n x).staging = s.staging := rfl
@[simp] theorem State.setAdc_flash (s : State) (n : Nat) (x : Adc) : (s.setAdc n x).flash = s.flash := rfl
@[simp] theorem State.setAdc_flogSeq (s : State) (n : Nat) (x : Adc) : (s.setAdc n x).flogSeq = s.flogSeq := rfl
@[simp] theorem State.setAdc_logAt (s : State) (n : Nat) (x : Adc) : (s.setAdc n x).logAt = s.logAt := rfl
@[simp] theorem State.setAdc_selAt (s : State) (n : Nat) (x : Adc) : (s.setAdc n x).selAt = s.selAt := rfl
@[simp] theorem State.setAdc_safeAt (s : State) (n : Nat) (x : Adc) : (s.setAdc n x).safeAt = s.safeAt := rfl
@[simp] theorem State.setAdc_permitted (s : State) (n : Nat) (x : Adc) : (s.setAdc n x).permitted = s.permitted := rfl
@[simp] theorem State.setAdc_tallies (s : State) (n : Nat) (x : Adc) : (s.setAdc n x).tallies = s.tallies := rfl
@[simp] theorem State.setAdc_tallyMram (s : State) (n : Nat) (x : Adc) : (s.setAdc n x).tallyMram = s.tallyMram := rfl
@[simp] theorem State.setAdc_cal (s : State) (n : Nat) (x : Adc) : (s.setAdc n x).cal = s.cal := rfl
@[simp] theorem State.setAdc_calErr (s : State) (n : Nat) (x : Adc) : (s.setAdc n x).calErr = s.calErr := rfl
@[simp] theorem State.setAdc_calSet (s : State) (n : Nat) (x : Adc) : (s.setAdc n x).calSet = s.calSet := rfl
@[simp] theorem State.setAdc_leapNow (s : State) (n : Nat) (x : Adc) : (s.setAdc n x).leapNow = s.leapNow := rfl
@[simp] theorem State.setAdc_refLoaded (s : State) (n : Nat) (x : Adc) : (s.setAdc n x).refLoaded = s.refLoaded := rfl
@[simp] theorem State.setAdc_lastFlush (s : State) (n : Nat) (x : Adc) : (s.setAdc n x).lastFlush = s.lastFlush := rfl
@[simp] theorem State.setAdc_tmap (s : State) (n : Nat) (x : Adc) : (s.setAdc n x).tmap = s.tmap := rfl
@[simp] theorem State.setAdc_gaps (s : State) (n : Nat) (x : Adc) : (s.setAdc n x).gaps = s.gaps := rfl
@[simp] theorem State.setAdc_gapSeq (s : State) (n : Nat) (x : Adc) : (s.setAdc n x).gapSeq = s.gapSeq := rfl
@[simp] theorem State.setAdc_slots (s : State) (n : Nat) (x : Adc) : (s.setAdc n x).slots = s.slots := rfl
@[simp] theorem State.setAdc_sessions (s : State) (n : Nat) (x : Adc) : (s.setAdc n x).sessions = s.sessions := rfl
@[simp] theorem State.setAdc_flights (s : State) (n : Nat) (x : Adc) : (s.setAdc n x).flights = s.flights := rfl
@[simp] theorem State.setAdc_nextFlight (s : State) (n : Nat) (x : Adc) : (s.setAdc n x).nextFlight = s.nextFlight := rfl
@[simp] theorem State.setAdc_txns (s : State) (n : Nat) (x : Adc) : (s.setAdc n x).txns = s.txns := rfl
@[simp] theorem State.setAdc_nextTxn (s : State) (n : Nat) (x : Adc) : (s.setAdc n x).nextTxn = s.nextTxn := rfl
@[simp] theorem State.setAdc_txnEnded (s : State) (n : Nat) (x : Adc) : (s.setAdc n x).txnEnded = s.txnEnded := rfl
@[simp] theorem State.setAdc_levelTo (s : State) (n : Nat) (x : Adc) : (s.setAdc n x).levelTo = s.levelTo := rfl
@[simp] theorem State.setAdc_periodNo (s : State) (n : Nat) (x : Adc) : (s.setAdc n x).periodNo = s.periodNo := rfl
@[simp] theorem State.setAdc_boosts (s : State) (n : Nat) (x : Adc) : (s.setAdc n x).boosts = s.boosts := rfl
@[simp] theorem State.setAdc_cooled (s : State) (n : Nat) (x : Adc) : (s.setAdc n x).cooled = s.cooled := rfl
@[simp] theorem State.setAdc_wire (s : State) (n : Nat) (x : Adc) : (s.setAdc n x).wire = s.wire := rfl
@[simp] theorem State.setAdc_fab (s : State) (n : Nat) (x : Adc) : (s.setAdc n x).fab = s.fab := rfl
@[simp] theorem State.setAdc_twin (s : State) (n : Nat) (x : Adc) : (s.setAdc n x).twin = s.twin := rfl
@[simp] theorem State.setAdc_lockRec (s : State) (n : Nat) (x : Adc) : (s.setAdc n x).lockRec = s.lockRec := rfl
@[simp] theorem State.setAdc_power (s : State) (n : Nat) (x : Adc) : (s.setAdc n x).power = s.power := rfl
@[simp] theorem State.setAdc_holdB (s : State) (n : Nat) (x : Adc) : (s.setAdc n x).holdB = s.holdB := rfl
@[simp] theorem State.setAdc_holdC (s : State) (n : Nat) (x : Adc) : (s.setAdc n x).holdC = s.holdC := rfl
@[simp] theorem State.setAdc_threads (s : State) (n : Nat) (x : Adc) : (s.setAdc n x).threads = s.threads := rfl
@[simp] theorem State.setAdc_imem (s : State) (n : Nat) (x : Adc) : (s.setAdc n x).imem = s.imem := rfl
@[simp] theorem State.setAdc_dmem (s : State) (n : Nat) (x : Adc) : (s.setAdc n x).dmem = s.dmem := rfl
@[simp] theorem State.setAdc_dmemDirty (s : State) (n : Nat) (x : Adc) : (s.setAdc n x).dmemDirty = s.dmemDirty := rfl
@[simp] theorem State.setAdc_memErrs (s : State) (n : Nat) (x : Adc) : (s.setAdc n x).memErrs = s.memErrs := rfl
@[simp] theorem State.setAdc_bluCycles (s : State) (n : Nat) (x : Adc) : (s.setAdc n x).bluCycles = s.bluCycles := rfl
@[simp] theorem State.setAdc_bluSeq (s : State) (n : Nat) (x : Adc) : (s.setAdc n x).bluSeq = s.bluSeq := rfl
@[simp] theorem State.setAdc_poQueue (s : State) (n : Nat) (x : Adc) : (s.setAdc n x).poQueue = s.poQueue := rfl
@[simp] theorem State.setAdc_phiTrail (s : State) (n : Nat) (x : Adc) : (s.setAdc n x).phiTrail = s.phiTrail := rfl
@[simp] theorem State.setAdc_canary (s : State) (n : Nat) (x : Adc) : (s.setAdc n x).canary = s.canary := rfl
@[simp] theorem State.setAdc_aon (s : State) (n : Nat) (x : Adc) : (s.setAdc n x).aon = s.aon := rfl
@[simp] theorem State.setAdc_wakeAt (s : State) (n : Nat) (x : Adc) : (s.setAdc n x).wakeAt = s.wakeAt := rfl
@[simp] theorem State.setAdc_watchNext (s : State) (n : Nat) (x : Adc) : (s.setAdc n x).watchNext = s.watchNext := rfl
@[simp] theorem State.setAdc_saved (s : State) (n : Nat) (x : Adc) : (s.setAdc n x).saved = s.saved := rfl
@[simp] theorem State.setAdc_products (s : State) (n : Nat) (x : Adc) : (s.setAdc n x).products = s.products := rfl
@[simp] theorem State.setAdc_prodWas (s : State) (n : Nat) (x : Adc) : (s.setAdc n x).prodWas = s.prodWas := rfl
@[simp] theorem State.setAdc_arrivals (s : State) (n : Nat) (x : Adc) : (s.setAdc n x).arrivals = s.arrivals := rfl
@[simp] theorem State.setAdc_prodFresh (s : State) (n : Nat) (x : Adc) : (s.setAdc n x).prodFresh = s.prodFresh := rfl
@[simp] theorem State.setAdc_prodFree (s : State) (n : Nat) (x : Adc) : (s.setAdc n x).prodFree = s.prodFree := rfl
@[simp] theorem State.setAdc_pidSeq (s : State) (n : Nat) (x : Adc) : (s.setAdc n x).pidSeq = s.pidSeq := rfl
@[simp] theorem State.setAdc_ephLanes (s : State) (n : Nat) (x : Adc) : (s.setAdc n x).ephLanes = s.ephLanes := rfl
@[simp] theorem State.setAdc_stnTick (s : State) (n : Nat) (x : Adc) : (s.setAdc n x).stnTick = s.stnTick := rfl
@[simp] theorem State.setAdc_storeFullAt (s : State) (n : Nat) (x : Adc) : (s.setAdc n x).storeFullAt = s.storeFullAt := rfl
@[simp] theorem State.setAdc_handoffs (s : State) (n : Nat) (x : Adc) : (s.setAdc n x).handoffs = s.handoffs := rfl
@[simp] theorem State.setAdc_pidsSeen (s : State) (n : Nat) (x : Adc) : (s.setAdc n x).pidsSeen = s.pidsSeen := rfl
@[simp] theorem State.setAdc_jobs (s : State) (n : Nat) (x : Adc) : (s.setAdc n x).jobs = s.jobs := rfl
@[simp] theorem State.setAdc_nextJob (s : State) (n : Nat) (x : Adc) : (s.setAdc n x).nextJob = s.nextJob := rfl
@[simp] theorem State.setAdc_serialsIn (s : State) (n : Nat) (x : Adc) : (s.setAdc n x).serialsIn = s.serialsIn := rfl
@[simp] theorem State.setAdc_reservationAcks (s : State) (n : Nat) (x : Adc) : (s.setAdc n x).reservationAcks = s.reservationAcks := rfl
@[simp] theorem State.setAdc_gens (s : State) (n : Nat) (x : Adc) : (s.setAdc n x).gens = s.gens := rfl
@[simp] theorem State.setAdc_heldCal (s : State) (n : Nat) (x : Adc) : (s.setAdc n x).heldCal = s.heldCal := rfl
@[simp] theorem State.setAdc_noDateOn (s : State) (n : Nat) (x : Adc) : (s.setAdc n x).noDateOn = s.noDateOn := rfl
@[simp] theorem State.setAdc_raster (s : State) (n : Nat) (x : Adc) : (s.setAdc n x).raster = s.raster := rfl
@[simp] theorem State.setAdc_pool (s : State) (n : Nat) (x : Adc) : (s.setAdc n x).pool = s.pool := rfl
@[simp] theorem State.setAdc_poison (s : State) (n : Nat) (x : Adc) : (s.setAdc n x).poison = s.poison := rfl
@[simp] theorem State.setAdc_extents (s : State) (n : Nat) (x : Adc) : (s.setAdc n x).extents = s.extents := rfl
@[simp] theorem State.setAdc_dmas (s : State) (n : Nat) (x : Adc) : (s.setAdc n x).dmas = s.dmas := rfl
@[simp] theorem State.setAdc_scrubPos (s : State) (n : Nat) (x : Adc) : (s.setAdc n x).scrubPos = s.scrubPos := rfl
@[simp] theorem State.setAdc_boot (s : State) (n : Nat) (x : Adc) : (s.setAdc n x).boot = s.boot := rfl

@[simp] theorem State.setSrc_pending (s : State) (n : Nat) (x : NtfSrc) : (s.setSrc n x).pending = s.pending := rfl
@[simp] theorem State.setSrc_time (s : State) (n : Nat) (x : NtfSrc) : (s.setSrc n x).time = s.time := rfl
@[simp] theorem State.setSrc_regs (s : State) (n : Nat) (x : NtfSrc) : (s.setSrc n x).regs = s.regs := rfl
@[simp] theorem State.setSrc_free (s : State) (n : Nat) (x : NtfSrc) : (s.setSrc n x).free = s.free := rfl
@[simp] theorem State.setSrc_completion (s : State) (n : Nat) (x : NtfSrc) : (s.setSrc n x).completion = s.completion := rfl
@[simp] theorem State.setSrc_liveWas (s : State) (n : Nat) (x : NtfSrc) : (s.setSrc n x).liveWas = s.liveWas := rfl
@[simp] theorem State.setSrc_shutdown (s : State) (n : Nat) (x : NtfSrc) : (s.setSrc n x).shutdown = s.shutdown := rfl
@[simp] theorem State.setSrc_leaseOk (s : State) (n : Nat) (x : NtfSrc) : (s.setSrc n x).leaseOk = s.leaseOk := rfl
@[simp] theorem State.setSrc_shafts (s : State) (n : Nat) (x : NtfSrc) : (s.setSrc n x).shafts = s.shafts := rfl
@[simp] theorem State.setSrc_ports (s : State) (n : Nat) (x : NtfSrc) : (s.setSrc n x).ports = s.ports := rfl
@[simp] theorem State.setSrc_cells (s : State) (n : Nat) (x : NtfSrc) : (s.setSrc n x).cells = s.cells := rfl
@[simp] theorem State.setSrc_events (s : State) (n : Nat) (x : NtfSrc) : (s.setSrc n x).events = s.events := rfl
@[simp] theorem State.setSrc_almQueue (s : State) (n : Nat) (x : NtfSrc) : (s.setSrc n x).almQueue = s.almQueue := rfl
@[simp] theorem State.setSrc_almWork (s : State) (n : Nat) (x : NtfSrc) : (s.setSrc n x).almWork = s.almWork := rfl
@[simp] theorem State.setSrc_leadEl (s : State) (n : Nat) (x : NtfSrc) : (s.setSrc n x).leadEl = s.leadEl := rfl
@[simp] theorem State.setSrc_leadPo (s : State) (n : Nat) (x : NtfSrc) : (s.setSrc n x).leadPo = s.leadPo := rfl
@[simp] theorem State.setSrc_outs (s : State) (n : Nat) (x : NtfSrc) : (s.setSrc n x).outs = s.outs := rfl
@[simp] theorem State.setSrc_lines (s : State) (n : Nat) (x : NtfSrc) : (s.setSrc n x).lines = s.lines := rfl
@[simp] theorem State.setSrc_lineAt (s : State) (n : Nat) (x : NtfSrc) : (s.setSrc n x).lineAt = s.lineAt := rfl
@[simp] theorem State.setSrc_actOld (s : State) (n : Nat) (x : NtfSrc) : (s.setSrc n x).actOld = s.actOld := rfl
@[simp] theorem State.setSrc_chains (s : State) (n : Nat) (x : NtfSrc) : (s.setSrc n x).chains = s.chains := rfl
@[simp] theorem State.setSrc_pwms (s : State) (n : Nat) (x : NtfSrc) : (s.setSrc n x).pwms = s.pwms := rfl
@[simp] theorem State.setSrc_trips (s : State) (n : Nat) (x : NtfSrc) : (s.setSrc n x).trips = s.trips := rfl
@[simp] theorem State.setSrc_adcs (s : State) (n : Nat) (x : NtfSrc) : (s.setSrc n x).adcs = s.adcs := rfl
@[simp] theorem State.setSrc_fresh (s : State) (n : Nat) (x : NtfSrc) : (s.setSrc n x).fresh = s.fresh := rfl
@[simp] theorem State.setSrc_ntfTgt (s : State) (n : Nat) (x : NtfSrc) : (s.setSrc n x).ntfTgt = s.ntfTgt := rfl
@[simp] theorem State.setSrc_faults (s : State) (n : Nat) (x : NtfSrc) : (s.setSrc n x).faults = s.faults := rfl
@[simp] theorem State.setSrc_staging (s : State) (n : Nat) (x : NtfSrc) : (s.setSrc n x).staging = s.staging := rfl
@[simp] theorem State.setSrc_flash (s : State) (n : Nat) (x : NtfSrc) : (s.setSrc n x).flash = s.flash := rfl
@[simp] theorem State.setSrc_flogSeq (s : State) (n : Nat) (x : NtfSrc) : (s.setSrc n x).flogSeq = s.flogSeq := rfl
@[simp] theorem State.setSrc_logAt (s : State) (n : Nat) (x : NtfSrc) : (s.setSrc n x).logAt = s.logAt := rfl
@[simp] theorem State.setSrc_selAt (s : State) (n : Nat) (x : NtfSrc) : (s.setSrc n x).selAt = s.selAt := rfl
@[simp] theorem State.setSrc_safeAt (s : State) (n : Nat) (x : NtfSrc) : (s.setSrc n x).safeAt = s.safeAt := rfl
@[simp] theorem State.setSrc_permitted (s : State) (n : Nat) (x : NtfSrc) : (s.setSrc n x).permitted = s.permitted := rfl
@[simp] theorem State.setSrc_tallies (s : State) (n : Nat) (x : NtfSrc) : (s.setSrc n x).tallies = s.tallies := rfl
@[simp] theorem State.setSrc_tallyMram (s : State) (n : Nat) (x : NtfSrc) : (s.setSrc n x).tallyMram = s.tallyMram := rfl
@[simp] theorem State.setSrc_cal (s : State) (n : Nat) (x : NtfSrc) : (s.setSrc n x).cal = s.cal := rfl
@[simp] theorem State.setSrc_calErr (s : State) (n : Nat) (x : NtfSrc) : (s.setSrc n x).calErr = s.calErr := rfl
@[simp] theorem State.setSrc_calSet (s : State) (n : Nat) (x : NtfSrc) : (s.setSrc n x).calSet = s.calSet := rfl
@[simp] theorem State.setSrc_leapNow (s : State) (n : Nat) (x : NtfSrc) : (s.setSrc n x).leapNow = s.leapNow := rfl
@[simp] theorem State.setSrc_refLoaded (s : State) (n : Nat) (x : NtfSrc) : (s.setSrc n x).refLoaded = s.refLoaded := rfl
@[simp] theorem State.setSrc_lastFlush (s : State) (n : Nat) (x : NtfSrc) : (s.setSrc n x).lastFlush = s.lastFlush := rfl
@[simp] theorem State.setSrc_tmap (s : State) (n : Nat) (x : NtfSrc) : (s.setSrc n x).tmap = s.tmap := rfl
@[simp] theorem State.setSrc_gaps (s : State) (n : Nat) (x : NtfSrc) : (s.setSrc n x).gaps = s.gaps := rfl
@[simp] theorem State.setSrc_gapSeq (s : State) (n : Nat) (x : NtfSrc) : (s.setSrc n x).gapSeq = s.gapSeq := rfl
@[simp] theorem State.setSrc_slots (s : State) (n : Nat) (x : NtfSrc) : (s.setSrc n x).slots = s.slots := rfl
@[simp] theorem State.setSrc_sessions (s : State) (n : Nat) (x : NtfSrc) : (s.setSrc n x).sessions = s.sessions := rfl
@[simp] theorem State.setSrc_flights (s : State) (n : Nat) (x : NtfSrc) : (s.setSrc n x).flights = s.flights := rfl
@[simp] theorem State.setSrc_nextFlight (s : State) (n : Nat) (x : NtfSrc) : (s.setSrc n x).nextFlight = s.nextFlight := rfl
@[simp] theorem State.setSrc_txns (s : State) (n : Nat) (x : NtfSrc) : (s.setSrc n x).txns = s.txns := rfl
@[simp] theorem State.setSrc_nextTxn (s : State) (n : Nat) (x : NtfSrc) : (s.setSrc n x).nextTxn = s.nextTxn := rfl
@[simp] theorem State.setSrc_txnEnded (s : State) (n : Nat) (x : NtfSrc) : (s.setSrc n x).txnEnded = s.txnEnded := rfl
@[simp] theorem State.setSrc_levelTo (s : State) (n : Nat) (x : NtfSrc) : (s.setSrc n x).levelTo = s.levelTo := rfl
@[simp] theorem State.setSrc_periodNo (s : State) (n : Nat) (x : NtfSrc) : (s.setSrc n x).periodNo = s.periodNo := rfl
@[simp] theorem State.setSrc_boosts (s : State) (n : Nat) (x : NtfSrc) : (s.setSrc n x).boosts = s.boosts := rfl
@[simp] theorem State.setSrc_cooled (s : State) (n : Nat) (x : NtfSrc) : (s.setSrc n x).cooled = s.cooled := rfl
@[simp] theorem State.setSrc_wire (s : State) (n : Nat) (x : NtfSrc) : (s.setSrc n x).wire = s.wire := rfl
@[simp] theorem State.setSrc_fab (s : State) (n : Nat) (x : NtfSrc) : (s.setSrc n x).fab = s.fab := rfl
@[simp] theorem State.setSrc_twin (s : State) (n : Nat) (x : NtfSrc) : (s.setSrc n x).twin = s.twin := rfl
@[simp] theorem State.setSrc_lockRec (s : State) (n : Nat) (x : NtfSrc) : (s.setSrc n x).lockRec = s.lockRec := rfl
@[simp] theorem State.setSrc_power (s : State) (n : Nat) (x : NtfSrc) : (s.setSrc n x).power = s.power := rfl
@[simp] theorem State.setSrc_holdB (s : State) (n : Nat) (x : NtfSrc) : (s.setSrc n x).holdB = s.holdB := rfl
@[simp] theorem State.setSrc_holdC (s : State) (n : Nat) (x : NtfSrc) : (s.setSrc n x).holdC = s.holdC := rfl
@[simp] theorem State.setSrc_threads (s : State) (n : Nat) (x : NtfSrc) : (s.setSrc n x).threads = s.threads := rfl
@[simp] theorem State.setSrc_imem (s : State) (n : Nat) (x : NtfSrc) : (s.setSrc n x).imem = s.imem := rfl
@[simp] theorem State.setSrc_dmem (s : State) (n : Nat) (x : NtfSrc) : (s.setSrc n x).dmem = s.dmem := rfl
@[simp] theorem State.setSrc_dmemDirty (s : State) (n : Nat) (x : NtfSrc) : (s.setSrc n x).dmemDirty = s.dmemDirty := rfl
@[simp] theorem State.setSrc_memErrs (s : State) (n : Nat) (x : NtfSrc) : (s.setSrc n x).memErrs = s.memErrs := rfl
@[simp] theorem State.setSrc_bluCycles (s : State) (n : Nat) (x : NtfSrc) : (s.setSrc n x).bluCycles = s.bluCycles := rfl
@[simp] theorem State.setSrc_bluSeq (s : State) (n : Nat) (x : NtfSrc) : (s.setSrc n x).bluSeq = s.bluSeq := rfl
@[simp] theorem State.setSrc_poQueue (s : State) (n : Nat) (x : NtfSrc) : (s.setSrc n x).poQueue = s.poQueue := rfl
@[simp] theorem State.setSrc_phiTrail (s : State) (n : Nat) (x : NtfSrc) : (s.setSrc n x).phiTrail = s.phiTrail := rfl
@[simp] theorem State.setSrc_canary (s : State) (n : Nat) (x : NtfSrc) : (s.setSrc n x).canary = s.canary := rfl
@[simp] theorem State.setSrc_aon (s : State) (n : Nat) (x : NtfSrc) : (s.setSrc n x).aon = s.aon := rfl
@[simp] theorem State.setSrc_wakeAt (s : State) (n : Nat) (x : NtfSrc) : (s.setSrc n x).wakeAt = s.wakeAt := rfl
@[simp] theorem State.setSrc_watchNext (s : State) (n : Nat) (x : NtfSrc) : (s.setSrc n x).watchNext = s.watchNext := rfl
@[simp] theorem State.setSrc_saved (s : State) (n : Nat) (x : NtfSrc) : (s.setSrc n x).saved = s.saved := rfl
@[simp] theorem State.setSrc_products (s : State) (n : Nat) (x : NtfSrc) : (s.setSrc n x).products = s.products := rfl
@[simp] theorem State.setSrc_prodWas (s : State) (n : Nat) (x : NtfSrc) : (s.setSrc n x).prodWas = s.prodWas := rfl
@[simp] theorem State.setSrc_arrivals (s : State) (n : Nat) (x : NtfSrc) : (s.setSrc n x).arrivals = s.arrivals := rfl
@[simp] theorem State.setSrc_prodFresh (s : State) (n : Nat) (x : NtfSrc) : (s.setSrc n x).prodFresh = s.prodFresh := rfl
@[simp] theorem State.setSrc_prodFree (s : State) (n : Nat) (x : NtfSrc) : (s.setSrc n x).prodFree = s.prodFree := rfl
@[simp] theorem State.setSrc_pidSeq (s : State) (n : Nat) (x : NtfSrc) : (s.setSrc n x).pidSeq = s.pidSeq := rfl
@[simp] theorem State.setSrc_ephLanes (s : State) (n : Nat) (x : NtfSrc) : (s.setSrc n x).ephLanes = s.ephLanes := rfl
@[simp] theorem State.setSrc_stnTick (s : State) (n : Nat) (x : NtfSrc) : (s.setSrc n x).stnTick = s.stnTick := rfl
@[simp] theorem State.setSrc_storeFullAt (s : State) (n : Nat) (x : NtfSrc) : (s.setSrc n x).storeFullAt = s.storeFullAt := rfl
@[simp] theorem State.setSrc_handoffs (s : State) (n : Nat) (x : NtfSrc) : (s.setSrc n x).handoffs = s.handoffs := rfl
@[simp] theorem State.setSrc_pidsSeen (s : State) (n : Nat) (x : NtfSrc) : (s.setSrc n x).pidsSeen = s.pidsSeen := rfl
@[simp] theorem State.setSrc_jobs (s : State) (n : Nat) (x : NtfSrc) : (s.setSrc n x).jobs = s.jobs := rfl
@[simp] theorem State.setSrc_nextJob (s : State) (n : Nat) (x : NtfSrc) : (s.setSrc n x).nextJob = s.nextJob := rfl
@[simp] theorem State.setSrc_serialsIn (s : State) (n : Nat) (x : NtfSrc) : (s.setSrc n x).serialsIn = s.serialsIn := rfl
@[simp] theorem State.setSrc_reservationAcks (s : State) (n : Nat) (x : NtfSrc) : (s.setSrc n x).reservationAcks = s.reservationAcks := rfl
@[simp] theorem State.setSrc_gens (s : State) (n : Nat) (x : NtfSrc) : (s.setSrc n x).gens = s.gens := rfl
@[simp] theorem State.setSrc_heldCal (s : State) (n : Nat) (x : NtfSrc) : (s.setSrc n x).heldCal = s.heldCal := rfl
@[simp] theorem State.setSrc_noDateOn (s : State) (n : Nat) (x : NtfSrc) : (s.setSrc n x).noDateOn = s.noDateOn := rfl
@[simp] theorem State.setSrc_raster (s : State) (n : Nat) (x : NtfSrc) : (s.setSrc n x).raster = s.raster := rfl
@[simp] theorem State.setSrc_pool (s : State) (n : Nat) (x : NtfSrc) : (s.setSrc n x).pool = s.pool := rfl
@[simp] theorem State.setSrc_poison (s : State) (n : Nat) (x : NtfSrc) : (s.setSrc n x).poison = s.poison := rfl
@[simp] theorem State.setSrc_extents (s : State) (n : Nat) (x : NtfSrc) : (s.setSrc n x).extents = s.extents := rfl
@[simp] theorem State.setSrc_dmas (s : State) (n : Nat) (x : NtfSrc) : (s.setSrc n x).dmas = s.dmas := rfl
@[simp] theorem State.setSrc_scrubPos (s : State) (n : Nat) (x : NtfSrc) : (s.setSrc n x).scrubPos = s.scrubPos := rfl
@[simp] theorem State.setSrc_boot (s : State) (n : Nat) (x : NtfSrc) : (s.setSrc n x).boot = s.boot := rfl

@[simp] theorem State.setSess_pending (s : State) (n : Nat) (x : Session) : (s.setSess n x).pending = s.pending := rfl
@[simp] theorem State.setSess_time (s : State) (n : Nat) (x : Session) : (s.setSess n x).time = s.time := rfl
@[simp] theorem State.setSess_regs (s : State) (n : Nat) (x : Session) : (s.setSess n x).regs = s.regs := rfl
@[simp] theorem State.setSess_free (s : State) (n : Nat) (x : Session) : (s.setSess n x).free = s.free := rfl
@[simp] theorem State.setSess_completion (s : State) (n : Nat) (x : Session) : (s.setSess n x).completion = s.completion := rfl
@[simp] theorem State.setSess_liveWas (s : State) (n : Nat) (x : Session) : (s.setSess n x).liveWas = s.liveWas := rfl
@[simp] theorem State.setSess_shutdown (s : State) (n : Nat) (x : Session) : (s.setSess n x).shutdown = s.shutdown := rfl
@[simp] theorem State.setSess_leaseOk (s : State) (n : Nat) (x : Session) : (s.setSess n x).leaseOk = s.leaseOk := rfl
@[simp] theorem State.setSess_shafts (s : State) (n : Nat) (x : Session) : (s.setSess n x).shafts = s.shafts := rfl
@[simp] theorem State.setSess_ports (s : State) (n : Nat) (x : Session) : (s.setSess n x).ports = s.ports := rfl
@[simp] theorem State.setSess_cells (s : State) (n : Nat) (x : Session) : (s.setSess n x).cells = s.cells := rfl
@[simp] theorem State.setSess_events (s : State) (n : Nat) (x : Session) : (s.setSess n x).events = s.events := rfl
@[simp] theorem State.setSess_almQueue (s : State) (n : Nat) (x : Session) : (s.setSess n x).almQueue = s.almQueue := rfl
@[simp] theorem State.setSess_almWork (s : State) (n : Nat) (x : Session) : (s.setSess n x).almWork = s.almWork := rfl
@[simp] theorem State.setSess_leadEl (s : State) (n : Nat) (x : Session) : (s.setSess n x).leadEl = s.leadEl := rfl
@[simp] theorem State.setSess_leadPo (s : State) (n : Nat) (x : Session) : (s.setSess n x).leadPo = s.leadPo := rfl
@[simp] theorem State.setSess_outs (s : State) (n : Nat) (x : Session) : (s.setSess n x).outs = s.outs := rfl
@[simp] theorem State.setSess_lines (s : State) (n : Nat) (x : Session) : (s.setSess n x).lines = s.lines := rfl
@[simp] theorem State.setSess_lineAt (s : State) (n : Nat) (x : Session) : (s.setSess n x).lineAt = s.lineAt := rfl
@[simp] theorem State.setSess_actOld (s : State) (n : Nat) (x : Session) : (s.setSess n x).actOld = s.actOld := rfl
@[simp] theorem State.setSess_chains (s : State) (n : Nat) (x : Session) : (s.setSess n x).chains = s.chains := rfl
@[simp] theorem State.setSess_pwms (s : State) (n : Nat) (x : Session) : (s.setSess n x).pwms = s.pwms := rfl
@[simp] theorem State.setSess_trips (s : State) (n : Nat) (x : Session) : (s.setSess n x).trips = s.trips := rfl
@[simp] theorem State.setSess_adcs (s : State) (n : Nat) (x : Session) : (s.setSess n x).adcs = s.adcs := rfl
@[simp] theorem State.setSess_fresh (s : State) (n : Nat) (x : Session) : (s.setSess n x).fresh = s.fresh := rfl
@[simp] theorem State.setSess_ntf (s : State) (n : Nat) (x : Session) : (s.setSess n x).ntf = s.ntf := rfl
@[simp] theorem State.setSess_ntfTgt (s : State) (n : Nat) (x : Session) : (s.setSess n x).ntfTgt = s.ntfTgt := rfl
@[simp] theorem State.setSess_faults (s : State) (n : Nat) (x : Session) : (s.setSess n x).faults = s.faults := rfl
@[simp] theorem State.setSess_staging (s : State) (n : Nat) (x : Session) : (s.setSess n x).staging = s.staging := rfl
@[simp] theorem State.setSess_flash (s : State) (n : Nat) (x : Session) : (s.setSess n x).flash = s.flash := rfl
@[simp] theorem State.setSess_flogSeq (s : State) (n : Nat) (x : Session) : (s.setSess n x).flogSeq = s.flogSeq := rfl
@[simp] theorem State.setSess_logAt (s : State) (n : Nat) (x : Session) : (s.setSess n x).logAt = s.logAt := rfl
@[simp] theorem State.setSess_selAt (s : State) (n : Nat) (x : Session) : (s.setSess n x).selAt = s.selAt := rfl
@[simp] theorem State.setSess_safeAt (s : State) (n : Nat) (x : Session) : (s.setSess n x).safeAt = s.safeAt := rfl
@[simp] theorem State.setSess_permitted (s : State) (n : Nat) (x : Session) : (s.setSess n x).permitted = s.permitted := rfl
@[simp] theorem State.setSess_tallies (s : State) (n : Nat) (x : Session) : (s.setSess n x).tallies = s.tallies := rfl
@[simp] theorem State.setSess_tallyMram (s : State) (n : Nat) (x : Session) : (s.setSess n x).tallyMram = s.tallyMram := rfl
@[simp] theorem State.setSess_cal (s : State) (n : Nat) (x : Session) : (s.setSess n x).cal = s.cal := rfl
@[simp] theorem State.setSess_calErr (s : State) (n : Nat) (x : Session) : (s.setSess n x).calErr = s.calErr := rfl
@[simp] theorem State.setSess_calSet (s : State) (n : Nat) (x : Session) : (s.setSess n x).calSet = s.calSet := rfl
@[simp] theorem State.setSess_leapNow (s : State) (n : Nat) (x : Session) : (s.setSess n x).leapNow = s.leapNow := rfl
@[simp] theorem State.setSess_refLoaded (s : State) (n : Nat) (x : Session) : (s.setSess n x).refLoaded = s.refLoaded := rfl
@[simp] theorem State.setSess_lastFlush (s : State) (n : Nat) (x : Session) : (s.setSess n x).lastFlush = s.lastFlush := rfl
@[simp] theorem State.setSess_tmap (s : State) (n : Nat) (x : Session) : (s.setSess n x).tmap = s.tmap := rfl
@[simp] theorem State.setSess_gaps (s : State) (n : Nat) (x : Session) : (s.setSess n x).gaps = s.gaps := rfl
@[simp] theorem State.setSess_gapSeq (s : State) (n : Nat) (x : Session) : (s.setSess n x).gapSeq = s.gapSeq := rfl
@[simp] theorem State.setSess_slots (s : State) (n : Nat) (x : Session) : (s.setSess n x).slots = s.slots := rfl
@[simp] theorem State.setSess_flights (s : State) (n : Nat) (x : Session) : (s.setSess n x).flights = s.flights := rfl
@[simp] theorem State.setSess_nextFlight (s : State) (n : Nat) (x : Session) : (s.setSess n x).nextFlight = s.nextFlight := rfl
@[simp] theorem State.setSess_txns (s : State) (n : Nat) (x : Session) : (s.setSess n x).txns = s.txns := rfl
@[simp] theorem State.setSess_nextTxn (s : State) (n : Nat) (x : Session) : (s.setSess n x).nextTxn = s.nextTxn := rfl
@[simp] theorem State.setSess_txnEnded (s : State) (n : Nat) (x : Session) : (s.setSess n x).txnEnded = s.txnEnded := rfl
@[simp] theorem State.setSess_levelTo (s : State) (n : Nat) (x : Session) : (s.setSess n x).levelTo = s.levelTo := rfl
@[simp] theorem State.setSess_periodNo (s : State) (n : Nat) (x : Session) : (s.setSess n x).periodNo = s.periodNo := rfl
@[simp] theorem State.setSess_boosts (s : State) (n : Nat) (x : Session) : (s.setSess n x).boosts = s.boosts := rfl
@[simp] theorem State.setSess_cooled (s : State) (n : Nat) (x : Session) : (s.setSess n x).cooled = s.cooled := rfl
@[simp] theorem State.setSess_wire (s : State) (n : Nat) (x : Session) : (s.setSess n x).wire = s.wire := rfl
@[simp] theorem State.setSess_fab (s : State) (n : Nat) (x : Session) : (s.setSess n x).fab = s.fab := rfl
@[simp] theorem State.setSess_twin (s : State) (n : Nat) (x : Session) : (s.setSess n x).twin = s.twin := rfl
@[simp] theorem State.setSess_lockRec (s : State) (n : Nat) (x : Session) : (s.setSess n x).lockRec = s.lockRec := rfl
@[simp] theorem State.setSess_power (s : State) (n : Nat) (x : Session) : (s.setSess n x).power = s.power := rfl
@[simp] theorem State.setSess_holdB (s : State) (n : Nat) (x : Session) : (s.setSess n x).holdB = s.holdB := rfl
@[simp] theorem State.setSess_holdC (s : State) (n : Nat) (x : Session) : (s.setSess n x).holdC = s.holdC := rfl
@[simp] theorem State.setSess_threads (s : State) (n : Nat) (x : Session) : (s.setSess n x).threads = s.threads := rfl
@[simp] theorem State.setSess_imem (s : State) (n : Nat) (x : Session) : (s.setSess n x).imem = s.imem := rfl
@[simp] theorem State.setSess_dmem (s : State) (n : Nat) (x : Session) : (s.setSess n x).dmem = s.dmem := rfl
@[simp] theorem State.setSess_dmemDirty (s : State) (n : Nat) (x : Session) : (s.setSess n x).dmemDirty = s.dmemDirty := rfl
@[simp] theorem State.setSess_memErrs (s : State) (n : Nat) (x : Session) : (s.setSess n x).memErrs = s.memErrs := rfl
@[simp] theorem State.setSess_bluCycles (s : State) (n : Nat) (x : Session) : (s.setSess n x).bluCycles = s.bluCycles := rfl
@[simp] theorem State.setSess_bluSeq (s : State) (n : Nat) (x : Session) : (s.setSess n x).bluSeq = s.bluSeq := rfl
@[simp] theorem State.setSess_poQueue (s : State) (n : Nat) (x : Session) : (s.setSess n x).poQueue = s.poQueue := rfl
@[simp] theorem State.setSess_phiTrail (s : State) (n : Nat) (x : Session) : (s.setSess n x).phiTrail = s.phiTrail := rfl
@[simp] theorem State.setSess_canary (s : State) (n : Nat) (x : Session) : (s.setSess n x).canary = s.canary := rfl
@[simp] theorem State.setSess_aon (s : State) (n : Nat) (x : Session) : (s.setSess n x).aon = s.aon := rfl
@[simp] theorem State.setSess_wakeAt (s : State) (n : Nat) (x : Session) : (s.setSess n x).wakeAt = s.wakeAt := rfl
@[simp] theorem State.setSess_watchNext (s : State) (n : Nat) (x : Session) : (s.setSess n x).watchNext = s.watchNext := rfl
@[simp] theorem State.setSess_saved (s : State) (n : Nat) (x : Session) : (s.setSess n x).saved = s.saved := rfl
@[simp] theorem State.setSess_products (s : State) (n : Nat) (x : Session) : (s.setSess n x).products = s.products := rfl
@[simp] theorem State.setSess_prodWas (s : State) (n : Nat) (x : Session) : (s.setSess n x).prodWas = s.prodWas := rfl
@[simp] theorem State.setSess_arrivals (s : State) (n : Nat) (x : Session) : (s.setSess n x).arrivals = s.arrivals := rfl
@[simp] theorem State.setSess_prodFresh (s : State) (n : Nat) (x : Session) : (s.setSess n x).prodFresh = s.prodFresh := rfl
@[simp] theorem State.setSess_prodFree (s : State) (n : Nat) (x : Session) : (s.setSess n x).prodFree = s.prodFree := rfl
@[simp] theorem State.setSess_pidSeq (s : State) (n : Nat) (x : Session) : (s.setSess n x).pidSeq = s.pidSeq := rfl
@[simp] theorem State.setSess_ephLanes (s : State) (n : Nat) (x : Session) : (s.setSess n x).ephLanes = s.ephLanes := rfl
@[simp] theorem State.setSess_stnTick (s : State) (n : Nat) (x : Session) : (s.setSess n x).stnTick = s.stnTick := rfl
@[simp] theorem State.setSess_storeFullAt (s : State) (n : Nat) (x : Session) : (s.setSess n x).storeFullAt = s.storeFullAt := rfl
@[simp] theorem State.setSess_handoffs (s : State) (n : Nat) (x : Session) : (s.setSess n x).handoffs = s.handoffs := rfl
@[simp] theorem State.setSess_pidsSeen (s : State) (n : Nat) (x : Session) : (s.setSess n x).pidsSeen = s.pidsSeen := rfl
@[simp] theorem State.setSess_jobs (s : State) (n : Nat) (x : Session) : (s.setSess n x).jobs = s.jobs := rfl
@[simp] theorem State.setSess_nextJob (s : State) (n : Nat) (x : Session) : (s.setSess n x).nextJob = s.nextJob := rfl
@[simp] theorem State.setSess_serialsIn (s : State) (n : Nat) (x : Session) : (s.setSess n x).serialsIn = s.serialsIn := rfl
@[simp] theorem State.setSess_reservationAcks (s : State) (n : Nat) (x : Session) : (s.setSess n x).reservationAcks = s.reservationAcks := rfl
@[simp] theorem State.setSess_gens (s : State) (n : Nat) (x : Session) : (s.setSess n x).gens = s.gens := rfl
@[simp] theorem State.setSess_heldCal (s : State) (n : Nat) (x : Session) : (s.setSess n x).heldCal = s.heldCal := rfl
@[simp] theorem State.setSess_noDateOn (s : State) (n : Nat) (x : Session) : (s.setSess n x).noDateOn = s.noDateOn := rfl
@[simp] theorem State.setSess_raster (s : State) (n : Nat) (x : Session) : (s.setSess n x).raster = s.raster := rfl
@[simp] theorem State.setSess_pool (s : State) (n : Nat) (x : Session) : (s.setSess n x).pool = s.pool := rfl
@[simp] theorem State.setSess_poison (s : State) (n : Nat) (x : Session) : (s.setSess n x).poison = s.poison := rfl
@[simp] theorem State.setSess_extents (s : State) (n : Nat) (x : Session) : (s.setSess n x).extents = s.extents := rfl
@[simp] theorem State.setSess_dmas (s : State) (n : Nat) (x : Session) : (s.setSess n x).dmas = s.dmas := rfl
@[simp] theorem State.setSess_scrubPos (s : State) (n : Nat) (x : Session) : (s.setSess n x).scrubPos = s.scrubPos := rfl
@[simp] theorem State.setSess_boot (s : State) (n : Nat) (x : Session) : (s.setSess n x).boot = s.boot := rfl

@[simp] theorem State.setSlot_pending (s : State) (n : Nat) (x : Slot) : (s.setSlot n x).pending = s.pending := rfl
@[simp] theorem State.setSlot_time (s : State) (n : Nat) (x : Slot) : (s.setSlot n x).time = s.time := rfl
@[simp] theorem State.setSlot_regs (s : State) (n : Nat) (x : Slot) : (s.setSlot n x).regs = s.regs := rfl
@[simp] theorem State.setSlot_free (s : State) (n : Nat) (x : Slot) : (s.setSlot n x).free = s.free := rfl
@[simp] theorem State.setSlot_completion (s : State) (n : Nat) (x : Slot) : (s.setSlot n x).completion = s.completion := rfl
@[simp] theorem State.setSlot_liveWas (s : State) (n : Nat) (x : Slot) : (s.setSlot n x).liveWas = s.liveWas := rfl
@[simp] theorem State.setSlot_shutdown (s : State) (n : Nat) (x : Slot) : (s.setSlot n x).shutdown = s.shutdown := rfl
@[simp] theorem State.setSlot_leaseOk (s : State) (n : Nat) (x : Slot) : (s.setSlot n x).leaseOk = s.leaseOk := rfl
@[simp] theorem State.setSlot_shafts (s : State) (n : Nat) (x : Slot) : (s.setSlot n x).shafts = s.shafts := rfl
@[simp] theorem State.setSlot_ports (s : State) (n : Nat) (x : Slot) : (s.setSlot n x).ports = s.ports := rfl
@[simp] theorem State.setSlot_cells (s : State) (n : Nat) (x : Slot) : (s.setSlot n x).cells = s.cells := rfl
@[simp] theorem State.setSlot_events (s : State) (n : Nat) (x : Slot) : (s.setSlot n x).events = s.events := rfl
@[simp] theorem State.setSlot_almQueue (s : State) (n : Nat) (x : Slot) : (s.setSlot n x).almQueue = s.almQueue := rfl
@[simp] theorem State.setSlot_almWork (s : State) (n : Nat) (x : Slot) : (s.setSlot n x).almWork = s.almWork := rfl
@[simp] theorem State.setSlot_leadEl (s : State) (n : Nat) (x : Slot) : (s.setSlot n x).leadEl = s.leadEl := rfl
@[simp] theorem State.setSlot_leadPo (s : State) (n : Nat) (x : Slot) : (s.setSlot n x).leadPo = s.leadPo := rfl
@[simp] theorem State.setSlot_outs (s : State) (n : Nat) (x : Slot) : (s.setSlot n x).outs = s.outs := rfl
@[simp] theorem State.setSlot_lines (s : State) (n : Nat) (x : Slot) : (s.setSlot n x).lines = s.lines := rfl
@[simp] theorem State.setSlot_lineAt (s : State) (n : Nat) (x : Slot) : (s.setSlot n x).lineAt = s.lineAt := rfl
@[simp] theorem State.setSlot_actOld (s : State) (n : Nat) (x : Slot) : (s.setSlot n x).actOld = s.actOld := rfl
@[simp] theorem State.setSlot_chains (s : State) (n : Nat) (x : Slot) : (s.setSlot n x).chains = s.chains := rfl
@[simp] theorem State.setSlot_pwms (s : State) (n : Nat) (x : Slot) : (s.setSlot n x).pwms = s.pwms := rfl
@[simp] theorem State.setSlot_trips (s : State) (n : Nat) (x : Slot) : (s.setSlot n x).trips = s.trips := rfl
@[simp] theorem State.setSlot_adcs (s : State) (n : Nat) (x : Slot) : (s.setSlot n x).adcs = s.adcs := rfl
@[simp] theorem State.setSlot_fresh (s : State) (n : Nat) (x : Slot) : (s.setSlot n x).fresh = s.fresh := rfl
@[simp] theorem State.setSlot_ntf (s : State) (n : Nat) (x : Slot) : (s.setSlot n x).ntf = s.ntf := rfl
@[simp] theorem State.setSlot_ntfTgt (s : State) (n : Nat) (x : Slot) : (s.setSlot n x).ntfTgt = s.ntfTgt := rfl
@[simp] theorem State.setSlot_faults (s : State) (n : Nat) (x : Slot) : (s.setSlot n x).faults = s.faults := rfl
@[simp] theorem State.setSlot_staging (s : State) (n : Nat) (x : Slot) : (s.setSlot n x).staging = s.staging := rfl
@[simp] theorem State.setSlot_flash (s : State) (n : Nat) (x : Slot) : (s.setSlot n x).flash = s.flash := rfl
@[simp] theorem State.setSlot_flogSeq (s : State) (n : Nat) (x : Slot) : (s.setSlot n x).flogSeq = s.flogSeq := rfl
@[simp] theorem State.setSlot_logAt (s : State) (n : Nat) (x : Slot) : (s.setSlot n x).logAt = s.logAt := rfl
@[simp] theorem State.setSlot_selAt (s : State) (n : Nat) (x : Slot) : (s.setSlot n x).selAt = s.selAt := rfl
@[simp] theorem State.setSlot_safeAt (s : State) (n : Nat) (x : Slot) : (s.setSlot n x).safeAt = s.safeAt := rfl
@[simp] theorem State.setSlot_permitted (s : State) (n : Nat) (x : Slot) : (s.setSlot n x).permitted = s.permitted := rfl
@[simp] theorem State.setSlot_tallies (s : State) (n : Nat) (x : Slot) : (s.setSlot n x).tallies = s.tallies := rfl
@[simp] theorem State.setSlot_tallyMram (s : State) (n : Nat) (x : Slot) : (s.setSlot n x).tallyMram = s.tallyMram := rfl
@[simp] theorem State.setSlot_cal (s : State) (n : Nat) (x : Slot) : (s.setSlot n x).cal = s.cal := rfl
@[simp] theorem State.setSlot_calErr (s : State) (n : Nat) (x : Slot) : (s.setSlot n x).calErr = s.calErr := rfl
@[simp] theorem State.setSlot_calSet (s : State) (n : Nat) (x : Slot) : (s.setSlot n x).calSet = s.calSet := rfl
@[simp] theorem State.setSlot_leapNow (s : State) (n : Nat) (x : Slot) : (s.setSlot n x).leapNow = s.leapNow := rfl
@[simp] theorem State.setSlot_refLoaded (s : State) (n : Nat) (x : Slot) : (s.setSlot n x).refLoaded = s.refLoaded := rfl
@[simp] theorem State.setSlot_lastFlush (s : State) (n : Nat) (x : Slot) : (s.setSlot n x).lastFlush = s.lastFlush := rfl
@[simp] theorem State.setSlot_tmap (s : State) (n : Nat) (x : Slot) : (s.setSlot n x).tmap = s.tmap := rfl
@[simp] theorem State.setSlot_gaps (s : State) (n : Nat) (x : Slot) : (s.setSlot n x).gaps = s.gaps := rfl
@[simp] theorem State.setSlot_gapSeq (s : State) (n : Nat) (x : Slot) : (s.setSlot n x).gapSeq = s.gapSeq := rfl
@[simp] theorem State.setSlot_sessions (s : State) (n : Nat) (x : Slot) : (s.setSlot n x).sessions = s.sessions := rfl
@[simp] theorem State.setSlot_flights (s : State) (n : Nat) (x : Slot) : (s.setSlot n x).flights = s.flights := rfl
@[simp] theorem State.setSlot_nextFlight (s : State) (n : Nat) (x : Slot) : (s.setSlot n x).nextFlight = s.nextFlight := rfl
@[simp] theorem State.setSlot_txns (s : State) (n : Nat) (x : Slot) : (s.setSlot n x).txns = s.txns := rfl
@[simp] theorem State.setSlot_nextTxn (s : State) (n : Nat) (x : Slot) : (s.setSlot n x).nextTxn = s.nextTxn := rfl
@[simp] theorem State.setSlot_txnEnded (s : State) (n : Nat) (x : Slot) : (s.setSlot n x).txnEnded = s.txnEnded := rfl
@[simp] theorem State.setSlot_levelTo (s : State) (n : Nat) (x : Slot) : (s.setSlot n x).levelTo = s.levelTo := rfl
@[simp] theorem State.setSlot_periodNo (s : State) (n : Nat) (x : Slot) : (s.setSlot n x).periodNo = s.periodNo := rfl
@[simp] theorem State.setSlot_boosts (s : State) (n : Nat) (x : Slot) : (s.setSlot n x).boosts = s.boosts := rfl
@[simp] theorem State.setSlot_cooled (s : State) (n : Nat) (x : Slot) : (s.setSlot n x).cooled = s.cooled := rfl
@[simp] theorem State.setSlot_wire (s : State) (n : Nat) (x : Slot) : (s.setSlot n x).wire = s.wire := rfl
@[simp] theorem State.setSlot_fab (s : State) (n : Nat) (x : Slot) : (s.setSlot n x).fab = s.fab := rfl
@[simp] theorem State.setSlot_twin (s : State) (n : Nat) (x : Slot) : (s.setSlot n x).twin = s.twin := rfl
@[simp] theorem State.setSlot_lockRec (s : State) (n : Nat) (x : Slot) : (s.setSlot n x).lockRec = s.lockRec := rfl
@[simp] theorem State.setSlot_power (s : State) (n : Nat) (x : Slot) : (s.setSlot n x).power = s.power := rfl
@[simp] theorem State.setSlot_holdB (s : State) (n : Nat) (x : Slot) : (s.setSlot n x).holdB = s.holdB := rfl
@[simp] theorem State.setSlot_holdC (s : State) (n : Nat) (x : Slot) : (s.setSlot n x).holdC = s.holdC := rfl
@[simp] theorem State.setSlot_threads (s : State) (n : Nat) (x : Slot) : (s.setSlot n x).threads = s.threads := rfl
@[simp] theorem State.setSlot_imem (s : State) (n : Nat) (x : Slot) : (s.setSlot n x).imem = s.imem := rfl
@[simp] theorem State.setSlot_dmem (s : State) (n : Nat) (x : Slot) : (s.setSlot n x).dmem = s.dmem := rfl
@[simp] theorem State.setSlot_dmemDirty (s : State) (n : Nat) (x : Slot) : (s.setSlot n x).dmemDirty = s.dmemDirty := rfl
@[simp] theorem State.setSlot_memErrs (s : State) (n : Nat) (x : Slot) : (s.setSlot n x).memErrs = s.memErrs := rfl
@[simp] theorem State.setSlot_bluCycles (s : State) (n : Nat) (x : Slot) : (s.setSlot n x).bluCycles = s.bluCycles := rfl
@[simp] theorem State.setSlot_bluSeq (s : State) (n : Nat) (x : Slot) : (s.setSlot n x).bluSeq = s.bluSeq := rfl
@[simp] theorem State.setSlot_poQueue (s : State) (n : Nat) (x : Slot) : (s.setSlot n x).poQueue = s.poQueue := rfl
@[simp] theorem State.setSlot_phiTrail (s : State) (n : Nat) (x : Slot) : (s.setSlot n x).phiTrail = s.phiTrail := rfl
@[simp] theorem State.setSlot_canary (s : State) (n : Nat) (x : Slot) : (s.setSlot n x).canary = s.canary := rfl
@[simp] theorem State.setSlot_aon (s : State) (n : Nat) (x : Slot) : (s.setSlot n x).aon = s.aon := rfl
@[simp] theorem State.setSlot_wakeAt (s : State) (n : Nat) (x : Slot) : (s.setSlot n x).wakeAt = s.wakeAt := rfl
@[simp] theorem State.setSlot_watchNext (s : State) (n : Nat) (x : Slot) : (s.setSlot n x).watchNext = s.watchNext := rfl
@[simp] theorem State.setSlot_saved (s : State) (n : Nat) (x : Slot) : (s.setSlot n x).saved = s.saved := rfl
@[simp] theorem State.setSlot_products (s : State) (n : Nat) (x : Slot) : (s.setSlot n x).products = s.products := rfl
@[simp] theorem State.setSlot_prodWas (s : State) (n : Nat) (x : Slot) : (s.setSlot n x).prodWas = s.prodWas := rfl
@[simp] theorem State.setSlot_arrivals (s : State) (n : Nat) (x : Slot) : (s.setSlot n x).arrivals = s.arrivals := rfl
@[simp] theorem State.setSlot_prodFresh (s : State) (n : Nat) (x : Slot) : (s.setSlot n x).prodFresh = s.prodFresh := rfl
@[simp] theorem State.setSlot_prodFree (s : State) (n : Nat) (x : Slot) : (s.setSlot n x).prodFree = s.prodFree := rfl
@[simp] theorem State.setSlot_pidSeq (s : State) (n : Nat) (x : Slot) : (s.setSlot n x).pidSeq = s.pidSeq := rfl
@[simp] theorem State.setSlot_ephLanes (s : State) (n : Nat) (x : Slot) : (s.setSlot n x).ephLanes = s.ephLanes := rfl
@[simp] theorem State.setSlot_stnTick (s : State) (n : Nat) (x : Slot) : (s.setSlot n x).stnTick = s.stnTick := rfl
@[simp] theorem State.setSlot_storeFullAt (s : State) (n : Nat) (x : Slot) : (s.setSlot n x).storeFullAt = s.storeFullAt := rfl
@[simp] theorem State.setSlot_handoffs (s : State) (n : Nat) (x : Slot) : (s.setSlot n x).handoffs = s.handoffs := rfl
@[simp] theorem State.setSlot_pidsSeen (s : State) (n : Nat) (x : Slot) : (s.setSlot n x).pidsSeen = s.pidsSeen := rfl
@[simp] theorem State.setSlot_jobs (s : State) (n : Nat) (x : Slot) : (s.setSlot n x).jobs = s.jobs := rfl
@[simp] theorem State.setSlot_nextJob (s : State) (n : Nat) (x : Slot) : (s.setSlot n x).nextJob = s.nextJob := rfl
@[simp] theorem State.setSlot_serialsIn (s : State) (n : Nat) (x : Slot) : (s.setSlot n x).serialsIn = s.serialsIn := rfl
@[simp] theorem State.setSlot_reservationAcks (s : State) (n : Nat) (x : Slot) : (s.setSlot n x).reservationAcks = s.reservationAcks := rfl
@[simp] theorem State.setSlot_gens (s : State) (n : Nat) (x : Slot) : (s.setSlot n x).gens = s.gens := rfl
@[simp] theorem State.setSlot_heldCal (s : State) (n : Nat) (x : Slot) : (s.setSlot n x).heldCal = s.heldCal := rfl
@[simp] theorem State.setSlot_noDateOn (s : State) (n : Nat) (x : Slot) : (s.setSlot n x).noDateOn = s.noDateOn := rfl
@[simp] theorem State.setSlot_raster (s : State) (n : Nat) (x : Slot) : (s.setSlot n x).raster = s.raster := rfl
@[simp] theorem State.setSlot_pool (s : State) (n : Nat) (x : Slot) : (s.setSlot n x).pool = s.pool := rfl
@[simp] theorem State.setSlot_poison (s : State) (n : Nat) (x : Slot) : (s.setSlot n x).poison = s.poison := rfl
@[simp] theorem State.setSlot_extents (s : State) (n : Nat) (x : Slot) : (s.setSlot n x).extents = s.extents := rfl
@[simp] theorem State.setSlot_dmas (s : State) (n : Nat) (x : Slot) : (s.setSlot n x).dmas = s.dmas := rfl
@[simp] theorem State.setSlot_scrubPos (s : State) (n : Nat) (x : Slot) : (s.setSlot n x).scrubPos = s.scrubPos := rfl
@[simp] theorem State.setSlot_boot (s : State) (n : Nat) (x : Slot) : (s.setSlot n x).boot = s.boot := rfl

@[simp] theorem State.setTally_pending (s : State) (n : Nat) (x : Nat) : (s.setTally n x).pending = s.pending := rfl
@[simp] theorem State.setTally_time (s : State) (n : Nat) (x : Nat) : (s.setTally n x).time = s.time := rfl
@[simp] theorem State.setTally_regs (s : State) (n : Nat) (x : Nat) : (s.setTally n x).regs = s.regs := rfl
@[simp] theorem State.setTally_free (s : State) (n : Nat) (x : Nat) : (s.setTally n x).free = s.free := rfl
@[simp] theorem State.setTally_completion (s : State) (n : Nat) (x : Nat) : (s.setTally n x).completion = s.completion := rfl
@[simp] theorem State.setTally_liveWas (s : State) (n : Nat) (x : Nat) : (s.setTally n x).liveWas = s.liveWas := rfl
@[simp] theorem State.setTally_shutdown (s : State) (n : Nat) (x : Nat) : (s.setTally n x).shutdown = s.shutdown := rfl
@[simp] theorem State.setTally_leaseOk (s : State) (n : Nat) (x : Nat) : (s.setTally n x).leaseOk = s.leaseOk := rfl
@[simp] theorem State.setTally_shafts (s : State) (n : Nat) (x : Nat) : (s.setTally n x).shafts = s.shafts := rfl
@[simp] theorem State.setTally_ports (s : State) (n : Nat) (x : Nat) : (s.setTally n x).ports = s.ports := rfl
@[simp] theorem State.setTally_cells (s : State) (n : Nat) (x : Nat) : (s.setTally n x).cells = s.cells := rfl
@[simp] theorem State.setTally_events (s : State) (n : Nat) (x : Nat) : (s.setTally n x).events = s.events := rfl
@[simp] theorem State.setTally_almQueue (s : State) (n : Nat) (x : Nat) : (s.setTally n x).almQueue = s.almQueue := rfl
@[simp] theorem State.setTally_almWork (s : State) (n : Nat) (x : Nat) : (s.setTally n x).almWork = s.almWork := rfl
@[simp] theorem State.setTally_leadEl (s : State) (n : Nat) (x : Nat) : (s.setTally n x).leadEl = s.leadEl := rfl
@[simp] theorem State.setTally_leadPo (s : State) (n : Nat) (x : Nat) : (s.setTally n x).leadPo = s.leadPo := rfl
@[simp] theorem State.setTally_outs (s : State) (n : Nat) (x : Nat) : (s.setTally n x).outs = s.outs := rfl
@[simp] theorem State.setTally_lines (s : State) (n : Nat) (x : Nat) : (s.setTally n x).lines = s.lines := rfl
@[simp] theorem State.setTally_lineAt (s : State) (n : Nat) (x : Nat) : (s.setTally n x).lineAt = s.lineAt := rfl
@[simp] theorem State.setTally_actOld (s : State) (n : Nat) (x : Nat) : (s.setTally n x).actOld = s.actOld := rfl
@[simp] theorem State.setTally_chains (s : State) (n : Nat) (x : Nat) : (s.setTally n x).chains = s.chains := rfl
@[simp] theorem State.setTally_pwms (s : State) (n : Nat) (x : Nat) : (s.setTally n x).pwms = s.pwms := rfl
@[simp] theorem State.setTally_trips (s : State) (n : Nat) (x : Nat) : (s.setTally n x).trips = s.trips := rfl
@[simp] theorem State.setTally_adcs (s : State) (n : Nat) (x : Nat) : (s.setTally n x).adcs = s.adcs := rfl
@[simp] theorem State.setTally_fresh (s : State) (n : Nat) (x : Nat) : (s.setTally n x).fresh = s.fresh := rfl
@[simp] theorem State.setTally_ntf (s : State) (n : Nat) (x : Nat) : (s.setTally n x).ntf = s.ntf := rfl
@[simp] theorem State.setTally_ntfTgt (s : State) (n : Nat) (x : Nat) : (s.setTally n x).ntfTgt = s.ntfTgt := rfl
@[simp] theorem State.setTally_faults (s : State) (n : Nat) (x : Nat) : (s.setTally n x).faults = s.faults := rfl
@[simp] theorem State.setTally_staging (s : State) (n : Nat) (x : Nat) : (s.setTally n x).staging = s.staging := rfl
@[simp] theorem State.setTally_flash (s : State) (n : Nat) (x : Nat) : (s.setTally n x).flash = s.flash := rfl
@[simp] theorem State.setTally_flogSeq (s : State) (n : Nat) (x : Nat) : (s.setTally n x).flogSeq = s.flogSeq := rfl
@[simp] theorem State.setTally_logAt (s : State) (n : Nat) (x : Nat) : (s.setTally n x).logAt = s.logAt := rfl
@[simp] theorem State.setTally_selAt (s : State) (n : Nat) (x : Nat) : (s.setTally n x).selAt = s.selAt := rfl
@[simp] theorem State.setTally_safeAt (s : State) (n : Nat) (x : Nat) : (s.setTally n x).safeAt = s.safeAt := rfl
@[simp] theorem State.setTally_permitted (s : State) (n : Nat) (x : Nat) : (s.setTally n x).permitted = s.permitted := rfl
@[simp] theorem State.setTally_tallyMram (s : State) (n : Nat) (x : Nat) : (s.setTally n x).tallyMram = s.tallyMram := rfl
@[simp] theorem State.setTally_cal (s : State) (n : Nat) (x : Nat) : (s.setTally n x).cal = s.cal := rfl
@[simp] theorem State.setTally_calErr (s : State) (n : Nat) (x : Nat) : (s.setTally n x).calErr = s.calErr := rfl
@[simp] theorem State.setTally_calSet (s : State) (n : Nat) (x : Nat) : (s.setTally n x).calSet = s.calSet := rfl
@[simp] theorem State.setTally_leapNow (s : State) (n : Nat) (x : Nat) : (s.setTally n x).leapNow = s.leapNow := rfl
@[simp] theorem State.setTally_refLoaded (s : State) (n : Nat) (x : Nat) : (s.setTally n x).refLoaded = s.refLoaded := rfl
@[simp] theorem State.setTally_lastFlush (s : State) (n : Nat) (x : Nat) : (s.setTally n x).lastFlush = s.lastFlush := rfl
@[simp] theorem State.setTally_tmap (s : State) (n : Nat) (x : Nat) : (s.setTally n x).tmap = s.tmap := rfl
@[simp] theorem State.setTally_gaps (s : State) (n : Nat) (x : Nat) : (s.setTally n x).gaps = s.gaps := rfl
@[simp] theorem State.setTally_gapSeq (s : State) (n : Nat) (x : Nat) : (s.setTally n x).gapSeq = s.gapSeq := rfl
@[simp] theorem State.setTally_slots (s : State) (n : Nat) (x : Nat) : (s.setTally n x).slots = s.slots := rfl
@[simp] theorem State.setTally_sessions (s : State) (n : Nat) (x : Nat) : (s.setTally n x).sessions = s.sessions := rfl
@[simp] theorem State.setTally_flights (s : State) (n : Nat) (x : Nat) : (s.setTally n x).flights = s.flights := rfl
@[simp] theorem State.setTally_nextFlight (s : State) (n : Nat) (x : Nat) : (s.setTally n x).nextFlight = s.nextFlight := rfl
@[simp] theorem State.setTally_txns (s : State) (n : Nat) (x : Nat) : (s.setTally n x).txns = s.txns := rfl
@[simp] theorem State.setTally_nextTxn (s : State) (n : Nat) (x : Nat) : (s.setTally n x).nextTxn = s.nextTxn := rfl
@[simp] theorem State.setTally_txnEnded (s : State) (n : Nat) (x : Nat) : (s.setTally n x).txnEnded = s.txnEnded := rfl
@[simp] theorem State.setTally_levelTo (s : State) (n : Nat) (x : Nat) : (s.setTally n x).levelTo = s.levelTo := rfl
@[simp] theorem State.setTally_periodNo (s : State) (n : Nat) (x : Nat) : (s.setTally n x).periodNo = s.periodNo := rfl
@[simp] theorem State.setTally_boosts (s : State) (n : Nat) (x : Nat) : (s.setTally n x).boosts = s.boosts := rfl
@[simp] theorem State.setTally_cooled (s : State) (n : Nat) (x : Nat) : (s.setTally n x).cooled = s.cooled := rfl
@[simp] theorem State.setTally_wire (s : State) (n : Nat) (x : Nat) : (s.setTally n x).wire = s.wire := rfl
@[simp] theorem State.setTally_fab (s : State) (n : Nat) (x : Nat) : (s.setTally n x).fab = s.fab := rfl
@[simp] theorem State.setTally_twin (s : State) (n : Nat) (x : Nat) : (s.setTally n x).twin = s.twin := rfl
@[simp] theorem State.setTally_lockRec (s : State) (n : Nat) (x : Nat) : (s.setTally n x).lockRec = s.lockRec := rfl
@[simp] theorem State.setTally_power (s : State) (n : Nat) (x : Nat) : (s.setTally n x).power = s.power := rfl
@[simp] theorem State.setTally_holdB (s : State) (n : Nat) (x : Nat) : (s.setTally n x).holdB = s.holdB := rfl
@[simp] theorem State.setTally_holdC (s : State) (n : Nat) (x : Nat) : (s.setTally n x).holdC = s.holdC := rfl
@[simp] theorem State.setTally_threads (s : State) (n : Nat) (x : Nat) : (s.setTally n x).threads = s.threads := rfl
@[simp] theorem State.setTally_imem (s : State) (n : Nat) (x : Nat) : (s.setTally n x).imem = s.imem := rfl
@[simp] theorem State.setTally_dmem (s : State) (n : Nat) (x : Nat) : (s.setTally n x).dmem = s.dmem := rfl
@[simp] theorem State.setTally_dmemDirty (s : State) (n : Nat) (x : Nat) : (s.setTally n x).dmemDirty = s.dmemDirty := rfl
@[simp] theorem State.setTally_memErrs (s : State) (n : Nat) (x : Nat) : (s.setTally n x).memErrs = s.memErrs := rfl
@[simp] theorem State.setTally_bluCycles (s : State) (n : Nat) (x : Nat) : (s.setTally n x).bluCycles = s.bluCycles := rfl
@[simp] theorem State.setTally_bluSeq (s : State) (n : Nat) (x : Nat) : (s.setTally n x).bluSeq = s.bluSeq := rfl
@[simp] theorem State.setTally_poQueue (s : State) (n : Nat) (x : Nat) : (s.setTally n x).poQueue = s.poQueue := rfl
@[simp] theorem State.setTally_phiTrail (s : State) (n : Nat) (x : Nat) : (s.setTally n x).phiTrail = s.phiTrail := rfl
@[simp] theorem State.setTally_canary (s : State) (n : Nat) (x : Nat) : (s.setTally n x).canary = s.canary := rfl
@[simp] theorem State.setTally_aon (s : State) (n : Nat) (x : Nat) : (s.setTally n x).aon = s.aon := rfl
@[simp] theorem State.setTally_wakeAt (s : State) (n : Nat) (x : Nat) : (s.setTally n x).wakeAt = s.wakeAt := rfl
@[simp] theorem State.setTally_watchNext (s : State) (n : Nat) (x : Nat) : (s.setTally n x).watchNext = s.watchNext := rfl
@[simp] theorem State.setTally_saved (s : State) (n : Nat) (x : Nat) : (s.setTally n x).saved = s.saved := rfl
@[simp] theorem State.setTally_products (s : State) (n : Nat) (x : Nat) : (s.setTally n x).products = s.products := rfl
@[simp] theorem State.setTally_prodWas (s : State) (n : Nat) (x : Nat) : (s.setTally n x).prodWas = s.prodWas := rfl
@[simp] theorem State.setTally_arrivals (s : State) (n : Nat) (x : Nat) : (s.setTally n x).arrivals = s.arrivals := rfl
@[simp] theorem State.setTally_prodFresh (s : State) (n : Nat) (x : Nat) : (s.setTally n x).prodFresh = s.prodFresh := rfl
@[simp] theorem State.setTally_prodFree (s : State) (n : Nat) (x : Nat) : (s.setTally n x).prodFree = s.prodFree := rfl
@[simp] theorem State.setTally_pidSeq (s : State) (n : Nat) (x : Nat) : (s.setTally n x).pidSeq = s.pidSeq := rfl
@[simp] theorem State.setTally_ephLanes (s : State) (n : Nat) (x : Nat) : (s.setTally n x).ephLanes = s.ephLanes := rfl
@[simp] theorem State.setTally_stnTick (s : State) (n : Nat) (x : Nat) : (s.setTally n x).stnTick = s.stnTick := rfl
@[simp] theorem State.setTally_storeFullAt (s : State) (n : Nat) (x : Nat) : (s.setTally n x).storeFullAt = s.storeFullAt := rfl
@[simp] theorem State.setTally_handoffs (s : State) (n : Nat) (x : Nat) : (s.setTally n x).handoffs = s.handoffs := rfl
@[simp] theorem State.setTally_pidsSeen (s : State) (n : Nat) (x : Nat) : (s.setTally n x).pidsSeen = s.pidsSeen := rfl
@[simp] theorem State.setTally_jobs (s : State) (n : Nat) (x : Nat) : (s.setTally n x).jobs = s.jobs := rfl
@[simp] theorem State.setTally_nextJob (s : State) (n : Nat) (x : Nat) : (s.setTally n x).nextJob = s.nextJob := rfl
@[simp] theorem State.setTally_serialsIn (s : State) (n : Nat) (x : Nat) : (s.setTally n x).serialsIn = s.serialsIn := rfl
@[simp] theorem State.setTally_reservationAcks (s : State) (n : Nat) (x : Nat) : (s.setTally n x).reservationAcks = s.reservationAcks := rfl
@[simp] theorem State.setTally_gens (s : State) (n : Nat) (x : Nat) : (s.setTally n x).gens = s.gens := rfl
@[simp] theorem State.setTally_heldCal (s : State) (n : Nat) (x : Nat) : (s.setTally n x).heldCal = s.heldCal := rfl
@[simp] theorem State.setTally_noDateOn (s : State) (n : Nat) (x : Nat) : (s.setTally n x).noDateOn = s.noDateOn := rfl
@[simp] theorem State.setTally_raster (s : State) (n : Nat) (x : Nat) : (s.setTally n x).raster = s.raster := rfl
@[simp] theorem State.setTally_pool (s : State) (n : Nat) (x : Nat) : (s.setTally n x).pool = s.pool := rfl
@[simp] theorem State.setTally_poison (s : State) (n : Nat) (x : Nat) : (s.setTally n x).poison = s.poison := rfl
@[simp] theorem State.setTally_extents (s : State) (n : Nat) (x : Nat) : (s.setTally n x).extents = s.extents := rfl
@[simp] theorem State.setTally_dmas (s : State) (n : Nat) (x : Nat) : (s.setTally n x).dmas = s.dmas := rfl
@[simp] theorem State.setTally_scrubPos (s : State) (n : Nat) (x : Nat) : (s.setTally n x).scrubPos = s.scrubPos := rfl
@[simp] theorem State.setTally_boot (s : State) (n : Nat) (x : Nat) : (s.setTally n x).boot = s.boot := rfl

@[simp] theorem State.setTh_pending (s : State) (n : Nat) (x : Thread) : (s.setTh n x).pending = s.pending := rfl
@[simp] theorem State.setTh_time (s : State) (n : Nat) (x : Thread) : (s.setTh n x).time = s.time := rfl
@[simp] theorem State.setTh_regs (s : State) (n : Nat) (x : Thread) : (s.setTh n x).regs = s.regs := rfl
@[simp] theorem State.setTh_free (s : State) (n : Nat) (x : Thread) : (s.setTh n x).free = s.free := rfl
@[simp] theorem State.setTh_completion (s : State) (n : Nat) (x : Thread) : (s.setTh n x).completion = s.completion := rfl
@[simp] theorem State.setTh_liveWas (s : State) (n : Nat) (x : Thread) : (s.setTh n x).liveWas = s.liveWas := rfl
@[simp] theorem State.setTh_shutdown (s : State) (n : Nat) (x : Thread) : (s.setTh n x).shutdown = s.shutdown := rfl
@[simp] theorem State.setTh_leaseOk (s : State) (n : Nat) (x : Thread) : (s.setTh n x).leaseOk = s.leaseOk := rfl
@[simp] theorem State.setTh_shafts (s : State) (n : Nat) (x : Thread) : (s.setTh n x).shafts = s.shafts := rfl
@[simp] theorem State.setTh_ports (s : State) (n : Nat) (x : Thread) : (s.setTh n x).ports = s.ports := rfl
@[simp] theorem State.setTh_cells (s : State) (n : Nat) (x : Thread) : (s.setTh n x).cells = s.cells := rfl
@[simp] theorem State.setTh_events (s : State) (n : Nat) (x : Thread) : (s.setTh n x).events = s.events := rfl
@[simp] theorem State.setTh_almQueue (s : State) (n : Nat) (x : Thread) : (s.setTh n x).almQueue = s.almQueue := rfl
@[simp] theorem State.setTh_almWork (s : State) (n : Nat) (x : Thread) : (s.setTh n x).almWork = s.almWork := rfl
@[simp] theorem State.setTh_leadEl (s : State) (n : Nat) (x : Thread) : (s.setTh n x).leadEl = s.leadEl := rfl
@[simp] theorem State.setTh_leadPo (s : State) (n : Nat) (x : Thread) : (s.setTh n x).leadPo = s.leadPo := rfl
@[simp] theorem State.setTh_outs (s : State) (n : Nat) (x : Thread) : (s.setTh n x).outs = s.outs := rfl
@[simp] theorem State.setTh_lines (s : State) (n : Nat) (x : Thread) : (s.setTh n x).lines = s.lines := rfl
@[simp] theorem State.setTh_lineAt (s : State) (n : Nat) (x : Thread) : (s.setTh n x).lineAt = s.lineAt := rfl
@[simp] theorem State.setTh_actOld (s : State) (n : Nat) (x : Thread) : (s.setTh n x).actOld = s.actOld := rfl
@[simp] theorem State.setTh_chains (s : State) (n : Nat) (x : Thread) : (s.setTh n x).chains = s.chains := rfl
@[simp] theorem State.setTh_pwms (s : State) (n : Nat) (x : Thread) : (s.setTh n x).pwms = s.pwms := rfl
@[simp] theorem State.setTh_trips (s : State) (n : Nat) (x : Thread) : (s.setTh n x).trips = s.trips := rfl
@[simp] theorem State.setTh_adcs (s : State) (n : Nat) (x : Thread) : (s.setTh n x).adcs = s.adcs := rfl
@[simp] theorem State.setTh_fresh (s : State) (n : Nat) (x : Thread) : (s.setTh n x).fresh = s.fresh := rfl
@[simp] theorem State.setTh_ntf (s : State) (n : Nat) (x : Thread) : (s.setTh n x).ntf = s.ntf := rfl
@[simp] theorem State.setTh_ntfTgt (s : State) (n : Nat) (x : Thread) : (s.setTh n x).ntfTgt = s.ntfTgt := rfl
@[simp] theorem State.setTh_faults (s : State) (n : Nat) (x : Thread) : (s.setTh n x).faults = s.faults := rfl
@[simp] theorem State.setTh_staging (s : State) (n : Nat) (x : Thread) : (s.setTh n x).staging = s.staging := rfl
@[simp] theorem State.setTh_flash (s : State) (n : Nat) (x : Thread) : (s.setTh n x).flash = s.flash := rfl
@[simp] theorem State.setTh_flogSeq (s : State) (n : Nat) (x : Thread) : (s.setTh n x).flogSeq = s.flogSeq := rfl
@[simp] theorem State.setTh_logAt (s : State) (n : Nat) (x : Thread) : (s.setTh n x).logAt = s.logAt := rfl
@[simp] theorem State.setTh_selAt (s : State) (n : Nat) (x : Thread) : (s.setTh n x).selAt = s.selAt := rfl
@[simp] theorem State.setTh_safeAt (s : State) (n : Nat) (x : Thread) : (s.setTh n x).safeAt = s.safeAt := rfl
@[simp] theorem State.setTh_permitted (s : State) (n : Nat) (x : Thread) : (s.setTh n x).permitted = s.permitted := rfl
@[simp] theorem State.setTh_tallies (s : State) (n : Nat) (x : Thread) : (s.setTh n x).tallies = s.tallies := rfl
@[simp] theorem State.setTh_tallyMram (s : State) (n : Nat) (x : Thread) : (s.setTh n x).tallyMram = s.tallyMram := rfl
@[simp] theorem State.setTh_cal (s : State) (n : Nat) (x : Thread) : (s.setTh n x).cal = s.cal := rfl
@[simp] theorem State.setTh_calErr (s : State) (n : Nat) (x : Thread) : (s.setTh n x).calErr = s.calErr := rfl
@[simp] theorem State.setTh_calSet (s : State) (n : Nat) (x : Thread) : (s.setTh n x).calSet = s.calSet := rfl
@[simp] theorem State.setTh_leapNow (s : State) (n : Nat) (x : Thread) : (s.setTh n x).leapNow = s.leapNow := rfl
@[simp] theorem State.setTh_refLoaded (s : State) (n : Nat) (x : Thread) : (s.setTh n x).refLoaded = s.refLoaded := rfl
@[simp] theorem State.setTh_lastFlush (s : State) (n : Nat) (x : Thread) : (s.setTh n x).lastFlush = s.lastFlush := rfl
@[simp] theorem State.setTh_tmap (s : State) (n : Nat) (x : Thread) : (s.setTh n x).tmap = s.tmap := rfl
@[simp] theorem State.setTh_gaps (s : State) (n : Nat) (x : Thread) : (s.setTh n x).gaps = s.gaps := rfl
@[simp] theorem State.setTh_gapSeq (s : State) (n : Nat) (x : Thread) : (s.setTh n x).gapSeq = s.gapSeq := rfl
@[simp] theorem State.setTh_slots (s : State) (n : Nat) (x : Thread) : (s.setTh n x).slots = s.slots := rfl
@[simp] theorem State.setTh_sessions (s : State) (n : Nat) (x : Thread) : (s.setTh n x).sessions = s.sessions := rfl
@[simp] theorem State.setTh_flights (s : State) (n : Nat) (x : Thread) : (s.setTh n x).flights = s.flights := rfl
@[simp] theorem State.setTh_nextFlight (s : State) (n : Nat) (x : Thread) : (s.setTh n x).nextFlight = s.nextFlight := rfl
@[simp] theorem State.setTh_txns (s : State) (n : Nat) (x : Thread) : (s.setTh n x).txns = s.txns := rfl
@[simp] theorem State.setTh_nextTxn (s : State) (n : Nat) (x : Thread) : (s.setTh n x).nextTxn = s.nextTxn := rfl
@[simp] theorem State.setTh_txnEnded (s : State) (n : Nat) (x : Thread) : (s.setTh n x).txnEnded = s.txnEnded := rfl
@[simp] theorem State.setTh_levelTo (s : State) (n : Nat) (x : Thread) : (s.setTh n x).levelTo = s.levelTo := rfl
@[simp] theorem State.setTh_periodNo (s : State) (n : Nat) (x : Thread) : (s.setTh n x).periodNo = s.periodNo := rfl
@[simp] theorem State.setTh_boosts (s : State) (n : Nat) (x : Thread) : (s.setTh n x).boosts = s.boosts := rfl
@[simp] theorem State.setTh_cooled (s : State) (n : Nat) (x : Thread) : (s.setTh n x).cooled = s.cooled := rfl
@[simp] theorem State.setTh_wire (s : State) (n : Nat) (x : Thread) : (s.setTh n x).wire = s.wire := rfl
@[simp] theorem State.setTh_fab (s : State) (n : Nat) (x : Thread) : (s.setTh n x).fab = s.fab := rfl
@[simp] theorem State.setTh_twin (s : State) (n : Nat) (x : Thread) : (s.setTh n x).twin = s.twin := rfl
@[simp] theorem State.setTh_lockRec (s : State) (n : Nat) (x : Thread) : (s.setTh n x).lockRec = s.lockRec := rfl
@[simp] theorem State.setTh_power (s : State) (n : Nat) (x : Thread) : (s.setTh n x).power = s.power := rfl
@[simp] theorem State.setTh_holdB (s : State) (n : Nat) (x : Thread) : (s.setTh n x).holdB = s.holdB := rfl
@[simp] theorem State.setTh_holdC (s : State) (n : Nat) (x : Thread) : (s.setTh n x).holdC = s.holdC := rfl
@[simp] theorem State.setTh_imem (s : State) (n : Nat) (x : Thread) : (s.setTh n x).imem = s.imem := rfl
@[simp] theorem State.setTh_dmem (s : State) (n : Nat) (x : Thread) : (s.setTh n x).dmem = s.dmem := rfl
@[simp] theorem State.setTh_dmemDirty (s : State) (n : Nat) (x : Thread) : (s.setTh n x).dmemDirty = s.dmemDirty := rfl
@[simp] theorem State.setTh_memErrs (s : State) (n : Nat) (x : Thread) : (s.setTh n x).memErrs = s.memErrs := rfl
@[simp] theorem State.setTh_bluCycles (s : State) (n : Nat) (x : Thread) : (s.setTh n x).bluCycles = s.bluCycles := rfl
@[simp] theorem State.setTh_bluSeq (s : State) (n : Nat) (x : Thread) : (s.setTh n x).bluSeq = s.bluSeq := rfl
@[simp] theorem State.setTh_poQueue (s : State) (n : Nat) (x : Thread) : (s.setTh n x).poQueue = s.poQueue := rfl
@[simp] theorem State.setTh_phiTrail (s : State) (n : Nat) (x : Thread) : (s.setTh n x).phiTrail = s.phiTrail := rfl
@[simp] theorem State.setTh_canary (s : State) (n : Nat) (x : Thread) : (s.setTh n x).canary = s.canary := rfl
@[simp] theorem State.setTh_aon (s : State) (n : Nat) (x : Thread) : (s.setTh n x).aon = s.aon := rfl
@[simp] theorem State.setTh_wakeAt (s : State) (n : Nat) (x : Thread) : (s.setTh n x).wakeAt = s.wakeAt := rfl
@[simp] theorem State.setTh_watchNext (s : State) (n : Nat) (x : Thread) : (s.setTh n x).watchNext = s.watchNext := rfl
@[simp] theorem State.setTh_saved (s : State) (n : Nat) (x : Thread) : (s.setTh n x).saved = s.saved := rfl
@[simp] theorem State.setTh_products (s : State) (n : Nat) (x : Thread) : (s.setTh n x).products = s.products := rfl
@[simp] theorem State.setTh_prodWas (s : State) (n : Nat) (x : Thread) : (s.setTh n x).prodWas = s.prodWas := rfl
@[simp] theorem State.setTh_arrivals (s : State) (n : Nat) (x : Thread) : (s.setTh n x).arrivals = s.arrivals := rfl
@[simp] theorem State.setTh_prodFresh (s : State) (n : Nat) (x : Thread) : (s.setTh n x).prodFresh = s.prodFresh := rfl
@[simp] theorem State.setTh_prodFree (s : State) (n : Nat) (x : Thread) : (s.setTh n x).prodFree = s.prodFree := rfl
@[simp] theorem State.setTh_pidSeq (s : State) (n : Nat) (x : Thread) : (s.setTh n x).pidSeq = s.pidSeq := rfl
@[simp] theorem State.setTh_ephLanes (s : State) (n : Nat) (x : Thread) : (s.setTh n x).ephLanes = s.ephLanes := rfl
@[simp] theorem State.setTh_stnTick (s : State) (n : Nat) (x : Thread) : (s.setTh n x).stnTick = s.stnTick := rfl
@[simp] theorem State.setTh_storeFullAt (s : State) (n : Nat) (x : Thread) : (s.setTh n x).storeFullAt = s.storeFullAt := rfl
@[simp] theorem State.setTh_handoffs (s : State) (n : Nat) (x : Thread) : (s.setTh n x).handoffs = s.handoffs := rfl
@[simp] theorem State.setTh_pidsSeen (s : State) (n : Nat) (x : Thread) : (s.setTh n x).pidsSeen = s.pidsSeen := rfl
@[simp] theorem State.setTh_jobs (s : State) (n : Nat) (x : Thread) : (s.setTh n x).jobs = s.jobs := rfl
@[simp] theorem State.setTh_nextJob (s : State) (n : Nat) (x : Thread) : (s.setTh n x).nextJob = s.nextJob := rfl
@[simp] theorem State.setTh_serialsIn (s : State) (n : Nat) (x : Thread) : (s.setTh n x).serialsIn = s.serialsIn := rfl
@[simp] theorem State.setTh_reservationAcks (s : State) (n : Nat) (x : Thread) : (s.setTh n x).reservationAcks = s.reservationAcks := rfl
@[simp] theorem State.setTh_gens (s : State) (n : Nat) (x : Thread) : (s.setTh n x).gens = s.gens := rfl
@[simp] theorem State.setTh_heldCal (s : State) (n : Nat) (x : Thread) : (s.setTh n x).heldCal = s.heldCal := rfl
@[simp] theorem State.setTh_noDateOn (s : State) (n : Nat) (x : Thread) : (s.setTh n x).noDateOn = s.noDateOn := rfl
@[simp] theorem State.setTh_raster (s : State) (n : Nat) (x : Thread) : (s.setTh n x).raster = s.raster := rfl
@[simp] theorem State.setTh_pool (s : State) (n : Nat) (x : Thread) : (s.setTh n x).pool = s.pool := rfl
@[simp] theorem State.setTh_poison (s : State) (n : Nat) (x : Thread) : (s.setTh n x).poison = s.poison := rfl
@[simp] theorem State.setTh_extents (s : State) (n : Nat) (x : Thread) : (s.setTh n x).extents = s.extents := rfl
@[simp] theorem State.setTh_dmas (s : State) (n : Nat) (x : Thread) : (s.setTh n x).dmas = s.dmas := rfl
@[simp] theorem State.setTh_scrubPos (s : State) (n : Nat) (x : Thread) : (s.setTh n x).scrubPos = s.scrubPos := rfl
@[simp] theorem State.setTh_boot (s : State) (n : Nat) (x : Thread) : (s.setTh n x).boot = s.boot := rfl

@[simp] theorem State.setProd_pending (s : State) (n : Nat) (x : Product) : (s.setProd n x).pending = s.pending := rfl
@[simp] theorem State.setProd_time (s : State) (n : Nat) (x : Product) : (s.setProd n x).time = s.time := rfl
@[simp] theorem State.setProd_regs (s : State) (n : Nat) (x : Product) : (s.setProd n x).regs = s.regs := rfl
@[simp] theorem State.setProd_free (s : State) (n : Nat) (x : Product) : (s.setProd n x).free = s.free := rfl
@[simp] theorem State.setProd_completion (s : State) (n : Nat) (x : Product) : (s.setProd n x).completion = s.completion := rfl
@[simp] theorem State.setProd_liveWas (s : State) (n : Nat) (x : Product) : (s.setProd n x).liveWas = s.liveWas := rfl
@[simp] theorem State.setProd_shutdown (s : State) (n : Nat) (x : Product) : (s.setProd n x).shutdown = s.shutdown := rfl
@[simp] theorem State.setProd_leaseOk (s : State) (n : Nat) (x : Product) : (s.setProd n x).leaseOk = s.leaseOk := rfl
@[simp] theorem State.setProd_shafts (s : State) (n : Nat) (x : Product) : (s.setProd n x).shafts = s.shafts := rfl
@[simp] theorem State.setProd_ports (s : State) (n : Nat) (x : Product) : (s.setProd n x).ports = s.ports := rfl
@[simp] theorem State.setProd_cells (s : State) (n : Nat) (x : Product) : (s.setProd n x).cells = s.cells := rfl
@[simp] theorem State.setProd_events (s : State) (n : Nat) (x : Product) : (s.setProd n x).events = s.events := rfl
@[simp] theorem State.setProd_almQueue (s : State) (n : Nat) (x : Product) : (s.setProd n x).almQueue = s.almQueue := rfl
@[simp] theorem State.setProd_almWork (s : State) (n : Nat) (x : Product) : (s.setProd n x).almWork = s.almWork := rfl
@[simp] theorem State.setProd_leadEl (s : State) (n : Nat) (x : Product) : (s.setProd n x).leadEl = s.leadEl := rfl
@[simp] theorem State.setProd_leadPo (s : State) (n : Nat) (x : Product) : (s.setProd n x).leadPo = s.leadPo := rfl
@[simp] theorem State.setProd_outs (s : State) (n : Nat) (x : Product) : (s.setProd n x).outs = s.outs := rfl
@[simp] theorem State.setProd_lines (s : State) (n : Nat) (x : Product) : (s.setProd n x).lines = s.lines := rfl
@[simp] theorem State.setProd_lineAt (s : State) (n : Nat) (x : Product) : (s.setProd n x).lineAt = s.lineAt := rfl
@[simp] theorem State.setProd_actOld (s : State) (n : Nat) (x : Product) : (s.setProd n x).actOld = s.actOld := rfl
@[simp] theorem State.setProd_chains (s : State) (n : Nat) (x : Product) : (s.setProd n x).chains = s.chains := rfl
@[simp] theorem State.setProd_pwms (s : State) (n : Nat) (x : Product) : (s.setProd n x).pwms = s.pwms := rfl
@[simp] theorem State.setProd_trips (s : State) (n : Nat) (x : Product) : (s.setProd n x).trips = s.trips := rfl
@[simp] theorem State.setProd_adcs (s : State) (n : Nat) (x : Product) : (s.setProd n x).adcs = s.adcs := rfl
@[simp] theorem State.setProd_fresh (s : State) (n : Nat) (x : Product) : (s.setProd n x).fresh = s.fresh := rfl
@[simp] theorem State.setProd_ntf (s : State) (n : Nat) (x : Product) : (s.setProd n x).ntf = s.ntf := rfl
@[simp] theorem State.setProd_ntfTgt (s : State) (n : Nat) (x : Product) : (s.setProd n x).ntfTgt = s.ntfTgt := rfl
@[simp] theorem State.setProd_faults (s : State) (n : Nat) (x : Product) : (s.setProd n x).faults = s.faults := rfl
@[simp] theorem State.setProd_staging (s : State) (n : Nat) (x : Product) : (s.setProd n x).staging = s.staging := rfl
@[simp] theorem State.setProd_flash (s : State) (n : Nat) (x : Product) : (s.setProd n x).flash = s.flash := rfl
@[simp] theorem State.setProd_flogSeq (s : State) (n : Nat) (x : Product) : (s.setProd n x).flogSeq = s.flogSeq := rfl
@[simp] theorem State.setProd_logAt (s : State) (n : Nat) (x : Product) : (s.setProd n x).logAt = s.logAt := rfl
@[simp] theorem State.setProd_selAt (s : State) (n : Nat) (x : Product) : (s.setProd n x).selAt = s.selAt := rfl
@[simp] theorem State.setProd_safeAt (s : State) (n : Nat) (x : Product) : (s.setProd n x).safeAt = s.safeAt := rfl
@[simp] theorem State.setProd_permitted (s : State) (n : Nat) (x : Product) : (s.setProd n x).permitted = s.permitted := rfl
@[simp] theorem State.setProd_tallies (s : State) (n : Nat) (x : Product) : (s.setProd n x).tallies = s.tallies := rfl
@[simp] theorem State.setProd_tallyMram (s : State) (n : Nat) (x : Product) : (s.setProd n x).tallyMram = s.tallyMram := rfl
@[simp] theorem State.setProd_cal (s : State) (n : Nat) (x : Product) : (s.setProd n x).cal = s.cal := rfl
@[simp] theorem State.setProd_calErr (s : State) (n : Nat) (x : Product) : (s.setProd n x).calErr = s.calErr := rfl
@[simp] theorem State.setProd_calSet (s : State) (n : Nat) (x : Product) : (s.setProd n x).calSet = s.calSet := rfl
@[simp] theorem State.setProd_leapNow (s : State) (n : Nat) (x : Product) : (s.setProd n x).leapNow = s.leapNow := rfl
@[simp] theorem State.setProd_refLoaded (s : State) (n : Nat) (x : Product) : (s.setProd n x).refLoaded = s.refLoaded := rfl
@[simp] theorem State.setProd_lastFlush (s : State) (n : Nat) (x : Product) : (s.setProd n x).lastFlush = s.lastFlush := rfl
@[simp] theorem State.setProd_tmap (s : State) (n : Nat) (x : Product) : (s.setProd n x).tmap = s.tmap := rfl
@[simp] theorem State.setProd_gaps (s : State) (n : Nat) (x : Product) : (s.setProd n x).gaps = s.gaps := rfl
@[simp] theorem State.setProd_gapSeq (s : State) (n : Nat) (x : Product) : (s.setProd n x).gapSeq = s.gapSeq := rfl
@[simp] theorem State.setProd_slots (s : State) (n : Nat) (x : Product) : (s.setProd n x).slots = s.slots := rfl
@[simp] theorem State.setProd_sessions (s : State) (n : Nat) (x : Product) : (s.setProd n x).sessions = s.sessions := rfl
@[simp] theorem State.setProd_flights (s : State) (n : Nat) (x : Product) : (s.setProd n x).flights = s.flights := rfl
@[simp] theorem State.setProd_nextFlight (s : State) (n : Nat) (x : Product) : (s.setProd n x).nextFlight = s.nextFlight := rfl
@[simp] theorem State.setProd_txns (s : State) (n : Nat) (x : Product) : (s.setProd n x).txns = s.txns := rfl
@[simp] theorem State.setProd_nextTxn (s : State) (n : Nat) (x : Product) : (s.setProd n x).nextTxn = s.nextTxn := rfl
@[simp] theorem State.setProd_txnEnded (s : State) (n : Nat) (x : Product) : (s.setProd n x).txnEnded = s.txnEnded := rfl
@[simp] theorem State.setProd_levelTo (s : State) (n : Nat) (x : Product) : (s.setProd n x).levelTo = s.levelTo := rfl
@[simp] theorem State.setProd_periodNo (s : State) (n : Nat) (x : Product) : (s.setProd n x).periodNo = s.periodNo := rfl
@[simp] theorem State.setProd_boosts (s : State) (n : Nat) (x : Product) : (s.setProd n x).boosts = s.boosts := rfl
@[simp] theorem State.setProd_cooled (s : State) (n : Nat) (x : Product) : (s.setProd n x).cooled = s.cooled := rfl
@[simp] theorem State.setProd_wire (s : State) (n : Nat) (x : Product) : (s.setProd n x).wire = s.wire := rfl
@[simp] theorem State.setProd_fab (s : State) (n : Nat) (x : Product) : (s.setProd n x).fab = s.fab := rfl
@[simp] theorem State.setProd_twin (s : State) (n : Nat) (x : Product) : (s.setProd n x).twin = s.twin := rfl
@[simp] theorem State.setProd_lockRec (s : State) (n : Nat) (x : Product) : (s.setProd n x).lockRec = s.lockRec := rfl
@[simp] theorem State.setProd_power (s : State) (n : Nat) (x : Product) : (s.setProd n x).power = s.power := rfl
@[simp] theorem State.setProd_holdB (s : State) (n : Nat) (x : Product) : (s.setProd n x).holdB = s.holdB := rfl
@[simp] theorem State.setProd_holdC (s : State) (n : Nat) (x : Product) : (s.setProd n x).holdC = s.holdC := rfl
@[simp] theorem State.setProd_threads (s : State) (n : Nat) (x : Product) : (s.setProd n x).threads = s.threads := rfl
@[simp] theorem State.setProd_imem (s : State) (n : Nat) (x : Product) : (s.setProd n x).imem = s.imem := rfl
@[simp] theorem State.setProd_dmem (s : State) (n : Nat) (x : Product) : (s.setProd n x).dmem = s.dmem := rfl
@[simp] theorem State.setProd_dmemDirty (s : State) (n : Nat) (x : Product) : (s.setProd n x).dmemDirty = s.dmemDirty := rfl
@[simp] theorem State.setProd_memErrs (s : State) (n : Nat) (x : Product) : (s.setProd n x).memErrs = s.memErrs := rfl
@[simp] theorem State.setProd_bluCycles (s : State) (n : Nat) (x : Product) : (s.setProd n x).bluCycles = s.bluCycles := rfl
@[simp] theorem State.setProd_bluSeq (s : State) (n : Nat) (x : Product) : (s.setProd n x).bluSeq = s.bluSeq := rfl
@[simp] theorem State.setProd_poQueue (s : State) (n : Nat) (x : Product) : (s.setProd n x).poQueue = s.poQueue := rfl
@[simp] theorem State.setProd_phiTrail (s : State) (n : Nat) (x : Product) : (s.setProd n x).phiTrail = s.phiTrail := rfl
@[simp] theorem State.setProd_canary (s : State) (n : Nat) (x : Product) : (s.setProd n x).canary = s.canary := rfl
@[simp] theorem State.setProd_aon (s : State) (n : Nat) (x : Product) : (s.setProd n x).aon = s.aon := rfl
@[simp] theorem State.setProd_wakeAt (s : State) (n : Nat) (x : Product) : (s.setProd n x).wakeAt = s.wakeAt := rfl
@[simp] theorem State.setProd_watchNext (s : State) (n : Nat) (x : Product) : (s.setProd n x).watchNext = s.watchNext := rfl
@[simp] theorem State.setProd_saved (s : State) (n : Nat) (x : Product) : (s.setProd n x).saved = s.saved := rfl
@[simp] theorem State.setProd_prodWas (s : State) (n : Nat) (x : Product) : (s.setProd n x).prodWas = s.prodWas := rfl
@[simp] theorem State.setProd_arrivals (s : State) (n : Nat) (x : Product) : (s.setProd n x).arrivals = s.arrivals := rfl
@[simp] theorem State.setProd_prodFresh (s : State) (n : Nat) (x : Product) : (s.setProd n x).prodFresh = s.prodFresh := rfl
@[simp] theorem State.setProd_prodFree (s : State) (n : Nat) (x : Product) : (s.setProd n x).prodFree = s.prodFree := rfl
@[simp] theorem State.setProd_pidSeq (s : State) (n : Nat) (x : Product) : (s.setProd n x).pidSeq = s.pidSeq := rfl
@[simp] theorem State.setProd_ephLanes (s : State) (n : Nat) (x : Product) : (s.setProd n x).ephLanes = s.ephLanes := rfl
@[simp] theorem State.setProd_stnTick (s : State) (n : Nat) (x : Product) : (s.setProd n x).stnTick = s.stnTick := rfl
@[simp] theorem State.setProd_storeFullAt (s : State) (n : Nat) (x : Product) : (s.setProd n x).storeFullAt = s.storeFullAt := rfl
@[simp] theorem State.setProd_handoffs (s : State) (n : Nat) (x : Product) : (s.setProd n x).handoffs = s.handoffs := rfl
@[simp] theorem State.setProd_pidsSeen (s : State) (n : Nat) (x : Product) : (s.setProd n x).pidsSeen = s.pidsSeen := rfl
@[simp] theorem State.setProd_jobs (s : State) (n : Nat) (x : Product) : (s.setProd n x).jobs = s.jobs := rfl
@[simp] theorem State.setProd_nextJob (s : State) (n : Nat) (x : Product) : (s.setProd n x).nextJob = s.nextJob := rfl
@[simp] theorem State.setProd_serialsIn (s : State) (n : Nat) (x : Product) : (s.setProd n x).serialsIn = s.serialsIn := rfl
@[simp] theorem State.setProd_reservationAcks (s : State) (n : Nat) (x : Product) : (s.setProd n x).reservationAcks = s.reservationAcks := rfl
@[simp] theorem State.setProd_gens (s : State) (n : Nat) (x : Product) : (s.setProd n x).gens = s.gens := rfl
@[simp] theorem State.setProd_heldCal (s : State) (n : Nat) (x : Product) : (s.setProd n x).heldCal = s.heldCal := rfl
@[simp] theorem State.setProd_noDateOn (s : State) (n : Nat) (x : Product) : (s.setProd n x).noDateOn = s.noDateOn := rfl
@[simp] theorem State.setProd_raster (s : State) (n : Nat) (x : Product) : (s.setProd n x).raster = s.raster := rfl
@[simp] theorem State.setProd_pool (s : State) (n : Nat) (x : Product) : (s.setProd n x).pool = s.pool := rfl
@[simp] theorem State.setProd_poison (s : State) (n : Nat) (x : Product) : (s.setProd n x).poison = s.poison := rfl
@[simp] theorem State.setProd_extents (s : State) (n : Nat) (x : Product) : (s.setProd n x).extents = s.extents := rfl
@[simp] theorem State.setProd_dmas (s : State) (n : Nat) (x : Product) : (s.setProd n x).dmas = s.dmas := rfl
@[simp] theorem State.setProd_scrubPos (s : State) (n : Nat) (x : Product) : (s.setProd n x).scrubPos = s.scrubPos := rfl
@[simp] theorem State.setProd_boot (s : State) (n : Nat) (x : Product) : (s.setProd n x).boot = s.boot := rfl

@[simp] theorem State.setLane_pending (s : State) (n : Nat) (x : EphLane) : (s.setLane n x).pending = s.pending := rfl
@[simp] theorem State.setLane_time (s : State) (n : Nat) (x : EphLane) : (s.setLane n x).time = s.time := rfl
@[simp] theorem State.setLane_regs (s : State) (n : Nat) (x : EphLane) : (s.setLane n x).regs = s.regs := rfl
@[simp] theorem State.setLane_free (s : State) (n : Nat) (x : EphLane) : (s.setLane n x).free = s.free := rfl
@[simp] theorem State.setLane_completion (s : State) (n : Nat) (x : EphLane) : (s.setLane n x).completion = s.completion := rfl
@[simp] theorem State.setLane_liveWas (s : State) (n : Nat) (x : EphLane) : (s.setLane n x).liveWas = s.liveWas := rfl
@[simp] theorem State.setLane_shutdown (s : State) (n : Nat) (x : EphLane) : (s.setLane n x).shutdown = s.shutdown := rfl
@[simp] theorem State.setLane_leaseOk (s : State) (n : Nat) (x : EphLane) : (s.setLane n x).leaseOk = s.leaseOk := rfl
@[simp] theorem State.setLane_shafts (s : State) (n : Nat) (x : EphLane) : (s.setLane n x).shafts = s.shafts := rfl
@[simp] theorem State.setLane_ports (s : State) (n : Nat) (x : EphLane) : (s.setLane n x).ports = s.ports := rfl
@[simp] theorem State.setLane_cells (s : State) (n : Nat) (x : EphLane) : (s.setLane n x).cells = s.cells := rfl
@[simp] theorem State.setLane_events (s : State) (n : Nat) (x : EphLane) : (s.setLane n x).events = s.events := rfl
@[simp] theorem State.setLane_almQueue (s : State) (n : Nat) (x : EphLane) : (s.setLane n x).almQueue = s.almQueue := rfl
@[simp] theorem State.setLane_almWork (s : State) (n : Nat) (x : EphLane) : (s.setLane n x).almWork = s.almWork := rfl
@[simp] theorem State.setLane_leadEl (s : State) (n : Nat) (x : EphLane) : (s.setLane n x).leadEl = s.leadEl := rfl
@[simp] theorem State.setLane_leadPo (s : State) (n : Nat) (x : EphLane) : (s.setLane n x).leadPo = s.leadPo := rfl
@[simp] theorem State.setLane_outs (s : State) (n : Nat) (x : EphLane) : (s.setLane n x).outs = s.outs := rfl
@[simp] theorem State.setLane_lines (s : State) (n : Nat) (x : EphLane) : (s.setLane n x).lines = s.lines := rfl
@[simp] theorem State.setLane_lineAt (s : State) (n : Nat) (x : EphLane) : (s.setLane n x).lineAt = s.lineAt := rfl
@[simp] theorem State.setLane_actOld (s : State) (n : Nat) (x : EphLane) : (s.setLane n x).actOld = s.actOld := rfl
@[simp] theorem State.setLane_chains (s : State) (n : Nat) (x : EphLane) : (s.setLane n x).chains = s.chains := rfl
@[simp] theorem State.setLane_pwms (s : State) (n : Nat) (x : EphLane) : (s.setLane n x).pwms = s.pwms := rfl
@[simp] theorem State.setLane_trips (s : State) (n : Nat) (x : EphLane) : (s.setLane n x).trips = s.trips := rfl
@[simp] theorem State.setLane_adcs (s : State) (n : Nat) (x : EphLane) : (s.setLane n x).adcs = s.adcs := rfl
@[simp] theorem State.setLane_fresh (s : State) (n : Nat) (x : EphLane) : (s.setLane n x).fresh = s.fresh := rfl
@[simp] theorem State.setLane_ntf (s : State) (n : Nat) (x : EphLane) : (s.setLane n x).ntf = s.ntf := rfl
@[simp] theorem State.setLane_ntfTgt (s : State) (n : Nat) (x : EphLane) : (s.setLane n x).ntfTgt = s.ntfTgt := rfl
@[simp] theorem State.setLane_faults (s : State) (n : Nat) (x : EphLane) : (s.setLane n x).faults = s.faults := rfl
@[simp] theorem State.setLane_staging (s : State) (n : Nat) (x : EphLane) : (s.setLane n x).staging = s.staging := rfl
@[simp] theorem State.setLane_flash (s : State) (n : Nat) (x : EphLane) : (s.setLane n x).flash = s.flash := rfl
@[simp] theorem State.setLane_flogSeq (s : State) (n : Nat) (x : EphLane) : (s.setLane n x).flogSeq = s.flogSeq := rfl
@[simp] theorem State.setLane_logAt (s : State) (n : Nat) (x : EphLane) : (s.setLane n x).logAt = s.logAt := rfl
@[simp] theorem State.setLane_selAt (s : State) (n : Nat) (x : EphLane) : (s.setLane n x).selAt = s.selAt := rfl
@[simp] theorem State.setLane_safeAt (s : State) (n : Nat) (x : EphLane) : (s.setLane n x).safeAt = s.safeAt := rfl
@[simp] theorem State.setLane_permitted (s : State) (n : Nat) (x : EphLane) : (s.setLane n x).permitted = s.permitted := rfl
@[simp] theorem State.setLane_tallies (s : State) (n : Nat) (x : EphLane) : (s.setLane n x).tallies = s.tallies := rfl
@[simp] theorem State.setLane_tallyMram (s : State) (n : Nat) (x : EphLane) : (s.setLane n x).tallyMram = s.tallyMram := rfl
@[simp] theorem State.setLane_cal (s : State) (n : Nat) (x : EphLane) : (s.setLane n x).cal = s.cal := rfl
@[simp] theorem State.setLane_calErr (s : State) (n : Nat) (x : EphLane) : (s.setLane n x).calErr = s.calErr := rfl
@[simp] theorem State.setLane_calSet (s : State) (n : Nat) (x : EphLane) : (s.setLane n x).calSet = s.calSet := rfl
@[simp] theorem State.setLane_leapNow (s : State) (n : Nat) (x : EphLane) : (s.setLane n x).leapNow = s.leapNow := rfl
@[simp] theorem State.setLane_refLoaded (s : State) (n : Nat) (x : EphLane) : (s.setLane n x).refLoaded = s.refLoaded := rfl
@[simp] theorem State.setLane_lastFlush (s : State) (n : Nat) (x : EphLane) : (s.setLane n x).lastFlush = s.lastFlush := rfl
@[simp] theorem State.setLane_tmap (s : State) (n : Nat) (x : EphLane) : (s.setLane n x).tmap = s.tmap := rfl
@[simp] theorem State.setLane_gaps (s : State) (n : Nat) (x : EphLane) : (s.setLane n x).gaps = s.gaps := rfl
@[simp] theorem State.setLane_gapSeq (s : State) (n : Nat) (x : EphLane) : (s.setLane n x).gapSeq = s.gapSeq := rfl
@[simp] theorem State.setLane_slots (s : State) (n : Nat) (x : EphLane) : (s.setLane n x).slots = s.slots := rfl
@[simp] theorem State.setLane_sessions (s : State) (n : Nat) (x : EphLane) : (s.setLane n x).sessions = s.sessions := rfl
@[simp] theorem State.setLane_flights (s : State) (n : Nat) (x : EphLane) : (s.setLane n x).flights = s.flights := rfl
@[simp] theorem State.setLane_nextFlight (s : State) (n : Nat) (x : EphLane) : (s.setLane n x).nextFlight = s.nextFlight := rfl
@[simp] theorem State.setLane_txns (s : State) (n : Nat) (x : EphLane) : (s.setLane n x).txns = s.txns := rfl
@[simp] theorem State.setLane_nextTxn (s : State) (n : Nat) (x : EphLane) : (s.setLane n x).nextTxn = s.nextTxn := rfl
@[simp] theorem State.setLane_txnEnded (s : State) (n : Nat) (x : EphLane) : (s.setLane n x).txnEnded = s.txnEnded := rfl
@[simp] theorem State.setLane_levelTo (s : State) (n : Nat) (x : EphLane) : (s.setLane n x).levelTo = s.levelTo := rfl
@[simp] theorem State.setLane_periodNo (s : State) (n : Nat) (x : EphLane) : (s.setLane n x).periodNo = s.periodNo := rfl
@[simp] theorem State.setLane_boosts (s : State) (n : Nat) (x : EphLane) : (s.setLane n x).boosts = s.boosts := rfl
@[simp] theorem State.setLane_cooled (s : State) (n : Nat) (x : EphLane) : (s.setLane n x).cooled = s.cooled := rfl
@[simp] theorem State.setLane_wire (s : State) (n : Nat) (x : EphLane) : (s.setLane n x).wire = s.wire := rfl
@[simp] theorem State.setLane_fab (s : State) (n : Nat) (x : EphLane) : (s.setLane n x).fab = s.fab := rfl
@[simp] theorem State.setLane_twin (s : State) (n : Nat) (x : EphLane) : (s.setLane n x).twin = s.twin := rfl
@[simp] theorem State.setLane_lockRec (s : State) (n : Nat) (x : EphLane) : (s.setLane n x).lockRec = s.lockRec := rfl
@[simp] theorem State.setLane_power (s : State) (n : Nat) (x : EphLane) : (s.setLane n x).power = s.power := rfl
@[simp] theorem State.setLane_holdB (s : State) (n : Nat) (x : EphLane) : (s.setLane n x).holdB = s.holdB := rfl
@[simp] theorem State.setLane_holdC (s : State) (n : Nat) (x : EphLane) : (s.setLane n x).holdC = s.holdC := rfl
@[simp] theorem State.setLane_threads (s : State) (n : Nat) (x : EphLane) : (s.setLane n x).threads = s.threads := rfl
@[simp] theorem State.setLane_imem (s : State) (n : Nat) (x : EphLane) : (s.setLane n x).imem = s.imem := rfl
@[simp] theorem State.setLane_dmem (s : State) (n : Nat) (x : EphLane) : (s.setLane n x).dmem = s.dmem := rfl
@[simp] theorem State.setLane_dmemDirty (s : State) (n : Nat) (x : EphLane) : (s.setLane n x).dmemDirty = s.dmemDirty := rfl
@[simp] theorem State.setLane_memErrs (s : State) (n : Nat) (x : EphLane) : (s.setLane n x).memErrs = s.memErrs := rfl
@[simp] theorem State.setLane_bluCycles (s : State) (n : Nat) (x : EphLane) : (s.setLane n x).bluCycles = s.bluCycles := rfl
@[simp] theorem State.setLane_bluSeq (s : State) (n : Nat) (x : EphLane) : (s.setLane n x).bluSeq = s.bluSeq := rfl
@[simp] theorem State.setLane_poQueue (s : State) (n : Nat) (x : EphLane) : (s.setLane n x).poQueue = s.poQueue := rfl
@[simp] theorem State.setLane_phiTrail (s : State) (n : Nat) (x : EphLane) : (s.setLane n x).phiTrail = s.phiTrail := rfl
@[simp] theorem State.setLane_canary (s : State) (n : Nat) (x : EphLane) : (s.setLane n x).canary = s.canary := rfl
@[simp] theorem State.setLane_aon (s : State) (n : Nat) (x : EphLane) : (s.setLane n x).aon = s.aon := rfl
@[simp] theorem State.setLane_wakeAt (s : State) (n : Nat) (x : EphLane) : (s.setLane n x).wakeAt = s.wakeAt := rfl
@[simp] theorem State.setLane_watchNext (s : State) (n : Nat) (x : EphLane) : (s.setLane n x).watchNext = s.watchNext := rfl
@[simp] theorem State.setLane_saved (s : State) (n : Nat) (x : EphLane) : (s.setLane n x).saved = s.saved := rfl
@[simp] theorem State.setLane_products (s : State) (n : Nat) (x : EphLane) : (s.setLane n x).products = s.products := rfl
@[simp] theorem State.setLane_prodWas (s : State) (n : Nat) (x : EphLane) : (s.setLane n x).prodWas = s.prodWas := rfl
@[simp] theorem State.setLane_arrivals (s : State) (n : Nat) (x : EphLane) : (s.setLane n x).arrivals = s.arrivals := rfl
@[simp] theorem State.setLane_prodFresh (s : State) (n : Nat) (x : EphLane) : (s.setLane n x).prodFresh = s.prodFresh := rfl
@[simp] theorem State.setLane_prodFree (s : State) (n : Nat) (x : EphLane) : (s.setLane n x).prodFree = s.prodFree := rfl
@[simp] theorem State.setLane_pidSeq (s : State) (n : Nat) (x : EphLane) : (s.setLane n x).pidSeq = s.pidSeq := rfl
@[simp] theorem State.setLane_stnTick (s : State) (n : Nat) (x : EphLane) : (s.setLane n x).stnTick = s.stnTick := rfl
@[simp] theorem State.setLane_storeFullAt (s : State) (n : Nat) (x : EphLane) : (s.setLane n x).storeFullAt = s.storeFullAt := rfl
@[simp] theorem State.setLane_handoffs (s : State) (n : Nat) (x : EphLane) : (s.setLane n x).handoffs = s.handoffs := rfl
@[simp] theorem State.setLane_pidsSeen (s : State) (n : Nat) (x : EphLane) : (s.setLane n x).pidsSeen = s.pidsSeen := rfl
@[simp] theorem State.setLane_jobs (s : State) (n : Nat) (x : EphLane) : (s.setLane n x).jobs = s.jobs := rfl
@[simp] theorem State.setLane_nextJob (s : State) (n : Nat) (x : EphLane) : (s.setLane n x).nextJob = s.nextJob := rfl
@[simp] theorem State.setLane_serialsIn (s : State) (n : Nat) (x : EphLane) : (s.setLane n x).serialsIn = s.serialsIn := rfl
@[simp] theorem State.setLane_reservationAcks (s : State) (n : Nat) (x : EphLane) : (s.setLane n x).reservationAcks = s.reservationAcks := rfl
@[simp] theorem State.setLane_gens (s : State) (n : Nat) (x : EphLane) : (s.setLane n x).gens = s.gens := rfl
@[simp] theorem State.setLane_heldCal (s : State) (n : Nat) (x : EphLane) : (s.setLane n x).heldCal = s.heldCal := rfl
@[simp] theorem State.setLane_noDateOn (s : State) (n : Nat) (x : EphLane) : (s.setLane n x).noDateOn = s.noDateOn := rfl
@[simp] theorem State.setLane_raster (s : State) (n : Nat) (x : EphLane) : (s.setLane n x).raster = s.raster := rfl
@[simp] theorem State.setLane_pool (s : State) (n : Nat) (x : EphLane) : (s.setLane n x).pool = s.pool := rfl
@[simp] theorem State.setLane_poison (s : State) (n : Nat) (x : EphLane) : (s.setLane n x).poison = s.poison := rfl
@[simp] theorem State.setLane_extents (s : State) (n : Nat) (x : EphLane) : (s.setLane n x).extents = s.extents := rfl
@[simp] theorem State.setLane_dmas (s : State) (n : Nat) (x : EphLane) : (s.setLane n x).dmas = s.dmas := rfl
@[simp] theorem State.setLane_scrubPos (s : State) (n : Nat) (x : EphLane) : (s.setLane n x).scrubPos = s.scrubPos := rfl
@[simp] theorem State.setLane_boot (s : State) (n : Nat) (x : EphLane) : (s.setLane n x).boot = s.boot := rfl

@[simp] theorem State.setRas_pending (s : State) (n : Nat) (x : RasLane) : (s.setRas n x).pending = s.pending := rfl
@[simp] theorem State.setRas_time (s : State) (n : Nat) (x : RasLane) : (s.setRas n x).time = s.time := rfl
@[simp] theorem State.setRas_regs (s : State) (n : Nat) (x : RasLane) : (s.setRas n x).regs = s.regs := rfl
@[simp] theorem State.setRas_free (s : State) (n : Nat) (x : RasLane) : (s.setRas n x).free = s.free := rfl
@[simp] theorem State.setRas_completion (s : State) (n : Nat) (x : RasLane) : (s.setRas n x).completion = s.completion := rfl
@[simp] theorem State.setRas_liveWas (s : State) (n : Nat) (x : RasLane) : (s.setRas n x).liveWas = s.liveWas := rfl
@[simp] theorem State.setRas_shutdown (s : State) (n : Nat) (x : RasLane) : (s.setRas n x).shutdown = s.shutdown := rfl
@[simp] theorem State.setRas_leaseOk (s : State) (n : Nat) (x : RasLane) : (s.setRas n x).leaseOk = s.leaseOk := rfl
@[simp] theorem State.setRas_shafts (s : State) (n : Nat) (x : RasLane) : (s.setRas n x).shafts = s.shafts := rfl
@[simp] theorem State.setRas_ports (s : State) (n : Nat) (x : RasLane) : (s.setRas n x).ports = s.ports := rfl
@[simp] theorem State.setRas_cells (s : State) (n : Nat) (x : RasLane) : (s.setRas n x).cells = s.cells := rfl
@[simp] theorem State.setRas_events (s : State) (n : Nat) (x : RasLane) : (s.setRas n x).events = s.events := rfl
@[simp] theorem State.setRas_almQueue (s : State) (n : Nat) (x : RasLane) : (s.setRas n x).almQueue = s.almQueue := rfl
@[simp] theorem State.setRas_almWork (s : State) (n : Nat) (x : RasLane) : (s.setRas n x).almWork = s.almWork := rfl
@[simp] theorem State.setRas_leadEl (s : State) (n : Nat) (x : RasLane) : (s.setRas n x).leadEl = s.leadEl := rfl
@[simp] theorem State.setRas_leadPo (s : State) (n : Nat) (x : RasLane) : (s.setRas n x).leadPo = s.leadPo := rfl
@[simp] theorem State.setRas_outs (s : State) (n : Nat) (x : RasLane) : (s.setRas n x).outs = s.outs := rfl
@[simp] theorem State.setRas_lines (s : State) (n : Nat) (x : RasLane) : (s.setRas n x).lines = s.lines := rfl
@[simp] theorem State.setRas_lineAt (s : State) (n : Nat) (x : RasLane) : (s.setRas n x).lineAt = s.lineAt := rfl
@[simp] theorem State.setRas_actOld (s : State) (n : Nat) (x : RasLane) : (s.setRas n x).actOld = s.actOld := rfl
@[simp] theorem State.setRas_chains (s : State) (n : Nat) (x : RasLane) : (s.setRas n x).chains = s.chains := rfl
@[simp] theorem State.setRas_pwms (s : State) (n : Nat) (x : RasLane) : (s.setRas n x).pwms = s.pwms := rfl
@[simp] theorem State.setRas_trips (s : State) (n : Nat) (x : RasLane) : (s.setRas n x).trips = s.trips := rfl
@[simp] theorem State.setRas_adcs (s : State) (n : Nat) (x : RasLane) : (s.setRas n x).adcs = s.adcs := rfl
@[simp] theorem State.setRas_fresh (s : State) (n : Nat) (x : RasLane) : (s.setRas n x).fresh = s.fresh := rfl
@[simp] theorem State.setRas_ntf (s : State) (n : Nat) (x : RasLane) : (s.setRas n x).ntf = s.ntf := rfl
@[simp] theorem State.setRas_ntfTgt (s : State) (n : Nat) (x : RasLane) : (s.setRas n x).ntfTgt = s.ntfTgt := rfl
@[simp] theorem State.setRas_faults (s : State) (n : Nat) (x : RasLane) : (s.setRas n x).faults = s.faults := rfl
@[simp] theorem State.setRas_staging (s : State) (n : Nat) (x : RasLane) : (s.setRas n x).staging = s.staging := rfl
@[simp] theorem State.setRas_flash (s : State) (n : Nat) (x : RasLane) : (s.setRas n x).flash = s.flash := rfl
@[simp] theorem State.setRas_flogSeq (s : State) (n : Nat) (x : RasLane) : (s.setRas n x).flogSeq = s.flogSeq := rfl
@[simp] theorem State.setRas_logAt (s : State) (n : Nat) (x : RasLane) : (s.setRas n x).logAt = s.logAt := rfl
@[simp] theorem State.setRas_selAt (s : State) (n : Nat) (x : RasLane) : (s.setRas n x).selAt = s.selAt := rfl
@[simp] theorem State.setRas_safeAt (s : State) (n : Nat) (x : RasLane) : (s.setRas n x).safeAt = s.safeAt := rfl
@[simp] theorem State.setRas_permitted (s : State) (n : Nat) (x : RasLane) : (s.setRas n x).permitted = s.permitted := rfl
@[simp] theorem State.setRas_tallies (s : State) (n : Nat) (x : RasLane) : (s.setRas n x).tallies = s.tallies := rfl
@[simp] theorem State.setRas_tallyMram (s : State) (n : Nat) (x : RasLane) : (s.setRas n x).tallyMram = s.tallyMram := rfl
@[simp] theorem State.setRas_cal (s : State) (n : Nat) (x : RasLane) : (s.setRas n x).cal = s.cal := rfl
@[simp] theorem State.setRas_calErr (s : State) (n : Nat) (x : RasLane) : (s.setRas n x).calErr = s.calErr := rfl
@[simp] theorem State.setRas_calSet (s : State) (n : Nat) (x : RasLane) : (s.setRas n x).calSet = s.calSet := rfl
@[simp] theorem State.setRas_leapNow (s : State) (n : Nat) (x : RasLane) : (s.setRas n x).leapNow = s.leapNow := rfl
@[simp] theorem State.setRas_refLoaded (s : State) (n : Nat) (x : RasLane) : (s.setRas n x).refLoaded = s.refLoaded := rfl
@[simp] theorem State.setRas_lastFlush (s : State) (n : Nat) (x : RasLane) : (s.setRas n x).lastFlush = s.lastFlush := rfl
@[simp] theorem State.setRas_tmap (s : State) (n : Nat) (x : RasLane) : (s.setRas n x).tmap = s.tmap := rfl
@[simp] theorem State.setRas_gaps (s : State) (n : Nat) (x : RasLane) : (s.setRas n x).gaps = s.gaps := rfl
@[simp] theorem State.setRas_gapSeq (s : State) (n : Nat) (x : RasLane) : (s.setRas n x).gapSeq = s.gapSeq := rfl
@[simp] theorem State.setRas_slots (s : State) (n : Nat) (x : RasLane) : (s.setRas n x).slots = s.slots := rfl
@[simp] theorem State.setRas_sessions (s : State) (n : Nat) (x : RasLane) : (s.setRas n x).sessions = s.sessions := rfl
@[simp] theorem State.setRas_flights (s : State) (n : Nat) (x : RasLane) : (s.setRas n x).flights = s.flights := rfl
@[simp] theorem State.setRas_nextFlight (s : State) (n : Nat) (x : RasLane) : (s.setRas n x).nextFlight = s.nextFlight := rfl
@[simp] theorem State.setRas_txns (s : State) (n : Nat) (x : RasLane) : (s.setRas n x).txns = s.txns := rfl
@[simp] theorem State.setRas_nextTxn (s : State) (n : Nat) (x : RasLane) : (s.setRas n x).nextTxn = s.nextTxn := rfl
@[simp] theorem State.setRas_txnEnded (s : State) (n : Nat) (x : RasLane) : (s.setRas n x).txnEnded = s.txnEnded := rfl
@[simp] theorem State.setRas_levelTo (s : State) (n : Nat) (x : RasLane) : (s.setRas n x).levelTo = s.levelTo := rfl
@[simp] theorem State.setRas_periodNo (s : State) (n : Nat) (x : RasLane) : (s.setRas n x).periodNo = s.periodNo := rfl
@[simp] theorem State.setRas_boosts (s : State) (n : Nat) (x : RasLane) : (s.setRas n x).boosts = s.boosts := rfl
@[simp] theorem State.setRas_cooled (s : State) (n : Nat) (x : RasLane) : (s.setRas n x).cooled = s.cooled := rfl
@[simp] theorem State.setRas_wire (s : State) (n : Nat) (x : RasLane) : (s.setRas n x).wire = s.wire := rfl
@[simp] theorem State.setRas_fab (s : State) (n : Nat) (x : RasLane) : (s.setRas n x).fab = s.fab := rfl
@[simp] theorem State.setRas_twin (s : State) (n : Nat) (x : RasLane) : (s.setRas n x).twin = s.twin := rfl
@[simp] theorem State.setRas_lockRec (s : State) (n : Nat) (x : RasLane) : (s.setRas n x).lockRec = s.lockRec := rfl
@[simp] theorem State.setRas_power (s : State) (n : Nat) (x : RasLane) : (s.setRas n x).power = s.power := rfl
@[simp] theorem State.setRas_holdB (s : State) (n : Nat) (x : RasLane) : (s.setRas n x).holdB = s.holdB := rfl
@[simp] theorem State.setRas_holdC (s : State) (n : Nat) (x : RasLane) : (s.setRas n x).holdC = s.holdC := rfl
@[simp] theorem State.setRas_threads (s : State) (n : Nat) (x : RasLane) : (s.setRas n x).threads = s.threads := rfl
@[simp] theorem State.setRas_imem (s : State) (n : Nat) (x : RasLane) : (s.setRas n x).imem = s.imem := rfl
@[simp] theorem State.setRas_dmem (s : State) (n : Nat) (x : RasLane) : (s.setRas n x).dmem = s.dmem := rfl
@[simp] theorem State.setRas_dmemDirty (s : State) (n : Nat) (x : RasLane) : (s.setRas n x).dmemDirty = s.dmemDirty := rfl
@[simp] theorem State.setRas_memErrs (s : State) (n : Nat) (x : RasLane) : (s.setRas n x).memErrs = s.memErrs := rfl
@[simp] theorem State.setRas_bluCycles (s : State) (n : Nat) (x : RasLane) : (s.setRas n x).bluCycles = s.bluCycles := rfl
@[simp] theorem State.setRas_bluSeq (s : State) (n : Nat) (x : RasLane) : (s.setRas n x).bluSeq = s.bluSeq := rfl
@[simp] theorem State.setRas_poQueue (s : State) (n : Nat) (x : RasLane) : (s.setRas n x).poQueue = s.poQueue := rfl
@[simp] theorem State.setRas_phiTrail (s : State) (n : Nat) (x : RasLane) : (s.setRas n x).phiTrail = s.phiTrail := rfl
@[simp] theorem State.setRas_canary (s : State) (n : Nat) (x : RasLane) : (s.setRas n x).canary = s.canary := rfl
@[simp] theorem State.setRas_aon (s : State) (n : Nat) (x : RasLane) : (s.setRas n x).aon = s.aon := rfl
@[simp] theorem State.setRas_wakeAt (s : State) (n : Nat) (x : RasLane) : (s.setRas n x).wakeAt = s.wakeAt := rfl
@[simp] theorem State.setRas_watchNext (s : State) (n : Nat) (x : RasLane) : (s.setRas n x).watchNext = s.watchNext := rfl
@[simp] theorem State.setRas_saved (s : State) (n : Nat) (x : RasLane) : (s.setRas n x).saved = s.saved := rfl
@[simp] theorem State.setRas_products (s : State) (n : Nat) (x : RasLane) : (s.setRas n x).products = s.products := rfl
@[simp] theorem State.setRas_prodWas (s : State) (n : Nat) (x : RasLane) : (s.setRas n x).prodWas = s.prodWas := rfl
@[simp] theorem State.setRas_arrivals (s : State) (n : Nat) (x : RasLane) : (s.setRas n x).arrivals = s.arrivals := rfl
@[simp] theorem State.setRas_prodFresh (s : State) (n : Nat) (x : RasLane) : (s.setRas n x).prodFresh = s.prodFresh := rfl
@[simp] theorem State.setRas_prodFree (s : State) (n : Nat) (x : RasLane) : (s.setRas n x).prodFree = s.prodFree := rfl
@[simp] theorem State.setRas_pidSeq (s : State) (n : Nat) (x : RasLane) : (s.setRas n x).pidSeq = s.pidSeq := rfl
@[simp] theorem State.setRas_ephLanes (s : State) (n : Nat) (x : RasLane) : (s.setRas n x).ephLanes = s.ephLanes := rfl
@[simp] theorem State.setRas_stnTick (s : State) (n : Nat) (x : RasLane) : (s.setRas n x).stnTick = s.stnTick := rfl
@[simp] theorem State.setRas_storeFullAt (s : State) (n : Nat) (x : RasLane) : (s.setRas n x).storeFullAt = s.storeFullAt := rfl
@[simp] theorem State.setRas_handoffs (s : State) (n : Nat) (x : RasLane) : (s.setRas n x).handoffs = s.handoffs := rfl
@[simp] theorem State.setRas_pidsSeen (s : State) (n : Nat) (x : RasLane) : (s.setRas n x).pidsSeen = s.pidsSeen := rfl
@[simp] theorem State.setRas_jobs (s : State) (n : Nat) (x : RasLane) : (s.setRas n x).jobs = s.jobs := rfl
@[simp] theorem State.setRas_nextJob (s : State) (n : Nat) (x : RasLane) : (s.setRas n x).nextJob = s.nextJob := rfl
@[simp] theorem State.setRas_serialsIn (s : State) (n : Nat) (x : RasLane) : (s.setRas n x).serialsIn = s.serialsIn := rfl
@[simp] theorem State.setRas_reservationAcks (s : State) (n : Nat) (x : RasLane) : (s.setRas n x).reservationAcks = s.reservationAcks := rfl
@[simp] theorem State.setRas_gens (s : State) (n : Nat) (x : RasLane) : (s.setRas n x).gens = s.gens := rfl
@[simp] theorem State.setRas_heldCal (s : State) (n : Nat) (x : RasLane) : (s.setRas n x).heldCal = s.heldCal := rfl
@[simp] theorem State.setRas_noDateOn (s : State) (n : Nat) (x : RasLane) : (s.setRas n x).noDateOn = s.noDateOn := rfl
@[simp] theorem State.setRas_pool (s : State) (n : Nat) (x : RasLane) : (s.setRas n x).pool = s.pool := rfl
@[simp] theorem State.setRas_poison (s : State) (n : Nat) (x : RasLane) : (s.setRas n x).poison = s.poison := rfl
@[simp] theorem State.setRas_extents (s : State) (n : Nat) (x : RasLane) : (s.setRas n x).extents = s.extents := rfl
@[simp] theorem State.setRas_dmas (s : State) (n : Nat) (x : RasLane) : (s.setRas n x).dmas = s.dmas := rfl
@[simp] theorem State.setRas_scrubPos (s : State) (n : Nat) (x : RasLane) : (s.setRas n x).scrubPos = s.scrubPos := rfl
@[simp] theorem State.setRas_boot (s : State) (n : Nat) (x : RasLane) : (s.setRas n x).boot = s.boot := rfl

@[simp] theorem State.setEdgeQ_pending (s : State) (n : Nat) (x : List QEdge) : (s.setEdgeQ n x).pending = s.pending := rfl
@[simp] theorem State.setEdgeQ_time (s : State) (n : Nat) (x : List QEdge) : (s.setEdgeQ n x).time = s.time := rfl
@[simp] theorem State.setEdgeQ_regs (s : State) (n : Nat) (x : List QEdge) : (s.setEdgeQ n x).regs = s.regs := rfl
@[simp] theorem State.setEdgeQ_free (s : State) (n : Nat) (x : List QEdge) : (s.setEdgeQ n x).free = s.free := rfl
@[simp] theorem State.setEdgeQ_completion (s : State) (n : Nat) (x : List QEdge) : (s.setEdgeQ n x).completion = s.completion := rfl
@[simp] theorem State.setEdgeQ_liveWas (s : State) (n : Nat) (x : List QEdge) : (s.setEdgeQ n x).liveWas = s.liveWas := rfl
@[simp] theorem State.setEdgeQ_shutdown (s : State) (n : Nat) (x : List QEdge) : (s.setEdgeQ n x).shutdown = s.shutdown := rfl
@[simp] theorem State.setEdgeQ_leaseOk (s : State) (n : Nat) (x : List QEdge) : (s.setEdgeQ n x).leaseOk = s.leaseOk := rfl
@[simp] theorem State.setEdgeQ_shafts (s : State) (n : Nat) (x : List QEdge) : (s.setEdgeQ n x).shafts = s.shafts := rfl
@[simp] theorem State.setEdgeQ_ports (s : State) (n : Nat) (x : List QEdge) : (s.setEdgeQ n x).ports = s.ports := rfl
@[simp] theorem State.setEdgeQ_cells (s : State) (n : Nat) (x : List QEdge) : (s.setEdgeQ n x).cells = s.cells := rfl
@[simp] theorem State.setEdgeQ_events (s : State) (n : Nat) (x : List QEdge) : (s.setEdgeQ n x).events = s.events := rfl
@[simp] theorem State.setEdgeQ_almQueue (s : State) (n : Nat) (x : List QEdge) : (s.setEdgeQ n x).almQueue = s.almQueue := rfl
@[simp] theorem State.setEdgeQ_almWork (s : State) (n : Nat) (x : List QEdge) : (s.setEdgeQ n x).almWork = s.almWork := rfl
@[simp] theorem State.setEdgeQ_leadEl (s : State) (n : Nat) (x : List QEdge) : (s.setEdgeQ n x).leadEl = s.leadEl := rfl
@[simp] theorem State.setEdgeQ_leadPo (s : State) (n : Nat) (x : List QEdge) : (s.setEdgeQ n x).leadPo = s.leadPo := rfl
@[simp] theorem State.setEdgeQ_outs (s : State) (n : Nat) (x : List QEdge) : (s.setEdgeQ n x).outs = s.outs := rfl
@[simp] theorem State.setEdgeQ_lines (s : State) (n : Nat) (x : List QEdge) : (s.setEdgeQ n x).lines = s.lines := rfl
@[simp] theorem State.setEdgeQ_lineAt (s : State) (n : Nat) (x : List QEdge) : (s.setEdgeQ n x).lineAt = s.lineAt := rfl
@[simp] theorem State.setEdgeQ_actOld (s : State) (n : Nat) (x : List QEdge) : (s.setEdgeQ n x).actOld = s.actOld := rfl
@[simp] theorem State.setEdgeQ_chains (s : State) (n : Nat) (x : List QEdge) : (s.setEdgeQ n x).chains = s.chains := rfl
@[simp] theorem State.setEdgeQ_pwms (s : State) (n : Nat) (x : List QEdge) : (s.setEdgeQ n x).pwms = s.pwms := rfl
@[simp] theorem State.setEdgeQ_trips (s : State) (n : Nat) (x : List QEdge) : (s.setEdgeQ n x).trips = s.trips := rfl
@[simp] theorem State.setEdgeQ_adcs (s : State) (n : Nat) (x : List QEdge) : (s.setEdgeQ n x).adcs = s.adcs := rfl
@[simp] theorem State.setEdgeQ_fresh (s : State) (n : Nat) (x : List QEdge) : (s.setEdgeQ n x).fresh = s.fresh := rfl
@[simp] theorem State.setEdgeQ_ntf (s : State) (n : Nat) (x : List QEdge) : (s.setEdgeQ n x).ntf = s.ntf := rfl
@[simp] theorem State.setEdgeQ_ntfTgt (s : State) (n : Nat) (x : List QEdge) : (s.setEdgeQ n x).ntfTgt = s.ntfTgt := rfl
@[simp] theorem State.setEdgeQ_faults (s : State) (n : Nat) (x : List QEdge) : (s.setEdgeQ n x).faults = s.faults := rfl
@[simp] theorem State.setEdgeQ_staging (s : State) (n : Nat) (x : List QEdge) : (s.setEdgeQ n x).staging = s.staging := rfl
@[simp] theorem State.setEdgeQ_flash (s : State) (n : Nat) (x : List QEdge) : (s.setEdgeQ n x).flash = s.flash := rfl
@[simp] theorem State.setEdgeQ_flogSeq (s : State) (n : Nat) (x : List QEdge) : (s.setEdgeQ n x).flogSeq = s.flogSeq := rfl
@[simp] theorem State.setEdgeQ_logAt (s : State) (n : Nat) (x : List QEdge) : (s.setEdgeQ n x).logAt = s.logAt := rfl
@[simp] theorem State.setEdgeQ_selAt (s : State) (n : Nat) (x : List QEdge) : (s.setEdgeQ n x).selAt = s.selAt := rfl
@[simp] theorem State.setEdgeQ_safeAt (s : State) (n : Nat) (x : List QEdge) : (s.setEdgeQ n x).safeAt = s.safeAt := rfl
@[simp] theorem State.setEdgeQ_permitted (s : State) (n : Nat) (x : List QEdge) : (s.setEdgeQ n x).permitted = s.permitted := rfl
@[simp] theorem State.setEdgeQ_tallies (s : State) (n : Nat) (x : List QEdge) : (s.setEdgeQ n x).tallies = s.tallies := rfl
@[simp] theorem State.setEdgeQ_tallyMram (s : State) (n : Nat) (x : List QEdge) : (s.setEdgeQ n x).tallyMram = s.tallyMram := rfl
@[simp] theorem State.setEdgeQ_cal (s : State) (n : Nat) (x : List QEdge) : (s.setEdgeQ n x).cal = s.cal := rfl
@[simp] theorem State.setEdgeQ_calErr (s : State) (n : Nat) (x : List QEdge) : (s.setEdgeQ n x).calErr = s.calErr := rfl
@[simp] theorem State.setEdgeQ_calSet (s : State) (n : Nat) (x : List QEdge) : (s.setEdgeQ n x).calSet = s.calSet := rfl
@[simp] theorem State.setEdgeQ_leapNow (s : State) (n : Nat) (x : List QEdge) : (s.setEdgeQ n x).leapNow = s.leapNow := rfl
@[simp] theorem State.setEdgeQ_refLoaded (s : State) (n : Nat) (x : List QEdge) : (s.setEdgeQ n x).refLoaded = s.refLoaded := rfl
@[simp] theorem State.setEdgeQ_lastFlush (s : State) (n : Nat) (x : List QEdge) : (s.setEdgeQ n x).lastFlush = s.lastFlush := rfl
@[simp] theorem State.setEdgeQ_tmap (s : State) (n : Nat) (x : List QEdge) : (s.setEdgeQ n x).tmap = s.tmap := rfl
@[simp] theorem State.setEdgeQ_gaps (s : State) (n : Nat) (x : List QEdge) : (s.setEdgeQ n x).gaps = s.gaps := rfl
@[simp] theorem State.setEdgeQ_gapSeq (s : State) (n : Nat) (x : List QEdge) : (s.setEdgeQ n x).gapSeq = s.gapSeq := rfl
@[simp] theorem State.setEdgeQ_slots (s : State) (n : Nat) (x : List QEdge) : (s.setEdgeQ n x).slots = s.slots := rfl
@[simp] theorem State.setEdgeQ_sessions (s : State) (n : Nat) (x : List QEdge) : (s.setEdgeQ n x).sessions = s.sessions := rfl
@[simp] theorem State.setEdgeQ_flights (s : State) (n : Nat) (x : List QEdge) : (s.setEdgeQ n x).flights = s.flights := rfl
@[simp] theorem State.setEdgeQ_nextFlight (s : State) (n : Nat) (x : List QEdge) : (s.setEdgeQ n x).nextFlight = s.nextFlight := rfl
@[simp] theorem State.setEdgeQ_txns (s : State) (n : Nat) (x : List QEdge) : (s.setEdgeQ n x).txns = s.txns := rfl
@[simp] theorem State.setEdgeQ_nextTxn (s : State) (n : Nat) (x : List QEdge) : (s.setEdgeQ n x).nextTxn = s.nextTxn := rfl
@[simp] theorem State.setEdgeQ_txnEnded (s : State) (n : Nat) (x : List QEdge) : (s.setEdgeQ n x).txnEnded = s.txnEnded := rfl
@[simp] theorem State.setEdgeQ_levelTo (s : State) (n : Nat) (x : List QEdge) : (s.setEdgeQ n x).levelTo = s.levelTo := rfl
@[simp] theorem State.setEdgeQ_periodNo (s : State) (n : Nat) (x : List QEdge) : (s.setEdgeQ n x).periodNo = s.periodNo := rfl
@[simp] theorem State.setEdgeQ_boosts (s : State) (n : Nat) (x : List QEdge) : (s.setEdgeQ n x).boosts = s.boosts := rfl
@[simp] theorem State.setEdgeQ_cooled (s : State) (n : Nat) (x : List QEdge) : (s.setEdgeQ n x).cooled = s.cooled := rfl
@[simp] theorem State.setEdgeQ_wire (s : State) (n : Nat) (x : List QEdge) : (s.setEdgeQ n x).wire = s.wire := rfl
@[simp] theorem State.setEdgeQ_fab (s : State) (n : Nat) (x : List QEdge) : (s.setEdgeQ n x).fab = s.fab := rfl
@[simp] theorem State.setEdgeQ_twin (s : State) (n : Nat) (x : List QEdge) : (s.setEdgeQ n x).twin = s.twin := rfl
@[simp] theorem State.setEdgeQ_lockRec (s : State) (n : Nat) (x : List QEdge) : (s.setEdgeQ n x).lockRec = s.lockRec := rfl
@[simp] theorem State.setEdgeQ_power (s : State) (n : Nat) (x : List QEdge) : (s.setEdgeQ n x).power = s.power := rfl
@[simp] theorem State.setEdgeQ_holdB (s : State) (n : Nat) (x : List QEdge) : (s.setEdgeQ n x).holdB = s.holdB := rfl
@[simp] theorem State.setEdgeQ_holdC (s : State) (n : Nat) (x : List QEdge) : (s.setEdgeQ n x).holdC = s.holdC := rfl
@[simp] theorem State.setEdgeQ_threads (s : State) (n : Nat) (x : List QEdge) : (s.setEdgeQ n x).threads = s.threads := rfl
@[simp] theorem State.setEdgeQ_imem (s : State) (n : Nat) (x : List QEdge) : (s.setEdgeQ n x).imem = s.imem := rfl
@[simp] theorem State.setEdgeQ_dmem (s : State) (n : Nat) (x : List QEdge) : (s.setEdgeQ n x).dmem = s.dmem := rfl
@[simp] theorem State.setEdgeQ_dmemDirty (s : State) (n : Nat) (x : List QEdge) : (s.setEdgeQ n x).dmemDirty = s.dmemDirty := rfl
@[simp] theorem State.setEdgeQ_memErrs (s : State) (n : Nat) (x : List QEdge) : (s.setEdgeQ n x).memErrs = s.memErrs := rfl
@[simp] theorem State.setEdgeQ_bluCycles (s : State) (n : Nat) (x : List QEdge) : (s.setEdgeQ n x).bluCycles = s.bluCycles := rfl
@[simp] theorem State.setEdgeQ_bluSeq (s : State) (n : Nat) (x : List QEdge) : (s.setEdgeQ n x).bluSeq = s.bluSeq := rfl
@[simp] theorem State.setEdgeQ_phiTrail (s : State) (n : Nat) (x : List QEdge) : (s.setEdgeQ n x).phiTrail = s.phiTrail := rfl
@[simp] theorem State.setEdgeQ_canary (s : State) (n : Nat) (x : List QEdge) : (s.setEdgeQ n x).canary = s.canary := rfl
@[simp] theorem State.setEdgeQ_aon (s : State) (n : Nat) (x : List QEdge) : (s.setEdgeQ n x).aon = s.aon := rfl
@[simp] theorem State.setEdgeQ_wakeAt (s : State) (n : Nat) (x : List QEdge) : (s.setEdgeQ n x).wakeAt = s.wakeAt := rfl
@[simp] theorem State.setEdgeQ_watchNext (s : State) (n : Nat) (x : List QEdge) : (s.setEdgeQ n x).watchNext = s.watchNext := rfl
@[simp] theorem State.setEdgeQ_saved (s : State) (n : Nat) (x : List QEdge) : (s.setEdgeQ n x).saved = s.saved := rfl
@[simp] theorem State.setEdgeQ_products (s : State) (n : Nat) (x : List QEdge) : (s.setEdgeQ n x).products = s.products := rfl
@[simp] theorem State.setEdgeQ_prodWas (s : State) (n : Nat) (x : List QEdge) : (s.setEdgeQ n x).prodWas = s.prodWas := rfl
@[simp] theorem State.setEdgeQ_arrivals (s : State) (n : Nat) (x : List QEdge) : (s.setEdgeQ n x).arrivals = s.arrivals := rfl
@[simp] theorem State.setEdgeQ_prodFresh (s : State) (n : Nat) (x : List QEdge) : (s.setEdgeQ n x).prodFresh = s.prodFresh := rfl
@[simp] theorem State.setEdgeQ_prodFree (s : State) (n : Nat) (x : List QEdge) : (s.setEdgeQ n x).prodFree = s.prodFree := rfl
@[simp] theorem State.setEdgeQ_pidSeq (s : State) (n : Nat) (x : List QEdge) : (s.setEdgeQ n x).pidSeq = s.pidSeq := rfl
@[simp] theorem State.setEdgeQ_ephLanes (s : State) (n : Nat) (x : List QEdge) : (s.setEdgeQ n x).ephLanes = s.ephLanes := rfl
@[simp] theorem State.setEdgeQ_stnTick (s : State) (n : Nat) (x : List QEdge) : (s.setEdgeQ n x).stnTick = s.stnTick := rfl
@[simp] theorem State.setEdgeQ_storeFullAt (s : State) (n : Nat) (x : List QEdge) : (s.setEdgeQ n x).storeFullAt = s.storeFullAt := rfl
@[simp] theorem State.setEdgeQ_handoffs (s : State) (n : Nat) (x : List QEdge) : (s.setEdgeQ n x).handoffs = s.handoffs := rfl
@[simp] theorem State.setEdgeQ_pidsSeen (s : State) (n : Nat) (x : List QEdge) : (s.setEdgeQ n x).pidsSeen = s.pidsSeen := rfl
@[simp] theorem State.setEdgeQ_jobs (s : State) (n : Nat) (x : List QEdge) : (s.setEdgeQ n x).jobs = s.jobs := rfl
@[simp] theorem State.setEdgeQ_nextJob (s : State) (n : Nat) (x : List QEdge) : (s.setEdgeQ n x).nextJob = s.nextJob := rfl
@[simp] theorem State.setEdgeQ_serialsIn (s : State) (n : Nat) (x : List QEdge) : (s.setEdgeQ n x).serialsIn = s.serialsIn := rfl
@[simp] theorem State.setEdgeQ_reservationAcks (s : State) (n : Nat) (x : List QEdge) : (s.setEdgeQ n x).reservationAcks = s.reservationAcks := rfl
@[simp] theorem State.setEdgeQ_gens (s : State) (n : Nat) (x : List QEdge) : (s.setEdgeQ n x).gens = s.gens := rfl
@[simp] theorem State.setEdgeQ_heldCal (s : State) (n : Nat) (x : List QEdge) : (s.setEdgeQ n x).heldCal = s.heldCal := rfl
@[simp] theorem State.setEdgeQ_noDateOn (s : State) (n : Nat) (x : List QEdge) : (s.setEdgeQ n x).noDateOn = s.noDateOn := rfl
@[simp] theorem State.setEdgeQ_raster (s : State) (n : Nat) (x : List QEdge) : (s.setEdgeQ n x).raster = s.raster := rfl
@[simp] theorem State.setEdgeQ_pool (s : State) (n : Nat) (x : List QEdge) : (s.setEdgeQ n x).pool = s.pool := rfl
@[simp] theorem State.setEdgeQ_poison (s : State) (n : Nat) (x : List QEdge) : (s.setEdgeQ n x).poison = s.poison := rfl
@[simp] theorem State.setEdgeQ_extents (s : State) (n : Nat) (x : List QEdge) : (s.setEdgeQ n x).extents = s.extents := rfl
@[simp] theorem State.setEdgeQ_dmas (s : State) (n : Nat) (x : List QEdge) : (s.setEdgeQ n x).dmas = s.dmas := rfl
@[simp] theorem State.setEdgeQ_scrubPos (s : State) (n : Nat) (x : List QEdge) : (s.setEdgeQ n x).scrubPos = s.scrubPos := rfl
@[simp] theorem State.setEdgeQ_boot (s : State) (n : Nat) (x : List QEdge) : (s.setEdgeQ n x).boot = s.boot := rfl

@[simp] theorem State.done_pending (s : State) (c : Status) (k : Nat) (b : List Byte) : (s.done c k b).pending = s.pending := rfl
@[simp] theorem State.done_time (s : State) (c : Status) (k : Nat) (b : List Byte) : (s.done c k b).time = s.time := rfl
@[simp] theorem State.done_regs (s : State) (c : Status) (k : Nat) (b : List Byte) : (s.done c k b).regs = s.regs := rfl
@[simp] theorem State.done_free (s : State) (c : Status) (k : Nat) (b : List Byte) : (s.done c k b).free = s.free := rfl
@[simp] theorem State.done_liveWas (s : State) (c : Status) (k : Nat) (b : List Byte) : (s.done c k b).liveWas = s.liveWas := rfl
@[simp] theorem State.done_shutdown (s : State) (c : Status) (k : Nat) (b : List Byte) : (s.done c k b).shutdown = s.shutdown := rfl
@[simp] theorem State.done_leaseOk (s : State) (c : Status) (k : Nat) (b : List Byte) : (s.done c k b).leaseOk = s.leaseOk := rfl
@[simp] theorem State.done_shafts (s : State) (c : Status) (k : Nat) (b : List Byte) : (s.done c k b).shafts = s.shafts := rfl
@[simp] theorem State.done_ports (s : State) (c : Status) (k : Nat) (b : List Byte) : (s.done c k b).ports = s.ports := rfl
@[simp] theorem State.done_cells (s : State) (c : Status) (k : Nat) (b : List Byte) : (s.done c k b).cells = s.cells := rfl
@[simp] theorem State.done_events (s : State) (c : Status) (k : Nat) (b : List Byte) : (s.done c k b).events = s.events := rfl
@[simp] theorem State.done_almQueue (s : State) (c : Status) (k : Nat) (b : List Byte) : (s.done c k b).almQueue = s.almQueue := rfl
@[simp] theorem State.done_almWork (s : State) (c : Status) (k : Nat) (b : List Byte) : (s.done c k b).almWork = s.almWork := rfl
@[simp] theorem State.done_leadEl (s : State) (c : Status) (k : Nat) (b : List Byte) : (s.done c k b).leadEl = s.leadEl := rfl
@[simp] theorem State.done_leadPo (s : State) (c : Status) (k : Nat) (b : List Byte) : (s.done c k b).leadPo = s.leadPo := rfl
@[simp] theorem State.done_outs (s : State) (c : Status) (k : Nat) (b : List Byte) : (s.done c k b).outs = s.outs := rfl
@[simp] theorem State.done_lines (s : State) (c : Status) (k : Nat) (b : List Byte) : (s.done c k b).lines = s.lines := rfl
@[simp] theorem State.done_lineAt (s : State) (c : Status) (k : Nat) (b : List Byte) : (s.done c k b).lineAt = s.lineAt := rfl
@[simp] theorem State.done_actOld (s : State) (c : Status) (k : Nat) (b : List Byte) : (s.done c k b).actOld = s.actOld := rfl
@[simp] theorem State.done_chains (s : State) (c : Status) (k : Nat) (b : List Byte) : (s.done c k b).chains = s.chains := rfl
@[simp] theorem State.done_pwms (s : State) (c : Status) (k : Nat) (b : List Byte) : (s.done c k b).pwms = s.pwms := rfl
@[simp] theorem State.done_trips (s : State) (c : Status) (k : Nat) (b : List Byte) : (s.done c k b).trips = s.trips := rfl
@[simp] theorem State.done_adcs (s : State) (c : Status) (k : Nat) (b : List Byte) : (s.done c k b).adcs = s.adcs := rfl
@[simp] theorem State.done_fresh (s : State) (c : Status) (k : Nat) (b : List Byte) : (s.done c k b).fresh = s.fresh := rfl
@[simp] theorem State.done_ntf (s : State) (c : Status) (k : Nat) (b : List Byte) : (s.done c k b).ntf = s.ntf := rfl
@[simp] theorem State.done_ntfTgt (s : State) (c : Status) (k : Nat) (b : List Byte) : (s.done c k b).ntfTgt = s.ntfTgt := rfl
@[simp] theorem State.done_faults (s : State) (c : Status) (k : Nat) (b : List Byte) : (s.done c k b).faults = s.faults := rfl
@[simp] theorem State.done_staging (s : State) (c : Status) (k : Nat) (b : List Byte) : (s.done c k b).staging = s.staging := rfl
@[simp] theorem State.done_flash (s : State) (c : Status) (k : Nat) (b : List Byte) : (s.done c k b).flash = s.flash := rfl
@[simp] theorem State.done_flogSeq (s : State) (c : Status) (k : Nat) (b : List Byte) : (s.done c k b).flogSeq = s.flogSeq := rfl
@[simp] theorem State.done_logAt (s : State) (c : Status) (k : Nat) (b : List Byte) : (s.done c k b).logAt = s.logAt := rfl
@[simp] theorem State.done_selAt (s : State) (c : Status) (k : Nat) (b : List Byte) : (s.done c k b).selAt = s.selAt := rfl
@[simp] theorem State.done_safeAt (s : State) (c : Status) (k : Nat) (b : List Byte) : (s.done c k b).safeAt = s.safeAt := rfl
@[simp] theorem State.done_tallies (s : State) (c : Status) (k : Nat) (b : List Byte) : (s.done c k b).tallies = s.tallies := rfl
@[simp] theorem State.done_tallyMram (s : State) (c : Status) (k : Nat) (b : List Byte) : (s.done c k b).tallyMram = s.tallyMram := rfl
@[simp] theorem State.done_cal (s : State) (c : Status) (k : Nat) (b : List Byte) : (s.done c k b).cal = s.cal := rfl
@[simp] theorem State.done_calErr (s : State) (c : Status) (k : Nat) (b : List Byte) : (s.done c k b).calErr = s.calErr := rfl
@[simp] theorem State.done_calSet (s : State) (c : Status) (k : Nat) (b : List Byte) : (s.done c k b).calSet = s.calSet := rfl
@[simp] theorem State.done_leapNow (s : State) (c : Status) (k : Nat) (b : List Byte) : (s.done c k b).leapNow = s.leapNow := rfl
@[simp] theorem State.done_refLoaded (s : State) (c : Status) (k : Nat) (b : List Byte) : (s.done c k b).refLoaded = s.refLoaded := rfl
@[simp] theorem State.done_lastFlush (s : State) (c : Status) (k : Nat) (b : List Byte) : (s.done c k b).lastFlush = s.lastFlush := rfl
@[simp] theorem State.done_tmap (s : State) (c : Status) (k : Nat) (b : List Byte) : (s.done c k b).tmap = s.tmap := rfl
@[simp] theorem State.done_gaps (s : State) (c : Status) (k : Nat) (b : List Byte) : (s.done c k b).gaps = s.gaps := rfl
@[simp] theorem State.done_gapSeq (s : State) (c : Status) (k : Nat) (b : List Byte) : (s.done c k b).gapSeq = s.gapSeq := rfl
@[simp] theorem State.done_slots (s : State) (c : Status) (k : Nat) (b : List Byte) : (s.done c k b).slots = s.slots := rfl
@[simp] theorem State.done_sessions (s : State) (c : Status) (k : Nat) (b : List Byte) : (s.done c k b).sessions = s.sessions := rfl
@[simp] theorem State.done_flights (s : State) (c : Status) (k : Nat) (b : List Byte) : (s.done c k b).flights = s.flights := rfl
@[simp] theorem State.done_nextFlight (s : State) (c : Status) (k : Nat) (b : List Byte) : (s.done c k b).nextFlight = s.nextFlight := rfl
@[simp] theorem State.done_txns (s : State) (c : Status) (k : Nat) (b : List Byte) : (s.done c k b).txns = s.txns := rfl
@[simp] theorem State.done_nextTxn (s : State) (c : Status) (k : Nat) (b : List Byte) : (s.done c k b).nextTxn = s.nextTxn := rfl
@[simp] theorem State.done_txnEnded (s : State) (c : Status) (k : Nat) (b : List Byte) : (s.done c k b).txnEnded = s.txnEnded := rfl
@[simp] theorem State.done_levelTo (s : State) (c : Status) (k : Nat) (b : List Byte) : (s.done c k b).levelTo = s.levelTo := rfl
@[simp] theorem State.done_periodNo (s : State) (c : Status) (k : Nat) (b : List Byte) : (s.done c k b).periodNo = s.periodNo := rfl
@[simp] theorem State.done_boosts (s : State) (c : Status) (k : Nat) (b : List Byte) : (s.done c k b).boosts = s.boosts := rfl
@[simp] theorem State.done_cooled (s : State) (c : Status) (k : Nat) (b : List Byte) : (s.done c k b).cooled = s.cooled := rfl
@[simp] theorem State.done_wire (s : State) (c : Status) (k : Nat) (b : List Byte) : (s.done c k b).wire = s.wire := rfl
@[simp] theorem State.done_fab (s : State) (c : Status) (k : Nat) (b : List Byte) : (s.done c k b).fab = s.fab := rfl
@[simp] theorem State.done_twin (s : State) (c : Status) (k : Nat) (b : List Byte) : (s.done c k b).twin = s.twin := rfl
@[simp] theorem State.done_lockRec (s : State) (c : Status) (k : Nat) (b : List Byte) : (s.done c k b).lockRec = s.lockRec := rfl
@[simp] theorem State.done_power (s : State) (c : Status) (k : Nat) (b : List Byte) : (s.done c k b).power = s.power := rfl
@[simp] theorem State.done_holdB (s : State) (c : Status) (k : Nat) (b : List Byte) : (s.done c k b).holdB = s.holdB := rfl
@[simp] theorem State.done_holdC (s : State) (c : Status) (k : Nat) (b : List Byte) : (s.done c k b).holdC = s.holdC := rfl
@[simp] theorem State.done_threads (s : State) (c : Status) (k : Nat) (b : List Byte) : (s.done c k b).threads = s.threads := rfl
@[simp] theorem State.done_imem (s : State) (c : Status) (k : Nat) (b : List Byte) : (s.done c k b).imem = s.imem := rfl
@[simp] theorem State.done_dmem (s : State) (c : Status) (k : Nat) (b : List Byte) : (s.done c k b).dmem = s.dmem := rfl
@[simp] theorem State.done_dmemDirty (s : State) (c : Status) (k : Nat) (b : List Byte) : (s.done c k b).dmemDirty = s.dmemDirty := rfl
@[simp] theorem State.done_memErrs (s : State) (c : Status) (k : Nat) (b : List Byte) : (s.done c k b).memErrs = s.memErrs := rfl
@[simp] theorem State.done_bluCycles (s : State) (c : Status) (k : Nat) (b : List Byte) : (s.done c k b).bluCycles = s.bluCycles := rfl
@[simp] theorem State.done_bluSeq (s : State) (c : Status) (k : Nat) (b : List Byte) : (s.done c k b).bluSeq = s.bluSeq := rfl
@[simp] theorem State.done_poQueue (s : State) (c : Status) (k : Nat) (b : List Byte) : (s.done c k b).poQueue = s.poQueue := rfl
@[simp] theorem State.done_phiTrail (s : State) (c : Status) (k : Nat) (b : List Byte) : (s.done c k b).phiTrail = s.phiTrail := rfl
@[simp] theorem State.done_canary (s : State) (c : Status) (k : Nat) (b : List Byte) : (s.done c k b).canary = s.canary := rfl
@[simp] theorem State.done_aon (s : State) (c : Status) (k : Nat) (b : List Byte) : (s.done c k b).aon = s.aon := rfl
@[simp] theorem State.done_wakeAt (s : State) (c : Status) (k : Nat) (b : List Byte) : (s.done c k b).wakeAt = s.wakeAt := rfl
@[simp] theorem State.done_watchNext (s : State) (c : Status) (k : Nat) (b : List Byte) : (s.done c k b).watchNext = s.watchNext := rfl
@[simp] theorem State.done_saved (s : State) (c : Status) (k : Nat) (b : List Byte) : (s.done c k b).saved = s.saved := rfl
@[simp] theorem State.done_products (s : State) (c : Status) (k : Nat) (b : List Byte) : (s.done c k b).products = s.products := rfl
@[simp] theorem State.done_prodWas (s : State) (c : Status) (k : Nat) (b : List Byte) : (s.done c k b).prodWas = s.prodWas := rfl
@[simp] theorem State.done_arrivals (s : State) (c : Status) (k : Nat) (b : List Byte) : (s.done c k b).arrivals = s.arrivals := rfl
@[simp] theorem State.done_prodFresh (s : State) (c : Status) (k : Nat) (b : List Byte) : (s.done c k b).prodFresh = s.prodFresh := rfl
@[simp] theorem State.done_prodFree (s : State) (c : Status) (k : Nat) (b : List Byte) : (s.done c k b).prodFree = s.prodFree := rfl
@[simp] theorem State.done_pidSeq (s : State) (c : Status) (k : Nat) (b : List Byte) : (s.done c k b).pidSeq = s.pidSeq := rfl
@[simp] theorem State.done_ephLanes (s : State) (c : Status) (k : Nat) (b : List Byte) : (s.done c k b).ephLanes = s.ephLanes := rfl
@[simp] theorem State.done_stnTick (s : State) (c : Status) (k : Nat) (b : List Byte) : (s.done c k b).stnTick = s.stnTick := rfl
@[simp] theorem State.done_storeFullAt (s : State) (c : Status) (k : Nat) (b : List Byte) : (s.done c k b).storeFullAt = s.storeFullAt := rfl
@[simp] theorem State.done_handoffs (s : State) (c : Status) (k : Nat) (b : List Byte) : (s.done c k b).handoffs = s.handoffs := rfl
@[simp] theorem State.done_pidsSeen (s : State) (c : Status) (k : Nat) (b : List Byte) : (s.done c k b).pidsSeen = s.pidsSeen := rfl
@[simp] theorem State.done_jobs (s : State) (c : Status) (k : Nat) (b : List Byte) : (s.done c k b).jobs = s.jobs := rfl
@[simp] theorem State.done_nextJob (s : State) (c : Status) (k : Nat) (b : List Byte) : (s.done c k b).nextJob = s.nextJob := rfl
@[simp] theorem State.done_serialsIn (s : State) (c : Status) (k : Nat) (b : List Byte) : (s.done c k b).serialsIn = s.serialsIn := rfl
@[simp] theorem State.done_reservationAcks (s : State) (c : Status) (k : Nat) (b : List Byte) : (s.done c k b).reservationAcks = s.reservationAcks := rfl
@[simp] theorem State.done_gens (s : State) (c : Status) (k : Nat) (b : List Byte) : (s.done c k b).gens = s.gens := rfl
@[simp] theorem State.done_heldCal (s : State) (c : Status) (k : Nat) (b : List Byte) : (s.done c k b).heldCal = s.heldCal := rfl
@[simp] theorem State.done_noDateOn (s : State) (c : Status) (k : Nat) (b : List Byte) : (s.done c k b).noDateOn = s.noDateOn := rfl
@[simp] theorem State.done_raster (s : State) (c : Status) (k : Nat) (b : List Byte) : (s.done c k b).raster = s.raster := rfl
@[simp] theorem State.done_pool (s : State) (c : Status) (k : Nat) (b : List Byte) : (s.done c k b).pool = s.pool := rfl
@[simp] theorem State.done_poison (s : State) (c : Status) (k : Nat) (b : List Byte) : (s.done c k b).poison = s.poison := rfl
@[simp] theorem State.done_extents (s : State) (c : Status) (k : Nat) (b : List Byte) : (s.done c k b).extents = s.extents := rfl
@[simp] theorem State.done_dmas (s : State) (c : Status) (k : Nat) (b : List Byte) : (s.done c k b).dmas = s.dmas := rfl
@[simp] theorem State.done_scrubPos (s : State) (c : Status) (k : Nat) (b : List Byte) : (s.done c k b).scrubPos = s.scrubPos := rfl
@[simp] theorem State.done_boot (s : State) (c : Status) (k : Nat) (b : List Byte) : (s.done c k b).boot = s.boot := rfl

@[simp] theorem State.setFld_pending (s : State) (a : Nat) (f : Fld) (v : Nat) : (s.setFld a f v).pending = s.pending := rfl
@[simp] theorem State.setFld_time (s : State) (a : Nat) (f : Fld) (v : Nat) : (s.setFld a f v).time = s.time := rfl
@[simp] theorem State.setFld_free (s : State) (a : Nat) (f : Fld) (v : Nat) : (s.setFld a f v).free = s.free := rfl
@[simp] theorem State.setFld_completion (s : State) (a : Nat) (f : Fld) (v : Nat) : (s.setFld a f v).completion = s.completion := rfl
@[simp] theorem State.setFld_liveWas (s : State) (a : Nat) (f : Fld) (v : Nat) : (s.setFld a f v).liveWas = s.liveWas := rfl
@[simp] theorem State.setFld_shutdown (s : State) (a : Nat) (f : Fld) (v : Nat) : (s.setFld a f v).shutdown = s.shutdown := rfl
@[simp] theorem State.setFld_leaseOk (s : State) (a : Nat) (f : Fld) (v : Nat) : (s.setFld a f v).leaseOk = s.leaseOk := rfl
@[simp] theorem State.setFld_shafts (s : State) (a : Nat) (f : Fld) (v : Nat) : (s.setFld a f v).shafts = s.shafts := rfl
@[simp] theorem State.setFld_ports (s : State) (a : Nat) (f : Fld) (v : Nat) : (s.setFld a f v).ports = s.ports := rfl
@[simp] theorem State.setFld_cells (s : State) (a : Nat) (f : Fld) (v : Nat) : (s.setFld a f v).cells = s.cells := rfl
@[simp] theorem State.setFld_events (s : State) (a : Nat) (f : Fld) (v : Nat) : (s.setFld a f v).events = s.events := rfl
@[simp] theorem State.setFld_almQueue (s : State) (a : Nat) (f : Fld) (v : Nat) : (s.setFld a f v).almQueue = s.almQueue := rfl
@[simp] theorem State.setFld_almWork (s : State) (a : Nat) (f : Fld) (v : Nat) : (s.setFld a f v).almWork = s.almWork := rfl
@[simp] theorem State.setFld_leadEl (s : State) (a : Nat) (f : Fld) (v : Nat) : (s.setFld a f v).leadEl = s.leadEl := rfl
@[simp] theorem State.setFld_leadPo (s : State) (a : Nat) (f : Fld) (v : Nat) : (s.setFld a f v).leadPo = s.leadPo := rfl
@[simp] theorem State.setFld_outs (s : State) (a : Nat) (f : Fld) (v : Nat) : (s.setFld a f v).outs = s.outs := rfl
@[simp] theorem State.setFld_lines (s : State) (a : Nat) (f : Fld) (v : Nat) : (s.setFld a f v).lines = s.lines := rfl
@[simp] theorem State.setFld_lineAt (s : State) (a : Nat) (f : Fld) (v : Nat) : (s.setFld a f v).lineAt = s.lineAt := rfl
@[simp] theorem State.setFld_actOld (s : State) (a : Nat) (f : Fld) (v : Nat) : (s.setFld a f v).actOld = s.actOld := rfl
@[simp] theorem State.setFld_chains (s : State) (a : Nat) (f : Fld) (v : Nat) : (s.setFld a f v).chains = s.chains := rfl
@[simp] theorem State.setFld_pwms (s : State) (a : Nat) (f : Fld) (v : Nat) : (s.setFld a f v).pwms = s.pwms := rfl
@[simp] theorem State.setFld_trips (s : State) (a : Nat) (f : Fld) (v : Nat) : (s.setFld a f v).trips = s.trips := rfl
@[simp] theorem State.setFld_adcs (s : State) (a : Nat) (f : Fld) (v : Nat) : (s.setFld a f v).adcs = s.adcs := rfl
@[simp] theorem State.setFld_fresh (s : State) (a : Nat) (f : Fld) (v : Nat) : (s.setFld a f v).fresh = s.fresh := rfl
@[simp] theorem State.setFld_ntf (s : State) (a : Nat) (f : Fld) (v : Nat) : (s.setFld a f v).ntf = s.ntf := rfl
@[simp] theorem State.setFld_ntfTgt (s : State) (a : Nat) (f : Fld) (v : Nat) : (s.setFld a f v).ntfTgt = s.ntfTgt := rfl
@[simp] theorem State.setFld_faults (s : State) (a : Nat) (f : Fld) (v : Nat) : (s.setFld a f v).faults = s.faults := rfl
@[simp] theorem State.setFld_staging (s : State) (a : Nat) (f : Fld) (v : Nat) : (s.setFld a f v).staging = s.staging := rfl
@[simp] theorem State.setFld_flash (s : State) (a : Nat) (f : Fld) (v : Nat) : (s.setFld a f v).flash = s.flash := rfl
@[simp] theorem State.setFld_flogSeq (s : State) (a : Nat) (f : Fld) (v : Nat) : (s.setFld a f v).flogSeq = s.flogSeq := rfl
@[simp] theorem State.setFld_logAt (s : State) (a : Nat) (f : Fld) (v : Nat) : (s.setFld a f v).logAt = s.logAt := rfl
@[simp] theorem State.setFld_selAt (s : State) (a : Nat) (f : Fld) (v : Nat) : (s.setFld a f v).selAt = s.selAt := rfl
@[simp] theorem State.setFld_safeAt (s : State) (a : Nat) (f : Fld) (v : Nat) : (s.setFld a f v).safeAt = s.safeAt := rfl
@[simp] theorem State.setFld_permitted (s : State) (a : Nat) (f : Fld) (v : Nat) : (s.setFld a f v).permitted = s.permitted := rfl
@[simp] theorem State.setFld_tallies (s : State) (a : Nat) (f : Fld) (v : Nat) : (s.setFld a f v).tallies = s.tallies := rfl
@[simp] theorem State.setFld_tallyMram (s : State) (a : Nat) (f : Fld) (v : Nat) : (s.setFld a f v).tallyMram = s.tallyMram := rfl
@[simp] theorem State.setFld_cal (s : State) (a : Nat) (f : Fld) (v : Nat) : (s.setFld a f v).cal = s.cal := rfl
@[simp] theorem State.setFld_calErr (s : State) (a : Nat) (f : Fld) (v : Nat) : (s.setFld a f v).calErr = s.calErr := rfl
@[simp] theorem State.setFld_calSet (s : State) (a : Nat) (f : Fld) (v : Nat) : (s.setFld a f v).calSet = s.calSet := rfl
@[simp] theorem State.setFld_leapNow (s : State) (a : Nat) (f : Fld) (v : Nat) : (s.setFld a f v).leapNow = s.leapNow := rfl
@[simp] theorem State.setFld_refLoaded (s : State) (a : Nat) (f : Fld) (v : Nat) : (s.setFld a f v).refLoaded = s.refLoaded := rfl
@[simp] theorem State.setFld_lastFlush (s : State) (a : Nat) (f : Fld) (v : Nat) : (s.setFld a f v).lastFlush = s.lastFlush := rfl
@[simp] theorem State.setFld_tmap (s : State) (a : Nat) (f : Fld) (v : Nat) : (s.setFld a f v).tmap = s.tmap := rfl
@[simp] theorem State.setFld_gaps (s : State) (a : Nat) (f : Fld) (v : Nat) : (s.setFld a f v).gaps = s.gaps := rfl
@[simp] theorem State.setFld_gapSeq (s : State) (a : Nat) (f : Fld) (v : Nat) : (s.setFld a f v).gapSeq = s.gapSeq := rfl
@[simp] theorem State.setFld_slots (s : State) (a : Nat) (f : Fld) (v : Nat) : (s.setFld a f v).slots = s.slots := rfl
@[simp] theorem State.setFld_sessions (s : State) (a : Nat) (f : Fld) (v : Nat) : (s.setFld a f v).sessions = s.sessions := rfl
@[simp] theorem State.setFld_flights (s : State) (a : Nat) (f : Fld) (v : Nat) : (s.setFld a f v).flights = s.flights := rfl
@[simp] theorem State.setFld_nextFlight (s : State) (a : Nat) (f : Fld) (v : Nat) : (s.setFld a f v).nextFlight = s.nextFlight := rfl
@[simp] theorem State.setFld_txns (s : State) (a : Nat) (f : Fld) (v : Nat) : (s.setFld a f v).txns = s.txns := rfl
@[simp] theorem State.setFld_nextTxn (s : State) (a : Nat) (f : Fld) (v : Nat) : (s.setFld a f v).nextTxn = s.nextTxn := rfl
@[simp] theorem State.setFld_txnEnded (s : State) (a : Nat) (f : Fld) (v : Nat) : (s.setFld a f v).txnEnded = s.txnEnded := rfl
@[simp] theorem State.setFld_levelTo (s : State) (a : Nat) (f : Fld) (v : Nat) : (s.setFld a f v).levelTo = s.levelTo := rfl
@[simp] theorem State.setFld_periodNo (s : State) (a : Nat) (f : Fld) (v : Nat) : (s.setFld a f v).periodNo = s.periodNo := rfl
@[simp] theorem State.setFld_boosts (s : State) (a : Nat) (f : Fld) (v : Nat) : (s.setFld a f v).boosts = s.boosts := rfl
@[simp] theorem State.setFld_cooled (s : State) (a : Nat) (f : Fld) (v : Nat) : (s.setFld a f v).cooled = s.cooled := rfl
@[simp] theorem State.setFld_wire (s : State) (a : Nat) (f : Fld) (v : Nat) : (s.setFld a f v).wire = s.wire := rfl
@[simp] theorem State.setFld_fab (s : State) (a : Nat) (f : Fld) (v : Nat) : (s.setFld a f v).fab = s.fab := rfl
@[simp] theorem State.setFld_twin (s : State) (a : Nat) (f : Fld) (v : Nat) : (s.setFld a f v).twin = s.twin := rfl
@[simp] theorem State.setFld_lockRec (s : State) (a : Nat) (f : Fld) (v : Nat) : (s.setFld a f v).lockRec = s.lockRec := rfl
@[simp] theorem State.setFld_power (s : State) (a : Nat) (f : Fld) (v : Nat) : (s.setFld a f v).power = s.power := rfl
@[simp] theorem State.setFld_holdB (s : State) (a : Nat) (f : Fld) (v : Nat) : (s.setFld a f v).holdB = s.holdB := rfl
@[simp] theorem State.setFld_holdC (s : State) (a : Nat) (f : Fld) (v : Nat) : (s.setFld a f v).holdC = s.holdC := rfl
@[simp] theorem State.setFld_threads (s : State) (a : Nat) (f : Fld) (v : Nat) : (s.setFld a f v).threads = s.threads := rfl
@[simp] theorem State.setFld_imem (s : State) (a : Nat) (f : Fld) (v : Nat) : (s.setFld a f v).imem = s.imem := rfl
@[simp] theorem State.setFld_dmem (s : State) (a : Nat) (f : Fld) (v : Nat) : (s.setFld a f v).dmem = s.dmem := rfl
@[simp] theorem State.setFld_dmemDirty (s : State) (a : Nat) (f : Fld) (v : Nat) : (s.setFld a f v).dmemDirty = s.dmemDirty := rfl
@[simp] theorem State.setFld_memErrs (s : State) (a : Nat) (f : Fld) (v : Nat) : (s.setFld a f v).memErrs = s.memErrs := rfl
@[simp] theorem State.setFld_bluCycles (s : State) (a : Nat) (f : Fld) (v : Nat) : (s.setFld a f v).bluCycles = s.bluCycles := rfl
@[simp] theorem State.setFld_bluSeq (s : State) (a : Nat) (f : Fld) (v : Nat) : (s.setFld a f v).bluSeq = s.bluSeq := rfl
@[simp] theorem State.setFld_poQueue (s : State) (a : Nat) (f : Fld) (v : Nat) : (s.setFld a f v).poQueue = s.poQueue := rfl
@[simp] theorem State.setFld_phiTrail (s : State) (a : Nat) (f : Fld) (v : Nat) : (s.setFld a f v).phiTrail = s.phiTrail := rfl
@[simp] theorem State.setFld_canary (s : State) (a : Nat) (f : Fld) (v : Nat) : (s.setFld a f v).canary = s.canary := rfl
@[simp] theorem State.setFld_aon (s : State) (a : Nat) (f : Fld) (v : Nat) : (s.setFld a f v).aon = s.aon := rfl
@[simp] theorem State.setFld_wakeAt (s : State) (a : Nat) (f : Fld) (v : Nat) : (s.setFld a f v).wakeAt = s.wakeAt := rfl
@[simp] theorem State.setFld_watchNext (s : State) (a : Nat) (f : Fld) (v : Nat) : (s.setFld a f v).watchNext = s.watchNext := rfl
@[simp] theorem State.setFld_saved (s : State) (a : Nat) (f : Fld) (v : Nat) : (s.setFld a f v).saved = s.saved := rfl
@[simp] theorem State.setFld_products (s : State) (a : Nat) (f : Fld) (v : Nat) : (s.setFld a f v).products = s.products := rfl
@[simp] theorem State.setFld_prodWas (s : State) (a : Nat) (f : Fld) (v : Nat) : (s.setFld a f v).prodWas = s.prodWas := rfl
@[simp] theorem State.setFld_arrivals (s : State) (a : Nat) (f : Fld) (v : Nat) : (s.setFld a f v).arrivals = s.arrivals := rfl
@[simp] theorem State.setFld_prodFresh (s : State) (a : Nat) (f : Fld) (v : Nat) : (s.setFld a f v).prodFresh = s.prodFresh := rfl
@[simp] theorem State.setFld_prodFree (s : State) (a : Nat) (f : Fld) (v : Nat) : (s.setFld a f v).prodFree = s.prodFree := rfl
@[simp] theorem State.setFld_pidSeq (s : State) (a : Nat) (f : Fld) (v : Nat) : (s.setFld a f v).pidSeq = s.pidSeq := rfl
@[simp] theorem State.setFld_ephLanes (s : State) (a : Nat) (f : Fld) (v : Nat) : (s.setFld a f v).ephLanes = s.ephLanes := rfl
@[simp] theorem State.setFld_stnTick (s : State) (a : Nat) (f : Fld) (v : Nat) : (s.setFld a f v).stnTick = s.stnTick := rfl
@[simp] theorem State.setFld_storeFullAt (s : State) (a : Nat) (f : Fld) (v : Nat) : (s.setFld a f v).storeFullAt = s.storeFullAt := rfl
@[simp] theorem State.setFld_handoffs (s : State) (a : Nat) (f : Fld) (v : Nat) : (s.setFld a f v).handoffs = s.handoffs := rfl
@[simp] theorem State.setFld_pidsSeen (s : State) (a : Nat) (f : Fld) (v : Nat) : (s.setFld a f v).pidsSeen = s.pidsSeen := rfl
@[simp] theorem State.setFld_jobs (s : State) (a : Nat) (f : Fld) (v : Nat) : (s.setFld a f v).jobs = s.jobs := rfl
@[simp] theorem State.setFld_nextJob (s : State) (a : Nat) (f : Fld) (v : Nat) : (s.setFld a f v).nextJob = s.nextJob := rfl
@[simp] theorem State.setFld_serialsIn (s : State) (a : Nat) (f : Fld) (v : Nat) : (s.setFld a f v).serialsIn = s.serialsIn := rfl
@[simp] theorem State.setFld_reservationAcks (s : State) (a : Nat) (f : Fld) (v : Nat) : (s.setFld a f v).reservationAcks = s.reservationAcks := rfl
@[simp] theorem State.setFld_gens (s : State) (a : Nat) (f : Fld) (v : Nat) : (s.setFld a f v).gens = s.gens := rfl
@[simp] theorem State.setFld_heldCal (s : State) (a : Nat) (f : Fld) (v : Nat) : (s.setFld a f v).heldCal = s.heldCal := rfl
@[simp] theorem State.setFld_noDateOn (s : State) (a : Nat) (f : Fld) (v : Nat) : (s.setFld a f v).noDateOn = s.noDateOn := rfl
@[simp] theorem State.setFld_raster (s : State) (a : Nat) (f : Fld) (v : Nat) : (s.setFld a f v).raster = s.raster := rfl
@[simp] theorem State.setFld_pool (s : State) (a : Nat) (f : Fld) (v : Nat) : (s.setFld a f v).pool = s.pool := rfl
@[simp] theorem State.setFld_poison (s : State) (a : Nat) (f : Fld) (v : Nat) : (s.setFld a f v).poison = s.poison := rfl
@[simp] theorem State.setFld_extents (s : State) (a : Nat) (f : Fld) (v : Nat) : (s.setFld a f v).extents = s.extents := rfl
@[simp] theorem State.setFld_dmas (s : State) (a : Nat) (f : Fld) (v : Nat) : (s.setFld a f v).dmas = s.dmas := rfl
@[simp] theorem State.setFld_scrubPos (s : State) (a : Nat) (f : Fld) (v : Nat) : (s.setFld a f v).scrubPos = s.scrubPos := rfl
@[simp] theorem State.setFld_boot (s : State) (a : Nat) (f : Fld) (v : Nat) : (s.setFld a f v).boot = s.boot := rfl

@[simp] theorem State.setFlag_pending (s : State) (a : Nat) (f : Fld) (v : Bool) : (s.setFlag a f v).pending = s.pending := rfl
@[simp] theorem State.setFlag_time (s : State) (a : Nat) (f : Fld) (v : Bool) : (s.setFlag a f v).time = s.time := rfl
@[simp] theorem State.setFlag_free (s : State) (a : Nat) (f : Fld) (v : Bool) : (s.setFlag a f v).free = s.free := rfl
@[simp] theorem State.setFlag_completion (s : State) (a : Nat) (f : Fld) (v : Bool) : (s.setFlag a f v).completion = s.completion := rfl
@[simp] theorem State.setFlag_liveWas (s : State) (a : Nat) (f : Fld) (v : Bool) : (s.setFlag a f v).liveWas = s.liveWas := rfl
@[simp] theorem State.setFlag_shutdown (s : State) (a : Nat) (f : Fld) (v : Bool) : (s.setFlag a f v).shutdown = s.shutdown := rfl
@[simp] theorem State.setFlag_leaseOk (s : State) (a : Nat) (f : Fld) (v : Bool) : (s.setFlag a f v).leaseOk = s.leaseOk := rfl
@[simp] theorem State.setFlag_shafts (s : State) (a : Nat) (f : Fld) (v : Bool) : (s.setFlag a f v).shafts = s.shafts := rfl
@[simp] theorem State.setFlag_ports (s : State) (a : Nat) (f : Fld) (v : Bool) : (s.setFlag a f v).ports = s.ports := rfl
@[simp] theorem State.setFlag_cells (s : State) (a : Nat) (f : Fld) (v : Bool) : (s.setFlag a f v).cells = s.cells := rfl
@[simp] theorem State.setFlag_events (s : State) (a : Nat) (f : Fld) (v : Bool) : (s.setFlag a f v).events = s.events := rfl
@[simp] theorem State.setFlag_almQueue (s : State) (a : Nat) (f : Fld) (v : Bool) : (s.setFlag a f v).almQueue = s.almQueue := rfl
@[simp] theorem State.setFlag_almWork (s : State) (a : Nat) (f : Fld) (v : Bool) : (s.setFlag a f v).almWork = s.almWork := rfl
@[simp] theorem State.setFlag_leadEl (s : State) (a : Nat) (f : Fld) (v : Bool) : (s.setFlag a f v).leadEl = s.leadEl := rfl
@[simp] theorem State.setFlag_leadPo (s : State) (a : Nat) (f : Fld) (v : Bool) : (s.setFlag a f v).leadPo = s.leadPo := rfl
@[simp] theorem State.setFlag_outs (s : State) (a : Nat) (f : Fld) (v : Bool) : (s.setFlag a f v).outs = s.outs := rfl
@[simp] theorem State.setFlag_lines (s : State) (a : Nat) (f : Fld) (v : Bool) : (s.setFlag a f v).lines = s.lines := rfl
@[simp] theorem State.setFlag_lineAt (s : State) (a : Nat) (f : Fld) (v : Bool) : (s.setFlag a f v).lineAt = s.lineAt := rfl
@[simp] theorem State.setFlag_actOld (s : State) (a : Nat) (f : Fld) (v : Bool) : (s.setFlag a f v).actOld = s.actOld := rfl
@[simp] theorem State.setFlag_chains (s : State) (a : Nat) (f : Fld) (v : Bool) : (s.setFlag a f v).chains = s.chains := rfl
@[simp] theorem State.setFlag_pwms (s : State) (a : Nat) (f : Fld) (v : Bool) : (s.setFlag a f v).pwms = s.pwms := rfl
@[simp] theorem State.setFlag_trips (s : State) (a : Nat) (f : Fld) (v : Bool) : (s.setFlag a f v).trips = s.trips := rfl
@[simp] theorem State.setFlag_adcs (s : State) (a : Nat) (f : Fld) (v : Bool) : (s.setFlag a f v).adcs = s.adcs := rfl
@[simp] theorem State.setFlag_fresh (s : State) (a : Nat) (f : Fld) (v : Bool) : (s.setFlag a f v).fresh = s.fresh := rfl
@[simp] theorem State.setFlag_ntf (s : State) (a : Nat) (f : Fld) (v : Bool) : (s.setFlag a f v).ntf = s.ntf := rfl
@[simp] theorem State.setFlag_ntfTgt (s : State) (a : Nat) (f : Fld) (v : Bool) : (s.setFlag a f v).ntfTgt = s.ntfTgt := rfl
@[simp] theorem State.setFlag_faults (s : State) (a : Nat) (f : Fld) (v : Bool) : (s.setFlag a f v).faults = s.faults := rfl
@[simp] theorem State.setFlag_staging (s : State) (a : Nat) (f : Fld) (v : Bool) : (s.setFlag a f v).staging = s.staging := rfl
@[simp] theorem State.setFlag_flash (s : State) (a : Nat) (f : Fld) (v : Bool) : (s.setFlag a f v).flash = s.flash := rfl
@[simp] theorem State.setFlag_flogSeq (s : State) (a : Nat) (f : Fld) (v : Bool) : (s.setFlag a f v).flogSeq = s.flogSeq := rfl
@[simp] theorem State.setFlag_logAt (s : State) (a : Nat) (f : Fld) (v : Bool) : (s.setFlag a f v).logAt = s.logAt := rfl
@[simp] theorem State.setFlag_selAt (s : State) (a : Nat) (f : Fld) (v : Bool) : (s.setFlag a f v).selAt = s.selAt := rfl
@[simp] theorem State.setFlag_safeAt (s : State) (a : Nat) (f : Fld) (v : Bool) : (s.setFlag a f v).safeAt = s.safeAt := rfl
@[simp] theorem State.setFlag_permitted (s : State) (a : Nat) (f : Fld) (v : Bool) : (s.setFlag a f v).permitted = s.permitted := rfl
@[simp] theorem State.setFlag_tallies (s : State) (a : Nat) (f : Fld) (v : Bool) : (s.setFlag a f v).tallies = s.tallies := rfl
@[simp] theorem State.setFlag_tallyMram (s : State) (a : Nat) (f : Fld) (v : Bool) : (s.setFlag a f v).tallyMram = s.tallyMram := rfl
@[simp] theorem State.setFlag_cal (s : State) (a : Nat) (f : Fld) (v : Bool) : (s.setFlag a f v).cal = s.cal := rfl
@[simp] theorem State.setFlag_calErr (s : State) (a : Nat) (f : Fld) (v : Bool) : (s.setFlag a f v).calErr = s.calErr := rfl
@[simp] theorem State.setFlag_calSet (s : State) (a : Nat) (f : Fld) (v : Bool) : (s.setFlag a f v).calSet = s.calSet := rfl
@[simp] theorem State.setFlag_leapNow (s : State) (a : Nat) (f : Fld) (v : Bool) : (s.setFlag a f v).leapNow = s.leapNow := rfl
@[simp] theorem State.setFlag_refLoaded (s : State) (a : Nat) (f : Fld) (v : Bool) : (s.setFlag a f v).refLoaded = s.refLoaded := rfl
@[simp] theorem State.setFlag_lastFlush (s : State) (a : Nat) (f : Fld) (v : Bool) : (s.setFlag a f v).lastFlush = s.lastFlush := rfl
@[simp] theorem State.setFlag_tmap (s : State) (a : Nat) (f : Fld) (v : Bool) : (s.setFlag a f v).tmap = s.tmap := rfl
@[simp] theorem State.setFlag_gaps (s : State) (a : Nat) (f : Fld) (v : Bool) : (s.setFlag a f v).gaps = s.gaps := rfl
@[simp] theorem State.setFlag_gapSeq (s : State) (a : Nat) (f : Fld) (v : Bool) : (s.setFlag a f v).gapSeq = s.gapSeq := rfl
@[simp] theorem State.setFlag_slots (s : State) (a : Nat) (f : Fld) (v : Bool) : (s.setFlag a f v).slots = s.slots := rfl
@[simp] theorem State.setFlag_sessions (s : State) (a : Nat) (f : Fld) (v : Bool) : (s.setFlag a f v).sessions = s.sessions := rfl
@[simp] theorem State.setFlag_flights (s : State) (a : Nat) (f : Fld) (v : Bool) : (s.setFlag a f v).flights = s.flights := rfl
@[simp] theorem State.setFlag_nextFlight (s : State) (a : Nat) (f : Fld) (v : Bool) : (s.setFlag a f v).nextFlight = s.nextFlight := rfl
@[simp] theorem State.setFlag_txns (s : State) (a : Nat) (f : Fld) (v : Bool) : (s.setFlag a f v).txns = s.txns := rfl
@[simp] theorem State.setFlag_nextTxn (s : State) (a : Nat) (f : Fld) (v : Bool) : (s.setFlag a f v).nextTxn = s.nextTxn := rfl
@[simp] theorem State.setFlag_txnEnded (s : State) (a : Nat) (f : Fld) (v : Bool) : (s.setFlag a f v).txnEnded = s.txnEnded := rfl
@[simp] theorem State.setFlag_levelTo (s : State) (a : Nat) (f : Fld) (v : Bool) : (s.setFlag a f v).levelTo = s.levelTo := rfl
@[simp] theorem State.setFlag_periodNo (s : State) (a : Nat) (f : Fld) (v : Bool) : (s.setFlag a f v).periodNo = s.periodNo := rfl
@[simp] theorem State.setFlag_boosts (s : State) (a : Nat) (f : Fld) (v : Bool) : (s.setFlag a f v).boosts = s.boosts := rfl
@[simp] theorem State.setFlag_cooled (s : State) (a : Nat) (f : Fld) (v : Bool) : (s.setFlag a f v).cooled = s.cooled := rfl
@[simp] theorem State.setFlag_wire (s : State) (a : Nat) (f : Fld) (v : Bool) : (s.setFlag a f v).wire = s.wire := rfl
@[simp] theorem State.setFlag_fab (s : State) (a : Nat) (f : Fld) (v : Bool) : (s.setFlag a f v).fab = s.fab := rfl
@[simp] theorem State.setFlag_twin (s : State) (a : Nat) (f : Fld) (v : Bool) : (s.setFlag a f v).twin = s.twin := rfl
@[simp] theorem State.setFlag_lockRec (s : State) (a : Nat) (f : Fld) (v : Bool) : (s.setFlag a f v).lockRec = s.lockRec := rfl
@[simp] theorem State.setFlag_power (s : State) (a : Nat) (f : Fld) (v : Bool) : (s.setFlag a f v).power = s.power := rfl
@[simp] theorem State.setFlag_holdB (s : State) (a : Nat) (f : Fld) (v : Bool) : (s.setFlag a f v).holdB = s.holdB := rfl
@[simp] theorem State.setFlag_holdC (s : State) (a : Nat) (f : Fld) (v : Bool) : (s.setFlag a f v).holdC = s.holdC := rfl
@[simp] theorem State.setFlag_threads (s : State) (a : Nat) (f : Fld) (v : Bool) : (s.setFlag a f v).threads = s.threads := rfl
@[simp] theorem State.setFlag_imem (s : State) (a : Nat) (f : Fld) (v : Bool) : (s.setFlag a f v).imem = s.imem := rfl
@[simp] theorem State.setFlag_dmem (s : State) (a : Nat) (f : Fld) (v : Bool) : (s.setFlag a f v).dmem = s.dmem := rfl
@[simp] theorem State.setFlag_dmemDirty (s : State) (a : Nat) (f : Fld) (v : Bool) : (s.setFlag a f v).dmemDirty = s.dmemDirty := rfl
@[simp] theorem State.setFlag_memErrs (s : State) (a : Nat) (f : Fld) (v : Bool) : (s.setFlag a f v).memErrs = s.memErrs := rfl
@[simp] theorem State.setFlag_bluCycles (s : State) (a : Nat) (f : Fld) (v : Bool) : (s.setFlag a f v).bluCycles = s.bluCycles := rfl
@[simp] theorem State.setFlag_bluSeq (s : State) (a : Nat) (f : Fld) (v : Bool) : (s.setFlag a f v).bluSeq = s.bluSeq := rfl
@[simp] theorem State.setFlag_poQueue (s : State) (a : Nat) (f : Fld) (v : Bool) : (s.setFlag a f v).poQueue = s.poQueue := rfl
@[simp] theorem State.setFlag_phiTrail (s : State) (a : Nat) (f : Fld) (v : Bool) : (s.setFlag a f v).phiTrail = s.phiTrail := rfl
@[simp] theorem State.setFlag_canary (s : State) (a : Nat) (f : Fld) (v : Bool) : (s.setFlag a f v).canary = s.canary := rfl
@[simp] theorem State.setFlag_aon (s : State) (a : Nat) (f : Fld) (v : Bool) : (s.setFlag a f v).aon = s.aon := rfl
@[simp] theorem State.setFlag_wakeAt (s : State) (a : Nat) (f : Fld) (v : Bool) : (s.setFlag a f v).wakeAt = s.wakeAt := rfl
@[simp] theorem State.setFlag_watchNext (s : State) (a : Nat) (f : Fld) (v : Bool) : (s.setFlag a f v).watchNext = s.watchNext := rfl
@[simp] theorem State.setFlag_saved (s : State) (a : Nat) (f : Fld) (v : Bool) : (s.setFlag a f v).saved = s.saved := rfl
@[simp] theorem State.setFlag_products (s : State) (a : Nat) (f : Fld) (v : Bool) : (s.setFlag a f v).products = s.products := rfl
@[simp] theorem State.setFlag_prodWas (s : State) (a : Nat) (f : Fld) (v : Bool) : (s.setFlag a f v).prodWas = s.prodWas := rfl
@[simp] theorem State.setFlag_arrivals (s : State) (a : Nat) (f : Fld) (v : Bool) : (s.setFlag a f v).arrivals = s.arrivals := rfl
@[simp] theorem State.setFlag_prodFresh (s : State) (a : Nat) (f : Fld) (v : Bool) : (s.setFlag a f v).prodFresh = s.prodFresh := rfl
@[simp] theorem State.setFlag_prodFree (s : State) (a : Nat) (f : Fld) (v : Bool) : (s.setFlag a f v).prodFree = s.prodFree := rfl
@[simp] theorem State.setFlag_pidSeq (s : State) (a : Nat) (f : Fld) (v : Bool) : (s.setFlag a f v).pidSeq = s.pidSeq := rfl
@[simp] theorem State.setFlag_ephLanes (s : State) (a : Nat) (f : Fld) (v : Bool) : (s.setFlag a f v).ephLanes = s.ephLanes := rfl
@[simp] theorem State.setFlag_stnTick (s : State) (a : Nat) (f : Fld) (v : Bool) : (s.setFlag a f v).stnTick = s.stnTick := rfl
@[simp] theorem State.setFlag_storeFullAt (s : State) (a : Nat) (f : Fld) (v : Bool) : (s.setFlag a f v).storeFullAt = s.storeFullAt := rfl
@[simp] theorem State.setFlag_handoffs (s : State) (a : Nat) (f : Fld) (v : Bool) : (s.setFlag a f v).handoffs = s.handoffs := rfl
@[simp] theorem State.setFlag_pidsSeen (s : State) (a : Nat) (f : Fld) (v : Bool) : (s.setFlag a f v).pidsSeen = s.pidsSeen := rfl
@[simp] theorem State.setFlag_jobs (s : State) (a : Nat) (f : Fld) (v : Bool) : (s.setFlag a f v).jobs = s.jobs := rfl
@[simp] theorem State.setFlag_nextJob (s : State) (a : Nat) (f : Fld) (v : Bool) : (s.setFlag a f v).nextJob = s.nextJob := rfl
@[simp] theorem State.setFlag_serialsIn (s : State) (a : Nat) (f : Fld) (v : Bool) : (s.setFlag a f v).serialsIn = s.serialsIn := rfl
@[simp] theorem State.setFlag_reservationAcks (s : State) (a : Nat) (f : Fld) (v : Bool) : (s.setFlag a f v).reservationAcks = s.reservationAcks := rfl
@[simp] theorem State.setFlag_gens (s : State) (a : Nat) (f : Fld) (v : Bool) : (s.setFlag a f v).gens = s.gens := rfl
@[simp] theorem State.setFlag_heldCal (s : State) (a : Nat) (f : Fld) (v : Bool) : (s.setFlag a f v).heldCal = s.heldCal := rfl
@[simp] theorem State.setFlag_noDateOn (s : State) (a : Nat) (f : Fld) (v : Bool) : (s.setFlag a f v).noDateOn = s.noDateOn := rfl
@[simp] theorem State.setFlag_raster (s : State) (a : Nat) (f : Fld) (v : Bool) : (s.setFlag a f v).raster = s.raster := rfl
@[simp] theorem State.setFlag_pool (s : State) (a : Nat) (f : Fld) (v : Bool) : (s.setFlag a f v).pool = s.pool := rfl
@[simp] theorem State.setFlag_poison (s : State) (a : Nat) (f : Fld) (v : Bool) : (s.setFlag a f v).poison = s.poison := rfl
@[simp] theorem State.setFlag_extents (s : State) (a : Nat) (f : Fld) (v : Bool) : (s.setFlag a f v).extents = s.extents := rfl
@[simp] theorem State.setFlag_dmas (s : State) (a : Nat) (f : Fld) (v : Bool) : (s.setFlag a f v).dmas = s.dmas := rfl
@[simp] theorem State.setFlag_scrubPos (s : State) (a : Nat) (f : Fld) (v : Bool) : (s.setFlag a f v).scrubPos = s.scrubPos := rfl
@[simp] theorem State.setFlag_boot (s : State) (a : Nat) (f : Fld) (v : Bool) : (s.setFlag a f v).boot = s.boot := rfl

@[simp] theorem State.count_pending (s : State) (a : Nat) (f : Fld) (v : Nat) : (s.count a f v).pending = s.pending := rfl
@[simp] theorem State.count_time (s : State) (a : Nat) (f : Fld) (v : Nat) : (s.count a f v).time = s.time := rfl
@[simp] theorem State.count_free (s : State) (a : Nat) (f : Fld) (v : Nat) : (s.count a f v).free = s.free := rfl
@[simp] theorem State.count_completion (s : State) (a : Nat) (f : Fld) (v : Nat) : (s.count a f v).completion = s.completion := rfl
@[simp] theorem State.count_liveWas (s : State) (a : Nat) (f : Fld) (v : Nat) : (s.count a f v).liveWas = s.liveWas := rfl
@[simp] theorem State.count_shutdown (s : State) (a : Nat) (f : Fld) (v : Nat) : (s.count a f v).shutdown = s.shutdown := rfl
@[simp] theorem State.count_leaseOk (s : State) (a : Nat) (f : Fld) (v : Nat) : (s.count a f v).leaseOk = s.leaseOk := rfl
@[simp] theorem State.count_shafts (s : State) (a : Nat) (f : Fld) (v : Nat) : (s.count a f v).shafts = s.shafts := rfl
@[simp] theorem State.count_ports (s : State) (a : Nat) (f : Fld) (v : Nat) : (s.count a f v).ports = s.ports := rfl
@[simp] theorem State.count_cells (s : State) (a : Nat) (f : Fld) (v : Nat) : (s.count a f v).cells = s.cells := rfl
@[simp] theorem State.count_events (s : State) (a : Nat) (f : Fld) (v : Nat) : (s.count a f v).events = s.events := rfl
@[simp] theorem State.count_almQueue (s : State) (a : Nat) (f : Fld) (v : Nat) : (s.count a f v).almQueue = s.almQueue := rfl
@[simp] theorem State.count_almWork (s : State) (a : Nat) (f : Fld) (v : Nat) : (s.count a f v).almWork = s.almWork := rfl
@[simp] theorem State.count_leadEl (s : State) (a : Nat) (f : Fld) (v : Nat) : (s.count a f v).leadEl = s.leadEl := rfl
@[simp] theorem State.count_leadPo (s : State) (a : Nat) (f : Fld) (v : Nat) : (s.count a f v).leadPo = s.leadPo := rfl
@[simp] theorem State.count_outs (s : State) (a : Nat) (f : Fld) (v : Nat) : (s.count a f v).outs = s.outs := rfl
@[simp] theorem State.count_lines (s : State) (a : Nat) (f : Fld) (v : Nat) : (s.count a f v).lines = s.lines := rfl
@[simp] theorem State.count_lineAt (s : State) (a : Nat) (f : Fld) (v : Nat) : (s.count a f v).lineAt = s.lineAt := rfl
@[simp] theorem State.count_actOld (s : State) (a : Nat) (f : Fld) (v : Nat) : (s.count a f v).actOld = s.actOld := rfl
@[simp] theorem State.count_chains (s : State) (a : Nat) (f : Fld) (v : Nat) : (s.count a f v).chains = s.chains := rfl
@[simp] theorem State.count_pwms (s : State) (a : Nat) (f : Fld) (v : Nat) : (s.count a f v).pwms = s.pwms := rfl
@[simp] theorem State.count_trips (s : State) (a : Nat) (f : Fld) (v : Nat) : (s.count a f v).trips = s.trips := rfl
@[simp] theorem State.count_adcs (s : State) (a : Nat) (f : Fld) (v : Nat) : (s.count a f v).adcs = s.adcs := rfl
@[simp] theorem State.count_ntf (s : State) (a : Nat) (f : Fld) (v : Nat) : (s.count a f v).ntf = s.ntf := rfl
@[simp] theorem State.count_ntfTgt (s : State) (a : Nat) (f : Fld) (v : Nat) : (s.count a f v).ntfTgt = s.ntfTgt := rfl
@[simp] theorem State.count_faults (s : State) (a : Nat) (f : Fld) (v : Nat) : (s.count a f v).faults = s.faults := rfl
@[simp] theorem State.count_staging (s : State) (a : Nat) (f : Fld) (v : Nat) : (s.count a f v).staging = s.staging := rfl
@[simp] theorem State.count_flash (s : State) (a : Nat) (f : Fld) (v : Nat) : (s.count a f v).flash = s.flash := rfl
@[simp] theorem State.count_flogSeq (s : State) (a : Nat) (f : Fld) (v : Nat) : (s.count a f v).flogSeq = s.flogSeq := rfl
@[simp] theorem State.count_logAt (s : State) (a : Nat) (f : Fld) (v : Nat) : (s.count a f v).logAt = s.logAt := rfl
@[simp] theorem State.count_selAt (s : State) (a : Nat) (f : Fld) (v : Nat) : (s.count a f v).selAt = s.selAt := rfl
@[simp] theorem State.count_safeAt (s : State) (a : Nat) (f : Fld) (v : Nat) : (s.count a f v).safeAt = s.safeAt := rfl
@[simp] theorem State.count_permitted (s : State) (a : Nat) (f : Fld) (v : Nat) : (s.count a f v).permitted = s.permitted := rfl
@[simp] theorem State.count_tallies (s : State) (a : Nat) (f : Fld) (v : Nat) : (s.count a f v).tallies = s.tallies := rfl
@[simp] theorem State.count_tallyMram (s : State) (a : Nat) (f : Fld) (v : Nat) : (s.count a f v).tallyMram = s.tallyMram := rfl
@[simp] theorem State.count_cal (s : State) (a : Nat) (f : Fld) (v : Nat) : (s.count a f v).cal = s.cal := rfl
@[simp] theorem State.count_calErr (s : State) (a : Nat) (f : Fld) (v : Nat) : (s.count a f v).calErr = s.calErr := rfl
@[simp] theorem State.count_calSet (s : State) (a : Nat) (f : Fld) (v : Nat) : (s.count a f v).calSet = s.calSet := rfl
@[simp] theorem State.count_leapNow (s : State) (a : Nat) (f : Fld) (v : Nat) : (s.count a f v).leapNow = s.leapNow := rfl
@[simp] theorem State.count_refLoaded (s : State) (a : Nat) (f : Fld) (v : Nat) : (s.count a f v).refLoaded = s.refLoaded := rfl
@[simp] theorem State.count_lastFlush (s : State) (a : Nat) (f : Fld) (v : Nat) : (s.count a f v).lastFlush = s.lastFlush := rfl
@[simp] theorem State.count_tmap (s : State) (a : Nat) (f : Fld) (v : Nat) : (s.count a f v).tmap = s.tmap := rfl
@[simp] theorem State.count_gaps (s : State) (a : Nat) (f : Fld) (v : Nat) : (s.count a f v).gaps = s.gaps := rfl
@[simp] theorem State.count_gapSeq (s : State) (a : Nat) (f : Fld) (v : Nat) : (s.count a f v).gapSeq = s.gapSeq := rfl
@[simp] theorem State.count_slots (s : State) (a : Nat) (f : Fld) (v : Nat) : (s.count a f v).slots = s.slots := rfl
@[simp] theorem State.count_sessions (s : State) (a : Nat) (f : Fld) (v : Nat) : (s.count a f v).sessions = s.sessions := rfl
@[simp] theorem State.count_flights (s : State) (a : Nat) (f : Fld) (v : Nat) : (s.count a f v).flights = s.flights := rfl
@[simp] theorem State.count_nextFlight (s : State) (a : Nat) (f : Fld) (v : Nat) : (s.count a f v).nextFlight = s.nextFlight := rfl
@[simp] theorem State.count_txns (s : State) (a : Nat) (f : Fld) (v : Nat) : (s.count a f v).txns = s.txns := rfl
@[simp] theorem State.count_nextTxn (s : State) (a : Nat) (f : Fld) (v : Nat) : (s.count a f v).nextTxn = s.nextTxn := rfl
@[simp] theorem State.count_txnEnded (s : State) (a : Nat) (f : Fld) (v : Nat) : (s.count a f v).txnEnded = s.txnEnded := rfl
@[simp] theorem State.count_levelTo (s : State) (a : Nat) (f : Fld) (v : Nat) : (s.count a f v).levelTo = s.levelTo := rfl
@[simp] theorem State.count_periodNo (s : State) (a : Nat) (f : Fld) (v : Nat) : (s.count a f v).periodNo = s.periodNo := rfl
@[simp] theorem State.count_boosts (s : State) (a : Nat) (f : Fld) (v : Nat) : (s.count a f v).boosts = s.boosts := rfl
@[simp] theorem State.count_cooled (s : State) (a : Nat) (f : Fld) (v : Nat) : (s.count a f v).cooled = s.cooled := rfl
@[simp] theorem State.count_wire (s : State) (a : Nat) (f : Fld) (v : Nat) : (s.count a f v).wire = s.wire := rfl
@[simp] theorem State.count_fab (s : State) (a : Nat) (f : Fld) (v : Nat) : (s.count a f v).fab = s.fab := rfl
@[simp] theorem State.count_twin (s : State) (a : Nat) (f : Fld) (v : Nat) : (s.count a f v).twin = s.twin := rfl
@[simp] theorem State.count_lockRec (s : State) (a : Nat) (f : Fld) (v : Nat) : (s.count a f v).lockRec = s.lockRec := rfl
@[simp] theorem State.count_power (s : State) (a : Nat) (f : Fld) (v : Nat) : (s.count a f v).power = s.power := rfl
@[simp] theorem State.count_holdB (s : State) (a : Nat) (f : Fld) (v : Nat) : (s.count a f v).holdB = s.holdB := rfl
@[simp] theorem State.count_holdC (s : State) (a : Nat) (f : Fld) (v : Nat) : (s.count a f v).holdC = s.holdC := rfl
@[simp] theorem State.count_threads (s : State) (a : Nat) (f : Fld) (v : Nat) : (s.count a f v).threads = s.threads := rfl
@[simp] theorem State.count_imem (s : State) (a : Nat) (f : Fld) (v : Nat) : (s.count a f v).imem = s.imem := rfl
@[simp] theorem State.count_dmem (s : State) (a : Nat) (f : Fld) (v : Nat) : (s.count a f v).dmem = s.dmem := rfl
@[simp] theorem State.count_dmemDirty (s : State) (a : Nat) (f : Fld) (v : Nat) : (s.count a f v).dmemDirty = s.dmemDirty := rfl
@[simp] theorem State.count_memErrs (s : State) (a : Nat) (f : Fld) (v : Nat) : (s.count a f v).memErrs = s.memErrs := rfl
@[simp] theorem State.count_bluCycles (s : State) (a : Nat) (f : Fld) (v : Nat) : (s.count a f v).bluCycles = s.bluCycles := rfl
@[simp] theorem State.count_bluSeq (s : State) (a : Nat) (f : Fld) (v : Nat) : (s.count a f v).bluSeq = s.bluSeq := rfl
@[simp] theorem State.count_poQueue (s : State) (a : Nat) (f : Fld) (v : Nat) : (s.count a f v).poQueue = s.poQueue := rfl
@[simp] theorem State.count_phiTrail (s : State) (a : Nat) (f : Fld) (v : Nat) : (s.count a f v).phiTrail = s.phiTrail := rfl
@[simp] theorem State.count_canary (s : State) (a : Nat) (f : Fld) (v : Nat) : (s.count a f v).canary = s.canary := rfl
@[simp] theorem State.count_aon (s : State) (a : Nat) (f : Fld) (v : Nat) : (s.count a f v).aon = s.aon := rfl
@[simp] theorem State.count_wakeAt (s : State) (a : Nat) (f : Fld) (v : Nat) : (s.count a f v).wakeAt = s.wakeAt := rfl
@[simp] theorem State.count_watchNext (s : State) (a : Nat) (f : Fld) (v : Nat) : (s.count a f v).watchNext = s.watchNext := rfl
@[simp] theorem State.count_saved (s : State) (a : Nat) (f : Fld) (v : Nat) : (s.count a f v).saved = s.saved := rfl
@[simp] theorem State.count_products (s : State) (a : Nat) (f : Fld) (v : Nat) : (s.count a f v).products = s.products := rfl
@[simp] theorem State.count_prodWas (s : State) (a : Nat) (f : Fld) (v : Nat) : (s.count a f v).prodWas = s.prodWas := rfl
@[simp] theorem State.count_arrivals (s : State) (a : Nat) (f : Fld) (v : Nat) : (s.count a f v).arrivals = s.arrivals := rfl
@[simp] theorem State.count_prodFresh (s : State) (a : Nat) (f : Fld) (v : Nat) : (s.count a f v).prodFresh = s.prodFresh := rfl
@[simp] theorem State.count_prodFree (s : State) (a : Nat) (f : Fld) (v : Nat) : (s.count a f v).prodFree = s.prodFree := rfl
@[simp] theorem State.count_pidSeq (s : State) (a : Nat) (f : Fld) (v : Nat) : (s.count a f v).pidSeq = s.pidSeq := rfl
@[simp] theorem State.count_ephLanes (s : State) (a : Nat) (f : Fld) (v : Nat) : (s.count a f v).ephLanes = s.ephLanes := rfl
@[simp] theorem State.count_stnTick (s : State) (a : Nat) (f : Fld) (v : Nat) : (s.count a f v).stnTick = s.stnTick := rfl
@[simp] theorem State.count_storeFullAt (s : State) (a : Nat) (f : Fld) (v : Nat) : (s.count a f v).storeFullAt = s.storeFullAt := rfl
@[simp] theorem State.count_handoffs (s : State) (a : Nat) (f : Fld) (v : Nat) : (s.count a f v).handoffs = s.handoffs := rfl
@[simp] theorem State.count_pidsSeen (s : State) (a : Nat) (f : Fld) (v : Nat) : (s.count a f v).pidsSeen = s.pidsSeen := rfl
@[simp] theorem State.count_jobs (s : State) (a : Nat) (f : Fld) (v : Nat) : (s.count a f v).jobs = s.jobs := rfl
@[simp] theorem State.count_nextJob (s : State) (a : Nat) (f : Fld) (v : Nat) : (s.count a f v).nextJob = s.nextJob := rfl
@[simp] theorem State.count_serialsIn (s : State) (a : Nat) (f : Fld) (v : Nat) : (s.count a f v).serialsIn = s.serialsIn := rfl
@[simp] theorem State.count_reservationAcks (s : State) (a : Nat) (f : Fld) (v : Nat) : (s.count a f v).reservationAcks = s.reservationAcks := rfl
@[simp] theorem State.count_gens (s : State) (a : Nat) (f : Fld) (v : Nat) : (s.count a f v).gens = s.gens := rfl
@[simp] theorem State.count_heldCal (s : State) (a : Nat) (f : Fld) (v : Nat) : (s.count a f v).heldCal = s.heldCal := rfl
@[simp] theorem State.count_noDateOn (s : State) (a : Nat) (f : Fld) (v : Nat) : (s.count a f v).noDateOn = s.noDateOn := rfl
@[simp] theorem State.count_raster (s : State) (a : Nat) (f : Fld) (v : Nat) : (s.count a f v).raster = s.raster := rfl
@[simp] theorem State.count_pool (s : State) (a : Nat) (f : Fld) (v : Nat) : (s.count a f v).pool = s.pool := rfl
@[simp] theorem State.count_poison (s : State) (a : Nat) (f : Fld) (v : Nat) : (s.count a f v).poison = s.poison := rfl
@[simp] theorem State.count_extents (s : State) (a : Nat) (f : Fld) (v : Nat) : (s.count a f v).extents = s.extents := rfl
@[simp] theorem State.count_dmas (s : State) (a : Nat) (f : Fld) (v : Nat) : (s.count a f v).dmas = s.dmas := rfl
@[simp] theorem State.count_scrubPos (s : State) (a : Nat) (f : Fld) (v : Nat) : (s.count a f v).scrubPos = s.scrubPos := rfl
@[simp] theorem State.count_boot (s : State) (a : Nat) (f : Fld) (v : Nat) : (s.count a f v).boot = s.boot := rfl

@[simp] theorem State.hwSet_pending (s : State) (a : Nat) (f : Fld) (v p : Nat) : (s.hwSet a f v p).pending = s.pending := rfl
@[simp] theorem State.hwSet_time (s : State) (a : Nat) (f : Fld) (v p : Nat) : (s.hwSet a f v p).time = s.time := rfl
@[simp] theorem State.hwSet_free (s : State) (a : Nat) (f : Fld) (v p : Nat) : (s.hwSet a f v p).free = s.free := rfl
@[simp] theorem State.hwSet_completion (s : State) (a : Nat) (f : Fld) (v p : Nat) : (s.hwSet a f v p).completion = s.completion := rfl
@[simp] theorem State.hwSet_liveWas (s : State) (a : Nat) (f : Fld) (v p : Nat) : (s.hwSet a f v p).liveWas = s.liveWas := rfl
@[simp] theorem State.hwSet_shutdown (s : State) (a : Nat) (f : Fld) (v p : Nat) : (s.hwSet a f v p).shutdown = s.shutdown := rfl
@[simp] theorem State.hwSet_leaseOk (s : State) (a : Nat) (f : Fld) (v p : Nat) : (s.hwSet a f v p).leaseOk = s.leaseOk := rfl
@[simp] theorem State.hwSet_shafts (s : State) (a : Nat) (f : Fld) (v p : Nat) : (s.hwSet a f v p).shafts = s.shafts := rfl
@[simp] theorem State.hwSet_ports (s : State) (a : Nat) (f : Fld) (v p : Nat) : (s.hwSet a f v p).ports = s.ports := rfl
@[simp] theorem State.hwSet_cells (s : State) (a : Nat) (f : Fld) (v p : Nat) : (s.hwSet a f v p).cells = s.cells := rfl
@[simp] theorem State.hwSet_events (s : State) (a : Nat) (f : Fld) (v p : Nat) : (s.hwSet a f v p).events = s.events := rfl
@[simp] theorem State.hwSet_almQueue (s : State) (a : Nat) (f : Fld) (v p : Nat) : (s.hwSet a f v p).almQueue = s.almQueue := rfl
@[simp] theorem State.hwSet_almWork (s : State) (a : Nat) (f : Fld) (v p : Nat) : (s.hwSet a f v p).almWork = s.almWork := rfl
@[simp] theorem State.hwSet_leadEl (s : State) (a : Nat) (f : Fld) (v p : Nat) : (s.hwSet a f v p).leadEl = s.leadEl := rfl
@[simp] theorem State.hwSet_leadPo (s : State) (a : Nat) (f : Fld) (v p : Nat) : (s.hwSet a f v p).leadPo = s.leadPo := rfl
@[simp] theorem State.hwSet_outs (s : State) (a : Nat) (f : Fld) (v p : Nat) : (s.hwSet a f v p).outs = s.outs := rfl
@[simp] theorem State.hwSet_lines (s : State) (a : Nat) (f : Fld) (v p : Nat) : (s.hwSet a f v p).lines = s.lines := rfl
@[simp] theorem State.hwSet_lineAt (s : State) (a : Nat) (f : Fld) (v p : Nat) : (s.hwSet a f v p).lineAt = s.lineAt := rfl
@[simp] theorem State.hwSet_actOld (s : State) (a : Nat) (f : Fld) (v p : Nat) : (s.hwSet a f v p).actOld = s.actOld := rfl
@[simp] theorem State.hwSet_chains (s : State) (a : Nat) (f : Fld) (v p : Nat) : (s.hwSet a f v p).chains = s.chains := rfl
@[simp] theorem State.hwSet_pwms (s : State) (a : Nat) (f : Fld) (v p : Nat) : (s.hwSet a f v p).pwms = s.pwms := rfl
@[simp] theorem State.hwSet_trips (s : State) (a : Nat) (f : Fld) (v p : Nat) : (s.hwSet a f v p).trips = s.trips := rfl
@[simp] theorem State.hwSet_adcs (s : State) (a : Nat) (f : Fld) (v p : Nat) : (s.hwSet a f v p).adcs = s.adcs := rfl
@[simp] theorem State.hwSet_ntf (s : State) (a : Nat) (f : Fld) (v p : Nat) : (s.hwSet a f v p).ntf = s.ntf := rfl
@[simp] theorem State.hwSet_ntfTgt (s : State) (a : Nat) (f : Fld) (v p : Nat) : (s.hwSet a f v p).ntfTgt = s.ntfTgt := rfl
@[simp] theorem State.hwSet_faults (s : State) (a : Nat) (f : Fld) (v p : Nat) : (s.hwSet a f v p).faults = s.faults := rfl
@[simp] theorem State.hwSet_staging (s : State) (a : Nat) (f : Fld) (v p : Nat) : (s.hwSet a f v p).staging = s.staging := rfl
@[simp] theorem State.hwSet_flash (s : State) (a : Nat) (f : Fld) (v p : Nat) : (s.hwSet a f v p).flash = s.flash := rfl
@[simp] theorem State.hwSet_flogSeq (s : State) (a : Nat) (f : Fld) (v p : Nat) : (s.hwSet a f v p).flogSeq = s.flogSeq := rfl
@[simp] theorem State.hwSet_logAt (s : State) (a : Nat) (f : Fld) (v p : Nat) : (s.hwSet a f v p).logAt = s.logAt := rfl
@[simp] theorem State.hwSet_selAt (s : State) (a : Nat) (f : Fld) (v p : Nat) : (s.hwSet a f v p).selAt = s.selAt := rfl
@[simp] theorem State.hwSet_safeAt (s : State) (a : Nat) (f : Fld) (v p : Nat) : (s.hwSet a f v p).safeAt = s.safeAt := rfl
@[simp] theorem State.hwSet_permitted (s : State) (a : Nat) (f : Fld) (v p : Nat) : (s.hwSet a f v p).permitted = s.permitted := rfl
@[simp] theorem State.hwSet_tallies (s : State) (a : Nat) (f : Fld) (v p : Nat) : (s.hwSet a f v p).tallies = s.tallies := rfl
@[simp] theorem State.hwSet_tallyMram (s : State) (a : Nat) (f : Fld) (v p : Nat) : (s.hwSet a f v p).tallyMram = s.tallyMram := rfl
@[simp] theorem State.hwSet_cal (s : State) (a : Nat) (f : Fld) (v p : Nat) : (s.hwSet a f v p).cal = s.cal := rfl
@[simp] theorem State.hwSet_calErr (s : State) (a : Nat) (f : Fld) (v p : Nat) : (s.hwSet a f v p).calErr = s.calErr := rfl
@[simp] theorem State.hwSet_calSet (s : State) (a : Nat) (f : Fld) (v p : Nat) : (s.hwSet a f v p).calSet = s.calSet := rfl
@[simp] theorem State.hwSet_leapNow (s : State) (a : Nat) (f : Fld) (v p : Nat) : (s.hwSet a f v p).leapNow = s.leapNow := rfl
@[simp] theorem State.hwSet_refLoaded (s : State) (a : Nat) (f : Fld) (v p : Nat) : (s.hwSet a f v p).refLoaded = s.refLoaded := rfl
@[simp] theorem State.hwSet_lastFlush (s : State) (a : Nat) (f : Fld) (v p : Nat) : (s.hwSet a f v p).lastFlush = s.lastFlush := rfl
@[simp] theorem State.hwSet_tmap (s : State) (a : Nat) (f : Fld) (v p : Nat) : (s.hwSet a f v p).tmap = s.tmap := rfl
@[simp] theorem State.hwSet_gaps (s : State) (a : Nat) (f : Fld) (v p : Nat) : (s.hwSet a f v p).gaps = s.gaps := rfl
@[simp] theorem State.hwSet_gapSeq (s : State) (a : Nat) (f : Fld) (v p : Nat) : (s.hwSet a f v p).gapSeq = s.gapSeq := rfl
@[simp] theorem State.hwSet_slots (s : State) (a : Nat) (f : Fld) (v p : Nat) : (s.hwSet a f v p).slots = s.slots := rfl
@[simp] theorem State.hwSet_sessions (s : State) (a : Nat) (f : Fld) (v p : Nat) : (s.hwSet a f v p).sessions = s.sessions := rfl
@[simp] theorem State.hwSet_flights (s : State) (a : Nat) (f : Fld) (v p : Nat) : (s.hwSet a f v p).flights = s.flights := rfl
@[simp] theorem State.hwSet_nextFlight (s : State) (a : Nat) (f : Fld) (v p : Nat) : (s.hwSet a f v p).nextFlight = s.nextFlight := rfl
@[simp] theorem State.hwSet_txns (s : State) (a : Nat) (f : Fld) (v p : Nat) : (s.hwSet a f v p).txns = s.txns := rfl
@[simp] theorem State.hwSet_nextTxn (s : State) (a : Nat) (f : Fld) (v p : Nat) : (s.hwSet a f v p).nextTxn = s.nextTxn := rfl
@[simp] theorem State.hwSet_txnEnded (s : State) (a : Nat) (f : Fld) (v p : Nat) : (s.hwSet a f v p).txnEnded = s.txnEnded := rfl
@[simp] theorem State.hwSet_levelTo (s : State) (a : Nat) (f : Fld) (v p : Nat) : (s.hwSet a f v p).levelTo = s.levelTo := rfl
@[simp] theorem State.hwSet_periodNo (s : State) (a : Nat) (f : Fld) (v p : Nat) : (s.hwSet a f v p).periodNo = s.periodNo := rfl
@[simp] theorem State.hwSet_boosts (s : State) (a : Nat) (f : Fld) (v p : Nat) : (s.hwSet a f v p).boosts = s.boosts := rfl
@[simp] theorem State.hwSet_cooled (s : State) (a : Nat) (f : Fld) (v p : Nat) : (s.hwSet a f v p).cooled = s.cooled := rfl
@[simp] theorem State.hwSet_wire (s : State) (a : Nat) (f : Fld) (v p : Nat) : (s.hwSet a f v p).wire = s.wire := rfl
@[simp] theorem State.hwSet_fab (s : State) (a : Nat) (f : Fld) (v p : Nat) : (s.hwSet a f v p).fab = s.fab := rfl
@[simp] theorem State.hwSet_twin (s : State) (a : Nat) (f : Fld) (v p : Nat) : (s.hwSet a f v p).twin = s.twin := rfl
@[simp] theorem State.hwSet_lockRec (s : State) (a : Nat) (f : Fld) (v p : Nat) : (s.hwSet a f v p).lockRec = s.lockRec := rfl
@[simp] theorem State.hwSet_power (s : State) (a : Nat) (f : Fld) (v p : Nat) : (s.hwSet a f v p).power = s.power := rfl
@[simp] theorem State.hwSet_holdB (s : State) (a : Nat) (f : Fld) (v p : Nat) : (s.hwSet a f v p).holdB = s.holdB := rfl
@[simp] theorem State.hwSet_holdC (s : State) (a : Nat) (f : Fld) (v p : Nat) : (s.hwSet a f v p).holdC = s.holdC := rfl
@[simp] theorem State.hwSet_threads (s : State) (a : Nat) (f : Fld) (v p : Nat) : (s.hwSet a f v p).threads = s.threads := rfl
@[simp] theorem State.hwSet_imem (s : State) (a : Nat) (f : Fld) (v p : Nat) : (s.hwSet a f v p).imem = s.imem := rfl
@[simp] theorem State.hwSet_dmem (s : State) (a : Nat) (f : Fld) (v p : Nat) : (s.hwSet a f v p).dmem = s.dmem := rfl
@[simp] theorem State.hwSet_dmemDirty (s : State) (a : Nat) (f : Fld) (v p : Nat) : (s.hwSet a f v p).dmemDirty = s.dmemDirty := rfl
@[simp] theorem State.hwSet_memErrs (s : State) (a : Nat) (f : Fld) (v p : Nat) : (s.hwSet a f v p).memErrs = s.memErrs := rfl
@[simp] theorem State.hwSet_bluCycles (s : State) (a : Nat) (f : Fld) (v p : Nat) : (s.hwSet a f v p).bluCycles = s.bluCycles := rfl
@[simp] theorem State.hwSet_bluSeq (s : State) (a : Nat) (f : Fld) (v p : Nat) : (s.hwSet a f v p).bluSeq = s.bluSeq := rfl
@[simp] theorem State.hwSet_poQueue (s : State) (a : Nat) (f : Fld) (v p : Nat) : (s.hwSet a f v p).poQueue = s.poQueue := rfl
@[simp] theorem State.hwSet_phiTrail (s : State) (a : Nat) (f : Fld) (v p : Nat) : (s.hwSet a f v p).phiTrail = s.phiTrail := rfl
@[simp] theorem State.hwSet_canary (s : State) (a : Nat) (f : Fld) (v p : Nat) : (s.hwSet a f v p).canary = s.canary := rfl
@[simp] theorem State.hwSet_aon (s : State) (a : Nat) (f : Fld) (v p : Nat) : (s.hwSet a f v p).aon = s.aon := rfl
@[simp] theorem State.hwSet_wakeAt (s : State) (a : Nat) (f : Fld) (v p : Nat) : (s.hwSet a f v p).wakeAt = s.wakeAt := rfl
@[simp] theorem State.hwSet_watchNext (s : State) (a : Nat) (f : Fld) (v p : Nat) : (s.hwSet a f v p).watchNext = s.watchNext := rfl
@[simp] theorem State.hwSet_saved (s : State) (a : Nat) (f : Fld) (v p : Nat) : (s.hwSet a f v p).saved = s.saved := rfl
@[simp] theorem State.hwSet_products (s : State) (a : Nat) (f : Fld) (v p : Nat) : (s.hwSet a f v p).products = s.products := rfl
@[simp] theorem State.hwSet_prodWas (s : State) (a : Nat) (f : Fld) (v p : Nat) : (s.hwSet a f v p).prodWas = s.prodWas := rfl
@[simp] theorem State.hwSet_arrivals (s : State) (a : Nat) (f : Fld) (v p : Nat) : (s.hwSet a f v p).arrivals = s.arrivals := rfl
@[simp] theorem State.hwSet_prodFresh (s : State) (a : Nat) (f : Fld) (v p : Nat) : (s.hwSet a f v p).prodFresh = s.prodFresh := rfl
@[simp] theorem State.hwSet_prodFree (s : State) (a : Nat) (f : Fld) (v p : Nat) : (s.hwSet a f v p).prodFree = s.prodFree := rfl
@[simp] theorem State.hwSet_pidSeq (s : State) (a : Nat) (f : Fld) (v p : Nat) : (s.hwSet a f v p).pidSeq = s.pidSeq := rfl
@[simp] theorem State.hwSet_ephLanes (s : State) (a : Nat) (f : Fld) (v p : Nat) : (s.hwSet a f v p).ephLanes = s.ephLanes := rfl
@[simp] theorem State.hwSet_stnTick (s : State) (a : Nat) (f : Fld) (v p : Nat) : (s.hwSet a f v p).stnTick = s.stnTick := rfl
@[simp] theorem State.hwSet_storeFullAt (s : State) (a : Nat) (f : Fld) (v p : Nat) : (s.hwSet a f v p).storeFullAt = s.storeFullAt := rfl
@[simp] theorem State.hwSet_handoffs (s : State) (a : Nat) (f : Fld) (v p : Nat) : (s.hwSet a f v p).handoffs = s.handoffs := rfl
@[simp] theorem State.hwSet_pidsSeen (s : State) (a : Nat) (f : Fld) (v p : Nat) : (s.hwSet a f v p).pidsSeen = s.pidsSeen := rfl
@[simp] theorem State.hwSet_jobs (s : State) (a : Nat) (f : Fld) (v p : Nat) : (s.hwSet a f v p).jobs = s.jobs := rfl
@[simp] theorem State.hwSet_nextJob (s : State) (a : Nat) (f : Fld) (v p : Nat) : (s.hwSet a f v p).nextJob = s.nextJob := rfl
@[simp] theorem State.hwSet_serialsIn (s : State) (a : Nat) (f : Fld) (v p : Nat) : (s.hwSet a f v p).serialsIn = s.serialsIn := rfl
@[simp] theorem State.hwSet_reservationAcks (s : State) (a : Nat) (f : Fld) (v p : Nat) : (s.hwSet a f v p).reservationAcks = s.reservationAcks := rfl
@[simp] theorem State.hwSet_gens (s : State) (a : Nat) (f : Fld) (v p : Nat) : (s.hwSet a f v p).gens = s.gens := rfl
@[simp] theorem State.hwSet_heldCal (s : State) (a : Nat) (f : Fld) (v p : Nat) : (s.hwSet a f v p).heldCal = s.heldCal := rfl
@[simp] theorem State.hwSet_noDateOn (s : State) (a : Nat) (f : Fld) (v p : Nat) : (s.hwSet a f v p).noDateOn = s.noDateOn := rfl
@[simp] theorem State.hwSet_raster (s : State) (a : Nat) (f : Fld) (v p : Nat) : (s.hwSet a f v p).raster = s.raster := rfl
@[simp] theorem State.hwSet_pool (s : State) (a : Nat) (f : Fld) (v p : Nat) : (s.hwSet a f v p).pool = s.pool := rfl
@[simp] theorem State.hwSet_poison (s : State) (a : Nat) (f : Fld) (v p : Nat) : (s.hwSet a f v p).poison = s.poison := rfl
@[simp] theorem State.hwSet_extents (s : State) (a : Nat) (f : Fld) (v p : Nat) : (s.hwSet a f v p).extents = s.extents := rfl
@[simp] theorem State.hwSet_dmas (s : State) (a : Nat) (f : Fld) (v p : Nat) : (s.hwSet a f v p).dmas = s.dmas := rfl
@[simp] theorem State.hwSet_scrubPos (s : State) (a : Nat) (f : Fld) (v p : Nat) : (s.hwSet a f v p).scrubPos = s.scrubPos := rfl
@[simp] theorem State.hwSet_boot (s : State) (a : Nat) (f : Fld) (v p : Nat) : (s.hwSet a f v p).boot = s.boot := rfl

@[simp] theorem State.latch_pending (s : State) (a : Nat) (f : Fld) : (s.latch a f).pending = s.pending := rfl
@[simp] theorem State.latch_time (s : State) (a : Nat) (f : Fld) : (s.latch a f).time = s.time := rfl
@[simp] theorem State.latch_free (s : State) (a : Nat) (f : Fld) : (s.latch a f).free = s.free := rfl
@[simp] theorem State.latch_completion (s : State) (a : Nat) (f : Fld) : (s.latch a f).completion = s.completion := rfl
@[simp] theorem State.latch_liveWas (s : State) (a : Nat) (f : Fld) : (s.latch a f).liveWas = s.liveWas := rfl
@[simp] theorem State.latch_shutdown (s : State) (a : Nat) (f : Fld) : (s.latch a f).shutdown = s.shutdown := rfl
@[simp] theorem State.latch_leaseOk (s : State) (a : Nat) (f : Fld) : (s.latch a f).leaseOk = s.leaseOk := rfl
@[simp] theorem State.latch_shafts (s : State) (a : Nat) (f : Fld) : (s.latch a f).shafts = s.shafts := rfl
@[simp] theorem State.latch_ports (s : State) (a : Nat) (f : Fld) : (s.latch a f).ports = s.ports := rfl
@[simp] theorem State.latch_cells (s : State) (a : Nat) (f : Fld) : (s.latch a f).cells = s.cells := rfl
@[simp] theorem State.latch_events (s : State) (a : Nat) (f : Fld) : (s.latch a f).events = s.events := rfl
@[simp] theorem State.latch_almQueue (s : State) (a : Nat) (f : Fld) : (s.latch a f).almQueue = s.almQueue := rfl
@[simp] theorem State.latch_almWork (s : State) (a : Nat) (f : Fld) : (s.latch a f).almWork = s.almWork := rfl
@[simp] theorem State.latch_leadEl (s : State) (a : Nat) (f : Fld) : (s.latch a f).leadEl = s.leadEl := rfl
@[simp] theorem State.latch_leadPo (s : State) (a : Nat) (f : Fld) : (s.latch a f).leadPo = s.leadPo := rfl
@[simp] theorem State.latch_outs (s : State) (a : Nat) (f : Fld) : (s.latch a f).outs = s.outs := rfl
@[simp] theorem State.latch_lines (s : State) (a : Nat) (f : Fld) : (s.latch a f).lines = s.lines := rfl
@[simp] theorem State.latch_lineAt (s : State) (a : Nat) (f : Fld) : (s.latch a f).lineAt = s.lineAt := rfl
@[simp] theorem State.latch_actOld (s : State) (a : Nat) (f : Fld) : (s.latch a f).actOld = s.actOld := rfl
@[simp] theorem State.latch_chains (s : State) (a : Nat) (f : Fld) : (s.latch a f).chains = s.chains := rfl
@[simp] theorem State.latch_pwms (s : State) (a : Nat) (f : Fld) : (s.latch a f).pwms = s.pwms := rfl
@[simp] theorem State.latch_trips (s : State) (a : Nat) (f : Fld) : (s.latch a f).trips = s.trips := rfl
@[simp] theorem State.latch_adcs (s : State) (a : Nat) (f : Fld) : (s.latch a f).adcs = s.adcs := rfl
@[simp] theorem State.latch_ntf (s : State) (a : Nat) (f : Fld) : (s.latch a f).ntf = s.ntf := rfl
@[simp] theorem State.latch_ntfTgt (s : State) (a : Nat) (f : Fld) : (s.latch a f).ntfTgt = s.ntfTgt := rfl
@[simp] theorem State.latch_faults (s : State) (a : Nat) (f : Fld) : (s.latch a f).faults = s.faults := rfl
@[simp] theorem State.latch_staging (s : State) (a : Nat) (f : Fld) : (s.latch a f).staging = s.staging := rfl
@[simp] theorem State.latch_flash (s : State) (a : Nat) (f : Fld) : (s.latch a f).flash = s.flash := rfl
@[simp] theorem State.latch_flogSeq (s : State) (a : Nat) (f : Fld) : (s.latch a f).flogSeq = s.flogSeq := rfl
@[simp] theorem State.latch_logAt (s : State) (a : Nat) (f : Fld) : (s.latch a f).logAt = s.logAt := rfl
@[simp] theorem State.latch_selAt (s : State) (a : Nat) (f : Fld) : (s.latch a f).selAt = s.selAt := rfl
@[simp] theorem State.latch_safeAt (s : State) (a : Nat) (f : Fld) : (s.latch a f).safeAt = s.safeAt := rfl
@[simp] theorem State.latch_permitted (s : State) (a : Nat) (f : Fld) : (s.latch a f).permitted = s.permitted := rfl
@[simp] theorem State.latch_tallies (s : State) (a : Nat) (f : Fld) : (s.latch a f).tallies = s.tallies := rfl
@[simp] theorem State.latch_tallyMram (s : State) (a : Nat) (f : Fld) : (s.latch a f).tallyMram = s.tallyMram := rfl
@[simp] theorem State.latch_cal (s : State) (a : Nat) (f : Fld) : (s.latch a f).cal = s.cal := rfl
@[simp] theorem State.latch_calErr (s : State) (a : Nat) (f : Fld) : (s.latch a f).calErr = s.calErr := rfl
@[simp] theorem State.latch_calSet (s : State) (a : Nat) (f : Fld) : (s.latch a f).calSet = s.calSet := rfl
@[simp] theorem State.latch_leapNow (s : State) (a : Nat) (f : Fld) : (s.latch a f).leapNow = s.leapNow := rfl
@[simp] theorem State.latch_refLoaded (s : State) (a : Nat) (f : Fld) : (s.latch a f).refLoaded = s.refLoaded := rfl
@[simp] theorem State.latch_lastFlush (s : State) (a : Nat) (f : Fld) : (s.latch a f).lastFlush = s.lastFlush := rfl
@[simp] theorem State.latch_tmap (s : State) (a : Nat) (f : Fld) : (s.latch a f).tmap = s.tmap := rfl
@[simp] theorem State.latch_gaps (s : State) (a : Nat) (f : Fld) : (s.latch a f).gaps = s.gaps := rfl
@[simp] theorem State.latch_gapSeq (s : State) (a : Nat) (f : Fld) : (s.latch a f).gapSeq = s.gapSeq := rfl
@[simp] theorem State.latch_slots (s : State) (a : Nat) (f : Fld) : (s.latch a f).slots = s.slots := rfl
@[simp] theorem State.latch_sessions (s : State) (a : Nat) (f : Fld) : (s.latch a f).sessions = s.sessions := rfl
@[simp] theorem State.latch_flights (s : State) (a : Nat) (f : Fld) : (s.latch a f).flights = s.flights := rfl
@[simp] theorem State.latch_nextFlight (s : State) (a : Nat) (f : Fld) : (s.latch a f).nextFlight = s.nextFlight := rfl
@[simp] theorem State.latch_txns (s : State) (a : Nat) (f : Fld) : (s.latch a f).txns = s.txns := rfl
@[simp] theorem State.latch_nextTxn (s : State) (a : Nat) (f : Fld) : (s.latch a f).nextTxn = s.nextTxn := rfl
@[simp] theorem State.latch_txnEnded (s : State) (a : Nat) (f : Fld) : (s.latch a f).txnEnded = s.txnEnded := rfl
@[simp] theorem State.latch_levelTo (s : State) (a : Nat) (f : Fld) : (s.latch a f).levelTo = s.levelTo := rfl
@[simp] theorem State.latch_periodNo (s : State) (a : Nat) (f : Fld) : (s.latch a f).periodNo = s.periodNo := rfl
@[simp] theorem State.latch_boosts (s : State) (a : Nat) (f : Fld) : (s.latch a f).boosts = s.boosts := rfl
@[simp] theorem State.latch_cooled (s : State) (a : Nat) (f : Fld) : (s.latch a f).cooled = s.cooled := rfl
@[simp] theorem State.latch_wire (s : State) (a : Nat) (f : Fld) : (s.latch a f).wire = s.wire := rfl
@[simp] theorem State.latch_fab (s : State) (a : Nat) (f : Fld) : (s.latch a f).fab = s.fab := rfl
@[simp] theorem State.latch_twin (s : State) (a : Nat) (f : Fld) : (s.latch a f).twin = s.twin := rfl
@[simp] theorem State.latch_lockRec (s : State) (a : Nat) (f : Fld) : (s.latch a f).lockRec = s.lockRec := rfl
@[simp] theorem State.latch_power (s : State) (a : Nat) (f : Fld) : (s.latch a f).power = s.power := rfl
@[simp] theorem State.latch_holdB (s : State) (a : Nat) (f : Fld) : (s.latch a f).holdB = s.holdB := rfl
@[simp] theorem State.latch_holdC (s : State) (a : Nat) (f : Fld) : (s.latch a f).holdC = s.holdC := rfl
@[simp] theorem State.latch_threads (s : State) (a : Nat) (f : Fld) : (s.latch a f).threads = s.threads := rfl
@[simp] theorem State.latch_imem (s : State) (a : Nat) (f : Fld) : (s.latch a f).imem = s.imem := rfl
@[simp] theorem State.latch_dmem (s : State) (a : Nat) (f : Fld) : (s.latch a f).dmem = s.dmem := rfl
@[simp] theorem State.latch_dmemDirty (s : State) (a : Nat) (f : Fld) : (s.latch a f).dmemDirty = s.dmemDirty := rfl
@[simp] theorem State.latch_memErrs (s : State) (a : Nat) (f : Fld) : (s.latch a f).memErrs = s.memErrs := rfl
@[simp] theorem State.latch_bluCycles (s : State) (a : Nat) (f : Fld) : (s.latch a f).bluCycles = s.bluCycles := rfl
@[simp] theorem State.latch_bluSeq (s : State) (a : Nat) (f : Fld) : (s.latch a f).bluSeq = s.bluSeq := rfl
@[simp] theorem State.latch_poQueue (s : State) (a : Nat) (f : Fld) : (s.latch a f).poQueue = s.poQueue := rfl
@[simp] theorem State.latch_phiTrail (s : State) (a : Nat) (f : Fld) : (s.latch a f).phiTrail = s.phiTrail := rfl
@[simp] theorem State.latch_canary (s : State) (a : Nat) (f : Fld) : (s.latch a f).canary = s.canary := rfl
@[simp] theorem State.latch_aon (s : State) (a : Nat) (f : Fld) : (s.latch a f).aon = s.aon := rfl
@[simp] theorem State.latch_wakeAt (s : State) (a : Nat) (f : Fld) : (s.latch a f).wakeAt = s.wakeAt := rfl
@[simp] theorem State.latch_watchNext (s : State) (a : Nat) (f : Fld) : (s.latch a f).watchNext = s.watchNext := rfl
@[simp] theorem State.latch_saved (s : State) (a : Nat) (f : Fld) : (s.latch a f).saved = s.saved := rfl
@[simp] theorem State.latch_products (s : State) (a : Nat) (f : Fld) : (s.latch a f).products = s.products := rfl
@[simp] theorem State.latch_prodWas (s : State) (a : Nat) (f : Fld) : (s.latch a f).prodWas = s.prodWas := rfl
@[simp] theorem State.latch_arrivals (s : State) (a : Nat) (f : Fld) : (s.latch a f).arrivals = s.arrivals := rfl
@[simp] theorem State.latch_prodFresh (s : State) (a : Nat) (f : Fld) : (s.latch a f).prodFresh = s.prodFresh := rfl
@[simp] theorem State.latch_prodFree (s : State) (a : Nat) (f : Fld) : (s.latch a f).prodFree = s.prodFree := rfl
@[simp] theorem State.latch_pidSeq (s : State) (a : Nat) (f : Fld) : (s.latch a f).pidSeq = s.pidSeq := rfl
@[simp] theorem State.latch_ephLanes (s : State) (a : Nat) (f : Fld) : (s.latch a f).ephLanes = s.ephLanes := rfl
@[simp] theorem State.latch_stnTick (s : State) (a : Nat) (f : Fld) : (s.latch a f).stnTick = s.stnTick := rfl
@[simp] theorem State.latch_storeFullAt (s : State) (a : Nat) (f : Fld) : (s.latch a f).storeFullAt = s.storeFullAt := rfl
@[simp] theorem State.latch_handoffs (s : State) (a : Nat) (f : Fld) : (s.latch a f).handoffs = s.handoffs := rfl
@[simp] theorem State.latch_pidsSeen (s : State) (a : Nat) (f : Fld) : (s.latch a f).pidsSeen = s.pidsSeen := rfl
@[simp] theorem State.latch_jobs (s : State) (a : Nat) (f : Fld) : (s.latch a f).jobs = s.jobs := rfl
@[simp] theorem State.latch_nextJob (s : State) (a : Nat) (f : Fld) : (s.latch a f).nextJob = s.nextJob := rfl
@[simp] theorem State.latch_serialsIn (s : State) (a : Nat) (f : Fld) : (s.latch a f).serialsIn = s.serialsIn := rfl
@[simp] theorem State.latch_reservationAcks (s : State) (a : Nat) (f : Fld) : (s.latch a f).reservationAcks = s.reservationAcks := rfl
@[simp] theorem State.latch_gens (s : State) (a : Nat) (f : Fld) : (s.latch a f).gens = s.gens := rfl
@[simp] theorem State.latch_heldCal (s : State) (a : Nat) (f : Fld) : (s.latch a f).heldCal = s.heldCal := rfl
@[simp] theorem State.latch_noDateOn (s : State) (a : Nat) (f : Fld) : (s.latch a f).noDateOn = s.noDateOn := rfl
@[simp] theorem State.latch_raster (s : State) (a : Nat) (f : Fld) : (s.latch a f).raster = s.raster := rfl
@[simp] theorem State.latch_pool (s : State) (a : Nat) (f : Fld) : (s.latch a f).pool = s.pool := rfl
@[simp] theorem State.latch_poison (s : State) (a : Nat) (f : Fld) : (s.latch a f).poison = s.poison := rfl
@[simp] theorem State.latch_extents (s : State) (a : Nat) (f : Fld) : (s.latch a f).extents = s.extents := rfl
@[simp] theorem State.latch_dmas (s : State) (a : Nat) (f : Fld) : (s.latch a f).dmas = s.dmas := rfl
@[simp] theorem State.latch_scrubPos (s : State) (a : Nat) (f : Fld) : (s.latch a f).scrubPos = s.scrubPos := rfl
@[simp] theorem State.latch_boot (s : State) (a : Nat) (f : Fld) : (s.latch a f).boot = s.boot := rfl

@[simp] theorem State.peak_pending (s : State) (a : Nat) (f : Fld) (v : Nat) : (s.peak a f v).pending = s.pending := rfl
@[simp] theorem State.peak_time (s : State) (a : Nat) (f : Fld) (v : Nat) : (s.peak a f v).time = s.time := rfl
@[simp] theorem State.peak_free (s : State) (a : Nat) (f : Fld) (v : Nat) : (s.peak a f v).free = s.free := rfl
@[simp] theorem State.peak_completion (s : State) (a : Nat) (f : Fld) (v : Nat) : (s.peak a f v).completion = s.completion := rfl
@[simp] theorem State.peak_liveWas (s : State) (a : Nat) (f : Fld) (v : Nat) : (s.peak a f v).liveWas = s.liveWas := rfl
@[simp] theorem State.peak_shutdown (s : State) (a : Nat) (f : Fld) (v : Nat) : (s.peak a f v).shutdown = s.shutdown := rfl
@[simp] theorem State.peak_leaseOk (s : State) (a : Nat) (f : Fld) (v : Nat) : (s.peak a f v).leaseOk = s.leaseOk := rfl
@[simp] theorem State.peak_shafts (s : State) (a : Nat) (f : Fld) (v : Nat) : (s.peak a f v).shafts = s.shafts := rfl
@[simp] theorem State.peak_ports (s : State) (a : Nat) (f : Fld) (v : Nat) : (s.peak a f v).ports = s.ports := rfl
@[simp] theorem State.peak_cells (s : State) (a : Nat) (f : Fld) (v : Nat) : (s.peak a f v).cells = s.cells := rfl
@[simp] theorem State.peak_events (s : State) (a : Nat) (f : Fld) (v : Nat) : (s.peak a f v).events = s.events := rfl
@[simp] theorem State.peak_almQueue (s : State) (a : Nat) (f : Fld) (v : Nat) : (s.peak a f v).almQueue = s.almQueue := rfl
@[simp] theorem State.peak_almWork (s : State) (a : Nat) (f : Fld) (v : Nat) : (s.peak a f v).almWork = s.almWork := rfl
@[simp] theorem State.peak_leadEl (s : State) (a : Nat) (f : Fld) (v : Nat) : (s.peak a f v).leadEl = s.leadEl := rfl
@[simp] theorem State.peak_leadPo (s : State) (a : Nat) (f : Fld) (v : Nat) : (s.peak a f v).leadPo = s.leadPo := rfl
@[simp] theorem State.peak_outs (s : State) (a : Nat) (f : Fld) (v : Nat) : (s.peak a f v).outs = s.outs := rfl
@[simp] theorem State.peak_lines (s : State) (a : Nat) (f : Fld) (v : Nat) : (s.peak a f v).lines = s.lines := rfl
@[simp] theorem State.peak_lineAt (s : State) (a : Nat) (f : Fld) (v : Nat) : (s.peak a f v).lineAt = s.lineAt := rfl
@[simp] theorem State.peak_actOld (s : State) (a : Nat) (f : Fld) (v : Nat) : (s.peak a f v).actOld = s.actOld := rfl
@[simp] theorem State.peak_chains (s : State) (a : Nat) (f : Fld) (v : Nat) : (s.peak a f v).chains = s.chains := rfl
@[simp] theorem State.peak_pwms (s : State) (a : Nat) (f : Fld) (v : Nat) : (s.peak a f v).pwms = s.pwms := rfl
@[simp] theorem State.peak_trips (s : State) (a : Nat) (f : Fld) (v : Nat) : (s.peak a f v).trips = s.trips := rfl
@[simp] theorem State.peak_adcs (s : State) (a : Nat) (f : Fld) (v : Nat) : (s.peak a f v).adcs = s.adcs := rfl
@[simp] theorem State.peak_ntf (s : State) (a : Nat) (f : Fld) (v : Nat) : (s.peak a f v).ntf = s.ntf := rfl
@[simp] theorem State.peak_ntfTgt (s : State) (a : Nat) (f : Fld) (v : Nat) : (s.peak a f v).ntfTgt = s.ntfTgt := rfl
@[simp] theorem State.peak_faults (s : State) (a : Nat) (f : Fld) (v : Nat) : (s.peak a f v).faults = s.faults := rfl
@[simp] theorem State.peak_staging (s : State) (a : Nat) (f : Fld) (v : Nat) : (s.peak a f v).staging = s.staging := rfl
@[simp] theorem State.peak_flash (s : State) (a : Nat) (f : Fld) (v : Nat) : (s.peak a f v).flash = s.flash := rfl
@[simp] theorem State.peak_flogSeq (s : State) (a : Nat) (f : Fld) (v : Nat) : (s.peak a f v).flogSeq = s.flogSeq := rfl
@[simp] theorem State.peak_logAt (s : State) (a : Nat) (f : Fld) (v : Nat) : (s.peak a f v).logAt = s.logAt := rfl
@[simp] theorem State.peak_selAt (s : State) (a : Nat) (f : Fld) (v : Nat) : (s.peak a f v).selAt = s.selAt := rfl
@[simp] theorem State.peak_safeAt (s : State) (a : Nat) (f : Fld) (v : Nat) : (s.peak a f v).safeAt = s.safeAt := rfl
@[simp] theorem State.peak_permitted (s : State) (a : Nat) (f : Fld) (v : Nat) : (s.peak a f v).permitted = s.permitted := rfl
@[simp] theorem State.peak_tallies (s : State) (a : Nat) (f : Fld) (v : Nat) : (s.peak a f v).tallies = s.tallies := rfl
@[simp] theorem State.peak_tallyMram (s : State) (a : Nat) (f : Fld) (v : Nat) : (s.peak a f v).tallyMram = s.tallyMram := rfl
@[simp] theorem State.peak_cal (s : State) (a : Nat) (f : Fld) (v : Nat) : (s.peak a f v).cal = s.cal := rfl
@[simp] theorem State.peak_calErr (s : State) (a : Nat) (f : Fld) (v : Nat) : (s.peak a f v).calErr = s.calErr := rfl
@[simp] theorem State.peak_calSet (s : State) (a : Nat) (f : Fld) (v : Nat) : (s.peak a f v).calSet = s.calSet := rfl
@[simp] theorem State.peak_leapNow (s : State) (a : Nat) (f : Fld) (v : Nat) : (s.peak a f v).leapNow = s.leapNow := rfl
@[simp] theorem State.peak_refLoaded (s : State) (a : Nat) (f : Fld) (v : Nat) : (s.peak a f v).refLoaded = s.refLoaded := rfl
@[simp] theorem State.peak_lastFlush (s : State) (a : Nat) (f : Fld) (v : Nat) : (s.peak a f v).lastFlush = s.lastFlush := rfl
@[simp] theorem State.peak_tmap (s : State) (a : Nat) (f : Fld) (v : Nat) : (s.peak a f v).tmap = s.tmap := rfl
@[simp] theorem State.peak_gaps (s : State) (a : Nat) (f : Fld) (v : Nat) : (s.peak a f v).gaps = s.gaps := rfl
@[simp] theorem State.peak_gapSeq (s : State) (a : Nat) (f : Fld) (v : Nat) : (s.peak a f v).gapSeq = s.gapSeq := rfl
@[simp] theorem State.peak_slots (s : State) (a : Nat) (f : Fld) (v : Nat) : (s.peak a f v).slots = s.slots := rfl
@[simp] theorem State.peak_sessions (s : State) (a : Nat) (f : Fld) (v : Nat) : (s.peak a f v).sessions = s.sessions := rfl
@[simp] theorem State.peak_flights (s : State) (a : Nat) (f : Fld) (v : Nat) : (s.peak a f v).flights = s.flights := rfl
@[simp] theorem State.peak_nextFlight (s : State) (a : Nat) (f : Fld) (v : Nat) : (s.peak a f v).nextFlight = s.nextFlight := rfl
@[simp] theorem State.peak_txns (s : State) (a : Nat) (f : Fld) (v : Nat) : (s.peak a f v).txns = s.txns := rfl
@[simp] theorem State.peak_nextTxn (s : State) (a : Nat) (f : Fld) (v : Nat) : (s.peak a f v).nextTxn = s.nextTxn := rfl
@[simp] theorem State.peak_txnEnded (s : State) (a : Nat) (f : Fld) (v : Nat) : (s.peak a f v).txnEnded = s.txnEnded := rfl
@[simp] theorem State.peak_levelTo (s : State) (a : Nat) (f : Fld) (v : Nat) : (s.peak a f v).levelTo = s.levelTo := rfl
@[simp] theorem State.peak_periodNo (s : State) (a : Nat) (f : Fld) (v : Nat) : (s.peak a f v).periodNo = s.periodNo := rfl
@[simp] theorem State.peak_boosts (s : State) (a : Nat) (f : Fld) (v : Nat) : (s.peak a f v).boosts = s.boosts := rfl
@[simp] theorem State.peak_cooled (s : State) (a : Nat) (f : Fld) (v : Nat) : (s.peak a f v).cooled = s.cooled := rfl
@[simp] theorem State.peak_wire (s : State) (a : Nat) (f : Fld) (v : Nat) : (s.peak a f v).wire = s.wire := rfl
@[simp] theorem State.peak_fab (s : State) (a : Nat) (f : Fld) (v : Nat) : (s.peak a f v).fab = s.fab := rfl
@[simp] theorem State.peak_twin (s : State) (a : Nat) (f : Fld) (v : Nat) : (s.peak a f v).twin = s.twin := rfl
@[simp] theorem State.peak_lockRec (s : State) (a : Nat) (f : Fld) (v : Nat) : (s.peak a f v).lockRec = s.lockRec := rfl
@[simp] theorem State.peak_power (s : State) (a : Nat) (f : Fld) (v : Nat) : (s.peak a f v).power = s.power := rfl
@[simp] theorem State.peak_holdB (s : State) (a : Nat) (f : Fld) (v : Nat) : (s.peak a f v).holdB = s.holdB := rfl
@[simp] theorem State.peak_holdC (s : State) (a : Nat) (f : Fld) (v : Nat) : (s.peak a f v).holdC = s.holdC := rfl
@[simp] theorem State.peak_threads (s : State) (a : Nat) (f : Fld) (v : Nat) : (s.peak a f v).threads = s.threads := rfl
@[simp] theorem State.peak_imem (s : State) (a : Nat) (f : Fld) (v : Nat) : (s.peak a f v).imem = s.imem := rfl
@[simp] theorem State.peak_dmem (s : State) (a : Nat) (f : Fld) (v : Nat) : (s.peak a f v).dmem = s.dmem := rfl
@[simp] theorem State.peak_dmemDirty (s : State) (a : Nat) (f : Fld) (v : Nat) : (s.peak a f v).dmemDirty = s.dmemDirty := rfl
@[simp] theorem State.peak_memErrs (s : State) (a : Nat) (f : Fld) (v : Nat) : (s.peak a f v).memErrs = s.memErrs := rfl
@[simp] theorem State.peak_bluCycles (s : State) (a : Nat) (f : Fld) (v : Nat) : (s.peak a f v).bluCycles = s.bluCycles := rfl
@[simp] theorem State.peak_bluSeq (s : State) (a : Nat) (f : Fld) (v : Nat) : (s.peak a f v).bluSeq = s.bluSeq := rfl
@[simp] theorem State.peak_poQueue (s : State) (a : Nat) (f : Fld) (v : Nat) : (s.peak a f v).poQueue = s.poQueue := rfl
@[simp] theorem State.peak_phiTrail (s : State) (a : Nat) (f : Fld) (v : Nat) : (s.peak a f v).phiTrail = s.phiTrail := rfl
@[simp] theorem State.peak_canary (s : State) (a : Nat) (f : Fld) (v : Nat) : (s.peak a f v).canary = s.canary := rfl
@[simp] theorem State.peak_aon (s : State) (a : Nat) (f : Fld) (v : Nat) : (s.peak a f v).aon = s.aon := rfl
@[simp] theorem State.peak_wakeAt (s : State) (a : Nat) (f : Fld) (v : Nat) : (s.peak a f v).wakeAt = s.wakeAt := rfl
@[simp] theorem State.peak_watchNext (s : State) (a : Nat) (f : Fld) (v : Nat) : (s.peak a f v).watchNext = s.watchNext := rfl
@[simp] theorem State.peak_saved (s : State) (a : Nat) (f : Fld) (v : Nat) : (s.peak a f v).saved = s.saved := rfl
@[simp] theorem State.peak_products (s : State) (a : Nat) (f : Fld) (v : Nat) : (s.peak a f v).products = s.products := rfl
@[simp] theorem State.peak_prodWas (s : State) (a : Nat) (f : Fld) (v : Nat) : (s.peak a f v).prodWas = s.prodWas := rfl
@[simp] theorem State.peak_arrivals (s : State) (a : Nat) (f : Fld) (v : Nat) : (s.peak a f v).arrivals = s.arrivals := rfl
@[simp] theorem State.peak_prodFresh (s : State) (a : Nat) (f : Fld) (v : Nat) : (s.peak a f v).prodFresh = s.prodFresh := rfl
@[simp] theorem State.peak_prodFree (s : State) (a : Nat) (f : Fld) (v : Nat) : (s.peak a f v).prodFree = s.prodFree := rfl
@[simp] theorem State.peak_pidSeq (s : State) (a : Nat) (f : Fld) (v : Nat) : (s.peak a f v).pidSeq = s.pidSeq := rfl
@[simp] theorem State.peak_ephLanes (s : State) (a : Nat) (f : Fld) (v : Nat) : (s.peak a f v).ephLanes = s.ephLanes := rfl
@[simp] theorem State.peak_stnTick (s : State) (a : Nat) (f : Fld) (v : Nat) : (s.peak a f v).stnTick = s.stnTick := rfl
@[simp] theorem State.peak_storeFullAt (s : State) (a : Nat) (f : Fld) (v : Nat) : (s.peak a f v).storeFullAt = s.storeFullAt := rfl
@[simp] theorem State.peak_handoffs (s : State) (a : Nat) (f : Fld) (v : Nat) : (s.peak a f v).handoffs = s.handoffs := rfl
@[simp] theorem State.peak_pidsSeen (s : State) (a : Nat) (f : Fld) (v : Nat) : (s.peak a f v).pidsSeen = s.pidsSeen := rfl
@[simp] theorem State.peak_jobs (s : State) (a : Nat) (f : Fld) (v : Nat) : (s.peak a f v).jobs = s.jobs := rfl
@[simp] theorem State.peak_nextJob (s : State) (a : Nat) (f : Fld) (v : Nat) : (s.peak a f v).nextJob = s.nextJob := rfl
@[simp] theorem State.peak_serialsIn (s : State) (a : Nat) (f : Fld) (v : Nat) : (s.peak a f v).serialsIn = s.serialsIn := rfl
@[simp] theorem State.peak_reservationAcks (s : State) (a : Nat) (f : Fld) (v : Nat) : (s.peak a f v).reservationAcks = s.reservationAcks := rfl
@[simp] theorem State.peak_gens (s : State) (a : Nat) (f : Fld) (v : Nat) : (s.peak a f v).gens = s.gens := rfl
@[simp] theorem State.peak_heldCal (s : State) (a : Nat) (f : Fld) (v : Nat) : (s.peak a f v).heldCal = s.heldCal := rfl
@[simp] theorem State.peak_noDateOn (s : State) (a : Nat) (f : Fld) (v : Nat) : (s.peak a f v).noDateOn = s.noDateOn := rfl
@[simp] theorem State.peak_raster (s : State) (a : Nat) (f : Fld) (v : Nat) : (s.peak a f v).raster = s.raster := rfl
@[simp] theorem State.peak_pool (s : State) (a : Nat) (f : Fld) (v : Nat) : (s.peak a f v).pool = s.pool := rfl
@[simp] theorem State.peak_poison (s : State) (a : Nat) (f : Fld) (v : Nat) : (s.peak a f v).poison = s.poison := rfl
@[simp] theorem State.peak_extents (s : State) (a : Nat) (f : Fld) (v : Nat) : (s.peak a f v).extents = s.extents := rfl
@[simp] theorem State.peak_dmas (s : State) (a : Nat) (f : Fld) (v : Nat) : (s.peak a f v).dmas = s.dmas := rfl
@[simp] theorem State.peak_scrubPos (s : State) (a : Nat) (f : Fld) (v : Nat) : (s.peak a f v).scrubPos = s.scrubPos := rfl
@[simp] theorem State.peak_boot (s : State) (a : Nat) (f : Fld) (v : Nat) : (s.peak a f v).boot = s.boot := rfl

@[simp] theorem State.setFresh_pending (s : State) (a : Nat) (x : Fresh) : (s.setFresh a x).pending = s.pending := rfl
@[simp] theorem State.setFresh_time (s : State) (a : Nat) (x : Fresh) : (s.setFresh a x).time = s.time := rfl
@[simp] theorem State.setFresh_regs (s : State) (a : Nat) (x : Fresh) : (s.setFresh a x).regs = s.regs := rfl
@[simp] theorem State.setFresh_free (s : State) (a : Nat) (x : Fresh) : (s.setFresh a x).free = s.free := rfl
@[simp] theorem State.setFresh_completion (s : State) (a : Nat) (x : Fresh) : (s.setFresh a x).completion = s.completion := rfl
@[simp] theorem State.setFresh_liveWas (s : State) (a : Nat) (x : Fresh) : (s.setFresh a x).liveWas = s.liveWas := rfl
@[simp] theorem State.setFresh_shutdown (s : State) (a : Nat) (x : Fresh) : (s.setFresh a x).shutdown = s.shutdown := rfl
@[simp] theorem State.setFresh_leaseOk (s : State) (a : Nat) (x : Fresh) : (s.setFresh a x).leaseOk = s.leaseOk := rfl
@[simp] theorem State.setFresh_shafts (s : State) (a : Nat) (x : Fresh) : (s.setFresh a x).shafts = s.shafts := rfl
@[simp] theorem State.setFresh_ports (s : State) (a : Nat) (x : Fresh) : (s.setFresh a x).ports = s.ports := rfl
@[simp] theorem State.setFresh_cells (s : State) (a : Nat) (x : Fresh) : (s.setFresh a x).cells = s.cells := rfl
@[simp] theorem State.setFresh_events (s : State) (a : Nat) (x : Fresh) : (s.setFresh a x).events = s.events := rfl
@[simp] theorem State.setFresh_almQueue (s : State) (a : Nat) (x : Fresh) : (s.setFresh a x).almQueue = s.almQueue := rfl
@[simp] theorem State.setFresh_almWork (s : State) (a : Nat) (x : Fresh) : (s.setFresh a x).almWork = s.almWork := rfl
@[simp] theorem State.setFresh_leadEl (s : State) (a : Nat) (x : Fresh) : (s.setFresh a x).leadEl = s.leadEl := rfl
@[simp] theorem State.setFresh_leadPo (s : State) (a : Nat) (x : Fresh) : (s.setFresh a x).leadPo = s.leadPo := rfl
@[simp] theorem State.setFresh_outs (s : State) (a : Nat) (x : Fresh) : (s.setFresh a x).outs = s.outs := rfl
@[simp] theorem State.setFresh_lines (s : State) (a : Nat) (x : Fresh) : (s.setFresh a x).lines = s.lines := rfl
@[simp] theorem State.setFresh_lineAt (s : State) (a : Nat) (x : Fresh) : (s.setFresh a x).lineAt = s.lineAt := rfl
@[simp] theorem State.setFresh_actOld (s : State) (a : Nat) (x : Fresh) : (s.setFresh a x).actOld = s.actOld := rfl
@[simp] theorem State.setFresh_chains (s : State) (a : Nat) (x : Fresh) : (s.setFresh a x).chains = s.chains := rfl
@[simp] theorem State.setFresh_pwms (s : State) (a : Nat) (x : Fresh) : (s.setFresh a x).pwms = s.pwms := rfl
@[simp] theorem State.setFresh_trips (s : State) (a : Nat) (x : Fresh) : (s.setFresh a x).trips = s.trips := rfl
@[simp] theorem State.setFresh_adcs (s : State) (a : Nat) (x : Fresh) : (s.setFresh a x).adcs = s.adcs := rfl
@[simp] theorem State.setFresh_ntf (s : State) (a : Nat) (x : Fresh) : (s.setFresh a x).ntf = s.ntf := rfl
@[simp] theorem State.setFresh_ntfTgt (s : State) (a : Nat) (x : Fresh) : (s.setFresh a x).ntfTgt = s.ntfTgt := rfl
@[simp] theorem State.setFresh_faults (s : State) (a : Nat) (x : Fresh) : (s.setFresh a x).faults = s.faults := rfl
@[simp] theorem State.setFresh_staging (s : State) (a : Nat) (x : Fresh) : (s.setFresh a x).staging = s.staging := rfl
@[simp] theorem State.setFresh_flash (s : State) (a : Nat) (x : Fresh) : (s.setFresh a x).flash = s.flash := rfl
@[simp] theorem State.setFresh_flogSeq (s : State) (a : Nat) (x : Fresh) : (s.setFresh a x).flogSeq = s.flogSeq := rfl
@[simp] theorem State.setFresh_logAt (s : State) (a : Nat) (x : Fresh) : (s.setFresh a x).logAt = s.logAt := rfl
@[simp] theorem State.setFresh_selAt (s : State) (a : Nat) (x : Fresh) : (s.setFresh a x).selAt = s.selAt := rfl
@[simp] theorem State.setFresh_safeAt (s : State) (a : Nat) (x : Fresh) : (s.setFresh a x).safeAt = s.safeAt := rfl
@[simp] theorem State.setFresh_permitted (s : State) (a : Nat) (x : Fresh) : (s.setFresh a x).permitted = s.permitted := rfl
@[simp] theorem State.setFresh_tallies (s : State) (a : Nat) (x : Fresh) : (s.setFresh a x).tallies = s.tallies := rfl
@[simp] theorem State.setFresh_tallyMram (s : State) (a : Nat) (x : Fresh) : (s.setFresh a x).tallyMram = s.tallyMram := rfl
@[simp] theorem State.setFresh_cal (s : State) (a : Nat) (x : Fresh) : (s.setFresh a x).cal = s.cal := rfl
@[simp] theorem State.setFresh_calErr (s : State) (a : Nat) (x : Fresh) : (s.setFresh a x).calErr = s.calErr := rfl
@[simp] theorem State.setFresh_calSet (s : State) (a : Nat) (x : Fresh) : (s.setFresh a x).calSet = s.calSet := rfl
@[simp] theorem State.setFresh_leapNow (s : State) (a : Nat) (x : Fresh) : (s.setFresh a x).leapNow = s.leapNow := rfl
@[simp] theorem State.setFresh_refLoaded (s : State) (a : Nat) (x : Fresh) : (s.setFresh a x).refLoaded = s.refLoaded := rfl
@[simp] theorem State.setFresh_lastFlush (s : State) (a : Nat) (x : Fresh) : (s.setFresh a x).lastFlush = s.lastFlush := rfl
@[simp] theorem State.setFresh_tmap (s : State) (a : Nat) (x : Fresh) : (s.setFresh a x).tmap = s.tmap := rfl
@[simp] theorem State.setFresh_gaps (s : State) (a : Nat) (x : Fresh) : (s.setFresh a x).gaps = s.gaps := rfl
@[simp] theorem State.setFresh_gapSeq (s : State) (a : Nat) (x : Fresh) : (s.setFresh a x).gapSeq = s.gapSeq := rfl
@[simp] theorem State.setFresh_slots (s : State) (a : Nat) (x : Fresh) : (s.setFresh a x).slots = s.slots := rfl
@[simp] theorem State.setFresh_sessions (s : State) (a : Nat) (x : Fresh) : (s.setFresh a x).sessions = s.sessions := rfl
@[simp] theorem State.setFresh_flights (s : State) (a : Nat) (x : Fresh) : (s.setFresh a x).flights = s.flights := rfl
@[simp] theorem State.setFresh_nextFlight (s : State) (a : Nat) (x : Fresh) : (s.setFresh a x).nextFlight = s.nextFlight := rfl
@[simp] theorem State.setFresh_txns (s : State) (a : Nat) (x : Fresh) : (s.setFresh a x).txns = s.txns := rfl
@[simp] theorem State.setFresh_nextTxn (s : State) (a : Nat) (x : Fresh) : (s.setFresh a x).nextTxn = s.nextTxn := rfl
@[simp] theorem State.setFresh_txnEnded (s : State) (a : Nat) (x : Fresh) : (s.setFresh a x).txnEnded = s.txnEnded := rfl
@[simp] theorem State.setFresh_levelTo (s : State) (a : Nat) (x : Fresh) : (s.setFresh a x).levelTo = s.levelTo := rfl
@[simp] theorem State.setFresh_periodNo (s : State) (a : Nat) (x : Fresh) : (s.setFresh a x).periodNo = s.periodNo := rfl
@[simp] theorem State.setFresh_boosts (s : State) (a : Nat) (x : Fresh) : (s.setFresh a x).boosts = s.boosts := rfl
@[simp] theorem State.setFresh_cooled (s : State) (a : Nat) (x : Fresh) : (s.setFresh a x).cooled = s.cooled := rfl
@[simp] theorem State.setFresh_wire (s : State) (a : Nat) (x : Fresh) : (s.setFresh a x).wire = s.wire := rfl
@[simp] theorem State.setFresh_fab (s : State) (a : Nat) (x : Fresh) : (s.setFresh a x).fab = s.fab := rfl
@[simp] theorem State.setFresh_twin (s : State) (a : Nat) (x : Fresh) : (s.setFresh a x).twin = s.twin := rfl
@[simp] theorem State.setFresh_lockRec (s : State) (a : Nat) (x : Fresh) : (s.setFresh a x).lockRec = s.lockRec := rfl
@[simp] theorem State.setFresh_power (s : State) (a : Nat) (x : Fresh) : (s.setFresh a x).power = s.power := rfl
@[simp] theorem State.setFresh_holdB (s : State) (a : Nat) (x : Fresh) : (s.setFresh a x).holdB = s.holdB := rfl
@[simp] theorem State.setFresh_holdC (s : State) (a : Nat) (x : Fresh) : (s.setFresh a x).holdC = s.holdC := rfl
@[simp] theorem State.setFresh_threads (s : State) (a : Nat) (x : Fresh) : (s.setFresh a x).threads = s.threads := rfl
@[simp] theorem State.setFresh_imem (s : State) (a : Nat) (x : Fresh) : (s.setFresh a x).imem = s.imem := rfl
@[simp] theorem State.setFresh_dmem (s : State) (a : Nat) (x : Fresh) : (s.setFresh a x).dmem = s.dmem := rfl
@[simp] theorem State.setFresh_dmemDirty (s : State) (a : Nat) (x : Fresh) : (s.setFresh a x).dmemDirty = s.dmemDirty := rfl
@[simp] theorem State.setFresh_memErrs (s : State) (a : Nat) (x : Fresh) : (s.setFresh a x).memErrs = s.memErrs := rfl
@[simp] theorem State.setFresh_bluCycles (s : State) (a : Nat) (x : Fresh) : (s.setFresh a x).bluCycles = s.bluCycles := rfl
@[simp] theorem State.setFresh_bluSeq (s : State) (a : Nat) (x : Fresh) : (s.setFresh a x).bluSeq = s.bluSeq := rfl
@[simp] theorem State.setFresh_poQueue (s : State) (a : Nat) (x : Fresh) : (s.setFresh a x).poQueue = s.poQueue := rfl
@[simp] theorem State.setFresh_phiTrail (s : State) (a : Nat) (x : Fresh) : (s.setFresh a x).phiTrail = s.phiTrail := rfl
@[simp] theorem State.setFresh_canary (s : State) (a : Nat) (x : Fresh) : (s.setFresh a x).canary = s.canary := rfl
@[simp] theorem State.setFresh_aon (s : State) (a : Nat) (x : Fresh) : (s.setFresh a x).aon = s.aon := rfl
@[simp] theorem State.setFresh_wakeAt (s : State) (a : Nat) (x : Fresh) : (s.setFresh a x).wakeAt = s.wakeAt := rfl
@[simp] theorem State.setFresh_watchNext (s : State) (a : Nat) (x : Fresh) : (s.setFresh a x).watchNext = s.watchNext := rfl
@[simp] theorem State.setFresh_saved (s : State) (a : Nat) (x : Fresh) : (s.setFresh a x).saved = s.saved := rfl
@[simp] theorem State.setFresh_products (s : State) (a : Nat) (x : Fresh) : (s.setFresh a x).products = s.products := rfl
@[simp] theorem State.setFresh_prodWas (s : State) (a : Nat) (x : Fresh) : (s.setFresh a x).prodWas = s.prodWas := rfl
@[simp] theorem State.setFresh_arrivals (s : State) (a : Nat) (x : Fresh) : (s.setFresh a x).arrivals = s.arrivals := rfl
@[simp] theorem State.setFresh_prodFresh (s : State) (a : Nat) (x : Fresh) : (s.setFresh a x).prodFresh = s.prodFresh := rfl
@[simp] theorem State.setFresh_prodFree (s : State) (a : Nat) (x : Fresh) : (s.setFresh a x).prodFree = s.prodFree := rfl
@[simp] theorem State.setFresh_pidSeq (s : State) (a : Nat) (x : Fresh) : (s.setFresh a x).pidSeq = s.pidSeq := rfl
@[simp] theorem State.setFresh_ephLanes (s : State) (a : Nat) (x : Fresh) : (s.setFresh a x).ephLanes = s.ephLanes := rfl
@[simp] theorem State.setFresh_stnTick (s : State) (a : Nat) (x : Fresh) : (s.setFresh a x).stnTick = s.stnTick := rfl
@[simp] theorem State.setFresh_storeFullAt (s : State) (a : Nat) (x : Fresh) : (s.setFresh a x).storeFullAt = s.storeFullAt := rfl
@[simp] theorem State.setFresh_handoffs (s : State) (a : Nat) (x : Fresh) : (s.setFresh a x).handoffs = s.handoffs := rfl
@[simp] theorem State.setFresh_pidsSeen (s : State) (a : Nat) (x : Fresh) : (s.setFresh a x).pidsSeen = s.pidsSeen := rfl
@[simp] theorem State.setFresh_jobs (s : State) (a : Nat) (x : Fresh) : (s.setFresh a x).jobs = s.jobs := rfl
@[simp] theorem State.setFresh_nextJob (s : State) (a : Nat) (x : Fresh) : (s.setFresh a x).nextJob = s.nextJob := rfl
@[simp] theorem State.setFresh_serialsIn (s : State) (a : Nat) (x : Fresh) : (s.setFresh a x).serialsIn = s.serialsIn := rfl
@[simp] theorem State.setFresh_reservationAcks (s : State) (a : Nat) (x : Fresh) : (s.setFresh a x).reservationAcks = s.reservationAcks := rfl
@[simp] theorem State.setFresh_gens (s : State) (a : Nat) (x : Fresh) : (s.setFresh a x).gens = s.gens := rfl
@[simp] theorem State.setFresh_heldCal (s : State) (a : Nat) (x : Fresh) : (s.setFresh a x).heldCal = s.heldCal := rfl
@[simp] theorem State.setFresh_noDateOn (s : State) (a : Nat) (x : Fresh) : (s.setFresh a x).noDateOn = s.noDateOn := rfl
@[simp] theorem State.setFresh_raster (s : State) (a : Nat) (x : Fresh) : (s.setFresh a x).raster = s.raster := rfl
@[simp] theorem State.setFresh_pool (s : State) (a : Nat) (x : Fresh) : (s.setFresh a x).pool = s.pool := rfl
@[simp] theorem State.setFresh_poison (s : State) (a : Nat) (x : Fresh) : (s.setFresh a x).poison = s.poison := rfl
@[simp] theorem State.setFresh_extents (s : State) (a : Nat) (x : Fresh) : (s.setFresh a x).extents = s.extents := rfl
@[simp] theorem State.setFresh_dmas (s : State) (a : Nat) (x : Fresh) : (s.setFresh a x).dmas = s.dmas := rfl
@[simp] theorem State.setFresh_scrubPos (s : State) (a : Nat) (x : Fresh) : (s.setFresh a x).scrubPos = s.scrubPos := rfl
@[simp] theorem State.setFresh_boot (s : State) (a : Nat) (x : Fresh) : (s.setFresh a x).boot = s.boot := rfl

@[simp] theorem State.setRg64_pending (s : State) (a n : Nat) : (s.setRg64 a n).pending = s.pending := rfl
@[simp] theorem State.setRg64_time (s : State) (a n : Nat) : (s.setRg64 a n).time = s.time := rfl
@[simp] theorem State.setRg64_free (s : State) (a n : Nat) : (s.setRg64 a n).free = s.free := rfl
@[simp] theorem State.setRg64_completion (s : State) (a n : Nat) : (s.setRg64 a n).completion = s.completion := rfl
@[simp] theorem State.setRg64_liveWas (s : State) (a n : Nat) : (s.setRg64 a n).liveWas = s.liveWas := rfl
@[simp] theorem State.setRg64_shutdown (s : State) (a n : Nat) : (s.setRg64 a n).shutdown = s.shutdown := rfl
@[simp] theorem State.setRg64_leaseOk (s : State) (a n : Nat) : (s.setRg64 a n).leaseOk = s.leaseOk := rfl
@[simp] theorem State.setRg64_shafts (s : State) (a n : Nat) : (s.setRg64 a n).shafts = s.shafts := rfl
@[simp] theorem State.setRg64_ports (s : State) (a n : Nat) : (s.setRg64 a n).ports = s.ports := rfl
@[simp] theorem State.setRg64_cells (s : State) (a n : Nat) : (s.setRg64 a n).cells = s.cells := rfl
@[simp] theorem State.setRg64_events (s : State) (a n : Nat) : (s.setRg64 a n).events = s.events := rfl
@[simp] theorem State.setRg64_almQueue (s : State) (a n : Nat) : (s.setRg64 a n).almQueue = s.almQueue := rfl
@[simp] theorem State.setRg64_almWork (s : State) (a n : Nat) : (s.setRg64 a n).almWork = s.almWork := rfl
@[simp] theorem State.setRg64_leadEl (s : State) (a n : Nat) : (s.setRg64 a n).leadEl = s.leadEl := rfl
@[simp] theorem State.setRg64_leadPo (s : State) (a n : Nat) : (s.setRg64 a n).leadPo = s.leadPo := rfl
@[simp] theorem State.setRg64_outs (s : State) (a n : Nat) : (s.setRg64 a n).outs = s.outs := rfl
@[simp] theorem State.setRg64_lines (s : State) (a n : Nat) : (s.setRg64 a n).lines = s.lines := rfl
@[simp] theorem State.setRg64_lineAt (s : State) (a n : Nat) : (s.setRg64 a n).lineAt = s.lineAt := rfl
@[simp] theorem State.setRg64_actOld (s : State) (a n : Nat) : (s.setRg64 a n).actOld = s.actOld := rfl
@[simp] theorem State.setRg64_chains (s : State) (a n : Nat) : (s.setRg64 a n).chains = s.chains := rfl
@[simp] theorem State.setRg64_pwms (s : State) (a n : Nat) : (s.setRg64 a n).pwms = s.pwms := rfl
@[simp] theorem State.setRg64_trips (s : State) (a n : Nat) : (s.setRg64 a n).trips = s.trips := rfl
@[simp] theorem State.setRg64_adcs (s : State) (a n : Nat) : (s.setRg64 a n).adcs = s.adcs := rfl
@[simp] theorem State.setRg64_fresh (s : State) (a n : Nat) : (s.setRg64 a n).fresh = s.fresh := rfl
@[simp] theorem State.setRg64_ntf (s : State) (a n : Nat) : (s.setRg64 a n).ntf = s.ntf := rfl
@[simp] theorem State.setRg64_ntfTgt (s : State) (a n : Nat) : (s.setRg64 a n).ntfTgt = s.ntfTgt := rfl
@[simp] theorem State.setRg64_faults (s : State) (a n : Nat) : (s.setRg64 a n).faults = s.faults := rfl
@[simp] theorem State.setRg64_staging (s : State) (a n : Nat) : (s.setRg64 a n).staging = s.staging := rfl
@[simp] theorem State.setRg64_flash (s : State) (a n : Nat) : (s.setRg64 a n).flash = s.flash := rfl
@[simp] theorem State.setRg64_flogSeq (s : State) (a n : Nat) : (s.setRg64 a n).flogSeq = s.flogSeq := rfl
@[simp] theorem State.setRg64_logAt (s : State) (a n : Nat) : (s.setRg64 a n).logAt = s.logAt := rfl
@[simp] theorem State.setRg64_selAt (s : State) (a n : Nat) : (s.setRg64 a n).selAt = s.selAt := rfl
@[simp] theorem State.setRg64_safeAt (s : State) (a n : Nat) : (s.setRg64 a n).safeAt = s.safeAt := rfl
@[simp] theorem State.setRg64_permitted (s : State) (a n : Nat) : (s.setRg64 a n).permitted = s.permitted := rfl
@[simp] theorem State.setRg64_tallies (s : State) (a n : Nat) : (s.setRg64 a n).tallies = s.tallies := rfl
@[simp] theorem State.setRg64_tallyMram (s : State) (a n : Nat) : (s.setRg64 a n).tallyMram = s.tallyMram := rfl
@[simp] theorem State.setRg64_cal (s : State) (a n : Nat) : (s.setRg64 a n).cal = s.cal := rfl
@[simp] theorem State.setRg64_calErr (s : State) (a n : Nat) : (s.setRg64 a n).calErr = s.calErr := rfl
@[simp] theorem State.setRg64_calSet (s : State) (a n : Nat) : (s.setRg64 a n).calSet = s.calSet := rfl
@[simp] theorem State.setRg64_leapNow (s : State) (a n : Nat) : (s.setRg64 a n).leapNow = s.leapNow := rfl
@[simp] theorem State.setRg64_refLoaded (s : State) (a n : Nat) : (s.setRg64 a n).refLoaded = s.refLoaded := rfl
@[simp] theorem State.setRg64_lastFlush (s : State) (a n : Nat) : (s.setRg64 a n).lastFlush = s.lastFlush := rfl
@[simp] theorem State.setRg64_tmap (s : State) (a n : Nat) : (s.setRg64 a n).tmap = s.tmap := rfl
@[simp] theorem State.setRg64_gaps (s : State) (a n : Nat) : (s.setRg64 a n).gaps = s.gaps := rfl
@[simp] theorem State.setRg64_gapSeq (s : State) (a n : Nat) : (s.setRg64 a n).gapSeq = s.gapSeq := rfl
@[simp] theorem State.setRg64_slots (s : State) (a n : Nat) : (s.setRg64 a n).slots = s.slots := rfl
@[simp] theorem State.setRg64_sessions (s : State) (a n : Nat) : (s.setRg64 a n).sessions = s.sessions := rfl
@[simp] theorem State.setRg64_flights (s : State) (a n : Nat) : (s.setRg64 a n).flights = s.flights := rfl
@[simp] theorem State.setRg64_nextFlight (s : State) (a n : Nat) : (s.setRg64 a n).nextFlight = s.nextFlight := rfl
@[simp] theorem State.setRg64_txns (s : State) (a n : Nat) : (s.setRg64 a n).txns = s.txns := rfl
@[simp] theorem State.setRg64_nextTxn (s : State) (a n : Nat) : (s.setRg64 a n).nextTxn = s.nextTxn := rfl
@[simp] theorem State.setRg64_txnEnded (s : State) (a n : Nat) : (s.setRg64 a n).txnEnded = s.txnEnded := rfl
@[simp] theorem State.setRg64_levelTo (s : State) (a n : Nat) : (s.setRg64 a n).levelTo = s.levelTo := rfl
@[simp] theorem State.setRg64_periodNo (s : State) (a n : Nat) : (s.setRg64 a n).periodNo = s.periodNo := rfl
@[simp] theorem State.setRg64_boosts (s : State) (a n : Nat) : (s.setRg64 a n).boosts = s.boosts := rfl
@[simp] theorem State.setRg64_cooled (s : State) (a n : Nat) : (s.setRg64 a n).cooled = s.cooled := rfl
@[simp] theorem State.setRg64_wire (s : State) (a n : Nat) : (s.setRg64 a n).wire = s.wire := rfl
@[simp] theorem State.setRg64_fab (s : State) (a n : Nat) : (s.setRg64 a n).fab = s.fab := rfl
@[simp] theorem State.setRg64_twin (s : State) (a n : Nat) : (s.setRg64 a n).twin = s.twin := rfl
@[simp] theorem State.setRg64_lockRec (s : State) (a n : Nat) : (s.setRg64 a n).lockRec = s.lockRec := rfl
@[simp] theorem State.setRg64_power (s : State) (a n : Nat) : (s.setRg64 a n).power = s.power := rfl
@[simp] theorem State.setRg64_holdB (s : State) (a n : Nat) : (s.setRg64 a n).holdB = s.holdB := rfl
@[simp] theorem State.setRg64_holdC (s : State) (a n : Nat) : (s.setRg64 a n).holdC = s.holdC := rfl
@[simp] theorem State.setRg64_threads (s : State) (a n : Nat) : (s.setRg64 a n).threads = s.threads := rfl
@[simp] theorem State.setRg64_imem (s : State) (a n : Nat) : (s.setRg64 a n).imem = s.imem := rfl
@[simp] theorem State.setRg64_dmem (s : State) (a n : Nat) : (s.setRg64 a n).dmem = s.dmem := rfl
@[simp] theorem State.setRg64_dmemDirty (s : State) (a n : Nat) : (s.setRg64 a n).dmemDirty = s.dmemDirty := rfl
@[simp] theorem State.setRg64_memErrs (s : State) (a n : Nat) : (s.setRg64 a n).memErrs = s.memErrs := rfl
@[simp] theorem State.setRg64_bluCycles (s : State) (a n : Nat) : (s.setRg64 a n).bluCycles = s.bluCycles := rfl
@[simp] theorem State.setRg64_bluSeq (s : State) (a n : Nat) : (s.setRg64 a n).bluSeq = s.bluSeq := rfl
@[simp] theorem State.setRg64_poQueue (s : State) (a n : Nat) : (s.setRg64 a n).poQueue = s.poQueue := rfl
@[simp] theorem State.setRg64_phiTrail (s : State) (a n : Nat) : (s.setRg64 a n).phiTrail = s.phiTrail := rfl
@[simp] theorem State.setRg64_canary (s : State) (a n : Nat) : (s.setRg64 a n).canary = s.canary := rfl
@[simp] theorem State.setRg64_aon (s : State) (a n : Nat) : (s.setRg64 a n).aon = s.aon := rfl
@[simp] theorem State.setRg64_wakeAt (s : State) (a n : Nat) : (s.setRg64 a n).wakeAt = s.wakeAt := rfl
@[simp] theorem State.setRg64_watchNext (s : State) (a n : Nat) : (s.setRg64 a n).watchNext = s.watchNext := rfl
@[simp] theorem State.setRg64_saved (s : State) (a n : Nat) : (s.setRg64 a n).saved = s.saved := rfl
@[simp] theorem State.setRg64_products (s : State) (a n : Nat) : (s.setRg64 a n).products = s.products := rfl
@[simp] theorem State.setRg64_prodWas (s : State) (a n : Nat) : (s.setRg64 a n).prodWas = s.prodWas := rfl
@[simp] theorem State.setRg64_arrivals (s : State) (a n : Nat) : (s.setRg64 a n).arrivals = s.arrivals := rfl
@[simp] theorem State.setRg64_prodFresh (s : State) (a n : Nat) : (s.setRg64 a n).prodFresh = s.prodFresh := rfl
@[simp] theorem State.setRg64_prodFree (s : State) (a n : Nat) : (s.setRg64 a n).prodFree = s.prodFree := rfl
@[simp] theorem State.setRg64_pidSeq (s : State) (a n : Nat) : (s.setRg64 a n).pidSeq = s.pidSeq := rfl
@[simp] theorem State.setRg64_ephLanes (s : State) (a n : Nat) : (s.setRg64 a n).ephLanes = s.ephLanes := rfl
@[simp] theorem State.setRg64_stnTick (s : State) (a n : Nat) : (s.setRg64 a n).stnTick = s.stnTick := rfl
@[simp] theorem State.setRg64_storeFullAt (s : State) (a n : Nat) : (s.setRg64 a n).storeFullAt = s.storeFullAt := rfl
@[simp] theorem State.setRg64_handoffs (s : State) (a n : Nat) : (s.setRg64 a n).handoffs = s.handoffs := rfl
@[simp] theorem State.setRg64_pidsSeen (s : State) (a n : Nat) : (s.setRg64 a n).pidsSeen = s.pidsSeen := rfl
@[simp] theorem State.setRg64_jobs (s : State) (a n : Nat) : (s.setRg64 a n).jobs = s.jobs := rfl
@[simp] theorem State.setRg64_nextJob (s : State) (a n : Nat) : (s.setRg64 a n).nextJob = s.nextJob := rfl
@[simp] theorem State.setRg64_serialsIn (s : State) (a n : Nat) : (s.setRg64 a n).serialsIn = s.serialsIn := rfl
@[simp] theorem State.setRg64_reservationAcks (s : State) (a n : Nat) : (s.setRg64 a n).reservationAcks = s.reservationAcks := rfl
@[simp] theorem State.setRg64_gens (s : State) (a n : Nat) : (s.setRg64 a n).gens = s.gens := rfl
@[simp] theorem State.setRg64_heldCal (s : State) (a n : Nat) : (s.setRg64 a n).heldCal = s.heldCal := rfl
@[simp] theorem State.setRg64_noDateOn (s : State) (a n : Nat) : (s.setRg64 a n).noDateOn = s.noDateOn := rfl
@[simp] theorem State.setRg64_raster (s : State) (a n : Nat) : (s.setRg64 a n).raster = s.raster := rfl
@[simp] theorem State.setRg64_pool (s : State) (a n : Nat) : (s.setRg64 a n).pool = s.pool := rfl
@[simp] theorem State.setRg64_poison (s : State) (a n : Nat) : (s.setRg64 a n).poison = s.poison := rfl
@[simp] theorem State.setRg64_extents (s : State) (a n : Nat) : (s.setRg64 a n).extents = s.extents := rfl
@[simp] theorem State.setRg64_dmas (s : State) (a n : Nat) : (s.setRg64 a n).dmas = s.dmas := rfl
@[simp] theorem State.setRg64_scrubPos (s : State) (a n : Nat) : (s.setRg64 a n).scrubPos = s.scrubPos := rfl
@[simp] theorem State.setRg64_boot (s : State) (a n : Nat) : (s.setRg64 a n).boot = s.boot := rfl

@[simp] theorem State.raise_pending (s : State) (i v : Nat) : (s.raise i v).pending = s.pending := rfl
@[simp] theorem State.raise_time (s : State) (i v : Nat) : (s.raise i v).time = s.time := rfl
@[simp] theorem State.raise_regs (s : State) (i v : Nat) : (s.raise i v).regs = s.regs := rfl
@[simp] theorem State.raise_free (s : State) (i v : Nat) : (s.raise i v).free = s.free := rfl
@[simp] theorem State.raise_completion (s : State) (i v : Nat) : (s.raise i v).completion = s.completion := rfl
@[simp] theorem State.raise_liveWas (s : State) (i v : Nat) : (s.raise i v).liveWas = s.liveWas := rfl
@[simp] theorem State.raise_shutdown (s : State) (i v : Nat) : (s.raise i v).shutdown = s.shutdown := rfl
@[simp] theorem State.raise_leaseOk (s : State) (i v : Nat) : (s.raise i v).leaseOk = s.leaseOk := rfl
@[simp] theorem State.raise_shafts (s : State) (i v : Nat) : (s.raise i v).shafts = s.shafts := rfl
@[simp] theorem State.raise_ports (s : State) (i v : Nat) : (s.raise i v).ports = s.ports := rfl
@[simp] theorem State.raise_cells (s : State) (i v : Nat) : (s.raise i v).cells = s.cells := rfl
@[simp] theorem State.raise_events (s : State) (i v : Nat) : (s.raise i v).events = s.events := rfl
@[simp] theorem State.raise_almQueue (s : State) (i v : Nat) : (s.raise i v).almQueue = s.almQueue := rfl
@[simp] theorem State.raise_almWork (s : State) (i v : Nat) : (s.raise i v).almWork = s.almWork := rfl
@[simp] theorem State.raise_leadEl (s : State) (i v : Nat) : (s.raise i v).leadEl = s.leadEl := rfl
@[simp] theorem State.raise_leadPo (s : State) (i v : Nat) : (s.raise i v).leadPo = s.leadPo := rfl
@[simp] theorem State.raise_outs (s : State) (i v : Nat) : (s.raise i v).outs = s.outs := rfl
@[simp] theorem State.raise_lines (s : State) (i v : Nat) : (s.raise i v).lines = s.lines := rfl
@[simp] theorem State.raise_lineAt (s : State) (i v : Nat) : (s.raise i v).lineAt = s.lineAt := rfl
@[simp] theorem State.raise_actOld (s : State) (i v : Nat) : (s.raise i v).actOld = s.actOld := rfl
@[simp] theorem State.raise_chains (s : State) (i v : Nat) : (s.raise i v).chains = s.chains := rfl
@[simp] theorem State.raise_pwms (s : State) (i v : Nat) : (s.raise i v).pwms = s.pwms := rfl
@[simp] theorem State.raise_trips (s : State) (i v : Nat) : (s.raise i v).trips = s.trips := rfl
@[simp] theorem State.raise_adcs (s : State) (i v : Nat) : (s.raise i v).adcs = s.adcs := rfl
@[simp] theorem State.raise_fresh (s : State) (i v : Nat) : (s.raise i v).fresh = s.fresh := rfl
@[simp] theorem State.raise_ntfTgt (s : State) (i v : Nat) : (s.raise i v).ntfTgt = s.ntfTgt := rfl
@[simp] theorem State.raise_faults (s : State) (i v : Nat) : (s.raise i v).faults = s.faults := rfl
@[simp] theorem State.raise_staging (s : State) (i v : Nat) : (s.raise i v).staging = s.staging := rfl
@[simp] theorem State.raise_flash (s : State) (i v : Nat) : (s.raise i v).flash = s.flash := rfl
@[simp] theorem State.raise_flogSeq (s : State) (i v : Nat) : (s.raise i v).flogSeq = s.flogSeq := rfl
@[simp] theorem State.raise_logAt (s : State) (i v : Nat) : (s.raise i v).logAt = s.logAt := rfl
@[simp] theorem State.raise_selAt (s : State) (i v : Nat) : (s.raise i v).selAt = s.selAt := rfl
@[simp] theorem State.raise_safeAt (s : State) (i v : Nat) : (s.raise i v).safeAt = s.safeAt := rfl
@[simp] theorem State.raise_permitted (s : State) (i v : Nat) : (s.raise i v).permitted = s.permitted := rfl
@[simp] theorem State.raise_tallies (s : State) (i v : Nat) : (s.raise i v).tallies = s.tallies := rfl
@[simp] theorem State.raise_tallyMram (s : State) (i v : Nat) : (s.raise i v).tallyMram = s.tallyMram := rfl
@[simp] theorem State.raise_cal (s : State) (i v : Nat) : (s.raise i v).cal = s.cal := rfl
@[simp] theorem State.raise_calErr (s : State) (i v : Nat) : (s.raise i v).calErr = s.calErr := rfl
@[simp] theorem State.raise_calSet (s : State) (i v : Nat) : (s.raise i v).calSet = s.calSet := rfl
@[simp] theorem State.raise_leapNow (s : State) (i v : Nat) : (s.raise i v).leapNow = s.leapNow := rfl
@[simp] theorem State.raise_refLoaded (s : State) (i v : Nat) : (s.raise i v).refLoaded = s.refLoaded := rfl
@[simp] theorem State.raise_lastFlush (s : State) (i v : Nat) : (s.raise i v).lastFlush = s.lastFlush := rfl
@[simp] theorem State.raise_tmap (s : State) (i v : Nat) : (s.raise i v).tmap = s.tmap := rfl
@[simp] theorem State.raise_gaps (s : State) (i v : Nat) : (s.raise i v).gaps = s.gaps := rfl
@[simp] theorem State.raise_gapSeq (s : State) (i v : Nat) : (s.raise i v).gapSeq = s.gapSeq := rfl
@[simp] theorem State.raise_slots (s : State) (i v : Nat) : (s.raise i v).slots = s.slots := rfl
@[simp] theorem State.raise_sessions (s : State) (i v : Nat) : (s.raise i v).sessions = s.sessions := rfl
@[simp] theorem State.raise_flights (s : State) (i v : Nat) : (s.raise i v).flights = s.flights := rfl
@[simp] theorem State.raise_nextFlight (s : State) (i v : Nat) : (s.raise i v).nextFlight = s.nextFlight := rfl
@[simp] theorem State.raise_txns (s : State) (i v : Nat) : (s.raise i v).txns = s.txns := rfl
@[simp] theorem State.raise_nextTxn (s : State) (i v : Nat) : (s.raise i v).nextTxn = s.nextTxn := rfl
@[simp] theorem State.raise_txnEnded (s : State) (i v : Nat) : (s.raise i v).txnEnded = s.txnEnded := rfl
@[simp] theorem State.raise_levelTo (s : State) (i v : Nat) : (s.raise i v).levelTo = s.levelTo := rfl
@[simp] theorem State.raise_periodNo (s : State) (i v : Nat) : (s.raise i v).periodNo = s.periodNo := rfl
@[simp] theorem State.raise_boosts (s : State) (i v : Nat) : (s.raise i v).boosts = s.boosts := rfl
@[simp] theorem State.raise_cooled (s : State) (i v : Nat) : (s.raise i v).cooled = s.cooled := rfl
@[simp] theorem State.raise_wire (s : State) (i v : Nat) : (s.raise i v).wire = s.wire := rfl
@[simp] theorem State.raise_fab (s : State) (i v : Nat) : (s.raise i v).fab = s.fab := rfl
@[simp] theorem State.raise_twin (s : State) (i v : Nat) : (s.raise i v).twin = s.twin := rfl
@[simp] theorem State.raise_lockRec (s : State) (i v : Nat) : (s.raise i v).lockRec = s.lockRec := rfl
@[simp] theorem State.raise_power (s : State) (i v : Nat) : (s.raise i v).power = s.power := rfl
@[simp] theorem State.raise_holdB (s : State) (i v : Nat) : (s.raise i v).holdB = s.holdB := rfl
@[simp] theorem State.raise_holdC (s : State) (i v : Nat) : (s.raise i v).holdC = s.holdC := rfl
@[simp] theorem State.raise_threads (s : State) (i v : Nat) : (s.raise i v).threads = s.threads := rfl
@[simp] theorem State.raise_imem (s : State) (i v : Nat) : (s.raise i v).imem = s.imem := rfl
@[simp] theorem State.raise_dmem (s : State) (i v : Nat) : (s.raise i v).dmem = s.dmem := rfl
@[simp] theorem State.raise_dmemDirty (s : State) (i v : Nat) : (s.raise i v).dmemDirty = s.dmemDirty := rfl
@[simp] theorem State.raise_memErrs (s : State) (i v : Nat) : (s.raise i v).memErrs = s.memErrs := rfl
@[simp] theorem State.raise_bluCycles (s : State) (i v : Nat) : (s.raise i v).bluCycles = s.bluCycles := rfl
@[simp] theorem State.raise_bluSeq (s : State) (i v : Nat) : (s.raise i v).bluSeq = s.bluSeq := rfl
@[simp] theorem State.raise_poQueue (s : State) (i v : Nat) : (s.raise i v).poQueue = s.poQueue := rfl
@[simp] theorem State.raise_phiTrail (s : State) (i v : Nat) : (s.raise i v).phiTrail = s.phiTrail := rfl
@[simp] theorem State.raise_canary (s : State) (i v : Nat) : (s.raise i v).canary = s.canary := rfl
@[simp] theorem State.raise_aon (s : State) (i v : Nat) : (s.raise i v).aon = s.aon := rfl
@[simp] theorem State.raise_wakeAt (s : State) (i v : Nat) : (s.raise i v).wakeAt = s.wakeAt := rfl
@[simp] theorem State.raise_watchNext (s : State) (i v : Nat) : (s.raise i v).watchNext = s.watchNext := rfl
@[simp] theorem State.raise_saved (s : State) (i v : Nat) : (s.raise i v).saved = s.saved := rfl
@[simp] theorem State.raise_products (s : State) (i v : Nat) : (s.raise i v).products = s.products := rfl
@[simp] theorem State.raise_prodWas (s : State) (i v : Nat) : (s.raise i v).prodWas = s.prodWas := rfl
@[simp] theorem State.raise_arrivals (s : State) (i v : Nat) : (s.raise i v).arrivals = s.arrivals := rfl
@[simp] theorem State.raise_prodFresh (s : State) (i v : Nat) : (s.raise i v).prodFresh = s.prodFresh := rfl
@[simp] theorem State.raise_prodFree (s : State) (i v : Nat) : (s.raise i v).prodFree = s.prodFree := rfl
@[simp] theorem State.raise_pidSeq (s : State) (i v : Nat) : (s.raise i v).pidSeq = s.pidSeq := rfl
@[simp] theorem State.raise_ephLanes (s : State) (i v : Nat) : (s.raise i v).ephLanes = s.ephLanes := rfl
@[simp] theorem State.raise_stnTick (s : State) (i v : Nat) : (s.raise i v).stnTick = s.stnTick := rfl
@[simp] theorem State.raise_storeFullAt (s : State) (i v : Nat) : (s.raise i v).storeFullAt = s.storeFullAt := rfl
@[simp] theorem State.raise_handoffs (s : State) (i v : Nat) : (s.raise i v).handoffs = s.handoffs := rfl
@[simp] theorem State.raise_pidsSeen (s : State) (i v : Nat) : (s.raise i v).pidsSeen = s.pidsSeen := rfl
@[simp] theorem State.raise_jobs (s : State) (i v : Nat) : (s.raise i v).jobs = s.jobs := rfl
@[simp] theorem State.raise_nextJob (s : State) (i v : Nat) : (s.raise i v).nextJob = s.nextJob := rfl
@[simp] theorem State.raise_serialsIn (s : State) (i v : Nat) : (s.raise i v).serialsIn = s.serialsIn := rfl
@[simp] theorem State.raise_reservationAcks (s : State) (i v : Nat) : (s.raise i v).reservationAcks = s.reservationAcks := rfl
@[simp] theorem State.raise_gens (s : State) (i v : Nat) : (s.raise i v).gens = s.gens := rfl
@[simp] theorem State.raise_heldCal (s : State) (i v : Nat) : (s.raise i v).heldCal = s.heldCal := rfl
@[simp] theorem State.raise_noDateOn (s : State) (i v : Nat) : (s.raise i v).noDateOn = s.noDateOn := rfl
@[simp] theorem State.raise_raster (s : State) (i v : Nat) : (s.raise i v).raster = s.raster := rfl
@[simp] theorem State.raise_pool (s : State) (i v : Nat) : (s.raise i v).pool = s.pool := rfl
@[simp] theorem State.raise_poison (s : State) (i v : Nat) : (s.raise i v).poison = s.poison := rfl
@[simp] theorem State.raise_extents (s : State) (i v : Nat) : (s.raise i v).extents = s.extents := rfl
@[simp] theorem State.raise_dmas (s : State) (i v : Nat) : (s.raise i v).dmas = s.dmas := rfl
@[simp] theorem State.raise_scrubPos (s : State) (i v : Nat) : (s.raise i v).scrubPos = s.scrubPos := rfl
@[simp] theorem State.raise_boot (s : State) (i v : Nat) : (s.raise i v).boot = s.boot := rfl

@[simp] theorem State.raiseSw_pending (s : State) (i : Nat) : (s.raiseSw i).pending = s.pending := rfl
@[simp] theorem State.raiseSw_time (s : State) (i : Nat) : (s.raiseSw i).time = s.time := rfl
@[simp] theorem State.raiseSw_regs (s : State) (i : Nat) : (s.raiseSw i).regs = s.regs := rfl
@[simp] theorem State.raiseSw_free (s : State) (i : Nat) : (s.raiseSw i).free = s.free := rfl
@[simp] theorem State.raiseSw_completion (s : State) (i : Nat) : (s.raiseSw i).completion = s.completion := rfl
@[simp] theorem State.raiseSw_liveWas (s : State) (i : Nat) : (s.raiseSw i).liveWas = s.liveWas := rfl
@[simp] theorem State.raiseSw_shutdown (s : State) (i : Nat) : (s.raiseSw i).shutdown = s.shutdown := rfl
@[simp] theorem State.raiseSw_leaseOk (s : State) (i : Nat) : (s.raiseSw i).leaseOk = s.leaseOk := rfl
@[simp] theorem State.raiseSw_shafts (s : State) (i : Nat) : (s.raiseSw i).shafts = s.shafts := rfl
@[simp] theorem State.raiseSw_ports (s : State) (i : Nat) : (s.raiseSw i).ports = s.ports := rfl
@[simp] theorem State.raiseSw_cells (s : State) (i : Nat) : (s.raiseSw i).cells = s.cells := rfl
@[simp] theorem State.raiseSw_events (s : State) (i : Nat) : (s.raiseSw i).events = s.events := rfl
@[simp] theorem State.raiseSw_almQueue (s : State) (i : Nat) : (s.raiseSw i).almQueue = s.almQueue := rfl
@[simp] theorem State.raiseSw_almWork (s : State) (i : Nat) : (s.raiseSw i).almWork = s.almWork := rfl
@[simp] theorem State.raiseSw_leadEl (s : State) (i : Nat) : (s.raiseSw i).leadEl = s.leadEl := rfl
@[simp] theorem State.raiseSw_leadPo (s : State) (i : Nat) : (s.raiseSw i).leadPo = s.leadPo := rfl
@[simp] theorem State.raiseSw_outs (s : State) (i : Nat) : (s.raiseSw i).outs = s.outs := rfl
@[simp] theorem State.raiseSw_lines (s : State) (i : Nat) : (s.raiseSw i).lines = s.lines := rfl
@[simp] theorem State.raiseSw_lineAt (s : State) (i : Nat) : (s.raiseSw i).lineAt = s.lineAt := rfl
@[simp] theorem State.raiseSw_actOld (s : State) (i : Nat) : (s.raiseSw i).actOld = s.actOld := rfl
@[simp] theorem State.raiseSw_chains (s : State) (i : Nat) : (s.raiseSw i).chains = s.chains := rfl
@[simp] theorem State.raiseSw_pwms (s : State) (i : Nat) : (s.raiseSw i).pwms = s.pwms := rfl
@[simp] theorem State.raiseSw_trips (s : State) (i : Nat) : (s.raiseSw i).trips = s.trips := rfl
@[simp] theorem State.raiseSw_adcs (s : State) (i : Nat) : (s.raiseSw i).adcs = s.adcs := rfl
@[simp] theorem State.raiseSw_fresh (s : State) (i : Nat) : (s.raiseSw i).fresh = s.fresh := rfl
@[simp] theorem State.raiseSw_ntfTgt (s : State) (i : Nat) : (s.raiseSw i).ntfTgt = s.ntfTgt := rfl
@[simp] theorem State.raiseSw_faults (s : State) (i : Nat) : (s.raiseSw i).faults = s.faults := rfl
@[simp] theorem State.raiseSw_staging (s : State) (i : Nat) : (s.raiseSw i).staging = s.staging := rfl
@[simp] theorem State.raiseSw_flash (s : State) (i : Nat) : (s.raiseSw i).flash = s.flash := rfl
@[simp] theorem State.raiseSw_flogSeq (s : State) (i : Nat) : (s.raiseSw i).flogSeq = s.flogSeq := rfl
@[simp] theorem State.raiseSw_logAt (s : State) (i : Nat) : (s.raiseSw i).logAt = s.logAt := rfl
@[simp] theorem State.raiseSw_selAt (s : State) (i : Nat) : (s.raiseSw i).selAt = s.selAt := rfl
@[simp] theorem State.raiseSw_safeAt (s : State) (i : Nat) : (s.raiseSw i).safeAt = s.safeAt := rfl
@[simp] theorem State.raiseSw_permitted (s : State) (i : Nat) : (s.raiseSw i).permitted = s.permitted := rfl
@[simp] theorem State.raiseSw_tallies (s : State) (i : Nat) : (s.raiseSw i).tallies = s.tallies := rfl
@[simp] theorem State.raiseSw_tallyMram (s : State) (i : Nat) : (s.raiseSw i).tallyMram = s.tallyMram := rfl
@[simp] theorem State.raiseSw_cal (s : State) (i : Nat) : (s.raiseSw i).cal = s.cal := rfl
@[simp] theorem State.raiseSw_calErr (s : State) (i : Nat) : (s.raiseSw i).calErr = s.calErr := rfl
@[simp] theorem State.raiseSw_calSet (s : State) (i : Nat) : (s.raiseSw i).calSet = s.calSet := rfl
@[simp] theorem State.raiseSw_leapNow (s : State) (i : Nat) : (s.raiseSw i).leapNow = s.leapNow := rfl
@[simp] theorem State.raiseSw_refLoaded (s : State) (i : Nat) : (s.raiseSw i).refLoaded = s.refLoaded := rfl
@[simp] theorem State.raiseSw_lastFlush (s : State) (i : Nat) : (s.raiseSw i).lastFlush = s.lastFlush := rfl
@[simp] theorem State.raiseSw_tmap (s : State) (i : Nat) : (s.raiseSw i).tmap = s.tmap := rfl
@[simp] theorem State.raiseSw_gaps (s : State) (i : Nat) : (s.raiseSw i).gaps = s.gaps := rfl
@[simp] theorem State.raiseSw_gapSeq (s : State) (i : Nat) : (s.raiseSw i).gapSeq = s.gapSeq := rfl
@[simp] theorem State.raiseSw_slots (s : State) (i : Nat) : (s.raiseSw i).slots = s.slots := rfl
@[simp] theorem State.raiseSw_sessions (s : State) (i : Nat) : (s.raiseSw i).sessions = s.sessions := rfl
@[simp] theorem State.raiseSw_flights (s : State) (i : Nat) : (s.raiseSw i).flights = s.flights := rfl
@[simp] theorem State.raiseSw_nextFlight (s : State) (i : Nat) : (s.raiseSw i).nextFlight = s.nextFlight := rfl
@[simp] theorem State.raiseSw_txns (s : State) (i : Nat) : (s.raiseSw i).txns = s.txns := rfl
@[simp] theorem State.raiseSw_nextTxn (s : State) (i : Nat) : (s.raiseSw i).nextTxn = s.nextTxn := rfl
@[simp] theorem State.raiseSw_txnEnded (s : State) (i : Nat) : (s.raiseSw i).txnEnded = s.txnEnded := rfl
@[simp] theorem State.raiseSw_levelTo (s : State) (i : Nat) : (s.raiseSw i).levelTo = s.levelTo := rfl
@[simp] theorem State.raiseSw_periodNo (s : State) (i : Nat) : (s.raiseSw i).periodNo = s.periodNo := rfl
@[simp] theorem State.raiseSw_boosts (s : State) (i : Nat) : (s.raiseSw i).boosts = s.boosts := rfl
@[simp] theorem State.raiseSw_cooled (s : State) (i : Nat) : (s.raiseSw i).cooled = s.cooled := rfl
@[simp] theorem State.raiseSw_wire (s : State) (i : Nat) : (s.raiseSw i).wire = s.wire := rfl
@[simp] theorem State.raiseSw_fab (s : State) (i : Nat) : (s.raiseSw i).fab = s.fab := rfl
@[simp] theorem State.raiseSw_twin (s : State) (i : Nat) : (s.raiseSw i).twin = s.twin := rfl
@[simp] theorem State.raiseSw_lockRec (s : State) (i : Nat) : (s.raiseSw i).lockRec = s.lockRec := rfl
@[simp] theorem State.raiseSw_power (s : State) (i : Nat) : (s.raiseSw i).power = s.power := rfl
@[simp] theorem State.raiseSw_holdB (s : State) (i : Nat) : (s.raiseSw i).holdB = s.holdB := rfl
@[simp] theorem State.raiseSw_holdC (s : State) (i : Nat) : (s.raiseSw i).holdC = s.holdC := rfl
@[simp] theorem State.raiseSw_threads (s : State) (i : Nat) : (s.raiseSw i).threads = s.threads := rfl
@[simp] theorem State.raiseSw_imem (s : State) (i : Nat) : (s.raiseSw i).imem = s.imem := rfl
@[simp] theorem State.raiseSw_dmem (s : State) (i : Nat) : (s.raiseSw i).dmem = s.dmem := rfl
@[simp] theorem State.raiseSw_dmemDirty (s : State) (i : Nat) : (s.raiseSw i).dmemDirty = s.dmemDirty := rfl
@[simp] theorem State.raiseSw_memErrs (s : State) (i : Nat) : (s.raiseSw i).memErrs = s.memErrs := rfl
@[simp] theorem State.raiseSw_bluCycles (s : State) (i : Nat) : (s.raiseSw i).bluCycles = s.bluCycles := rfl
@[simp] theorem State.raiseSw_bluSeq (s : State) (i : Nat) : (s.raiseSw i).bluSeq = s.bluSeq := rfl
@[simp] theorem State.raiseSw_poQueue (s : State) (i : Nat) : (s.raiseSw i).poQueue = s.poQueue := rfl
@[simp] theorem State.raiseSw_phiTrail (s : State) (i : Nat) : (s.raiseSw i).phiTrail = s.phiTrail := rfl
@[simp] theorem State.raiseSw_canary (s : State) (i : Nat) : (s.raiseSw i).canary = s.canary := rfl
@[simp] theorem State.raiseSw_aon (s : State) (i : Nat) : (s.raiseSw i).aon = s.aon := rfl
@[simp] theorem State.raiseSw_wakeAt (s : State) (i : Nat) : (s.raiseSw i).wakeAt = s.wakeAt := rfl
@[simp] theorem State.raiseSw_watchNext (s : State) (i : Nat) : (s.raiseSw i).watchNext = s.watchNext := rfl
@[simp] theorem State.raiseSw_saved (s : State) (i : Nat) : (s.raiseSw i).saved = s.saved := rfl
@[simp] theorem State.raiseSw_products (s : State) (i : Nat) : (s.raiseSw i).products = s.products := rfl
@[simp] theorem State.raiseSw_prodWas (s : State) (i : Nat) : (s.raiseSw i).prodWas = s.prodWas := rfl
@[simp] theorem State.raiseSw_arrivals (s : State) (i : Nat) : (s.raiseSw i).arrivals = s.arrivals := rfl
@[simp] theorem State.raiseSw_prodFresh (s : State) (i : Nat) : (s.raiseSw i).prodFresh = s.prodFresh := rfl
@[simp] theorem State.raiseSw_prodFree (s : State) (i : Nat) : (s.raiseSw i).prodFree = s.prodFree := rfl
@[simp] theorem State.raiseSw_pidSeq (s : State) (i : Nat) : (s.raiseSw i).pidSeq = s.pidSeq := rfl
@[simp] theorem State.raiseSw_ephLanes (s : State) (i : Nat) : (s.raiseSw i).ephLanes = s.ephLanes := rfl
@[simp] theorem State.raiseSw_stnTick (s : State) (i : Nat) : (s.raiseSw i).stnTick = s.stnTick := rfl
@[simp] theorem State.raiseSw_storeFullAt (s : State) (i : Nat) : (s.raiseSw i).storeFullAt = s.storeFullAt := rfl
@[simp] theorem State.raiseSw_handoffs (s : State) (i : Nat) : (s.raiseSw i).handoffs = s.handoffs := rfl
@[simp] theorem State.raiseSw_pidsSeen (s : State) (i : Nat) : (s.raiseSw i).pidsSeen = s.pidsSeen := rfl
@[simp] theorem State.raiseSw_jobs (s : State) (i : Nat) : (s.raiseSw i).jobs = s.jobs := rfl
@[simp] theorem State.raiseSw_nextJob (s : State) (i : Nat) : (s.raiseSw i).nextJob = s.nextJob := rfl
@[simp] theorem State.raiseSw_serialsIn (s : State) (i : Nat) : (s.raiseSw i).serialsIn = s.serialsIn := rfl
@[simp] theorem State.raiseSw_reservationAcks (s : State) (i : Nat) : (s.raiseSw i).reservationAcks = s.reservationAcks := rfl
@[simp] theorem State.raiseSw_gens (s : State) (i : Nat) : (s.raiseSw i).gens = s.gens := rfl
@[simp] theorem State.raiseSw_heldCal (s : State) (i : Nat) : (s.raiseSw i).heldCal = s.heldCal := rfl
@[simp] theorem State.raiseSw_noDateOn (s : State) (i : Nat) : (s.raiseSw i).noDateOn = s.noDateOn := rfl
@[simp] theorem State.raiseSw_raster (s : State) (i : Nat) : (s.raiseSw i).raster = s.raster := rfl
@[simp] theorem State.raiseSw_pool (s : State) (i : Nat) : (s.raiseSw i).pool = s.pool := rfl
@[simp] theorem State.raiseSw_poison (s : State) (i : Nat) : (s.raiseSw i).poison = s.poison := rfl
@[simp] theorem State.raiseSw_extents (s : State) (i : Nat) : (s.raiseSw i).extents = s.extents := rfl
@[simp] theorem State.raiseSw_dmas (s : State) (i : Nat) : (s.raiseSw i).dmas = s.dmas := rfl
@[simp] theorem State.raiseSw_scrubPos (s : State) (i : Nat) : (s.raiseSw i).scrubPos = s.scrubPos := rfl
@[simp] theorem State.raiseSw_boot (s : State) (i : Nat) : (s.raiseSw i).boot = s.boot := rfl

@[simp] theorem State.drawn_pending (s : State) : (s.drawn).pending = s.pending := rfl
@[simp] theorem State.drawn_time (s : State) : (s.drawn).time = s.time := rfl
@[simp] theorem State.drawn_regs (s : State) : (s.drawn).regs = s.regs := rfl
@[simp] theorem State.drawn_completion (s : State) : (s.drawn).completion = s.completion := rfl
@[simp] theorem State.drawn_liveWas (s : State) : (s.drawn).liveWas = s.liveWas := rfl
@[simp] theorem State.drawn_shutdown (s : State) : (s.drawn).shutdown = s.shutdown := rfl
@[simp] theorem State.drawn_leaseOk (s : State) : (s.drawn).leaseOk = s.leaseOk := rfl
@[simp] theorem State.drawn_shafts (s : State) : (s.drawn).shafts = s.shafts := rfl
@[simp] theorem State.drawn_ports (s : State) : (s.drawn).ports = s.ports := rfl
@[simp] theorem State.drawn_cells (s : State) : (s.drawn).cells = s.cells := rfl
@[simp] theorem State.drawn_events (s : State) : (s.drawn).events = s.events := rfl
@[simp] theorem State.drawn_almQueue (s : State) : (s.drawn).almQueue = s.almQueue := rfl
@[simp] theorem State.drawn_almWork (s : State) : (s.drawn).almWork = s.almWork := rfl
@[simp] theorem State.drawn_leadEl (s : State) : (s.drawn).leadEl = s.leadEl := rfl
@[simp] theorem State.drawn_leadPo (s : State) : (s.drawn).leadPo = s.leadPo := rfl
@[simp] theorem State.drawn_outs (s : State) : (s.drawn).outs = s.outs := rfl
@[simp] theorem State.drawn_lines (s : State) : (s.drawn).lines = s.lines := rfl
@[simp] theorem State.drawn_lineAt (s : State) : (s.drawn).lineAt = s.lineAt := rfl
@[simp] theorem State.drawn_actOld (s : State) : (s.drawn).actOld = s.actOld := rfl
@[simp] theorem State.drawn_chains (s : State) : (s.drawn).chains = s.chains := rfl
@[simp] theorem State.drawn_pwms (s : State) : (s.drawn).pwms = s.pwms := rfl
@[simp] theorem State.drawn_trips (s : State) : (s.drawn).trips = s.trips := rfl
@[simp] theorem State.drawn_adcs (s : State) : (s.drawn).adcs = s.adcs := rfl
@[simp] theorem State.drawn_fresh (s : State) : (s.drawn).fresh = s.fresh := rfl
@[simp] theorem State.drawn_ntf (s : State) : (s.drawn).ntf = s.ntf := rfl
@[simp] theorem State.drawn_ntfTgt (s : State) : (s.drawn).ntfTgt = s.ntfTgt := rfl
@[simp] theorem State.drawn_faults (s : State) : (s.drawn).faults = s.faults := rfl
@[simp] theorem State.drawn_staging (s : State) : (s.drawn).staging = s.staging := rfl
@[simp] theorem State.drawn_flash (s : State) : (s.drawn).flash = s.flash := rfl
@[simp] theorem State.drawn_flogSeq (s : State) : (s.drawn).flogSeq = s.flogSeq := rfl
@[simp] theorem State.drawn_logAt (s : State) : (s.drawn).logAt = s.logAt := rfl
@[simp] theorem State.drawn_selAt (s : State) : (s.drawn).selAt = s.selAt := rfl
@[simp] theorem State.drawn_safeAt (s : State) : (s.drawn).safeAt = s.safeAt := rfl
@[simp] theorem State.drawn_permitted (s : State) : (s.drawn).permitted = s.permitted := rfl
@[simp] theorem State.drawn_tallies (s : State) : (s.drawn).tallies = s.tallies := rfl
@[simp] theorem State.drawn_tallyMram (s : State) : (s.drawn).tallyMram = s.tallyMram := rfl
@[simp] theorem State.drawn_cal (s : State) : (s.drawn).cal = s.cal := rfl
@[simp] theorem State.drawn_calErr (s : State) : (s.drawn).calErr = s.calErr := rfl
@[simp] theorem State.drawn_calSet (s : State) : (s.drawn).calSet = s.calSet := rfl
@[simp] theorem State.drawn_leapNow (s : State) : (s.drawn).leapNow = s.leapNow := rfl
@[simp] theorem State.drawn_refLoaded (s : State) : (s.drawn).refLoaded = s.refLoaded := rfl
@[simp] theorem State.drawn_lastFlush (s : State) : (s.drawn).lastFlush = s.lastFlush := rfl
@[simp] theorem State.drawn_tmap (s : State) : (s.drawn).tmap = s.tmap := rfl
@[simp] theorem State.drawn_gaps (s : State) : (s.drawn).gaps = s.gaps := rfl
@[simp] theorem State.drawn_gapSeq (s : State) : (s.drawn).gapSeq = s.gapSeq := rfl
@[simp] theorem State.drawn_slots (s : State) : (s.drawn).slots = s.slots := rfl
@[simp] theorem State.drawn_sessions (s : State) : (s.drawn).sessions = s.sessions := rfl
@[simp] theorem State.drawn_flights (s : State) : (s.drawn).flights = s.flights := rfl
@[simp] theorem State.drawn_nextFlight (s : State) : (s.drawn).nextFlight = s.nextFlight := rfl
@[simp] theorem State.drawn_txns (s : State) : (s.drawn).txns = s.txns := rfl
@[simp] theorem State.drawn_nextTxn (s : State) : (s.drawn).nextTxn = s.nextTxn := rfl
@[simp] theorem State.drawn_txnEnded (s : State) : (s.drawn).txnEnded = s.txnEnded := rfl
@[simp] theorem State.drawn_levelTo (s : State) : (s.drawn).levelTo = s.levelTo := rfl
@[simp] theorem State.drawn_periodNo (s : State) : (s.drawn).periodNo = s.periodNo := rfl
@[simp] theorem State.drawn_boosts (s : State) : (s.drawn).boosts = s.boosts := rfl
@[simp] theorem State.drawn_cooled (s : State) : (s.drawn).cooled = s.cooled := rfl
@[simp] theorem State.drawn_wire (s : State) : (s.drawn).wire = s.wire := rfl
@[simp] theorem State.drawn_fab (s : State) : (s.drawn).fab = s.fab := rfl
@[simp] theorem State.drawn_twin (s : State) : (s.drawn).twin = s.twin := rfl
@[simp] theorem State.drawn_lockRec (s : State) : (s.drawn).lockRec = s.lockRec := rfl
@[simp] theorem State.drawn_power (s : State) : (s.drawn).power = s.power := rfl
@[simp] theorem State.drawn_holdB (s : State) : (s.drawn).holdB = s.holdB := rfl
@[simp] theorem State.drawn_holdC (s : State) : (s.drawn).holdC = s.holdC := rfl
@[simp] theorem State.drawn_threads (s : State) : (s.drawn).threads = s.threads := rfl
@[simp] theorem State.drawn_imem (s : State) : (s.drawn).imem = s.imem := rfl
@[simp] theorem State.drawn_dmem (s : State) : (s.drawn).dmem = s.dmem := rfl
@[simp] theorem State.drawn_dmemDirty (s : State) : (s.drawn).dmemDirty = s.dmemDirty := rfl
@[simp] theorem State.drawn_memErrs (s : State) : (s.drawn).memErrs = s.memErrs := rfl
@[simp] theorem State.drawn_bluCycles (s : State) : (s.drawn).bluCycles = s.bluCycles := rfl
@[simp] theorem State.drawn_bluSeq (s : State) : (s.drawn).bluSeq = s.bluSeq := rfl
@[simp] theorem State.drawn_poQueue (s : State) : (s.drawn).poQueue = s.poQueue := rfl
@[simp] theorem State.drawn_phiTrail (s : State) : (s.drawn).phiTrail = s.phiTrail := rfl
@[simp] theorem State.drawn_canary (s : State) : (s.drawn).canary = s.canary := rfl
@[simp] theorem State.drawn_aon (s : State) : (s.drawn).aon = s.aon := rfl
@[simp] theorem State.drawn_wakeAt (s : State) : (s.drawn).wakeAt = s.wakeAt := rfl
@[simp] theorem State.drawn_watchNext (s : State) : (s.drawn).watchNext = s.watchNext := rfl
@[simp] theorem State.drawn_saved (s : State) : (s.drawn).saved = s.saved := rfl
@[simp] theorem State.drawn_products (s : State) : (s.drawn).products = s.products := rfl
@[simp] theorem State.drawn_prodWas (s : State) : (s.drawn).prodWas = s.prodWas := rfl
@[simp] theorem State.drawn_arrivals (s : State) : (s.drawn).arrivals = s.arrivals := rfl
@[simp] theorem State.drawn_prodFresh (s : State) : (s.drawn).prodFresh = s.prodFresh := rfl
@[simp] theorem State.drawn_prodFree (s : State) : (s.drawn).prodFree = s.prodFree := rfl
@[simp] theorem State.drawn_pidSeq (s : State) : (s.drawn).pidSeq = s.pidSeq := rfl
@[simp] theorem State.drawn_ephLanes (s : State) : (s.drawn).ephLanes = s.ephLanes := rfl
@[simp] theorem State.drawn_stnTick (s : State) : (s.drawn).stnTick = s.stnTick := rfl
@[simp] theorem State.drawn_storeFullAt (s : State) : (s.drawn).storeFullAt = s.storeFullAt := rfl
@[simp] theorem State.drawn_handoffs (s : State) : (s.drawn).handoffs = s.handoffs := rfl
@[simp] theorem State.drawn_pidsSeen (s : State) : (s.drawn).pidsSeen = s.pidsSeen := rfl
@[simp] theorem State.drawn_jobs (s : State) : (s.drawn).jobs = s.jobs := rfl
@[simp] theorem State.drawn_nextJob (s : State) : (s.drawn).nextJob = s.nextJob := rfl
@[simp] theorem State.drawn_serialsIn (s : State) : (s.drawn).serialsIn = s.serialsIn := rfl
@[simp] theorem State.drawn_reservationAcks (s : State) : (s.drawn).reservationAcks = s.reservationAcks := rfl
@[simp] theorem State.drawn_gens (s : State) : (s.drawn).gens = s.gens := rfl
@[simp] theorem State.drawn_heldCal (s : State) : (s.drawn).heldCal = s.heldCal := rfl
@[simp] theorem State.drawn_noDateOn (s : State) : (s.drawn).noDateOn = s.noDateOn := rfl
@[simp] theorem State.drawn_raster (s : State) : (s.drawn).raster = s.raster := rfl
@[simp] theorem State.drawn_pool (s : State) : (s.drawn).pool = s.pool := rfl
@[simp] theorem State.drawn_poison (s : State) : (s.drawn).poison = s.poison := rfl
@[simp] theorem State.drawn_extents (s : State) : (s.drawn).extents = s.extents := rfl
@[simp] theorem State.drawn_dmas (s : State) : (s.drawn).dmas = s.dmas := rfl
@[simp] theorem State.drawn_scrubPos (s : State) : (s.drawn).scrubPos = s.scrubPos := rfl
@[simp] theorem State.drawn_boot (s : State) : (s.drawn).boot = s.boot := rfl

@[simp] theorem State.raiseFree_pending (s : State) (i : Nat) : (s.raiseFree i).pending = s.pending := rfl
@[simp] theorem State.raiseFree_time (s : State) (i : Nat) : (s.raiseFree i).time = s.time := rfl
@[simp] theorem State.raiseFree_regs (s : State) (i : Nat) : (s.raiseFree i).regs = s.regs := rfl
@[simp] theorem State.raiseFree_completion (s : State) (i : Nat) : (s.raiseFree i).completion = s.completion := rfl
@[simp] theorem State.raiseFree_liveWas (s : State) (i : Nat) : (s.raiseFree i).liveWas = s.liveWas := rfl
@[simp] theorem State.raiseFree_shutdown (s : State) (i : Nat) : (s.raiseFree i).shutdown = s.shutdown := rfl
@[simp] theorem State.raiseFree_leaseOk (s : State) (i : Nat) : (s.raiseFree i).leaseOk = s.leaseOk := rfl
@[simp] theorem State.raiseFree_shafts (s : State) (i : Nat) : (s.raiseFree i).shafts = s.shafts := rfl
@[simp] theorem State.raiseFree_ports (s : State) (i : Nat) : (s.raiseFree i).ports = s.ports := rfl
@[simp] theorem State.raiseFree_cells (s : State) (i : Nat) : (s.raiseFree i).cells = s.cells := rfl
@[simp] theorem State.raiseFree_events (s : State) (i : Nat) : (s.raiseFree i).events = s.events := rfl
@[simp] theorem State.raiseFree_almQueue (s : State) (i : Nat) : (s.raiseFree i).almQueue = s.almQueue := rfl
@[simp] theorem State.raiseFree_almWork (s : State) (i : Nat) : (s.raiseFree i).almWork = s.almWork := rfl
@[simp] theorem State.raiseFree_leadEl (s : State) (i : Nat) : (s.raiseFree i).leadEl = s.leadEl := rfl
@[simp] theorem State.raiseFree_leadPo (s : State) (i : Nat) : (s.raiseFree i).leadPo = s.leadPo := rfl
@[simp] theorem State.raiseFree_outs (s : State) (i : Nat) : (s.raiseFree i).outs = s.outs := rfl
@[simp] theorem State.raiseFree_lines (s : State) (i : Nat) : (s.raiseFree i).lines = s.lines := rfl
@[simp] theorem State.raiseFree_lineAt (s : State) (i : Nat) : (s.raiseFree i).lineAt = s.lineAt := rfl
@[simp] theorem State.raiseFree_actOld (s : State) (i : Nat) : (s.raiseFree i).actOld = s.actOld := rfl
@[simp] theorem State.raiseFree_chains (s : State) (i : Nat) : (s.raiseFree i).chains = s.chains := rfl
@[simp] theorem State.raiseFree_pwms (s : State) (i : Nat) : (s.raiseFree i).pwms = s.pwms := rfl
@[simp] theorem State.raiseFree_trips (s : State) (i : Nat) : (s.raiseFree i).trips = s.trips := rfl
@[simp] theorem State.raiseFree_adcs (s : State) (i : Nat) : (s.raiseFree i).adcs = s.adcs := rfl
@[simp] theorem State.raiseFree_fresh (s : State) (i : Nat) : (s.raiseFree i).fresh = s.fresh := rfl
@[simp] theorem State.raiseFree_ntfTgt (s : State) (i : Nat) : (s.raiseFree i).ntfTgt = s.ntfTgt := rfl
@[simp] theorem State.raiseFree_faults (s : State) (i : Nat) : (s.raiseFree i).faults = s.faults := rfl
@[simp] theorem State.raiseFree_staging (s : State) (i : Nat) : (s.raiseFree i).staging = s.staging := rfl
@[simp] theorem State.raiseFree_flash (s : State) (i : Nat) : (s.raiseFree i).flash = s.flash := rfl
@[simp] theorem State.raiseFree_flogSeq (s : State) (i : Nat) : (s.raiseFree i).flogSeq = s.flogSeq := rfl
@[simp] theorem State.raiseFree_logAt (s : State) (i : Nat) : (s.raiseFree i).logAt = s.logAt := rfl
@[simp] theorem State.raiseFree_selAt (s : State) (i : Nat) : (s.raiseFree i).selAt = s.selAt := rfl
@[simp] theorem State.raiseFree_safeAt (s : State) (i : Nat) : (s.raiseFree i).safeAt = s.safeAt := rfl
@[simp] theorem State.raiseFree_permitted (s : State) (i : Nat) : (s.raiseFree i).permitted = s.permitted := rfl
@[simp] theorem State.raiseFree_tallies (s : State) (i : Nat) : (s.raiseFree i).tallies = s.tallies := rfl
@[simp] theorem State.raiseFree_tallyMram (s : State) (i : Nat) : (s.raiseFree i).tallyMram = s.tallyMram := rfl
@[simp] theorem State.raiseFree_cal (s : State) (i : Nat) : (s.raiseFree i).cal = s.cal := rfl
@[simp] theorem State.raiseFree_calErr (s : State) (i : Nat) : (s.raiseFree i).calErr = s.calErr := rfl
@[simp] theorem State.raiseFree_calSet (s : State) (i : Nat) : (s.raiseFree i).calSet = s.calSet := rfl
@[simp] theorem State.raiseFree_leapNow (s : State) (i : Nat) : (s.raiseFree i).leapNow = s.leapNow := rfl
@[simp] theorem State.raiseFree_refLoaded (s : State) (i : Nat) : (s.raiseFree i).refLoaded = s.refLoaded := rfl
@[simp] theorem State.raiseFree_lastFlush (s : State) (i : Nat) : (s.raiseFree i).lastFlush = s.lastFlush := rfl
@[simp] theorem State.raiseFree_tmap (s : State) (i : Nat) : (s.raiseFree i).tmap = s.tmap := rfl
@[simp] theorem State.raiseFree_gaps (s : State) (i : Nat) : (s.raiseFree i).gaps = s.gaps := rfl
@[simp] theorem State.raiseFree_gapSeq (s : State) (i : Nat) : (s.raiseFree i).gapSeq = s.gapSeq := rfl
@[simp] theorem State.raiseFree_slots (s : State) (i : Nat) : (s.raiseFree i).slots = s.slots := rfl
@[simp] theorem State.raiseFree_sessions (s : State) (i : Nat) : (s.raiseFree i).sessions = s.sessions := rfl
@[simp] theorem State.raiseFree_flights (s : State) (i : Nat) : (s.raiseFree i).flights = s.flights := rfl
@[simp] theorem State.raiseFree_nextFlight (s : State) (i : Nat) : (s.raiseFree i).nextFlight = s.nextFlight := rfl
@[simp] theorem State.raiseFree_txns (s : State) (i : Nat) : (s.raiseFree i).txns = s.txns := rfl
@[simp] theorem State.raiseFree_nextTxn (s : State) (i : Nat) : (s.raiseFree i).nextTxn = s.nextTxn := rfl
@[simp] theorem State.raiseFree_txnEnded (s : State) (i : Nat) : (s.raiseFree i).txnEnded = s.txnEnded := rfl
@[simp] theorem State.raiseFree_levelTo (s : State) (i : Nat) : (s.raiseFree i).levelTo = s.levelTo := rfl
@[simp] theorem State.raiseFree_periodNo (s : State) (i : Nat) : (s.raiseFree i).periodNo = s.periodNo := rfl
@[simp] theorem State.raiseFree_boosts (s : State) (i : Nat) : (s.raiseFree i).boosts = s.boosts := rfl
@[simp] theorem State.raiseFree_cooled (s : State) (i : Nat) : (s.raiseFree i).cooled = s.cooled := rfl
@[simp] theorem State.raiseFree_wire (s : State) (i : Nat) : (s.raiseFree i).wire = s.wire := rfl
@[simp] theorem State.raiseFree_fab (s : State) (i : Nat) : (s.raiseFree i).fab = s.fab := rfl
@[simp] theorem State.raiseFree_twin (s : State) (i : Nat) : (s.raiseFree i).twin = s.twin := rfl
@[simp] theorem State.raiseFree_lockRec (s : State) (i : Nat) : (s.raiseFree i).lockRec = s.lockRec := rfl
@[simp] theorem State.raiseFree_power (s : State) (i : Nat) : (s.raiseFree i).power = s.power := rfl
@[simp] theorem State.raiseFree_holdB (s : State) (i : Nat) : (s.raiseFree i).holdB = s.holdB := rfl
@[simp] theorem State.raiseFree_holdC (s : State) (i : Nat) : (s.raiseFree i).holdC = s.holdC := rfl
@[simp] theorem State.raiseFree_threads (s : State) (i : Nat) : (s.raiseFree i).threads = s.threads := rfl
@[simp] theorem State.raiseFree_imem (s : State) (i : Nat) : (s.raiseFree i).imem = s.imem := rfl
@[simp] theorem State.raiseFree_dmem (s : State) (i : Nat) : (s.raiseFree i).dmem = s.dmem := rfl
@[simp] theorem State.raiseFree_dmemDirty (s : State) (i : Nat) : (s.raiseFree i).dmemDirty = s.dmemDirty := rfl
@[simp] theorem State.raiseFree_memErrs (s : State) (i : Nat) : (s.raiseFree i).memErrs = s.memErrs := rfl
@[simp] theorem State.raiseFree_bluCycles (s : State) (i : Nat) : (s.raiseFree i).bluCycles = s.bluCycles := rfl
@[simp] theorem State.raiseFree_bluSeq (s : State) (i : Nat) : (s.raiseFree i).bluSeq = s.bluSeq := rfl
@[simp] theorem State.raiseFree_poQueue (s : State) (i : Nat) : (s.raiseFree i).poQueue = s.poQueue := rfl
@[simp] theorem State.raiseFree_phiTrail (s : State) (i : Nat) : (s.raiseFree i).phiTrail = s.phiTrail := rfl
@[simp] theorem State.raiseFree_canary (s : State) (i : Nat) : (s.raiseFree i).canary = s.canary := rfl
@[simp] theorem State.raiseFree_aon (s : State) (i : Nat) : (s.raiseFree i).aon = s.aon := rfl
@[simp] theorem State.raiseFree_wakeAt (s : State) (i : Nat) : (s.raiseFree i).wakeAt = s.wakeAt := rfl
@[simp] theorem State.raiseFree_watchNext (s : State) (i : Nat) : (s.raiseFree i).watchNext = s.watchNext := rfl
@[simp] theorem State.raiseFree_saved (s : State) (i : Nat) : (s.raiseFree i).saved = s.saved := rfl
@[simp] theorem State.raiseFree_products (s : State) (i : Nat) : (s.raiseFree i).products = s.products := rfl
@[simp] theorem State.raiseFree_prodWas (s : State) (i : Nat) : (s.raiseFree i).prodWas = s.prodWas := rfl
@[simp] theorem State.raiseFree_arrivals (s : State) (i : Nat) : (s.raiseFree i).arrivals = s.arrivals := rfl
@[simp] theorem State.raiseFree_prodFresh (s : State) (i : Nat) : (s.raiseFree i).prodFresh = s.prodFresh := rfl
@[simp] theorem State.raiseFree_prodFree (s : State) (i : Nat) : (s.raiseFree i).prodFree = s.prodFree := rfl
@[simp] theorem State.raiseFree_pidSeq (s : State) (i : Nat) : (s.raiseFree i).pidSeq = s.pidSeq := rfl
@[simp] theorem State.raiseFree_ephLanes (s : State) (i : Nat) : (s.raiseFree i).ephLanes = s.ephLanes := rfl
@[simp] theorem State.raiseFree_stnTick (s : State) (i : Nat) : (s.raiseFree i).stnTick = s.stnTick := rfl
@[simp] theorem State.raiseFree_storeFullAt (s : State) (i : Nat) : (s.raiseFree i).storeFullAt = s.storeFullAt := rfl
@[simp] theorem State.raiseFree_handoffs (s : State) (i : Nat) : (s.raiseFree i).handoffs = s.handoffs := rfl
@[simp] theorem State.raiseFree_pidsSeen (s : State) (i : Nat) : (s.raiseFree i).pidsSeen = s.pidsSeen := rfl
@[simp] theorem State.raiseFree_jobs (s : State) (i : Nat) : (s.raiseFree i).jobs = s.jobs := rfl
@[simp] theorem State.raiseFree_nextJob (s : State) (i : Nat) : (s.raiseFree i).nextJob = s.nextJob := rfl
@[simp] theorem State.raiseFree_serialsIn (s : State) (i : Nat) : (s.raiseFree i).serialsIn = s.serialsIn := rfl
@[simp] theorem State.raiseFree_reservationAcks (s : State) (i : Nat) : (s.raiseFree i).reservationAcks = s.reservationAcks := rfl
@[simp] theorem State.raiseFree_gens (s : State) (i : Nat) : (s.raiseFree i).gens = s.gens := rfl
@[simp] theorem State.raiseFree_heldCal (s : State) (i : Nat) : (s.raiseFree i).heldCal = s.heldCal := rfl
@[simp] theorem State.raiseFree_noDateOn (s : State) (i : Nat) : (s.raiseFree i).noDateOn = s.noDateOn := rfl
@[simp] theorem State.raiseFree_raster (s : State) (i : Nat) : (s.raiseFree i).raster = s.raster := rfl
@[simp] theorem State.raiseFree_pool (s : State) (i : Nat) : (s.raiseFree i).pool = s.pool := rfl
@[simp] theorem State.raiseFree_poison (s : State) (i : Nat) : (s.raiseFree i).poison = s.poison := rfl
@[simp] theorem State.raiseFree_extents (s : State) (i : Nat) : (s.raiseFree i).extents = s.extents := rfl
@[simp] theorem State.raiseFree_dmas (s : State) (i : Nat) : (s.raiseFree i).dmas = s.dmas := rfl
@[simp] theorem State.raiseFree_scrubPos (s : State) (i : Nat) : (s.raiseFree i).scrubPos = s.scrubPos := rfl
@[simp] theorem State.raiseFree_boot (s : State) (i : Nat) : (s.raiseFree i).boot = s.boot := rfl

end Sys2Proof.Machine
end

