-- ==== Sys2Proof/Laws/Goes.lean ====
section
/-! SUPPORT. What a command does where nothing turns it away: the laws by which a meaning is taken through its checks. -/

namespace Sys2Proof.Machine


theorem idle_quiet (s : State) (h1 : (if s.awake then s.settle else s).strays = [])
    (h2 : (if s.awake then s.settle else s).canary.run = .idle) (h3 : (if s.awake then s.settle else s).dueRows = [])
    (h4 : (if s.awake then s.settle else s).arrivals = []) :
    s.idle = (if s.awake then s.settle else s).tick := by
  unfold State.idle
  generalize (if s.awake = true then s.settle else s) = u at *
  simp [h1, h2, h3, h4]

theorem canIssue_goes (s : State) (legal : Bool) (act : State → State) (h : s.canGoes legal = true)
    (hr : (act s.canStepped).canary.run = s.canary.run) (hs : (act s.canStepped).canary.steps = s.canary.steps + 1)
    (hp : (act s.canStepped).canary.pc = s.canary.pc + 1) (hg : (act s.canStepped).canary.prog = s.canary.prog) :
    s.canIssue legal act = act s.canStepped := by
  simp only [State.canGoes, Bool.and_eq_true, decide_eq_true_eq] at h
  obtain ⟨⟨⟨h1, h2⟩, h3⟩, h4⟩ := h
  unfold State.canIssue
  rw [if_neg h1, if_pos h2]
  show (act s.canStepped).canSettle = _
  have h5 : ¬ FMap.get (fun _ => 0) s.canary.prog (s.canary.pc + 1) = 0 := h4
  unfold State.canSettle State.canWordAt
  rw [hr, hs, hp, hg, if_neg h1, if_neg (by omega), if_neg h5]

theorem canWrites_goes (s : State) (w : CanWord) (op : Nat) (f : State → Word) (r : Word) (h : s.canGoes (w.legal op) = true)
    (hf : f s.canStepped = r) : s.canWrites w op f = (s.setCanV w.d.toNat r).canStepped := by
  subst hf
  exact canIssue_goes s _ _ h rfl rfl rfl rfl

theorem canCompares_goes (s : State) (w : CanWord) (op : Nat) (z n : State → Word → Word → Bool) (x y : Bool)
    (h : s.canGoes (w.legal op) = true) (hz : z s.canStepped (s.canV w.s.toNat) (s.canOp2 w) = x)
    (hn : n s.canStepped (s.canV w.s.toNat) (s.canOp2 w) = y) :
    s.canCompares w op z n = (s.canFlags x y).canStepped := by
  subst hz hn
  exact canIssue_goes s _ _ h rfl rfl rfl rfl

theorem wakeEvent_fld (s : State) (v a : Nat) (f : Fld) (h : a ≠ PWR_WAKE) : (s.wakeEvent v).fld a f = s.fld a f := by
  unfold State.wakeEvent
  split
  · dsimp only
    show State.fld (if _ then _ else _) a f = _
    split <;> simp [State.fld_setFld_other _ _ _ _ _ _ h]
  · rfl

theorem wakeEvent_at (s : State) (v : Nat) (h : s.power = .watch) : (s.wakeEvent v).wakeAt.isSome = true := by
  unfold State.wakeEvent
  rw [if_pos (by simp [State.latchesWake, h])]
  rfl

theorem canEnd_legal (s : State) (legal : Bool) (act : State → State) (h1 : s.canary.run ≠ .idle) (h2 : legal = true)
    (he : (act s.canStepped).canary.run = .idle) : s.canIssue legal act = act s.canStepped := by
  unfold State.canIssue
  rw [if_neg h1, if_pos h2]
  show (act s.canStepped).canSettle = _
  unfold State.canSettle
  rw [if_pos he]


/-! ## Blulet instructions -/

theorem settle_quiet (s : State) (h : s.quiet = true) : s.settle = s := by
  simp only [State.quiet, Bool.and_eq_true, List.isEmpty_iff, List.all_eq_true, List.mem_range, Bool.not_eq_true'] at h
  obtain ⟨⟨h0, h1⟩, h2⟩ := h
  have e0 : s.settleJobs = s := by unfold State.settleJobs; rw [h0]; rfl
  have e1 : s.settleStops = s := by unfold State.settleStops; rw [h1]; rfl
  have e2 : s.settlePower = s := by unfold State.settlePower; rw [h1]
  unfold State.settle
  rw [e0, e1, e2]
  unfold State.settleReleases State.forEach
  have : ∀ (l : List Nat), (∀ x ∈ l, x < 8) →
      l.foldl (fun t n => if (t.sess n).releasing then t.releaseSession n else t) s = s := by
    intro l
    induction l with
    | nil => intro _; rfl
    | cons a l ih =>
      intro hl
      have := h2 a (hl a (by simp))
      rw [List.foldl_cons, if_neg (by simp [this])]
      exact ih fun x hx => hl x (by simp [hx])
  exact this _ (by intro x hx; simpa using hx)

/-- Registers of a thread that the start of a slice leaves. -/
theorem th_enterSlice_pc (s : State) (g : Nat) : ((s.enterSlice g).th g).pc = (s.th g).pc := by
  unfold State.enterSlice
  by_cases h : (s.th g).st = .running
  · simp only [h, if_true]
  · simp only [h, if_false, State.th_setTh, if_true]

theorem eccFixed_threads (s : State) (e : Nat) (m : MemErr) : (s.eccFixed e m).threads = s.threads := by
  unfold State.eccFixed
  split <;> rfl

theorem spendCycle_threads (s : State) (e : Nat) : (s.spendCycle e).threads = s.threads := by simp [State.spendCycle]

theorem touchErr_threads (s : State) (e k : Nat) (m : MemErr) : (s.touchErr e k m).threads = s.threads := by
  unfold State.touchErr
  rw [eccFixed_threads]; rfl

theorem bluFetched_pc (s : State) (i : Issue) : ((s.bluFetched i).th i.thread.toNat).pc = (s.th i.thread.toNat).pc := by
  rw [← th_enterSlice_pc s]
  have : (s.bluFetched i).threads = (s.enterSlice i.thread.toNat).threads := by
    unfold State.bluFetched
    dsimp only
    split <;> simp only [touchErr_threads, spendCycle_threads]
  unfold State.th
  rw [this]

/-- What protection finds on the fetch of a thread is not changed by the start of its slice. -/
theorem found_entered (s : State) (g k : Nat) (m : MemErr) : ((s.enterSlice g).spendCycle (thEngine g)).found k m = s.found k m := by
  unfold State.found State.errAt
  rw [show ((s.enterSlice g).spendCycle (thEngine g)).memErrs = s.memErrs by
    unfold State.spendCycle State.enterSlice; dsimp only; split <;> rfl]

theorem pc_entered (s : State) (g : Nat) : (((s.enterSlice g).spendCycle (thEngine g)).th g).pc = (s.th g).pc := by
  rw [← th_enterSlice_pc s g]
  unfold State.th
  rw [spendCycle_threads]

theorem bluIssueNow_eq (s : State) (i : Issue) (legal : Bool) (act : BluAct) :
    s.bluIssueNow i legal act =
      if imemSize ≤ (s.th i.thread.toNat).pc then (s.bluFetched i).pcFault i.thread.toNat
      else if s.found (imemKey (thEngine i.thread.toNat) (s.th i.thread.toNat).pc) i.fetch = .uncorrectable then
        (s.bluFetched i).threadFault i.thread.toNat causeImemEcc (s.th i.thread.toNat).pc
      else if ¬legal then (s.bluFetched i).threadFault i.thread.toNat causeIllegal (s.th i.thread.toNat).pc
      else match act (s.bluStepped i) i.thread.toNat with
        | .ok t => t
        | .error cause => (s.bluFetched i).threadFault i.thread.toNat cause (s.th i.thread.toNat).pc := by
  rw [← pc_entered s, ← found_entered s i.thread.toNat]
  rfl

/-- What an instruction does that is fetched whole. -/
theorem bluIssue_ready (s : State) (i : Issue) (legal : Bool) (act : BluAct) (h : s.bluReady i = true) :
    s.bluIssue i legal act =
      (if legal then
        match act (s.bluStepped i) i.thread.toNat with
        | .ok t => t
        | .error cause => (s.bluFetched i).threadFault i.thread.toNat cause (s.th i.thread.toNat).pc
       else (s.bluFetched i).threadFault i.thread.toNat causeIllegal (s.th i.thread.toNat).pc).settle := by
  simp only [State.bluReady, Bool.and_eq_true, decide_eq_true_eq] at h
  obtain ⟨⟨⟨h1, h2⟩, h3⟩, h4⟩ := h
  have e1 : s.endSlice (thEngine i.thread.toNat) = s := by
    unfold State.endSlice
    cases hr : s.bluRunning (thEngine i.thread.toNat) with
    | none => rfl
    | some k =>
      rw [hr] at h1
      show s.forcedYield k = s
      unfold State.forcedYield
      rw [if_neg (by simpa using h1)]
  unfold State.bluIssue
  dsimp only
  rw [e1, if_pos h2, bluIssueNow_eq, if_neg (by omega), if_neg h3]
  cases legal <;> simp

theorem bluIssue_ok (s : State) (i : Issue) (legal : Bool) (act : BluAct) (t : State) (h : s.bluReady i = true)
    (hl : legal = true) (ha : act (s.bluStepped i) i.thread.toNat = .ok t) : s.bluIssue i legal act = t.settle := by
  rw [bluIssue_ready s i legal act h, if_pos hl]; simp only [ha]

theorem bluIssue_err (s : State) (i : Issue) (legal : Bool) (act : BluAct) (c : Nat) (h : s.bluReady i = true)
    (hl : legal = true) (ha : act (s.bluStepped i) i.thread.toNat = .error c) :
    s.bluIssue i legal act = ((s.bluFetched i).threadFault i.thread.toNat c (s.th i.thread.toNat).pc).settle := by
  rw [bluIssue_ready s i legal act h, if_pos hl]; simp only [ha]

theorem bluIssue_illegal (s : State) (i : Issue) (legal : Bool) (act : BluAct) (h : s.bluReady i = true)
    (hl : legal = false) :
    s.bluIssue i legal act =
      ((s.bluFetched i).threadFault i.thread.toNat causeIllegal (s.th i.thread.toNat).pc).settle := by
  rw [bluIssue_ready s i legal act h, if_neg (by simp [hl])]

/-! ## Units one after another -/

theorem foldl_stays {α β : Type} (f : β → α → β) (s : β) (l : List α) (h : ∀ k ∈ l, f s k = s) : l.foldl f s = s := by
  induction l with
  | nil => rfl
  | cons a l ih =>
    rw [List.foldl_cons, h a (by simp)]
    exact ih fun k hk => h k (by simp [hk])

/-- Only one unit is acted on. -/
theorem forEach_only (N n : Nat) (f : State → Nat → State) (s : State) (hn : n < N) (h1 : ∀ k, k < n → f s k = s)
    (h2 : ∀ k, n < k → k < N → f (f s n) k = f s n) : State.forEach N f s = f s n := by
  unfold State.forEach
  have e : List.range N = List.range n ++ n :: List.range' (n + 1) (N - n - 1) := by
    rw [List.range_eq_range', List.range_eq_range', show n :: List.range' (n + 1) (N - n - 1) = List.range' n (N - n - 1 + 1) from rfl]
    have := List.range'_append_1 (s := 0) (m := n) (n := N - n - 1 + 1)
    rw [Nat.zero_add] at this
    rw [this, show n + (N - n - 1 + 1) = N by omega]
  rw [e, List.foldl_append, foldl_stays f s (List.range n) (fun k hk => h1 k (by simpa using hk)), List.foldl_cons]
  refine foldl_stays f _ _ fun k hk => ?_
  rw [List.mem_range'_1] at hk
  exact h2 k (by omega) (by omega)

/-! ## Commands -/

theorem startFlight_runs (v : State) (fl : Flight) (h1 : ¬(fl.cmd.ordered = true ∧ (v.sess fl.session).broken = true ∧ fl.cmd.resetsChain = false))
    (h2 : v.recordCheck fl.session fl.cmd = .ok) (h3 : fl.cmd.txnFlag = false) : v.startFlight fl = v.runOp fl := by
  unfold State.startFlight
  dsimp only
  rw [if_neg (fun k => h1 ⟨k.1, k.2.1, by simpa using k.2.2.2⟩), h2]
  show v.runRecord fl = _
  unfold State.runRecord
  rw [if_neg (by simp [h3])]

theorem recordCheck_same (v s : State) (n : Nat) (c : CmdRec) (k1 : v.boot = s.boot) (k2 : v.regs = s.regs) (k3 : v.txns = s.txns) :
    v.recordCheck n c = s.recordCheck n c := by
  unfold State.recordCheck State.noImage State.txnOf State.standby State.fld State.rg
  rw [k1, k2, k3]

/-- What a record does that runs as soon as it arrives. -/
theorem command_runs (s : State) (h : CmdHead) (op : Nat) (arg : BitVec 32) (body : List Byte)
    (hh : s.hears h (h.record op arg.toNat body) = true) :
    s.command h op arg body =
      ((s.heard h (h.record op arg.toNat body)).runOp (s.flightOf h (h.record op arg.toNat body))).settle := by
  generalize hc : h.record op arg.toNat body = c at hh ⊢
  simp only [State.hears, Bool.and_eq_true, Bool.or_eq_true, Bool.not_eq_true', decide_eq_true_eq] at hh
  obtain ⟨⟨⟨⟨⟨⟨⟨h1, h2⟩, h3⟩, h4⟩, h5⟩, h6⟩, h7⟩, h8⟩ := hh
  unfold State.command
  rw [hc]
  unfold State.acceptRecord
  rw [if_neg (by simp [h1])]
  have hw : (c.ordered && s.chainBusy h.session.val) = false := by
    cases ho : c.ordered <;> simp_all
  have key : ∀ u : State, u.flights = s.flights → u.nextFlight = s.nextFlight → u.boot = s.boot → u.regs = s.regs → u.txns = s.txns →
      u.free = s.free → (u.sess h.session.val).owner = some h.src.toNat → (u.sess h.session.val).credits = (s.sess h.session.val).credits →
      (u.sess h.session.val).replies = (s.sess h.session.val).replies → (u.sess h.session.val).broken = (s.sess h.session.val).broken →
      (if (u.sess h.session.val).owner ≠ some h.src.toNat then u.refuse h.session.val h.src.toNat c 0 .access
       else if (u.sess h.session.val).credits = 0 then u.refuse h.session.val h.src.toNat c 0 .busy
       else
         let t := u.takeCredit h.session.val
         if u.tagInFlight h.session.val c.tag = true ∨ u.powerWaits = true then t.refuse h.session.val h.src.toNat c 1 .busy
         else (t.launch h.session.val h.src.toNat c).settle) =
      (({ u.takeCredit h.session.val with flights := s.flights ++ [s.flightOf h c], nextFlight := s.nextFlight + 1 } : State).runOp (s.flightOf h c)).settle := by
    intro u e1 e2 e3 e4 e5 e6 e7 e8 e9 e10
    rw [if_neg (by simp [e7]), if_neg (by rw [e8]; exact h3)]
    have ts : (u.takeCredit h.session.val).sess h.session.val =
        { u.sess h.session.val with credits := (u.sess h.session.val).credits - 1 } := by
      unfold State.takeCredit; rw [State.sess_setSess, if_pos rfl]
    have tf : (u.takeCredit h.session.val).flights = s.flights := e1
    have tt : u.tagInFlight h.session.val c.tag = false := by
      rw [← h4]; unfold State.tagInFlight; rw [e1, e9]
    have tp : u.powerWaits = false := by
      rw [← h5]; unfold State.powerWaits; rw [e1]
    have tc : (c.ordered && (u.takeCredit h.session.val).chainBusy h.session.val) = false := by
      rw [← hw]; unfold State.chainBusy; rw [tf]
    dsimp only
    rw [if_neg (by simp [tt, tp])]
    refine congrArg State.settle ?_
    unfold State.launch
    rw [tc]
    simp only [Bool.false_eq_true, if_false]
    have tn : (u.takeCredit h.session.val).nextFlight = s.nextFlight := e2
    rw [tf, tn]
    refine startFlight_runs _ (s.flightOf h c) ?_ ((recordCheck_same _ s _ _ e3 e4 e5).trans h8) h7
    rintro ⟨k1, k2, k3⟩
    have k1' : c.ordered = true := k1
    have k3' : c.resetsChain = false := k3
    have k2' : ((u.takeCredit h.session.val).sess h.session.val).broken = true := k2
    rw [ts] at k2'
    have : (s.sess h.session.val).broken = true := e10.symm.trans k2'
    simp [k1', k3', this] at h6
  unfold State.heard
  by_cases ho : (s.sess h.session.val).owner.isNone = true
  · simp only [if_pos ho]
    have hs : (s.setSess h.session.val { s.sess h.session.val with owner := some h.src.toNat }).sess h.session.val =
        { s.sess h.session.val with owner := some h.src.toNat } := by rw [State.sess_setSess, if_pos rfl]
    exact key (s.setSess h.session.val { s.sess h.session.val with owner := some h.src.toNat }) rfl rfl rfl rfl rfl rfl (by rw [hs]) (by rw [hs]) (by rw [hs]) (by rw [hs])
  · simp only [if_neg ho]
    refine key s rfl rfl rfl rfl rfl rfl ?_ rfl rfl rfl
    rcases h2 with h2 | h2
    · simp [h2] at ho
    · exact h2

theorem recordCheck_length (s : State) (n : Nat) (c : CmdRec) (h : s.recordCheck n c = .ok) : c.lengthOk = true := by
  refine Decidable.byContradiction fun k => ?_
  unfold State.recordCheck at h
  rw [if_pos k] at h
  revert h
  repeat' split
  all_goals simp

theorem hears_length (s : State) (h : CmdHead) (c : CmdRec) (k : s.hears h c = true) : c.lengthOk = true := by
  simp only [State.hears, Bool.and_eq_true, decide_eq_true_eq] at k
  exact recordCheck_length s _ c k.2

theorem runOp_01 (s : State) (fl : Flight) (h : fl.cmd.opcode = 0x01) : s.runOp fl = s.runNop fl := by
  simp [State.runOp, h]

theorem runOp_02 (s : State) (fl : Flight) (h : fl.cmd.opcode = 0x02) : s.runOp fl = (s.opRead none fl.cmd.arg fl.cmd.body).1.completes fl (s.opRead none fl.cmd.arg fl.cmd.body).2 := by
  simp [State.runOp, h]

theorem runOp_05 (s : State) (fl : Flight) (h : fl.cmd.opcode = 0x05) : s.runOp fl = s.completes fl (s.opSnapshot fl.cmd.arg) := by
  simp [State.runOp, h]

theorem runOp_06 (s : State) (fl : Flight) (h : fl.cmd.opcode = 0x06) : s.runOp fl = s.runFence fl := by
  simp [State.runOp, h]

theorem runOp_12 (s : State) (fl : Flight) (h : fl.cmd.opcode = 0x12) : s.runOp fl = s.completes fl (s.opEventQuery fl.cmd.arg) := by
  simp [State.runOp, h]

theorem runOp_22 (s : State) (fl : Flight) (h : fl.cmd.opcode = 0x22) : s.runOp fl = s.completes fl (s.opProductQuery fl.cmd.arg) := by
  simp [State.runOp, h]

theorem runOp_31 (s : State) (fl : Flight) (h : fl.cmd.opcode = 0x31) : s.runOp fl = s.completes fl (s.opPoolRead fl.cmd.arg fl.cmd.body) := by
  simp [State.runOp, h]

theorem runOp_38 (s : State) (fl : Flight) (h : fl.cmd.opcode = 0x38) : s.runOp fl = s.runCodeJob fl := by
  simp [State.runOp, h]

theorem runOp_40 (s : State) (fl : Flight) (h : fl.cmd.opcode = 0x40) : s.runOp fl = (s.txnBegin fl.session fl.cmd.arg).1.complete fl none (s.txnBegin fl.session fl.cmd.arg).2.1 (s.txnBegin fl.session fl.cmd.arg).2.2 [] := by
  simp [State.runOp, h]

theorem runOp_41 (s : State) (fl : Flight) (h : fl.cmd.opcode = 0x41) : s.runOp fl = s.runCommit fl := by
  simp [State.runOp, h]

theorem runOp_42 (s : State) (fl : Flight) (h : fl.cmd.opcode = 0x42) : s.runOp fl = (s.txnRollbackCmd fl.session fl.cmd.arg).1.complete fl none (s.txnRollbackCmd fl.session fl.cmd.arg).2 0 [] := by
  simp [State.runOp, h]

theorem runOp_43 (s : State) (fl : Flight) (h : fl.cmd.opcode = 0x43) : s.runOp fl = s.runPrepare fl := by
  simp [State.runOp, h]

theorem runOp_48 (s : State) (fl : Flight) (h : fl.cmd.opcode = 0x48) : s.runOp fl = (s.notifyComplete fl.session fl.cmd.arg).1.complete fl none (s.notifyComplete fl.session fl.cmd.arg).2.1 (s.notifyComplete fl.session fl.cmd.arg).2.2 [] := by
  simp [State.runOp, h]

theorem runOp_52 (s : State) (fl : Flight) (h : fl.cmd.opcode = 0x52) : s.runOp fl = s.runStop fl := by
  simp [State.runOp, h]

theorem runOp_60 (s : State) (fl : Flight) (h : fl.cmd.opcode = 0x60) : s.runOp fl = ((s.storeConfig fl.cmd.arg fl.cmd.body).1.mirrorCmd fl.session fl.cmd (s.storeConfig fl.cmd.arg fl.cmd.body).2).complete fl none (s.storeConfig fl.cmd.arg fl.cmd.body).2 0 [] := by
  simp [State.runOp, h]

theorem runOp_61 (s : State) (fl : Flight) (h : fl.cmd.opcode = 0x61) : s.runOp fl = ((s.recallConfig fl.cmd.arg).1.mirrorCmd fl.session fl.cmd (s.recallConfig fl.cmd.arg).2.status).completes fl (s.recallConfig fl.cmd.arg).2 := by
  simp [State.runOp, h]

theorem runOp_70 (s : State) (fl : Flight) (h : fl.cmd.opcode = 0x70) : s.runOp fl = s.runReset fl := by
  simp [State.runOp, h]

theorem runOp_71 (s : State) (fl : Flight) (h : fl.cmd.opcode = 0x71) : s.runOp fl = s.runPower fl := by
  simp [State.runOp, h]

theorem runOp_72 (s : State) (fl : Flight) (h : fl.cmd.opcode = 0x72) : s.runOp fl = ((s.opOutputEnable fl.cmd.arg).1.mirrorCmd fl.session fl.cmd (s.opOutputEnable fl.cmd.arg).2).complete fl none (s.opOutputEnable fl.cmd.arg).2 0 [] := by
  simp [State.runOp, h]

theorem runOp_03 (s : State) (fl : Flight) (h : fl.cmd.opcode = 0x03) : s.runOp fl = s.runEffect fl := by
  simp [State.runOp, h]

theorem runOp_04 (s : State) (fl : Flight) (h : fl.cmd.opcode = 0x04) : s.runOp fl = s.runEffect fl := by
  simp [State.runOp, h]

theorem runOp_10 (s : State) (fl : Flight) (h : fl.cmd.opcode = 0x10) : s.runOp fl = s.runEffect fl := by
  simp [State.runOp, h]

theorem runOp_11 (s : State) (fl : Flight) (h : fl.cmd.opcode = 0x11) : s.runOp fl = s.runEffect fl := by
  simp [State.runOp, h]

theorem runOp_20 (s : State) (fl : Flight) (h : fl.cmd.opcode = 0x20) : s.runOp fl = s.runEffect fl := by
  simp [State.runOp, h]

theorem runOp_21 (s : State) (fl : Flight) (h : fl.cmd.opcode = 0x21) : s.runOp fl = s.runEffect fl := by
  simp [State.runOp, h]

theorem runOp_23 (s : State) (fl : Flight) (h : fl.cmd.opcode = 0x23) : s.runOp fl = s.runEffect fl := by
  simp [State.runOp, h]

theorem runOp_30 (s : State) (fl : Flight) (h : fl.cmd.opcode = 0x30) : s.runOp fl = s.runEffect fl := by
  simp [State.runOp, h]

theorem runOp_32 (s : State) (fl : Flight) (h : fl.cmd.opcode = 0x32) : s.runOp fl = s.runEffect fl := by
  simp [State.runOp, h]

theorem runOp_50 (s : State) (fl : Flight) (h : fl.cmd.opcode = 0x50) : s.runOp fl = s.runEffect fl := by
  simp [State.runOp, h]

theorem runOp_51 (s : State) (fl : Flight) (h : fl.cmd.opcode = 0x51) : s.runOp fl = s.runEffect fl := by
  simp [State.runOp, h]

theorem runOp_58 (s : State) (fl : Flight) (h : fl.cmd.opcode = 0x58) : s.runOp fl = s.runEffect fl := by
  simp [State.runOp, h]

theorem movedFrom_none (r : State) (c : CmdRec) (x : Completion) (h3 : c.opcode ≠ 3) (h4 : c.opcode ≠ 4) :
    r.movedFrom c x = none := by
  unfold State.movedFrom
  rw [if_neg]
  rintro (k | k)
  · exact h3 k.1
  · exact h4 k.1

/-- An effect that is mirrored. -/
theorem runEffect_ends (r : State) (fl : Flight) (c : CmdRec) (u : State) (x : Completion) (hc : fl.cmd = c) (ha : c.alone = .ok)
    (hl : r.lockedFor c = false) (he : r.effect true false c = (u, x)) (h3 : c.opcode ≠ 3) (h4 : c.opcode ≠ 4)
    (hr : ((decide (c.opcode = 0x50) && loadRead c.arg) || (decide (c.opcode = 0x58) && bitOf c.arg 8)) = false) :
    r.runEffect fl = (u.mirrorCmd fl.session fl.cmd x.status).complete fl none x.status x.result x.body := by
  subst hc
  unfold State.runEffect
  dsimp only
  rw [if_neg (by simp [ha]), if_neg (by simp [hl]), he, hr, movedFrom_none _ _ _ h3 h4]
  rfl

/-- An effect that reads. -/
theorem runEffect_reads (r : State) (fl : Flight) (c : CmdRec) (u : State) (x : Completion) (hc : fl.cmd = c) (ha : c.alone = .ok)
    (hl : r.lockedFor c = false) (he : r.effect true false c = (u, x)) (h3 : c.opcode ≠ 3) (h4 : c.opcode ≠ 4)
    (hr : ((decide (c.opcode = 0x50) && loadRead c.arg) || (decide (c.opcode = 0x58) && bitOf c.arg 8)) = true) :
    r.runEffect fl = u.complete fl none x.status x.result x.body := by
  subst hc
  unfold State.runEffect
  dsimp only
  rw [if_neg (by simp [ha]), if_neg (by simp [hl]), he, hr, movedFrom_none _ _ _ h3 h4]
  rfl

/-! ## Bytes -/

/-- What a byte reads as after bytes have been written. -/
theorem memRead_writeAll (bs : List Byte) (m : List Host.Cell) (a b : Nat) :
    memRead (memWriteAll m a bs) b = if a ≤ b ∧ b < a + bs.length then bs.getD (b - a) 0 else memRead m b := by
  induction bs generalizing m a with
  | nil => rw [if_neg (by simp)]; rfl
  | cons x xs ih =>
    rw [show memWriteAll m a (x :: xs) = memWriteAll (memWrite m a x) (a + 1) xs from rfl, ih]
    have hw : memRead (memWrite m a x) b = if b = a then x else memRead m b := FMap.get_set _ _ _ _ _
    rw [hw]
    by_cases h : b = a
    · subst h; rw [if_neg (by omega)]; simp
    · by_cases k : a + 1 ≤ b ∧ b < a + 1 + xs.length
      · rw [if_pos k, if_pos (by simp; omega), show b - a = b - (a + 1) + 1 by omega, List.getD_cons_succ]
      · rw [if_neg k, if_neg h, if_neg (by simp; omega)]

theorem leBytes_length (n v : Nat) : (leBytes n v).length = n := by
  induction n generalizing v with
  | zero => rfl
  | succ n ih => simp [leBytes, ih]

theorem dmemTouch_dmem (s : State) (e a n : Nat) : (s.dmemTouch e a n).dmem = s.dmem := by
  unfold State.dmemTouch
  generalize List.range _ = l
  induction l generalizing s with
  | nil => rfl
  | cons x l ih => rw [List.foldl_cons, ih]

theorem eccFixed_dmem (s : State) (e : Nat) (m : MemErr) : (s.eccFixed e m).dmem = s.dmem := by
  unfold State.eccFixed; split <;> rfl

theorem enterSlice_dmem (s : State) (g : Nat) : (s.enterSlice g).dmem = s.dmem := by
  unfold State.enterSlice; dsimp only; split <;> rfl

theorem bluStepped_dmem (s : State) (i : Issue) : (s.bluStepped i).dmem = s.dmem := by
  have h : ∀ u : State, ∀ e, (u.spendCycle e).dmem = u.dmem := by intro u e; simp [State.spendCycle]
  have k : ∀ u : State, ∀ e a m, (u.touchErr e a m).dmem = u.dmem := by
    intro u e a m; unfold State.touchErr; rw [eccFixed_dmem]; rfl
  simp only [State.bluStepped, State.setTh_dmem, State.bluFetched]
  split <;> simp only [k, h, enterSlice_dmem]

theorem dmemWrite_read (s : State) (e a : Nat) (bs : List Byte) (b : Nat) :
    memRead (s.dmemWrite e a bs).dmem b =
      if dmemAddr e a ≤ b ∧ b < dmemAddr e a + bs.length then bs.getD (b - dmemAddr e a) 0 else memRead s.dmem b :=
  memRead_writeAll bs s.dmem (dmemAddr e a) b

/-- The parts of a record that is taken. -/
theorem takes_parts {s : State} {h : CmdHead} {c : CmdRec} (k : s.takes h c = true) :
    s.hears h c = true ∧ c.alone = .ok ∧ (s.heard h c).lockedFor c = false := by
  unfold State.takes at k
  simp only [Bool.and_eq_true, decide_eq_true_eq, Bool.not_eq_true'] at k
  exact ⟨k.1.1, k.1.2, k.2⟩

/-- A record of an opcode with an effect of its own that changes state. -/
theorem command_ends (s : State) (h : CmdHead) (op : Nat) (arg : BitVec 32) (body : List Byte) (u : State) (x : Completion)
    (c : CmdRec) (hc : h.record op arg.toNat body = c) (k : s.takes h c = true)
    (hr : (s.heard h c).runOp (s.flightOf h c) = (s.heard h c).runEffect (s.flightOf h c))
    (he : (s.heard h c).effect true false c = (u, x)) (h3 : c.opcode ≠ 3) (h4 : c.opcode ≠ 4)
    (hq : ((decide (c.opcode = 0x50) && loadRead c.arg) || (decide (c.opcode = 0x58) && bitOf c.arg 8)) = false) :
    s.command h op arg body = u.ended (s.flightOf h c) x.status x.result x.body := by
  obtain ⟨k1, k2, k3⟩ := takes_parts k
  have r := command_runs s h op arg body (by rw [hc]; exact k1)
  rw [hc] at r
  have e := runEffect_ends _ (s.flightOf h c) c u x rfl k2 k3 he h3 h4 hq
  rw [hr, e] at r
  exact r

/-- One that reads. -/
theorem command_reads (s : State) (h : CmdHead) (op : Nat) (arg : BitVec 32) (body : List Byte) (x : Completion)
    (c : CmdRec) (hc : h.record op arg.toNat body = c) (k : s.hears h c = true)
    (hr : (s.heard h c).runOp (s.flightOf h c) = (s.heard h c).completes (s.flightOf h c) x) :
    s.command h op arg body = (s.heard h c).replied (s.flightOf h c) x.status x.result x.body := by
  have r := command_runs s h op arg body (by rw [hc]; exact k)
  rw [hc, hr] at r
  exact r

/-- The difference of two angles is that of 64-bit bit vectors (R3). -/
theorem angDiff_ofInt (a : Int) (b : BitVec 64) : angDiff a b.toInt = (BitVec.ofInt 64 a - b).toInt := by
  have hi : ((unsigned 64 (a - b.toInt) : Nat) : Int) = (a - b.toInt) % 2 ^ 64 := by
    unfold unsigned
    rw [Int.toNat_of_nonneg (Int.emod_nonneg _ (by decide))]; rfl
  rw [BitVec.toInt_sub, BitVec.toInt_ofInt, Int.bmod_sub_bmod]
  unfold angDiff signed
  have hl : unsigned 64 (a - b.toInt) % 2 ^ 64 = unsigned 64 (a - b.toInt) := Nat.mod_eq_of_lt (by omega)
  rw [hl]
  simp only [Int.bmod_def]
  generalize a - b.toInt = d at hi ⊢
  generalize unsigned 64 d = u at hi ⊢
  split <;> split <;> omega

theorem angDiff_toInt (a b : BitVec 64) : angDiff a.toInt b.toInt = (a - b).toInt := by
  rw [angDiff_ofInt, BitVec.ofInt_toInt]

/-- The error that stands in a word that was just given one. -/
theorem errAt_setErr (s : State) (k : Nat) (m : MemErr) : (s.setErr k m).errAt k = m := FMap.get_set_self _ _ _ _

end Sys2Proof.Machine
end

