-- ==== Sys2Proof/Laws/Write.lean ====
section
/-! SUPPORT. Register writes: from the command to the unit that owns the register. -/

namespace Sys2Proof.Machine

/-- What a register's description says that its writes depend on. -/
def RegDesc.facts (d : RegDesc) : Nat × Word × Word × Word := (d.base, d.mask .rw, d.writable, d.acting)

/-- A write of a register that has writable bits under the mask. -/
theorem writeReg_unit (s : State) (judged : Bool) (a i j base : Nat) (m v rw wb ac : Word)
    (h : (regAt a).map (fun x => (x.1.facts, x.2)) = some ((base, rw, wb, ac), i, j)) (hm : wb &&& m ≠ 0) :
    s.writeReg judged a m v =
      (let w := s.wr a m v
       let r := s.unitWrite i j w
       if r.2 ≠ .ok then r
       else if judged = true ∧ w.needsEnergy = true ∧ ¬s.admits r.1 = true then (s.budgetRefused, .budget)
       else r) := by
  cases hr : regAt a with
  | none => rw [hr] at h; cases h
  | some x =>
    obtain ⟨d, k, l⟩ := x
    rw [hr] at h
    simp only [Option.map_some, Option.some.injEq, Prod.mk.injEq, RegDesc.facts] at h
    obtain ⟨⟨h1, h2, h3, h4⟩, h5, h6⟩ := h
    subst h5 h6
    unfold State.writeReg State.wr
    simp only [hr]
    rw [if_neg (by rw [h3]; intro k; rw [k] at hm; simp at hm), if_neg (by rw [h3]; exact hm)]

theorem wr_base (s : State) (a i j base : Nat) (m v rw wb ac : Word)
    (h : (regAt a).map (fun x => (x.1.facts, x.2)) = some ((base, rw, wb, ac), i, j)) :
    (s.wr a m v).base = base ∧ (s.wr a m v).addr = a ∧ (s.wr a m v).act = v &&& m &&& ac ∧
      (s.wr a m v).new = ((s.wr a m v).old &&& ~~~ (rw &&& m)) ||| (v &&& (rw &&& m)) := by
  cases hr : regAt a with
  | none => rw [hr] at h; cases h
  | some x =>
    obtain ⟨d, k, l⟩ := x
    rw [hr] at h
    simp only [Option.map_some, Option.some.injEq, Prod.mk.injEq, RegDesc.facts] at h
    obtain ⟨⟨h1, h2, h3, h4⟩, h5, h6⟩ := h
    unfold State.wr
    simp only [hr]
    subst h1 h2 h4
    refine ⟨?_, ?_, ?_, ?_⟩ <;> first | rfl | trivial

/-- A register write in Run or Doze that its unit accepts, of a register that energy admission does not judge. -/
theorem regWrite_ok (s : State) (a i j base : Nat) (m v rw wb ac : Word) (u : State) (ha : s.awake = true)
    (h : (regAt a).map (fun x => (x.1.facts, x.2)) = some ((base, rw, wb, ac), i, j)) (hm : wb &&& m ≠ 0)
    (he : (s.wr a m v).needsEnergy = false ∨ s.admits u = true) (hu : s.unitWrite i j (s.wr a m v) = (u, .ok)) :
    s.regWrite a m v = u.done .ok 0 [] := by
  unfold State.regWrite State.inRun
  rw [if_pos ha]
  dsimp only
  rw [writeReg_unit s true a i j base m v rw wb ac h hm]
  simp only [hu]
  rw [if_neg (by simp), if_neg]
  rintro ⟨-, k1, k2⟩
  rcases he with he | he
  · rw [he] at k1; cases k1
  · exact k2 he

/-- One that its unit refuses. -/
theorem regWrite_no (s : State) (a i j base : Nat) (m v rw wb ac : Word) (u : State) (c : Status) (ha : s.awake = true)
    (h : (regAt a).map (fun x => (x.1.facts, x.2)) = some ((base, rw, wb, ac), i, j)) (hm : wb &&& m ≠ 0)
    (hc : c ≠ .ok) (hu : s.unitWrite i j (s.wr a m v) = (u, c)) : s.regWrite a m v = u.done c 0 [] := by
  unfold State.regWrite State.inRun
  rw [if_pos ha]
  dsimp only
  rw [writeReg_unit s true a i j base m v rw wb ac h hm]
  dsimp only
  rw [if_pos (by rw [hu]; exact hc), hu]

/-- One that energy admission refuses. -/
theorem regWrite_budget (s : State) (a i j base : Nat) (m v rw wb ac : Word) (u : State) (ha : s.awake = true)
    (h : (regAt a).map (fun x => (x.1.facts, x.2)) = some ((base, rw, wb, ac), i, j)) (hm : wb &&& m ≠ 0)
    (he : (s.wr a m v).needsEnergy = true) (hu : s.unitWrite i j (s.wr a m v) = (u, .ok)) (hd : s.admits u = false) :
    s.regWrite a m v = s.budgetRefused.done .budget 0 [] := by
  unfold State.regWrite State.inRun
  rw [if_pos ha]
  dsimp only
  rw [writeReg_unit s true a i j base m v rw wb ac h hm]
  simp only [hu]
  rw [if_neg (by simp), if_pos ⟨trivial, he, by simp [hd]⟩]

section
variable (s : State) {a i j base : Nat} {rw wb ac : Word} (f : Fld)
  (h : (regAt a).map (fun x => (x.1.facts, x.2)) = some ((base, rw, wb, ac), i, j))
include h

/-- A register written whole with one of its flags set. -/
theorem on_fld (v : Word) (hf : f.lo + f.width ≤ 32) (h1 : f.width = 1) (hk : f.mask &&& (rw &&& 0xFFFFFFFF) = f.mask) :
    (s.wr a 0xFFFFFFFF (v.setF f 1)).fld f = 1 := by
  obtain ⟨-, -, -, k⟩ := wr_base s a i j base 0xFFFFFFFF (v.setF f 1) rw wb ac h
  unfold Wr.fld
  rw [k, getF_merge_in _ _ _ _ hf hk, getF_setF _ _ _ hf, h1] <;> rfl

/-- A field of a register written whole that the flag leaves. -/
theorem on_fld_ne (v : Word) (g : Fld) (hf : f.lo + f.width ≤ 32) (hg : g.lo + g.width ≤ 32)
    (hk : g.mask &&& (rw &&& 0xFFFFFFFF) = g.mask) (hd : f.lo + f.width ≤ g.lo ∨ g.lo + g.width ≤ f.lo) :
    (s.wr a 0xFFFFFFFF (v.setF f 1)).fld g = v.getF g := by
  obtain ⟨-, -, -, k⟩ := wr_base s a i j base 0xFFFFFFFF (v.setF f 1) rw wb ac h
  unfold Wr.fld
  rw [k, getF_merge_in _ _ _ _ hg hk, getF_setF_ne _ _ _ _ hf hd]

/-- A field of a register written whole. -/
theorem all_fld (v : Word) (hf : f.lo + f.width ≤ 32) (hk : f.mask &&& (rw &&& 0xFFFFFFFF) = f.mask) :
    (s.wr a 0xFFFFFFFF v).fld f = v.getF f := by
  obtain ⟨-, -, -, k⟩ := wr_base s a i j base 0xFFFFFFFF v rw wb ac h
  unfold Wr.fld
  rw [k, getF_merge_in _ _ _ _ hf hk]

/-- One flag cleared. -/
theorem off_fld (hf : f.lo + f.width ≤ 32) (hk : f.mask &&& (rw &&& f.mask) = f.mask) : (s.wr a f.mask 0).fld f = 0 := by
  obtain ⟨-, -, -, k⟩ := wr_base s a i j base f.mask 0 rw wb ac h
  unfold Wr.fld
  rw [k, getF_merge_in _ _ _ _ hf hk]
  unfold BitVec.getF
  simp

theorem off_changes (hk : rw &&& f.mask = f.mask) : (s.wr a f.mask 0).changes (~~~ f.mask) = false := by
  obtain ⟨-, -, -, k⟩ := wr_base s a i j base f.mask 0 rw wb ac h
  unfold Wr.changes
  rw [k, hk, merge_outside]
  rfl

/-- A write of acting bits alone leaves the word. -/
theorem act_new (m v : Word) (hk : rw &&& m = 0) : (s.wr a m v).new = (s.wr a m v).old := by
  obtain ⟨-, -, -, k⟩ := wr_base s a i j base m v rw wb ac h
  rw [k, hk]
  exact merge_none _ _

theorem act_fld (m v : Word) (hk : rw &&& m = 0) : (s.wr a m v).fld f = (s.wr a m v).was f := by
  unfold Wr.fld Wr.was
  rw [act_new s h m v hk]

theorem act_changes (m v x : Word) (hk : rw &&& m = 0) : (s.wr a m v).changes x = false := by
  unfold Wr.changes
  rw [act_new s h m v hk]
  simp

/-- No register but four is judged by energy admission. -/
theorem wr_free (m v : Word) (hb : (base != RAS_CTL 0 && base != CMP_CFG && base != CMP_TPL 0 && base != ADC_C_CFG 0) = true) :
    (s.wr a m v).needsEnergy = false := by
  obtain ⟨k, -, -, -⟩ := wr_base s a i j base m v rw wb ac h
  unfold Wr.needsEnergy
  rw [k]
  simp only [Bool.and_eq_true, bne_iff_ne, ne_eq] at hb
  simp [hb]

end

theorem wr_old_glb (s : State) (a i j b : Nat) (m v rw wb ac : Word)
    (h : (regAt a).map (fun x => (x.1.facts, x.2)) = some ((b, rw, wb, ac), i, j)) (hb : blockOf a = some .glb) :
    (s.wr a m v).old = s.viewGlb b a := by
  cases hr : regAt a with
  | none => rw [hr] at h; cases h
  | some x =>
    obtain ⟨d, k, l⟩ := x
    rw [hr] at h
    simp only [Option.map_some, Option.some.injEq, Prod.mk.injEq, RegDesc.facts] at h
    obtain ⟨⟨h1, -⟩, h5, h6⟩ := h
    subst h1 h5 h6
    unfold State.wr
    simp only [hr, State.view, hb]

theorem unitWrite_glb (s : State) (i j : Nat) (w : Wr) (a : Nat) (ha : w.addr = a) (hb : blockOf a = some .glb) :
    s.unitWrite i j w = s.writeGlb w := by
  unfold State.unitWrite
  rw [ha, hb]

theorem wr_old_pwr (s : State) (a i j b : Nat) (m v rw wb ac : Word)
    (h : (regAt a).map (fun x => (x.1.facts, x.2)) = some ((b, rw, wb, ac), i, j)) (hb : blockOf a = some .pwr) :
    (s.wr a m v).old = s.viewPwr b a := by
  cases hr : regAt a with
  | none => rw [hr] at h; cases h
  | some x =>
    obtain ⟨d, k, l⟩ := x
    rw [hr] at h
    simp only [Option.map_some, Option.some.injEq, Prod.mk.injEq, RegDesc.facts] at h
    obtain ⟨⟨h1, -⟩, h5, h6⟩ := h
    subst h1 h5 h6
    unfold State.wr
    simp only [hr, State.view, hb]

theorem unitWrite_pwr (s : State) (i j : Nat) (w : Wr) (a : Nat) (ha : w.addr = a) (hb : blockOf a = some .pwr) :
    s.unitWrite i j w = s.writePwr w := by
  unfold State.unitWrite
  rw [ha, hb]

theorem wr_old_ntf (s : State) (a i j b : Nat) (m v rw wb ac : Word)
    (h : (regAt a).map (fun x => (x.1.facts, x.2)) = some ((b, rw, wb, ac), i, j)) (hb : blockOf a = some .ntf) :
    (s.wr a m v).old = s.viewNtf b i a := by
  cases hr : regAt a with
  | none => rw [hr] at h; cases h
  | some x =>
    obtain ⟨d, k, l⟩ := x
    rw [hr] at h
    simp only [Option.map_some, Option.some.injEq, Prod.mk.injEq, RegDesc.facts] at h
    obtain ⟨⟨h1, -⟩, h5, h6⟩ := h
    subst h1 h5 h6
    unfold State.wr
    simp only [hr, State.view, hb]

theorem unitWrite_ntf (s : State) (i j : Nat) (w : Wr) (a : Nat) (ha : w.addr = a) (hb : blockOf a = some .ntf) :
    s.unitWrite i j w = s.writeNtf i w := by
  unfold State.unitWrite
  rw [ha, hb]

theorem wr_old_fab (s : State) (a i j b : Nat) (m v rw wb ac : Word)
    (h : (regAt a).map (fun x => (x.1.facts, x.2)) = some ((b, rw, wb, ac), i, j)) (hb : blockOf a = some .fab) :
    (s.wr a m v).old = s.viewFab b a := by
  cases hr : regAt a with
  | none => rw [hr] at h; cases h
  | some x =>
    obtain ⟨d, k, l⟩ := x
    rw [hr] at h
    simp only [Option.map_some, Option.some.injEq, Prod.mk.injEq, RegDesc.facts] at h
    obtain ⟨⟨h1, -⟩, h5, h6⟩ := h
    subst h1 h5 h6
    unfold State.wr
    simp only [hr, State.view, hb]

theorem unitWrite_fab (s : State) (i j : Nat) (w : Wr) (a : Nat) (ha : w.addr = a) (hb : blockOf a = some .fab) :
    s.unitWrite i j w = s.writeFab i w := by
  unfold State.unitWrite
  rw [ha, hb]

theorem wr_old_shf (s : State) (a i j b : Nat) (m v rw wb ac : Word)
    (h : (regAt a).map (fun x => (x.1.facts, x.2)) = some ((b, rw, wb, ac), i, j)) (hb : blockOf a = some .shf) :
    (s.wr a m v).old = s.viewShaft b i a := by
  cases hr : regAt a with
  | none => rw [hr] at h; cases h
  | some x =>
    obtain ⟨d, k, l⟩ := x
    rw [hr] at h
    simp only [Option.map_some, Option.some.injEq, Prod.mk.injEq, RegDesc.facts] at h
    obtain ⟨⟨h1, -⟩, h5, h6⟩ := h
    subst h1 h5 h6
    unfold State.wr
    simp only [hr, State.view, hb]

theorem unitWrite_shf (s : State) (i j : Nat) (w : Wr) (a : Nat) (ha : w.addr = a) (hb : blockOf a = some .shf) :
    s.unitWrite i j w = s.writeShaft i w := by
  unfold State.unitWrite
  rw [ha, hb]

theorem wr_old_fbp (s : State) (a i j b : Nat) (m v rw wb ac : Word)
    (h : (regAt a).map (fun x => (x.1.facts, x.2)) = some ((b, rw, wb, ac), i, j)) (hb : blockOf a = some .fbp) :
    (s.wr a m v).old = s.viewPort b i a := by
  cases hr : regAt a with
  | none => rw [hr] at h; cases h
  | some x =>
    obtain ⟨d, k, l⟩ := x
    rw [hr] at h
    simp only [Option.map_some, Option.some.injEq, Prod.mk.injEq, RegDesc.facts] at h
    obtain ⟨⟨h1, -⟩, h5, h6⟩ := h
    subst h1 h5 h6
    unfold State.wr
    simp only [hr, State.view, hb]

theorem unitWrite_fbp (s : State) (i j : Nat) (w : Wr) (a : Nat) (ha : w.addr = a) (hb : blockOf a = some .fbp) :
    s.unitWrite i j w = s.writePort i w := by
  unfold State.unitWrite
  rw [ha, hb]

theorem wr_old_tmc (s : State) (a i j b : Nat) (m v rw wb ac : Word)
    (h : (regAt a).map (fun x => (x.1.facts, x.2)) = some ((b, rw, wb, ac), i, j)) (hb : blockOf a = some .tmc) :
    (s.wr a m v).old = s.viewCell b i a := by
  cases hr : regAt a with
  | none => rw [hr] at h; cases h
  | some x =>
    obtain ⟨d, k, l⟩ := x
    rw [hr] at h
    simp only [Option.map_some, Option.some.injEq, Prod.mk.injEq, RegDesc.facts] at h
    obtain ⟨⟨h1, -⟩, h5, h6⟩ := h
    subst h1 h5 h6
    unfold State.wr
    simp only [hr, State.view, hb]

theorem unitWrite_tmc (s : State) (i j : Nat) (w : Wr) (a : Nat) (ha : w.addr = a) (hb : blockOf a = some .tmc) :
    s.unitWrite i j w = s.writeCell i w := by
  unfold State.unitWrite
  rw [ha, hb]

theorem wr_old_blu (s : State) (a i j b : Nat) (m v rw wb ac : Word)
    (h : (regAt a).map (fun x => (x.1.facts, x.2)) = some ((b, rw, wb, ac), i, j)) (hb : blockOf a = some .blu) :
    (s.wr a m v).old = s.viewBlu b i j a := by
  cases hr : regAt a with
  | none => rw [hr] at h; cases h
  | some x =>
    obtain ⟨d, k, l⟩ := x
    rw [hr] at h
    simp only [Option.map_some, Option.some.injEq, Prod.mk.injEq, RegDesc.facts] at h
    obtain ⟨⟨h1, -⟩, h5, h6⟩ := h
    subst h1 h5 h6
    unfold State.wr
    simp only [hr, State.view, hb]

theorem unitWrite_blu (s : State) (i j : Nat) (w : Wr) (a : Nat) (ha : w.addr = a) (hb : blockOf a = some .blu) :
    s.unitWrite i j w = s.writeBlu i j w := by
  unfold State.unitWrite
  rw [ha, hb]

theorem wr_old_eph (s : State) (a i j b : Nat) (m v rw wb ac : Word)
    (h : (regAt a).map (fun x => (x.1.facts, x.2)) = some ((b, rw, wb, ac), i, j)) (hb : blockOf a = some .eph) :
    (s.wr a m v).old = s.viewEph b i a := by
  cases hr : regAt a with
  | none => rw [hr] at h; cases h
  | some x =>
    obtain ⟨d, k, l⟩ := x
    rw [hr] at h
    simp only [Option.map_some, Option.some.injEq, Prod.mk.injEq, RegDesc.facts] at h
    obtain ⟨⟨h1, -⟩, h5, h6⟩ := h
    subst h1 h5 h6
    unfold State.wr
    simp only [hr, State.view, hb]

theorem unitWrite_eph (s : State) (i j : Nat) (w : Wr) (a : Nat) (ha : w.addr = a) (hb : blockOf a = some .eph) :
    s.unitWrite i j w = s.writeEph i w := by
  unfold State.unitWrite
  rw [ha, hb]

theorem wr_old_cmp (s : State) (a i j b : Nat) (m v rw wb ac : Word)
    (h : (regAt a).map (fun x => (x.1.facts, x.2)) = some ((b, rw, wb, ac), i, j)) (hb : blockOf a = some .cmp) :
    (s.wr a m v).old = s.viewCmp b i a := by
  cases hr : regAt a with
  | none => rw [hr] at h; cases h
  | some x =>
    obtain ⟨d, k, l⟩ := x
    rw [hr] at h
    simp only [Option.map_some, Option.some.injEq, Prod.mk.injEq, RegDesc.facts] at h
    obtain ⟨⟨h1, -⟩, h5, h6⟩ := h
    subst h1 h5 h6
    unfold State.wr
    simp only [hr, State.view, hb]

theorem unitWrite_cmp (s : State) (i j : Nat) (w : Wr) (a : Nat) (ha : w.addr = a) (hb : blockOf a = some .cmp) :
    s.unitWrite i j w = s.writeCmp i w := by
  unfold State.unitWrite
  rw [ha, hb]

theorem wr_old_ras (s : State) (a i j b : Nat) (m v rw wb ac : Word)
    (h : (regAt a).map (fun x => (x.1.facts, x.2)) = some ((b, rw, wb, ac), i, j)) (hb : blockOf a = some .ras) :
    (s.wr a m v).old = s.viewRas b i a := by
  cases hr : regAt a with
  | none => rw [hr] at h; cases h
  | some x =>
    obtain ⟨d, k, l⟩ := x
    rw [hr] at h
    simp only [Option.map_some, Option.some.injEq, Prod.mk.injEq, RegDesc.facts] at h
    obtain ⟨⟨h1, -⟩, h5, h6⟩ := h
    subst h1 h5 h6
    unfold State.wr
    simp only [hr, State.view, hb]

theorem unitWrite_ras (s : State) (i j : Nat) (w : Wr) (a : Nat) (ha : w.addr = a) (hb : blockOf a = some .ras) :
    s.unitWrite i j w = s.writeRas i w := by
  unfold State.unitWrite
  rw [ha, hb]

theorem wr_old_pwm (s : State) (a i j b : Nat) (m v rw wb ac : Word)
    (h : (regAt a).map (fun x => (x.1.facts, x.2)) = some ((b, rw, wb, ac), i, j)) (hb : blockOf a = some .pwm) :
    (s.wr a m v).old = s.viewPwm b i a := by
  cases hr : regAt a with
  | none => rw [hr] at h; cases h
  | some x =>
    obtain ⟨d, k, l⟩ := x
    rw [hr] at h
    simp only [Option.map_some, Option.some.injEq, Prod.mk.injEq, RegDesc.facts] at h
    obtain ⟨⟨h1, -⟩, h5, h6⟩ := h
    subst h1 h5 h6
    unfold State.wr
    simp only [hr, State.view, hb]

theorem unitWrite_pwm (s : State) (i j : Nat) (w : Wr) (a : Nat) (ha : w.addr = a) (hb : blockOf a = some .pwm) :
    s.unitWrite i j w = s.writePwm i w := by
  unfold State.unitWrite
  rw [ha, hb]

theorem wr_old_fio (s : State) (a i j b : Nat) (m v rw wb ac : Word)
    (h : (regAt a).map (fun x => (x.1.facts, x.2)) = some ((b, rw, wb, ac), i, j)) (hb : blockOf a = some .fio) :
    (s.wr a m v).old = s.viewFio b i a := by
  cases hr : regAt a with
  | none => rw [hr] at h; cases h
  | some x =>
    obtain ⟨d, k, l⟩ := x
    rw [hr] at h
    simp only [Option.map_some, Option.some.injEq, Prod.mk.injEq, RegDesc.facts] at h
    obtain ⟨⟨h1, -⟩, h5, h6⟩ := h
    subst h1 h5 h6
    unfold State.wr
    simp only [hr, State.view, hb]

theorem unitWrite_fio (s : State) (i j : Nat) (w : Wr) (a : Nat) (ha : w.addr = a) (hb : blockOf a = some .fio) :
    s.unitWrite i j w = s.writeFio i j w := by
  unfold State.unitWrite
  rw [ha, hb]

theorem wr_old_adc (s : State) (a i j b : Nat) (m v rw wb ac : Word)
    (h : (regAt a).map (fun x => (x.1.facts, x.2)) = some ((b, rw, wb, ac), i, j)) (hb : blockOf a = some .adc) :
    (s.wr a m v).old = s.viewAdc b i j a := by
  cases hr : regAt a with
  | none => rw [hr] at h; cases h
  | some x =>
    obtain ⟨d, k, l⟩ := x
    rw [hr] at h
    simp only [Option.map_some, Option.some.injEq, Prod.mk.injEq, RegDesc.facts] at h
    obtain ⟨⟨h1, -⟩, h5, h6⟩ := h
    subst h1 h5 h6
    unfold State.wr
    simp only [hr, State.view, hb]

theorem unitWrite_adc (s : State) (i j : Nat) (w : Wr) (a : Nat) (ha : w.addr = a) (hb : blockOf a = some .adc) :
    s.unitWrite i j w = s.writeAdc i w := by
  unfold State.unitWrite
  rw [ha, hb]

theorem wr_old_dma (s : State) (a i j b : Nat) (m v rw wb ac : Word)
    (h : (regAt a).map (fun x => (x.1.facts, x.2)) = some ((b, rw, wb, ac), i, j)) (hb : blockOf a = some .dma) :
    (s.wr a m v).old = s.rg a := by
  cases hr : regAt a with
  | none => rw [hr] at h; cases h
  | some x =>
    obtain ⟨d, k, l⟩ := x
    rw [hr] at h
    simp only [Option.map_some, Option.some.injEq, Prod.mk.injEq, RegDesc.facts] at h
    obtain ⟨⟨h1, -⟩, h5, h6⟩ := h
    subst h1 h5 h6
    unfold State.wr
    simp only [hr, State.view, hb]

theorem unitWrite_dma (s : State) (i j : Nat) (w : Wr) (a : Nat) (ha : w.addr = a) (hb : blockOf a = some .dma) :
    s.unitWrite i j w = s.writeDma i w := by
  unfold State.unitWrite
  rw [ha, hb]

theorem wr_old_tal (s : State) (a i j b : Nat) (m v rw wb ac : Word)
    (h : (regAt a).map (fun x => (x.1.facts, x.2)) = some ((b, rw, wb, ac), i, j)) (hb : blockOf a = some .tal) :
    (s.wr a m v).old = s.viewTal b i a := by
  cases hr : regAt a with
  | none => rw [hr] at h; cases h
  | some x =>
    obtain ⟨d, k, l⟩ := x
    rw [hr] at h
    simp only [Option.map_some, Option.some.injEq, Prod.mk.injEq, RegDesc.facts] at h
    obtain ⟨⟨h1, -⟩, h5, h6⟩ := h
    subst h1 h5 h6
    unfold State.wr
    simp only [hr, State.view, hb]

theorem unitWrite_tal (s : State) (i j : Nat) (w : Wr) (a : Nat) (ha : w.addr = a) (hb : blockOf a = some .tal) :
    s.unitWrite i j w = s.writeTal i w := by
  unfold State.unitWrite
  rw [ha, hb]

theorem wr_old_can (s : State) (a i j b : Nat) (m v rw wb ac : Word)
    (h : (regAt a).map (fun x => (x.1.facts, x.2)) = some ((b, rw, wb, ac), i, j)) (hb : blockOf a = some .can) :
    (s.wr a m v).old = s.viewCan b i a := by
  cases hr : regAt a with
  | none => rw [hr] at h; cases h
  | some x =>
    obtain ⟨d, k, l⟩ := x
    rw [hr] at h
    simp only [Option.map_some, Option.some.injEq, Prod.mk.injEq, RegDesc.facts] at h
    obtain ⟨⟨h1, -⟩, h5, h6⟩ := h
    subst h1 h5 h6
    unfold State.wr
    simp only [hr, State.view, hb]

theorem unitWrite_can (s : State) (i j : Nat) (w : Wr) (a : Nat) (ha : w.addr = a) (hb : blockOf a = some .can) :
    s.unitWrite i j w = s.writeCan w := by
  unfold State.unitWrite
  rw [ha, hb]

theorem wr_old_twn (s : State) (a i j b : Nat) (m v rw wb ac : Word)
    (h : (regAt a).map (fun x => (x.1.facts, x.2)) = some ((b, rw, wb, ac), i, j)) (hb : blockOf a = some .twn) :
    (s.wr a m v).old = s.rg a := by
  cases hr : regAt a with
  | none => rw [hr] at h; cases h
  | some x =>
    obtain ⟨d, k, l⟩ := x
    rw [hr] at h
    simp only [Option.map_some, Option.some.injEq, Prod.mk.injEq, RegDesc.facts] at h
    obtain ⟨⟨h1, -⟩, h5, h6⟩ := h
    subst h1 h5 h6
    unfold State.wr
    simp only [hr, State.view, hb]

theorem unitWrite_twn (s : State) (i j : Nat) (w : Wr) (a : Nat) (ha : w.addr = a) (hb : blockOf a = some .twn) :
    s.unitWrite i j w = s.writeTwn w := by
  unfold State.unitWrite
  rw [ha, hb]

theorem blockOf_tmc (a : Nat) (h1 : 0x80000 ≤ a) (h2 : a < 0xA0000) : blockOf a = some .tmc := by
  unfold blockOf
  rw [if_neg (by omega), if_neg (by omega), if_neg (by omega), if_neg (by omega), if_neg (by omega), if_neg (by omega), if_pos h2]

/-- A merge of a whole word is that word. -/
theorem merge_whole (o v : Word) : (o &&& ~~~ (0xFFFFFFFF &&& 0xFFFFFFFF : Word)) ||| (v &&& (0xFFFFFFFF &&& 0xFFFFFFFF : Word)) = v := by
  have e : (0xFFFFFFFF &&& 0xFFFFFFFF : Word) = BitVec.allOnes 32 := by decide
  rw [e, BitVec.not_allOnes, BitVec.and_zero, BitVec.and_allOnes, BitVec.zero_or]

/-- What a register's description says that its reads depend on. -/
def RegDesc.reads (d : RegDesc) : Nat × Word × Word := (d.base, d.clearing, d.readable)

/-- A register as it reads, where its unit does not look at the word that may be older. -/
theorem readReg_view (s : State) (a i j base : Nat) (cl rd : Word)
    (h : (regAt a).map (fun x => (x.1.reads, x.2)) = some ((base, cl, rd), i, j)) (f : Word)
    (hv : ∀ d u, d.base = base → (u = s ∨ ∃ w, u = s.setRg a w) → State.view u d i j a = f) : s.readReg a = f &&& rd := by
  cases hr : regAt a with
  | none => rw [hr] at h; cases h
  | some x =>
    obtain ⟨d, k, l⟩ := x
    rw [hr] at h
    simp only [Option.map_some, Option.some.injEq, Prod.mk.injEq, RegDesc.reads] at h
    obtain ⟨⟨h1, h2, h3⟩, h5, h6⟩ := h
    subst h5 h6
    unfold State.readReg
    simp only [hr]
    rw [h3]
    congr 1
    apply hv _ _ h1
    unfold State.beforeSets
    dsimp only
    split
    · exact Or.inl rfl
    · exact Or.inr ⟨_, rfl⟩

end Sys2Proof.Machine
end

