-- ==== Sys2Proof/Laws/RegFacts.lean ====
section
/-! SUPPORT. The registers that commands write: their descriptions at every instance. -/

namespace Sys2Proof.Machine

theorem at_GLB_ADDR : (regAt (GLB_ADDR)).map (fun x => (x.1.facts, x.2)) =
    some ((GLB_ADDR, 0xFFFF, 0xFFFF, 0x0), 0, 0) := by
  decide

theorem at_GLB_FLOG_SEL : (regAt (GLB_FLOG_SEL)).map (fun x => (x.1.facts, x.2)) =
    some ((GLB_FLOG_SEL, 0xFFF, 0xFFF, 0x0), 0, 0) := by
  decide

theorem at_TAL_SET_CMD : (regAt (TAL_SET_CMD)).map (fun x => (x.1.facts, x.2)) =
    some ((TAL_SET_CMD, 0x0, 0x80003FFF, 0x80003FFF), 0, 0) := by
  decide

theorem at_TAL_CMD : (regAt (TAL_CMD)).map (fun x => (x.1.facts, x.2)) =
    some ((TAL_CMD, 0x0, 0x1, 0x1), 0, 0) := by
  decide

theorem at_NTF_RAISE : (regAt (NTF_RAISE)).map (fun x => (x.1.facts, x.2)) =
    some ((NTF_RAISE, 0x0, 0x7FF, 0x7FF), 0, 0) := by
  decide

theorem at_NTF_CLEAR : (regAt (NTF_CLEAR)).map (fun x => (x.1.facts, x.2)) =
    some ((NTF_CLEAR, 0x0, 0x7FF, 0x7FF), 0, 0) := by
  decide

theorem at_CMP_CFG : (regAt (CMP_CFG)).map (fun x => (x.1.facts, x.2)) =
    some ((CMP_CFG, 0x7FF3F01, 0x7FF3F01, 0x0), 0, 0) := by
  decide

theorem at_TWN_CFG : (regAt (TWN_CFG)).map (fun x => (x.1.facts, x.2)) =
    some ((TWN_CFG, 0xFFFF0301, 0xFFFF0301, 0x0), 0, 0) := by
  decide

theorem at_TWN_CMD : (regAt (TWN_CMD)).map (fun x => (x.1.facts, x.2)) =
    some ((TWN_CMD, 0x0, 0x1, 0x1), 0, 0) := by
  decide

theorem at_CAN_TEST : (regAt (CAN_TEST)).map (fun x => (x.1.facts, x.2)) =
    some ((CAN_TEST, 0x0, 0x80000000, 0x80000000), 0, 0) := by
  decide

theorem at_CAL_CMD : (regAt (CAL_CMD)).map (fun x => (x.1.facts, x.2)) =
    some ((CAL_CMD, 0x0, 0x1, 0x1), 0, 0) := by
  decide

theorem at_RAS_CTL (n : Fin 8) : (regAt (RAS_CTL n)).map (fun x => (x.1.facts, x.2)) =
    some ((RAS_CTL 0, 0x1F1, 0x1F3, 0x2), n.val, 0) := by
  revert n; decide

theorem at_FBP_POS (n : Fin 16) : (regAt (FBP_POS n)).map (fun x => (x.1.facts, x.2)) =
    some ((FBP_POS 0, 0xFFFFFF, 0xFFFFFF, 0x0), n.val, 0) := by
  revert n; decide

theorem at_SHF_CFG (n : Fin 16) : (regAt (SHF_CFG n)).map (fun x => (x.1.facts, x.2)) =
    some ((SHF_CFG 0, 0xFFFFFF, 0xFFFFFF, 0x0), n.val, 0) := by
  revert n; decide

theorem at_PWM_CFG (n : Fin 24) : (regAt (PWM_CFG n)).map (fun x => (x.1.facts, x.2)) =
    some ((PWM_CFG 0, 0xFFFF7FF, 0xFFFF7FF, 0x0), n.val, 0) := by
  revert n; decide

theorem at_PWM_CMD (n : Fin 24) : (regAt (PWM_CMD n)).map (fun x => (x.1.facts, x.2)) =
    some ((PWM_CMD 0, 0x0, 0x7, 0x7), n.val, 0) := by
  revert n; decide

theorem at_FIO_CH_CFG (n : Fin 4) : (regAt (FIO_CH_CFG n)).map (fun x => (x.1.facts, x.2)) =
    some ((FIO_CH_CFG 0, 0x3FF73, 0x3FF73, 0x0), n.val, 0) := by
  revert n; decide

theorem at_FIO_BANK_STAT (n : Fin 8) : (regAt (FIO_BANK_STAT n)).map (fun x => (x.1.facts, x.2)) =
    some ((FIO_BANK_STAT 0, 0x0, 0xFFFF, 0xFFFF), n.val, 0) := by
  revert n; decide

theorem at_FBP_SUP (n : Fin 16) : (regAt (FBP_SUP n)).map (fun x => (x.1.facts, x.2)) =
    some ((FBP_SUP 0, 0x1FFFF03, 0x1FFFF03, 0x0), n.val, 0) := by
  revert n; decide

theorem at_FBP_EMU_CFG (n : Fin 16) : (regAt (FBP_EMU_CFG n)).map (fun x => (x.1.facts, x.2)) =
    some ((FBP_EMU_CFG 0, 0xFF07, 0xFF07, 0x0), n.val, 0) := by
  revert n; decide

theorem at_FBP_CFG (n : Fin 16) : (regAt (FBP_CFG n)).map (fun x => (x.1.facts, x.2)) =
    some ((FBP_CFG 0, 0x3FF3F0FF, 0x3FF3F0FF, 0x0), n.val, 0) := by
  revert n; decide

theorem at_FBP_STAT (n : Fin 16) : (regAt (FBP_STAT n)).map (fun x => (x.1.facts, x.2)) =
    some ((FBP_STAT 0, 0x0, 0xC0000000, 0xC0000000), n.val, 0) := by
  revert n; decide

theorem at_EPH_L_CFG (n : Fin 16) : (regAt (EPH_L_CFG n)).map (fun x => (x.1.facts, x.2)) =
    some ((EPH_L_CFG 0, 0xF3F, 0xF3F, 0x0), n.val, 0) := by
  revert n; decide

theorem at_DMA_CTL (n : Fin 32) : (regAt (DMA_CTL n)).map (fun x => (x.1.facts, x.2)) =
    some ((DMA_CTL 0, 0x33F37, 0x33F37, 0x0), n.val, 0) := by
  revert n; decide

theorem at_CMP_TPL (n : Fin 64) : (regAt (CMP_TPL n)).map (fun x => (x.1.facts, x.2)) =
    some ((CMP_TPL 0, 0x8001FFFF, 0x8001FFFF, 0x0), n.val, 0) := by
  revert n; decide

theorem at_CMP_SG_CFG (n : Fin 8) : (regAt (CMP_SG_CFG n)).map (fun x => (x.1.facts, x.2)) =
    some ((CMP_SG_CFG 0, 0xFFFF0001, 0xFFFF0001, 0x0), n.val, 0) := by
  revert n; decide

theorem at_CMP_RQ_SIZE (n : Fin 8) : (regAt (CMP_RQ_SIZE n)).map (fun x => (x.1.facts, x.2)) =
    some ((CMP_RQ_SIZE 0, 0x80001FFF, 0x80001FFF, 0x0), n.val, 0) := by
  revert n; decide

theorem at_ADC_C_CFG (n : Fin 4) : (regAt (ADC_C_CFG n)).map (fun x => (x.1.facts, x.2)) =
    some ((ADC_C_CFG 0, 0x1F7F0FF7, 0x1F7F0FF7, 0x0), n.val, 0) := by
  revert n; decide

theorem at_ADC_C_CMD (n : Fin 4) : (regAt (ADC_C_CMD n)).map (fun x => (x.1.facts, x.2)) =
    some ((ADC_C_CMD 0, 0x0, 0x7, 0x7), n.val, 0) := by
  revert n; decide

theorem at_SHF_PH_CFG (n : Fin 16) : (regAt (SHF_PH_CFG n)).map (fun x => (x.1.facts, x.2)) =
    some ((SHF_PH_CFG 0, 0x3FF1, 0x3FF3, 0x2), n.val, 0) := by
  revert n; decide

theorem at_FAB_P_CFG (n : Fin 3) : (regAt (FAB_P_CFG n)).map (fun x => (x.1.facts, x.2)) =
    some ((FAB_P_CFG 0, 0x3, 0x103, 0x100), n.val, 0) := by
  revert n; decide

set_option maxRecDepth 100000 in
theorem at_TMC_CFG (n : Fin 1024) : (regAt (TMC_CFG n)).map (fun x => (x.1.facts, x.2)) =
    some ((TMC_CFG 0, 0xFFFFFFF1, 0xFFFFFFF1, 0x0), n.val, 0) := by
  revert n; decide

set_option maxRecDepth 100000 in
theorem at_TMC_CMD (n : Fin 1024) : (regAt (TMC_CMD n)).map (fun x => (x.1.facts, x.2)) =
    some ((TMC_CMD 0, 0x0, 0x1, 0x1), n.val, 0) := by
  revert n; decide

set_option maxRecDepth 100000 in
theorem at_TMC_PERIOD (n : Fin 1024) : (regAt (TMC_PERIOD n)).map (fun x => (x.1.facts, x.2)) =
    some ((TMC_PERIOD 0, 0xFFFFFFFF, 0xFFFFFFFF, 0x0), n.val, 0) := by
  revert n; decide

set_option maxRecDepth 100000 in
theorem at_TMC_COUNT (n : Fin 1024) : (regAt (TMC_COUNT n)).map (fun x => (x.1.facts, x.2)) =
    some ((TMC_COUNT 0, 0xFFFFFFFF, 0xFFFFFFFF, 0x0), n.val, 0) := by
  revert n; decide

set_option maxRecDepth 100000 in
theorem at_TMC_COMPARE (n : Fin 1024) : (regAt (TMC_COMPARE n)).map (fun x => (x.1.facts, x.2)) =
    some ((TMC_COMPARE 0, 0xFFFFFFFF, 0xFFFFFFFF, 0x0), n.val, 0) := by
  revert n; decide

set_option maxRecDepth 100000 in
theorem at_BLU_T_SIG (n : Fin 16) (k : Fin 16) : (regAt (BLU_T_SIG n k)).map (fun x => (x.1.facts, x.2)) =
    some ((BLU_T_SIG 0 0, 0x0, 0xFF, 0xFF), n.val, k.val) := by
  revert n k; decide

set_option maxRecDepth 100000 in
theorem reads_TMC_CAP (n : Fin 1024) : (regAt (TMC_CAP n)).map (fun x => (x.1.reads, x.2)) =
    some ((TMC_CAP 0, 0xFFFFFFFF, 0xFFFFFFFF), n.val, 0) := by
  revert n; decide

theorem reads_ADC_C_FIFO (n k : Fin 4) : (regAt (ADC_C_FIFO n k)).map (fun x => (x.1.reads, x.2)) =
    some ((ADC_C_FIFO 0 0, 0, 0xFFFFFFFF), n.val, k.val) := by
  revert n k; decide

theorem reads_JNL_GAP (n : Fin 8) : (regAt (JNL_GAP n)).map (fun x => (x.1.reads, x.2)) =
    some ((JNL_GAP 0, 0, 0xFFFFFFFF), n.val, 0) := by
  revert n; decide

end Sys2Proof.Machine
end

