-- ==== Sys2Proof/Laws/Parts.lean ====
section
/-! SUPPORT. Parts of single rows: what a heartbeat, the entry to Watch, a read of the gap words and a full window of
commands come to. -/

namespace Sys2Proof
open Sys2Proof.Machine

theorem leAt_one (a : Word) : leAt (wordBody [a]) 0 4 = a.toNat := by
  have := a.isLt
  simp [leAt, wordBody, bytesOfWords, leBytes, bytesAt, ofLe]
  omega

theorem leAt_two0 (a b : Word) : leAt (wordBody [a, b]) 0 4 = a.toNat := by
  have := a.isLt
  simp [leAt, wordBody, bytesOfWords, leBytes, bytesAt, ofLe]
  omega

theorem leAt_two4 (a b : Word) : leAt (wordBody [a, b]) 4 4 = b.toNat := by
  have := b.isLt
  simp [leAt, wordBody, bytesOfWords, leBytes, bytesAt, ofLe]
  omega

theorem startFlight_no (v : State) (fl : Flight) (h1 : ¬(fl.cmd.ordered = true ∧ (v.sess fl.session).broken = true ∧ fl.cmd.resetsChain = false))
    (h2 : v.recordCheck fl.session fl.cmd ≠ .ok) : v.startFlight fl = v.complete fl none (v.recordCheck fl.session fl.cmd) 0 [] := by
  unfold State.startFlight
  dsimp only
  rw [if_neg (fun k => h1 ⟨k.1, k.2.1, by simpa using k.2.2.2⟩)]
  split
  · next q => exact absurd q h2
  · rfl

theorem plainWrite_time (s : State) (w : Wr) : (s.plainWrite w).time = s.time := by
  unfold State.plainWrite; split <;> rfl

theorem hb_eq (s : State) (h : HeartBeat) (t c r : State) (h1 : s.twinEn = true) (h2 : h.dest.toNat = s.pairAddr) (h3 : h.member ≠ s.member)
    (hc : c = (if s.twin.heard ∧ s.rg64 TWN_HB_LO + 20000 < h.time.toNat then s.count TWN_CNT1 TWN_CNT1_HB_LATE 1 else s))
    (hr : r = (c.setRg64 TWN_HB_LO h.time.toNat).setFlag TWN_STAT TWN_STAT_PARTNER true)
    (ht : t = r.setTwin { r.twin with heard := true, peerRole := h.role.toNat, peerInSync := h.inSync, lossAt := none, probes := 0, alive := false }) :
    s.heartbeat h = if s.searching then
            if h.role = 1 then t.becomeStandby
            else if h.role = 0 ∧ ¬s.member then t.becomeActive.setMir mirJoining
            else t
          else if s.standby then
            if h.role = 1 ∧ h.yield_ then
              (if s.twin.switch then t.tryTakeover 2 else t.drawn.tryTakeover t.yieldValue)
            else t
          else if s.twinActive then t.followPartner s.twin.peerRole h
          else t := by
  unfold State.heartbeat
  rw [if_neg (by simp [h1, h2]), if_neg h3]
  dsimp only
  rw [← hc, ← hr, ← ht]

theorem forEach_inv (P : State → Prop) (n : Nat) (f : State → Nat → State) (s : State) (h : P s) (hf : ∀ t k, P t → P (f t k)) :
    P (State.forEach n f s) := by
  unfold State.forEach
  generalize List.range n = l
  induction l generalizing s with
  | nil => exact h
  | cons a l ih => exact ih _ (hf _ _ h)

theorem suppliesSleep_canary (u : State) : u.suppliesSleep.canary = u.canary := by
  unfold State.suppliesSleep
  refine forEach_inv (fun t => t.canary = u.canary) _ _ _ rfl ?_
  intro t k ht
  split
  · rw [← ht]; unfold State.supplyOff State.settled; dsimp only; (repeat' split) <;> rfl
  · exact ht

theorem canTake_canary (u : State) : u.canTake.canary.run = u.canary.run ∧ u.canTake.canary.v = u.canary.v := by
  unfold State.canTake
  refine forEach_inv (fun t => t.canary.run = u.canary.run ∧ t.canary.v = u.canary.v) _ _ _ ⟨rfl, rfl⟩ ?_
  intro t k ht
  exact ht

theorem linksSleep_canary (u : State) : u.linksSleep.canary = u.canary := rfl

theorem watchEntry_eq (s : State) (since : Nat) (h : s.watchNext = some since) :
    ∃ (x : State) (r : List (Nat × Word × Nat)) (k : Option Nat) (b : Bool), x.canary.run = .idle ∧ x.canary.v = [] ∧
      s.watchEntry = State.setFlag { x.clearSources with
        power := .watch
        watchNext := none
        aon := 0
        liveWas := false
        wakeAt := k
        canary := { x.clearSources.canary with raises := r } } PWR_WAKE PWR_WAKE_DURING_ENTRY b := by
  unfold State.watchEntry
  rw [h]
  refine ⟨_, _, _, _, ?_, ?_, rfl⟩
  · rw [linksSleep_canary, suppliesSleep_canary, State.setRg_canary, (canTake_canary _).1]
  · rw [linksSleep_canary, suppliesSleep_canary, State.setRg_canary, (canTake_canary _).2]

theorem gap_step (k : Fin 8) (u : State) (n : Nat) : u.readRegs (JNL_GAP k) (n + 1) =
    (let r := State.readRegs (if k.val = 7 then u.gapPop else u) (JNL_GAP k + 4) n
     (r.1, (match u.gaps with | [] => 0 | e :: _ => e.words.getD k 0 : Word) :: r.2)) := by
  have rv : u.readReg (JNL_GAP k) = (match u.gaps with | [] => 0 | e :: _ => e.words.getD k 0 : Word) := by
    rw [readReg_view u _ _ _ _ _ _ (reads_JNL_GAP k) (match u.gaps with | [] => 0 | e :: _ => e.words.getD k 0)]
    · exact BitVec.and_allOnes
    · intro d z hd hz
      have hb : blockOf (JNL_GAP k) = some .tal := (by decide : ∀ (k : Fin 8), blockOf (JNL_GAP k) = some .tal) k
      unfold State.view
      rw [hb]
      show z.viewTal d.base k _ = _
      unfold State.viewTal
      rw [hd]
      rcases hz with rfl | ⟨q, rfl⟩ <;> (repeat rw [if_neg (by decide)]) <;> rw [if_pos rfl]
      · cases z.gaps <;> rfl
      · show (match u.gaps with | r :: _ => r.words.getD k 0 | [] => 0) = _
        cases u.gaps <;> rfl
  have sd : u.readWait (JNL_GAP k) = u ∧ u.readSide (JNL_GAP k) = if k.val = 7 then u.gapPop else u := by
    have rd := reads_JNL_GAP k
    cases hr : regAt (JNL_GAP k) with
    | none => rw [hr] at rd; cases rd
    | some z =>
      obtain ⟨d, i, l⟩ := z
      rw [hr] at rd
      simp only [Option.map_some, Option.some.injEq, Prod.mk.injEq, RegDesc.reads] at rd
      obtain ⟨⟨h1, -, -⟩, h5, h6⟩ := rd
      constructor
      · unfold State.readWait; rw [hr]; dsimp only; rw [if_neg (by rw [h1]; decide)]
      · unfold State.readSide; rw [hr]; dsimp only; rw [if_neg (by rw [h1]; decide), if_neg (by rw [h1]; decide), if_pos h1, h5]
  rw [State.readRegs]
  dsimp only
  rw [sd.1, sd.2, rv]

theorem gap_read (s : State) : s.readRegs (JNL_GAP 0) 8 =
    (s.gapPop, (List.range 8).map fun k => (match s.gaps with | [] => 0 | e :: _ => e.words.getD k 0 : Word)) := by
  refine (gap_step 0 s 7).trans ?_
  rw [show JNL_GAP (0 : Fin 8) + 4 = JNL_GAP (1 : Fin 8) from rfl]; dsimp only
  rw [if_neg (by decide), gap_step 1 s 6, show JNL_GAP (1 : Fin 8) + 4 = JNL_GAP (2 : Fin 8) from rfl]; dsimp only
  rw [if_neg (by decide), gap_step 2 s 5, show JNL_GAP (2 : Fin 8) + 4 = JNL_GAP (3 : Fin 8) from rfl]; dsimp only
  rw [if_neg (by decide), gap_step 3 s 4, show JNL_GAP (3 : Fin 8) + 4 = JNL_GAP (4 : Fin 8) from rfl]; dsimp only
  rw [if_neg (by decide), gap_step 4 s 3, show JNL_GAP (4 : Fin 8) + 4 = JNL_GAP (5 : Fin 8) from rfl]; dsimp only
  rw [if_neg (by decide), gap_step 5 s 2, show JNL_GAP (5 : Fin 8) + 4 = JNL_GAP (6 : Fin 8) from rfl]; dsimp only
  rw [if_neg (by decide), gap_step 6 s 1, show JNL_GAP (6 : Fin 8) + 4 = JNL_GAP (7 : Fin 8) from rfl]; dsimp only
  rw [if_neg (by decide), gap_step 7 s 0]
  rfl

set_option maxRecDepth 100000 in
theorem srcs_ok : ∀ i : Fin 2048, State.reset.srcTarget i = 15 := by decide

end Sys2Proof
end

