-- ==== Sys2Proof/Tests/Slice0.lean ====
section
/-! SUPPORT. Tests of single commands on small states: a state and operands that meet the hypotheses of each statement, terms
that are not well formed, and words of programs written out from the spec's encodings. -/

namespace Sys2Proof
open Sys2Proof.Machine

/-- A state in the midst of a Canary run, with the words 0 and 1 loaded. -/
def inCanRun : State :=
  { State.reset with canary := { State.reset.canary with run := .watch, prog := [(0, 0x44000000), (1, 0x44000000)] } }

/-- Thread 3 of engine 0 RUNNING at word 5, with 7 in its register 2 and 4 in its wide register a1. -/
def inBluRun : State :=
  State.reset.setTh 3 { (Thread.init.setGr 2 7).setWide 1 4 with st := .running, pc := 5 }

/-- An issue of that thread with given fields. -/
def issue3 (d s t m : BitVec 4) (x : BitVec 8) (imm : BitVec 32) : Issue :=
  { thread := 3, d := d, s := s, t := t, m := m, x := x, imm := imm, fetch := .none_, data := .none_ }

/-- The 32 bytes of a descriptor: line output 0, shaft 0, end angle 1 ang, a duration of 1 tick. -/
def armBytes : List Byte := [0, 0, 0, 0x10, 1, 0, 0, 0, 0, 0, 0, 0, 1, 0, 0, 0] ++ List.replicate 16 0

/-- The same thread, with that descriptor in its data memory at 32, shaft 0 enabled, and record 7 in use. -/
def inBluAsk : State :=
  (({ inBluRun with dmem := memWriteAll [] 32 armBytes } : State).setFld (SHF_CFG 0) SHF_CFG_EN 1).setProd 7
    { Product.init with st := .onLane }

/-- A command head: session 0, a host at 0x00FB, TAG 1, no flags. -/
def head0 : CmdHead :=
  { src := 0x00FB, session := 0, ordered := false, txnFlag := false, noreply := false, urgent := false, resv := 0, tag := 1, txn := 0 }

theorem test_wit_IdleStepPassesTime_run :
    State.reset.pending = [] ∧ State.reset.awake = true ∧ State.reset.settle.strays = [] ∧
      State.reset.settle.canary.run = .idle ∧ State.reset.settle.dueRows = [] ∧ State.reset.settle.arrivals = [] := by decide
theorem test_wit_IdleStepPassesTime_watch :
    let s : State := { State.reset with power := .watch }
    s.pending = [] ∧ s.awake = false ∧ s.strays = [] ∧ s.canary.run = .idle ∧ s.dueRows = [] ∧ s.arrivals = [] := by decide

theorem test_wit_CanaryInstructionsWriteRegisters :
    (∀ op ∈ [0x01, 0x02, 0x03, 0x04, 0x05, 0x06, 0x07, 0x08, 0x09, 0x0A, 0x0D],
      inCanRun.canGoes ((CanWord.mk 1 0 0 0).legal op) = true) := by decide

theorem test_wit_CanaryFlagsAndBranches :
    inCanRun.canGoes ((CanWord.mk 0 1 0 2).legal 0x0B) = true ∧ inCanRun.canGoes ((CanWord.mk 0 1 0 2).legal 0x0C) = true ∧
    (inCanRun.canary.run ≠ .idle ∧ (CanWord.mk 0 0 1 0).legal 0x0E = true ∧ inCanRun.canary.steps + 1 < 256 ∧
      inCanRun.canWordAt (inCanRun.canary.pc + 1) ≠ 0) ∧
    ((CanWord.mk 0 0 0 1).legal 0x0E = true ∧ inCanRun.canCond 0 = true ∧ inCanRun.canWordAt 1 ≠ 0) := by decide
theorem test_wit_CanaryRunsEndAndReport :
    (CanWord.mk 0 0 0 0).legal 0x11 = true ∧ (CanWord.mk 0 0 0 0xFF).legal 0x0F = true ∧
    inCanRun.canGoes ((CanWord.mk 0 0 0 31).legal 0x10) = true ∧ inCanRun.canary.run = .watch ∧
    (let s := { inCanRun with power := .watch }
     s.canary.run = .watch ∧ s.power = .watch ∧ s.fld CAN_WAKE CAN_WAKE_SOURCE = 0) ∧
    (let s := { inCanRun with canary := { inCanRun.canary with run := .test } }
     s.canary.run = .test ∧ s.canGoes ((CanWord.mk 0 0 0 0).legal 0x10) = true) := by decide

theorem test_wit_BluletArithmetic :
    inBluRun.bluReady (issue3 15 2 0 8 0 0xFFFFFFFF) = true ∧ (issue3 15 2 0 8 0 0xFFFFFFFF).aluOk = true ∧
      (issue3 0 2 2 0 0 0).aluOk = true := by decide

theorem test_wit_BluletFlagsMovesAndWide :
    (issue3 0 2 0 8 0 7).aluOk = true ∧ (issue3 0 2 0 8 0 7).noD = true ∧ (issue3 3 0 2 0 0 0).noS = true ∧
    (issue3 0 0 0 0 127 0).xn = 127 ∧ (wideOk (issue3 3 1 0 8 0 1).dn && wideOk (issue3 3 1 0 8 0 1).sn) = true ∧
    (wideT (issue3 3 2 0 0 0 0).dn && wideT (issue3 3 2 0 0 0 0).sn) = true ∧ wideA (issue3 1 0 0 0 15 0).dn = true ∧
    inBluRun.bluReady (issue3 1 0 0 0 15 0) = true := by decide

theorem test_wit_BluletDataMemory :
    inBluRun.bluReady (issue3 4 2 0 0 0 0xFFF9) = true ∧
    (let t0 := inBluRun.bluStepped (issue3 4 2 0 0 0 0xFFF9)
     let x := t0.th 3
     t0.found (dmemKey 0 65535) .none_ ≠ .uncorrectable ∧ (x.gr 2 + 0xFFF8).toNat = 65535 ∧ (x.gr 2 + 0xFFF9).toNat = 65536 ∧ (x.gr 2 + 0xFFF1).toNat % 8 = 0 ∧
       (x.gr 2 + 1).toNat % 4 = 0 ∧ (x.gr 2 + 0xFFF7).toNat % 2 = 0) ∧
    ((issue3 4 2 0 6 0 1).noT && (issue3 4 2 0 6 0 1).noX) = true ∧ (issue3 0 2 3 2 0 1).noD = true ∧
    (wideOk (issue3 3 2 0 0 0 1).dn && wideOk (issue3 0 2 3 0 0 1).tn) = true := by decide

theorem test_wit_BluletControlFlow :
    inBluRun.bluReady (issue3 0 0 0 12 0 8191) = true ∧ (issue3 0 0 0 12 0 8191).imm.toNat < 8192 ∧
    some true = ((inBluRun.bluStepped (issue3 0 0 0 12 0 8191)).th 3).flags.cond 12 ∧
    some false = ((inBluRun.bluStepped (issue3 0 0 0 11 0 8191)).th 3).flags.cond 11 ∧
    ((inBluRun.bluStepped (issue3 2 0 0 0 0 1)).th 3).stack.length < 8 ∧
    ((inBluRun.bluStepped (issue3 0 2 0 0 0 0)).th 3).gr 2 = 7 ∧
    (let u := inBluRun.setTh 3 { inBluRun.th 3 with stack := [1, 2, 3, 4, 5, 6, 7] }
     u.bluReady (issue3 0 0 0 0 0 0) = true ∧ ((u.bluStepped (issue3 0 0 0 0 0 0)).th 3).stack = [1, 2, 3, 4, 5, 6, 7]) := by decide

theorem test_wit_BluletWaitsAndYields :
    inBluRun.bluReady (issue3 15 1 0 2 15 0) = true ∧
    ((inBluRun.bluStepped (issue3 15 1 0 2 15 0)).th 3).errPend = none ∧
    ((inBluRun.bluStepped (issue3 15 1 0 2 15 0)).th 3).stopPend = false ∧
    (issue3 15 1 0 2 15 0).sn < 2 ∧ ((issue3 15 1 0 2 15 0).noT && (issue3 15 1 0 2 15 0).noImm) = true ∧
    (issue3 2 3 0 0 0 0).sn = 3 ∧ (issue3 3 0 9 3 255 0).x ≠ 0 ∧ (issue3 3 0 0 2 255 0).noT = true ∧
    (issue3 0 0 0 0 0 0).bare = true ∧ (issue3 0 2 0 0 0x80 0).noImm = true := by decide

theorem test_wit_BluletBusPort :
    inBluRun.bluReady (issue3 1 0 0 0 0 0x10) = true ∧
    (let x := (inBluRun.bluStepped (issue3 1 0 0 0 0 0x10)).th 3
     addrOk (x.gr 0 + 0x10).toNat = true ∧ addrOk (x.gr 2 + 0x10).toNat = false ∧ (x.gr 0 + 0x10).toNat % 8 = 0 ∧
     addrOk ((x.gr 0 + 0x10).toNat + 4) = true ∧ (x.gr 2 + 0x3F8).toNat = 1023 ∧ (x.gr 2 + 0x3F9).toNat = 1024) ∧
    ((inBluRun.bluStepped (issue3 0 0 2 0 0 0)).busWrite 0x3 7).2 ≠ .ok ∧
    ((inBluRun.bluStepped (issue3 0 0 2 0 0 0)).busWrite (SHF_CFG 0) 0).2 = .ok := by decide

theorem test_wit_BluletRequests :
    inBluRun.bluReady (issue3 1 0 0 0 0 32) = true ∧
    (let t := inBluRun.bluStepped (issue3 1 0 0 0 0 32)
     let x := t.th 3
     (∀ j < 4, t.found (dmemKey 0 32 + j) .none_ ≠ .uncorrectable) ∧
     (x.gr 0 + 32).toNat % 8 = 0 ∧ (x.gr 0 + 32).toNat + 32 ≤ 65536 ∧ (x.gr 2).toNat < 64 ∧ (x.gr 0).toNat % 8 = 0 ∧
     (t.eventArm 0xFFFFFFFF (t.dmemRead 0 32 32) (some 3)).2.1 ≠ .ok ∧
     (t.eventCancel 7).2.1 = .state ∧ (t.eventCancel (2 ^ 31)).2.1 = .ok ∧
     (t.prod 7).st ≠ .onLane ∧ (t.prod 7).st ≠ .inHandoff ∧ updateCheck 0 8 7 = .ok) := by decide
theorem test_wit_BluletRequests_done :
    inBluAsk.bluReady (issue3 1 0 2 0 0 32) = true ∧
    (let t := inBluAsk.bluStepped (issue3 1 0 2 0 0 32)
     let x := t.th 3
     (t.eventArm 0xFFFFFFFF (t.dmemRead 0 32 32) (some 3)).2 = (.ok, 0) ∧
     (t.eventArm (x.gr 2).toNat (t.dmemRead 0 32 32) (some 3)).2 = (.ok, 7) ∧ (t.prod (x.gr 2).toNat).st = .onLane) := by decide

theorem test_wit_BluletIllegalFieldsFault :
    inBluRun.bluReady (issue3 0 2 0 2 0 8192) = true ∧ (issue3 0 2 0 2 0 8192).aluOk = false ∧
    (issue3 0 2 0 2 0 8192).bare = false ∧ (issue3 0 0 0 0 0 8192).targetOk = false ∧
    (issue3 0 0 0 7 0 0).noT = true ∧ decide ((issue3 0 0 0 7 0 0).mn % 4 ≠ 3) = false ∧
    (let x := (inBluRun.bluStepped (issue3 0 2 0 2 0 0)).th 3
     (x.gr 2 + 65529).toNat = 65536 ∧ (x.gr 2 + 0).toNat % 2 ≠ 0 ∧ x.stack = []) ∧
    (let u := inBluRun.setTh 3 { (inBluRun.th 3).setGr 2 8192 with stack := [1, 2, 3, 4, 5, 6, 7, 8] }
     u.bluReady (issue3 0 2 0 0 0 0) = true ∧ ((u.bluStepped (issue3 0 2 0 0 0 0)).th 3).stack.length = 8 ∧
       (((u.bluStepped (issue3 0 2 0 0 0 0)).th 3).gr 2).toNat = 8192) ∧
    (let u := inBluRun.setErr (dmemKey 0 8) .uncorrectable
     u.bluReady (issue3 1 2 0 2 0 1) = true ∧ (u.bluStepped (issue3 1 2 0 2 0 1)).found (dmemKey 0 8) .none_ = .uncorrectable) := by
  decide

theorem test_wit_BluletCommands :
    (let c := head0.record 0x50 0x80 (List.replicate 8 0)
     State.reset.hears head0 c = true ∧ c.alone = .ok ∧ (State.reset.heard head0 c).lockedFor c = false ∧
       loadRead 0x80 = false ∧ loadRead 0x40 = true ∧ loadData 0x40 = false ∧ loadData 0x80 = true ∧ loadData 0 = false) ∧
    (let c := head0.record 0x50 0xC0 [8, 0, 0, 0]
     State.reset.hears head0 c = true ∧ c.alone = .ok ∧ loadRead 0xC0 = true ∧ loadData 0xC0 = true) ∧
    (let c := head0.record 0x51 3 [7, 0, 0, 0]
     inBluRun.hears head0 c = true ∧ c.alone = .ok ∧ ((inBluRun.heard head0 c).th 3).live = true ∧
       ((State.reset.heard head0 c).th 3).live = false ∧ (inBluRun.heard head0 c).lockedFor c = false) ∧
    (let c := head0.record 0x52 4 []
     inBluRun.hears head0 c = true ∧ c.alone = .ok ∧ (inBluRun.heard head0 c).lockedFor c = false ∧
       (stopNames 4).filter (fun g => decide (((inBluRun.heard head0 c).th g).st = .running)) = []) := by decide

theorem test_wit_ThreadEvents :
    (let s := inBluRun.setTh 3 { inBluRun.th 3 with st := .waiting, wait := .time 0 }
     (s.th 3).st = .waiting ∧ (s.th 3).wait = .time 0 ∧ ((s.th 3).wide 2).toNat ≤ s.time) ∧
    (let s := inBluRun.setTh 3 { inBluRun.th 3 with st := .waiting, wait := .angle 0 1 true }
     (s.th 3).wait = .angle 0 1 true ∧ s.angleMet 0 ((s.th 3).wide 1) = false ∧ (s.th 3).t1.toNat ≤ s.time) ∧
    (let s := (inBluRun.setTh 3 { inBluRun.th 3 with st := .waiting, wait := .angle 0 1 true }).setShaft 0
       { Shaft.init with st := .synced, fine := 327680, still := false }
     s.angValid 0 = true ∧ (s.shaft 0).dir = false ∧ (s.shaft 0).still = false ∧
       0 ≤ (BitVec.ofInt 64 (s.phi 0 / 65536) - (s.th 3).wide 1).toInt) ∧
    (∀ w ∈ [WaitOn.bus (.word 1 7), .bus (.wide 2 7), .bus (.request true (some 1) 7), .bus (.request true none 7), .fence],
      let s := inBluRun.setTh 3 { inBluRun.th 3 with st := .waiting, wait := w }
      (s.th 3).wait = w ∧ (s.th 3).errs = []) ∧
    (let s := (inBluRun.setTh 3 { inBluRun.th 3 with st := .waiting, wait := .signals 6 none false }).setSignal 25
     (s.th 3).wait = .signals 6 none false ∧ Nat.land (s.fld (BLU_T_SIG 0 3) BLU_T_SIG_SIG) 6 ≠ 0) ∧
    (let s := inBluRun.setTh 3 { inBluRun.th 3 with issued := 64, errs := [4] }
     (s.th 3).st = .running ∧ 64 ≤ (s.th 3).issued ∧ (s.th 3).errPend = none ∧ (s.th 3).stopPend = false ∧ (s.th 3).errs = [4]) ∧
    (let s := (inBluRun.setTh 3 { inBluRun.th 3 with st := .held, errs := [4] }).setFld (BLU_T_CFG 0 3) BLU_T_CFG_CLASS 1
     ({ s with time := 10000000 } : State).thClass 3 = 1 ∧ (s.th 3).readyTick + s.thDeadline 3 ≤ 10000000 ∧
       (s.th 3).live = true ∧ (s.th 3).st ≠ .running) ∧
    (let s := inBluRun.setEdgeQ 2 [{ at_ := 5, thread := 3, level := true }]
     s.edgeQ 2 = [{ at_ := 5, thread := 3, level := true }] ∧ 5 / 64 ≤ s.time) := by decide

/-- Shaft 0 of a toothed wheel, enabled, in a state of synchronisation, its last edge at tick 1 000, now. -/
def inTeeth (st : SyncState) : State :=
  { (State.reset.setFld (SHF_CFG 0) SHF_CFG_EN 1).setShaft 0 { Shaft.init with st := st, lastMain := some 1000 } with time := 5000 }
theorem test_wit_ShaftEdges :
    (∀ st ∈ [SyncState.seeking, .gapFound, .synced, .limp, .lost],
      (inTeeth st).awake = true ∧ (inTeeth st).shaftEn 0 = true ∧ (inTeeth st).shaftSrc 0 = 0 ∧ ((inTeeth st).shaft 0).st = st ∧
        ratio (((inTeeth st).mainTicks 0).getD 0) ((inTeeth st).shaftTpred 0) = none ∧ 200 ≤ ((inTeeth st).mainTicks 0).getD 0 ∧
        (({ inTeeth st with time := 1199 } : State).mainTicks 0).getD 0 = 199) ∧
    State.reset.shaftEn 0 = false ∧
    (let s := ((inTeeth .seeking).setFld (SHF_CFG 0) SHF_CFG_IDX_EN 1).setFld (SHF_WHEEL 0) SHF_WHEEL_NSEG 1
     s.second 0 = true ∧ s.shaftEn 0 = true) := by decide

/-- The same shaft, with values of its own: following (3), on a profile (4) or on teeth (0). -/
def inShaft (src : Nat) (x : Shaft) : State :=
  { ((((State.reset.setFld (SHF_CFG 0) SHF_CFG_EN 1).setFld (SHF_CFG 0) SHF_CFG_SRC src).setFld (SHF_PH_CFG 0) SHF_PH_CFG_PH_EN 1).setShaft
      0 { x with st := .synced }) with time := 5000000000 }
theorem test_wit_ShaftsByThemselves :
    (inShaft 0 Shaft.init).awake = true ∧
    ({ (inShaft 0 Shaft.init).setShaft 0 { Shaft.init with st := .limp, lastTpred := 1, idx := [⟨1, true, 0, none, none⟩] } with time := 200000000 } : State).idxLossDue 0 = true ∧
    (inShaft 3 Shaft.init).virtTimeoutDue 0 = true ∧
    (let s := inShaft 0 { Shaft.init with hist := [⟨1, 1, 1⟩] }
     s.angValid 0 = true ∧ s.shaftVirtual 0 = false ∧ (s.shaft 0).hist ≠ [] ∧ (s.shaft 0).mu < muLimit ∧ (s.shaft 0).catching = false) ∧
    (let s := inShaft 0 { Shaft.init with catching := true }
     (s.shaft 0).catching = true ∧ s.shaftVirtual 0 = false ∧ (inShaft 4 Shaft.init).shaftVirtual 0 = true) ∧
    (let b : Broadcast := ⟨5, 0, false, false, false, 0, 0⟩
     let s := inShaft 3 { Shaft.init with vHold := true, vb := some b }
     (s.shaft 0).vHold = true ∧ (s.shaft 0).vb = some b ∧ (s.shaft 0).dir = false ∧ s.vProject b = 327680 ∧ ¬s.vProject b < (s.shaft 0).disp) ∧
    (inShaft 0 { Shaft.init with still := false }).stillDue 0 = true ∧
    ((inShaft 0 Shaft.init).phaseRuns 0 = true ∧ ((inShaft 0 Shaft.init).shaft 0).phAt ≠ some 5000000000) ∧
    (let s := inShaft 4 { Shaft.init with profSpeed := -400000000, need := 0 }
     s.shaftEn 0 = true ∧ s.shaftVirtual 0 = true ∧ s.angValid 0 = true ∧ s.profileTurned 0 = true) := by decide

theorem test_wit_ShaftControl_on :
    State.reset.awake = true ∧ State.reset.shaftEn 15 = false ∧
    (State.reset.plainWrite (State.reset.wr (SHF_CFG 15) 0xFFFFFFFF ((0 : Word).setF SHF_CFG_EN 1))).shaftCfgOk 15 = false := by decide
/-- Shaft 2 as a VIRT_PROFILE shaft, enabled and SYNCED. -/
def inProfile : State :=
  ((State.reset.setFld (SHF_CFG 2) SHF_CFG_SRC 4).setFld (SHF_CFG 2) SHF_CFG_EN 1).setShaft 2 { Shaft.init with st := .synced }
theorem test_wit_ShaftControl_off : inProfile.awake = true ∧ inProfile.shaftEn 2 = true := by decide
theorem test_wit_ShaftControl_ok :
    let v := (0 : Word).setF SHF_CFG_SRC 4
    (State.reset.plainWrite (State.reset.wr (SHF_CFG 2) 0xFFFFFFFF (v.setF SHF_CFG_EN 1))).shaftCfgOk 2 = true := by decide
theorem test_wit_Lineshafts :
    (State.reset.awake = true ∧ (∀ n, n < 16 → State.reset.flag (SHF_PUB n) SHF_PUB_PUB_EN = false) ∧
      ∀ k, k < 16 → State.reset.shaftEn k = false) ∧
    (State.reset.setFld (SHF_PUB 15) SHF_PUB_PUB_EN 1).published = [15] ∧
    (let s := (inShaft 3 Shaft.init).setFld (SHF_VSRC 0) SHF_VSRC_SRC_ADDR 7
     let e : LineEntry := ⟨0, true, false, true, false, 0, 0⟩
     s.shaftEn 0 = true ∧ s.shaftSrc 0 = 3 ∧ s.fld (SHF_VSRC 0) SHF_VSRC_SRC_ADDR = 7 ∧ s.fld (SHF_VSRC 0) SHF_VSRC_SRC_SHAFT = e.shaft.val ∧
       ∀ k, k < 16 → 0 < k → (s.lineFollow 0 true 0 e).shaftEn k = false) := by decide

/-- An ARMED event at index 5 of shaft 0, which is enabled, and an ACTIVE one at index 6. -/
def inEvents : State :=
  ((State.reset.setFld (SHF_CFG 0) SHF_CFG_EN 1).setEvent 5 { AlmEvent.init with st := .armed }).setEvent 6 { AlmEvent.init with st := .active }
theorem test_wit_EventCommands :
    (let c := head0.record 0x10 5 armBytes
     State.reset.takes head0 c = true ∧ inEvents.takes head0 c = true ∧
     ((State.reset.heard head0 c).shaftEn (EventDesc.ofBytes armBytes).shaft = false) ∧
     ((inEvents.heard head0 c).shaftEn (EventDesc.ofBytes armBytes).shaft = true) ∧
     ((inEvents.heard head0 c).event 5).st.inUse = true ∧ ((inEvents.heard head0 c).event 7).st.inUse = false ∧
     (inEvents.heard head0 c).phi 0 < (EventDesc.ofBytes armBytes).fin * 65536 ∧
     (EventDesc.ofBytes armBytes).fin * 65536 ≤
       ((inEvents.setShaft 0 { Shaft.init with st := .synced, fine := 65536 }).heard head0 c).phi 0) ∧
    (let c := head0.record 0x10 0xFFFFFFFF armBytes
     inEvents.takes head0 c = true ∧ (inEvents.heard head0 c).almChoose = some 0) ∧
    (let c := head0.record 0x11 5 []
     inEvents.takes head0 c = true ∧ bitOf 5 31 = false ∧ ((inEvents.heard head0 c).event 5).st.waiting = true) ∧
    (let c := head0.record 0x11 6 []
     inEvents.takes head0 c = true ∧ ((inEvents.heard head0 c).event 6).st = .active ∧ ((inEvents.heard head0 c).event 7).st.inUse = false) ∧
    (let c := head0.record 0x11 0x80000000 []
     inEvents.takes head0 c = true ∧ bitOf 0x80000000 31 = true) ∧
    State.reset.hears head0 (head0.record 0x12 16383 []) = true := by decide

/-- An event at index 5 in state `st` that began at tick 0, of shaft 0, which turns forward at 1 ang a tick and stands at 1 ang. -/
def inDue (st : EvState) (d : EventDesc) : State :=
  { ((State.reset.setFld (SHF_CFG 0) SHF_CFG_EN 1).setShaft 0
      { Shaft.init with st := .synced, disp := 65536, fine := 65536, tru := 65536, need := 0, speed := 1000000, rate := 65536, rho := 65536 }).setEvent 5
      { AlmEvent.init with st := st, desc := d } with time := 1 }
theorem test_wit_EventStartsAndEnds :
    (let s := inDue .committed (EventDesc.ofBytes armBytes)
     s.awake = true ∧ (s.event 5).st = .committed ∧ (s.event 5).notBefore ≤ s.time ∧ s.forward 0 = true ∧
       s.reached 0 (s.almLead (s.event 5).desc.kind) (s.event 5).start = true ∧ (s.event 5).desc.window = false) ∧
    (let d : EventDesc := { EventDesc.ofBytes armBytes with window := true }
     let s := inDue .committed d
     (s.event 5).st = .committed ∧ s.forward 0 = true ∧ s.reached 0 (s.almLead d.kind) (s.event 5).start = true ∧ s.almWindow d = none ∧ s.almWindow { d with fin := 9 } = some 1) ∧
    (let s := inDue .active (EventDesc.ofBytes armBytes)
     (s.event 5).st = .active ∧ (s.event 5).endTick ≤ s.time) ∧
    State.reset.rhoOf 0 = 0 := by decide

/-- Shaft 0 enabled and SYNCED at 3 ang, lane 2 bound to it with an EXIT of 100 ang. -/
def inLane : State :=
  (((State.reset.setFld (SHF_CFG 0) SHF_CFG_EN 1).setShaft 0 { Shaft.init with st := .synced, disp := 196608, fine := 196608, tru := 196608 }).setRg
    (EPH_L_EXIT_LO 2) 100)
theorem test_wit_LaneControl :
    State.reset.laneEn 2 = false ∧ State.reset.shaftEn 0 = false ∧ inLane.awake = true ∧ inLane.laneEn 2 = false ∧ inLane.shaftEn 0 = true ∧
      inLane.rg64 (EPH_L_EXIT_LO 2) = 100 ∧ inLane.rg64 (EPH_L_EXIT_LO 3) = 0 ∧
      (inLane.setFld (EPH_L_CFG 2) EPH_L_CFG_EN 1).laneEn 2 = true := by decide

/-- The same lane enabled, with record 7 on it at 2 ang, and a station 1 at an offset of 0. -/
def inProducts : State :=
  let p : Product := { Product.init with st := .onLane, lane := 2, anchor := 2 }
  (((inLane.setFld (EPH_L_CFG 2) EPH_L_CFG_EN 1).setProd 7 p).setLane 2 { EphLane.init with prods := [7] }).setRg (EPH_ST_CFG 1)
    ((0 : Word).setF EPH_ST_CFG_EN 1 |>.setF EPH_ST_CFG_LANE 2)
theorem test_wit_LanesByThemselves :
    (inProducts.awake = true ∧ inProducts.laneEn 2 = true ∧ inProducts.angValid 0 = true ∧ inProducts.laneShaft 2 = 0 ∧
      (inProducts.shaft 0).dir = false ∧ (inProducts.lane 2).gap = false) ∧
    (let s := (inProducts.setFld (EPH_L_SLOTS 2) EPH_L_SLOTS_SLOTS 4).setLane 2 { EphLane.init with next := some 0 }
     s.slotted 2 = true ∧ (s.slotsDue 2 1).length = 1) ∧
    (let s := inProducts.setFld (EPH_L_CFG 2) EPH_L_CFG_ENTRY 2
     s.lcf 2 EPH_L_CFG_ENTRY = 2 ∧ (s.lane 2).lastSensor = none ∧
       (let t := (s.setLane 2 { EphLane.init with lastSensor := some 1 }).setRg (EPH_L_MIN_GAP 2) 5
        t.lanePhiInt 2 - 1 < (t.rg (EPH_L_MIN_GAP 2)).toNat)) ∧
    (inProducts.stnLane 1 = 2 ∧ inProducts.stnEn 1 = true ∧ FMap.get (fun _ => 0) inProducts.stnTick 1 ≠ inProducts.time + 1 ∧
      (inProducts.lane 2).prods = [] ++ 7 :: [] ∧ (inProducts.prod 7).firedBy 1 = false ∧ inProducts.stnReached 1 (inProducts.prod 7) = true) := by
  decide

/-- The same lane, with a handoff of record 7 of PID 9 in progress, sent once or twice. -/
def inHandoff (resent : Bool) : State :=
  { inProducts with
    handoffs := [{ product := 7, pid := 9, dest := 3, lane := 0, time := 0, since := 0, resent := resent, seqs := [4] }]
    pidsSeen := [0], time := 10000000 }
theorem test_wit_Handoffs :
    ((productOfBytes []).pid ∈ (inHandoff false).pidsSeen ∧ (productOfBytes []).pid ∉ State.reset.pidsSeen ∧
      State.reset.laneEn 2 = false ∧ inProducts.laneEn 2 = true ∧ inProducts.angValid (inProducts.laneShaft 2) = true ∧
      (productOfBytes []).pid ∉ inProducts.pidsSeen ∧ inProducts.takeRecord.isSome = true ∧
      ({ inProducts with prodFresh := 65536 } : State).takeRecord = none ∧
      inProducts.fabNs - (0 : BitVec 64).toInt = 0 ∧
      ¬((inProducts.fld (EPH_L_HO 2) EPH_L_HO_HO_DEADLINE * 1000 : Nat) : Int) < 0 ∧
      ((inProducts.fld (EPH_L_HO 2) EPH_L_HO_HO_DEADLINE * 1000 : Nat) : Int) < inProducts.fabNs - (BitVec.ofInt 64 (-2000000000)).toInt) ∧
    (∀ b, let s := inHandoff b
      s.awake = true ∧ s.standby = false ∧ (∀ h ∈ s.handoffs, h.pid = 9 ∧ h.product = 7 ∧ h.resent = b ∧ 4 ∈ h.seqs ∧
        h.since + s.fld EPH_HO_CFG EPH_HO_CFG_ACK_TO * ticksUs ≤ s.time) ∧ s.handoffs.length = 1) := by decide

theorem test_wit_ProductCommands :
    (let c := head0.record 0x20 2 (List.replicate 8 0)
     let r := inProducts.heard head0 c
     inProducts.takes head0 c = true ∧ State.reset.takes head0 c = true ∧ (State.reset.heard head0 c).laneEn 2 = false ∧
       r.laneEn 2 = true ∧ r.angValid (r.laneShaft 2) = true ∧ r.lanePassed 2 (r.lanePhiInt 2 + (r.laneExit 2 : Nat)) = false ∧
       (r.makeRecord 2 3 0 1 0 0).isSome = true ∧
       (({ inProducts with prodFresh := 65536 } : State).heard head0 c).takeRecord.isNone = true) ∧
    (let c := head0.record 0x20 0x102 (List.replicate 16 0xFF)
     let r := inProducts.heard head0 c
     inProducts.takes head0 c = true ∧ bitOf 0x102 8 = true ∧
       (r.snap 2 (r.lcf 2 EPH_L_CFG_SNAP = 1) (signed 64 (leAt (List.replicate 16 0xFF) 0 8))).1 = -1 ∧ r.lanePassed 2 (-101 + 100) = true) ∧
    (let c := head0.record 0x21 0x70007 (List.replicate 8 0)
     inProducts.takes head0 c = true ∧ ((inProducts.heard head0 c).prod 7).st = .onLane ∧ ((inProducts.heard head0 c).prod 7).pid = 0 ∧
       State.reset.takes head0 c = true ∧ ((State.reset.heard head0 c).prod 7).st ≠ .onLane) ∧
    State.reset.hears head0 (head0.record 0x22 65535 []) = true ∧
    (let c := head0.record 0x23 7 [0, 0, 0, 0]
     inProducts.takes head0 c = true ∧ ((inProducts.heard head0 c).prod 7).st = .onLane ∧ ((inProducts.heard head0 c).prod 7).pid = 0 ∧
       State.reset.takes head0 c = true ∧ ((State.reset.heard head0 c).prod 7).st ≠ .onLane) := by decide

/-- Ring 0 enabled, the composer enabled, and generator 1 enabled. -/
def inComposer : State :=
  ((State.reset.setFld (CMP_RQ_SIZE 0) CMP_RQ_SIZE_EN 1).setFld CMP_CFG CMP_CFG_EN 1).setFld (CMP_SG_CFG 1) CMP_SG_CFG_EN 1
theorem test_wit_ComposerRegisters :
    (State.reset.genEn 0 = false ∧ State.reset.genStart 0 = 0 ∧ bitOf (State.reset.fld JNL_HWM_BAD JNL_HWM_BAD_BAD) 0 = false) ∧
    (let s := (State.reset.setRg (CMP_SG_START_LO 0) 1).setRg (CMP_SG_END_LO 0) 9
     s.genEn 0 = false ∧ bitOf (s.fld JNL_HWM_BAD JNL_HWM_BAD_BAD) 0 = false ∧ s.genStart 0 ≠ 0 ∧ (s.gen 0).hwm < s.genStart 0 ∧
       s.genStart 0 ≤ s.genEnd 0) ∧
    (let s := State.reset.setFld JNL_HWM_BAD JNL_HWM_BAD_BAD 1
     bitOf (s.fld JNL_HWM_BAD JNL_HWM_BAD_BAD) 0 = true ∧ s.genStart 0 < (s.gen 0).hwm + 512) ∧
    inComposer.genEn 1 = true ∧ State.reset.templateOk 0 = false ∧
    (let s := { inComposer with extents := [{ first := 0, count := 8, claim := 0 }] }
     s.rangeHeldBy (s.fld CMP_CFG CMP_CFG_CLAIM) (s.ringBase 1) 8 = true ∧ s.ringEn 1 = false) ∧
    (inComposer.flag CMP_CFG CMP_CFG_EN = true ∧ inComposer.fld CMP_CFG CMP_CFG_DAY_START ≤ 1439 ∧
      (let off := inComposer.wr CMP_CFG CMP_CFG_EN.mask 0
       inComposer.admits (inComposer.plainWrite off).failQueued = true)) := by decide

/-- A job of template 0 in a phase, posted at tick 0 for ring 0. -/
def job0 (p : JobPhase) : Job :=
  { id := 0, trigger := 0, template := 0, block := 0, glyphs := [], now := ⟨0, false⟩, skip := true, shifts := [], batches := [], rlane := 0,
    entry := 0, product := none, classB := true, deadline := 5, promoted := false, phase := p, epoch := 0, flight := none, late := false, byCommand := false,
    grace := 0 }
/-- The composer enabled with template 0 bound, and one job. -/
def inJobs (j : Job) : State := { (inComposer.setFld (CMP_TPL 0) CMP_TPL_VALID 1) with jobs := [j], time := 100000000 }
theorem test_wit_ComposerJobs :
    (let c := head0.record 0x38 0x80 []
     inComposer.hears head0 c = true ∧ codeJobOk 0x80 [] = true ∧ bitOf 0x80 7 = true ∧ bitOf 0x80 6 = false ∧
       (inComposer.heard head0 c).jobState 0 0 = some .state ∧
       ((inJobs (job0 .queued)).heard head0 c).jobState 0 0 = none ∧ (inJobs (job0 .queued)).hears head0 c = true) ∧
    (let c := head0.record 0x38 0xC0 []
     (inJobs (job0 .queued)).hears head0 c = true ∧ codeJobOk 0xC0 [] = true ∧ bitOf 0xC0 6 = true) ∧
    (let c := head0.record 0x38 0x70000 [0, 0, 0, 0]
     State.reset.hears head0 c = true ∧ codeJobOk 0x70000 [0, 0, 0, 0] = true ∧ ((State.reset.heard head0 c).prod 7).st ≠ .onLane ∧
       inProducts.hears head0 c = true ∧ ((inProducts.heard head0 c).prod 7).st = .onLane ∧ ((inProducts.heard head0 c).prod 7).pid = 0 ∧
       (inProducts.heard head0 c).jobState 0 0 = some .state) ∧
    (let s := inJobs (job0 .queued)
     s.awake = true ∧ s.activeJobs.length < 4 ∧ s.nextToStart = some (job0 .queued) ∧ s.jobs[0]? = some (job0 .queued) ∧
       (job0 .queued).deadline ≤ s.time ∧ s.jobBound (job0 .queued) < s.time) ∧
    (let j := job0 (.active none [] [])
     let s := inJobs j
     s.activeJobs[0]? = some j ∧ (s.compose j { blk := 0, head := s.template 0, rec_ := none, serials := [] }).toOption = none) ∧
    (let j := job0 (.active none [1] [])
     let s := (inJobs j).setGen 1 SerialGen.init
     s.activeJobs[0]? = some j ∧ s.needLost [1] = true) ∧
    (let j := { job0 (.active none [] []) with skip := false }
     let s := (inJobs j).setFld (CMP_RQ_SIZE 0) CMP_RQ_SIZE_SIZE 8
     s.activeJobs[0]? = some j ∧ (s.compose j { blk := 0, head := s.template 0, rec_ := none, serials := [] }).toOption = some [] ∧
       s.ringRoom 0 (s.template 0).imageBlocks = true) ∧
    (let s := (inComposer.setGen 1 { SerialGen.init with reserving := some (1, 256) }).setFld (CMP_SG_CFG 1) CMP_SG_CFG_LOW 0
     (s.gen 1).reserving = some (1, 256) ∧ s.fld (CMP_SG_CFG 1) CMP_SG_CFG_LOW ≤ s.genEnd 1 - 256) ∧
    (let s := (inComposer.setGen 1 { SerialGen.init with reserving := some (1, 256) }).setFld (CMP_SG_CFG 1) CMP_SG_CFG_LOW 1
     (s.gen 1).reserving = some (1, 256) ∧ s.genEnd 1 - 256 < s.fld (CMP_SG_CFG 1) CMP_SG_CFG_LOW) := by decide

/-- Raster lane 0 with a profile that passes its checks; its shaft 0 enabled. -/
def inRaster : State :=
  ((((((State.reset.setFld (SHF_CFG 0) SHF_CFG_EN 1).setRg (RAS_PROF0 0) ((0 : Word).setF RAS_PROF0_NOZZLES 1)).setRg (RAS_PROF1 0)
    (((0 : Word).setF RAS_PROF1_STB_W 4).setF RAS_PROF1_MIN_PER 400)).setRg (RAS_PROF2 0)
    ((((0 : Word).setF RAS_PROF2_STALL_TO 1).setF RAS_PROF2_RDY_TO 1).setF RAS_PROF2_HOLD 1)).setRg (RAS_PITCH_LO 0) 0xFFFFFFFF).setRg
    (RAS_PITCH_HI 0) 1)
theorem test_wit_RasterControl :
    (inRaster.awake = true ∧ inRaster.rasEn 0 = false ∧ inRaster.rasCfgOk 0 = true ∧ (2 : Word).getF RAS_CTL_FORCE ≠ 0 ∧
      State.reset.rasCfgOk 0 = false ∧ inRaster.shaftEn 0 = true ∧ inRaster.shaftEn 1 = false ∧
      (let on := inRaster.wr (RAS_CTL 0) 0xFFFFFFFF ((0 : Word).setF RAS_CTL_EN 1)
       let t := (inRaster.plainWrite on).setRas 0 { (inRaster.plainWrite on).ras 0 with rdySince := 0, live := inRaster.driveOn }
       inRaster.admits t = true)) ∧
    (let s := inRaster.setFld (RAS_CTL 0) RAS_CTL_EN 1
     let off := s.wr (RAS_CTL 0) (RAS_CTL_EN.mask ||| RAS_CTL_FORCE.mask) ((0 : Word).setF RAS_CTL_FORCE 1)
     s.rasEn 0 = true ∧ s.admits (((s.plainWrite off).rasTruncate 0).rasDiscard 0) = true) := by decide

/-- The same lane enabled with a code in progress. -/
def inCode (c : Code) : State :=
  { ((inRaster.setFld (RAS_CTL 0) RAS_CTL_EN 1).setRas 0 { RasLane.init with code := some c }) with time := 100000 }
/-- A code of one slot over an image of one block. -/
def code0 : Code :=
  { im := ⟨0, 1, 1, 1, 0⟩, base := 0, product := none, tag := 0, slots := 1, a0 := 0, slot := 0, frameEnd := none, frameFrom := 0,
    lastStrobe := none, angles := [], start := 0, overspeed := false, undriven := true, angLost := false }
theorem test_wit_RasterRuns :
    (let s := inCode code0
     s.awake = true ∧ (s.ras 0).code = some code0 ∧ s.rasReady 0 = false ∧ s.imagePoisoned 0 code0.im = false ∧ s.rasEn 0 = true ∧
       (s.setRas 0 { RasLane.init with code := some code0, rdyPin := true }).rasReady 0 = true) ∧
    (let s := (inCode code0).setShaft 0 { Shaft.init with st := .synced }
     s.rasAngleDue 0 = true) ∧
    (let c := { code0 with angles := [(0, 0)], frameEnd := some 0 }
     let s := inCode c
     (s.ras 0).code = some c ∧ s.rasAngleDue 0 = false ∧ s.rasSetup 0 = 0 ∧ (s.shaft (s.rasShaft 0)).dir = false) ∧
    (let s := inCode { code0 with lastStrobe := some 0 }
     s.rasStallDue 0 = true ∧ s.rasLost 0 = false) ∧
    (inCode { code0 with angLost := true }).rasLost 0 = true ∧
    (let s := { inCode code0 with time := 100000000 }
     s.rasReady 0 = false ∧ (s.ras 0).faulted = false ∧ (s.ras 0).rdySince + s.fld (RAS_PROF2 0) RAS_PROF2_RDY_TO * ticksMs ≤ s.time) ∧
    (let s := State.reset.setRas 0 { RasLane.init with faulted := true }
     true ≠ (s.ras 0).rdyPin ∧ (s.ras 0).rdyAt = 0 ∧ (s.setRas 0 { s.ras 0 with rdyPin := true, rdySince := 0, rdyAt := 1 }).rasReady 0 = true) := by decide

/-- Port 3 enabled in QUAD, with a WRAP of 100. -/
def inPort : State := (State.reset.setRg (FBP_WRAP 3) 100).setFld (FBP_CFG 3) FBP_CFG_EN 1
theorem test_wit_PortControl :
    (State.reset.awake = true ∧ State.reset.portEn 3 = false ∧ State.reset.portWrap 3 ≤ (0xFFFFFF : Word).getF FBP_POS_POS ∧
      (let s := State.reset.setRg (FBP_WRAP 3) 100
       (s.plainWrite (s.wr (FBP_CFG 3) 0xFFFFFFFF ((0 : Word).setF FBP_CFG_EN 1))).portCfgOk 3 = true ∧
       (s.plainWrite (s.wr (FBP_CFG 3) 0xFFFFFFFF ((14 : Word).setF FBP_CFG_EN 1))).portCfgOk 3 = false)) ∧
    (inPort.portEn 3 = true ∧ inPort.portNamed 3 = false ∧ (5 : Word).getF FBP_POS_POS < inPort.portWrap 3 ∧ inPort.portIsMain 3 = false) ∧
    (let s := (inPort.setFld (SHF_CFG 0) SHF_CFG_EN 1).setFld (SHF_CFG 0) SHF_CFG_PORT 3
     s.portNamed 3 = true ∧ s.portIsMain 3 = true) ∧
    (let s := inPort.setFld (FBP_STAT 3) FBP_STAT_PFAULT 1
     s.portFaulted 3 = true ∧ s.fld (FBP_STAT 3) FBP_STAT_LBRK = 0 ∧ s.flag (FBP_SUP_STAT 3) FBP_SUP_STAT_OC = false ∧
       s.isFresh (FBP_STAT 3) FBP_STAT_PFAULT = false ∧ (s.setFld (FBP_STAT 3) FBP_STAT_LBRK 1).fld (FBP_STAT 3) FBP_STAT_LBRK ≠ 0) := by decide

theorem test_wit_PortSupplies :
    (State.reset.awake = true ∧ State.reset.flag (FBP_SUP 3) FBP_SUP_EN = false ∧ (0 : Word).getF FBP_SUP_ILOAD = 0 ∧
      200 < (0xFF00 : Word).getF FBP_SUP_ILOAD ∧ (0x6400 : Word).getF FBP_SUP_ILOAD = 100) ∧
    (let on (v : Word) := State.reset.plainWrite (State.reset.wr (FBP_SUP 3) 0xFFFFFFFF (v.setF FBP_SUP_EN 1))
     State.reset.supDecl + (on 0x6400).supPower 3 ≤ State.reset.fld FBP_SUP_BUDGET FBP_SUP_BUDGET_ALLOW ∧
     (State.reset.setFld FBP_SUP_BUDGET FBP_SUP_BUDGET_ALLOW 0).fld FBP_SUP_BUDGET FBP_SUP_BUDGET_ALLOW <
       State.reset.supDecl + (on 0x6400).supPower 3) ∧
    (let s := (inPort.setFld (FBP_SUP 3) FBP_SUP_EN 1).setFlag (FBP_SUP_STAT 3) FBP_SUP_STAT_ON true
     s.flag (FBP_SUP 3) FBP_SUP_EN = true ∧ s.supOn 3 = true ∧ s.fld (FBP_SUP 3) FBP_SUP_ILOAD + 20 < (65535 : BitVec 16).toNat) ∧
    ((State.reset.setPort 3 { State.reset.port 3 with settleEnd := some 0 }).port 3).settleEnd = some 0 ∧
    (let s := inPort.setFld (FBP_CFG 3) FBP_CFG_LBCHK 8
     s.portEn 3 = true ∧ s.settling 3 = false ∧ bitOf (s.fld (FBP_CFG 3) FBP_CFG_LBCHK) 3 = true) := by decide

/-- Port 3 enabled in SSI with frames of 13 bits, one in progress. -/
def inSerial (deliver : Bool) : State :=
  ((inPort.setFld (FBP_CFG 3) FBP_CFG_MODE 5).setFld (FBP_SER_CFG 3) FBP_SER_CFG_BITS 13).setPort 3
    { State.reset.port 3 with nextFrame := some 0, frame := some (0, deliver) }
/-- Port 3 enabled with its emulation on and a backlog. -/
def inEmu (form state : Nat) (backlog : Int) : State :=
  ((inPort.setFld (FBP_EMU_CFG 3) FBP_EMU_CFG_EMU_EN 1).setFld (FBP_EMU_CFG 3) FBP_EMU_CFG_FORM form).setPort 3
    { State.reset.port 3 with backlog := backlog, emuNext := 0, emuState := state }
theorem test_wit_PortCounting :
    ((State.reset.setPort 3 { State.reset.port 3 with settleEnd := some 9 }).settling 3 = true ∧ State.reset.settling 3 = false ∧
      State.reset.portEn 3 = false ∧ inPort.settling 3 = false ∧ inPort.portEn 3 = true ∧ inPort.awake = true) ∧
    (∀ b, let s := inSerial b
      s.portEn 3 = true ∧ s.portSerial 3 = true ∧ s.settling 3 = false ∧ 0 + 2 * s.fld (FBP_SER_CLK 3) FBP_SER_CLK_HALF * s.framePeriods 3 ⟨false, true, 5, false, true, true, 0, 0⟩ ≤ s.time ∧
        s.time < 0 + 2 * (s.setFld (FBP_SER_CLK 3) FBP_SER_CLK_HALF 25).fld (FBP_SER_CLK 3) FBP_SER_CLK_HALF * s.framePeriods 3 ⟨true, true, 5, false, true, true, 0, 0⟩ ∧ (s.port 3).nextFrame = some 0 ∧ (s.port 3).frame = some (0, b) ∧
        s.serFails 3 ⟨true, true, 5, false, true, true, 0, 0⟩ = none ∧ s.serFails 3 ⟨false, true, 5, false, true, true, 0, 0⟩ = some 6) ∧
    (let s := (State.reset.setFld (FBP_EMU_RATIO 3) FBP_EMU_RATIO_MUL 1).setFld (FBP_EMU_RATIO 3) FBP_EMU_RATIO_DIV 2
     s.flag (FBP_EMU_CFG 3) FBP_EMU_CFG_EMU_EN = false ∧ 16 ≤ (0x1000 : Word).getF FBP_EMU_CFG_MINP ∧
       0 < s.fld (FBP_EMU_RATIO 3) FBP_EMU_RATIO_MUL ∧ s.fld (FBP_EMU_RATIO 3) FBP_EMU_RATIO_MUL ≤ s.fld (FBP_EMU_RATIO 3) FBP_EMU_RATIO_DIV ∧
       (0 : Word).getF FBP_EMU_CFG_MINP < 16) ∧
    ((inEmu 0 3 2).emuDue 3 = true ∧ (inEmu 0 3 2).emuPulse 3 = false ∧ (inEmu 1 1 2).emuDue 3 = true ∧ (inEmu 1 1 2).emuPulse 3 = true ∧
      (inEmu 1 0 (-2)).emuDue 3 = true ∧ ((inEmu 1 0 (-2)).port 3).emuDir = false ∧ (inEmu 1 0 2).emuDue 3 = true) := by decide

/-- Cell 5 enabled, counting up or down, with a PERIOD of 9, at a count; a restart and a match may be due. -/
def inCell (dir count : Nat) (x : Cell) : State :=
  (((((State.reset.setFld (TMC_CFG 5) TMC_CFG_EN 1).setFld (TMC_CFG 5) TMC_CFG_DIR dir).setFld (TMC_CFG 5) TMC_CFG_MODE 1).setRg (TMC_PERIOD 5)
    9).setRg (TMC_COUNT 5) (BitVec.ofNat 32 count)).setCell 5 x
theorem test_wit_CellSteps :
    (∀ d ∈ [0, 1], ∀ c ∈ [0, 5, 9],
      let s := inCell d c Cell.init
      s.awake = true ∧ s.cellEn 5 = true ∧ s.cellCfg 5 TMC_CFG_CLK = 0 ∧ (s.cell 5).next ≤ s.time ∧ (s.cell 5).cutAt = none ∧
        (s.cell 5).cutTick ≠ some s.time ∧ s.cellCfg 5 TMC_CFG_DIR = d ∧ s.cellCount 5 = c ∧ s.cellPeriod 5 = 9 ∧
        s.cellCascade 6 = false ∧ (s.setFld (TMC_CFG 6) TMC_CFG_CLK 1).cellCascade 6 = true) ∧
    (let s := inCell 0 5 { Cell.init with cutAt := some 0, matchAt := some 0 }
     (s.cell 5).cutAt = some 0 ∧ (s.cell 5).matchAt = some 0 ∧ 0 ≤ s.time ∧ (s.cell 5).cutTick ≠ some s.time) ∧
    ((inCell 0 5 { Cell.init with cutTick := some 0 }).cell 5).cutTick = some 0 ∧
    State.reset.cellEn 5 = false ∧ ({ State.reset with power := .watch } : State).awake = false := by decide

/-- Cell 5 enabled, with a full queue of captures, and a capture asked for. -/
def inCells : State := (State.reset.setFld (TMC_CFG 5) TMC_CFG_EN 1).setCell 5 { Cell.init with capQ := [1, 2, 3, 4], capReq := true }
theorem test_wit_CellRegisters :
    (let s := State.reset
     let v : Word := (0 : Word).setF TMC_CFG_CLK 1
     s.awake = true ∧ s.fld (TMC_CFG 5) TMC_CFG_EN ≠ 1 ∧ 2 ≤ ((0 : Word).setF TMC_CFG_MODE 2).getF TMC_CFG_MODE ∧ v.getF TMC_CFG_CLK = 1 ∧
     ((0 : Word).getF TMC_CFG_MODE < 2 ∧ (0 : Word).getF TMC_CFG_CLK = 0) ∧ ¬s.fld (TMC_CFG 5) TMC_CFG_UPD = 1 ∧ s.cellEn 5 = false ∧
     (s.cell 5).capReq = false ∧ s.cellOutside 5 = false) ∧
    (let s := (State.reset.setFld (TMC_CFG 5) TMC_CFG_EN 1).setCell 5 { Cell.init with capReq := true }
     s.fld (TMC_CFG 5) TMC_CFG_EN = 1 ∧ s.cellEn 5 = true ∧ (s.cell 5).capReq = true ∧ (s.cell 5).capQ.length < 4) ∧
    (let s := (((State.reset.setFld (TMC_CFG 5) TMC_CFG_MODE 1).setFld (TMC_CFG 5) TMC_CFG_CMP_EN 1).setRg (TMC_COUNT 5) 9).setRg (TMC_PERIOD 5) 9
     s.cellOutside 5 = true ∧ s.cellCfg 5 TMC_CFG_CMP_EN = 1 ∧ s.cellHasPassed 5 = true ∧
     (s.setRg (TMC_COMPARE 5) 10).cellHasPassed 5 = false ∧ (s.rg (TMC_CFG 5)).getF TMC_CFG_CMP_EN = 1 ∧
     (s.rg (TMC_CFG 5)).getF TMC_CFG_EN ≠ 1 ∧ ((s.rg (TMC_CFG 5)).setF TMC_CFG_EN 1).getF TMC_CFG_EN = 1) ∧
    (inCells.cellEn 5 = true ∧ inCells.fld (TMC_CFG 5) TMC_CFG_CLK ≠ 1 ∧ (inCells.cell 5).capReq = true ∧ 4 ≤ (inCells.cell 5).capQ.length ∧
     (let s := inCells.setFld (TMC_CFG 5) TMC_CFG_UPD 1; s.fld (TMC_CFG 5) TMC_CFG_UPD = 1) ∧
     (let s := inCells.setFld (TMC_CFG 0) TMC_CFG_EN 1; (s.setFld (TMC_CFG 0) TMC_CFG_CLK 1).fld (TMC_CFG 0) TMC_CFG_CLK = 1)) ∧
    (State.reset.hears head0 (head0.record 0x05 (TMC_CFG 5) []) = true ∧ TMC_CFG 5 < 2 ^ 24 ∧ blockOf (TMC_CFG 5) = some .tmc ∧
      (regAt (TMC_CFG 5)).map (fun x => x.2.1) = some 5) := by decide

/-- Generator 3 enabled with a period of 100, its count 40, locked to shaft 0, which stands at angle 100 synchronised. -/
def inPwm : State :=
  (((((State.reset.setRg (PWM_PERIOD 3) 100).setFld (PWM_CFG 3) PWM_CFG_EN 1).setRg (PWM_LOCK_PITCH 3) 10).setFld (PWM_LOCK 3)
    PWM_LOCK_LOCK_EN 1).setShaft 0 { Shaft.init with st := .synced, fine := 100 * 65536 }).setPwm 3
    { Pwm.init with count := 40, bndDue := true, midDue := true, cutAt := some 0, adcAt := some 0 }
theorem test_wit_PwmPeriods :
    (let x := inPwm.pwm 3
     inPwm.awake = true ∧ x.bndDue = true ∧ x.midDue = true ∧ (∃ a, x.cutAt = some a ∧ a ≤ inPwm.time) ∧ (∃ a, x.adcAt = some a ∧ a ≤ inPwm.time) ∧
     inPwm.pwmEn 3 = true ∧ x.resyncTick ≠ some inPwm.time ∧ x.lockK = none) ∧
    ((inPwm.setPwm 3 { inPwm.pwm 3 with resyncTick := some 0 }).pwm 3).resyncTick = some inPwm.time ∧
    (State.reset.pwmEn 3 = false ∧ State.reset.pwmCfgOk 3 ((0 : Word).setF PWM_CFG_EN 1) = false ∧
      (let s := State.reset.setRg (PWM_PERIOD 3) 100
       s.pwmEn 3 = false ∧ s.pwmCfgOk 3 (s.wr (PWM_CFG 3) 0xFFFFFFFF ((0 : Word).setF PWM_CFG_EN 1)).new = true)) :=
  ⟨⟨by decide, by decide, by decide, ⟨0, by decide⟩, ⟨0, by decide⟩, by decide, by decide, by decide⟩, by decide, by decide⟩
theorem test_wit_PwmPeriods_lock :
    let s := inPwm.setFld (SHF_CFG 0) SHF_CFG_EN 1
    let k (i : Int) := s.setPwm 3 { s.pwm 3 with lockK := some i }
    s.pwmLocks 3 = true ∧ (k 3).pwmLocks 3 = true ∧ 3 < (k 3).pwmLattice 3 ∧ ((k 3).pwm 3).resyncTick ≠ some (k 3).time ∧
      (k 10).pwmLattice 3 ≤ 10 := by decide

/-- Generator 3 enabled: PERIOD 100, DUTY 50, MINPULSE 10, its H output asked for in this tick. -/
def inPulse : State :=
  ((((State.reset.setRg (PWM_PERIOD 3) 100).setRg (PWM_DUTY 3) 50).setFld (PWM_CFG 3) PWM_CFG_EN 1).setFld (PWM_MINP 3) PWM_MINP_MINPULSE 10).setPwm 3
    { Pwm.init with count := 10, ref := true, rose := true, h := { Pwm.init.h with startAt := some 0, holdEnd := some 0 } }
theorem test_wit_PwmOutputsAndTrips :
    (let x := inPulse.pwm 3
     let low (c : Nat) (k : Bool) : State := inPulse.setPwm 3 { x with count := c, h := { x.h with stretched := k } }
     inPulse.awake = true ∧ inPulse.pwmEn 3 = true ∧ ((low 60 false).pwmFalls 3 = true ∧ x.fell = false ∧ x.ref = true ∧ (x.out false).lastEnd + inPulse.pwmDead 3 true ≤ inPulse.time) ∧
     ((inPulse.setPwm 3 { x with ref := false, rose := false }).pwmRises 3 = true) ∧
     ((x.out true).startAt = some 0 ∧ (x.out false).active = false ∧ (x.out true).holdEnd = some 0) ∧
     (((low 10 true).pwm 3).out true).stretched = true ∧ inPulse.pwmLength 3 true = some 40 ∧ inPulse.pwmMin 3 = 10 ∧
     (low 45 false).pwmLength 3 true = some 5 ∧ ((low 45 false).setFld (PWM_CFG 3) PWM_CFG_SHORT 1).pwmCfg 3 PWM_CFG_SHORT = 1) ∧
    (let s := State.reset
     (s.trip 2).active = (false != s.flag (PWM_TRIP_CFG 2) PWM_TRIP_CFG_POL) ∧ (s.trip 2).active ≠ (true != s.flag (PWM_TRIP_CFG 2) PWM_TRIP_CFG_POL) ∧
     (let t := s.setTrip 2 { active := true, since := 0 }; (t.trip 2).active ≠ (false != t.flag (PWM_TRIP_CFG 2) PWM_TRIP_CFG_POL))) ∧
    (let s := inPulse.setPwm 3 { inPulse.pwm 3 with blanking := true }
     let t := (s.setTrip 2 { active := true, since := 0 }).setFld (PWM_CFG 3) PWM_CFG_TRIP_MASK 4
     (s.pwm 3).blankEnd ≤ s.time ∧ (s.pwm 3).blanking = true ∧ inPulse.trips = [] ∧ (inPulse.pwm 3).blanking = false ∧ s.pwmTripActive 3 = 0 ∧ t.pwmTripActive 3 = 4 ∧ t.pwmTripped 3 = false ∧
     (t.setFlag (PWM_STAT 3) PWM_STAT_TRIP_STICKY true).pwmTripped 3 = true) := by decide

/-- Line 20 an output of bank 1 that drives, with the supply and the enable of the bank present. -/
def inField : State :=
  let t := (State.reset.setFld (FIO_BANK_STAT 1) FIO_BANK_STAT_BS_OK 1).setFld (FIO_BANK_STAT 1) FIO_BANK_STAT_BANK_EN 1
  ((t.setFld (FIO_EL_CFG 20) FIO_EL_CFG_DIR 1).setFlag GLB_STATUS GLB_STATUS_OUT_PERMIT true).setFlag GLB_CTL GLB_CTL_OUT_EN true
theorem test_wit_FieldLines :
    (let s := inField
     s.awake = true ∧ FMap.get (fun _ => 0) s.lineAt 21 = 0 ∧ s.flag (FIO_BANK_STAT 1) FIO_BANK_STAT_BS_OK = true ∧ s.flag (FIO_BANK_STAT 1) FIO_BANK_STAT_BANK_EN = true ∧
     s.driven (outLine 20) = true ∧ (s.out (outLine 20)).hold = false ∧ s.line 21 = false ∧ (true != s.flag (FIO_EL_CFG 21) FIO_EL_CFG_POL) = true ∧ (false != s.flag (FIO_EL_CFG 21) FIO_EL_CFG_POL) = false) ∧
    (let s := State.reset
     (s.setFld (FIO_BANK_STAT 1) FIO_BANK_STAT_BS_OK 0).flag (FIO_BANK_STAT 1) FIO_BANK_STAT_BS_OK = false ∧
     (s.setFld (FIO_BANK_STAT 1) FIO_BANK_STAT_BANK_EN 0).flag (FIO_BANK_STAT 1) FIO_BANK_STAT_BANK_EN = false ∧ s.driven (outLine 20) = false ∧
     FMap.get (fun _ => 0) ({ (s.setFld (FIO_EL_CFG 21) FIO_EL_CFG_FILT 9) with lineAt := [(21, 1)] } : State).lineAt 21 = 1) := by decide

/-- Chain 1 of 16 positions running, its pattern checked. -/
def inChain : State :=
  (((State.reset.setFld (FIO_CH_CFG 1) FIO_CH_CFG_LEN 16).setFld (FIO_CH_CFG 1) FIO_CH_CFG_EN 1).setFld (FIO_CH_CFG 1) FIO_CH_CFG_CHK_EN 1).setChain 1
    { Chain.init with running := true, count := 1, bad := 2 }
theorem test_wit_ExpanderChains :
    (let x := inChain.chain 1
     inChain.awake = true ∧ x.nextFrame ≤ inChain.time ∧ x.stopping = false ∧ x.running = true ∧ 2 ≤ x.bad ∧ x.snapDue = false ∧
     ((inChain.setChain 1 { x with snapDue := true }).chain 1).snapDue = true ∧
     inChain.flag (FIO_CH_CFG 1) FIO_CH_CFG_CHK_EN = true ∧ inChain.flag (FIO_CH_CFG 1) FIO_CH_CFG_EN = true ∧
     0xFFFF / 2 ^ (inChain.chainLen 1 - 8) % 256 ≠ inChain.fld (FIO_CH_FILT 1) FIO_CH_FILT_CHK_PAT) ∧
    (let s := State.reset
     let w (n : Nat) := (s.wr (FIO_CH_CFG 1) 0xFFFFFFFF (((0 : Word).setF FIO_CH_CFG_LEN n).setF FIO_CH_CFG_EN 1)).new
     s.flag (FIO_CH_CFG 1) FIO_CH_CFG_EN = false ∧ s.chainCfgOk 1 (w 7) = false ∧
     (s.setFld (FIO_CH_PER 1) FIO_CH_PER_PER 512).chainCfgOk 1 (w 16) = true ∧ (s.chain 1).running = false ∧ (s.chain 1).stopping = false) ∧
    ((inChain.setChain 1 { inChain.chain 1 with stopping := true }).chain 1).stopping = true := by decide

/-- Converter 2 enabled, one regular step of input 5, its sequences in given phases. -/
def inAdc (r i : AdcPhase) : State :=
  (State.reset.setFld (ADC_C_CFG 2) ADC_C_CFG_EN 1).setAdc 2
    { Adc.init with reg := { Adc.init.reg with phase := r }, inj := { Adc.init.inj with phase := i } }
theorem test_wit_AdcSequences :
    (let s := inAdc .idle .idle
     s.awake = true ∧ s.adcBusy 2 true = false ∧ s.adcBusy 2 false = false ∧ s.adcEn 2 = true ∧ State.reset.adcEn 2 = false ∧
     (inAdc .held .idle).adcBusy 2 false = true ∧ (s.adc 2).wait = [] ∧ (s.adc 2).reg.trigAt ≠ some s.time ∧ (s.adc 2).reg.doneAt ≠ some s.time ∧
     (let u := s.setAdcSeq 2 true { (s.adc 2).inj with trigAt := some 0, doneAt := some 0 }
      ((u.adc 2).seq true).trigAt = some u.time ∧ ((u.adc 2).seq true).doneAt = some u.time)) ∧
    (let s := inAdc (.delayed 0) .idle
     ((inAdc (.delayed 0) (.acquiring 9)).adc 2).inj.stepping = true ∧ (s.adc 2).inj.stepping = false ∧ (s.adc 2).tail = none ∧ s.adcHeld 2 = false ∧
     ((s.setFld ADC_HOLD ADC_HOLD_HOLD 4).setFld (ADC_C_REG 2) ADC_C_REG_CLASS 1).adcHeld 2 = true ∧
     ((s.setFld ADC_HOLD ADC_HOLD_HOLD 4).setFld (ADC_C_REG 2) ADC_C_REG_CLASS 2).adcHeld 2 = true ∧
     ((s.setFld (ADC_C_REG 2) ADC_C_REG_CLASS 2).fld (ADC_C_REG 2) ADC_C_REG_CLASS ≠ 1)) ∧
    (let s := inAdc (.converting 9) (.delayed 0)
     (s.setFlag (ADC_C_CFG 2) ADC_C_CFG_INJ_ABORT false).flag (ADC_C_CFG 2) ADC_C_CFG_INJ_ABORT = false ∧ ((inAdc (.acquiring 9) (.delayed 0)).setFlag (ADC_C_CFG 2) ADC_C_CFG_INJ_ABORT true).flag
       (ADC_C_CFG 2) ADC_C_CFG_INJ_ABORT = true ∧ ((inAdc .idle (.delayed 0)).adc 2).reg.stepping = false ∧ s.time < 9 ∧
     9 ≠ s.time + (s.adcStep 2 false 0).1) ∧
    (let s := inAdc (.converting 0) .waiting
     ((inAdc (.acquiring 0) .idle).adc 2).seq false ≠ Adc.init.reg ∧ s.adcLen 2 false ≤ ((s.adc 2).seq false).step ∧
     (s.setFld (ADC_C_REG 2) ADC_C_REG_LEN 3).adcLen 2 false = 3 ∧ s.adcTailDue 2 false = false ∧
     (let u := s.setAdc 2 { s.adc 2 with tail := some (0, Adc.init.reg.sample) }
      (u.adc 2).tail = some (0, Adc.init.reg.sample) ∧ Adc.init.reg.sample.inj = false)) ∧
    (let s := (inAdc .held .idle).setFld (ADC_C_REG 2) ADC_C_REG_CLASS 1
     (s.adc 2).reg.phase = .held ∧ s.fld (ADC_C_REG 2) ADC_C_REG_CLASS = 1 ∧
     s.time < (s.adc 2).reg.trigTick + s.fld (ADC_C_REG_DLY 2) ADC_C_REG_DLY_DEADLINE * ticksUs ∧
     (let u := s.setRg (ADC_C_REG_DLY 2) 0; (u.adc 2).reg.trigTick + u.fld (ADC_C_REG_DLY 2) ADC_C_REG_DLY_DEADLINE * ticksUs ≤ u.time)) := by decide

theorem test_wit_AdcRegisters :
    (let s := State.reset
     let t := ((s.setRg (ADC_C_RSTEP 2 0) 0).setFld (ADC_C_RSTEP 2 0) ADC_C_RSTEP_ACQ 50).setFld (ADC_C_ISTEP 2 0) ADC_C_ISTEP_ACQ 50
     let w (u : State) := u.wr (ADC_C_CFG 2) 0xFFFFFFFF ((0 : Word).setF ADC_C_CFG_EN 1)
     s.awake = true ∧ s.adcEn 2 = false ∧ s.adcCfgOk 2 (s.wr (ADC_C_CFG 2) 0xFFFFFFFF (((0 : Word).setF ADC_C_CFG_DMA_EN 1).setF ADC_C_CFG_EN 1)).new = false ∧
     t.adcCfgOk 2 (w t).new = true ∧ t.admits (t.plainWrite (w t)) = true ∧
     (let u := (t.setFld PWR_BUDGET PWR_BUDGET_USE 0).setFld (ADC_C_REG 2) ADC_C_REG_CLASS 0
      u.adcCfgOk 2 (w u).new = true ∧ u.admits (u.plainWrite (w u)) = false)) ∧
    (let s := inAdc .idle .idle
     let off := s.plainWrite (s.wr (ADC_C_CFG 2) ADC_C_CFG_EN.mask 0)
     s.adcEn 2 = true ∧ s.admits ((((off.adcStopSeq 2 false).adcStopSeq 2 true).setFlag (ADC_C_STAT 2) ADC_C_STAT_HELD false).setFlag (ADC_C_CFG 2)
       ADC_C_CFG_EN false) = true) := by decide

theorem test_wit_PoolCommands :
    (let c := head0.record 0x32 (5 + 256 * 0) (wordBody [4, 9])
     State.reset.takes head0 c = true ∧ (State.reset.heard head0 c).unreserved = 131072 ∧ (State.reset.heard head0 c).held 5 ≤ 9 ∧
     (let s := { State.reset with extents := [{ first := 0, count := 131072, claim := 7 }] }
      s.takes head0 c = true ∧ (s.heard head0 c).reserve 5 < 4 ∧ (s.heard head0 c).unreserved = 0) ∧
     (let s := { State.reset with extents := [{ first := 0, count := 10, claim := 5 }] }
      s.takes head0 c = true ∧ 9 < (s.heard head0 c).held 5)) ∧
    (let c := head0.record 0x32 (5 + 256 * 1) (wordBody [4])
     let s := State.reset.setFld (POL_CL_QUOTA 5) POL_CL_QUOTA_QUOTA 9
     s.takes head0 c = true ∧ (s.heard head0 c).allocAdmits 5 4 = true ∧ lowestRun 4 0 (s.heard head0 c).extents = some 0 ∧
     ((State.reset.setFld (POL_CL_QUOTA 5) POL_CL_QUOTA_QUOTA 0).heard head0 c).allocAdmits 5 4 = false ∧
     lowestRun 4 0 [{ first := 0, count := 131072, claim := 7 }] = none) ∧
    (let c := head0.record 0x32 (5 + 256 * 2) (wordBody [4, 2])
     let s := { State.reset with extents := [{ first := 0, count := 10, claim := 5 }] }
     s.takes head0 c = true ∧ (s.heard head0 c).rangeHeldBy 5 4 2 = true ∧ (s.heard head0 c).meetsRing 4 2 = false ∧
     (State.reset.heard head0 c).rangeHeldBy 5 4 2 = false) ∧
    (let c := head0.record 0x30 64 (List.replicate 8 1)
     let s := { State.reset with extents := [{ first := 0, count := 10, claim := 5 }] }
     s.takes head0 c = true ∧ (s.heard head0 c).rangeHasFree 0 1 = false ∧ (State.reset.heard head0 c).rangeHasFree 0 1 = true ∧ blocksOf 64 8 = (0, 1)) ∧
    (let c := head0.record 0x31 64 (wordBody [8])
     let s := { State.reset with extents := [{ first := 0, count := 10, claim := 5 }] }
     s.hears head0 c = true ∧ poolRangeOk 64 8 = true ∧ poolRangeOk 64 7 = false ∧ (s.heard head0 c).rangePoisoned 64 8 = false ∧
     ({ s with poison := [(8, true)] }.heard head0 c).rangePoisoned 64 8 = true) ∧ State.reset.awake = true := by decide

/-- The descriptor in hand of a running channel: 32 bytes from pool byte 0 to 4096, in bursts of 16. -/
def inDesc (req : Bool) : DmaDesc :=
  { src := 0, dst := 4096, len := 32, srcMode := 0, dstMode := 0, burst := 16, ntf := false, req := req, next := 0xFFFFFFFF }
/-- Channel 4 RUNNING with it; claim 0 holds the first blocks. -/
def inDma (d : Option DmaDesc) : State :=
  { ((State.reset.setFld (DMA_STAT 4) DMA_STAT_STATUS 1).setDma 4 { Dma.init with desc := d }) with
    extents := [{ first := 0, count := 10, claim := 0 }] }
theorem test_wit_DmaRuns :
    (State.reset.awake = true ∧ State.reset.dmaRuns 4 = false ∧ ((0 : Word).setF DMA_CTL_CRC_SEL 3).getF DMA_CTL_CRC_SEL = 3 ∧
      (0 : Word).getF DMA_CTL_CRC_SEL ≠ 3) ∧
    ((inDma none).dmaRuns 4 = true ∧ ((inDma (some (inDesc false))).dma 4).desc = some (inDesc false) ∧ (inDesc false).req = false ∧
      ((inDma (some (inDesc true))).dma 4).desc = some (inDesc true) ∧ (inDesc true).req = true ∧ (inDma (some (inDesc true))).dmaRequest 4 = false) ∧
    (((inDma none).dma 4).desc = none ∧ (((inDma none).dmaLoad 4).dma 4).desc = none ∧
      (let s : State := { inDma none with pool := memWriteAll [] 0 ([0, 1, 0, 0, 0, 2, 0, 0, 16, 0, 0, 0] ++ [0, 0, 0, 0, 255, 255, 255, 255] ++ List.replicate 12 0) }
       ((s.dmaLoad 4).dma 4).desc.isSome = true)) ∧
    (let s := inDma (some (inDesc false))
     let d := inDesc false
     dmaIsReg d.src = false ∧ s.dmaPoolOk 4 d.src 0 0 16 = true ∧ s.dmaPoisoned d.src 0 0 16 = false ∧ s.dmaPoolOk 4 d.dst 0 0 16 = true ∧
     0 + Nat.min d.burst (d.len - 0) < d.len ∧ ({ s with extents := [] } : State).dmaPoolOk 4 d.src 0 0 16 = false ∧
     ({ s with poison := [(1, true)] } : State).dmaPoisoned d.src 0 0 16 = true) := by decide

theorem test_wit_HostRegisters :
    (let s := State.reset
     s.hears head0 (head0.record 0x02 GLB_ADDR (leBytes 4 4)) = true ∧ rangeCheck GLB_ADDR 4 = .ok ∧ rangeCheck GLB_ADDR 3 ≠ .ok ∧
     s.takes head0 (head0.record 0x03 GLB_ADDR (leBytes 4 7)) = true ∧
     s.takes head0 (head0.record 0x04 GLB_ADDR (leBytes 4 0xFFFF ++ leBytes 4 7)) = true) ∧
    (let c := head0.record 0x72 1 []
     let s := State.reset
     s.hears head0 c = true ∧ s.hears head0 (head0.record 0x72 0 []) = true ∧ s.hears head0 (head0.record 0x72 2 []) = true ∧
     (s.heard head0 c).ready = false ∧
     (let u := (s.setFlag GLB_STATUS GLB_STATUS_HOLD_OK true).setFlag GLB_STATUS GLB_STATUS_READY true
      u.hears head0 c = true ∧ (u.heard head0 c).flag GLB_STATUS GLB_STATUS_HOLD_OK = true ∧ (u.heard head0 c).ready = true ∧
      (u.heard head0 c).flag GLB_STATUS GLB_STATUS_SAFE = false ∧ (u.heard head0 c).standby = false)) ∧
    (let s := State.reset
     s.awake = true ∧ addrCheck GLB_ADDR = .ok ∧ addrCheck 0xFFFFFF ≠ .ok ∧ addrOk 0xFFFFFF = false ∧ addrOk GLB_ADDR = true ∧
     busMayWrite GLB_ADDR = false ∧ addrOk (TMC_CFG 5) = true ∧ busMayWrite (TMC_CFG 5) = true ∧ s.addrLocked = false ∧
     (s.setFlag GLB_ADDR GLB_ADDR_LOCKED true).addrLocked = true ∧ (0 : Word).getF GLB_ADDR_ADDR = 0 ∧ (7 : Word).getF GLB_ADDR_ADDR = 7) := by decide

/-- A flight of an ORDERED command of session 0. -/
def chained (hold : Hold) (id : Nat) : Flight := { id := id, session := 0, dest := 0x00FB, cmd := { head0.record 0x01 0 [] with ordered := true }, hold := hold, mute := false }
/-- A state with such a flight, and a reply held for a millisecond. -/
def inFlight (hold : Hold) (broken : Bool) : State :=
  { (State.reset.setSess 0 { Session.init with broken := broken, replies := [{ tag := 0, bytes := [1], credit := 1, dest := 0x00FB, tc := 0, tick := 0, src := 1, release := false, permit := none }] }) with
    flights := [chained hold 0], time := 250000 }
theorem test_wit_HostSessions :
    (let s := State.reset
     s.hears head0 (head0.record 0x01 4 []) = true ∧ s.hears head0 (head0.record 0x01 3 []) = true ∧
     (let g : CmdHead := { head0 with ordered := true }
      s.hears g (g.record 0x01 2 []) = true ∧ (s.setSess 0 { Session.init with broken := true }).hears g (g.record 0x01 2 []) = true) ∧
     s.hears head0 (head0.record 0x06 0 []) = true ∧ s.hears head0 (head0.record 0x06 1 []) = true ∧ s.fenceDue 0 = none ∧ s.chainNext 0 = none ∧
     s.replyDue 0 = false) ∧
    ((inFlight (.fence 0) false).fenceDue 0 = some (chained (.fence 0) 0) ∧ (inFlight (.fence 0) false).awake = true ∧
     (inFlight (.fence 0) false).replyDue 0 = true) ∧
    (let f := chained .chain 0
     (inFlight .chain true).chainNext 0 = some f ∧ (inFlight .chain false).chainNext 0 = some f ∧ f.cmd.resetsChain = false ∧ f.cmd.ordered = true ∧
     f.cmd.txnFlag = false ∧ ((inFlight .chain true).sess 0).broken = true ∧ ((inFlight .chain false).sess 0).broken = false ∧
     (inFlight .chain false).recordCheck 0 f.cmd = .ok ∧ ({ inFlight .chain false with boot := { State.reset.boot with validA := false, validB := false } } : State).recordCheck 0 f.cmd ≠ .ok) ∧
    ((9 : BitVec 8).toNat = 9 ∧ (7 : BitVec 8).toNat < 8) := by decide

theorem test_wit_RecordRefusals :
    (let c := head0.record 0x03 GLB_ADDR (leBytes 4 7)
     let own (x : Session) : State := State.reset.setSess 0 x
     let mine : Session := { Session.init with owner := some 0x00FB }
     ({ State.reset with power := .watch } : State).deaf = true ∧ State.reset.deaf = false ∧
     (own { Session.init with owner := some 9 }).deaf = false ∧ (9 : Nat) ≠ head0.src.toNat ∧
     ((own { mine with credits := 0 }).sess 0).credits = 0 ∧ ((own mine).sess 0).owner = some head0.src.toNat ∧ ((own mine).sess 0).credits ≠ 0 ∧
     ({ own mine with flights := [chained (.fence 0) 0] } : State).tagInFlight 0 c.tag = true ∧
     ({ own mine with flights := [{ chained .power 0 with session := 5 }] } : State).powerWaits = true ∧
     ((own mine).tagInFlight 0 c.tag = false ∧ (own mine).powerWaits = false ∧ c.ordered = false ∧
      ({ own mine with boot := { State.reset.boot with validA := false, validB := false } } : State).recordCheck 0 c ≠ .ok)) ∧
    (let c := head0.record 0x03 0xFFFFFF (leBytes 4 7)
     State.reset.hears head0 c = true ∧ c.alone ≠ .ok) ∧
    (let c := head0.record 0x03 (DMA_DESC 4) (leBytes 4 0)
     let s : State := { State.reset with txns := [{ id := 1, session := 1, phase := .opened, staged := [], lastTick := 0, point := { kind := 0, param := 0, limit := 0, value := 0 }, deadline := 0, coord := 0, since := 0, locks := c.units, demand := 0, reached := none }] }
     s.hears head0 c = true ∧ c.alone = .ok ∧ (s.heard head0 c).lockedFor c = true) := by decide

/-- A pending transaction of session 1. -/
def pendTxn : Txn :=
  { id := 1, session := 1, phase := .pending, staged := [], lastTick := 0, point := { kind := 0, param := 0, limit := 0, value := 0 }
    deadline := 0, coord := 0, since := 0, locks := [], demand := 0, reached := none }
set_option maxRecDepth 100000 in
theorem test_wit_ResetsAndPowerStates :
    (let s := State.reset
     let c := head0.record 0x70 0xA5C30001 []
     s.hears head0 (head0.record 0x70 7 []) = true ∧ s.hears head0 c = true ∧ (s.heard head0 c).resetIgnored = false ∧
     ({ s.heard head0 c with shutdown := true } : State).resetIgnored = true) ∧
    (let s := State.reset
     let c := head0.record 0x71 1 []
     s.hears head0 (head0.record 0x71 0 []) = true ∧ s.hears head0 c = true ∧ (s.heard head0 c).dozeRefused = false ∧
     (inBluRun.heard head0 c).dozeRefused = true) ∧
    (let s := State.reset
     let v (t : State) (k : Nat) : State := { t.heard head0 (head0.record 0x71 k []) with flights := [{ t.flightOf head0 (head0.record 0x71 k []) with hold := .power }] }
     s.hears head0 (head0.record 0x71 2 []) = true ∧ s.hears head0 (head0.record 0x71 3 []) = true ∧ s.flights = [] ∧ s.readyJobs = [] ∧
     (v s 2).watchRefused = false ∧ (v (inEvents) 2).watchRefused = true ∧ (v s 3).txnBinds = false ∧
     (v { s with txns := [pendTxn] } 3).txnBinds = true) := by decide

/-- Transaction 5 of session 0 in a phase, beside the pending one of session 1. -/
def inTxn (ph : TxnPhase) : State := { State.reset with txns := [{ pendTxn with id := 5, session := 0, phase := ph }, pendTxn], nextTxn := 5 }
theorem test_wit_TxnCommands :
    (let c (k : Nat) := head0.record 0x40 k []
     let s := State.reset
     s.hears head0 (c 1) = true ∧ s.hears head0 (c 0) = true ∧ (s.heard head0 (c 0)).txns.length < 4 ∧
     (({ s with txns := List.replicate 4 pendTxn } : State).heard head0 (c 0)).txns.length = 4) ∧
    (let c := head0.record 0x41 5 []
     State.reset.hears head0 c = true ∧ (State.reset.heard head0 c).txnOf 0 5 = none ∧ ((inTxn .opened).heard head0 c).deadlineDue 5 = false ∧
     (((inTxn .pending).heard head0 c).txnOf 0 5).map Txn.phase = some .pending ∧
     (((inTxn (.prepared true)).heard head0 c).txnOf 0 5).map Txn.phase = some (.prepared true)) ∧
    (let b : List Byte := List.replicate 12 0
     let c := head0.record 0x41 5 b
     let v := ((inTxn .opened).heard head0 c)
     (inTxn .opened).hears head0 c = true ∧ ((v.txnOf 0 5).map fun t => v.judgePoint t (Point.ofBytes b) [0, 1, 2, 3, 4]) = some .ok ∧
     ((v.txnOf 0 5).map fun t => (v.holders t).isEmpty) = some true ∧
     ((v.txnOf 0 5).map fun t => v.judgePoint t (Point.ofBytes (9 :: List.replicate 11 0)) [0, 1, 2, 3, 4]) = some .range) ∧
    (let c := head0.record 0x42 5 []
     State.reset.hears head0 c = true ∧ ((inTxn .opened).heard head0 c).commitDue 5 = false ∧
     ({ inTxn .pending with txns := [{ pendTxn with id := 5, session := 0, reached := some 0 }], time := 1 }.heard head0 c).commitDue 5 = true) ∧
    (let b : List Byte := [2, 0, 0, 0, 0xFF, 0xFF, 0, 0, 0, 0, 0, 0] ++ [0xFF, 0, 0, 0, 0, 0, 0, 0]
     let c := head0.record 0x43 5 b
     let v := ((inTxn .opened).heard head0 c)
     (inTxn .opened).hears head0 c = true ∧ ((v.txnOf 0 5).map fun t => v.judgePrepare t (Point.ofBytes b) (leAt b 12 8) 0xFB) = some (some .ok) ∧
     ((v.txnOf 0 5).map fun t => v.judgePrepare t (Point.ofBytes (9 :: List.replicate 11 0)) 9 0xFB) = some (some .range)) := by decide

/-- Transaction 5 alone, in a phase, with staged records, a point already reached or not, at a time. -/
def oneTxn (ph : TxnPhase) (staged : List CmdRec) (time : Nat) : State :=
  { State.reset with txns := [{ pendTxn with id := 5, session := 0, phase := ph, staged := staged, reached := some 0, point := { pendTxn.point with kind := 3 } }], time := time }
theorem test_wit_TxnEvents :
    State.reset.awake = true ∧ (State.reset.commitDue 5 = false ∧ State.reset.txn 5 = none ∧ State.reset.prepareFlight 5 = none) ∧
    (let s := oneTxn .pending [] 7
     s.awake = true ∧ (s.txn 5).isSome = true ∧ s.commitDue 5 = true ∧ (s.applyRecords [] 0).2 = none ∧
     (let c := head0.record 0xEE 0 []
      (s.applyRecords [c] 0).2.isSome = true ∧ (oneTxn .pending [c] 7).commitDue 5 = true)) ∧
    (let s : State := { oneTxn .pending [] 4000000000 with txns := (oneTxn .pending [] 0).txns.map fun (t : Txn) => { t with reached := none } }
     (s.txn 5).map (fun t => (t.committed && !s.pointReached t && decide (t.since + t.point.limitTicks ≤ s.time))) = some true ∧
     ((oneTxn .pending [] 1).txn 5).map (fun t => (t.committed && !(oneTxn .pending [] 1).pointReached t)) = some false) ∧
    (let s := oneTxn .opened [] 3999999999
     (s.txn 5).map (fun t => decide (t.phase = .opened) && decide (s.time < t.lastTick + 4000000000)) = some true ∧
     ((oneTxn .opened [] 4000000000).txn 5).map (fun t => decide (t.phase = .opened) && decide (t.lastTick + 4000000000 ≤ 4000000000)) = some true) ∧
    (let s := oneTxn (.prepared false) [] 0
     (s.txn 5).map (fun t => decide (t.phase = .prepared false) && decide ((t.deadline : Int) ≤ s.fabNs)) = some true ∧
     ((oneTxn .opened [] 0).missDue 5 = false) ∧
     (let u : State := { s with txns := s.txns.map fun (t : Txn) => { t with point := { t.point with kind := 0 } }, time := 7 }
      (u.txn 5).map (fun t => decide (t.phase = .prepared false) && decide (t.point.kind ≠ 3) && u.pointReached t) = some true) ∧
     (let u : State := { s with txns := s.txns.map fun (t : Txn) => { t with deadline := 1 } }
      (u.txn 5).map (fun t => decide (t.phase = .prepared false) && decide (u.fabNs < t.deadline)) = some true)) ∧
    (let f (b : List Byte) : Flight := { chained (.prepare 5) 0 with cmd := head0.record 0x43 5 b }
     let w (b : List Byte) : State := { oneTxn .opened [] 0 with flights := [f b] }
     let p : List Byte := [2, 0, 0, 0, 0xFF, 0xFF, 0, 0, 0, 0, 0, 0]
     let dl0 := p ++ List.replicate 8 0
     let dl1 := p ++ [0xFF, 0, 0, 0, 0, 0, 0, 0]
     (((w dl0).prepareFlight 5).map fun x => decide ((leAt x.1.cmd.body 12 8 : Int) ≤ (w dl0).fabNs)) = some true ∧
     (((w dl1).prepareFlight 5).map fun x => decide ((w dl1).fabNs < (leAt x.1.cmd.body 12 8 : Int)) &&
        !((w dl1).holders x.2).any (fun y => (w dl1).waitsFor ((w dl1).keyOf (Point.ofBytes x.1.cmd.body) x.1.dest) y) &&
        (((w dl1).txnPrepare x.2 x.1.cmd.body x.1.dest).2).isSome) = some true) ∧
    (let c := head0.record 0x21 0 []
     let q : Txn := { pendTxn with locks := (Txn.units { pendTxn with staged := [c] }) }
     let t : Txn := { pendTxn with id := 5, session := 0, phase := .opened, staged := [c] }
     (({ State.reset with txns := [t, q] } : State).holders t).any (fun x => x.isPending) = true) := by decide

/-- The reset machine with source 40 directed at session 0 in a delivery state, pending or not, and session 0 owned. -/
def inNtf (st : NtfState) (pend : Bool) : State :=
  (((State.reset.setSess 0 { Session.init with owner := some 0xFB }).setFld (NTF_SRC 40) NTF_SRC_TARGET 4).setFld (NTF_T_CFG 4)
    NTF_T_CFG_REDELIVER 1).setSrc 40 { NtfSrc.init with st := st, pend := pend, cur := { NtfRec.init with count := 1 } }
theorem test_wit_NotificationRaisesAndDeliveries :
    State.reset.awake = true ∧ (inNtf .idle true).awake = true ∧
    ((State.reset.src 40).pend = false ∧ ((inNtf .idle true).src 40).pend = true ∧ ((inNtf .idle true).src 40).st = .idle ∧
     ((inNtf .active true).src 40).st ≠ .idle) ∧
    (let s := inNtf .idle true
     s.deliverables 4 = [40] ∧ (!s.targetBusy 4 && decide (s.lastDone 4 ≠ some s.time) && s.moderated 4 [40]) = true ∧
     State.reset.deliverables 4 = []) ∧
    ((inNtf .delivering false).sourcesIn 4 .delivering = [40] ∧ State.reset.sourcesIn 4 .delivering = [] ∧
     ((State.reset.setFld (NTF_SRC 1824) NTF_SRC_TARGET 0).setSrc 1824 { NtfSrc.init with st := .delivering }).sourcesIn 0 .delivering = [1824] ∧
     ((inNtf .delivering false).sess (4 - 4)).owner = some 0xFB) ∧
    (let s : State := { inNtf .active false with time := 400000 }
     s.fld (NTF_T_CFG 4) NTF_T_CFG_REDELIVER * ticksMs = 400000 ∧
     (s.sourcesIn 4 .active).filter (fun i => decide ((s.src i).actTick + 400000 ≤ s.time)) = [40] ∧ (s.sess (4 - 4)).owner = some 0xFB ∧
     State.reset.fld (NTF_T_CFG 4) NTF_T_CFG_REDELIVER * ticksMs = 0) := by decide

theorem test_wit_StrayAndOtherCompletions :
    (let s := inNtf .active false
     s.hears head0 (head0.record 0x48 40 []) = true ∧ s.hears head0 (head0.record 0x48 2049 []) = true ∧
     (s.heard head0 (head0.record 0x48 40 [])).sourcesIn 4 .active = [40] ∧ 41 ∉ (s.heard head0 (head0.record 0x48 41 [])).sourcesIn 4 .active ∧
     s.hears head0 (head0.record 0x48 41 []) = true ∧ s.hears head0 (head0.record 0x48 2048 []) = true) ∧
    (let s := State.reset
     s.hears head0 (head0.record 0x48 2048 []) = true ∧ (s.heard head0 (head0.record 0x48 2048 [])).sourcesIn 4 .active = []) := by decide

/-- A frame of kind 4, a broadcast of engine 9 with 3 hops, whose check is zero, on a port. -/
def frame9 (p : Fin 3) (kind tc dest room : Nat) (hops : Nat) : FrameIn :=
  let bs : List Byte := [BitVec.ofNat 8 (0x20 + kind), BitVec.ofNat 8 hops] ++ leBytes 2 dest ++ [9, 0, BitVec.ofNat 8 tc, 0, 0, 0, 0, 0, 0, 0, 0, 0]
  { port := p, fcsOk := true, tagged := false, room := decide (room = 1), bytes := bs ++ leBytes 4 (crc32c bs), spelled := .nothing, step := 0, residence := 0 }
def hd9 (f : FrameIn) : Header := Header.ofBytes f.bytes
/-- A ring whose first segment has its link up and is held for a while, or a break. -/
def inRing (up broken : Bool) : State :=
  let s : State := { State.reset with time := 500000, fab := { Fab.init with relays := [(5, 400000)] } }
  ((s.setFlag (FAB_P_STAT 0) FAB_P_STAT_UP up).setFlag FAB_STAT FAB_STAT_BROKEN broken).setLink 0 { LinkPort.init with holdUntil := 7 }
set_option maxRecDepth 100000 in
theorem test_wit_FramesLinksAndBreaks_frames :
    (let asleep (s : State) : Bool := decide (s.power = .watch) || decide (s.power = .off)
     asleep { State.reset with power := .watch } = true ∧ asleep State.reset = false) ∧
    (let f := frame9 0 4 0 0xFFFF 1 3
     f.tagged = false ∧ { f with fcsOk := false }.check (hd9 f) = some .crc ∧ { f with bytes := [] }.check (Header.ofBytes []) = some .format ∧
     f.check (hd9 f) = none ∧ (hd9 f).dest = broadcast ∧ (hd9 f).hops ≠ 0 ∧ (hd9 f).isEnumerate = false ∧ (hd9 f).isSync = false ∧
     (hd9 f).src ≠ ((State.reset.learn 0 9 3).conflict 9).addr) ∧
    ((hd9 (frame9 0 4 0 0xFFFF 1 0)).hops = 0 ∧ (frame9 0 4 0 0xFFFF 1 0).check (hd9 (frame9 0 4 0 0xFFFF 1 0)) = none) ∧
    ((frame9 0 4 0 0xFFFF 0 3).check (hd9 (frame9 0 4 0 0xFFFF 0 3)) = none ∧ (frame9 0 4 0 0xFFFF 0 3).room = false ∧
     (hd9 (frame9 0 4 0 0xFFFF 0 3)).tc = 0 ∧ (frame9 2 7 1 5 1 0).check (hd9 (frame9 2 7 1 5 1 0)) = none ∧ (frame9 2 7 1 5 1 0).room = true) ∧
    (let f := frame9 1 0 2 5 1 3
     let s := State.reset.setFld GLB_ADDR GLB_ADDR_ADDR 5
     f.check (hd9 f) = none ∧ (hd9 f).dest = 5 ∧ ((s.learn 1 9 3).conflict 9).ownDest 5 = true ∧
     ((State.reset.learn 1 9 3).conflict 9).ownDest 5 = false ∧ (hd9 f).hops ≠ 0 ∧
     (hd9 (frame9 1 0 2 5 1 0)).hops = 0 ∧ (frame9 1 0 2 5 1 0).check (hd9 (frame9 1 0 2 5 1 0)) = none) := by decide
theorem test_wit_FramesLinksAndBreaks_links :
    ((inRing true false).awake = true ∧ (inRing true false).linkUp 0 = true ∧ (inRing false true).linkUp 0 = false ∧
     ((decide ((0 : Fin 3).val < 2) && (inRing false true).ringBroken) = true) ∧ ((decide ((0 : Fin 3).val < 2) && (inRing false false).ringBroken) = false)) ∧
    ((State.reset.setFlag (FAB_P_STAT 2) FAB_P_STAT_UP true).linkUp 2 = true ∧ State.reset.fld (FAB_P_CFG 0) FAB_P_CFG_MAX_RATE ≠ 3) ∧
    (((inRing true false).link 0).holdUntil ≠ 0 ∧ ((inRing true false).link 0).holdUntil ≤ (inRing true false).time ∧ ((inRing true false).link 1).holdUntil = 0) ∧
    ((inRing true false).resetIgnored = false ∧ (inRing true false).uid = (State.uid State.reset) ∧
     ((inRing true false).fab.relays.any fun r => decide (r.1 = 5) && decide (500000 < r.2 + ticksMs)) = true ∧ 5 ≠ (inRing true false).uid ∧
     ((inRing true false).fab.relays.any fun r => decide (r.1 = 6) && decide (500000 < r.2 + ticksMs)) = false ∧ 6 ≠ (inRing true false).uid ∧
     ({ State.reset with shutdown := true } : State).resetIgnored = true ∧ (0xA5C3#16).toNat = 0xA5C3) := by decide

/-- A machine with fabric time: the map holds since tick 0, SYNCs of host 0x300 have come, and 7 of them were good. -/
def inSync : State :=
  (({ State.reset with
      tmap := some { tick := 0, ns16 := 0, rate := rateNominal }
      fab := { Fab.init with goodRun := 7, lastSync := some 0, syncs := [(0x300, 1)] } } : State).setFlag FAB_STAT FAB_STAT_TIME_VALID true).setLink 0
    { LinkPort.init with reqAt := some 0 }
set_option maxRecDepth 100000 in
theorem test_wit_AddressesFabricTimeAndWakeTokens :
    (let s := State.reset
     let l (a : Nat) : State := (s.setFld GLB_ADDR GLB_ADDR_ADDR a).setFlag GLB_ADDR GLB_ADDR_LOCKED true
     s.awake = true ∧ (l 5).awake = true ∧ ((l 5).addrLocked = true ∧ (l 5).addr ≠ 0) ∧ ¬(s.addrLocked = true ∧ s.addr ≠ 0) ∧
     s.addrLocked = false ∧ s.uid = (BitVec.ofNat 64 s.uid).toNat ∧ (l 5).uid = s.uid) ∧
    (isHost 9 = false ∧ isHost 0x300 = true ∧ isHost 0x301 = true ∧
     (let v (s : State) (a : Nat) : State := { s with fab := { s.fab with syncs := FMap.set (fun _ => 0) s.fab.syncs a (s.time + 1) } }
      (v State.reset 0x300).master = 0x300 ∧ (v inSync 0x301).master ≠ 0x301 ∧ (v inSync 0x300).master = 0x300 ∧ (v State.reset 0x300).tmap.isNone = true ∧
      (v inSync 0x300).tmap.isSome = true ∧ (v inSync 0x300).fabNs16 = 0 ∧ (v State.reset 0x300).fabNs16 = 0 ∧
      (1001 * 65536000 - 0 : Int).natAbs > 65536000 ∧ (0 - 0 : Int).natAbs ≤ 65536000 ∧ (v inSync 0x300).fab.goodRun + 1 = 8)) ∧
    (inSync.awake = true ∧ inSync.timeValid = true ∧ State.reset.timeValid = false ∧
     (match ({ inSync with time := 4000000 } : State).fab.lastSync with
      | some t => decide (t + 4000000 ≤ 4000000)
      | none => true) = true) ∧
    ((State.reset.link 0).reqAt = none ∧ (inSync.link 0).reqAt = some 0) ∧
    (State.reset.linkUp 0 = false ∧ ((State.reset.setFlag (FAB_P_STAT 0) FAB_P_STAT_UP true).linkUp 0 = true ∧ State.reset.power ≠ .watch) ∧
     (decide (State.reset.addr = 0xFFFF) || (decide (State.reset.addr = State.reset.addr) && !State.reset.quarantined)) = true ∧
     State.reset.addr ≠ 0xFFFF ∧ (decide (9 = 0xFFFF) || (decide (9 = State.reset.addr) && !State.reset.quarantined)) = false) := by decide

/-- A member 0 of a pair with address 9, with a role and a MIRROR state. -/
def inPair (role mir : Nat) : State :=
  (((State.reset.setFld TWN_CFG TWN_CFG_PAIR_ADDR 9).setFlag TWN_CFG TWN_CFG_EN true).setFld GLB_STATUS GLB_STATUS_TWIN_ROLE role).setFld
    TWN_STAT TWN_STAT_MIRROR mir
def beat9 (role : BitVec 2) (member yields : Bool) : HeartBeat :=
  { dest := 9, member := member, role := role, yield_ := yields, inSync := true, time := 0, seq := 0 }
/-- The same with a twin unit of its own. -/
def withTwin (role mir : Nat) (x : Twin) (time : Nat) : State := { inPair role mir with twin := x, time := time }
theorem test_wit_TwinPairsAndTakeover_cfg :
    (let v : Word := (0 : Word).setF TWN_CFG_PAIR_ADDR 9
     let w (s : State) (v : Word) : Wr := s.wr TWN_CFG 0xFFFFFFFF (v.setF TWN_CFG_EN 1)
     (inPair 1 5).awake = true ∧ State.reset.awake = true ∧ (inPair 1 5).twinEn = true ∧ State.reset.twinEn = false ∧
     (w (inPair 1 5) 0).changes (~~~ TWN_CFG_EN.mask) = true ∧ (w (inPair 1 5) v).changes (~~~ TWN_CFG_EN.mask) = false ∧
     v.getF TWN_CFG_PAIR_ADDR = 9 ∧ State.reset.addr ≠ 9 ∧ State.reset.addrLocked = false ∧
     (State.reset.setFlag GLB_ADDR GLB_ADDR_LOCKED true).addrLocked = true ∧ (State.reset.setFlag GLB_ADDR GLB_ADDR_LOCKED true).twinEn = false ∧
     (State.reset.setFlag GLB_ADDR GLB_ADDR_LOCKED true).addr ≠ 9) ∧
    (let due (s : State) : Bool := s.searching && !s.twin.heard && decide (s.twin.searchFrom + 40000 ≤ s.time)
     due State.reset = false ∧ due (withTwin 0 1 Twin.init 40000) = true ∧ (withTwin 0 1 Twin.init 40000).twin.alive = false ∧
     due (withTwin 0 1 { Twin.init with alive := true } 40000) = true) ∧
    ((inPair 1 5).twin.nextBeat ≤ (inPair 1 5).time) := by decide
theorem test_wit_TwinPairsAndTakeover_beats :
    (let s := inPair 0 1
     s.twinEn = true ∧ (9 : Nat) = s.pairAddr ∧ State.reset.twinEn = false ∧ (beat9 1 false false).member = s.member ∧ (beat9 1 true false).member ≠ s.member ∧
     s.searching = true ∧ (beat9 1 true false).role = 1 ∧ (beat9 0 true false).role = 0 ∧ s.member = false ∧ (beat9 2 true false).role ≠ 1 ∧ (beat9 2 true false).role ≠ 0 ∧
     (inPair 2 3).searching = false ∧ (inPair 2 3).standby = true ∧ (beat9 1 true true).yield_ = true ∧ (inPair 2 3).twin.switch = false ∧
     (withTwin 2 3 { Twin.init with switch := true } 0).twin.switch = true ∧ (inPair 1 5).searching = false ∧ (inPair 1 5).twinActive = true) ∧
    (let due (s : State) : Bool := s.twinEn && s.twinActive && s.leaseOk && (match s.twin.sentAt with
        | some t => decide (t + leaseTicks ≤ s.time)
        | none => true)
     due State.reset = false ∧ due (inPair 1 5) = true) ∧
    (let due (s : State) : Bool := s.twinEn && s.twin.heard && s.twin.lossAt.isNone && decide ((s.rg64 TWN_HB_LO : Int) + 50000 ≤ s.fabNs)
     let m (role : Nat) : State := { withTwin role 3 { Twin.init with heard := true } 0 with tmap := some { tick := 0, ns16 := 50000 * 65536, rate := 0 } }
     due State.reset = false ∧ due (m 2) = true ∧ (m 2).standby = true ∧ due (m 1) = true ∧ (m 1).twinActive = true ∧ due (m 0) = true ∧
     (m 0).standby = false ∧ (m 0).twinActive = false) ∧
    (let m (k mir : Nat) (al : Bool) (time : Nat) : State := withTwin 2 mir { Twin.init with lossAt := some 0, probes := k, alive := al } time
     State.reset.twin.lossAt = none ∧ (m 1 3 false 12000).twin.lossAt = some 0 ∧ (m 1 3 false 12000).twin.probes = 1 ∧ 12000 ≤ (m 1 3 false 12000).time ∧
     (m 3 3 false 36000).twin.alive = false ∧ (m 3 3 false 36000).mirState = mirInSync ∧ (m 3 3 true 36000).twin.alive = true ∧
     (m 3 2 false 36000).mirState ≠ mirInSync ∧ (m 3 2 false 36000).mirState ≠ mirStale) ∧
    ((inPair 1 5).twinActive = true ∧ (inPair 2 3).twinActive = false ∧ (inPair 1 5).faultActive fltTwinSplit 0 = false) ∧
    (let may (s : State) : Bool := s.twinEn && s.twinActive && s.twin.peerInSync && s.flag TWN_STAT TWN_STAT_PARTNER
     may State.reset = false ∧ may ((withTwin 1 3 { Twin.init with peerInSync := true } 0).setFlag TWN_STAT TWN_STAT_PARTNER true) = true) := by decide

theorem test_wit_TwinMirrorAndEpochs :
    (let f (s : State) : Bool := s.twinEn && s.standby
     let j := withTwin 2 2 { Twin.init with joined := true, epochDone := true, awaited := some 0 } 60000
     f State.reset = false ∧ f (inPair 2 3) = true ∧ (inPair 2 3).awake = true ∧ (inPair 2 4).mirState = mirStale ∧
     (f j && decide (j.mirState = 2) && j.twin.joined && j.twin.epochDone) = true ∧ j.twin.awaited = some 0) ∧
    (let m (role mir : Nat) : State := { withTwin role mir Twin.init 100000 with tmap := some { tick := 100000, ns16 := 200000 * 65536, rate := rateNominal } }
     State.reset.epochDue = false ∧ (m 1 3).epochDue = true ∧
     ((m 1 3).setTwin { Twin.init with boundary := (m 1 3).fabNs / 100000 }).mirroring = true ∧ (m 2 3).epochDue = true ∧
     ((m 2 3).setTwin { Twin.init with boundary := (m 2 3).fabNs / 100000 }).mirroring = false ∧
     ((m 2 3).setTwin { Twin.init with boundary := (m 2 3).fabNs / 100000 }).standby = true ∧ (m 0 1).epochDue = true ∧
     ((m 0 1).setTwin { Twin.init with boundary := (m 0 1).fabNs / 100000 }).standby = false) ∧
    ((inPair 1 3).mirroring = true ∧ (inPair 2 3).mirroring = false) := by decide

/-- Junction readings, all of one temperature in °C. -/
def allAt (c : Int) : Junctions := { t0 := 16 * c, t1 := 16 * c, t2 := 16 * c, t3 := 16 * c, t4 := 16 * c, t5 := 16 * c }
/-- In Watch, with an alarm after 1 s, or woken. -/
def inWatch (aon : Nat) (wake : Option Nat) (again : Bool) : State :=
  (({ State.reset with power := .watch, aon := aon, wakeAt := wake } : State).setFld PWR_WATCH_CFG PWR_WATCH_CFG_ALARM 1).setFlag
    PWR_WATCH_CFG PWR_WATCH_CFG_RECALL again
set_option maxRecDepth 100000 in
theorem test_wit_PowerGovernorAndWatch :
    (State.reset.awake = true ∧ ladder (State.reset.fld PWR_STAT PWR_STAT_RUNG) (allAt 115).top.2 = 4 ∧
     ladder (State.reset.fld PWR_STAT PWR_STAT_RUNG) (allAt 40).top.2 ≠ 4) ∧
    (State.reset.levelTo = none ∧ ({ State.reset with levelTo := some (2, 0) } : State).levelTo = some (2, 0) ∧
     State.reset.watchNext = none ∧ ({ State.reset with watchNext := some 0 } : State).watchNext = some 0) ∧
    (State.reset.wakeDue = false ∧ (inWatch 9 (some 3) false).wakeDue = true ∧
     (inWatch 9 (some 3) false).watchWake.flag PWR_WATCH_CFG PWR_WATCH_CFG_RECALL = false ∧
     (inWatch 9 (some 3) true).watchWake.flag PWR_WATCH_CFG PWR_WATCH_CFG_RECALL = true) ∧
    (let due (s : State) : Bool := decide (s.power = .watch) && decide (s.fld PWR_WATCH_CFG PWR_WATCH_CFG_ALARM ≠ 0) &&
       decide (s.fld PWR_WATCH_CFG PWR_WATCH_CFG_ALARM * 32768 ≤ s.aon) && !bitOf (s.fld PWR_WAKE PWR_WAKE_MASK) 2
     due (inWatch 32767 none false) = false ∧ due (inWatch 32768 none false) = true) := by decide

/-- In Watch, with shaft 0 counted by its decoder, which wakes on motion and on errors, and a program that runs. -/
def inCount : State :=
  ((({ State.reset with power := .watch, aon := 10 } : State).setFlag (CAN_SH_CFG 0) CAN_SH_CFG_DWAKE true).setFlag CAN_CFG CAN_CFG_EN true).setCanDec 0
    { CanDec.init with counted := true, clean := true }
def noInputs : CanInputs :=
  { pins := 0, moved := 0, bsOk := false, bankEn := false, tj0 := 0, tj1 := 0, tj2 := 0, tj3 := 0, tj4 := 0, tj5 := 0, pin := 0 }
theorem test_wit_CanaryEdgesRunsAndLoad :
    (State.reset.power ≠ .watch ∧ inCount.power = .watch ∧ (inCount.canDec 0).counted = true ∧ (inCount.canDec 0).clean = true ∧
     (inCount.canDec 1).counted = false ∧ inCount.flag (CAN_SH_CFG 0) CAN_SH_CFG_DWAKE = true ∧ (false || true) = true) ∧
    (let due (s : State) : Bool := decide (s.power = .watch) && s.flag CAN_CFG CAN_CFG_EN && decide (s.canary.run = .idle) && s.wakeAt.isNone &&
       decide (s.canary.lastRun + s.fld CAN_CFG CAN_CFG_PERIOD ≤ s.aon)
     due State.reset = false ∧ due { inCount with aon := 65536 } = true) ∧
    (State.reset.awake = true ∧ State.reset.canary.run = .idle ∧ ({ State.reset with canary := { State.reset.canary with run := .test } } : State).canary.run ≠ .idle) ∧
    (let s := State.reset
     let c (a : Nat) (b : List Byte) : CmdRec := head0.record 0x58 a b
     s.takes head0 (c 256 [4, 0, 0, 0]) = true ∧ s.takes head0 (c 768 [4, 0, 0, 0]) = true ∧ bitOf 256 8 = true ∧ bitOf 768 8 = true ∧ leAt [4, 0, 0, 0] 0 4 = 4 ∧
     s.takes head0 (c 0 [0, 0, 0, 0x44]) = true ∧ s.takes head0 (c 5 [0, 0, 0, 0x44]) = true ∧ bitOf 0 8 = false ∧ bitOf 5 8 = false ∧
     ((wordsOf [0, 0, 0, 0x44] 1).any fun w => !(CanWord.ofWord w).legal (canOp w)) = false ∧
     s.takes head0 (c 0 [0, 0, 0, 0xFC]) = true ∧ ((wordsOf [0, 0, 0, 0xFC] 1).any fun w => !(CanWord.ofWord w).legal (canOp w)) = true ∧
     s.takes head0 (c 512 [0, 0, 0, 0x44]) = true ∧ bitOf 512 8 = false ∧ (s.heard head0 (c 0 [0, 0, 0, 0x44])).power ≠ .watch) := by decide

/-- The reset state with stored configuration slot 0 replaced. -/
def withSlot (x : Slot) : State := State.reset.setSlot 0 x
/-- The bytes of a WRITE record with no body, which fails when it is replayed. -/
def badRec : List Byte := [3, 0, 1, 0, 0, 0, 0, 0, 0, 0, 0, 0]
/-- A gap record, and the reset state with it. -/
def oneGap : GapRec := { seq := 1, cause := 2, gen := 0, first := 3, last := 4, cal := 5, calValid := false }
def withGap : State := { State.reset with gaps := [oneGap] }
set_option maxRecDepth 100000 in
theorem test_wit_TalliesAndCalendar :
    (let s := State.reset
     s.awake = true ∧ (10436 ≤ (16383 : BitVec 14).toNat ∧ 10432 ≤ (10432 : BitVec 14).toNat ∧ (10435 : BitVec 14).toNat < 10436 ∧
       (10431 : BitVec 14).toNat < 10432) ∧
     s.flag CAL_REF_CTL CAL_REF_CTL_DISC_EN = false ∧
     (s.setFlag CAL_REF_CTL CAL_REF_CTL_DISC_EN true).flag CAL_REF_CTL CAL_REF_CTL_DISC_EN = true ∧
     (s.setFlag CAL_REF_CTL CAL_REF_CTL_DISC_EN true).awake = true ∧
     s.gaps = [] ∧ withGap.awake = true ∧ withGap.gaps = [oneGap]) ∧
    (let s := State.reset
     let t : State := { s with leapNow := 1 }
     s.leapsAt s.calSec = s.leapNow ∧ s.offsetAt s.calSec = s.offsetNow ∧ t.leapsAt t.calSec ≠ t.leapNow) ∧
    (let s := State.reset
     s.flag CAL_STAT CAL_STAT_VALID = s.calValid ∧
     (({ s with calSet := true } : State).flag CAL_STAT CAL_STAT_VALID = false ∧ ({ s with calSet := true } : State).calValid = true) ∧
     ((s.setFlag CAL_STAT CAL_STAT_VALID true).flag CAL_STAT CAL_STAT_VALID = true ∧ (s.setFlag CAL_STAT CAL_STAT_VALID true).calValid = false)) := by decide
set_option maxRecDepth 100000 in
theorem test_wit_StoredConfigurations :
    (let c (k : Nat) : CmdRec := head0.record 0x60 (k * 256) []
     let s := State.reset
     let o : State := withSlot { Slot.init with opened := true }
     s.hears head0 (c 0) = true ∧ s.hears head0 (c 1) = true ∧ s.hears head0 (c 2) = true ∧ s.hears head0 (c 3) = true ∧
     s.hears head0 (c 4) = true ∧ s.hears head0 (c 5) = true ∧ s.hears head0 (head0.record 0x60 0x401 []) = true ∧
     s.hears head0 (head0.record 0x60 0x501 []) = true ∧ s.hears head0 (head0.record 0x60 0x100 [1]) = true ∧
     o.hears head0 (c 1) = true ∧ o.hears head0 (c 2) = true ∧
     appendOk [] = true ∧ appendOk badRec = true ∧ appendOk [1] = false ∧
     ((s.heard head0 (c 1)).slot 0).opened = false ∧ ((o.heard head0 (c 1)).slot 0).opened = true ∧
     ((o.heard head0 (c 1)).slot 0).recs.length + (pad4 badRec).length ≤ 458752 ∧
     (s.heard head0 (c 4)).addrReg = 0 ∧ (s.setFld GLB_ADDR GLB_ADDR_ADDR 1).hears head0 (c 4) = true ∧
     ((s.setFld GLB_ADDR GLB_ADDR_ADDR 1).heard head0 (c 4)).addrReg ≠ 0) ∧
    (let c (a : Nat) : CmdRec := head0.record 0x61 a []
     let x (k : Nat) (b : List Byte) : Slot := { Slot.init with sealCrc := some k, recs := b }
     let r (y : Slot) : State := (withSlot y).heard head0 (c 0)
     let e : State := r (x (crc32c []) [])
     let f : State := r (x (crc32c badRec) badRec)
     State.reset.hears head0 (c 16) = true ∧ State.reset.hears head0 (c 0) = true ∧
     ((State.reset.heard head0 (c 0)).slot 0).sealCrc = none ∧
     (withSlot (x 1 [])).hears head0 (c 0) = true ∧ ((r (x 1 [])).slot 0).sealCrc = some 1 ∧ (1 : Nat) ≠ crc32c [] ∧
     (withSlot (x (crc32c []) [])).hears head0 (c 0) = true ∧ (e.replayAll (parseRecords 0 []) 0).2 = (0, none) ∧
     (withSlot (x (crc32c badRec) badRec)).hears head0 (c 0) = true ∧
     (f.replayAll (parseRecords 12 badRec) 0).2 = (0, some (.range, 3))) := by decide
/-- An open slot holding given bytes. -/
def openSlot (b : List Byte) : Slot := { opened := true, sealCrc := none, recs := b }
theorem test_wit_StoreFull (b : List Byte) (h : b.length = 458750) :
    (withSlot (openSlot b)).hears head0 (head0.record 0x60 0x100 badRec) = true ∧ appendOk badRec = true ∧
    (((withSlot (openSlot b)).heard head0 (head0.record 0x60 0x100 badRec)).slot 0).opened = true ∧
    458752 < (((withSlot (openSlot b)).heard head0 (head0.record 0x60 0x100 badRec)).slot 0).recs.length + (pad4 badRec).length := by
  have e : (withSlot (openSlot b)).hears head0 (head0.record 0x60 0x100 badRec) =
      State.reset.hears head0 (head0.record 0x60 0x100 badRec) := rfl
  refine ⟨e.trans (by decide), by decide, rfl, ?_⟩
  show 458752 < b.length + 12
  omega
theorem test_wit_StoreFullExists : ∃ b : List Byte, b.length = 458750 := ⟨List.replicate 458750 0, List.length_replicate⟩

/-- A fault entry. -/
def oneFault : FaultEntry :=
  { seq := 0, time := 7, cal := 0, calValid := false, kind := .event, cls := 0, code := 0x0106, inst := 0, repeats := 0, detail := 0x0106, boot := 1 }
/-- An image that has run for 30 s, after a number of starts, with one or two valid images. -/
def bootingAt (attempts progress : Nat) (b : Bool) : State :=
  ({ State.reset with boot := { Boot.init with progress := progress, starts := attempts, addressed := true, validB := b } } : State).setFld
    GLB_ADDR GLB_ADDR_ADDR 1
/-- With one entry in the flash, and one selected or not. -/
def logged (sel : Option Nat) : State := { State.reset with flash := [oneFault], selAt := sel }
set_option maxRecDepth 100000 in
theorem test_wit_StartShutdownAndFaultLog :
    (let s := State.reset
     let d : State := { s with shutdown := true }
     s.power ≠ .off ∧ s.shutdown = false ∧ d.shutdown = true ∧ d.power ≠ .off ∧ ({ s with power := .off } : State).power = .off ∧
     d.boot.back = none ∧ ({ d with boot := { d.boot with back := some 15000 } } : State).boot.back = some 15000 ∧ s.awake = true ∧
     s.resetIgnored = false ∧ d.awake = true ∧ d.resetIgnored = true ∧
     s.faultActive 0x0107 0 = false ∧ s.inputHigh.awake = true ∧ s.inputHigh.faultActive 0x0107 0 = true) ∧
    (let late (s : State) : Bool := s.awake && s.bootProgress && decide (30 * ticksS ≤ s.boot.progress)
     let s := bootingAt 2 (30 * ticksS) true
     let failed (t : State) : State := { t with boot := { t.boot with progress := 0, failedA := true } }
     late (bootingAt 1 (30 * ticksS - 1) true) = false ∧ late (bootingAt 1 (30 * ticksS) true) = true ∧
     (bootingAt 1 0 true).boot.starts + 1 < 3 ∧ late s = true ∧ 3 ≤ s.boot.starts + 1 ∧
     late (bootingAt 2 (30 * ticksS) false) = true ∧
     (let due (s : State) : Bool := decide (s.power = .run) && !s.ready && !s.noImage && !s.lowPower && !s.shutdown && s.addressReady
      due State.reset = false ∧ due s = true) ∧
     (failed s).noImage = false ∧ (failed (bootingAt 2 (30 * ticksS) false)).noImage = true) ∧
    (let s := State.reset
     let h := s.setFlag GLB_STATUS GLB_STATUS_HOLD_OK true
     let p := h.setFlag GLB_STATUS GLB_STATUS_OUT_PERMIT true
     s.flag GLB_STATUS GLB_STATUS_HOLD_OK = false ∧ h.awake = true ∧ h.flag GLB_STATUS GLB_STATUS_HOLD_OK = true ∧
     h.flag GLB_STATUS GLB_STATUS_OUT_PERMIT = false ∧ p.awake = true ∧ p.flag GLB_STATUS GLB_STATUS_HOLD_OK = true ∧
     p.flag GLB_STATUS GLB_STATUS_OUT_PERMIT = true) := by decide
set_option maxRecDepth 100000 in
theorem test_wit_FaultLog :
    (let due (s : State) : Bool := !s.staging.isEmpty && decide (s.logAt + ticksS ≤ s.time)
     let e (t : Nat) : State := { State.reset with staging := [oneFault], time := t }
     due State.reset = false ∧ due (e (ticksS - 1)) = false ∧ due (e ticksS) = true) ∧
    ((logged none).flash.length = 1 ∧ (logged none).awake = true ∧ (logged none).flash.length ≤ (1 : BitVec 12).toNat ∧
     (0 : BitVec 12).toNat < (logged none).flash.length ∧
     ((logged none).plainWrite ((logged none).wr GLB_FLOG_SEL 0xFFFFFFFF ((0 : BitVec 12).setWidth 32))).fld GLB_FLOG_SEL GLB_FLOG_SEL_AGE = 0 ∧
     ((logged none).plainWrite ((logged none).wr GLB_FLOG_SEL 0xFFFFFFFF ((4095 : BitVec 12).setWidth 32))).fld GLB_FLOG_SEL GLB_FLOG_SEL_AGE = 4095 ∧
     (logged none).selAt = none ∧ (logged (some 3)).selAt ≠ none ∧ (logged (some 3)).awake = true ∧
     (logged (some 3)).flash.reverse[(logged (some 3)).fld GLB_FLOG_SEL GLB_FLOG_SEL_AGE]? = some oneFault ∧
     State.reset.flash.reverse[State.reset.fld GLB_FLOG_SEL GLB_FLOG_SEL_AGE]? = none) := by decide

theorem test_wit_UnassignedAddressesAnswerAddr :
    (2 : Nat) < 2 ^ 24 ∧ ((2 : Nat) % 4 ≠ 0) ∧ (0xFFFFFC : Nat) < 2 ^ 24 ∧ (regAt 0xFFFFFC).isNone = true ∧ State.reset.awake = true ∧
    State.reset.hears head0 (head0.record 0x02 0xFFFFFC [4, 0, 0, 0]) = true ∧ leAt [4, 0, 0, 0] 0 4 = 4 ∧
    State.reset.hears head0 (head0.record 0x03 2 [4, 0, 0, 0]) = true ∧
    State.reset.hears head0 (head0.record 0x04 2 [4, 0, 0, 0, 4, 0, 0, 0]) = true := by decide

theorem test_wit_MemoryStaysCanonical :
    inBluAsk.memWf = true ∧ inBluAsk.dmem ≠ [] ∧ (∃ t, step inBluAsk = .next t) := by
  exact ⟨by decide, by decide, ⟨_, rfl⟩⟩

theorem test_wit_ProgramWords :
    bluSpelled (.bluMov (issue3 15 0 2 8 1 0xFFFFFFFF)) = some (0x0E, issue3 15 0 2 8 1 0xFFFFFFFF) ∧
    (issue3 15 0 2 8 1 0xFFFFFFFF).fetch = .none_ ∧ (issue3 15 0 2 8 1 0xFFFFFFFF).data = .none_ ∧
    bluCommand 3 0x44A0000000000000 = some (.bluJr { issue3 10 0 0 0 0 0 with thread := 3 }) ∧
    canSpelled (.canLdi ⟨3, 0, 0, 0x8000⟩) = some (0x01, ⟨3, 0, 0, 0x8000⟩) ∧ canCommand 0x44000000 = some (.canEnd ⟨0, 0, 0, 0⟩) := by decide

/-! ### Terms that are not well formed -/

/-- The rows whose record holds a body: it is to fit a frame. -/
theorem test_wf_bodies (h : CmdHead) (a : BitVec 32) (slot : BitVec 4) (b : List Byte) :
    [Instr.outputEnable h a b, .eventArm h a b, .eventCancel h a b, .eventQuery h a b, .bluletLoad h a b, .bluletStart h a b,
      .bluletStop h a b, .productEnter h a b, .productUpdate h a b, .productQuery h a b, .productRetire h a b, .codeJob h a b,
      .snapshot h a b, .poolWrite h a b, .poolRead h a b, .nop h a b, .read h a b, .write h a b, .modify h a b, .fence h a b,
      .resetCmd h a b, .txnBegin h a b, .txnCommit h a b, .txnRollback h a b, .txnPrepare h a b, .notifyComplete h a b,
      .canaryLoad h a b, .recallConfig h a b, .storeAppend h slot b].map Instr.wf =
      List.replicate 29 (bodyFits b) := rfl

/-- A body longer than a frame carries (R318). -/
theorem test_wf_long (b : List Byte) (long : 1468 < b.length) : bodyFits b = false := by
  unfold bodyFits recordBytes; simpa using long

/-- LINE_SHAFT of no entry and of 17 (R397), a record of 63 bytes (R154), an EPOCH with 31 digests (R410). -/
theorem test_wf_lists :
    Instr.wf (.lineshaftReceive 1 true 0 []) = false ∧
    Instr.wf (.lineshaftReceive 1 true 0 (List.replicate 17 ⟨0, true, false, true, false, 0, 0⟩)) = false ∧
    Instr.wf (.lineshaftReceive 1 true 0 [⟨0, true, false, true, false, 0, 0⟩]) = true ∧
    Instr.wf (.handoffRecordReceive 1 0 0 0 (List.replicate 63 0)) = false ∧
    Instr.wf (.handoffRecordReceive 1 0 0 0 (List.replicate 64 0)) = true ∧
    Instr.wf (.epoch 0 0 (List.replicate 31 0)) = false ∧ Instr.wf (.epoch 0 0 (List.replicate 32 0)) = true := by decide

/-- Frame bodies of 1 481 bytes (R318), and a frame of 1 501. -/
theorem test_wf_frames (b : List Byte) (f : FrameIn) (h : b.length = 1481) (k : f.bytes.length = 1501) :
    Instr.wf (.commandFrame 1 0 b) = false ∧ Instr.wf (.frameReceive f) = false := by
  simp [Instr.wf, frameBytes, h, k]

/-! ### Words of programs, written out from the encodings of R118, R120 and R453 -/

/-- OP, D, S, T, M, X and IMM side by side: ADD, the two examples of the spec's own text, LD, BR, HALT and an illegal word. -/
theorem test_words_blulet :
    bluCommand 0 (0x01#8 ++ 5#4 ++ 6#4 ++ 7#4 ++ 0#4 ++ 0#8 ++ 0#32) =
      some (.bluAdd { issue3 5 6 7 0 0 0 with thread := 0 }) ∧
    bluCommand 0 0x1022080000000FA0 = some (.bluWadd { issue3 2 2 0 8 0 0xFA0 with thread := 0 }) ∧
    bluCommand 0 0x3220020100000000 = some (.bluWaits { issue3 2 0 0 2 1 0 with thread := 0 }) ∧
    bluCommand 9 (0x20#8 ++ 1#4 ++ 2#4 ++ 0#4 ++ 2#4 ++ 0#8 ++ 16#32) =
      some (.bluLd { issue3 1 2 0 2 0 16 with thread := 9 }) ∧
    bluCommand 255 (0x40#8 ++ 0#4 ++ 0#4 ++ 0#4 ++ 12#4 ++ 0#8 ++ 100#32) =
      some (.bluBr { issue3 0 0 0 12 0 100 with thread := 255 }) ∧
    bluCommand 0 (0x34#8 ++ 0#56) = some (.bluHalt { issue3 0 0 0 0 0 0 with thread := 0 }) ∧
    bluCommand 0 0 = none ∧ bluCommand 0 (0xFF#8 ++ 0#56) = none := by decide

/-- OP, D, S, M and IMM side by side: LDI, ADD with an immediate, BR, WAKE, END and an illegal word. -/
theorem test_words_canary :
    canCommand (0x01#6 ++ 3#3 ++ 0#3 ++ 0#4 ++ 0x8000#16) = some (.canLdi ⟨3, 0, 0, 0x8000⟩) ∧
    canCommand (0x04#6 ++ 1#3 ++ 2#3 ++ 1#4 ++ 0xFFFF#16) = some (.canAdd ⟨1, 2, 1, 0xFFFF⟩) ∧
    canCommand (0x0E#6 ++ 0#3 ++ 0#3 ++ 2#4 ++ 0x0010#16) = some (.canBr ⟨0, 0, 2, 0x10⟩) ∧
    canCommand (0x0F#6 ++ 0#3 ++ 0#3 ++ 0#4 ++ 0x00FF#16) = some (.canWake ⟨0, 0, 0, 0xFF⟩) ∧
    canCommand (0x11#6 ++ 0#26) = some (.canEnd ⟨0, 0, 0, 0⟩) ∧ canCommand 0 = none := by decide

end Sys2Proof
end

