-- ==== Sys2Proof/Proofs/StepMemory.lean ====
section
/-! SUPPORT. The stores of bytes stay in their canonical form through every command and every step (R93, R298, R302). -/

namespace Sys2Proof.Machine

/-! ## What keeps the stores canonical -/

theorem State.memWf_iff (s : State) : s.memWf = true ↔ Memory.wf s.pool = true ∧ Memory.wf s.dmem = true :=
  Bool.and_eq_true_iff

/-- What a command leaves, where it goes on, has its stores in the canonical form. -/
def MemWfAfter (o : Host.Outcome State Fault Refusal) : Prop := ∀ t, o = .next t → t.memWf = true

section
variable {s : State} (h : s.memWf = true)

theorem memWfAfter_next {t : State} (ht : t.memWf = true) : MemWfAfter (.next t) := by
  rintro _ ⟨⟩
  exact ht

include h

theorem memWfAfter_writes {t : State} (hp : Memory.wf s.pool = true → Memory.wf t.pool = true := by intro h; simp [h])
    (hd : Memory.wf s.dmem = true → Memory.wf t.dmem = true := by intro h; simp [h]) : MemWfAfter (.next t) := by
  rw [State.memWf_iff] at h
  exact memWfAfter_next ((State.memWf_iff t).2 ⟨hp h.1, hd h.2⟩)

theorem memWfAfter_keeps {t : State} (hp : t.pool = s.pool := by simp) (hd : t.dmem = s.dmem := by simp) :
    MemWfAfter (.next t) :=
  memWfAfter_writes h (fun k => by rwa [hp]) (fun k => by rwa [hd])

theorem memWfAfter_inRun_writes {f : State → State}
    (hp : ∀ u, Memory.wf u.pool = true → Memory.wf (f u).pool = true := by intro u h; simp [h])
    (hd : ∀ u, Memory.wf u.dmem = true → Memory.wf (f u).dmem = true := by intro u h; simp [h]) :
    MemWfAfter (.next (s.inRun f)) :=
  memWfAfter_writes h (State.inRun_poolWf s f hp) (State.inRun_dmemWf s f hd)

theorem memWfAfter_inRun {f : State → State} (hp : ∀ u, (f u).pool = u.pool := by intro u; simp)
    (hd : ∀ u, (f u).dmem = u.dmem := by intro u; simp) : MemWfAfter (.next (s.inRun f)) :=
  memWfAfter_keeps h (State.inRun_pool s f hp) (State.inRun_dmem s f hd)

/-- What happens at an index: stated over the operation, so that no case computes it. -/
theorem memWfAfter_inRun_at (f : State → Nat → State) (n : Nat) (hp : ∀ u k, (f u k).pool = u.pool := by intro u k; simp)
    (hd : ∀ u k, (f u k).dmem = u.dmem := by intro u k; simp) : MemWfAfter (.next (s.inRun fun u => f u n)) :=
  memWfAfter_inRun h (fun u => hp u n) fun u => hd u n

theorem memWfAfter_regWrite (a : Nat) (m v : Word) : MemWfAfter (.next (s.regWrite a m v)) := memWfAfter_keeps h

theorem memWfAfter_command (c : CmdHead) (op : Nat) (arg : BitVec 32) (body : List Byte) :
    MemWfAfter (.next (s.command c op arg body)) := memWfAfter_writes h

end

/-! ## Blulet instructions -/

/-- What an instruction answers in `t`, where it does not fault, has the pool of `t` and canonical data memories. -/
def KeepsMemWf (t : State) (r : Except Nat State) : Prop :=
  ∀ u, r = .ok u → u.pool = t.pool ∧ (Memory.wf t.dmem = true → Memory.wf u.dmem = true)

theorem keepsMemWf_error (t : State) (cause : Nat) : KeepsMemWf t (.error cause) := by
  rintro u ⟨⟩

theorem keepsMemWf_ok {t u : State} (hp : u.pool = t.pool)
    (hd : Memory.wf t.dmem = true → Memory.wf u.dmem = true) : KeepsMemWf t (.ok u) := by
  rintro _ ⟨⟩
  exact ⟨hp, hd⟩

theorem keepsMemWf_same {t u : State} (hp : u.pool = t.pool := by simp) (hd : u.dmem = t.dmem := by simp) :
    KeepsMemWf t (.ok u) :=
  keepsMemWf_ok hp fun k => by rwa [hd]

theorem keepsMemWf_ite {t : State} {c : Prop} [Decidable c] {p q : Except Nat State} (hp : KeepsMemWf t p)
    (hq : KeepsMemWf t q) : KeepsMemWf t (if c then p else q) := by
  split
  · exact hp
  · exact hq

theorem dmemActOn_keepsMemWf (i : Issue) (whole : Bool) (size : Nat) {f : State → Nat → Nat → State} {t : State} {g : Nat}
    (hp : ∀ t g a, (f t g a).pool = t.pool)
    (hd : ∀ t g a, Memory.wf t.dmem = true → Memory.wf (f t g a).dmem = true) :
    KeepsMemWf t (dmemActOn i whole size f t g) :=
  keepsMemWf_ite (keepsMemWf_error t _)
    (keepsMemWf_ite (keepsMemWf_same (by simp) (by simp)) (keepsMemWf_ok (by simp [hp]) fun k => hd _ _ _ (by simp [k])))

theorem memWfAfter_bluIssue {s : State} (h : s.memWf = true) {i : Issue} {legal : Bool} {act : BluAct}
    (ha : ∀ t g, KeepsMemWf t (act t g)) : MemWfAfter (.next (s.bluIssue i legal act)) :=
  memWfAfter_writes h (fun k => by rwa [State.bluIssue_pool _ _ _ _ fun t g u q => (ha t g u q).1])
    (State.bluIssue_dmemWf _ _ _ _ fun t g u q => (ha t g u q).2)

theorem memWfAfter_bluOk {s : State} (h : s.memWf = true) {i : Issue} {legal : Bool} {f : State → Nat → State}
    (hp : ∀ t g, (f t g).pool = t.pool := by intro t g; simp) (hd : ∀ t g, (f t g).dmem = t.dmem := by intro t g; simp) :
    MemWfAfter (.next (s.bluIssue i legal fun t g => .ok (f t g))) :=
  memWfAfter_bluIssue h fun t g => keepsMemWf_same (hp t g) (hd t g)

theorem memWfAfter_bluDmem {s : State} (h : s.memWf = true) {i : Issue} {legal whole : Bool} {size : Nat}
    {f : State → Nat → Nat → State} (hp : ∀ t g a, (f t g a).pool = t.pool := by intro t g a; simp)
    (hd : ∀ t g a, Memory.wf t.dmem = true → Memory.wf (f t g a).dmem = true := by intro t g a h; simp [h]) :
    MemWfAfter (.next (s.bluIssue i legal (dmemActOn i whole size f))) :=
  memWfAfter_bluIssue h fun _ _ => dmemActOn_keepsMemWf i whole size hp hd

section
variable {s : State} (h : s.memWf = true) (i : Issue)
include h

theorem bluBrdw_memWf : MemWfAfter (execBluBrdw i s) := by
  refine memWfAfter_bluIssue h fun t g => ?_
  dsimp only
  split <;> exact keepsMemWf_same

theorem bluHalt_memWf : MemWfAfter (execBluHalt i s) := by
  refine memWfAfter_bluOk h (fun t g => ?_) fun t g => ?_ <;> split <;> simp

theorem bluArm_memWf : MemWfAfter (execBluArm i s) := by
  refine memWfAfter_bluIssue h fun t g => keepsMemWf_ite (keepsMemWf_error t _) ?_
  dsimp only
  split
  · exact keepsMemWf_same
  · exact keepsMemWf_ite keepsMemWf_same keepsMemWf_same

theorem bluSnap_memWf : MemWfAfter (execBluSnap i s) :=
  memWfAfter_bluIssue h fun t _ => keepsMemWf_ite (keepsMemWf_error t _)
    (keepsMemWf_ite keepsMemWf_same (keepsMemWf_ite keepsMemWf_same keepsMemWf_same))

theorem bluCall_memWf : MemWfAfter (execBluCall i s) :=
  memWfAfter_bluIssue h fun t _ => keepsMemWf_ite (keepsMemWf_error t _) keepsMemWf_same

theorem bluRet_memWf : MemWfAfter (execBluRet i s) := by
  refine memWfAfter_bluIssue h fun t g => ?_
  dsimp only
  split
  · exact keepsMemWf_error t _
  · exact keepsMemWf_same

theorem bluJr_memWf : MemWfAfter (execBluJr i s) :=
  memWfAfter_bluIssue h fun t _ => keepsMemWf_ite (keepsMemWf_error t _) keepsMemWf_same

end

theorem memWfAfter_canIssue {s : State} (h : s.memWf = true) {legal : Bool} {act : State → State}
    (hp : ∀ t, (act t).pool = t.pool := by intro t; simp) (hd : ∀ t, (act t).dmem = t.dmem := by intro t; simp) :
    MemWfAfter (.next (s.canIssue legal act)) :=
  memWfAfter_keeps h (State.canIssue_pool s legal act hp) (State.canIssue_dmem s legal act hd)

/-- The canonical form is kept by every command, family by family. -/
theorem exec_memWf (i : Instr) (s : State) (h : s.memWf = true) : MemWfAfter (exec i s) := by
  cases i with
  | registerWrite => exact memWfAfter_keeps h
  | addrWrite | shaftEnable | shaftDisable | phClr | signalWrite | laneEnable | laneDisable | generatorEnable
  | templateBind | ringEnable | generatorDisable | composerDisable | rasterEnable | rasterDisable | posWrite
  | pfaultClear | portEnable | supplyOn | emuEnable | portDisable | supplyOff | cellEnable | cellDisable
  | cellCountWrite | cellPeriodWrite | cellCompareWrite | capture | resync | tripForce | tripClr | pwmEnable
  | pwmDisable | outFaultClear | chainEnable | chainDisable | regTrig | injTrig | flush | adcEnable | adcDisable
  | dmaStart | dmaAbort | ntfRaise | ntfClear | retrain | twinEnable | switch | canaryTest | tallySet
  | tallyFlushCmd | calendarSet | faultLogSelect => exact memWfAfter_regWrite h _ _ _
  | capRead | fifoRead | gapRecordRead => exact memWfAfter_keeps h
  | outputEnable | nop | nopRelease | nopChainReset | read | write | modify | fence | resetCmd | powerStateRun
  | powerStateDoze | powerStateWatch | powerStateOff | eventArm | eventCancel | eventQuery | bluletLoad
  | bluletStart | bluletStop | productEnter | productUpdate | productQuery | productRetire | codeJob | snapshot
  | claimConfigure | claimAlloc | claimFree | poolWrite | poolRead | txnBegin | txnCommit | txnRollback | txnPrepare
  | notifyComplete | canaryLoad | storeOpen | storeAppend | storeClose | storeErase | storeLock | storeUnlock
  | recallConfig => exact memWfAfter_command h _ _ _ _
  | toothEdge | secondWheelEdge | idxLoss | halted | stillTimeout | phaseSample | lineshaftPublish
  | lineshaftReceive | virtTimeout | virtRecompute | catchupLagClosed | virtHoldEnd | profileReversal | eventStart
  | eventEnd => exact memWfAfter_inRun h
  | slotEntry | sensorEntry | stationFire | productExit | handoffRecordReceive | handoffAckReceive
  | handoffAckTimeout => exact memWfAfter_inRun h
  | jobComplete => exact memWfAfter_inRun_writes h
  | jobStart | jobDeadline | jobLate | serialReservation | columnStrobe | columnFrame | strobeStall | rdyChange
  | rdyTimeout => exact memWfAfter_inRun h
  | filterAcceptance | serialFrameStart | serialFrameEnd | settlingEnd | overcurrent | lineBreak | lineBreakEnd
  | emuOutputCount | cellStep | periodRestart | passedCompareMatch => exact memWfAfter_inRun h
  | pwmBoundary | midPeriodPoint | referenceEdge | deadTimeExpiry | minpulseHoldEnd | pwmPeriodCut | angleLock
  | adcTriggerOffer | tripInputAccept | blankingEnd => exact memWfAfter_inRun h
  | eventLineAccept | bsOkFall | bsOkRise | bankEnFall | bankEnPresent | outputFault | chainFrame
  | sequenceDelayExpiry | holdEdge | conversionEnd | resultEntry | adcDeadline => exact memWfAfter_inRun h
  | dmaBurst => exact memWfAfter_inRun_writes h
  | scrub | selfRefreshEntry => exact memWfAfter_inRun h
  | orderedStart => exact memWfAfter_inRun_writes h
  | commandFrame => exact memWfAfter_writes h
  | fenceComplete | replyFrameSend => exact memWfAfter_inRun h
  | commitTick | prepareRetry => exact memWfAfter_inRun_writes h
  | commitLimitExpiry | txnIdleTimeout | decisionDeadline | pointWithoutDecision => exact memWfAfter_inRun h
  | sourceRaise | deliverySelection | deliveryActive => exact memWfAfter_inRun h
  | redeliver => exact memWfAfter_inRun_at h State.redeliver _
  | frameReceive | wakeToken => exact memWfAfter_writes h
  | linkCtlReset => exact memWfAfter_inRun_writes h
  | linkUp | linkDown | ringBreak | ringClose | closeHoldEnd | credit | creditAdvertise | enumerate | discover
  | assign | sync | syncTimeout | pdelayMeasure | pdelayReq | pdelayResp | wakeCtl => exact memWfAfter_inRun h
  | copy | item => exact memWfAfter_inRun_writes h
  | searchTimeout | heartbeatSend | heartbeat | leaseLapse | heartbeatLoss | twinProbeRepeat | lossConfirmed
  | twinProbe | twinAlive | takeoverFrame | epochBoundary | epoch | epochAck | resyncReq | epochTimeout
  | joiningEnd => exact memWfAfter_inRun h
  | governorPeriod | levelChangeEnd | grantReclassification | thermalTrip => exact memWfAfter_inRun h
  | watchEntry => exact memWfAfter_keeps h
  | watchExit => exact memWfAfter_writes h
  | alarm | canaryEdge | canaryRun | calendarAdjustment | calendarValidityChange | battLow => exact memWfAfter_keeps h
  | tallyFlush => exact memWfAfter_inRun h
  | coldReset | warmReset | powerUp | corePowerRemoved => exact memWfAfter_writes h
  | powerLoss => exact memWfAfter_keeps h
  | ready | watchdog => exact memWfAfter_inRun_writes h
  | bootTimeout | holdOkRise | holdOkFall | inputHigh | faultLogFlush | faultLogLoaded | inputHighClear => exact memWfAfter_inRun h
  | waitMet => exact memWfAfter_writes h
  | forcedYield | deadlinePromotion | busErrReturn | edgePlace => exact memWfAfter_keeps h
  | bluAdd | bluSub | bluCmp | bluAnd | bluOr | bluXor | bluShl | bluShr | bluSar | bluMul | bluMulh | bluMin | bluMax
  | bluMov | bluClf | bluWadd | bluWmov | bluWget | bluWput | bluWcmp | bluWsub | bluNow | bluAng => exact memWfAfter_bluOk h
  | bluLd | bluSt | bluLdw | bluStw | bluXadd => exact memWfAfter_bluDmem h
  | bluBrd | bluBwr | bluFnc | bluWaita | bluWaitt | bluWaits | bluYield | bluSig
  | bluEdge | bluCapt | bluPost | bluProd | bluBr | bluDbnz | bluCancel => exact memWfAfter_bluOk h
  | bluHalt => exact bluHalt_memWf h _
  | bluBrdw => exact bluBrdw_memWf h _
  | bluArm => exact bluArm_memWf h _
  | bluSnap => exact bluSnap_memWf h _
  | bluCall => exact bluCall_memWf h _
  | bluRet => exact bluRet_memWf h _
  | bluJr => exact bluJr_memWf h _
  | canLdi | canLdh | canIn | canAdd | canSub | canAnd | canOr | canXor | canShr | canAbs | canFilt | canCmp
  | canTst | canBr | canWake | canRaise | canEnd => exact memWfAfter_canIssue h

/-- The canonical form is kept by every step, and by what the engine does by itself. -/
theorem step_memWf (s : State) (h : s.memWf = true) : MemWfAfter (step s) := by
  unfold step
  split
  · exact exec_memWf _ _ h
  · exact memWfAfter_keeps h

/-- Settles O59: the pool and the data memories stay canonical under every command and on an empty queue. -/
theorem memoryStaysCanonical : Obligations.MemoryStaysCanonical := by
  unfold Obligations.MemoryStaysCanonical
  exact fun s t h => step_memWf s h t

end Sys2Proof.Machine
end

