-- ==== Sys2Proof/Proofs/StepTime.lean ====
section
/-! SUPPORT. What settling and the passing of a tick leave of engine time and of the power state, one lemma for each operation
they are made of; then the steps themselves (R2, R14, R430). -/

namespace Sys2Proof.Machine
theorem step_empty (s : State) (h : s.pending = []) : step s = .next s.idle := by
  unfold step
  rw [h]

@[simp] theorem ite_time (c : Prop) [Decidable c] (s t : State) :
    (if c then s else t).time = if c then s.time else t.time := apply_ite State.time c s t
@[simp] theorem ite_power (c : Prop) [Decidable c] (s t : State) :
    (if c then s else t).power = if c then s.power else t.power := apply_ite State.power c s t
@[simp] theorem foldl_time {α : Type} (f : State → α → State) (h : ∀ s a, (f s a).time = s.time) (l : List α) (s : State) :
    (l.foldl f s).time = s.time := foldl_keep State.time f h l s
@[simp] theorem foldl_power {α : Type} (f : State → α → State) (h : ∀ s a, (f s a).power = s.power) (l : List α) (s : State) :
    (l.foldl f s).power = s.power := foldl_keep State.power f h l s
@[simp] theorem State.forEach_time (n : Nat) (f : State → Nat → State) (h : ∀ s a, (f s a).time = s.time) (s : State) :
    (State.forEach n f s).time = s.time := foldl_time f h _ s
@[simp] theorem State.forEach_power (n : Nat) (f : State → Nat → State) (h : ∀ s a, (f s a).power = s.power) (s : State) :
    (State.forEach n f s).power = s.power := foldl_power f h _ s
@[simp] theorem State.overKeys_time {α : Type} (m : FMap α) (f : State → Nat → State) (h : ∀ s a, (f s a).time = s.time)
    (s : State) : (s.overKeys m f).time = s.time := foldl_time (fun t (e : Nat × α) => f t e.1) (fun t e => h t e.1) m s
@[simp] theorem State.overKeys_power {α : Type} (m : FMap α) (f : State → Nat → State) (h : ∀ s a, (f s a).power = s.power)
    (s : State) : (s.overKeys m f).power = s.power := foldl_power (fun t (e : Nat × α) => f t e.1) (fun t e => h t e.1) m s
@[simp] theorem State.stage_clock (s : State) (code : Nat) (inst : Nat) (cls : Nat) (detail : Nat) (kind : FaultKind) :
    (s.stage code inst cls detail kind).time = s.time ∧ (s.stage code inst cls detail kind).power = s.power := by
  unfold State.stage; (repeat' split) <;> simp
@[simp] theorem State.faultEvent_clock (s : State) (code : Nat) (inst : Nat) (cls : Nat) (detail : Nat) :
    (s.faultEvent code inst cls detail).time = s.time ∧ (s.faultEvent code inst cls detail).power = s.power := by simp [State.faultEvent]
@[simp] theorem State.faultEnd_clock (s : State) (code : Nat) (inst : Nat) :
    (s.faultEnd code inst).time = s.time ∧ (s.faultEnd code inst).power = s.power := by
  unfold State.faultEnd; (repeat' split) <;> simp
@[simp] theorem State.wearCheck_clock (s : State) (i : Nat) (old : Nat) (new : Nat) (k : Nat) :
    (s.wearCheck i old new k).time = s.time ∧ (s.wearCheck i old new k).power = s.power := by simp [State.wearCheck]
@[simp] theorem State.bumpTally_clock (s : State) (i : Nat) (k : Nat) :
    (s.bumpTally i k).time = s.time ∧ (s.bumpTally i k).power = s.power := by simp [State.bumpTally]
@[simp] theorem State.setActing_clock (s : State) (a : Nat) (v : Word) :
    (s.setActing a v).time = s.time ∧ (s.setActing a v).power = s.power := by simp [State.setActing]
@[simp] theorem State.markPulse_clock (s : State) (o : Nat) :
    (s.markPulse o).time = s.time ∧ (s.markPulse o).power = s.power := by simp [State.markPulse]
@[simp] theorem State.refresh_clock (s : State) (o : Nat) :
    (s.refresh o).time = s.time ∧ (s.refresh o).power = s.power := by simp [State.refresh]
@[simp] theorem State.holdOut_clock (s : State) (o : Nat) :
    (s.holdOut o).time = s.time ∧ (s.holdOut o).power = s.power := by simp [State.holdOut]
@[simp] theorem State.holdRange_clock (s : State) (lo : Nat) (hi : Nat) :
    (s.holdRange lo hi).time = s.time ∧ (s.holdRange lo hi).power = s.power := by simp [State.holdRange]
@[simp] theorem State.setDma_clock (s : State) (n : Nat) (x : Dma) :
    (s.setDma n x).time = s.time ∧ (s.setDma n x).power = s.power := by simp [State.setDma]
@[simp] theorem State.dmaEnd_clock (s : State) (n : Nat) (status : Nat) (cause : Nat) :
    (s.dmaEnd n status cause).time = s.time ∧ (s.dmaEnd n status cause).power = s.power := by simp [State.dmaEnd]
@[simp] theorem State.dmaAbort_clock (s : State) (n : Nat) :
    (s.dmaAbort n).time = s.time ∧ (s.dmaAbort n).power = s.power := by simp [State.dmaAbort]
@[simp] theorem State.dmaAbortAll_clock (s : State) :
    s.dmaAbortAll.time = s.time ∧ s.dmaAbortAll.power = s.power := by simp [State.dmaAbortAll]
@[simp] theorem State.setAdcSeq_clock (s : State) (c : Nat) (inj : Bool) (q : AdcSeq) :
    (s.setAdcSeq c inj q).time = s.time ∧ (s.setAdcSeq c inj q).power = s.power := by simp [State.setAdcSeq]
@[simp] theorem State.adcArm_clock (s : State) (c : Nat) (inj : Bool) (t : Nat) :
    (s.adcArm c inj t).time = s.time ∧ (s.adcArm c inj t).power = s.power := by simp [State.adcArm]
@[simp] theorem State.adcTrigger_clock (s : State) (c : Nat) (inj : Bool) :
    (s.adcTrigger c inj).time = s.time ∧ (s.adcTrigger c inj).power = s.power := by simp [State.adcTrigger]
@[simp] theorem State.adcsTick_clock (s : State) :
    s.adcsTick.time = s.time ∧ s.adcsTick.power = s.power := by simp [State.adcsTick]
@[simp] theorem State.adcAlm_clock (s : State) (c : Nat) :
    (s.adcAlm c).time = s.time ∧ (s.adcAlm c).power = s.power := by simp [State.adcAlm]
@[simp] theorem State.cellLoad_clock (s : State) (n : Nat) :
    (s.cellLoad n).time = s.time ∧ (s.cellLoad n).power = s.power := by
  unfold State.cellLoad; dsimp only; (repeat' split) <;> simp
@[simp] theorem State.cellJudgeWritten_clock (s : State) (n : Nat) :
    (s.cellJudgeWritten n).time = s.time ∧ (s.cellJudgeWritten n).power = s.power := by simp [State.cellJudgeWritten]
@[simp] theorem State.cellJudgePeriod_clock (s : State) (n : Nat) :
    (s.cellJudgePeriod n).time = s.time ∧ (s.cellJudgePeriod n).power = s.power := by simp [State.cellJudgePeriod]
@[simp] theorem State.cellCapture_clock (s : State) (n : Nat) :
    (s.cellCapture n).time = s.time ∧ (s.cellCapture n).power = s.power := by simp [State.cellCapture]
@[simp] theorem State.cellLatch_clock (s : State) (n : Nat) :
    (s.cellLatch n).time = s.time ∧ (s.cellLatch n).power = s.power := by simp [State.cellLatch]
@[simp] theorem State.cellStops_clock (s : State) (n : Nat) :
    (s.cellStops n).time = s.time ∧ (s.cellStops n).power = s.power := by simp [State.cellStops]
@[simp] theorem State.cellStage_clock (s : State) (n : Nat) :
    (s.cellStage n).time = s.time ∧ (s.cellStage n).power = s.power := by simp [State.cellStage]
@[simp] theorem State.cellLimitActs_clock (s : State) (a : Nat) :
    (s.cellLimitActs a).time = s.time ∧ (s.cellLimitActs a).power = s.power := by simp [State.cellLimitActs]
@[simp] theorem State.cellCfgActs_clock (s : State) (a : Nat) (old : Word) :
    (s.cellCfgActs a old).time = s.time ∧ (s.cellCfgActs a old).power = s.power := by simp [State.cellCfgActs]
@[simp] theorem State.cellsTick_clock (s : State) (old : List (Nat × Word)) :
    (s.cellsTick old).time = s.time ∧ (s.cellsTick old).power = s.power := by simp [State.cellsTick]
@[simp] theorem State.cellsEnd_clock (s : State) :
    s.cellsEnd.time = s.time ∧ s.cellsEnd.power = s.power := by simp [State.cellsEnd]
@[simp] theorem State.countMerge_clock (s : State) (o : Nat) (merged : Bool) :
    (s.countMerge o merged).time = s.time ∧ (s.countMerge o merged).power = s.power := by simp [State.countMerge]
@[simp] theorem State.driveUp_clock (s : State) (o : Nat) (p : Nat) (y : Output) :
    (s.driveUp o p y).time = s.time ∧ (s.driveUp o p y).power = s.power := by
  unfold State.driveUp; dsimp only; (repeat' split) <;> simp
@[simp] theorem State.releaseDue_clock (s : State) (o : Nat) :
    (s.releaseDue o).time = s.time ∧ (s.releaseDue o).power = s.power := by
  unfold State.releaseDue; dsimp only; (repeat' split) <;> simp
@[simp] theorem State.outStart_clock (s : State) (o : Nat) (p : Nat) :
    (s.outStart o p).time = s.time ∧ (s.outStart o p).power = s.power := by simp [State.outStart]
@[simp] theorem State.chainSnapshot_clock (s : State) (c : Nat) :
    (s.chainSnapshot c).time = s.time ∧ (s.chainSnapshot c).power = s.power := by simp [State.chainSnapshot]
@[simp] theorem State.chainFloat_clock (s : State) :
    s.chainFloat.time = s.time ∧ s.chainFloat.power = s.power :=
  ⟨State.forEach_time _ _ (fun t c => State.setChain_time t c _) s, State.forEach_power _ _ (fun t c => State.setChain_power t c _) s⟩
@[simp] theorem State.refreshRange_clock (s : State) (lo : Nat) (n : Nat) :
    (s.refreshRange lo n).time = s.time ∧ (s.refreshRange lo n).power = s.power := by simp [State.refreshRange]
@[simp] theorem State.fioActs_clock (s : State) (a : Nat) (old : Word) :
    (s.fioActs a old).time = s.time ∧ (s.fioActs a old).power = s.power := by
  unfold State.fioActs; (repeat' split) <;> simp
@[simp] theorem State.fioTick_clock (s : State) (old : List (Nat × Word)) :
    (s.fioTick old).time = s.time ∧ (s.fioTick old).power = s.power := by simp [State.fioTick]
@[simp] theorem State.fioEnds_clock (s : State) :
    s.fioEnds.time = s.time ∧ s.fioEnds.power = s.power := by simp [State.fioEnds]
@[simp] theorem State.setPwmOut_clock (s : State) (n : Nat) (h : Bool) (o : PwmOut) :
    (s.setPwmOut n h o).time = s.time ∧ (s.setPwmOut n h o).power = s.power := by simp [State.setPwmOut]
@[simp] theorem State.pwmEdge_clock (s : State) (n : Nat) :
    (s.pwmEdge n).time = s.time ∧ (s.pwmEdge n).power = s.power := by simp [State.pwmEdge]
@[simp] theorem State.pwmAdcPoint_clock (s : State) (n : Nat) (bit : Nat) :
    (s.pwmAdcPoint n bit).time = s.time ∧ (s.pwmAdcPoint n bit).power = s.power := by simp [State.pwmAdcPoint]
@[simp] theorem State.pwmLoad_clock (s : State) (n : Nat) :
    (s.pwmLoad n).time = s.time ∧ (s.pwmLoad n).power = s.power := by
  unfold State.pwmLoad; dsimp only; (repeat' split) <;> simp
@[simp] theorem State.pwmLoadDt_clock (s : State) (n : Nat) :
    (s.pwmLoadDt n).time = s.time ∧ (s.pwmLoadDt n).power = s.power := by
  unfold State.pwmLoadDt; dsimp only; (repeat' split) <;> simp
@[simp] theorem State.pwmClear_clock (s : State) (n : Nat) :
    (s.pwmClear n).time = s.time ∧ (s.pwmClear n).power = s.power := by simp [State.pwmClear]
@[simp] theorem State.pwmJudgeClear_clock (s : State) (n : Nat) :
    (s.pwmJudgeClear n).time = s.time ∧ (s.pwmJudgeClear n).power = s.power := by simp [State.pwmJudgeClear]
@[simp] theorem State.pwmBoundaryNow_clock (s : State) (n : Nat) :
    (s.pwmBoundaryNow n).time = s.time ∧ (s.pwmBoundaryNow n).power = s.power := by simp [State.pwmBoundaryNow]
@[simp] theorem State.pwmResync_clock (s : State) (n : Nat) :
    (s.pwmResync n).time = s.time ∧ (s.pwmResync n).power = s.power := by simp [State.pwmResync]
@[simp] theorem State.pwmKill_clock (s : State) (n : Nat) (at_ : Nat) (h : Bool) :
    (s.pwmKill n at_ h).time = s.time ∧ (s.pwmKill n at_ h).power = s.power := by simp [State.pwmKill]
@[simp] theorem State.pwmStops_clock (s : State) (n : Nat) :
    (s.pwmStops n).time = s.time ∧ (s.pwmStops n).power = s.power := by simp [State.pwmStops]
@[simp] theorem State.pwmActs_clock (s : State) (a : Nat) :
    (s.pwmActs a).time = s.time ∧ (s.pwmActs a).power = s.power := by simp [State.pwmActs]
@[simp] theorem State.pwmsTick_clock (s : State) (old : List (Nat × Word)) :
    (s.pwmsTick old).time = s.time ∧ (s.pwmsTick old).power = s.power := by simp [State.pwmsTick]
@[simp] theorem State.pwmTick_clock (s : State) (n : Nat) :
    (s.pwmTick n).time = s.time ∧ (s.pwmTick n).power = s.power := by simp [State.pwmTick]
@[simp] theorem State.pwmFloat_clock (s : State) :
    s.pwmFloat.time = s.time ∧ s.pwmFloat.power = s.power := by simp [State.pwmFloat]
@[simp] theorem State.pwmLive_clock (s : State) :
    s.pwmLive.time = s.time ∧ s.pwmLive.power = s.power := by simp [State.pwmLive]
@[simp] theorem State.markProduct_clock (s : State) (who : Option (Nat × Nat)) (mask : Nat) :
    (s.markProduct who mask).time = s.time ∧ (s.markProduct who mask).power = s.power := by
  unfold State.markProduct; (repeat' split) <;> simp
@[simp] theorem State.rasReturn_clock (s : State) (n : Nat) (im : Image) :
    (s.rasReturn n im).time = s.time ∧ (s.rasReturn n im).power = s.power := by simp [State.rasReturn]
@[simp] theorem State.rasMissed_clock (s : State) (n : Nat) (who : Option (Nat × Nat)) :
    (s.rasMissed n who).time = s.time ∧ (s.rasMissed n who).power = s.power := by simp [State.rasMissed]
@[simp] theorem State.rasSkip_clock (s : State) (n : Nat) (e : RasEntry) :
    (s.rasSkip n e).time = s.time ∧ (s.rasSkip n e).power = s.power := by
  unfold State.rasSkip; (repeat' split) <;> simp
@[simp] theorem State.rasBegin_clock (s : State) (n : Nat) (im : Image) (who : Option (Nat × Nat)) (undriven : Bool) :
    (s.rasBegin n im who undriven).time = s.time ∧ (s.rasBegin n im who undriven).power = s.power := by simp [State.rasBegin]
@[simp] theorem State.rasStart_clock (s : State) (n : Nat) :
    (s.rasStart n).time = s.time ∧ (s.rasStart n).power = s.power := by
  unfold State.rasStart
  cases (s.ras n).queue with
  | nil => simp
  | cons e rest =>
    dsimp only
    generalize hq : s.setRas n _ = t
    have ht : t.time = s.time ∧ t.power = s.power := by simp [← hq]
    rw [← ht.1, ← ht.2]
    (repeat' split) <;> simp
@[simp] theorem State.rasFloat_clock (s : State) :
    s.rasFloat.time = s.time ∧ s.rasFloat.power = s.power := by
  refine ⟨State.forEach_time _ _ (fun t k => ?_) s, State.forEach_power _ _ (fun t k => ?_) s⟩ <;> dsimp only <;>
    (repeat' split) <;> simp
@[simp] theorem State.setSignal_clock (s : State) (i : Nat) :
    (s.setSignal i).time = s.time ∧ (s.setSignal i).power = s.power := by simp [State.setSignal]
@[simp] theorem State.targetAct_clock (s : State) (kind : Nat) (index : Nat) :
    (s.targetAct kind index).time = s.time ∧ (s.targetAct kind index).power = s.power := by
  unfold State.targetAct; (repeat' split) <;> simp
@[simp] theorem State.targetStart_clock (s : State) (d : EventDesc) (p : Nat) :
    (s.targetStart d p).time = s.time ∧ (s.targetStart d p).power = s.power := by simp [State.targetStart]
@[simp] theorem State.almWorked_clock (s : State) :
    s.almWorked.time = s.time ∧ s.almWorked.power = s.power := by simp [State.almWorked]
@[simp] theorem State.almBegin_clock (s : State) (i : Nat) (d : Nat) (x : Option Nat) :
    (s.almBegin i d x).time = s.time ∧ (s.almBegin i d x).power = s.power := by simp [State.almBegin]
@[simp] theorem State.almSkip_clock (s : State) (i : Nat) :
    (s.almSkip i).time = s.time ∧ (s.almSkip i).power = s.power := by simp [State.almSkip]
@[simp] theorem State.almLateOnce_clock (s : State) (i : Nat) :
    (s.almLateOnce i).1.time = s.time ∧ (s.almLateOnce i).1.power = s.power := by
  unfold State.almLateOnce; dsimp only; (repeat' split) <;> simp
@[simp] theorem State.almAdvance_clock (s : State) (i : Nat) :
    (s.almAdvance i).1.time = s.time ∧ (s.almAdvance i).1.power = s.power := by simp [State.almAdvance]
@[simp] theorem State.almCommitNow_clock (s : State) (i : Nat) (from_ : Nat) :
    (s.almCommitNow i from_).time = s.time ∧ (s.almCommitNow i from_).power = s.power := by simp [State.almCommitNow]
@[simp] theorem State.almCommit_clock (s : State) (i : Nat) (from_ : Nat) :
    (s.almCommit i from_).time = s.time ∧ (s.almCommit i from_).power = s.power := by simp [State.almCommit]
@[simp] theorem State.almJudge_clock (s : State) (a1 : Nat) (a2 : Nat) :
    (s.almJudge a1 a2).time = s.time ∧ (s.almJudge a1 a2).power = s.power := by
  fun_induction State.almJudge <;> simp_all +zetaDelta
@[simp] theorem State.almRepeat_clock (s : State) (i : Nat) :
    (s.almRepeat i).time = s.time ∧ (s.almRepeat i).power = s.power := by simp [State.almRepeat]
@[simp] theorem State.almLate_clock (s : State) (i : Nat) :
    (s.almLate i).time = s.time ∧ (s.almLate i).power = s.power := by simp [State.almLate]
@[simp] theorem State.almTake_clock (s : State) :
    s.almTake.time = s.time ∧ s.almTake.power = s.power := by
  unfold State.almTake; (repeat' split) <;> simp
@[simp] theorem State.almDrain_clock (s : State) :
    s.almDrain.time = s.time ∧ s.almDrain.power = s.power := by simp [State.almDrain]
@[simp] theorem State.almCancel_clock (s : State) (i : Nat) :
    (s.almCancel i).time = s.time ∧ (s.almCancel i).power = s.power := by simp [State.almCancel]
@[simp] theorem State.almCancelAll_clock (s : State) (is : List Nat) :
    (s.almCancelAll is).time = s.time ∧ (s.almCancelAll is).power = s.power := by simp [State.almCancelAll]
@[simp] theorem State.setLink_clock (s : State) (p : Nat) (x : LinkPort) :
    (s.setLink p x).time = s.time ∧ (s.setLink p x).power = s.power := by simp [State.setLink]
@[simp] theorem State.freeUnits_clock (s : State) (p : Nat) (f : Frame) :
    (s.freeUnits p f).time = s.time ∧ (s.freeUnits p f).power = s.power := by simp [State.freeUnits]
@[simp] theorem State.moveSettle_clock (s : State) :
    s.moveSettle.time = s.time ∧ s.moveSettle.power = s.power := by
  unfold State.moveSettle; (repeat' split) <;> simp
@[simp] theorem State.leave_clock (s : State) (p : Nat) (q : Queued) :
    (s.leave p q).time = s.time ∧ (s.leave p q).power = s.power := by
  unfold State.leave; (repeat' split) <;> simp
@[simp] theorem State.drainAux_clock (s : State) (p : Nat) (blocked : List Nat) (a3 : List Queued) :
    (s.drainAux p blocked a3).time = s.time ∧ (s.drainAux p blocked a3).power = s.power := by
  fun_induction State.drainAux <;> simp_all +zetaDelta
@[simp] theorem State.drain_clock (s : State) (p : Nat) :
    (s.drain p).time = s.time ∧ (s.drain p).power = s.power := by simp [State.drain]
@[simp] theorem State.put_clock (s : State) (p : Nat) (q : Queued) :
    (s.put p q).time = s.time ∧ (s.put p q).power = s.power := by
  unfold State.put; (repeat' split) <;> simp
@[simp] theorem State.useSeq_clock (s : State) (dest : Nat) (tc : Nat) :
    (s.useSeq dest tc).time = s.time ∧ (s.useSeq dest tc).power = s.power := by simp [State.useSeq]
@[simp] theorem State.sendFrom_clock (s : State) (src : Nat) (kind : Nat) (dest : Nat) (tc : Nat) (session : Nat) (retry : Bool) (body : List Byte) :
    (s.sendFrom src kind dest tc session retry body).time = s.time ∧ (s.sendFrom src kind dest tc session retry body).power = s.power := by simp [State.sendFrom]
@[simp] theorem State.sendMirror_clock (s : State) (body : List Byte) :
    (s.sendMirror body).time = s.time ∧ (s.sendMirror body).power = s.power := by simp [State.sendMirror]
@[simp] theorem State.creditBack_clock (s : State) (n : Nat) (k : Nat) :
    (s.creditBack n k).time = s.time ∧ (s.creditBack n k).power = s.power := by simp [State.creditBack]
@[simp] theorem State.pushReply_clock (s : State) (n : Nat) (r : Reply) :
    (s.pushReply n r).time = s.time ∧ (s.pushReply n r).power = s.power := by simp [State.pushReply]
@[simp] theorem State.sendReplies_clock (s : State) (n : Nat) (r : Reply) (rs : List Reply) :
    (s.sendReplies n r rs).time = s.time ∧ (s.sendReplies n r rs).power = s.power := by simp [State.sendReplies]
@[simp] theorem State.sendReply_clock (s : State) (n : Nat) :
    (s.sendReply n).time = s.time ∧ (s.sendReply n).power = s.power := by
  unfold State.sendReply; (repeat' split) <;> simp
@[simp] theorem State.flushSession_clock (s : State) (n : Nat) (a2 : Nat) :
    (s.flushSession n a2).time = s.time ∧ (s.flushSession n a2).power = s.power := by
  fun_induction State.flushSession <;> simp_all +zetaDelta
@[simp] theorem State.flushReplies_clock (s : State) :
    s.flushReplies.time = s.time ∧ s.flushReplies.power = s.power := by simp [State.flushReplies]
@[simp] theorem State.answer_clock (s : State) (n : Nat) (dest : Nat) (c : CmdRec) (credit : Nat) (atOnce : Bool) (src : Nat) (st : Status) (result : Nat) (body : List Byte) :
    (s.answer n dest c credit atOnce src st result body).time = s.time ∧ (s.answer n dest c credit atOnce src st result body).power = s.power := by simp [State.answer]
@[simp] theorem State.moves_clock (s : State) (old : Nat) (dest : Nat) (tc : Nat) (f : State → State) (ht : ∀ t, (f t).time = t.time) (hp : ∀ t, (f t).power = t.power) :
    (s.moves old dest tc f).time = s.time ∧ (s.moves old dest tc f).power = s.power := by
  unfold State.moves; simp_all
@[simp] theorem State.complete_clock (s : State) (fl : Flight) (addr : Option Nat) (st : Status) (result : Nat) (body : List Byte) :
    (s.complete fl addr st result body).time = s.time ∧ (s.complete fl addr st result body).power = s.power := by
  unfold State.complete; (repeat' split) <;> simp
@[simp] theorem State.finish_clock (s : State) (id : Nat) (st : Status) (result : Nat) (body : List Byte) :
    (s.finish id st result body).time = s.time ∧ (s.finish id st result body).power = s.power := by
  unfold State.finish; (repeat' split) <;> simp
@[simp] theorem State.tallyFlush_clock (s : State) :
    s.tallyFlush.time = s.time ∧ s.tallyFlush.power = s.power := by simp [State.tallyFlush]
@[simp] theorem State.calHold_clock (s : State) :
    s.calHold.time = s.time ∧ s.calHold.power = s.power := by simp [State.calHold]
@[simp] theorem State.calTick_clock (s : State) :
    s.calTick.time = s.time ∧ s.calTick.power = s.power := by simp [State.calTick]
@[simp] theorem State.setGen_clock (s : State) (g : Nat) (x : SerialGen) :
    (s.setGen g x).time = s.time ∧ (s.setGen g x).power = s.power := by simp [State.setGen]
@[simp] theorem State.jobRecord_clock (s : State) (j : Job) (serial : Nat) (failed : Bool) :
    (s.jobRecord j serial failed).time = s.time ∧ (s.jobRecord j serial failed).power = s.power := by
  unfold State.jobRecord; (repeat' split) <;> simp
@[simp] theorem State.setEntry_clock (s : State) (rl : Nat) (job : Nat) (st : EntrySt) :
    (s.setEntry rl job st).time = s.time ∧ (s.setEntry rl job st).power = s.power := by simp [State.setEntry]
@[simp] theorem State.jobFail_clock (s : State) (j : Job) (serial : Nat) (why : JobFail) :
    (s.jobFail j serial why).time = s.time ∧ (s.jobFail j serial why).power = s.power := by
  unfold State.jobFail; (repeat' split) <;> simp
@[simp] theorem State.jobReady_clock (s : State) (j : Job) :
    (s.jobReady j).time = s.time ∧ (s.jobReady j).power = s.power := by
  unfold State.jobReady; (repeat' split) <;> simp
@[simp] theorem State.settleJobs_clock (s : State) :
    s.settleJobs.time = s.time ∧ s.settleJobs.power = s.power := by simp [State.settleJobs]
@[simp] theorem State.failQueued_clock (s : State) :
    s.failQueued.time = s.time ∧ s.failQueued.power = s.power := by simp [State.failQueued]
@[simp] theorem State.shaftRevs_clock (s : State) (n : Nat) :
    (s.shaftRevs n).time = s.time ∧ (s.shaftRevs n).power = s.power := by
  unfold State.shaftRevs; dsimp only; (repeat' split) <;> simp
@[simp] theorem State.fabricTick_clock (s : State) (n : Nat) :
    (s.fabricTick n).time = s.time ∧ (s.fabricTick n).power = s.power := by
  unfold State.fabricTick; dsimp only; (repeat' split) <;> simp
@[simp] theorem State.profileTick_clock (s : State) (n : Nat) :
    (s.profileTick n).time = s.time ∧ (s.profileTick n).power = s.power := by simp [State.profileTick]
@[simp] theorem State.shaftTick_clock (s : State) (n : Nat) :
    (s.shaftTick n).time = s.time ∧ (s.shaftTick n).power = s.power := by simp [State.shaftTick]
@[simp] theorem State.fixFirst_clock (s : State) (n : Nat) :
    (s.fixFirst n).time = s.time ∧ (s.fixFirst n).power = s.power := by simp [State.fixFirst]
@[simp] theorem State.laneObserve_clock (s : State) (n : Nat) :
    (s.laneObserve n).time = s.time ∧ (s.laneObserve n).power = s.power := by
  unfold State.laneObserve; dsimp only; (repeat' split) <;> simp
@[simp] theorem State.dropEdges_clock (s : State) (g : Nat) :
    (s.dropEdges g).time = s.time ∧ (s.dropEdges g).power = s.power := by simp [State.dropEdges]
@[simp] theorem State.endEvents_clock (s : State) (g : Nat) :
    (s.endEvents g).1.time = s.time ∧ (s.endEvents g).1.power = s.power := by simp [State.endEvents]
@[simp] theorem State.threadEnd_clock (s : State) (g : Nat) (st : ThState) :
    (s.threadEnd g st).1.time = s.time ∧ (s.threadEnd g st).1.power = s.power := by simp [State.threadEnd]
@[simp] theorem State.threadStop_clock (s : State) (g : Nat) :
    (s.threadStop g).1.time = s.time ∧ (s.threadStop g).1.power = s.power := by
  unfold State.threadStop; dsimp only; (repeat' split) <;> simp
@[simp] theorem State.stopThreads_clock (s : State) :
    s.stopThreads.time = s.time ∧ s.stopThreads.power = s.power := by simp [State.stopThreads]
@[simp] theorem State.toIdle_clock (s : State) (i : Nat) :
    (s.toIdle i).time = s.time ∧ (s.toIdle i).power = s.power := by simp [State.toIdle]
@[simp] theorem State.dropDeliveries_clock (s : State) (n : Nat) :
    (s.dropDeliveries n).time = s.time ∧ (s.dropDeliveries n).power = s.power := by simp [State.dropDeliveries]
@[simp] theorem State.liveSettle_clock (s : State) :
    s.liveSettle.time = s.time ∧ s.liveSettle.power = s.power := by simp [State.liveSettle]
@[simp] theorem State.dropTxn_clock (s : State) (id : Nat) :
    (s.dropTxn id).time = s.time ∧ (s.dropTxn id).power = s.power := by simp [State.dropTxn]
@[simp] theorem State.txnRollback_clock (s : State) (id : Nat) (st : Status) :
    (s.txnRollback id st).time = s.time ∧ (s.txnRollback id st).power = s.power := by simp [State.txnRollback]
@[simp] theorem State.txnTimeout_clock (s : State) (id : Nat) (st : Status) :
    (s.txnTimeout id st).time = s.time ∧ (s.txnTimeout id st).power = s.power := by simp [State.txnTimeout]
@[simp] theorem State.txnTimeouts_clock (s : State) (p : Txn → Bool) :
    (s.txnTimeouts p).time = s.time ∧ (s.txnTimeouts p).power = s.power := by simp [State.txnTimeouts]
@[simp] theorem State.beat_clock (s : State) (yield_ : Bool) :
    (s.beat yield_).time = s.time ∧ (s.beat yield_).power = s.power := by simp [State.beat]
@[simp] theorem State.yieldTwin_clock (s : State) :
    s.yieldTwin.time = s.time ∧ s.yieldTwin.power = s.power := by simp [State.yieldTwin]
@[simp] theorem State.showLevel_clock (s : State) (l : Nat) :
    (s.showLevel l).time = s.time ∧ (s.showLevel l).power = s.power := by simp [State.showLevel]
@[simp] theorem State.setLevel_clock (s : State) (l : Nat) :
    (s.setLevel l).time = s.time ∧ (s.setLevel l).power = s.power := by simp [State.setLevel]
@[simp] theorem State.cmpOff_clock (s : State) :
    s.cmpOff.time = s.time ∧ s.cmpOff.power = s.power := by simp [State.cmpOff]
@[simp] theorem State.releaseSession_clock (s : State) (n : Nat) :
    (s.releaseSession n).time = s.time ∧ (s.releaseSession n).power = s.power := by simp [State.releaseSession]
@[simp] theorem State.logWrite_clock (s : State) :
    s.logWrite.time = s.time ∧ s.logWrite.power = s.power := by simp [State.logWrite]
@[simp] theorem State.reserveAll_clock (s : State) :
    s.reserveAll.time = s.time ∧ s.reserveAll.power = s.power := by
  refine ⟨State.forEach_time _ _ (fun t g => ?_) s, State.forEach_power _ _ (fun t g => ?_) s⟩ <;> dsimp only <;>
    split <;> simp
@[simp] theorem State.beginShutdown_clock (s : State) :
    s.beginShutdown.time = s.time ∧ s.beginShutdown.power = s.power := by simp [State.beginShutdown]
@[simp] theorem State.acceptWatch_clock (s : State) :
    s.acceptWatch.time = s.time ∧ s.acceptWatch.power = s.power := by simp [State.acceptWatch]
@[simp] theorem State.txnObserve_clock (s : State) :
    s.txnObserve.time = s.time ∧ s.txnObserve.power = s.power := by simp [State.txnObserve]
@[simp] theorem State.settleStops_clock (s : State) :
    s.settleStops.time = s.time ∧ s.settleStops.power = s.power := by
  refine ⟨foldl_time _ (fun t f => ?_) _ s, foldl_power _ (fun t f => ?_) _ s⟩ <;> split <;> simp
@[simp] theorem State.settlePower_clock (s : State) :
    s.settlePower.time = s.time ∧ s.settlePower.power = s.power := by
  unfold State.settlePower; (repeat' split) <;> simp
@[simp] theorem State.settleReleases_clock (s : State) :
    s.settleReleases.time = s.time ∧ s.settleReleases.power = s.power := by simp [State.settleReleases]
@[simp] theorem State.settle_clock (s : State) :
    s.settle.time = s.time ∧ s.settle.power = s.power := by simp [State.settle]
@[simp] theorem State.bluTick_clock (s : State) :
    s.bluTick.time = s.time ∧ s.bluTick.power = s.power := by simp [State.bluTick]
@[simp] theorem State.trailTick_clock (s : State) :
    s.trailTick.time = s.time ∧ s.trailTick.power = s.power := by simp [State.trailTick]
@[simp] theorem State.secondTick_clock (s : State) :
    s.secondTick.time = s.time ∧ s.secondTick.power = s.power := by simp [State.secondTick]
@[simp] theorem State.loadPort_clock (s : State) (p : Nat) :
    (s.loadPort p).time = s.time ∧ (s.loadPort p).power = s.power := by simp [State.loadPort]
@[simp] theorem State.loadTick_clock (s : State) :
    s.loadTick.time = s.time ∧ s.loadTick.power = s.power := by simp [State.loadTick]
@[simp] theorem State.tickEnds_clock (s : State) :
    s.tickEnds.time = s.time ∧ s.tickEnds.power = s.power := by simp [State.tickEnds]
@[simp] theorem State.actsTick_clock (s : State) :
    s.actsTick.time = s.time ∧ s.actsTick.power = s.power := by simp [State.actsTick]

@[simp] theorem State.tickBegins_time (s : State) : s.tickBegins.time = s.time + 1 := by simp [State.tickBegins]
@[simp] theorem State.grantTick_time (s : State) : s.grantTick.time = s.time := by
  unfold State.grantTick; split <;> rfl

/-- A tick in Run and Doze: engine time moves on by one (R2). -/
theorem State.tick_time (s : State) (h : s.awake = true) : s.tick.time = s.time + 1 := by
  rw [State.tick, if_pos h]
  simp

/-- One AON cycle (R430). -/
theorem State.tick_aon (s : State) (h : s.awake = false) : s.tick.aon = s.aon + 1 := by
  rw [State.tick, if_neg (by simp [h])]
  rfl

theorem State.settle_awake (s : State) : s.settle.awake = s.awake := by simp [State.awake]

/-- Where nothing is due, a step on an empty queue lets a tick pass. -/
theorem step_idle_time (s : State) (hq : s.pending = []) (ha : s.awake = true) (h1 : s.settle.strays = [])
    (h2 : s.settle.canary.run = .idle) (h3 : s.settle.dueRows = []) (h4 : s.settle.arrivals = []) :
    ∃ t, step s = .next t ∧ t.time = s.time + 1 ∧ t.pool = s.pool ∧ t.dmem = s.dmem := by
  have e : (if s.awake then s.settle else s) = s.settle := if_pos ha
  have hi : s.idle = s.settle.tick := by
    have q := idle_quiet s (by rw [e]; exact h1) (by rw [e]; exact h2) (by rw [e]; exact h3) (by rw [e]; exact h4)
    rwa [e] at q
  refine ⟨s.idle, step_empty s hq, ?_, (State.idle_keeps s).1, (State.idle_keeps s).2⟩
  rw [hi, State.tick_time _ ((State.settle_awake s).trans ha), (State.settle_clock s).1]

/-- Where nothing is due in Watch, it lets a cycle of the AON clock pass. -/
theorem step_idle_aon (s : State) (hq : s.pending = []) (ha : s.awake = false) (h1 : s.strays = [])
    (h2 : s.canary.run = .idle) (h3 : s.dueRows = []) (h4 : s.arrivals = []) :
    ∃ t, step s = .next t ∧ t.aon = s.aon + 1 ∧ t.pool = s.pool ∧ t.dmem = s.dmem ∧ t.pending = [] := by
  have hn : ¬ s.awake = true := by simp [ha]
  have e : (if s.awake then s.settle else s) = s := if_neg hn
  have hi : s.idle = s.tick := by
    have q := idle_quiet s (by rw [e]; exact h1) (by rw [e]; exact h2) (by rw [e]; exact h3) (by rw [e]; exact h4)
    rwa [e] at q
  refine ⟨s.idle, step_empty s hq, ?_, (State.idle_keeps s).1, (State.idle_keeps s).2, ?_⟩
  · rw [hi, State.tick_aon s ha]
  · rw [hi, State.tick, if_neg hn, (State.aonTick_keeps s).2.2.2, hq]

/-- Settles O2: on an empty queue the engine goes on, and time passes where nothing is due. -/
theorem idleStepPassesTime : Obligations.IdleStepPassesTime := by
  unfold Obligations.IdleStepPassesTime
  exact ⟨fun s hq => ⟨s.idle, step_empty s hq⟩, step_idle_time, step_idle_aon⟩

/-- No command ends in a fault or a refusal: each arm of `exec` gives a next state. -/
theorem exec_completes (c : Instr) (s : State) : Completes (exec c s) := by
  cases c <;> exact ⟨_, rfl⟩

/-- Settles O1: a step runs the command at the front of the queue, and every command goes on. -/
theorem stepRunsTheFrontCommand : Obligations.StepRunsTheFrontCommand := by
  unfold Obligations.StepRunsTheFrontCommand
  exact ⟨fun _ _ _ => rfl, exec_completes⟩

end Sys2Proof.Machine
end

