-- ==== Sys2Proof/Proofs/Reset.lean ====
section
/-! SUPPORT. The state after a cold reset (R10): no register is listed, so each reads as its Reset column says, and no unit has a
part of its own, so each part stands as it begins. -/

namespace Sys2Proof.Machine

theorem resetAt_of_assigned {a i j : Nat} {d : RegDesc} (h : regAt a = some (d, i, j)) : resetAt a = d.resetWord := by
  rw [resetAt, h]

theorem resetAt_of_unassigned {a : Nat} (h : regAt a = none) : resetAt a = 0 := by
  rw [resetAt, h]

theorem reset_rg (a : Nat) : State.reset.rg a = resetAt a := rfl

/-- OUT_LIVE is 0 after a cold reset, for want of the permission (R26). -/
theorem reset_outLive : State.reset.outLive = false := by decide

/-- Settles O58: the registers hold their reset values, no output drives, and every unit stands as it begins. -/
theorem stateAfterReset : Obligations.StateAfterReset := by
  unfold Obligations.StateAfterReset
  refine ⟨fun a => ?_, rfl, rfl, rfl, reset_outLive, fun _ => rfl, fun _ => rfl, fun _ => rfl, fun _ => rfl,
    fun _ => ⟨rfl, rfl⟩, srcs_ok, fun _ => rfl, rfl, rfl, rfl⟩
  rw [reset_rg]
  split
  · next h => exact resetAt_of_assigned h
  · next h => exact resetAt_of_unassigned h

end Sys2Proof.Machine
end

