-- ==== Sys2Proof/Proofs/Addresses.lean ====
section
/-! SUPPORT. The checks of register addresses (R4, R5, R334), and what a command or a register write does that they turn away. -/

namespace Sys2Proof.Machine

/-! ## The checks of an unassigned address -/

theorem word_end_lt_iff {a t : Nat} (ha : a % 4 = 0) (ht : t % 4 = 0) : a + 3 < t ↔ a < t := by omega

/-- The bytes of an aligned word lie in one block. -/
theorem blockOf_word_end {a : Nat} (h : a % 4 = 0) : blockOf (a + 4 - 1) = blockOf a := by
  show blockOf (a + 3) = blockOf a
  unfold blockOf
  repeat refine ite_congr (propext (word_end_lt_iff h rfl)) (fun _ => rfl) fun _ => ?_
  rfl

theorem regAt_of_no_block {a : Nat} (h : blockOf a = none) : regAt a = none := by
  rw [regAt, h]

section
variable {a : Nat} (h : a % 4 ≠ 0 ∨ regAt a = none)
include h

theorem addrCheck_unassigned (ha : a < 2 ^ 24) : addrCheck a = .addr := by
  rw [addrCheck, if_neg (by omega), if_pos (h.imp_right Option.isNone_iff_eq_none.2)]

theorem addrOk_unassigned : addrOk a = false := by
  rcases h with h | h <;> simp [addrOk, h]

theorem rangeCheck_unassigned (ha : a < 2 ^ 24) : rangeCheck a 4 = .addr := by
  rw [rangeCheck, if_neg (by omega)]
  by_cases h4 : a % 4 = 0
  · have hr : regAt a = none := h.resolve_left (not_not_intro h4)
    rw [if_neg (not_not_intro h4), if_neg (by decide), if_neg (not_not_intro (blockOf_word_end h4))]
    simp [allAssigned, hr]
  · rw [if_pos h4]

end

/-! ## Commands whose address or range is turned away -/

theorem opRead_refuses (s : State) (t : Option Txn) (arg : Nat) (body : List Byte) (h : rangeCheck arg (leAt body 0 4) ≠ .ok) :
    s.opRead t arg body = (s, ends (rangeCheck arg (leAt body 0 4)) 0 []) := by
  unfold State.opRead
  dsimp only
  split
  · next k => exact absurd k h
  · rfl

/-- A READ that runs on arrival and whose range fails its check. -/
theorem read_refuses (s : State) (h : CmdHead) (arg : BitVec 32) (body : List Byte) (c : CmdRec)
    (hc : c = h.record 0x02 arg.toNat body) (hh : s.hears h c = true) (hr : rangeCheck arg.toNat (leAt body 0 4) ≠ .ok) :
    exec (.read h arg body) s =
      .next ((s.heard h c).replied (s.flightOf h c) (rangeCheck arg.toNat (leAt body 0 4)) 0 []) := by
  subst hc
  refine congrArg Host.Outcome.next (command_reads s h 0x02 arg body (ends (rangeCheck arg.toNat (leAt body 0 4)) 0 []) _ rfl hh ?_)
  rw [runOp_02 _ _ rfl]
  exact congrArg (fun q : State × Completion => q.1.completes _ q.2) (opRead_refuses _ none arg.toNat body hr)

theorem runEffect_refuses (s : State) (fl : Flight) (h : fl.cmd.alone ≠ .ok) :
    s.runEffect fl = s.complete fl none fl.cmd.alone 0 [] :=
  if_pos h

/-- A record with an effect of its own that runs on arrival and fails the checks of the record alone. -/
theorem command_refuses (s : State) (h : CmdHead) (op : Nat) (arg : BitVec 32) (body : List Byte) (c : CmdRec)
    (hc : h.record op arg.toNat body = c) (hh : s.hears h c = true)
    (hr : (s.heard h c).runOp (s.flightOf h c) = (s.heard h c).runEffect (s.flightOf h c)) (ha : c.alone ≠ .ok) :
    s.command h op arg body = (s.heard h c).replied (s.flightOf h c) c.alone 0 [] := by
  have r := command_runs s h op arg body (by rw [hc]; exact hh)
  rw [hc, hr, runEffect_refuses _ _ ha] at r
  exact r

theorem alone_write (h : CmdHead) (a : Nat) (body : List Byte) :
    (h.record 0x03 a body).alone = rangeCheck a body.length := rfl

theorem alone_modify (h : CmdHead) (a : Nat) (body : List Byte) : (h.record 0x04 a body).alone = addrCheck a := rfl

/-! ## Single register writes -/

theorem regWriteBy_host (s : State) (a : Nat) (v : Word) (h : s.awake = true) :
    s.regWriteBy false a v =
      if addrCheck a = .ok then (s.writeReg true a 0xFFFFFFFF v).1.done (s.writeReg true a 0xFFFFFFFF v).2 0 []
      else s.done (addrCheck a) 0 [] := by
  unfold State.regWriteBy State.inRun
  rw [if_pos h]
  dsimp only
  split
  · next k => cases k
  · split
    · next k => rw [if_pos k]
    · next k => rw [if_neg k]

theorem regWriteBy_bus (s : State) (a : Nat) (v : Word) (h : s.awake = true) :
    s.regWriteBy true a v = (s.busWrite a v).1.done (s.busWrite a v).2 0 [] := by
  unfold State.regWriteBy State.inRun
  rw [if_pos h]
  rfl

/-- Settles O57: the checks of a range, of an address and of the bus port all end in E_ADDR. -/
theorem unassignedAddressesAnswerAddr : Obligations.UnassignedAddressesAnswerAddr := by
  unfold Obligations.UnassignedAddressesAnswerAddr
  intro s h arg body v ha hu did
  refine ⟨?_, ?_, ?_, ?_⟩
  · intro c hc hh hn
    have e : rangeCheck arg.toNat (leAt body 0 4) = .addr := by rw [hn, rangeCheck_unassigned hu ha]
    have r := read_refuses s h arg body c hc hh (by rw [e]; decide)
    rw [e] at r
    exact r
  · intro c hc hh hn
    have e : c.alone = .addr := by rw [hc, alone_write, hn, rangeCheck_unassigned hu ha]
    have r := command_refuses s h 0x03 arg body c hc.symm hh (runOp_03 _ _ (by rw [hc]; rfl)) (by rw [e]; decide)
    rw [e] at r
    exact congrArg Host.Outcome.next r
  · intro c hc hh
    have e : c.alone = .addr := by rw [hc, alone_modify, addrCheck_unassigned hu ha]
    have r := command_refuses s h 0x04 arg body c hc.symm hh (runOp_04 _ _ (by rw [hc]; rfl)) (by rw [e]; decide)
    rw [e] at r
    exact congrArg Host.Outcome.next r
  · intro hw bus
    refine congrArg Host.Outcome.next ?_
    cases bus with
    | false => rw [regWriteBy_host s _ v hw, addrCheck_unassigned hu ha, if_neg (by decide)]
    | true => rw [regWriteBy_bus s _ v hw, State.busWrite, if_pos (by rw [addrOk_unassigned hu]; decide)]

end Sys2Proof.Machine
end

