-- ==== Sys2Proof/Proofs/HostRegisters.lean ====
section
/-! SUPPORT. READ, WRITE, MODIFY and OUTPUT_ENABLE where they run on arrival (R334 to R336, R339), and the register writes of hosts
and threads (R31, R95, R100). -/

namespace Sys2Proof.Machine

/-! ## Commands that touch registers -/

theorem opRead_reads (s : State) (arg : Nat) (body : List Byte) (h : rangeCheck arg (leAt body 0 4) = .ok) :
    s.opRead none arg body =
      ((s.readRegs arg (leAt body 0 4 / 4)).1, ends .ok 0 (bytesOfWords (s.readRegs arg (leAt body 0 4 / 4)).2)) := by
  unfold State.opRead
  dsimp only
  rw [h]

/-- A READ that runs on arrival and whose range passes its check. -/
theorem read_reads (s : State) (h : CmdHead) (arg : BitVec 32) (body : List Byte) (c : CmdRec)
    (hc : c = h.record 0x02 arg.toNat body) (hh : s.hears h c = true) (hr : rangeCheck arg.toNat (leAt body 0 4) = .ok)
    (q : State × List Word) (hq : q = (s.heard h c).readRegs arg.toNat (leAt body 0 4 / 4)) :
    exec (.read h arg body) s = .next (q.1.replied (s.flightOf h c) .ok 0 (bytesOfWords q.2)) := by
  subst hc hq
  have r := command_runs s h 0x02 arg body hh
  rw [runOp_02 _ _ rfl] at r
  refine congrArg Host.Outcome.next (r.trans (congrArg State.settle ?_))
  exact congrArg (fun q : State × Completion => q.1.completes _ q.2) (opRead_reads _ arg.toNat body hr)

/-- An effect that completes, whichever address its reply leaves from (R31). -/
theorem runEffect_moves (r : State) (fl : Flight) (u : State) (x : Completion) (ha : fl.cmd.alone = .ok)
    (hl : r.lockedFor fl.cmd = false) (he : r.effect true false fl.cmd = (u, x))
    (hr : ((decide (fl.cmd.opcode = 0x50) && loadRead fl.cmd.arg) || (decide (fl.cmd.opcode = 0x58) && bitOf fl.cmd.arg 8)) = false) :
    r.runEffect fl =
      (u.mirrorCmd fl.session fl.cmd x.status).complete fl (r.movedFrom fl.cmd x) x.status x.result x.body := by
  unfold State.runEffect
  dsimp only
  rw [if_neg (not_not_intro ha), if_neg (by simp [hl]), he, hr]
  rfl

/-- A taken record with an effect that may move the engine's address. -/
theorem command_moves (s : State) (h : CmdHead) (op : Nat) (arg : BitVec 32) (body : List Byte) (u : State) (x : Completion)
    (c : CmdRec) (hc : h.record op arg.toNat body = c) (k : s.takes h c = true)
    (hr : (s.heard h c).runOp (s.flightOf h c) = (s.heard h c).runEffect (s.flightOf h c))
    (he : (s.heard h c).effect true false c = (u, x))
    (hq : ((decide (c.opcode = 0x50) && loadRead c.arg) || (decide (c.opcode = 0x58) && bitOf c.arg 8)) = false) :
    s.command h op arg body = ((u.mirrorCmd h.session.val c x.status).complete (s.flightOf h c)
      ((s.heard h c).movedFrom c x) x.status x.result x.body).settle := by
  obtain ⟨k1, k2, k3⟩ := takes_parts k
  have r := command_runs s h op arg body (by rw [hc]; exact k1)
  rw [hc, hr, runEffect_moves _ (s.flightOf h c) u x k2 k3 he hq] at r
  exact r

theorem movedFrom_write (r : State) (c : CmdRec) (x : Completion) (h : c.opcode = 0x03) :
    r.movedFrom c x =
      if decide (c.arg ≤ GLB_ADDR) && decide (GLB_ADDR < c.arg + 4 * x.result) then some r.addr else none := by
  simp [State.movedFrom, h]

theorem movedFrom_modify (r : State) (c : CmdRec) (x : Completion) (h : c.opcode = 0x04) :
    r.movedFrom c x =
      if decide (c.arg = GLB_ADDR ∧ x.status = .ok ∧ (BitVec.ofNat 32 (leAt c.body 0 4) : Word).getF GLB_ADDR_ADDR ≠ 0)
      then some r.addr else none := by
  simp [State.movedFrom, h]

theorem opWrite_writes (s : State) (judged : Bool) (arg : Nat) (body : List Byte) (h : rangeCheck arg body.length = .ok)
    (q : State × Status × Nat) (hq : q = s.writeWords judged arg (wordsOf body (body.length / 4)) 0) :
    s.opWrite judged arg body = (q.1, ends q.2.1 q.2.2 []) := by
  unfold State.opWrite
  rw [h, hq]

theorem opModify_writes (s : State) (judged : Bool) (arg : Nat) (body : List Byte) (h : addrCheck arg = .ok)
    (q : State × Status)
    (hq : q = s.writeReg judged arg (BitVec.ofNat 32 (leAt body 0 4)) (BitVec.ofNat 32 (leAt body 4 4))) :
    s.opModify judged arg body = (q.1, ends q.2 (s.readReg arg).toNat []) := by
  unfold State.opModify
  rw [h, hq]

section
variable (s : State) (h : CmdHead) (arg : BitVec 32) (body : List Byte) (c : CmdRec)

/-- A WRITE that is taken. -/
theorem write_writes (hc : c = h.record 0x03 arg.toNat body) (k : s.takes h c = true) (q : State × Status × Nat)
    (hq : q = (s.heard h c).writeWords true arg.toNat (wordsOf body (body.length / 4)) 0) :
    exec (.write h arg body) s = .next (((q.1.mirrorCmd h.session.val c q.2.1).complete (s.flightOf h c)
      (if (decide (arg.toNat ≤ GLB_ADDR) && decide (GLB_ADDR < arg.toNat + 4 * q.2.2)) = true then some (s.heard h c).addr
       else none) q.2.1 q.2.2 []).settle) := by
  subst hc
  have ha := (takes_parts k).2.1
  have r := command_moves s h 0x03 arg body q.1 (ends q.2.1 q.2.2 []) _ rfl k (runOp_03 _ _ rfl)
    (opWrite_writes _ true arg.toNat body ha q hq) rfl
  rw [movedFrom_write _ _ _ rfl] at r
  exact congrArg Host.Outcome.next r

/-- A MODIFY that is taken. -/
theorem modify_writes (hc : c = h.record 0x04 arg.toNat body) (k : s.takes h c = true) (q : State × Status)
    (hq : q = (s.heard h c).writeReg true arg.toNat (BitVec.ofNat 32 (leAt body 0 4)) (BitVec.ofNat 32 (leAt body 4 4))) :
    exec (.modify h arg body) s = .next (((q.1.mirrorCmd h.session.val c q.2).complete (s.flightOf h c)
      (if decide (arg.toNat = GLB_ADDR ∧ q.2 = .ok ∧ (BitVec.ofNat 32 (leAt body 0 4) : Word).getF GLB_ADDR_ADDR ≠ 0) = true
       then some (s.heard h c).addr else none) q.2 ((s.heard h c).readReg arg.toNat).toNat []).settle) := by
  subst hc
  have ha := (takes_parts k).2.1
  have r := command_moves s h 0x04 arg body q.1 (ends q.2 ((s.heard h _).readReg arg.toNat).toNat []) _ rfl k
    (runOp_04 _ _ rfl) (opModify_writes _ true arg.toNat body ha q hq) rfl
  rw [movedFrom_modify _ _ _ rfl] at r
  exact congrArg Host.Outcome.next r

end

/-! ## OUTPUT_ENABLE -/

/-- A command that runs on arrival as OUTPUT_ENABLE. -/
theorem outputEnable_runs (s : State) (h : CmdHead) (arg : BitVec 32) (body : List Byte) (c : CmdRec)
    (hc : c = h.record 0x72 arg.toNat body) (hh : s.hears h c = true) (u : State) (st : Status)
    (ho : (s.heard h c).opOutputEnable arg.toNat = (u, st)) :
    exec (.outputEnable h arg body) s = .next (u.ended (s.flightOf h c) st 0 []) := by
  subst hc
  have r := command_runs s h 0x72 arg body hh
  rw [runOp_72 _ _ rfl] at r
  have hq : (s.heard h _).opOutputEnable (s.flightOf h (h.record 0x72 arg.toNat body)).cmd.arg = (u, st) := ho
  rw [hq] at r
  exact congrArg Host.Outcome.next r

section
variable (s : State)

/-- What forbids the permission to drive (R25, R29). -/
def State.permissionBarred (s : State) : Prop :=
  s.flag GLB_STATUS GLB_STATUS_HOLD_OK = false ∨ s.ready = false ∨ s.flag GLB_STATUS GLB_STATUS_SAFE = true ∨ s.standby = true

theorem permissionBarred_iff : s.permissionBarred ↔
    (¬s.flag GLB_STATUS GLB_STATUS_HOLD_OK ∨ ¬s.ready ∨ s.flag GLB_STATUS GLB_STATUS_SAFE ∨ s.standby) := by
  simp [State.permissionBarred]

theorem opOutputEnable_off :
    s.opOutputEnable 0 = ((s.setFlag GLB_STATUS GLB_STATUS_OUT_PERMIT false).liveSettle, .ok) := rfl

theorem opOutputEnable_barred (h : s.permissionBarred) : s.opOutputEnable 1 = (s, .state) := by
  rw [State.opOutputEnable, if_neg (by decide), if_pos rfl, if_pos ((permissionBarred_iff s).1 h)]

theorem opOutputEnable_on (h : ¬s.permissionBarred) :
    s.opOutputEnable 1 = ((s.setFlag GLB_STATUS GLB_STATUS_OUT_PERMIT true).permits.liveSettle, .ok) := by
  rw [State.opOutputEnable, if_neg (by decide), if_pos rfl, if_neg (mt (permissionBarred_iff s).2 h)]

theorem opOutputEnable_range {a : Nat} (h : 2 ≤ a) : s.opOutputEnable a = (s, .range) := by
  rw [State.opOutputEnable, if_neg (by omega), if_neg (by omega)]

/-! ## The bus port (R95) -/

section
variable {a : Nat} (v : Word)

theorem busWrite_unassigned (h : addrOk a = false) : s.busWrite a v = (s, .addr) := by
  rw [State.busWrite, if_pos (by simp [h])]

theorem busWrite_closed (h : addrOk a = true) (hm : busMayWrite a = false) : s.busWrite a v = (s, .access) := by
  rw [State.busWrite, if_neg (by simp [h]), if_pos (by simp [hm])]

theorem busWrite_open (h : addrOk a = true) (hm : busMayWrite a = true) :
    s.busWrite a v = s.writeReg true a 0xFFFFFFFF v := by
  rw [State.busWrite, if_neg (by simp [h]), if_neg (by simp [hm])]

end

/-! ## The registers GLB_ADDR and BLU_T_SIG -/

theorem writeGlb_addr {w : Wr} (hb : w.base = GLB_ADDR) : s.writeGlb w = s.writeAddr w := by
  rw [State.writeGlb, if_neg (by rw [hb]; decide), if_pos hb]

variable (v : Word)

theorem unitWrite_addr :
    s.unitWrite 0 0 (s.wr GLB_ADDR 0xFFFFFFFF v) = s.writeAddr (s.wr GLB_ADDR 0xFFFFFFFF v) := by
  obtain ⟨hb, ha, -, -⟩ := wr_base s _ _ _ _ 0xFFFFFFFF v _ _ _ at_GLB_ADDR
  rw [unitWrite_glb s 0 0 _ _ ha (by decide), writeGlb_addr s hb]

theorem wr_addr_fld : (s.wr GLB_ADDR 0xFFFFFFFF v).fld GLB_ADDR_ADDR = v.getF GLB_ADDR_ADDR :=
  all_fld s GLB_ADDR_ADDR at_GLB_ADDR v (by decide) (by decide)

theorem writeBlu_signals (e k : Nat) {w : Wr} (hb : w.base = BLU_T_SIG 0 0) : s.writeBlu e k w =
    ((bitsSet 8 (w.act.getF BLU_T_SIG_SIG)).foldl (fun t b => t.setSignal (8 * (16 * e + k) + b)) s, .ok) := by
  rw [State.writeBlu, if_neg (by rw [hb]; decide), if_neg (by rw [hb]; decide), if_pos hb]

theorem blockOf_blu {a : Nat} (hl : 0xC0000 ≤ a) (hu : a < 0x100000) : blockOf a = some .blu := by
  unfold blockOf
  repeat rw [if_neg (by omega)]
  exact if_pos hu

theorem blockOf_signals (e k : Fin 16) : blockOf (BLU_T_SIG e k) = some .blu := by
  have he := e.isLt
  have hk := k.isLt
  exact blockOf_blu (by unfold BLU_T_SIG; omega) (by unfold BLU_T_SIG; omega)

/-- The signal bits of a word written whole. -/
theorem getF_signals : (v &&& 0xFFFFFFFF &&& 0xFF : Word).getF BLU_T_SIG_SIG = v.getF BLU_T_SIG_SIG := by
  have hv : (v &&& 0xFFFFFFFF : Word) = v := BitVec.and_allOnes
  have k := getF_merge_in 0 v 0xFF BLU_T_SIG_SIG (by decide) (by decide)
  rw [hv, ← k]
  simp

variable (ha : s.awake = true)
include ha

theorem addrWrite_locked (hl : s.addrLocked = true) : exec (.addrWrite v) s = .next (s.done .locked 0 []) :=
  congrArg Host.Outcome.next (regWrite_no s _ _ _ _ _ _ _ _ _ s .locked ha at_GLB_ADDR (by decide) (by decide)
    (by rw [unitWrite_addr, State.writeAddr, if_pos hl]))

theorem addrWrite_range (hl : s.addrLocked = false) (hv : v.getF GLB_ADDR_ADDR = 0 ∨ 250 < v.getF GLB_ADDR_ADDR) :
    exec (.addrWrite v) s = .next (s.done .range 0 []) :=
  congrArg Host.Outcome.next (regWrite_no s _ _ _ _ _ _ _ _ _ s .range ha at_GLB_ADDR (by decide) (by decide)
    (by rw [unitWrite_addr, State.writeAddr, if_neg (by simp [hl]), wr_addr_fld, if_pos hv]))

theorem addrWrite_takes (hl : s.addrLocked = false) (h0 : 0 < v.getF GLB_ADDR_ADDR) (h1 : v.getF GLB_ADDR_ADDR ≤ 250) :
    exec (.addrWrite v) s = .next ((s.plainWrite (s.wr GLB_ADDR 0xFFFFFFFF v)).done .ok 0 []) :=
  congrArg Host.Outcome.next (regWrite_ok s _ _ _ _ _ _ _ _ _ _ ha at_GLB_ADDR (by decide)
    (Or.inl (wr_free s at_GLB_ADDR _ _ (by decide)))
    (by rw [unitWrite_addr, State.writeAddr, if_neg (by simp [hl]), wr_addr_fld, if_neg (by omega)]))

/-- A write of a thread's signals sets those whose bit is 1 (R100). -/
theorem signalWrite_sets (g : Fin 256) : exec (.signalWrite g v) s =
    .next (((bitsSet 8 (v.getF BLU_T_SIG_SIG)).foldl (fun t b => t.setSignal (8 * g.val + b)) s).done .ok 0 []) := by
  obtain ⟨e, he⟩ : ∃ e : Fin 16, e.val = thEngine g.val := ⟨⟨thEngine g.val, by unfold thEngine; omega⟩, rfl⟩
  obtain ⟨k, hk⟩ : ∃ k : Fin 16, k.val = thNumber g.val := ⟨⟨thNumber g.val, by unfold thNumber; omega⟩, rfl⟩
  have hg : 16 * e.val + k.val = g.val := by rw [he, hk, thEngine, thNumber]; omega
  obtain ⟨hb, hadr, hact, -⟩ := wr_base s _ _ _ _ 0xFFFFFFFF v _ _ _ (at_BLU_T_SIG e k)
  refine (congrArg (fun a => Host.Outcome.next (s.regWrite a 0xFFFFFFFF v)) (by rw [he, hk])).trans
    (congrArg Host.Outcome.next (regWrite_ok s (BLU_T_SIG e k) _ _ _ _ _ _ _ _ _ ha (at_BLU_T_SIG e k) (by decide)
    (Or.inl (wr_free s (at_BLU_T_SIG e k) _ _ (by decide))) ?_))
  rw [unitWrite_blu s _ _ _ _ hadr (blockOf_signals e k), writeBlu_signals s _ _ hb, hact, getF_signals, hg]

end

/-- Settles O41: each command through its own law, the writes through the unit of their register. -/
theorem hostRegisters : Obligations.HostRegisters := by
  unfold Obligations.HostRegisters
  intro s h arg body v g a n ends'
  refine ⟨?_, ?_, ?_, ?_, ?_⟩
  · rintro c r hc hh rfl
    exact ⟨read_refuses s h arg body c hc hh, fun hr q hq => read_reads s h arg body c hc hh hr q hq⟩
  · rintro c r q hc ht rfl hq
    exact write_writes s h arg body c hc ht q hq
  · rintro c r q hc ht rfl hq
    exact modify_writes s h arg body c hc ht q hq
  · rintro c r hc hh rfl
    refine ⟨fun e => ?_, fun e hn => ?_, fun e hn => ?_, fun e => ?_⟩ <;>
      refine outputEnable_runs s h arg body c hc hh _ _ ?_
    · rw [show arg.toNat = 0 from e, opOutputEnable_off]
    · rw [show arg.toNat = 1 from e, opOutputEnable_barred _ hn]
    · rw [show arg.toNat = 1 from e, opOutputEnable_on _ hn]
    · exact opOutputEnable_range _ e
  · intro ha
    refine ⟨?_, addrWrite_locked s v ha, addrWrite_range s v ha, addrWrite_takes s v ha, signalWrite_sets s v ha g⟩
    rintro q rfl
    refine ⟨fun e => ?_, fun e => ?_, fun e => ?_, fun e eb => ?_, fun e eb => ?_⟩ <;>
      refine congrArg Host.Outcome.next ?_
    · rw [regWriteBy_host s _ v ha, if_neg e]
    · rw [regWriteBy_host s _ v ha, if_pos e]
    · rw [regWriteBy_bus s _ v ha, busWrite_unassigned s v e]
    · rw [regWriteBy_bus s _ v ha, busWrite_closed s v e eb]
    · rw [regWriteBy_bus s _ v ha, busWrite_open s v e eb]

end Sys2Proof.Machine
end

