-- ==== Sys2Proof/Proofs/BluletWide.lean ====
section
/-! SUPPORT. The halves and differences of wide registers (R117, R122), and the Blulet instructions that compare, move and read copies
(R120 to R123). -/

namespace Sys2Proof.Machine

/-! ## Halves of a wide register -/

theorem wide_low (w : BitVec 64) : BitVec.ofNat 32 w.toNat = w.setWidth 32 := BitVec.ofNat_toNat 32 w

theorem wide_high (w : BitVec 64) : BitVec.ofNat 32 (w.toNat / 2 ^ 32) = (w >>> 32).setWidth 32 := by
  apply BitVec.eq_of_toNat_eq
  simp [Nat.shiftRight_eq_div_pow]

theorem toNat_halves (a b : Word) : (a ++ b).toNat = a.toNat * 2 ^ 32 + b.toNat := by
  rw [BitVec.toNat_append, Nat.shiftLeft_eq, Nat.mul_comm, ← Nat.two_pow_add_eq_or_of_lt b.isLt]

theorem wide_putLow (w : BitVec 64) (a : Word) :
    BitVec.ofNat 64 (w.toNat / 2 ^ 32 * 2 ^ 32 + a.toNat) = (w >>> 32).setWidth 32 ++ a := by
  apply BitVec.eq_of_toNat_eq
  have hw := w.isLt
  have ha := a.isLt
  rw [toNat_halves, ← wide_high, BitVec.toNat_ofNat, BitVec.toNat_ofNat]
  omega

theorem wide_putHigh (w : BitVec 64) (a : Word) :
    BitVec.ofNat 64 (a.toNat * 2 ^ 32 + w.toNat % 2 ^ 32) = a ++ w.setWidth 32 := by
  apply BitVec.eq_of_toNat_eq
  have ha := a.isLt
  rw [toNat_halves, BitVec.toNat_ofNat, BitVec.toNat_setWidth]
  omega

/-- The difference of two a registers is that of their 64-bit words (R3). -/
theorem Thread.wideDiff_eq (x : Thread) (c d : Nat) :
    x.wideDiff c d = if c < 2 ∧ d < 2 then (x.wide c - x.wide d).toInt else
      (if c < 2 then (x.wide c).toInt else (x.wide c).toNat) - (if d < 2 then (x.wide d).toInt else (x.wide d).toNat) := by
  unfold Thread.wideDiff
  split
  · next h => rw [Thread.wideInt, Thread.wideInt, if_pos h.1, if_pos h.2, angDiff_toInt]
  · rfl

theorem wsubResult_eq (d : Int) : wsubResult d =
    BitVec.ofInt 32 (if d < -(2 ^ 31) then -(2 ^ 31) else if 2 ^ 31 - 1 < d then 2 ^ 31 - 1 else d) := rfl

/-- What WSUB leaves of a thread. -/
def Thread.wsubbed (x : Thread) (c : Nat) (d : Int) : Thread := { x.setGr c (wsubResult d) with flags := x.flags.wsub d }

theorem execBluWsub_wsubbed (s : State) (i : Issue) : exec (.bluWsub i) s =
    .next (s.bluIssue i (wideOk i.sn && wideOk i.tn && i.noM && i.noX && i.noImm) fun t g =>
      .ok (t.setTh g ((t.th g).wsubbed i.dn ((t.th g).wideDiff i.sn i.tn)))) := rfl

theorem Thread.wsubbed_eq (x : Thread) (c : Nat) (e : Int) {d : Int} (hd : d = e) {r : Word} (hr : r = wsubResult d) :
    x.wsubbed c e = { x.setGr c r with flags :=
      { x.flags with z := decide (r = 0), n := r.msb, v := decide (d < -(2 ^ 31)) || decide (2 ^ 31 - 1 < d) } } := by
  subst hd hr
  rfl

/-- The age of what NOW and ANG read (R123). -/
theorem State.copyAge_bounds (s : State) : 2 ≤ s.copyAge ∧ s.copyAge ≤ 4 + 400 / s.bluClock := by
  unfold State.copyAge
  generalize 400 / s.bluClock = q
  have := Nat.mod_lt s.freeNow (Nat.add_pos_left (by decide : 0 < 3) q)
  omega

/-! ## Instructions -/

/-- An instruction that issues, is legal and does not fault. -/
theorem blu_goes {s : State} {i : Issue} {legal : Bool} {act : BluAct} {t : State} (h : s.bluReady i = true)
    (hl : legal = true) (ha : act (s.bluStepped i) i.thread.toNat = .ok t) :
    (Host.Outcome.next (s.bluIssue i legal act) : Host.Outcome State Fault Refusal) = .next t.settle :=
  congrArg Host.Outcome.next (bluIssue_ok s i legal act t h hl ha)

theorem Issue.half_legal {i : Issue} {c : Nat} (h : (wideOk c && i.noT && i.noX && i.noImm) = true) (hm : i.mn < 2) :
    (wideOk c && i.noT && decide (i.mn < 2) && i.noX && i.noImm) = true := by
  simp only [Bool.and_eq_true, decide_eq_true_eq] at h ⊢
  obtain ⟨⟨⟨hc, ht⟩, hx⟩, hi⟩ := h
  exact ⟨⟨⟨⟨hc, ht⟩, hm⟩, hx⟩, hi⟩

/-- Settles O6: each instruction issues by the law of legal instructions; the halves and the difference are those of the words. -/
theorem bluletFlagsMovesAndWide : Obligations.BluletFlagsMovesAndWide := by
  unfold Obligations.BluletFlagsMovesAndWide
  intro s i h
  dsimp only
  refine ⟨?cmp, ?mov, ?clf, ?wadd, ?wmov, ?wgetLow, ?wgetHigh, ?wputLow, ?wputHigh, ?wcmp, ?wsub, ?now, ?ang⟩
  case cmp => exact fun hl => blu_goes h hl rfl
  case mov => exact fun hl => blu_goes h hl rfl
  case clf => exact fun hl => blu_goes h hl rfl
  case wadd => exact fun hl => blu_goes h hl rfl
  case wmov => exact fun hl => blu_goes h (by simpa [wideKin, Bool.and_assoc] using hl) rfl
  case wgetLow =>
    intro hl hm
    have m0 : i.mn = 0 := by rw [Issue.mn, hm]; rfl
    refine blu_goes h (Issue.half_legal hl (by omega)) ?_
    simp only [m0, if_neg (show ¬(0 : Nat) = 1 by decide), wide_low]
  case wgetHigh =>
    intro hl hm
    have m1 : i.mn = 1 := by rw [Issue.mn, hm]; rfl
    refine blu_goes h (Issue.half_legal hl (by omega)) ?_
    simp only [m1, if_true, wide_high]
  case wputLow =>
    intro hl hm
    have m0 : i.mn = 0 := by rw [Issue.mn, hm]; rfl
    refine blu_goes h (Issue.half_legal hl (by omega)) ?_
    simp only [m0, if_neg (show ¬(0 : Nat) = 1 by decide), wide_putLow]
  case wputHigh =>
    intro hl hm
    have m1 : i.mn = 1 := by rw [Issue.mn, hm]; rfl
    refine blu_goes h (Issue.half_legal hl (by omega)) ?_
    simp only [m1, if_true, wide_putHigh]
  case wcmp => exact fun hl => blu_goes h (by simpa [wideKin, Bool.and_assoc] using hl) rfl
  case wsub =>
    intro hl d hd r hr
    rw [← Thread.wideDiff_eq] at hd
    rw [← wsubResult_eq] at hr
    exact (execBluWsub_wsubbed s i).trans
      (blu_goes h hl (congrArg (fun y => Except.ok ((s.bluStepped i).setTh i.thread.toNat y)) (Thread.wsubbed_eq _ i.dn _ hd hr)))
  case now =>
    intro hl
    exact ⟨_, State.copyAge_bounds _ |>.1, State.copyAge_bounds _ |>.2, blu_goes h (by simpa [Bool.and_assoc] using hl) rfl⟩
  case ang =>
    intro hl
    refine ⟨_, State.copyAge_bounds _ |>.1, State.copyAge_bounds _ |>.2, blu_goes h ?_ rfl⟩
    simp only [Bool.and_eq_true] at hl ⊢
    obtain ⟨ho, hx⟩ := hl
    exact ⟨⟨ho.1, hx⟩, ho.2⟩

end Sys2Proof.Machine
end

