-- ==== Sys2Proof/Proofs/ThreadEvents.lean ====
section
/-! SUPPORT. How a thread's wait ends and what else befalls threads by itself (R97 to R101, R106, R114, R133). -/

namespace Sys2Proof.Machine

/-! ## What a wait leaves -/

theorem th_count (s : State) (a : Nat) (f : Fld) (k g : Nat) : (s.count a f k).th g = s.th g := rfl

theorem th_setFld (s : State) (a : Nat) (f : Fld) (v g : Nat) : (s.setFld a f v).th g = s.th g := rfl

theorem th_setTh_self (s : State) (g : Nat) (x : Thread) : (s.setTh g x).th g = x := by
  rw [State.th_setTh, if_pos rfl]

theorem th_endDoze (s : State) (g : Nat) : s.endDoze.th g = s.th g := by
  unfold State.endDoze
  split <;> rfl

theorem Thread.setWide_st (x : Thread) (c : Nat) (v : BitVec 64) : (x.setWide c v).st = x.st := by
  unfold Thread.setWide
  (repeat' split) <;> rfl

theorem Thread.met_st (x : Thread) (t : Nat) : (x.met t).st = x.st := by
  unfold Thread.met
  split
  · exact Thread.setWide_st x _ _
  · rfl

theorem makeReady_st (s : State) (g : Nat) : ((s.makeReady g).th g).st = if s.thHold g then .held else .ready := by
  unfold State.makeReady
  rw [th_endDoze]
  exact congrArg Thread.st (th_setTh_self s g _)

theorem signalsMet_st (s : State) (g m : Nat) (d : Option Nat) (timed : Bool) :
    ((s.signalsMet g m d timed).th g).st = (s.th g).st := by
  unfold State.signalsMet
  dsimp only
  split
  · rw [th_setFld, th_setTh_self, Thread.met_st]
    split <;> rfl
  · rw [th_setTh_self, Thread.met_st]
    split <;> rfl

/-! ## The end of a wait -/

/-- What the end of a wait brings, before the thread becomes READY. -/
def State.waitGain (s : State) (g : Nat) : WaitOn → State
  | .none_ => s
  | .angle n r _ => s.setTh g { (s.th g).met s.time with flags := (s.th g).flags.setTo (!s.angleMet n ((s.th g).wide r)) }
  | .time _ => s.setTh g { (s.th g).met s.time with flags := (s.th g).flags.setTo false }
  | .signals m d timed => s.signalsMet g m d timed
  | .bus r => s.busMet g r
  | .fence => s

/-- What a wait is met by (R98). -/
def State.waitCond (s : State) (g : Nat) : WaitOn → Bool
  | .none_ => false
  | .angle n r timed => s.angleMet n ((s.th g).wide r) || (timed && s.limitMet (s.th g))
  | .time r => decide (((s.th g).wide (2 + r)).toNat ≤ s.time)
  | .signals m _ timed => decide (Nat.land (s.thSignals g) m ≠ 0) || (timed && s.limitMet (s.th g))
  | .bus (.edge _ j _) => s.edgeFits j
  | .bus _ => true
  | .fence => (s.th g).errs.isEmpty

/-- The waits whose end is no effect outside the thread: no posted access and no queued edge. -/
def WaitOn.plain : WaitOn → Bool
  | .bus (.write _ _) | .bus (.capture _) | .bus (.edge _ _ _) => false
  | _ => true

section
variable {s : State} {g : Nat} {w : WaitOn} (hw : (s.th g).wait = w)
include hw

theorem waitMet_waiting (hx : (s.th g).st = .waiting) : s.waitMet g = s.waitCond g w := by
  subst hw
  unfold State.waitMet
  dsimp only
  rw [hx]
  exact Bool.true_and _

theorem waitEnd_gains (hm : s.waitMet g = true) (hs : ((s.waitGain g w).th g).st = .waiting) :
    s.waitEnd g = (s.waitGain g w).makeReady g := by
  subst hw
  unfold State.waitEnd
  rw [if_pos hm]
  exact if_pos hs

theorem waitRow_plain (hp : w.plain = true) : s.waitRow g = (s.waitEnd g).settle := by
  unfold State.waitRow
  rw [hw]
  cases w with
  | bus r => cases r with
    | write | capture | edge => exact absurd hp Bool.false_ne_true
    | _ => rfl
  | _ => rfl

/-- A plain wait that is met. -/
theorem waitRow_ends {t : State} (hx : (s.th g).st = .waiting) (hp : w.plain = true) (hc : s.waitCond g w = true)
    (ht : s.waitGain g w = t) (hs : (t.th g).st = .waiting) : s.waitRow g = (t.makeReady g).settle := by
  subst ht
  rw [waitRow_plain hw hp, waitEnd_gains hw ((waitMet_waiting hw hx).trans hc) hs]

end

theorem signalsCond_iff {s : State} {g m : Nat} {d : Option Nat} {timed : Bool} : s.waitCond g (.signals m d timed) = true ↔
    Nat.land (s.thSignals g) m ≠ 0 ∨ (timed = true ∧ (s.th g).t1.toNat ≤ s.time) := by
  simp [State.waitCond, State.limitMet]

theorem waitRow_write {s : State} {g a : Nat} {v : Word} (hx : (s.th g).st = .waiting)
    (hw : (s.th g).wait = .bus (.write a v)) : s.waitRow g = ((s.makeReady g).bwrTake g a v).settle := by
  have hm : s.waitMet g = true := waitMet_waiting hw hx
  have he := waitEnd_gains hw hm hx
  simp only [State.waitRow, hw, if_pos hm, he]
  rfl

theorem waitRow_capture {s : State} {g n : Nat} (hx : (s.th g).st = .waiting)
    (hw : (s.th g).wait = .bus (.capture n)) : s.waitRow g = ((s.makeReady g).captTake g n).settle := by
  have hm : s.waitMet g = true := waitMet_waiting hw hx
  have he := waitEnd_gains hw hm hx
  simp only [State.waitRow, hw, if_pos hm, he]
  rfl

/-- A shaft that moves forward has reached an angle by the 64-bit difference (R3, R98, R99). -/
theorem angleMet_forward {s : State} {n : Nat} {a : BitVec 64} (hv : s.angValid n = true) (hd : (s.shaft n).dir = false)
    (hs : (s.shaft n).still = false) (ha : 0 ≤ (BitVec.ofInt 64 (s.phi n / 65536) - a).toInt) : s.angleMet n a = true := by
  unfold State.angleMet State.forward State.phiPast
  rw [angDiff_ofInt, hv, hd, hs, decide_eq_true ha]
  rfl

/-! ## Slices, deadlines, statuses and edges -/

theorem forcedYield_ready {s : State} {g : Nat} (hx : (s.th g).st = .running) (hi : 64 ≤ (s.th g).issued)
    (he : (s.th g).errPend = none) (hp : (s.th g).stopPend = false) :
    s.forcedYield g = (s.count (BLU_CNT (thEngine g)) BLU_CNT_FORCED 1).makeReady g := by
  have hd : s.sliceDone g = true := by simp [State.sliceDone, sliceLength, hx, hi]
  rw [State.forcedYield, if_pos hd, State.yieldPoint]
  simp only [th_count, he, hp]
  rfl

theorem promote_held {s : State} {g : Nat} (hx : (s.th g).st = .held) (hc : s.thClass g = 1)
    (ht : (s.th g).readyTick + s.thDeadline g ≤ s.time) :
    s.promote g = ((s.setTh g { s.th g with st := .ready, promoted := true }).count (BLU_CNT (thEngine g))
      BLU_CNT_PROMOTED 1).endDoze := by
  rw [State.promote, if_pos (by simp [State.promotionDue, hx, hc, ht])]

section
variable {s : State} {g fpc : Nat} {rest : List Nat} (he : (s.th g).errs = fpc :: rest)
include he

theorem busErrReturn_running (hx : (s.th g).st = .running) (hp : (s.th g).errPend = none) :
    s.busErrReturn g = (s.setTh g { s.th g with errs := rest }).setTh g
      { s.th g with errs := rest, errPend := some fpc } := by
  simp only [State.busErrReturn, he, hx, if_true, th_setTh_self, hp, Option.getD_none]

theorem busErrReturn_waiting (hx : (s.th g).st ≠ .running) (hl : (s.th g).live = true) :
    s.busErrReturn g = (s.setTh g { s.th g with errs := rest }).threadFault g 5 fpc := by
  simp only [State.busErrReturn, he, if_neg hx, hl, if_true]
  rfl

end

theorem edgePlaceOut_due {s : State} {j : Nat} {e : QEdge} {es : List QEdge} (hq : s.edgeQ j = e :: es)
    (ht : e.at_ / 64 ≤ s.time) : s.edgePlaceOut j = (s.setEdgeQ j es).poEdge j e.thread e.at_ e.level := by
  have hd : s.edgeDue j = true := by rw [State.edgeDue, hq]; exact decide_eq_true ht
  rw [State.edgePlaceOut, hq]
  exact if_pos hd

/-- Settles O14: each wait by what it is met by and what it gains, then the other four happenings. -/
theorem threadEvents : Obligations.ThreadEvents := by
  unfold Obligations.ThreadEvents
  intro s f g x a met
  refine ⟨fun hx => ⟨?time, ?angle, ?limit, ?signals, ?word, ?wide, ?requestWord, ?request, ?write, ?capture, ?fence⟩,
    ?slice, ?deadline, ?statusRunning, ?statusWaiting, ?edge, makeReady_st s g⟩
  case time =>
    intro r hw ht
    exact congrArg Host.Outcome.next (waitRow_ends hw hx rfl (decide_eq_true ht) rfl
      ((congrArg Thread.st (th_setTh_self ..)).trans ((Thread.met_st ..).trans hx)))
  case angle =>
    intro n r timed hw hv hd hs ha
    have hm := angleMet_forward hv hd hs ha
    refine congrArg Host.Outcome.next (waitRow_ends hw hx rfl (Bool.or_eq_true_iff.2 (.inl hm)) ?_
      ((congrArg Thread.st (th_setTh_self ..)).trans ((Thread.met_st ..).trans hx)))
    rw [State.waitGain, hm]
    rfl
  case limit =>
    intro n r hw hm ht
    refine congrArg Host.Outcome.next (waitRow_ends hw hx rfl (Bool.or_eq_true_iff.2 (.inr (decide_eq_true ht))) ?_
      ((congrArg Thread.st (th_setTh_self ..)).trans ((Thread.met_st ..).trans hx)))
    rw [State.waitGain, hm]
    rfl
  case signals =>
    intro m d timed hw hm
    exact congrArg Host.Outcome.next (waitRow_ends hw hx rfl (signalsCond_iff.2 hm) rfl
      ((signalsMet_st ..).trans hx))
  case word =>
    intro d w hw
    exact congrArg Host.Outcome.next (waitRow_ends hw hx rfl rfl rfl
      ((congrArg Thread.st (th_setTh_self ..)).trans hx))
  case wide =>
    intro d w hw
    exact congrArg Host.Outcome.next (waitRow_ends hw hx rfl rfl rfl
      ((congrArg Thread.st (th_setTh_self ..)).trans ((Thread.setWide_st ..).trans hx)))
  case requestWord =>
    intro q i w hw
    exact congrArg Host.Outcome.next (waitRow_ends hw hx rfl rfl rfl
      ((congrArg Thread.st (th_setTh_self ..)).trans hx))
  case request =>
    intro q w hw
    exact congrArg Host.Outcome.next (waitRow_ends hw hx rfl rfl rfl
      ((congrArg Thread.st (th_setTh_self ..)).trans hx))
  case write => exact fun b v hw => congrArg Host.Outcome.next (waitRow_write hx hw)
  case capture => exact fun n hw => congrArg Host.Outcome.next (waitRow_capture hx hw)
  case fence =>
    intro hw he
    exact congrArg Host.Outcome.next (waitRow_ends hw hx rfl (List.isEmpty_iff.2 he) rfl hx)
  case slice => exact fun hx hi he hp => congrArg Host.Outcome.next (congrArg State.settle (forcedYield_ready hx hi he hp))
  case deadline => exact fun hx hc ht => congrArg Host.Outcome.next (promote_held hx hc ht)
  case statusRunning =>
    exact fun fpc rest he hx hp => congrArg Host.Outcome.next (congrArg State.settle (busErrReturn_running he hx hp))
  case statusWaiting =>
    exact fun fpc rest he hx hl => congrArg Host.Outcome.next (congrArg State.settle (busErrReturn_waiting he hx hl))
  case edge => exact fun j e es hq ht => congrArg Host.Outcome.next (edgePlaceOut_due hq ht)

end Sys2Proof.Machine
end

