-- ==== Sys2Proof/Proofs/EventCommands.lean ====
section
/-! SUPPORT. EVENT_ARM, EVENT_CANCEL and EVENT_QUERY as they run on arrival (R87 to R89). -/

namespace Sys2Proof.Machine

/-! ## Arming -/

/-- A descriptor with END where it stands on the shaft (R3). -/
def EventDesc.onShaft (r : State) (b : EventDesc) : EventDesc := { b with fin := r.angleNear b.shaft b.fin }

/-- The event that arming a descriptor puts at its index. -/
def EventDesc.armed (d : EventDesc) : AlmEvent := { AlmEvent.init with desc := d, st := .armed, endless := decide (d.count = 0) }

/-- The index that a command names, where it is not in use, or the one chosen (R87). -/
def State.armIndex (r : State) : Option Nat → Option Nat
  | some i => if (r.event i).st.inUse then none else some i
  | none => r.almChoose

section
variable {r : State} {at_ : Option Nat} {b : EventDesc} (hb : b.ok = true)
include hb

theorem almArm_disabled (he : r.shaftEn b.shaft = false) : r.almArm at_ b = (r, .state, 0) := by
  have hd : (b.onShaft r).ok = true := hb
  exact (if_neg (not_not_intro hd)).trans (if_pos (Bool.not_eq_true _ ▸ he))

variable (he : r.shaftEn b.shaft = true)
include he

theorem almArm_chooses : r.almArm at_ b = match r.armIndex at_ with
    | none => (r, if at_.isSome then .busy else .nospace, 0)
    | some i =>
      if (b.onShaft r).fin * 65536 ≤ r.phi b.shaft then (r, .late, 0)
      else ((r.setEvent i (b.onShaft r).armed).almJudge almFuel i, .ok, i) := by
  have hd : (b.onShaft r).ok = true := hb
  refine (if_neg (not_not_intro hd)).trans ((if_neg (not_not_intro he)).trans ?_)
  cases at_ <;> rfl

theorem almArm_noIndex (hi : r.armIndex at_ = none) :
    r.almArm at_ b = (r, if at_.isSome then .busy else .nospace, 0) := by
  rw [almArm_chooses hb he, hi]

variable {i : Nat} (hi : r.armIndex at_ = some i)
include hi

theorem almArm_late (hl : (b.onShaft r).fin * 65536 ≤ r.phi b.shaft) : r.almArm at_ b = (r, .late, 0) := by
  rw [almArm_chooses hb he, hi]
  exact if_pos hl

theorem almArm_arms (hl : r.phi b.shaft < (b.onShaft r).fin * 65536) :
    r.almArm at_ b = ((r.setEvent i (b.onShaft r).armed).almJudge almFuel i, .ok, i) := by
  rw [almArm_chooses hb he, hi]
  exact if_neg (by omega)

end

/-! ## The records -/

section
variable (s : State) (h : CmdHead) (arg : BitVec 32) (body : List Byte)

theorem alone_arm (c : CmdRec) (ho : c.opcode = 0x10) (ha : c.alone = .ok) :
    (c.arg < almSize ∨ c.arg = 0xFFFFFFFF) ∧ descReservedOk c.body = true ∧ (EventDesc.ofBytes c.body).ok = true := by
  simpa [CmdRec.alone, ho, and_assoc] using ha

theorem alone_cancel (c : CmdRec) (ho : c.opcode = 0x11) (ha : c.alone = .ok) :
    if bitOf c.arg 31 then bitsOf c.arg 30 4 = 0 else bitsOf c.arg 30 14 = 0 := by
  simpa [CmdRec.alone, ho] using ha

theorem lengthOk_arm (c : CmdRec) (ho : c.opcode = 0x10) (hl : c.lengthOk = true) : c.body.length = 32 := by
  simpa [CmdRec.lengthOk, ho] using hl

/-- The index that ARG names (R87). -/
def armArg (a : Nat) : Option Nat := if a < almSize then some a else none

theorem effect_arm (r : State) (c : CmdRec) (ho : c.opcode = 0x10) (hl : c.body.length = 32) (ha : c.alone = .ok)
    (q : State × Status × Nat) (hq : r.almArm (armArg c.arg) { EventDesc.ofBytes c.body with owner := none } = q) :
    r.effect true false c = (q.1, ends q.2.1 q.2.2 []) := by
  obtain ⟨hi, hr, -⟩ := alone_arm c ho ha
  have e : r.eventArm c.arg c.body none = q := by
    rw [State.eventArm, if_neg (by simp [hl, hi, hr])]
    exact hq
  simp [State.effect, ho, State.opArm, e]

theorem effect_cancel (r : State) (c : CmdRec) (ho : c.opcode = 0x11) :
    r.effect true false c = ((r.eventCancel c.arg).1, ends (r.eventCancel c.arg).2.1 (r.eventCancel c.arg).2.2 []) := by
  simp [State.effect, ho]

variable (c : CmdRec)

/-- An EVENT_ARM that is taken does what arming its descriptor does. -/
theorem eventArm_arms (hc : c = h.record 0x10 arg.toNat body) (k : s.takes h c = true) (q : State × Status × Nat)
    (hq : (s.heard h c).almArm (armArg arg.toNat) { EventDesc.ofBytes body with owner := none } = q) :
    exec (.eventArm h arg body) s = .next (q.1.ended (s.flightOf h c) q.2.1 q.2.2 []) := by
  subst hc
  obtain ⟨k1, k2, -⟩ := takes_parts k
  have r := command_ends s h 0x10 arg body q.1 (ends q.2.1 q.2.2 []) _ rfl k (runOp_10 _ _ rfl)
    (effect_arm _ _ rfl (lengthOk_arm _ rfl (hears_length _ _ _ k1)) k2 q hq)
    (show (0x10 : Nat) ≠ 3 by decide) (show (0x10 : Nat) ≠ 4 by decide) rfl
  exact congrArg Host.Outcome.next r

/-- An EVENT_CANCEL that is taken. -/
theorem eventCancel_cancels (hc : c = h.record 0x11 arg.toNat body) (k : s.takes h c = true) (q : State × Status × Nat)
    (hq : (s.heard h c).eventCancel arg.toNat = q) :
    exec (.eventCancel h arg body) s = .next (q.1.ended (s.flightOf h c) q.2.1 q.2.2 []) := by
  subst hc hq
  have r := command_ends s h 0x11 arg body _ _ _ rfl k (runOp_11 _ _ rfl) (effect_cancel _ _ rfl)
    (show (0x11 : Nat) ≠ 3 by decide) (show (0x11 : Nat) ≠ 4 by decide) rfl
  exact congrArg Host.Outcome.next r

/-- An EVENT_QUERY that is heard. -/
theorem eventQuery_replies (hc : c = h.record 0x12 arg.toNat body) (k : s.hears h c = true) (ha : arg.toNat < almSize) :
    exec (.eventQuery h arg body) s =
      .next ((s.heard h c).replied (s.flightOf h c) .ok 0 ((s.heard h c).event arg.toNat).bytes) := by
  subst hc
  have q := runOp_12 (s.heard h (h.record 0x12 arg.toNat body)) (s.flightOf h (h.record 0x12 arg.toNat body)) rfl
  have o : ∀ r : State, r.opEventQuery arg.toNat = ends .ok 0 (r.event arg.toNat).bytes := fun r => if_pos ha
  have r := command_reads s h 0x12 arg body _ _ rfl k (q.trans (congrArg (State.completes _ _) (o _)))
  exact congrArg Host.Outcome.next r

end

/-! ## Cancelling -/

section
variable {r : State} {a : Nat}

theorem eventCancel_shaft (hb : bitOf a 31 = true) (ha : bitsOf a 30 4 = 0) :
    r.eventCancel a = (r.almCancelAll (r.almWaiting (a % 16)), .ok, (r.almWaiting (a % 16)).length) := by
  rw [State.eventCancel, if_pos hb, if_neg (not_not_intro ha)]

theorem eventCancel_index (hb : bitOf a 31 = false) (ha : bitsOf a 30 14 = 0) {i : Nat} (hi : i = a % almSize) :
    r.eventCancel a = if (r.event i).st.waiting then (r.almCancel i, .ok, (r.event i).st.code)
      else if (r.event i).st = .active then (r.setEvent i { r.event i with stopRep := true }, .ok, (r.event i).st.code)
      else (r, .state, 0) := by
  subst hi
  rw [State.eventCancel, if_neg (Bool.eq_false_iff.1 hb), if_neg (not_not_intro ha)]

end

theorem EvState.not_waiting_of_active {e : EvState} (h : e = .active) : ¬e.waiting = true := by
  subst h
  decide

theorem EvState.not_inUse {e : EvState} (h : e.inUse = false) : ¬e.waiting = true ∧ e ≠ .active := by
  cases e <;> simp_all [EvState.inUse, EvState.waiting]

/-- Settles O18: the outcome of arming, of cancelling and of a query, each carried by the law of commands that are taken. -/
theorem eventCommands : Obligations.EventCommands := by
  unfold Obligations.EventCommands
  intro s h arg body c a
  refine ⟨?arm, ?cancel, fun k ha r hr => hr ▸ eventQuery_replies s h arg body _ rfl k ha⟩
  case arm =>
    intro k r b d hr hb hd
    obtain ⟨-, -, ho⟩ := alone_arm _ rfl (takes_parts k).2.1
    have runs := eventArm_arms s h arg body _ rfl k
    rw [← hr] at runs
    have hf : d = EventDesc.onShaft r { EventDesc.ofBytes body with owner := none } := by rw [hd, hb]; rfl
    subst hf
    refine ⟨fun he => runs (r, .state, 0) (almArm_disabled ho he), fun he => ⟨?busy, ?nospace, ?index⟩⟩
    case busy =>
      intro ha hu
      have hi : armArg arg.toNat = some a := if_pos ha
      rw [hi] at runs
      exact runs (r, .busy, 0) (almArm_noIndex ho he (if_pos hu))
    case nospace =>
      intro ha hc
      have hi : armArg arg.toNat = none := if_neg ha
      rw [hi] at runs
      exact runs (r, .nospace, 0) (almArm_noIndex ho he hc)
    case index =>
      intro i hi
      have hx : r.armIndex (armArg arg.toNat) = some i := by
        unfold armArg
        by_cases ha : arg.toNat < almSize
        · obtain ⟨hu, rfl⟩ := (if_pos ha).mp hi
          rw [if_pos ha]
          exact if_neg (Bool.eq_false_iff.1 hu)
        · rw [if_neg ha]
          exact (if_neg ha).mp hi
      exact ⟨fun hl => runs (r, .late, 0) (almArm_late ho he hx hl), fun hl => runs (_, .ok, i) (almArm_arms ho he hx hl)⟩
  case cancel =>
    intro k r hr
    have ha := alone_cancel _ rfl (takes_parts k).2.1
    have runs := eventCancel_cancels s h arg body _ rfl k
    rw [← hr] at runs
    refine ⟨fun hb => runs (_, .ok, _) (eventCancel_shaft hb ((if_pos hb).mp ha)), fun hb i e hi he => ?index⟩
    case index =>
      have q := eventCancel_index (r := r) hb ((if_neg (Bool.eq_false_iff.1 hb)).mp ha) hi
      subst he
      refine ⟨fun hw => runs (_, .ok, _) (q.trans (if_pos hw)), fun hw => ?active, fun hu => ?other⟩
      case active =>
        rw [if_neg (EvState.not_waiting_of_active hw), if_pos hw, congrArg EvState.code hw] at q
        exact runs (_, .ok, 3) q
      case other =>
        obtain ⟨hw, hn⟩ := EvState.not_inUse hu
        rw [if_neg hw, if_neg hn] at q
        exact runs (r, .state, 0) q

end Sys2Proof.Machine
end

