-- ==== Sys2Proof/Proofs/RecordRefusals.lean ====
section
/-! SUPPORT. Records turned away on arrival (R322 to R325, R341, R347): by their session, by their checks, by what a transaction
holds. -/

namespace Sys2Proof.Machine

/-! ## Arrival on a session -/

section
variable {s : State} {n src : Nat} {c : CmdRec}

theorem acceptRecord_deaf (hd : s.deaf = true) : s.acceptRecord n src c = s := if_pos hd

variable (hd : s.deaf = false)
include hd

theorem acceptRecord_foreign {o : Nat} (ho : (s.sess n).owner = some o) (hn : o ≠ src) :
    s.acceptRecord n src c = s.refuse n src c 0 .access := by
  unfold State.acceptRecord
  simp [hd, ho, hn]

variable (ho : (s.sess n).owner = some src)
include ho

/-- A record on a session of its sender (R324, R325, R341). -/
theorem acceptRecord_owned : s.acceptRecord n src c =
    if (s.sess n).credits = 0 then s.refuse n src c 0 .busy
    else if s.tagInFlight n c.tag = true ∨ s.powerWaits = true then (s.takeCredit n).refuse n src c 1 .busy
    else ((s.takeCredit n).launch n src c).settle := by
  unfold State.acceptRecord
  simp [hd, ho]

theorem acceptRecord_noCredit (hc : (s.sess n).credits = 0) : s.acceptRecord n src c = s.refuse n src c 0 .busy :=
  (acceptRecord_owned hd ho).trans (if_pos hc)

variable (hc : (s.sess n).credits ≠ 0)
include hc

theorem acceptRecord_busy (hb : s.tagInFlight n c.tag = true ∨ s.powerWaits = true) :
    s.acceptRecord n src c = (s.takeCredit n).refuse n src c 1 .busy :=
  (acceptRecord_owned hd ho).trans ((if_neg hc).trans (if_pos hb))

theorem acceptRecord_launches (ht : s.tagInFlight n c.tag = false) (hp : s.powerWaits = false) :
    s.acceptRecord n src c = ((s.takeCredit n).launch n src c).settle :=
  (acceptRecord_owned hd ho).trans ((if_neg hc).trans (if_neg (by simp [ht, hp])))

end

/-! ## The checks of a record -/

section
variable {s : State} {h : CmdHead} {c : CmdRec}

/-- The state in which a record of the owner of a session runs. -/
theorem heard_owned (ho : (s.sess h.session.val).owner = some h.src.toNat) : s.heard h c =
    { s.takeCredit h.session.val with flights := s.flights ++ [s.flightOf h c], nextFlight := s.nextFlight + 1 } := by
  have e : (if (s.sess h.session.val).owner.isNone then
      s.setSess h.session.val { s.sess h.session.val with owner := some h.src.toNat } else s) = s := if_neg (by simp [ho])
  exact congrArg (fun u : State => ({ u.takeCredit h.session.val with
    flights := s.flights ++ [s.flightOf h c], nextFlight := s.nextFlight + 1 } : State)) e

/-- A record outside any chain that fails its checks as it starts (R322). -/
theorem launch_fails (ho : (s.sess h.session.val).owner = some h.src.toNat) (hu : c.ordered = false)
    (hr : s.recordCheck h.session.val c ≠ .ok) :
    (s.takeCredit h.session.val).launch h.session.val h.src.toNat c =
      (s.heard h c).complete (s.flightOf h c) none (s.recordCheck h.session.val c) 0 [] := by
  have e : (s.heard h c).recordCheck h.session.val c = s.recordCheck h.session.val c := by
    rw [heard_owned ho]
    exact recordCheck_same _ _ _ _ rfl rfl rfl
  have l : (s.takeCredit h.session.val).launch h.session.val h.src.toNat c = (s.heard h c).startFlight (s.flightOf h c) := by
    rw [heard_owned ho, State.launch, hu]
    rfl
  have hf : ¬((s.flightOf h c).cmd.ordered = true ∧ ((s.heard h c).sess h.session.val).broken = true ∧
      (s.flightOf h c).cmd.resetsChain = false) := fun k => by simp [State.flightOf, hu] at k
  rw [l, startFlight_no _ (s.flightOf h c) hf (e ▸ hr)]
  exact congrArg (fun st => (s.heard h c).complete (s.flightOf h c) none st 0 []) e

theorem runEffect_locked {r : State} {fl : Flight} (ha : fl.cmd.alone = .ok) (hl : r.lockedFor fl.cmd = true) :
    r.runEffect fl = r.complete fl none .locked 0 [] :=
  (if_neg (not_not_intro ha)).trans (if_pos hl)

/-- A record with an effect of its own that touches what a transaction holds (R347). -/
theorem command_locked (s : State) (h : CmdHead) (op : Nat) (arg : BitVec 32) (body : List Byte) (c : CmdRec)
    (hc : h.record op arg.toNat body = c) (hh : s.hears h c = true)
    (hr : (s.heard h c).runOp (s.flightOf h c) = (s.heard h c).runEffect (s.flightOf h c)) (ha : c.alone = .ok)
    (hl : (s.heard h c).lockedFor c = true) :
    s.command h op arg body = (s.heard h c).replied (s.flightOf h c) .locked 0 [] := by
  have r := command_runs s h op arg body (by rw [hc]; exact hh)
  rw [hc, hr, runEffect_locked (fl := s.flightOf h c) ha hl] at r
  exact r

end

/-! ## The commands that come as a record with ARG and body -/

section
variable (h : CmdHead) (arg : BitVec 32) (body : List Byte)

/-- Those that answer by rules of their own, with their opcodes. -/
noncomputable def plainRecords : List (Instr × Nat) :=
  [(.nop h arg body, 0x01), (.read h arg body, 0x02), (.snapshot h arg body, 0x05), (.fence h arg body, 0x06),
   (.eventQuery h arg body, 0x12), (.productQuery h arg body, 0x22), (.poolRead h arg body, 0x31), (.codeJob h arg body, 0x38),
   (.txnBegin h arg body, 0x40), (.txnCommit h arg body, 0x41), (.txnRollback h arg body, 0x42), (.txnPrepare h arg body, 0x43),
   (.notifyComplete h arg body, 0x48), (.bluletStop h arg body, 0x52), (.recallConfig h arg body, 0x61),
   (.resetCmd h arg body, 0x70), (.outputEnable h arg body, 0x72)]

/-- Those with an effect that a transaction can stage (R343). -/
noncomputable def effectRecords : List (Instr × Nat) :=
  [(.write h arg body, 0x03), (.modify h arg body, 0x04), (.eventArm h arg body, 0x10), (.eventCancel h arg body, 0x11),
   (.productEnter h arg body, 0x20), (.productUpdate h arg body, 0x21), (.productRetire h arg body, 0x23),
   (.poolWrite h arg body, 0x30), (.bluletLoad h arg body, 0x50), (.bluletStart h arg body, 0x51), (.canaryLoad h arg body, 0x58)]

theorem exec_plainRecord : ∀ p ∈ plainRecords h arg body, ∀ s, exec p.1 s = .next (s.command h p.2 arg body) := by
  repeat refine List.forall_mem_cons.2 ⟨fun _ => rfl, ?_⟩
  exact List.forall_mem_nil _

theorem exec_effectRecord : ∀ p ∈ effectRecords h arg body, ∀ s, exec p.1 s = .next (s.command h p.2 arg body) := by
  repeat refine List.forall_mem_cons.2 ⟨fun _ => rfl, ?_⟩
  exact List.forall_mem_nil _

theorem exec_record {p : Instr × Nat} (hp : p ∈ plainRecords h arg body ∨ p ∈ effectRecords h arg body) (s : State) :
    exec p.1 s = .next (s.command h p.2 arg body) :=
  hp.elim (exec_plainRecord h arg body p · s) (exec_effectRecord h arg body p · s)

theorem runOp_effectRecord : ∀ p ∈ effectRecords h arg body, ∀ (r : State) (fl : Flight), fl.cmd.opcode = p.2 →
    r.runOp fl = r.runEffect fl := by
  refine List.forall_mem_cons.2 ⟨runOp_03, List.forall_mem_cons.2 ⟨runOp_04, List.forall_mem_cons.2 ⟨runOp_10, ?_⟩⟩⟩
  refine List.forall_mem_cons.2 ⟨runOp_11, List.forall_mem_cons.2 ⟨runOp_20, List.forall_mem_cons.2 ⟨runOp_21, ?_⟩⟩⟩
  refine List.forall_mem_cons.2 ⟨runOp_23, List.forall_mem_cons.2 ⟨runOp_30, List.forall_mem_cons.2 ⟨runOp_50, ?_⟩⟩⟩
  exact List.forall_mem_cons.2 ⟨runOp_51, List.forall_mem_cons.2 ⟨runOp_58, List.forall_mem_nil _⟩⟩

end

/-- Settles O43: the checks of a session in their order, then those of the record, through the law of records that run. -/
theorem recordRefusals : Obligations.RecordRefusals := by
  unfold Obligations.RecordRefusals
  intro s h arg body i op plain effects hm c n src hc hn hs x r
  subst hn hs
  have runs (t : State) (ht : s.acceptRecord h.session.val h.src.toNat c = t) : exec i s = .next t := by
    subst hc
    exact (exec_record h arg body hm s).trans (congrArg Host.Outcome.next ht)
  refine ⟨fun hd => runs _ (acceptRecord_deaf hd), fun hd => ⟨?foreign, ?noCredit, fun ho hk => ⟨?busy, ?check⟩⟩,
    fun he hh => ⟨?alone, ?locked⟩⟩
  case foreign => exact fun o ho hne => runs _ (acceptRecord_foreign hd ho hne)
  case noCredit => exact fun ho hk => runs _ (acceptRecord_noCredit hd ho hk)
  case busy => exact fun hb => runs _ (acceptRecord_busy hd ho hk hb)
  case check =>
    intro ht hp hu hr
    exact runs _ ((acceptRecord_launches hd ho hk ht hp).trans (congrArg State.settle (launch_fails ho hu hr)))
  case alone =>
    intro ha
    have hr := runOp_effectRecord h arg body (i, op) he (s.heard h c) (s.flightOf h c) (by rw [hc]; rfl)
    have e := command_refuses s h op arg body c hc.symm hh hr ha
    exact (exec_effectRecord h arg body (i, op) he s).trans (congrArg Host.Outcome.next e)
  case locked =>
    intro ha hl
    have hr := runOp_effectRecord h arg body (i, op) he (s.heard h c) (s.flightOf h c) (by rw [hc]; rfl)
    have e := command_locked s h op arg body c hc.symm hh hr ha hl
    exact (exec_effectRecord h arg body (i, op) he s).trans (congrArg Host.Outcome.next e)

end Sys2Proof.Machine
end

