-- ==== Sys2Proof/Proofs/RasterRuns.lean ====
section
/-! SUPPORT. Raster lanes at work (R189 to R199): the frames of a code, the angle times of its slots, its strobes, and the input that
says that the head is ready. -/

namespace Sys2Proof.Machine

/-- In Run and Doze a unit takes what happens. -/
theorem next_inRun {s t : State} {f : State → State} (ha : s.awake = true) (h : f s = t) :
    (.next (s.inRun f) : Host.Outcome State Fault Refusal) = .next t :=
  congrArg Host.Outcome.next ((if_pos ha).trans h)

/-! ## Frames (R190, R195) -/

section
variable {s : State} {n : Nat} {c : Code} (hc : (s.ras n).code = some c) (hf : c.frameEnd = none) (ht : c.frameFrom ≤ s.time)
include hc hf ht

theorem rasFrameDue_waiting : s.rasFrameDue n = true := by simp [State.rasFrameDue, hc, hf, ht]

theorem rasFrame_notReady (hr : s.rasReady n = false) : s.rasFrame n = s.rasTruncate n := by
  simp [State.rasFrame, rasFrameDue_waiting hc hf ht, hc, hr]

variable (hr : s.rasReady n = true)
include hr

theorem rasFrame_poisoned (hp : s.imagePoisoned n c.im = true) :
    s.rasFrame n = (s.rasTruncate n).faultEvent fltImageUe n 1 (prodValue c.product) := by
  simp [State.rasFrame, rasFrameDue_waiting hc hf ht, hc, hr, hp]

theorem rasFrame_sends (hp : s.imagePoisoned n c.im = false) :
    s.rasFrame n = s.setRas n { s.ras n with
      code := some { c with frameEnd := some (s.time + s.rasFrameTicks n) }
      frame := if c.undriven then (s.ras n).frame else s.rasColumn n c c.slot } := by
  simp [State.rasFrame, rasFrameDue_waiting hc hf ht, hc, hr, hp]

end

/-! ## Angle times (R195, R199) -/

section
variable {s : State} {n : Nat}

theorem rasColumnStrobe_lost (hl : s.rasLost n = true) : s.rasColumnStrobe n = s.rasTruncate n := if_pos hl

theorem rasColumnStrobe_runs (hl : s.rasLost n = false) : s.rasColumnStrobe n = (s.rasTimeSlots n 4352).rasStrobe n :=
  if_neg (Bool.eq_false_iff.1 hl)

theorem rasTimeSlots_stays (hd : s.rasAngleDue n = false) (k : Nat) : s.rasTimeSlots n k = s := by
  cases k with
  | zero => rfl
  | succ k => exact if_neg (Bool.eq_false_iff.1 hd)

/-- The slot whose angle is reached gets its angle time: where a JUMP has passed the angle, the present tick, its strobe leaving
after the path latency. -/
theorem rasTimeSlots_next {c : Code} (hc : (s.ras n).code = some c) (hd : s.rasAngleDue n = true) (k : Nat) {j : Nat} {e : Nat × Nat}
    (hj : j = c.slot + c.angles.length)
    (he : e = placeEdge s.time (s.fld (RAS_LEAD n) RAS_LEAD_TICKS) latencyStb
      (s.crossing (s.rasShaft n) (s.rasLead n) (s.rasAngle n c j))) :
    s.rasTimeSlots n (k + 1) =
      (s.setRas n { s.ras n with code := some { c with angles := c.angles ++
        [if s.rasPassed n (s.rasAngle n c j) then (64 * s.time, 64 * (s.time + latencyStb))
         else (64 * e.1 + e.2, 64 * e.1 + e.2)] } }).rasTimeSlots n k := by
  subst hj he
  rw [State.rasTimeSlots, if_pos hd, hc]

end

/-! ## Strobes (R191, R195, R196, R198) -/

/-- The first time, in 1/64 ticks, at which a lane may emit a strobe again after one at `t` (R191). -/
def State.strobeAfter (s : State) (n : Nat) : Option Nat → Nat
  | some q => q + 64 * s.rasMcp n
  | none => 0

theorem rasAfter_eq (s : State) (n : Nat) (l : Option (Nat × Nat)) :
    s.rasAfter n l = s.strobeAfter n (l.map fun q => 64 * q.1 + q.2) := by
  cases l with
  | none => rfl
  | some q => simp only [State.rasAfter, State.strobeAfter, Option.map_some]; omega

/-- A time in 1/64 ticks is its tick and its vernier step. -/
theorem rasAfter_split (s : State) (n : Nat) (l : Option Nat) :
    s.rasAfter n (l.map fun t => (t / 64, t % 64)) = s.strobeAfter n l := by
  cases l with
  | none => rfl
  | some t => simp only [State.rasAfter, State.strobeAfter, Option.map_some]; omega

/-- The strobe of the present slot at time `t`, before the code ends: its lag and its tallies, and the next slot. -/
def State.rasStruck (s : State) (n : Nat) (c : Code) (t : Nat) : State :=
  let u := (s.rasLagOf n c t).setFld (RAS_STAT n) RAS_STAT_SLOT c.slot
  let v := if c.undriven then u else u.rasTallies n c
  v.setRas n { v.ras n with
    code := some { c with
      slot := c.slot + 1
      frameEnd := none
      frameFrom := t / 64 + s.rasHold n
      lastStrobe := some t
      angles := c.angles.drop 1
      overspeed := c.overspeed || decide ((c.angles.headD (t, t)).1 < t) }
    strobe := if c.undriven then (v.ras n).strobe else some (t / 64, t % 64) }

section
variable {s : State} {n : Nat} {c : Code}

/-- The strobe of a slot that has its angle time and whose frame has been sent: the latest of its three times (R195). -/
theorem rasStrobeTime_sent {a : Nat × Nat} {as : List (Nat × Nat)} {e : Nat} (ha : c.angles = a :: as) (he : c.frameEnd = some e) :
    s.rasStrobeTime n c = some (Nat.max a.2 (Nat.max (64 * (e + s.rasSetup n)) (Nat.max (s.strobeAfter n c.lastStrobe)
      (s.strobeAfter n ((s.ras n).strobe.map fun q => 64 * q.1 + q.2))))) := by
  simp only [State.rasStrobeTime, ha, he, rasAfter_split, rasAfter_eq s n (s.ras n).strobe]

variable {t : Nat} (hc : (s.ras n).code = some c) (ht : s.rasStrobeTime n c = some t) (hd : t / 64 ≤ s.time)
  (hf : (s.shaft (s.rasShaft n)).dir = false)
include hc ht hd hf

theorem rasStrobeDue_reached : s.rasStrobeDue n = true := by simp [State.rasStrobeDue, hc, ht, hd, hf]

theorem rasStrobe_emits : s.rasStrobe n =
    if c.slot + 1 = c.slots then (s.rasStruck n c t).rasEndCode n c else s.rasStruck n c t := by
  rw [State.rasStrobe, if_pos (rasStrobeDue_reached hc ht hd hf), hc]
  dsimp only
  rw [ht]
  simp only [ite_not]
  rfl

end

/-! ## Stalls and RDY (R189, R199, R202) -/

section
variable {s : State} {n : Nat}

theorem rasStall_due (hd : s.rasStallDue n = true) : s.rasStall n = s.rasTruncate n := if_pos hd

theorem rasRdyDue_held (he : s.rasEn n = true) (hr : s.rasReady n = false) (hf : (s.ras n).faulted = false)
    (ht : (s.ras n).rdySince + s.fld (RAS_PROF2 n) RAS_PROF2_RDY_TO * ticksMs ≤ s.time) : s.rasRdyDue n = true := by
  simp [State.rasRdyDue, he, hr, hf, ht]

variable {pin : Bool} (hp : pin ≠ (s.ras n).rdyPin) (ht : (s.ras n).rdyAt = 0 ∨ (s.ras n).rdyAt + 8 ≤ s.time + 1)
  {t : State} (hs : t = s.setRas n { s.ras n with rdyPin := pin, rdySince := s.time, rdyAt := s.time + 1 })
include hp ht hs

/-- A new level that can have held for 8 ticks is taken. -/
theorem rasRdyChange_takes : s.rasRdyChange n pin =
    if t.rasReady n = true ∧ (t.ras n).faulted = true then
      (t.setRas n { t.ras n with faulted := false }).faultEnd fltLaneRdy n
    else t := by
  subst hs
  refine if_neg ?_
  rintro (h | ⟨h0, h8⟩)
  · exact hp h.symm
  · omega

theorem rasRdyChange_ends (hr : t.rasReady n = true) (hf : (s.ras n).faulted = true) :
    s.rasRdyChange n pin = (t.setRas n { t.ras n with faulted := false }).faultEnd fltLaneRdy n :=
  (rasRdyChange_takes hp ht hs).trans (if_pos ⟨hr, by rw [hs, State.ras_setRas, if_pos rfl]; exact hf⟩)

theorem rasRdyChange_only (hr : t.rasReady n = false ∨ (s.ras n).faulted = false) : s.rasRdyChange n pin = t := by
  refine (rasRdyChange_takes hp ht hs).trans (if_neg ?_)
  rintro ⟨h1, h2⟩
  rw [hs, State.ras_setRas, if_pos rfl] at h2
  exact hr.elim (Bool.eq_false_iff.1 · h1) (Bool.eq_false_iff.1 · h2)

end

/-- Settles O27: the frame, the angle times, the strobe, the stall and RDY, each by its law. -/
theorem rasterRuns : Obligations.RasterRuns := by
  unfold Obligations.RasterRuns
  intro s n ha x
  refine ⟨fun c hc hf ht => ⟨?notReady, ?poisoned, ?sends⟩, ⟨?lost, ?kept, ?untimed, ?timed⟩, ?strobe, ?stall, ?rdy, ?timeout⟩
  case notReady => exact fun hr => next_inRun ha (rasFrame_notReady hc hf ht hr)
  case poisoned => exact fun hr hp => next_inRun ha (rasFrame_poisoned hc hf ht hr hp)
  case sends => exact fun hr hp => next_inRun ha (rasFrame_sends hc hf ht hr hp)
  case lost => exact fun hl => next_inRun ha (rasColumnStrobe_lost hl)
  case kept => exact fun hl => next_inRun ha (rasColumnStrobe_runs hl)
  case untimed => exact fun hd => rasTimeSlots_stays hd 4352
  case timed => exact fun c k hc hd j e hj he => rasTimeSlots_next hc hd k hj he
  case strobe =>
    intro c a as e hc hl hd hang he after t ht hle hdir u v hu hv d w hd' hw
    have hw' : w = s.rasStruck n c t := by
      subst hw hd' hv hu
      simp only [State.rasStruck, hang]
      rfl
    have hs := rasStrobe_emits hc ((rasStrobeTime_sent hang he).trans (congrArg some ht.symm)) hle hdir
    have hr := (rasColumnStrobe_runs hl).trans ((congrArg (State.rasStrobe · n) (rasTimeSlots_stays hd 4352)).trans hs)
    subst hw'
    exact ⟨fun hn => next_inRun ha (hr.trans (if_neg hn)), fun hn => next_inRun ha (hr.trans (if_pos hn))⟩
  case stall => exact fun hd => next_inRun ha (rasStall_due hd)
  case rdy =>
    intro pin hp ht t hs
    exact ⟨fun hr hf => next_inRun ha (rasRdyChange_ends hp ht hs hr hf), fun hr => next_inRun ha (rasRdyChange_only hp ht hs hr)⟩
  case timeout => exact fun he hr hf ht => next_inRun ha (if_pos (rasRdyDue_held he hr hf ht))

end Sys2Proof.Machine
end

