-- ==== Sys2Proof/Proofs/FieldLines.lean ====
section
/-! SUPPORT. Event lines and the banks of the field interface (R271 to R277): filters, supplies, enables, readback faults, pins. -/

namespace Sys2Proof.Machine

/-! ## Event lines (R271, R274, R275) -/

section
variable {s : State} {i : Nat} {pin : Bool}

theorem lineSeen_iff : s.lineSeen i = true ↔ FMap.get (fun _ => 0) s.lineAt i = 0 ∨
    FMap.get (fun _ => 0) s.lineAt i + s.lineFilter i ≤ s.time + 1 := by
  simp [State.lineSeen]

/-- A level is taken: it differs from the accepted one, its bank is supplied, and the filter can have seen it. -/
theorem eventLine_takes (hb : s.flag (FIO_BANK_STAT (i / 16)) FIO_BANK_STAT_BS_OK = true) (hl : s.line i ≠ s.lineLevel i pin)
    (hs : s.lineSeen i = true) : s.eventLine i pin = (s.sensorLanes i (s.lineLevel i pin)).foldl (fun t n => t.sensorEntry n)
      (((s.lineTakes i (s.lineLevel i pin)).cellsOfLine i (s.lineLevel i pin)).lineNotify i (s.lineLevel i pin)) := by
  have e : s.lineAccept i pin =
      (((s.lineTakes i (s.lineLevel i pin)).cellsOfLine i (s.lineLevel i pin)).lineNotify i (s.lineLevel i pin), true) :=
    if_pos (by simp [hb, hl, hs])
  rw [State.eventLine, e]
  rfl

theorem eventLine_ignores (h : s.flag (FIO_BANK_STAT (i / 16)) FIO_BANK_STAT_BS_OK = false ∨ s.line i = s.lineLevel i pin ∨
    ¬s.lineSeen i = true) : s.eventLine i pin = s := by
  have e : s.lineAccept i pin = (s, false) := by
    refine if_neg fun k => ?_
    simp only [Bool.and_eq_true, decide_eq_true_eq] at k
    obtain ⟨⟨hb, hl⟩, hs⟩ := k
    exact h.elim (Bool.eq_false_iff.1 · hb) (Or.elim · (hl ·) (· hs))
  rw [State.eventLine, e]
  rfl

end

/-! ## Supplies and enables of a bank (R271, R272) -/

section
variable {s : State} {b : Nat}

theorem bsFall_supplied (h : s.flag (FIO_BANK_STAT b) FIO_BANK_STAT_BS_OK = true) {t : State}
    (ht : t = s.setFlag (FIO_BANK_STAT b) FIO_BANK_STAT_BS_OK false) :
    s.bsFall b = if t.bankUsed b = true ∧ ¬t.faultActive fltBankSupply b = true then t.faultRaise fltBankSupply b 1 0 else t := by
  subst ht
  have k := State.flag_setFlag s (FIO_BANK_STAT b) FIO_BANK_STAT_BS_OK false (by decide) (by decide)
  rw [State.bsFall, if_pos h, State.bankFault, k]
  exact ite_congr (propext (and_congr_right fun _ => ⟨fun x => x.2, fun x => ⟨Bool.false_ne_true, x⟩⟩)) (fun _ => rfl) fun _ => rfl

theorem bsFall_unsupplied (h : s.flag (FIO_BANK_STAT b) FIO_BANK_STAT_BS_OK = false) : s.bsFall b = s :=
  if_neg (Bool.eq_false_iff.1 h)

theorem bsRise_unsupplied (h : s.flag (FIO_BANK_STAT b) FIO_BANK_STAT_BS_OK = false) (levels : Nat) :
    s.bsRise b levels = (State.forEach 16 (fun t k => t.lineTakes (16 * b + k) (t.lineLevel (16 * b + k) (bitOf levels k)))
      ((s.setFlag (FIO_BANK_STAT b) FIO_BANK_STAT_BS_OK true).faultEnd fltBankSupply b)).holdRange (16 * b) (16 * b + 16) :=
  if_neg (Bool.eq_false_iff.1 h)

theorem bankFall_enabled (h : s.flag (FIO_BANK_STAT b) FIO_BANK_STAT_BANK_EN = true) :
    s.bankFall b = (s.setFlag (FIO_BANK_STAT b) FIO_BANK_STAT_BANK_EN false).faultEvent fltBankEnLost b 0 0 := if_pos h

theorem bankFall_disabled (h : s.flag (FIO_BANK_STAT b) FIO_BANK_STAT_BANK_EN = false) : s.bankFall b = s :=
  if_neg (Bool.eq_false_iff.1 h)

theorem bankPresent_enabled (h : s.flag (FIO_BANK_STAT b) FIO_BANK_STAT_BANK_EN = true) : s.bankPresent b = s := if_pos h

theorem bankPresent_disabled (h : s.flag (FIO_BANK_STAT b) FIO_BANK_STAT_BANK_EN = false) :
    s.bankPresent b = (s.setFlag (FIO_BANK_STAT b) FIO_BANK_STAT_BANK_EN true).holdRange (16 * b) (16 * b + 16) :=
  if_neg (Bool.eq_false_iff.1 h)

end

/-! ## Readback faults (R277) and pins (R276) -/

section
variable {s : State} {i : Nat}

theorem outFault_driven (hd : s.driven (outLine i) = true) (hh : (s.out (outLine i)).hold = false) : s.outFault i =
    (s.hwSet (FIO_BANK_STAT (i / 16)) FIO_BANK_STAT_OUT_FAULT
      (Nat.lor (s.fld (FIO_BANK_STAT (i / 16)) FIO_BANK_STAT_OUT_FAULT) (2 ^ (i % 16)))
      (Nat.lor ((s.freshAt (FIO_BANK_STAT (i / 16))).plus.getF FIO_BANK_STAT_OUT_FAULT) (2 ^ (i % 16)))).faultRaise fltOut i 2 0 :=
  if_pos ⟨hd, Bool.eq_false_iff.1 hh⟩

theorem pinDriven_false (h : s.driven (outLine i) = false ∨ (s.out (outLine i)).hold = true) : s.pinDriven (outLine i) = false := by
  obtain h | h := h
  · rw [State.pinDriven, h, Bool.false_and]
  · rw [State.pinDriven, h, Bool.not_true, Bool.and_false]

theorem outFault_undriven (h : s.driven (outLine i) = false ∨ (s.out (outLine i)).hold = true) : s.outFault i = s := by
  refine if_neg ?_
  rintro ⟨h1, h2⟩
  exact h.elim (Bool.eq_false_iff.1 · h1) h2

theorem linePin_driven (hd : s.driven (outLine i) = true) (hh : (s.out (outLine i)).hold = false) :
    s.linePin i = some ((s.out (outLine i)).on != decide ((s.actRg (FIO_EL_CFG i)).getF FIO_EL_CFG_POL = 1)) :=
  if_pos (by simp [State.pinDriven, hd, hh])

theorem linePin_floats (h : s.driven (outLine i) = false ∨ (s.out (outLine i)).hold = true) : s.linePin i = none :=
  if_neg (Bool.eq_false_iff.1 (pinDriven_false h))

end

theorem writeFio_bankStat (s : State) (i j : Nat) {w : Wr} (hb : w.base = FIO_BANK_STAT 0) :
    s.writeFio i j w = (s.outFaultClear i (w.act.getF FIO_BANK_STAT_OUT_FAULT), .ok) := by
  rw [State.writeFio, if_pos hb]

/-- The fault bits of a word that writes them alone. -/
theorem getF_outFault (bits : BitVec 16) :
    ((bits.setWidth 32 : Word) &&& FIO_BANK_STAT_OUT_FAULT.mask &&& 0xFFFF).getF FIO_BANK_STAT_OUT_FAULT = bits.toNat := by
  have hb := bits.isLt
  have hm : (FIO_BANK_STAT_OUT_FAULT.mask).toNat = 2 ^ 16 - 1 := by decide
  have hk : (0xFFFF : Word).toNat = 2 ^ 16 - 1 := by decide
  show (BitVec.toNat _) / 2 ^ 0 % 2 ^ 16 = bits.toNat
  rw [BitVec.toNat_and, BitVec.toNat_and, hm, hk, Nat.and_two_pow_sub_one_eq_mod, Nat.and_two_pow_sub_one_eq_mod,
    BitVec.toNat_setWidth]
  omega

theorem blockOf_bankStat (b : Fin 8) : blockOf (FIO_BANK_STAT b) = some .fio := by
  revert b; decide

/-- A write of 1s to OUT_FAULT reaches the bank. -/
theorem outFaultClear_writes (s : State) (b : Fin 8) (bits : BitVec 16) (ha : s.awake = true) :
    exec (.outFaultClear b bits) s = .next ((s.outFaultClear b bits.toNat).done .ok 0 []) := by
  obtain ⟨hb, hadr, hact, -⟩ := wr_base s _ _ _ _ FIO_BANK_STAT_OUT_FAULT.mask (bits.setWidth 32) _ _ _ (at_FIO_BANK_STAT b)
  refine congrArg Host.Outcome.next (regWrite_ok s _ _ _ _ _ _ _ _ _ _ ha (at_FIO_BANK_STAT b) (by decide)
    (Or.inl (wr_free s (at_FIO_BANK_STAT b) _ _ (by decide))) ?_)
  rw [unitWrite_fio s _ _ _ _ hadr (blockOf_bankStat b), writeFio_bankStat s _ _ hb, hact, getF_outFault]

/-- Settles O35: each happening by its law; the write of OUT_FAULT through the unit of its register. -/
theorem fieldLines : Obligations.FieldLines := by
  unfold Obligations.FieldLines
  intro s i b pin levels bits ha cfg level took unit seen takes bank bs be line
  have hseen : seen ↔ s.lineSeen i = true := lineSeen_iff.symm
  refine ⟨?takes, ?ignores, ?fall, ?unsupplied, ?enabled, ?disabled, ?fault, ?undriven, ?clear, linePin_driven, linePin_floats⟩
  case takes =>
    rintro hb hl hs c t rfl rfl
    exact next_inRun ha (eventLine_takes hb hl (hseen.1 hs))
  case ignores => exact fun h => next_inRun ha (eventLine_ignores (h.imp_right (Or.imp_right (mt hseen.2))))
  case fall => exact fun h t ht => next_inRun ha (bsFall_supplied h ht)
  case unsupplied => exact fun h => ⟨next_inRun ha (bsFall_unsupplied h), next_inRun ha (bsRise_unsupplied h levels.toNat)⟩
  case enabled => exact fun h => ⟨next_inRun ha (bankFall_enabled h), next_inRun ha (bankPresent_enabled h)⟩
  case disabled => exact fun h => ⟨next_inRun ha (bankFall_disabled h), next_inRun ha (bankPresent_disabled h)⟩
  case fault => exact fun hd hh => next_inRun ha (outFault_driven hd hh)
  case undriven => exact fun h => next_inRun ha (outFault_undriven h)
  case clear =>
    rintro w rfl
    exact outFaultClear_writes s b bits ha

end Sys2Proof.Machine
end

