-- ==== Sys2Proof/Proofs/ExpanderChains.lean ====
section
/-! SUPPORT. Expander chains (R279 to R284): their frames, the snapshot of a frame, the pattern check, and the writes of EN. -/

namespace Sys2Proof.Machine

/-! ## Frames (R279 to R282) -/

/-- A frame start brings the frame before to its end: its bits are latched and shown, and what it shifted in is accepted. The first
frame of a chain has none before it. -/
def State.chainFrameEnds (s : State) (c inputs : Nat) : State :=
  let x := s.chain c
  if x.count = 0 then s
  else (((s.chainTally c x.latched x.latches).setChain c { x with latched := x.latches }).chainAccept c inputs).setChainWords
    (FIO_CH_OUT c) x.sent

section
variable {s : State} {c inputs : Nat}

theorem chainDue_iff : s.chainDue c = true ↔
    (s.chain c).nextFrame ≤ s.time ∧ ((s.chain c).stopping = true ∨ (s.chain c).running = true) := by
  simp [State.chainDue, and_comm, or_comm]

theorem chainFrame_idle (h : ¬s.chainDue c = true) : s.chainFrame c inputs = s := if_neg h

theorem chainFrame_due (h : s.chainDue c = true) {t : State} (ht : t = s.chainFrameEnds c inputs) : s.chainFrame c inputs =
    if (s.chain c).stopping = true then
      t.setChain c { t.chain c with running := false, stopping := false, live := false, count := 0 }
    else t.setChain c { t.chain c with
      snapDue := true, lastFrame := (s.chain c).nextFrame, count := (s.chain c).count + 1,
      nextFrame := (s.chain c).nextFrame + t.fld (FIO_CH_PER c) FIO_CH_PER_PER * 8 } := by
  subst ht
  exact if_pos h

theorem chainSnapshot_none (h : (s.chain c).snapDue = false) : s.chainSnapshot c = s := if_neg (Bool.eq_false_iff.1 h)

/-- Where drive resumes with the frame, the active positions are held before the snapshot is taken (R28, R283). -/
theorem chainSnapshot_takes (h : (s.chain c).snapDue = true) {t : State}
    (ht : t = if s.driveOn = true ∧ (s.chain c).live = false then
      s.holdRange (outExpander (512 * c)) (outExpander (512 * c + 512)) else s) :
    s.chainSnapshot c = t.setChain c { t.chain c with snapDue := false, live := t.driveOn, sent := t.chainSnap c, pulsed := 0 } := by
  have e : t = if s.driveOn = true ∧ ¬(s.chain c).live = true then
      s.holdRange (outExpander (512 * c)) (outExpander (512 * c + 512)) else s :=
    ht.trans (ite_congr (congrArg (s.driveOn = true ∧ ·) (Bool.not_eq_true _).symm) (fun _ => rfl) fun _ => rfl)
  subst e
  exact if_pos h

/-- The third bad word in a row, and each further one: the chain is stale and faulty (R282). -/
theorem chainCheck_bad {cap : Nat} (he : s.flag (FIO_CH_CFG c) FIO_CH_CFG_CHK_EN = true)
    (hp : cap / 2 ^ (s.chainLen c - 8) % 256 ≠ s.fld (FIO_CH_FILT c) FIO_CH_FILT_CHK_PAT) (hb : 2 ≤ (s.chain c).bad) :
    s.chainCheck c cap = (((s.setChain c { s.chain c with bad := (s.chain c).bad + 1, good := 0 }).count (FIO_CH_CNT c)
      FIO_CH_CNT_CHK_ERR 1).latch (FIO_CH_STAT c) FIO_CH_STAT_FAULT |>.setFlag (FIO_CH_STAT c) FIO_CH_STAT_STALE true).faultRaise
        fltChain c 2 0 :=
  (if_pos he).trans ((if_neg hp).trans (if_pos (show 3 ≤ (s.chain c).bad + 1 by omega)))

end

/-! ## Writes of EN (R283) -/

section
variable (s : State) (c : Fin 4) (v : Word)

theorem blockOf_chainCfg : blockOf (FIO_CH_CFG c) = some .fio := by
  revert c; decide

theorem viewFio_chainCfg (i a : Nat) : s.viewFio (FIO_CH_CFG 0) i a = s.rg a := by
  rw [State.viewFio, if_neg (by decide), if_neg (by decide), if_neg (by decide), if_neg (by decide)]

theorem wr_was_chainCfg (m : Word) : (s.wr (FIO_CH_CFG c) m v).was FIO_CH_CFG_EN = s.fld (FIO_CH_CFG c) FIO_CH_CFG_EN := by
  rw [Wr.was, wr_old_fio s _ _ _ _ _ _ _ _ _ (at_FIO_CH_CFG c) (blockOf_chainCfg c), viewFio_chainCfg]
  rfl

theorem unitWrite_chainCfg (m : Word) :
    s.unitWrite c 0 (s.wr (FIO_CH_CFG c) m v) = s.writeChainCfg c (s.wr (FIO_CH_CFG c) m v) := by
  obtain ⟨hb, ha, -, -⟩ := wr_base s _ _ _ _ m v _ _ _ (at_FIO_CH_CFG c)
  rw [unitWrite_fio s _ _ _ _ ha (blockOf_chainCfg c), State.writeFio, if_neg (by rw [hb]; decide), if_neg (by rw [hb]; decide),
    if_neg (by rw [hb]; decide), if_neg (by rw [hb]; decide), if_pos hb]

/-- What a chain is as its frames begin (R279). -/
def Chain.started (x : Chain) (now : Nat) : Chain :=
  { x with running := true, stopping := false, live := false, nextFrame := now + 1, count := 0, latched := 0, pulsed := 0, caps := [],
           bad := 0, good := 0 }

/-- A write that sets EN where it is 0 is judged by the configuration that it leaves. -/
theorem writeChainCfg_sets (he : s.flag (FIO_CH_CFG c) FIO_CH_CFG_EN = false) {w : Wr}
    (hw : w = s.wr (FIO_CH_CFG c) 0xFFFFFFFF (v.setF FIO_CH_CFG_EN 1)) :
    s.writeChainCfg c w = if s.chainCfgOk c w.new = true then
      ((s.plainWrite w).setChain c (((s.plainWrite w).chain c).started (s.plainWrite w).time), .ok) else (s, .range) := by
  subst hw
  have h0 := (wr_was_chainCfg s c (v.setF FIO_CH_CFG_EN 1) 0xFFFFFFFF).trans (State.fld_of_not_flag s _ _ he)
  have h1 := on_fld s FIO_CH_CFG_EN (at_FIO_CH_CFG c) v (by decide) (by decide) (by decide)
  rw [State.writeChainCfg, if_neg (by rw [h0]; decide), if_pos h1]
  rfl

/-- A write that clears EN where it is 1 lets the frame in progress run out. -/
theorem writeChainCfg_clears (he : s.flag (FIO_CH_CFG c) FIO_CH_CFG_EN = true) {w : Wr}
    (hw : w = s.wr (FIO_CH_CFG c) FIO_CH_CFG_EN.mask 0) : s.writeChainCfg c w =
      ((s.plainWrite w).setChain c { s.chain c with running := false, stopping := (s.chain c).running }, .ok) := by
  subst hw
  have h1 := (wr_was_chainCfg s c 0 FIO_CH_CFG_EN.mask).trans (State.fld_of_flag s _ _ (by decide) he)
  have h0 := off_fld s FIO_CH_CFG_EN (at_FIO_CH_CFG c) (by decide) (by decide)
  have hk : (s.wr (FIO_CH_CFG c) FIO_CH_CFG_EN.mask 0).changes (FIO_CH_CFG_LEN.mask ||| FIO_CH_CFG_SDLY.mask) = false := by
    obtain ⟨-, -, -, hn⟩ := wr_base s _ _ _ _ FIO_CH_CFG_EN.mask 0 _ _ _ (at_FIO_CH_CFG c)
    rw [Wr.changes, hn, merge_apart _ _ _ _ (by decide)]
    rfl
  rw [State.writeChainCfg, if_pos h1, if_neg (by rw [hk]; decide), if_pos h0]

variable (ha : s.awake = true)
include ha

section
variable (he : s.flag (FIO_CH_CFG c) FIO_CH_CFG_EN = false) {w : Wr}
  (hw : w = s.wr (FIO_CH_CFG c) 0xFFFFFFFF (v.setF FIO_CH_CFG_EN 1))
include he hw

theorem chainEnable_refused (hk : s.chainCfgOk c w.new = false) : exec (.chainEnable c v) s = .next (s.done .range 0 []) := by
  have hu := (unitWrite_chainCfg s c _ 0xFFFFFFFF).trans (writeChainCfg_sets s c v he rfl)
  rw [← hw, if_neg (Bool.eq_false_iff.1 hk), hw] at hu
  exact congrArg Host.Outcome.next (regWrite_no s _ _ _ _ _ _ _ _ _ s .range ha (at_FIO_CH_CFG c) (by decide) (by decide) hu)

theorem chainEnable_starts (hk : s.chainCfgOk c w.new = true) : exec (.chainEnable c v) s =
    .next (((s.plainWrite w).setChain c (((s.plainWrite w).chain c).started (s.plainWrite w).time)).done .ok 0 []) := by
  have hu := (unitWrite_chainCfg s c _ 0xFFFFFFFF).trans (writeChainCfg_sets s c v he rfl)
  rw [← hw, if_pos hk, hw] at hu
  subst hw
  exact congrArg Host.Outcome.next (regWrite_ok s _ _ _ _ _ _ _ _ _ _ ha (at_FIO_CH_CFG c) (by decide)
    (Or.inl (wr_free s (at_FIO_CH_CFG c) _ _ (by decide))) hu)

end

theorem chainDisable_stops (he : s.flag (FIO_CH_CFG c) FIO_CH_CFG_EN = true) : exec (.chainDisable c) s =
    .next (((s.plainWrite (s.wr (FIO_CH_CFG c) FIO_CH_CFG_EN.mask 0)).setChain c
      { s.chain c with running := false, stopping := (s.chain c).running }).done .ok 0 []) :=
  congrArg Host.Outcome.next (regWrite_ok s _ _ _ _ _ _ _ _ _ _ ha (at_FIO_CH_CFG c) (by decide)
    (Or.inl (wr_free s (at_FIO_CH_CFG c) _ _ (by decide)))
    ((unitWrite_chainCfg s c 0 FIO_CH_CFG_EN.mask).trans (writeChainCfg_clears s c he rfl)))

end

/-- Settles O36: the frame start, the snapshot and the check by their laws, the writes of EN through the unit of their register. -/
theorem expanderChains : Obligations.ExpanderChains := by
  unfold Obligations.ExpanderChains
  intro s c inputs v ha x on off bits latched
  refine ⟨fun hn t ht => ⟨fun hs => ?stops, fun hs hr => ?goesOn⟩, fun h => next_inRun ha (chainFrame_idle (mt chainDue_iff.1 h)),
    chainSnapshot_none, fun h t ht => chainSnapshot_takes h ht, fun cap he hp hb => chainCheck_bad he hp hb,
    fun he w hw => ⟨fun hk => ?refused, fun hk => ?starts⟩, chainDisable_stops s c ha⟩
  case stops => exact next_inRun ha ((chainFrame_due (chainDue_iff.2 ⟨hn, .inl hs⟩) ht).trans (if_pos hs))
  case goesOn => exact next_inRun ha ((chainFrame_due (chainDue_iff.2 ⟨hn, .inr hr⟩) ht).trans (if_neg (Bool.eq_false_iff.1 hs)))
  case refused => exact chainEnable_refused s c v ha he rfl (hw ▸ hk)
  case starts => exact chainEnable_starts s c v ha he rfl (hw ▸ hk)

end Sys2Proof.Machine
end

