-- ==== Sys2Proof/Proofs/ResetsAndPowerStates.lean ====
section
/-! SUPPORT. RESET and POWER_STATE where their records run on arrival (R340, R341, R431, R432), and the state that every reset
starts from (R497). -/

namespace Sys2Proof.Machine

/-! ## RESET (R340, R499) -/

section
variable {r : State} {fl : Flight}

theorem runReset_range (h : fl.cmd.arg / 65536 ≠ resetKey ∨ 2 ≤ fl.cmd.arg % 65536) :
    r.runReset fl = r.complete fl none .range 0 [] := if_pos h

variable (hk : fl.cmd.arg / 65536 = resetKey) (ha : fl.cmd.arg % 65536 < 2)
include hk ha

theorem runReset_ignored (hi : r.resetIgnored = true) : r.runReset fl = r.complete fl none .state 0 [] :=
  (if_neg (by omega)).trans (if_pos hi)

/-- A RESET that is taken: every reply leaves first. -/
theorem runReset_resets (hi : r.resetIgnored = false) {t : State} (ht : t = (r.complete fl none .ok 0 []).flushReplies) :
    r.runReset fl = if fl.cmd.arg % 4 = 1 then t.coldReset causeCold else t.warmReset causeWarm := by
  unfold State.runReset
  rw [ht, if_neg (by omega), if_neg (Bool.eq_false_iff.1 hi)]

end

theorem resetCmd_runs (s : State) (h : CmdHead) (arg : BitVec 32) (body : List Byte) {c : CmdRec}
    (hc : c = h.record 0x70 arg.toNat body) (hh : s.hears h c = true) :
    exec (.resetCmd h arg body) s = .next ((s.heard h c).runReset (s.flightOf h c)).settle := by
  subst hc
  exact congrArg Host.Outcome.next ((command_runs s h 0x70 arg body hh).trans (congrArg State.settle (runOp_70 _ _ rfl)))

/-! ## The state that every reset starts from (R497) -/

theorem exec_coldReset (s : State) (cause : BitVec 8) : exec (.coldReset cause) s =
    .next ((s.afresh.setFld GLB_BOOT GLB_BOOT_CAUSE cause.toNat).reloadLock s.lockRec).takeGrant := rfl

/-- What a warm reset keeps besides (R456, R497). -/
def State.keptWarmly (s : State) : State :=
  { s.afresh with
    time := s.time
    pool := s.pool
    poison := s.poison
    logAt := s.time
    lastFlush := s.time
    heldCal := s.heldCal
    canary := { Canary.init with prog := s.canary.prog }
    fab := { Fab.init with ports := s.linksTrained }
    regs := (s.regs.filter fun e => keptWarm e.1).foldl (fun m e => FMap.set resetAt m e.1 e.2) s.afresh.regs }

theorem exec_warmReset (s : State) (cause : BitVec 8) : exec (.warmReset cause) s =
    .next ((((s.keptWarmly.setFlag CAN_STAT CAN_STAT_PROG_OK (s.flag CAN_STAT CAN_STAT_PROG_OK)).setFld GLB_ADDR GLB_ADDR_ADDR
      s.addrReg).setFlag GLB_ADDR GLB_ADDR_LOCKED s.addrLocked).setFld GLB_BOOT GLB_BOOT_CAUSE cause.toNat).takeGrant := rfl

/-- The state with its stored registers replaced. -/
def State.withRegs (s : State) (m : FMap Word) : State := { s with regs := m }

/-- The two states differ in their stored registers alone. -/
def State.RegsApart (t u : State) : Prop := u = t.withRegs u.regs

theorem regsApart_refl (t : State) : t.RegsApart t := rfl

theorem regsApart_setRg {t u : State} (h : t.RegsApart u) (a : Nat) (w : Word) : t.RegsApart (u.setRg a w) :=
  congrArg (State.setRg · a w) h

/-- What shows hardware state after a reset stands in registers alone. -/
theorem hardware_regsApart (t s : State) : t.RegsApart (t.hardware s) :=
  forEach_inv t.RegsApart 8 _ _
    (regsApart_setRg (regsApart_setRg (regsApart_setRg (regsApart_setRg (regsApart_refl t) _ _) _ _) _ _) _ _)
    fun _ _ h => regsApart_setRg (regsApart_setRg h _ _) _ _

/-- A reset begins at time 0 with no transaction, event, product or thread, and keeps the queue, the tallies, the slots and flash. -/
theorem afresh_parts (s : State) : s.afresh.time = 0 ∧ s.afresh.pool = [] ∧ s.afresh.txns = [] ∧ s.afresh.events = [] ∧
    s.afresh.products = [] ∧ s.afresh.threads = [] ∧ s.afresh.flights = [] ∧ s.afresh.pending = s.lastRites.pending ∧
    s.afresh.tallies = s.lastRites.tallies ∧ s.afresh.slots = s.lastRites.slots ∧ s.afresh.flash = s.lastRites.flash := by
  unfold State.afresh
  generalize s.lastRites = t
  rw [hardware_regsApart]
  exact ⟨rfl, rfl, rfl, rfl, rfl, rfl, rfl, rfl, rfl, rfl, rfl⟩

/-! ## POWER_STATE (R341, R431, R432) -/

theorem powerState_runs (s : State) (h : CmdHead) (k : BitVec 32) {c : CmdRec} (hc : c = h.record 0x71 k.toNat [])
    (hh : s.hears h c = true) : s.command h 0x71 k [] = ((s.heard h c).runPower (s.flightOf h c)).settle := by
  subst hc
  exact (command_runs s h 0x71 k [] hh).trans (congrArg State.settle (runOp_71 _ _ rfl))

section
variable {r : State} {fl : Flight}

theorem runPower_run (ha : fl.cmd.arg = 0) : r.runPower fl = r.endDoze.complete fl none .ok 0 [] := by
  rw [State.runPower, if_neg (by omega), if_pos ha]

theorem runPower_doze (ha : fl.cmd.arg = 1) : r.runPower fl =
    if r.dozeRefused = true then r.complete fl none .state 0 []
    else ({ r with power := .doze } : State).complete fl none .ok 0 [] := by
  rw [State.runPower, if_neg (by omega), if_neg (by omega), if_pos ha]

theorem runPower_waits (h2 : 2 ≤ fl.cmd.arg) (h4 : fl.cmd.arg < 4) : r.runPower fl = r.holdFlight fl.id .power := by
  rw [State.runPower, if_neg (by omega), if_neg (by omega), if_neg (by omega)]

theorem holdFlight_only (hf : r.flights = [fl]) (x : Hold) :
    r.holdFlight fl.id x = { r with flights := [{ fl with hold := x }] } := by
  simp [State.holdFlight, hf]

end

/-! ## A POWER_STATE that nothing else in flight keeps waiting -/

section
variable {v : State} {f : Flight} (hf : v.flights = [f]) (hp : f.hold = .power)
include hf hp

theorem settleStops_power : v.settleStops = v := by
  simp [State.settleStops, State.stopEnds, hf, hp]

theorem settle_power (hj : v.readyJobs = []) : v.settle = v.settlePower.settleReleases := by
  have e : v.settleJobs = v := by rw [State.settleJobs, hj]; rfl
  rw [State.settle, e, settleStops_power hf hp]

theorem settlePower_only : v.settlePower =
    if f.cmd.arg = 2 then
      if v.watchRefused = true then v.complete f none .state 0 []
      else (v.complete f none .ok 0 []).flushReplies.acceptWatch
    else if v.txnBinds = true then v.complete f none .state 0 []
    else (v.complete f none .ok 0 []).flushReplies.beginShutdown := by
  rw [State.settlePower, hf]
  exact if_pos hp

end

theorem heard_readyJobs (s : State) (h : CmdHead) (c : CmdRec) : (s.heard h c).readyJobs = s.readyJobs := by
  have k : ∀ u : State, (u = s ∨ ∃ x, u = s.setSess h.session.val x) → ∀ fs i,
      ({ u.takeCredit h.session.val with flights := fs, nextFlight := i } : State).readyJobs = s.readyJobs := by
    rintro u (rfl | ⟨x, rfl⟩) fs i <;> rfl
  refine k _ ?_ _ _
  split
  · exact .inr ⟨_, rfl⟩
  · exact .inl rfl

/-- A POWER_STATE to Watch or Off that arrives alone. -/
theorem powerState_alone (s : State) (h : CmdHead) (k : BitVec 32) {c : CmdRec} (hc : c = h.record 0x71 k.toNat [])
    (hh : s.hears h c = true) {a : Nat} (ha : k.toNat = a) (h2 : 2 ≤ a) (h4 : a < 4) (hf : s.flights = [])
    (hj : s.readyJobs = []) {fl : Flight} {v : State} (hfl : fl = { s.flightOf h c with hold := .power })
    (hv : v = { s.heard h c with flights := [fl] }) :
    s.command h 0x71 k [] = v.settlePower.settleReleases ∧ v.flights = [fl] ∧ fl.hold = .power ∧ fl.cmd.arg = a := by
  subst ha
  have hs : (s.heard h c).flights = [s.flightOf h c] := congrArg (· ++ [s.flightOf h c]) hf
  have hw : (s.heard h c).runPower (s.flightOf h c) = v := by
    rw [runPower_waits (by rw [hc]; exact h2) (by rw [hc]; exact h4), holdFlight_only hs, hv, hfl]
  have hj' : v.readyJobs = [] := by
    rw [hv]
    exact (heard_readyJobs s h c).trans hj
  have hvf : v.flights = [fl] := by rw [hv]
  have hp : fl.hold = .power := by rw [hfl]
  refine ⟨(powerState_runs s h k hc hh).trans ?_, hvf, hp, by rw [hfl, hc]; rfl⟩
  rw [hw, settle_power hvf hp hj']

/-- Settles O44: RESET and POWER_STATE by the branch that their ARG takes; what a reset keeps, part by part. -/
theorem resetsAndPowerStates : Obligations.ResetsAndPowerStates := by
  unfold Obligations.ResetsAndPowerStates
  intro s h arg body cause a fresh warm taken
  refine ⟨?reset, exec_coldReset s cause, exec_warmReset s cause, afresh_parts s, ?run, ?doze, ?wait⟩
  case reset =>
    rintro c hc hh r fl rfl rfl
    have runs := resetCmd_runs s h arg body hc hh
    have ha : (s.flightOf h c).cmd.arg = a := by rw [hc]; rfl
    refine ⟨fun hr => ?range, fun hk hm => ⟨fun hi => ?ignored, fun hi t ht => ?resets⟩⟩
    case range => rw [runs, runReset_range (by rw [ha]; exact hr)]; rfl
    case ignored => rw [runs, runReset_ignored (by rw [ha]; exact hk) (by rw [ha]; exact hm) hi]; rfl
    case resets => rw [runs, runReset_resets (by rw [ha]; exact hk) (by rw [ha]; exact hm) hi ht, ha]; rfl
  case run =>
    intro c hc hh
    have runs := powerState_runs s h 0 hc hh
    rw [runPower_run (by rw [hc]; rfl)] at runs
    exact congrArg Host.Outcome.next runs
  case doze =>
    rintro c hc hh r fl rfl rfl
    have runs := powerState_runs s h 1 hc hh
    rw [runPower_doze (by rw [hc]; rfl)] at runs
    refine ⟨fun hd => congrArg Host.Outcome.next ?_, fun hd => congrArg Host.Outcome.next ?_⟩
    · rwa [if_pos hd] at runs
    · rwa [if_neg (Bool.eq_false_iff.1 hd)] at runs
  case wait =>
    intro c k hc hh hf hj fl v hfl hv done
    refine ⟨fun hk => ?watch, fun hk => ?off⟩
    case watch =>
      obtain ⟨runs, hvf, hp, ha⟩ := powerState_alone s h 2 (a := 2) (by rw [hc, hk]; rfl) hh rfl (by decide) (by decide) hf hj hfl hv
      rw [settlePower_only hvf hp, if_pos ha] at runs
      refine ⟨fun hw => congrArg Host.Outcome.next ?_, fun hw => congrArg Host.Outcome.next ?_⟩
      · rwa [if_pos hw] at runs
      · rwa [if_neg (Bool.eq_false_iff.1 hw)] at runs
    case off =>
      obtain ⟨runs, hvf, hp, ha⟩ := powerState_alone s h 3 (a := 3) (by rw [hc, hk]; rfl) hh rfl (by decide) (by decide) hf hj hfl hv
      rw [settlePower_only hvf hp, if_neg (by rw [ha]; decide)] at runs
      refine ⟨fun hw => congrArg Host.Outcome.next ?_, fun hw => congrArg Host.Outcome.next ?_⟩
      · rwa [if_pos hw] at runs
      · rwa [if_neg (Bool.eq_false_iff.1 hw)] at runs

end Sys2Proof.Machine
end

