-- ==== Sys2Proof/Proofs/StartShutdownAndFaultLog.lean ====
section
/-! SUPPORT. Power-up, READY and the starts of the image (R480, R492 to R495), the holdover store and the input (R25, R481, R482), the
orderly shutdown and the watchdog (R500, R501), and the fault log (R505, R506). -/

namespace Sys2Proof.Machine

/-! ## Power-up and the orderly shutdown (R492, R500) -/

section
variable {s : State} {mw : Nat}

theorem powerUp_off (hp : s.power = .off) : s.powerUp mw = s.coldStart mw := if_pos hp

theorem powerUp_remembers (hp : s.power ≠ .off) (hs : s.shutdown = true) :
    s.powerUp mw = { s with boot := { s.boot with back := some mw } } := (if_neg hp).trans (if_pos hs)

theorem powerUp_ignored (hp : s.power ≠ .off) (hs : s.shutdown = false) : s.powerUp mw = s :=
  (if_neg hp).trans (if_neg (Bool.eq_false_iff.1 hs))

theorem beginShutdown_ignored (h : s.shutdown = true ∨ s.power = .off) : s.beginShutdown = s := if_pos h

theorem beginShutdown_begins (hs : s.shutdown = false) (hp : s.power ≠ .off) {t u : State}
    (ht : t = ({ s with shutdown := true, boot := { s.boot with downAt := s.time, back := none } } : State).liveSettle)
    (hu : u = t.yieldTwin.faultEvent fltPowerLoss 0 0 (faultValue fltPowerLoss 0)) :
    s.beginShutdown = ((((u.stopThreads).cmpOff).dmaAbortAll).setLevel 3).tallyFlush.reserveAll.logWrite := by
  rw [State.beginShutdown, if_neg (by simp [hs, hp]), hu, ht]

theorem coreOff_ignored (hs : s.shutdown = false) : s.coreOff = s := if_neg (Bool.eq_false_iff.1 hs)

variable (hs : s.shutdown = true)
include hs

theorem coreOff_stays (hb : s.boot.back = none) : s.coreOff = { s with power := .off } := by
  rw [State.coreOff, if_pos hs, hb]

theorem coreOff_starts (hb : s.boot.back = some mw) : s.coreOff = ({ s with power := .off } : State).coldStart mw := by
  rw [State.coreOff, if_pos hs, hb]

end

/-! ## READY (R495) -/

section
variable {s : State}

theorem readyDue_iff : s.readyDue = true ↔ s.power = .run ∧ s.ready = false ∧ s.noImage = false ∧ s.lowPower = false ∧
    s.shutdown = false ∧ s.addressReady = true := by
  simp [State.readyDue, and_assoc]

theorem becomeReady_ignored (h : ¬s.readyDue = true) : s.becomeReady = s := if_neg h

theorem becomeReady_reports (hd : s.readyDue = true) {r t : State} (hr : r = s.firmwareRoutes)
    (ht : t = (if r.flag TAL_CFG TAL_CFG_AUTO_EN = true then (r.recall (r.fld TAL_CFG TAL_CFG_AUTO_SLOT)).1 else r).setFlag
      GLB_STATUS GLB_STATUS_READY true) {h : Nat} (hh : h = t.fld FAB_STAT FAB_STAT_DLHOST) :
    s.becomeReady = t.sendReport (if h = 0 then broadcast else h) 0 := by
  rw [State.becomeReady, if_pos hd, hh, ht, hr]

theorem ready_ignored (h : ¬s.readyDue = true) : exec .ready s = .next s := by
  refine congrArg Host.Outcome.next ?_
  show (if s.awake then s.becomeReady else s) = s
  rw [becomeReady_ignored h, ite_self]

theorem awake_run (h : s.power = .run) : s.awake = true := by simp [State.awake, h]

/-! ## Starts of the image (R493) -/

theorem bootLate_iff : s.bootLate = true ↔ s.bootProgress = true ∧ 30 * ticksS ≤ s.boot.progress := by
  simp [State.bootLate]

theorem bootTimeout_ignored (h : ¬s.bootLate = true) : s.bootTimeout = s := if_neg h

section
variable (hl : s.bootLate = true) {n : Nat} {b : Bool} {t u : State} (hn : n = s.boot.starts + 1)
  (ht : t = if s.flag GLB_BOOT GLB_BOOT_FALLBACK then s else s.setFld GLB_BOOT GLB_BOOT_ATTEMPTS (Nat.min n 3))
include hl hn ht

theorem bootTimeout_again (h3 : n < 3) : s.bootTimeout = { t with boot := { t.boot with progress := 0, starts := n } } := by
  rw [State.bootTimeout, if_pos hl, ← hn]
  dsimp only
  rw [if_pos h3, ht]

variable (hb : b = s.flag GLB_STATUS GLB_STATUS_IMAGE)
  (hu : u = { t with boot := { t.boot with
    progress := 0, starts := 0, failedA := t.boot.failedA || !b, failedB := t.boot.failedB || b } })
  (h3 : 3 ≤ n)
include hb hu h3

theorem bootTimeout_failed : s.bootTimeout = if u.noImage = true then u else
    ((u.startImage).setFlag GLB_BOOT GLB_BOOT_FALLBACK true).faultEvent fltImageFallback 0 1 (faultValue fltImageFallback 0) := by
  rw [State.bootTimeout, if_pos hl, ← hn]
  dsimp only
  rw [if_neg (by omega), ← ht, ← hb, ← hu]

end

/-! ## The holdover store, the input and the watchdog (R25, R481, R501) -/

theorem holdFall_permitted {t : State} (ht : t = s.setFlag GLB_STATUS GLB_STATUS_HOLD_OK false)
    (hk : s.flag GLB_STATUS GLB_STATUS_HOLD_OK = true) (hp : s.flag GLB_STATUS GLB_STATUS_OUT_PERMIT = true) :
    s.holdFall = t.faultRaise fltHoldLow 0 1 (faultValue fltHoldLow 0) := by
  rw [ht]
  exact if_pos ⟨hk, hp⟩

theorem holdFall_quiet {t : State} (ht : t = s.setFlag GLB_STATUS GLB_STATUS_HOLD_OK false)
    (h : s.flag GLB_STATUS GLB_STATUS_HOLD_OK = false ∨ s.flag GLB_STATUS GLB_STATUS_OUT_PERMIT = false) : s.holdFall = t := by
  rw [ht]
  refine if_neg ?_
  rintro ⟨hk, hp⟩
  exact h.elim (Bool.eq_false_iff.1 · hk) (Bool.eq_false_iff.1 · hp)

theorem inputHigh_stands (h : s.faultActive fltInputHigh 0 = true) : s.inputHigh = s := if_pos h

theorem inputHigh_raises (h : s.faultActive fltInputHigh 0 = false) :
    s.inputHigh = s.faultRaise fltInputHigh 0 1 (faultValue fltInputHigh 0) := if_neg (Bool.eq_false_iff.1 h)

theorem watchdog_ignored (h : s.resetIgnored = true) : s.watchdog = s := if_pos h

theorem watchdog_resets (h : s.resetIgnored = false) :
    s.watchdog = (s.faultF3 fltSupWdog 0 (faultValue fltSupWdog 0)).warmReset causeWatchdog := if_neg (Bool.eq_false_iff.1 h)

/-! ## The fault log (R505, R506) -/

theorem logDue_iff : s.logDue = true ↔ s.staging ≠ [] ∧ s.logAt + ticksS ≤ s.time := by
  simp [State.logDue]

theorem logFlush_early (h : ¬s.logDue = true) : s.logFlush = s := if_neg h

theorem logFlush_writes (h : s.logDue = true) : s.logFlush = s.logWrite := if_pos h

theorem logLoaded_idle {good : Bool} (h : s.selAt = none) : s.logLoaded good = s := if_neg (by simp [h])

/-- The words of the window: those of the entry selected, or all ones (R506). -/
def windowWords (x : Option FaultEntry) (good : Bool) : List Word :=
  match x with
  | some e => if good then wordsOf e.bytes 8 else List.replicate 8 0xFFFFFFFF
  | none => List.replicate 8 0xFFFFFFFF

theorem windowWords_good (e : FaultEntry) : windowWords (some e) true = wordsOf e.bytes 8 := rfl

theorem windowWords_bad {x : Option FaultEntry} {good : Bool} (h : x = none ∨ good = false) :
    windowWords x good = List.replicate 8 0xFFFFFFFF := by
  obtain rfl | rfl := h
  · rfl
  · cases x <;> rfl

theorem logLoaded_fills {good : Bool} (h : s.selAt ≠ none) {t : State}
    (ht : t = ({ s with selAt := none } : State).setFlag GLB_FLOG_STAT GLB_FLOG_STAT_BUSY false) {ws : List Word}
    (hw : windowWords (s.logEntry (s.fld GLB_FLOG_SEL GLB_FLOG_SEL_AGE)) good = ws) :
    s.logLoaded good = (List.range 8).foldl (fun u k => u.setRg (GLB_FLOG_E k) (ws.getD k 0)) t := by
  subst hw ht
  exact if_pos (Option.isSome_iff_ne_none.2 h)

end

/-! ## The selection of an entry (R506) -/

section
variable (s : State)

/-- A field of a register without acting bits that has been written whole. -/
theorem fld_plainWrite_all {a i j base : Nat} {rw wb : Word} (f : Fld)
    (h : (regAt a).map (fun x => (x.1.facts, x.2)) = some ((base, rw, wb, 0), i, j)) (v : Word) (hf : f.lo + f.width ≤ 32)
    (hk : f.mask &&& (rw &&& 0xFFFFFFFF) = f.mask) : (s.plainWrite (s.wr a 0xFFFFFFFF v)).fld a f = v.getF f := by
  obtain ⟨-, ha, hact, -⟩ := wr_base s _ _ _ _ 0xFFFFFFFF v _ _ _ h
  have hk' : f.mask &&& rw = f.mask := by
    have e : rw &&& 0xFFFFFFFF = rw := BitVec.and_allOnes
    rwa [e] at hk
  rw [← all_fld s f h v hf hk]
  cases hr : regAt a with
  | none => rw [hr] at h; cases h
  | some x =>
    obtain ⟨d, k, l⟩ := x
    rw [hr] at h
    simp only [Option.map_some, Option.some.injEq, Prod.mk.injEq, RegDesc.facts] at h
    obtain ⟨⟨-, hd, -⟩, -⟩ := h
    unfold State.plainWrite
    rw [ha, hr]
    simp only [State.fld, State.rg_setRg_self, hact, hd, Wr.fld]
    have hz : v &&& 0xFFFFFFFF &&& 0 = 0#32 := BitVec.and_zero
    simp only [hz, BitVec.zero_and, BitVec.not_zero, BitVec.and_allOnes, BitVec.or_zero]
    exact getF_merge_in _ _ _ _ hf hk'

variable (age : BitVec 12)

theorem getF_age : (age.setWidth 32 : Word).getF GLB_FLOG_SEL_AGE = age.toNat := by
  have := age.isLt
  show (BitVec.toNat _) / 2 ^ 0 % 2 ^ 12 = age.toNat
  rw [BitVec.toNat_setWidth]
  omega

theorem wr_age : (s.wr GLB_FLOG_SEL 0xFFFFFFFF (age.setWidth 32)).fld GLB_FLOG_SEL_AGE = age.toNat :=
  (all_fld s GLB_FLOG_SEL_AGE at_GLB_FLOG_SEL _ (by decide) (by decide)).trans (getF_age age)

theorem unitWrite_select : s.unitWrite 0 0 (s.wr GLB_FLOG_SEL 0xFFFFFFFF (age.setWidth 32)) =
    s.logSelect (s.wr GLB_FLOG_SEL 0xFFFFFFFF (age.setWidth 32)) := by
  obtain ⟨hb, ha, -, -⟩ := wr_base s _ _ _ _ 0xFFFFFFFF (age.setWidth 32) _ _ _ at_GLB_FLOG_SEL
  rw [unitWrite_glb s _ _ _ _ ha (by decide), State.writeGlb, if_neg (by rw [hb]; decide), if_neg (by rw [hb]; decide), if_pos hb]

variable (ha : s.awake = true)
include ha

theorem faultLogSelect_range (h : s.flash.length ≤ age.toNat) : exec (.faultLogSelect age) s = .next (s.done .range 0 []) :=
  congrArg Host.Outcome.next (regWrite_no s _ _ _ _ _ _ _ _ _ s .range ha at_GLB_FLOG_SEL (by decide) (by decide)
    ((unitWrite_select s age).trans (if_pos (by rw [wr_age]; exact h))))

theorem faultLogSelect_loads (h : age.toNat < s.flash.length) : exec (.faultLogSelect age) s =
    .next ((({ s.plainWrite (s.wr GLB_FLOG_SEL 0xFFFFFFFF (age.setWidth 32)) with selAt := some s.time } : State).setFlag
      GLB_FLOG_STAT GLB_FLOG_STAT_BUSY true).done .ok 0 []) :=
  congrArg Host.Outcome.next (regWrite_ok s _ _ _ _ _ _ _ _ _ _ ha at_GLB_FLOG_SEL (by decide)
    (Or.inl (wr_free s at_GLB_FLOG_SEL _ _ (by decide)))
    ((unitWrite_select s age).trans (if_neg (by rw [wr_age]; omega))))

end

/-- Settles O56: each happening by its law; the selection through the unit of its register. -/
theorem startShutdownAndFaultLog : Obligations.StartShutdownAndFaultLog := by
  unfold Obligations.StartShutdownAndFaultLog
  intro s cold
  refine ⟨fun mw => ⟨?off, ?back, ?up⟩, ⟨?lossIgnored, ?loss⟩, ⟨?coreIgnored, ?coreOff, ?coreStarts⟩, ?ready, fun ha => ?awake⟩
  case off => exact fun hp => congrArg Host.Outcome.next (powerUp_off hp)
  case back => exact fun hp hs => congrArg Host.Outcome.next (powerUp_remembers hp hs)
  case up => exact fun hp hs => congrArg Host.Outcome.next (powerUp_ignored hp hs)
  case lossIgnored => exact fun h => congrArg Host.Outcome.next (beginShutdown_ignored h)
  case loss => exact fun hs hp t u ht hu => congrArg Host.Outcome.next (beginShutdown_begins hs hp ht hu)
  case coreIgnored => exact fun hs => congrArg Host.Outcome.next (coreOff_ignored hs)
  case coreOff => exact fun hs hb => congrArg Host.Outcome.next (coreOff_stays hs hb)
  case coreStarts => exact fun mw hs hb => congrArg Host.Outcome.next (coreOff_starts hs hb)
  case ready =>
    rintro due rfl
    refine ⟨fun hd => ready_ignored (mt readyDue_iff.1 hd), fun hd r t h hr ht hh => ?reports⟩
    case reports =>
      exact next_inRun (awake_run hd.1) (becomeReady_reports (readyDue_iff.2 hd) hr ht hh)
  case awake =>
    refine ⟨?boot, next_inRun ha rfl,
      fun t ht => ⟨fun hk hp => next_inRun ha (holdFall_permitted ht hk hp), fun h => next_inRun ha (holdFall_quiet ht h)⟩,
      ⟨fun h => next_inRun ha (inputHigh_stands h), fun h => next_inRun ha (inputHigh_raises h), next_inRun ha rfl⟩,
      ⟨fun h => next_inRun ha (watchdog_ignored h), fun h => next_inRun ha (watchdog_resets h)⟩,
      ?flush, fun age => ?select, fun good => ?loaded⟩
    case boot =>
      rintro late rfl
      refine ⟨fun hl => next_inRun ha (bootTimeout_ignored (mt bootLate_iff.1 hl)), fun hl n b t u hn hb ht hu => ?late⟩
      case late =>
        have hl' := bootLate_iff.2 hl
        have failed := bootTimeout_failed hl' hn ht hb hu
        exact ⟨fun h3 => next_inRun ha (bootTimeout_again hl' hn ht h3), fun h3 hi => next_inRun ha ((failed h3).trans (if_pos hi)),
          fun h3 hi => next_inRun ha ((failed h3).trans (if_neg (Bool.eq_false_iff.1 hi)))⟩
    case flush =>
      rintro due rfl
      exact ⟨fun hd => next_inRun ha (logFlush_early (mt logDue_iff.1 hd)), fun hd => next_inRun ha (logFlush_writes (logDue_iff.2 hd))⟩
    case select =>
      refine ⟨faultLogSelect_range s age ha, fun h t ht => ?_⟩
      subst ht
      exact ⟨faultLogSelect_loads s age ha h,
        (fld_plainWrite_all s GLB_FLOG_SEL_AGE at_GLB_FLOG_SEL _ (by decide) (by decide)).trans (getF_age age)⟩
    case loaded =>
      refine ⟨fun h => next_inRun ha (logLoaded_idle h), fun h t x ht hx => ⟨fun e he hg => ?entry, fun hb => ?ones⟩⟩
      case entry =>
        subst hg
        exact next_inRun ha (logLoaded_fills h ht ((congrArg (windowWords · true) (hx.symm.trans he)).trans (windowWords_good e)))
      case ones =>
        exact next_inRun ha (logLoaded_fills h ht (windowWords_bad (hb.imp_left hx.symm.trans)))

end Sys2Proof.Machine
end

