-- ==== Sys2Proof/Proofs/ShaftEdges.lean ====
section
/-! SUPPORT. Accepted edges of the main wheel and of the second wheel: what they come to in each state of the shaft (R38, R41 to
R45). -/

namespace Sys2Proof.Machine

/-! ## The main wheel (R41, R42) -/

/-- The ratio that a main-wheel edge is judged on; none at the first edge (R40). -/
def State.toothRatio (s : State) (n : Nat) : Option Nat :=
  if (s.shaft n).lastMain.isSome then ratio ((s.mainTicks n).getD 0) (s.shaftTpred n) else none

/-- A main-wheel edge now is a tooth error: within 200 ticks of the one before, or below the lower window (R41, R42). -/
def State.toothEarly (s : State) (n : Nat) : Prop :=
  (s.shaft n).lastMain.isSome = true ∧ ((s.mainTicks n).getD 0 < 200 ∨ ∃ v, s.toothRatio n = some v ∧ v < s.winLo n)

/-- What a main-wheel edge in time does in a state of the shaft (R45). -/
def State.toothActs (s : State) (n : Nat) : SyncState → State
  | .unsync => s
  | .seeking | .lost => (s.seekTooth n (s.edgeDir n false) ((s.mainTicks n).getD 0) (s.toothRatio n)).mainSeen n 1
  | .gapFound => (s.foundTooth n (s.edgeDir n false) ((s.mainTicks n).getD 0) (s.toothRatio n)).mainSeen n 1
  | .synced => (s.syncTooth n (s.edgeDir n false) ((s.mainTicks n).getD 0)).mainSeen n (s.ratioCount n (s.toothRatio n))
  | .limp => s.limpTooth n (s.edgeDir n false) ((s.mainTicks n).getD 0) (s.ratioCount n (s.toothRatio n))

/-- What a second-wheel edge does in a state of the shaft, once it stands at the head of the last four (R38, R45). -/
def State.secondActs (s : State) (n : Nat) (rising : Bool) : SyncState → State :=
  let t := s.idxSeen n rising none none
  let rev := s.edgeDir n (s.flag (FBP_STAT (s.shc n SHF_CFG_PORT)) FBP_STAT_DIR)
  let last := (s.shaft n).idx.head?
  let ticks := last.map fun i => s.time - i.tick
  fun
  | .unsync => s
  | .seeking | .lost => t.seekIdx n rising rev
  | .gapFound => t.foundIdx n rising rev
  | .synced => t.syncedIdx n (rising != rev) rev (s.shaft n).teeth (last.bind IdxEdge.timed) ticks
  | .limp => t.limpIdx n (rising != rev) rev ticks

section
variable {s : State} {n : Nat}

theorem toothEarly_iff : s.toothEarly n ↔ (s.shaft n).lastMain.isSome = true ∧
    ((s.mainTicks n).getD 0 < 200 ∨ ((s.toothRatio n).map fun v => decide (v < s.winLo n)) = some true) := by
  simp [State.toothEarly]

theorem toothEdge_ignored (h : s.shaftEn n = false ∨ s.shaftSrc n ≠ 0 ∨ (s.shaft n).st = .unsync) : s.toothEdge n = s :=
  if_pos (h.imp_left Bool.eq_false_iff.1)

section
variable (he : s.shaftEn n = true) (hs : s.shaftSrc n = 0) (hu : (s.shaft n).st ≠ .unsync)
include he hs hu

theorem toothEdge_early (h : s.toothEarly n) : s.toothEdge n = (s.toothError n).errLimit n :=
  (if_neg (by simp [he, hs, hu])).trans (if_pos (toothEarly_iff.1 h))

theorem toothEdge_timely (h : ¬s.toothEarly n) : s.toothEdge n = s.toothActs n (s.shaft n).st := by
  refine (if_neg (by simp [he, hs, hu])).trans ((if_neg (mt toothEarly_iff.2 h)).trans ?_)
  cases (s.shaft n).st <;> rfl

end

/-! ## The second wheel (R38) -/

variable {rising : Bool}

theorem secondEdge_ignored (h : s.shaftEn n = false ∨ s.second n = false ∨ (s.shaft n).st = .unsync) :
    s.secondEdge n rising = s :=
  if_pos (h.imp Bool.eq_false_iff.1 (Or.imp_left Bool.eq_false_iff.1))

theorem secondEdge_acts (he : s.shaftEn n = true) (h2 : s.second n = true) (hu : (s.shaft n).st ≠ .unsync) :
    s.secondEdge n rising = s.secondActs n rising (s.shaft n).st := by
  refine (if_neg (by simp [he, h2, hu])).trans ?_
  unfold State.secondActs
  cases (s.shaft n).st <;> rfl

end

/-- Settles O15: the two edges by the state in which each finds its shaft. -/
theorem shaftEdges : Obligations.ShaftEdges := by
  unfold Obligations.ShaftEdges
  intro s n rising ha x dt r early rev c timed t rev2 tooth second
  refine ⟨fun h => next_inRun ha (toothEdge_ignored h), fun h => next_inRun ha (secondEdge_ignored h),
    fun he hs hu => ⟨fun h => next_inRun ha (toothEdge_early he hs hu h), fun h => ?timely⟩, fun he h2 => ?second⟩
  case timely =>
    have acts (st : SyncState) (hx : x.st = st) : tooth (s.toothActs n st) :=
      next_inRun ha (hx ▸ toothEdge_timely he hs hu h)
    exact ⟨fun hx => hx.elim (acts .seeking) (acts .lost), acts .gapFound, acts .synced, acts .limp⟩
  case second =>
    have acts (st : SyncState) (hx : x.st = st) (hu : st ≠ .unsync) : second (s.secondActs n rising st) :=
      next_inRun ha (hx ▸ secondEdge_acts he h2 (hx ▸ hu))
    exact ⟨fun hx => hx.elim (acts .seeking · (by decide)) (acts .lost · (by decide)), (acts .gapFound · (by decide)),
      (acts .synced · (by decide)), (acts .limp · (by decide))⟩

end Sys2Proof.Machine
end

