-- ==== Sys2Proof/Proofs/ShaftsByThemselves.lean ====
section
/-! SUPPORT. What befalls a shaft by itself (R45 to R70): losses, the halt of the angle, angles that catch up, standstill, phase
samples, and the recomputation and the reversal of virtual shafts. -/

namespace Sys2Proof.Machine

section
variable {s : State} {n : Nat}

/-! ## Silence and standstill (R45, R58, R65) -/

theorem idxLoss_due (h : s.idxLossDue n = true) : s.idxLoss n = s.shaftLose n 8 := if_pos h

theorem virtTimeout_due (h : s.virtTimeoutDue n = true) : s.virtTimeout n = s.shaftLose n 7 := if_pos h

theorem stillTimeout_due (h : s.stillDue n = true) : s.stillTimeout n =
    ((s.setShaft n { s.shaft n with still := true, speed := 0, hist := [], need := 2, rate := 0, delta := 0, relRun := 0 }).countStill
      n).almStill n := if_pos h

/-! ## The halt of the angle (R50) -/

/-- At the limit of the microstep count the interpolated angle has covered 65535 parts of 2^16 of its span. -/
theorem Shaft.truAt_limit (x : Shaft) {d : Int} (hd : d = (x.span * 65535 / 2 ^ 16 : Nat)) :
    x.truAt muLimit = if x.dir then x.base - d else x.base + d := by
  have e : x.span * muLimit / 2 ^ 32 = x.span * 65535 / 2 ^ 16 := by unfold muLimit; omega
  rw [Shaft.truAt, e, hd]

theorem Shaft.moveTo_limit (x : Shaft) (hc : x.catching = false) {a : Int} (ha : x.truAt muLimit = a) :
    x.moveTo muLimit = { x with mu := muLimit, tru := a, disp := a, fine := a, catching := false, delta := a - x.fine } := by
  have e : x.truAt (muLimit / 65536 * 65536) = a := ha
  simp [Shaft.moveTo, hc, e, ha]

theorem shaftHalt_halts (hv : s.angValid n = true) (hr : s.shaftVirtual n = false) (hh : (s.shaft n).hist ≠ [])
    (hm : (s.shaft n).mu < muLimit) : s.shaftHalt n = (s.setShaft n ((s.shaft n).moveTo muLimit)).shaftRevs n :=
  if_pos ⟨hv, by simp [hr], by simpa using hh, hm⟩

/-! ## Angles that move on (R49, R65) -/

theorem catchClosed_catches (hc : (s.shaft n).catching = true) : s.catchClosed n =
    (s.setShaft n { s.shaft n with
      disp := (s.shaft n).tru
      catching := false
      fine := if s.shaftVirtual n then (s.shaft n).tru else (s.shaft n).truAt (s.shaft n).mu }).shaftRevs n := if_pos hc

theorem virtHoldEnd_moves {b : Broadcast} (hh : (s.shaft n).vHold = true) (hb : (s.shaft n).vb = some b)
    (hp : ¬(if (s.shaft n).dir then (s.shaft n).disp < s.vProject b else s.vProject b < (s.shaft n).disp)) :
    s.virtHoldEnd n = (s.setShaft n { s.shaft n with
      vHold := false, tru := s.vProject b, disp := s.vProject b, fine := s.vProject b }).shaftRevs n := by
  unfold State.virtHoldEnd
  dsimp only
  rw [hh, hb]
  refine if_neg ?_
  cases hd : (s.shaft n).dir <;> simpa [hd] using hp

/-! ## Phase samples (R62, R63) -/

theorem ofNat_unsigned (v : Int) : BitVec.ofNat 32 (unsigned 32 v) = BitVec.ofInt 32 v := by
  apply BitVec.eq_of_toNat_eq
  rw [BitVec.toNat_ofNat, BitVec.toNat_ofInt, unsigned]
  omega

theorem shaft_setSigned (a : Nat) (v : Int) (m : Nat) : (s.setSigned a v).shaft m = s.shaft m := rfl

theorem shaft_count (a : Nat) (f : Fld) (k m : Nat) : (s.count a f k).shaft m = s.shaft m := rfl

theorem rg_setSigned (a b : Nat) (v : Int) : (s.setSigned a v).rg b = if b = a then BitVec.ofInt 32 v else s.rg b := by
  rw [State.setSigned, State.rg_setRg, ofNat_unsigned]

theorem phase_address (n : Nat) : SHF_PHASE n ≠ SHF_PH_MIN n ∧ SHF_PHASE n ≠ SHF_PH_MAX n ∧ SHF_PHASE n ≠ SHF_PH_MEAN n ∧
    SHF_PHASE n ≠ SHF_PH_STAT n := by
  simp only [SHF_PHASE, SHF_PH_MIN, SHF_PH_MAX, SHF_PH_MEAN, SHF_PH_STAT]
  omega

/-- A sample leaves its window and its register (R62); the other registers of phase hold what they come to. -/
theorem phaseSample_samples (hr : s.phaseRuns n = true) (ha : (s.shaft n).phAt ≠ some s.time) :
    ∃ lo hi mean, s.phaseSample n =
      (((((s.setShaft n { s.shaft n with
        phWin := (s.phaseOf n :: (s.shaft n).phWin).take (2 ^ s.fld (SHF_PH_CFG n) SHF_PH_CFG_WIN)
        phSeen := true
        phAt := some s.time }).setSigned (SHF_PHASE n) (s.phaseOf n)).setSigned (SHF_PH_MIN n) lo).setSigned (SHF_PH_MAX n)
          hi).setSigned (SHF_PH_MEAN n) mean).count (SHF_PH_STAT n) SHF_PH_STAT_COUNT 1 :=
  ⟨_, _, _, if_pos ⟨hr, ha⟩⟩

/-! ## Virtual shafts (R67, R70) -/

theorem virtRecompute_recomputes (he : s.shaftEn n = true) (hv : s.shaftVirtual n = true) : s.virtRecompute n =
    (s.setShaft n { s.shaft n with
      recompAt := some s.time
      rho := (s.speedOut n).natAbs * 2 ^ 32 / 400000000
      horizon := (s.shaft n).disp + 512 * (s.speedOut n * 2 ^ 32 / 400000000) }).almRecompute n := if_pos ⟨he, hv⟩

theorem profileReversal_turns (h : s.profileTurned n = true) :
    s.profileReversal n = (s.setShaft n { s.shaft n with dir := !(s.shaft n).dir }).shaftReverse n := if_pos h

end

/-- Settles O16: each happening where it is due, by its law. -/
theorem shaftsByThemselves : Obligations.ShaftsByThemselves := by
  unfold Obligations.ShaftsByThemselves
  intro s n ha x gives
  refine ⟨fun h => next_inRun ha (idxLoss_due h), fun h => next_inRun ha (virtTimeout_due h), ?halted, ?caughtVirtual, ?caught,
    fun b hh hb hp => next_inRun ha (virtHoldEnd_moves hh hb hp), fun h => next_inRun ha (stillTimeout_due h), ?phase,
    fun he hv => next_inRun ha (virtRecompute_recomputes he hv), fun h => next_inRun ha (profileReversal_turns h)⟩
  case halted =>
    intro hv hr hh hm hc d hd a he
    have hx := x.moveTo_limit hc ((x.truAt_limit hd).trans he.symm)
    exact next_inRun ha (hx ▸ shaftHalt_halts hv hr hh hm)
  case caughtVirtual => exact fun hc hv => next_inRun ha ((catchClosed_catches hc).trans (by rw [if_pos hv]))
  case caught =>
    exact fun hc hv => next_inRun ha ((catchClosed_catches hc).trans (by rw [if_neg (Bool.eq_false_iff.1 hv)]))
  case phase =>
    intro hr hp
    obtain ⟨lo, hi, mean, h⟩ := phaseSample_samples hr hp
    refine ⟨_, next_inRun ha h, ?_⟩
    obtain ⟨hmin, hmax, hmean, hstat⟩ := phase_address n
    simp only [shaft_count, shaft_setSigned, State.shaft_setShaft, State.rg_count, rg_setSigned, hmin, hmax, hmean, hstat,
      if_true, if_false]
    exact ⟨trivial, trivial, rfl, trivial⟩

end Sys2Proof.Machine
end

