-- ==== Sys2Proof/Proofs/ShaftControl.lean ====
section
/-! SUPPORT. Writes of EN and PH_CLR of a shaft (R34, R45, R63), and the broadcast that publishes shafts and that shafts follow (R65,
R397, R398). -/

namespace Sys2Proof.Machine

/-! ## The control registers of a shaft -/

section
variable {s : State} {n : Nat} {w : Wr}

theorem writeShaft_cfg (hb : w.base = SHF_CFG 0) : s.writeShaft n w = s.writeShaftCfg n w := if_pos hb

theorem writeShaft_phaseCfg (hb : w.base = SHF_PH_CFG 0) : s.writeShaft n w = s.writePhaseCfg n w := by
  simp [State.writeShaft, hb, SHF_CFG, SHF_WIN, SHF_WHEEL, SHF_GAP, SHF_SEG, SHF_OFFSET, SHF_MOTION, SHF_PH_CFG]

/-- A write that sets EN of a disabled shaft is checked on the registers as it leaves them (R34). -/
theorem writeShaftCfg_enables (hw : w.was SHF_CFG_EN = 0) (hf : w.fld SHF_CFG_EN = 1) : s.writeShaftCfg n w =
    if (s.plainWrite w).shaftCfgOk n then ((s.plainWrite w).shaftEnable n, .ok) else (s, .range) :=
  (if_neg (by omega)).trans (if_pos hf)

theorem writeShaftCfg_disables (hw : w.was SHF_CFG_EN = 1) (hc : w.changes (~~~ SHF_CFG_EN.mask) = false)
    (hf : w.fld SHF_CFG_EN = 0) : s.writeShaftCfg n w = ((s.plainWrite w).shaftDisable n, .ok) :=
  (if_pos hw).trans ((if_neg (Bool.eq_false_iff.1 hc)).trans (if_pos hf))

/-- A write of PH_CLR that leaves the other fields as they are (R63). -/
theorem writePhaseCfg_clears (hc : ∀ m, w.changes m = false) (hf : w.fld SHF_PH_CFG_PH_EN = w.was SHF_PH_CFG_PH_EN)
    (ha : w.acts SHF_PH_CFG_PH_CLR = true) : s.writePhaseCfg n w = ((s.plainWrite w).phaseClear n, .ok) := by
  have he : ¬(w.was SHF_PH_CFG_PH_EN = 0 ∧ w.fld SHF_PH_CFG_PH_EN = 1) := by omega
  rw [State.writePhaseCfg, if_neg (by simp [hc]), if_neg (fun h => he ⟨h.1, h.2.1⟩)]
  dsimp only
  rw [if_neg he, if_pos ha]

end

section
variable {s : State} {n : Fin 16}

theorem shaft_block : blockOf (SHF_CFG n) = some .shf ∧ blockOf (SHF_PH_CFG n) = some .shf := by
  revert n
  decide

variable {m v : Word}

theorem unitWrite_shaftCfg : s.unitWrite n 0 (s.wr (SHF_CFG n) m v) = s.writeShaftCfg n (s.wr (SHF_CFG n) m v) := by
  obtain ⟨hb, ha, -, -⟩ := wr_base s _ _ _ _ m v _ _ _ (at_SHF_CFG n)
  exact (unitWrite_shf s _ _ _ _ ha shaft_block.1).trans (writeShaft_cfg hb)

theorem unitWrite_phaseCfg : s.unitWrite n 0 (s.wr (SHF_PH_CFG n) m v) = s.writePhaseCfg n (s.wr (SHF_PH_CFG n) m v) := by
  obtain ⟨hb, ha, -, -⟩ := wr_base s _ _ _ _ m v _ _ _ (at_SHF_PH_CFG n)
  exact (unitWrite_shf s _ _ _ _ ha shaft_block.2).trans (writeShaft_phaseCfg hb)

theorem was_shaftCfg (f : Fld) : (s.wr (SHF_CFG n) m v).was f = s.fld (SHF_CFG n) f :=
  congrArg (BitVec.getF · f) (wr_old_shf s _ _ _ _ m v _ _ _ (at_SHF_CFG n) shaft_block.1)

variable (ha : s.awake = true)
include ha

theorem regWrite_shaftCfg {t : State} (hm : (0xFFFFFF : Word) &&& m ≠ 0)
    (h : s.writeShaftCfg n (s.wr (SHF_CFG n) m v) = (t, .ok)) : s.regWrite (SHF_CFG n) m v = t.done .ok 0 [] :=
  regWrite_ok s _ _ _ _ _ _ _ _ _ t ha (at_SHF_CFG n) hm (Or.inl (wr_free s (at_SHF_CFG n) _ _ (by decide)))
    (unitWrite_shaftCfg.trans h)

/-- Setting EN of a disabled shaft comes to what its checks find (R34). -/
theorem exec_shaftEnable (he : s.shaftEn n = false) {t : State}
    (ht : t = s.plainWrite (s.wr (SHF_CFG n) 0xFFFFFFFF (v.setF SHF_CFG_EN 1))) :
    exec (.shaftEnable n v) s = .next (if t.shaftCfgOk n then (t.shaftEnable n).done .ok 0 [] else s.done .range 0 []) := by
  have hw := writeShaftCfg_enables (s := s) (n := n) ((was_shaftCfg SHF_CFG_EN).trans (State.fld_of_not_flag s _ _ he))
    (on_fld s SHF_CFG_EN (at_SHF_CFG n) v (by decide) rfl (by decide))
  rw [← ht] at hw
  refine congrArg Host.Outcome.next ?_
  split
  case isTrue hk => exact regWrite_shaftCfg ha (by decide) (hw.trans (if_pos hk))
  case isFalse hk =>
    exact regWrite_no s _ _ _ _ _ _ _ _ _ s .range ha (at_SHF_CFG n) (by decide) (by decide)
      (unitWrite_shaftCfg.trans (hw.trans (if_neg hk)))

theorem exec_shaftDisable (he : s.shaftEn n = true) : exec (.shaftDisable n) s =
    .next (((s.plainWrite (s.wr (SHF_CFG n) SHF_CFG_EN.mask 0)).shaftDisable n).done .ok 0 []) :=
  congrArg Host.Outcome.next (regWrite_shaftCfg ha (by decide) (writeShaftCfg_disables
    ((was_shaftCfg SHF_CFG_EN).trans (State.fld_of_flag s _ _ rfl he))
    (off_changes s SHF_CFG_EN (at_SHF_CFG n) (by decide))
    (off_fld s SHF_CFG_EN (at_SHF_CFG n) (by decide) (by decide))))

theorem exec_phClr : exec (.phClr n) s =
    .next (((s.plainWrite (s.wr (SHF_PH_CFG n) SHF_PH_CFG_PH_CLR.mask SHF_PH_CFG_PH_CLR.mask)).phaseClear n).done .ok 0 []) := by
  have hk := at_SHF_PH_CFG n
  have acts : (s.wr (SHF_PH_CFG n) SHF_PH_CFG_PH_CLR.mask SHF_PH_CFG_PH_CLR.mask).acts SHF_PH_CFG_PH_CLR = true := by
    obtain ⟨-, -, hact, -⟩ := wr_base s _ _ _ _ SHF_PH_CFG_PH_CLR.mask SHF_PH_CFG_PH_CLR.mask _ _ _ hk
    rw [Wr.acts, hact]
    decide
  exact congrArg Host.Outcome.next (regWrite_ok s _ _ _ _ _ _ _ _ _ _ ha hk (by decide)
    (Or.inl (wr_free s hk _ _ (by decide))) (unitWrite_phaseCfg.trans (writePhaseCfg_clears
      (fun m => act_changes s hk _ _ m (by decide)) (act_fld s SHF_PH_CFG_PH_EN hk _ _ (by decide)) acts)))

end

/-! ## The line-shaft broadcast (R397, R398) -/

section
variable {s : State}

theorem publish_none (h : ∀ n, n < 16 → s.flag (SHF_PUB n) SHF_PUB_PUB_EN = false) : s.publish = s := by
  refine if_pos ?_
  rw [List.isEmpty_iff, State.published, List.filter_eq_nil_iff]
  exact fun n hn => Bool.eq_false_iff.1 (h n (List.mem_range.1 hn))

theorem publish_sends (h : s.published ≠ []) : s.publish =
    ({ s with fab := { s.fab with sampled := s.fabNs / 50000 } } : State).send 4 broadcast 0 0
      (leBytes 1 s.published.length ++ [BitVec.ofNat 8 (b2n s.timeValid), 0, 0] ++ leBytes 8 (unsigned 64 s.fabNs) ++
        s.published.flatMap fun n => s.lineEntry n) := if_neg (mt List.isEmpty_iff.1 h)

theorem lineFollow_arrives (n : Nat) (valid : Bool) (sample : Int) (e : LineEntry) : s.lineFollow n valid sample e =
    if valid = true ∧ s.timeValid = true ∧ (∀ b, (s.shaft n).vb = some b → b.sample < sample) then
      s.virtArrive n { angle := e.angle.toInt, speed := e.speed.toInt, dir := e.dir, spdValid := e.spdValid, still := e.still,
                       sample := sample, tick := s.time } e.angValid
    else s := by
  unfold State.lineFollow
  cases (s.shaft n).vb <;> simp

variable {src : Nat} {valid : Bool} {sample : Int}

/-- What an entry of a broadcast from `src` does to shaft `n` (R65). -/
def State.lineTurn (s : State) (n src : Nat) (valid : Bool) (sample : Int) (e : LineEntry) : State :=
  if s.shaftEn n ∧ s.shaftSrc n = 3 ∧ s.fld (SHF_VSRC n) SHF_VSRC_SRC_ADDR = src ∧
      s.fld (SHF_VSRC n) SHF_VSRC_SRC_SHAFT = e.shaft.val then s.lineFollow n valid sample e
  else s

theorem lineReceive_turns (es : List LineEntry) : s.lineReceive src valid sample es =
    es.foldl (fun t e => State.forEach 16 (fun u k => u.lineTurn k src valid sample e) t) s := rfl

variable {n : Nat} {e : LineEntry}

theorem lineTurn_disabled (he : s.shaftEn n = false) : s.lineTurn n src valid sample e = s := if_neg (by simp [he])

theorem lineTurn_foreign (h : s.shaftEn n = true → s.shaftSrc n = 3 → s.fld (SHF_VSRC n) SHF_VSRC_SRC_ADDR ≠ src) :
    s.lineTurn n src valid sample e = s := if_neg fun ⟨he, h3, ha, _⟩ => h he h3 ha

/-- Where the shafts before and after shaft `n` are disabled, an entry that it follows moves it alone (R65). -/
theorem lineReceive_only (hn : n < 16) (he : s.shaftEn n = true) (h3 : s.shaftSrc n = 3)
    (ha : s.fld (SHF_VSRC n) SHF_VSRC_SRC_ADDR = src) (hs : s.fld (SHF_VSRC n) SHF_VSRC_SRC_SHAFT = e.shaft.val)
    (hb : ∀ k, k < n → s.shaftEn k = false)
    (hl : ∀ k, n < k → k < 16 → (s.lineFollow n valid sample e).shaftEn k = false) :
    s.lineReceive src valid sample [e] = s.lineFollow n valid sample e := by
  have hf : s.lineTurn n src valid sample e = s.lineFollow n valid sample e := if_pos ⟨he, h3, ha, hs⟩
  rw [← hf] at hl ⊢
  rw [lineReceive_turns, List.foldl_cons, List.foldl_nil]
  exact forEach_only 16 n (fun u k => u.lineTurn k src valid sample e) s hn (fun k hk => lineTurn_disabled (hb k hk))
    fun k h1 h2 => lineTurn_disabled (hl k h1 h2)

/-- A broadcast that no shaft follows changes nothing (R65). -/
theorem lineReceive_ignored {es : List LineEntry}
    (h : ∀ k, k < 16 → s.shaftEn k = true → s.shaftSrc k = 3 → s.fld (SHF_VSRC k) SHF_VSRC_SRC_ADDR ≠ src) :
    s.lineReceive src valid sample es = s :=
  foldl_stays _ s es fun _ _ => foldl_stays _ s _ fun k hk => lineTurn_foreign (h k (List.mem_range.1 hk))

end

/-- Settles O17: the three writes by the rules of their registers, the broadcast by who follows it. -/
theorem shaftControlAndLineshafts : Obligations.ShaftControlAndLineshafts := by
  unfold Obligations.ShaftControlAndLineshafts
  refine ⟨fun s n v ha => ⟨?enables, ?refuses, exec_shaftDisable ha, exec_phClr ha⟩, fun s ha =>
    ⟨fun h => next_inRun ha (publish_none h), fun h => next_inRun ha (publish_sends h), ?receive, ?only,
      fun src valid sample es h => next_inRun ha (lineReceive_ignored h)⟩⟩
  case enables => exact fun he hk => (exec_shaftEnable ha he rfl).trans (congrArg Host.Outcome.next (if_pos hk))
  case refuses =>
    exact fun he hk => (exec_shaftEnable ha he rfl).trans (congrArg Host.Outcome.next (if_neg (Bool.eq_false_iff.1 hk)))
  case receive =>
    intro src valid sample es
    refine next_inRun ha ?_
    simp only [State.lineReceive, State.forEach, lineFollow_arrives]
  case only =>
    exact fun src valid sample n e he h3 hr hs hb hl => next_inRun ha (lineReceive_only n.isLt he h3 hr hs hb hl)

end Sys2Proof.Machine
end

