-- ==== Sys2Proof/Proofs/EventTimes.lean ====
section
/-! SUPPORT. When an event starts and ends by itself, and for how long it runs (R73, R74). -/

namespace Sys2Proof.Machine

section
variable {s : State} {i : Nat}

theorem almStartDue_iff : s.almStartDue i = true ↔ (s.event i).st = .committed ∧ (s.event i).notBefore ≤ s.time ∧
    s.forward (s.event i).desc.shaft = true ∧
    s.reached (s.event i).desc.shaft (s.almLead (s.event i).desc.kind) (s.event i).start = true := by
  simp [State.almStartDue, and_assoc]

theorem almEndDue_iff : s.almEndDue i = true ↔ (s.event i).st = .active ∧ (s.event i).endTick ≤ s.time := by
  simp [State.almEndDue]

/-! ## A start that is due -/

section
variable (hd : s.almStartDue i = true)
include hd

/-- A TIMED event starts for its DURATION (R74). -/
theorem almEventStart_timed (hw : (s.event i).desc.window = false) : s.almEventStart i =
    s.almBegin i (s.event i).desc.duration
      (s.crossing (s.event i).desc.shaft (s.almLead (s.event i).desc.kind) (s.event i).start) :=
  (if_pos hd).trans (if_neg (Bool.eq_false_iff.1 hw))

/-- A WINDOW event starts for the time that is left of its span (R74). -/
theorem almEventStart_opens (hw : (s.event i).desc.window = true) {d : Nat}
    (h : s.almWindow (s.event i).desc = some d) : s.almEventStart i =
    s.almBegin i d (s.crossing (s.event i).desc.shaft (s.almLead (s.event i).desc.kind) (s.event i).start) := by
  simp [State.almEventStart, hd, hw, h]

/-- A WINDOW event whose span has passed is skipped (R74). -/
theorem almEventStart_skips (hw : (s.event i).desc.window = true) (h : s.almWindow (s.event i).desc = none) :
    s.almEventStart i = (s.almSkip i).almRepeat i := by
  simp [State.almEventStart, hd, hw, h]

end

/-- An event whose time has passed is DONE, its target ends, and it repeats (R74, R80). -/
theorem almEventEnd_done (hd : s.almEndDue i = true) : s.almEventEnd i =
    ((s.setEvent i { s.event i with st := .done }).targetEnd (s.event i).desc
      (64 * ((s.event i).edgeTick + ((s.event i).endTick - (s.event i).startTick)) + (s.event i).edgeStep)).almRepeat i :=
  if_pos hd

end

/-! ## The duration of a WINDOW event (R74) -/

section
variable {s : State} {d : EventDesc}

theorem almWindow_passed (h : d.fin * 65536 ≤ s.phi d.shaft) : s.almWindow d = none :=
  if_pos (Int.sub_nonpos_of_le h)

/-- On a shaft that stands, the rest of the span is never used up. -/
theorem almWindow_still (h : 0 < d.fin * 65536 - s.phi d.shaft) (hr : s.rhoOf d.shaft = 0) :
    s.almWindow d = some d.duration :=
  (if_neg (Int.not_le.2 h)).trans (if_pos hr)

theorem almWindow_le_duration {t : Nat} (h : s.almWindow d = some t) : t ≤ d.duration := by
  unfold State.almWindow at h
  dsimp only at h
  split at h
  case isTrue => cases h
  case isFalse =>
    split at h
    case isTrue =>
      cases h
      exact Nat.le_refl _
    case isFalse =>
      cases h
      exact Nat.min_le_left _ _

end

/-- Settles O19: a start and an end that are due, each by its law; the time a WINDOW event has by its cases. -/
theorem eventStartsAndEnds : Obligations.EventStartsAndEnds := by
  unfold Obligations.EventStartsAndEnds
  intro s i ha
  refine ⟨fun hc hn hf hr => ?starts, fun hs he => next_inRun ha (almEventEnd_done (almEndDue_iff.2 ⟨hs, he⟩)),
    fun _ => almWindow_still, fun _ => almWindow_passed, fun _ _ => almWindow_le_duration⟩
  case starts =>
    have due : s.almStartDue i = true := almStartDue_iff.2 ⟨hc, hn, hf, hr⟩
    exact ⟨fun hw => next_inRun ha (almEventStart_timed due hw), fun hw =>
      ⟨fun _ h => next_inRun ha (almEventStart_opens due hw h), fun h => next_inRun ha (almEventStart_skips due hw h)⟩⟩

end Sys2Proof.Machine
end

