-- ==== Sys2Proof/Proofs/BluletMemory.lean ====
section
/-! SUPPORT. Accesses of the Blulet to its data memory (R94, R124): the fault of an access, the access itself, and what loads and
stores leave of the bytes. -/

namespace Sys2Proof.Machine

/-! ## An access and its word -/

theorem th_touchErr (s : State) (e k : Nat) (m : MemErr) (g : Nat) : (s.touchErr e k m).th g = s.th g := by
  unfold State.th
  rw [touchErr_threads]

theorem MemErr.none_worse (m : MemErr) : MemErr.none_.worse m = m := by cases m <;> rfl

/-- The state in which an access looks at its word: a store of the whole word overlooks the error that stands there (R94). -/
def State.wordSeen (t : State) (whole : Bool) (k : Nat) : State := if whole then t.setErr k .none_ else t

theorem wordSeen_found (t : State) (whole : Bool) (k : Nat) (m : MemErr) :
    (t.wordSeen whole k).found k m = if whole then m else t.found k m := by
  cases whole with
  | false => rfl
  | true => exact (congrArg (MemErr.worse · m) (errAt_setErr t k .none_)).trans (MemErr.none_worse m)

theorem th_wordSeen (t : State) (whole : Bool) (k g : Nat) : (t.wordSeen whole k).th g = t.th g := by
  cases whole <;> rfl

theorem wordSeen_dmem (t : State) (whole : Bool) (k : Nat) : (t.wordSeen whole k).dmem = t.dmem := by
  cases whole <;> rfl

section
variable {i : Issue} {whole : Bool} {n : Nat} {f : State → Nat → Nat → State} {t : State} {g : Nat}

theorem dmemActOn_range (h : 65536 ≤ i.address (t.th g) ∨ i.address (t.th g) % n ≠ 0) :
    dmemActOn i whole n f t g = .error causeDmemRange :=
  if_pos h

variable (ha : i.address (t.th g) < 65536) (hn : i.address (t.th g) % n = 0)
include ha hn

/-- An access in range and aligned goes by what protection finds on its word. -/
theorem dmemActOn_inside : dmemActOn i whole n f t g =
    if (if whole then i.data else t.found (dmemKey (thEngine g) (i.address (t.th g))) i.data) = .uncorrectable then
      .ok (t.dmemFault g (dmemKey (thEngine g) (i.address (t.th g))))
    else .ok (f ((t.wordSeen whole (dmemKey (thEngine g) (i.address (t.th g)))).touchErr (thEngine g)
      (dmemKey (thEngine g) (i.address (t.th g))) i.data) g (i.address (t.th g))) := by
  rw [← wordSeen_found]
  exact if_neg (by omega)

end

/-! ## Instructions that access data memory -/

section
variable {s : State} {i : Issue} {legal whole : Bool} {n : Nat} {f : State → Nat → Nat → State} {a k g : Nat}
  (h : s.bluReady i = true) (hl : legal = true) (hg : i.thread.toNat = g) (ha : i.address ((s.bluStepped i).th g) = a)
  (ha' : a < 65536) (hn : a % n = 0) (hk : dmemKey (thEngine g) a = k)
include h hl hg ha ha' hn hk

/-- An access that finds no uncorrectable error takes effect. -/
theorem blu_accesses (he : (if whole then i.data else (s.bluStepped i).found k i.data) ≠ .uncorrectable) :
    (Host.Outcome.next (s.bluIssue i legal (dmemActOn i whole n f)) : Host.Outcome State Fault Refusal) =
      .next (f (((s.bluStepped i).wordSeen whole k).touchErr (thEngine g) k i.data) g a).settle := by
  subst hk ha hg
  exact blu_goes h hl ((dmemActOn_inside ha' hn).trans (if_neg he))

/-- An access that finds one has no effect and faults its thread (R94, R114). -/
theorem blu_access_ecc (he : (if whole then i.data else (s.bluStepped i).found k i.data) = .uncorrectable) :
    (Host.Outcome.next (s.bluIssue i legal (dmemActOn i whole n f)) : Host.Outcome State Fault Refusal) =
      .next ((s.bluStepped i).dmemFault g k).settle := by
  subst hk ha hg
  exact blu_goes h hl ((dmemActOn_inside ha' hn).trans (if_pos he))

end

/-! ## What loads and stores leave of the bytes -/

theorem accessed_dmem (s : State) (i : Issue) (whole : Bool) (e k : Nat) :
    (((s.bluStepped i).wordSeen whole k).touchErr e k i.data).dmem = s.dmem := by
  rw [(State.touchErr_keeps _ _ _ _).2.1, wordSeen_dmem, bluStepped_dmem]

theorem th_accessed (s : State) (i : Issue) (whole : Bool) (e k g : Nat) :
    (((s.bluStepped i).wordSeen whole k).touchErr e k i.data).th g = (s.bluStepped i).th g := by
  rw [th_touchErr, th_wordSeen]

theorem settle_dmem (s : State) : s.settle.dmem = s.dmem := (State.settle_keeps s).2.1

/-- A number stored at an address reads as its bytes, low byte first, and every other byte as before (R124). -/
theorem stored_reads {s y : State} (hy : y.dmem = s.dmem) (e a n v : Nat) :
    (∀ b, dmemAddr e a ≤ b → b < dmemAddr e a + n →
      memRead (y.dmemWrite e a (leBytes n v)).settle.dmem b = (leBytes n v).getD (b - dmemAddr e a) 0) ∧
    ∀ b, ¬(dmemAddr e a ≤ b ∧ b < dmemAddr e a + n) →
      memRead (y.dmemWrite e a (leBytes n v)).settle.dmem b = memRead s.dmem b := by
  have read (b : Nat) := dmemWrite_read y e a (leBytes n v) b
  simp only [leBytes_length, hy] at read
  rw [settle_dmem]
  exact ⟨fun b hl hu => (read b).trans (if_pos ⟨hl, hu⟩), fun b hb => (read b).trans (if_neg hb)⟩

section
variable {s y : State} {c : Instr} (hy : y.dmem = s.dmem)
include hy

theorem loads_gives {g : Nat} {x : Thread} (hc : exec c s = .next (y.setTh g x).settle) :
    Gives c s fun t => t = (y.setTh g x).settle ∧ ∀ b, memRead t.dmem b = memRead s.dmem b := by
  refine ⟨_, hc, rfl, fun b => ?_⟩
  rw [settle_dmem, State.setTh_dmem, hy]

theorem stores_gives {e a n v : Nat} (hc : exec c s = .next (y.dmemWrite e a (leBytes n v)).settle) :
    Gives c s fun t => t = (y.dmemWrite e a (leBytes n v)).settle ∧
      (∀ b, dmemAddr e a ≤ b → b < dmemAddr e a + n → memRead t.dmem b = (leBytes n v).getD (b - dmemAddr e a) 0) ∧
      ∀ b, ¬(dmemAddr e a ≤ b ∧ b < dmemAddr e a + n) → memRead t.dmem b = memRead s.dmem b :=
  ⟨_, hc, rfl, stored_reads hy e a n v⟩

end

/-! ## LD and its sizes -/

/-- M of LD and ST: the size as a power of 2, and for LD whether the number is signed (R124). -/
theorem Issue.size_of_mn {i : Issue} {k : Nat} (hk : k < 3) (hm : i.mn = k ∨ i.mn = 4 + k) : i.size = 2 ^ k := by
  rw [Issue.size]
  congr 1
  omega

theorem Issue.load_legal {i : Issue} {k : Nat} (hk : k < 3) (hm : i.mn = k ∨ i.mn = 4 + k) (hl : (i.noT && i.noX) = true) :
    (i.noT && decide (i.mn % 4 ≠ 3) && decide (i.mn < 8) && i.noX) = true := by
  obtain ⟨ht, hx⟩ := Bool.and_eq_true_iff.1 hl
  simp only [ht, hx, Bool.true_and, Bool.and_true, Bool.and_eq_true, decide_eq_true_eq]
  omega

theorem Issue.store_legal {i : Issue} (hm : i.mn < 3) (hl : (i.noD && i.noX) = true) :
    (i.noD && decide (i.mn < 3) && i.noX) = true := by
  obtain ⟨hd, hx⟩ := Bool.and_eq_true_iff.1 hl
  rw [hd, hx, decide_eq_true hm]
  rfl

/-- Settles O7: each instruction as an access that takes effect; a load leaves the bytes, a store its own. -/
theorem bluletDataMemory : Obligations.BluletDataMemory := by
  unfold Obligations.BluletDataMemory
  intro s i h g t0 x a k whole hf hd u at_ loaded loads stores
  have access {n : Nat} (ha : a < 65536) (hn : a % n = 0) {legal : Bool} (hl : legal = true) (f : State → Nat → Nat → State) :
      (Host.Outcome.next (s.bluIssue i legal (dmemAct i n f)) : Host.Outcome State Fault Refusal) = .next (f u g a).settle :=
    blu_accesses (whole := false) h hl rfl rfl ha hn rfl hf
  have ux : u.th g = x := th_accessed s i false _ _ _
  have um : u.dmem = s.dmem := accessed_dmem s i false _ _
  have ur (n : Nat) : ofLe (u.dmemRead (thEngine g) a n) = loaded n := congrArg (fun m => ofLe (memReadAll m at_ n)) um
  refine ⟨fun j hj ha hn hl => ⟨fun hm => ?ld, fun hm => ?ldSigned⟩, fun j hj ha hn hm hl => ?st,
    fun ha hn hl => ?ldw, fun ha hn hl => ?stw, fun ha hn hl => ?xadd⟩
  case ld =>
    have hz := Issue.size_of_mn hj (.inl hm)
    have hs : decide (4 ≤ i.mn) = false := decide_eq_false (by omega)
    refine loads_gives um ((access ha (hz ▸ hn) (Issue.load_legal hj (.inl hm) hl) _).trans ?_)
    simp only [ux, ur, hz, hs]
    rfl
  case ldSigned =>
    have hz := Issue.size_of_mn hj (.inr hm)
    have hs : decide (4 ≤ i.mn) = true := decide_eq_true (by omega)
    refine loads_gives um ((access ha (hz ▸ hn) (Issue.load_legal hj (.inr hm) hl) _).trans ?_)
    simp only [ux, ur, hz, hs]
    rfl
  case st =>
    have hz := Issue.size_of_mn hj (.inl hm)
    refine stores_gives um ((access ha (hz ▸ hn) (Issue.store_legal (hm ▸ hj) hl) _).trans ?_)
    simp only [ux, hz]
  case ldw =>
    refine loads_gives um ((access ha hn (by simpa [Bool.and_assoc] using hl) _).trans ?_)
    simp only [ux, ur]
  case stw =>
    refine stores_gives (accessed_dmem s i true _ _)
      ((blu_accesses (whole := true) h (by simpa [Bool.and_assoc] using hl) rfl rfl ha hn rfl hd).trans ?_)
    rw [th_accessed]
    rfl
  case xadd =>
    refine stores_gives ((State.setTh_dmem u g _).trans um) ((access ha hn hl _).trans ?_)
    simp only [ux, ur]

end Sys2Proof.Machine
end

