-- ==== Sys2Proof/Proofs/BluletFaults.lean ====
section
/-! SUPPORT. The faults of Blulet instructions: illegal fields and the checks of R114 (R114, R118, R124, R137). -/

namespace Sys2Proof.Machine

section
variable {s : State} {i : Issue} {legal : Bool} (h : s.bluReady i = true)
include h

/-- Illegal fields fault the thread at the instruction (R118). -/
theorem blu_illegal {act : BluAct} (hl : legal = false) :
    (Host.Outcome.next (s.bluIssue i legal act) : Host.Outcome State Fault Refusal) =
      .next ((s.bluFetched i).threadFault i.thread.toNat causeIllegal (s.th i.thread.toNat).pc).settle :=
  congrArg Host.Outcome.next (bluIssue_illegal s i legal act h hl)

/-- So does a check that the instruction fails as it takes effect. -/
theorem blu_faults {act : BluAct} {cause : Nat} (hl : legal = true)
    (ha : act (s.bluStepped i) i.thread.toNat = .error cause) :
    (Host.Outcome.next (s.bluIssue i legal act) : Host.Outcome State Fault Refusal) =
      .next ((s.bluFetched i).threadFault i.thread.toNat cause (s.th i.thread.toNat).pc).settle :=
  congrArg Host.Outcome.next (bluIssue_err s i legal act cause h hl ha)

variable {whole : Bool} {n : Nat} {f : State → Nat → Nat → State} {a g k : Nat}

/-- An access outside data memory or misaligned (R124). -/
theorem blu_access_range (hg : i.thread.toNat = g) (ha : i.address ((s.bluStepped i).th g) = a) (hl : legal = true)
    (hr : 65536 ≤ a ∨ a % n ≠ 0) :
    (Host.Outcome.next (s.bluIssue i legal (dmemActOn i whole n f)) : Host.Outcome State Fault Refusal) =
      .next ((s.bluFetched i).threadFault g causeDmemRange (s.th g).pc).settle := by
  subst hg ha
  exact blu_faults h hl (dmemActOn_range hr)

end

/-- Settles O12: every row refuses illegal fields by one law; accesses by theirs; the stack and the jump by their checks. -/
theorem bluletIllegalFieldsFault : Obligations.BluletIllegalFieldsFault := by
  unfold Obligations.BluletIllegalFieldsFault
  intro s i h g t x a k fault faults access
  have il {legal : Bool} {act : BluAct} := blu_illegal (legal := legal) (act := act) h
  have acc {legal whole : Bool} {n : Nat} {f : State → Nat → Nat → State} :=
    And.intro (blu_access_range (legal := legal) (whole := whole) (n := n) (f := f) h rfl rfl)
      fun hl ha hn => blu_access_ecc (legal := legal) (whole := whole) (n := n) (f := f) h hl rfl rfl ha hn rfl
  refine ⟨il, il, il, il, il, il, il, il, il, il, il, il, il, il, il, il, il, il, il, il, il, il, il, il, il,
    il, il, il, il, il, il, il, il, il, il, il, il, il, il, il, il, il, il, il, il, il, il, il, il, il,
    acc, acc, acc, acc, acc, fun hl hs => ?call, fun hl hs => ?ret, fun hl hj => ?jr⟩
  case call => exact blu_faults h hl (if_pos (Nat.le_of_eq hs.symm))
  case ret =>
    refine blu_faults h hl ?_
    dsimp only
    rw [hs]
    rfl
  case jr => exact blu_faults h hl (if_pos hj)

end Sys2Proof.Machine
end

