-- ==== Sys2Proof/Proofs/BluletThreads.lean ====
section
/-! SUPPORT. The waits of Blulet threads and their yield points (R98, R101, R112, R128 to R130, R135). -/

namespace Sys2Proof.Machine

/-! ## Yield points (R101) -/

section
variable {s : State} {g : Nat} (he : (s.th g).errPend = none)
include he

theorem waitPoint_free (hp : (s.th g).stopPend = false) : s.waitPoint g = s := by
  unfold State.waitPoint
  dsimp only
  rw [he]
  exact if_neg (Bool.eq_false_iff.1 hp)

theorem yieldPoint_free (hp : (s.th g).stopPend = false) : s.yieldPoint g = s.makeReady g := by
  unfold State.yieldPoint
  dsimp only
  rw [he]
  exact if_neg (Bool.eq_false_iff.1 hp)

/-- Where neither a stop nor a BUS_ERR awaits the yield point, the thread waits. -/
theorem waitOn_free (hp : (s.th g).stopPend = false) (w : WaitOn) (m : Option Nat) :
    s.waitOn g w m = s.setTh g { s.th g with st := .waiting, wait := w, meet := m, promoted := false } :=
  waitPoint_free ((congrArg Thread.errPend (th_setTh_self ..)).trans he)
    ((congrArg Thread.stopPend (th_setTh_self ..)).trans hp)

end

/-! ## Fields of the waits (R128) -/

section
variable {i : Issue}

theorem Issue.meet_eq : i.meet = if i.d = 15 then none else some i.dn :=
  ite_congr (propext (BitVec.toNat_inj (y := (15 : BitVec 4)))) (fun _ => rfl) fun _ => rfl

theorem Issue.meetOk_of (h : i.d = 2 ∨ i.d = 3 ∨ i.d = 15) : i.meetOk = true := by
  rcases h with h | h | h <;> rw [Issue.meetOk, Issue.dn, h] <;> rfl

theorem Issue.waita_legal (hd : i.meetOk = true) (hs : i.sn < 2) (hl : (i.noT && i.noImm) = true) (hx : i.xn < 16)
    (hm : i.mn = 0 ∨ i.mn = 2) :
    (i.meetOk && wideA i.sn && i.noT && (decide (i.mn = 0) || decide (i.mn = 2)) && decide (i.xn < 16) && i.noImm) = true := by
  obtain ⟨ht, hi⟩ := Bool.and_eq_true_iff.1 hl
  simp [hd, wideA, hs, ht, hi, hx, hm]

theorem Issue.waitt_legal (hd : i.meetOk = true) (hs : i.sn = 2 ∨ i.sn = 3)
    (hl : (i.noT && i.noX && i.noImm && i.noM) = true) :
    (i.meetOk && wideT i.sn && i.noT && i.noM && i.noX && i.noImm) = true := by
  simp only [Bool.and_eq_true] at hl
  obtain ⟨⟨⟨ht, hx⟩, hi⟩, hm⟩ := hl
  have ws : wideT i.sn = true := by rcases hs with hs | hs <;> rw [hs] <;> rfl
  simp [hd, ws, ht, hx, hi, hm]

theorem Issue.waits_legal (hd : i.meetOk = true) (hl : (i.noS && i.noImm) = true) (hx : i.x ≠ 0) (hm : i.mn < 4)
    (ht : i.mn % 2 = 1 ∨ i.noT = true) :
    (i.meetOk && i.noS && decide (i.mn < 4) && (decide (i.mn % 2 = 1) || i.noT) && !i.noX && i.noImm) = true := by
  obtain ⟨hs, hi⟩ := Bool.and_eq_true_iff.1 hl
  have nx : i.noX = false := decide_eq_false hx
  simp [hd, hs, hi, hm, ht, nx]

/-- WAITS without M[0] names no register. -/
theorem Issue.signalWait_bare (hm : i.m = 0 ∨ i.m = 2) :
    WaitOn.signals i.xn (if i.mn % 2 = 1 then some i.tn else none) (decide (2 ≤ i.mn)) =
      .signals i.xn none (decide (i.m = 2)) := by
  rcases hm with h | h <;> rw [Issue.mn, h] <;> rfl

/-- With M[0] it names one. -/
theorem Issue.signalWait_named (hm : i.m = 1 ∨ i.m = 3) :
    WaitOn.signals i.xn (if i.mn % 2 = 1 then some i.tn else none) (decide (2 ≤ i.mn)) =
      .signals i.xn (some i.tn) (decide (i.m = 3)) := by
  rcases hm with h | h <;> rw [Issue.mn, h] <;> rfl

end

/-- An instruction that waits, of a thread that nothing stops at its yield point. -/
theorem blu_waits {s : State} {i : Issue} {legal : Bool} {w w' : WaitOn} {m m' : Option Nat} {g : Nat} {x : Thread}
    (h : s.bluReady i = true) (hg : i.thread.toNat = g) (hx : (s.bluStepped i).th g = x) (he : x.errPend = none)
    (hp : x.stopPend = false) (hl : legal = true) (hw : w = w') (hm : m = m') :
    (Host.Outcome.next (s.bluIssue i legal fun t g => .ok (t.waitOn g w m)) : Host.Outcome State Fault Refusal) =
      .next ((s.bluStepped i).setTh g { x with st := .waiting, wait := w', meet := m', promoted := false }).settle := by
  subst hx hg hw hm
  exact blu_goes h hl (congrArg Except.ok (waitOn_free he hp w m))

/-- Settles O9: each wait as what the thread is left on; HALT without a BUS_ERR; SIG and POST as they stand. -/
theorem bluletWaitsAndYields : Obligations.BluletWaitsAndYields := by
  unfold Obligations.BluletWaitsAndYields
  intro s i h t g x gives waits meetOk m rest
  have hm : i.meet = m := Issue.meet_eq
  refine ⟨fun he hp => ?_, fun he hl => ?halt, fun hl b hb => ?sig, fun hl => blu_goes h hl rfl⟩
  case halt =>
    refine blu_goes h hl (congrArg Except.ok ?_)
    rw [he]
  case sig =>
    subst hb
    exact blu_goes h hl rfl
  have wait {legal : Bool} {w w' : WaitOn} {m m' : Option Nat} (hl : legal = true) (hw : w = w') (hm : m = m') :=
    blu_waits h rfl rfl he hp hl hw hm
  have field {v : BitVec 4} (hv : i.m = v) : i.mn = v.toNat := congrArg BitVec.toNat hv
  refine ⟨fun hd hs hl hx h0 => ?angle, fun hd hs hl hx h2 => ?limit, fun hd hs hl => ?time,
    fun hd hl hx hm' ht => ?signals, fun hd hl hx hm' => ?register, fun hl => wait hl rfl rfl, fun hl => ?yield⟩
  case angle =>
    refine wait (Issue.waita_legal (Issue.meetOk_of hd) hs hl hx (.inl (field h0))) ?_ hm
    rw [field h0]
    rfl
  case limit =>
    refine wait (Issue.waita_legal (Issue.meetOk_of hd) hs hl hx (.inr (field h2))) ?_ hm
    rw [field h2]
    rfl
  case time => exact wait (Issue.waitt_legal (Issue.meetOk_of hd) hs hl) rfl hm
  case signals =>
    have m4 : i.mn < 4 := by rcases hm' with h | h <;> rw [field h] <;> decide
    exact wait (Issue.waits_legal (Issue.meetOk_of hd) hl hx m4 (.inr ht)) (Issue.signalWait_bare hm') hm
  case register =>
    have m4 : i.mn < 4 ∧ i.mn % 2 = 1 := by rcases hm' with h | h <;> rw [field h] <;> decide
    exact wait (Issue.waits_legal (Issue.meetOk_of hd) hl hx m4.1 (.inl m4.2)) (Issue.signalWait_named hm') hm
  case yield => exact blu_goes h hl (congrArg Except.ok (yieldPoint_free he hp))

end Sys2Proof.Machine
end

