-- ==== Sys2Proof/Proofs/BluletBusPort.lean ====
section
/-! SUPPORT. The bus port of Blulet threads: reads, which the thread waits for, and posted accesses (R126, R127, R134). -/

namespace Sys2Proof.Machine

/-! ## Reads (R126) -/

section
variable {s : State} {a : Nat}

theorem busRead_assigned (ha : addrOk a = true) :
    s.busRead a = ((s.readWait a).readSide a, .ok, (s.readWait a).readReg a) :=
  if_pos ha

theorem busRead_unassigned (ha : addrOk a = false) : s.busRead a = (s, .addr, 0) := if_neg (Bool.eq_false_iff.1 ha)

end

/-- BRD waits on what the read answers. -/
theorem bluBrd_reads {s t u : State} {i : Issue} {g a : Nat} {st : Status} {v : Word} {r : Ret} (h : s.bluReady i = true)
    (hl : (i.noT && i.noM && i.noX) = true) (hg : i.thread.toNat = g) (ht : s.bluStepped i = t)
    (ha : i.address (t.th g) = a) (hq : t.busRead a = (u, st, v))
    (hr : (if st = .ok then .word i.dn v else .bad ((t.th g).pc - 1)) = r) :
    exec (.bluBrd i) s = .next (u.waitOn g (.bus r) none).settle := by
  subst hr ha ht hg
  refine blu_goes h hl ?_
  dsimp only
  rw [hq]

/-- A wide number from its halves, as a 64-bit read puts them together. -/
theorem wide_ofHalves (lo hi : Word) : BitVec.ofNat 64 (lo.toNat + 2 ^ 32 * hi.toNat) = hi ++ lo := by
  apply BitVec.eq_of_toNat_eq
  have hl := lo.isLt
  have hh := hi.isLt
  rw [toNat_halves, BitVec.toNat_ofNat]
  omega

/-! ## Posted accesses (R114, R127, R134) -/

theorem th_drawn (s : State) (g : Nat) : s.drawn.th g = s.th g := rfl

section
variable {s : State} {g : Nat}

theorem post_full {r : Ret} {take : State → State} (hf : s.crossingFull = true) :
    s.post g r take = s.drawn.waitOn g (.bus r) none :=
  if_pos hf

theorem post_room {r : Ret} {take : State → State} (hf : s.crossingFull = false) : s.post g r take = take s.drawn :=
  if_neg (Bool.eq_false_iff.1 hf)

theorem bwrTake_ok {a : Nat} {v : Word} {u : State} (h : s.busWrite a v = (u, .ok)) :
    s.bwrTake g a v = u.mirrorReq g 7 [a, v.toNat] := by
  unfold State.bwrTake
  rw [h]
  rfl

/-- A status other than OK returns later to the instruction. -/
theorem bwrTake_fails {a : Nat} {v : Word} {u : State} {c : Status} (h : s.busWrite a v = (u, c)) (hc : c ≠ .ok) :
    s.bwrTake g a v =
      (u.setTh g { u.th g with errs := (u.th g).errs ++ [(u.th g).pc - 1] }).mirrorReq g 7 [a, v.toNat] := by
  unfold State.bwrTake
  rw [h]
  exact congrArg (State.mirrorReq · g 7 [a, v.toNat]) (if_neg hc)

theorem captTake_cell {n : Nat} (hn : n < 1024) : s.captTake g n = (s.cellCapture n).mirrorReq g 4 [n] := if_pos hn

theorem captTake_range {n : Nat} {x : Thread} (hx : s.th g = x) (hn : 1024 ≤ n) :
    s.captTake g n = s.setTh g { x with errs := x.errs ++ [x.pc - 1] } := by
  subst hx
  exact if_neg (by omega)

end

/-- Settles O10: the reads by what the thread waits on, the posted accesses by whether their crossing has room. -/
theorem bluletBusPort : Obligations.BluletBusPort := by
  unfold Obligations.BluletBusPort
  intro s i h t g x a full gives
  refine ⟨fun hl => ⟨fun ha => ?brd, fun ha => ?brdBad⟩, fun hl => ⟨fun h8 ha hb => ?brdw, fun hn => ?brdwBad⟩,
    fun hl => ⟨fun hf => ?bwrFull, fun hf u hu => ?bwr, fun hf u c hu hc => ?bwrFails⟩,
    fun hl => ⟨fun hf => ?captFull, fun hf ha => ?capt, fun hf ha => ?captRange⟩⟩
  case brd => exact bluBrd_reads h hl rfl rfl rfl (busRead_assigned ha) (if_pos rfl)
  case brdBad => exact bluBrd_reads h hl rfl rfl rfl (busRead_unassigned ha) (if_neg (by decide))
  case brdw =>
    refine blu_goes h hl ((if_pos ⟨h8, ha, hb⟩).trans (congrArg Except.ok ?_))
    rw [wide_ofHalves]
    rfl
  case brdwBad =>
    refine blu_goes h hl (if_neg ?_)
    rintro ⟨h8, ha, hb⟩
    rcases hn with hn | hn | hn
    · exact hn h8
    · exact Bool.eq_false_iff.1 hn ha
    · exact Bool.eq_false_iff.1 hn hb
  case bwrFull => exact blu_goes h hl (congrArg Except.ok (post_full hf))
  case bwr => exact blu_goes h hl (congrArg Except.ok ((post_room hf).trans (bwrTake_ok hu)))
  case bwrFails => exact blu_goes h hl (congrArg Except.ok ((post_room hf).trans (bwrTake_fails hu hc)))
  case captFull => exact blu_goes h hl (congrArg Except.ok (post_full hf))
  case capt => exact blu_goes h hl (congrArg Except.ok ((post_room hf).trans (captTake_cell ha)))
  case captRange => exact blu_goes h hl (congrArg Except.ok ((post_room hf).trans (captTake_range (th_drawn t g) ha)))

end Sys2Proof.Machine
end

