-- ==== Sys2Proof/Proofs/BluletCommands.lean ====
section
/-! SUPPORT. BLULET_LOAD, BLULET_START and BLULET_STOP as they run on arrival (R110 to R112, R444). -/

namespace Sys2Proof.Machine

theorem takes_of_parts {s : State} {h : CmdHead} {c : CmdRec} (hh : s.hears h c = true) (ha : c.alone = .ok)
    (hl : (s.heard h c).lockedFor c = false) : s.takes h c = true := by
  rw [State.takes, hh, decide_eq_true ha, hl]
  rfl

/-! ## What the checks of the records say -/

section
variable {c : CmdRec}

theorem alone_loadWrite (ho : c.opcode = 0x50) (hr : loadRead c.arg = false) (ha : c.alone = .ok) :
    loadOk c.arg c.body.length = true := by
  simpa [CmdRec.alone, ho, hr] using ha

theorem alone_loadRead (ho : c.opcode = 0x50) (hr : loadRead c.arg = true) (ha : c.alone = .ok) :
    loadOk c.arg (leAt c.body 0 4) = true := by
  simpa [CmdRec.alone, ho, hr] using ha

theorem alone_start (ho : c.opcode = 0x51) (ha : c.alone = .ok) : startOk c.arg c.body = true := by
  simpa [CmdRec.alone, ho] using ha

theorem lengthOk_loadRead (ho : c.opcode = 0x50) (hr : loadRead c.arg = true) (hl : c.lengthOk = true) : c.body.length = 4 := by
  simpa [CmdRec.lengthOk, ho, hr] using hl

end

/-! ## Loading and reading back (R110) -/

section
variable {r : State} {a : Nat} {body : List Byte}

section
variable (hr : loadRead a = false) (ho : loadOk a body.length = true)
include hr ho

theorem bluLoad_writesData (hd : loadData a = true) :
    r.bluLoad a body = (r.dmemWrite (a % 16) (loadOffset a) body, .ok, []) := by
  simp [State.bluLoad, hr, ho, hd]

theorem bluLoad_writesCode (hd : loadData a = false) :
    r.bluLoad a body = (r.imemWrite (a % 16) (loadOffset a) body (body.length / 8), .ok, []) := by
  simp [State.bluLoad, hr, ho, hd]

end

section
variable (hr : loadRead a = true) (hb : body.length = 4) (ho : loadOk a (leAt body 0 4) = true)
include hr hb ho

theorem bluLoad_readsData (hd : loadData a = true) :
    r.bluLoad a body = (r.readBack (a % 16) (dmemKey (a % 16) (loadOffset a)) (leAt body 0 4 / 8), .ok,
      r.dmemRead (a % 16) (loadOffset a) (leAt body 0 4)) := by
  simp [State.bluLoad, hr, hb, ho, hd]

theorem bluLoad_readsCode (hd : loadData a = false) :
    r.bluLoad a body = (r.readBack (a % 16) (imemKey (a % 16) (loadOffset a)) (leAt body 0 4 / 8), .ok,
      (List.range (leAt body 0 4 / 8)).flatMap fun i => leBytes 8 (r.imemAt (a % 16) (loadOffset a + i)).toNat) := by
  simp [State.bluLoad, hr, hb, ho, hd]

end

end

/-! ## Starting (R111, R444) -/

/-- What starting thread `g` at an address with r1 leaves. -/
def State.threadStarted (r : State) (g pc r1 : Nat) : State :=
  ((((r.setRg (BLU_T_FAULT (thEngine g) (thNumber g)) 0).setFld (BLU_T_SIG (thEngine g) (thNumber g)) BLU_T_SIG_SIG 0).setTh g
    ({ Thread.init with pc := pc }.setGr 1 (BitVec.ofNat 32 r1))).makeReady g).faultEnd fltThread g

section
variable {r : State} {a : Nat} {body : List Byte} (ho : startOk a body = true)
include ho

theorem bluStart_live (hl : (r.th (a % 256)).live = true) : r.bluStart a body = (r, .state) :=
  (if_neg (not_not_intro ho)).trans (if_pos hl)

theorem bluStart_starts (hl : (r.th (a % 256)).live = false) :
    r.bluStart a body = (r.threadStarted (a % 256) (bitsOf a 20 8) (leAt body 0 4), .ok) :=
  (if_neg (not_not_intro ho)).trans (if_neg (Bool.eq_false_iff.1 hl))

theorem opStart_live (hl : (r.th (a % 256)).live = true) : r.opStart true a body = (r, ends .state 0 []) := by
  unfold State.opStart
  rw [bluStart_live ho hl]
  rfl

/-- A thread of class B or C, or one whose start fits the energy budget, is started (R444). -/
theorem opStart_starts (hl : (r.th (a % 256)).live = false) {u : State}
    (hu : u = r.threadStarted (a % 256) (bitsOf a 20 8) (leAt body 0 4)) (hf : r.thClass (a % 256) ≠ 0 ∨ r.fits u = true) :
    r.opStart true a body = (u, ends .ok 0 []) := by
  unfold State.opStart
  rw [bluStart_starts ho hl, ← hu]
  exact if_neg fun ⟨_, _, hc, hn⟩ => hf.elim (absurd hc) hn

end

/-! ## Stopping (R112) -/

/-- BLULET_STOP completes at once where no thread it names is RUNNING. -/
theorem runStop_done {r : State} {fl : Flight} (ha : fl.cmd.alone = .ok) (hl : r.lockedFor fl.cmd = false)
    (hn : (stopNames fl.cmd.arg).filter (fun g => decide ((r.th g).st = .running)) = []) :
    r.runStop fl = ((r.bluStop fl.cmd.arg).1.mirrorCmd fl.session fl.cmd .ok).complete fl none .ok
      (stopResult (r.th ((stopNames fl.cmd.arg).headD 0)).st.code (r.bluStop fl.cmd.arg).2) [] := by
  unfold State.runStop
  dsimp only
  rw [if_neg (not_not_intro ha), if_neg (Bool.eq_false_iff.1 hl), hn]
  rfl

/-! ## The records as they run -/

theorem effect_load (r : State) {c : CmdRec} (ho : c.opcode = 0x50) : r.effect true false c =
    ((r.bluLoad c.arg c.body).1, ends (r.bluLoad c.arg c.body).2.1 0 (r.bluLoad c.arg c.body).2.2) := by
  simp [State.effect, ho]

theorem effect_start (r : State) {c : CmdRec} (ho : c.opcode = 0x51) :
    r.effect true false c = r.opStart true c.arg c.body := by
  simp [State.effect, ho]

/-- A taken record with an effect that only reads. -/
theorem command_replies (s : State) (h : CmdHead) (op : Nat) (arg : BitVec 32) (body : List Byte) (u : State) (x : Completion)
    (c : CmdRec) (hc : h.record op arg.toNat body = c) (k : s.takes h c = true)
    (hr : (s.heard h c).runOp (s.flightOf h c) = (s.heard h c).runEffect (s.flightOf h c))
    (he : (s.heard h c).effect true false c = (u, x)) (h3 : c.opcode ≠ 3) (h4 : c.opcode ≠ 4)
    (hq : ((decide (c.opcode = 0x50) && loadRead c.arg) || (decide (c.opcode = 0x58) && bitOf c.arg 8)) = true) :
    s.command h op arg body = u.replied (s.flightOf h c) x.status x.result x.body := by
  obtain ⟨k1, k2, k3⟩ := takes_parts k
  have r := command_runs s h op arg body (by rw [hc]; exact k1)
  rw [hc, hr, runEffect_reads _ (s.flightOf h c) c u x rfl k2 k3 he h3 h4 hq] at r
  exact r

section
variable {s : State} {h : CmdHead} {arg : BitVec 32} {body : List Byte} {c : CmdRec} {u : State}

section
variable (hc : c = h.record 0x50 arg.toNat body) (k : s.takes h c = true)
include hc k

theorem bluletLoad_writes (hr : loadRead arg.toNat = false) (hq : (s.heard h c).bluLoad arg.toNat body = (u, .ok, [])) :
    exec (.bluletLoad h arg body) s = .next (u.ended (s.flightOf h c) .ok 0 []) := by
  subst hc
  refine congrArg Host.Outcome.next (command_ends s h 0x50 arg body u (ends .ok 0 []) _ rfl k (runOp_50 _ _ rfl) ?_
    (show (0x50 : Nat) ≠ 3 by decide) (show (0x50 : Nat) ≠ 4 by decide) ?_)
  · exact (effect_load _ rfl).trans (congrArg (fun q : State × Status × List Byte => (q.1, ends q.2.1 0 q.2.2)) hq)
  · simp [CmdHead.record, hr]

theorem bluletLoad_reads (hr : loadRead arg.toNat = true) {b : List Byte}
    (hq : (s.heard h c).bluLoad arg.toNat body = (u, .ok, b)) :
    exec (.bluletLoad h arg body) s = .next (u.replied (s.flightOf h c) .ok 0 b) := by
  subst hc
  refine congrArg Host.Outcome.next (command_replies s h 0x50 arg body u (ends .ok 0 b) _ rfl k (runOp_50 _ _ rfl) ?_
    (show (0x50 : Nat) ≠ 3 by decide) (show (0x50 : Nat) ≠ 4 by decide) ?_)
  · exact (effect_load _ rfl).trans (congrArg (fun q : State × Status × List Byte => (q.1, ends q.2.1 0 q.2.2)) hq)
  · simp [CmdHead.record, hr]

end

theorem bluletStart_ends (hc : c = h.record 0x51 arg.toNat body) (k : s.takes h c = true) {st : Status}
    (hq : (s.heard h c).opStart true arg.toNat body = (u, ends st 0 [])) :
    exec (.bluletStart h arg body) s = .next (u.ended (s.flightOf h c) st 0 []) := by
  subst hc
  exact congrArg Host.Outcome.next (command_ends s h 0x51 arg body u (ends st 0 []) _ rfl k (runOp_51 _ _ rfl)
    ((effect_start _ rfl).trans hq) (show (0x51 : Nat) ≠ 3 by decide) (show (0x51 : Nat) ≠ 4 by decide) rfl)

theorem bluletStop_ends (hc : c = h.record 0x52 arg.toNat body) (k : s.takes h c = true)
    (hn : (stopNames arg.toNat).filter (fun g => decide (((s.heard h c).th g).st = .running)) = []) :
    exec (.bluletStop h arg body) s = .next (((s.heard h c).bluStop arg.toNat).1.ended (s.flightOf h c) .ok
      (stopResult ((s.heard h c).th ((stopNames arg.toNat).headD 0)).st.code ((s.heard h c).bluStop arg.toNat).2) []) := by
  subst hc
  obtain ⟨hh, ha, hl⟩ := takes_parts k
  have r := command_runs s h 0x52 arg body hh
  rw [runOp_52 _ _ rfl, runStop_done ha hl hn] at r
  exact congrArg Host.Outcome.next r

end

/-- Settles O13: a load by what it names, a start by whether the thread is live, a stop by its threads. -/
theorem bluletCommands : Obligations.BluletCommands := by
  unfold Obligations.BluletCommands
  intro s h arg body c runs
  refine ⟨fun hh ha hl hr hd => ?writeData, fun hh ha hl hr hd => ?writeCode, fun hh ha hl hr hd n hn e he => ?readData,
    fun hh ha hl hr hd n hn e he => ?readCode, fun hh ha hl g hg => ⟨fun hv => ?live, fun hv u hu hf => ?start⟩,
    fun hh ha hl hn => ?stop⟩
  case writeData =>
    have ho := alone_loadWrite (c := c 0x50) rfl hr ha
    exact (bluletLoad_writes rfl (takes_of_parts hh ha hl) hr (bluLoad_writesData hr ho hd) :)
  case writeCode =>
    have ho := alone_loadWrite (c := c 0x50) rfl hr ha
    exact (bluletLoad_writes rfl (takes_of_parts hh ha hl) hr (bluLoad_writesCode hr ho hd) :)
  case readData =>
    subst hn he
    have hb := lengthOk_loadRead (c := c 0x50) rfl hr (hears_length _ _ _ hh)
    have ho := alone_loadRead (c := c 0x50) rfl hr ha
    exact (bluletLoad_reads rfl (takes_of_parts hh ha hl) hr (bluLoad_readsData hr hb ho hd) :)
  case readCode =>
    subst hn he
    have hb := lengthOk_loadRead (c := c 0x50) rfl hr (hears_length _ _ _ hh)
    have ho := alone_loadRead (c := c 0x50) rfl hr ha
    exact (bluletLoad_reads rfl (takes_of_parts hh ha hl) hr (bluLoad_readsCode hr hb ho hd) :)
  case live =>
    subst hg
    have ho := alone_start (c := c 0x51) rfl ha
    exact (bluletStart_ends rfl (takes_of_parts hh ha hl) (opStart_live ho hv) :)
  case start =>
    subst hg
    have ho := alone_start (c := c 0x51) rfl ha
    exact (bluletStart_ends rfl (takes_of_parts hh ha hl) (opStart_starts ho hv hu hf) :)
  case stop => exact (bluletStop_ends rfl (takes_of_parts hh ha hl) hn :)

end Sys2Proof.Machine
end

