-- ==== Sys2Proof/Proofs/ProgramWords.lean ====
section
/-! SUPPORT. The words of Blulet and of Canary programs as numbers, and the instructions they are (R118, R120, R453). -/

namespace Sys2Proof.Machine

/-! ## Words as numbers -/

theorem toNat_appended {v w : Nat} (a : BitVec v) (b : BitVec w) : (a ++ b).toNat = a.toNat * 2 ^ w + b.toNat := by
  rw [BitVec.toNat_append, Nat.shiftLeft_eq, Nat.mul_comm, ← Nat.two_pow_add_eq_or_of_lt b.isLt]

theorem extract_of_toNat {n k l : Nat} {w : BitVec n} {v : BitVec l} (h : w.toNat / 2 ^ k % 2 ^ l = v.toNat) :
    w.extractLsb' k l = v :=
  BitVec.eq_of_toNat_eq (by rw [BitVec.extractLsb'_toNat, Nat.shiftRight_eq_div_pow, h])

theorem ofNat_of_toNat {l k : Nat} {v : BitVec l} (h : k % 2 ^ l = v.toNat) : BitVec.ofNat l k = v :=
  BitVec.eq_of_toNat_eq ((BitVec.toNat_ofNat ..).trans h)

theorem Issue.toNat_word (i : Issue) (op : BitVec 8) : (i.word op).toNat =
    (((((op.toNat * 2 ^ 4 + i.d.toNat) * 2 ^ 4 + i.s.toNat) * 2 ^ 4 + i.t.toNat) * 2 ^ 4 + i.m.toNat) * 2 ^ 8 + i.x.toNat) *
      2 ^ 32 + i.imm.toNat := by
  simp only [Issue.word, toNat_appended]

theorem CanWord.toNat_word (x : CanWord) (op : BitVec 6) : (x.word op).toNat =
    (((op.toNat * 2 ^ 3 + x.d.toNat) * 2 ^ 3 + x.s.toNat) * 2 ^ 4 + x.m.toNat) * 2 ^ 16 + x.imm.toNat := by
  simp only [CanWord.word, toNat_appended]

/-! ## The fields of a word, and the word of its fields -/

theorem bluOp_word (i : Issue) (op : BitVec 8) : bluOp (i.word op) = op.toNat := by
  rw [bluOp, Issue.toNat_word]
  omega

theorem bluOp_lt (w : BitVec 64) : bluOp w < 2 ^ 8 := by
  unfold bluOp
  omega

theorem Issue.ofWord_word (g : Fin 256) (i : Issue) (op : BitVec 8) :
    Issue.ofWord g (i.word op) = { i with thread := g, fetch := .none_, data := .none_ } := by
  have hw := i.toNat_word op
  have hd : (i.word op).extractLsb' 52 4 = i.d := extract_of_toNat (by omega)
  have hs : (i.word op).extractLsb' 48 4 = i.s := extract_of_toNat (by omega)
  have ht : (i.word op).extractLsb' 44 4 = i.t := extract_of_toNat (by omega)
  have hm : (i.word op).extractLsb' 40 4 = i.m := extract_of_toNat (by omega)
  have hx : (i.word op).extractLsb' 32 8 = i.x := extract_of_toNat (by omega)
  have hi : (i.word op).extractLsb' 0 32 = i.imm := extract_of_toNat (by omega)
  rw [Issue.ofWord, hd, hs, ht, hm, hx, hi]

theorem Issue.word_ofWord (g : Fin 256) (w : BitVec 64) : (Issue.ofWord g w).word (BitVec.ofNat 8 (bluOp w)) = w := by
  apply BitVec.eq_of_toNat_eq
  have ho := bluOp_lt w
  rw [Issue.toNat_word, BitVec.toNat_ofNat, Nat.mod_eq_of_lt ho]
  simp only [bluOp, Issue.ofWord, BitVec.extractLsb'_toNat, Nat.shiftRight_eq_div_pow]
  omega

theorem canOp_word (x : CanWord) (op : BitVec 6) : canOp (x.word op) = op.toNat := by
  rw [canOp, CanWord.toNat_word]
  omega

theorem canOp_lt (w : Word) : canOp w < 2 ^ 6 := by
  unfold canOp
  omega

theorem CanWord.ofWord_word (x : CanWord) (op : BitVec 6) : CanWord.ofWord (x.word op) = x := by
  have hw := x.toNat_word op
  have hd : BitVec.ofNat 3 ((x.word op).toNat / 2 ^ 23) = x.d := ofNat_of_toNat (by omega)
  have hs : BitVec.ofNat 3 ((x.word op).toNat / 2 ^ 20) = x.s := ofNat_of_toNat (by omega)
  have hm : BitVec.ofNat 4 ((x.word op).toNat / 2 ^ 16) = x.m := ofNat_of_toNat (by omega)
  have hi : BitVec.ofNat 16 (x.word op).toNat = x.imm := ofNat_of_toNat (by omega)
  rw [CanWord.ofWord, hd, hs, hm, hi]

theorem CanWord.word_ofWord (w : Word) : (CanWord.ofWord w).word (BitVec.ofNat 6 (canOp w)) = w := by
  apply BitVec.eq_of_toNat_eq
  have ho := canOp_lt w
  rw [CanWord.toNat_word, BitVec.toNat_ofNat, Nat.mod_eq_of_lt ho]
  simp only [canOp, CanWord.ofWord, BitVec.toNat_ofNat]
  omega

/-! ## Opcodes and instructions -/

theorem bluRow_of_spelled {c : Instr} {op : BitVec 8} {i : Issue} (h : bluSpelled c = some (op, i)) :
    bluRow op.toNat i = some c := by
  unfold bluSpelled at h
  split at h <;> cases h <;> rfl

theorem bluSpelled_of_row {n : Nat} {i : Issue} {c : Instr} (h : bluRow n i = some c) :
    bluSpelled c = some (BitVec.ofNat 8 n, i) := by
  unfold bluRow at h
  split at h <;> cases h <;> rfl

theorem canRow_of_spelled {c : Instr} {op : BitVec 6} {x : CanWord} (h : canSpelled c = some (op, x)) :
    canRow op.toNat x = some c := by
  unfold canSpelled at h
  split at h <;> cases h <;> rfl

theorem canSpelled_of_row {n : Nat} {x : CanWord} {c : Instr} (h : canRow n x = some c) :
    canSpelled c = some (BitVec.ofNat 6 n, x) := by
  unfold canRow at h
  split at h <;> cases h <;> rfl

/-- Settles O60: opcodes and instructions name each other, and a word is its opcode and fields as digits of one number. -/
theorem programWordsSpellTheirInstructions : Obligations.ProgramWordsSpellTheirInstructions := by
  unfold Obligations.ProgramWordsSpellTheirInstructions
  refine ⟨fun c op i hc hf hd => ?bluDecodes, fun g w c hc => ⟨BitVec.ofNat 8 (bluOp w), Issue.ofWord g w,
    bluSpelled_of_row hc, Issue.word_ofWord g w, rfl, rfl, rfl⟩, fun c op x hc => ?canDecodes, fun w c hc =>
    ⟨BitVec.ofNat 6 (canOp w), CanWord.ofWord w, canSpelled_of_row hc, CanWord.word_ofWord w⟩⟩
  case bluDecodes =>
    have hi : Issue.ofWord i.thread (i.word op) = i := by
      rw [Issue.ofWord_word]
      cases i
      cases hf
      cases hd
      rfl
    rw [bluCommand, bluOp_word, hi]
    exact bluRow_of_spelled hc
  case canDecodes =>
    rw [canCommand, canOp_word, CanWord.ofWord_word]
    exact canRow_of_spelled hc

end Sys2Proof.Machine
end

