-- ==== Sys2Proof/Proofs/BluletArithmetic.lean ====
section
/-! SUPPORT. The arithmetic and logic instructions of the Blulet (R117 to R119, R122). -/

namespace Sys2Proof.Machine

section
variable {s : State} {i : Issue} {f : Word → Word → Word} {r : Word} {g : Nat} {x : Thread}
  (h : s.bluReady i = true) (hl : i.aluOk = true) (hg : i.thread.toNat = g) (hx : (s.bluStepped i).th g = x)
  (hr : r = f (x.gr i.sn) (i.op2 x))
include h hl hg hx hr

/-- An ALU instruction writes gD and the flags that it sets. -/
theorem blu_alu {fl : BluFlags → Word → Word → BluFlags} {y : BluFlags} (hy : fl x.flags (x.gr i.sn) (i.op2 x) = y) :
    (Host.Outcome.next (s.bluIssue i i.aluOk (aluAct i f fl)) : Host.Outcome State Fault Refusal) =
      .next ((s.bluStepped i).setTh g { x.setGr i.dn r with flags := y }).settle := by
  subst hg hx hr hy
  exact blu_goes h hl rfl

/-- One that sets Z and N alone sets them from its result. -/
theorem blu_zn : (Host.Outcome.next (s.bluIssue i i.aluOk (znAct i f)) : Host.Outcome State Fault Refusal) =
    .next ((s.bluStepped i).setTh g { x.setGr i.dn r with
      flags := { x.flags with z := decide (r = 0), n := r.msb } }).settle := by
  refine blu_alu h hl hg hx hr ?_
  rw [← hr]
  rfl

end

/-- Settles O5: ADD and SUB by the law of ALU instructions, the others by that of those that set Z and N alone. -/
theorem bluletArithmetic : Obligations.BluletArithmetic := by
  unfold Obligations.BluletArithmetic
  intro s i h hl t g x a b zn gives
  have hx : t.th g = x := rfl
  clear_value x
  have zn_gives (f : Word → Word → Word) {r : Word} (hr : r = f a b) := blu_zn h hl rfl hx hr
  refine ⟨?add, ?sub, zn_gives (· &&& ·) rfl, zn_gives (· ||| ·) rfl, zn_gives (· ^^^ ·) rfl,
    fun r hr => ?shl, fun r hr => ?shr, fun r hr => ?sar, zn_gives (· * ·) rfl, fun r hr => ?mulh, fun r hr => ?min,
    fun r hr => ?max⟩
  case add => exact blu_alu (f := (· + ·)) (fl := BluFlags.add) h hl rfl hx rfl rfl
  case sub => exact blu_alu (f := (· - ·)) (fl := BluFlags.sub) h hl rfl hx rfl rfl
  case shl => exact zn_gives (fun a b => a <<< (b.toNat % 32)) hr
  case shr => exact zn_gives (fun a b => a >>> (b.toNat % 32)) hr
  case sar => exact zn_gives (fun a b => a.sshiftRight (b.toNat % 32)) hr
  case mulh => exact zn_gives mulHigh hr
  case min => exact zn_gives minSigned hr
  case max => exact zn_gives maxSigned hr

end Sys2Proof.Machine
end

