-- ==== Sys2Proof/Proofs/BluletControlFlow.lean ====
section
/-! SUPPORT. Branches, calls and jumps of Blulet threads (R121, R137). -/

namespace Sys2Proof.Machine

theorem jump_setTh (s : State) (g a : Nat) (x : Thread) :
    (s.setTh g x).jump g a = (s.setTh g x).setTh g { x with pc := a } := by
  rw [State.jump, th_setTh_self]

/-- Settles O8: each instruction issues by the law of legal instructions, on the branch that its condition takes. -/
theorem bluletControlFlow : Obligations.BluletControlFlow := by
  unfold Obligations.BluletControlFlow
  intro s i h t g x to_ plain gives
  have target {b : Bool} (hb : b = true) (ht : to_ < 8192) : (b && i.targetOk) = true := by
    rw [hb, Issue.targetOk, decide_eq_true (show i.imm.toNat < imemSize from ht)]
    rfl
  refine ⟨fun k hk hk' ht hl c hc => ?br, fun ht hl v hv => ?dbnz, fun ht hl hs => ?call, fun a as hl hs => ?ret,
    fun hl hs => ?jr⟩
  case br =>
    subst hk
    refine blu_goes h (target ?_ ht) (congrArg Except.ok ?_)
    · simp only [Bool.and_eq_true] at hl
      obtain ⟨⟨⟨hd, hs⟩, ht'⟩, hx⟩ := hl
      simp [hd, hs, ht', hx, hk']
    · show (if (x.flags.cond i.mn).getD false = true then t.jump g to_ else t) = _
      rw [← hc]
      rfl
  case dbnz =>
    subst hv
    refine blu_goes h (target hl ht) (congrArg Except.ok ((ite_not ..).trans ?_))
    rw [jump_setTh]
  case call => exact blu_goes h (target hl ht) (if_neg (Nat.not_le.2 hs))
  case ret =>
    refine blu_goes h hl ?_
    dsimp only
    rw [hs]
  case jr => exact blu_goes h hl (if_neg (Nat.not_le.2 hs))

end Sys2Proof.Machine
end

