-- ==== Sys2Proof/Proofs/BluletRequests.lean ====
section
/-! SUPPORT. The requests of Blulet threads: to the Almanac, to an output's queue, to timer cells and to product records
(R131 to R136). -/

namespace Sys2Proof.Machine

/-! ## Fields of the requests (R131 to R136) -/

section
variable {i : Issue}

theorem Issue.mn_of_m {v : BitVec 4} (hm : i.m = v) : i.mn = v.toNat := congrArg BitVec.toNat hm

theorem Issue.arm_legal (hm : i.mn = 0 ∨ i.mn = 1 ∧ i.noT = true) (hx : i.noX = true) :
    (decide (i.mn < 2) && (decide (i.mn = 0) || i.noT) && i.noX) = true := by
  rcases hm with hm | ⟨hm, ht⟩
  · simp [hm, hx]
  · simp [hm, ht, hx]

theorem Issue.edge_legal (hs : i.sn = 2 ∨ i.sn = 3) (hm : i.mn < 2) (hx : i.xn < 16) (hi : i.noImm = true) :
    (wideT i.sn && decide (i.mn < 2) && decide (i.xn < 16) && i.noImm) = true := by
  have ws : wideT i.sn = true := by rcases hs with hs | hs <;> rw [hs] <;> rfl
  simp [ws, hm, hx, hi]

theorem Issue.prod_legal (hm : i.mn < 4) (hx : i.xn < 16) (ht : i.mn ≠ 0 ∨ i.noT = true) (hx' : i.mn < 2 ∨ i.noX = true)
    (hi : i.noImm = true) :
    (decide (i.mn < 4) && decide (i.xn < 16) && (decide (i.mn ≠ 0) || i.noT) && (decide (i.mn < 2) || i.noX) && i.noImm) = true := by
  simp only [Bool.and_eq_true, Bool.or_eq_true, decide_eq_true_eq]
  exact ⟨⟨⟨⟨hm, hx⟩, ht⟩, hx'⟩, hi⟩

end

/-! ## ARM (R132) -/

/-- The error newly found in word `j` of an access of four words: what the issue brings is found in the first. -/
def Issue.foundIn (i : Issue) (j : Nat) : MemErr := if j = 0 then i.data else .none_

/-- Thread `g` has read the four words of a descriptor from `k`. -/
def State.descriptorRead (t : State) (i : Issue) (g k : Nat) : State :=
  (List.range 4).foldl (fun u j => u.touchErr (thEngine g) (k + j) (i.foundIn j)) t

/-- Thread `g` asks the Almanac to arm index `n` with a descriptor, for its gD `d`. -/
def State.armFor (t : State) (g d n : Nat) (body : List Byte) : State :=
  let r := t.eventArm n body (some g)
  if r.2.1 = .ok then (r.1.mirrorReq g 0 (r.2.2 :: body.map BitVec.toNat)).reqDone g (some d) r.2.2
  else r.1.reqFails g d r.2.1

theorem foldl_range_four {β : Type} (f : β → Nat → β) (b : β) : (List.range 4).foldl f b = f (f (f (f b 0) 1) 2) 3 := rfl

theorem descriptorRead_eq (t : State) (i : Issue) (g k : Nat) : t.descriptorRead i g k =
    (((t.touchErr (thEngine g) (k + 0) (i.foundIn 0)).touchErr (thEngine g) (k + 1) (i.foundIn 1)).touchErr
      (thEngine g) (k + 2) (i.foundIn 2)).touchErr (thEngine g) (k + 3) (i.foundIn 3) :=
  foldl_range_four _ _

/-- None of the four words is in error past correction. -/
theorem descriptor_whole {t : State} {i : Issue} {k : Nat}
    (hf : ∀ j, j < 4 → t.found (k + j) (i.foundIn j) ≠ .uncorrectable) :
    ((List.range 4).find? fun j => decide (t.found (k + j) (if j = 0 then i.data else .none_) = .uncorrectable)) = none :=
  List.find?_eq_none.2 fun j hj he => hf j (List.mem_range.1 hj) (of_decide_eq_true he)

section
variable {t u : State} {g d n k : Nat} {body : List Byte}

theorem armFor_done (hq : t.eventArm n body (some g) = (u, .ok, k)) :
    t.armFor g d n body = (u.mirrorReq g 0 (k :: body.map BitVec.toNat)).reqDone g (some d) k := by
  rw [State.armFor, hq]
  rfl

theorem armFor_fails {c : Status} (hq : t.eventArm n body (some g) = (u, c, k)) (hc : c ≠ .ok) :
    t.armFor g d n body = u.reqFails g d c := by
  rw [State.armFor, hq]
  exact if_neg hc

end

/-- ARM of a descriptor in range and aligned, none of whose words is in error past correction. -/
theorem bluArm_reads {s t v : State} {i : Issue} {g a : Nat} (h : s.bluReady i = true) (ht : s.bluStepped i = t)
    (hg : i.thread.toNat = g) (ha : i.address (t.th g) = a)
    (hl : (decide (i.mn < 2) && (decide (i.mn = 0) || i.noT) && i.noX) = true) (h8 : a % 8 = 0) (hr : a + 32 ≤ 65536)
    (hf : ∀ j, j < 4 → t.found (dmemKey (thEngine g) a + j) (i.foundIn j) ≠ .uncorrectable)
    (hv : t.descriptorRead i g (dmemKey (thEngine g) a) = v) {n : Nat}
    (hn : (if i.mn = 1 then 0xFFFFFFFF else ((t.th g).gr i.tn).toNat) = n) :
    exec (.bluArm i) s = .next (if i.mn = 0 ∧ almSize ≤ n then v.reqFails g i.dn .range
      else v.armFor g i.dn n (v.dmemRead (thEngine g) a 32)).settle := by
  subst ht hg ha hv hn
  refine blu_goes h hl ((if_neg (by omega)).trans ?_)
  dsimp only
  rw [descriptor_whole hf]
  exact (apply_ite Except.ok ..).symm

/-! ## PROD (R136) -/

section
variable {t : State} {g : Nat} {i : Issue} {k : Nat} (hk : k = ((t.th g).gr i.sn).toNat) (hk' : k < 65536)
include hk hk'

theorem prodOp_reads (hm : i.mn = 0) (hp : (t.prod k).st = .onLane ∨ (t.prod k).st = .inHandoff) :
    t.prodOp g i = t.reqDone g (some i.dn) ((t.prod k).words.getD i.xn 0).toNat := by
  subst hk
  exact (if_neg (by omega)).trans ((if_pos hm).trans (if_neg fun hn => hp.elim hn.1 hn.2))

theorem prodOp_unused (hm : i.mn = 0) (hl : (t.prod k).st ≠ .onLane) (hh : (t.prod k).st ≠ .inHandoff) :
    t.prodOp g i = t.reqFails g i.dn .state := by
  subst hk
  exact (if_neg (by omega)).trans ((if_pos hm).trans (if_pos ⟨hl, hh⟩))

theorem prodOp_updates {m v : Nat} (hm : i.mn = m + 1) (hv : ((t.th g).gr i.tn).toNat = v)
    (hu : updateCheck m i.xn v = .ok) (hp : (t.prod k).st = .onLane ∨ (t.prod k).st = .inHandoff) :
    t.prodOp g i =
      ((t.setProd k ((t.prod k).updated m i.xn v)).mirrorReq g 6 [m + 1, k, i.xn, v]).reqDone g none 0 := by
  subst hk hv
  unfold State.prodOp
  dsimp only
  rw [if_neg (by omega), if_neg (by omega), hm, Nat.add_sub_cancel, hu]
  exact if_neg fun hn => hp.elim hn.1 hn.2

end

/-- Settles O11: ARM by the descriptor it reads and CANCEL by the Almanac's answer, EDGE and SNAP by their ranges, PROD by the
state of its record. -/
theorem bluletRequests : Obligations.BluletRequests := by
  unfold Obligations.BluletRequests
  intro s i h t g x a gives done fails e at_ word p q
  refine ⟨fun h8 hr hf hx => ?arm, fun hl arg harg u k => ⟨fun hq => ?cancel, fun c hq hc => ?cancelFails⟩,
    fun hs hm hx hi => ⟨fun hn => ?edge, fun hn => ?edgeRange⟩,
    fun hl h8 hr hd => ?snap,
    fun hm hx hl k hk hk' => ?prodRead,
    fun m hm hm' hx hi hx' k hk hk' hu hp => ?prodUpdate⟩
  case arm =>
    intro v body
    have arms {n : Nat} (hm : i.mn = 0 ∨ i.mn = 1 ∧ i.noT = true)
        (hn : (if i.mn = 1 then 0xFFFFFFFF else (x.gr i.tn).toNat) = n) :
        gives (.bluArm i) (if i.mn = 0 ∧ almSize ≤ n then v.reqFails g i.dn .range else v.armFor g i.dn n body) :=
      bluArm_reads h rfl rfl rfl (Issue.arm_legal hm hx) h8 hr hf (descriptorRead_eq t i g q) hn
    refine ⟨fun hm ht u k => ?auto, fun hm hn u k => ?index, fun hm hn => ?range⟩
    case auto =>
      have m1 : i.mn = 1 := Issue.mn_of_m hm
      have asks := arms (.inr ⟨m1, ht⟩) (if_pos m1)
      rw [if_neg (by omega)] at asks
      exact ⟨fun hq => (armFor_done (d := i.dn) hq ▸ asks :), fun c hq hc => (armFor_fails (d := i.dn) hq hc ▸ asks :)⟩
    case index =>
      have m0 : i.mn = 0 := Issue.mn_of_m hm
      have asks := arms (.inl m0) (if_neg (by omega))
      rw [if_neg fun hi => Nat.not_le.2 hn hi.2] at asks
      exact ⟨fun hq => (armFor_done (d := i.dn) hq ▸ asks :), fun c hq hc => (armFor_fails (d := i.dn) hq hc ▸ asks :)⟩
    case range =>
      have m0 : i.mn = 0 := Issue.mn_of_m hm
      have asks := arms (.inl m0) (if_neg (by omega))
      rw [if_pos ⟨m0, hn⟩] at asks
      exact asks
  case cancel =>
    subst harg
    refine blu_goes h hl (congrArg Except.ok ?_)
    rw [hq]
    rfl
  case cancelFails =>
    subst harg
    refine blu_goes h hl (congrArg Except.ok ?_)
    rw [hq]
    exact if_neg hc
  case edge => exact blu_goes h (Issue.edge_legal hs hm hx hi) (congrArg Except.ok (if_neg (Nat.not_le.2 hn)))
  case edgeRange => exact blu_goes h (Issue.edge_legal hs hm hx hi) (congrArg Except.ok (if_pos hn))
  case snap =>
    have inside : ¬((x.gr i.tn).toNat % 8 ≠ 0 ∨ 65536 < (x.gr i.tn).toNat + 40) := by omega
    exact ⟨fun ha => blu_goes h hl ((if_neg inside).trans ((if_neg hd).trans (if_neg (Nat.not_le.2 ha)))),
      fun ha => blu_goes h hl ((if_neg inside).trans ((if_neg hd).trans (if_pos ha)))⟩
  case prodRead =>
    obtain ⟨ht, hi⟩ := Bool.and_eq_true_iff.1 hl
    have legal := Issue.prod_legal (by omega) hx (.inr ht) (.inl (by omega)) hi
    exact ⟨fun hp => blu_goes h legal (congrArg Except.ok (prodOp_reads hk hk' hm hp)),
      fun hp hp' => blu_goes h legal (congrArg Except.ok (prodOp_unused hk hk' hm hp hp'))⟩
  case prodUpdate =>
    exact blu_goes h (Issue.prod_legal (by omega) hx (.inl (by omega)) (hx'.imp_left fun h0 => by omega) hi)
      (congrArg Except.ok (prodOp_updates hk hk' hm rfl hu hp))

end Sys2Proof.Machine
end

