-- ==== Sys2Proof/Proofs/LaneControl.lean ====
section
/-! SUPPORT. Writes of EN of an Ephemeris lane (R142, R144, R158). -/

namespace Sys2Proof.Machine

/-- A write that leaves the bits of a mask leaves those of a part of it. -/
theorem Wr.changes_part {w : Wr} {m k : Word} (h : w.changes m = false) (hk : m &&& k = k) : w.changes k = false := by
  have hm : (w.old ^^^ w.new) &&& m = 0 := by simpa [Wr.changes] using h
  have hp : (w.old ^^^ w.new) &&& k = 0 := by
    rw [← hk, ← BitVec.and_assoc, hm]
    exact BitVec.zero_and
  simp [Wr.changes, hp]

section
variable {s : State} {n : Nat} {w : Wr}

theorem writeEph_laneCfg (hb : w.base = EPH_L_CFG 0) : s.writeEph n w = s.writeLaneCfg n w := by
  rw [State.writeEph, hb, if_neg (by decide), if_pos (by decide), State.writeLane, if_pos hb]

/-- A write that sets EN of a disabled lane is checked on its shaft, then on its exit (R144). -/
theorem writeLaneCfg_enables (hw : w.was EPH_L_CFG_EN = 0) (hf : w.fld EPH_L_CFG_EN = 1) : s.writeLaneCfg n w =
    if s.shaftEn (w.fld EPH_L_CFG_SHAFT) = false then (s, .state)
    else if s.laneExit n = 0 ∨ ofsMax < s.laneExit n then (s, .range)
    else (((s.plainWrite w).setLane n { EphLane.init with prods := (s.lane n).prods }).fixFirst n, .ok) := by
  simp [State.writeLaneCfg, hw, hf]

theorem writeLaneCfg_disables (hw : w.was EPH_L_CFG_EN = 1) (hf : w.fld EPH_L_CFG_EN = 0)
    (hc : w.changes (EPH_L_CFG_SHAFT.mask ||| EPH_L_CFG_ENTRY.mask) = false) :
    s.writeLaneCfg n w = ((s.laneClear n).plainWrite w, .ok) := by
  simp [State.writeLaneCfg, hw, hf, hc]

end

section
variable {s : State} {n : Fin 16}

theorem lane_block : blockOf (EPH_L_CFG n) = some .eph := by
  revert n
  decide

variable {m v : Word}

theorem unitWrite_laneCfg : s.unitWrite n 0 (s.wr (EPH_L_CFG n) m v) = s.writeLaneCfg n (s.wr (EPH_L_CFG n) m v) := by
  obtain ⟨hb, ha, -, -⟩ := wr_base s _ _ _ _ m v _ _ _ (at_EPH_L_CFG n)
  exact (unitWrite_eph s _ _ _ _ ha lane_block).trans (writeEph_laneCfg hb)

theorem was_laneCfg (f : Fld) : (s.wr (EPH_L_CFG n) m v).was f = s.fld (EPH_L_CFG n) f :=
  congrArg (BitVec.getF · f) (wr_old_eph s _ _ _ _ m v _ _ _ (at_EPH_L_CFG n) lane_block)

variable (ha : s.awake = true)
include ha

theorem regWrite_laneCfg {t : State} (hm : (0xF3F : Word) &&& m ≠ 0)
    (h : s.writeLaneCfg n (s.wr (EPH_L_CFG n) m v) = (t, .ok)) : s.regWrite (EPH_L_CFG n) m v = t.done .ok 0 [] :=
  regWrite_ok s _ _ _ _ _ _ _ _ _ t ha (at_EPH_L_CFG n) hm (Or.inl (wr_free s (at_EPH_L_CFG n) _ _ (by decide)))
    (unitWrite_laneCfg.trans h)

theorem regWrite_laneCfg_refused {c : Status} (hc : c ≠ .ok) (hm : (0xF3F : Word) &&& m ≠ 0)
    (h : s.writeLaneCfg n (s.wr (EPH_L_CFG n) m v) = (s, c)) : s.regWrite (EPH_L_CFG n) m v = s.done c 0 [] :=
  regWrite_no s _ _ _ _ _ _ _ _ _ s c ha (at_EPH_L_CFG n) hm hc (unitWrite_laneCfg.trans h)

/-- Setting EN of a disabled lane comes to what the checks of its shaft and its exit find (R144). -/
theorem exec_laneEnable (he : s.laneEn n = false) : exec (.laneEnable n v) s = .next
    (if s.shaftEn (v.getF EPH_L_CFG_SHAFT) = false then s.done .state 0 []
     else if s.laneExit n = 0 ∨ ofsMax < s.laneExit n then s.done .range 0 []
     else (((s.plainWrite (s.wr (EPH_L_CFG n) 0xFFFFFFFF (v.setF EPH_L_CFG_EN 1))).setLane n
       { EphLane.init with prods := (s.lane n).prods }).fixFirst n).done .ok 0 []) := by
  have hw := writeLaneCfg_enables (s := s) (n := n) ((was_laneCfg EPH_L_CFG_EN).trans (State.fld_of_not_flag s _ _ he))
    (on_fld s EPH_L_CFG_EN (at_EPH_L_CFG n) v (by decide) rfl (by decide))
  rw [on_fld_ne s EPH_L_CFG_EN (at_EPH_L_CFG n) v EPH_L_CFG_SHAFT (by decide) (by decide) (by decide) (by decide)] at hw
  refine congrArg Host.Outcome.next ?_
  split
  case isTrue hs => exact regWrite_laneCfg_refused ha (by decide) (by decide) (hw.trans (if_pos hs))
  case isFalse hs =>
    rw [if_neg hs] at hw
    split
    case isTrue hx => exact regWrite_laneCfg_refused ha (by decide) (by decide) (hw.trans (if_pos hx))
    case isFalse hx => exact regWrite_laneCfg ha (by decide) (hw.trans (if_neg hx))

theorem exec_laneDisable (he : s.laneEn n = true) : exec (.laneDisable n) s =
    .next (((s.laneClear n).plainWrite (s.wr (EPH_L_CFG n) EPH_L_CFG_EN.mask 0)).done .ok 0 []) :=
  congrArg Host.Outcome.next (regWrite_laneCfg ha (by decide) (writeLaneCfg_disables
    ((was_laneCfg EPH_L_CFG_EN).trans (State.fld_of_flag s _ _ rfl he))
    (off_fld s EPH_L_CFG_EN (at_EPH_L_CFG n) (by decide) (by decide))
    (Wr.changes_part (off_changes s EPH_L_CFG_EN (at_EPH_L_CFG n) (by decide)) (by decide))))

end

/-- Settles O20: both writes by the rules of the lane's register. -/
theorem laneControl : Obligations.LaneControl := by
  unfold Obligations.LaneControl
  intro s n v ha on off
  refine ⟨fun he => ⟨fun hs => ?noShaft, fun hs => ⟨fun hx => ?range, fun h0 h1 => ?enables⟩⟩, exec_laneDisable ha⟩ <;>
    refine (exec_laneEnable ha he).trans (congrArg Host.Outcome.next ?_)
  case noShaft => exact if_pos hs
  case range => exact (if_neg (by simp [hs])).trans (if_pos hx)
  case enables =>
    have inRange : ¬(s.laneExit n = 0 ∨ ofsMax < s.laneExit n) := fun hx => hx.elim (Nat.ne_of_gt h0) (Nat.not_lt.2 h1)
    exact (if_neg (by simp [hs])).trans (if_neg inRange)

end Sys2Proof.Machine
end

