-- ==== Sys2Proof/Proofs/LanesByThemselves.lean ====
section
/-! SUPPORT. What happens on an Ephemeris lane by itself (R143, R144, R146, R158): slots, sensor edges, stations and exits. -/

namespace Sys2Proof.Machine

section
variable {s : State} {n : Nat}

theorem laneMoves_iff : s.laneMoves n = true ↔
    s.laneEn n = true ∧ s.angValid (s.laneShaft n) = true ∧ (s.shaft (s.laneShaft n)).dir = false := by
  simp [State.laneMoves, State.forward]

/-! ## Slots (R143, R144) -/

section
variable (hm : s.laneMoves n = true) (hs : s.slotted n = true)
include hm hs

theorem slotEntry_enters (hg : (s.lane n).gap = false) :
    s.slotEntry n = (s.slotsDue n slotFuel).foldl (fun t y => t.slotEnter n y.1 y.2) s :=
  (if_pos ⟨hm, hs⟩).trans (if_neg (Bool.eq_false_iff.1 hg))

/-- After a loss of ANG_VALID the slots that are due are passed over, up to the last (R144). -/
theorem slotEntry_passes (hg : (s.lane n).gap = true) : s.slotEntry n =
    match (s.slotsDue n slotFuel).getLast? with
    | some y => (s.setLane n { s.lane n with gap := false }).setLane n
        { s.lane n with gap := false, next := some (y.1 + 1), seen := (s.lane n).seen.filter fun a => decide (y.1 < a) }
    | none => s.setLane n { s.lane n with gap := false } := by
  refine (if_pos ⟨hm, hs⟩).trans ((if_pos hg).trans ?_)
  cases (s.slotsDue n slotFuel).getLast? <;> simp

end

/-! ## Sensor edges (R143) -/

section
variable (hm : s.laneMoves n = true) (he : s.lcf n EPH_L_CFG_ENTRY = 2)
include hm he

/-- An edge within MIN_GAP of the one before. -/
theorem sensorEntry_short {a : Int} (hl : (s.lane n).lastSensor = some a)
    (hg : s.lanePhiInt n - a < (s.rg (EPH_L_MIN_GAP n)).toNat) :
    s.sensorEntry n = s.count (EPH_L_CNT_ERR n) EPH_L_CNT_ERR_GAP_SHORT 1 := by
  refine (if_pos ⟨hm, he⟩).trans ?_
  rw [hl]
  exact if_pos (decide_eq_true hg)

theorem sensorEntry_enters
    (hg : ∀ a, (s.lane n).lastSensor = some a → (s.rg (EPH_L_MIN_GAP n)).toNat ≤ s.lanePhiInt n - a) {x : Int × Nat × Nat}
    (hx : x = s.snap n (s.lcf n EPH_L_CFG_SNAP = 1) (s.lanePhiInt n)) :
    s.sensorEntry n =
      (s.setLane n { s.lane n with lastSensor := some (s.lanePhiInt n) }).enter n x.1 x.2.1 pfPresent := by
  subst hx
  refine (if_pos ⟨hm, he⟩).trans ?_
  cases hl : (s.lane n).lastSensor with
  | none => rfl
  | some a => exact if_neg (by simpa using hg a hl)

end

/-! ## Exits (R158) -/

theorem exitDue_moves (hm : s.laneMoves n = true) : s.exitDue n =
    (s.lane n).prods.filter fun i => decide (((s.prod i).anchor + (s.rg64 (EPH_L_EXIT_LO n) : Nat)) * 65536 ≤ s.lanePhi n) :=
  if_pos hm

end

/-! ## Stations (R146) -/

section
variable {s : State} {k i : Nat}

/-- The product that a station fires for is the first that it has not fired for and whose firing angle is reached. -/
theorem stnNext_first {is js : List Nat} (he : s.stnEn k = true) (hm : s.laneMoves (s.stnLane k) = true)
    (ht : FMap.get (fun _ => 0) s.stnTick k ≠ s.time + 1) (hp : (s.lane (s.stnLane k)).prods = is ++ i :: js)
    (hb : ∀ j ∈ is, (s.prod j).firedBy k = true ∨ s.stnReached k (s.prod j) = false) (hf : (s.prod i).firedBy k = false)
    (hr : s.stnReached k (s.prod i) = true) : s.stnNext k = some i := by
  refine (if_pos ⟨he, hm, ht⟩).trans ?_
  rw [List.find?_eq_some_iff_append]
  refine ⟨by simp [hf, hr], is, js, hp, fun j hj => ?_⟩
  rcases hb j hj with h | h <;> simp [h]

theorem stationFire_fires (h : s.stnNext k = some i) : s.stationFire k =
    (((({ (s.setProd i { ((s.prod i).setFired k) with lastValid := true, lastStn := k }) with
          stnTick := FMap.set (fun _ => 0) s.stnTick k (s.time + 1) } : State).count (EPH_ST_CNT k) EPH_ST_CNT_FIRED
        1).pointProduct k (s.prod i).anchor).runActions k (s.stnLane k) i (s.prodBefore i)
      ((List.range 8).map fun j => s.rg (EPH_ST_ACT k j))) := by
  rw [State.stationFire, h]
  rfl

end

/-- Settles O21: each happening on a lane that moves, by its law. -/
theorem lanesByThemselves : Obligations.LanesByThemselves := by
  unfold Obligations.LanesByThemselves
  intro s n k ha l moves due x
  refine ⟨fun hm hs => ⟨fun hg => ?enters, fun hg hd => ?none, fun hg ys y hd => ?passes⟩,
    fun hm he => ⟨fun a hl hg => ?short, fun hg => ?sensor⟩, fun hm he ht is i js p hp hq hb hf hr => ?fires,
    fun hm => ?exits⟩ <;>
    replace hm := laneMoves_iff.2 hm <;> refine next_inRun ha ?_
  case enters => exact slotEntry_enters hm hs hg
  case none =>
    have hd : s.slotsDue n slotFuel = [] := hd
    rw [slotEntry_passes hm hs hg, hd]
    rfl
  case passes =>
    have hd : s.slotsDue n slotFuel = ys ++ [y] := hd
    rw [slotEntry_passes hm hs hg, hd, List.getLast?_concat]
  case short => exact sensorEntry_short hm he hl hg
  case sensor => exact sensorEntry_enters hm he hg rfl
  case fires =>
    subst hq
    exact stationFire_fires (stnNext_first he hm ht hp hb hf hr)
  case exits => rw [State.productExit, exitDue_moves hm]

end Sys2Proof.Machine
end

