-- ==== Sys2Proof/Proofs/Handoffs.lean ====
section
/-! SUPPORT. Handoffs between engines (R155 to R157): the arrival of a record, and the end of a handoff at its source. -/

namespace Sys2Proof.Machine

/-! ## A record that arrives (R156) -/

section
variable (s : State) (n : Nat) (th : Int) (p : Product)

/-- Where a record handed over at `th` stands on lane `n` now: anchor, slot and error of the snap. -/
def State.arrivalSnap : Int × Nat × Nat :=
  s.snap n (s.lcf n EPH_L_CFG_SNAP = 1)
    (s.lanePhiInt n - divT (s.speedOut (s.laneShaft n) * 65536 * (s.fabNs - th)) 1000000000 - (s.rg (EPH_L_HO_OFS n)).toNat)

/-- It comes after its deadline. -/
def State.arrivalLate : Bool := decide ((s.fld (EPH_L_HO n) EPH_L_HO_HO_DEADLINE * 1000 : Nat) < s.fabNs - th)

/-- Its snap is out of tolerance. -/
def State.arrivalFar : Bool := decide (s.fld (EPH_L_HO n) EPH_L_HO_HO_TOL * 65536 < (s.arrivalSnap n th).2.2)

/-- The record as the lane takes it, before it is marked. -/
def State.arrivalRecord : Product :=
  { (p.unmark pfHandedOff) with
    anchor := (s.arrivalSnap n th).1, slot := (s.arrivalSnap n th).2.1, entryTick := s.time, entryLane := n, fired := 0,
    passed := 0 }

/-- A record put on its lane at index `i` and counted. -/
def State.arrivalEntered (i : Nat) : State :=
  (s.putOn n i (p.mark pfPresent)).count (EPH_L_CNT_IO n) EPH_L_CNT_IO_ENTERED 1

/-- The rest of an arrival: its PID is remembered, stations behind it are skipped, and the source and the standby are told. -/
def State.arrivalTold (i src seq : Nat) : State :=
  ((({ s with pidsSeen := (s.pidsSeen ++ [p.pid]).drop (s.pidsSeen.length + 1 - 256) } : State).skipStations n i).handoffAck src
    false p.pid seq).mirror 5 [1, p.pid]

end

section
variable {s : State} {lane : Fin 16} {src seq : Nat} {th : Int} {p : Product}

theorem handoffArrive_duplicate (h : p.pid ∈ s.pidsSeen) :
    s.handoffArrive src seq lane th p = (s.count EPH_CNT EPH_CNT_HO_DUP 1).handoffAck src false p.pid seq :=
  if_pos (by simpa using h)

variable (hp : p.pid ∉ s.pidsSeen)
include hp

theorem handoffArrive_new : s.handoffArrive src seq lane th p =
    if s.laneEn lane = false ∨ s.angValid (s.laneShaft lane) = false then s.handoffAck src true p.pid seq
    else
      match s.takeRecord with
      | none => (s.storeFull lane).handoffAck src true p.pid seq
      | some (t, i) =>
        let q := s.arrivalRecord lane th p
        let r := if s.arrivalLate lane th then q.mark (pfSuspect + pfReject)
          else if s.arrivalFar lane th then q.mark pfSuspect else q
        let u := t.arrivalEntered lane r i
        (if s.arrivalLate lane th then u.count EPH_HO_CNT EPH_HO_CNT_LATE 1 else u).arrivalTold lane p i src seq := by
  refine (if_neg (by simpa using hp)).trans ?_
  rw [Nat.mod_eq_of_lt lane.isLt]
  simp only [Bool.not_eq_true]
  rfl

/-- A record that its lane refuses is not remembered: the model's choice for the memory of R156 (log 31 of its notes). -/
theorem handoffArrive_refused (h : s.laneEn lane = false ∨ s.angValid (s.laneShaft lane) = false) :
    s.handoffArrive src seq lane th p = s.handoffAck src true p.pid seq :=
  (handoffArrive_new hp).trans (if_pos h)

variable (he : s.laneEn lane = true) (hv : s.angValid (s.laneShaft lane) = true)
include he hv

theorem handoffArrive_full (h : s.takeRecord = none) :
    s.handoffArrive src seq lane th p = (s.storeFull lane).handoffAck src true p.pid seq := by
  rw [handoffArrive_new hp, if_neg (by simp [he, hv]), h]

variable {t : State} {i : Nat} (ht : s.takeRecord = some (t, i))
include ht

theorem handoffArrive_late (hl : s.arrivalLate lane th = true) : s.handoffArrive src seq lane th p =
    ((t.arrivalEntered lane ((s.arrivalRecord lane th p).mark (pfSuspect + pfReject)) i).count EPH_HO_CNT EPH_HO_CNT_LATE
      1).arrivalTold lane p i src seq := by
  rw [handoffArrive_new hp, if_neg (by simp [he, hv]), ht]
  simp only [hl, if_true]

theorem handoffArrive_far (hl : s.arrivalLate lane th = false) (hf : s.arrivalFar lane th = true) :
    s.handoffArrive src seq lane th p =
      (t.arrivalEntered lane ((s.arrivalRecord lane th p).mark pfSuspect) i).arrivalTold lane p i src seq := by
  rw [handoffArrive_new hp, if_neg (by simp [he, hv]), ht]
  simp only [hl, hf, if_true, if_false, Bool.false_eq_true]

theorem handoffArrive_near (hl : s.arrivalLate lane th = false) (hf : s.arrivalFar lane th = false) :
    s.handoffArrive src seq lane th p =
      (t.arrivalEntered lane (s.arrivalRecord lane th p) i).arrivalTold lane p i src seq := by
  rw [handoffArrive_new hp, if_neg (by simp [he, hv]), ht]
  simp only [hl, hf, if_false, Bool.false_eq_true]

end

/-! ## The end of a handoff at its source (R157) -/

section
variable {s : State} {neg : Bool} {pid seq : Nat}

theorem handoffAcked_stray (h : ∀ k ∈ s.handoffs, k.pid ≠ pid ∨ seq ∉ k.seqs) : s.handoffAcked neg pid seq = s := by
  have unmatched : (s.handoffs.find? fun k => decide (k.pid = pid) && k.seqs.contains seq) = none := by
    refine List.find?_eq_none.2 fun k hk => ?_
    rcases h k hk with e | e <;> simp [e]
  rw [State.handoffAcked, unmatched]

variable {hs ks : List Handoff} {h : Handoff} (hh : s.handoffs = hs ++ h :: ks)
include hh

theorem handoffAcked_ends (hb : ∀ g ∈ hs, g.pid ≠ pid ∨ seq ∉ g.seqs) (hp : h.pid = pid) (hq : seq ∈ h.seqs) :
    s.handoffAcked neg pid seq = s.handoffEnd h neg := by
  have first : (s.handoffs.find? fun k => decide (k.pid = pid) && k.seqs.contains seq) = some h := by
    rw [List.find?_eq_some_iff_append]
    refine ⟨by simp [hp, hq], hs, ks, hh, fun g hg => ?_⟩
    rcases hb g hg with k | k <;> simp [k]
  rw [State.handoffAcked, first]

variable {i : Nat} (hb : ∀ g ∈ hs, g.product ≠ i) (hp : h.product = i) (ha : s.standby = false)
  (hd : h.since + s.fld EPH_HO_CFG EPH_HO_CFG_ACK_TO * ticksUs ≤ s.time)
include hb hp ha hd

/-- An acknowledgement that is overdue ends the handoff or has its frame sent again (R157). -/
theorem ackTimeout_due : s.ackTimeout i =
    if h.resent then s.handoffEnd h true
    else
      let k := { h with resent := true, since := s.time, seqs := h.seqs ++ [s.nextSeq h.dest 1] }
      ({ s with handoffs := s.handoffs.map fun x => if x.product = i then k else x } : State).sendHandoff k true := by
  have due : s.ackDue i = true := by simp [State.ackDue, ha, hh, hp, hd]
  have first : (s.handoffs.find? fun k => decide (k.product = i)) = some h := by
    rw [List.find?_eq_some_iff_append]
    exact ⟨by simp [hp], hs, ks, hh, fun g hg => by simp [hb g hg]⟩
  rw [State.ackTimeout, if_pos due, first]

end

/-- Settles O22: an arrival by what turns it away or how it stands, an acknowledgement or a timeout by its handoff. -/
theorem handoffs : Obligations.Handoffs := by
  unfold Obligations.Handoffs
  intro s ha
  refine ⟨?arrival, fun neg pid seq => ⟨fun h => next_inRun ha (handoffAcked_stray h),
    fun hs h ks hh hb hp hq => next_inRun ha (handoffAcked_ends hh hb hp hq)⟩, ?timeout⟩
  case arrival =>
    intro src seq lane th body p hq ack
    subst hq
    refine ⟨fun hp => next_inRun ha (handoffArrive_duplicate hp), fun hp h => next_inRun ha (handoffArrive_refused hp h),
      fun hp he hv => ⟨fun h => next_inRun ha (handoffArrive_full hp he hv h), ?takes⟩⟩
    intro t i ht dt ah x late far q entered said
    refine ⟨fun hl => ?late, fun hl hf => ?far, fun hl hf => ?near⟩
    case late => exact next_inRun ha (handoffArrive_late hp he hv ht (decide_eq_true hl))
    case far => exact next_inRun ha (handoffArrive_far hp he hv ht (decide_eq_false hl) (decide_eq_true hf))
    case near => exact next_inRun ha (handoffArrive_near hp he hv ht (decide_eq_false hl) (decide_eq_false hf))
  case timeout =>
    intro i hs h ks hh hb hp hn hd
    have due := ackTimeout_due hh hb hp hn hd
    refine ⟨fun hr => next_inRun ha (due.trans (if_pos hr)), fun hr k hk => next_inRun ha ?_⟩
    subst hk
    exact due.trans (if_neg (Bool.eq_false_iff.1 hr))

end Sys2Proof.Machine
end

