-- ==== Sys2Proof/Proofs/ProductCommands.lean ====
section
/-! SUPPORT. PRODUCT_ENTER, PRODUCT_UPDATE, PRODUCT_QUERY and PRODUCT_RETIRE as they run on arrival (R159 to R162). -/

namespace Sys2Proof.Machine

/-! ## Entering a product (R159) -/

section
variable (r : State) (a : Nat) (body : List Byte)

/-- Anchor, slot and error of the product that a PRODUCT_ENTER enters. -/
def State.enterSnap : Int × Nat × Nat :=
  r.snap (a % 16) (r.lcf (a % 16) EPH_L_CFG_SNAP = 1) (if bitOf a 8 then signed 64 (leAt body 0 8) else r.lanePhiInt (a % 16))

/-- The record that it makes. -/
def State.enterRecord : Option (State × Nat) :=
  r.makeRecord (a % 16) (r.enterSnap a body).1 (r.enterSnap a body).2.1
    (pfPresent + if decide (r.fld (EPH_L_HO (a % 16)) EPH_L_HO_HO_TOL * 65536 < (r.enterSnap a body).2.2) then pfSuspect else 0)
    (BitVec.ofNat 32 (leAt body (if bitOf a 8 then 8 else 0) 4))
    (BitVec.ofNat 32 (leAt body ((if bitOf a 8 then 8 else 0) + 4) 4))

end

section
variable {r : State} {a : Nat} {body : List Byte} (hk : productEnterOk a body = true)
include hk

theorem productEnter_closed (h : r.laneEn (a % 16) = false ∨ r.angValid (r.laneShaft (a % 16)) = false) :
    r.productEnter a body = (r, .state, 0) :=
  (if_neg (not_not_intro hk)).trans (if_pos (by simpa using h))

variable (he : r.laneEn (a % 16) = true) (hv : r.angValid (r.laneShaft (a % 16)) = true)
include he hv

theorem productEnter_open : r.productEnter a body =
    if r.lanePassed (a % 16) ((r.enterSnap a body).1 + (r.laneExit (a % 16) : Nat)) then (r, .late, 0)
    else
      match r.enterRecord a body with
      | none => (r.count EPH_CNT EPH_CNT_STORE_FULL 1, .nospace, 0)
      | some q => ((q.1.count (EPH_L_CNT_IO (a % 16)) EPH_L_CNT_IO_ENTERED 1).skipStations (a % 16) q.2, .ok, q.2) :=
  (if_neg (not_not_intro hk)).trans (if_neg (by simp [he, hv]))

theorem productEnter_late (hl : r.lanePassed (a % 16) ((r.enterSnap a body).1 + (r.laneExit (a % 16) : Nat)) = true) :
    r.productEnter a body = (r, .late, 0) :=
  (productEnter_open hk he hv).trans (if_pos hl)

variable (hl : r.lanePassed (a % 16) ((r.enterSnap a body).1 + (r.laneExit (a % 16) : Nat)) = false)
include hl

theorem productEnter_full (hn : r.enterRecord a body = none) :
    r.productEnter a body = (r.count EPH_CNT EPH_CNT_STORE_FULL 1, .nospace, 0) := by
  rw [productEnter_open hk he hv, if_neg (Bool.eq_false_iff.1 hl), hn]

theorem productEnter_enters {t : State} {i : Nat} (ht : r.enterRecord a body = some (t, i)) :
    r.productEnter a body = ((t.count (EPH_L_CNT_IO (a % 16)) EPH_L_CNT_IO_ENTERED 1).skipStations (a % 16) i, .ok, i) := by
  rw [productEnter_open hk he hv, if_neg (Bool.eq_false_iff.1 hl), ht]

end

/-! ## Updating and retiring a product (R160, R162) -/

section
variable {r : State} {a : Nat} {body : List Byte}

theorem productUpdate_checks (ha : a / 2 ^ 22 = 0) (hb : body.length = 8)
    (hu : updateCheck (bitsOf a 21 20) (bitsOf a 19 16) (leAt body 4 4) = .ok) {i : Nat} (hi : i = a % 65536) :
    r.productUpdate a body =
      if (r.prod i).st ≠ .onLane ∨ (r.prod i).pid ≠ leAt body 0 4 then (r, .state)
      else (r.setProd i ((r.prod i).updated (bitsOf a 21 20) (bitsOf a 19 16) (leAt body 4 4)), .ok) := by
  subst hi
  rw [State.productUpdate, if_neg (by omega), State.recordUpdate, hu]

theorem productRetire_checks (ha : a < 65536) (hb : body.length = 4) : r.productRetire a body =
    if (r.prod a).st ≠ .onLane ∨ (r.prod a).pid ≠ leAt body 0 4 then (r, .state, 0)
    else ((r.retire a).1, .ok, (r.retire a).2) :=
  if_neg (by omega)

end

/-! ## The records -/

section
variable {c : CmdRec}

theorem alone_enter (ho : c.opcode = 0x20) (ha : c.alone = .ok) : productEnterOk c.arg c.body = true := by
  simpa [CmdRec.alone, ho] using ha

theorem alone_update (ho : c.opcode = 0x21) (ha : c.alone = .ok) :
    c.arg / 2 ^ 22 = 0 ∧ updateCheck (bitsOf c.arg 21 20) (bitsOf c.arg 19 16) (leAt c.body 4 4) = .ok := by
  have checks : (if 2 ^ 22 ≤ c.arg then Status.range
      else updateCheck (bitsOf c.arg 21 20) (bitsOf c.arg 19 16) (leAt c.body 4 4)) = .ok := by simpa [CmdRec.alone, ho] using ha
  split at checks
  case isTrue => cases checks
  case isFalse h => exact ⟨by omega, checks⟩

theorem alone_retire (ho : c.opcode = 0x23) (ha : c.alone = .ok) : c.arg < 65536 := by
  simpa [CmdRec.alone, ho] using ha

theorem lengthOk_update (ho : c.opcode = 0x21) (hl : c.lengthOk = true) : c.body.length = 8 := by
  simpa [CmdRec.lengthOk, ho] using hl

theorem lengthOk_retire (ho : c.opcode = 0x23) (hl : c.lengthOk = true) : c.body.length = 4 := by
  simpa [CmdRec.lengthOk, ho] using hl

theorem effect_productEnter (r : State) (ho : c.opcode = 0x20) : r.effect true false c =
    ((r.productEnter c.arg c.body).1, ends (r.productEnter c.arg c.body).2.1 (r.productEnter c.arg c.body).2.2 []) := by
  simp [State.effect, ho]

theorem effect_productUpdate (r : State) (ho : c.opcode = 0x21) : r.effect true false c =
    ((r.productUpdate c.arg c.body).1, ends (r.productUpdate c.arg c.body).2 0 []) := by
  simp [State.effect, ho]

theorem effect_productRetire (r : State) (ho : c.opcode = 0x23) : r.effect true false c =
    ((r.productRetire c.arg c.body).1, ends (r.productRetire c.arg c.body).2.1 (r.productRetire c.arg c.body).2.2 []) := by
  simp [State.effect, ho]

end

section
variable {s : State} {h : CmdHead} {arg : BitVec 32} {body : List Byte} {c : CmdRec}

/-- A PRODUCT_ENTER that is taken. -/
theorem productEnter_runs (hc : c = h.record 0x20 arg.toNat body) (k : s.takes h c = true) {q : State × Status × Nat}
    (hq : (s.heard h c).productEnter arg.toNat body = q) :
    exec (.productEnter h arg body) s = .next (q.1.ended (s.flightOf h c) q.2.1 q.2.2 []) := by
  subst hc hq
  have r := command_ends s h 0x20 arg body _ _ _ rfl k (runOp_20 _ _ rfl) (effect_productEnter _ rfl)
    (show (0x20 : Nat) ≠ 3 by decide) (show (0x20 : Nat) ≠ 4 by decide) rfl
  exact congrArg Host.Outcome.next r

/-- A PRODUCT_UPDATE that is taken. -/
theorem productUpdate_runs (hc : c = h.record 0x21 arg.toNat body) (k : s.takes h c = true) {q : State × Status}
    (hq : (s.heard h c).productUpdate arg.toNat body = q) :
    exec (.productUpdate h arg body) s = .next (q.1.ended (s.flightOf h c) q.2 0 []) := by
  subst hc hq
  have r := command_ends s h 0x21 arg body _ _ _ rfl k (runOp_21 _ _ rfl) (effect_productUpdate _ rfl)
    (show (0x21 : Nat) ≠ 3 by decide) (show (0x21 : Nat) ≠ 4 by decide) rfl
  exact congrArg Host.Outcome.next r

/-- A PRODUCT_RETIRE that is taken. -/
theorem productRetire_runs (hc : c = h.record 0x23 arg.toNat body) (k : s.takes h c = true) {q : State × Status × Nat}
    (hq : (s.heard h c).productRetire arg.toNat body = q) :
    exec (.productRetire h arg body) s = .next (q.1.ended (s.flightOf h c) q.2.1 q.2.2 []) := by
  subst hc hq
  have r := command_ends s h 0x23 arg body _ _ _ rfl k (runOp_23 _ _ rfl) (effect_productRetire _ rfl)
    (show (0x23 : Nat) ≠ 3 by decide) (show (0x23 : Nat) ≠ 4 by decide) rfl
  exact congrArg Host.Outcome.next r

/-- A PRODUCT_QUERY that is heard. -/
theorem productQuery_replies (hc : c = h.record 0x22 arg.toNat body) (k : s.hears h c = true) (ha : arg.toNat < 65536) :
    exec (.productQuery h arg body) s =
      .next ((s.heard h c).replied (s.flightOf h c) .ok 0 ((s.heard h c).prod arg.toNat).bytes) := by
  subst hc
  have query : ∀ r : State, r.opProductQuery arg.toNat = ends .ok 0 (r.prod arg.toNat).bytes := fun r => if_pos ha
  have r := command_reads s h 0x22 arg body _ _ rfl k ((runOp_22 _ _ rfl).trans (congrArg (State.completes _ _) (query _)))
  exact congrArg Host.Outcome.next r

end

/-- Settles O23: the outcome of entering, of updating and of retiring, each carried by the law of its command, and the query. -/
theorem productCommands : Obligations.ProductCommands := by
  unfold Obligations.ProductCommands
  intro s h arg body c a
  refine ⟨?enter, ?update, fun k ha r hr => hr ▸ productQuery_replies rfl k ha, ?retire⟩
  case enter =>
    intro k r n given hr hn hg did x o far made
    have ok := alone_enter rfl (takes_parts k).2.1
    have runs q := productEnter_runs (s := s) (h := h) (arg := arg) (body := body) (q := q) rfl k
    rw [← hr] at runs
    subst hn hg
    exact ⟨fun hd => runs (r, .state, 0) (productEnter_closed ok hd), fun he hv =>
      ⟨fun hl => runs (r, .late, 0) (productEnter_late ok he hv hl), fun hl =>
        ⟨fun hm => runs (_, .nospace, 0) (productEnter_full ok he hv hl hm),
          fun t i hm => runs (_, .ok, i) (productEnter_enters ok he hv hl hm)⟩⟩⟩
  case update =>
    intro k r i hr hi did
    obtain ⟨heard, ha, -⟩ := takes_parts k
    obtain ⟨hz, hu⟩ := alone_update rfl ha
    have runs q := productUpdate_runs (s := s) (h := h) (arg := arg) (body := body) (q := q) rfl k
    rw [← hr] at runs
    have checks := productUpdate_checks (r := r) hz (lengthOk_update rfl (hears_length _ _ _ heard)) hu hi
    exact ⟨fun hn => runs (r, .state) (checks.trans (if_pos hn)),
      fun hs hp => runs (_, .ok) (checks.trans (if_neg fun hn => hn.elim (· hs) (· hp)))⟩
  case retire =>
    intro k r hr did
    obtain ⟨heard, ha, -⟩ := takes_parts k
    have runs q := productRetire_runs (s := s) (h := h) (arg := arg) (body := body) (q := q) rfl k
    rw [← hr] at runs
    have checks := productRetire_checks (r := r) (alone_retire rfl ha) (lengthOk_retire rfl (hears_length _ _ _ heard))
    exact ⟨fun hn => runs (r, .state, 0) (checks.trans (if_pos hn)),
      fun hs hp => runs (_, .ok, _) (checks.trans (if_neg fun hn => hn.elim (· hs) (· hp)))⟩

end Sys2Proof.Machine
end

