-- ==== Sys2Proof/Proofs/ComposerRegisters.lean ====
section
/-! SUPPORT. The writes that enable and disable the composer, its generators and its rings, and bind its templates (R170, R171, R178,
R179, R183, R187). -/

namespace Sys2Proof.Machine

/-! ## From a command to the composer -/

/-- A CMP register that reads as the word it stores. -/
def cmpStored (b : Nat) : Bool :=
  b != CMP_STAT && b != CMP_EPOCH && b != CMP_RQ_STAT 0 && b != CMP_SG_NEXT_LO 0 && b != CMP_SG_NEXT_HI 0 && b != CMP_SG_HWM_LO 0 &&
    b != CMP_SG_HWM_HI 0

theorem viewCmp_stored (s : State) {b : Nat} (hb : cmpStored b = true) (i a : Nat) : s.viewCmp b i a = s.rg a := by
  simp only [cmpStored, Bool.and_eq_true, bne_iff_ne, ne_eq] at hb
  simp [State.viewCmp, hb]

section
variable {s : State} {a i b : Nat} {rw wb ac m v : Word} {t : State}
  (h : (regAt a).map (fun x => (x.1.facts, x.2)) = some ((b, rw, wb, ac), i, 0))
include h

/-- A field that a write of one flag leaves out. -/
theorem off_fld_ne (f g : Fld) (hg : g.lo + g.width ≤ 32) (hk : g.mask &&& (rw &&& f.mask) = 0) :
    (s.wr a f.mask 0).fld g = (s.wr a f.mask 0).was g := by
  obtain ⟨-, -, -, hn⟩ := wr_base s a i 0 b f.mask 0 rw wb ac h
  rw [Wr.fld, hn, getF_merge_out _ _ _ _ hg hk, Wr.was]

variable (hc : blockOf a = some .cmp)
include hc

theorem was_cmp (hb : cmpStored b = true) (f : Fld) : (s.wr a m v).was f = s.fld a f :=
  congrArg (BitVec.getF · f) ((wr_old_cmp s a i 0 b m v rw wb ac h hc).trans (viewCmp_stored s hb i a))

theorem unitWrite_composer : s.unitWrite i 0 (s.wr a m v) = s.writeCmp i (s.wr a m v) := by
  obtain ⟨-, ha, -, -⟩ := wr_base s a i 0 b m v rw wb ac h
  exact unitWrite_cmp s i 0 _ a ha hc

variable (ha : s.awake = true) (hm : wb &&& m ≠ 0)
include ha hm

theorem regWrite_cmp (he : (s.wr a m v).needsEnergy = false ∨ s.admits t = true) (hu : s.writeCmp i (s.wr a m v) = (t, .ok)) :
    s.regWrite a m v = t.done .ok 0 [] :=
  regWrite_ok s a i 0 b m v rw wb ac t ha h hm he ((unitWrite_composer h hc).trans hu)

theorem regWrite_cmp_refused {c : Status} (hn : c ≠ .ok) (hu : s.writeCmp i (s.wr a m v) = (s, c)) :
    s.regWrite a m v = s.done c 0 [] :=
  regWrite_no s a i 0 b m v rw wb ac s c ha h hm hn ((unitWrite_composer h hc).trans hu)

theorem regWrite_cmp_budget (he : (s.wr a m v).needsEnergy = true) (hu : s.writeCmp i (s.wr a m v) = (t, .ok))
    (hd : s.admits t = false) : s.regWrite a m v = s.budgetRefused.done .budget 0 [] :=
  regWrite_budget s a i 0 b m v rw wb ac t ha h hm he ((unitWrite_composer h hc).trans hu) hd

end

/-! ## The rules of its registers -/

section
variable {s : State} {n : Nat} {w : Wr}

theorem writeCmp_cfg (hb : w.base = CMP_CFG) : s.writeCmp n w = s.writeCmpCfg w := if_pos hb

theorem writeCmp_template (hb : w.base = CMP_TPL 0) (hv : w.fld CMP_TPL_VALID = 1) : s.writeCmp n w =
    if s.templateOk (w.fld CMP_TPL_BLOCK) = false then (s, .range) else ((s.plainWrite w).bump, .ok) := by
  simp [State.writeCmp, hb, hv, CMP_CFG, CMP_TPL]

theorem writeCmp_ring (hb : w.base = CMP_RQ_SIZE 0) : s.writeCmp n w = s.writeRing n w := by
  rw [State.writeCmp, hb]
  rfl

theorem writeCmp_generator (hb : w.base = CMP_SG_CFG 0) : s.writeCmp n w =
    if w.was CMP_SG_CFG_EN = 0 ∧ w.fld CMP_SG_CFG_EN = 1 then s.genEnable n w
    else if w.was CMP_SG_CFG_EN = 1 ∧ w.fld CMP_SG_CFG_EN = 0 then s.genDisable n w
    else (s.plainWrite w, .ok) := by
  rw [State.writeCmp, hb]
  rfl

/-! ### Generators (R178, R179) -/

/-- A generator whose high-water mark is bad and too near its START stays off (R471). -/
theorem genEnable_tooNear (hb : bitOf (s.fld JNL_HWM_BAD JNL_HWM_BAD_BAD) n = true) (hh : s.genStart n < (s.gen n).hwm + 512) :
    s.genEnable n w = (s, .state) := if_pos ⟨hb, hh⟩

variable (hb : bitOf (s.fld JNL_HWM_BAD JNL_HWM_BAD_BAD) n = false)
include hb

theorem genEnable_good : s.genEnable n w =
    if s.genStart n = 0 ∨ s.genStart n ≤ (s.gen n).hwm ∨ s.genEnd n < s.genStart n then (s, .range)
    else (((s.plainWrite w).faultEnd fltGenExhausted n).reserveNext n, .ok) := by
  simp [State.genEnable, hb]

end

/-! ### Rings (R183) -/

/-- The size of a ring that its claim holds. -/
def State.ringFits (s : State) (n size : Nat) : Prop :=
  8 ≤ size ∧ size ≤ 4096 ∧ s.rangeHeldBy (s.fld CMP_CFG CMP_CFG_CLAIM) (s.ringBase n) size = true

section
variable {s : State} {n : Nat} {w : Wr}

theorem ringFits_iff {size : Nat} : s.ringFits n size ↔
    ¬(size < 8 ∨ 4096 < size ∨ ¬s.rangeHeldBy (s.fld CMP_CFG CMP_CFG_CLAIM) (s.ringBase n) size = true) := by
  rw [State.ringFits, not_or, not_or, Nat.not_lt, Nat.not_lt, Decidable.not_not]

variable (hf : w.fld CMP_RQ_SIZE_EN = 1)
include hf

theorem writeRing_range (hn : ¬s.ringFits n (w.fld CMP_RQ_SIZE_SIZE)) : s.writeRing n w = (s, .range) :=
  (if_pos hf).trans (if_pos (Decidable.not_not.1 fun h => hn (ringFits_iff.2 h)))

theorem writeRing_starts (hs : s.ringFits n (w.fld CMP_RQ_SIZE_SIZE)) (hw : w.was CMP_RQ_SIZE_EN = 0) :
    s.writeRing n w = ((s.plainWrite w).setRas n { s.ras n with ring := [], ringHead := 0 }, .ok) :=
  (if_pos hf).trans ((if_neg (ringFits_iff.1 hs)).trans (if_pos hw))

end

/-! ### The composer (R187) -/

theorem writeCmpCfg_disables {s : State} {w : Wr} (hd : w.fld CMP_CFG_DAY_START ≤ 1439) (hk : w.changes CMP_CFG_CLAIM.mask = false)
    (hw : w.was CMP_CFG_EN = 1) (hf : w.fld CMP_CFG_EN = 0) : s.writeCmpCfg w = ((s.plainWrite w).failQueued, .ok) :=
  (if_neg (Nat.not_lt.2 hd)).trans ((if_neg fun h => Bool.eq_false_iff.1 hk h.2).trans (if_pos ⟨hw, hf⟩))

/-! ## The commands -/

theorem composer_block : blockOf CMP_CFG = some .cmp := by decide

theorem generator_block (n : Fin 8) : blockOf (CMP_SG_CFG n) = some .cmp := by
  revert n; decide

theorem template_block (m : Fin 64) : blockOf (CMP_TPL m) = some .cmp := by
  revert m; decide

theorem ring_block (n : Fin 8) : blockOf (CMP_RQ_SIZE n) = some .cmp := by
  revert n; decide

section
variable {s : State} {n : Fin 8} {m : Fin 64} {v : Word}

/-- The write that enables a generator is the generator's. -/
theorem writeCmp_generatorOn (he : s.genEn n = false) {w : Wr} (hw : w = s.wr (CMP_SG_CFG n) 0xFFFFFFFF (v.setF CMP_SG_CFG_EN 1)) :
    s.writeCmp n w = s.genEnable n w := by
  subst hw
  have h := at_CMP_SG_CFG n
  exact (writeCmp_generator (wr_base s _ _ _ _ _ _ _ _ _ h).1).trans (if_pos
    ⟨(was_cmp h (generator_block n) (by decide) _).trans (State.fld_of_not_flag s _ _ he),
      on_fld s CMP_SG_CFG_EN h v (by decide) rfl (by decide)⟩)

theorem writeCmp_generatorOff (he : s.genEn n = true) {w : Wr} (hw : w = s.wr (CMP_SG_CFG n) CMP_SG_CFG_EN.mask 0) :
    s.writeCmp n w = ((s.genDrop 1 n).plainWrite w, .ok) := by
  subst hw
  have h := at_CMP_SG_CFG n
  have was := (was_cmp h (generator_block n) (m := CMP_SG_CFG_EN.mask) (v := 0) (by decide) _).trans
    (State.fld_of_flag s _ _ rfl he)
  rw [writeCmp_generator (wr_base s _ _ _ _ _ _ _ _ _ h).1, if_neg (fun k => by rw [was] at k; cases k.1),
    if_pos ⟨was, off_fld s CMP_SG_CFG_EN h (by decide) (by decide)⟩, State.genDisable]

/-- The write that binds a template is judged by the template at its block (R170). -/
theorem writeCmp_binds {w : Wr} (hw : w = s.wr (CMP_TPL m) 0xFFFFFFFF (v.setF CMP_TPL_VALID 1)) : s.writeCmp m w =
    if s.templateOk (v.getF CMP_TPL_BLOCK) = false then (s, .range) else ((s.plainWrite w).bump, .ok) := by
  subst hw
  have h := at_CMP_TPL m
  have rule := writeCmp_template (s := s) (n := m) (wr_base s _ _ _ _ _ _ _ _ _ h).1
    (on_fld s CMP_TPL_VALID h v (by decide) rfl (by decide))
  rwa [on_fld_ne s CMP_TPL_VALID h v CMP_TPL_BLOCK (by decide) (by decide) (by decide) (by decide)] at rule

theorem wr_template_judged (k x : Word) : (s.wr (CMP_TPL m) k x).needsEnergy = true := by
  rw [Wr.needsEnergy, (wr_base s _ _ _ _ _ _ _ _ _ (at_CMP_TPL m)).1]
  rfl

/-- The write that disables the composer leaves DAY_START and CLAIM. -/
theorem writeCmp_composerOff (he : s.flag CMP_CFG CMP_CFG_EN = true) (hd : s.fld CMP_CFG CMP_CFG_DAY_START ≤ 1439) {w : Wr}
    (hw : w = s.wr CMP_CFG CMP_CFG_EN.mask 0) : s.writeCmp 0 w = ((s.plainWrite w).failQueued, .ok) := by
  have h := at_CMP_CFG
  have was f : w.was f = s.fld CMP_CFG f := hw ▸ was_cmp h composer_block (by decide) f
  have day : w.fld CMP_CFG_DAY_START = s.fld CMP_CFG CMP_CFG_DAY_START :=
    (hw ▸ off_fld_ne h CMP_CFG_EN CMP_CFG_DAY_START (by decide) (by decide)).trans (was _)
  have claim : w.changes CMP_CFG_CLAIM.mask = false :=
    hw ▸ Wr.changes_part (off_changes s CMP_CFG_EN h (by decide)) (by decide)
  have off : w.fld CMP_CFG_EN = 0 := hw ▸ off_fld s CMP_CFG_EN h (by decide) (by decide)
  have base : w.base = CMP_CFG := hw ▸ (wr_base s _ _ _ _ _ _ _ _ _ h).1
  exact (writeCmp_cfg base).trans
    (writeCmpCfg_disables (day ▸ hd) claim ((was _).trans (State.fld_of_flag s _ _ rfl he)) off)

variable (ha : s.awake = true)
include ha

theorem exec_generatorEnable (he : s.genEn n = false) {w : Wr} (hw : w = s.wr (CMP_SG_CFG n) 0xFFFFFFFF (v.setF CMP_SG_CFG_EN 1))
    {t : State} (hq : s.genEnable n w = (t, .ok)) : exec (.generatorEnable n v) s = .next (t.done .ok 0 []) := by
  have hu := (writeCmp_generatorOn he hw).trans hq
  subst hw
  exact congrArg Host.Outcome.next (regWrite_cmp (at_CMP_SG_CFG n) (generator_block n) ha (by decide)
    (.inl (wr_free s (at_CMP_SG_CFG n) _ _ (by decide))) hu)

theorem exec_generatorEnable_refused (he : s.genEn n = false) {w : Wr}
    (hw : w = s.wr (CMP_SG_CFG n) 0xFFFFFFFF (v.setF CMP_SG_CFG_EN 1)) {c : Status} (hc : c ≠ .ok)
    (hq : s.genEnable n w = (s, c)) : exec (.generatorEnable n v) s = .next (s.done c 0 []) := by
  have hu := (writeCmp_generatorOn he hw).trans hq
  subst hw
  exact congrArg Host.Outcome.next (regWrite_cmp_refused (at_CMP_SG_CFG n) (generator_block n) ha (by decide) hc hu)

theorem exec_generatorDisable (he : s.genEn n = true) : exec (.generatorDisable n) s =
    .next (((s.genDrop 1 n).plainWrite (s.wr (CMP_SG_CFG n) CMP_SG_CFG_EN.mask 0)).done .ok 0 []) :=
  congrArg Host.Outcome.next (regWrite_cmp (at_CMP_SG_CFG n) (generator_block n) ha (by decide)
    (.inl (wr_free s (at_CMP_SG_CFG n) _ _ (by decide))) (writeCmp_generatorOff he rfl))

theorem exec_templateBind_refused (hk : s.templateOk (v.getF CMP_TPL_BLOCK) = false) :
    exec (.templateBind m v) s = .next (s.done .range 0 []) :=
  congrArg Host.Outcome.next (regWrite_cmp_refused (at_CMP_TPL m) (template_block m) ha (by decide) (by decide)
    ((writeCmp_binds rfl).trans (if_pos hk)))

/-- A template that passes its checks is bound where energy admission allows it (R170, R444). -/
theorem exec_templateBind (hk : s.templateOk (v.getF CMP_TPL_BLOCK) = true) {t : State}
    (ht : t = (s.plainWrite (s.wr (CMP_TPL m) 0xFFFFFFFF (v.setF CMP_TPL_VALID 1))).bump) : exec (.templateBind m v) s =
    .next (if s.admits t = true then t.done .ok 0 [] else s.budgetRefused.done .budget 0 []) := by
  subst ht
  have hu := (writeCmp_binds (s := s) (m := m) (v := v) rfl).trans (if_neg (by simp [hk]))
  refine congrArg Host.Outcome.next ?_
  split
  case isTrue hd => exact regWrite_cmp (at_CMP_TPL m) (template_block m) ha (by decide) (.inr hd) hu
  case isFalse hd =>
    exact regWrite_cmp_budget (at_CMP_TPL m) (template_block m) ha (by decide) (wr_template_judged _ _) hu
      (Bool.eq_false_iff.2 hd)

theorem exec_ringEnable_range (hn : ¬s.ringFits n (v.getF CMP_RQ_SIZE_SIZE)) :
    exec (.ringEnable n v) s = .next (s.done .range 0 []) := by
  have h := at_CMP_RQ_SIZE n
  have size := on_fld_ne s CMP_RQ_SIZE_EN h v CMP_RQ_SIZE_SIZE (by decide) (by decide) (by decide) (by decide)
  exact congrArg Host.Outcome.next (regWrite_cmp_refused h (ring_block n) ha (by decide) (by decide)
    ((writeCmp_ring (wr_base s _ _ _ _ _ _ _ _ _ h).1).trans
      (writeRing_range (on_fld s CMP_RQ_SIZE_EN h v (by decide) rfl (by decide)) (size ▸ hn))))

theorem exec_ringEnable (hs : s.ringFits n (v.getF CMP_RQ_SIZE_SIZE)) (he : s.ringEn n = false) : exec (.ringEnable n v) s =
    .next (((s.plainWrite (s.wr (CMP_RQ_SIZE n) 0xFFFFFFFF (v.setF CMP_RQ_SIZE_EN 1))).setRas n
      { s.ras n with ring := [], ringHead := 0 }).done .ok 0 []) := by
  have h := at_CMP_RQ_SIZE n
  have size := on_fld_ne s CMP_RQ_SIZE_EN h v CMP_RQ_SIZE_SIZE (by decide) (by decide) (by decide) (by decide)
  exact congrArg Host.Outcome.next (regWrite_cmp h (ring_block n) ha (by decide) (.inl (wr_free s h _ _ (by decide)))
    ((writeCmp_ring (wr_base s _ _ _ _ _ _ _ _ _ h).1).trans
      (writeRing_starts (on_fld s CMP_RQ_SIZE_EN h v (by decide) rfl (by decide)) (size ▸ hs)
        ((was_cmp h (ring_block n) (by decide) _).trans (State.fld_of_not_flag s _ _ he)))))

theorem exec_composerDisable (he : s.flag CMP_CFG CMP_CFG_EN = true) (hd : s.fld CMP_CFG CMP_CFG_DAY_START ≤ 1439) {t : State}
    (ht : t = (s.plainWrite (s.wr CMP_CFG CMP_CFG_EN.mask 0)).failQueued) (hk : s.admits t = true) :
    exec .composerDisable s = .next (t.done .ok 0 []) :=
  congrArg Host.Outcome.next (regWrite_cmp at_CMP_CFG composer_block ha (by decide) (.inr hk)
    (ht ▸ writeCmp_composerOff he hd rfl))

end

/-- Settles O24: each write by the rule of its register. -/
theorem composerRegisters : Obligations.ComposerRegisters := by
  unfold Obligations.ComposerRegisters
  intro s n m v ha gOn gOff tOn rOn cOff bad blk size fits wrong genOn bind ring
  refine ⟨fun he => ⟨fun hb hh => ?tooNear, fun hb hw => ?range, fun hb hw => ?enables⟩, exec_generatorDisable ha,
    exec_templateBind_refused ha, fun hk => ⟨fun hd => ?binds, fun hd => ?budget⟩, exec_ringEnable_range ha, exec_ringEnable ha,
    fun he hd => exec_composerDisable ha he hd rfl⟩
  case tooNear => exact exec_generatorEnable_refused ha he rfl (by decide) (genEnable_tooNear hb hh)
  case range => exact exec_generatorEnable_refused ha he rfl (by decide) ((genEnable_good hb).trans (if_pos hw))
  case enables => exact exec_generatorEnable ha he rfl ((genEnable_good hb).trans (if_neg hw))
  case binds => exact (exec_templateBind ha hk rfl).trans (congrArg Host.Outcome.next (if_pos hd))
  case budget => exact (exec_templateBind ha hk rfl).trans (congrArg Host.Outcome.next (if_neg (Bool.eq_false_iff.1 hd)))

end Sys2Proof.Machine
end

