-- ==== Sys2Proof/Proofs/ComposerJobs.lean ====
section
/-! SUPPORT. Jobs of the composer from their trigger to their end (R164 to R167, R177, R179, R185, R186). -/

namespace Sys2Proof.Machine

/-! ## Posting a job (R164, R176) -/

theorem stage_raster (s : State) (code inst cls detail : Nat) (kind : FaultKind) :
    (s.stage code inst cls detail kind).raster = s.raster := by
  unfold State.stage
  split
  · rfl
  · split <;> rfl

theorem faultRaise_raster (s : State) (code inst cls detail : Nat) : (s.faultRaise code inst cls detail).raster = s.raster := by
  unfold State.faultRaise
  split <;> exact stage_raster s code inst cls detail .raised

theorem markProduct_raster (s : State) (who : Option (Nat × Nat)) (mask : Nat) : (s.markProduct who mask).raster = s.raster := by
  cases who with
  | none => rfl
  | some w => exact (apply_ite State.raster _ _ _).trans (ite_self _)

/-- The notices of a job without a date leave the raster lanes. -/
theorem noDate_raster (s : State) (sub : Bool) (who : Option (Nat × Nat)) : (s.noDate sub who).raster = s.raster := by
  have logged : ∀ u : State, (if u.noDateOn then u else
      ({ u with noDateOn := true } : State).faultRaise fltNoDate 0 1 0).raster = u.raster := by
    intro u
    split
    · rfl
    · exact faultRaise_raster _ _ _ _ _
  unfold State.noDate
  dsimp only
  split
  · exact (markProduct_raster _ _ _).trans (logged _)
  · exact logged _

section
variable {s : State} {t m rl : Nat} {who : Option (Nat × Nat)} {flight : Option Nat} {cmd : Bool}

theorem postJob_refused {st : Status} (h : s.jobState m rl = some st) : s.postJob t m rl who flight cmd = (s, st, 0) := by
  rw [State.postJob, h]

/-- A job that is accepted takes the next entry of its lane's queue (R166). -/
theorem postJob_posts (h : s.jobState m rl = none) : (s.postJob t m rl who flight cmd).2 = (.ok, (s.ras rl).nextEntry) := by
  have kept : ∀ (b sub : Bool), (if b then s.noDate sub who else s).ras rl = s.ras rl := by
    intro b sub
    split
    · rw [State.ras, noDate_raster, ← State.ras]
    · rfl
  rw [State.postJob, h]
  exact congrArg (fun x : RasLane => (Status.ok, x.nextEntry)) (kept _ _)

end

/-! ## CODE_JOB (R185) -/

/-- The product that a CODE_JOB is for. -/
def jobProduct (a : Nat) (body : List Byte) : Option (Nat × Nat) :=
  if bitOf a 7 then none else some (a / 65536 % 65536, leAt body 0 4)

/-- That product is gone: its record is not ON_LANE under its PID. -/
def State.jobGone (r : State) : Option (Nat × Nat) → Bool
  | some (i, pid) => decide ((r.prod i).st ≠ .onLane) || decide ((r.prod i).pid ≠ pid)
  | none => false

section
variable {r : State} {a id : Nat} {body : List Byte} (hk : codeJobOk a body = true)
include hk

theorem codeJob_judged {q : State × Status × Nat} (hq : q = r.postJob r.time (bitsOf a 13 8) (a % 8) (jobProduct a body)
      (if bitOf a 6 then some id else none) true) : r.codeJob a body (some id) =
    if r.jobGone (jobProduct a body) = true then (r, some .state, 0)
    else if q.2.1 = .ok ∧ bitOf a 6 = true then (q.1, none, q.2.2) else (q.1, some q.2.1, q.2.2) := by
  have held : (bitOf a 6 && (some id).isSome) = bitOf a 6 := Bool.and_true _
  subst hq
  rw [← held]
  exact if_neg (not_not_intro hk)

theorem codeJob_gone {i pid : Nat} (hw : jobProduct a body = some (i, pid))
    (hg : (r.prod i).st ≠ .onLane ∨ (r.prod i).pid ≠ pid) :
    r.codeJob a body (some id) = (r, some .state, 0) := by
  have gone : r.jobGone (jobProduct a body) = true := by rw [hw]; simpa [State.jobGone] using hg
  exact (codeJob_judged hk rfl).trans (if_pos gone)

variable (hp : ∀ i pid, jobProduct a body = some (i, pid) → (r.prod i).st = .onLane ∧ (r.prod i).pid = pid)
include hp

theorem codeJob_posts {q : State × Status × Nat} (hq : q = r.postJob r.time (bitsOf a 13 8) (a % 8) (jobProduct a body)
      (if bitOf a 6 then some id else none) true) :
    r.codeJob a body (some id) = if q.2.1 = .ok ∧ bitOf a 6 = true then (q.1, none, q.2.2) else (q.1, some q.2.1, q.2.2) := by
  have here : r.jobGone (jobProduct a body) = false := by
    cases hw : jobProduct a body with
    | none => rfl
    | some w => simp [State.jobGone, hp w.1 w.2 hw]
  exact (codeJob_judged hk hq).trans (if_neg (Bool.eq_false_iff.1 here))

theorem codeJob_refused {st : Status} (hs : r.jobState (bitsOf a 13 8) (a % 8) = some st) (hn : st ≠ .ok) :
    r.codeJob a body (some id) = (r, some st, 0) :=
  (codeJob_posts hk hp (postJob_refused hs).symm).trans (if_neg fun h => hn h.1)

variable (hs : r.jobState (bitsOf a 13 8) (a % 8) = none)
include hs

theorem codeJob_answers (h6 : bitOf a 6 = false) : r.codeJob a body (some id) =
    ((r.postJob r.time (bitsOf a 13 8) (a % 8) (jobProduct a body) none true).1, some .ok, (r.ras (a % 8)).nextEntry) := by
  rw [codeJob_posts hk hp rfl, h6, if_neg (fun h => Bool.false_ne_true h.2)]
  simp only [Bool.false_eq_true, if_false, postJob_posts hs]

theorem codeJob_waits (h6 : bitOf a 6 = true) : r.codeJob a body (some id) =
    ((r.postJob r.time (bitsOf a 13 8) (a % 8) (jobProduct a body) (some id) true).1, none, (r.ras (a % 8)).nextEntry) := by
  rw [codeJob_posts hk hp rfl, h6]
  simp only [if_true, postJob_posts hs, and_self]

end

section
variable {r u : State} {fl : Flight} {result : Nat}

theorem runCodeJob_ends {st : Status} (hq : r.codeJob fl.cmd.arg fl.cmd.body (some fl.id) = (u, some st, result)) :
    r.runCodeJob fl = (u.mirrorCmd fl.session fl.cmd st).complete fl none st result [] := by
  rw [State.runCodeJob, hq]

theorem runCodeJob_waits (hq : r.codeJob fl.cmd.arg fl.cmd.body (some fl.id) = (u, none, result)) :
    r.runCodeJob fl = (u.mirrorCmd fl.session fl.cmd .ok).holdFlight fl.id (.job result) := by
  rw [State.runCodeJob, hq]

end

section
variable {s u : State} {h : CmdHead} {arg : BitVec 32} {body : List Byte} {c : CmdRec} {result : Nat}
  (hc : c = h.record 0x38 arg.toNat body) (k : s.hears h c = true)
include hc k

theorem exec_codeJob : exec (.codeJob h arg body) s = .next ((s.heard h c).runCodeJob (s.flightOf h c)).settle := by
  subst hc
  exact congrArg Host.Outcome.next ((command_runs s h 0x38 arg body k).trans (congrArg State.settle (runOp_38 _ _ rfl)))

theorem exec_codeJob_ends {st : Status}
    (hq : (s.heard h c).codeJob arg.toNat body (some (s.flightOf h c).id) = (u, some st, result)) :
    exec (.codeJob h arg body) s = .next (u.ended (s.flightOf h c) st result []) := by
  rw [exec_codeJob hc k]
  subst hc
  rw [runCodeJob_ends (fl := s.flightOf h _) hq, State.ended, State.replied]

theorem exec_codeJob_waits (hq : (s.heard h c).codeJob arg.toNat body (some (s.flightOf h c).id) = (u, none, result)) :
    exec (.codeJob h arg body) s = .next ((u.mirrorCmd (s.flightOf h c).session (s.flightOf h c).cmd .ok).holdFlight
      (s.flightOf h c).id (.job result)).settle := by
  rw [exec_codeJob hc k]
  subst hc
  exact congrArg (fun t : State => Host.Outcome.next t.settle) (runCodeJob_waits hq)

end

/-! ## Jobs under way -/

section
variable {s : State} {j : Job} {k : Nat}

theorem jobStart_starts (hl : s.activeJobs.length < jobSlots) (hj : s.nextToStart = some j) {p : Option (Nat × Nat)}
    (hp : p = j.product.map fun w => (w.1, (s.prod w.1).pid)) {t : State} {need : List Nat} {got : List (Nat × Nat)}
    (ht : s.takeSerials j (if j.skip then [] else gensOf (s.tplFields j.block)) = (t, need, got)) {u : State}
    (hu : u = { t with jobs := (t.jobs.filter fun x => !decide (x.id = j.id)) ++
      [{ j with product := p, phase := .active (j.product.map fun w => s.prod w.1) need got }] }) :
    s.jobStart = u.setRas j.rlane { u.ras j.rlane with
      queue := (u.ras j.rlane).queue.map fun e => if e.job = j.id then { e with product := p } else e } := by
  subst hp hu
  rw [State.jobStart, if_pos hl, hj]
  simp only [ht]

/-! ### Its end (R167, R179) -/

theorem jobComplete_at (h : s.activeJobs[k]? = some j) : s.jobComplete k = (s.jobEnd j).settleJobs := by
  rw [State.jobComplete, h]

variable {p : Option Product} {need : List Nat} {got : List (Nat × Nat)}

theorem jobEnd_lost (hp : j.phase = .active p need got) (hl : s.needLost need = true) :
    s.jobEnd j = (s.genFault need).jobFail j (firstSerial (s.tplFields j.block) got) .quota := by
  rw [State.jobEnd, hp]
  exact if_pos hl

theorem needLost_nil : s.needLost [] = false := Bool.and_false _

variable {w : Work} (hw : w = { blk := j.block, head := s.template j.block, rec_ := p, serials := got })

include hw

/-- A job that waits for no number fails where it cannot be composed. -/
theorem jobEnd_fails (hp : j.phase = .active p [] got) {e : JobFail} (hc : s.compose j w = .error e) :
    s.jobEnd j = s.jobFail j (firstSerial (s.tplFields j.block) got) e := by
  subst hw
  simp [State.jobEnd, hp, needLost_nil, hc]

/-- Composed, it is written where its ring has room. -/
theorem jobEnd_writes (hp : j.phase = .active p [] got) {dots : List Dot} (hc : s.compose j w = .ok dots)
    (hr : s.ringRoom j.rlane (s.template j.block).imageBlocks = true) : s.jobEnd j =
    (s.jobImage j (s.template j.block) (firstSerial (s.tplFields j.block) got) dots).jobRecord j
      (firstSerial (s.tplFields j.block) got) false := by
  subst hw
  simp [State.jobEnd, hp, needLost_nil, hc, hr]

end

/-! ### Deadlines and bounds (R165, R186) -/

section
variable {s : State} {j : Job} {k : Nat}

theorem jobDeadline_due (hk : s.jobs[k]? = some j) (hp : j.phase = .queued) (hb : j.classB = true) (hn : j.promoted = false)
    (ht : j.deadline ≤ s.time) : s.jobDeadline k = s.setJob { j with promoted := true } := by
  have due : s.jobDeadlineDue k = true := by simp [State.jobDeadlineDue, hk, Job.queued, hp, hb, hn, ht]
  rw [State.jobDeadline, hk]
  exact if_pos due

theorem jobLate_due (hk : s.jobs[k]? = some j) (hn : j.late = false) (ht : s.jobBound j < s.time) :
    s.jobLate k = ((s.setJob { j with late := true }).count CMP_CNT2 CMP_CNT2_LATE 1).raiseFree 229 := by
  have due : s.jobLateDue k = true := by simp [State.jobLateDue, hk, hn, ht]
  rw [State.jobLate, hk]
  exact if_pos due

end

/-! ## Reservations (R177, R179) -/

/-- A generator whose reservation of a block comes to stand: the block is the present one where none is left, and the next one
elsewhere. -/
def SerialGen.reserved (x : SerialGen) (r : Nat × Nat) : SerialGen :=
  if (x.cur.all fun c => decide (c.2 < c.1)) = true
  then { hwm := Nat.max x.hwm r.2, cur := some r, ahead := x.ahead, reserving := none }
  else { hwm := Nat.max x.hwm r.2, cur := x.cur, ahead := some r, reserving := none }

theorem SerialGen.reserved_eq (x : SerialGen) (r : Nat × Nat) : x.reserved r =
    { hwm := Nat.max x.hwm r.2
      cur := if (x.cur.all fun c => decide (c.2 < c.1)) = true then some r else x.cur
      ahead := if (x.cur.all fun c => decide (c.2 < c.1)) = true then x.ahead else some r
      reserving := none } := by
  by_cases h : (x.cur.all fun c => decide (c.2 < c.1)) = true <;> simp only [SerialGen.reserved, h] <;> rfl

theorem reservation_stands {s t : State} {g : Nat} {r : Nat × Nat} {x y : SerialGen} (hx : x = s.gen g) (hr : x.reserving = some r)
    (hy : y = x.reserved r)
    (ht : t = { s.setGen g y with reservationAcks := s.reservationAcks.filter fun k => !decide (k = g) }) :
    s.reservation g = (if s.genEnd g - y.hwm < s.fld (CMP_SG_CFG g) CMP_SG_CFG_LOW then t.raise 226 g else t).serveWaiting := by
  rw [SerialGen.reserved_eq] at hy
  subst hx hy ht
  rw [State.reservation, hr]

/-- Settles O25: CODE_JOB by what turns it away or how it is answered, and each happening by its law. -/
theorem composerJobs : Obligations.ComposerJobs := by
  unfold Obligations.ComposerJobs
  refine ⟨?code, fun s g ha => ⟨?starts, ?completes, fun k j hk => ⟨?deadline, ?late⟩, ?reservation⟩⟩
  case code =>
    intro s h arg body c a hh hok r who m rl hr hm hl hw fl did
    have named : who = jobProduct a body := by
      rw [jobProduct]
      split
      case isTrue h7 => exact (if_pos h7).mp hw
      case isFalse h7 => exact (if_neg h7).mp hw
    subst hr hm hl named
    exact ⟨fun i pid hi hg => exec_codeJob_ends rfl hh (codeJob_gone hok hi hg), fun hp =>
      ⟨fun st hs hn => exec_codeJob_ends rfl hh (codeJob_refused hok hp hs hn), fun hs =>
        ⟨fun h6 => exec_codeJob_ends rfl hh (codeJob_answers hok hp hs h6),
          fun h6 => exec_codeJob_waits rfl hh (codeJob_waits hok hp hs h6)⟩⟩⟩
  case starts =>
    rintro j p k t need got hl hj hp ht rfl u hu
    exact next_inRun ha (jobStart_starts hl hj hp ht hu)
  case completes =>
    intro k j p need got hj hp w serial
    have ends {u : State} (hu : s.jobEnd j = u) : exec (.jobComplete k) s = .next u.settleJobs.settle :=
      next_inRun ha (congrArg State.settle ((jobComplete_at hj).trans (congrArg State.settleJobs hu)))
    refine ⟨fun hl => ends (jobEnd_lost hp hl), ?_⟩
    rintro rfl
    exact ⟨fun e he => ends (jobEnd_fails rfl hp he), fun dots hd hr => ends (jobEnd_writes rfl hp hd hr)⟩
  case deadline => exact fun hp hb hn ht => next_inRun ha (jobDeadline_due hk hp hb hn ht)
  case late => exact fun hn ht => next_inRun ha (jobLate_due hk hn ht)
  case reservation =>
    intro r x y hx hr hy t ht
    have stands := reservation_stands hx hr hy ht
    exact ⟨fun hl => next_inRun ha (stands.trans (congrArg State.serveWaiting (if_pos hl))),
      fun hl => next_inRun ha (stands.trans (congrArg State.serveWaiting (if_neg (Nat.not_lt.2 hl))))⟩

end Sys2Proof.Machine
end

