-- ==== Sys2Proof/Proofs/RasterControl.lean ====
section
/-! SUPPORT. The writes that enable and disable a raster lane (R201, R202). -/

namespace Sys2Proof.Machine

/-! ## What a write hands to its unit -/

theorem getF_and (v k : Word) (f : Fld) (hf : f.lo + f.width ≤ 32) (hk : f.mask &&& k = f.mask) :
    (v &&& k).getF f = v.getF f := by
  simpa using getF_merge_in 0 v k f hf hk

section
variable {s : State} {a i j base : Nat} {rw wb ac m v : Word}
  (h : (regAt a).map (fun x => (x.1.facts, x.2)) = some ((base, rw, wb, ac), i, j))
include h

/-- A field that is written takes the written value. -/
theorem wr_fld_written (f : Fld) (hf : f.lo + f.width ≤ 32) (hk : f.mask &&& (rw &&& m) = f.mask) :
    (s.wr a m v).fld f = v.getF f := by
  obtain ⟨-, -, -, hn⟩ := wr_base s a i j base m v rw wb ac h
  rw [Wr.fld, hn, getF_merge_in _ _ _ _ hf hk]

/-- An acting field acts where the written value is not 0. -/
theorem wr_acts (f : Fld) (hf : f.lo + f.width ≤ 32) (hk : f.mask &&& (m &&& ac) = f.mask) :
    (s.wr a m v).acts f = decide (v.getF f ≠ 0) := by
  obtain ⟨-, -, hact, -⟩ := wr_base s a i j base m v rw wb ac h
  rw [Wr.acts, hact, BitVec.and_assoc, getF_and _ _ _ hf hk]

theorem wr_changes_outside : (s.wr a m v).changes (~~~ (rw &&& m)) = false := by
  obtain ⟨-, -, -, hn⟩ := wr_base s a i j base m v rw wb ac h
  rw [Wr.changes, hn, merge_outside]
  rfl

end

/-! ## The rules of the control register -/

section
variable {s : State} {n : Nat} {w : Wr}

theorem writeRas_ctl (hb : w.base = RAS_CTL 0) : s.writeRas n w = s.writeRasCtl n w := if_pos hb

theorem writeRasCtl_enables (hw : w.was RAS_CTL_EN = 0) (hf : w.fld RAS_CTL_EN = 1) :
    s.writeRasCtl n w = s.writeRasEnable n w :=
  (if_neg (by rw [hw]; decide)).trans (if_pos hf)

theorem writeRasCtl_disables (hw : w.was RAS_CTL_EN = 1) (hc : w.changes (~~~ RAS_CTL_EN.mask) = false)
    (hf : w.fld RAS_CTL_EN = 0) :
    s.writeRasCtl n w = ((s.plainWrite w).rasDisable n (w.acts RAS_CTL_FORCE), .ok) :=
  (if_pos hw).trans ((if_neg (Bool.eq_false_iff.1 hc)).trans (if_pos hf))

/-- FORCE beside EN, or a profile or pitch out of range, is refused first (R201, R202). -/
theorem writeRasEnable_range (h : w.acts RAS_CTL_FORCE = true ∨ s.rasCfgOk n = false) : s.writeRasEnable n w = (s, .range) :=
  if_pos (h.imp_right Bool.eq_false_iff.1)

section
variable (hf : w.acts RAS_CTL_FORCE = false) (hk : s.rasCfgOk n = true)
include hf hk

theorem writeRasEnable_checked : s.writeRasEnable n w =
    if s.shaftEn (w.fld RAS_CTL_SHAFT) = false then (s, .state)
    else ((s.plainWrite w).setRas n { (s.plainWrite w).ras n with rdySince := s.time, live := s.driveOn }, .ok) := by
  simp [State.writeRasEnable, hf, hk]

theorem writeRasEnable_noShaft (hs : s.shaftEn (w.fld RAS_CTL_SHAFT) = false) : s.writeRasEnable n w = (s, .state) :=
  (writeRasEnable_checked hf hk).trans (if_pos hs)

theorem writeRasEnable_starts (hs : s.shaftEn (w.fld RAS_CTL_SHAFT) = true) : s.writeRasEnable n w =
    ((s.plainWrite w).setRas n { (s.plainWrite w).ras n with rdySince := s.time, live := s.driveOn }, .ok) :=
  (writeRasEnable_checked hf hk).trans (if_neg (by simp [hs]))

end

end

/-! ## From a command to the control register -/

section
variable {s : State} {n : Fin 8} {m v : Word}

theorem raster_block : blockOf (RAS_CTL n) = some .ras := by
  revert n; decide

theorem unitWrite_rasCtl : s.unitWrite n 0 (s.wr (RAS_CTL n) m v) = s.writeRasCtl n (s.wr (RAS_CTL n) m v) := by
  obtain ⟨hb, ha, -, -⟩ := wr_base s _ _ _ _ m v _ _ _ (at_RAS_CTL n)
  exact (unitWrite_ras s _ _ _ _ ha raster_block).trans (writeRas_ctl hb)

theorem was_rasCtl (f : Fld) : (s.wr (RAS_CTL n) m v).was f = s.fld (RAS_CTL n) f :=
  congrArg (BitVec.getF · f) (wr_old_ras s _ _ _ _ m v _ _ _ (at_RAS_CTL n) raster_block)

/-- Energy admission judges the register (R444). -/
theorem wr_rasCtl_judged : (s.wr (RAS_CTL n) m v).needsEnergy = true := by
  rw [Wr.needsEnergy, (wr_base s _ _ _ _ _ _ _ _ _ (at_RAS_CTL n)).1]
  rfl

/-! ### Enabling -/

section
variable {w : Wr} (hw : w = s.wr (RAS_CTL n) 0xFFFFFFFF (v.setF RAS_CTL_EN 1))
include hw

theorem rasterOn_acts : w.acts RAS_CTL_FORCE = decide (v.getF RAS_CTL_FORCE ≠ 0) := by
  rw [hw, wr_acts (at_RAS_CTL n) _ (by decide) (by decide), getF_setF_ne _ _ _ _ (by decide) (by decide)]

theorem rasterOn_shaft : w.fld RAS_CTL_SHAFT = v.getF RAS_CTL_SHAFT :=
  hw ▸ on_fld_ne s RAS_CTL_EN (at_RAS_CTL n) v RAS_CTL_SHAFT (by decide) (by decide) (by decide) (by decide)

theorem unitWrite_rasterOn (he : s.rasEn n = false) : s.unitWrite n 0 w = s.writeRasEnable n w := by
  subst hw
  exact unitWrite_rasCtl.trans (writeRasCtl_enables ((was_rasCtl _).trans (State.fld_of_not_flag s _ _ he))
    (on_fld s RAS_CTL_EN (at_RAS_CTL n) v (by decide) rfl (by decide)))

end

/-! ### Disabling -/

section
variable {force : Bool} {w : Wr}
  (hw : w = s.wr (RAS_CTL n) (RAS_CTL_EN.mask ||| RAS_CTL_FORCE.mask) ((0 : Word).setF RAS_CTL_FORCE (b2n force)))
include hw

theorem rasterOff_acts : w.acts RAS_CTL_FORCE = force := by
  rw [hw, wr_acts (at_RAS_CTL n) _ (by decide) (by decide), getF_setF _ _ _ (by decide)]
  cases force <;> rfl

theorem rasterOff_en : w.fld RAS_CTL_EN = 0 := by
  rw [hw, wr_fld_written (at_RAS_CTL n) _ (by decide) (by decide), getF_setF_ne _ _ _ _ (by decide) (by decide)]
  rfl

/-- The write that disables a lane changes EN alone, and forces the disable where it is asked to (R201). -/
theorem unitWrite_rasterOff (he : s.rasEn n = true) :
    s.unitWrite n 0 w = ((s.plainWrite w).rasDisable n force, .ok) := by
  have rule := writeRasCtl_disables (s := s) (n := n) (w := w) (hw ▸ (was_rasCtl _).trans (State.fld_of_flag s _ _ rfl he))
    (hw ▸ wr_changes_outside (at_RAS_CTL n)) (rasterOff_en hw)
  rw [rasterOff_acts hw] at rule
  subst hw
  exact unitWrite_rasCtl.trans rule

end

variable (ha : s.awake = true)
include ha

theorem exec_rasterEnable_refused (he : s.rasEn n = false) {w : Wr}
    (hw : w = s.wr (RAS_CTL n) 0xFFFFFFFF (v.setF RAS_CTL_EN 1)) {c : Status} (hc : c ≠ .ok)
    (hq : s.writeRasEnable n w = (s, c)) : exec (.rasterEnable n v) s = .next (s.done c 0 []) := by
  have hu := (unitWrite_rasterOn hw he).trans hq
  subst hw
  exact congrArg Host.Outcome.next (regWrite_no s _ _ _ _ _ _ _ _ _ s c ha (at_RAS_CTL n) (by decide) hc hu)

/-- A lane whose checks pass is enabled where energy admission allows it (R202, R444). -/
theorem exec_rasterEnable (he : s.rasEn n = false) {w : Wr} (hw : w = s.wr (RAS_CTL n) 0xFFFFFFFF (v.setF RAS_CTL_EN 1))
    {t : State} (hq : s.writeRasEnable n w = (t, .ok)) : exec (.rasterEnable n v) s =
    .next (if s.admits t = true then t.done .ok 0 [] else s.budgetRefused.done .budget 0 []) := by
  have hu := (unitWrite_rasterOn hw he).trans hq
  subst hw
  refine congrArg Host.Outcome.next ?_
  split
  case isTrue hd => exact regWrite_ok s _ _ _ _ _ _ _ _ _ t ha (at_RAS_CTL n) (by decide) (.inr hd) hu
  case isFalse hd =>
    exact regWrite_budget s _ _ _ _ _ _ _ _ _ t ha (at_RAS_CTL n) (by decide) wr_rasCtl_judged hu (Bool.eq_false_iff.2 hd)

theorem exec_rasterDisable (he : s.rasEn n = true) {force : Bool} {t : State}
    (ht : t = (s.plainWrite (s.wr (RAS_CTL n) (RAS_CTL_EN.mask ||| RAS_CTL_FORCE.mask)
      ((0 : Word).setF RAS_CTL_FORCE (b2n force)))).rasDisable n force) (hd : s.admits t = true) :
    exec (.rasterDisable n force) s = .next (t.done .ok 0 []) :=
  congrArg Host.Outcome.next (regWrite_ok s _ _ _ _ _ _ _ _ _ t ha (at_RAS_CTL n) (by decide) (.inr hd)
    (ht ▸ unitWrite_rasterOff rfl he))

end

/-- Settles O26: the write that enables by what its checks find, the one that disables by the rule of its register. -/
theorem rasterControl : Obligations.RasterControl := by
  unfold Obligations.RasterControl
  intro s n v force ha on off did t w gone
  refine ⟨fun he => ⟨fun hr => ?range, fun hf hk => ?checked⟩, fun he hd => exec_rasterDisable ha he rfl hd⟩
  case range =>
    have refused : on.acts RAS_CTL_FORCE = true ∨ s.rasCfgOk n = false := by rwa [rasterOn_acts rfl, decide_eq_true_iff]
    exact exec_rasterEnable_refused ha he rfl (by decide) (writeRasEnable_range refused)
  case checked =>
    have free : on.acts RAS_CTL_FORCE = false := (rasterOn_acts rfl).trans (decide_eq_false (not_not_intro hf))
    have shaft : on.fld RAS_CTL_SHAFT = v.getF RAS_CTL_SHAFT := rasterOn_shaft rfl
    refine ⟨fun hs => ?noShaft, fun hs => ?starts⟩
    case noShaft => exact exec_rasterEnable_refused ha he rfl (by decide) (writeRasEnable_noShaft free hk (shaft ▸ hs))
    case starts =>
      have outcome := exec_rasterEnable ha he rfl (writeRasEnable_starts free hk (shaft ▸ hs))
      exact ⟨fun hd => outcome.trans (congrArg Host.Outcome.next (if_pos hd)),
        fun hd => outcome.trans (congrArg Host.Outcome.next (if_neg (Bool.eq_false_iff.1 hd)))⟩

end Sys2Proof.Machine
end

