-- ==== Sys2Proof/Proofs/PortControl.lean ====
section
/-! SUPPORT. The writes that enable, disable and preset a feedback port and clear its fault (R211, R229, R231, R232). -/

namespace Sys2Proof.Machine

/-! ## From a command to a port -/

theorem blockOf_fbp {a : Nat} (hl : 0x60000 ≤ a) (hu : a < 0x80000) : blockOf a = some .fbp := by
  unfold blockOf
  repeat rw [if_neg (by omega)]
  exact if_pos hu

/-- Each port has 0x200 bytes of the feedback block (R234). -/
theorem port_block (n : Fin 16) {a : Nat} (hl : 0x60000 ≤ a) (hu : a < 0x60200) : blockOf (a + n * 0x200) = some .fbp :=
  blockOf_fbp (by omega) (by omega)

/-- The registers that hold the enables of a port, of its supply and of its emulation. -/
def portEnables : List Nat := [FBP_CFG 0, FBP_SUP 0, FBP_EMU_CFG 0]

/-- They read as the words they store. -/
theorem viewPort_enables (s : State) {b : Nat} (hb : b ∈ portEnables) (p a : Nat) :
    s.viewPort b p a = s.rg a := by
  simp only [portEnables, List.mem_cons, List.not_mem_nil, or_false] at hb
  obtain rfl | rfl | rfl := hb <;> rfl

theorem enable_unjudged {b : Nat} (hb : b ∈ portEnables) :
    (b != RAS_CTL 0 && b != CMP_CFG && b != CMP_TPL 0 && b != ADC_C_CFG 0) = true := by
  revert b
  decide

section
variable {s : State} {n : Fin 16} {a b : Nat} {rw wb ac m v : Word}
  (h : (regAt a).map (fun x => (x.1.facts, x.2)) = some ((b, rw, wb, ac), n.val, 0)) (hc : blockOf a = some .fbp)
include h hc

theorem was_port (hb : b ∈ portEnables) (f : Fld) : (s.wr a m v).was f = s.fld a f :=
  congrArg (BitVec.getF · f) ((wr_old_fbp s a n 0 b m v rw wb ac h hc).trans (viewPort_enables s hb n a))

variable (ha : s.awake = true)
include ha

/-- A write of a port's register, which energy admission does not judge, completes as the port says. -/
theorem regWrite_port (hm : wb &&& m ≠ 0) (hf : (s.wr a m v).needsEnergy = false) {t : State} {c : Status}
    (hq : s.writePort n (s.wr a m v) = (t, c)) : s.regWrite a m v = t.done c 0 [] := by
  obtain ⟨-, addr, -, -⟩ := wr_base s a n 0 b m v rw wb ac h
  have unit := (unitWrite_fbp s n 0 _ a addr hc).trans hq
  by_cases ok : c = .ok
  · subst ok
    exact regWrite_ok s a n 0 b m v rw wb ac t ha h hm (.inl hf) unit
  · exact regWrite_no s a n 0 b m v rw wb ac t c ha h hm ok unit

/-! An enable of a port that a command sets or clears. -/

section
variable (hb : b ∈ portEnables) {f : Fld} (h1 : f.width = 1) (hl : f.lo + f.width ≤ 32)
  (hk : rw &&& f.mask = f.mask) {t : State} {c : Status}
include hb h1 hl hk

theorem regEnable_port (hm : wb ≠ 0) (he : s.flag a f = false) {w : Wr} (hw : w = s.wr a 0xFFFFFFFF (v.setF f 1))
    (hq : w.base = b → w.was f = 0 → w.fld f = 1 → s.writePort n w = (t, c)) : s.regEnable a f v = t.done c 0 [] := by
  have whole (k : Word) : k &&& 0xFFFFFFFF = k := BitVec.and_allOnes
  subst hw
  refine regWrite_port h hc ha (by rwa [whole]) (wr_free s h _ _ (enable_unjudged hb)) (hq (wr_base s _ _ _ _ _ _ _ _ _ h).1
    ((was_port h hc hb f).trans (State.fld_of_not_flag s a f he)) (on_fld s f h v hl h1 ?_))
  rw [whole, BitVec.and_comm, hk]

theorem regDisable_port (hm : wb &&& f.mask ≠ 0) (he : s.flag a f = true) {w : Wr} (hw : w = s.wr a f.mask 0)
    (hq : w.base = b → w.was f = 1 → w.changes (~~~f.mask) = false → w.fld f = 0 → s.writePort n w = (t, c)) :
    s.regDisable a f = t.done c 0 [] := by
  subst hw
  refine regWrite_port h hc ha hm (wr_free s h _ _ (enable_unjudged hb)) (hq (wr_base s _ _ _ _ _ _ _ _ _ h).1
    ((was_port h hc hb f).trans (State.fld_of_flag s a f h1 he)) (off_changes s f h hk) (off_fld s f h hl ?_))
  rw [hk, BitVec.and_self]

end

end

/-! ## The rules of its registers -/

section
variable {s : State} {n : Nat} {w : Wr}

theorem writePort_cfg (hb : w.base = FBP_CFG 0) : s.writePort n w = s.writePortCfg n w := if_pos hb

theorem writePort_pos (hb : w.base = FBP_POS 0) : s.writePort n w = s.writePos n (w.fld FBP_POS_POS) := by
  rw [State.writePort, hb]
  rfl

theorem writePort_supply (hb : w.base = FBP_SUP 0) : s.writePort n w = s.writeSupply n w := by
  rw [State.writePort, hb]
  rfl

theorem writePort_emu (hb : w.base = FBP_EMU_CFG 0) : s.writePort n w = s.writeEmu n w := by
  rw [State.writePort, hb]
  rfl

/-- A 1 written to PFAULT alone. -/
theorem writePort_pfault (hb : w.base = FBP_STAT 0) (hp : w.acts FBP_STAT_PFAULT = true) (hd : w.acts FBP_STAT_DOUBTFUL = false) :
    s.writePort n w = (s.pfaultClear n, .ok) := by
  simp [State.writePort, hb, hp, hd, FBP_STAT, FBP_CFG, FBP_WRAP, FBP_IDX, FBP_SER_CFG, FBP_SER_CLK, FBP_SER_PER, FBP_SER_JMAX,
    FBP_POS]

/-- A write that sets EN of a disabled port is checked on the configuration as it leaves it (R231). -/
theorem writePortCfg_enables (hw : w.was FBP_CFG_EN = 0) (hf : w.fld FBP_CFG_EN = 1) : s.writePortCfg n w =
    if (s.plainWrite w).portCfgOk n then ((s.plainWrite w).portEnable n, .ok) else (s, .range) :=
  (if_neg (by omega)).trans (if_pos hf)

/-- A port that an enabled shaft names stays enabled (R232). -/
theorem writePortCfg_disables (hw : w.was FBP_CFG_EN = 1) (hc : w.changes (~~~FBP_CFG_EN.mask) = false) (hf : w.fld FBP_CFG_EN = 0) :
    s.writePortCfg n w = if s.portNamed n then (s, .state) else ((s.plainWrite w).portDisable n, .ok) :=
  (if_pos hw).trans ((if_neg (Bool.eq_false_iff.1 (Wr.changes_part hc (by decide)))).trans (if_pos hf))

theorem writePos_range {v : Nat} (h : s.posModulus n ≤ v) : s.writePos n v = (s, .range) := if_pos h

theorem writePos_checked {v : Nat} (h : v < s.posModulus n) : s.writePos n v =
    if s.portIsMain n then (s, .state)
    else ((s.setPort n { s.port n with raw := v, pos := v }).emuInput n (count32 (v - (s.port n).pos)), .ok) :=
  if_neg (Nat.not_le.2 h)

theorem pfaultClear_stands (h : s.fld (FBP_STAT n) FBP_STAT_LBRK ≠ 0 ∨ s.flag (FBP_SUP_STAT n) FBP_SUP_STAT_OC = true ∨
    s.isFresh (FBP_STAT n) FBP_STAT_PFAULT = true) : s.pfaultClear n = s := if_pos h

/-- A fault with no cause left is cleared, and the port is no longer referenced (R229). -/
theorem pfaultClear_clears (hl : s.fld (FBP_STAT n) FBP_STAT_LBRK = 0) (ho : s.flag (FBP_SUP_STAT n) FBP_SUP_STAT_OC = false)
    (hn : s.isFresh (FBP_STAT n) FBP_STAT_PFAULT = false) (hf : s.portFaulted n = true) : s.pfaultClear n =
    ((s.setFlag (FBP_STAT n) FBP_STAT_PFAULT false).setFlag (FBP_STAT n) FBP_STAT_REFD false).faultEnd fltPort n :=
  (if_neg (by simp [hl, ho, hn])).trans (if_pos hf)

end

/-! ## The commands -/

section
variable {s : State} {n : Fin 16} {v : Word} (ha : s.awake = true)
include ha

/-- Setting EN of a disabled port is a write of its configuration in which EN rises. -/
theorem exec_portEnable (he : s.portEn n = false) {w : Wr} (hw : w = s.wr (FBP_CFG n) 0xFFFFFFFF (v.setF FBP_CFG_EN 1)) {t : State}
    {c : Status} (hq : w.was FBP_CFG_EN = 0 → w.fld FBP_CFG_EN = 1 → s.writePortCfg n w = (t, c)) :
    exec (.portEnable n v) s = .next (t.done c 0 []) :=
  congrArg Host.Outcome.next (regEnable_port (at_FBP_CFG n) (port_block n (by decide) (by decide)) ha (by decide) rfl (by decide)
    (by decide) (by decide) he hw fun hb h0 h1 => (writePort_cfg hb).trans (hq h0 h1))

/-- Clearing EN of an enabled port is a write that changes EN alone. -/
theorem exec_portDisable (he : s.portEn n = true) {w : Wr} (hw : w = s.wr (FBP_CFG n) FBP_CFG_EN.mask 0) {t : State} {c : Status}
    (hq : w.was FBP_CFG_EN = 1 → w.changes (~~~FBP_CFG_EN.mask) = false → w.fld FBP_CFG_EN = 0 → s.writePortCfg n w = (t, c)) :
    exec (.portDisable n) s = .next (t.done c 0 []) :=
  congrArg Host.Outcome.next (regDisable_port (at_FBP_CFG n) (port_block n (by decide) (by decide)) ha (by decide) rfl (by decide)
    (by decide) (by decide) he hw fun hb h1 hc h0 => (writePort_cfg hb).trans (hq h1 hc h0))

/-- A write of POS is a preset of the port (R211). -/
theorem exec_posWrite {t : State} {c : Status} (hq : s.writePos n (v.getF FBP_POS_POS) = (t, c)) :
    exec (.posWrite n v) s = .next (t.done c 0 []) := by
  have h := at_FBP_POS n
  have written := all_fld s FBP_POS_POS h v (by decide) (by decide)
  exact congrArg Host.Outcome.next (regWrite_port h (port_block n (by decide) (by decide)) ha (by decide)
    (wr_free s h _ _ (by decide)) ((writePort_pos (wr_base s _ _ _ _ _ _ _ _ _ h).1).trans (written ▸ hq)))

theorem exec_pfaultClear : exec (.pfaultClear n) s = .next ((s.pfaultClear n).done .ok 0 []) := by
  have h := at_FBP_STAT n
  obtain ⟨base, -, act, -⟩ := wr_base s _ _ _ _ FBP_STAT_PFAULT.mask FBP_STAT_PFAULT.mask _ _ _ h
  exact congrArg Host.Outcome.next (regWrite_port h (port_block n (by decide) (by decide)) ha (by decide)
    (wr_free s h _ _ (by decide)) (writePort_pfault base (by rw [Wr.acts, act]; decide) (by rw [Wr.acts, act]; decide)))

end

/-- Settles O28: the writes of EN by what their checks find, the preset and the clear by the rules of their registers. -/
theorem portControl : Obligations.PortControl := by
  unfold Obligations.PortControl
  intro s n v ha on off x pos top
  refine ⟨fun he => ⟨fun hk => ?range, fun hk => ?enables⟩, fun he => ⟨fun hk => ?named, ?disables⟩,
    fun hp => exec_posWrite ha (writePos_range hp), fun hp => ⟨fun hk => ?main, fun hk => ?presets⟩, fun hk => ?stands,
    fun hl ho hn hf => ?clears⟩
  case range =>
    exact exec_portEnable ha he rfl fun hw hf => (writePortCfg_enables hw hf).trans (if_neg (Bool.eq_false_iff.1 hk))
  case enables => exact exec_portEnable ha he rfl fun hw hf => (writePortCfg_enables hw hf).trans (if_pos hk)
  case named => exact exec_portDisable ha he rfl fun hw hc hf => (writePortCfg_disables hw hc hf).trans (if_pos hk)
  case disables =>
    rintro hk y rfl
    exact exec_portDisable ha he rfl fun hw hc hf => (writePortCfg_disables hw hc hf).trans (if_neg (Bool.eq_false_iff.1 hk))
  case main => exact exec_posWrite ha ((writePos_checked hp).trans (if_pos hk))
  case presets => exact exec_posWrite ha ((writePos_checked hp).trans (if_neg (Bool.eq_false_iff.1 hk)))
  case stands =>
    have outcome := exec_pfaultClear (n := n) ha
    rwa [pfaultClear_stands hk] at outcome
  case clears =>
    have outcome := exec_pfaultClear (n := n) ha
    rwa [pfaultClear_clears hl ho hn hf] at outcome

end Sys2Proof.Machine
end

