-- ==== Sys2Proof/Proofs/PortSupplies.lean ====
section
/-! SUPPORT. The encoder supply of a port and its line checks (R225 to R229). -/

namespace Sys2Proof.Machine

/-! ## Writes of EN of a supply (R225 to R227) -/

section
variable {s : State} {n : Nat} {w : Wr}

theorem writeSupply_range (hw : w.was FBP_SUP_EN = 0) (hf : w.fld FBP_SUP_EN = 1)
    (hl : w.fld FBP_SUP_ILOAD = 0 ∨ 200 < w.fld FBP_SUP_ILOAD) : s.writeSupply n w = (s, .range) :=
  (if_neg (by omega)).trans (if_pos ⟨by simpa using hl, .inl hf⟩)

/-- A supply whose load is in range comes on where the declared powers leave room for it (R226). -/
theorem writeSupply_checked (hw : w.was FBP_SUP_EN = 0) (hf : w.fld FBP_SUP_EN = 1) (h0 : 0 < w.fld FBP_SUP_ILOAD)
    (h1 : w.fld FBP_SUP_ILOAD ≤ 200) : s.writeSupply n w =
    if s.fld FBP_SUP_BUDGET FBP_SUP_BUDGET_ALLOW < s.supDecl + (s.plainWrite w).supPower n then (s, .budget)
    else ((s.plainWrite w).supplyOn n, .ok) := by
  have inRange : ¬(decide (w.fld FBP_SUP_ILOAD = 0) || decide (200 < w.fld FBP_SUP_ILOAD)) = true := by simp; omega
  exact (if_neg (by omega)).trans ((if_neg (inRange ·.1)).trans (if_pos ⟨hw, hf⟩))

/-- A supply that goes off loses its overcurrent trip (R227). -/
theorem writeSupply_off (hw : w.was FBP_SUP_EN = 1) (hc : w.changes (~~~FBP_SUP_EN.mask) = false) (hf : w.fld FBP_SUP_EN = 0) :
    s.writeSupply n w = (((s.plainWrite w).supplyOff n).setFlag (FBP_SUP_STAT n) FBP_SUP_STAT_OC false, .ok) := by
  have keeps {k : Word} (hk : ~~~FBP_SUP_EN.mask &&& k = k) : ¬w.changes k = true := Bool.eq_false_iff.1 (Wr.changes_part hc hk)
  refine (if_neg fun h => keeps (by decide) h.2).trans ((if_neg fun h => h.2.elim (by omega) (keeps (by decide))).trans ?_)
  exact (if_neg (by omega)).trans (if_pos ⟨hw, hf⟩)

end

section
variable {s : State} {n : Fin 16} {v : Word} (ha : s.awake = true)
include ha

/-- Setting EN of a supply that is off is a write of its register in which EN rises. -/
theorem exec_supplyOn (he : s.flag (FBP_SUP n) FBP_SUP_EN = false) {w : Wr}
    (hw : w = s.wr (FBP_SUP n) 0xFFFFFFFF (v.setF FBP_SUP_EN 1)) {t : State} {c : Status}
    (hq : w.was FBP_SUP_EN = 0 → w.fld FBP_SUP_EN = 1 → w.fld FBP_SUP_ILOAD = v.getF FBP_SUP_ILOAD → s.writeSupply n w = (t, c)) :
    exec (.supplyOn n v) s = .next (t.done c 0 []) := by
  have h := at_FBP_SUP n
  have load : w.fld FBP_SUP_ILOAD = v.getF FBP_SUP_ILOAD :=
    hw ▸ on_fld_ne s FBP_SUP_EN h v FBP_SUP_ILOAD (by decide) (by decide) (by decide) (by decide)
  exact congrArg Host.Outcome.next (regEnable_port h (port_block n (by decide) (by decide)) ha (by decide) rfl (by decide) (by decide)
    (by decide) he hw fun hb h0 h1 => (writePort_supply hb).trans (hq h0 h1 load))

theorem exec_supplyOff (he : s.flag (FBP_SUP n) FBP_SUP_EN = true) : exec (.supplyOff n) s =
    .next ((((s.plainWrite (s.wr (FBP_SUP n) FBP_SUP_EN.mask 0)).supplyOff n).setFlag (FBP_SUP_STAT n)
      FBP_SUP_STAT_OC false).done .ok 0 []) :=
  congrArg Host.Outcome.next (regDisable_port (at_FBP_SUP n) (port_block n (by decide) (by decide)) ha (by decide) rfl (by decide)
    (by decide) (by decide) he rfl fun hb hw hc hf => (writePort_supply hb).trans (writeSupply_off hw hc hf))

end

/-! ## What happens to a supply and to the lines -/

section
variable {s : State} {n : Nat}

theorem settleDue_reached {t : Nat} (hx : (s.port n).settleEnd = some t) (ht : t ≤ s.time) : s.settleDue n = true := by
  simp [State.settleDue, hx, ht]

/-- At the end of SETTLING the levels present are the starting levels (R225). -/
theorem settleEnd_starts (h : s.settleDue n = true) {a b z x : Bool} {y : Port}
    (hy : y = { s.port n with
      settleEnd := none
      lvA := s.afterInv n 0 a
      lvB := s.afterInv n 1 b
      lvZ := s.afterInv n 2 z
      lvX := s.afterInv n 3 x
      atA := s.time + 1
      atB := s.time + 1
      atZ := s.time + 1
      atX := s.time + 1
      nextFrame := if s.portEn n && s.portSerial n then some s.time else none }) :
    s.settleEnd n a b z x = s.setPort n { y with hallRef := y.hallCode } := by
  subst hy
  exact if_pos h

theorem overcurrent_trips {ma : Nat} (ho : s.supOn n = true) (hm : s.fld (FBP_SUP n) FBP_SUP_ILOAD + 20 < ma) :
    s.overcurrent n ma = ((((s.supplyOff n).setFlag (FBP_SUP_STAT n) FBP_SUP_STAT_OC true).setFld (FBP_SUP_STAT n)
      FBP_SUP_STAT_IMEAS (satTo 255 ma)).portError n 13).portFault n := if_pos ⟨ho, hm⟩

theorem lineBreak_checked {i : Nat} (he : s.portEn n = true) (hs : s.settling n = false)
    (hc : bitOf (s.fld (FBP_CFG n) FBP_CFG_LBCHK) i = true) : s.lineBreak n i =
    ((s.setFld (FBP_STAT n) FBP_STAT_LBRK (Nat.lor (s.fld (FBP_STAT n) FBP_STAT_LBRK) (2 ^ i))).portError n 12).portFault n :=
  if_pos ⟨he, Bool.eq_false_iff.1 hs, hc⟩

end

/-- Settles O29: the writes of EN by the rules of the supply's register, each happening by its law. -/
theorem portSupplies : Obligations.PortSupplies := by
  unfold Obligations.PortSupplies
  intro s n v ha on off load x settled
  refine ⟨fun he => ⟨fun hl => ?range, fun h0 h1 => ⟨fun hb => ?budget, fun hb => ?comesOn⟩⟩, exec_supplyOff ha, ?settles,
    fun ma ho hm => next_inRun ha (overcurrent_trips ho hm), fun i => ⟨fun he hs hc => next_inRun ha (lineBreak_checked he hs hc),
      next_inRun ha rfl⟩⟩
  case range => exact exec_supplyOn ha he rfl fun hw hf hv => writeSupply_range hw hf (hv ▸ hl)
  case budget =>
    exact exec_supplyOn ha he rfl fun hw hf hv => (writeSupply_checked hw hf (hv ▸ h0) (hv ▸ h1)).trans (if_pos hb)
  case comesOn =>
    exact exec_supplyOn ha he rfl fun hw hf hv => (writeSupply_checked hw hf (hv ▸ h0) (hv ▸ h1)).trans (if_neg (Nat.not_lt.2 hb))
  case settles =>
    intro a b z w t y hx ht hy
    exact next_inRun ha (settleEnd_starts (settleDue_reached hx ht) hy)

end Sys2Proof.Machine
end

