-- ==== Sys2Proof/Proofs/PortCounting.lean ====
section
/-! SUPPORT. A feedback port at work (R206 to R224): the acceptance of levels, serial frames, and the emulation. -/

namespace Sys2Proof.Machine

/-! ## Acceptance (R206, R222) -/

section
variable {s : State} {n : Nat} {a b z x : Bool}

theorem portAccept_settling (hs : s.settling n = true) : s.portAccept n a b z x = s := if_pos hs

variable (hs : s.settling n = false)
include hs

theorem portAccept_disabled (he : s.portEn n = false) : s.portAccept n a b z x = s.setPort n (s.portTakes n a b z x) :=
  (if_neg (Bool.eq_false_iff.1 hs)).trans (if_pos (Bool.eq_false_iff.1 he))

/-- An enabled port counts, delivers, judges the index, latches the probe and feeds the emulation, in the order of R222. -/
theorem portAccept_enabled (he : s.portEn n = true) {o y : Port} (ho : o = s.port n) (hy : y = s.portTakes n a b z x)
    {c r : State × Int} (hc : c = (s.setPort n y).portCount n o) (hr : r = c.1.portRaw n c.2) {t u p : State}
    (ht : t = r.1.portDeliver n o r.2)
    (hu : u = if s.flag (FBP_CFG n) FBP_CFG_IDX_EN ∧ s.portMode n ≤ 2 ∧ s.qualified n y ∧ ¬s.qualified n o then t.indexEvent n else t)
    (hp : p = if s.probeEdge n o y then u.probeLatch n else u) :
    s.portAccept n a b z x = p.emuInput n (count32 ((p.port n).pos - o.pos)) := by
  subst ho hy hc hr ht hu hp
  exact (if_neg (Bool.eq_false_iff.1 hs)).trans (if_neg (not_not_intro he))

end

/-! ## Serial frames (R216 to R219, R232) -/

section
variable {s : State} {n : Nat}

theorem frameDue_reached {t : Nat} (he : s.portEn n = true) (hm : s.portSerial n = true) (hs : s.settling n = false)
    (hf : ∀ f, (s.port n).frame = some f → f.2 = true) (hx : (s.port n).nextFrame = some t) (ht : t ≤ s.time) :
    s.frameDue n = true := by
  have delivered : (s.port n).frame.all Prod.snd = true := (Option.all_eq_true_iff_get _ _).2 fun h => hf _ (Option.some_get h).symm
  simp [State.frameDue, he, hm, hs, delivered, hx, ht]

theorem frameStart_due (h : s.frameDue n = true) : s.frameStart n = s.setPort n { s.port n with
    frame := some (s.time, true), nextFrame := some (s.time + s.fld (FBP_SER_PER n) FBP_SER_PER_FPER) } := if_pos h

variable {r : SerSample} {t : Nat} {deliver : Bool} (hf : (s.port n).frame = some (t, deliver))
include hf

theorem frameEnd_early (ht : s.time < t + s.frameLength n r) : s.frameEnd n r = s := by
  simp [State.frameEnd, hf, ht]

/-! A frame whose clocks have been given is judged by the first check that does not hold. -/

variable (ht : t + s.frameLength n r ≤ s.time) {u : State} (hu : u = s.setPort n { s.port n with frame := none })
include ht hu

theorem frameEnd_fails {c : Nat} (hc : s.serFails n r = some c) : s.frameEnd n r = u.frameFail n c deliver := by
  simp [State.frameEnd, hf, hc, hu, Nat.not_lt.2 ht]

/-- A valid frame that outlived its enable only reaches SER_POS (R232). -/
theorem frameEnd_valid (hc : s.serFails n r = none) : s.frameEnd n r =
    if deliver then u.frameGood n r t else u.setRg (FBP_SER_POS n) (BitVec.ofNat 32 (s.serValue n r)) := by
  simp [State.frameEnd, hf, hc, hu, Nat.not_lt.2 ht]

end

/-! ## Emulation (R223, R224) -/

section
variable {s : State} {n : Nat} {w : Wr}

theorem writeEmu_range (hw : w.was FBP_EMU_CFG_EMU_EN = 0) (hf : w.fld FBP_EMU_CFG_EMU_EN = 1)
    (h : w.fld FBP_EMU_CFG_MINP < 16 ∨ s.fld (FBP_EMU_RATIO n) FBP_EMU_RATIO_MUL = 0 ∨ s.fld (FBP_EMU_RATIO n) FBP_EMU_RATIO_DIV = 0 ∨
      s.fld (FBP_EMU_RATIO n) FBP_EMU_RATIO_DIV < s.fld (FBP_EMU_RATIO n) FBP_EMU_RATIO_MUL) : s.writeEmu n w = (s, .range) := by
  by_cases hm : w.fld FBP_EMU_CFG_MINP < 16
  · exact if_pos hm
  · exact (if_neg hm).trans ((if_pos ⟨hw, hf⟩).trans (if_pos (h.resolve_left hm)))

/-- Setting EMU_EN clears the accumulator and the backlog (R223). -/
theorem writeEmu_starts (hw : w.was FBP_EMU_CFG_EMU_EN = 0) (hf : w.fld FBP_EMU_CFG_EMU_EN = 1) (hm : 16 ≤ w.fld FBP_EMU_CFG_MINP)
    (h0 : 0 < s.fld (FBP_EMU_RATIO n) FBP_EMU_RATIO_MUL)
    (h1 : s.fld (FBP_EMU_RATIO n) FBP_EMU_RATIO_MUL ≤ s.fld (FBP_EMU_RATIO n) FBP_EMU_RATIO_DIV) : s.writeEmu n w =
    (((s.plainWrite w).setPort n { s.port n with emuAcc := 0, backlog := 0, emuNext := s.time, emuIdx := false }).emuShow n, .ok) :=
  (if_neg (Nat.not_lt.2 hm)).trans ((if_pos ⟨hw, hf⟩).trans (if_neg (by omega)))

section
variable (hd : s.emuDue n = true)
include hd

theorem emuCount_quadrature (hp : s.emuPulse n = false) {rev : Bool} (hr : rev = decide ((s.port n).backlog < 0)) :
    s.emuCount n = (s.setPort n { (s.port n).emuIndex with
      emuState := if rev then ((s.port n).emuState + 3) % 4 else ((s.port n).emuState + 1) % 4,
      emuNext := s.time + s.fld (FBP_EMU_CFG n) FBP_EMU_CFG_MINP,
      backlog := (s.port n).backlog + if rev then 1 else -1 }).emuShow n := by
  subst hr
  exact (if_pos hd).trans (congrArg (fun y => (s.setPort n y).emuShow n) (if_neg (Bool.eq_false_iff.1 hp)))

variable (hp : s.emuPulse n = true) {minp : Nat} (hm : minp = s.fld (FBP_EMU_CFG n) FBP_EMU_CFG_MINP)
include hp hm

theorem emuCount_pulseEnd (he : (s.port n).emuState = 1) :
    s.emuCount n = (s.setPort n { s.port n with emuState := 0, emuNext := s.time + (minp - minp / 2) }).emuShow n := by
  subst hm
  exact (if_pos hd).trans (congrArg (fun y => (s.setPort n y).emuShow n) ((if_pos hp).trans (if_pos he)))

variable (he : (s.port n).emuState ≠ 1) {rev : Bool} (hr : rev = decide ((s.port n).backlog < 0))
include he hr

/-- A pulse in the other direction is preceded by the change of the direction output (R224). -/
theorem emuCount_turn (h : rev ≠ (s.port n).emuDir) :
    s.emuCount n = (s.setPort n { s.port n with emuDir := rev, emuNext := s.time + minp / 2 }).emuShow n := by
  subst hm hr
  exact (if_pos hd).trans (congrArg (fun y => (s.setPort n y).emuShow n) ((if_pos hp).trans ((if_neg he).trans (if_pos h))))

theorem emuCount_pulseStart (h : rev = (s.port n).emuDir) :
    s.emuCount n = (s.setPort n { (s.port n).emuIndex with
      emuState := 1, emuNext := s.time + minp / 2, backlog := (s.port n).backlog + if rev then 1 else -1 }).emuShow n := by
  subst hm hr
  exact (if_pos hd).trans (congrArg (fun y => (s.setPort n y).emuShow n)
    ((if_pos hp).trans ((if_neg he).trans (if_neg (not_not_intro h)))))

end

end

section
variable {s : State} {n : Fin 16} {v : Word} (ha : s.awake = true)
include ha

/-- Setting EMU_EN where it is 0 is a write of its register in which EMU_EN rises. -/
theorem exec_emuEnable (he : s.flag (FBP_EMU_CFG n) FBP_EMU_CFG_EMU_EN = false) {w : Wr}
    (hw : w = s.wr (FBP_EMU_CFG n) 0xFFFFFFFF (v.setF FBP_EMU_CFG_EMU_EN 1)) {t : State} {c : Status}
    (hq : w.was FBP_EMU_CFG_EMU_EN = 0 → w.fld FBP_EMU_CFG_EMU_EN = 1 → w.fld FBP_EMU_CFG_MINP = v.getF FBP_EMU_CFG_MINP →
      s.writeEmu n w = (t, c)) : exec (.emuEnable n v) s = .next (t.done c 0 []) := by
  have h := at_FBP_EMU_CFG n
  have minp : w.fld FBP_EMU_CFG_MINP = v.getF FBP_EMU_CFG_MINP :=
    hw ▸ on_fld_ne s FBP_EMU_CFG_EMU_EN h v FBP_EMU_CFG_MINP (by decide) (by decide) (by decide) (by decide)
  exact congrArg Host.Outcome.next (regEnable_port h (port_block n (by decide) (by decide)) ha (by decide) rfl (by decide) (by decide)
    (by decide) he hw fun hb h0 h1 => (writePort_emu hb).trans (hq h0 h1 minp))

end

/-- Settles O30: acceptance, frames and output counts by their laws, the write of EMU_EN by the rule of its register. -/
theorem portCounting : Obligations.PortCounting := by
  unfold Obligations.PortCounting
  intro s n v ha o
  refine ⟨?accepts, fun t he hm hs hf hx ht => next_inRun ha (frameStart_due (frameDue_reached he hm hs hf hx ht)), ?ends, ?enables,
    ?counts⟩
  case accepts =>
    intro a b z w takes fa fb fz fx y
    exact ⟨fun hs => next_inRun ha (portAccept_settling hs), fun hs he => next_inRun ha (portAccept_disabled hs he),
      fun hs he => next_inRun ha (portAccept_enabled hs he rfl rfl rfl rfl rfl rfl rfl)⟩
  case ends =>
    intro r t deliver hf
    exact ⟨fun ht => next_inRun ha (frameEnd_early hf ht), fun ht u hu =>
      ⟨fun hd hc => next_inRun ha ((frameEnd_valid hf ht hu hc).trans (if_neg (Bool.eq_false_iff.1 hd))),
        fun hd hc => next_inRun ha ((frameEnd_valid hf ht hu hc).trans (if_pos hd)),
        fun k hc => next_inRun ha (frameEnd_fails hf ht hu hc)⟩⟩
  case enables =>
    intro he mul div on
    exact ⟨fun h => exec_emuEnable ha he rfl fun hw hf hv => writeEmu_range hw hf (hv ▸ h),
      fun hm h0 h1 => exec_emuEnable ha he rfl fun hw hf hv => writeEmu_starts hw hf (hv ▸ hm) h0 h1⟩
  case counts =>
    intro hd minp rev step moved
    exact ⟨fun hp => next_inRun ha (emuCount_quadrature hd hp rfl), fun hp =>
      ⟨fun he => next_inRun ha (emuCount_pulseEnd hd hp rfl he), fun he h => next_inRun ha (emuCount_turn hd hp rfl he rfl h),
      fun he h => next_inRun ha (emuCount_pulseStart hd hp rfl he rfl h)⟩⟩

end Sys2Proof.Machine
end

