-- ==== Sys2Proof/Proofs/CellSteps.lean ====
section
/-! SUPPORT. A timer cell that counts (R235 to R242): its next count, its boundary, its restart and its match. -/

namespace Sys2Proof.Machine

/-- In Watch and Off nothing happens to a unit without power. -/
theorem next_asleep {s : State} {f : State → State} (ha : s.awake = false) :
    (.next (s.inRun f) : Host.Outcome State Fault Refusal) = .next s :=
  congrArg Host.Outcome.next (if_neg (Bool.eq_false_iff.1 ha))

section
variable {s : State} {n : Nat}

/-! ## What is due -/

theorem cellStepDue_iff : s.cellStepDue n = true ↔
    s.cellEn n = true ∧ s.cellCfg n TMC_CFG_CLK = 0 ∧ (s.cell n).next ≤ s.time ∧ (s.cell n).cutAt = none := by
  simp [State.cellStepDue, and_assoc]

theorem cellCutDue_iff : s.cellCutDue n = true ↔ ∃ a ≤ s.time, (s.cell n).cutAt = some a := by
  cases h : (s.cell n).cutAt <;> simp [State.cellCutDue, h]

theorem cellPassedDue_iff : s.cellPassedDue n = true ↔ ∃ a ≤ s.time, (s.cell n).matchAt = some a := by
  cases h : (s.cell n).matchAt <;> simp [State.cellPassedDue, h]

/-! ## The next count (R236) -/

/-- The count from which a cell that counts up has its boundary. -/
def State.cellLast (s : State) (n : Nat) : Nat := if s.cellCfg n TMC_CFG_MODE = 1 then s.cellPeriod n else 0xFFFFFFFF

theorem cellNext_up (hd : s.cellCfg n TMC_CFG_DIR = 0) (hc : s.cellCount n ≠ s.cellLast n) :
    s.cellNext n = ((s.cellCount n + 1) % 2 ^ 32, false) := by
  unfold State.cellLast at hc
  by_cases hm : s.cellCfg n TMC_CFG_MODE = 1
  · rw [if_pos hm] at hc
    simp [State.cellNext, hd, hm, hc]
  · rw [if_neg hm] at hc
    have below : s.cellCount n + 1 < 2 ^ 32 := by
      have := (s.actRg (TMC_COUNT n)).isLt
      unfold State.cellCount at hc ⊢
      omega
    rw [Nat.mod_eq_of_lt below]
    simp [State.cellNext, hd, hm, hc]

theorem cellNext_down (hd : s.cellCfg n TMC_CFG_DIR ≠ 0) (hc : s.cellCount n ≠ 0) :
    s.cellNext n = (s.cellCount n - 1, false) := by
  simp [State.cellNext, hd, hc]

/-- From the end of its range the next step of a cell is its boundary. -/
theorem cellNext_end (h : (s.cellCfg n TMC_CFG_DIR = 0 ∧ s.cellCount n = s.cellLast n) ∨
    (s.cellCfg n TMC_CFG_DIR ≠ 0 ∧ s.cellCount n = 0)) : (s.cellNext n).2 = true := by
  obtain ⟨hd, hc⟩ | ⟨hd, hc⟩ := h
  · unfold State.cellLast at hc
    by_cases hm : s.cellCfg n TMC_CFG_MODE = 1
    · rw [if_pos hm] at hc
      simp [State.cellNext, hd, hm, hc]
    · rw [if_neg hm] at hc
      simp [State.cellNext, hd, hm, hc]
  · by_cases hm : s.cellCfg n TMC_CFG_MODE = 1 <;> simp [State.cellNext, hd, hc, hm]

theorem cellMove_mod (c : Nat) : s.cellMove n (c % 2 ^ 32) = s.cellMove n c := by
  have word : BitVec.ofNat 32 (c % 2 ^ 32) = BitVec.ofNat 32 c := BitVec.eq_of_toNat_eq (by simp)
  rw [State.cellMove, State.cellMove, word]

/-! ## Steps (R235, R236, R238, R242) -/

/-- A boundary: the count goes to its start, and the step is carried into the cell above that cascades. -/
def State.cellWraps (s : State) (n : Nat) : State :=
  let b := s.cellBoundary n
  let w := b.cellMove n (b.cellStart n)
  if n + 1 < 1024 ∧ w.cellCascade (n + 1) then w.cellStepAt 7 (n + 1) else w

/-- A disabled cell does not step, and a restart of the tick was its step (R238). -/
theorem cellStepNow_still (h : ¬(s.cellEn n = true ∧ (s.cell n).cutTick ≠ some s.time)) : s.cellStepNow n = s :=
  if_pos (by tauto)

section
variable (he : s.cellEn n = true) (ht : (s.cell n).cutTick ≠ some s.time)
include he ht

theorem cellStepNow_restarts (hc : s.cellCutDue n = true) : s.cellStepNow n = (s.cellCut n).cellWraps n := by
  simp [State.cellStepNow, State.cellStepAt, State.cellWraps, he, ht, hc]

variable (hc : s.cellCutDue n = false)
include hc

theorem cellStepNow_wraps (hn : (s.cellNext n).2 = true) : s.cellStepNow n = s.cellWraps n := by
  simp [State.cellStepNow, State.cellStepAt, State.cellWraps, he, ht, hc, hn]

theorem cellStepNow_moves {c : Nat} (hn : s.cellNext n = (c, false)) : s.cellStepNow n = s.cellMove n c := by
  simp [State.cellStepNow, State.cellStepAt, he, ht, hc, hn]

end

/-- A step that is due plans the next one, PRESC + 1 ticks on (R235). -/
def State.cellPlans (s : State) (n : Nat) : State :=
  s.setCell n { s.cell n with next := s.time + s.cellCfg n TMC_CFG_PRESC + 1 }

theorem cellPlans_cell : (s.cellPlans n).cell n = { s.cell n with next := s.time + s.cellCfg n TMC_CFG_PRESC + 1 } := by
  simp [State.cellPlans]

theorem cellPlans_cutDue (h : (s.cell n).cutAt = none) : (s.cellPlans n).cellCutDue n = false := by
  simp [State.cellCutDue, cellPlans_cell, h]

end

/-- Settles O31: the step by where the count stands, the restart and the match of a passed COMPARE by whether they are due. -/
theorem cellSteps : Obligations.CellSteps := by
  unfold Obligations.CellSteps
  intro s n x up count last after t c atMatch reaches bounds steps restarts passes
  refine ⟨?asleep, fun ha => ?awake⟩
  case asleep =>
    intro ha i hi
    simp only [List.mem_cons, List.not_mem_nil, or_false] at hi
    obtain rfl | rfl | rfl := hi <;> exact next_asleep ha
  case awake =>
    have planned : t.cell n = { x with next := after } := cellPlans_cell
    have stepsTo {u : State} (hs : steps) (hu : t.cellStepNow n = u) : exec (.cellStep n) s = .next u :=
      next_inRun ha ((if_pos (cellStepDue_iff.2 hs)).trans hu)
    have free (hc : x.cutTick ≠ some s.time) : (t.cell n).cutTick ≠ some t.time := by rwa [planned]
    refine ⟨fun hs hc => stepsTo hs (cellStepNow_still ?joined), fun hs hc => ?steps,
      fun hs => next_inRun ha (if_neg (mt cellStepDue_iff.1 hs)), fun hr => ?restarts, fun hr => ?stays,
      fun hp => next_inRun ha (if_pos (cellPassedDue_iff.2 hp)), fun hp => next_inRun ha (if_neg (mt cellPassedDue_iff.1 hp))⟩
    case joined =>
      rw [planned]
      exact fun h => h.2 hc
    case steps =>
      have ⟨he, _, _, hnone⟩ := hs
      have uncut : t.cellCutDue n = false := cellPlans_cutDue hnone
      refine ⟨fun hu hl => ?up, fun hd h0 => ?down, fun hend => ?wraps⟩
      case up =>
        exact stepsTo hs ((cellStepNow_moves (s := t) he (free hc) uncut (cellNext_up (s := t) hu hl)).trans (cellMove_mod _))
      case down => exact stepsTo hs (cellStepNow_moves (s := t) he (free hc) uncut (cellNext_down (s := t) hd h0))
      case wraps => exact stepsTo hs (cellStepNow_wraps (s := t) he (free hc) uncut (cellNext_end (s := t) hend))
    case restarts =>
      obtain ⟨hd, he, hc⟩ := hr
      have hd := cellCutDue_iff.2 hd
      exact next_inRun ha ((if_pos hd).trans (cellStepNow_restarts he hc hd))
    case stays =>
      refine next_inRun ha (show s.cellRestart n = s from ?_)
      rw [State.cellRestart]
      split
      case isTrue hd => exact cellStepNow_still fun h => hr ⟨cellCutDue_iff.1 hd, h⟩
      case isFalse => rfl

end Sys2Proof.Machine
end

