-- ==== Sys2Proof/Proofs/CellRegisters.lean ====
section
/-! SUPPORT. The registers of a timer cell (R235 to R247): the writes of its configuration, count and limits and how they come to
act, its captures, and the snapshot of its group. -/

namespace Sys2Proof.Machine

/-! ## From a command to a cell -/

/-- Each cell has 0x20 bytes of the block of the timer cells (R250). -/
theorem cell_block (n : Fin 1024) {a : Nat} (hl : 0x80000 ≤ a) (hu : a < 0x80020) : blockOf (a + n * 0x20) = some .tmc :=
  blockOf_tmc _ (by omega) (by omega)

section
variable {s : State} {n : Fin 1024} {a b : Nat} {rw wb ac m v : Word}
  (h : (regAt a).map (fun x => (x.1.facts, x.2)) = some ((b, rw, wb, ac), n.val, 0)) (hc : blockOf a = some .tmc)
include h hc

/-- A write of a cell's register, which energy admission does not judge, completes as the cell says. -/
theorem regWrite_cell (ha : s.awake = true) (hm : wb &&& m ≠ 0)
    (hb : (b != RAS_CTL 0 && b != CMP_CFG && b != CMP_TPL 0 && b != ADC_C_CFG 0) = true) {t : State} {c : Status}
    (hq : s.writeCell n (s.wr a m v) = (t, c)) : s.regWrite a m v = t.done c 0 [] := by
  obtain ⟨-, addr, -, -⟩ := wr_base s a n 0 b m v rw wb ac h
  have unit := (unitWrite_tmc s n 0 _ a addr hc).trans hq
  by_cases ok : c = .ok
  · subst ok
    exact regWrite_ok s a n 0 b m v rw wb ac t ha h hm (.inl (wr_free s h _ _ hb)) unit
  · exact regWrite_no s a n 0 b m v rw wb ac t c ha h hm ok unit

end

/-- A register whose 32 bits are all RW takes the written word. -/
theorem regWrite_cellWhole {s : State} {n : Fin 1024} {a b : Nat} {v : Word}
    (h : (regAt a).map (fun x => (x.1.facts, x.2)) = some ((b, 0xFFFFFFFF, 0xFFFFFFFF, 0), n.val, 0))
    (hc : blockOf a = some .tmc) (ha : s.awake = true)
    (hb : (b != RAS_CTL 0 && b != CMP_CFG && b != CMP_TPL 0 && b != ADC_C_CFG 0) = true) {f : Word → State}
    (hq : ∀ w : Wr, w.base = b → s.writeCell n w = (f w.new, .ok)) : s.regWrite a 0xFFFFFFFF v = (f v).done .ok 0 [] := by
  obtain ⟨base, -, -, new⟩ := wr_base s a n 0 b 0xFFFFFFFF v _ _ _ h
  have written := hq _ base
  rw [new, merge_whole] at written
  exact regWrite_cell h hc ha (by decide) hb written

/-! ## The rules of its registers -/

section
variable {s : State} {n : Nat} {w : Wr}

theorem writeCell_cfg (hb : w.base = TMC_CFG 0) : s.writeCell n w = s.writeCellCfg n w := if_pos hb

theorem writeCell_count (hb : w.base = TMC_COUNT 0) : s.writeCell n w = (s.cellPut n (TMC_COUNT n) w.new, .ok) := by
  rw [State.writeCell, hb]
  rfl

theorem writeCell_period (hb : w.base = TMC_PERIOD 0) : s.writeCell n w = (s.cellWritePeriod n w.new, .ok) := by
  rw [State.writeCell, hb]
  rfl

theorem writeCell_compare (hb : w.base = TMC_COMPARE 0) : s.writeCell n w = (s.cellWriteCompare n w.new, .ok) := by
  rw [State.writeCell, hb]
  rfl

theorem writeCell_capture (hb : w.base = TMC_CMD 0) (ha : w.acts TMC_CMD_CAPTURE = true) :
    s.writeCell n w = (s.cellCapture n, .ok) := by
  rw [State.writeCell, hb, ha]
  rfl

theorem cellPut_cell (a : Nat) (v : Word) : (s.cellPut n a v).cell n = s.cell n := by
  unfold State.cellPut State.keepActing
  split_ifs <;> rfl

/-! A limit that acts from the next tick replaces the staged value (R237). -/

section
variable {v : Word} (hu : s.fld (TMC_CFG n) TMC_CFG_UPD ≠ 1)
include hu

theorem cellWritePeriod_now {p : State} (hp : p = s.cellPut n (TMC_PERIOD n) v) : s.cellWritePeriod n v =
    p.setCell n { p.cell n with stagedPeriod := none, newPeriod := none } := by
  rw [State.cellWritePeriod, if_neg hu, hp, cellPut_cell]

theorem cellWriteCompare_now {p : State} (hp : p = s.cellPut n (TMC_COMPARE n) v) : s.cellWriteCompare n v =
    p.setCell n { p.cell n with stagedCompare := none, newCompare := none } := by
  rw [State.cellWriteCompare, if_neg hu, hp, cellPut_cell]

end

/-- What a write of the configuration leaves: the word as it stood acts until the tick ends (R246). -/
def State.cellConfigured (s : State) (w : Wr) : State := (s.keepActing w.addr).plainWrite w

/-- A cascade has a cell below, and a group of at most eight cells (R243). -/
theorem writeCellCfg_enables (hw : w.was TMC_CFG_EN = 0) (hf : w.fld TMC_CFG_EN = 1) : s.writeCellCfg n w =
    if 2 ≤ w.fld TMC_CFG_MODE ∨ w.fld TMC_CFG_CLK = 3 then (s, .range)
    else if w.fld TMC_CFG_CLK = 1 ∧ (n = 0 ∨ 8 < (s.cellConfigured w).cellGroup n) then (s, .range)
    else (s.cellConfigured w, .ok) := by
  refine (if_neg (by simp [hw])).trans (if_congr (by simp [hw, hf]) rfl (if_congr Iff.rfl rfl ?_))
  exact congrArg (·, Status.ok) (if_neg (by simp [hw]))

theorem writeCellCfg_disables (hw : w.was TMC_CFG_EN = 1) (hc : w.changes (~~~TMC_CFG_EN.mask) = false)
    (hf : w.fld TMC_CFG_EN = 0) : s.writeCellCfg n w =
    if w.fld TMC_CFG_CLK = 1 ∧ (n = 0 ∨ 8 < (s.cellConfigured w).cellGroup n) then (s, .range)
    else ((s.cellConfigured w).setCell n { (s.cellConfigured w).cell n with stop := true }, .ok) := by
  have free : w.changes (~~~cellFreeMask) = false := Wr.changes_part hc (by decide)
  refine (if_neg (by simp [free])).trans ((if_neg (by simp [hw])).trans (if_congr Iff.rfl rfl ?_))
  exact congrArg (·, Status.ok) (if_pos (by simp [hw, hf]))

end

section
variable {s : State} {n : Fin 1024} {v : Word}

theorem was_cellCfg {m : Word} (f : Fld) : (s.wr (TMC_CFG n) m v).was f = s.fld (TMC_CFG n) f :=
  congrArg (BitVec.getF · f)
    (wr_old_tmc s _ _ _ _ m v _ _ _ (at_TMC_CFG n) (cell_block n (by decide) (by decide)))

theorem cellConfigured_cfg {m : Word} : s.cellConfigured (s.wr (TMC_CFG n) m v) =
    (s.keepActing (TMC_CFG n)).plainWrite (s.wr (TMC_CFG n) m v) := by
  obtain ⟨-, addr, -, -⟩ := wr_base s _ _ _ _ m v _ _ _ (at_TMC_CFG n)
  rw [State.cellConfigured, addr]

variable (ha : s.awake = true)
include ha

theorem regWrite_cellCfg {m : Word} (hm : (0xFFFFFFF1 : Word) &&& m ≠ 0) {w : Wr} (hw : w = s.wr (TMC_CFG n) m v) {t : State}
    {c : Status} (hq : s.writeCellCfg n w = (t, c)) : s.regWrite (TMC_CFG n) m v = t.done c 0 [] := by
  subst hw
  obtain ⟨base, -, -, -⟩ := wr_base s _ _ _ _ m v _ _ _ (at_TMC_CFG n)
  exact regWrite_cell (at_TMC_CFG n) (cell_block n (by decide) (by decide)) ha hm (by decide) ((writeCell_cfg base).trans hq)

/-- Setting EN of a disabled cell is a write of its configuration in which EN rises (R235). -/
theorem exec_cellEnable (he : s.fld (TMC_CFG n) TMC_CFG_EN ≠ 1) {w : Wr}
    (hw : w = s.wr (TMC_CFG n) 0xFFFFFFFF (v.setF TMC_CFG_EN 1)) {t : State}
    (ht : t = (s.keepActing (TMC_CFG n)).plainWrite w) : exec (.cellEnable n v) s = .next
      (if 2 ≤ v.getF TMC_CFG_MODE ∨ v.getF TMC_CFG_CLK = 3 then s.done .range 0 []
       else if v.getF TMC_CFG_CLK = 1 ∧ (n.val = 0 ∨ 8 < t.cellGroup n) then s.done .range 0 []
       else t.done .ok 0 []) := by
  have h := at_TMC_CFG n
  have below : s.fld (TMC_CFG n) TMC_CFG_EN < 2 ^ 1 := getF_lt _ _
  have rises := writeCellCfg_enables (s := s) (n := n) ((was_cellCfg TMC_CFG_EN).trans (by omega))
    (on_fld s TMC_CFG_EN h v (by decide) rfl (by decide))
  rw [on_fld_ne s TMC_CFG_EN h v TMC_CFG_MODE (by decide) (by decide) (by decide) (by decide),
    on_fld_ne s TMC_CFG_EN h v TMC_CFG_CLK (by decide) (by decide) (by decide) (by decide), cellConfigured_cfg, ← hw,
    ← ht] at rises
  split_ifs at rises ⊢ <;> exact congrArg Host.Outcome.next (regWrite_cellCfg ha (by decide) hw rises)

/-- Clearing EN of an enabled cell is a write that changes EN alone (R247). -/
theorem exec_cellDisable (he : s.fld (TMC_CFG n) TMC_CFG_EN = 1) {w : Wr} (hw : w = s.wr (TMC_CFG n) TMC_CFG_EN.mask 0) {t : State}
    (ht : t = (s.keepActing (TMC_CFG n)).plainWrite w) : exec (.cellDisable n) s = .next
      (if s.fld (TMC_CFG n) TMC_CFG_CLK = 1 ∧ (n.val = 0 ∨ 8 < t.cellGroup n) then s.done .range 0 []
       else (t.setCell n { t.cell n with stop := true }).done .ok 0 []) := by
  have h := at_TMC_CFG n
  have falls := writeCellCfg_disables (s := s) (n := n) ((was_cellCfg TMC_CFG_EN).trans he)
    (off_changes s TMC_CFG_EN h (by decide)) (off_fld s TMC_CFG_EN h (by decide) (by decide))
  rw [off_fld_ne h TMC_CFG_EN TMC_CFG_CLK (by decide) (by decide), was_cellCfg, cellConfigured_cfg, ← hw, ← ht] at falls
  split_ifs at falls ⊢ <;> exact congrArg Host.Outcome.next (regWrite_cellCfg ha (by decide) hw falls)

theorem exec_cellCountWrite : exec (.cellCountWrite n v) s = .next ((s.cellPut n (TMC_COUNT n) v).done .ok 0 []) :=
  congrArg Host.Outcome.next (regWrite_cellWhole (at_TMC_COUNT n) (cell_block n (by decide) (by decide)) ha (by decide)
    fun _ hb => writeCell_count hb)

theorem exec_cellPeriodWrite {t : State} (hq : s.cellWritePeriod n v = t) :
    exec (.cellPeriodWrite n v) s = .next (t.done .ok 0 []) :=
  hq ▸ congrArg Host.Outcome.next (regWrite_cellWhole (at_TMC_PERIOD n) (cell_block n (by decide) (by decide)) ha (by decide)
    fun _ hb => writeCell_period hb)

theorem exec_cellCompareWrite {t : State} (hq : s.cellWriteCompare n v = t) :
    exec (.cellCompareWrite n v) s = .next (t.done .ok 0 []) :=
  hq ▸ congrArg Host.Outcome.next (regWrite_cellWhole (at_TMC_COMPARE n) (cell_block n (by decide) (by decide)) ha (by decide)
    fun _ hb => writeCell_compare hb)

theorem exec_capture {t : State} (hq : s.cellCapture n = t) : exec (.capture n) s = .next (t.done .ok 0 []) := by
  have h := at_TMC_CMD n
  obtain ⟨base, -, -, -⟩ := wr_base s _ _ _ _ TMC_CMD_CAPTURE.mask TMC_CMD_CAPTURE.mask _ _ _ h
  have acts : (s.wr (TMC_CMD n) TMC_CMD_CAPTURE.mask TMC_CMD_CAPTURE.mask).acts TMC_CMD_CAPTURE = true :=
    (wr_acts h TMC_CMD_CAPTURE (by decide) (by decide)).trans (by decide)
  exact congrArg Host.Outcome.next (regWrite_cell h (cell_block n (by decide) (by decide)) ha (by decide) (by decide)
    ((writeCell_capture base acts).trans (congrArg (·, Status.ok) hq)))

end

/-! ## As the next tick begins (R237 to R239, R247) -/

section
variable {s : State} {n a : Nat}

theorem cellLimitActs_period (h : a = TMC_PERIOD n ∨ a = TMC_COUNT n) : s.cellLimitActs a = s.cellJudgePeriod n := by
  have number : (a - 0x80000) / 0x20 = n := by
    unfold TMC_PERIOD TMC_COUNT at h
    omega
  subst number
  exact if_pos h

theorem cellLimitActs_compare : s.cellLimitActs (TMC_COMPARE n) = s.cellJudgeWritten n := by
  have number : (TMC_COMPARE n - 0x80000) / 0x20 = n := by
    unfold TMC_COMPARE
    omega
  have other : ¬(TMC_COMPARE n = TMC_PERIOD n ∨ TMC_COMPARE n = TMC_COUNT n) := by
    unfold TMC_COMPARE TMC_PERIOD TMC_COUNT
    omega
  rw [State.cellLimitActs, number, if_neg other, if_pos rfl]

theorem cell_of_cfgAddress : (TMC_CFG n - 0x80000) / 0x20 = n := by
  unfold TMC_CFG
  omega

variable {old : Word}

/-- A cell whose EN has risen plans its first step (R235). -/
theorem cellCfgActs_starts (hc : old.getF TMC_CFG_CMP_EN = 1) (ho : old.getF TMC_CFG_EN ≠ 1) (he : s.cellEn n = true) {y : State}
    (hy : y = s.setCell n { s.cell n with stop := false }) :
    s.cellCfgActs (TMC_CFG n) old = y.setCell n { y.cell n with next := s.time + s.cellCfg n TMC_CFG_PRESC } := by
  simp [State.cellCfgActs, cell_of_cfgAddress, ho, he, hc, hy]

theorem cellCfgActs_stops (ho : old.getF TMC_CFG_EN = 1) (he : s.cellEn n = false) :
    s.cellCfgActs (TMC_CFG n) old = s.cellStops n := by
  simp [State.cellCfgActs, cell_of_cfgAddress, ho, he]

end

/-! ## Captures (R240, R241) -/

section
variable {s : State} {n : Nat}

theorem cellLatch_none (h : (s.cell n).capReq = false) : s.cellLatch n = s := if_neg (Bool.eq_false_iff.1 h)

variable (h : (s.cell n).capReq = true)
include h

theorem cellLatch_queues (hq : (s.cell n).capQ.length < 4) : s.cellLatch n =
    s.setCell n { s.cell n with capReq := false, capQ := (s.cell n).capQ ++ [s.actRg (TMC_COUNT n)] } :=
  (if_pos h).trans (if_pos hq)

/-- A full queue loses its oldest entry or the new one (R241). -/
theorem cellLatch_loses (hq : 4 ≤ (s.cell n).capQ.length) {q : List Word}
    (he : q = if s.cellCfg n TMC_CFG_CAP_OVW = 1 then (s.cell n).capQ.drop 1 ++ [s.actRg (TMC_COUNT n)] else (s.cell n).capQ)
    {t : State} (ht : t = ((s.setCell n { s.cell n with capReq := false, capQ := q }).latch (TMC_STAT n)
      TMC_STAT_CAP_OVF).count (TMC_CNT n) TMC_CNT_CAP_LOST 1) :
    s.cellLatch n = if s.cellCfg n TMC_CFG_NTF_OVF = 1 then t.raise (512 + n) 4 else t := by
  subst he ht
  exact (if_pos h).trans (if_neg (Nat.not_lt.2 hq))

end

section
variable {s : State} {n : Fin 1024}

theorem regAt_cap (n : Fin 1024) : ∃ d, regAt (TMC_CAP n) = some (d, n.val, 0) ∧ d.base = TMC_CAP 0 := by
  obtain ⟨⟨d, i, j⟩, hr, hd⟩ := Option.map_eq_some_iff.1 (reads_TMC_CAP n)
  simp only [RegDesc.reads, Prod.mk.injEq] at hd
  obtain ⟨⟨base, -, -⟩, rfl, rfl⟩ := hd
  exact ⟨d, hr, base⟩

theorem readReg_cap : s.readReg (TMC_CAP n) = (s.cell n).capQ.headD 0 := by
  have view : ∀ (d : RegDesc) (u : State), d.base = TMC_CAP 0 → (u = s ∨ ∃ w, u = s.setRg (TMC_CAP n) w) →
      u.view d n 0 (TMC_CAP n) = (s.cell n).capQ.headD 0 := by
    intro d u hd hu
    have cells : u.cell n = s.cell n := by obtain rfl | ⟨w, rfl⟩ := hu <;> rfl
    rw [State.view, show blockOf (TMC_CAP n) = some .tmc from cell_block n (by decide) (by decide), hd]
    exact congrArg (fun x : Cell => x.capQ.headD 0) cells
  exact (readReg_view s _ _ _ _ _ _ (reads_TMC_CAP n) _ view).trans BitVec.and_allOnes

/-- A read of CAP takes the oldest capture from the queue (R241). -/
theorem readRegs_cap : s.readRegs (TMC_CAP n) 1 =
    (s.setCell n { s.cell n with capQ := (s.cell n).capQ.drop 1 }, [(s.cell n).capQ.headD 0]) := by
  obtain ⟨d, hr, base⟩ := regAt_cap n
  have waits : s.readWait (TMC_CAP n) = s := by
    rw [State.readWait, hr]
    exact if_neg (by rw [base]; decide)
  have takes : s.readSide (TMC_CAP n) = s.setCell n { s.cell n with capQ := (s.cell n).capQ.drop 1 } := by
    rw [State.readSide, hr]
    exact if_pos base
  rw [State.readRegs, waits, takes, readReg_cap]
  rfl

end

/-! ## Snapshots (R244) -/

theorem opSnapshot_counts {s : State} {arg i j : Nat} {d : RegDesc} (hl : arg < 2 ^ 24) (hb : blockOf arg = some .tmc)
    (hr : regAt arg = some (d, i, j)) (h4 : arg % 4 = 0) :
    s.opSnapshot arg = ends .ok (s.cellSnapshot i).1 (s.cellSnapshot i).2 := by
  have inBlock : ¬(2 ^ 24 ≤ arg ∨ blockOf arg ≠ some .tmc) := by
    rw [hb]
    simpa using hl
  rw [State.opSnapshot, if_neg inBlock, hr]
  exact if_neg (not_not_intro h4)

theorem exec_snapshot {s : State} {h : CmdHead} {arg : BitVec 32} {body : List Byte} {c : CmdRec}
    (hc : h.record 0x05 arg.toNat body = c) (hh : s.hears h c = true) {x : Completion}
    (hs : (s.heard h c).opSnapshot arg.toNat = x) : exec (.snapshot h arg body) s =
      .next ((s.heard h c).replied (s.flightOf h c) x.status x.result x.body) := by
  subst hc
  have runs := runOp_05 (s.heard h (h.record 0x05 arg.toNat body)) (s.flightOf h (h.record 0x05 arg.toNat body)) rfl
  exact congrArg Host.Outcome.next (command_reads s h 0x05 arg body x _ rfl hh (runs.trans (congrArg _ hs)))

/-- Settles O32: the writes by the rules of their registers and by what their checks find, the rest by the laws of the cell. -/
theorem cellRegisters : Obligations.CellRegisters := by
  unfold Obligations.CellRegisters
  intro s n v ha k on off x is put
  refine ⟨fun he => ⟨fun hk => ?reserved, fun hk hg => ?cascade, fun hm hk hg => ?enables⟩,
    fun he => ⟨fun hg => ?joined, fun hg => ?disables⟩, exec_cellCountWrite ha,
    fun hu => ⟨exec_cellPeriodWrite ha (if_pos hu), exec_cellCompareWrite ha (if_pos hu)⟩, fun hu => ?writes,
    fun a h => ⟨fun ho => ?cut, fun ho => ?uncut⟩,
    fun hp => cellLimitActs_compare.trans (if_pos hp), fun hp => cellLimitActs_compare.trans (if_neg hp),
    fun old hc => ⟨fun ho he y hy => cellCfgActs_starts hc ho he hy, fun ho he => cellCfgActs_stops ho he⟩,
    fun he => exec_capture ha (if_pos he), fun he => exec_capture ha (if_neg (Bool.eq_false_iff.1 he)), cellLatch_none,
    cellLatch_queues, fun h hq q t he ht => cellLatch_loses h hq he ht, ?reads, ?snapshot⟩
  case reserved => exact (exec_cellEnable ha he rfl rfl).trans (congrArg Host.Outcome.next (if_pos hk))
  case cascade =>
    exact (exec_cellEnable ha he rfl rfl).trans (congrArg Host.Outcome.next (ite_eq_left_iff.2 fun _ => if_pos ⟨hk, hg⟩))
  case enables =>
    exact (exec_cellEnable ha he rfl rfl).trans (congrArg Host.Outcome.next ((if_neg (by omega)).trans (if_neg hg)))
  case joined => exact (exec_cellDisable ha he rfl rfl).trans (congrArg Host.Outcome.next (if_pos hg))
  case disables => exact (exec_cellDisable ha he rfl rfl).trans (congrArg Host.Outcome.next (if_neg hg))
  case writes =>
    intro p c hp hc
    exact ⟨exec_cellPeriodWrite ha (cellWritePeriod_now hu hp), exec_cellCompareWrite ha (cellWriteCompare_now hu hc)⟩
  case cut => exact (cellLimitActs_period h).trans (if_pos ho)
  case uncut => exact (cellLimitActs_period h).trans (if_neg (Bool.eq_false_iff.1 ho))
  case reads =>
    exact next_inRun ha (congrArg (fun r : State × List Word => r.1.done .ok 0 (bytesOfWords r.2)) readRegs_cap)
  case snapshot =>
    rintro h arg body d j hh hl hb hr h4 r rfl
    have outcome := exec_snapshot rfl hh (opSnapshot_counts hl hb hr h4)
    exact outcome

end Sys2Proof.Machine
end

