-- ==== Sys2Proof/Proofs/DmaRuns.lean ====
section
/-! SUPPORT. DMA channels (R302, R310 to R315): the writes that start and abort a run, the grant of a burst, and a move within the
pool. -/

namespace Sys2Proof.Machine

/-- A register write that energy admission does not judge completes as its unit says. -/
theorem regWrite_answers {s t : State} {a i j b : Nat} {m v rw wb ac : Word} {c : Status}
    (h : (regAt a).map (fun x => (x.1.facts, x.2)) = some ((b, rw, wb, ac), i, j)) (ha : s.awake = true) (hm : wb &&& m ≠ 0)
    (hb : (b != RAS_CTL 0 && b != CMP_CFG && b != CMP_TPL 0 && b != ADC_C_CFG 0) = true)
    (hu : s.unitWrite i j (s.wr a m v) = (t, c)) : s.regWrite a m v = t.done c 0 [] := by
  by_cases ok : c = .ok
  · subst ok
    exact regWrite_ok s a i j b m v rw wb ac t ha h hm (.inl (wr_free s h _ _ hb)) hu
  · exact regWrite_no s a i j b m v rw wb ac t c ha h hm ok hu

/-! ## Starting and aborting a run (R314, R315) -/

theorem dma_block (n : Fin 32) : blockOf (DMA_CTL n) = some .dma := by revert n; decide

section
variable {s : State} {n : Fin 32}

theorem unitWrite_dmaCtl {m v : Word} : s.unitWrite n 0 (s.wr (DMA_CTL n) m v) = s.writeDma n (s.wr (DMA_CTL n) m v) := by
  obtain ⟨-, addr, -, -⟩ := wr_base s _ _ _ _ m v _ _ _ (at_DMA_CTL n)
  exact unitWrite_dma s n 0 _ _ addr (dma_block n)

theorem writeDmaCtl_starts {w : Wr} (hb : w.base = DMA_CTL 0) (hr : s.dmaRuns n = false) (he : w.fld DMA_CTL_EN = 1) :
    s.writeDma n w = if w.fld DMA_CTL_CRC_SEL = 3 then (s, .range) else ((s.plainWrite w).dmaStart n, .ok) := by
  rw [State.writeDma, if_pos hb, if_neg (Bool.eq_false_iff.1 hr), if_pos he]

theorem writeDmaCtl_stops {w : Wr} (hb : w.base = DMA_CTL 0) (hr : s.dmaRuns n = true) (hc : w.changes (~~~dmaFreeMask) = false)
    (he : w.fld DMA_CTL_EN = 0) : s.writeDma n w = ((s.plainWrite w).dmaAbort n, .ok) := by
  rw [State.writeDma, if_pos hb, if_pos hr, if_neg (Bool.eq_false_iff.1 hc), if_pos he]

/-- A plain write changes the register it is made to, and no other. -/
theorem rg_plainWrite_other (s : State) (w : Wr) {a : Nat} (h : a ≠ w.addr) : (s.plainWrite w).rg a = s.rg a := by
  unfold State.plainWrite
  split
  · rfl
  · exact (State.rg_setRg _ _ _ _).trans (if_neg h)

theorem dmaRuns_written {m v : Word} : (s.plainWrite (s.wr (DMA_CTL n) m v)).dmaRuns n = s.dmaRuns n := by
  obtain ⟨-, addr, -, -⟩ := wr_base s _ _ _ _ m v _ _ _ (at_DMA_CTL n)
  have apart : DMA_STAT n ≠ (s.wr (DMA_CTL n) m v).addr := by
    rw [addr, DMA_STAT, DMA_CTL]
    omega
  rw [State.dmaRuns, State.dmaRuns, State.fld, State.fld, rg_plainWrite_other s _ apart]

variable (ha : s.awake = true)
include ha

theorem exec_dmaStart {v : Word} (hr : s.dmaRuns n = false) : exec (.dmaStart n v) s = .next
    (if v.getF DMA_CTL_CRC_SEL = 3 then s.done .range 0 []
     else ((s.plainWrite (s.wr (DMA_CTL n) 0xFFFFFFFF (v.setF DMA_CTL_EN 1))).dmaStart n).done .ok 0 []) := by
  have h := at_DMA_CTL n
  obtain ⟨base, -, -, -⟩ := wr_base s _ _ _ _ 0xFFFFFFFF (v.setF DMA_CTL_EN 1) _ _ _ h
  have starts := writeDmaCtl_starts base hr (on_fld s DMA_CTL_EN h v (by decide) rfl (by decide))
  rw [on_fld_ne s DMA_CTL_EN h v DMA_CTL_CRC_SEL (by decide) (by decide) (by decide) (by decide)] at starts
  split_ifs at starts ⊢ <;>
    exact congrArg Host.Outcome.next (regWrite_answers h ha (by decide) (by decide) (unitWrite_dmaCtl.trans starts))

theorem exec_dmaAbort (hr : s.dmaRuns n = true) : exec (.dmaAbort n) s = .next
    (((s.plainWrite (s.wr (DMA_CTL n) DMA_CTL_EN.mask 0)).dmaEnd n 3 0).done .ok 0 []) := by
  have h := at_DMA_CTL n
  obtain ⟨base, -, -, -⟩ := wr_base s _ _ _ _ DMA_CTL_EN.mask 0 _ _ _ h
  have free := Wr.changes_part (off_changes s DMA_CTL_EN h (by decide)) (k := ~~~dmaFreeMask) (by decide)
  have stops := writeDmaCtl_stops base hr free (off_fld s DMA_CTL_EN h (by decide) (by decide))
  rw [State.dmaAbort, dmaRuns_written, if_pos hr] at stops
  exact congrArg Host.Outcome.next (regWrite_answers h ha (by decide) (by decide) (unitWrite_dmaCtl.trans stops))

end

/-! ## The grant of a burst (R302, R312) -/

section
variable {s : State} {n : Nat}

/-- A descriptor in use lets its channel move, whether at once or on a request (R312). -/
def State.dmaAsks (s : State) (n : Nat) (d : DmaDesc) : Prop := d.req = false ∨ s.dmaRequest n = true

theorem dmaBurst_idle (h : s.dmaRuns n = false) : s.dmaBurst n = s := by
  rw [State.dmaBurst, State.dmaReady, h]
  rfl

theorem dmaBurst_grants (hr : s.dmaReady n = true) {turn : Nat}
    (ht : turn = (List.range 32).foldl (fun k m => Nat.max k (s.dma m).turn) 0 + 1) {t : State}
    (hs : t = (s.dmaReadyState n).setDma n { (s.dmaReadyState n).dma n with turn := turn }) :
    ((t.dma n).desc = none → s.dmaBurst n = t) ∧
      ∀ d, (t.dma n).desc = some d → (t.dmaAsks n d → s.dmaBurst n = t.dmaMove n d) ∧ (¬t.dmaAsks n d → s.dmaBurst n = t) := by
  subst ht hs
  rw [State.dmaBurst, if_pos hr]
  refine ⟨fun hn => ?_, fun d hd => ⟨fun asks => ?_, fun quiet => ?_⟩⟩
  · simp only [hn]
  · simp only [hd]
    exact if_neg (by simpa [State.dmaAsks, imp_iff_or_not, or_comm] using asks)
  · simp only [hd]
    exact if_pos (by simpa [State.dmaAsks] using quiet)

theorem dmaBurst_waits {d : DmaDesc} (hd : (s.dma n).desc = some d) (h : ¬s.dmaAsks n d) : s.dmaBurst n = s := by
  rw [State.dmaAsks, not_or] at h
  rw [State.dmaBurst, State.dmaReady, hd]
  simp [h]

variable (hr : s.dmaRuns n = true)
include hr

/-- A channel that has no descriptor fetches one. -/
theorem dmaBurst_loads (hd : (s.dma n).desc = none) : s.dmaReady n = true ∧ s.dmaReadyState n = s.dmaLoad n := by
  simp [State.dmaReady, State.dmaReadyState, hr, hd]

variable {d : DmaDesc} (hd : (s.dma n).desc = some d)
include hd

theorem dmaBurst_moves (h : s.dmaAsks n d) {turn : Nat}
    (ht : turn = (List.range 32).foldl (fun k m => Nat.max k (s.dma m).turn) 0 + 1) :
    s.dmaBurst n = (s.setDma n { s.dma n with turn := turn }).dmaMove n d := by
  have ready : s.dmaReady n = true := by
    rw [State.dmaReady, hr, hd]
    simpa [State.dmaAsks] using h
  have inUse : s.dmaReadyState n = s := by rw [State.dmaReadyState, hd]
  have granted := (dmaBurst_grants ready ht rfl).2 d
  rw [inUse] at granted
  exact (granted (by simp [hd])).1 h

end

/-! ## A move within the pool (R311, R313) -/

section
variable {s : State} {n : Nat} {d : DmaDesc} {i k : Nat} (hi : i = (s.dma n).moved) (hk : k = Nat.min d.burst (d.len - i))
include hi hk

theorem dmaMove_fails {c : Nat} (h : s.dmaFetch n d i k = (s, .error c)) : s.dmaMove n d = s.dmaEnd n 4 c := by
  subst hi hk
  rw [State.dmaMove]
  simp only [h]
  rfl

theorem dmaMove_moves {bs : List Byte} (hf : s.dmaFetch n d i k = (s, .ok bs)) {t u : State} (ht : s.dmaStore n d i bs = (t, none))
    (hu : u = (t.setRg (DMA_COUNT n) (t.rg (DMA_COUNT n) + BitVec.ofNat 32 k)).setRg (DMA_CRC n)
      (dmaCrc (s.fld (DMA_CTL n) DMA_CTL_CRC_SEL) (s.rg (DMA_CRC n)) bs)) (hl : i + k < d.len) :
    s.dmaMove n d = u.setDma n { u.dma n with moved := i + k } := by
  subst hi hk hu
  rw [State.dmaMove]
  simp only [hf, ht]
  exact if_pos hl

end

section
variable {s : State} {n : Nat} {d : DmaDesc} {i k : Nat}

theorem dmaFetch_pool (hr : dmaIsReg d.src = false) (hm : d.srcMode = 0) : s.dmaFetch n d i k =
    if s.dmaPoolOk n d.src 0 i k = false then (s, .error 2)
    else if s.dmaPoisoned d.src 0 i k = true then (s, .error 3)
    else (s, .ok ((List.range k).map fun j => memRead s.pool (d.src + (i + j)))) := by
  rw [State.dmaFetch, if_neg (Bool.eq_false_iff.1 hr), hm]
  simp only [Bool.not_eq_true]
  rfl

theorem dmaStore_pool (hr : dmaIsReg d.dst = false) (hm : d.dstMode = 0) {bs : List Byte}
    (ho : s.dmaPoolOk n d.dst 0 i bs.length = true) : s.dmaStore n d i bs = (s.poolWrite (d.dst + i) bs, none) := by
  rw [State.dmaStore, if_neg (Bool.eq_false_iff.1 hr), hm, if_neg (not_not_intro ho)]
  rfl

end

/-- Settles O40: the writes by the rule of their register, the bursts by what is granted, the moves by what they fetch and store. -/
theorem dmaRuns : Obligations.DmaRuns := by
  unfold Obligations.DmaRuns
  intro s n v ha x on off turn asks
  refine ⟨fun hr => ⟨fun hc => ?range, fun hc a t hA hT => ?starts, next_inRun ha (dmaBurst_idle hr)⟩,
    fun hr => ⟨exec_dmaAbort ha hr, fun d hd h => next_inRun ha (dmaBurst_moves hr hd h rfl),
      fun d hd h => next_inRun ha (dmaBurst_waits hd h), fun hd t ht => ?loads⟩,
    fun d i k hi hk srcReg dstReg srcMode dstMode => ?moves⟩
  case range => exact (exec_dmaStart ha hr).trans (congrArg Host.Outcome.next (if_pos hc))
  case starts =>
    subst hA hT
    exact (exec_dmaStart ha hr).trans (congrArg Host.Outcome.next (if_neg hc))
  case loads =>
    obtain ⟨ready, loaded⟩ := dmaBurst_loads hr hd
    obtain ⟨none, some⟩ := dmaBurst_grants (t := t) ready rfl (by rw [loaded]; exact ht)
    exact ⟨fun hn => next_inRun ha (none hn),
      fun d hs => ⟨fun h => next_inRun ha ((some d hs).1 h), fun h => next_inRun ha ((some d hs).2 h)⟩⟩
  case moves =>
    have fetched := dmaFetch_pool (s := s) (n := n) (i := i) (k := k) srcReg srcMode
    refine ⟨fun no => ?_, fun held ecc => ?_, fun held whole room left bs t u hb ht hu => ?_⟩
    · exact dmaMove_fails hi hk (fetched.trans (if_pos no))
    · exact dmaMove_fails hi hk (fetched.trans ((if_neg (by simp [held])).trans (if_pos ecc)))
    · rw [if_neg (by simp [held]), if_neg (by simp [whole]), ← hb] at fetched
      have size : bs.length = k := by simp [hb]
      exact dmaMove_moves hi hk fetched ((dmaStore_pool dstReg dstMode (by rw [size]; exact room)).trans (by rw [ht])) hu left

end Sys2Proof.Machine
end

