-- ==== Sys2Proof/Proofs/Notifications.lean ====
section
/-! SUPPORT. Notification sources (R364, R365), their deliveries and repeats (R366 to R369, R372 to R374), and the completions of a
session (R370, R371). -/

namespace Sys2Proof.Machine

theorem satTo_eq_min (top n : Nat) : satTo top n = min top n := by
  unfold satTo
  split <;> omega

/-! ## Raises (R364, R365) -/

section
variable {s : State} {i : Nat}

theorem raise_first (h : (s.src i).pend = false) (v : Word) : s.raise i v.toNat =
    s.setSrc i { s.src i with pend := true, cur := { (s.src i).cur with count := 1, value := v, tick := s.time } } := by
  simp [State.raise, h]

theorem raise_again (h : (s.src i).pend = true) (v : Word) : s.raise i v.toNat =
    s.setSrc i { s.src i with cur := { (s.src i).cur with
      count := min 255 ((s.src i).cur.count + 1), value := if orsValue i then (s.src i).cur.value ||| v else v } } := by
  simp [State.raise, h, satTo_eq_min]

theorem raiseSw_first (h : (s.src i).pend = false) : s.raiseSw i =
    s.setSrc i { s.src i with
      pend := true, cur := { (s.src i).cur with count := 1, value := 0, tick := s.time, sw := true } } := by
  simp [State.raiseSw, h]

theorem raiseSw_again (h : (s.src i).pend = true) : s.raiseSw i =
    s.setSrc i { s.src i with cur := { (s.src i).cur with count := min 255 ((s.src i).cur.count + 1), sw := true } } := by
  simp [State.raiseSw, h, satTo_eq_min]

end

/-- A source's number written whole to a command register stands in the acting bits. -/
theorem getF_sourceNumber (i : BitVec 11) : (i.setWidth 32 &&& 0xFFFFFFFF &&& 0x7FF : Word).getF { lo := 0, width := 11 } = i.toNat := by
  rw [getF_and _ _ _ (by decide) (by decide), getF_and _ _ _ (by decide) (by decide), BitVec.getF, BitVec.toNat_setWidth]
  show i.toNat % 2 ^ 32 / 2 ^ 0 % 2 ^ 11 = _
  have := i.isLt
  omega

section
variable {s : State} (ha : s.awake = true) (i : BitVec 11)
include ha

theorem exec_ntfRaise {t : State} {c : Status} (h : s.ntfRaise i.toNat = (t, c)) : exec (.ntfRaise i) s = .next (t.done c 0 []) := by
  obtain ⟨base, addr, act, -⟩ := wr_base s _ _ _ _ 0xFFFFFFFF (i.setWidth 32) _ _ _ at_NTF_RAISE
  refine congrArg Host.Outcome.next (regWrite_answers at_NTF_RAISE ha (by decide) (by decide) ?_)
  rw [unitWrite_ntf s 0 0 _ _ addr (by decide), State.writeNtf, if_pos base, act, ← h]
  exact congrArg s.ntfRaise (getF_sourceNumber i)

theorem exec_ntfClear : exec (.ntfClear i) s = .next ((s.ntfClear i.toNat).done .ok 0 []) := by
  obtain ⟨base, addr, act, -⟩ := wr_base s _ _ _ _ 0xFFFFFFFF (i.setWidth 32) _ _ _ at_NTF_CLEAR
  refine congrArg Host.Outcome.next (regWrite_answers at_NTF_CLEAR ha (by decide) (by decide) ?_)
  rw [unitWrite_ntf s 0 0 _ _ addr (by decide), State.writeNtf, if_neg (by rw [base]; decide), if_pos base, act]
  exact congrArg (fun k => (s.ntfClear k, Status.ok)) (getF_sourceNumber i)

end

/-! ## Deliveries (R366, R367, R373) -/

section
variable {s : State} {t : Nat}

theorem deliverySelect_none (h : s.deliveryDue t = false) : s.deliverySelect t = s := if_neg (Bool.eq_false_iff.1 h)

theorem deliveryDue_eq : s.deliveryDue t = (!(s.deliverables t).isEmpty && (!s.targetBusy t && decide (s.lastDone t ≠ some s.time) &&
    s.moderated t (s.deliverables t))) := by
  simp [State.deliveryDue, Bool.and_assoc]

theorem deliveryActive_none (h : s.sourcesIn t .delivering = []) : s.deliveryActive t = s := by
  simp [State.deliveryActive, h]

/-- The sources of a delivery become ACTIVE. -/
def State.activate (s : State) (is : List Nat) : State :=
  is.foldl (fun v i => v.setSrc i { v.src i with st := .active, actTick := v.time }) s

theorem deliveryActive_core (h : s.sourcesIn t .delivering ≠ []) (ht : t < 4) :
    s.deliveryActive t = s.activate (s.sourcesIn t .delivering) := by
  simp [State.deliveryActive, h, ht, State.activate]

theorem sendRecords_owned {a : Nat} (ho : (s.sess (t - 4)).owner = some a) (is : List Nat) (resend : Bool) :
    s.sendRecords t is resend = s.send 2 a 2 (t - 4) (is.flatMap fun i => recordBytes i (s.src i).out resend) := by
  rw [State.sendRecords, ho]

theorem deliveryActive_session (h : s.sourcesIn t .delivering ≠ []) (ht : 4 ≤ t) : s.deliveryActive t =
    (s.sendRecords t (s.sourcesIn t .delivering) false).activate (s.sourcesIn t .delivering) := by
  simp [State.deliveryActive, h, Nat.not_lt.2 ht, State.activate]

theorem redeliver_none (h : s.resends t = []) : s.redeliver t = s := by simp [State.redeliver, h]

theorem redeliver_sends (h : s.resends t ≠ []) : s.redeliver t = ((s.resends t).foldl
    (fun v i => v.setSrc i { v.src i with actTick := v.time }) (s.sendRecords t (s.resends t) true)).count (NTF_T_CNT t)
      NTF_T_CNT_RESENT (s.resends t).length := by
  simp [State.redeliver, h]

end

/-- Settles O47: raises by whether the source is pending, deliveries by the sources that are due. -/
theorem notificationRaisesAndDeliveries : Obligations.NotificationRaisesAndDeliveries := by
  unfold Obligations.NotificationRaisesAndDeliveries
  intro s ha
  refine ⟨?raise, ?software, fun t => ⟨fun is hs => ?select, fun is hs => ?active, fun r is hr hs => ?repeats⟩⟩
  case raise =>
    rintro i v x rfl
    exact ⟨fun h => next_inRun ha (raise_first h v), fun h => next_inRun ha (raise_again h v)⟩
  case software =>
    rintro i x rfl
    refine ⟨fun h => exec_ntfRaise ha i (if_pos h), fun h hp => ?_, fun h hp => ?_, fun h => ?_, fun h => ?_⟩
    · exact exec_ntfRaise ha i ((if_neg (Nat.not_le.2 h)).trans (congrArg (·, Status.ok) (raiseSw_first hp)))
    · exact exec_ntfRaise ha i ((if_neg (Nat.not_le.2 h)).trans (congrArg (·, Status.ok) (raiseSw_again hp)))
    · exact (exec_ntfClear ha i).trans (congrArg (fun u : State => Host.Outcome.next (u.done .ok 0 [])) (if_pos h))
    · exact (exec_ntfClear ha i).trans (congrArg (fun u : State => Host.Outcome.next (u.done .ok 0 [])) (if_neg h))
  case select =>
    subst hs
    refine ⟨fun h => next_inRun ha (deliverySelect_none ?_), fun hn hf => next_inRun ha (if_pos ?_)⟩ <;> rw [deliveryDue_eq]
    · obtain h | h := h
      · simp [h]
      · exact (congrArg (!(s.deliverables t).isEmpty && ·) h).trans (Bool.and_false _)
    · exact (congrArg (!(s.deliverables t).isEmpty && ·) hf).trans (by simp [hn])
  case active =>
    subst hs
    refine ⟨fun h => next_inRun ha (deliveryActive_none h), fun h ht => next_inRun ha (deliveryActive_core h ht),
      fun a h ht ho => next_inRun ha ((deliveryActive_session h ht).trans ?_)⟩
    exact congrArg (State.activate · _) (sendRecords_owned ho _ _)
  case repeats =>
    have due : s.resends t = if r = 0 ∨ t.val < 4 then [] else is := by
      rw [hr, hs, hr]
      rfl
    refine ⟨fun h => next_inRun ha (redeliver_none (due.trans ?_)), fun a h0 ht hi ho => next_inRun ha ?_⟩
    · obtain h | h | h := h
      · exact if_pos (.inl h)
      · exact if_pos (.inr h)
      · rw [h, ite_self]
    · rw [if_neg (by omega)] at due
      rw [redeliver_sends (by rwa [due]), due, sendRecords_owned ho]

/-! ## Completions (R370, R371) -/

section
variable {s : State} {n a : Nat}

theorem notifyComplete_range (h : 2048 < a) (hl : a < 2 ^ 32) : s.notifyComplete n a = (s, .range, 0) :=
  if_pos (by simp only [bitsOf, bitOf, decide_eq_true_eq]; omega)

/-- What completes the sources of a list, or counts as a stray where there are none. -/
def State.completeSources (s : State) (n : Nat) (is : List Nat) : State × Status × Nat :=
  if is.isEmpty then (s.count NTF_STRAY NTF_STRAY_STRAY 1, .ok, 0)
  else
    let u := is.foldl (fun v i => v.toIdle i) s
    ({ u with ntfTgt := FMap.set (fun _ => NtfTgt.init) u.ntfTgt (n + 4) { lastDone := some u.time } }, .ok, is.length)

theorem notifyComplete_one (h : a < 2048) :
    s.notifyComplete n a = s.completeSources n ((s.sourcesIn (n + 4) .active).filter fun i => decide (i = a)) := by
  have low : bitOf a 11 = false := by simp only [bitOf, decide_eq_false_iff_not]; omega
  have source : bitsOf a 10 0 = a := by simp only [bitsOf]; omega
  have noHigh : bitsOf a 31 12 = 0 := by simp only [bitsOf]; omega
  rw [State.notifyComplete, if_neg (by simp [low, noHigh]), low, source]
  rfl

theorem notifyComplete_all : s.notifyComplete n 2048 = s.completeSources n (s.sourcesIn (n + 4) .active) := rfl

theorem completeSources_stray : s.completeSources n [] = (s.count NTF_STRAY NTF_STRAY_STRAY 1, .ok, 0) := rfl

theorem completeSources_some {is : List Nat} (h : is ≠ []) {u : State}
    (hu : u = is.foldl (fun v i => v.setSrc i { v.src i with st := .idle, out := NtfRec.init, selTick := 0, actTick := 0 }) s) :
    s.completeSources n is =
      ({ u with ntfTgt := FMap.set (fun _ => NtfTgt.init) u.ntfTgt (n + 4) { lastDone := some u.time } }, .ok, is.length) := by
  subst hu
  exact if_neg (by simpa using h)

end

theorem exec_notifyComplete {s : State} {h : CmdHead} {arg : BitVec 32} {body : List Byte} {c : CmdRec}
    (hc : c = h.record 0x48 arg.toNat body) (hh : s.hears h c = true) {u : State} {st : Status} {k : Nat}
    (hq : (s.heard h c).notifyComplete h.session.val arg.toNat = (u, st, k)) :
    exec (.notifyComplete h arg body) s = .next (u.replied (s.flightOf h c) st k []) := by
  subst hc
  have runs := command_runs s h 0x48 arg body hh
  have ended : (s.heard h _).notifyComplete (s.flightOf h (h.record 0x48 arg.toNat body)).session
      (s.flightOf h (h.record 0x48 arg.toNat body)).cmd.arg = (u, st, k) := hq
  rw [runOp_48 _ _ rfl, ended] at runs
  exact congrArg Host.Outcome.next runs

/-- Settles O48: a completion that finds no source counts one stray, and any other completes what it finds. -/
theorem strayAndOtherCompletions : Obligations.StrayAndOtherCompletions := by
  unfold Obligations.StrayAndOtherCompletions
  intro s h arg body c r fl a n active ha hn hc hh hr hf hs did stray completed
  have answers {u : State} {st : Status} {k : Nat} (hq : r.notifyComplete n a = (u, st, k)) : did u st k := by
    subst ha hn hr hf
    exact exec_notifyComplete hc hh hq
  have small : a < 2 ^ 32 := by rw [ha]; exact arg.isLt
  subst hs
  refine ⟨fun h => answers (notifyComplete_range h small), fun h hi => ⟨answers ?none, by simp [stray], ?count⟩, fun h hi => answers ?noneOfAll,
    fun is his h hi => answers ?one, fun h hi => answers ?all⟩
  case none =>
    rw [notifyComplete_one h, List.filter_eq_nil_iff.2 (by simp; exact fun i hm e => hi (e ▸ hm))]
    exact completeSources_stray
  case count => exact (State.fld_count _ _ _ _ (by decide)).trans (satTo_eq_min _ _)
  case noneOfAll =>
    rw [h, notifyComplete_all, hi]
    exact completeSources_stray
  case one =>
    have found : is ≠ [] := List.ne_nil_of_mem (his ▸ List.mem_filter.2 ⟨hi, by simp⟩)
    rw [notifyComplete_one h, ← his]
    exact completeSources_some found rfl
  case all =>
    rw [h, notifyComplete_all]
    exact completeSources_some hi rfl

end Sys2Proof.Machine
end

