-- ==== Sys2Proof/Proofs/CanaryInstructions.lean ====
section
/-! SUPPORT. The instructions of a Canary run (R450, R453): the registers and flags they write, where a branch leads, and what ends a
run. -/

namespace Sys2Proof.Machine

/-! ## Legal words: a bounded operand is the whole of its field (R453) -/

section
variable {w : CanWord}

theorem canGoes_legal {s : State} {legal : Bool} (h : s.canGoes legal = true) : legal = true := by
  simp only [State.canGoes, Bool.and_eq_true] at h
  exact h.1.1.2

theorem legal_shift (h : w.legal 0x09 = true) : w.imm.toNat % 32 = w.imm.toNat ∧ (w.m = 0 ∨ w.m = 2) := by
  simp only [CanWord.legal, Bool.and_eq_true, Bool.or_eq_true, decide_eq_true_eq] at h
  exact ⟨Nat.mod_eq_of_lt h.2, h.1⟩

theorem legal_filter (h : w.legal 0x0D = true) : w.imm.toNat % 16 = w.imm.toNat := by
  simp only [CanWord.legal, Bool.and_eq_true, decide_eq_true_eq] at h
  exact Nat.mod_eq_of_lt h.2

theorem legal_branch (h : w.legal 0x0E = true) : w.imm.toNat % 256 = w.imm.toNat := by
  simp only [CanWord.legal, Bool.and_eq_true, decide_eq_true_eq] at h
  exact Nat.mod_eq_of_lt h.2

theorem legal_wake (h : w.legal 0x0F = true) : w.imm.toNat % 256 = w.imm.toNat := by
  simp only [CanWord.legal, Bool.and_eq_true, decide_eq_true_eq] at h
  exact Nat.mod_eq_of_lt h.2

theorem legal_raise (h : w.legal 0x10 = true) : w.imm.toNat % 32 = w.imm.toNat := by
  simp only [CanWord.legal, Bool.and_eq_true, decide_eq_true_eq] at h
  exact Nat.mod_eq_of_lt h.2

end

/-- Settles O3: each instruction writes vD, and its operands are those of the word. -/
theorem canaryInstructionsWriteRegisters : Obligations.CanaryInstructionsWriteRegisters := by
  unfold Obligations.CanaryInstructionsWriteRegisters
  intro s w a d b gives
  have writes {i : Instr} {op : Nat} {f : State → Word} {r : Word} (hi : exec i s = .next (s.canWrites w op f))
      (hf : s.canGoes (w.legal op) = true → f s.canStepped = r) : gives i op r :=
    fun h => hi.trans (congrArg Host.Outcome.next (canWrites_goes s w op f r h (hf h)))
  refine ⟨writes rfl fun _ => rfl, writes rfl fun _ => rfl, writes rfl fun _ => rfl, writes rfl fun _ => rfl,
    writes rfl fun _ => rfl, writes rfl fun _ => rfl, writes rfl fun _ => rfl, writes rfl fun _ => rfl,
    writes rfl fun h => ?shr, writes rfl fun h => ?abs, writes rfl fun h => ?filt⟩
  case shr =>
    obtain ⟨small, m | m⟩ := legal_shift (canGoes_legal h) <;> rw [small, m] <;> rfl
  case abs =>
    show (if a.msb = true then -a else a) = _
    simp [BitVec.msb_eq_toInt]
  case filt =>
    rw [legal_filter (canGoes_legal h)]
    rfl

/-! ## How a run goes on, and how it ends -/

section
variable {s : State}

theorem canIssue_legal {legal : Bool} {act : State → State} (hr : s.canary.run ≠ .idle) (hl : legal = true) :
    s.canIssue legal act = (act s.canStepped).canSettle := by
  rw [State.canIssue, if_neg hr, if_pos hl]
  rfl

/-- A run that has instructions left, and a word to execute, goes on (R450). -/
theorem canSettle_goes (hs : s.canary.steps < canSteps) (hw : s.canWordAt s.canary.pc ≠ 0) : s.canSettle = s := by
  rw [State.canSettle, if_neg (Nat.not_le.2 hs), if_neg hw, ite_self]

theorem canIssue_ends {legal : Bool} {act : State → State} (hr : s.canary.run ≠ .idle) (hl : legal = true) {t : State}
    (ht : act s.canStepped = t.canEnd) : s.canIssue legal act = t.canEnd := by
  rw [canIssue_legal hr hl, ht]
  exact if_pos rfl

theorem fld_canEnd (a : Nat) (f : Fld) : s.canEnd.fld a f = s.fld a f := rfl

theorem raise_canStepped (i v : Nat) : s.canStepped.raise i v = (s.raise i v).canStepped := rfl

variable {w : CanWord}

theorem exec_canBr (hr : s.canary.run ≠ .idle) (hl : w.legal 0x0E = true) (hs : s.canary.steps + 1 < 256) {pc : Nat}
    (hp : pc = if s.canCond w.m.toNat then w.imm.toNat else s.canary.pc + 1) (hw : s.canWordAt pc ≠ 0) :
    exec (.canBr w) s = .next { s with canary := { s.canary with pc := pc, steps := s.canary.steps + 1 } } := by
  have moved : (if s.canStepped.canCond w.m.toNat then
      { s.canStepped with canary := { s.canStepped.canary with pc := w.imm.toNat % 256 } } else s.canStepped) =
      { s with canary := { s.canary with pc := pc, steps := s.canary.steps + 1 } } := by
    rw [legal_branch hl, hp, show s.canStepped.canCond w.m.toNat = s.canCond w.m.toNat from rfl]
    split_ifs <;> rfl
  exact congrArg Host.Outcome.next
    ((canIssue_legal hr hl).trans ((congrArg State.canSettle moved).trans (canSettle_goes hs hw)))

/-- A WAKE in a test run shows its code (R457). -/
theorem exec_canWake_test (hl : w.legal 0x0F = true) (hr : s.canary.run = .test) :
    Gives (.canWake w) s fun t => t.canary.run = .idle ∧ t.fld CAN_TEST CAN_TEST_WOKE = 1 ∧
      t.fld CAN_TEST CAN_TEST_CODE = w.imm.toNat ∧ t.power = s.power := by
  have small : w.imm.toNat < 256 := legal_wake hl ▸ Nat.mod_lt _ (by decide)
  have shown : s.canStepped.canWakeCode (w.imm.toNat % 256) =
      ((s.canStepped.setFld CAN_TEST CAN_TEST_WOKE 1).setFld CAN_TEST CAN_TEST_CODE w.imm.toNat).canEnd := by
    rw [legal_wake hl]
    exact if_pos hr
  refine ⟨_, congrArg Host.Outcome.next (canIssue_ends (by simp [hr]) hl shown), rfl, (fld_canEnd _ _).trans ?_,
    (fld_canEnd _ _).trans ?_, rfl⟩
  · exact (State.fld_setFld_ne _ _ _ _ _ (by decide) (by decide)).trans (State.fld_setFld _ _ _ _ (by decide))
  · exact (State.fld_setFld _ _ _ _ (by decide)).trans (Nat.mod_eq_of_lt small)

/-- A WAKE in Watch is recorded where no wake event of the Canary stands (R455). -/
theorem exec_canWake_watch (hl : w.legal 0x0F = true) (hr : s.canary.run = .watch) (hp : s.power = .watch)
    (hf : s.fld CAN_WAKE CAN_WAKE_SOURCE = 0) :
    Gives (.canWake w) s fun t => t.canary.run = .idle ∧ t.fld CAN_WAKE CAN_WAKE_SOURCE = canProgram ∧
      t.fld CAN_WAKE CAN_WAKE_CODE = w.imm.toNat ∧ t.wakeAt.isSome = true := by
  have small : w.imm.toNat < 256 := legal_wake hl ▸ Nat.mod_lt _ (by decide)
  have woke : s.canStepped.canWakeCode (w.imm.toNat % 256) =
      ((((s.canStepped.setFld CAN_WAKE CAN_WAKE_SOURCE canProgram).setFld CAN_WAKE CAN_WAKE_SHAFT 0).setFld CAN_WAKE
        CAN_WAKE_CODE w.imm.toNat).wakeEvent wakeCanary).canEnd := by
    rw [legal_wake hl]
    refine (if_neg (by simp [State.canStepped, hr])).trans (congrArg State.canEnd ((if_pos hp).trans ?_))
    exact congrArg (State.wakeEvent · wakeCanary) (if_pos (.inl hf))
  refine ⟨_, congrArg Host.Outcome.next (canIssue_ends (by simp [hr]) hl woke), rfl,
    (fld_canEnd _ _).trans ((wakeEvent_fld _ _ CAN_WAKE _ (by decide)).trans ?_),
    (fld_canEnd _ _).trans ((wakeEvent_fld _ _ CAN_WAKE _ (by decide)).trans ?_), wakeEvent_at _ _ hp⟩
  · rw [State.fld_setFld_ne _ _ _ _ _ (by decide) (by decide), State.fld_setFld_ne _ _ _ _ _ (by decide) (by decide)]
    exact State.fld_setFld _ _ _ _ (by decide)
  · exact (State.fld_setFld _ _ _ _ (by decide)).trans (Nat.mod_eq_of_lt small)

/-- A RAISE leaves the run as it stands. -/
theorem exec_canRaise {t : State} (h : s.canGoes (w.legal 0x10) = true)
    (ht : s.canStepped.canRaise (1792 + w.imm.toNat) (s.canV w.s.toNat) = t.canStepped) (hc : t.canary.run = s.canary.run)
    (hs : t.canary.steps = s.canary.steps) (hp : t.canary.pc = s.canary.pc) (hg : t.canary.prog = s.canary.prog) :
    exec (.canRaise w) s = .next t.canStepped := by
  have raised : s.canStepped.canRaise (1792 + w.imm.toNat % 32) (s.canStepped.canV w.s.toNat) = t.canStepped := by
    rw [legal_raise (canGoes_legal h)]
    exact ht
  refine congrArg Host.Outcome.next ((canIssue_goes s _ _ h ?_ ?_ ?_ ?_).trans raised) <;> rw [raised]
  · exact hc
  · exact congrArg (· + 1) hs
  · exact congrArg (· + 1) hp
  · exact hg

end

/-- Settles O4: the comparisons by their flags, and each way of going on or ending by its law. -/
theorem canaryFlagsBranchesAndEnds : Obligations.CanaryFlagsBranchesAndEnds := by
  unfold Obligations.CanaryFlagsBranchesAndEnds
  intro s w a b
  refine ⟨⟨fun h => ?cmp, fun h => ?tst, fun hr hl hs => exec_canBr hr hl hs rfl⟩, fun hr => ⟨fun hl => ?ends,
    exec_canWake_test, exec_canWake_watch, fun h hw => ?latches, fun h ht => ?raises⟩⟩
  case cmp => exact congrArg Host.Outcome.next (canCompares_goes s w 0x0B _ _ _ _ h rfl BitVec.slt_eq_decide)
  case tst => exact congrArg Host.Outcome.next (canCompares_goes s w 0x0C _ _ _ _ h rfl rfl)
  case ends => exact congrArg Host.Outcome.next (canIssue_ends hr hl rfl)
  case latches => exact exec_canRaise h (if_neg (by simp [State.canStepped, hw])) rfl rfl rfl rfl
  case raises =>
    have kept : (s.raise (1792 + w.imm.toNat) (s.canV w.s.toNat).toNat).canary = s.canary := by simp
    exact exec_canRaise h ((if_pos ht).trans (raise_canStepped _ _)) (by rw [kept]) (by rw [kept]) (by rw [kept])
      (by rw [kept])

end Sys2Proof.Machine
end

