-- ==== Sys2Proof/Proofs/PwmPeriods.lean ====
section
/-! SUPPORT. The periods of a PWM generator (R251 to R269): its boundaries and resynchronisations, the writes that enable and disable
it, and what a write does as the next tick begins. -/

namespace Sys2Proof.Machine

/-! ## From a command to a generator -/

section
variable {s : State} {n : Fin 24} {a b : Nat} {rw wb ac m v : Word}
  (h : (regAt a).map (fun x => (x.1.facts, x.2)) = some ((b, rw, wb, ac), n.val, 0)) (hc : blockOf a = some .pwm)
include h hc

theorem regWrite_pwm (ha : s.awake = true) (hm : wb &&& m ≠ 0)
    (hb : (b != RAS_CTL 0 && b != CMP_CFG && b != CMP_TPL 0 && b != ADC_C_CFG 0) = true) {t : State} {c : Status}
    (hq : s.writePwm n (s.wr a m v) = (t, c)) : s.regWrite a m v = t.done c 0 [] := by
  obtain ⟨-, addr, -, -⟩ := wr_base s a n 0 b m v rw wb ac h
  exact regWrite_answers h ha hm hb ((unitWrite_pwm s n 0 _ a addr hc).trans hq)

end

theorem pwmCfg_block (n : Fin 24) : blockOf (PWM_CFG n) = some .pwm := by revert n; decide
theorem pwmCmd_block (n : Fin 24) : blockOf (PWM_CMD n) = some .pwm := by revert n; decide

section
variable {s : State} {n : Fin 24}

theorem was_pwmCfg {m v : Word} (f : Fld) : (s.wr (PWM_CFG n) m v).was f = s.fld (PWM_CFG n) f :=
  congrArg (BitVec.getF · f) (wr_old_pwm s _ _ _ _ m v _ _ _ (at_PWM_CFG n) (pwmCfg_block n))

/-! ## The commands of PWMn_CMD (R259, R262, R265) -/

/-- What one command bit, written alone, makes of the generator. -/
def State.pwmCommanded (s : State) (n : Nat) (f : Fld) : State × Status :=
  if f = PWM_CMD_RESYNC then (s.pwmResync n, .ok)
  else if f = PWM_CMD_TRIP_FORCE then (s.pwmTrip n (s.pwmTripActive n), .ok)
  else s.pwmTripClr n

theorem exec_pwmCommand (ha : s.awake = true) {f : Fld} (hf : f ∈ [PWM_CMD_RESYNC, PWM_CMD_TRIP_FORCE, PWM_CMD_TRIP_CLR]) :
    s.regAct (PWM_CMD n) f = (s.pwmCommanded n f).1.done (s.pwmCommanded n f).2 0 [] := by
  obtain ⟨base, -, act, -⟩ := wr_base s _ _ _ _ f.mask f.mask _ _ _ (at_PWM_CMD n)
  have bit (g : Fld) : (s.wr (PWM_CMD n) f.mask f.mask).acts g = decide ((f.mask &&& f.mask &&& 0x7 : Word).getF g ≠ 0) := by
    rw [Wr.acts, act]
  have commanded : s.writePwm n (s.wr (PWM_CMD n) f.mask f.mask) = s.pwmCommanded n f := by
    rw [State.writePwm, if_neg (by rw [base]; decide), if_pos base, State.pwmCommand, bit, bit, bit]
    simp only [List.mem_cons, List.not_mem_nil, or_false] at hf
    obtain rfl | rfl | rfl := hf <;> rfl
  refine regWrite_pwm (at_PWM_CMD n) (pwmCmd_block n) ha ?_ (by decide) commanded
  simp only [List.mem_cons, List.not_mem_nil, or_false] at hf
  obtain rfl | rfl | rfl := hf <;> decide

/-! ## Setting and clearing EN (R266, R269) -/

/-- What a write of the configuration leaves: the word as it stood acts until the tick ends (R266). -/
def State.pwmConfigured (s : State) (n : Nat) (m v : Word) : State :=
  (s.keepActing (PWM_CFG n)).plainWrite (s.wr (PWM_CFG n) m v)

theorem writePwm_cfg {m v : Word} : s.writePwm n (s.wr (PWM_CFG n) m v) = s.writePwmCfg n (s.wr (PWM_CFG n) m v) := by
  obtain ⟨base, -, -, -⟩ := wr_base s _ _ _ _ m v _ _ _ (at_PWM_CFG n)
  exact if_pos base

theorem writePwmCfg_enables {m v : Word} (hw : (s.wr (PWM_CFG n) m v).was PWM_CFG_EN = 0)
    (hf : (s.wr (PWM_CFG n) m v).fld PWM_CFG_EN = 1) : s.writePwmCfg n (s.wr (PWM_CFG n) m v) =
    if s.pwmCfgOk n (s.wr (PWM_CFG n) m v).new then
      ((if s.pwmEn n then (s.pwmConfigured n m v).pwmStops n else s.pwmConfigured n m v).pwmEnable n, .ok)
    else (s, .range) := by
  obtain ⟨-, addr, -, -⟩ := wr_base s _ _ _ _ m v _ _ _ (at_PWM_CFG n)
  rw [State.writePwmCfg, if_neg (by simp [hw]), if_pos ⟨hw, hf⟩, addr]
  rfl

theorem writePwmCfg_keeps {m v : Word} (hw : (s.wr (PWM_CFG n) m v).was PWM_CFG_EN = 1)
    (hc : (s.wr (PWM_CFG n) m v).changes (~~~pwmFreeMask) = false) :
    s.writePwmCfg n (s.wr (PWM_CFG n) m v) = (s.pwmConfigured n m v, .ok) := by
  obtain ⟨-, addr, -, -⟩ := wr_base s _ _ _ _ m v _ _ _ (at_PWM_CFG n)
  rw [State.writePwmCfg, if_neg (by simp [hc]), if_neg (by simp [hw]), addr]
  rfl

variable (ha : s.awake = true)
include ha

theorem exec_pwmEnable {v : Word} (he : s.fld (PWM_CFG n) PWM_CFG_EN = 0) {w : Wr}
    (hw : w = s.wr (PWM_CFG n) 0xFFFFFFFF (v.setF PWM_CFG_EN 1)) {t : State} (ht : t = (s.keepActing (PWM_CFG n)).plainWrite w) :
    exec (.pwmEnable n v) s = .next (if s.pwmCfgOk n w.new then ((if s.pwmEn n then t.pwmStops n else t).pwmEnable n).done .ok 0 []
      else s.done .range 0 []) := by
  subst hw ht
  have h := at_PWM_CFG n
  have sets := writePwm_cfg.trans (writePwmCfg_enables (s := s) (n := n) ((was_pwmCfg PWM_CFG_EN).trans he)
    (on_fld s PWM_CFG_EN h v (by decide) rfl (by decide)))
  split_ifs at sets ⊢ <;>
    exact congrArg Host.Outcome.next (regWrite_pwm h (pwmCfg_block n) ha (by decide) (by decide) sets)

theorem exec_pwmDisable (he : s.fld (PWM_CFG n) PWM_CFG_EN = 1) : exec (.pwmDisable n) s =
    .next (((s.keepActing (PWM_CFG n)).plainWrite (s.wr (PWM_CFG n) PWM_CFG_EN.mask 0)).done .ok 0 []) := by
  have h := at_PWM_CFG n
  have free := Wr.changes_part (off_changes s PWM_CFG_EN h (by decide)) (k := ~~~pwmFreeMask) (by decide)
  exact congrArg Host.Outcome.next (regWrite_pwm h (pwmCfg_block n) ha (by decide) (by decide)
    (writePwm_cfg.trans (writePwmCfg_keeps ((was_pwmCfg PWM_CFG_EN).trans he) free)))

end

/-! ## Points of the period (R251, R254, R259, R260) -/

section
variable {s : State} {n : Nat}

theorem pwmCut_due {k : Nat} (h : (s.pwm n).cutAt = some k) (hk : k ≤ s.time) :
    s.pwmCut n = ((s.latch (PWM_STAT n) PWM_STAT_PERIOD_CUT).raise (pwmSource n) 16).pwmBoundaryNow n :=
  if_pos (by simp [State.pwmCutDue, h, hk])

theorem pwmOffer_due {k : Nat} (h : (s.pwm n).adcAt = some k) (hk : k ≤ s.time) :
    s.pwmOffer n = (s.setPwm n { s.pwm n with adcAt := none }).adcOfferPwm (s.pwmCfg n PWM_CFG_ADC_CONV) n :=
  if_pos (by simp [State.pwmOfferDue, h, hk])

theorem pwmResync_again (h : s.pwmEn n = false ∨ (s.pwm n).resyncTick = some s.time) : s.pwmResync n = s :=
  if_neg (by obtain h | h := h <;> simp [h])

theorem pwmResync_counts (he : s.pwmEn n = true) (ht : (s.pwm n).resyncTick ≠ some s.time) {u : State}
    (hu : u = (s.setPwm n { s.pwm n with resyncTick := some s.time }).count (PWM_CNT2 n) PWM_CNT2_RESYNCS 1) :
    s.pwmResync n = if (s.pwm n).bndTick = some s.time then u else u.pwmBoundaryNow n := by
  subst hu
  exact if_pos ⟨he, ht⟩

section
variable (hl : s.pwmLocks n = true)
include hl

theorem pwmAngleLock_first (hk : (s.pwm n).lockK = none) :
    s.pwmAngleLock n = s.setPwm n { s.pwm n with lockK := some (s.pwmLattice n) } := by
  simp [State.pwmAngleLock, State.pwmLockDue, hl, hk]

theorem pwmAngleLock_reached {k : Int} (hk : (s.pwm n).lockK = some k) (hn : k < s.pwmLattice n) :
    s.pwmAngleLock n = (s.setPwm n { s.pwm n with lockK := some (s.pwmLattice n) }).pwmResync n := by
  simp [State.pwmAngleLock, State.pwmLockDue, hl, hk, hn]

theorem pwmAngleLock_before {k : Int} (hk : (s.pwm n).lockK = some k) (hn : s.pwmLattice n ≤ k) : s.pwmAngleLock n = s := by
  simp [State.pwmAngleLock, State.pwmLockDue, hl, hk, hn]

theorem pwmEn_of_locks : s.pwmEn n = true := by
  simp only [State.pwmLocks, Bool.and_eq_true] at hl
  exact hl.1.1.1.1

end

/-! ## As the next tick begins (R254, R266) -/

theorem pwmActs_period : s.pwmActs (PWM_PERIOD n) =
    if s.pwmEn n ∧ s.pwmPeriod n ≤ (s.pwm n).count then s.setPwm n { s.pwm n with cutAt := some s.time } else s := by
  have number : (PWM_PERIOD n - 0x140000) / 0x100 = n := by
    unfold PWM_PERIOD
    omega
  rw [State.pwmActs, number]
  exact if_pos rfl

theorem pwmActs_cfg : s.pwmActs (PWM_CFG n) = if s.pwmEn n then s else s.pwmStops n := by
  have number : (PWM_CFG n - 0x140000) / 0x100 = n := by
    unfold PWM_CFG
    omega
  have period : PWM_CFG n ≠ PWM_PERIOD n := by
    unfold PWM_CFG PWM_PERIOD
    omega
  have duty : PWM_CFG n ≠ PWM_DUTY n := by
    unfold PWM_CFG PWM_DUTY
    omega
  rw [State.pwmActs, number]
  simp only [period, duty, if_false]
  split_ifs with h1 h2 h2
  · simp [h2] at h1
  · rfl
  · rfl
  · simp [h2] at h1

end

/-- Settles O33: the writes by the rules of their registers, the points of the period and the next tick by their own laws. -/
theorem pwmPeriods : Obligations.PwmPeriods := by
  unfold Obligations.PwmPeriods
  intro s n v ha x on off stops point boundary resync locked
  have commanded := exec_pwmCommand (n := n) ha (f := PWM_CMD_RESYNC) (by decide)
  have resynced {t : State} (he : t.pwmEn n = true) (ht : (t.pwm n).resyncTick ≠ some t.time) : t.pwmResync n = resync t :=
    pwmResync_counts he ht rfl
  have sameEn : locked.pwmEn n = s.pwmEn n := rfl
  have sameTick : (locked.pwm n).resyncTick = x.resyncTick := by
    rw [show locked.pwm n = { x with lockK := some (s.pwmLattice n) } from (State.pwm_setPwm _ _ _ _).trans (if_pos rfl)]
  refine ⟨fun h => next_inRun ha (if_pos h), fun h t ht => next_inRun ha ?mid, fun a h hk => next_inRun ha (pwmCut_due h hk),
    fun he ht => ?resync, fun h => ?again, fun hl => ⟨fun hk => next_inRun ha (pwmAngleLock_first hl hk),
      fun k hk hn ht => next_inRun ha ?reached, fun k hk hn ht => next_inRun ha ?twice,
      fun k hk hn => next_inRun ha (pwmAngleLock_before hl hk hn)⟩,
    fun a h hk => next_inRun ha (pwmOffer_due h hk), fun he => ⟨fun hc => ?range, fun hc l hl => ?enables⟩,
    exec_pwmDisable ha, fun he => ⟨pwmActs_cfg.trans (if_neg (by simp [he])), pwmActs_period.trans (if_neg (by simp [he]))⟩,
    fun he => ⟨pwmActs_cfg.trans (if_pos he), fun hp => pwmActs_period.trans (if_pos ⟨he, hp⟩),
      fun hp => pwmActs_period.trans (if_neg fun k => Nat.not_le.2 hp k.2)⟩⟩
  case mid =>
    subst ht
    exact if_pos h
  case resync => exact congrArg Host.Outcome.next (commanded.trans (congrArg (State.done · .ok 0 []) (resynced he ht)))
  case again => exact congrArg Host.Outcome.next (commanded.trans (congrArg (State.done · .ok 0 []) (pwmResync_again h)))
  case reached =>
    exact (pwmAngleLock_reached hl hk hn).trans (resynced (sameEn.trans (pwmEn_of_locks hl)) (fun k => ht (sameTick.symm.trans k)))
  case twice => exact (pwmAngleLock_reached hl hk hn).trans (pwmResync_again (.inr (sameTick.trans ht)))
  case range => exact (exec_pwmEnable ha he rfl rfl).trans (congrArg Host.Outcome.next (if_neg (Bool.eq_false_iff.1 hc)))
  case enables =>
    subst hl
    exact (exec_pwmEnable ha he rfl rfl).trans (congrArg Host.Outcome.next (if_pos hc))

end Sys2Proof.Machine
end

