-- ==== Sys2Proof/Proofs/PwmOutputs.lean ====
section
/-! SUPPORT. The pulses of a PWM generator (R252 to R258) and its trips (R261 to R265). -/

namespace Sys2Proof.Machine

/-! ## Pulses (R252, R256 to R258) -/

section
variable {s : State} {n : Nat} {h : Bool}

section
variable (he : s.pwmEn n = true)
include he

theorem pwmRefEdge_falls (hr : (s.pwm n).ref = true) (hf : s.pwmFalls n = true) (hn : (s.pwm n).fell = false) : s.pwmRefEdge n =
    ((s.setPwm n { s.pwm n with ref := false, fell := (s.pwm n).down || !s.pwmCentre n }).pwmRefEnds n true).pwmRefAsks n false :=
  (if_pos (by simp [State.pwmRefDue, he, hr, hf, hn])).trans (if_pos hr)

theorem pwmRefEdge_rises (hr : (s.pwm n).ref = false) (hf : s.pwmRises n = true) (ho : (s.pwm n).rose = false)
    (hn : (s.pwm n).fell = false) : s.pwmRefEdge n =
    ((s.setPwm n { s.pwm n with ref := true, rose := true }).pwmRefEnds n false).pwmRefAsks n true :=
  (if_pos (by simp [State.pwmRefDue, he, hr, hf, ho, hn])).trans (if_neg (Bool.eq_false_iff.1 hr))

end

/-- The pulse that would start now is shorter than MINPULSE (R257). -/
def State.pwmShort (s : State) (n : Nat) (h : Bool) : Prop := ∃ k, s.pwmLength n h = some k ∧ k < s.pwmMin n

theorem pwmShort_iff : (match s.pwmLength n h with
    | some k => decide (k < s.pwmMin n)
    | none => false) = true ↔ s.pwmShort n h := by
  unfold State.pwmShort
  cases s.pwmLength n h <;> simp

section
variable {a : Nat} (ha : ((s.pwm n).out h).startAt = some a) (ht : a ≤ s.time) (hi : ((s.pwm n).out (!h)).active = false)
  (hd : ((s.pwm n).out (!h)).lastEnd + s.pwmDead n h ≤ s.time)
include ha ht hi hd

theorem pwmStartDue_of : s.pwmStartDue n h = true := by simp [State.pwmStartDue, ha, ht, hi, hd]

theorem pwmDeadExpiry_stretched (ho : ((s.pwm n).out h).stretched = true) {t : State} (hs : t = s.pwmStart n h) :
    s.pwmDeadExpiry n h = t.setPwmOut n h { (t.pwm n).out h with holdEnd := some (t.time + t.pwmMin n) } := by
  subst hs
  exact (if_pos (pwmStartDue_of ha ht hi hd)).trans (if_pos ho)

variable (ho : ((s.pwm n).out h).stretched = false)
include ho

theorem pwmDeadExpiry_whole (hl : ¬s.pwmShort n h) : s.pwmDeadExpiry n h = s.pwmStart n h :=
  (if_pos (pwmStartDue_of ha ht hi hd)).trans
    ((if_neg (Bool.eq_false_iff.1 ho)).trans (if_neg fun short => hl (pwmShort_iff.1 short)))

theorem pwmDeadExpiry_stretches (hl : s.pwmShort n h)
    (hs : s.pwmCfg n PWM_CFG_SHORT = 1 ∧ ((s.pwm n).out h).delayed = false) {t : State}
    (hu : t = (s.pwmStart n h).count (PWM_CNT0 n) PWM_CNT0_STRETCHED 1) : s.pwmDeadExpiry n h =
    t.setPwmOut n h { (t.pwm n).out h with stretched := true, holdEnd := some (t.time + t.pwmMin n) } := by
  subst hu
  exact (if_pos (pwmStartDue_of ha ht hi hd)).trans
    ((if_neg (Bool.eq_false_iff.1 ho)).trans ((if_pos (pwmShort_iff.2 hl)).trans (if_pos hs)))

theorem pwmDeadExpiry_drops (hl : s.pwmShort n h)
    (hs : ¬(s.pwmCfg n PWM_CFG_SHORT = 1 ∧ ((s.pwm n).out h).delayed = false)) : s.pwmDeadExpiry n h =
    (s.setPwmOut n h { (s.pwm n).out h with startAt := none }).count (PWM_CNT0 n) PWM_CNT0_DROPPED 1 :=
  (if_pos (pwmStartDue_of ha ht hi hd)).trans
    ((if_neg (Bool.eq_false_iff.1 ho)).trans ((if_pos (pwmShort_iff.2 hl)).trans (if_neg hs)))

end

/-- The end of a hold is the pulse's end where the reference asks for it. -/
theorem pwmHoldEnd_due {a : Nat} (ha : ((s.pwm n).out h).holdEnd = some a) (ht : a ≤ s.time) : s.pwmHoldEnd n h =
    if (s.pwm n).ref = h then s.setPwmOut n h { (s.pwm n).out h with holdEnd := none, stretched := false } else s.pwmEnd n h := by
  rw [State.pwmHoldEnd, if_pos (by simp [State.pwmHoldDue, ha, ht])]
  cases h <;> cases (s.pwm n).ref <;> rfl

/-! ## Trips (R261 to R265) -/

section
variable {i : Nat} {pin : Bool} {level : Bool} (hl : level = (pin != s.flag (PWM_TRIP_CFG i) PWM_TRIP_CFG_POL))
include hl

theorem tripAccept_stays (ha : (s.trip i).active = level) : s.tripAccept i pin = s := if_pos (ha.trans hl)

variable (ha : (s.trip i).active ≠ level) {t : State} (ht : t = s.setTrip i { active := level, since := s.time })
include ha ht

theorem tripAccept_takes : s.tripAccept i pin = if level then
    State.forEach 24 (fun u g => (u.pwmDropClear g i).pwmJudgeTrip g) (t.count (PWM_TRIP_CNT i) PWM_TRIP_CNT_ACCEPT 1) else t := by
  subst hl ht
  exact if_neg ha

end

/-- When blanking has ended, or a selected input stands active that no window blanks (R262). -/
theorem pwmBlankDue_iff : s.pwmBlankDue n = true ↔ ((s.pwm n).blanking = true ∧ (s.pwm n).blankEnd ≤ s.time) ∨
    (s.trips ≠ [] ∧ s.pwmTripped n = false ∧ ¬((s.pwm n).blanking = true ∧ s.time < (s.pwm n).blankEnd) ∧ s.pwmTripActive n ≠ 0) := by
  simp [State.pwmBlankDue, State.pwmBlanked, and_assoc, imp_iff_not_or]

theorem pwmTrip_again (h : s.pwmTripped n = true) (src : Nat) : s.pwmTrip n src = s := if_pos h

theorem pwmBlankEnd_due (hd : s.pwmBlankDue n = true) {t : State} (ht : t = s.setPwm n { s.pwm n with blanking := false }) :
    s.pwmBlankEnd n = if t.pwmTripActive n ≠ 0 then t.pwmTrip n (t.pwmTripActive n) else t := by
  have unblanked : t.pwmBlanked n = false := by
    rw [ht, State.pwmBlanked, State.pwm_setPwm, if_pos rfl]
    rfl
  rw [State.pwmBlankEnd, if_pos hd, ← ht, State.pwmJudgeTrip, unblanked]
  simp

end

/-- Settles O34: the pulses by what is due on their outputs, the trips by what their inputs show. -/
theorem pwmOutputsAndTrips : Obligations.PwmOutputsAndTrips := by
  unfold Obligations.PwmOutputsAndTrips
  intro s n h i pin ha x o trip late stretch blankOver
  have forced := exec_pwmCommand (n := n) ha (f := PWM_CMD_TRIP_FORCE) (by decide)
  have cleared {t : State} {c : Status} (hq : s.pwmTripClr n = (t, c)) : exec (.tripClr n) s = .next (t.done c 0 []) := by
    have commanded : s.pwmCommanded n PWM_CMD_TRIP_CLR = (t, c) := hq
    have written := exec_pwmCommand (n := n) ha (f := PWM_CMD_TRIP_CLR) (by decide)
    rw [commanded] at written
    exact congrArg Host.Outcome.next written
  have trips {t : State} (ht : t.pwmTripped n = false) (src : Nat) : t.pwmTrip n src = trip t src :=
    if_neg (Bool.eq_false_iff.1 ht)
  refine ⟨fun he => ⟨fun hr hf hn => next_inRun ha (pwmRefEdge_falls he hr hf hn),
      fun hr hf ho hn => next_inRun ha (pwmRefEdge_rises he hr hf ho hn)⟩,
    fun a hs ht hi hd => ⟨fun ho t hu => next_inRun ha (pwmDeadExpiry_stretched hs ht hi hd ho hu),
      fun ho hl => next_inRun ha (pwmDeadExpiry_whole hs ht hi hd ho hl),
      fun ho hl hc t hu => next_inRun ha (pwmDeadExpiry_stretches hs ht hi hd ho hl hc hu),
      fun ho hl hc => next_inRun ha (pwmDeadExpiry_drops hs ht hi hd ho hl hc)⟩,
    fun a hs ht => ⟨fun hr => next_inRun ha ((pwmHoldEnd_due hs ht).trans (if_neg hr)),
      fun hr => next_inRun ha ((pwmHoldEnd_due hs ht).trans (if_pos hr))⟩,
    fun hp => next_inRun ha (tripAccept_stays rfl hp), fun hp t ht => ⟨fun hq => ?falls, fun hq => ?rises⟩,
    fun hb => next_inRun ha (if_neg (mt pwmBlankDue_iff.1 hb)), fun hb t ht => ⟨fun hq => ?blanked, fun hq hn => ?found⟩,
    fun hn => ⟨?force, ?clearIdle⟩, fun hn => ⟨?forceAgain, fun hq => ?clears, fun hq => ?refused⟩⟩
  case falls => exact next_inRun ha ((tripAccept_takes rfl hp ht).trans (if_neg (by simp [hq])))
  case rises => exact next_inRun ha ((tripAccept_takes rfl hp ht).trans (if_pos (by simp [hq])))
  case blanked =>
    refine next_inRun ha ((pwmBlankEnd_due (pwmBlankDue_iff.2 hb) ht).trans ?_)
    obtain hq | hq := hq
    · exact if_neg (not_not_intro hq)
    · rw [pwmTrip_again hq, ite_self]
  case found => exact next_inRun ha ((pwmBlankEnd_due (pwmBlankDue_iff.2 hb) ht).trans ((if_pos hq).trans (trips hn _)))
  case force => exact congrArg Host.Outcome.next (forced.trans (congrArg (State.done · .ok 0 []) (trips hn _)))
  case forceAgain => exact congrArg Host.Outcome.next (forced.trans (congrArg (State.done · .ok 0 []) (pwmTrip_again hn _)))
  case clearIdle => exact cleared (if_neg (Bool.eq_false_iff.1 hn))
  case clears => exact cleared ((if_pos hn).trans (if_neg (not_not_intro hq)))
  case refused => exact cleared ((if_pos hn).trans (if_pos hq))

end Sys2Proof.Machine
end

