-- ==== Sys2Proof/Proofs/AdcSequences.lean ====
section
/-! SUPPORT. The sequences of a converter (R286 to R298): their triggers, delays, samples and conversions, and the results that
enter the queue. -/

namespace Sys2Proof.Machine

/-! ## The command register of a converter (R288, R293) -/

theorem adcCmd_block (c : Fin 4) : blockOf (ADC_C_CMD c) = some .adc := by revert c; decide

/-- What one command bit, written alone, makes of the converter. -/
def State.adcCommanded (s : State) (c : Nat) (f : Fld) : State :=
  if f = ADC_C_CMD_REG_TRIG then s.adcAsk c false else if f = ADC_C_CMD_INJ_TRIG then s.adcAsk c true else s.adcFlush c

theorem exec_adcCommand {s : State} {c : Fin 4} (ha : s.awake = true) {f : Fld}
    (hf : f ∈ [ADC_C_CMD_REG_TRIG, ADC_C_CMD_INJ_TRIG, ADC_C_CMD_FLUSH]) :
    s.regAct (ADC_C_CMD c) f = (s.adcCommanded c f).done .ok 0 [] := by
  obtain ⟨base, addr, act, -⟩ := wr_base s _ _ _ _ f.mask f.mask _ _ _ (at_ADC_C_CMD c)
  have bit (g : Fld) : (s.wr (ADC_C_CMD c) f.mask f.mask).acts g = decide ((f.mask &&& f.mask &&& 0x7 : Word).getF g ≠ 0) := by
    rw [Wr.acts, act]
  have commanded : s.writeAdc c (s.wr (ADC_C_CMD c) f.mask f.mask) = (s.adcCommanded c f, .ok) := by
    rw [State.writeAdc, if_neg (by rw [base]; decide), if_pos base, bit, bit, bit]
    simp only [List.mem_cons, List.not_mem_nil, or_false] at hf
    obtain rfl | rfl | rfl := hf <;> rfl
  refine regWrite_answers (at_ADC_C_CMD c) ha ?_ (by decide) ((unitWrite_adc s c 0 _ _ addr (adcCmd_block c)).trans commanded)
  simp only [List.mem_cons, List.not_mem_nil, or_false] at hf
  obtain rfl | rfl | rfl := hf <;> decide

section
variable {s : State} {c : Nat} {inj : Bool}

/-! ## Triggers (R289) -/

section
variable (ht : ((s.adc c).seq inj).trigAt ≠ some s.time) {t : State}
  (hs : t = s.setAdcSeq c inj { (s.adc c).seq inj with trigAt := some s.time })
include ht hs

theorem adcTrigger_starts (hb : s.adcBusy c inj = false) (hd : ((s.adc c).seq inj).doneAt ≠ some s.time) (he : s.adcEn c = true) :
    s.adcTrigger c inj = t.adcArm c inj s.time := by
  subst hs
  exact (if_neg ht).trans (if_neg (by simp [hb, hd, he]))

theorem adcTrigger_lost (h : s.adcBusy c inj = true ∨ ((s.adc c).seq inj).doneAt = some s.time ∨ s.adcEn c = false) :
    s.adcTrigger c inj =
      (t.count (ADC_C_CNT0 c) (if inj then ADC_C_CNT0_INJ_LOST else ADC_C_CNT0_REG_LOST) 1).raise (124 + c) 2 := by
  subst hs
  exact (if_neg ht).trans (if_pos (by simpa [or_assoc] using h))

end

/-! ## The end of a delay (R289 to R291) -/

theorem adcDelayExpiry_none (h : ∀ u, ((s.adc c).seq inj).phase = .delayed u → s.time < u) : s.adcDelayExpiry c inj = s := by
  refine if_neg ?_
  rw [State.adcDelayDue]
  cases hp : ((s.adc c).seq inj).phase <;> simp
  exact h _ hp

theorem adcDelayExpiry_due {u : Nat} (hp : ((s.adc c).seq inj).phase = .delayed u) (hu : u ≤ s.time) :
    s.adcDelayExpiry c inj = if inj then s.adcInjDue c else s.adcRegDue c :=
  if_pos (by simp [State.adcDelayDue, hp, hu])

/-- A class B sequence whose deadline has come is held no more (R291). -/
theorem adcHeldNow_iff : (s.adcHeld c = true ∧ ¬s.adcAtDeadline c = true) ↔ s.adcHeld c = true ∧
    ¬(s.fld (ADC_C_REG c) ADC_C_REG_CLASS = 1 ∧
      (s.adc c).reg.trigTick + s.fld (ADC_C_REG_DLY c) ADC_C_REG_DLY_DEADLINE * ticksUs ≤ s.time) := by
  simp [State.adcAtDeadline]

theorem adcTaken_iff : s.adcTaken c = true ↔ (s.adc c).inj.stepping = true ∨ (s.adc c).tail.isSome = true := by
  simp [State.adcTaken]

/-- The regular sequence waits, and the injected one begins; `again` says whether the regular step has to start again. -/
def State.adcBreaksIn (s : State) (c : Nat) (again : Bool) : State :=
  (s.setAdcSeq c false { (s.adc c).reg with phase := .waiting, restarted := again || (s.adc c).reg.restarted }).adcBegin c true

section
variable (hn : (s.adc c).tail = none)
include hn

theorem adcInjDue_free (hr : (s.adc c).reg.stepping = false) : s.adcInjDue c = s.adcBegin c true := by
  rw [State.adcInjDue, hn, if_neg (by simp)]
  rw [AdcSeq.stepping] at hr
  cases hp : (s.adc c).reg.phase <;> simp [hp] at hr ⊢

/-- A regular step that starts in this very tick starts after the injected one (R298). -/
theorem adcInjDue_acquiring {h : Nat} (hp : (s.adc c).reg.phase = .acquiring h) : s.adcInjDue c =
    if h = s.time + (s.adcStep c false (s.adc c).reg.step).1 then s.adcBreaksIn c false
    else if s.flag (ADC_C_CFG c) ADC_C_CFG_INJ_ABORT = true then s.adcBreaksIn c true
    else s.setAdcSeq c true { (s.adc c).inj with phase := .waiting } := by
  rw [State.adcInjDue, hn, if_neg (by simp), hp]
  rfl

theorem adcInjDue_converting {e : Nat} (hp : (s.adc c).reg.phase = .converting e) : s.adcInjDue c =
    if s.flag (ADC_C_CFG c) ADC_C_CFG_INJ_ABORT = true ∧ s.time < e then s.adcBreaksIn c true
    else s.setAdcSeq c true { (s.adc c).inj with phase := .waiting } := by
  rw [State.adcInjDue, hn, if_neg (by simp), hp]
  rfl

end

/-! ## Samples and conversions (R286, R287, R290, R296) -/

theorem adcHold_none {v : Int} (h : ∀ k, ((s.adc c).seq inj).phase = .acquiring k → s.time < k) : s.adcHold c inj v = s := by
  rw [State.adcHold]
  cases hp : ((s.adc c).seq inj).phase with
  | acquiring k => exact if_neg (Nat.not_le.2 (h k hp))
  | _ => rfl

/-- The end of a step that a disable left in conversion. -/
theorem adcConvEnd_tail {e : Nat} {r : AdcEntry} (ht : (s.adc c).tail = some (e, r)) (hr : r.inj = inj) (he : e ≤ s.time)
    {t : State} (hs : t = s.setAdc c { s.adc c with wait := (s.adc c).wait ++ [r], tail := none }) : s.adcConvEnd c inj =
    if (s.adc c).inj.phase = .waiting then t.adcBegin c true else t.adcResume c := by
  have due : s.adcTailDue c inj = true := by simp [State.adcTailDue, ht, hr, he]
  rw [State.adcConvEnd, if_pos due, State.adcTailEnd, ht, hs]
  rfl

section
variable (hd : s.adcTailDue c inj = false)
include hd

theorem adcConvEnd_none (h : ∀ e, ((s.adc c).seq inj).phase = .converting e → s.time < e) : s.adcConvEnd c inj = s := by
  have idle : s.adcConvDue c inj = false := by
    rw [State.adcConvDue, hd]
    cases hp : ((s.adc c).seq inj).phase <;> simp
    exact h _ hp
  rw [State.adcConvEnd, if_neg (by simp [hd]), if_neg (by simp [idle])]

variable {e : Nat} (hp : ((s.adc c).seq inj).phase = .converting e) (he : e ≤ s.time) {t : State}
  (ht : t = s.setAdc c { s.adc c with wait := (s.adc c).wait ++ [((s.adc c).seq inj).sample] })
include hp he ht

theorem adcConvEnd_due {n : State}
    (hn : n = t.setAdcSeq c inj { (s.adc c).seq inj with step := ((s.adc c).seq inj).step + 1, phase := .waiting }) :
    s.adcConvEnd c inj =
      if ((s.adc c).seq inj).step < s.adcLen c inj then
        if inj then n.adcBegin c true
        else if (n.adc c).inj.phase = .waiting then n.adcBegin c true
        else n.adcBegin c false
      else if inj then (t.setAdcSeq c true { (s.adc c).seq inj with phase := .idle, closing := true }).adcResume c
      else if (t.adc c).inj.phase = .waiting then (t.adcBegin c true).adcRegEnd c
      else t.adcRegEnd c := by
  have due : s.adcConvDue c inj = true := by simp [State.adcConvDue, hp, he]
  subst ht hn
  exact (if_neg (by simp [hd])).trans (if_pos due)

end

/-! ## Results (R292, R293, R295) -/

theorem adcEnter_none (h : (s.adc c).wait = []) : s.adcEnter c = s := by rw [State.adcEnter, h]

theorem adcDeadlineDue_iff : s.adcDeadlineDue c = true ↔ (s.adc c).reg.phase = .held ∧
    s.fld (ADC_C_REG c) ADC_C_REG_CLASS = 1 ∧
      (s.adc c).reg.trigTick + s.fld (ADC_C_REG_DLY c) ADC_C_REG_DLY_DEADLINE * ticksUs ≤ s.time := by
  simp [State.adcDeadlineDue, State.adcAtDeadline]

end

/-- Settles O37: each happening by the phase in which it finds its sequence. -/
theorem adcSequences : Obligations.AdcSequences := by
  unfold Obligations.AdcSequences
  intro s c inj v ha x q trig deadline classB heldNow taken abort begins breaksIn
  refine ⟨?asks, fun h => if_pos h, fun h t ht => ⟨adcTrigger_starts h ht, adcTrigger_lost h ht⟩,
    fun h => next_inRun ha (adcDelayExpiry_none h), fun u hp hu => ?regular, fun u hp hu => ?injected,
    fun h => next_inRun ha (adcHold_none h), fun h hp hu => ?sample,
    fun e r ht hr he t hs => next_inRun ha (adcConvEnd_tail ht hr he hs), fun hd h => next_inRun ha (adcConvEnd_none hd h),
    fun hd e hp he t n ht hn => ?converted, fun h => next_inRun ha (adcEnter_none h), fun e rest hw => ?enters,
    fun h t ht => next_inRun ha ?released, fun h => next_inRun ha (if_neg (mt adcDeadlineDue_iff.1 h))⟩
  case asks =>
    cases inj
    · exact congrArg Host.Outcome.next (exec_adcCommand ha (by decide))
    · exact congrArg Host.Outcome.next (exec_adcCommand ha (by decide))
  case regular =>
    have due : s.adcDelayExpiry c false = s.adcRegDue c := adcDelayExpiry_due hp hu
    refine ⟨fun ht => next_inRun ha (due.trans (if_pos (adcTaken_iff.2 ht))), fun ht hh => next_inRun ha (due.trans ?_),
      fun ht hh => next_inRun ha (due.trans ?_)⟩ <;> refine (if_neg (mt adcTaken_iff.1 ht)).trans ?_
    · exact if_pos (adcHeldNow_iff.2 hh)
    · exact if_neg (mt adcHeldNow_iff.1 hh)
  case injected =>
    have due : s.adcDelayExpiry c true = s.adcInjDue c := adcDelayExpiry_due hp hu
    refine ⟨fun ht => next_inRun ha (due.trans (if_pos ht)), fun ht hr => next_inRun ha (due.trans (adcInjDue_free ht hr)),
      fun ht h hq => ?_, fun ht e hq => ?_⟩
    · have falls := due.trans (adcInjDue_acquiring ht hq)
      exact ⟨fun h1 => next_inRun ha (falls.trans (if_pos h1)),
        fun h1 h2 => next_inRun ha (falls.trans ((if_neg h1).trans (if_pos h2))),
        fun h1 h2 => next_inRun ha (falls.trans ((if_neg h1).trans (if_neg (Bool.eq_false_iff.1 h2))))⟩
    · have falls := due.trans (adcInjDue_converting ht hq)
      refine ⟨fun h1 h2 => next_inRun ha (falls.trans (if_pos ⟨h1, h2⟩)), fun h1 => next_inRun ha (falls.trans (if_neg ?_))⟩
      rintro ⟨h2, h3⟩
      obtain h1 | h1 := h1
      · exact absurd h2 (Bool.eq_false_iff.1 h1)
      · omega
  case sample =>
    have acquiring : ((s.adc c).seq inj).phase = .acquiring h := hp
    refine next_inRun ha ?_
    rw [State.adcHold]
    simp only [acquiring]
    exact if_pos hu
  case converted =>
    have ended := adcConvEnd_due hd hp he ht hn
    refine ⟨fun hl => ⟨fun h => next_inRun ha (ended.trans ((if_pos hl).trans ?_)), fun h1 h2 =>
      next_inRun ha (ended.trans ((if_pos hl).trans ((if_neg (by simp [h1])).trans (if_neg h2))))⟩, fun hl =>
      ⟨fun h => next_inRun ha (ended.trans ((if_neg (Nat.not_lt.2 hl)).trans (if_pos h))), fun h =>
        next_inRun ha (ended.trans ((if_neg (Nat.not_lt.2 hl)).trans (if_neg (by simp [h]))))⟩⟩
    obtain h | h := h
    · exact if_pos h
    · exact ite_eq_left_iff.2 fun _ => if_pos h
  case enters =>
    have waits : (s.adc c).wait = e :: rest := hw
    refine next_inRun ha ?_
    rw [State.adcEnter]
    simp only [waits]
    by_cases full : 64 ≤ (s.adc c).queue.length
    · simp only [x, adcDepth, full, decide_true, not_true_eq_false, false_and, if_false, if_true, Bool.not_eq_true, Bool.true_eq_false]
    · simp only [x, adcDepth, full, decide_false, not_false_eq_true, true_and, if_false, Bool.not_eq_true, Bool.false_eq_true]
  case released =>
    subst ht
    exact if_pos (adcDeadlineDue_iff.2 h)

end Sys2Proof.Machine
end

