-- ==== Sys2Proof/Proofs/AdcRegisters.lean ====
section
/-! SUPPORT. A converter's configuration register, which enables and disables it, and its queue of results (R288, R293, R296,
R444). -/

namespace Sys2Proof.Machine

/-! ## Enabling and disabling a converter (R296, R444) -/

theorem adcCfg_block (c : Fin 4) : blockOf (ADC_C_CFG c) = some .adc := by revert c; decide

section
variable {s : State} {c : Fin 4}

theorem unitWrite_adcCfg {m v : Word} :
    s.unitWrite c 0 (s.wr (ADC_C_CFG c) m v) = s.writeAdcCfg c (s.wr (ADC_C_CFG c) m v) := by
  obtain ⟨base, addr, -, -⟩ := wr_base s _ _ _ _ m v _ _ _ (at_ADC_C_CFG c)
  exact (unitWrite_adc s c 0 _ _ addr (adcCfg_block c)).trans (if_pos base)

theorem adcCfg_was {m v : Word} : (s.wr (ADC_C_CFG c) m v).was ADC_C_CFG_EN = s.fld (ADC_C_CFG c) ADC_C_CFG_EN := by
  rw [Wr.was, wr_old_adc s _ _ _ _ m v _ _ _ (at_ADC_C_CFG c) (adcCfg_block c), State.viewAdc, if_neg (by decide),
    if_neg (by decide), State.fld]

theorem adcCfg_judged {m v : Word} : (s.wr (ADC_C_CFG c) m v).needsEnergy = true := by
  rw [Wr.needsEnergy, (wr_base s _ _ _ _ _ _ _ _ _ (at_ADC_C_CFG c)).1]
  rfl

section
variable {v : Word} {w : Wr} (hw : w = s.wr (ADC_C_CFG c) 0xFFFFFFFF (v.setF ADC_C_CFG_EN 1)) (he : s.adcEn c = false)
include hw he

theorem unitWrite_adcOn : s.unitWrite c 0 w =
    if s.adcCfgOk c w.new = true then
      (if ((s.plainWrite w).adcSrc c false).1 = 4 then (s.plainWrite w).adcArm c false ((s.plainWrite w).time + 1)
        else s.plainWrite w, .ok)
    else (s, .range) := by
  subst hw
  have was : (s.wr (ADC_C_CFG c) 0xFFFFFFFF (v.setF ADC_C_CFG_EN 1)).was ADC_C_CFG_EN ≠ 1 := by
    rw [adcCfg_was, State.fld_of_not_flag s _ _ he]
    decide
  exact unitWrite_adcCfg.trans ((if_neg was).trans
    (if_pos (on_fld s ADC_C_CFG_EN (at_ADC_C_CFG c) v (by decide) rfl (by decide))))

variable (ha : s.awake = true)
include ha

theorem exec_adcEnable_refused (hk : s.adcCfgOk c w.new = false) : exec (.adcEnable c v) s = .next (s.done .range 0 []) := by
  have refused := (unitWrite_adcOn hw he).trans (if_neg (Bool.eq_false_iff.1 hk))
  subst hw
  exact congrArg Host.Outcome.next (regWrite_no s _ _ _ _ _ _ _ _ _ s _ ha (at_ADC_C_CFG c) (by decide) (by decide) refused)

/-- A converter whose checks pass is enabled where energy admission allows it (R296, R444). -/
theorem exec_adcEnable (hk : s.adcCfgOk c w.new = true) {u t : State} (hu : u = s.plainWrite w)
    (ht : t = if (u.adcSrc c false).1 = 4 then u.adcArm c false (u.time + 1) else u) :
    exec (.adcEnable c v) s = .next (if s.admits t = true then t.done .ok 0 [] else s.budgetRefused.done .budget 0 []) := by
  have enabled : s.unitWrite c 0 w = (t, .ok) := by
    subst hu ht
    exact (unitWrite_adcOn hw he).trans (if_pos hk)
  subst hw
  refine congrArg Host.Outcome.next ?_
  split
  case isTrue hd => exact regWrite_ok s _ _ _ _ _ _ _ _ _ t ha (at_ADC_C_CFG c) (by decide) (.inr hd) enabled
  case isFalse hd =>
    exact regWrite_budget s _ _ _ _ _ _ _ _ _ t ha (at_ADC_C_CFG c) (by decide) adcCfg_judged enabled (Bool.eq_false_iff.2 hd)

end

/-- The write that clears EN alone changes nothing that is fixed while the converter is enabled. -/
theorem unitWrite_adcOff (he : s.adcEn c = true) : s.unitWrite c 0 (s.wr (ADC_C_CFG c) ADC_C_CFG_EN.mask 0) =
    ((s.plainWrite (s.wr (ADC_C_CFG c) ADC_C_CFG_EN.mask 0)).adcDisable c, .ok) := by
  have was := (adcCfg_was (s := s) (c := c) (m := ADC_C_CFG_EN.mask) (v := 0)).trans (State.fld_of_flag s _ _ rfl he)
  have free := Wr.changes_part (off_changes s ADC_C_CFG_EN (at_ADC_C_CFG c) (by decide)) (k := ~~~adcFreeMask) (by decide)
  exact unitWrite_adcCfg.trans ((if_pos was).trans ((if_neg (Bool.eq_false_iff.1 free)).trans
    (if_pos (off_fld s ADC_C_CFG_EN (at_ADC_C_CFG c) (by decide) (by decide)))))

/-! ## The queue (R293) -/

/-- A word of the oldest entry, or 0 where the queue is empty (R293). -/
def Adc.fifoWord (x : Adc) (k : Nat) : Word := match x.queue with
  | [] => 0
  | e :: _ => e.word k

theorem adcFifo_block (c k : Fin 4) : blockOf (ADC_C_FIFO c k) = some .adc := by revert c k; decide

theorem readReg_adcFifo (k : Fin 4) : s.readReg (ADC_C_FIFO c k) = (s.adc c).fifoWord k := by
  refine (readReg_view s _ _ _ _ _ _ (reads_ADC_C_FIFO c k) ((s.adc c).fifoWord k) ?_).trans BitVec.and_allOnes
  intro d u hd hu
  have queue : (u.adc c).fifoWord k = (s.adc c).fifoWord k := by
    obtain rfl | ⟨w, rfl⟩ := hu <;> rfl
  rw [State.view, adcFifo_block, ← queue]
  show u.viewAdc d.base c k _ = _
  rw [State.viewAdc, hd, if_neg (by decide), if_pos rfl]
  rfl

/-- Reading the last word of the window removes the entry, and reading another has no side effect (R293). -/
theorem readSide_adcFifo (k : Fin 4) : s.readWait (ADC_C_FIFO c k) = s ∧
    s.readSide (ADC_C_FIFO c k) = if k.val = 3 then s.adcPop c else s := by
  have described := reads_ADC_C_FIFO c k
  rw [State.readWait, State.readSide]
  cases hr : regAt (ADC_C_FIFO c k) with
  | none => simp [hr] at described
  | some x =>
    obtain ⟨d, i, j⟩ := x
    simp only [hr, Option.map_some, Option.some.injEq, Prod.mk.injEq, RegDesc.reads] at described
    obtain ⟨⟨base, -, -⟩, rfl, rfl⟩ := described
    exact ⟨if_neg (by rw [base]; decide), (if_neg (by rw [base]; decide)).trans (if_pos base)⟩

theorem readRegs_adcFifo (k : Fin 4) (hk : k.val ≠ 3) (n : Nat) : s.readRegs (ADC_C_FIFO c k) (n + 1) =
    ((s.readRegs (ADC_C_FIFO c (k + 1 : Nat)) n).1,
      (s.adc c).fifoWord k :: (s.readRegs (ADC_C_FIFO c (k + 1 : Nat)) n).2) := by
  obtain ⟨waits, keeps⟩ := readSide_adcFifo (s := s) (c := c) k
  have next : ADC_C_FIFO c k + 4 = ADC_C_FIFO c (k + 1 : Nat) := by
    rw [ADC_C_FIFO, ADC_C_FIFO]
    omega
  rw [State.readRegs, waits, keeps, readReg_adcFifo, if_neg hk, next]

theorem readRegs_adcFifo_last : s.readRegs (ADC_C_FIFO c (3 : Fin 4)) 1 = (s.adcPop c, [(s.adc c).fifoWord 3]) := by
  obtain ⟨waits, removes⟩ := readSide_adcFifo (s := s) (c := c) 3
  rw [State.readRegs, waits, removes, readReg_adcFifo]
  rfl

theorem readRegs_fifo : s.readRegs (ADC_C_FIFO c (0 : Fin 4)) 4 =
    (s.adcPop c, [(s.adc c).fifoWord 0, (s.adc c).fifoWord 1, (s.adc c).fifoWord 2, (s.adc c).fifoWord 3]) := by
  rw [readRegs_adcFifo 0 (by decide)]
  have w1 := readRegs_adcFifo (s := s) (c := c) 1 (by decide) 2
  have w2 := readRegs_adcFifo (s := s) (c := c) 2 (by decide) 1
  have w3 := readRegs_adcFifo_last (s := s) (c := c)
  simp only [Fin.isValue, Fin.val_zero, Fin.val_one, Fin.val_two, zero_add, Nat.reduceAdd] at w1 w2 w3 ⊢
  rw [w1, w2]
  exact congrArg (fun r : State × List Word => (r.1, _ :: _ :: _ :: r.2)) w3

end

/-- Settles O38: the write of EN by what the checks and admission find, and the queue word by word. -/
theorem adcRegisters : Obligations.AdcRegisters := by
  unfold Obligations.AdcRegisters
  intro s c v ha x w off word
  refine ⟨congrArg Host.Outcome.next (exec_adcCommand ha (by decide)), ?reads,
    fun he => ⟨fun hk => exec_adcEnable_refused rfl he ha hk, fun hk u t hu ht => ?enables⟩, fun he t ht hd => ?disables⟩
  case reads =>
    refine next_inRun ha ?_
    exact congrArg (fun r : State × List Word => r.1.done .ok 0 (bytesOfWords r.2)) readRegs_fifo
  case enables =>
    have outcome := exec_adcEnable rfl he ha hk hu ht
    exact ⟨fun hd => outcome.trans (congrArg Host.Outcome.next (if_pos hd)),
      fun hd => outcome.trans (congrArg Host.Outcome.next (if_neg (Bool.eq_false_iff.1 hd)))⟩
  case disables =>
    exact congrArg Host.Outcome.next (regWrite_ok s _ _ _ _ _ _ _ _ _ t ha (at_ADC_C_CFG c) (by decide) (.inr hd)
      (ht ▸ unitWrite_adcOff he))

end Sys2Proof.Machine
end

