-- ==== Sys2Proof/Proofs/PoolCommands.lean ====
section
/-! SUPPORT. The commands on the pool: CLAIM_SET's three operations, POOL_WRITE and POOL_READ, and the pool's own happenings
(R300 to R309). -/

namespace Sys2Proof.Machine

/-! ## The records (R305, R309) -/

section
variable {s : State} {h : CmdHead} {c : CmdRec} {arg : BitVec 32} {body : List Byte}

theorem effect_claimSet (r : State) (ho : c.opcode = 0x32) : r.effect true false c =
    ((r.claimSet c.arg c.body).1, ends (r.claimSet c.arg c.body).2.1 (r.claimSet c.arg c.body).2.2 []) := by
  simp [State.effect, ho]

theorem effect_poolWrite (r : State) (ho : c.opcode = 0x30) : r.effect true false c =
    ((r.poolWriteCmd c.arg c.body).1, ends (r.poolWriteCmd c.arg c.body).2 0 []) := by
  simp [State.effect, ho]

theorem alone_poolWrite (ho : c.opcode = 0x30) (ha : c.alone = .ok) : poolRangeOk c.arg c.body.length = true := by
  simpa [CmdRec.alone, ho] using ha

theorem alone_claimSet (ho : c.opcode = 0x32) (ha : c.alone = .ok) : claimArgsOk c.arg c.body = true ∧
    (bitsOf c.arg 11 8 = 0 → ¬(leAt c.body 4 4 < leAt c.body 0 4 ∨ poolBlocks < leAt c.body 4 4)) := by
  have checked : claimArgsOk c.arg c.body = true ∧
      (bitsOf c.arg 11 8 = 0 → leAt c.body 0 4 ≤ leAt c.body 4 4 ∧ leAt c.body 4 4 ≤ poolBlocks) := by
    simpa [CmdRec.alone, ho] using ha
  exact ⟨checked.1, fun h0 => by obtain ⟨h1, h2⟩ := checked.2 h0; omega⟩

/-- A CLAIM_SET that is taken. -/
theorem claimSet_runs (hc : c = h.record 0x32 arg.toNat body) (k : s.takes h c = true) {u : State} {st : Status} {n : Nat}
    (hq : (s.heard h c).claimSet c.arg c.body = (u, st, n)) :
    Host.Outcome.next (s.command h 0x32 arg body) = (.next (u.ended (s.flightOf h c) st n []) : Host.Outcome State Fault Refusal) := by
  have did : (s.heard h c).effect true false c = (u, ends st n []) :=
    (effect_claimSet _ (hc ▸ rfl)).trans (congrArg (fun q : State × Status × Nat => (q.1, ends q.2.1 q.2.2 [])) hq)
  subst hc
  exact congrArg Host.Outcome.next (command_ends s h 0x32 arg body u (ends st n []) _ rfl k (runOp_32 _ _ rfl) did
    (show (0x32 : Nat) ≠ 3 by decide) (show (0x32 : Nat) ≠ 4 by decide) rfl)

/-- A POOL_WRITE that is taken. -/
theorem poolWrite_runs (hc : c = h.record 0x30 arg.toNat body) (k : s.takes h c = true) {u : State} {st : Status}
    (hq : (s.heard h c).poolWriteCmd arg.toNat body = (u, st)) :
    exec (.poolWrite h arg body) s = .next (u.ended (s.flightOf h c) st 0 []) := by
  subst hc
  have did : (s.heard h (h.record 0x30 arg.toNat body)).effect true false (h.record 0x30 arg.toNat body) = (u, ends st 0 []) :=
    (effect_poolWrite _ rfl).trans (congrArg (fun q : State × Status => (q.1, ends q.2 0 [])) hq)
  exact congrArg Host.Outcome.next (command_ends s h 0x30 arg body u (ends st 0 []) _ rfl k (runOp_30 _ _ rfl) did
    (show (0x30 : Nat) ≠ 3 by decide) (show (0x30 : Nat) ≠ 4 by decide) rfl)

/-- A POOL_READ that is heard. -/
theorem poolRead_replies (hc : c = h.record 0x31 arg.toNat body) (k : s.hears h c = true) {st : Status} {bs : List Byte}
    (hq : (s.heard h c).opPoolRead arg.toNat body = ends st 0 bs) :
    exec (.poolRead h arg body) s = .next ((s.heard h c).replied (s.flightOf h c) st 0 bs) := by
  subst hc
  exact congrArg Host.Outcome.next
    (command_reads s h 0x31 arg body (ends st 0 bs) _ rfl k ((runOp_31 _ _ rfl).trans (congrArg (State.completes _ _) hq)))

end

/-! ## CLAIM_SET (R305 to R307) -/

theorem claimArg_fields {k op : Nat} (hk : k < 64) (ho : op < 16) :
    bitsOf (k + 256 * op) 5 0 = k ∧ bitsOf (k + 256 * op) 11 8 = op := by
  simp only [bitsOf]
  omega

section
variable {r : State} {a : Nat} {body : List Byte} (ha : claimArgsOk a body = true)
include ha

theorem claimSet_configure (ho : bitsOf a 11 8 = 0) : r.claimSet a body =
    ((r.claimConfigure (bitsOf a 5 0) (leAt body 0 4) (leAt body 4 4)).1,
      (r.claimConfigure (bitsOf a 5 0) (leAt body 0 4) (leAt body 4 4)).2, 0) := by
  simp [State.claimSet, ha, ho]

theorem claimSet_alloc (ho : bitsOf a 11 8 = 1) : r.claimSet a body = r.claimAlloc (bitsOf a 5 0) (leAt body 0 4) := by
  simp [State.claimSet, ha, ho]

theorem claimSet_free (ho : bitsOf a 11 8 = 2) : r.claimSet a body =
    ((r.claimFree (bitsOf a 5 0) (leAt body 0 4) (leAt body 4 4)).1,
      (r.claimFree (bitsOf a 5 0) (leAt body 0 4) (leAt body 4 4)).2, 0) := by
  simp [State.claimSet, ha, ho]

end

section
variable {r : State} {k m n : Nat}

theorem claimAlloc_refused (h : r.allocAdmits k m = false) : r.claimAlloc k m = (r.allocRefused k, .quota, 0) :=
  if_neg (Bool.eq_false_iff.1 h)

theorem claimAlloc_full (h : r.allocAdmits k m = true) (hl : lowestRun m 0 r.extents = none) :
    r.claimAlloc k m = (r.allocRefused k, .nospace, 0) := by
  rw [State.claimAlloc, if_pos h, hl]

theorem claimAlloc_found (h : r.allocAdmits k m = true) {b : Nat} (hl : lowestRun m 0 r.extents = some b) :
    r.claimAlloc k m = ({ r with extents := putExtent { first := b, count := m, claim := k } r.extents }, .ok, b) := by
  rw [State.claimAlloc, if_pos h, hl]

theorem claimConfigure_short (hq : ¬(n < m ∨ poolBlocks < n))
    (h : r.reserve k < m ∧ r.unreserved < Nat.max (r.held k) m - Nat.max (r.held k) (r.reserve k)) :
    r.claimConfigure k m n = (r, .nospace) :=
  (if_neg hq).trans (if_pos h)

theorem claimConfigure_sets (hq : ¬(n < m ∨ poolBlocks < n))
    (h : ¬(r.reserve k < m ∧ r.unreserved < Nat.max (r.held k) m - Nat.max (r.held k) (r.reserve k))) {t : State}
    (ht : t = (r.setFld (POL_CL_RES k) POL_CL_RES_RESERVE m).setFld (POL_CL_QUOTA k) POL_CL_QUOTA_QUOTA n) :
    r.claimConfigure k m n =
      (if n < t.held k then (t.setFlag (POL_CL_HELD k) POL_CL_HELD_QUOTA_OVER true).raise (claimSource k) 2
       else t.quotaSettle k, .ok) := by
  subst ht
  exact (if_neg hq).trans (if_neg h)

theorem claimFree_refused (h : r.rangeHeldBy k m n = false ∨ r.meetsRing m n = true) : r.claimFree k m n = (r, .state) :=
  if_pos (by simpa using h)

theorem claimFree_frees (hh : r.rangeHeldBy k m n = true) (hr : r.meetsRing m n = false) : r.claimFree k m n =
    (({ r with extents := r.extents.flatMap fun e => e.without m n } : State).quotaSettle k, .ok) :=
  if_neg (by simp [hh, hr])

end

/-- What a CLAIM_SET that is taken carries: its checks have passed. -/
theorem claimRecord_taken {s : State} {h : CmdHead} {c : CmdRec} {arg : BitVec 32} {k op : Nat} {body : List Byte}
    (hc : c = h.record 0x32 (k + 256 * op) body) (ht : s.takes h c = true) (hk : k < 64) (ho : op < 16)
    (ha : arg.toNat = k + 256 * op) : c = h.record 0x32 arg.toNat body ∧ c.body = body ∧ claimArgsOk c.arg c.body = true ∧
      bitsOf c.arg 5 0 = k ∧ bitsOf c.arg 11 8 = op ∧
      (op = 0 → ¬(leAt body 4 4 < leAt body 0 4 ∨ poolBlocks < leAt body 4 4)) := by
  subst hc
  obtain ⟨-, alone, -⟩ := takes_parts ht
  obtain ⟨checked, ordered⟩ := alone_claimSet rfl alone
  obtain ⟨claim, operation⟩ := claimArg_fields hk ho
  exact ⟨by rw [ha], rfl, checked, claim, operation, fun h0 => ordered (operation.trans h0)⟩

section
variable (claim : BitVec 6)

theorem claimArg_configure : (claim.setWidth 32).toNat = claim.toNat + 256 * 0 := by
  have := claim.isLt
  simp
  omega

theorem claimArg_alloc : (claim.setWidth 32 ||| 0x100 : BitVec 32).toNat = claim.toNat + 256 * 1 := by revert claim; decide

theorem claimArg_free : (claim.setWidth 32 ||| 0x200 : BitVec 32).toNat = claim.toNat + 256 * 2 := by revert claim; decide

end

/-! ## POOL_WRITE and POOL_READ (R309) -/

section
variable {r : State} {a : Nat} {body : List Byte}

theorem poolWriteCmd_free (ho : poolRangeOk a body.length = true)
    (hf : r.rangeHasFree (blocksOf a body.length).1 (blocksOf a body.length).2 = true) :
    r.poolWriteCmd a body = (r, .state) :=
  (if_pos ho).trans (if_pos hf)

theorem poolWriteCmd_writes (ho : poolRangeOk a body.length = true)
    (hf : r.rangeHasFree (blocksOf a body.length).1 (blocksOf a body.length).2 = false) :
    r.poolWriteCmd a body = (r.poolWrite a body, .ok) :=
  (if_pos ho).trans (if_neg (Bool.eq_false_iff.1 hf))

variable {l : Nat} (hl : l = leAt body 0 4)
include hl

theorem opPoolRead_range (ho : poolRangeOk a l = false) : r.opPoolRead a body = ends .range 0 [] := by
  subst hl
  exact if_neg (Bool.eq_false_iff.1 ho)

theorem opPoolRead_checked (ho : poolRangeOk a l = true) : r.opPoolRead a body =
    if r.rangeHasFree (blocksOf a l).1 (blocksOf a l).2 = true then ends .state 0 []
    else if r.rangePoisoned a l = true then ends .crc 0 []
    else ends .ok 0 (r.poolRead a l) := by
  subst hl
  exact if_pos ho

end

/-- Settles O39: each command by the record it makes and then by the cases of its operation. -/
theorem poolCommands : Obligations.PoolCommands := by
  unfold Obligations.PoolCommands
  intro s h claim m n arg body finds k a cmd
  have hk : k < 64 := claim.isLt
  refine ⟨fun c hc ht r hr => ?configure, fun c hc ht r hr => ?alloc, fun c hc ht r hr => ?free,
    fun c hc ht r b hr hb => ?write, fun c hc hh r l b hr hl hb => ?read, fun ha => ⟨next_inRun ha rfl, fun w t hw ht => ?scrub⟩⟩
  case configure =>
    obtain ⟨record, body, checked, named, op, sound⟩ := claimRecord_taken hc ht hk (by decide) (claimArg_configure claim)
    have sound := sound rfl
    rw [leAt_two0, leAt_two4] at sound
    have asked (u : State) (st : Status) (hq : r.claimConfigure k m.toNat n.toNat = (u, st)) : r.claimSet c.arg c.body = (u, st, 0) := by
      rw [claimSet_configure checked op, named, body, leAt_two0, leAt_two4, hq]
    subst hr
    refine ⟨fun short => claimSet_runs record ht (asked _ _ (claimConfigure_short sound short)), fun fits t hset => ?_⟩
    have sets := claimConfigure_sets sound fits hset
    exact ⟨fun above => claimSet_runs record ht (asked _ _ (by rw [sets, if_pos above])),
      fun within => claimSet_runs record ht (asked _ _ (by rw [sets, if_neg (Nat.not_lt.2 within)]))⟩
  case alloc =>
    obtain ⟨record, body, checked, named, op, -⟩ := claimRecord_taken hc ht hk (by decide) (claimArg_alloc claim)
    have asked : r.claimSet c.arg c.body = r.claimAlloc k m.toNat := by
      rw [claimSet_alloc checked op, named, body, leAt_one]
    subst hr
    exact ⟨fun no => claimSet_runs record ht (asked.trans (claimAlloc_refused no)),
      fun yes => ⟨fun full => claimSet_runs record ht (asked.trans (claimAlloc_full yes full)),
        fun b found => claimSet_runs record ht (asked.trans (claimAlloc_found yes found))⟩⟩
  case free =>
    obtain ⟨record, body, checked, named, op, -⟩ := claimRecord_taken hc ht hk (by decide) (claimArg_free claim)
    have asked (u : State) (st : Status) (hq : r.claimFree k m.toNat n.toNat = (u, st)) : r.claimSet c.arg c.body = (u, st, 0) := by
      rw [claimSet_free checked op, named, body, leAt_two0, leAt_two4, hq]
    subst hr
    exact ⟨fun no => claimSet_runs record ht (asked _ _ (claimFree_refused no)),
      fun held apart => claimSet_runs record ht (asked _ _ (claimFree_frees held apart))⟩
  case write =>
    have inRange : poolRangeOk a body.length = true := by
      subst hc
      exact alone_poolWrite rfl (takes_parts ht).2.1
    subst hr hb
    exact ⟨fun free => poolWrite_runs hc ht (poolWriteCmd_free inRange free),
      fun held => poolWrite_runs hc ht (poolWriteCmd_writes inRange held)⟩
  case read =>
    subst hr hb
    refine ⟨fun out => poolRead_replies hc hh (opPoolRead_range hl out), fun inRange => ?_⟩
    have answer := opPoolRead_checked (r := s.heard h c) hl inRange
    exact ⟨fun free => poolRead_replies hc hh (answer.trans (if_pos free)),
      fun held bad => poolRead_replies hc hh (answer.trans ((if_neg (Bool.eq_false_iff.1 held)).trans (if_pos bad))),
      fun held good => poolRead_replies hc hh
        (answer.trans ((if_neg (Bool.eq_false_iff.1 held)).trans (if_neg (Bool.eq_false_iff.1 good))))⟩
  case scrub =>
    subst hw ht
    exact next_inRun ha rfl

end Sys2Proof.Machine
end

