-- ==== Sys2Proof/Proofs/HostSessions.lean ====
section
/-! SUPPORT. NOP and FENCE, what waits on a chain or a fence, and the frames of replies and of commands (R321 to R331). -/

namespace Sys2Proof.Machine

/-! ## NOP and FENCE (R328, R330, R331) -/

/-- The three commands of the opcode NOP make the same record. -/
theorem exec_nop {s : State} {h : CmdHead} {arg : BitVec 32} {body : List Byte} {i : Instr}
    (hi : i = .nop h arg body ∨ (∃ b, i = .nopRelease h b ∧ arg = (if b then 3 else 1) ∧ body = []) ∨
      (∃ g, i = .nopChainReset g ∧ h = { g with ordered := true } ∧ arg = 2 ∧ body = [])) :
    exec i s = .next (s.command h 0x01 arg body) := by
  obtain rfl | ⟨b, rfl, rfl, rfl⟩ | ⟨g, rfl, rfl, rfl, rfl⟩ := hi <;> rfl

section
variable {r : State} {fl : Flight}

theorem runNop_range (h : 4 ≤ fl.cmd.arg) : r.runNop fl = r.complete fl none .range 0 [] := if_pos h

theorem runNop_replies (ho : fl.cmd.opcode = 0x01) (ha : fl.cmd.arg < 4) {left : Nat}
    (hl : left = 128 - (r.flights.filter fun f => decide (f.session = fl.session) && !f.mute && !decide (f.id = fl.id)).length)
    {t : State} (ht : t = if fl.cmd.ordered ∧ bitOf fl.cmd.arg 1 then r.setSess fl.session { r.sess fl.session with broken := false } else r) :
    r.runNop fl = (if bitOf fl.cmd.arg 0 then t.mirrorCmd fl.session fl.cmd .ok else t).complete fl none .ok (0x9640 * 65536 + left) [] := by
  have releases : fl.cmd.releases = bitOf fl.cmd.arg 0 := by simp [CmdRec.releases, ho]
  subst hl ht
  rw [← releases]
  exact if_neg (Nat.not_le.2 ha)

theorem runFence_range (h : fl.cmd.arg ≠ 0) : r.runFence fl = r.complete fl none .range 0 [] := if_pos h

theorem runFence_waits (h : fl.cmd.arg = 0) : r.runFence fl = r.holdFlight fl.id (.fence r.time) := if_neg (not_not_intro h)

end

section
variable {s : State} {h : CmdHead} {c : CmdRec} {arg : BitVec 32} {body : List Byte} {r u : State} {fl : Flight}
  (hr : r = s.heard h c) (hf : fl = s.flightOf h c)
include hr hf

theorem nop_runs (hc : c = h.record 0x01 arg.toNat body) (hh : s.hears h c = true) (hq : r.runNop fl = u) :
    s.command h 0x01 arg body = u.settle := by
  subst hr hf hc hq
  exact (command_runs s h 0x01 arg body hh).trans (congrArg State.settle (runOp_01 _ _ rfl))

theorem fence_runs (hc : c = h.record 0x06 arg.toNat body) (hh : s.hears h c = true) (hq : r.runFence fl = u) :
    exec (.fence h arg body) s = .next u.settle := by
  subst hr hf hc hq
  exact congrArg Host.Outcome.next ((command_runs s h 0x06 arg body hh).trans (congrArg State.settle (runOp_06 _ _ rfl)))

end

/-! ## What waited, and frames (R321, R327, R330, R331) -/

section
variable {s : State} {n : Nat} {f : Flight}

theorem fenceComplete_some (h : s.fenceDue n = some f) : s.fenceComplete n = s.replied f .ok 0 [] := by
  rw [State.fenceComplete, h]
  rfl

theorem fenceComplete_none (h : s.fenceDue n = none) : s.fenceComplete n = s := by rw [State.fenceComplete, h]

theorem orderedStart_some (h : s.chainNext n = some f) : s.orderedStart n = (s.startFlight f).settle := by
  rw [State.orderedStart, h]

theorem orderedStart_none (h : s.chainNext n = none) : s.orderedStart n = s := by rw [State.orderedStart, h]

theorem startFlight_chain (ho : f.cmd.ordered = true) (hm : f.mute = false) (hb : (s.sess f.session).broken = true)
    (hr : f.cmd.resetsChain = false) : s.startFlight f = s.complete f none .chain 0 [] :=
  if_pos ⟨ho, hb, by simp [hm], by simp [hr]⟩

theorem sendReply_cons {r : Reply} {rs : List Reply} (h : (s.sess n).replies = r :: rs) {p : List Reply × List Reply}
    (hp : p = takeReplies r.dest r.tc r.src (1480 - r.bytes.length) rs) :
    s.sendReply n = (s.setSess n { s.sess n with replies := p.2 }).sendReplies n r p.1 := by
  subst hp
  rw [State.sendReply, h]
  rfl

end

/-- Settles O42: each command by the record it makes, what waits by whether something is due. -/
theorem hostSessions : Obligations.HostSessions := by
  unfold Obligations.HostSessions
  intro s h arg body n src session a k
  refine ⟨fun i c hi hc hh r fl hr hf => ?nop, fun c hc hh r fl hr hf => ?fence,
    fun ha => ⟨fun f hf => next_inRun ha (fenceComplete_some hf), fun hf => next_inRun ha (fenceComplete_none hf),
      fun f hf ho hm => ?ordered, fun hf => next_inRun ha (orderedStart_none hf), fun r rs hr hd p hp => ?frame,
      fun hd => next_inRun ha (if_neg (Bool.eq_false_iff.1 hd))⟩,
    fun h8 => congrArg Host.Outcome.next (if_pos h8), fun h8 => congrArg Host.Outcome.next (if_neg (Nat.not_le.2 h8)), rfl⟩
  case nop =>
    have arrives := exec_nop (s := s) hi
    have arg : fl.cmd.arg = a := by
      subst hf hc
      rfl
    refine ⟨fun h4 => ?_, fun h4 left t hl ht => ?_⟩
    · exact arrives.trans (congrArg Host.Outcome.next (nop_runs hr hf hc hh (runNop_range (by rwa [arg]))))
    · have answers : r.runNop fl = (if bitOf a 0 then t.mirrorCmd k c .ok else t).complete fl none .ok (0x9640 * 65536 + left) [] := by
        subst hf hc
        exact runNop_replies rfl h4 hl ht
      exact arrives.trans (congrArg Host.Outcome.next (nop_runs hr hf hc hh answers))
  case fence =>
    have arg : fl.cmd.arg = a := by
      subst hf hc
      rfl
    exact ⟨fun h0 => fence_runs hr hf hc hh (runFence_range (by rwa [arg])),
      fun h0 => fence_runs hr hf hc hh (runFence_waits (by rwa [arg]))⟩
  case ordered =>
    have turn := orderedStart_some hf
    exact ⟨fun hb hk => next_inRun ha (turn.trans (congrArg State.settle (startFlight_chain ho hm hb hk))),
      fun hb ht => ⟨fun hk => next_inRun ha (turn.trans (congrArg State.settle (startFlight_runs s f (by simp [hb]) hk ht))),
        fun hk => next_inRun ha (turn.trans (congrArg State.settle (startFlight_no s f (by simp [hb]) hk)))⟩⟩
  case frame =>
    exact next_inRun ha ((if_pos hd).trans (congrArg State.settle (sendReply_cons hr hp)))

end Sys2Proof.Machine
end

