-- ==== Sys2Proof/Proofs/TxnCommands.lean ====
section
/-! SUPPORT. The commands that open, commit, roll back and prepare a transaction (R342 to R358). -/

namespace Sys2Proof.Machine

/-! ## How a commit and a prepare are judged (R348, R349, R356, R357) -/

section
variable {v : State} {u : Txn} {body : List Byte}

theorem txnCommit_pending (h : u.phase = .pending) : v.txnCommit u body = (v, some .txn) := by rw [State.txnCommit, h]

theorem txnCommit_prepared {d : Bool} (h : u.phase = .prepared d) : v.txnCommit u body =
    if body.length ≠ 0 then (v, some .range)
    else if d then (v, some .ok)
    else (v.setTxn { u with phase := .prepared true, since := v.time, lastTick := v.time }, some .ok) := by
  rw [State.txnCommit, h]

section
variable (h : u.phase = .opened)
include h

theorem txnCommit_body (hl : body.length ≠ 12) : v.txnCommit u body = (v, some .range) := by
  rw [State.txnCommit, h]
  exact if_pos hl

theorem txnCommit_refused (hl : body.length = 12) {e : Status} (he : e = v.judgePoint u (Point.ofBytes body) [0, 1, 2, 3, 4])
    (hn : e ≠ .ok) : v.txnCommit u body = (v.countBudget e, some e) := by
  rw [State.txnCommit, h]
  subst he
  refine (if_neg (not_not_intro hl)).trans ?_
  split
  case h_1 passes => exact absurd passes hn
  case h_2 => rfl

theorem txnCommit_passes (hl : body.length = 12) (hj : v.judgePoint u (Point.ofBytes body) [0, 1, 2, 3, 4] = .ok) :
    v.txnCommit u body =
      if (v.holders u).isEmpty then (v.txnTake u .pending (Point.ofBytes body) 0 0, none) else (v, some .locked) := by
  rw [State.txnCommit, h]
  refine (if_neg (not_not_intro hl)).trans ?_
  rw [hj]

end

variable {coord : Nat}

theorem txnPrepare_closed (h : u.phase ≠ .opened) : v.txnPrepare u body coord = (v, some .txn) := if_pos h

variable (h : u.phase = .opened) {q : Option Status}
  (hq : v.judgePrepare u (Point.ofBytes body) (leAt body 12 8) coord = q)
include h hq

theorem txnPrepare_votes (hk : q = some .ok) : v.txnPrepare u body coord =
    (v.txnTake u (.prepared false) (Point.ofBytes body) (leAt body 12 8) coord, some .ok) := by
  subst hk
  refine (if_neg (not_not_intro h)).trans ?_
  rw [hq]

theorem txnPrepare_refuses {e : Status} (hn : e ≠ .ok) (hk : q = some e) :
    v.txnPrepare u body coord = (v.countBudget e, some e) := by
  subst hk
  refine (if_neg (not_not_intro h)).trans ?_
  split
  case h_1 votes => exact absurd (Option.some.inj (hq.symm.trans votes)) hn
  case h_2 judged =>
    obtain rfl := Option.some.inj (hq.symm.trans judged)
    rfl
  case h_3 waits => exact absurd (hq.symm.trans waits) (by simp)

theorem txnPrepare_waits (hk : q = none) : v.txnPrepare u body coord = (v, none) := by
  subst hk
  refine (if_neg (not_not_intro h)).trans ?_
  rw [hq]

end

/-! ## The records -/

section
variable {s : State} {h : CmdHead} {c : CmdRec} {arg : BitVec 32} {body : List Byte} {fl : Flight} {u : State} {st : Status}

/-- TXN_BEGIN (R342). -/
theorem txnBegin_runs (hc : c = h.record 0x40 arg.toNat body) (hh : s.hears h c = true) (hf : fl = s.flightOf h c) {r : State}
    (hr : r = s.heard h c) {n : Nat} (hq : r.txnBegin h.session.val arg.toNat = (u, st, n)) :
    exec (.txnBegin h arg body) s = .next (u.replied fl st n []) := by
  subst hc hf hr
  have answered := congrArg (fun q : State × Status × Nat =>
    q.1.complete (s.flightOf h (h.record 0x40 arg.toNat body)) none q.2.1 q.2.2 []) hq
  exact congrArg Host.Outcome.next ((command_runs s h 0x40 arg body hh).trans
    (congrArg State.settle ((runOp_40 _ _ rfl).trans answered)))

section
variable (hc : c = h.record 0x41 arg.toNat body) (hh : s.hears h c = true) (hf : fl = s.flightOf h c) (ha : arg.toNat < 65536)
  {r : State} (hr : r = if (s.heard h c).deadlineDue arg.toNat then (s.heard h c).decisionDeadline arg.toNat else s.heard h c)
include hc hh hf ha hr

theorem txnCommit_unknown (ht : r.txnOf h.session.val arg.toNat = none) :
    exec (.txnCommit h arg body) s = .next (r.replied fl ((r.endedAs h.session.val arg.toNat).getD .txn) 0 []) := by
  have answered : (s.heard h c).runCommit fl = r.complete fl none ((r.endedAs h.session.val arg.toNat).getD .txn) 0 [] := by
    subst hc hf
    refine (if_neg (Nat.not_le.2 ha)).trans ?_
    subst hr
    split
    case h_1 => rfl
    case h_2 t found => exact absurd (ht.symm.trans found) (by simp)
  subst hc hf
  exact congrArg Host.Outcome.next ((command_runs s h 0x41 arg body hh).trans
    (congrArg State.settle ((runOp_41 _ _ rfl).trans answered)))

variable {t : Txn} (ht : r.txnOf h.session.val arg.toNat = some t)
include ht

/-- A TXN_COMMIT that names a transaction ends as it is judged, or waits (R349, R358). -/
theorem txnCommit_runs {o : Option Status} (hq : (r.txnTouch t).txnCommit { t with lastTick := r.time } body = (u, o)) :
    exec (.txnCommit h arg body) s = .next
      (match o with
       | some st => u.replied fl st 0 []
       | none => (u.holdFlight fl.id (.commit t.id)).settle) := by
  have answered : (s.heard h c).runCommit fl =
      (match o with
       | some st => u.complete fl none st 0 []
       | none => u.holdFlight fl.id (.commit t.id)) := by
    subst hc hf
    refine (if_neg (Nat.not_le.2 ha)).trans ?_
    subst hr
    split
    case h_1 missing => exact absurd (ht.symm.trans missing) (by simp)
    case h_2 t' found =>
      obtain rfl : t = t' := Option.some.inj (ht.symm.trans found)
      split
      case h_1 v e judged =>
        obtain ⟨rfl, rfl⟩ := Prod.mk.inj (hq.symm.trans judged)
        rfl
      case h_2 v judged =>
        obtain ⟨rfl, rfl⟩ := Prod.mk.inj (hq.symm.trans judged)
        rfl
  subst hc hf
  refine congrArg Host.Outcome.next ((command_runs s h 0x41 arg body hh).trans ?_)
  rw [runOp_41 _ _ rfl, answered]
  cases o <;> rfl

end

variable {r : State} (hr : r = s.heard h c)
include hr

/-- TXN_ROLLBACK (R354). -/
theorem txnRollback_runs (hc : c = h.record 0x42 arg.toNat body) (hh : s.hears h c = true) (hf : fl = s.flightOf h c)
    (hq : r.txnRollbackCmd h.session.val arg.toNat = (u, st)) :
    exec (.txnRollback h arg body) s = .next (u.replied fl st 0 []) := by
  subst hc hf hr
  have answered := congrArg (fun q : State × Status =>
    q.1.complete (s.flightOf h (h.record 0x42 arg.toNat body)) none q.2 0 []) hq
  exact congrArg Host.Outcome.next ((command_runs s h 0x42 arg body hh).trans
    (congrArg State.settle ((runOp_42 _ _ rfl).trans answered)))

variable (hc : c = h.record 0x43 arg.toNat body) (hh : s.hears h c = true) (hf : fl = s.flightOf h c) (ha : arg.toNat < 65536)
include hc hh hf ha

theorem txnPrepare_unknown (ht : r.txnOf h.session.val arg.toNat = none) :
    exec (.txnPrepare h arg body) s = .next (r.replied fl .txn 0 []) := by
  have answered : r.runPrepare fl = r.complete fl none .txn 0 [] := by
    subst hc hf
    refine (if_neg (Nat.not_le.2 ha)).trans ?_
    split
    case h_1 => rfl
    case h_2 t found => exact absurd (ht.symm.trans found) (by simp)
  subst hc hf hr
  exact congrArg Host.Outcome.next ((command_runs s h 0x43 arg body hh).trans
    (congrArg State.settle ((runOp_43 _ _ rfl).trans answered)))

/-- A TXN_PREPARE that names a transaction votes, or waits (R356, R357). -/
theorem txnPrepare_runs {t : Txn} (ht : r.txnOf h.session.val arg.toNat = some t) {o : Option Status}
    (hq : (r.txnTouch t).txnPrepare { t with lastTick := r.time } body fl.dest = (u, o)) :
    exec (.txnPrepare h arg body) s = .next
      (match o with
       | some st => u.replied fl st 0 []
       | none => (u.holdFlight fl.id (.prepare t.id)).settle) := by
  have answered : r.runPrepare fl =
      (match o with
       | some st => u.complete fl none st 0 []
       | none => u.holdFlight fl.id (.prepare t.id)) := by
    subst hc hf
    refine (if_neg (Nat.not_le.2 ha)).trans ?_
    split
    case h_1 missing => exact absurd (ht.symm.trans missing) (by simp)
    case h_2 t' found =>
      obtain rfl : t = t' := Option.some.inj (ht.symm.trans found)
      split
      case h_1 v e judged =>
        obtain ⟨rfl, rfl⟩ := Prod.mk.inj (hq.symm.trans judged)
        rfl
      case h_2 v judged =>
        obtain ⟨rfl, rfl⟩ := Prod.mk.inj (hq.symm.trans judged)
        rfl
  subst hc hf hr
  refine congrArg Host.Outcome.next ((command_runs s h 0x43 arg body hh).trans ?_)
  rw [runOp_43 _ _ rfl, answered]
  cases o <;> rfl

end

/-! ## Opening and rolling back (R342, R354) -/

section
variable {r : State} {n a : Nat}

theorem txnBegin_range (ha : a ≠ 0) : r.txnBegin n a = (r, .range, 0) := if_pos ha

theorem txnBegin_full (ha : a = 0) (hl : 4 ≤ r.txns.length) : r.txnBegin n a = (r, .nospace, 0) :=
  (if_neg (not_not_intro ha)).trans (if_pos hl)

variable (ha : a < 65536)
include ha

theorem txnRollbackCmd_named : r.txnRollbackCmd n a =
    match r.txnOf n a with
    | none => (r, .txn)
    | some t => if r.commitDue t.id then (r.commitTick t.id, .txn) else (r.txnRollback t.id .txn, .ok) :=
  if_neg (by simp [bitsOf]; omega)

theorem txnRollbackCmd_unknown (ht : r.txnOf n a = none) : r.txnRollbackCmd n a = (r, .txn) := by
  rw [txnRollbackCmd_named ha, ht]

theorem txnRollbackCmd_found {t : Txn} (ht : r.txnOf n a = some t) : r.txnRollbackCmd n a =
    if r.commitDue t.id then (r.commitTick t.id, .txn) else (r.txnRollback t.id .txn, .ok) := by
  rw [txnRollbackCmd_named ha, ht]

end

/-- Settles O45: each command by its record, and then by the phase of the transaction it names. -/
theorem txnCommands : Obligations.TxnCommands := by
  unfold Obligations.TxnCommands
  intro s h arg body a n p
  refine ⟨fun c r fl hc hh hr hf => ?opens, fun c r fl hc hh hf hr ha => ⟨txnCommit_unknown hc hh hf ha hr, fun t u v ht hu hv => ?commit⟩,
    fun c r fl hc hh hr hf ha => ?rollback,
    fun c r fl hc hh hr hf ha => ⟨txnPrepare_unknown hr hc hh hf ha, fun t u v ht hu hv => ?prepare⟩⟩
  case opens =>
    refine ⟨fun h0 => txnBegin_runs hc hh hf hr (txnBegin_range h0), fun h0 h4 => txnBegin_runs hc hh hf hr (txnBegin_full h0 h4),
      fun h0 h4 id hid => ?_⟩
    subst hid
    exact txnBegin_runs hc hh hf hr ((if_neg (not_not_intro h0)).trans (if_neg (Nat.not_le.2 h4)))
  case commit =>
    subst hu hv
    have phase : ({ t with lastTick := r.time } : Txn).phase = t.phase := rfl
    refine ⟨fun hp => txnCommit_runs hc hh hf ha hr ht (txnCommit_pending hp), fun d hp => ?_, fun hp => ?_⟩
    · have decided := txnCommit_prepared (v := r.txnTouch t) (body := body) (phase.trans hp)
      refine ⟨fun hl => txnCommit_runs hc hh hf ha hr ht (decided.trans (if_pos hl)), fun hl hd => ?_, fun hl hd => ?_⟩
      · exact txnCommit_runs hc hh hf ha hr ht (decided.trans ((if_neg (not_not_intro hl)).trans (if_pos hd)))
      · exact txnCommit_runs hc hh hf ha hr ht
          (decided.trans ((if_neg (not_not_intro hl)).trans (if_neg (Bool.eq_false_iff.1 hd))))
    · refine ⟨fun hl => txnCommit_runs hc hh hf ha hr ht (txnCommit_body hp hl), fun hl => ⟨fun hj => ?_, fun hj => ?_⟩⟩
      · exact txnCommit_runs hc hh hf ha hr ht (txnCommit_refused hp hl rfl hj)
      · have passes := txnCommit_passes (v := r.txnTouch t) (phase.trans hp) hl hj
        exact ⟨fun hn => txnCommit_runs hc hh hf ha hr ht (passes.trans (if_neg (Bool.eq_false_iff.1 hn))),
          fun hn => txnCommit_runs hc hh hf ha hr ht (passes.trans (if_pos hn))⟩
  case rollback =>
    refine ⟨fun ht => txnRollback_runs hr hc hh hf (txnRollbackCmd_unknown ha ht), fun t ht => ?_⟩
    have ends := txnRollbackCmd_found ha ht
    exact ⟨fun hd => txnRollback_runs hr hc hh hf (ends.trans (if_pos hd)),
      fun hd => txnRollback_runs hr hc hh hf (ends.trans (if_neg (Bool.eq_false_iff.1 hd)))⟩
  case prepare =>
    subst hu hv
    refine ⟨fun hp => txnPrepare_runs hr hc hh hf ha ht (txnPrepare_closed hp), fun hp => ⟨fun hj => ?_, fun e he hj => ?_, fun hj => ?_⟩⟩
    · exact txnPrepare_runs hr hc hh hf ha ht (txnPrepare_votes hp hj rfl)
    · exact txnPrepare_runs hr hc hh hf ha ht (txnPrepare_refuses hp hj he rfl)
    · exact txnPrepare_runs hr hc hh hf ha ht (txnPrepare_waits hp hj rfl)

end Sys2Proof.Machine
end

