-- ==== Sys2Proof/Proofs/TxnEvents.lean ====
section
/-! SUPPORT. What ends a transaction by itself: its commit tick, its limit, its idleness, its deadline, its point, and the retry of a
PREPARE (R348 to R358). -/

namespace Sys2Proof.Machine

section
variable {s : State} {id : Nat}

/-! ## The commit tick and the limit (R349 to R351) -/

theorem commitTick_early (h : s.commitDue id = false) : s.commitTick id = s := by
  rw [State.commitTick]
  split
  case h_1 => rfl
  case h_2 => exact if_neg (Bool.eq_false_iff.1 h)

section
variable {t : Txn} (ht : s.txn id = some t)
include ht

section
variable (hd : s.commitDue id = true)
include hd

theorem commitTick_applies {u : State} (hu : s.applyRecords t.staged 0 = (u, none)) : s.commitTick id =
    (((u.dropTxn id).count GLB_TXN_CNT GLB_TXN_CNT_COMMITTED 1).mirrorTxn t.session t.staged).finishTxn (s.txnFlights id) .ok
      (s.time % 2 ^ 32) (leBytes 8 s.time) := by
  rw [State.commitTick, ht]
  refine (if_pos hd).trans ?_
  rw [hu]

theorem commitTick_fails {u : State} {k : Nat} {st : Status} {op : Nat} (hu : s.applyRecords t.staged 0 = (u, some (k, st, op))) :
    s.commitTick id = ((s.dropTxn id).count GLB_TXN_CNT GLB_TXN_CNT_FAILED 1).finishTxn (s.txnFlights id) .txn k
      (leBytes 2 st.code ++ [BitVec.ofNat 8 op, 0]) := by
  rw [State.commitTick, ht]
  refine (if_pos hd).trans ?_
  rw [hu]

end

theorem limitDue_named : s.limitDue id = (t.committed && !s.pointReached t && decide (t.since + t.point.limitTicks ≤ s.time)) := by
  rw [State.limitDue, ht]

/-! ## Idleness, the deadline and the point (R355, R358) -/

theorem idleDue_iff : s.idleDue id = true ↔ t.phase = .opened ∧ t.lastTick + 4000000000 ≤ s.time := by
  have ticks : txnIdle = 4000000000 := rfl
  simp [State.idleDue, ht, ticks]

theorem deadlineDue_iff : s.deadlineDue id = true ↔ t.phase = .prepared false ∧ (t.deadline : Int) ≤ s.fabNs := by
  simp [State.deadlineDue, ht, Txn.undecided]

theorem decisionDeadline_named : s.decisionDeadline id =
    if s.deadlineDue id then (s.txnTimeout id .timeout).noteEnded t .timeout else s := by
  rw [State.decisionDeadline, ht]

theorem pointMissed_named : s.pointMissed id =
    if s.missDue id then
      (((s.txnRollback id .late).count GLB_TXN_CNT GLB_TXN_CNT_MISSED 1).faultEvent fltTxnMissed 0 1
        (faultValue fltTxnMissed 0)).noteEnded t .late
    else s := by
  rw [State.pointMissed, ht]

theorem missDue_reached (hp : t.phase = .prepared false) (hk : t.point.kind ≠ 3) (hr : s.pointReached t = true) :
    s.missDue id = true := by
  simp [State.missDue, ht, Txn.undecided, hp, hk, hr]

end

section
variable (ht : s.txn id = none)
include ht

theorem limitExpiry_gone : s.limitExpiry id = s := if_neg (by simp [State.limitDue, ht])

theorem idleTimeout_gone : s.idleTimeout id = s := if_neg (by simp [State.idleDue, ht])

theorem decisionDeadline_gone : s.decisionDeadline id = s := by rw [State.decisionDeadline, ht]

theorem pointMissed_gone : s.pointMissed id = s := by rw [State.pointMissed, ht]

end

/-! ## The retry of a PREPARE (R357) -/

theorem prepareRetry_none (h : s.prepareFlight id = none) : s.prepareRetry id = s := by rw [State.prepareRetry, h]

section
variable {f : Flight} {t : Txn} (h : s.prepareFlight id = some (f, t)) {dl : Nat} (hdl : dl = leAt f.cmd.body 12 8)
include h hdl

theorem retryDue_iff : s.retryDue id = true ↔ (dl : Int) ≤ s.fabNs ∨
    ((s.holders t).any fun x => s.waitsFor (s.keyOf (Point.ofBytes f.cmd.body) f.dest) x) = false := by
  subst hdl
  simp [State.retryDue, h]

theorem prepareRetry_timeout (hd : (dl : Int) ≤ s.fabNs) : s.prepareRetry id = s.finish f.id .timeout 0 [] := by
  have due := (retryDue_iff h hdl).2 (.inl hd)
  subst hdl
  rw [State.prepareRetry, h]
  exact (if_neg (not_not_intro due)).trans (if_pos hd)

variable (hd : s.fabNs < dl)
include hd

theorem prepareRetry_waits (hb : ((s.holders t).any fun x => s.waitsFor (s.keyOf (Point.ofBytes f.cmd.body) f.dest) x) = true) :
    s.prepareRetry id = s := by
  have early : ¬s.retryDue id = true := by
    rw [retryDue_iff h hdl, hb]
    simp [hd]
  rw [State.prepareRetry, h]
  exact if_pos early

theorem prepareRetry_votes (hb : ((s.holders t).any fun x => s.waitsFor (s.keyOf (Point.ofBytes f.cmd.body) f.dest) x) = false)
    {u : State} {st : Status} (hq : s.txnPrepare t f.cmd.body f.dest = (u, some st)) :
    s.prepareRetry id = u.finish f.id st 0 [] := by
  have due := (retryDue_iff h hdl).2 (.inr hb)
  subst hdl
  rw [State.prepareRetry, h]
  refine (if_neg (not_not_intro due)).trans ((if_neg (Int.not_le.2 hd)).trans ?_)
  rw [hq]

end

end

/-- Settles O46: each happening by what makes it due. -/
theorem txnEvents : Obligations.TxnEvents := by
  unfold Obligations.TxnEvents
  intro s i ha id ends
  have next (f : State → State) {u : State} (h : f s = u) : Host.Outcome.next (s.inRun fun s => (f s).settle) =
    (.next u.settle : Host.Outcome State Fault Refusal) := next_inRun ha (congrArg State.settle h)
  refine ⟨fun fs hfs => ⟨fun hd => next (·.commitTick id) (commitTick_early hd), fun t ht hd => ?commit, fun t ht => ?limit,
      fun ht => next (·.limitExpiry id) (limitExpiry_gone ht)⟩,
    fun t ht => ?idle, fun t ht => ?deadline,
    fun ht => ⟨next (·.idleTimeout id) (idleTimeout_gone ht), next (·.decisionDeadline id) (decisionDeadline_gone ht),
      next (·.pointMissed id) (pointMissed_gone ht)⟩,
    fun h => next (·.prepareRetry id) (prepareRetry_none h), fun f t h dl hdl => ?retry⟩
  case commit =>
    subst hfs
    exact ⟨fun u hu => next (·.commitTick id) (commitTick_applies ht hd hu),
      fun u k st op hu => next (·.commitTick id) (commitTick_fails ht hd hu)⟩
  case limit =>
    subst hfs
    have due := limitDue_named ht
    exact ⟨fun hl => next (·.limitExpiry id) (if_neg (Bool.eq_false_iff.1 (due.trans hl))), fun hl => next (·.limitExpiry id) (if_pos (due.trans hl))⟩
  case idle =>
    refine ⟨fun h => next (·.idleTimeout id) (if_neg fun due => ?_),
      fun hp hl => next (·.idleTimeout id) (if_pos ((idleDue_iff ht).2 ⟨hp, hl⟩))⟩
    obtain ⟨hp, hl⟩ := (idleDue_iff ht).1 due
    exact h.elim (absurd hp) (Nat.not_lt.2 hl)
  case deadline =>
    refine ⟨fun h => next (·.decisionDeadline id) ((decisionDeadline_named ht).trans (if_neg fun due => ?_)),
      fun hp hl => next (·.decisionDeadline id) ((decisionDeadline_named ht).trans (if_pos ((deadlineDue_iff ht).2 ⟨hp, hl⟩))),
      fun h => next (·.pointMissed id) ((pointMissed_named ht).trans (if_neg (Bool.eq_false_iff.1 h))),
      fun hp hk hr => next (·.pointMissed id) ((pointMissed_named ht).trans (if_pos (missDue_reached ht hp hk hr)))⟩
    obtain ⟨hp, hl⟩ := (deadlineDue_iff ht).1 due
    exact h.elim (absurd hp) (Int.not_lt.2 hl)
  case retry =>
    refine ⟨fun hd => next (·.prepareRetry id) (prepareRetry_timeout h hdl hd), fun hd busy hb => ⟨fun h1 => ?_, fun h1 u st hq => ?_⟩⟩
    · exact next (·.prepareRetry id) (prepareRetry_waits h hdl hd (hb.symm.trans h1))
    · exact next (·.prepareRetry id) (prepareRetry_votes h hdl hd (hb.symm.trans h1) hq)

end Sys2Proof.Machine
end

