-- ==== Sys2Proof/Proofs/FramesLinks.lean ====
section
/-! SUPPORT. Frames as they arrive, the links that rise and fall, breaks of the ring, credits and the reset by LINK_CTL (R376 to R389,
R403, R498). -/

namespace Sys2Proof.Machine

/-! ## Frames (R381 to R385) -/

section
variable {s : State} {f : FrameIn}

theorem frameIn_ignored (hi : s.linksAsleep = true ∨ f.tagged = true) : s.frameIn f = s := if_pos hi

section
variable {h : Header} (hh : h = Header.ofBytes f.bytes) (ha : s.linksAsleep = false) (ht : f.tagged = false)
include hh ha ht

theorem frameIn_discarded {d : Discard} (hd : f.check h = some d) : s.frameIn f = s.discarded d := by
  subst hh
  refine (if_neg (by simp [ha, ht])).trans ?_
  rw [hd]

theorem frameIn_checked (hd : f.check h = none) : s.frameIn f =
    if h.tc = 0 ∧ ¬f.room then (s.count (FAB_P_CNT f.port.val) FAB_P_CNT_TC0_DROP 1).raise 22 8
    else if f.port.val = 2 then s.acceptedT f h
    else s.accepted f h := by
  subst hh
  refine (if_neg (by simp [ha, ht])).trans ?_
  rw [hd]

theorem frameIn_dropped (hd : f.check h = none) (hc : h.tc = 0) (hr : f.room = false) :
    s.frameIn f = (s.count (FAB_P_CNT f.port) FAB_P_CNT_TC0_DROP 1).raise 22 8 :=
  (frameIn_checked hh ha ht hd).trans (if_pos ⟨hc, by simp [hr]⟩)

theorem frameIn_roomy (hd : f.check h = none) (hr : h.tc ≠ 0 ∨ f.room = true) :
    s.frameIn f = if f.port.val = 2 then s.acceptedT f h else s.accepted f h := by
  refine (frameIn_checked hh ha ht hd).trans (if_neg ?_)
  rintro ⟨hc, full⟩
  exact hr.elim (absurd hc) full

end

end

section
variable {s : State} {f : FrameIn} {h : Header} (he : h.isEnumerate = false) (hs : h.isSync = false) {p : Nat} (hp : p = f.port.val)
  {dl : Bool} (hd : dl = s.crosses p h) {v u : State} (hv : v = (s.learn p h.src h.hops).conflict h.src)
  (hu : u = if v.twinEn ∧ v.twinActive then v.takeoverIn h.src else v)
include he hs hp hd hv hu

theorem accepted_split : s.accepted f h =
    if h.dest = broadcast then
      if h.hops = 0 ∨ h.src = u.addr then (u.deliver f h).freeUnits p (h.frame p 0 dl) else (u.deliver f h).forwardOn p h dl
    else if u.ownDest h.dest then ((u.noteSeq h).deliver f h).freeUnits p (h.frame p 0 dl)
    else u.forwardOn p h dl := by
  subst hp hd hu hv
  exact (if_neg (Bool.eq_false_iff.1 he)).trans (if_neg (Bool.eq_false_iff.1 hs))

end

/-! ## A link that rises or falls (R377, R384, R389) -/

section
variable {s : State} {p : Nat}

theorem linkRises_up (h : s.linkUp p = true) (rate : Nat) (host : Bool) : s.linkRises p rate host = s := if_pos h

theorem linkFalls_down (h : s.linkUp p = false) : s.linkFalls p = s := if_neg (Bool.eq_false_iff.1 h)

/-- A port that is named in DLHOST or not falls alike; L0 and L1 tell of it out of the other port (R384). -/
theorem linkFalls_up (h : s.linkUp p = true) {q : List Queued} (hq : q = (s.link p).queue) {u v : State}
    (hu : u = q.foldl (fun t x => match x.from_ with
      | some i => t.freeUnits i x.frame
      | none => t) (((s.setLink p { s.link p with queue := [], reqAt := none, holdUntil := 0 }).setFlag (FAB_P_STAT p)
        FAB_P_STAT_UP false).count (FAB_P_CNT p) FAB_P_CNT_DISCARD q.length))
    (hv : v = (u.raise (16 + p) (u.linkValue p)).moveSettle) :
    s.linkFalls p = if p < 2 then (v.faultRaise fltLinkDown p 1 (v.linkValue p)).sendOut (1 - p) 8 0 (linkBody linkBreak []) else v := by
  subst hq hu hv
  exact if_pos h

theorem holdEndDue_iff : s.holdEndDue p = true ↔ (s.link p).holdUntil ≠ 0 ∧ (s.link p).holdUntil ≤ s.time := by
  simp [State.holdEndDue]

end

/-! ## RETRAIN (R377) -/

theorem fabCfg_block (p : Fin 3) : blockOf (FAB_P_CFG p) = some .fab := by revert p; decide

section
variable {s : State} {p : Fin 3}

theorem fabCfg_was {m v : Word} (f : Fld) : (s.wr (FAB_P_CFG p) m v).was f = s.fld (FAB_P_CFG p) f := by
  rw [Wr.was, wr_old_fab s _ _ _ _ m v _ _ _ (at_FAB_P_CFG p) (fabCfg_block p), State.viewFab, if_neg (by decide),
    if_neg (by decide), if_neg (by decide), State.fld]

theorem exec_retrain (ha : s.awake = true) (hr : s.fld (FAB_P_CFG p) FAB_P_CFG_MAX_RATE ≠ 3) : exec (.retrain p) s =
    .next (((s.plainWrite (s.wr (FAB_P_CFG p) FAB_P_CFG_RETRAIN.mask FAB_P_CFG_RETRAIN.mask)).retrain p).done .ok 0 []) := by
  have at_ := at_FAB_P_CFG p
  obtain ⟨base, addr, -, -⟩ := wr_base s _ _ _ _ FAB_P_CFG_RETRAIN.mask FAB_P_CFG_RETRAIN.mask _ _ _ at_
  have rate : (s.wr (FAB_P_CFG p) FAB_P_CFG_RETRAIN.mask FAB_P_CFG_RETRAIN.mask).fld FAB_P_CFG_MAX_RATE ≠ 3 := by
    rwa [act_fld s FAB_P_CFG_MAX_RATE at_ _ _ (by decide), fabCfg_was]
  have acts : (s.wr (FAB_P_CFG p) FAB_P_CFG_RETRAIN.mask FAB_P_CFG_RETRAIN.mask).acts FAB_P_CFG_RETRAIN = true :=
    (wr_acts at_ _ (by decide) (by decide)).trans (by decide)
  have written : s.unitWrite p 0 (s.wr (FAB_P_CFG p) FAB_P_CFG_RETRAIN.mask FAB_P_CFG_RETRAIN.mask) =
      ((s.plainWrite (s.wr (FAB_P_CFG p) FAB_P_CFG_RETRAIN.mask FAB_P_CFG_RETRAIN.mask)).retrain p, .ok) := by
    refine (unitWrite_fab s p 0 _ _ addr (fabCfg_block p)).trans ((if_pos base).trans ((if_neg rate).trans ?_))
    exact congrArg (·, Status.ok) (if_pos acts)
  exact congrArg Host.Outcome.next (regWrite_answers at_ ha (by decide) (by decide) written)

end

/-! ## The reset by LINK_CTL (R498) -/

section
variable {s : State} {p key uid : Nat}

theorem linkReset_ignored (h : s.resetIgnored = true ∨ key ≠ resetKey) : s.linkReset p key uid = s :=
  if_pos (h.elim .inl fun h => .inr (.inl h))

theorem linkReset_keyed (hi : s.resetIgnored = false) (hk : key = resetKey) (hp : p < 2) : s.linkReset p key uid =
    if uid = s.uid then s.warmReset causeLink
    else if s.fab.relays.any (fun r => decide (r.1 = uid) && decide (s.time < r.2 + ticksMs)) = true then s
    else ({ s with fab := { s.fab with
      relays := s.fab.relays.filter (fun r => !decide (r.1 = uid) && decide (s.time < r.2 + ticksMs)) ++ [(uid, s.time)] } } :
        State).sendLocal (1 - p) 8 0 ([0x10, 0] ++ leBytes 2 resetKey ++ leBytes 8 uid) := by
  refine if_neg ?_
  rintro (h | h | h)
  · exact absurd h (Bool.eq_false_iff.1 hi)
  · exact h hk
  · omega

end

/-- Settles O49: a frame by the checks in their order, a link by its state, the rest as their own definitions say. -/
theorem framesLinksAndBreaks : Obligations.FramesLinksAndBreaks := by
  unfold Obligations.FramesLinksAndBreaks
  refine ⟨fun s f h hh => ?frames, fun s ha => ⟨fun p rate host => ?rises, fun p => ?falls, fun u hu => ?breaks,
    fun p c => next_inRun ha rfl, next_inRun ha rfl, fun p key uid => ?reset⟩⟩
  case frames =>
    intro did asleep
    refine ⟨fun hi => congrArg Host.Outcome.next (frameIn_ignored hi), fun hl ht => ⟨fun hd => ?_, fun hd => ?_, fun hd hc hr => ?_,
      fun hd hr hp => ?_, fun hd hr hp he hs p dl u hpp hdl hu => ?_⟩⟩
    · exact congrArg Host.Outcome.next (frameIn_discarded hh hl ht hd)
    · exact congrArg Host.Outcome.next (frameIn_discarded hh hl ht hd)
    · exact congrArg Host.Outcome.next (frameIn_dropped hh hl ht hd hc hr)
    · have port : f.port.val = 2 := by rw [hp]; rfl
      exact congrArg Host.Outcome.next ((frameIn_roomy hh hl ht hd hr).trans (if_pos port))
    · have port : f.port.val ≠ 2 := fun h2 => hp (Fin.ext h2)
      have split := (frameIn_roomy hh hl ht hd hr).trans ((if_neg port).trans (accepted_split he hs hpp hdl rfl hu))
      refine ⟨fun hb ho => ?_, fun hb h0 ho => ?_, fun hb ho => ?_, fun hb ho h0 => ?_, fun hb ho h0 => ?_⟩ <;>
        refine congrArg Host.Outcome.next (split.trans ?_)
      · exact (if_pos hb).trans (if_pos ho)
      · exact (if_pos hb).trans ((if_neg (by simp [h0, ho])).trans (if_neg h0))
      · exact (if_neg hb).trans (if_pos ho)
      · exact (if_neg hb).trans ((if_neg (Bool.eq_false_iff.1 ho)).trans (if_pos h0))
      · exact (if_neg hb).trans ((if_neg (Bool.eq_false_iff.1 ho)).trans (if_neg h0))
  case rises =>
    refine ⟨fun hu => next_inRun ha (linkRises_up hu _ _), fun hu closing until_ x u hc ht hx hu2 v hv => ?_⟩
    have rises : s.linkRises p rate.toNat host =
        if closing then (v.sendOut 0 8 0 (linkBody linkClose [])).sendOut 1 8 0 (linkBody linkClose []) else v := by
      subst hv hu2 hx ht hc
      exact if_neg (Bool.eq_false_iff.1 hu)
    exact ⟨fun h => next_inRun ha (rises.trans (if_neg (Bool.eq_false_iff.1 h))), fun h => next_inRun ha (rises.trans (if_pos h))⟩
  case falls =>
    refine ⟨fun hu => next_inRun ha (linkFalls_down hu), fun hu q u v hq hu2 hv => ?_, exec_retrain ha,
      fun hh => next_inRun ha (if_neg fun due => ?_), fun h0 hl => next_inRun ha (if_pos (holdEndDue_iff.2 ⟨h0, hl⟩))⟩
    · have falls := linkFalls_up hu hq hu2 hv
      exact ⟨fun h2 => next_inRun ha (falls.trans (if_neg (by rw [h2]; decide))),
        fun h2 => next_inRun ha (falls.trans (if_pos (by omega)))⟩
    · obtain ⟨h0, hl⟩ := holdEndDue_iff.1 due
      exact hh.elim h0 (Nat.not_lt.2 hl)
  case breaks =>
    subst hu
    exact ⟨next_inRun ha rfl, next_inRun ha rfl⟩
  case reset =>
    refine ⟨fun h => next_inRun ha (linkReset_ignored h), fun hi hk => ?_⟩
    have asked := linkReset_keyed (uid := uid.toNat) hi hk p.isLt
    exact ⟨fun hu => next_inRun ha (asked.trans (if_pos hu)),
      fun hu ht => next_inRun ha (asked.trans ((if_neg hu).trans (if_pos ht))),
      fun hu ht => next_inRun ha (asked.trans ((if_neg hu).trans (if_neg (Bool.eq_false_iff.1 ht))))⟩

end Sys2Proof.Machine
end

