-- ==== Sys2Proof/Proofs/FabricTime.lean ====
section
/-! SUPPORT. Enumeration and addresses, the link delay, fabric time and wake tokens (R385, R387, R393 to R395, R400 to R402). -/

namespace Sys2Proof.Machine

/-! ## Addresses (R385, R387) -/

section
variable {s : State}

/-- The report and the frame with which ENUMERATE goes on, from the state and the next address that it leaves. -/
theorem enumerate_reports {src next pos : Nat} {u v : State} {n : Nat}
    (hu : u = (s.setFld FAB_STAT FAB_STAT_DLHOST src).leaveQuarantine)
    (hr : (if s.addrLocked ∧ s.addr ≠ 0 then (u, Nat.max next (s.addr + 1))
      else if 0xFA < next then ((u.adopt 0).enterQuarantine, next + 1) else (u.adopt next, next + 1)) = (v, n)) :
    s.enumerate src next pos = (v.sendReport src pos).put 1
      { frame := { port := 1, kind := 6, hops := 0, dest := 0xFFFF, src := src, tc := 2, dateline := false, retry := false,
                   session := 0, seq := 0, body := [0, 0] ++ leBytes 2 n ++ leBytes 2 (pos + 1) }
        from_ := none } := by
  subst hu
  rw [State.enumerate]
  simp only [hr]
  rfl

theorem assign_other {src a uid : Nat} (h : ¬(uid = s.uid ∧ 1 ≤ a ∧ a ≤ 250)) : s.assign src a uid = s := if_neg h

theorem assign_adopts {src a uid : Nat} (h : uid = s.uid ∧ 1 ≤ a ∧ a ≤ 250) {t : State} (ht : t = (s.adopt a).leaveQuarantine) :
    s.assign src a uid = (if s.addrLocked then { t with lockRec := some a } else t : State).sendReport src 0 := by
  subst ht
  exact if_pos h

/-! ## Fabric time (R393 to R395) -/

/-- The answer of a link-delay measurement (R393). -/
theorem pdelayResp_none {p step residence : Nat} (h : (s.link p).reqAt = none) : s.pdelayResp p step residence = s := by
  rw [State.pdelayResp, h]

theorem pdelayResp_some {p step residence t : Nat} (h : (s.link p).reqAt = some t) : s.pdelayResp p step residence =
    (s.setLink p { s.link p with reqAt := none }).setRg (FAB_P_DELAY p)
      (BitVec.ofNat 32 (((64 * s.time + step - t) * 2560 - residence) / 2)) := by
  rw [State.pdelayResp, h]
  rfl

/-- A SYNC is passed on, and one of a host is noted; that of the master measures the fabric time (R394). -/
theorem sync_measures {p hops src seq origin frac : Nat} {corr : Int} {step residence : Nat} {dl : Bool} (hp : p < 2) {delay : Int}
    (hd : delay = (s.rg (FAB_P_DELAY p)).toNat) {u v : State}
    (hu : u = if hops = 0 ∨ src = s.addr then s
      else s.put (1 - p)
        { frame := { port := 1 - p, kind := 5, hops := hops - 1, dest := 0xFFFF, src := src, tc := 0, dateline := dl,
                     retry := false, session := 0, seq := seq,
                     body := [0, 0, 0, 0] ++ leBytes 8 origin ++ leBytes 2 frac ++ leBytes 8 (unsigned 64 (corr + residence + delay)) }
          from_ := none })
    (hv : v = { u with fab := { u.fab with syncs := FMap.set (fun _ => 0) u.fab.syncs src (s.time + 1) } }) :
    s.sync p hops src seq origin frac corr step residence dl =
      if isHost src then (if v.master = src then v.servo step ((origin : Int) * 65536 + frac + corr + delay) else v) else u := by
  have nearPort : (hops = 0 ∨ src = s.addr ∨ 2 ≤ p) ↔ (hops = 0 ∨ src = s.addr) := or_congr_right (or_iff_left (by omega))
  subst hd hv hu
  exact congrArg (fun w : State => if isHost src then
    (if ({ w with fab := { w.fab with syncs := FMap.set (fun _ => 0) w.fab.syncs src (s.time + 1) } } : State).master = src then
      ({ w with fab := { w.fab with syncs := FMap.set (fun _ => 0) w.fab.syncs src (s.time + 1) } } : State).servo step
        ((origin : Int) * 65536 + frac + corr + (s.rg (FAB_P_DELAY p)).toNat)
     else { w with fab := { w.fab with syncs := FMap.set (fun _ => 0) w.fab.syncs src (s.time + 1) } }) else w)
    (if_congr nearPort rfl rfl)

section
variable {step : Nat} {m part err : Int} (hp : part = (step : Int) * 2560)
include hp

theorem servo_first (h : s.tmap = none) : s.servo step m = (({ s with
    tmap := some { tick := s.time, ns16 := m - part, rate := rateNominal }
    fab := { s.fab with goodRun := 0, lastSync := some s.time } } : State).setRg FAB_SYNC 0).setTimeValid false := by
  subst hp
  rw [State.servo, h]
  rfl

variable {k : TimeMap} (h : s.tmap = some k) (he : err = m - (s.fabNs16 + part)) {w : State}
  (hw : w = ({ s with fab := { s.fab with lastSync := some s.time } } : State).setRg FAB_SYNC (BitVec.ofInt 32 err))
include h he hw

theorem servo_steps (hl : 65536000 < err.natAbs) : s.servo step m = ({ w with
    tmap := some { k with tick := s.time, ns16 := m - part }
    fab := { w.fab with goodRun := 0 } } : State).setTimeValid false := by
  subst hp he hw
  rw [State.servo, h]
  exact if_pos hl

theorem servo_steers (hl : err.natAbs ≤ 65536000) {run : Nat} (hr : run = if err.natAbs < 6553600 then w.fab.goodRun + 1 else 0) :
    s.servo step m =
      if 8 ≤ run then (({ w with fab := { w.fab with goodRun := run } } : State).steer err).setTimeValid true
      else ({ w with fab := { w.fab with goodRun := run } } : State).steer err := by
  subst hp he hw hr
  rw [State.servo, h]
  exact if_neg (Nat.not_lt.2 hl)

end

theorem syncLost_named {late : Bool} (h : late = (match s.fab.lastSync with
    | some t => decide (t + 4000000 ≤ s.time)
    | none => true)) : s.syncLost = (s.timeValid && late) := by
  subst h
  rfl

/-! ## Wake tokens (R401) -/

theorem wakeTokenIn_deaf {p a reason : Nat} (h : p ≠ 0 ∨ (s.linkUp 0 = true ∧ s.power ≠ .watch)) : s.wakeTokenIn p a reason = s := by
  refine if_pos ?_
  obtain rfl | hp := Nat.eq_zero_or_pos p
  · exact h.elim (absurd rfl) .inl
  · exact .inr (by omega)

section
variable {a reason : Nat} (h : s.linkUp 0 = false ∨ s.power = .watch) {mine : Bool}
  (hm : mine = (decide (a = 0xFFFF) || (decide (a = s.addr) && !s.quarantined))) {t u : State}
  (ht : t = (s.count FAB_WAKE FAB_WAKE_COUNT 1).setFld FAB_WAKE FAB_WAKE_REASON reason)
  (hu : u = if s.latchesWake then (t.setFld PWR_WAKE PWR_WAKE_TOKEN reason).wakeEvent wakeToken else t)
include h hm ht hu

theorem wakeTokenIn_heard : s.wakeTokenIn 0 a reason =
    if ¬mine ∨ a = 0xFFFF then
      (if s.linkUp 1 ∧ s.power ≠ .watch then (if mine then u else s)
       else (if mine then u else s).count FAB_WAKE FAB_WAKE_REGEN 1)
    else if mine then u else s := by
  have hears : ¬(s.linkUp 0 = true ∧ s.power ≠ .watch ∨ (0 : Nat) ≠ 0) := by
    rintro (⟨up, run⟩ | h0)
    · exact h.elim (fun down => absurd up (by simp [down])) run
    · exact h0 rfl
  subst hm ht hu
  exact if_neg hears

theorem wakeTokenIn_own (hk : mine = true) (hb : a ≠ 0xFFFF) : s.wakeTokenIn 0 a reason = u := by
  simp [wakeTokenIn_heard h hm ht hu, hk, hb]

theorem wakeTokenIn_all (hb : a = 0xFFFF) :
    s.wakeTokenIn 0 a reason = if s.linkUp 1 ∧ s.power ≠ .watch then u else u.count FAB_WAKE FAB_WAKE_REGEN 1 := by
  have named : mine = true := by simp [hm, hb]
  rw [wakeTokenIn_heard h hm ht hu, if_pos (.inr hb)]
  simp only [named, if_true]

theorem wakeTokenIn_other (hk : mine = false) :
    s.wakeTokenIn 0 a reason = if s.linkUp 1 ∧ s.power ≠ .watch then s else s.count FAB_WAKE FAB_WAKE_REGEN 1 := by
  simp [wakeTokenIn_heard h hm ht hu, hk]

end

end

/-- Settles O50: each frame by its own rule. -/
theorem addressesFabricTimeAndWakeTokens : Obligations.AddressesFabricTimeAndWakeTokens := by
  unfold Obligations.AddressesFabricTimeAndWakeTokens
  refine ⟨fun s ha => ⟨fun src next pos u hu => ?enumerate, fun src => next_inRun ha rfl, fun src a uid => ?assign,
    fun p hops src seq frac origin corr step residence delay dl u v hd hdl hu hv => ?sync, fun late hl => ?timeout, next_inRun ha rfl,
    fun p step residence => ⟨next_inRun ha rfl, fun h => next_inRun ha (pdelayResp_none h), fun t h => next_inRun ha (pdelayResp_some h)⟩,
    fun src a reason => next_inRun ha rfl⟩, fun s p a reason => ?token⟩
  case enumerate =>
    exact ⟨fun hk => next_inRun ha (enumerate_reports hu (if_pos hk)),
      fun hk hn => next_inRun ha (enumerate_reports hu ((if_neg hk).trans (if_pos hn))),
      fun hk hn => next_inRun ha (enumerate_reports hu ((if_neg hk).trans (if_neg (Nat.not_lt.2 hn))))⟩
  case assign =>
    refine ⟨fun h => next_inRun ha (assign_other h), fun h1 h2 h3 t ht => ?_⟩
    have adopts := assign_adopts (src := src.toNat) ⟨h1, h2, h3⟩ ht
    exact ⟨fun h => next_inRun ha (adopts.trans (by rw [if_pos h])),
      fun h => next_inRun ha (adopts.trans (by rw [if_neg (Bool.eq_false_iff.1 h)]))⟩
  case sync =>
    have measures := sync_measures (step := step.toNat) p.isLt hd hu hv
    subst hdl
    refine ⟨fun h => next_inRun ha (measures.trans (if_neg (Bool.eq_false_iff.1 h))),
      fun h hm => next_inRun ha (measures.trans ((if_pos h).trans (if_neg hm))), fun h hm m hmm part err w hp he hw run hr => ?_⟩
    have servo := measures.trans ((if_pos h).trans (if_pos hm))
    rw [← hmm] at servo
    refine ⟨fun h0 => next_inRun ha (servo.trans (servo_first hp h0)),
      fun k hk hl => next_inRun ha (servo.trans (servo_steps hp hk he hw hl)), fun h0 hl => ?_⟩
    obtain ⟨k, hk⟩ := Option.ne_none_iff_exists'.1 h0
    have steers := servo.trans (servo_steers hp hk he hw hl hr)
    exact ⟨fun h8 => next_inRun ha (steers.trans (if_neg (Nat.not_le.2 h8))), fun h8 => next_inRun ha (steers.trans (if_pos h8))⟩
  case timeout =>
    have lost := syncLost_named hl
    exact ⟨fun h => next_inRun ha (if_neg (by simpa [lost, imp_iff_not_or] using h)),
      fun hv ht => next_inRun ha (if_pos (by rw [lost, hv, ht]; rfl))⟩
  case token =>
    intro did mine
    refine ⟨fun h => congrArg Host.Outcome.next (wakeTokenIn_deaf (h.imp_left fun hp => ?_)), fun hp h t u ht hu => ?_⟩
    · rw [hp]
      decide
    · subst hp
      exact ⟨fun hm hb => congrArg Host.Outcome.next (wakeTokenIn_own h rfl ht hu hm hb),
        fun hb => congrArg Host.Outcome.next (wakeTokenIn_all h rfl ht hu hb),
        fun hm => congrArg Host.Outcome.next (wakeTokenIn_other h rfl ht hu hm)⟩

end Sys2Proof.Machine
end

