-- ==== Sys2Proof/Proofs/TwinPairs.lean ====
section
/-! SUPPORT. A twin pair: the write that enables it, heartbeats, the lease, a loss and its confirmation, the frames that confirm, and
SWITCH (R405 to R423). -/

namespace Sys2Proof.Machine

/-! ## Enabling a pair, and SWITCH (R405, R414, R423) -/

section
variable {s : State} {v : Word}

theorem unitWrite_twnCfg {m v : Word} : s.unitWrite 0 0 (s.wr TWN_CFG m v) = s.writeTwn (s.wr TWN_CFG m v) := by
  obtain ⟨-, addr, -, -⟩ := wr_base s _ _ _ _ m v _ _ _ at_TWN_CFG
  exact unitWrite_twn s 0 0 _ _ addr (by decide)

theorem twnCfg_was {m v : Word} : (s.wr TWN_CFG m v).was TWN_CFG_EN = s.fld TWN_CFG TWN_CFG_EN := by
  rw [Wr.was, wr_old_twn s _ _ _ _ m v _ _ _ at_TWN_CFG (by decide), State.fld]

section
variable {w : Wr} (hb : w.base = TWN_CFG) (hf : w.fld TWN_CFG_EN = 1)
include hb hf

theorem writeTwn_enabled (he : w.was TWN_CFG_EN = 1) :
    s.writeTwn w = if w.changes (~~~TWN_CFG_EN.mask) then (s, .state) else (s.plainWrite w, .ok) := by
  have stays : ¬w.fld TWN_CFG_EN = 0 := by simp [hf]
  rw [State.writeTwn, if_pos hb, if_pos he, if_neg stays]

theorem writeTwn_enables (he : w.was TWN_CFG_EN ≠ 1) : s.writeTwn w =
    if ¬s.pairOk (w.fld TWN_CFG_PAIR_ADDR) then (s, .range)
    else if ¬s.addrLocked then (s, .state)
    else ((s.plainWrite w).twinEnable, .ok) := by
  rw [State.writeTwn, if_pos hb, if_neg he, if_pos hf]

end

theorem pairOk_iff {a : Nat} : s.pairOk a = true ↔ 1 ≤ a ∧ a ≤ 250 ∧ a ≠ s.addr := by simp [State.pairOk, and_assoc]

variable (ha : s.awake = true)
include ha

section
variable {w : Wr} (hw : w = s.wr TWN_CFG 0xFFFFFFFF (v.setF TWN_CFG_EN 1)) {u : State} {st : Status}
include hw

theorem exec_twinEnable (hq : s.writeTwn w = (u, st)) : exec (.twinEnable v) s = .next (u.done st 0 []) := by
  subst hw
  exact congrArg Host.Outcome.next (regWrite_answers at_TWN_CFG ha (by decide) (by decide) (unitWrite_twnCfg.trans hq))

theorem exec_twinEnable_again (he : s.twinEn = true)
    (hq : (if w.changes (~~~TWN_CFG_EN.mask) then (s, .state) else (s.plainWrite w, .ok)) = (u, st)) :
    exec (.twinEnable v) s = .next (u.done st 0 []) := by
  refine exec_twinEnable ha hw (Eq.trans ?_ hq)
  subst hw
  obtain ⟨base, -, -, -⟩ := wr_base s _ _ _ _ 0xFFFFFFFF (v.setF TWN_CFG_EN 1) _ _ _ at_TWN_CFG
  exact writeTwn_enabled base (on_fld s TWN_CFG_EN at_TWN_CFG v (by decide) rfl (by decide))
    (twnCfg_was.trans (State.fld_of_flag s _ _ rfl he))

theorem exec_twinEnable_first (he : s.twinEn = false)
    (hq : (if ¬s.pairOk (v.getF TWN_CFG_PAIR_ADDR) then (s, .range)
      else if ¬s.addrLocked then (s, .state)
      else ((s.plainWrite w).twinEnable, .ok)) = (u, st)) :
    exec (.twinEnable v) s = .next (u.done st 0 []) := by
  refine exec_twinEnable ha hw (Eq.trans ?_ hq)
  subst hw
  obtain ⟨base, -, -, -⟩ := wr_base s _ _ _ _ 0xFFFFFFFF (v.setF TWN_CFG_EN 1) _ _ _ at_TWN_CFG
  have was : (s.wr TWN_CFG 0xFFFFFFFF (v.setF TWN_CFG_EN 1)).was TWN_CFG_EN ≠ 1 := by
    rw [twnCfg_was, State.fld_of_not_flag s _ _ he]
    decide
  have enables := writeTwn_enables (s := s) base (on_fld s TWN_CFG_EN at_TWN_CFG v (by decide) rfl (by decide)) was
  rwa [on_fld_ne s TWN_CFG_EN at_TWN_CFG v TWN_CFG_PAIR_ADDR (by decide) (by decide) (by decide) (by decide)] at enables

end

theorem exec_switch : exec .switch s = .next (s.switchOver.1.done s.switchOver.2 0 []) := by
  obtain ⟨base, addr, -, -⟩ := wr_base s _ _ _ _ TWN_CMD_SWITCH.mask TWN_CMD_SWITCH.mask _ _ _ at_TWN_CMD
  have acts : (s.wr TWN_CMD TWN_CMD_SWITCH.mask TWN_CMD_SWITCH.mask).acts TWN_CMD_SWITCH = true :=
    (wr_acts at_TWN_CMD _ (by decide) (by decide)).trans (by decide)
  have written : s.unitWrite 0 0 (s.wr TWN_CMD TWN_CMD_SWITCH.mask TWN_CMD_SWITCH.mask) = s.switchOver := by
    rw [unitWrite_twn s 0 0 _ _ addr (by decide), State.writeTwn, if_neg (by rw [base]; decide), if_pos base, if_pos acts]
  exact congrArg Host.Outcome.next (regWrite_answers at_TWN_CMD ha (by decide) (by decide) written)

end

/-! ## Heartbeats, loss and its confirmation (R411, R414) -/

section
variable {s : State}

theorem heartbeat_other {h : HeartBeat} (hd : s.twinEn = false ∨ h.dest.toNat ≠ s.pairAddr) : s.heartbeat h = s :=
  if_pos (by simpa using hd)

theorem heartbeat_clash {h : HeartBeat} (he : s.twinEn = true) (hd : h.dest.toNat = s.pairAddr) (hm : h.member = s.member) :
    s.heartbeat h = (s.raise 26 s.mirState).faultRaise fltTwinClash 0 2 s.mirState :=
  (if_neg (by simp [he, hd])).trans (if_pos hm)

theorem standby_of_twinActive (h : s.twinActive = true) : s.standby = false := by
  rw [State.twinActive, decide_eq_true_iff] at h
  simp [State.standby, h]

theorem probeDue_none (h : s.twin.lossAt = none) : s.probeDue = false := by rw [State.probeDue, h]

theorem confirmDue_none (h : s.twin.lossAt = none) : s.confirmDue = false := by rw [State.confirmDue, h]

section
variable {t : Nat} (h : s.twin.lossAt = some t)
include h

theorem probeDue_iff : s.probeDue = true ↔ 1 ≤ s.twin.probes ∧ s.twin.probes < 3 ∧ t + 12000 * s.twin.probes ≤ s.time := by
  have ticks : 30 * s.twin.probes * ticksUs = 12000 * s.twin.probes := by
    rw [ticksUs]
    omega
  simp [State.probeDue, h, ticks, and_assoc]

theorem confirmDue_iff : s.confirmDue = true ↔ t + 36000 ≤ s.time := by
  have ticks : 90 * ticksUs = 36000 := rfl
  simp [State.confirmDue, h, ticks]

end

end

/-- Settles O51: the write of TWN_CFG by its checks, each happening by what makes it due. -/
theorem twinPairsAndTakeover : Obligations.TwinPairsAndTakeover := by
  unfold Obligations.TwinPairsAndTakeover
  intro s ha
  refine ⟨fun v w hw => ?enable, ⟨fun h => next_inRun ha (if_neg (Bool.eq_false_iff.1 h)),
      fun h hl => next_inRun ha ((if_pos h).trans (if_pos hl)),
      fun h hl => next_inRun ha ((if_pos h).trans (if_neg (Bool.eq_false_iff.1 hl)))⟩, ?beats, fun h => ?heartbeat,
    ⟨fun h => next_inRun ha (if_neg (Bool.eq_false_iff.1 h)), fun h => next_inRun ha (if_pos h)⟩, fun t ht => ?loss,
    fun h => ⟨next_inRun ha (if_neg (Bool.eq_false_iff.1 (probeDue_none h))),
      next_inRun ha (if_neg (Bool.eq_false_iff.1 (confirmDue_none h)))⟩, fun t ht => ?confirmed, fun pair => ?frames, ?switch⟩
  case enable =>
    refine ⟨fun he hc => exec_twinEnable_again ha hw he (if_pos hc),
      fun he hc => exec_twinEnable_again ha hw he (if_neg (Bool.eq_false_iff.1 hc)), fun he hr => ?_, fun he h1 h2 h3 hl => ?_,
      fun he h1 h2 h3 hl u hu => ?_⟩
    · refine exec_twinEnable_first ha hw he (if_pos (mt pairOk_iff.1 ?_))
      rintro ⟨h1, h2, h3⟩
      omega
    · have allowed := pairOk_iff.2 ⟨h1, h2, h3⟩
      exact exec_twinEnable_first ha hw he ((if_neg (not_not_intro allowed)).trans (if_pos (Bool.eq_false_iff.1 hl)))
    · have allowed := pairOk_iff.2 ⟨h1, h2, h3⟩
      have starts : (s.plainWrite w).twinEnable = ((u.setMir mirSearch).beat false).sendProbe := by
        rw [hu, ← plainWrite_time s w]
        rfl
      rw [← starts]
      exact exec_twinEnable_first ha hw he ((if_neg (not_not_intro allowed)).trans (if_neg (not_not_intro hl)))
  case beats =>
    have due : s.beatDue = true ↔ s.twinEn = true ∧ s.twin.nextBeat ≤ s.time := by simp [State.beatDue]
    refine ⟨fun h => next_inRun ha (if_neg (mt due.1 ?_)), fun he hl => next_inRun ha (if_pos (due.2 ⟨he, hl⟩))⟩
    rintro ⟨he, hl⟩
    exact h.elim (fun off => absurd he (Bool.eq_false_iff.1 off)) (Nat.not_lt.2 hl)
  case heartbeat =>
    intro did
    refine ⟨fun hd => next_inRun ha (heartbeat_other hd), fun he hd => ⟨fun hm => next_inRun ha (heartbeat_clash he hd hm),
      fun hm c r t hc hr ht => ?_⟩⟩
    have heard := hb_eq s h t c r he hd hm hc hr ht
    refine ⟨fun hs => ⟨fun h1 => ?_, fun h0 hn => ?_, fun h1 h0 => ?_⟩, fun hs hy => ⟨fun h1 hyl => ⟨fun hw => ?_, fun hw => ?_⟩,
      fun h1 => ?_⟩, fun hs hy => ?_⟩ <;> refine next_inRun ha (heard.trans ?_)
    · exact (if_pos hs).trans (if_pos h1)
    · exact (if_pos hs).trans ((if_neg (by rw [h0]; decide)).trans (if_pos ⟨h0, by simp [hn]⟩))
    · refine (if_pos hs).trans ((if_neg h1).trans (if_neg ?_))
      rintro ⟨zero, own⟩
      exact h0.elim (absurd zero) (fun m => own m)
    · exact (if_neg (Bool.eq_false_iff.1 hs)).trans ((if_pos hy).trans ((if_pos ⟨h1, hyl⟩).trans (if_pos hw)))
    · exact (if_neg (Bool.eq_false_iff.1 hs)).trans
        ((if_pos hy).trans ((if_pos ⟨h1, hyl⟩).trans (if_neg (Bool.eq_false_iff.1 hw))))
    · refine (if_neg (Bool.eq_false_iff.1 hs)).trans ((if_pos hy).trans (if_neg ?_))
      rintro ⟨one, yields⟩
      exact h1.elim (absurd one) (fun no => Bool.eq_false_iff.1 no yields)
    · exact (if_neg (Bool.eq_false_iff.1 hs)).trans
        ((if_neg (Bool.eq_false_iff.1 (standby_of_twinActive hy))).trans (if_pos hy))
  case loss =>
    subst ht
    refine ⟨fun h => next_inRun ha (if_neg (Bool.eq_false_iff.1 h)), fun h hy => next_inRun ha ((if_pos h).trans (if_pos hy)),
      fun h hy u hu => ⟨fun hact => ?_, fun hact => ?_⟩⟩ <;> subst hu
    · exact next_inRun ha ((if_pos h).trans ((if_neg (Bool.eq_false_iff.1 hy)).trans (if_pos hact)))
    · exact next_inRun ha ((if_pos h).trans ((if_neg (Bool.eq_false_iff.1 hy)).trans (if_neg (Bool.eq_false_iff.1 hact))))
  case confirmed =>
    refine ⟨fun h => next_inRun ha (if_neg (mt (probeDue_iff ht).1 (by omega))),
      fun h1 h2 h3 => next_inRun ha (if_pos ((probeDue_iff ht).2 ⟨h1, h2, h3⟩)),
      fun h => next_inRun ha (if_neg (mt (confirmDue_iff ht).1 (by omega))), fun h u hu => ?_⟩
    have due := (confirmDue_iff ht).2 h
    subst hu
    refine ⟨fun hl => next_inRun ha ((if_pos due).trans (if_pos hl)),
      fun hl hm => next_inRun ha ((if_pos due).trans ((if_neg (Bool.eq_false_iff.1 hl)).trans (if_pos hm))),
      fun hl h1 h2 => next_inRun ha ((if_pos due).trans ((if_neg (Bool.eq_false_iff.1 hl)).trans (if_neg ?_)))⟩
    rintro (h3 | h4)
    · exact h1 h3
    · exact h2 h4
  case frames =>
    intro mine
    have probes : s.twinEn = true ∧ s.twinActive = true ∧ pair.toNat = s.pairAddr ↔ mine ∧ s.twinActive = true := by tauto
    have alive : s.twinEn = true ∧ ¬s.twinActive = true ∧ pair.toNat = s.pairAddr ↔ mine ∧ s.twinActive = false := by
      rw [Bool.not_eq_true]
      tauto
    have splits : s.twinEn = true ∧ s.twinActive = true ∧ pair.toNat = s.pairAddr ∧ ¬s.faultActive fltTwinSplit 0 = true ↔
        mine ∧ s.twinActive = true ∧ s.faultActive fltTwinSplit 0 = false := by
      rw [Bool.not_eq_true]
      tauto
    exact ⟨fun h => next_inRun ha (if_pos (probes.2 h)), fun h => next_inRun ha (if_neg (mt probes.1 h)),
      fun h => next_inRun ha (if_pos (alive.2 h)), fun h => next_inRun ha (if_neg (mt alive.1 h)),
      fun h => next_inRun ha (if_pos (splits.2 h)), fun h => next_inRun ha (if_neg (mt splits.1 h))⟩
  case switch =>
    intro may
    have allowed : s.twinEn = true ∧ s.twinActive = true ∧ s.twin.peerInSync = true ∧ s.flag TWN_STAT TWN_STAT_PARTNER = true ↔
        may = true := by simp [may, and_assoc]
    refine ⟨fun h => (exec_switch ha).trans ?_, fun h => (exec_switch ha).trans ?_⟩
    · rw [State.switchOver, if_pos (allowed.2 h)]
    · rw [State.switchOver, if_neg (mt allowed.1 (Bool.eq_false_iff.1 h))]

end Sys2Proof.Machine
end

