-- ==== Sys2Proof/Proofs/TwinMirror.lean ====
section
/-! SUPPORT. The mirror of a twin pair: what arrives in sequence, the epochs, and what a standby asks for (R409 to R412, R417, R421). -/

namespace Sys2Proof.Machine

section
variable {s : State}

/-- A frame in sequence is noted, and one that comes after a gap makes the standby STALE (R411, R412). -/
theorem seqArrive_eq {q : Nat} {t u : State} (ht : t = s.setTwin { s.twin with seqIn := some q })
    (hu : u = if s.twin.seqIn = none ∨ s.twin.seqIn.map (fun p => (p + 1) % 65536) = some q then t else t.goStale) :
    s.seqArrive q = u := by
  subst ht hu
  rw [State.seqArrive]
  cases s.twin.seqIn with
  | none => exact (if_pos (.inl rfl)).symm
  | some p => exact if_congr (by simp) rfl rfl

section
variable (h : s.twinEn = true ∧ s.standby = true)
include h

/-- An EPOCH sets the number, is answered, and asks for what has differed twice; STALE ends once nothing is wanted (R410, R412). -/
theorem epochIn_follows {q : Nat} {number : BitVec 32} {ds : List Nat} {u v w x : State} {d : Nat} (hu : s.seqArrive q = u)
    (hv : v = u.setRg TWN_EPOCH number) (hd : d = differMask 0 v.twin.digests ds)
    (hw : w = v.sendNumbered 3 (leBytes 4 number.toNat ++ leBytes 2 d ++ leBytes 2 (d / 65536)))
    (hx : x = (bitsSet 32 (Nat.land d v.twin.differ)).foldl (fun y k => y.askResync k)
      (w.setTwin { w.twin with awaited := none, differ := d, epochDone := w.twin.joined })) :
    s.epochIn q number.toNat ds = if x.mirState = mirStale ∧ x.twin.wanted = 0 then x.setMir mirInSync else x := by
  have same : BitVec.ofNat 32 number.toNat = number := BitVec.ofNat_toNat 32 number |>.trans (BitVec.setWidth_eq number)
  subst hx hw hd hv hu
  refine (if_pos h).trans ?_
  rw [same]

end

section
variable {t : State} (ht : t = s.setTwin { s.twin with boundary := s.fabNs / 100000 }) (h : s.epochDue = true)
include ht h

theorem epochBoundary_due : s.epochBoundary =
    if t.mirroring then
      (t.mirrorThreads.setRg TWN_EPOCH (BitVec.ofNat 32 (((t.rg TWN_EPOCH).toNat + 1) % 2 ^ 32))).sendNumbered 2
        (leBytes 4 (((t.rg TWN_EPOCH).toNat + 1) % 2 ^ 32) ++ t.allDigests.flatMap fun d => leBytes 4 d)
    else if t.standby then t.setTwin { t.twin with awaited := some s.time, digests := s.allDigests }
    else t := by
  subst ht
  exact if_pos h

end

end

/-- Settles O52: what arrives, by whether the member follows; each boundary by whether it is due. -/
theorem twinMirrorAndEpochs : Obligations.TwinMirrorAndEpochs := by
  unfold Obligations.TwinMirrorAndEpochs
  intro s ha follows
  have following : follows = true ↔ s.twinEn = true ∧ s.standby = true := by simp [follows]
  refine ⟨fun seq part item number ds => ⟨fun hf => ?alone, fun hf t u ht hu => ?follows⟩,
    fun t ht => ⟨fun h => next_inRun ha (if_neg (Bool.eq_false_iff.1 h)), fun h => ?boundary⟩,
    fun seq shafts lanes => ⟨fun h => ?ack, fun h => next_inRun ha (if_neg (Bool.eq_false_iff.1 h))⟩, fun i t ht => ?resync,
    fun late hl => ?timeout, fun over_ ho => ?joining⟩
  case alone =>
    have stays := mt following.2 (Bool.eq_false_iff.1 hf)
    exact ⟨next_inRun ha (if_neg stays), next_inRun ha (if_neg stays), next_inRun ha (if_neg stays)⟩
  case follows =>
    have shadow := following.1 hf
    have arrives := seqArrive_eq ht hu
    refine ⟨next_inRun ha ((if_pos shadow).trans (by rw [arrives])), next_inRun ha ((if_pos shadow).trans (by rw [arrives])),
      fun v w x d hv hd hw hx => ?_⟩
    have epoch := epochIn_follows shadow arrives hv hd hw hx
    refine ⟨fun hm h0 => next_inRun ha (epoch.trans (if_pos ⟨hm, h0⟩)), fun hn => next_inRun ha (epoch.trans (if_neg hn))⟩
  case boundary =>
    have due := epochBoundary_due ht h
    refine ⟨fun hm n hn => ?_, fun hm hy => next_inRun ha (due.trans ((if_neg (Bool.eq_false_iff.1 hm)).trans (if_pos hy))),
      fun hm hy => next_inRun ha (due.trans ((if_neg (Bool.eq_false_iff.1 hm)).trans (if_neg (Bool.eq_false_iff.1 hy))))⟩
    subst hn
    exact next_inRun ha (due.trans (if_pos hm))
  case ack =>
    refine next_inRun ha ((if_pos h).trans ?_)
    rw [Nat.mod_eq_of_lt shafts.isLt, Nat.mod_eq_of_lt lanes.isLt]
  case resync =>
    subst ht
    exact ⟨fun h => ⟨next_inRun ha (if_pos h), next_inRun ha (if_pos h)⟩,
      fun lane h => next_inRun ha (if_neg (Bool.eq_false_iff.1 h))⟩
  case timeout =>
    have due : s.epochLate = late := by
      subst hl
      rfl
    exact ⟨fun h => next_inRun ha (if_neg (Bool.eq_false_iff.1 (due.trans h))), fun h => next_inRun ha (if_pos (due.trans h))⟩
  case joining =>
    have due : s.joiningDue = over_ := by
      subst ho
      rfl
    exact ⟨fun h => next_inRun ha (if_neg (Bool.eq_false_iff.1 (due.trans h))), fun h => next_inRun ha (if_pos (due.trans h))⟩

end Sys2Proof.Machine
end

