-- ==== Sys2Proof/Proofs/PowerGovernor.lean ====
section
/-! SUPPORT. The energy governor and its levels, and Watch entered and left (R424 to R442). -/

namespace Sys2Proof.Machine

section
variable {s : State}

/-! ## A governor period (R439, R440) -/

section
variable {p : Nat} {j : Junctions} {t u : State} {rung credit : Nat} {boost : Bool}
  (ht : t = ((s.takePin p).takeJunctions j).takeGrant) (hr : rung = ladder (s.fld PWR_STAT PWR_STAT_RUNG) j.top.2)
  (hc : credit = ({ t with periodNo := t.periodNo + 1 } : State).credit)
  (hb : boost = (decide (1 ≤ credit) && decide (j.top.2 < 16 * 95)))
  (hu : u = ((({ t with periodNo := t.periodNo + 1 } : State).takeRung rung).setFld PWR_CREDIT PWR_CREDIT_CREDIT credit).setFlag
    PWR_STAT PWR_STAT_BOOST_OK boost)
include ht hr hc hb hu

theorem governor_trips (h4 : rung = 4) : s.governor p j = u.thermalTrip j.top.1 j.top.2 := by
  subst hu hb hc hr ht
  exact if_pos h4

section
variable (h4 : rung ≠ 4) {use peak lim old shed w1 w2 w3 want : Nat} {holdB holdC : Bool} (huse : use = u.useNow) (hpeak : peak = u.peakNow)
  (hlim : lim = if s.level = 0 then peak else use) (hold : old = u.fld PWR_STAT PWR_STAT_SHED)
  (hshed : shed = if lim < p ∧ old < 3 then old + 1 else if p ≤ 9 * lim / 10 ∧ 0 < old then old - 1 else old)
  (hw1 : w1 = if ¬boost ∨ 2 ≤ rung then max (u.fld PWR_CFG PWR_CFG_PMIN) 1 else u.fld PWR_CFG PWR_CFG_PMIN)
  (hw2 : w2 = if 3 ≤ rung then max w1 2 else w1)
  (hw3 : w3 = if shed = 3 then max w2 (if lim < p then min (s.level + 1) 3 else s.level) else w2)
  (hwant : want = if u.tripped then 3 else min (u.slower p use peak 4 w3) u.floorLevel)
  (hholdB : holdB = (decide (2 ≤ shed) || decide (2 ≤ rung))) (hholdC : holdC = (decide (1 ≤ shed) || decide (1 ≤ rung)))
  {v w : State}
  (hv : v = ((((u.setFld PWR_STAT PWR_STAT_SHED shed).setFld PWR_STAT PWR_STAT_FLOOR u.floorLevel).takeCritical
    (decide (shed = 3) && decide (lim < p) && decide (s.level = u.floorLevel)) (decide (p ≤ lim))).setLevel want).writeHolds holdB holdC)
  (hw : w = if want = 0 then v.noteBoost.bumpTally tallyBoostMs 1 else v)
include h4 huse hpeak hlim hold hshed hw1 hw2 hw3 hwant hholdB hholdC hv hw

/-- A period that does not trip: SHED, the level wanted, the holds, the scrub rate and the allowance of the supplies. -/
theorem governor_sheds : s.governor p j =
    (w.setFld POL_SCRUB POL_SCRUB_RATE (if holdC then 0 else min 15 (1 + (lim - p) / 500))).setFld FBP_SUP_BUDGET
      FBP_SUP_BUDGET_ALLOW (min 6000 ((use - v.demandNoSup) * 4 / 5)) := by
  subst hholdC hholdB hwant hw3 hw2 hw1 hshed hold hlim hpeak huse hu hb hc hr ht
  rw [hw, hv]
  exact if_neg h4

end

end

/-! ## Levels and Watch (R428, R433, R436) -/

theorem levelEnd_none (h : s.levelTo = none) : s.levelEnd = s := by rw [State.levelEnd, h]

theorem levelEnd_some {l k : Nat} (h : s.levelTo = some (l, k)) :
    s.levelEnd = ({ s with levelTo := none } : State).showLevel l := by rw [State.levelEnd, h]

theorem reclassify_saturates {mw : Nat} :
    s.reclassify mw = (s.setFld PWR_GRANT_PD PWR_GRANT_PD_PD (min 65535 mw)).takeGrant := by
  rw [State.reclassify, satTo_eq_min]

theorem watchEntry_none (h : s.watchNext = none) : s.watchEntry = s := by rw [State.watchEntry, h]

theorem watchExit_early (h : s.wakeDue = false) : s.watchExit = s := if_neg (Bool.eq_false_iff.1 h)

theorem watchExit_due (h : s.wakeDue = true) {t : State} (ht : t = s.watchWake) : s.watchExit =
    if t.flag PWR_WATCH_CFG PWR_WATCH_CFG_RECALL then (t.recall (t.fld PWR_WATCH_CFG PWR_WATCH_CFG_SLOT)).1 else t := by
  subst ht
  exact if_pos h

end

/-- Settles O53: a governor period by its rung, Watch by the acceptance and by what wakes. -/
theorem powerGovernorAndWatch : Obligations.PowerGovernorAndWatch := by
  unfold Obligations.PowerGovernorAndWatch
  intro s
  refine ⟨fun ha => ⟨fun p j t u rung credit boost ht hr hc hb hu => ⟨fun h4 => next_inRun ha (governor_trips ht hr hc hb hu h4), ?sheds⟩,
      fun h => next_inRun ha (levelEnd_none h), fun l k h => next_inRun ha (levelEnd_some h),
      fun mw => next_inRun ha reclassify_saturates, fun i k => next_inRun ha rfl⟩,
    fun h => congrArg Host.Outcome.next (watchEntry_none h), fun since h => ?entry,
    fun h => congrArg Host.Outcome.next (watchExit_early h), fun h t ht => ?exits, fun n hn => ?alarm⟩
  case sheds =>
    intro h4 use peak lim old shed w1 w2 w3 want holdB holdC huse hpeak hlim hold hshed hw1 hw2 hw3 hwant hholdB hholdC v w hv hw
    exact next_inRun ha
      (governor_sheds ht hr hc hb hu h4 huse hpeak hlim hold hshed hw1 hw2 hw3 hwant hholdB hholdC hv hw)
  case entry =>
    obtain ⟨x, r, k, b, hrun, hv, entered⟩ := watchEntry_eq s since h
    exact ⟨_, congrArg Host.Outcome.next entered, rfl, rfl, rfl, rfl, hrun, hv, rfl⟩
  case exits =>
    have leaves := watchExit_due h ht
    exact ⟨fun hr => congrArg Host.Outcome.next (leaves.trans (if_neg (Bool.eq_false_iff.1 hr))),
      fun hr => congrArg Host.Outcome.next (leaves.trans (if_pos hr))⟩
  case alarm =>
    subst hn
    exact ⟨fun h => congrArg Host.Outcome.next (if_neg (Bool.eq_false_iff.1 h)), fun h => congrArg Host.Outcome.next (if_pos h)⟩

end Sys2Proof.Machine
end

