-- ==== Sys2Proof/Proofs/CanaryEdges.lean ====
section
/-! SUPPORT. The Canary's decoders, the runs it starts in Watch and for its test, and the loading of its program (R446 to R457). -/

namespace Sys2Proof.Machine

section
variable {s : State}

/-! ## Edges (R446 to R448) -/

theorem canEdge_ignored {n : Nat} {a b dirX dirA fast : Bool} (h : s.power ≠ .watch ∨ (s.canDec n).counted = false) :
    s.canEdge n a b dirX dirA fast = s := by
  refine if_neg ?_
  rintro ⟨watch, counted⟩
  exact h.elim (absurd watch) (fun off => Bool.eq_false_iff.1 off counted)

section
variable {n : Nat} {a b dirX dirA fast : Bool} {x y : CanDec} (hx : x = s.canDec n) (hwatch : s.power = .watch)
  (hcounted : x.counted = true) {p : Nat} {va vb inv rev bad : Bool} {d : Int × Bool} {t u v : State} (hp : p = s.shc n SHF_CFG_PORT)
  (hva : va = s.afterInv p 0 a) (hvb : vb = s.afterInv p 1 b) (hinv : inv = s.flag (SHF_MOTION n) SHF_MOTION_DIR_INV)
  (hd : d = if fast then (0, true) else canDelta (s.portMode p) (s.pcf p FBP_CFG_EDGE) x.lvA x.lvB va vb)
  (hrev : rev = if s.shc n SHF_CFG_DIR_SRC = 1 then s.afterInv p 3 dirX != inv
    else if s.shc n SHF_CFG_DIR_SRC = 2 then s.afterInv (s.shc n SHF_CFG_DIR_PORT) 0 dirA != inv else false)
  (hy : y = if s.shaftSrc n = 1 then canIncr x d.1 else if d.1 = 0 then x else s.canTooth n x rev) (hbad : bad = d.2)
  (ht : t = s.setCanDec n { y with lvA := va, lvB := vb, ovr := y.ovr || fast, clean := y.clean && !bad })
  (hu : u = if bad then t.count (CAN_SH_STAT n) CAN_SH_STAT_QERR 1 else t)
  (hv : v = if s.flag (CAN_SH_CFG n) CAN_SH_CFG_MOT_WAKE ∧ s.fld (CAN_SH_CFG n) CAN_SH_CFG_MOT ≤ y.net.natAbs ∧ x.net ≠ y.net then
    u.canWake 1 n 0 else u)
include hx hwatch hcounted hp hva hvb hinv hd hrev hy hbad ht hu hv

theorem canEdge_counted : s.canEdge n a b dirX dirA fast =
    if bad ∧ x.clean ∧ s.flag (CAN_SH_CFG n) CAN_SH_CFG_DWAKE then v.canWake 2 n 0 else v := by
  subst hv hu ht hbad hy hrev hd hinv hvb hva hp hx
  exact if_pos ⟨hwatch, hcounted⟩

end

/-! ## Runs (R450, R457) -/

theorem not_watch_of_awake (ha : s.awake = true) : s.power ≠ .watch := by
  intro watch
  simp [State.awake, watch] at ha

theorem canTest_busy (hr : s.canary.run ≠ .idle) : s.canTest = s := if_pos (.inr hr)

theorem canTest_idle (hw : s.power ≠ .watch) (hr : s.canary.run = .idle) {lv : Nat} {t : State}
    (hl : lv = (List.range 16).foldl (fun n k => n + b2n (s.line k) * 2 ^ k) 0)
    (ht : t = (s.setFld CAN_TEST CAN_TEST_WOKE 0).setFld CAN_TEST CAN_TEST_CODE 0) :
    s.canTest = t.canBegin .test ((4, BitVec.ofNat 32 (lv + s.fld (FIO_BANK_STAT 0) FIO_BANK_STAT_BS_OK * 2 ^ 16 +
        s.fld (FIO_BANK_STAT 0) FIO_BANK_STAT_BANK_EN * 2 ^ 17)) :: (14, BitVec.ofNat 32 (s.fld PWR_PIN PWR_PIN_PIN)) ::
      ((List.range 6).map fun k => (8 + k, BitVec.ofInt 32 (signed 16 (s.fld (PWR_TJ k) PWR_TJ_T))))) := by
  subst hl ht
  refine if_neg ?_
  rintro (watch | busy)
  · exact hw watch
  · exact busy hr

theorem exec_canaryTest (ha : s.awake = true) : exec .canaryTest s = .next (s.canTest.done .ok 0 []) := by
  obtain ⟨base, addr, -, -⟩ := wr_base s _ _ _ _ CAN_TEST_STEP.mask CAN_TEST_STEP.mask _ _ _ at_CAN_TEST
  have acts : (s.wr CAN_TEST CAN_TEST_STEP.mask CAN_TEST_STEP.mask).acts CAN_TEST_STEP = true :=
    (wr_acts at_CAN_TEST _ (by decide) (by decide)).trans (by decide)
  have written : s.unitWrite 0 0 (s.wr CAN_TEST CAN_TEST_STEP.mask CAN_TEST_STEP.mask) = (s.canTest, .ok) := by
    rw [unitWrite_can s 0 0 _ _ addr (by decide), State.writeCan, if_neg (by rw [base]; decide), if_pos base, if_pos acts]
  exact congrArg Host.Outcome.next (regWrite_answers at_CAN_TEST ha (by decide) (by decide) written)

end

/-! ## Loading (R456) -/

section
variable {r : State} {a : Nat} {body : List Byte}

theorem canLoad_long (h : bitsOf a 31 9 ≠ 0) : r.canLoad a body = (r, .range, []) := if_pos h

theorem loadArg_high {a : Nat} (h : a < 2 ^ 32) : bitsOf a 31 9 ≠ 0 ↔ 512 ≤ a := by
  simp only [bitsOf]
  omega

section
variable (hs : ¬bitsOf a 31 9 ≠ 0)
include hs

theorem canLoad_reads (hb : bitOf a 8 = true) : r.canLoad a body =
    if body.length ≠ 4 ∨ leAt body 0 4 < 4 ∨ 1024 < leAt body 0 4 ∨ leAt body 0 4 % 4 ≠ 0 ∨ 256 < a % 256 + leAt body 0 4 / 4 then
      (r, .range, [])
    else (r, .ok, bytesOfWords ((List.range (leAt body 0 4 / 4)).map fun i => r.canWordAt (a % 256 + i))) :=
  (if_neg hs).trans (if_pos hb)

theorem canLoad_writes (hb : bitOf a 8 = false) {ws : List Word} (hw : ws = wordsOf body (body.length / 4)) : r.canLoad a body =
    if body.length < 4 ∨ 1024 < body.length ∨ body.length % 4 ≠ 0 ∨ 256 < a % 256 + body.length / 4 then (r, .range, [])
    else if (ws.any fun w => !(CanWord.ofWord w).legal (canOp w)) = true then (r, .range, [])
    else if r.power = .watch then (r, .state, [])
    else
      (if a % 256 = 0 then
        ({ r with canary := { r.canary with
          prog := (ws.foldl (fun (p : Nat × FMap Word) w => (p.1 + 1, FMap.set (fun _ => 0) p.2 p.1 w)) (a % 256, r.canary.prog)).2 } } :
            State).setFlag CAN_STAT CAN_STAT_PROG_OK true
       else { r with canary := { r.canary with
          prog := (ws.foldl (fun (p : Nat × FMap Word) w => (p.1 + 1, FMap.set (fun _ => 0) p.2 p.1 w)) (a % 256, r.canary.prog)).2 } },
        .ok, []) := by
  subst hw
  exact (if_neg hs).trans (if_neg (Bool.eq_false_iff.1 hb))

end

end

section
variable {s : State} {h : CmdHead} {c : CmdRec} {arg : BitVec 32} {body : List Byte} {fl : Flight} {r u : State} {st : Status}

theorem effect_canLoad (r : State) (ho : c.opcode = 0x58) : r.effect true false c =
    ((r.canLoad c.arg c.body).1, ends (r.canLoad c.arg c.body).2.1 0 (r.canLoad c.arg c.body).2.2) := by
  simp [State.effect, ho]

variable (hc : c = h.record 0x58 arg.toNat body) (hk : s.takes h c = true) (hr : r = s.heard h c) (hf : fl = s.flightOf h c)
include hc hk hr hf

theorem canaryLoad_reads (hb : bitOf arg.toNat 8 = true) {bs : List Byte} (hq : r.canLoad arg.toNat body = (u, st, bs)) :
    exec (.canaryLoad h arg body) s = .next (u.replied fl st 0 bs) := by
  subst hc hr hf
  refine congrArg Host.Outcome.next (command_replies s h 0x58 arg body u (ends st 0 bs) _ rfl hk (runOp_58 _ _ rfl) ?_
    (show (0x58 : Nat) ≠ 3 by decide) (show (0x58 : Nat) ≠ 4 by decide) (by simp [CmdHead.record, hb]))
  exact (effect_canLoad _ rfl).trans (congrArg (fun q : State × Status × List Byte => (q.1, ends q.2.1 0 q.2.2)) hq)

theorem canaryLoad_writes (hb : bitOf arg.toNat 8 = false) (hq : r.canLoad arg.toNat body = (u, st, [])) :
    exec (.canaryLoad h arg body) s = .next (u.ended fl st 0 []) := by
  subst hc hr hf
  refine congrArg Host.Outcome.next (command_ends s h 0x58 arg body u (ends st 0 []) _ rfl hk (runOp_58 _ _ rfl) ?_
    (show (0x58 : Nat) ≠ 3 by decide) (show (0x58 : Nat) ≠ 4 by decide) (by simp [CmdHead.record, hb]))
  exact (effect_canLoad _ rfl).trans (congrArg (fun q : State × Status × List Byte => (q.1, ends q.2.1 0 q.2.2)) hq)

end

/-- Settles O54: an edge by its decoder, a run by whether it is due, a load by its checks in their order. -/
theorem canaryEdgesRunsAndLoad : Obligations.CanaryEdgesRunsAndLoad := by
  unfold Obligations.CanaryEdgesRunsAndLoad
  intro s
  refine ⟨fun n a b dirX dirA fast x hx => ⟨fun h => ?ignored, fun hw hk p va vb inv rev bad d y t u v hp hva hvb hinv hd hrev hy hbad ht hu hv => ?edge⟩,
    fun i => ⟨fun h => congrArg Host.Outcome.next (if_neg (Bool.eq_false_iff.1 h)), fun h lv moved t net tj hl hm ht hn hj => ?run⟩,
    fun ha => ⟨fun h => ?busy, fun h lv t hl ht => ?test⟩, fun h arg body a n off c r fl harg hn hoff hc hk hr hf => ?load⟩
  case ignored =>
    subst hx
    exact congrArg Host.Outcome.next (canEdge_ignored h)
  case edge =>
    have counted := canEdge_counted (dirX := dirX) (dirA := dirA) hx hw hk hp hva hvb hinv hd hrev hy hbad ht hu hv
    exact ⟨fun h1 h2 h3 => congrArg Host.Outcome.next (counted.trans (if_pos ⟨h1, h2, h3⟩)),
      fun h1 => congrArg Host.Outcome.next (counted.trans (if_neg h1))⟩
  case run =>
    have runs : t.rg CAN_RUNS = s.rg CAN_RUNS + 1 := by simp [ht]
    rw [← runs]
    subst hj hn ht hm hl
    exact congrArg Host.Outcome.next (if_pos h)
  case busy =>
    rw [exec_canaryTest ha, canTest_busy h]
  case test =>
    rw [exec_canaryTest ha, canTest_idle (not_watch_of_awake ha) h hl ht]
  case load =>
    have high : bitsOf a 31 9 ≠ 0 ↔ 512 ≤ a := loadArg_high (harg ▸ arg.isLt)
    subst hn harg hoff
    refine ⟨fun hb => ⟨fun bad => ?_, fun h1 h2 h3 h4 h5 h6 => ?_⟩, fun hb bad ws hbad hws => ?_⟩
    · by_cases long : 512 ≤ arg.toNat
      · exact canaryLoad_reads hc hk hr hf hb (canLoad_long (high.2 long))
      · exact canaryLoad_reads hc hk hr hf hb ((canLoad_reads (mt high.1 long) hb).trans (if_pos (bad.resolve_left long)))
    · exact canaryLoad_reads hc hk hr hf hb ((canLoad_reads (mt high.1 (Nat.not_le.2 h1)) hb).trans (if_neg (by omega)))
    · subst hbad
      refine ⟨fun bad => ?_, fun good hill => ?_, fun good hleg hw prog t hp ht => ?_⟩
      · by_cases long : 512 ≤ arg.toNat
        · exact canaryLoad_writes hc hk hr hf hb (canLoad_long (high.2 long))
        · exact canaryLoad_writes hc hk hr hf hb ((canLoad_writes (mt high.1 long) hb hws).trans (if_pos (bad.resolve_left long)))
      · obtain ⟨short, sized⟩ := not_or.1 good
        exact canaryLoad_writes hc hk hr hf hb
          ((canLoad_writes (mt high.1 short) hb hws).trans ((if_neg sized).trans (if_pos hill)))
      · obtain ⟨short, sized⟩ := not_or.1 good
        have stores := (canLoad_writes (r := r) (mt high.1 short) hb hws).trans
          ((if_neg sized).trans ((if_neg (Bool.eq_false_iff.1 hleg)).trans (if_neg hw)))
        subst ht hp
        exact ⟨fun h0 => canaryLoad_writes hc hk hr hf hb (stores.trans (by rw [if_pos h0])),
          fun h0 => canaryLoad_writes hc hk hr hf hb (stores.trans (by rw [if_neg h0]))⟩

end Sys2Proof.Machine
end

