-- ==== Sys2Proof/Proofs/Tallies.lean ====
section
/-! SUPPORT. Tallies, the calendar of record and the gap records: their command registers, and what the calendar does by itself (R461 to
R472). -/

namespace Sys2Proof.Machine

section
variable {s : State}

/-! ## Tallies (R461, R464) -/

/-- TAL_SET_CMD as TALLY_SET writes it: GO with an index. -/
theorem tallySet_written (i : BitVec 14) {w : Wr} (hw : w = s.wr TAL_SET_CMD 0xFFFFFFFF ((i.setWidth 32 : Word).setF TAL_SET_CMD_GO 1)) :
    w.acts TAL_SET_CMD_GO = true ∧ w.act.getF TAL_SET_CMD_IDX = i.toNat := by
  subst hw
  obtain ⟨-, -, act, -⟩ := wr_base s _ _ _ _ 0xFFFFFFFF ((i.setWidth 32 : Word).setF TAL_SET_CMD_GO 1) _ _ _ at_TAL_SET_CMD
  constructor
  · rw [wr_acts at_TAL_SET_CMD _ (by decide) (by decide), getF_setF _ _ _ (by decide)]
    rfl
  · rw [act, getF_and _ _ _ (by decide) (by decide), getF_and _ _ _ (by decide) (by decide),
      getF_setF_ne _ _ _ _ (by decide) (by decide), BitVec.getF, BitVec.toNat_setWidth]
    have := i.isLt
    simp [TAL_SET_CMD_IDX]
    omega

theorem exec_tallySet (ha : s.awake = true) (i : BitVec 14) :
    exec (.tallySet i) s = .next ((s.tallySet true i.toNat).1.done (s.tallySet true i.toNat).2 0 []) := by
  obtain ⟨base, addr, -, -⟩ := wr_base s _ _ _ _ 0xFFFFFFFF ((i.setWidth 32 : Word).setF TAL_SET_CMD_GO 1) _ _ _ at_TAL_SET_CMD
  obtain ⟨go, index⟩ := tallySet_written (s := s) i rfl
  have written : s.unitWrite 0 0 (s.wr TAL_SET_CMD 0xFFFFFFFF ((i.setWidth 32 : Word).setF TAL_SET_CMD_GO 1)) = s.tallySet true i.toNat := by
    rw [unitWrite_tal s 0 0 _ _ addr (by decide), State.writeTal, if_neg (by rw [base]; decide), if_pos base, go, index]
  exact congrArg Host.Outcome.next (regWrite_answers at_TAL_SET_CMD ha (by decide) (by decide) written)

theorem exec_tallyFlushCmd (ha : s.awake = true) : exec .tallyFlushCmd s = .next (s.tallyFlush.done .ok 0 []) := by
  obtain ⟨base, addr, -, -⟩ := wr_base s _ _ _ _ TAL_CMD_FLUSH.mask TAL_CMD_FLUSH.mask _ _ _ at_TAL_CMD
  have acts : (s.wr TAL_CMD TAL_CMD_FLUSH.mask TAL_CMD_FLUSH.mask).acts TAL_CMD_FLUSH = true :=
    (wr_acts at_TAL_CMD _ (by decide) (by decide)).trans (by decide)
  have written : s.unitWrite 0 0 (s.wr TAL_CMD TAL_CMD_FLUSH.mask TAL_CMD_FLUSH.mask) = (s.tallyFlush, .ok) := by
    rw [unitWrite_tal s 0 0 _ _ addr (by decide), State.writeTal, if_pos base, if_pos acts]
  exact congrArg Host.Outcome.next (regWrite_answers at_TAL_CMD ha (by decide) (by decide) written)

theorem tallySet_range {i : Nat} (h : 10436 ≤ i) : s.tallySet true i = (s, .range) := if_pos h

theorem tallySet_access {i : Nat} (h : 10432 ≤ i) (h1 : i < 10436) : s.tallySet true i = (s, .access) := by
  have fixed : tallySettable i = false := by simp [tallySettable, h]
  rw [State.tallySet, if_neg (by rw [tallyCount]; omega), if_neg (by simp), if_pos (by simp [fixed])]

theorem tallySet_sets {i : Nat} (h : i < 10432) : s.tallySet true i = (s.setTally i (s.rg64 TAL_SET_LO), .ok) := by
  have free : tallySettable i = true := by simp [tallySettable, h]
  rw [State.tallySet, if_neg (by rw [tallyCount]; omega), if_neg (by simp), if_neg (by simp [free])]

/-! ## The calendar (R467 to R469) -/

theorem exec_calendarSet (ha : s.awake = true) : exec .calendarSet s = .next (s.calSetCmd.1.done s.calSetCmd.2 0 []) := by
  obtain ⟨base, addr, -, -⟩ := wr_base s _ _ _ _ CAL_CMD_SET.mask CAL_CMD_SET.mask _ _ _ at_CAL_CMD
  have acts : (s.wr CAL_CMD CAL_CMD_SET.mask CAL_CMD_SET.mask).acts CAL_CMD_SET = true :=
    (wr_acts at_CAL_CMD _ (by decide) (by decide)).trans (by decide)
  have written : s.unitWrite 0 0 (s.wr CAL_CMD CAL_CMD_SET.mask CAL_CMD_SET.mask) = s.calSetCmd := by
    rw [unitWrite_tal s 0 0 _ _ addr (by decide), State.writeTal, if_neg (by rw [base]; decide), if_neg (by rw [base]; decide),
      if_neg (by rw [base]; decide), if_neg (by rw [base]; decide), if_neg (by rw [base]; decide), if_pos base, if_pos acts]
  exact congrArg Host.Outcome.next (regWrite_answers at_CAL_CMD ha (by decide) (by decide) written)

theorem calSetCmd_disciplined (h : s.flag CAL_REF_CTL CAL_REF_CTL_DISC_EN = true) : s.calSetCmd = (s, .state) := if_pos h

theorem calSetCmd_sets (h : s.flag CAL_REF_CTL CAL_REF_CTL_DISC_EN = false) {t : State}
    (ht : t = { s with
      cal := (s.fld CAL_SET_HI CAL_SET_HI_SET_HI * 2 ^ 32 + (s.rg CAL_SET_LO).toNat) * fsSecond
      calErr := 0
      calSet := true }) : s.calSetCmd = (t.calAdjust.calCheck.calHold, .ok) := by
  subst ht
  exact if_neg (Bool.eq_false_iff.1 h)

theorem calAdjustDue_iff : s.calAdjustDue = true ↔ s.leapsAt s.calSec ≠ s.leapNow ∨ s.offsetAt s.calSec ≠ s.offsetNow := by
  simp [State.calAdjustDue]

theorem calCheck_same (h : s.flag CAL_STAT CAL_STAT_VALID = s.calValid) : s.calCheck = s := if_pos h

section
variable {t : State} (ht : t = (s.setFlag CAL_STAT CAL_STAT_VALID s.calValid).raise 1784 (b2n s.calValid))
include ht

theorem calCheck_rises (h : s.flag CAL_STAT CAL_STAT_VALID = false) (hv : s.calValid = true) :
    s.calCheck = ({ (t.faultEnd fltCalInvalid 0) with noDateOn := false } : State).faultEnd fltNoDate 0 := by
  subst ht
  exact (if_neg (by simp [h, hv])).trans (if_pos hv)

theorem calCheck_falls (h : s.flag CAL_STAT CAL_STAT_VALID = true) (hv : s.calValid = false) :
    s.calCheck = t.faultRaise fltCalInvalid 0 0 0 := by
  subst ht
  exact (if_neg (by simp [h, hv])).trans (if_neg (Bool.eq_false_iff.1 hv))

end

/-! ## Gap records (R472) -/

theorem readRegs_gap_none (h : s.gaps = []) : s.readRegs (JNL_GAP 0) 8 = (s, List.replicate 8 0) := by
  have stays : s.gaps.drop 1 = s.gaps := by rw [h]; rfl
  have kept : s.gapPop = s := congrArg (fun g => ({ s with gaps := g } : State)) stays
  rw [gap_read, kept, h]
  rfl

theorem readRegs_gap_some {g : GapRec} {gs : List GapRec} (h : s.gaps = g :: gs) :
    s.readRegs (JNL_GAP 0) 8 = ({ s with gaps := gs }, g.words) := by
  have dropped : s.gaps.drop 1 = gs := by rw [h]; rfl
  have popped : s.gapPop = { s with gaps := gs } := congrArg (fun r => ({ s with gaps := r } : State)) dropped
  rw [gap_read, popped, h]
  rfl

end

end Sys2Proof.Machine
end

