-- ==== Sys2Proof/Proofs/Store.lean ====
section
/-! SUPPORT. Stored configurations: the operations of STORE_CONFIG and the recall of a slot (R473, R474). -/

namespace Sys2Proof.Machine

/-! ## The records -/

section
variable {r u : State} {fl : Flight} {st : Status}

theorem runOp_storeConfig (ho : fl.cmd.opcode = 0x60) (hq : r.storeConfig fl.cmd.arg fl.cmd.body = (u, st)) :
    r.runOp fl = (u.mirrorCmd fl.session fl.cmd st).complete fl none st 0 [] := by
  rw [runOp_60 _ _ ho, hq]

theorem runOp_recallConfig (ho : fl.cmd.opcode = 0x61) {result : Nat} {bs : List Byte}
    (hq : r.recallConfig fl.cmd.arg = (u, ends st result bs)) :
    r.runOp fl = (u.mirrorCmd fl.session fl.cmd st).complete fl none st result bs := by
  rw [runOp_61 _ _ ho, hq]
  rfl

variable {s : State} {h : CmdHead} {arg : BitVec 32} {body : List Byte} {c : CmdRec} {a : Nat} {i : Instr}

/-- A STORE_CONFIG record that runs on arrival. -/
theorem storeConfig_runs (ha : arg.toNat = a) (hc : c = h.record 0x60 a body) (hh : s.hears h c = true) (hr : r = s.heard h c)
    (hi : exec i s = .next (s.command h 0x60 arg body)) (hq : r.storeConfig a body = (u, st)) :
    exec i s = .next (u.ended (s.flightOf h c) st 0 []) := by
  subst ha hc hr
  rw [hi, command_runs s h 0x60 arg body hh, runOp_storeConfig rfl hq]
  rfl

/-- A RECALL_CONFIG record that runs on arrival. -/
theorem recallConfig_runs (ha : arg.toNat = a) (hc : c = h.record 0x61 a body) (hh : s.hears h c = true) (hr : r = s.heard h c)
    {result : Nat} {bs : List Byte} (hq : r.recallConfig a = (u, ends st result bs)) :
    exec (.recallConfig h arg body) s = .next (u.ended (s.flightOf h c) st result bs) := by
  subst ha hc hr
  rw [show exec (.recallConfig h arg body) s = .next (s.command h 0x61 arg body) from rfl, command_runs s h 0x61 arg body hh, runOp_recallConfig rfl hq]
  rfl

end

/-! ## STORE_CONFIG (R473) -/

/-- The argument of each operation on a slot. -/
theorem storeArg (slot : BitVec 4) : (slot.setWidth 32).toNat = slot.toNat ∧ (slot.setWidth 32 ||| 0x100 : BitVec 32).toNat = 0x100 + slot.toNat ∧
    (slot.setWidth 32 ||| 0x200 : BitVec 32).toNat = 0x200 + slot.toNat ∧
    (slot.setWidth 32 ||| 0x300 : BitVec 32).toNat = 0x300 + slot.toNat ∧
    (slot.setWidth 32 ||| 0x400 : BitVec 32).toNat = 0x400 + slot.toNat ∧
    (slot.setWidth 32 ||| 0x500 : BitVec 32).toNat = 0x500 + slot.toNat := by
  revert slot
  decide

section
variable {r : State} {n : Nat} {body : List Byte}

theorem storeConfig_op {op : Nat} (hn : n < 16) (ho : op ≤ 5) : r.storeConfig (0x100 * op + n) body =
    if op = 0 then r.storeOpen n
    else if op = 1 then r.storeAppend n body
    else if op = 2 then r.storeClose n
    else if op = 3 then r.storeErase n
    else if op = 4 then r.storeLock n
    else if op = 5 then r.storeUnlock n
    else (r, .range) := by
  have slot : (0x100 * op + n) % 16 = n := by omega
  have operation : bitsOf (0x100 * op + n) 10 8 = op := by
    simp only [bitsOf]
    omega
  have clean : ¬(bitsOf (0x100 * op + n) 31 11 ≠ 0 ∨ bitsOf (0x100 * op + n) 7 4 ≠ 0) := by
    simp only [bitsOf]
    omega
  rw [State.storeConfig, if_neg clean, slot, operation]

theorem storeConfig_open (hn : n < 16) : r.storeConfig n body = r.storeOpen n := by
  have operation := storeConfig_op (r := r) (body := body) (op := 0) hn (by decide)
  rwa [Nat.mul_zero, Nat.zero_add] at operation

theorem storeAppend_range (h : appendOk body = false) : r.storeAppend n body = (r, .range) := if_pos (by simp [h])

section
variable (h : appendOk body = true)
include h

theorem storeAppend_state (ho : (r.slot n).opened = false) : r.storeAppend n body = (r, .state) :=
  (if_neg (by simp [h])).trans (if_pos (by simp [ho]))

variable (ho : (r.slot n).opened = true)
include ho

theorem storeAppend_nospace (hl : 458752 < (r.slot n).recs.length + (pad4 body).length) : r.storeAppend n body = (r, .nospace) :=
  (if_neg (by simp [h])).trans ((if_neg (by simp [ho])).trans (if_pos hl))

theorem storeAppend_adds (hl : (r.slot n).recs.length + (pad4 body).length ≤ 458752) :
    r.storeAppend n body = (r.setSlot n { r.slot n with recs := (r.slot n).recs ++ pad4 body }, .ok) :=
  (if_neg (by simp [h])).trans ((if_neg (by simp [ho])).trans (if_neg (Nat.not_lt.2 hl)))

end

theorem storeClose_closed (h : (r.slot n).opened = false) : r.storeClose n = (r, .state) := if_neg (Bool.eq_false_iff.1 h)

theorem storeClose_seals (h : (r.slot n).opened = true) :
    r.storeClose n = (r.setSlot n { r.slot n with opened := false, sealCrc := some (crc32c (r.slot n).recs) }, .ok) := if_pos h

/-! ## RECALL_CONFIG (R474) -/

theorem recallConfig_range {a : Nat} (ha : a < 2 ^ 32) (h : 16 ≤ a) : r.recallConfig a = (r, ends .range 0 []) := by
  refine if_pos ?_
  simp only [bitsOf]
  omega

variable {a : Nat} (ha : a < 16)
include ha

theorem recallConfig_slot : r.recallConfig a = r.recall a := by
  refine if_neg ?_
  simp only [bitsOf]
  omega

theorem recallConfig_unsealed (h : (r.slot a).sealCrc = none) : r.recallConfig a = (r, ends .state 0 []) := by
  rw [recallConfig_slot ha, State.recall, h]

theorem recallConfig_corrupt {k : Nat} (h : (r.slot a).sealCrc = some k) (hk : k ≠ crc32c (r.slot a).recs) :
    r.recallConfig a = (r, ends .crc 0 []) := by
  rw [recallConfig_slot ha, State.recall, h]
  exact if_pos hk

variable (h : (r.slot a).sealCrc = some (crc32c (r.slot a).recs)) {u : State} {n : Nat}
include h

theorem recallConfig_replays
    (hq : r.replayAll (parseRecords (r.slot a).recs.length (r.slot a).recs) 0 = (u, n, none)) :
    r.recallConfig a = (u, ends .ok n []) := by
  rw [recallConfig_slot ha, State.recall, h]
  refine (if_neg (not_not_intro rfl)).trans ?_
  rw [hq]

theorem recallConfig_fails {st : Status} {op : Nat}
    (hq : r.replayAll (parseRecords (r.slot a).recs.length (r.slot a).recs) 0 = (u, n, some (st, op))) :
    r.recallConfig a = (u, ends st n (leBytes 2 n ++ [BitVec.ofNat 8 op, 0])) := by
  rw [recallConfig_slot ha, State.recall, h]
  refine (if_neg (not_not_intro rfl)).trans ?_
  rw [hq]

end

/-- Settles O55: each register by its write, each operation on a slot by the record it makes. -/
theorem talliesCalendarAndStore : Obligations.TalliesCalendarAndStore := by
  unfold Obligations.TalliesCalendarAndStore
  intro s
  refine ⟨fun ha => ⟨fun i => ?tally, fun t ht => ?flush, fun h => ?disciplined, fun h t ht => ?sets, fun h => ?noGap,
      fun g gs h => ?gap⟩, fun leaps ofs hl ho => ?adjust, fun t ht => ?validity, rfl, fun h slot n hn => ?store,
    fun h arg body a c r x ha hc hh hr hx => ?recalls⟩
  case tally =>
    exact ⟨fun h => by rw [exec_tallySet ha, tallySet_range h], fun h h1 => by rw [exec_tallySet ha, tallySet_access h h1],
      fun h => by rw [exec_tallySet ha, tallySet_sets h]⟩
  case flush =>
    subst ht
    exact ⟨next_inRun ha rfl, exec_tallyFlushCmd ha⟩
  case disciplined => rw [exec_calendarSet ha, calSetCmd_disciplined h]
  case sets => rw [exec_calendarSet ha, calSetCmd_sets h ht]
  case noGap =>
    exact next_inRun ha (congrArg (fun q : State × List Word => q.1.done .ok 0 (bytesOfWords q.2)) (readRegs_gap_none h))
  case gap =>
    exact next_inRun ha (congrArg (fun q : State × List Word => q.1.done .ok 0 (bytesOfWords q.2)) (readRegs_gap_some h))
  case adjust =>
    subst hl ho
    refine ⟨fun h1 h2 => congrArg Host.Outcome.next (if_neg (mt calAdjustDue_iff.1 ?_)),
      fun h => congrArg Host.Outcome.next (if_pos (calAdjustDue_iff.2 h))⟩
    rintro (d1 | d2)
    · exact d1 h1
    · exact d2 h2
  case validity =>
    exact ⟨fun h => congrArg Host.Outcome.next (calCheck_same h), fun h hv => congrArg Host.Outcome.next (calCheck_rises ht h hv),
      fun h hv => congrArg Host.Outcome.next (calCheck_falls ht h hv)⟩
  case store =>
    have hs : n < 16 := hn ▸ slot.isLt
    obtain ⟨open_, append, close, erase, lock, unlock⟩ := storeArg slot
    rw [← hn] at open_ append close erase lock unlock
    refine ⟨fun c r hc hh hr => storeConfig_runs open_ hc hh hr rfl (storeConfig_open hs), fun body c r hc hh hr => ?_,
      fun c r hc hh hr => ?_, fun c r hc hh hr => storeConfig_runs erase hc hh hr rfl (storeConfig_op (op := 3) hs (by decide)),
      fun c r hc hh hr => ?_, fun c r hc hh hr => ?_⟩
    · have runs {u st} (hq : r.storeAppend n body = (u, st)) : exec (.storeAppend h slot body) s = .next (u.ended (s.flightOf h c) st 0 []) :=
        storeConfig_runs append hc hh hr rfl ((storeConfig_op (op := 1) hs (by decide)).trans hq)
      exact ⟨fun hb => runs (storeAppend_range hb), fun hb ho => runs (storeAppend_state hb ho),
        fun hb ho hl => runs (storeAppend_nospace hb ho hl), fun hb ho hl => runs (storeAppend_adds hb ho hl)⟩
    · have runs {u st} (hq : r.storeClose n = (u, st)) : exec (.storeClose h slot) s = .next (u.ended (s.flightOf h c) st 0 []) :=
        storeConfig_runs close hc hh hr rfl ((storeConfig_op (op := 2) hs (by decide)).trans hq)
      exact ⟨fun ho => runs (storeClose_closed ho), fun ho => runs (storeClose_seals ho)⟩
    · have runs {u st} (hq : r.storeLock n = (u, st)) : exec (.storeLock h slot) s = .next (u.ended (s.flightOf h c) st 0 []) :=
        storeConfig_runs lock hc hh hr rfl ((storeConfig_op (op := 4) hs (by decide)).trans hq)
      exact ⟨fun hz => runs (if_pos hz), fun hz ha => runs ((if_neg (not_not_intro hz)).trans (if_pos ha)),
        fun hz ha => runs ((if_neg (not_not_intro hz)).trans (if_neg ha))⟩
    · have runs {u st} (hq : r.storeUnlock n = (u, st)) : exec (.storeUnlock h slot) s = .next (u.ended (s.flightOf h c) st 0 []) :=
        storeConfig_runs unlock hc hh hr rfl ((storeConfig_op (op := 5) hs (by decide)).trans hq)
      exact ⟨fun hz => runs (if_pos hz), fun hz => runs (if_neg (not_not_intro hz))⟩
  case recalls =>
    subst hx
    have runs {u st n bs} (hq : r.recallConfig a = (u, ends st n bs)) :
        exec (.recallConfig h arg body) s = .next (u.ended (s.flightOf h c) st n bs) :=
      recallConfig_runs ha.symm hc hh hr hq
    have small : a < 2 ^ 32 := ha ▸ arg.isLt
    exact ⟨fun h16 => runs (recallConfig_range small h16), fun h16 hx => runs (recallConfig_unsealed h16 hx),
      fun k h16 hx hk => runs (recallConfig_corrupt h16 hx hk),
      fun u n h16 hx => ⟨fun hq => runs (recallConfig_replays h16 hx hq), fun st op hq => runs (recallConfig_fails h16 hx hq)⟩⟩

end Sys2Proof.Machine
end
